-- ==== Sys2Proof/Word.lean ====
section
/-!
DEFINITION. The word types of the block and their plainest arithmetic. Bit vectors hold what the spec treats as bits:
register contents, memory bytes, operand fields. Counts, sizes and addresses used as keys are natural numbers.
-/

namespace Sys2Proof

/-- A byte of memory. -/
abbrev Byte := BitVec 8
/-- A lane register or data-memory word (Table LANE-1). -/
abbrev Half := BitVec 16
/-- A device register word (R10). -/
abbrev Word32 := BitVec 32
/-- A core register (R81). -/
abbrev Word64 := BitVec 64
/-- A lane accumulator. -/
abbrev Acc := BitVec 40

/-- Application core C0 to C31 (Table SCOPE-1). -/
abbrev CoreId := Fin 32
/-- Control lane LN0 to LN63. -/
abbrev LaneId := Fin 64
/-- Lane group LG0 to LG3. -/
abbrev GroupId := Fin 4
/-- Cluster CL0 to CL7. -/
abbrev ClusterId := Fin 8
/-- Seat 0 to seat 15. -/
abbrev Seat := Fin 16

end Sys2Proof
end

