-- ==== Sys2Proof/Syntax.lean ====
section
/-!
DEFINITION. The commands of the block: one constructor of `Instr` per row of spec/opcode_table.json, with the row's
operands. A core or lane instruction is the command "core k (lane n) executes this instruction now"; an event row is
the command "this event happens now". What the outside decides (an upset of stored bits, a response that comes or
does not come, a measured value) is an operand.
-/

namespace Sys2Proof

/-- What the check bits say of the bits that a step reads: nothing, a single-bit error, a double-bit error, a tag
parity error (Table CACHE-3) or a TLB parity error (R235). -/
inductive Upset where
  | none | single | double | tag | tlb
  deriving DecidableEq, Repr

/-- Issue of a conditional core instruction (cond 0x0 to 0xE, Table ISA-4): the core, its condition field, and whether
a register read finds a parity error (R174). -/
structure Issue where
  core : CoreId
  cond : Fin 15
  par : Bool
  deriving DecidableEq, Repr

/-- Issue of an XT instruction (cond 0xF, R92). -/
structure XIssue where
  core : CoreId
  par : Bool
  deriving DecidableEq, Repr

/-- Fields of the register format (Table ISA-3). -/
structure RArgs where
  rd : Fin 32
  rs1 : Fin 32
  rs2 : Fin 32
  fn : BitVec 7
  deriving DecidableEq, Repr

/-- Fields of the immediate format (Table ISA-3). -/
structure IArgs where
  rd : Fin 32
  rs1 : Fin 32
  imm : BitVec 12
  deriving DecidableEq, Repr

/-- Fields of the branch format (Table ISA-3). -/
structure BArgs where
  h : Bool
  disp : BitVec 21
  deriving DecidableEq, Repr

/-- The two sections of the long-operation unit (R134). -/
inductive LongSection where
  | int | fp
  deriving DecidableEq, Repr

/-- How the target of a sent request answers: it completes the access, or it answers with an error response. -/
inductive Answer where
  | ok | error
  deriving DecidableEq, Repr

/-- Issue of a lane instruction: the lane, whether a field that the instruction does not use is nonzero (R354), what the
check bits say of the program word (R379), and whether it executes in the lane cycle of the lane instruction before it. -/
structure LIssue where
  lane : LaneId
  junk : Bool
  pm : Upset
  same : Bool
  deriving DecidableEq, Repr

/-- A watchdog (R438): of a core, or of a seat. -/
inductive Wdog where
  | core (n : CoreId)
  | seat (n : Seat)
  deriving DecidableEq, Repr

/-- An operation that asks for Toll Gate tokens (Table PWR-7). -/
inductive TokenOp where
  | core (n : CoreId)
  | lane (n : LaneId)
  | cluster (n : ClusterId)
  deriving DecidableEq, Repr

/-- A UCL cell (Tables UCL-1 and UCL-2); its CRC is the operand of the command that brings it. -/
structure Cell where
  type : Fin 16
  first : Bool
  last : Bool
  bcast : Bool
  nak : Bool
  dst : BitVec 12
  dseat : Seat
  src : BitVec 12
  sseat : Seat
  txseq : BitVec 16
  ack : BitVec 16
  tag : BitVec 16
  payload : List Byte
  deriving DecidableEq, Repr

/-- A flit (R311, R318): virtual network (0 REQ, 1 FWD, 2 RSP, 3 MGT), guaranteed class, stamped seat, slot of injection
counted from any origin, header or payload, target number, protection mode of its packet, poison, and what its check
bits say. -/
structure Flit where
  vn : Fin 4
  guar : Bool
  seat : Seat
  inj : Nat
  head : Bool
  tgt : BitVec 8
  e2e : Bool
  poison : Bool
  err : Upset
  deriving DecidableEq, Repr

/-- Who sends a WCI message (R504): a seat on its mailbox, a device over UCL, a peer of ETHM. -/
inductive Peer where
  | mailbox (seat : Seat)
  | ucl (dev : BitVec 12)
  | ethm (n : Fin 4)
  deriving DecidableEq, Repr

/-- What a peer returns in the second step of AUTH (R505): the key slot and key it signs with, its X448 value, its signature. -/
structure AuthReply where
  slot : Fin 16
  key : List Byte
  value : List Byte
  sig : List Byte
  deriving DecidableEq, Repr

/-- A signature with the key slot and the key that it is made under. -/
structure Signed where
  slot : Fin 16
  key : List Byte
  sig : List Byte
  deriving DecidableEq, Repr

/-- A signed debug request (R586), with the key slot and the key. -/
structure DbgRequest where
  slot : Fin 16
  key : List Byte
  serial : BitVec 64
  mask : BitVec 16
  rights : BitVec 8
  minutes : BitVec 16
  sig : List Byte
  deriving DecidableEq, Repr

/-- A message on a safe channel (R515, Table WCI-7): source and destination device and seat, channel identifier, sequence number,
system time and data. -/
structure SafeMsg where
  srcDev : BitVec 12
  srcSeat : Seat
  dstDev : BitVec 12
  dstSeat : Seat
  id : BitVec 16
  seq : BitVec 32
  time : BitVec 64
  data : List Byte
  deriving DecidableEq, Repr

/-- A register that WCI LGWRITE writes (R372, R373). -/
inductive LgReg where
  | sync | ctl | load | stop
  deriving DecidableEq, Repr

/-- A source of trace units (R602): the FIFO of a core, or the stimulus FIFO of a seat. -/
inductive TraceSource where
  | core (n : CoreId)
  | stim (n : Seat)
  deriving DecidableEq, Repr

/-- The commands, in the order of spec/opcode_table.json. -/
inductive Instr where
  /-- Core ALU instruction writes rs1 + rs2 to rd and, with S = 1, sets NZCV. `ADD` (R93) -/
  | add (i : Issue) (a : RArgs)
  /-- Core ALU instruction writes rs1 - rs2 to rd and, with S = 1, sets NZCV. `SUB` (R93) -/
  | sub (i : Issue) (a : RArgs)
  /-- Core ALU instruction adds rs1, rs2 and the carry flag. `ADDC` (R93) -/
  | addc (i : Issue) (a : RArgs)
  /-- Core ALU instruction subtracts rs2 and the borrow from rs1. `SUBC` (R93) -/
  | subc (i : Issue) (a : RArgs)
  /-- Core ALU instruction writes the bitwise AND of rs1 and rs2. `AND` (R93) -/
  | and (i : Issue) (a : RArgs)
  /-- Core ALU instruction writes the bitwise OR of rs1 and rs2. `OR` (R93) -/
  | or (i : Issue) (a : RArgs)
  /-- Core ALU instruction writes the bitwise XOR of rs1 and rs2. `XOR` (R93) -/
  | xor (i : Issue) (a : RArgs)
  /-- Core ALU instruction writes rs1 AND NOT rs2. `ANDN` (R93) -/
  | andn (i : Issue) (a : RArgs)
  /-- Core ALU instruction shifts rs1 left by rs2[5:0]. `SHL` (R93) -/
  | shl (i : Issue) (a : RArgs)
  /-- Core ALU instruction shifts rs1 logically right by rs2[5:0]. `SHR` (R93) -/
  | shr (i : Issue) (a : RArgs)
  /-- Core ALU instruction shifts rs1 arithmetically right by rs2[5:0]. `SRA` (R93) -/
  | sra (i : Issue) (a : RArgs)
  /-- Core ALU instruction rotates rs1 right by rs2[5:0]. `ROR` (R93) -/
  | ror (i : Issue) (a : RArgs)
  /-- Core ALU instruction writes the signed minimum of rs1 and rs2. `MIN` (R93) -/
  | min (i : Issue) (a : RArgs)
  /-- Core ALU instruction writes the signed maximum of rs1 and rs2. `MAX` (R93) -/
  | max (i : Issue) (a : RArgs)
  /-- Core ALU instruction writes the unsigned minimum of rs1 and rs2. `MINU` (R93) -/
  | minu (i : Issue) (a : RArgs)
  /-- Core ALU instruction writes the unsigned maximum of rs1 and rs2. `MAXU` (R93) -/
  | maxu (i : Issue) (a : RArgs)
  /-- Core ALU instruction writes the count of leading zeros of rs1. `CLZ` (R93) -/
  | clz (i : Issue) (a : RArgs)
  /-- Core ALU instruction writes the count of set bits of rs1. `POPC` (R93) -/
  | popc (i : Issue) (a : RArgs)
  /-- Core ALU instruction sign-extends rs1 from 8 bits. `SEXTB` (R93) -/
  | sextb (i : Issue) (a : RArgs)
  /-- Core ALU instruction sign-extends rs1 from 16 bits. `SEXTH` (R93) -/
  | sexth (i : Issue) (a : RArgs)
  /-- Core ALU instruction sign-extends rs1 from 32 bits. `SEXTW` (R93) -/
  | sextw (i : Issue) (a : RArgs)
  /-- Core ALU instruction reverses the bytes of rs1. `BSWAP` (R93) -/
  | bswap (i : Issue) (a : RArgs)
  /-- Core ALU instruction adds the low halves and sign-extends the 32-bit result. `ADDW` (R93) -/
  | addw (i : Issue) (a : RArgs)
  /-- Core ALU instruction subtracts the low halves and sign-extends the 32-bit result. `SUBW` (R93) -/
  | subw (i : Issue) (a : RArgs)
  /-- Core ALU instruction shifts the low half left by rs2[4:0] and sign-extends. `SHLW` (R93) -/
  | shlw (i : Issue) (a : RArgs)
  /-- Core ALU instruction shifts the low half logically right and sign-extends. `SHRW` (R93) -/
  | shrw (i : Issue) (a : RArgs)
  /-- Core ALU instruction shifts the low half arithmetically right and sign-extends. `SRAW` (R93) -/
  | sraw (i : Issue) (a : RArgs)
  /-- Core instruction writes rs1 plus the sign-extended imm12. `ADDI` (R94) -/
  | addi (i : Issue) (a : IArgs)
  /-- Core instruction ANDs rs1 with the zero-extended imm12. `ANDI` (R94) -/
  | andi (i : Issue) (a : IArgs)
  /-- Core instruction ORs rs1 with the zero-extended imm12. `ORI` (R94) -/
  | ori (i : Issue) (a : IArgs)
  /-- Core instruction XORs rs1 with the zero-extended imm12. `XORI` (R94) -/
  | xori (i : Issue) (a : IArgs)
  /-- Core instruction shifts or rotates rs1 by an immediate amount in 64- or 32-bit form. `SHI` (R94) -/
  | shi (i : Issue) (a : IArgs)
  /-- Core instruction sets NZCV from rs1 minus the sign-extended imm12. `CMPI` (R94) -/
  | cmpi (i : Issue) (a : IArgs)
  /-- Core instruction writes (rs1 << 12) OR imm12. `LSI` (R94) -/
  | lsi (i : Issue) (a : IArgs)
  /-- Signed 64x64 multiply into MDH:MDL, visible to MFMD 4 core cycles after issue. `MUL` (R95) -/
  | mul (i : Issue) (a : RArgs)
  /-- Unsigned 64x64 multiply into MDH:MDL. `MULU` (R95) -/
  | mulu (i : Issue) (a : RArgs)
  /-- Accumulates four signed 16x16 products into MDA. `MAC16` (R96) -/
  | mac16 (i : Issue) (a : RArgs)
  /-- Accumulates four unsigned 16x16 products into MDA. `MACU16` (R96) -/
  | macu16 (i : Issue) (a : RArgs)
  /-- Reads MDH into rd, returning old or new value per write timing. `MFMD_H` (R95) -/
  | mfmdH (i : Issue) (a : RArgs) (inFlight : Fin 5)
  /-- Reads MDL into rd. `MFMD_L` (R95) -/
  | mfmdL (i : Issue) (a : RArgs) (inFlight : Fin 5)
  /-- Reads MDA into rd. `MFMD_A` (R95) -/
  | mfmdA (i : Issue) (a : RArgs) (inFlight : Fin 5)
  /-- Writes rs1 into MDH. `MTMD_H` (R95) -/
  | mtmdH (i : Issue) (a : RArgs)
  /-- Writes rs1 into MDL. `MTMD_L` (R95) -/
  | mtmdL (i : Issue) (a : RArgs)
  /-- Writes rs1 into MDA. `MTMD_A` (R95) -/
  | mtmdA (i : Issue) (a : RArgs)
  /-- Starts a signed integer divide in the long-operation unit; a zero divisor later raises divide by zero. `DIV` (R98) -/
  | div (i : Issue) (a : RArgs)
  /-- Starts an unsigned integer divide in the long-operation unit. `DIVU` (R98) -/
  | divu (i : Issue) (a : RArgs)
  /-- Starts a signed remainder in the long-operation unit. `REM` (R98) -/
  | rem (i : Issue) (a : RArgs)
  /-- Starts an unsigned remainder in the long-operation unit. `REMU` (R98) -/
  | remu (i : Issue) (a : RArgs)
  /-- Starts a binary32 division in the floating-point long-operation section. `FDIV_S` (R97) -/
  | fdivS (i : Issue) (a : RArgs)
  /-- Starts a binary32 square root in the floating-point long-operation section. `FSQRT_S` (R97) -/
  | fsqrtS (i : Issue) (a : RArgs)
  /-- Starts a binary64 division in the floating-point long-operation section. `FDIV_D` (R97) -/
  | fdivD (i : Issue) (a : RArgs)
  /-- Starts a binary64 square root in the floating-point long-operation section. `FSQRT_D` (R97) -/
  | fsqrtD (i : Issue) (a : RArgs)
  /-- A long operation finishes, writes rd and raises any imprecise exception at the next retirement boundary. `LONG_OP_COMPLETE` (R135) -/
  | longOpComplete (k : CoreId) (sec : LongSection)
  /-- IEEE floating-point addition in the selected format. `FADD` (R99) -/
  | fadd (i : Issue) (a : RArgs)
  /-- IEEE floating-point subtraction. `FSUB` (R99) -/
  | fsub (i : Issue) (a : RArgs)
  /-- IEEE floating-point multiplication. `FMUL` (R99) -/
  | fmul (i : Issue) (a : RArgs)
  /-- IEEE minimumNumber of rs1 and rs2. `FMIN` (R99) -/
  | fmin (i : Issue) (a : RArgs)
  /-- IEEE maximumNumber of rs1 and rs2. `FMAX` (R99) -/
  | fmax (i : Issue) (a : RArgs)
  /-- Writes the absolute value of rs1 without raising flags. `FABS` (R99) -/
  | fabs (i : Issue) (a : RArgs)
  /-- Writes the negation of rs1 without raising flags. `FNEG` (R99) -/
  | fneg (i : Issue) (a : RArgs)
  /-- Sets NZCV from a floating-point comparison of rs1 and rs2. `FCMP` (R99) -/
  | fcmp (i : Issue) (a : RArgs)
  /-- Converts a floating-point value to a signed 64-bit integer toward zero. `FCVT_L` (R99) -/
  | fcvtL (i : Issue) (a : RArgs)
  /-- Converts a signed 64-bit integer to the selected floating-point format. `FCVT_F` (R99) -/
  | fcvtF (i : Issue) (a : RArgs)
  /-- Converts between binary32 and binary64. `FCVT_X` (R99) -/
  | fcvtX (i : Issue) (a : RArgs)
  /-- Loads a sign-extended byte from sext(imm12) + rs1. `LDB` (R150) -/
  | ldb (i : Issue) (a : IArgs) (u : Upset)
  /-- Loads a zero-extended byte. `LDBU` (R150) -/
  | ldbu (i : Issue) (a : IArgs) (u : Upset)
  /-- Loads a sign-extended halfword. `LDH` (R150) -/
  | ldh (i : Issue) (a : IArgs) (u : Upset)
  /-- Loads a zero-extended halfword. `LDHU` (R150) -/
  | ldhu (i : Issue) (a : IArgs) (u : Upset)
  /-- Loads a sign-extended word. `LDW` (R150) -/
  | ldw (i : Issue) (a : IArgs) (u : Upset)
  /-- Loads a zero-extended word. `LDWU` (R150) -/
  | ldwu (i : Issue) (a : IArgs) (u : Upset)
  /-- Loads a doubleword. `LDD` (R150) -/
  | ldd (i : Issue) (a : IArgs) (u : Upset)
  /-- Stores a byte of rd. `STB` (R150) -/
  | stb (i : Issue) (a : IArgs)
  /-- Stores a halfword of rd. `STH` (R150) -/
  | sth (i : Issue) (a : IArgs)
  /-- Stores a word of rd. `STW` (R150) -/
  | stw (i : Issue) (a : IArgs)
  /-- Stores a doubleword of rd. `STD` (R150) -/
  | std (i : Issue) (a : IArgs)
  /-- Indexed or post-increment load or store selected by fn. `LDST` (R100) -/
  | ldst (i : Issue) (a : RArgs) (u : Upset)
  /-- Loads from rs1 and sets the core's reservation on its 64-byte granule. `LDX` (R114) -/
  | ldx (i : Issue) (a : RArgs) (u : Upset)
  /-- Stores rs2 if the reservation holds and reports success in rd; clears the reservation. `STX` (R297) -/
  | stx (i : Issue) (a : RArgs)
  /-- Atomically exchanges memory at rs1 with rs2. `SWAP` (R116) -/
  | swap (i : Issue) (a : RArgs) (u : Upset) (mp : Option (BitVec 14))
  /-- Atomically adds rs2 to memory at rs1 and returns the old value. `ADDA` (R116) -/
  | adda (i : Issue) (a : RArgs) (u : Upset) (mp : Option (BitVec 14))
  /-- Copies one element from [rs1] to [rd] and advances both pointers. `MCPY` (R101) -/
  | mcpy (i : Issue) (a : RArgs) (u : Upset)
  /-- PC-relative branch, conditional on cond. `B` (R108) -/
  | b (i : Issue) (a : BArgs)
  /-- Advances the window, saves the link and branches PC-relative. `CALL` (R110) -/
  | call (i : Issue) (a : BArgs)
  /-- Jumps to rs1 + sext(imm12) and writes the next address to rd. `JMPL` (R109) -/
  | jmpl (i : Issue) (a : IArgs)
  /-- Register-indirect call that advances the window and saves the link. `CALLR` (R110) -/
  | callr (i : Issue) (a : IArgs)
  /-- Returns to G10, restores the link and retreats the window. `RETW` (R111) -/
  | retw (i : Issue) (a : RArgs)
  /-- Repeats the next instruction a counted number of times from the repeat latch. `REP` (R103) -/
  | rep (i : XIssue) (a : IArgs)
  /-- Reads a control register into rd. `MFC` (R117) -/
  | mfc (i : XIssue) (a : IArgs)
  /-- Writes rs1 into a control register, subject to level checks. `MTC` (R85) -/
  | mtc (i : XIssue) (a : IArgs)
  /-- Waits until earlier accesses of its type are performed at its scope before later ones are sent. `BAR` (R290) -/
  | bar (i : XIssue) (a : RArgs)
  /-- Waits for every earlier long operation to complete. `LBAR` (R98) -/
  | lbar (i : XIssue) (a : RArgs)
  /-- Discards every instruction fetched after it and fetches again. `ISYNC` (R148) -/
  | isync (i : XIssue) (a : RArgs)
  /-- Spills every resident window except the current one. `FLUSHW` (R113) -/
  | flushw (i : XIssue) (a : RArgs) (mp : Option (BitVec 14))
  /-- Spills every resident window including the current one. `FLUSHW_A` (R113) -/
  | flushwA (i : XIssue) (a : RArgs) (mp : Option (BitVec 14))
  /-- Saves the outgoing context, clears the core and resumes the incoming seat's context. `SWSEAT` (R122) -/
  | swseat (i : XIssue) (a : RArgs) (mp : Option (BitVec 14))
  /-- Restores PC, level and interrupt enable from EPC, PPL and PIE, or chains into a pending event. `RETI` (R186) -/
  | reti (i : XIssue) (a : RArgs)
  /-- Raises a system-call exception carrying imm12. `TRAP` (R118) -/
  | trap (i : XIssue) (a : IArgs)
  /-- Raises a breakpoint exception or halts the core under debug. `BRK` (R118) -/
  | brk (i : XIssue) (a : IArgs)
  /-- Places the core in C1, C2 or C3 per PWC.CCTL.DEPTH. `WAIT` (R119) -/
  | wait (i : XIssue) (a : RArgs)
  /-- Cleans the line containing rs1. `CMO_CLN` (R261) -/
  | cmoCln (i : XIssue) (a : RArgs)
  /-- Cleans then removes every copy of the line. `CMO_CIV` (R261) -/
  | cmoCiv (i : XIssue) (a : RArgs)
  /-- Removes every copy of the line without writing back. `CMO_INV` (R261) -/
  | cmoInv (i : XIssue) (a : RArgs)
  /-- Brings the line into the cluster's L2 without allocating in L1. `CMO_FILL` (R261) -/
  | cmoFill (i : XIssue) (a : RArgs)
  /-- Cleans each line of a byte range, updating rs1 and rs2 per line. `CMO_CLN_R` (R263) -/
  | cmoClnR (i : XIssue) (a : RArgs)
  /-- Cleans and removes each line of a byte range. `CMO_CIV_R` (R263) -/
  | cmoCivR (i : XIssue) (a : RArgs)
  /-- Removes each line of a byte range without writing back. `CMO_INV_R` (R263) -/
  | cmoInvR (i : XIssue) (a : RArgs)
  /-- Fills each line of a byte range into the L2. `CMO_FILL_R` (R263) -/
  | cmoFillR (i : XIssue) (a : RArgs)
  /-- Cleans and removes every line in the seat's ways of the cluster. `CIV_SEAT` (R261) -/
  | civSeat (i : XIssue) (a : RArgs)
  /-- Invalidates the issuing core's L1I, L1D and victim cache. `INV_L1` (R261) -/
  | invL1 (i : XIssue) (a : RArgs)
  /-- Removes every TLB entry of the seat on this core. `TLB_INV_ALL` (R236) -/
  | tlbInvAll (i : XIssue) (a : RArgs)
  /-- Removes non-global entries with the given ASID. `TLB_INV_ASID` (R236) -/
  | tlbInvAsid (i : XIssue) (a : RArgs)
  /-- Removes entries covering a virtual address under the current ASID and global ones. `TLB_INV_VA` (R236) -/
  | tlbInvVa (i : XIssue) (a : RArgs)
  /-- Removes entries covering a virtual address under any ASID. `TLB_INV_VAA` (R236) -/
  | tlbInvVaa (i : XIssue) (a : RArgs)
  /-- Performs an invalidation on every core that may hold the seat's entries and waits for acknowledgement. `TLB_INV_BROADCAST` (R238) -/
  | tlbInvBroadcast (i : XIssue) (a : RArgs)
  /-- Walks an address as a load and pins the result in the data TLB. `PIN_D` (R237) -/
  | pinD (i : XIssue) (a : RArgs)
  /-- Walks an address as a fetch and pins the result in the instruction TLB. `PIN_I` (R237) -/
  | pinI (i : XIssue) (a : RArgs)
  /-- Makes every pinned entry of the seat on this core ordinary. `UNPIN` (R236) -/
  | unpin (i : XIssue) (a : RArgs)
  /-- Returns the translation of an address without raising a fault. `PROBE` (R237) -/
  | probe (i : XIssue) (a : RArgs)
  /-- Writes a translation register and refetches younger instructions. `TWR` (R221) -/
  | twr (i : XIssue) (a : RArgs)
  /-- Reads a translation register into rd. `TRD` (R236) -/
  | trd (i : XIssue) (a : RArgs)
  /-- Feeds bytes of rs2 into a running CRC value. `CRC` (R121) -/
  | crc (i : XIssue) (a : RArgs) (mp : Option (BitVec 14))
  /-- Runs a seat-bound customer micro-routine from MCS.CXENT. `CUSTOMER_INSTRUCTION` (R210) -/
  | customerInstruction (i : XIssue) (op : Fin 8) (a : RArgs) (mp : Option (BitVec 14))
  /-- A customer routine that does not reach END within CYC micro-cycles is abandoned. `CUSTOMER_ROUTINE_TIMEOUT` (R211) -/
  | customerRoutineTimeout (k : CoreId)
  /-- An event waiting on a micro-routine is taken at its next micro-trap point, saving micro-state. `MICRO_TRAP` (R201) -/
  | microTrap (k : CoreId)
  /-- MCS rewrites a faulty patch or customer replica word from the master copy. `REPLICA_REWRITE` (R198) -/
  | replicaRewrite (cl : ClusterId) (word : BitVec 14)
  /-- A write of MCS.WADDR commits WDATA to the master copy and all replicas. `MCS_WORD_WRITE` (R197) -/
  | mcsWordWrite (by_ : Seat) (value : Word32)
  /-- A signalled interrupt is taken at a retirement boundary through the entry sequence. `INTERRUPT_ENTRY` (R181) -/
  | interruptEntry (k : CoreId)
  /-- A pending asynchronous store bus error is taken when R179 allows. `ASYNC_BUS_ERROR_ENTRY` (R304) -/
  | asyncBusErrorEntry (k : CoreId)
  /-- A held seat-switch event enters the trap window at Monitor level. `SEAT_SWITCH_ENTRY` (R192) -/
  | seatSwitchEntry (k : CoreId)
  /-- The spill engine stores the oldest resident window when fewer than 2 windows are free. `WINDOW_SPILL` (R112) -/
  | windowSpill (k : CoreId)
  /-- A fill loads the record at WSPILL into the window below the oldest resident one. `WINDOW_FILL` (R112) -/
  | windowFill (k : CoreId)
  /-- A retired store leaves the store buffer towards its target. `STORE_BUFFER_DRAIN` (R282) -/
  | storeBufferDrain (k : CoreId) (n : Nat) (answered : Bool)
  /-- Data of an outstanding load arrives and is written to rd. `LOAD_RESPONSE` (R151) -/
  | loadResponse (k : CoreId) (r : Answer) (u : Upset)
  /-- An error response to a store makes it performed and pends an asynchronous bus error. `STORE_ERROR_RESPONSE` (R304) -/
  | storeErrorResponse (k : CoreId) (n : Nat)
  /-- The pair comparator detects a retired-result difference and stops the pair. `LOCKSTEP_MISMATCH` (R168) -/
  | lockstepMismatch (pair : Fin 16) (kind : BitVec 4)
  /-- A deterministic-mode access not answered by its stated cycle stalls and reports an overrun. `DM_ACCESS_OVERRUN` (R157) -/
  | dmAccessOverrun (k : CoreId) (excess : BitVec 20)
  /-- A performance counter wraps, setting PMOVF and optionally raising its source. `PERF_COUNTER_OVERFLOW` (R171) -/
  | perfCounterOverflow (k : CoreId) (ctr : Fin 6)
  /-- A write of 1 to SEAT.LOCK.LOCK starts the seat consistency check. `SEAT_LOCK_WRITE` (R33) -/
  | seatLockWrite (by_ : Seat)
  /-- The seat lock check ends, setting LOCK or recording the first failure. `SEAT_LOCK_CHECK_DONE` (R33) -/
  | seatLockCheckDone
  /-- An input edge at a capture unit records the device time. `TBS_CAPTURE` (R45) -/
  | tbsCapture (n : Fin 32) (rising : Bool)
  /-- Device time reaches a compare unit's time and the unit pulses or toggles. `TBS_COMPARE_MATCH` (R46) -/
  | tbsCompareMatch (n : Fin 32)
  /-- A new Deal slot begins and its entry is broadcast to all receivers. `SLOT_START` (R55) -/
  | slotStart (u : Upset)
  /-- A write of 1 to DEAL.LOCK.LOCK starts the Deal check. `DEAL_LOCK_WRITE` (R71) -/
  | dealLockWrite (by_ : Seat)
  /-- At the round boundary after a passed check the checked table becomes active and LOCK becomes 1. `DEAL_LOCK_ACTIVATE` (R71) -/
  | dealLockActivate (u : Upset)
  /-- SWSEAT not completed within DEAL.SWLIM stops the core and reports a fault. `SWITCH_OVERRUN` (R69) -/
  | switchOverrun (k : CoreId)
  /-- A router forwards a flit by the precedence order and checks its protection. `FLIT_HOP` (R314) -/
  | flitHop (router : Fin 38) (out : Fin 16) (eject : Bool) (arrivals : List (Fin 16 × Flit))
  /-- A write to FAB.QUENCH stops or resumes REQ injection for seats. `FAB_QUENCH_WRITE` (R317) -/
  | fabQuenchWrite (by_ : Seat) (value : Word32)
  /-- A request waits FAB.DTTMO without a response and the target is marked dead. `DEAD_TARGET_TIMEOUT` (R321) -/
  | deadTargetTimeout (t : BitVec 8)
  /-- Writing DEAD = 1 with ISO = 0 restores a dead target. `TGT_RESTORE` (R324) -/
  | tgtRestore (by_ : Seat) (t : BitVec 8)
  /-- Writing ISO = 1 isolates a target and answers its outstanding requests with errors. `TGT_ISOLATE` (R324) -/
  | tgtIsolate (by_ : Seat) (t : BitVec 8)
  /-- A response from a dead or isolated target is discarded and counted. `LATE_RESPONSE` (R322) -/
  | lateResponse (t : BitVec 8)
  /-- A best-effort or guaranteed request arrives at a DRAM controller port. `DMC_REQUEST` (R337) -/
  | dmcRequest (c : Fin 4) (port : Fin 16) (seat : Seat) (pa : BitVec 48) (write guar : Bool) (hint : Fin 4)
  /-- A best-effort request's age crosses an urgency threshold and it climbs the ladder. `URGENCY_ESCALATION` (R338) -/
  | urgencyEscalation (c : Fin 4) (i : Nat)
  /-- With no refresh run in the table the controller refreshes on its own interval. `DMC_SELF_REFRESH` (R342) -/
  | dmcSelfRefresh (c : Fin 4) (postpone : Bool)
  /-- An open row with no further hit is closed after the idle timeout. `ROW_IDLE_CLOSE` (R336) -/
  | rowIdleClose (c : Fin 4) (bank : Nat)
  /-- The controller drains its write queue when its drain conditions hold. `WRITE_QUEUE_DRAIN` (R340) -/
  | writeQueueDrain (c : Fin 4) (u : Upset)
  /-- Every 1 ms the controller reads DIMM temperatures and adjusts refresh. `DMC_TEMP_READ` (R343) -/
  | dmcTempRead (c : Fin 4) (t0 t1 : BitVec 8)
  /-- The patrol scrub reads the next line of the channel. `DMC_SCRUB_READ` (R349) -/
  | dmcScrubRead (c : Fin 4) (u : Upset)
  /-- A write that raised a device CRC alert is replayed from the write queue. `CRC_ALERT_REPLAY` (R348) -/
  | crcAlertReplay (c : Fin 4) (u : Upset)
  /-- A channel finishes training, setting READY or TRERR. `DRAM_TRAINING_DONE` (R345) -/
  | dramTrainingDone (c : Fin 4) (geom : Option Word32)
  /-- A DMC.BSET write is refused with BSCONF if it names another seat's unit. `BSET_WRITE` (R332) -/
  | bsetWrite (by_ : Seat) (c : Fin 4) (seat : Seat) (value : Word32)
  /-- A DSTORE bank finishes zeroing and its INITSTAT bit clears. `DSTORE_ZERO_DONE` (R277) -/
  | dstoreZeroDone (b : Fin 32)
  /-- The DSTORE scrub reads and checks the next line of a bank. `DSTORE_SCRUB_READ` (R280) -/
  | dstoreScrubRead (b : Fin 32) (u : Upset)
  /-- A bank mode write is refused if it would make a ninth memory-side cache bank. `DSTORE_BCFG_WRITE` (R274) -/
  | dstoreBcfgWrite (by_ : Seat) (b : Fin 32) (value : Word32)
  /-- Lane instruction with no effect. `LANE_NOP` (R353) -/
  | laneNop (i : LIssue)
  /-- Lane ALU addition modulo 2^16. `LANE_ADD` (R355) -/
  | laneAdd (i : LIssue) (d a b : Fin 32)
  /-- Lane ALU subtraction modulo 2^16. `LANE_SUB` (R355) -/
  | laneSub (i : LIssue) (d a b : Fin 32)
  /-- Lane saturating addition. `LANE_ADDS` (R355) -/
  | laneAdds (i : LIssue) (d a b : Fin 32)
  /-- Lane saturating subtraction. `LANE_SUBS` (R355) -/
  | laneSubs (i : LIssue) (d a b : Fin 32)
  /-- Lane bitwise AND. `LANE_AND` (R355) -/
  | laneAnd (i : LIssue) (d a b : Fin 32)
  /-- Lane bitwise OR. `LANE_OR` (R355) -/
  | laneOr (i : LIssue) (d a b : Fin 32)
  /-- Lane bitwise XOR. `LANE_XOR` (R355) -/
  | laneXor (i : LIssue) (d a b : Fin 32)
  /-- Lane left shift by Vb[3:0]. `LANE_SHL` (R355) -/
  | laneShl (i : LIssue) (d a b : Fin 32)
  /-- Lane logical right shift. `LANE_SHR` (R355) -/
  | laneShr (i : LIssue) (d a b : Fin 32)
  /-- Lane arithmetic right shift. `LANE_SRA` (R355) -/
  | laneSra (i : LIssue) (d a b : Fin 32)
  /-- Lane signed minimum. `LANE_MIN` (R355) -/
  | laneMin (i : LIssue) (d a b : Fin 32)
  /-- Lane signed maximum. `LANE_MAX` (R355) -/
  | laneMax (i : LIssue) (d a b : Fin 32)
  /-- Lane saturating absolute value. `LANE_ABS` (R355) -/
  | laneAbs (i : LIssue) (d a : Fin 32)
  /-- Lane saturating negation. `LANE_NEG` (R355) -/
  | laneNeg (i : LIssue) (d a : Fin 32)
  /-- Lane register move. `LANE_MOV` (R355) -/
  | laneMov (i : LIssue) (d a : Fin 32)
  /-- Lane compare setting flags. `LANE_CMP` (R355) -/
  | laneCmp (i : LIssue) (a b : Fin 32)
  /-- Clears the sticky saturation flag. `LANE_CLRS` (R355) -/
  | laneClrs (i : LIssue)
  /-- Lane add immediate. `LANE_ADDI` (R355) -/
  | laneAddi (i : LIssue) (d a : Fin 32) (imm : BitVec 16)
  /-- Lane load immediate. `LANE_LDI` (R354) -/
  | laneLdi (i : LIssue) (d : Fin 32) (imm : BitVec 16)
  /-- Lane AND immediate. `LANE_ANDI` (R355) -/
  | laneAndi (i : LIssue) (d a : Fin 32) (imm : BitVec 16)
  /-- Lane compare immediate. `LANE_CMPI` (R355) -/
  | laneCmpi (i : LIssue) (a : Fin 32) (imm : BitVec 16)
  /-- Lane shift by immediate amount. `LANE_SHI` (R355) -/
  | laneShi (i : LIssue) (d a : Fin 32) (k : Fin 4) (amt : Fin 16)
  /-- Lane load from data memory by pointer, with optional advance. `LANE_LD` (R356) -/
  | laneLd (i : LIssue) (d : Fin 32) (p : Fin 4) (inc : Bool) (off : BitVec 12) (u : Upset)
  /-- Lane store to data memory by pointer, with optional advance. `LANE_ST` (R356) -/
  | laneSt (i : LIssue) (a : Fin 32) (p : Fin 4) (inc : Bool) (off : BitVec 12)
  /-- Sets a pointer and its base. `PSET_BASE` (R356) -/
  | psetBase (i : LIssue) (p : Fin 4) (imm : BitVec 12)
  /-- Sets a pointer's circular length. `PSET_LENGTH` (R356) -/
  | psetLength (i : LIssue) (p : Fin 4) (imm : BitVec 12)
  /-- Advances a pointer by a signed immediate with wrap. `PSET_ADVANCE` (R356) -/
  | psetAdvance (i : LIssue) (p : Fin 4) (imm : BitVec 12)
  /-- Dual multiply-accumulate into an accumulator in one of four modes. `DMAC` (R355) -/
  | dmac (i : LIssue) (m acc : Fin 4) (a b c d : Fin 32)
  /-- Loads a scaled register value into an accumulator with saturation. `ACLD` (R355) -/
  | acld (i : LIssue) (acc : Fin 4) (a sh : Fin 32)
  /-- Clears an accumulator. `ACOP_CLR` (R355) -/
  | acopClr (i : LIssue) (dst : Fin 4)
  /-- Copies one accumulator to another. `ACOP_MOV` (R355) -/
  | acopMov (i : LIssue) (dst src : Fin 4)
  /-- Adds one accumulator to another with saturation. `ACOP_ADD` (R355) -/
  | acopAdd (i : LIssue) (dst src : Fin 4)
  /-- Subtracts one accumulator from another with saturation. `ACOP_SUB` (R355) -/
  | acopSub (i : LIssue) (dst src : Fin 4)
  /-- Negates an accumulator into another. `ACOP_NEG` (R355) -/
  | acopNeg (i : LIssue) (dst src : Fin 4)
  /-- Rounds, shifts and saturates an accumulator into a register. `RND` (R355) -/
  | rnd (i : LIssue) (d : Fin 32) (acc : Fin 4) (sh : Fin 32)
  /-- Extracts a shifted saturated 32-bit accumulator value into two registers. `ACX` (R355) -/
  | acx (i : LIssue) (d : Fin 32) (acc : Fin 4) (b sh : Fin 32)
  /-- Clamps an accumulator symmetrically to a register-derived limit. `ACCLP` (R355) -/
  | acclp (i : LIssue) (acc : Fin 4) (a : Fin 32)
  /-- Dual multiply-accumulate from data memory through two pointers. `MACP` (R357) -/
  | macp (i : LIssue) (acc p q : Fin 4) (u : Upset)
  /-- Reads the latest readable result of an SDI channel through the converter port. `SDIRD` (R360) -/
  | sdird (i : LIssue) (d : Fin 32) (ch : Fin 64)
  /-- Reads the status word of an SDI channel. `SDIST` (R360) -/
  | sdist (i : LIssue) (d : Fin 32) (ch : Fin 64)
  /-- Stages a 32-bit value into a field of an HRP pair. `HRPW` (R361) -/
  | hrpw (i : LIssue) (pr : Fin 32) (fld : Fin 8) (a b : Fin 32)
  /-- Commits staged fields of the named pairs to their shadow registers. `HRPC` (R361) -/
  | hrpc (i : LIssue) (mask : BitVec 24)
  /-- Reads an exchange word of the lane's group. `XRD` (R364) -/
  | xrd (i : LIssue) (d : Fin 32) (x : Fin 64)
  /-- Writes an exchange word of the lane's group. `XWR` (R364) -/
  | xwr (i : LIssue) (a : Fin 32) (x : Fin 64)
  /-- Reads an inbound mailbox word. `MBRD` (R365) -/
  | mbrd (i : LIssue) (d : Fin 32) (x : Fin 4)
  /-- Writes an outbound mailbox word. `MBWR` (R365) -/
  | mbwr (i : LIssue) (a : Fin 32) (x : Fin 4)
  /-- Starts a 64-byte read from a fabric window into data memory. `FLD` (R366) -/
  | fld (i : LIssue) (w p : Fin 4) (off : BitVec 16)
  /-- Starts a 64-byte write from data memory to a fabric window. `FST` (R366) -/
  | fst (i : LIssue) (w p : Fin 4) (off : BitVec 16) (u : Upset)
  /-- A fabric-window transfer completes or ends in an error. `LANE_TRANSFER_COMPLETE` (R367) -/
  | laneTransferComplete (n : LaneId) (w : Fin 4) (r : Answer) (u : Upset)
  /-- Lane conditional branch. `LANE_B` (R358) -/
  | laneB (i : LIssue) (cond : Fin 16) (tgt : BitVec 12)
  /-- Lane call pushing the return stack. `LANE_CALL` (R359) -/
  | laneCall (i : LIssue) (tgt : BitVec 12)
  /-- Lane return popping the return stack. `LANE_RET` (R359) -/
  | laneRet (i : LIssue)
  /-- Starts a hardware loop over a body for a counted number of iterations. `LOOP` (R358) -/
  | loop (i : LIssue) (m : Bool) (last cnt : BitVec 12)
  /-- Waits for a sync event or consumes a latched one. `WAITE` (R371) -/
  | waite (i : LIssue)
  /-- Writes LN.SIGCODE, sets SIGP and may raise the lane source. `SIG` (R375) -/
  | sig (i : LIssue) (code : BitVec 16)
  /-- Stops the lane and sets DONE. `LANE_HALT` (R376) -/
  | laneHalt (i : LIssue)
  /-- A locked lane pair detects a difference and both lanes enter FAULT. `LANE_PAIR_MISMATCH` (R374) -/
  | lanePairMismatch (pair : Fin 32)
  /-- A write of LG.CTL.KICK raises a software sync event. `LG_KICK` (R370) -/
  | lgKick (by_ : Seat) (g : GroupId)
  /-- A write of LG.CTL.START requests tokens to start the named lanes. `LG_START` (R377) -/
  | lgStart (by_ : Seat) (g : GroupId) (mask : BitVec 16)
  /-- A write to LG.STOP halts the named lanes at one boundary. `LG_STOP` (R376) -/
  | lgStop (by_ : Seat) (g : GroupId) (mask : BitVec 16)
  /-- A write to LG.SYNC selects the group's event source or is refused. `LG_SYNC_WRITE` (R372) -/
  | lgSyncWrite (by_ : Seat) (g : GroupId) (value : Word32)
  /-- A write to LG.LOAD starts a program copy into the named lanes. `LG_LOAD` (R381) -/
  | lgLoad (by_ : Seat) (g : GroupId) (value : Word32)
  /-- The program copy ends, loading LN.PC and computing the CRC, or fails. `LG_LOAD_DONE` (R381) -/
  | lgLoadDone (g : GroupId) (bad : Option (BitVec 12))
  /-- A write of LN.CTL.RUN requests a start of a halted lane. `LN_RUN` (R375) -/
  | lnRun (by_ : Seat) (n : LaneId)
  /-- A write of LN.CTL.HALT halts the lane at the next boundary. `LN_HALT_REQUEST` (R376) -/
  | lnHaltRequest (by_ : Seat) (n : LaneId)
  /-- A write of LN.CTL.STEP executes one instruction of a halted lane. `LN_STEP` (R376) -/
  | lnStep (by_ : Seat) (n : LaneId)
  /-- A write of LN.CTL.CLRF moves a faulted lane to HALTED and reloads LN.PC. `LN_CLRF` (R376) -/
  | lnClrf (by_ : Seat) (n : LaneId)
  /-- A write of LN.ENTRY, also loading LN.PC when the lane is stopped. `LN_ENTRY_WRITE` (R376) -/
  | lnEntryWrite (by_ : Seat) (n : LaneId) (value : Word32)
  /-- A supervisor write to program memory, ignored unless the lane is stopped. `LN_PROGRAM_WRITE` (R380) -/
  | lnProgramWrite (by_ : Seat) (n : LaneId) (a : BitVec 12) (value : Word32)
  /-- A write of LN.CRCLEN starts a program-memory CRC pass. `LN_CRCLEN_WRITE` (R381) -/
  | lnCrclenWrite (by_ : Seat) (n : LaneId) (value : Word32)
  /-- A program-memory CRC pass ends and writes LN.PMCRC. `LN_CRC_DONE` (R381) -/
  | lnCrcDone (n : LaneId) (corrected : BitVec 8)
  /-- Toll Gate grants a start request and the lanes enter RUNNING together. `LANE_START_GRANT` (R377) -/
  | laneStartGrant (n : LaneId)
  /-- A write to SDI.MCLK starts or retunes a generator at its next aligned lane cycle. `MCLK_WRITE` (R383) -/
  | mclkWrite (by_ : Seat) (g : Fin 8) (value : Word32)
  /-- A write to SDI.CTL enables the channel or restarts its filter. `SDI_CTL_WRITE` (R387) -/
  | sdiCtlWrite (by_ : Seat) (ch : Fin 48) (value : Word32)
  /-- A write to SDI.FT restarts or reconfigures the fast filter. `SDI_FT_WRITE` (R388) -/
  | sdiFtWrite (by_ : Seat) (ch : Fin 48) (value : Word32)
  /-- A channel completes a decimation window and its result becomes readable. `SDI_RESULT` (R386) -/
  | sdiResult (ch : Fin 48) (bits : List Bool)
  /-- The fast filter beyond a threshold for N samples trips the channel and commands the safe pattern. `SDI_TRIP` (R389) -/
  | sdiTrip (ch : Fin 48) (bits : List Bool)
  /-- A stuck run, clock readback difference or disabled generator sets BSERR. `SDI_BITSTREAM_ERROR` (R392) -/
  | sdiBitstreamError (ch : Fin 48) (kind : Fin 4)
  /-- A W1C write clears TRIP, which re-trips if the condition holds. `SDI_TRIP_CLEAR` (R390) -/
  | sdiTripClear (by_ : Seat) (ch : Fin 48) (value : Word32)
  /-- A pair's counter reaches PERIOD, transferring shadows and raising its sync event. `HRP_BOUNDARY` (R393) -/
  | hrpBoundary (pr : Fin 24) (inFlight : Fin 4)
  /-- A pair with RUN = 1 starts on its start source. `HRP_START` (R397) -/
  | hrpStart (pr : Fin 24)
  /-- A core write to a shadow register, losing to a same-cycle commit. `HRP_SHADOW_WRITE` (R396) -/
  | hrpShadowWrite (by_ : Seat) (pr : Fin 24) (fld : Fin 4) (value : Word32) (inFlight : Fin 4) (same : Bool)
  /-- A pair reaches CWD boundaries without an update and enters the safe pattern. `HRP_CWD_EXPIRY` (R401) -/
  | hrpCwdExpiry (pr : Fin 24) (inFlight : Fin 4)
  /-- A ball level differs from its command for 96 cycles and RBERR is set. `HRP_READBACK_MISMATCH` (R403) -/
  | hrpReadbackMismatch (pr : Fin 24) (low : Bool)
  /-- A W1C write clears TRIPPED or CWDEXP, subject to latched trips. `HRP_TRIPPED_CLEAR` (R400) -/
  | hrpTrippedClear (by_ : Seat) (pr : Fin 24) (value : Word32)
  /-- A source edge sets PEND and the ICU updates its target's signal. `ICU_EDGE` (R407) -/
  | icuEdge (src : Fin 512)
  /-- A read of ICU.CLAIM claims the highest candidate and sets INSVC. `ICU_CLAIM` (R412) -/
  | icuClaim (t : Fin 33)
  /-- A write to ICU.COMPLETE ends a target's claim of a source. `ICU_COMPLETE` (R413) -/
  | icuComplete (t : Fin 33) (id : BitVec 10)
  /-- A write to ICU.SRC retargets, disables or reprioritises a source. `ICU_SRC_WRITE` (R416) -/
  | icuSrcWrite (by_ : Seat) (src : Fin 512) (value : Word32)
  /-- A write to ICU.SWTRIG raises an edge on a software source. `ICU_SWTRIG` (R406) -/
  | icuSwtrig (by_ : Seat) (value : Word32)
  /-- A source pending for an unreachable target past STRTMO is marked stranded. `ICU_STRANDED_TIMEOUT` (R419) -/
  | icuStrandedTimeout (src : Fin 512)
  /-- The FCU receives faults, decides the reaction and drives the gate paths. `FCU_DECISION` (R422) -/
  | fcuDecision (n : Nat) (agree : Bool)
  /-- Every GTPER ms the island tests gate paths A and B. `GATE_SELF_TEST` (R434) -/
  | gateSelfTest (aOk bOk : Bool)
  /-- A monitor window ends and clock counts are checked, raising fault 0x24 on error. `CLOCK_MONITOR_WINDOW` (R435) -/
  | clockMonitorWindow (countsOk lockOk : Bool)
  /-- 50 ns without a reference edge raises a clock-monitor fault. `MISSING_REFERENCE_EDGE` (R435) -/
  | missingReferenceEdge
  /-- A rail outside its window for 500 ns raises fault 0x25. `VOLTAGE_MONITOR_FAULT` (R436) -/
  | voltageMonitorFault (rail : Fin 12)
  /-- Junction sensors are sampled and TWARN or TCRIT are judged. `TEMPERATURE_SAMPLE` (R437) -/
  | temperatureSample (t : BitVec 8)
  /-- A core or seat watchdog count reaches 0 and raises its fault. `WATCHDOG_EXPIRY` (R438) -/
  | watchdogExpiry (w : Wdog)
  /-- A write to a KICK register reloads the watchdog or raises its fault. `WATCHDOG_KICK` (R439) -/
  | watchdogKick (by_ : Seat) (w : Wdog) (key : BitVec 8)
  /-- A write of EN starts a core or seat watchdog. `WATCHDOG_ENABLE` (R438) -/
  | watchdogEnable (by_ : Seat) (w : Wdog) (value : Word32)
  /-- The service-processor watchdog expires and raises fault 0x23. `SVP_WATCHDOG_EXPIRY` (R442) -/
  | svpWatchdogExpiry
  /-- A write to SFI.SVPKICK reloads the service-processor watchdog. `SVP_KICK` (R442) -/
  | svpKick (by_ : Seat) (key : BitVec 8)
  /-- A write of SFI.CTL.RELEASE releases the start-up gate. `SFI_RELEASE` (R432) -/
  | sfiRelease (by_ : Seat) (value : Word32)
  /-- SFI_FORCE_N held low for 50 ns raises fault 0x29. `SFI_FORCE` (R433) -/
  | sfiForce
  /-- A write to SFI.INJ with GO injects a fault for a unit. `FAULT_INJECT` (R443) -/
  | faultInject (by_ : Seat) (value : Word32)
  /-- A write of SFI.FLOGIDX.CLR invalidates the log and clears LOST. `FAULT_LOG_CLEAR` (R444) -/
  | faultLogClear (by_ : Seat) (value : Word32)
  /-- Power-on reset releases: fuses load, PLL locks, DSTORE zeroes and stage 0 is checked. `POWER_ON_RESET_RELEASE` (R449) -/
  | powerOnResetRelease (cut : Nat) (damage : List (BitVec 8))
  /-- BNV hashes the stage-0 region and releases the service processor or stops. `STAGE0_CHECK` (R451) -/
  | stage0Check
  /-- A write to the locked stage-0 region is refused and counted. `STAGE0_WRITE_REJECT` (R450) -/
  | stage0WriteReject (by_ : Seat) (offset : BitVec 19) (value : Byte)
  /-- Stage 0 checks both slots and chooses the candidate with the higher SEQ. `SLOT_SELECT` (R461) -/
  | slotSelect (readErr : Vector Bool 2)
  /-- The load engine reads a component's hash list and checks it against HLHASH. `HASH_LIST_CHECK` (R463) -/
  | hashListCheck (comp : Fin 32) (readErr : Bool)
  /-- A 4 KiB block is loaded and its hash compared, advancing LWVBLK. `LOAD_BLOCK_VERIFY` (R464) -/
  | loadBlockVerify (comp : Fin 32) (readErr : Bool) (xing : Fin 32)
  /-- Welfen releases the customer cores with outputs still gated. `MS3_RELEASE` (R467) -/
  | ms3Release (patch : BitVec 8)
  /-- Welfen records the boot, raises counters, releases queues and writes RELEASE. `MS4_REACHED` (R469) -/
  | ms4Reached
  /-- A failure is recorded and the start is reset, continued or held by class. `IMAGE_FAILURE` (R471) -/
  | imageFailure (reason : BitVec 8) (comp : Fin 32)
  /-- Stage 0 enters recovery with the gate active and waits for a recovery image. `MSX_ENTER` (R472) -/
  | msxEnter
  /-- Stage 0 repeats its NOIMAGE notification on its timer. `NOIMAGE_REPEAT` (R472) -/
  | noimageRepeat
  /-- All recovery blocks have passed and the recovery Welfen starts with RECOV set. `RECOVERY_START` (R474) -/
  | recoveryStart
  /-- Stage 0 performs the RETURN or END erasure steps before checking slots. `ERASURE` (R480) -/
  | erasure
  /-- LCC.PCMD WRITE programs a blank value field from PDATA. `FUSE_WRITE` (R483) -/
  | fuseWrite (by_ : Seat) (field : BitVec 8)
  /-- LCC.PCMD BLOW blows a flag, lock or group. `FUSE_BLOW` (R487) -/
  | fuseBlow (by_ : Seat) (field : BitVec 8)
  /-- LCC.PCMD RAISE blows counter bits up to a value. `COUNTER_RAISE` (R486) -/
  | counterRaise (by_ : Seat) (field : BitVec 8)
  /-- LCC.PCMD DESTROY blows every fuse of a field and its check bits. `FIELD_DESTROY` (R487) -/
  | fieldDestroy (by_ : Seat) (field : BitVec 8)
  /-- A fuse programming operation ends with its result in PSTAT.ERR. `LCC_OP_DONE` (R487) -/
  | lccOpDone (stuck : List (Fin 8192))
  /-- The TRNG fails a health test, setting TRNGF and raising SRC224. `TRNG_HEALTH_FAIL` (R491) -/
  | trngHealthFail
  /-- The TRNG passes 1,024 consecutive tests and TRNGF clears. `TRNG_RECOVER` (R491) -/
  | trngRecover
  /-- A queued crypto job completes. `CRE_JOB_DONE` (R490) -/
  | creJobDone
  /-- A persistent word write replaces the older copy and counts wear. `PRS_WRITE` (R493) -/
  | prsWrite (by_ : Seat) (word : Fin 1024) (value : Word32)
  /-- A seat writes its request producer index, raising SRC256 + s or refusing it. `MBX_REQPI_WRITE` (R500) -/
  | mbxReqpiWrite (by_ : Seat) (seat : Seat) (value : Word32)
  /-- A seat writes its response consumer index. `MBX_RSPCI_WRITE` (R500) -/
  | mbxRspciWrite (by_ : Seat) (seat : Seat) (value : Word32)
  /-- Welfen writes a response producer index, raising SRC272 + s. `MBX_RSPPI_WRITE` (R500) -/
  | mbxRsppiWrite (by_ : Seat) (seat : Seat) (value : Word32)
  /-- Welfen writes a request consumer index. `MBX_REQCI_WRITE` (R500) -/
  | mbxReqciWrite (by_ : Seat) (seat : Seat) (value : Word32)
  /-- WCI HELLO negotiates the version and features of a session. `HELLO` (R504) -/
  | hello (p : Peer)
  /-- WCI AUTH authenticates an ETHM peer and derives the session key. `AUTH` (R505) -/
  | auth (p : Peer) (reply : Option AuthReply)
  /-- WCI BYE ends a session. `BYE` (R509) -/
  | bye (p : Peer)
  /-- WCI PING checks the session. `PING` (R509) -/
  | ping (p : Peer)
  /-- WCI INFO DEVINFO returns serial, state, boot status and identity key. `DEVINFO` (R509) -/
  | devinfo (p : Peer)
  /-- WCI INFO FAULTLOG returns fault log entries. `FAULTLOG` (R444) -/
  | faultlog (p : Peer)
  /-- WCI INFO SEATINFO returns the seat's ownership. `SEATINFO` (R509) -/
  | seatinfo (p : Peer)
  /-- WCI SEAT RESET requests a seat reset. `SEAT_RESET_COMMAND` (R509) -/
  | seatResetCommand (p : Peer)
  /-- WCI SEAT SAFE puts the seat in its safe state. `SEAT_SAFE_COMMAND` (R509) -/
  | seatSafeCommand (p : Peer)
  /-- WCI SEAT RESTART resets the seat and starts it from its verified image. `SEAT_RESTART` (R428) -/
  | seatRestart (p : Peer)
  /-- WCI SEAT STOP quenches the seat and enters its safe state. `SEAT_STOP` (R508) -/
  | seatStop (p : Peer)
  /-- WCI RESOURCE CLAIM grants or refuses a claimable resource. `CLAIM` (R29) -/
  | claim (p : Peer) (unit : Fin 32)
  /-- WCI RESOURCE RELEASE returns a claimed resource. `RELEASE` (R29) -/
  | release (p : Peer)
  /-- WCI RESOURCE XBUF requests a crossing buffer. `XBUF` (R40) -/
  | xbuf (p : Peer) (writer : Bool) (peer : Seat) (tag : BitVec 16) (pages : Word32) (bank : Fin 32)
  /-- WCI RESOURCE LGWRITE has Welfen write lane-group registers for a seat. `LGWRITE` (R373) -/
  | lgwrite (p : Peer) (reg : LgReg) (g : GroupId) (value : Word32) (src : BitVec 48)
  /-- WCI RESOURCE RESTORE asks Welfen to restore a dead target. `RESTORE` (R324) -/
  | restore (p : Peer) (target : BitVec 8)
  /-- WCI POWER PFREQ requests a performance level. `PFREQ` (R560) -/
  | pfreq (p : Peer) (level : BitVec 8)
  /-- WCI POWER TOKENS reports the seat's share and use. `TOKENS` (R509) -/
  | tokens (p : Peer)
  /-- WCI POWER STANDBY requests STANDBY or OFF. `STANDBY_COMMAND` (R570) -/
  | standbyCommand (p : Peer) (tick : BitVec 8)
  /-- WCI SAFECOMM OPEN opens a safe channel. `SAFECOMM_OPEN` (R515) -/
  | safecommOpen (p : Peer) (id : BitVec 16) (dev : BitVec 12) (peer : Seat) (opened : Bool) (maxAge : Word64)
  /-- WCI SAFECOMM SEND protects and sends a safe message. `SAFECOMM_SEND` (R515) -/
  | safecommSend (p : Peer) (id : BitVec 16) (data : List Byte)
  /-- WCI SAFECOMM RECV returns a checked safe message. `SAFECOMM_RECV` (R515) -/
  | safecommRecv (p : Peer) (id : BitVec 16) (arrived : List (SafeMsg × Bool))
  /-- WCI SAFECOMM CLOSE closes a safe channel. `SAFECOMM_CLOSE` (R515) -/
  | safecommClose (p : Peer) (id : BitVec 16)
  /-- WCI UPDATE BEGIN starts writing a slot. `UPDATE_BEGIN` (R509) -/
  | updateBegin (p : Peer) (slot : Fin 2)
  /-- WCI UPDATE BLOCK writes a block of a slot image. `UPDATE_BLOCK` (R509) -/
  | updateBlock (p : Peer) (offset : Word32) (data : List Byte)
  /-- WCI UPDATE COMMIT completes a slot update. `UPDATE_COMMIT` (R509) -/
  | updateCommit (p : Peer)
  /-- WCI RECOVERY BEGIN starts delivery of a recovery image. `RECOVERY_BEGIN` (R473) -/
  | recoveryBegin (p : Peer) (manifest : List Byte) (header : List Byte) (lists : List (List Byte))
  /-- WCI RECOVERY BLOCK delivers and verifies a recovery block in order. `RECOVERY_BLOCK` (R473) -/
  | recoveryBlock (p : Peer) (comp : Fin 32) (index : BitVec 20) (data : List Byte)
  /-- WCI RECOVERY END ends delivery of a recovery image. `RECOVERY_END` (R473) -/
  | recoveryEnd (p : Peer)
  /-- WCI LCYCLE NONCE draws a nonce for a life-cycle command. `LCYCLE_NONCE` (R478) -/
  | lcycleNonce (p : Peer)
  /-- WCI LCYCLE TRANSITION blows a life-cycle group and resets the device. `LCYCLE_TRANSITION` (R478) -/
  | lcycleTransition (p : Peer) (target : Fin 6) (owner : Option Signed) (maker : Option Signed)
  /-- WCI LCYCLE KEYADD provisions an owner key. `KEYADD` (R485) -/
  | keyadd (p : Peer) (key : List Byte) (by_ : Signed)
  /-- WCI LCYCLE KEYREVOKE revokes an owner key. `KEYREVOKE` (R485) -/
  | keyrevoke (p : Peer) (slot : Fin 9) (by_ : Signed)
  /-- WCI DEBUG GRANT submits a signed debug request. `DEBUG_GRANT` (R586) -/
  | debugGrant (p : Peer) (r : DbgRequest)
  /-- WCI DEBUG REVOKE ends a debug grant. `DEBUG_REVOKE` (R588) -/
  | debugRevoke (p : Peer)
  /-- WCI CRYPTO RANDOM returns TRNG output. `CRYPTO_RANDOM` (R489) -/
  | cryptoRandom (p : Peer) (n : BitVec 16)
  /-- WCI CRYPTO HASH computes SHAKE256. `CRYPTO_HASH` (R489) -/
  | cryptoHash (p : Peer) (n : BitVec 16) (data : List Byte)
  /-- WCI CRYPTO VERIFY checks an Ed448 signature. `CRYPTO_VERIFY` (R489) -/
  | cryptoVerify (p : Peer) (key : List Byte) (ctx : List Byte) (msg : List Byte) (sig : List Byte)
  /-- WCI CRYPTO SIGN signs with the device identity key. `CRYPTO_SIGN` (R489) -/
  | cryptoSign (p : Peer) (ctx : List Byte) (msg : List Byte)
  /-- WCI NETCFG GET returns the ETHM settings. `NETCFG_GET` (R514) -/
  | netcfgGet (p : Peer)
  /-- WCI NETCFG SET writes the ETHM settings to PRS. `NETCFG_SET` (R514) -/
  | netcfgSet (p : Peer) (words : Vector Word32 4)
  /-- WCI SYSTEM class commands for enumeration and time. `SYSTEM_COMMAND` (R509) -/
  | systemCommand (p : Peer) (op : BitVec 8)
  /-- An unacknowledged NOTE is sent again after 10 ms. `NOTE_RETRANSMIT` (R510) -/
  | noteRetransmit (p : Peer) (seq : Word32)
  /-- A RESPONSE with STATUS OK acknowledges a NOTE. `NOTE_ACK` (R506) -/
  | noteAck (p : Peer)
  /-- A UDP datagram arrives on ETHM and is authenticated and decrypted. `ETHM_DATAGRAM` (R505) -/
  | ethmDatagram (n : Fin 4) (counter : Word64) (tagOk : Bool) (msg : List Byte)
  /-- A seat writes its transmit producer index, starting the host-queue engine. `HQ_TXPI_WRITE` (R526) -/
  | hqTxpiWrite (by_ : Seat) (value : Word32)
  /-- A seat writes its receive consumer index, freeing descriptors. `HQ_RXCI_WRITE` (R527) -/
  | hqRxciWrite (by_ : Seat) (value : Word32)
  /-- A transmit descriptor completes and TXEV and the seat's source are raised. `HQ_TX_COMPLETE` (R527) -/
  | hqTxComplete (seat : Seat) (granted : Bool) (port : Fin 6)
  /-- A received frame is delivered to a granted seat's receive ring or dropped. `FRAME_RECEIVE` (R526) -/
  | frameReceive (data : List Byte) (seats : List Seat)
  /-- A gate-control entry opens a class window on a port. `GATE_WINDOW_OPEN` (R522) -/
  | gateWindowOpen (port : Fin 4) (classes : BitVec 8)
  /-- A train inauguration change notifies entitled seats. `INAUGURATION` (R525) -/
  | inauguration (entitled : List Seat)
  /-- An output pin differs from its driven level for 1 µs and RBMIS is set. `GPIO_READBACK_MISMATCH` (R530) -/
  | gpioReadbackMismatch (pin : Fin 96)
  /-- A UCL cell arrives and is consumed or forwarded by the routing rules. `CELL_RECEIVE` (R532) -/
  | cellReceive (port : Fin 4) (c : Cell) (crcOk : Bool)
  /-- A trained UCL port exchanges nonces and signatures with its peer. `LINK_AUTH` (R541) -/
  | linkAuth (port : Fin 4) (key : List Byte) (sigOk : Bool) (peer : Option (BitVec 12)) (manager : Bool)
  /-- An ASSIGN LINK cell gives a worker its address. `ASSIGN` (R542) -/
  | assign (port : Fin 4) (dev : BitVec 12)
  /-- A remote request cell is served through a matching export. `REMOTE_REQUEST` (R545) -/
  | remoteRequest
  /-- A remote request times out and the device is marked dead. `REMOTE_TIMEOUT` (R546) -/
  | remoteTimeout (dev : BitVec 12)
  /-- Welfen writes UCL.STOPTX and the manager sends eight STOP copies. `STOPTX_WRITE` (R547) -/
  | stoptxWrite (by_ : Seat) (value : Word32)
  /-- A STOP copy arrives; it is forwarded and, first time, acted on by quenching the seat. `STOP_CELL` (R550) -/
  | stopCell (port : Fin 4) (src : BitVec 12) (bcast : Bool) (dest : BitVec 12) (seat : Seat) (id : Fin 4) (copy : Fin 8)
  /-- A TIME exchange updates the worker's offset and TBS rate. `TIME_EXCHANGE` (R552) -/
  | timeExchange (port : Fin 4) (offset : BitVec 32) (rate : Word32) (delay : Option (BitVec 16))
  /-- A UCL port loses lock or cells and its outstanding requests get errors. `PORT_DOWN` (R553) -/
  | portDown (port : Fin 4)
  /-- A UCL port comes up and trains and authenticates again. `PORT_UP` (R555) -/
  | portUp (port : Fin 4)
  /-- A write of PWC.PFCTL.TARGET starts a change of performance level. `PFCTL_TARGET_WRITE` (R561) -/
  | pfctlTargetWrite (by_ : Seat) (value : Word32)
  /-- The regulator has settled and PFBUSY clears. `LEVEL_CHANGE_DONE` (R561) -/
  | levelChangeDone
  /-- A signalled interrupt or switch event wakes a core from C1. `CORE_WAKE_C1` (R119) -/
  | coreWakeC1 (k : CoreId)
  /-- A granted wake powers a core up and restores its save list. `CORE_WAKE_C2` (R566) -/
  | coreWakeC2 (k : CoreId)
  /-- A granted wake starts a core from C3 as at reset. `CORE_WAKE_C3` (R567) -/
  | coreWakeC3 (k : CoreId)
  /-- A write of PWC.CCTL.WAKE requests wake of a core from C2 or C3. `CCTL_WAKE` (R564) -/
  | cctlWake (by_ : Seat) (k : CoreId)
  /-- A cluster powers up on FIO when one of its cores leaves C3. `CLUSTER_POWER_UP` (R568) -/
  | clusterPowerUp (c : ClusterId)
  /-- A write of PWC.FIO switches a domain from FIO to the PLL. `FIO_SWITCH` (R569) -/
  | fioSwitch (by_ : Seat) (value : Word32)
  /-- An operation requests tokens from its share or the pool, or is refused. `TOKEN_REQUEST` (R575) -/
  | tokenRequest (op : TokenOp)
  /-- Toll Gate grants a waiting token request in an owned or open slot. `TOKEN_GRANT` (R575) -/
  | tokenGrant
  /-- A write of PWC.SBCTL.GO brings every domain to its STANDBY state. `STANDBY_ENTRY` (R570) -/
  | standbyEntry (by_ : Seat) (tick : BitVec 8)
  /-- SBCTL.GO with OFF powers down all but the always-on domain. `OFF_ENTRY` (R573) -/
  | offEntry (by_ : Seat) (tick : BitVec 8)
  /-- Every TICK ms PWC wakes the service processor alone. `STANDBY_TICK` (R571) -/
  | standbyTick
  /-- A wake source or PWR_WAKE_N returns the device to ON. `STANDBY_WAKE` (R572) -/
  | standbyWake (ball : Bool)
  /-- PWR_WAKE_N in OFF raises PWR_EN and causes a power-on reset. `OFF_EXIT` (R573) -/
  | offExit
  /-- PORST_N held low for 1 µs causes a power-on reset. `PORST_INPUT` (R578) -/
  | porstInput
  /-- RESET_N held low for 1 µs causes a device reset. `RESET_N_INPUT` (R578) -/
  | resetNInput (cut : Nat) (damage : List (BitVec 8))
  /-- VDD_AON rises, clearing RSTCAUSE and setting AONPOR. `VDD_AON_RISE` (R582) -/
  | vddAonRise
  /-- Rails rise in stages and the device drives PWR_EN. `SUPPLY_POWER_UP` (R613) -/
  | supplyPowerUp (rail : Fin 12)
  /-- A rail below its reset threshold causes a power-on reset. `RAIL_UNDERVOLTAGE_RESET` (R605) -/
  | railUndervoltageReset (rail : Fin 12)
  /-- PWC.RST OP 0x3 resets the device from the fuse load onwards. `DEVICE_RESET` (R579) -/
  | deviceReset (by_ : Seat) (key : BitVec 8) (cut : Nat) (damage : List (BitVec 8))
  /-- PWC.RST OP 0x1 starts a seat reset. `SEAT_RESET` (R580) -/
  | seatReset (by_ : Seat) (seat : BitVec 8)
  /-- A seat's outstanding requests have responses and its state is reset. `SEAT_RESET_DRAIN_DONE` (R580) -/
  | seatResetDrainDone (seat : Seat)
  /-- The seat's banks have been zeroed and the seat reset completes. `SEAT_RESET_COMPLETE` (R277) -/
  | seatResetComplete (seat : Seat)
  /-- PWC.RST OP 0x2 resets one peripheral target. `BLOCK_RESET` (R581) -/
  | blockReset (by_ : Seat) (target : BitVec 8)
  /-- The root PLL locks and CRG.STAT.LOCK becomes 1. `PLL_LOCK` (R558) -/
  | pllLock
  /-- A TAP DBGAUTH update checks a signed request and writes grants. `DBGAUTH` (R586) -/
  | dbgauth (r : DbgRequest)
  /-- A TAP DBGACC update performs a DBG frame access. `DBGACC` (R585) -/
  | dbgacc (write : Bool) (offset : BitVec 16) (data : Word32)
  /-- A debug grant's minutes count to 0 and the grant ends. `GRANT_EXPIRY` (R588) -/
  | grantExpiry (seat : Seat)
  /-- A write of 1 to DBG.GRANT.VALID ends a grant. `GRANT_END_WRITE` (R588) -/
  | grantEndWrite (by_ : Seat) (seat : Seat)
  /-- A write of DBG.CCTL.HALTREQ requests a core halt. `DBG_HALTREQ` (R589) -/
  | dbgHaltreq (by_ : Seat) (k : CoreId)
  /-- A halt request is taken at the next retirement boundary. `DEBUG_HALT` (R589) -/
  | debugHalt (k : CoreId)
  /-- A write of DBG.CCTL.RESUME restarts a halted core. `DBG_RESUME` (R592) -/
  | dbgResume (by_ : Seat) (k : CoreId)
  /-- A write of DBG.CCTL.STEP executes to the next retirement boundary. `DBG_STEP` (R592) -/
  | dbgStep (by_ : Seat) (k : CoreId)
  /-- A write of DBG.CRSEL.GO reads or writes a register of a halted core. `CRSEL_ACCESS` (R594) -/
  | crselAccess (by_ : Seat) (k : CoreId) (value : Word32)
  /-- A write of DBG.DAMCTL.GO starts a debug memory access. `DAM_GO` (R596) -/
  | damGo (by_ : Seat) (value : Word32)
  /-- A debug memory access completes, with peek semantics when enabled. `DAM_COMPLETE` (R597) -/
  | damComplete
  /-- A cross-trigger channel reaches its cores, lanes and trigger ball. `CROSS_TRIGGER` (R598) -/
  | crossTrigger
  /-- An edge on DBG_TRIGIN raises a cross-trigger channel. `DBG_TRIGIN` (R598) -/
  | dbgTrigin
  /-- VDD_DBG rises and resets the debug domain. `VDD_DBG_RISE` (R584) -/
  | vddDbgRise
  /-- TRST_N held low resets only the TAP. `TRST` (R584) -/
  | trst
  /-- A write to TRC.STIM emits a STIM packet. `TRACE_STIM_WRITE` (R601) -/
  | traceStimWrite (by_ : Seat) (seat : Seat) (port : Fin 16) (value : Word32)
  /-- TRC moves a 64-byte trace unit to a region or the trace port. `TRACE_UNIT_WRITE` (R602) -/
  | traceUnitWrite (src : TraceSource)
  /-- A write of MMU.S2INV.GO removes every TLB entry of a seat on all cores. `S2INV` (R243) -/
  | s2inv (by_ : Seat) (value : Word32)
  /-- A write to the seat-table fence after the lock is refused and recorded. `FENCE_WRITE_REJECT` (R225) -/
  | fenceWriteReject (by_ : Seat) (addr : BitVec 48) (value : Word64)
  /-- A write to any register without behaviour of its own sets its fields by their access codes. `REGISTER_WRITE` (R13) -/
  | registerWrite (by_ : Seat) (addr : BitVec 48) (wide : Bool) (value : Word64)
  /-- VDD_DBG is removed and the DBG frame, halts, comparators and cross-triggers stop acting. `VDD_DBG_FALL` (R583) -/
  | vddDbgFall
  /-- After a failed signed request, the next debug nonce is offered once 1 s has passed. `NONCE_OFFER` (R586) -/
  | nonceOffer
  /-- Lane program and data memory finish being zeroed with valid check bits, and held supervisor accesses proceed. `LANE_MEMORY_ZERO_DONE` (R382) -/
  | laneMemoryZeroDone (n : LaneId)
  /-- The ETHM PHY or a 10GBASE-R port gains or loses its link, and the MAC follows the reported speed. `ETH_LINK_CHANGE` (R519) -/
  | ethLinkChange (port : Fin 5) (speed : Nat)
  /-- A frame or byte arrives on an MVB, CAN, UART, SPI or I2C bus, and the controller answers, listens only or stays silent before MS4. `LEGACY_BUS_RECEIVE` (R529) -/
  | legacyBusReceive (c : Fin 20) (data : List Byte)
  /-- A TAP EXTEST update drives the balls from the boundary register, overriding the safe-state gate. `EXTEST` (R585) -/
  | extest (value : BitVec 959)
  deriving DecidableEq, Repr

end Sys2Proof
end

