-- ==== Sys2Proof/Decode.lean ====
section
/-!
DEFINITION. Commands from table words. spec/opcode_table.json gives no row any bits: a command comes from outside the
block as a value of `Instr`, and no word spells one.
-/

namespace Sys2Proof

/-- The command that the `nbits`-bit word `w` spells by the table's bits: none, because no row of the table has bits. -/
def decodeTableWord (_nbits _w : Nat) : Option Instr := none

end Sys2Proof
end

