-- ==== Sys2Proof/Config.lean ====
section
/-!
DEFINITION. What the spec leaves open, as constants without a body: no proof can see their values. Each use applies
the constant to what the value may depend on, or to the plain counter `State.fresh`, which the using step advances.
The assumption log names each one.
-/

namespace Sys2Proof.Config

/-- A free value: the n-th value that a step draws where the spec states none. -/
opaque freeWord : Nat → BitVec 64

/-- The n-th value drawn from the true random number generator (R257, R489). -/
opaque trng : Nat → BitVec 64

/-- Index of the target buffer, which combines the instruction address with the history (R141). -/
opaque targetIndex : BitVec 64 → BitVec 8 → Nat

/-- The history of recent indirect targets after one more target (R141). -/
opaque historyNext : BitVec 8 → BitVec 64 → BitVec 8

/-- Sign of the default quiet NaN (R99 gives no bit pattern). -/
opaque nanSign : Bool

/-- Payload of the default quiet NaN of binary32, below its quiet bit. -/
opaque nanPayload32 : BitVec 22

/-- Payload of the default quiet NaN of binary64, below its quiet bit. -/
opaque nanPayload64 : BitVec 51

/-- Whether tininess is detected after rounding (IEEE 754-2019 leaves the choice to the implementation). -/
opaque tinyAfterRounding : Bool

/-- Bank and row of a DRAM byte on its channel: the bits that select them are not given (R331). -/
opaque dramBankRow : Nat → Nat × Nat

/-- SHAKE256 with `n` bytes of output (FIPS 202, which the spec names and does not repeat). -/
opaque shake256 : Nat → List (BitVec 8) → List (BitVec 8)

/-- Does an Ed448 signature under a public key and a context string verify over a message (RFC 8032)? -/
opaque ed448Verify : List (BitVec 8) → List (BitVec 8) → List (BitVec 8) → List (BitVec 8) → Bool

/-- Ed448 signature over a message with a context string, under the key pair of a secret seed (RFC 8032). -/
opaque ed448Sign : List (BitVec 8) → List (BitVec 8) → List (BitVec 8) → List (BitVec 8)

/-- Ed448 public key of a secret seed. -/
opaque ed448Public : List (BitVec 8) → List (BitVec 8)

/-- Opcode of the NOTE that a change of inauguration sends (R525; Table WCI-5 lists none). -/
opaque inaugurationNote : BitVec 16

/-- Operation of the SYSTEM class that reports a change of port state (R554; Table WCI-3 lists none). -/
opaque portReport : BitVec 8

/-- Status of the n-th kind of refusal for which Table WCI-2 gives no code of its own, less 1 and modulo 12. -/
opaque openStatus : Nat → BitVec 8

/-- X448 public value of a secret, and the shared secret with a peer's public value (RFC 7748). -/
opaque x448Public : List (BitVec 8) → List (BitVec 8)
opaque x448Shared : List (BitVec 8) → List (BitVec 8) → List (BitVec 8)

/-- Context string of the signatures that WCI LCYCLE commands carry. -/
opaque lcycleContext : List (BitVec 8)

/-- What the signature of a key command (its opcode) covers: the nonce drawn for it, and its arguments (R485 does not say). -/
opaque keyCommandBody : Nat → List (BitVec 8) → List (BitVec 8) → List (BitVec 8)

end Sys2Proof.Config
end

