-- ==== Sys2Proof/Machine/BlockState.lean ====
section
/-!
DEFINITION. Small records of the blocks' hidden state: what a block holds besides its registers (Machine/RegMap.lean).
-/

namespace Sys2Proof.Machine

/-- A claim of an interrupt source at a target, with the priority of the claim (R412, R417). -/
structure InSvc where
  src : Nat
  tgt : Nat
  prio : Nat
  deriving DecidableEq, Repr

/-- A fault on the fault lines of the FCU, not yet decided (R422): code, owner seat, unit, detail, whether it was
injected (FLOG.INJ), and whether it is only logged (SFI.INJ.TEST, R443). -/
structure FaultLine where
  code : Nat
  seat : Nat
  unit : Nat
  info : Nat
  inj : Bool
  test : Bool
  deriving DecidableEq, Repr

/-- Who holds or asks for Toll Gate tokens (Table PWR-7). -/
inductive TokenHolder where
  | core (n : Nat)
  | lane (n : Nat)
  | cluster (n : Nat)
  deriving DecidableEq, Repr

/-- Tokens held (R574): by whom, for which seat, and how many come from the seat's share or from the pool. -/
structure TokenHeld where
  who : TokenHolder
  seat : Nat
  share : Nat
  pool : Nat
  deriving DecidableEq, Repr

/-- A token request that waits (R575): its operations together, the seat, the cost, and whether the share covers it. -/
structure TokenWait where
  who : List TokenHolder
  seat : Nat
  cost : Nat
  share : Bool
  deriving DecidableEq, Repr

/-- The response of the last bus request that a command carried out: data, or an error response (R10, R25). -/
inductive BusResp where
  | none
  | ok (data : Word64)
  | error
  deriving DecidableEq, Repr

/-- A trace FIFO (R601): its packets with the seat that each one traces, oldest first, packets lost since it filled, outcomes
of conditional branches not yet packed into an ATOM packet, packets since the last SYNC, and the last target. -/
structure TraceFifo where
  packets : List (Nat × List Byte)
  lost : Nat
  atoms : List Bool
  count : Nat
  target : Nat
  deriving DecidableEq, Repr, Inhabited

/-- A tag of a memory-side cache bank (R275). -/
structure MscTag where
  bank : Nat
  set : Nat
  way : Nat
  line : Nat
  deriving DecidableEq, Repr

/-- A transport endpoint of a WCI session (R504): the mailbox of a seat, a device over UCL, an ETHM peer. -/
inductive SessionId where
  | mailbox (seat : Nat)
  | ucl (dev : Nat)
  | ethm (n : Nat)
  deriving DecidableEq, Repr

/-- A WCI message that Welfen sends (Table WCI-1). -/
structure WciMsg where
  dest : SessionId
  cls : Nat
  status : Nat
  opcode : Nat
  seat : Nat
  seq : Nat
  payload : List Byte
  deriving DecidableEq, Repr

/-- A NOTE that has not been acknowledged, and how often it has been sent again (R510). -/
structure NoteSent where
  opcode : Nat
  seat : Nat
  seq : Nat
  again : Nat
  payload : List Byte
  deriving DecidableEq, Repr

/-- The token bucket of a NOTE category (R510): its level in NOTEs x 10^9, when it was last refilled (ns), and the
NOTEs counted instead of sent. -/
structure NoteBucket where
  level : Nat
  time : Nat
  merged : Nat
  deriving DecidableEq, Repr

/-- One session (R504 to R510): whether HELLO and AUTH have completed and AUTH was the maker's, the next SEQ of the peer's
commands, of the own commands and NOTEs, the responses kept, NOTEs that wait for their acknowledgement, the NOTE buckets, the
datagram counters, the nonce and the X448 secret of an AUTH under way, the session key, and the nonce of a life-cycle
command. -/
structure Session where
  id : SessionId
  hello : Bool
  major : Nat
  features : Nat
  auth : Bool
  maker : Bool
  nextCmd : Nat
  ownCmd : Nat
  nextNote : Nat
  kept : List WciMsg
  unacked : List NoteSent
  buckets : List NoteBucket
  txCount : Nat
  rxCount : Nat
  challenge : Option (List Byte × List Byte)
  key : List Byte
  lcNonce : Option (List Byte)
  deriving DecidableEq, Repr

/-- A safe channel (R515) of seat `owner`: identifier, peer device and seat, open mode, maximum age in ns, last sequence numbers
sent and accepted, time of the last message accepted (of the opening before the first), accepted messages that wait with
whether a gap came before them, and messages discarded. -/
structure SafeChannel where
  owner : Nat
  id : Nat
  dev : Nat
  peer : Nat
  opened : Bool
  maxAge : Nat
  tx : Nat
  rx : Nat
  time : Nat
  inbox : List (Bool × List Byte)
  discarded : Nat
  deriving DecidableEq, Repr

/-- A block transfer of a lane in progress (R366): its direction, physical address, first data-memory word, the data of
an FST, and the seat it is stamped with. -/
structure Transfer where
  store : Bool
  pa : Nat
  at_ : Nat
  data : Nat
  seat : Nat
  deriving DecidableEq, Repr

/-- An active hardware loop of a lane (R358): first and last instruction of the body, and iterations left with the one
under way. -/
structure LaneLoop where
  first : Nat
  last : Nat
  left : Nat
  deriving DecidableEq, Repr

/-- A control lane (Table LANE-1), besides what its LN registers hold. `unread`: the SDI channels with a result that the
lane has not read (R360). `zeroing`: its memories are being zeroed (R382). -/
structure Lane where
  v : Vector Half 32
  ac : Vector Acc 4
  p : Vector Nat 4
  base : Vector Nat 4
  len : Vector Nat 4
  z : Bool
  n : Bool
  o : Bool
  ret : List Nat
  loop : Option LaneLoop
  pm : List (Nat × Word32)
  dm : List (Nat × Half)
  latched : Bool
  stepping : Bool
  zeroing : Bool
  xfer : Vector (Option Transfer) 4
  unread : BitVec 48
  deriving DecidableEq, Repr, Inhabited

/-- A lane after reset (R382). -/
def Lane.initial : Lane :=
  ⟨Vector.replicate 32 0, Vector.replicate 4 0, Vector.replicate 4 0, Vector.replicate 4 0, Vector.replicate 4 0,
    false, false, false, [], none, [], [], false, false, false, Vector.replicate 4 none, 0⟩

/-- A program load of a lane group in progress (R381): lanes, instructions, source, and the seat it is made for. -/
structure GroupLoad where
  lanes : List Nat
  count : Nat
  src : Nat
  seat : Nat
  deriving DecidableEq, Repr

/-- A lane group, besides its LG registers: source events counted by the divider, the load in progress, and start requests
that wait for its end (R370, R381). -/
structure LaneGroup where
  div : Nat
  load : Option GroupLoad
  held : List (List Nat)
  deriving DecidableEq, Repr, Inhabited

/-- What a lane did in the current lane cycle that another lane of the same cycle may meet (R362, R364): an exchange word
written, with its old value; a field staged, with what was staged before; a pair committed. -/
inductive LaneDeed where
  | xw (lane group word old : Nat)
  | stage (lane pair fld : Nat) (old : Option (Nat × Nat))
  | commit (lane pair : Nat)
  deriving DecidableEq, Repr

/-- A staged field of an HRP pair (R361): field, value, and the lane that staged it. -/
structure Staged where
  fld : Nat
  value : Nat
  lane : Nat
  deriving DecidableEq, Repr

/-- An HRP pair, besides its registers: its staging, commits on their way to the shadow (oldest first, as field and
value), whether the shadow has been updated since the last boundary, and boundaries without an update (R401). -/
structure HrpPair where
  stage : List Staged
  flight : List (List (Nat × Nat))
  updated : Bool
  since : Nat
  deriving DecidableEq, Repr, Inhabited

/-- An output port of a router (R314): flits that wait for it, and fabric cycles since it sent an MGT flit. -/
structure FabPort where
  router : Nat
  port : Nat
  queue : List Flit
  mgt : Nat
  deriving DecidableEq, Repr

/-- A request that a DRAM controller holds (R337 to R340): port, seat, physical line address, write, guaranteed class,
page-policy hint, and level of the urgency ladder. -/
structure DmcReq where
  port : Nat
  seat : Nat
  pa : Nat
  write : Bool
  guar : Bool
  hint : Nat
  level : Nat
  deriving DecidableEq, Repr

/-- A DRAM controller, besides its registers: requests in order of arrival, open rows as (bank, row), refreshes postponed
(R342), readings at or below 85 °C in a row (R343), and the next line of the patrol scrub (R349). -/
structure Dmc where
  queue : List DmcReq
  rows : List (Nat × Nat)
  postponed : Nat
  cool : Nat
  scrub : Nat
  deriving DecidableEq, Repr, Inhabited

/-- A fuse programming operation in progress (R487): its field code and the fuses it blows, in order. -/
structure FuseOp where
  field : Nat
  bits : List Nat
  deriving DecidableEq, Repr

/-- A crypto job waiting in one of the two queues of CRE (R490): the load engine's, or one whose end sends a response. -/
structure CreJob where
  load : Bool
  reply : Option WciMsg
  deriving DecidableEq, Repr

/-- What the service processor runs: nothing (held), stage 0, Welfen. -/
inductive SvpRun where
  | held | stage0 | welfen
  deriving DecidableEq, Repr

/-- A component of the boot image (Table BOOT-4), as its load stands: offset of its block 0 in the slot, length of its
blocks, its block-hash list once checked, blocks verified, and the reason of its failure. -/
structure BootComp where
  type : Nat
  seat : Nat
  start : Nat
  src : Nat
  length : Nat
  hlOff : Nat
  dest : Nat
  hlHash : List Byte
  hashes : Option (List Byte)
  blocks : Nat
  failed : Option Nat
  deriving DecidableEq, Repr

/-- The image that a start runs: recovery image or the slot it was read from, the flag RBCOMMIT, the security versions of
manifest, Welfen header and patch bundle, and its components. -/
structure BootImage where
  recovery : Bool
  slot : Nat
  commit : Bool
  secver : Nat
  welfenVer : Nat
  patchVer : Nat
  comps : List BootComp
  deriving DecidableEq, Repr

/-- A seat manifest that Welfen has accepted (R511), with the key slot that signed it. -/
structure SeatManifest where
  seat : Nat
  key : Nat
  comp : Nat
  flags : Nat
  entry : Nat
  records : List (Nat × List Byte)
  deriving DecidableEq, Repr

/-- A frame that leaves the ETH switch (R520): the port, the seat that sent it, its class and its bytes. -/
structure EthFrame where
  port : Nat
  seat : Nat
  tc : Nat
  data : List Byte
  deriving DecidableEq, Repr

/-- A UCL port, besides its registers (R537, R541): next TXSEQ to send and to accept, whether it waits for a replay, replays
of one cell in a row with the ACK that asked for them, cells that can be sent again, and whether the link carries LINK
cells only. -/
structure UclPort where
  txNext : Nat
  rxNext : Nat
  resync : Bool
  replays : Nat
  replayAck : Nat
  sent : List Cell
  linkOnly : Bool
  deriving DecidableEq, Repr, Inhabited

/-- State of a remote device (R546). -/
structure Remote where
  dev : Nat
  dead : Bool
  iso : Bool
  deriving DecidableEq, Repr

/-- UCL, besides its registers: ports, requests received and not yet served (port, cell), remote devices, cells that the
last command sent (port, cell), next STOPID, last STOP acted on (STOPID, copy), exchanges in a row below 100 ns and
above 1 µs, whether time has been stepped, key of the first manager met, and addresses assigned (manager). -/
structure Ucl where
  ports : Vector UclPort 4
  requests : List (Nat × Cell)
  remotes : List Remote
  sent : List (Nat × Cell)
  stopNext : Nat
  stopLast : Option (Nat × Nat)
  near : Nat
  far : Nat
  stepped : Bool
  mgrKey : Option (List Byte)
  assigned : List Nat
  deriving DecidableEq, Repr

/-- UCL after power-on reset (R557). -/
def Ucl.initial : Ucl :=
  ⟨Vector.replicate 4 ⟨1, 1, false, 0, 0, [], false⟩, [], [], [], 0, none, 0, 0, false, none, []⟩

/-- A legacy controller (R528, R529): frames received and not yet read by software, and whether it answered the last. -/
structure LegacyCtl where
  rx : List (List Byte)
  answered : Bool
  deriving DecidableEq, Repr, Inhabited

/-- The device states (R570, R573), with what comes before MS0: reset held; fuses loaded and the PLL not yet locked. -/
inductive DeviceState where
  | reset | starting | on | standby | off
  deriving DecidableEq, Repr

end Sys2Proof.Machine
end

