-- ==== Sys2Proof/Machine/Cells.lean ====
section
/-!
DEFINITION. Sparse storage in one canonical form. A store is a list of (key, value) pairs with strictly rising keys,
in which no entry equals what an unlisted key reads as (`dflt`). Memory, the device registers and the lane memories
all use it, so that equal contents are equal lists.
-/

namespace Sys2Proof.Machine

/-- What key `a` holds: the listed value, or `dflt a`. -/
def cellGet {α : Type} (dflt : Nat → α) (a : Nat) : List (Nat × α) → α
  | [] => dflt a
  | (k, v) :: rest => if k = a then v else cellGet dflt a rest

/-- Put `v` at key `a`; writing what an unlisted key reads as removes the entry. -/
def cellSet {α : Type} [DecidableEq α] (dflt : Nat → α) (a : Nat) (v : α) : List (Nat × α) → List (Nat × α)
  | [] => if v = dflt a then [] else [(a, v)]
  | (k, w) :: rest =>
    if a < k then (if v = dflt a then (k, w) :: rest else (a, v) :: (k, w) :: rest)
    else if a = k then (if v = dflt a then rest else (a, v) :: rest)
    else (k, w) :: cellSet dflt a v rest

/-- Every key of the list lies above `lo`. -/
def keysAbove {α : Type} (lo : Nat) : List (Nat × α) → Bool
  | [] => true
  | (k, _) :: rest => decide (lo < k) && keysAbove lo rest

/-- The canonical form: keys strictly rise, and no entry equals what an unlisted key reads as. -/
def cellsWf {α : Type} [DecidableEq α] (dflt : Nat → α) : List (Nat × α) → Bool
  | [] => true
  | (k, v) :: rest => decide (v ≠ dflt k) && keysAbove k rest && cellsWf dflt rest

/-- Every key for which `p` holds goes back to what an unlisted key reads as. -/
def cellClear {α : Type} (p : Nat → Bool) (l : List (Nat × α)) : List (Nat × α) :=
  l.filter (fun c => !p c.1)

end Sys2Proof.Machine
end

