-- ==== Sys2Proof/Machine/CoreState.lean ====
section
/-!
DEFINITION. The state of an Ibuno core and of a cluster's L2, as plain data: registers (Tables ISA-1, ISA-2, XLAT
translation registers), windows, MD registers with writes in flight (R95), the long-operation sections (R134), the
outstanding load, the store buffer (Table ORD-1), TLBs (Table XLAT-5), L1 and victim tags (Table CACHE-1), the
prediction structures (R141 to R143) and the events a core holds.
-/

namespace Sys2Proof.Machine

/-- Where a general register physically lives (R82, R83): a global, a register of a ring window, or a TW register. -/
inductive PReg where
  | g (n : Nat)
  | win (w n : Nat)
  | tw (n : Nat)
  deriving DecidableEq, Repr

/-- What a core is doing apart from its power state: held in reset, executing, debug-halted, or stopped until a reset
(R191, R69, R168, R425). -/
inductive CoreRun where
  | held | running | halted | stopped
  deriving DecidableEq, Repr

/-- What one MUL-group instruction writes to MDH, MDL and MDA and has not yet landed (R84, R95). -/
structure MdWrite where
  h : Option Word64
  l : Option Word64
  a : Option Word64
  deriving DecidableEq, Repr

/-- A long operation in progress (R97, R134): its destination, its result and whether it is written, the FSTAT.FLG
bits it raises, whether it divides by zero, its address, and its place in the issue order. -/
structure LongOp where
  dest : PReg
  result : Word64
  writes : Bool
  flags : Nat
  divZero : Bool
  pc : Word64
  order : Nat
  deriving DecidableEq, Repr

/-- A long-operation exception detected and not yet taken (R135, R136). -/
structure LongExc where
  code : Nat
  info : Nat
  pc : Word64
  order : Nat
  deriving DecidableEq, Repr

/-- Memory types (Table XLAT-4), coded as stage-1 TYPE. -/
inductive MemType where
  | normal | nonCacheable | deviceStrict | devicePosted
  deriving DecidableEq, Repr

/-- An exception of an instruction (Table TRAP-2): code, ECAUSE.INFO, EADDR where the table names one, ST and IMP. -/
structure Exc where
  code : Nat
  info : Nat
  eaddr : Option Word64
  st : Bool
  imp : Bool
  deriving DecidableEq, Repr

/-- What a core does with the data of its outstanding load when it arrives. -/
inductive LoadUse where
  | reg (rd : PReg) (signed : Bool) (size : Nat) (base : Option (PReg × Word64))
  | ldx (rd : PReg) (size : Nat)
  | swap (rd : PReg) (data : Word64) (add : Bool) (size : Nat)
  | mcpy (rd rs1 : PReg) (size : Nat)
  deriving DecidableEq, Repr

/-- One access of an instruction: an aligned or unaligned piece within one 64-byte line (R151, R152), with its virtual
and physical address, its size in bytes, its memory type and its guaranteed attribute. -/
structure Part where
  va : Nat
  pa : Nat
  size : Nat
  type : MemType
  g : Bool
  deriving DecidableEq, Repr

/-- The oldest unretired instruction of a core when it is a load that waits for its data (R151, R133): `err` once its
target has answered with an error, `voided` once a maintenance operation has met its fill (R266). -/
structure OutLoad where
  use : LoadUse
  parts : List Part
  seat : Nat
  err : Bool
  voided : Bool
  deriving DecidableEq, Repr

/-- A retired store in the store buffer (R282): `sent` once it has left for its target, `err` once the target has
answered with an error. -/
structure StoreEntry where
  pa : Nat
  size : Nat
  data : Nat
  type : MemType
  seat : Nat
  sent : Bool
  err : Bool
  deriving DecidableEq, Repr

/-- The reservation (R114): granule, exact address and size of the LDX, and who holds it (R297). -/
structure Reservation where
  pa : Nat
  size : Nat
  cached : Bool
  deriving DecidableEq, Repr

/-- The repeat latch (R103, R105): iterations left (the current one included), the I bit, the address of the prefix,
whether the count came from RPCNT, and the repeated instruction once its first iteration has been issued. -/
structure RepState where
  left : Nat
  fromRpcnt : Bool
  intr : Bool
  prefixPc : Word64
  latch : Option Instr
  deriving DecidableEq, Repr

/-- A TLB entry: the combined result of both stages for one page (R232), with the stage-1 and stage-2 permissions. -/
structure TlbEntry where
  seat : Nat
  asid : Nat
  glob : Bool
  va : Nat
  bits : Nat
  pa : Nat
  type : MemType
  ph : Nat
  g : Bool
  kx : Bool
  ux : Bool
  w : Bool
  u : Bool
  s2r : Bool
  s2w : Bool
  s2x : Bool
  lvl : Nat
  lvl2 : Nat
  pinned : Bool
  deriving DecidableEq, Repr

/-- A seat-table descriptor in a stage-2 walk cache (Table XLAT-5). -/
structure S2Entry where
  seat : Nat
  addr : Nat
  desc : Word64
  deriving DecidableEq, Repr

/-- A tag of an L1 cache: set, way and physical line number. -/
structure L1Tag where
  set : Nat
  way : Nat
  line : Nat
  deriving DecidableEq, Repr

/-- A seat-switch event that a core holds (R67, R69): the incoming seat and the slots counted since the event. -/
structure SwitchEvent where
  seat : Nat
  slots : Nat
  deriving DecidableEq, Repr

/-- The micro-state of a customer routine (R201, R210, Tables MCS-3 and MCS-4): micro-PC, loop counter, U0 to U15,
micro-flags, the RESULT and NZCV selected so far, the routine's own MD registers, its buffered stores with their values,
the micro-cycles used, and CYC of its code. -/
structure MicroRun where
  upc : Nat
  lc : Nat
  u : Vector Word64 16
  flags : BitVec 4
  result : Option Word64
  nzcv : Option (BitVec 4)
  mdh : Word64
  mdl : Word64
  mda : Word64
  stores : List (List Part × Nat)
  cyc : Nat
  limit : Nat
  deriving DecidableEq, Repr

/-- The micro-state bank of a core (R201): valid for the instruction's address and the SEATID. -/
structure MicroBank where
  run : MicroRun
  pc : Word64
  seat : Nat
  deriving DecidableEq, Repr

/-- One Ibuno core. -/
structure Core where
  run : CoreRun
  pc : Word64
  g : Vector Word64 12
  win : Vector (Vector Word64 16) 12
  tw : Vector Word64 20
  mdh : Word64
  mdl : Word64
  mda : Word64
  mdFlight : List MdWrite
  pstate : Word64
  epc : Word64
  ecause : Word64
  eaddr : Word64
  lxa : Word64
  tvec : Word64
  rpcnt : Word64
  seatid : Nat
  res : Nat
  cwp : Nat
  wspill : Word64
  fstat : Word64
  ptroot : Word64
  ptctl : Word64
  fpa : Word64
  reservation : Option Reservation
  rep : Option RepState
  afterReti : Bool
  longInt : Option LongOp
  longFp : Option LongOp
  longExcs : List LongExc
  order : Nat
  load : Option OutLoad
  stores : List StoreEntry
  busErr : Option Nat
  fillWait : Bool
  switchEv : Option SwitchEvent
  switching : Bool
  woken : Bool
  stepping : Bool
  stopAtResponse : Bool
  haltReq : Bool
  cmpSkip : Option Nat
  cmpLast : Option (Nat × Word64)
  ras : List Word64
  targets : List (Nat × Word64)
  history : BitVec 8
  lfsr : BitVec 16
  itlb : List TlbEntry
  dtlb : List TlbEntry
  tlb2 : List TlbEntry
  s2cache : List S2Entry
  l1i : List L1Tag
  l1d : List L1Tag
  victim : List Nat
  bank : Option MicroBank
  micro : Option MicroRun
  deriving DecidableEq, Repr

/-- One line of an L2 (R250, R253): set, way, owner seat, physical line number, data, which of its eight 64-bit words
are poisoned, dirty, and virtual address bits [13:12] of the fill to an L1 (R245). -/
structure L2Line where
  way : Nat
  seat : Nat
  line : Nat
  data : BitVec 512
  poison : BitVec 8
  dirty : Bool
  va : Nat
  deriving DecidableEq, Repr, Inhabited

/-- The L2 of one cluster: its lines and one replacement sequence per seat (R256). -/
structure L2 where
  lines : List L2Line
  lfsr : Vector (BitVec 16) 16
  deriving DecidableEq, Repr, Inhabited

/-- A core as release from reset leaves it (R126, R173, R195), before Welfen gives the entry address and the seat. -/
def Core.initial : Core where
  run := .held
  pc := 0
  g := Vector.replicate 12 0
  win := Vector.replicate 12 (Vector.replicate 16 0)
  tw := Vector.replicate 20 0
  mdh := 0
  mdl := 0
  mda := 0
  mdFlight := []
  pstate := 0xC0
  epc := 0
  ecause := 0
  eaddr := 0
  lxa := 0
  tvec := 0
  rpcnt := 0
  seatid := 0
  res := 1
  cwp := 0
  wspill := 0
  fstat := 0
  ptroot := 0
  ptctl := 0
  fpa := 0
  reservation := none
  rep := none
  afterReti := false
  longInt := none
  longFp := none
  longExcs := []
  order := 0
  load := none
  stores := []
  busErr := none
  fillWait := false
  switchEv := none
  switching := false
  woken := false
  stepping := false
  stopAtResponse := false
  haltReq := false
  cmpSkip := none
  cmpLast := none
  ras := []
  targets := []
  history := 0
  lfsr := 1
  itlb := []
  dtlb := []
  tlb2 := []
  s2cache := []
  l1i := []
  l1d := []
  victim := []
  bank := none
  micro := none

end Sys2Proof.Machine
end

