-- ==== Sys2Proof/Machine/RegBase.lean ====
section
/-!
DEFINITION. What a device register is (R9 to R15): an address pattern, a width of one or two words, and fields with
access codes, reset values and a governing lock. The map itself is Machine/RegMap.lean.
-/

namespace Sys2Proof.Machine

/-- The access codes of Table SCOPE-3. -/
inductive Access where
  | ro | rw | wo | w1c | w1s | rc | rwl | rwp
  deriving DecidableEq, Repr

/-- The lock that governs the RWL fields of a register: SEAT.LOCK.LOCK, DEAL.LOCK.LOCK, MCS.LOCK.LOCK, or the
register's own EN (R445). -/
inductive LockName where
  | none | seat | deal | mcs | ownEn
  deriving DecidableEq, Repr

/-- One field: lowest bit, width, access code, reset value, and whether Welfen writes it although it is read-only
(R13; Reset column W, R15). -/
structure FieldDef where
  lo : Nat
  w : Nat
  acc : Access
  reset : Nat
  byWelfen : Bool
  deriving DecidableEq, Repr

/-- One register of the map. Instance (i, j) lies at `base + i * s1 + j * s2`, for i from `i0` below `n1` and j from
`j0` below `n2`; a `wide` register occupies two words, the low word at the lower address (R10). -/
structure RegDef where
  base : Nat
  n1 : Nat
  s1 : Nat
  n2 : Nat
  s2 : Nat
  i0 : Nat
  j0 : Nat
  wide : Bool
  lock : LockName
  fields : List FieldDef
  deriving DecidableEq, Repr

/-- A field handle: a register, the field's lowest bit and its width. -/
structure Fld where
  reg : RegDef
  lo : Nat
  w : Nat
  deriving DecidableEq, Repr

/-- Physical address of instance (i, j). -/
def RegDef.addr (r : RegDef) (i j : Nat) : Nat := r.base + i * r.s1 + j * r.s2

/-- The outer and inner index of the instance whose word lies at address `a`, and 0 or 4 for the word within it. -/
def RegDef.place (r : RegDef) (a : Nat) : Nat × Nat × Nat :=
  let off := a - r.base
  (off / r.s1, off % r.s1 / r.s2, off % r.s1 % r.s2)

/-- Does the 32-bit word at address `a` belong to the register? -/
def RegDef.covers (r : RegDef) (a : Nat) : Bool :=
  let p := r.place a
  decide (r.base ≤ a) && decide (r.i0 ≤ p.1) && decide (p.1 < r.n1) && decide (r.j0 ≤ p.2.1) &&
    decide (p.2.1 < r.n2) && (p.2.2 == 0 || (r.wide && p.2.2 == 4))

/-- Reset value of the whole register (R15). -/
def RegDef.resetValue (r : RegDef) : Nat :=
  r.fields.foldl (fun v f => v + f.reset % 2 ^ f.w * 2 ^ f.lo) 0

end Sys2Proof.Machine
end

