-- ==== Sys2Proof/Machine/RegMap.lean ====
section
/-!
DEFINITION. The register map: every device register of the spec's register tables, with its physical address
(Table DEV-3 and the register maps DEAL-1, DEV-5, PIPE-11, MCS-5, XLAT-9, CACHE-4, CACHE-5, FAB-6, DMC-5, LANE-8,
CIO-4, ICU-3, SFI-3, BOOT-7, LCK-5, LCK-7, WCI-8, NET-3, UCL-4, PWR-10, DBG-3, DBG-5, PKG-5), its fields with their
access codes (Table SCOPE-3), their reset values, the lock that governs its RWL fields, and whether Welfen writes a
read-only field (R13). Names are the spec's, with `_` for the dot; `X_Y_F` is field F of register X.Y.
SFI.CWD* and PWC.CCTL appear in every seat page: their one home is the row of page 1 (see `homeAddr`).
-/

namespace Sys2Proof.Machine

/-- `SEAT.LOCK`. -/
def SEAT_LOCK : RegDef where
  base := 0x20000000
  n1 := 1
  s1 := 0x10000000000
  n2 := 1
  s2 := 0x10000000000
  i0 := 0
  j0 := 0
  wide := false
  lock := .seat
  fields := [⟨0, 1, .w1s, 0, false⟩]
def SEAT_LOCK_LOCK : Fld := ⟨SEAT_LOCK, 0, 1⟩

/-- `SEAT.STAT`. -/
def SEAT_STAT : RegDef where
  base := 0x20000004
  n1 := 1
  s1 := 0x10000000000
  n2 := 1
  s2 := 0x10000000000
  i0 := 0
  j0 := 0
  wide := false
  lock := .seat
  fields := [⟨16, 8, .ro, 0, false⟩,
    ⟨0, 8, .ro, 0, false⟩]
def SEAT_STAT_CHKIDX : Fld := ⟨SEAT_STAT, 16, 8⟩
def SEAT_STAT_CHKERR : Fld := ⟨SEAT_STAT, 0, 8⟩

/-- `SEAT.GUAR`. -/
def SEAT_GUAR : RegDef where
  base := 0x20000008
  n1 := 1
  s1 := 0x10000000000
  n2 := 1
  s2 := 0x10000000000
  i0 := 0
  j0 := 0
  wide := false
  lock := .seat
  fields := [⟨1, 15, .ro, 0, false⟩]
def SEAT_GUAR_GUAR : Fld := ⟨SEAT_GUAR, 1, 15⟩

/-- `SEAT.PAIRMODE`. -/
def SEAT_PAIRMODE : RegDef where
  base := 0x20000010
  n1 := 1
  s1 := 0x10000000000
  n2 := 1
  s2 := 0x10000000000
  i0 := 0
  j0 := 0
  wide := false
  lock := .seat
  fields := [⟨0, 16, .rwl, 0, true⟩]
def SEAT_PAIRMODE_LOCKED : Fld := ⟨SEAT_PAIRMODE, 0, 16⟩

/-- `SEAT.CORE`. -/
def SEAT_CORE : RegDef where
  base := 0x20001000
  n1 := 32
  s1 := 4
  n2 := 1
  s2 := 4
  i0 := 0
  j0 := 0
  wide := false
  lock := .seat
  fields := [⟨0, 4, .rwl, 0, true⟩]
def SEAT_CORE_OWNER : Fld := ⟨SEAT_CORE, 0, 4⟩

/-- `SEAT.BANK`. -/
def SEAT_BANK : RegDef where
  base := 0x20001100
  n1 := 32
  s1 := 4
  n2 := 1
  s2 := 4
  i0 := 0
  j0 := 0
  wide := false
  lock := .seat
  fields := [⟨8, 1, .rwl, 0, true⟩,
    ⟨0, 4, .rwl, 0, true⟩]
def SEAT_BANK_XING : Fld := ⟨SEAT_BANK, 8, 1⟩
def SEAT_BANK_OWNER : Fld := ⟨SEAT_BANK, 0, 4⟩

/-- `SEAT.LANE`. -/
def SEAT_LANE : RegDef where
  base := 0x20001200
  n1 := 64
  s1 := 4
  n2 := 1
  s2 := 4
  i0 := 0
  j0 := 0
  wide := false
  lock := .seat
  fields := [⟨0, 4, .rwl, 0, true⟩]
def SEAT_LANE_OWNER : Fld := ⟨SEAT_LANE, 0, 4⟩

/-- `SEAT.SDI`. -/
def SEAT_SDI : RegDef where
  base := 0x20001300
  n1 := 48
  s1 := 4
  n2 := 1
  s2 := 4
  i0 := 0
  j0 := 0
  wide := false
  lock := .seat
  fields := [⟨0, 4, .rwl, 0, true⟩]
def SEAT_SDI_OWNER : Fld := ⟨SEAT_SDI, 0, 4⟩

/-- `SEAT.HRP`. -/
def SEAT_HRP : RegDef where
  base := 0x20001400
  n1 := 24
  s1 := 4
  n2 := 1
  s2 := 4
  i0 := 0
  j0 := 0
  wide := false
  lock := .seat
  fields := [⟨0, 4, .rwl, 0, true⟩]
def SEAT_HRP_OWNER : Fld := ⟨SEAT_HRP, 0, 4⟩

/-- `SEAT.SRC`. -/
def SEAT_SRC : RegDef where
  base := 0x20001800
  n1 := 512
  s1 := 4
  n2 := 1
  s2 := 4
  i0 := 0
  j0 := 0
  wide := false
  lock := .seat
  fields := [⟨0, 4, .rwl, 0, true⟩]
def SEAT_SRC_OWNER : Fld := ⟨SEAT_SRC, 0, 4⟩

/-- `SEAT.XBBASE`. -/
def SEAT_XBBASE : RegDef where
  base := 0x20002000
  n1 := 64
  s1 := 0x10
  n2 := 1
  s2 := 0x10
  i0 := 0
  j0 := 0
  wide := false
  lock := .seat
  fields := [⟨12, 15, .rwl, 0, true⟩]
def SEAT_XBBASE_OFFSET : Fld := ⟨SEAT_XBBASE, 12, 15⟩

/-- `SEAT.XBSIZE`. -/
def SEAT_XBSIZE : RegDef where
  base := 0x20002004
  n1 := 64
  s1 := 0x10
  n2 := 1
  s2 := 0x10
  i0 := 0
  j0 := 0
  wide := false
  lock := .seat
  fields := [⟨0, 10, .rwl, 0, true⟩]
def SEAT_XBSIZE_NPAGE : Fld := ⟨SEAT_XBSIZE, 0, 10⟩

/-- `SEAT.XBCFG`. -/
def SEAT_XBCFG : RegDef where
  base := 0x20002008
  n1 := 64
  s1 := 0x10
  n2 := 1
  s2 := 0x10
  i0 := 0
  j0 := 0
  wide := false
  lock := .seat
  fields := [⟨31, 1, .rwl, 0, true⟩,
    ⟨4, 4, .rwl, 0, true⟩,
    ⟨0, 4, .rwl, 0, true⟩]
def SEAT_XBCFG_EN : Fld := ⟨SEAT_XBCFG, 31, 1⟩
def SEAT_XBCFG_READER : Fld := ⟨SEAT_XBCFG, 4, 4⟩
def SEAT_XBCFG_WRITER : Fld := ⟨SEAT_XBCFG, 0, 4⟩

/-- `SEAT.VIOL`. -/
def SEAT_VIOL : RegDef where
  base := 0x20003000
  n1 := 1
  s1 := 0x10000000000
  n2 := 1
  s2 := 0x10000000000
  i0 := 0
  j0 := 0
  wide := false
  lock := .seat
  fields := [⟨31, 1, .w1c, 0, false⟩,
    ⟨8, 16, .ro, 0, false⟩,
    ⟨4, 2, .ro, 0, false⟩,
    ⟨0, 4, .ro, 0, false⟩]
def SEAT_VIOL_VALID : Fld := ⟨SEAT_VIOL, 31, 1⟩
def SEAT_VIOL_COUNT : Fld := ⟨SEAT_VIOL, 8, 16⟩
def SEAT_VIOL_KIND : Fld := ⟨SEAT_VIOL, 4, 2⟩
def SEAT_VIOL_SEAT : Fld := ⟨SEAT_VIOL, 0, 4⟩

/-- `SEAT.VADDR`. -/
def SEAT_VADDR : RegDef where
  base := 0x20003008
  n1 := 1
  s1 := 0x10000000000
  n2 := 1
  s2 := 0x10000000000
  i0 := 0
  j0 := 0
  wide := true
  lock := .seat
  fields := [⟨0, 48, .ro, 0, false⟩]
def SEAT_VADDR_ADDR : Fld := ⟨SEAT_VADDR, 0, 48⟩

/-- `DEAL.LOCK`. -/
def DEAL_LOCK : RegDef where
  base := 0x20020000
  n1 := 1
  s1 := 0x10000000000
  n2 := 1
  s2 := 0x10000000000
  i0 := 0
  j0 := 0
  wide := false
  lock := .deal
  fields := [⟨0, 1, .w1s, 0, false⟩]
def DEAL_LOCK_LOCK : Fld := ⟨DEAL_LOCK, 0, 1⟩

/-- `DEAL.STAT`. -/
def DEAL_STAT : RegDef where
  base := 0x20020004
  n1 := 1
  s1 := 0x10000000000
  n2 := 1
  s2 := 0x10000000000
  i0 := 0
  j0 := 0
  wide := false
  lock := .deal
  fields := [⟨31, 1, .ro, 0, false⟩,
    ⟨16, 12, .ro, 0, false⟩,
    ⟨0, 8, .ro, 0, false⟩]
def DEAL_STAT_BUSY : Fld := ⟨DEAL_STAT, 31, 1⟩
def DEAL_STAT_CHKIDX : Fld := ⟨DEAL_STAT, 16, 12⟩
def DEAL_STAT_CHKERR : Fld := ⟨DEAL_STAT, 0, 8⟩

/-- `DEAL.CFG`. -/
def DEAL_CFG : RegDef where
  base := 0x20020008
  n1 := 1
  s1 := 0x10000000000
  n2 := 1
  s2 := 0x10000000000
  i0 := 0
  j0 := 0
  wide := false
  lock := .deal
  fields := [⟨16, 1, .rwl, 0, false⟩,
    ⟨8, 6, .rwl, 0, false⟩,
    ⟨0, 6, .rwl, 0, false⟩]
def DEAL_CFG_NEXT : Fld := ⟨DEAL_CFG, 16, 1⟩
def DEAL_CFG_LEN1 : Fld := ⟨DEAL_CFG, 8, 6⟩
def DEAL_CFG_LEN0 : Fld := ⟨DEAL_CFG, 0, 6⟩

/-- `DEAL.NOW`. -/
def DEAL_NOW : RegDef where
  base := 0x2002000C
  n1 := 1
  s1 := 0x10000000000
  n2 := 1
  s2 := 0x10000000000
  i0 := 0
  j0 := 0
  wide := false
  lock := .deal
  fields := [⟨16, 1, .ro, 0, false⟩,
    ⟨0, 12, .ro, 0, false⟩]
def DEAL_NOW_ACT : Fld := ⟨DEAL_NOW, 16, 1⟩
def DEAL_NOW_SLOT : Fld := ⟨DEAL_NOW, 0, 12⟩

/-- `DEAL.ROUND`. -/
def DEAL_ROUND : RegDef where
  base := 0x20020010
  n1 := 1
  s1 := 0x10000000000
  n2 := 1
  s2 := 0x10000000000
  i0 := 0
  j0 := 0
  wide := false
  lock := .deal
  fields := [⟨0, 32, .ro, 0, false⟩]
def DEAL_ROUND_COUNT : Fld := ⟨DEAL_ROUND, 0, 32⟩

/-- `DEAL.ERR`. -/
def DEAL_ERR : RegDef where
  base := 0x20020014
  n1 := 1
  s1 := 0x10000000000
  n2 := 1
  s2 := 0x10000000000
  i0 := 0
  j0 := 0
  wide := false
  lock := .deal
  fields := [⟨31, 1, .ro, 0, false⟩,
    ⟨16, 12, .ro, 0, false⟩,
    ⟨0, 16, .rc, 0, false⟩]
def DEAL_ERR_UE : Fld := ⟨DEAL_ERR, 31, 1⟩
def DEAL_ERR_UEIDX : Fld := ⟨DEAL_ERR, 16, 12⟩
def DEAL_ERR_CE : Fld := ⟨DEAL_ERR, 0, 16⟩

/-- `DEAL.RFI`. -/
def DEAL_RFI : RegDef where
  base := 0x20020018
  n1 := 1
  s1 := 0x10000000000
  n2 := 1
  s2 := 0x10000000000
  i0 := 0
  j0 := 0
  wide := false
  lock := .deal
  fields := [⟨0, 12, .rwl, 0x186, false⟩]
def DEAL_RFI_MAXGAP : Fld := ⟨DEAL_RFI, 0, 12⟩

/-- `DEAL.SWLIM`. -/
def DEAL_SWLIM : RegDef where
  base := 0x2002001C
  n1 := 1
  s1 := 0x10000000000
  n2 := 1
  s2 := 0x10000000000
  i0 := 0
  j0 := 0
  wide := false
  lock := .deal
  fields := [⟨0, 8, .rwl, 0x40, false⟩]
def DEAL_SWLIM_LIMIT : Fld := ⟨DEAL_SWLIM, 0, 8⟩

/-- `DEAL.ROTCORE`. -/
def DEAL_ROTCORE : RegDef where
  base := 0x20020020
  n1 := 4
  s1 := 4
  n2 := 1
  s2 := 4
  i0 := 0
  j0 := 0
  wide := false
  lock := .deal
  fields := [⟨0, 32, .rwl, 0, false⟩]
def DEAL_ROTCORE_CORES : Fld := ⟨DEAL_ROTCORE, 0, 32⟩

/-- `DEAL.SWSTAT`. -/
def DEAL_SWSTAT : RegDef where
  base := 0x20020040
  n1 := 1
  s1 := 0x10000000000
  n2 := 1
  s2 := 0x10000000000
  i0 := 0
  j0 := 0
  wide := false
  lock := .deal
  fields := [⟨31, 1, .w1c, 0, false⟩,
    ⟨30, 1, .w1c, 0, false⟩,
    ⟨16, 5, .ro, 0, false⟩,
    ⟨0, 4, .ro, 0, false⟩]
def DEAL_SWSTAT_OVR : Fld := ⟨DEAL_SWSTAT, 31, 1⟩
def DEAL_SWSTAT_MISS : Fld := ⟨DEAL_SWSTAT, 30, 1⟩
def DEAL_SWSTAT_CORE : Fld := ⟨DEAL_SWSTAT, 16, 5⟩
def DEAL_SWSTAT_SEAT : Fld := ⟨DEAL_SWSTAT, 0, 4⟩

/-- `DEAL.SLOT`. -/
def DEAL_SLOT : RegDef where
  base := 0x20030000
  n1 := 2
  s1 := 0x4000
  n2 := 4096
  s2 := 4
  i0 := 0
  j0 := 0
  wide := false
  lock := .deal
  fields := [⟨18, 2, .rwl, 0, false⟩,
    ⟨17, 1, .rwl, 0, false⟩,
    ⟨12, 4, .rwl, 0, false⟩,
    ⟨8, 2, .rwl, 0, false⟩,
    ⟨0, 4, .rwl, 0, false⟩]
def DEAL_SLOT_SWG : Fld := ⟨DEAL_SLOT, 18, 2⟩
def DEAL_SLOT_SW : Fld := ⟨DEAL_SLOT, 17, 1⟩
def DEAL_SLOT_CH : Fld := ⟨DEAL_SLOT, 12, 4⟩
def DEAL_SLOT_KIND : Fld := ⟨DEAL_SLOT, 8, 2⟩
def DEAL_SLOT_OWNER : Fld := ⟨DEAL_SLOT, 0, 4⟩

/-- `IBC.DMLATS`. -/
def IBC_DMLATS : RegDef where
  base := 0x22000000
  n1 := 32
  s1 := 0x10000
  n2 := 1
  s2 := 0x10000
  i0 := 0
  j0 := 0
  wide := false
  lock := .seat
  fields := [⟨0, 20, .rwl, 0, true⟩]
def IBC_DMLATS_CYC : Fld := ⟨IBC_DMLATS, 0, 20⟩

/-- `IBC.DMLATD`. -/
def IBC_DMLATD : RegDef where
  base := 0x22000004
  n1 := 32
  s1 := 0x10000
  n2 := 1
  s2 := 0x10000
  i0 := 0
  j0 := 0
  wide := false
  lock := .seat
  fields := [⟨0, 20, .rwl, 0, true⟩]
def IBC_DMLATD_CYC : Fld := ⟨IBC_DMLATD, 0, 20⟩

/-- `IBC.DMSTAT`. -/
def IBC_DMSTAT : RegDef where
  base := 0x22000008
  n1 := 32
  s1 := 0x10000
  n2 := 1
  s2 := 0x10000
  i0 := 0
  j0 := 0
  wide := false
  lock := .seat
  fields := [⟨31, 1, .w1c, 0, false⟩,
    ⟨30, 1, .w1c, 0, false⟩,
    ⟨0, 20, .ro, 0, false⟩]
def IBC_DMSTAT_OVR : Fld := ⟨IBC_DMSTAT, 31, 1⟩
def IBC_DMSTAT_VAR : Fld := ⟨IBC_DMSTAT, 30, 1⟩
def IBC_DMSTAT_MAXEXC : Fld := ⟨IBC_DMSTAT, 0, 20⟩

/-- `IBC.LSSTAT`. -/
def IBC_LSSTAT : RegDef where
  base := 0x22000010
  n1 := 32
  s1 := 0x10000
  n2 := 1
  s2 := 0x10000
  i0 := 0
  j0 := 0
  wide := false
  lock := .seat
  fields := [⟨31, 1, .w1c, 0, false⟩,
    ⟨0, 4, .ro, 0, false⟩]
def IBC_LSSTAT_MISM : Fld := ⟨IBC_LSSTAT, 31, 1⟩
def IBC_LSSTAT_KIND : Fld := ⟨IBC_LSSTAT, 0, 4⟩

/-- `IBC.LSPC`. -/
def IBC_LSPC : RegDef where
  base := 0x22000018
  n1 := 32
  s1 := 0x10000
  n2 := 1
  s2 := 0x10000
  i0 := 0
  j0 := 0
  wide := true
  lock := .seat
  fields := [⟨0, 48, .ro, 0, false⟩]
def IBC_LSPC_PC : Fld := ⟨IBC_LSPC, 0, 48⟩

/-- `IBC.PMCTL`. -/
def IBC_PMCTL : RegDef where
  base := 0x22001000
  n1 := 32
  s1 := 0x10000
  n2 := 1
  s2 := 0x10000
  i0 := 0
  j0 := 0
  wide := false
  lock := .seat
  fields := [⟨9, 1, .rw, 0, false⟩,
    ⟨8, 1, .rw, 0, false⟩,
    ⟨0, 6, .rw, 0, false⟩]
def IBC_PMCTL_IRQ : Fld := ⟨IBC_PMCTL, 9, 1⟩
def IBC_PMCTL_FRZ : Fld := ⟨IBC_PMCTL, 8, 1⟩
def IBC_PMCTL_EN : Fld := ⟨IBC_PMCTL, 0, 6⟩

/-- `IBC.PMOVF`. -/
def IBC_PMOVF : RegDef where
  base := 0x22001004
  n1 := 32
  s1 := 0x10000
  n2 := 1
  s2 := 0x10000
  i0 := 0
  j0 := 0
  wide := false
  lock := .seat
  fields := [⟨0, 6, .w1c, 0, false⟩]
def IBC_PMOVF_OVF : Fld := ⟨IBC_PMOVF, 0, 6⟩

/-- `IBC.PMEVT`. -/
def IBC_PMEVT : RegDef where
  base := 0x22001010
  n1 := 32
  s1 := 0x10000
  n2 := 6
  s2 := 4
  i0 := 0
  j0 := 0
  wide := false
  lock := .seat
  fields := [⟨12, 1, .rw, 0, false⟩,
    ⟨11, 1, .rw, 0, false⟩,
    ⟨10, 1, .rw, 0, false⟩,
    ⟨9, 1, .rw, 0, false⟩,
    ⟨0, 8, .rw, 0, false⟩]
def IBC_PMEVT_DMONLY : Fld := ⟨IBC_PMEVT, 12, 1⟩
def IBC_PMEVT_MON : Fld := ⟨IBC_PMEVT, 11, 1⟩
def IBC_PMEVT_KRN : Fld := ⟨IBC_PMEVT, 10, 1⟩
def IBC_PMEVT_USR : Fld := ⟨IBC_PMEVT, 9, 1⟩
def IBC_PMEVT_EVENT : Fld := ⟨IBC_PMEVT, 0, 8⟩

/-- `IBC.PMCNT`. -/
def IBC_PMCNT : RegDef where
  base := 0x22001040
  n1 := 32
  s1 := 0x10000
  n2 := 6
  s2 := 8
  i0 := 0
  j0 := 0
  wide := true
  lock := .seat
  fields := [⟨0, 48, .rw, 0, false⟩]
def IBC_PMCNT_COUNT : Fld := ⟨IBC_PMCNT, 0, 48⟩

/-- `MCS.LOCK`. -/
def MCS_LOCK : RegDef where
  base := 0x20120000
  n1 := 1
  s1 := 0x10000000000
  n2 := 1
  s2 := 0x10000000000
  i0 := 0
  j0 := 0
  wide := false
  lock := .mcs
  fields := [⟨0, 1, .w1s, 0, false⟩]
def MCS_LOCK_LOCK : Fld := ⟨MCS_LOCK, 0, 1⟩

/-- `MCS.STAT`. -/
def MCS_STAT : RegDef where
  base := 0x20120004
  n1 := 1
  s1 := 0x10000000000
  n2 := 1
  s2 := 0x10000000000
  i0 := 0
  j0 := 0
  wide := false
  lock := .mcs
  fields := [⟨16, 16, .ro, 0, false⟩,
    ⟨0, 12, .ro, 0, false⟩]
def MCS_STAT_PATCHVER : Fld := ⟨MCS_STAT, 16, 16⟩
def MCS_STAT_CXUSED : Fld := ⟨MCS_STAT, 0, 12⟩

/-- `MCS.PERR`. -/
def MCS_PERR : RegDef where
  base := 0x20120008
  n1 := 1
  s1 := 0x10000000000
  n2 := 1
  s2 := 0x10000000000
  i0 := 0
  j0 := 0
  wide := false
  lock := .mcs
  fields := [⟨31, 1, .w1c, 0, false⟩,
    ⟨30, 1, .ro, 0, false⟩,
    ⟨27, 3, .ro, 0, false⟩,
    ⟨0, 14, .ro, 0, false⟩]
def MCS_PERR_VALID : Fld := ⟨MCS_PERR, 31, 1⟩
def MCS_PERR_PERM : Fld := ⟨MCS_PERR, 30, 1⟩
def MCS_PERR_CLU : Fld := ⟨MCS_PERR, 27, 3⟩
def MCS_PERR_ADDR : Fld := ⟨MCS_PERR, 0, 14⟩

/-- `MCS.WADDR`. -/
def MCS_WADDR : RegDef where
  base := 0x20120010
  n1 := 1
  s1 := 0x10000000000
  n2 := 1
  s2 := 0x10000000000
  i0 := 0
  j0 := 0
  wide := false
  lock := .mcs
  fields := [⟨0, 14, .rwl, 0, false⟩]
def MCS_WADDR_ADDR : Fld := ⟨MCS_WADDR, 0, 14⟩

/-- `MCS.WDATA`. -/
def MCS_WDATA : RegDef where
  base := 0x20120020
  n1 := 4
  s1 := 4
  n2 := 1
  s2 := 4
  i0 := 0
  j0 := 0
  wide := false
  lock := .mcs
  fields := [⟨0, 32, .rwl, 0, false⟩]
def MCS_WDATA_DATA : Fld := ⟨MCS_WDATA, 0, 32⟩

/-- `MCS.PMATCH`. -/
def MCS_PMATCH : RegDef where
  base := 0x20120100
  n1 := 64
  s1 := 4
  n2 := 1
  s2 := 4
  i0 := 0
  j0 := 0
  wide := false
  lock := .mcs
  fields := [⟨31, 1, .rwl, 0, false⟩,
    ⟨16, 14, .rwl, 0, false⟩,
    ⟨0, 14, .rwl, 0, false⟩]
def MCS_PMATCH_EN : Fld := ⟨MCS_PMATCH, 31, 1⟩
def MCS_PMATCH_ROMADDR : Fld := ⟨MCS_PMATCH, 16, 14⟩
def MCS_PMATCH_TARGET : Fld := ⟨MCS_PMATCH, 0, 14⟩

/-- `MCS.CXENT`. -/
def MCS_CXENT : RegDef where
  base := 0x20121000
  n1 := 1024
  s1 := 4
  n2 := 1
  s2 := 4
  i0 := 0
  j0 := 0
  wide := false
  lock := .mcs
  fields := [⟨31, 1, .rwl, 0, false⟩,
    ⟨24, 4, .rwl, 0, false⟩,
    ⟨22, 2, .rwl, 0, false⟩,
    ⟨21, 1, .rwl, 0, false⟩,
    ⟨11, 10, .rwl, 0, false⟩,
    ⟨0, 11, .rwl, 0, false⟩]
def MCS_CXENT_VALID : Fld := ⟨MCS_CXENT, 31, 1⟩
def MCS_CXENT_SEAT : Fld := ⟨MCS_CXENT, 24, 4⟩
def MCS_CXENT_LEVEL : Fld := ⟨MCS_CXENT, 22, 2⟩
def MCS_CXENT_MT : Fld := ⟨MCS_CXENT, 21, 1⟩
def MCS_CXENT_CYC : Fld := ⟨MCS_CXENT, 11, 10⟩
def MCS_CXENT_ENTRY : Fld := ⟨MCS_CXENT, 0, 11⟩

/-- `MMU.STAT`. -/
def MMU_STAT : RegDef where
  base := 0x20050000
  n1 := 1
  s1 := 0x10000000000
  n2 := 1
  s2 := 0x10000000000
  i0 := 0
  j0 := 0
  wide := false
  lock := .seat
  fields := [⟨31, 1, .w1c, 0, false⟩,
    ⟨0, 4, .ro, 0, false⟩]
def MMU_STAT_FVIOL : Fld := ⟨MMU_STAT, 31, 1⟩
def MMU_STAT_FSEAT : Fld := ⟨MMU_STAT, 0, 4⟩

/-- `MMU.ERR`. -/
def MMU_ERR : RegDef where
  base := 0x20050004
  n1 := 1
  s1 := 0x10000000000
  n2 := 1
  s2 := 0x10000000000
  i0 := 0
  j0 := 0
  wide := false
  lock := .seat
  fields := [⟨0, 16, .rc, 0, false⟩]
def MMU_ERR_CE : Fld := ⟨MMU_ERR, 0, 16⟩

/-- `MMU.S2ROOT`. -/
def MMU_S2ROOT : RegDef where
  base := 0x20050100
  n1 := 16
  s1 := 8
  n2 := 1
  s2 := 8
  i0 := 0
  j0 := 0
  wide := true
  lock := .seat
  fields := [⟨12, 36, .rwl, 0, true⟩,
    ⟨0, 1, .rwl, 0, true⟩]
def MMU_S2ROOT_ROOT : Fld := ⟨MMU_S2ROOT, 12, 36⟩
def MMU_S2ROOT_EN : Fld := ⟨MMU_S2ROOT, 0, 1⟩

/-- `MMU.SEATCFG`. -/
def MMU_SEATCFG : RegDef where
  base := 0x20050200
  n1 := 16
  s1 := 4
  n2 := 1
  s2 := 4
  i0 := 0
  j0 := 0
  wide := false
  lock := .seat
  fields := [⟨0, 1, .rwl, 0, true⟩]
def MMU_SEATCFG_CODEPATCH : Fld := ⟨MMU_SEATCFG, 0, 1⟩

/-- `MMU.FBASE`. -/
def MMU_FBASE : RegDef where
  base := 0x20050300
  n1 := 1
  s1 := 0x10000000000
  n2 := 1
  s2 := 0x10000000000
  i0 := 0
  j0 := 0
  wide := true
  lock := .seat
  fields := [⟨12, 36, .rwl, 0, true⟩]
def MMU_FBASE_PAGE : Fld := ⟨MMU_FBASE, 12, 36⟩

/-- `MMU.FLIM`. -/
def MMU_FLIM : RegDef where
  base := 0x20050308
  n1 := 1
  s1 := 0x10000000000
  n2 := 1
  s2 := 0x10000000000
  i0 := 0
  j0 := 0
  wide := true
  lock := .seat
  fields := [⟨12, 36, .rwl, 0, true⟩]
def MMU_FLIM_PAGE : Fld := ⟨MMU_FLIM, 12, 36⟩

/-- `MMU.S2INV`. -/
def MMU_S2INV : RegDef where
  base := 0x20050310
  n1 := 1
  s1 := 0x10000000000
  n2 := 1
  s2 := 0x10000000000
  i0 := 0
  j0 := 0
  wide := false
  lock := .seat
  fields := [⟨31, 1, .wo, 0, false⟩,
    ⟨0, 4, .wo, 0, false⟩]
def MMU_S2INV_GO : Fld := ⟨MMU_S2INV, 31, 1⟩
def MMU_S2INV_SEAT : Fld := ⟨MMU_S2INV, 0, 4⟩

/-- `CACHE.WOWN`. -/
def CACHE_WOWN : RegDef where
  base := 0x22200000
  n1 := 8
  s1 := 0x10000
  n2 := 16
  s2 := 4
  i0 := 0
  j0 := 0
  wide := false
  lock := .seat
  fields := [⟨0, 4, .rwl, 0, true⟩]
def CACHE_WOWN_OWNER : Fld := ⟨CACHE_WOWN, 0, 4⟩

/-- `CACHE.ERR`. -/
def CACHE_ERR : RegDef where
  base := 0x22200040
  n1 := 8
  s1 := 0x10000
  n2 := 1
  s2 := 0x10000
  i0 := 0
  j0 := 0
  wide := false
  lock := .seat
  fields := [⟨16, 16, .rc, 0, false⟩,
    ⟨0, 16, .rc, 0, false⟩]
def CACHE_ERR_CEL1 : Fld := ⟨CACHE_ERR, 16, 16⟩
def CACHE_ERR_CEL2 : Fld := ⟨CACHE_ERR, 0, 16⟩

/-- `CACHE.UELOG`. -/
def CACHE_UELOG : RegDef where
  base := 0x22200048
  n1 := 8
  s1 := 0x10000
  n2 := 1
  s2 := 0x10000
  i0 := 0
  j0 := 0
  wide := true
  lock := .seat
  fields := [⟨63, 1, .w1c, 0, false⟩,
    ⟨60, 3, .ro, 0, false⟩,
    ⟨56, 4, .ro, 0, false⟩,
    ⟨52, 4, .ro, 0, false⟩,
    ⟨0, 48, .ro, 0, false⟩]
def CACHE_UELOG_VALID : Fld := ⟨CACHE_UELOG, 63, 1⟩
def CACHE_UELOG_KIND : Fld := ⟨CACHE_UELOG, 60, 3⟩
def CACHE_UELOG_SEAT : Fld := ⟨CACHE_UELOG, 56, 4⟩
def CACHE_UELOG_WAY : Fld := ⟨CACHE_UELOG, 52, 4⟩
def CACHE_UELOG_ADDR : Fld := ⟨CACHE_UELOG, 0, 48⟩

/-- `CACHE.SMASK`. -/
def CACHE_SMASK : RegDef where
  base := 0x22200000
  n1 := 8
  s1 := 0x10000
  n2 := 16
  s2 := 0x1000
  i0 := 0
  j0 := 1
  wide := false
  lock := .seat
  fields := [⟨0, 16, .ro, 0, false⟩]
def CACHE_SMASK_MASK : Fld := ⟨CACHE_SMASK, 0, 16⟩

/-- `CACHE.SCTL`. -/
def CACHE_SCTL : RegDef where
  base := 0x22200004
  n1 := 8
  s1 := 0x10000
  n2 := 16
  s2 := 0x1000
  i0 := 0
  j0 := 1
  wide := false
  lock := .seat
  fields := [⟨16, 16, .rw, 0, false⟩,
    ⟨2, 1, .rw, 0, false⟩,
    ⟨1, 1, .rw, 0, false⟩,
    ⟨0, 1, .rw, 1, false⟩]
def CACHE_SCTL_FILLMASK : Fld := ⟨CACHE_SCTL, 16, 16⟩
def CACHE_SCTL_FILLEN : Fld := ⟨CACHE_SCTL, 2, 1⟩
def CACHE_SCTL_LKPROT : Fld := ⟨CACHE_SCTL, 1, 1⟩
def CACHE_SCTL_PFEN : Fld := ⟨CACHE_SCTL, 0, 1⟩

/-- `CACHE.WLOCK`. -/
def CACHE_WLOCK : RegDef where
  base := 0x22200008
  n1 := 8
  s1 := 0x10000
  n2 := 16
  s2 := 0x1000
  i0 := 0
  j0 := 1
  wide := false
  lock := .seat
  fields := [⟨0, 16, .rw, 0, false⟩]
def CACHE_WLOCK_LOCK : Fld := ⟨CACHE_WLOCK, 0, 16⟩

/-- `CACHE.STAT`. -/
def CACHE_STAT : RegDef where
  base := 0x2220000C
  n1 := 8
  s1 := 0x10000
  n2 := 16
  s2 := 0x1000
  i0 := 0
  j0 := 1
  wide := false
  lock := .seat
  fields := [⟨31, 1, .w1c, 0, false⟩,
    ⟨30, 1, .w1c, 0, false⟩]
def CACHE_STAT_LKSKIP : Fld := ⟨CACHE_STAT, 31, 1⟩
def CACHE_STAT_NOALLOC : Fld := ⟨CACHE_STAT, 30, 1⟩

/-- `DSTORE.BCFG`. -/
def DSTORE_BCFG : RegDef where
  base := 0x20180000
  n1 := 32
  s1 := 4
  n2 := 1
  s2 := 4
  i0 := 0
  j0 := 0
  wide := false
  lock := .seat
  fields := [⟨0, 2, .rwl, 0, true⟩]
def DSTORE_BCFG_MODE : Fld := ⟨DSTORE_BCFG, 0, 2⟩

/-- `DSTORE.ERR`. -/
def DSTORE_ERR : RegDef where
  base := 0x20180080
  n1 := 1
  s1 := 0x10000000000
  n2 := 1
  s2 := 0x10000000000
  i0 := 0
  j0 := 0
  wide := false
  lock := .seat
  fields := [⟨16, 16, .rc, 0, false⟩,
    ⟨0, 16, .rc, 0, false⟩]
def DSTORE_ERR_UE : Fld := ⟨DSTORE_ERR, 16, 16⟩
def DSTORE_ERR_CE : Fld := ⟨DSTORE_ERR, 0, 16⟩

/-- `DSTORE.UELOG`. -/
def DSTORE_UELOG : RegDef where
  base := 0x20180088
  n1 := 1
  s1 := 0x10000000000
  n2 := 1
  s2 := 0x10000000000
  i0 := 0
  j0 := 0
  wide := true
  lock := .seat
  fields := [⟨63, 1, .w1c, 0, false⟩,
    ⟨62, 1, .ro, 0, false⟩,
    ⟨57, 5, .ro, 0, false⟩,
    ⟨48, 4, .ro, 0, false⟩,
    ⟨3, 45, .ro, 0, false⟩]
def DSTORE_UELOG_VALID : Fld := ⟨DSTORE_UELOG, 63, 1⟩
def DSTORE_UELOG_SCRUB : Fld := ⟨DSTORE_UELOG, 62, 1⟩
def DSTORE_UELOG_BANK : Fld := ⟨DSTORE_UELOG, 57, 5⟩
def DSTORE_UELOG_SEAT : Fld := ⟨DSTORE_UELOG, 48, 4⟩
def DSTORE_UELOG_ADDR : Fld := ⟨DSTORE_UELOG, 3, 45⟩

/-- `DSTORE.SCRUB`. -/
def DSTORE_SCRUB : RegDef where
  base := 0x20180090
  n1 := 1
  s1 := 0x10000000000
  n2 := 1
  s2 := 0x10000000000
  i0 := 0
  j0 := 0
  wide := false
  lock := .seat
  fields := [⟨31, 1, .rw, 1, false⟩,
    ⟨0, 16, .ro, 0, false⟩]
def DSTORE_SCRUB_EN : Fld := ⟨DSTORE_SCRUB, 31, 1⟩
def DSTORE_SCRUB_PASSES : Fld := ⟨DSTORE_SCRUB, 0, 16⟩

/-- `DSTORE.INITSTAT`. -/
def DSTORE_INITSTAT : RegDef where
  base := 0x20180094
  n1 := 1
  s1 := 0x10000000000
  n2 := 1
  s2 := 0x10000000000
  i0 := 0
  j0 := 0
  wide := false
  lock := .seat
  fields := [⟨0, 32, .ro, 0xFFFFFFFF, false⟩]
def DSTORE_INITSTAT_BUSY : Fld := ⟨DSTORE_INITSTAT, 0, 32⟩

/-- `FAB.PROT`. -/
def FAB_PROT : RegDef where
  base := 0x20040000
  n1 := 1
  s1 := 0x10000000000
  n2 := 1
  s2 := 0x10000000000
  i0 := 0
  j0 := 0
  wide := false
  lock := .seat
  fields := [⟨0, 4, .rwl, 0, false⟩]
def FAB_PROT_E2E : Fld := ⟨FAB_PROT, 0, 4⟩

/-- `FAB.STAT`. -/
def FAB_STAT : RegDef where
  base := 0x20040004
  n1 := 1
  s1 := 0x10000000000
  n2 := 1
  s2 := 0x10000000000
  i0 := 0
  j0 := 0
  wide := false
  lock := .seat
  fields := [⟨31, 1, .w1c, 0, false⟩,
    ⟨8, 8, .ro, 0, false⟩,
    ⟨0, 8, .ro, 0, false⟩]
def FAB_STAT_DEADEV : Fld := ⟨FAB_STAT, 31, 1⟩
def FAB_STAT_NDEAD : Fld := ⟨FAB_STAT, 8, 8⟩
def FAB_STAT_FIRST : Fld := ⟨FAB_STAT, 0, 8⟩

/-- `FAB.ERR`. -/
def FAB_ERR : RegDef where
  base := 0x20040008
  n1 := 1
  s1 := 0x10000000000
  n2 := 1
  s2 := 0x10000000000
  i0 := 0
  j0 := 0
  wide := false
  lock := .seat
  fields := [⟨24, 8, .rc, 0, false⟩,
    ⟨16, 8, .rc, 0, false⟩,
    ⟨0, 16, .rc, 0, false⟩]
def FAB_ERR_LATE : Fld := ⟨FAB_ERR, 24, 8⟩
def FAB_ERR_UE : Fld := ⟨FAB_ERR, 16, 8⟩
def FAB_ERR_CE : Fld := ⟨FAB_ERR, 0, 16⟩

/-- `FAB.ELOG`. -/
def FAB_ELOG : RegDef where
  base := 0x20040010
  n1 := 1
  s1 := 0x10000000000
  n2 := 1
  s2 := 0x10000000000
  i0 := 0
  j0 := 0
  wide := true
  lock := .seat
  fields := [⟨63, 1, .w1c, 0, false⟩,
    ⟨60, 3, .ro, 0, false⟩,
    ⟨54, 2, .ro, 0, false⟩,
    ⟨48, 6, .ro, 0, false⟩,
    ⟨44, 4, .ro, 0, false⟩,
    ⟨40, 4, .ro, 0, false⟩,
    ⟨32, 8, .ro, 0, false⟩]
def FAB_ELOG_VALID : Fld := ⟨FAB_ELOG, 63, 1⟩
def FAB_ELOG_KIND : Fld := ⟨FAB_ELOG, 60, 3⟩
def FAB_ELOG_VN : Fld := ⟨FAB_ELOG, 54, 2⟩
def FAB_ELOG_ROUTER : Fld := ⟨FAB_ELOG, 48, 6⟩
def FAB_ELOG_PORT : Fld := ⟨FAB_ELOG, 44, 4⟩
def FAB_ELOG_SEAT : Fld := ⟨FAB_ELOG, 40, 4⟩
def FAB_ELOG_TGT : Fld := ⟨FAB_ELOG, 32, 8⟩

/-- `FAB.QUENCH`. -/
def FAB_QUENCH : RegDef where
  base := 0x20040020
  n1 := 1
  s1 := 0x10000000000
  n2 := 1
  s2 := 0x10000000000
  i0 := 0
  j0 := 0
  wide := false
  lock := .seat
  fields := [⟨1, 15, .rw, 0, false⟩]
def FAB_QUENCH_SEAT : Fld := ⟨FAB_QUENCH, 1, 15⟩

/-- `FAB.PELOG0`. -/
def FAB_PELOG0 : RegDef where
  base := 0x20040040
  n1 := 1
  s1 := 0x10000000000
  n2 := 1
  s2 := 0x10000000000
  i0 := 0
  j0 := 0
  wide := true
  lock := .seat
  fields := [⟨63, 1, .w1c, 0, false⟩,
    ⟨0, 48, .ro, 0, false⟩]
def FAB_PELOG0_VALID : Fld := ⟨FAB_PELOG0, 63, 1⟩
def FAB_PELOG0_ADDR : Fld := ⟨FAB_PELOG0, 0, 48⟩

/-- `FAB.PECNT0`. -/
def FAB_PECNT0 : RegDef where
  base := 0x20040048
  n1 := 1
  s1 := 0x10000000000
  n2 := 1
  s2 := 0x10000000000
  i0 := 0
  j0 := 0
  wide := false
  lock := .seat
  fields := [⟨0, 16, .rc, 0, false⟩]
def FAB_PECNT0_COUNT : Fld := ⟨FAB_PECNT0, 0, 16⟩

/-- `FAB.DTTMO`. -/
def FAB_DTTMO : RegDef where
  base := 0x20040100
  n1 := 1
  s1 := 0x10000000000
  n2 := 1
  s2 := 0x10000000000
  i0 := 0
  j0 := 0
  wide := false
  lock := .seat
  fields := [⟨0, 5, .rwl, 0x14, false⟩]
def FAB_DTTMO_TMO : Fld := ⟨FAB_DTTMO, 0, 5⟩

/-- `FAB.TGT`. -/
def FAB_TGT : RegDef where
  base := 0x20040400
  n1 := 256
  s1 := 4
  n2 := 1
  s2 := 4
  i0 := 0
  j0 := 0
  wide := false
  lock := .seat
  fields := [⟨31, 1, .w1c, 0, false⟩,
    ⟨30, 1, .rw, 0, false⟩,
    ⟨0, 8, .ro, 0, false⟩]
def FAB_TGT_DEAD : Fld := ⟨FAB_TGT, 31, 1⟩
def FAB_TGT_ISO : Fld := ⟨FAB_TGT, 30, 1⟩
def FAB_TGT_OUT : Fld := ⟨FAB_TGT, 0, 8⟩

/-- `FAB.PELOG`. -/
def FAB_PELOG : RegDef where
  base := 0x20040000
  n1 := 16
  s1 := 0x1000
  n2 := 1
  s2 := 0x1000
  i0 := 1
  j0 := 0
  wide := true
  lock := .seat
  fields := [⟨63, 1, .w1c, 0, false⟩,
    ⟨0, 48, .ro, 0, false⟩]
def FAB_PELOG_VALID : Fld := ⟨FAB_PELOG, 63, 1⟩
def FAB_PELOG_ADDR : Fld := ⟨FAB_PELOG, 0, 48⟩

/-- `FAB.PECNT`. -/
def FAB_PECNT : RegDef where
  base := 0x20040008
  n1 := 16
  s1 := 0x1000
  n2 := 1
  s2 := 0x1000
  i0 := 1
  j0 := 0
  wide := false
  lock := .seat
  fields := [⟨0, 16, .rc, 0, false⟩]
def FAB_PECNT_COUNT : Fld := ⟨FAB_PECNT, 0, 16⟩

/-- `DMC.CFG`. -/
def DMC_CFG : RegDef where
  base := 0x22400000
  n1 := 4
  s1 := 0x20000
  n2 := 1
  s2 := 0x20000
  i0 := 0
  j0 := 0
  wide := false
  lock := .deal
  fields := [⟨8, 8, .rw, 0xA, false⟩,
    ⟨0, 1, .rw, 0, false⟩]
def DMC_CFG_IDLE : Fld := ⟨DMC_CFG, 8, 8⟩
def DMC_CFG_PPOL : Fld := ⟨DMC_CFG, 0, 1⟩

/-- `DMC.STAT`. -/
def DMC_STAT : RegDef where
  base := 0x22400004
  n1 := 4
  s1 := 0x20000
  n2 := 1
  s2 := 0x20000
  i0 := 0
  j0 := 0
  wide := false
  lock := .deal
  fields := [⟨31, 1, .ro, 0, false⟩,
    ⟨30, 1, .ro, 0, false⟩,
    ⟨29, 1, .ro, 0, false⟩,
    ⟨28, 1, .ro, 0, false⟩,
    ⟨27, 1, .w1c, 0, false⟩,
    ⟨26, 1, .w1c, 0, false⟩,
    ⟨0, 16, .rc, 0, false⟩]
def DMC_STAT_READY : Fld := ⟨DMC_STAT, 31, 1⟩
def DMC_STAT_TRERR : Fld := ⟨DMC_STAT, 30, 1⟩
def DMC_STAT_HOT : Fld := ⟨DMC_STAT, 29, 1⟩
def DMC_STAT_OVHT : Fld := ⟨DMC_STAT, 28, 1⟩
def DMC_STAT_BSCONF : Fld := ⟨DMC_STAT, 27, 1⟩
def DMC_STAT_GDOWN : Fld := ⟨DMC_STAT, 26, 1⟩
def DMC_STAT_U3CNT : Fld := ⟨DMC_STAT, 0, 16⟩

/-- `DMC.GEOM`. -/
def DMC_GEOM : RegDef where
  base := 0x22400008
  n1 := 4
  s1 := 0x20000
  n2 := 1
  s2 := 0x20000
  i0 := 0
  j0 := 0
  wide := false
  lock := .deal
  fields := [⟨16, 11, .ro, 0, false⟩,
    ⟨7, 1, .ro, 0, false⟩,
    ⟨4, 3, .ro, 0, false⟩,
    ⟨2, 2, .ro, 0, false⟩,
    ⟨0, 2, .ro, 0, false⟩]
def DMC_GEOM_CAP : Fld := ⟨DMC_GEOM, 16, 11⟩
def DMC_GEOM_X8 : Fld := ⟨DMC_GEOM, 7, 1⟩
def DMC_GEOM_DENS : Fld := ⟨DMC_GEOM, 4, 3⟩
def DMC_GEOM_RANKS : Fld := ⟨DMC_GEOM, 2, 2⟩
def DMC_GEOM_NDIMM : Fld := ⟨DMC_GEOM, 0, 2⟩

/-- `DMC.ILV`. -/
def DMC_ILV : RegDef where
  base := 0x2240000C
  n1 := 1
  s1 := 0x10000000000
  n2 := 1
  s2 := 0x10000000000
  i0 := 0
  j0 := 0
  wide := false
  lock := .deal
  fields := [⟨8, 2, .rwl, 0, true⟩,
    ⟨0, 3, .rwl, 0, true⟩]
def DMC_ILV_NCH : Fld := ⟨DMC_ILV, 8, 2⟩
def DMC_ILV_GRAIN : Fld := ⟨DMC_ILV, 0, 3⟩

/-- `DMC.TEMP`. -/
def DMC_TEMP : RegDef where
  base := 0x22400010
  n1 := 4
  s1 := 0x20000
  n2 := 1
  s2 := 0x20000
  i0 := 0
  j0 := 0
  wide := false
  lock := .deal
  fields := [⟨31, 1, .ro, 0, false⟩,
    ⟨8, 8, .ro, 0, false⟩,
    ⟨0, 8, .ro, 0, false⟩]
def DMC_TEMP_VALID : Fld := ⟨DMC_TEMP, 31, 1⟩
def DMC_TEMP_DIMM1 : Fld := ⟨DMC_TEMP, 8, 8⟩
def DMC_TEMP_DIMM0 : Fld := ⟨DMC_TEMP, 0, 8⟩

/-- `DMC.QOSTGT`. -/
def DMC_QOSTGT : RegDef where
  base := 0x22400020
  n1 := 4
  s1 := 0x20000
  n2 := 16
  s2 := 4
  i0 := 0
  j0 := 0
  wide := false
  lock := .deal
  fields := [⟨0, 8, .rw, 0x32, false⟩]
def DMC_QOSTGT_TGT : Fld := ⟨DMC_QOSTGT, 0, 8⟩

/-- `DMC.BSET`. -/
def DMC_BSET : RegDef where
  base := 0x22400080
  n1 := 4
  s1 := 0x20000
  n2 := 16
  s2 := 4
  i0 := 0
  j0 := 1
  wide := false
  lock := .deal
  fields := [⟨0, 32, .rwl, 0, true⟩]
def DMC_BSET_UNITS : Fld := ⟨DMC_BSET, 0, 32⟩

/-- `DMC.ERR`. -/
def DMC_ERR : RegDef where
  base := 0x22400100
  n1 := 4
  s1 := 0x20000
  n2 := 1
  s2 := 0x20000
  i0 := 0
  j0 := 0
  wide := false
  lock := .deal
  fields := [⟨16, 16, .rc, 0, false⟩,
    ⟨0, 16, .rc, 0, false⟩]
def DMC_ERR_UE : Fld := ⟨DMC_ERR, 16, 16⟩
def DMC_ERR_CE : Fld := ⟨DMC_ERR, 0, 16⟩

/-- `DMC.UELOG`. -/
def DMC_UELOG : RegDef where
  base := 0x22400108
  n1 := 4
  s1 := 0x20000
  n2 := 1
  s2 := 0x20000
  i0 := 0
  j0 := 0
  wide := true
  lock := .deal
  fields := [⟨63, 1, .w1c, 0, false⟩,
    ⟨62, 1, .ro, 0, false⟩,
    ⟨61, 1, .ro, 0, false⟩,
    ⟨56, 5, .ro, 0, false⟩,
    ⟨52, 4, .ro, 0, false⟩,
    ⟨48, 4, .ro, 0, false⟩,
    ⟨6, 42, .ro, 0, false⟩]
def DMC_UELOG_VALID : Fld := ⟨DMC_UELOG, 63, 1⟩
def DMC_UELOG_SCRUB : Fld := ⟨DMC_UELOG, 62, 1⟩
def DMC_UELOG_SUB : Fld := ⟨DMC_UELOG, 61, 1⟩
def DMC_UELOG_UNIT : Fld := ⟨DMC_UELOG, 56, 5⟩
def DMC_UELOG_SEAT : Fld := ⟨DMC_UELOG, 52, 4⟩
def DMC_UELOG_DEV : Fld := ⟨DMC_UELOG, 48, 4⟩
def DMC_UELOG_ADDR : Fld := ⟨DMC_UELOG, 6, 42⟩

/-- `DMC.CELOG`. -/
def DMC_CELOG : RegDef where
  base := 0x22400110
  n1 := 4
  s1 := 0x20000
  n2 := 1
  s2 := 0x20000
  i0 := 0
  j0 := 0
  wide := true
  lock := .deal
  fields := [⟨63, 1, .w1c, 0, false⟩,
    ⟨62, 1, .ro, 0, false⟩,
    ⟨61, 1, .ro, 0, false⟩,
    ⟨56, 5, .ro, 0, false⟩,
    ⟨52, 4, .ro, 0, false⟩,
    ⟨48, 4, .ro, 0, false⟩,
    ⟨6, 42, .ro, 0, false⟩]
def DMC_CELOG_VALID : Fld := ⟨DMC_CELOG, 63, 1⟩
def DMC_CELOG_SCRUB : Fld := ⟨DMC_CELOG, 62, 1⟩
def DMC_CELOG_SUB : Fld := ⟨DMC_CELOG, 61, 1⟩
def DMC_CELOG_UNIT : Fld := ⟨DMC_CELOG, 56, 5⟩
def DMC_CELOG_SEAT : Fld := ⟨DMC_CELOG, 52, 4⟩
def DMC_CELOG_DEV : Fld := ⟨DMC_CELOG, 48, 4⟩
def DMC_CELOG_ADDR : Fld := ⟨DMC_CELOG, 6, 42⟩

/-- `DMC.SCRUB`. -/
def DMC_SCRUB : RegDef where
  base := 0x22400118
  n1 := 4
  s1 := 0x20000
  n2 := 1
  s2 := 0x20000
  i0 := 0
  j0 := 0
  wide := false
  lock := .deal
  fields := [⟨31, 1, .rw, 1, false⟩,
    ⟨0, 16, .ro, 0, false⟩]
def DMC_SCRUB_EN : Fld := ⟨DMC_SCRUB, 31, 1⟩
def DMC_SCRUB_PASSES : Fld := ⟨DMC_SCRUB, 0, 16⟩

/-- `DMC.TRNDATA`. -/
def DMC_TRNDATA : RegDef where
  base := 0x22410000
  n1 := 4
  s1 := 0x20000
  n2 := 1024
  s2 := 4
  i0 := 0
  j0 := 0
  wide := false
  lock := .deal
  fields := [⟨0, 32, .ro, 0, false⟩]
def DMC_TRNDATA_DATA : Fld := ⟨DMC_TRNDATA, 0, 32⟩

/-- `LG.LPAIR`. -/
def LG_LPAIR : RegDef where
  base := 0x21000000
  n1 := 4
  s1 := 0x10000
  n2 := 1
  s2 := 0x10000
  i0 := 0
  j0 := 0
  wide := false
  lock := .seat
  fields := [⟨0, 8, .rwl, 0, true⟩]
def LG_LPAIR_LOCKED : Fld := ⟨LG_LPAIR, 0, 8⟩

/-- `LG.CTL`. -/
def LG_CTL : RegDef where
  base := 0x21001000
  n1 := 4
  s1 := 0x10000
  n2 := 1
  s2 := 0x10000
  i0 := 0
  j0 := 0
  wide := false
  lock := .seat
  fields := [⟨18, 1, .rw, 1, false⟩,
    ⟨17, 1, .rw, 1, false⟩,
    ⟨16, 1, .wo, 0, false⟩,
    ⟨0, 16, .wo, 0, false⟩]
def LG_CTL_OVRF : Fld := ⟨LG_CTL, 18, 1⟩
def LG_CTL_GFSTOP : Fld := ⟨LG_CTL, 17, 1⟩
def LG_CTL_KICK : Fld := ⟨LG_CTL, 16, 1⟩
def LG_CTL_START : Fld := ⟨LG_CTL, 0, 16⟩

/-- `LG.STAT`. -/
def LG_STAT : RegDef where
  base := 0x21001004
  n1 := 4
  s1 := 0x10000
  n2 := 1
  s2 := 0x10000
  i0 := 0
  j0 := 0
  wide := false
  lock := .seat
  fields := [⟨31, 1, .ro, 0, false⟩,
    ⟨30, 1, .ro, 0, false⟩,
    ⟨29, 1, .w1c, 0, false⟩,
    ⟨28, 1, .w1c, 0, false⟩,
    ⟨27, 1, .w1c, 0, false⟩,
    ⟨26, 1, .w1c, 0, false⟩,
    ⟨0, 16, .ro, 0, false⟩]
def LG_STAT_TGWAIT : Fld := ⟨LG_STAT, 31, 1⟩
def LG_STAT_LDBUSY : Fld := ⟨LG_STAT, 30, 1⟩
def LG_STAT_LDERR : Fld := ⟨LG_STAT, 29, 1⟩
def LG_STAT_HCOLL : Fld := ⟨LG_STAT, 28, 1⟩
def LG_STAT_XCOLL : Fld := ⟨LG_STAT, 27, 1⟩
def LG_STAT_SYNCERR : Fld := ⟨LG_STAT, 26, 1⟩
def LG_STAT_RUN : Fld := ⟨LG_STAT, 0, 16⟩

/-- `LG.SYNC`. -/
def LG_SYNC : RegDef where
  base := 0x21001008
  n1 := 4
  s1 := 0x10000
  n2 := 1
  s2 := 0x10000
  i0 := 0
  j0 := 0
  wide := false
  lock := .seat
  fields := [⟨30, 2, .rw, 0, false⟩,
    ⟨16, 6, .rw, 0, false⟩,
    ⟨0, 8, .rw, 0, false⟩]
def LG_SYNC_SRC : Fld := ⟨LG_SYNC, 30, 2⟩
def LG_SYNC_NUM : Fld := ⟨LG_SYNC, 16, 6⟩
def LG_SYNC_DIV : Fld := ⟨LG_SYNC, 0, 8⟩

/-- `LG.STOP`. -/
def LG_STOP : RegDef where
  base := 0x2100100C
  n1 := 4
  s1 := 0x10000
  n2 := 1
  s2 := 0x10000
  i0 := 0
  j0 := 0
  wide := false
  lock := .seat
  fields := [⟨0, 16, .wo, 0, false⟩]
def LG_STOP_MASK : Fld := ⟨LG_STOP, 0, 16⟩

/-- `LG.EVCNT`. -/
def LG_EVCNT : RegDef where
  base := 0x21001010
  n1 := 4
  s1 := 0x10000
  n2 := 1
  s2 := 0x10000
  i0 := 0
  j0 := 0
  wide := false
  lock := .seat
  fields := [⟨0, 32, .ro, 0, false⟩]
def LG_EVCNT_COUNT : Fld := ⟨LG_EVCNT, 0, 32⟩

/-- `LG.LOADSRC`. -/
def LG_LOADSRC : RegDef where
  base := 0x21001018
  n1 := 4
  s1 := 0x10000
  n2 := 1
  s2 := 0x10000
  i0 := 0
  j0 := 0
  wide := true
  lock := .seat
  fields := [⟨6, 42, .rw, 0, false⟩]
def LG_LOADSRC_ADDR : Fld := ⟨LG_LOADSRC, 6, 42⟩

/-- `LG.LOAD`. -/
def LG_LOAD : RegDef where
  base := 0x21001020
  n1 := 4
  s1 := 0x10000
  n2 := 1
  s2 := 0x10000
  i0 := 0
  j0 := 0
  wide := false
  lock := .seat
  fields := [⟨16, 16, .wo, 0, false⟩,
    ⟨0, 12, .wo, 0, false⟩]
def LG_LOAD_MASK : Fld := ⟨LG_LOAD, 16, 16⟩
def LG_LOAD_NWORDS : Fld := ⟨LG_LOAD, 0, 12⟩

/-- `LG.XW`. -/
def LG_XW : RegDef where
  base := 0x21001100
  n1 := 4
  s1 := 0x10000
  n2 := 64
  s2 := 4
  i0 := 0
  j0 := 0
  wide := false
  lock := .seat
  fields := [⟨0, 16, .rw, 0, false⟩]
def LG_XW_VALUE : Fld := ⟨LG_XW, 0, 16⟩

/-- `LN.CTL`. -/
def LN_CTL : RegDef where
  base := 0x21100000
  n1 := 64
  s1 := 0x10000
  n2 := 1
  s2 := 0x10000
  i0 := 0
  j0 := 0
  wide := false
  lock := .none
  fields := [⟨8, 1, .rw, 0, false⟩,
    ⟨4, 1, .wo, 0, false⟩,
    ⟨3, 1, .wo, 0, false⟩,
    ⟨2, 1, .wo, 0, false⟩,
    ⟨1, 1, .wo, 0, false⟩]
def LN_CTL_IEN : Fld := ⟨LN_CTL, 8, 1⟩
def LN_CTL_CLRF : Fld := ⟨LN_CTL, 4, 1⟩
def LN_CTL_STEP : Fld := ⟨LN_CTL, 3, 1⟩
def LN_CTL_HALT : Fld := ⟨LN_CTL, 2, 1⟩
def LN_CTL_RUN : Fld := ⟨LN_CTL, 1, 1⟩

/-- `LN.STAT`. -/
def LN_STAT : RegDef where
  base := 0x21100004
  n1 := 64
  s1 := 0x10000
  n2 := 1
  s2 := 0x10000
  i0 := 0
  j0 := 0
  wide := false
  lock := .none
  fields := [⟨30, 2, .ro, 0, false⟩,
    ⟨29, 1, .ro, 0, false⟩,
    ⟨28, 1, .ro, 0, false⟩,
    ⟨27, 1, .w1c, 0, false⟩,
    ⟨26, 1, .w1c, 0, false⟩,
    ⟨25, 1, .w1c, 0, false⟩,
    ⟨16, 8, .ro, 0, false⟩,
    ⟨0, 12, .ro, 0, false⟩]
def LN_STAT_STATE : Fld := ⟨LN_STAT, 30, 2⟩
def LN_STAT_WAIT : Fld := ⟨LN_STAT, 29, 1⟩
def LN_STAT_S : Fld := ⟨LN_STAT, 28, 1⟩
def LN_STAT_DONE : Fld := ⟨LN_STAT, 27, 1⟩
def LN_STAT_SIGP : Fld := ⟨LN_STAT, 26, 1⟩
def LN_STAT_PMWERR : Fld := ⟨LN_STAT, 25, 1⟩
def LN_STAT_FCODE : Fld := ⟨LN_STAT, 16, 8⟩
def LN_STAT_FPC : Fld := ⟨LN_STAT, 0, 12⟩

/-- `LN.ENTRY`. -/
def LN_ENTRY : RegDef where
  base := 0x21100008
  n1 := 64
  s1 := 0x10000
  n2 := 1
  s2 := 0x10000
  i0 := 0
  j0 := 0
  wide := false
  lock := .none
  fields := [⟨0, 12, .rw, 0, false⟩]
def LN_ENTRY_ADDR : Fld := ⟨LN_ENTRY, 0, 12⟩

/-- `LN.PC`. -/
def LN_PC : RegDef where
  base := 0x2110000C
  n1 := 64
  s1 := 0x10000
  n2 := 1
  s2 := 0x10000
  i0 := 0
  j0 := 0
  wide := false
  lock := .none
  fields := [⟨0, 12, .ro, 0, false⟩]
def LN_PC_PC : Fld := ⟨LN_PC, 0, 12⟩

/-- `LN.PMCRC`. -/
def LN_PMCRC : RegDef where
  base := 0x21100010
  n1 := 64
  s1 := 0x10000
  n2 := 1
  s2 := 0x10000
  i0 := 0
  j0 := 0
  wide := false
  lock := .none
  fields := [⟨0, 32, .ro, 0, false⟩]
def LN_PMCRC_CRC : Fld := ⟨LN_PMCRC, 0, 32⟩

/-- `LN.SIGCODE`. -/
def LN_SIGCODE : RegDef where
  base := 0x21100014
  n1 := 64
  s1 := 0x10000
  n2 := 1
  s2 := 0x10000
  i0 := 0
  j0 := 0
  wide := false
  lock := .none
  fields := [⟨0, 16, .ro, 0, false⟩]
def LN_SIGCODE_CODE : Fld := ⟨LN_SIGCODE, 0, 16⟩

/-- `LN.ERR`. -/
def LN_ERR : RegDef where
  base := 0x21100018
  n1 := 64
  s1 := 0x10000
  n2 := 1
  s2 := 0x10000
  i0 := 0
  j0 := 0
  wide := false
  lock := .none
  fields := [⟨24, 8, .rc, 0, false⟩,
    ⟨8, 8, .rc, 0, false⟩,
    ⟨0, 8, .rc, 0, false⟩]
def LN_ERR_EVOVR : Fld := ⟨LN_ERR, 24, 8⟩
def LN_ERR_CEDM : Fld := ⟨LN_ERR, 8, 8⟩
def LN_ERR_CEPM : Fld := ⟨LN_ERR, 0, 8⟩

/-- `LN.CRCLEN`. -/
def LN_CRCLEN : RegDef where
  base := 0x2110001C
  n1 := 64
  s1 := 0x10000
  n2 := 1
  s2 := 0x10000
  i0 := 0
  j0 := 0
  wide := false
  lock := .none
  fields := [⟨31, 1, .ro, 0, false⟩,
    ⟨0, 13, .rw, 0, false⟩]
def LN_CRCLEN_BUSY : Fld := ⟨LN_CRCLEN, 31, 1⟩
def LN_CRCLEN_N : Fld := ⟨LN_CRCLEN, 0, 13⟩

/-- `LN.MBIN`. -/
def LN_MBIN : RegDef where
  base := 0x21100020
  n1 := 64
  s1 := 0x10000
  n2 := 4
  s2 := 4
  i0 := 0
  j0 := 0
  wide := false
  lock := .none
  fields := [⟨0, 16, .rw, 0, false⟩]
def LN_MBIN_VALUE : Fld := ⟨LN_MBIN, 0, 16⟩

/-- `LN.MBOUT`. -/
def LN_MBOUT : RegDef where
  base := 0x21100030
  n1 := 64
  s1 := 0x10000
  n2 := 4
  s2 := 4
  i0 := 0
  j0 := 0
  wide := false
  lock := .none
  fields := [⟨0, 16, .ro, 0, false⟩]
def LN_MBOUT_VALUE : Fld := ⟨LN_MBOUT, 0, 16⟩

/-- `LN.FWBASE`. -/
def LN_FWBASE : RegDef where
  base := 0x21100040
  n1 := 64
  s1 := 0x10000
  n2 := 4
  s2 := 0x10
  i0 := 0
  j0 := 0
  wide := true
  lock := .none
  fields := [⟨6, 42, .rw, 0, false⟩,
    ⟨0, 1, .rw, 0, false⟩]
def LN_FWBASE_BASE : Fld := ⟨LN_FWBASE, 6, 42⟩
def LN_FWBASE_EN : Fld := ⟨LN_FWBASE, 0, 1⟩

/-- `LN.FWSIZE`. -/
def LN_FWSIZE : RegDef where
  base := 0x21100048
  n1 := 64
  s1 := 0x10000
  n2 := 4
  s2 := 0x10
  i0 := 0
  j0 := 0
  wide := false
  lock := .none
  fields := [⟨0, 16, .rw, 0, false⟩]
def LN_FWSIZE_NBLK : Fld := ⟨LN_FWSIZE, 0, 16⟩

/-- `LN.FWSTAT`. -/
def LN_FWSTAT : RegDef where
  base := 0x2110004C
  n1 := 64
  s1 := 0x10000
  n2 := 4
  s2 := 0x10
  i0 := 0
  j0 := 0
  wide := false
  lock := .none
  fields := [⟨16, 16, .ro, 0, false⟩,
    ⟨2, 1, .ro, 0, false⟩,
    ⟨1, 1, .ro, 0, false⟩,
    ⟨0, 1, .ro, 0, false⟩]
def LN_FWSTAT_COUNT : Fld := ⟨LN_FWSTAT, 16, 16⟩
def LN_FWSTAT_POISON : Fld := ⟨LN_FWSTAT, 2, 1⟩
def LN_FWSTAT_ERR : Fld := ⟨LN_FWSTAT, 1, 1⟩
def LN_FWSTAT_BUSY : Fld := ⟨LN_FWSTAT, 0, 1⟩

/-- `SDI.CTL`. -/
def SDI_CTL : RegDef where
  base := 0x20200000
  n1 := 48
  s1 := 0x1000
  n2 := 1
  s2 := 0x1000
  i0 := 0
  j0 := 0
  wide := false
  lock := .seat
  fields := [⟨31, 1, .rw, 0, false⟩,
    ⟨28, 3, .rw, 0, false⟩,
    ⟨24, 4, .rw, 0, false⟩,
    ⟨20, 1, .rw, 0, false⟩,
    ⟨19, 1, .rw, 0, false⟩,
    ⟨16, 2, .rw, 3, false⟩,
    ⟨0, 8, .rw, 0x3F, false⟩]
def SDI_CTL_EN : Fld := ⟨SDI_CTL, 31, 1⟩
def SDI_CTL_GEN : Fld := ⟨SDI_CTL, 28, 3⟩
def SDI_CTL_SKEW : Fld := ⟨SDI_CTL, 24, 4⟩
def SDI_CTL_RIEN : Fld := ⟨SDI_CTL, 20, 1⟩
def SDI_CTL_EIEN : Fld := ⟨SDI_CTL, 19, 1⟩
def SDI_CTL_ORD : Fld := ⟨SDI_CTL, 16, 2⟩
def SDI_CTL_DEC : Fld := ⟨SDI_CTL, 0, 8⟩

/-- `SDI.SCALE`. -/
def SDI_SCALE : RegDef where
  base := 0x20200004
  n1 := 48
  s1 := 0x1000
  n2 := 1
  s2 := 0x1000
  i0 := 0
  j0 := 0
  wide := false
  lock := .seat
  fields := [⟨16, 16, .rw, 1, false⟩,
    ⟨0, 6, .rw, 0, false⟩]
def SDI_SCALE_GAIN : Fld := ⟨SDI_SCALE, 16, 16⟩
def SDI_SCALE_SHIFT : Fld := ⟨SDI_SCALE, 0, 6⟩

/-- `SDI.STAT`. -/
def SDI_STAT : RegDef where
  base := 0x20200008
  n1 := 48
  s1 := 0x1000
  n2 := 1
  s2 := 0x1000
  i0 := 0
  j0 := 0
  wide := false
  lock := .seat
  fields := [⟨31, 1, .w1c, 0, false⟩,
    ⟨30, 1, .w1c, 0, false⟩,
    ⟨28, 2, .ro, 0, false⟩,
    ⟨27, 1, .w1c, 0, false⟩]
def SDI_STAT_TRIP : Fld := ⟨SDI_STAT, 31, 1⟩
def SDI_STAT_BSERR : Fld := ⟨SDI_STAT, 30, 1⟩
def SDI_STAT_BSKIND : Fld := ⟨SDI_STAT, 28, 2⟩
def SDI_STAT_OVR : Fld := ⟨SDI_STAT, 27, 1⟩

/-- `SDI.RES`. -/
def SDI_RES : RegDef where
  base := 0x2020000C
  n1 := 48
  s1 := 0x1000
  n2 := 1
  s2 := 0x1000
  i0 := 0
  j0 := 0
  wide := false
  lock := .seat
  fields := [⟨16, 16, .ro, 0, false⟩,
    ⟨0, 16, .ro, 0, false⟩]
def SDI_RES_SEQ : Fld := ⟨SDI_RES, 16, 16⟩
def SDI_RES_VALUE : Fld := ⟨SDI_RES, 0, 16⟩

/-- `SDI.FT`. -/
def SDI_FT : RegDef where
  base := 0x20200010
  n1 := 48
  s1 := 0x1000
  n2 := 1
  s2 := 0x1000
  i0 := 0
  j0 := 0
  wide := false
  lock := .seat
  fields := [⟨31, 1, .rw, 0, false⟩,
    ⟨30, 1, .rw, 1, false⟩,
    ⟨29, 1, .rw, 0, false⟩,
    ⟨24, 2, .rw, 1, false⟩,
    ⟨16, 5, .rw, 0xF, false⟩]
def SDI_FT_FEN : Fld := ⟨SDI_FT, 31, 1⟩
def SDI_FT_FORD : Fld := ⟨SDI_FT, 30, 1⟩
def SDI_FT_BSTRIP : Fld := ⟨SDI_FT, 29, 1⟩
def SDI_FT_N : Fld := ⟨SDI_FT, 24, 2⟩
def SDI_FT_WIN : Fld := ⟨SDI_FT, 16, 5⟩

/-- `SDI.FTHR`. -/
def SDI_FTHR : RegDef where
  base := 0x20200014
  n1 := 48
  s1 := 0x1000
  n2 := 1
  s2 := 0x1000
  i0 := 0
  j0 := 0
  wide := false
  lock := .seat
  fields := [⟨16, 16, .rw, 0x7FFF, false⟩,
    ⟨0, 16, .rw, 0x8000, false⟩]
def SDI_FTHR_THI : Fld := ⟨SDI_FTHR, 16, 16⟩
def SDI_FTHR_TLO : Fld := ⟨SDI_FTHR, 0, 16⟩

/-- `SDI.TRIPMASK`. -/
def SDI_TRIPMASK : RegDef where
  base := 0x20200018
  n1 := 48
  s1 := 0x1000
  n2 := 1
  s2 := 0x1000
  i0 := 0
  j0 := 0
  wide := false
  lock := .seat
  fields := [⟨0, 24, .rw, 0, false⟩]
def SDI_TRIPMASK_PAIRS : Fld := ⟨SDI_TRIPMASK, 0, 24⟩

/-- `SDI.BSCHK`. -/
def SDI_BSCHK : RegDef where
  base := 0x2020001C
  n1 := 48
  s1 := 0x1000
  n2 := 1
  s2 := 0x1000
  i0 := 0
  j0 := 0
  wide := false
  lock := .seat
  fields := [⟨0, 8, .rw, 0x40, false⟩]
def SDI_BSCHK_STUCK : Fld := ⟨SDI_BSCHK, 0, 8⟩

/-- `SDI.FTVAL`. -/
def SDI_FTVAL : RegDef where
  base := 0x20200020
  n1 := 48
  s1 := 0x1000
  n2 := 1
  s2 := 0x1000
  i0 := 0
  j0 := 0
  wide := false
  lock := .seat
  fields := [⟨0, 16, .ro, 0, false⟩]
def SDI_FTVAL_VALUE : Fld := ⟨SDI_FTVAL, 0, 16⟩

/-- `SDI.MCLK`. -/
def SDI_MCLK : RegDef where
  base := 0x20230000
  n1 := 8
  s1 := 4
  n2 := 1
  s2 := 4
  i0 := 0
  j0 := 0
  wide := false
  lock := .seat
  fields := [⟨31, 1, .rwl, 0, true⟩,
    ⟨0, 8, .rwl, 0, true⟩]
def SDI_MCLK_EN : Fld := ⟨SDI_MCLK, 31, 1⟩
def SDI_MCLK_DIV : Fld := ⟨SDI_MCLK, 0, 8⟩

/-- `SDI.GSTAT`. -/
def SDI_GSTAT : RegDef where
  base := 0x20230020
  n1 := 1
  s1 := 0x10000000000
  n2 := 1
  s2 := 0x10000000000
  i0 := 0
  j0 := 0
  wide := false
  lock := .seat
  fields := [⟨0, 8, .w1c, 0, false⟩]
def SDI_GSTAT_CLKERR : Fld := ⟨SDI_GSTAT, 0, 8⟩

/-- `HRP.CTL`. -/
def HRP_CTL : RegDef where
  base := 0x20240000
  n1 := 24
  s1 := 0x1000
  n2 := 1
  s2 := 0x1000
  i0 := 0
  j0 := 0
  wide := false
  lock := .seat
  fields := [⟨31, 1, .rw, 0, false⟩,
    ⟨30, 1, .rw, 0, false⟩,
    ⟨28, 2, .rw, 0, false⟩,
    ⟨23, 5, .rw, 0, false⟩,
    ⟨18, 5, .rw, 0, false⟩,
    ⟨17, 1, .rw, 0, false⟩,
    ⟨16, 1, .rw, 1, false⟩,
    ⟨12, 4, .rw, 0, false⟩,
    ⟨2, 2, .rwl, 2, false⟩,
    ⟨0, 2, .rwl, 2, false⟩]
def HRP_CTL_RUN : Fld := ⟨HRP_CTL, 31, 1⟩
def HRP_CTL_HOLD : Fld := ⟨HRP_CTL, 30, 1⟩
def HRP_CTL_STSRC : Fld := ⟨HRP_CTL, 28, 2⟩
def HRP_CTL_MASTER : Fld := ⟨HRP_CTL, 23, 5⟩
def HRP_CTL_TBSU : Fld := ⟨HRP_CTL, 18, 5⟩
def HRP_CTL_IEN : Fld := ⟨HRP_CTL, 17, 1⟩
def HRP_CTL_RBEN : Fld := ⟨HRP_CTL, 16, 1⟩
def HRP_CTL_CWD : Fld := ⟨HRP_CTL, 12, 4⟩
def HRP_CTL_SAFEH : Fld := ⟨HRP_CTL, 2, 2⟩
def HRP_CTL_SAFEL : Fld := ⟨HRP_CTL, 0, 2⟩

/-- `HRP.STAT`. -/
def HRP_STAT : RegDef where
  base := 0x20240004
  n1 := 24
  s1 := 0x1000
  n2 := 1
  s2 := 0x1000
  i0 := 0
  j0 := 0
  wide := false
  lock := .seat
  fields := [⟨31, 1, .ro, 1, false⟩,
    ⟨30, 1, .ro, 0, false⟩,
    ⟨29, 1, .w1c, 0, false⟩,
    ⟨28, 1, .ro, 0, false⟩,
    ⟨27, 1, .w1c, 0, false⟩,
    ⟨26, 1, .w1c, 0, false⟩,
    ⟨25, 1, .w1c, 0, false⟩,
    ⟨24, 1, .w1c, 0, false⟩,
    ⟨23, 1, .ro, 0, false⟩,
    ⟨22, 1, .ro, 0, false⟩]
def HRP_STAT_SAFE : Fld := ⟨HRP_STAT, 31, 1⟩
def HRP_STAT_GATE : Fld := ⟨HRP_STAT, 30, 1⟩
def HRP_STAT_TRIPPED : Fld := ⟨HRP_STAT, 29, 1⟩
def HRP_STAT_SEATSAFE : Fld := ⟨HRP_STAT, 28, 1⟩
def HRP_STAT_CWDEXP : Fld := ⟨HRP_STAT, 27, 1⟩
def HRP_STAT_RBERR : Fld := ⟨HRP_STAT, 26, 1⟩
def HRP_STAT_CLAMP : Fld := ⟨HRP_STAT, 25, 1⟩
def HRP_STAT_WCOLL : Fld := ⟨HRP_STAT, 24, 1⟩
def HRP_STAT_RUNNING : Fld := ⟨HRP_STAT, 23, 1⟩
def HRP_STAT_RBOUT : Fld := ⟨HRP_STAT, 22, 1⟩

/-- `HRP.RBCFG`. -/
def HRP_RBCFG : RegDef where
  base := 0x20240008
  n1 := 24
  s1 := 0x1000
  n2 := 1
  s2 := 0x1000
  i0 := 0
  j0 := 0
  wide := false
  lock := .seat
  fields := [⟨0, 7, .rw, 0x18, false⟩]
def HRP_RBCFG_BLANK : Fld := ⟨HRP_RBCFG, 0, 7⟩

/-- `HRP.CNT`. -/
def HRP_CNT : RegDef where
  base := 0x2024000C
  n1 := 24
  s1 := 0x1000
  n2 := 1
  s2 := 0x1000
  i0 := 0
  j0 := 0
  wide := false
  lock := .seat
  fields := [⟨0, 28, .ro, 0, false⟩]
def HRP_CNT_COUNT : Fld := ⟨HRP_CNT, 0, 28⟩

/-- `HRP.SHD`. -/
def HRP_SHD : RegDef where
  base := 0x20240010
  n1 := 24
  s1 := 0x1000
  n2 := 3
  s2 := 4
  i0 := 0
  j0 := 0
  wide := false
  lock := .seat
  fields := [⟨0, 32, .rw, 0, false⟩]
def HRP_SHD_VALUE : Fld := ⟨HRP_SHD, 0, 32⟩

/-- `HRP.SHD (PERIOD)`. -/
def HRP_SHD_PERIOD : RegDef where
  base := 0x2024001C
  n1 := 24
  s1 := 0x1000
  n2 := 1
  s2 := 0x1000
  i0 := 0
  j0 := 0
  wide := false
  lock := .seat
  fields := [⟨0, 32, .rw, 0x2580, false⟩]
def HRP_SHD_PERIOD_VALUE : Fld := ⟨HRP_SHD_PERIOD, 0, 32⟩

/-- `HRP.ACT`. -/
def HRP_ACT : RegDef where
  base := 0x20240020
  n1 := 24
  s1 := 0x1000
  n2 := 3
  s2 := 4
  i0 := 0
  j0 := 0
  wide := false
  lock := .seat
  fields := [⟨0, 32, .ro, 0, false⟩]
def HRP_ACT_VALUE : Fld := ⟨HRP_ACT, 0, 32⟩

/-- `HRP.ACT (PERIOD)`. -/
def HRP_ACT_PERIOD : RegDef where
  base := 0x2024002C
  n1 := 24
  s1 := 0x1000
  n2 := 1
  s2 := 0x1000
  i0 := 0
  j0 := 0
  wide := false
  lock := .seat
  fields := [⟨0, 32, .ro, 0x2580, false⟩]
def HRP_ACT_PERIOD_VALUE : Fld := ⟨HRP_ACT_PERIOD, 0, 32⟩

/-- `HRP.GSTAT`. -/
def HRP_GSTAT : RegDef where
  base := 0x20258000
  n1 := 1
  s1 := 0x10000000000
  n2 := 1
  s2 := 0x10000000000
  i0 := 0
  j0 := 0
  wide := false
  lock := .seat
  fields := [⟨0, 24, .ro, 0xFFFFFF, false⟩]
def HRP_GSTAT_SAFE : Fld := ⟨HRP_GSTAT, 0, 24⟩

/-- `ICU.STRTMO`. -/
def ICU_STRTMO : RegDef where
  base := 0x20190000
  n1 := 1
  s1 := 0x10000000000
  n2 := 1
  s2 := 0x10000000000
  i0 := 0
  j0 := 0
  wide := false
  lock := .none
  fields := [⟨0, 10, .rw, 0x64, false⟩]
def ICU_STRTMO_TMO : Fld := ⟨ICU_STRTMO, 0, 10⟩

/-- `ICU.STAT`. -/
def ICU_STAT : RegDef where
  base := 0x20190004
  n1 := 1
  s1 := 0x10000000000
  n2 := 1
  s2 := 0x10000000000
  i0 := 0
  j0 := 0
  wide := false
  lock := .none
  fields := [⟨31, 1, .w1c, 0, false⟩,
    ⟨16, 9, .ro, 0, false⟩,
    ⟨0, 9, .ro, 0, false⟩]
def ICU_STAT_STREV : Fld := ⟨ICU_STAT, 31, 1⟩
def ICU_STAT_NSTR : Fld := ⟨ICU_STAT, 16, 9⟩
def ICU_STAT_FIRST : Fld := ⟨ICU_STAT, 0, 9⟩

/-- `ICU.SRC`. -/
def ICU_SRC : RegDef where
  base := 0x20191000
  n1 := 512
  s1 := 4
  n2 := 1
  s2 := 4
  i0 := 0
  j0 := 0
  wide := false
  lock := .none
  fields := [⟨31, 1, .w1c, 0, false⟩,
    ⟨30, 1, .ro, 0, false⟩,
    ⟨29, 1, .w1c, 0, false⟩,
    ⟨28, 1, .ro, 0, false⟩,
    ⟨24, 1, .rw, 0, false⟩,
    ⟨16, 4, .rw, 0, true⟩,
    ⟨0, 6, .rw, 0, true⟩]
def ICU_SRC_PEND : Fld := ⟨ICU_SRC, 31, 1⟩
def ICU_SRC_ACT : Fld := ⟨ICU_SRC, 30, 1⟩
def ICU_SRC_STR : Fld := ⟨ICU_SRC, 29, 1⟩
def ICU_SRC_SIG : Fld := ⟨ICU_SRC, 28, 1⟩
def ICU_SRC_EN : Fld := ⟨ICU_SRC, 24, 1⟩
def ICU_SRC_PRIO : Fld := ⟨ICU_SRC, 16, 4⟩
def ICU_SRC_TGT : Fld := ⟨ICU_SRC, 0, 6⟩

/-- `ICU.SWTRIG`. -/
def ICU_SWTRIG : RegDef where
  base := 0x20191800
  n1 := 1
  s1 := 0x10000000000
  n2 := 1
  s2 := 0x10000000000
  i0 := 0
  j0 := 0
  wide := false
  lock := .none
  fields := [⟨0, 9, .wo, 0, false⟩]
def ICU_SWTRIG_SRC : Fld := ⟨ICU_SWTRIG, 0, 9⟩

/-- `ICU.CLAIM`. -/
def ICU_CLAIM : RegDef where
  base := 0x201A0000
  n1 := 33
  s1 := 0x1000
  n2 := 1
  s2 := 0x1000
  i0 := 0
  j0 := 0
  wide := false
  lock := .none
  fields := [⟨16, 4, .ro, 0, false⟩,
    ⟨0, 10, .ro, 0x3FF, false⟩]
def ICU_CLAIM_PRIO : Fld := ⟨ICU_CLAIM, 16, 4⟩
def ICU_CLAIM_ID : Fld := ⟨ICU_CLAIM, 0, 10⟩

/-- `ICU.COMPLETE`. -/
def ICU_COMPLETE : RegDef where
  base := 0x201A0004
  n1 := 33
  s1 := 0x1000
  n2 := 1
  s2 := 0x1000
  i0 := 0
  j0 := 0
  wide := false
  lock := .none
  fields := [⟨0, 10, .wo, 0, false⟩]
def ICU_COMPLETE_ID : Fld := ⟨ICU_COMPLETE, 0, 10⟩

/-- `ICU.TCTL`. -/
def ICU_TCTL : RegDef where
  base := 0x201A0008
  n1 := 33
  s1 := 0x1000
  n2 := 1
  s2 := 0x1000
  i0 := 0
  j0 := 0
  wide := false
  lock := .none
  fields := [⟨0, 4, .rw, 0, false⟩]
def ICU_TCTL_THR : Fld := ⟨ICU_TCTL, 0, 4⟩

/-- `ICU.TSTAT`. -/
def ICU_TSTAT : RegDef where
  base := 0x201A000C
  n1 := 33
  s1 := 0x1000
  n2 := 1
  s2 := 0x1000
  i0 := 0
  j0 := 0
  wide := false
  lock := .none
  fields := [⟨31, 1, .w1c, 0, false⟩,
    ⟨20, 1, .ro, 0, false⟩,
    ⟨16, 4, .ro, 0, false⟩,
    ⟨0, 16, .ro, 0, false⟩]
def ICU_TSTAT_CERR : Fld := ⟨ICU_TSTAT, 31, 1⟩
def ICU_TSTAT_SIGV : Fld := ⟨ICU_TSTAT, 20, 1⟩
def ICU_TSTAT_SIGP : Fld := ⟨ICU_TSTAT, 16, 4⟩
def ICU_TSTAT_INSVC : Fld := ⟨ICU_TSTAT, 0, 16⟩

/-- `SFI.STAT`. -/
def SFI_STAT : RegDef where
  base := 0x20080000
  n1 := 1
  s1 := 0x10000000000
  n2 := 1
  s2 := 0x10000000000
  i0 := 0
  j0 := 0
  wide := false
  lock := .seat
  fields := [⟨31, 1, .ro, 0, false⟩,
    ⟨30, 1, .ro, 0, false⟩,
    ⟨16, 8, .ro, 0, false⟩,
    ⟨8, 8, .ro, 0, false⟩]
def SFI_STAT_DSAFE : Fld := ⟨SFI_STAT, 31, 1⟩
def SFI_STAT_SVPSTOP : Fld := ⟨SFI_STAT, 30, 1⟩
def SFI_STAT_LOST : Fld := ⟨SFI_STAT, 16, 8⟩
def SFI_STAT_DCODE : Fld := ⟨SFI_STAT, 8, 8⟩

/-- `SFI.SEATSAFE`. -/
def SFI_SEATSAFE : RegDef where
  base := 0x20080004
  n1 := 1
  s1 := 0x10000000000
  n2 := 1
  s2 := 0x10000000000
  i0 := 0
  j0 := 0
  wide := false
  lock := .seat
  fields := [⟨1, 15, .ro, 0, false⟩]
def SFI_SEATSAFE_SAFE : Fld := ⟨SFI_SEATSAFE, 1, 15⟩

/-- `SFI.CTL`. -/
def SFI_CTL : RegDef where
  base := 0x20080008
  n1 := 1
  s1 := 0x10000000000
  n2 := 1
  s2 := 0x10000000000
  i0 := 0
  j0 := 0
  wide := false
  lock := .seat
  fields := [⟨31, 1, .w1s, 0, false⟩,
    ⟨16, 1, .rwl, 1, false⟩,
    ⟨0, 10, .rwl, 0x64, false⟩]
def SFI_CTL_RELEASE : Fld := ⟨SFI_CTL, 31, 1⟩
def SFI_CTL_FORCEEN : Fld := ⟨SFI_CTL, 16, 1⟩
def SFI_CTL_GTPER : Fld := ⟨SFI_CTL, 0, 10⟩

/-- `SFI.GTEST`. -/
def SFI_GTEST : RegDef where
  base := 0x2008000C
  n1 := 1
  s1 := 0x10000000000
  n2 := 1
  s2 := 0x10000000000
  i0 := 0
  j0 := 0
  wide := false
  lock := .seat
  fields := [⟨31, 1, .ro, 0, false⟩,
    ⟨30, 1, .ro, 0, false⟩,
    ⟨0, 16, .ro, 0, false⟩]
def SFI_GTEST_AFAIL : Fld := ⟨SFI_GTEST, 31, 1⟩
def SFI_GTEST_BFAIL : Fld := ⟨SFI_GTEST, 30, 1⟩
def SFI_GTEST_PASSES : Fld := ⟨SFI_GTEST, 0, 16⟩

/-- `SFI.MON`. -/
def SFI_MON : RegDef where
  base := 0x20080010
  n1 := 1
  s1 := 0x10000000000
  n2 := 1
  s2 := 0x10000000000
  i0 := 0
  j0 := 0
  wide := false
  lock := .seat
  fields := [⟨31, 1, .ro, 0, false⟩,
    ⟨30, 1, .ro, 0, false⟩,
    ⟨29, 1, .ro, 0, false⟩,
    ⟨28, 1, .ro, 0, false⟩,
    ⟨16, 5, .ro, 0, false⟩,
    ⟨0, 8, .ro, 0, false⟩]
def SFI_MON_CLKF : Fld := ⟨SFI_MON, 31, 1⟩
def SFI_MON_VOLTF : Fld := ⟨SFI_MON, 30, 1⟩
def SFI_MON_TWARN : Fld := ⟨SFI_MON, 29, 1⟩
def SFI_MON_TCRIT : Fld := ⟨SFI_MON, 28, 1⟩
def SFI_MON_RAIL : Fld := ⟨SFI_MON, 16, 5⟩
def SFI_MON_TEMP : Fld := ⟨SFI_MON, 0, 8⟩

/-- `SFI.TMON`. -/
def SFI_TMON : RegDef where
  base := 0x20080014
  n1 := 1
  s1 := 0x10000000000
  n2 := 1
  s2 := 0x10000000000
  i0 := 0
  j0 := 0
  wide := false
  lock := .seat
  fields := [⟨16, 8, .rwl, 0x82, false⟩,
    ⟨0, 8, .rwl, 0x73, false⟩]
def SFI_TMON_TCRIT : Fld := ⟨SFI_TMON, 16, 8⟩
def SFI_TMON_TWARN : Fld := ⟨SFI_TMON, 0, 8⟩

/-- `SFI.SVPWD`. -/
def SFI_SVPWD : RegDef where
  base := 0x20080020
  n1 := 1
  s1 := 0x10000000000
  n2 := 1
  s2 := 0x10000000000
  i0 := 0
  j0 := 0
  wide := false
  lock := .seat
  fields := [⟨31, 1, .ro, 1, false⟩,
    ⟨0, 20, .rwl, 0x30D40, false⟩]
def SFI_SVPWD_EN : Fld := ⟨SFI_SVPWD, 31, 1⟩
def SFI_SVPWD_RELOAD : Fld := ⟨SFI_SVPWD, 0, 20⟩

/-- `SFI.SVPKICK`. -/
def SFI_SVPKICK : RegDef where
  base := 0x20080024
  n1 := 1
  s1 := 0x10000000000
  n2 := 1
  s2 := 0x10000000000
  i0 := 0
  j0 := 0
  wide := false
  lock := .seat
  fields := [⟨0, 8, .wo, 0, false⟩]
def SFI_SVPKICK_KEY : Fld := ⟨SFI_SVPKICK, 0, 8⟩

/-- `SFI.INJ`. -/
def SFI_INJ : RegDef where
  base := 0x20080030
  n1 := 1
  s1 := 0x10000000000
  n2 := 1
  s2 := 0x10000000000
  i0 := 0
  j0 := 0
  wide := false
  lock := .seat
  fields := [⟨31, 1, .wo, 0, false⟩,
    ⟨30, 1, .wo, 0, false⟩,
    ⟨16, 8, .wo, 0, false⟩,
    ⟨0, 8, .wo, 0, false⟩]
def SFI_INJ_GO : Fld := ⟨SFI_INJ, 31, 1⟩
def SFI_INJ_TEST : Fld := ⟨SFI_INJ, 30, 1⟩
def SFI_INJ_UNIT : Fld := ⟨SFI_INJ, 16, 8⟩
def SFI_INJ_CODE : Fld := ⟨SFI_INJ, 0, 8⟩

/-- `SFI.FLOGIDX`. -/
def SFI_FLOGIDX : RegDef where
  base := 0x20080040
  n1 := 1
  s1 := 0x10000000000
  n2 := 1
  s2 := 0x10000000000
  i0 := 0
  j0 := 0
  wide := false
  lock := .seat
  fields := [⟨31, 1, .wo, 0, false⟩,
    ⟨0, 5, .ro, 0, false⟩]
def SFI_FLOGIDX_CLR : Fld := ⟨SFI_FLOGIDX, 31, 1⟩
def SFI_FLOGIDX_NEXT : Fld := ⟨SFI_FLOGIDX, 0, 5⟩

/-- `SFI.POL`. -/
def SFI_POL : RegDef where
  base := 0x20080100
  n1 := 16
  s1 := 4
  n2 := 1
  s2 := 4
  i0 := 0
  j0 := 0
  wide := false
  lock := .seat
  fields := [⟨0, 32, .rwl, 0, true⟩]
def SFI_POL_CLASSES : Fld := ⟨SFI_POL, 0, 32⟩

/-- `SFI.FLOG`. -/
def SFI_FLOG : RegDef where
  base := 0x20080400
  n1 := 16
  s1 := 0x10
  n2 := 1
  s2 := 0x10
  i0 := 0
  j0 := 0
  wide := true
  lock := .seat
  fields := [⟨63, 1, .ro, 0, false⟩,
    ⟨62, 1, .ro, 0, false⟩,
    ⟨60, 2, .ro, 0, false⟩,
    ⟨56, 4, .ro, 0, false⟩,
    ⟨48, 8, .ro, 0, false⟩,
    ⟨40, 8, .ro, 0, false⟩,
    ⟨0, 32, .ro, 0, false⟩]
def SFI_FLOG_VALID : Fld := ⟨SFI_FLOG, 63, 1⟩
def SFI_FLOG_INJ : Fld := ⟨SFI_FLOG, 62, 1⟩
def SFI_FLOG_REACT : Fld := ⟨SFI_FLOG, 60, 2⟩
def SFI_FLOG_SEAT : Fld := ⟨SFI_FLOG, 56, 4⟩
def SFI_FLOG_CODE : Fld := ⟨SFI_FLOG, 48, 8⟩
def SFI_FLOG_UNIT : Fld := ⟨SFI_FLOG, 40, 8⟩
def SFI_FLOG_INFO : Fld := ⟨SFI_FLOG, 0, 32⟩

/-- `SFI.FLOGT`. -/
def SFI_FLOGT : RegDef where
  base := 0x20080408
  n1 := 16
  s1 := 0x10
  n2 := 1
  s2 := 0x10
  i0 := 0
  j0 := 0
  wide := true
  lock := .seat
  fields := [⟨0, 64, .ro, 0, false⟩]
def SFI_FLOGT_NS : Fld := ⟨SFI_FLOGT, 0, 64⟩

/-- `SFI.SSTAT`. -/
def SFI_SSTAT : RegDef where
  base := 0x20080000
  n1 := 16
  s1 := 0x1000
  n2 := 1
  s2 := 0x1000
  i0 := 1
  j0 := 0
  wide := false
  lock := .seat
  fields := [⟨31, 1, .ro, 0, false⟩,
    ⟨8, 8, .ro, 0, false⟩,
    ⟨0, 8, .ro, 0, false⟩]
def SFI_SSTAT_SAFE : Fld := ⟨SFI_SSTAT, 31, 1⟩
def SFI_SSTAT_COUNT : Fld := ⟨SFI_SSTAT, 8, 8⟩
def SFI_SSTAT_LAST : Fld := ⟨SFI_SSTAT, 0, 8⟩

/-- `SFI.SWDCFG`. -/
def SFI_SWDCFG : RegDef where
  base := 0x20080010
  n1 := 16
  s1 := 0x1000
  n2 := 1
  s2 := 0x1000
  i0 := 1
  j0 := 0
  wide := false
  lock := .ownEn
  fields := [⟨31, 1, .w1s, 0, false⟩,
    ⟨0, 20, .rwl, 0x400, false⟩]
def SFI_SWDCFG_EN : Fld := ⟨SFI_SWDCFG, 31, 1⟩
def SFI_SWDCFG_RELOAD : Fld := ⟨SFI_SWDCFG, 0, 20⟩

/-- `SFI.SWDWIN`. -/
def SFI_SWDWIN : RegDef where
  base := 0x20080014
  n1 := 16
  s1 := 0x1000
  n2 := 1
  s2 := 0x1000
  i0 := 1
  j0 := 0
  wide := false
  lock := .ownEn
  fields := [⟨0, 20, .rwl, 0xFFFFF, false⟩]
def SFI_SWDWIN_OPEN : Fld := ⟨SFI_SWDWIN, 0, 20⟩

/-- `SFI.SWDKICK`. -/
def SFI_SWDKICK : RegDef where
  base := 0x20080018
  n1 := 16
  s1 := 0x1000
  n2 := 1
  s2 := 0x1000
  i0 := 1
  j0 := 0
  wide := false
  lock := .seat
  fields := [⟨0, 8, .wo, 0, false⟩]
def SFI_SWDKICK_KEY : Fld := ⟨SFI_SWDKICK, 0, 8⟩

/-- `SFI.SWDCNT`. -/
def SFI_SWDCNT : RegDef where
  base := 0x2008001C
  n1 := 16
  s1 := 0x1000
  n2 := 1
  s2 := 0x1000
  i0 := 1
  j0 := 0
  wide := false
  lock := .seat
  fields := [⟨31, 1, .ro, 0, false⟩,
    ⟨0, 20, .ro, 0, false⟩]
def SFI_SWDCNT_FROZEN : Fld := ⟨SFI_SWDCNT, 31, 1⟩
def SFI_SWDCNT_COUNT : Fld := ⟨SFI_SWDCNT, 0, 20⟩

/-- `SFI.CWDCFG`. -/
def SFI_CWDCFG : RegDef where
  base := 0x20081100
  n1 := 32
  s1 := 0x10
  n2 := 1
  s2 := 0x10
  i0 := 0
  j0 := 0
  wide := false
  lock := .ownEn
  fields := [⟨31, 1, .w1s, 0, false⟩,
    ⟨0, 20, .rwl, 0x400, false⟩]
def SFI_CWDCFG_EN : Fld := ⟨SFI_CWDCFG, 31, 1⟩
def SFI_CWDCFG_RELOAD : Fld := ⟨SFI_CWDCFG, 0, 20⟩

/-- `SFI.CWDKICK`. -/
def SFI_CWDKICK : RegDef where
  base := 0x20081104
  n1 := 32
  s1 := 0x10
  n2 := 1
  s2 := 0x10
  i0 := 0
  j0 := 0
  wide := false
  lock := .seat
  fields := [⟨0, 8, .wo, 0, false⟩]
def SFI_CWDKICK_KEY : Fld := ⟨SFI_CWDKICK, 0, 8⟩

/-- `SFI.CWDCNT`. -/
def SFI_CWDCNT : RegDef where
  base := 0x20081108
  n1 := 32
  s1 := 0x10
  n2 := 1
  s2 := 0x10
  i0 := 0
  j0 := 0
  wide := false
  lock := .seat
  fields := [⟨31, 1, .ro, 0, false⟩,
    ⟨0, 20, .ro, 0, false⟩]
def SFI_CWDCNT_FROZEN : Fld := ⟨SFI_CWDCNT, 31, 1⟩
def SFI_CWDCNT_COUNT : Fld := ⟨SFI_CWDCNT, 0, 20⟩

/-- `BNV.STAT`. -/
def BNV_STAT : RegDef where
  base := 0x20110000
  n1 := 1
  s1 := 0x10000000000
  n2 := 1
  s2 := 0x10000000000
  i0 := 0
  j0 := 0
  wide := false
  lock := .none
  fields := [⟨31, 1, .ro, 0, false⟩,
    ⟨30, 1, .ro, 0, false⟩,
    ⟨29, 1, .ro, 0, false⟩,
    ⟨0, 16, .rc, 0, false⟩]
def BNV_STAT_S0LOCK : Fld := ⟨BNV_STAT, 31, 1⟩
def BNV_STAT_S0CHK : Fld := ⟨BNV_STAT, 30, 1⟩
def BNV_STAT_S0OK : Fld := ⟨BNV_STAT, 29, 1⟩
def BNV_STAT_WREJ : Fld := ⟨BNV_STAT, 0, 16⟩

/-- `BOOT.STAT`. -/
def BOOT_STAT : RegDef where
  base := 0x20111000
  n1 := 1
  s1 := 0x10000000000
  n2 := 1
  s2 := 0x10000000000
  i0 := 0
  j0 := 0
  wide := false
  lock := .none
  fields := [⟨28, 4, .rw, 0, false⟩,
    ⟨27, 1, .rw, 0, false⟩,
    ⟨26, 1, .rw, 0, false⟩,
    ⟨25, 1, .w1s, 0, false⟩,
    ⟨24, 1, .rw, 0, false⟩,
    ⟨16, 8, .rw, 0, false⟩,
    ⟨8, 8, .rw, 0, false⟩,
    ⟨0, 4, .rw, 0, false⟩]
def BOOT_STAT_MS : Fld := ⟨BOOT_STAT, 28, 4⟩
def BOOT_STAT_TIE : Fld := ⟨BOOT_STAT, 27, 1⟩
def BOOT_STAT_SLOT : Fld := ⟨BOOT_STAT, 26, 1⟩
def BOOT_STAT_RECOV : Fld := ⟨BOOT_STAT, 25, 1⟩
def BOOT_STAT_RBADV : Fld := ⟨BOOT_STAT, 24, 1⟩
def BOOT_STAT_REASON : Fld := ⟨BOOT_STAT, 16, 8⟩
def BOOT_STAT_COMP : Fld := ⟨BOOT_STAT, 8, 8⟩
def BOOT_STAT_SEAT : Fld := ⟨BOOT_STAT, 0, 4⟩

/-- `BOOT.SLOT`. -/
def BOOT_SLOT : RegDef where
  base := 0x20111004
  n1 := 2
  s1 := 4
  n2 := 1
  s2 := 4
  i0 := 0
  j0 := 0
  wide := false
  lock := .none
  fields := [⟨31, 1, .rw, 0, false⟩,
    ⟨30, 1, .rw, 0, false⟩,
    ⟨16, 8, .rw, 0, false⟩,
    ⟨8, 8, .rw, 0, false⟩,
    ⟨0, 4, .rw, 0, false⟩]
def BOOT_SLOT_CAND : Fld := ⟨BOOT_SLOT, 31, 1⟩
def BOOT_SLOT_CHECKED : Fld := ⟨BOOT_SLOT, 30, 1⟩
def BOOT_SLOT_REASON : Fld := ⟨BOOT_SLOT, 16, 8⟩
def BOOT_SLOT_SECVER : Fld := ⟨BOOT_SLOT, 8, 8⟩
def BOOT_SLOT_KEYSLOT : Fld := ⟨BOOT_SLOT, 0, 4⟩

/-- `BOOT.SEQ`. -/
def BOOT_SEQ : RegDef where
  base := 0x2011100C
  n1 := 2
  s1 := 4
  n2 := 1
  s2 := 4
  i0 := 0
  j0 := 0
  wide := false
  lock := .none
  fields := [⟨0, 32, .rw, 0, false⟩]
def BOOT_SEQ_SEQ : Fld := ⟨BOOT_SEQ, 0, 32⟩

/-- `BOOT.MSTIME`. -/
def BOOT_MSTIME : RegDef where
  base := 0x20111020
  n1 := 6
  s1 := 8
  n2 := 1
  s2 := 8
  i0 := 0
  j0 := 0
  wide := true
  lock := .none
  fields := [⟨0, 64, .rw, 0, false⟩]
def BOOT_MSTIME_NS : Fld := ⟨BOOT_MSTIME, 0, 64⟩

/-- `BOOT.LWBASE`. -/
def BOOT_LWBASE : RegDef where
  base := 0x20111100
  n1 := 16
  s1 := 0x10
  n2 := 1
  s2 := 0x10
  i0 := 0
  j0 := 0
  wide := true
  lock := .none
  fields := [⟨12, 36, .rw, 0, false⟩,
    ⟨0, 1, .rw, 0, false⟩]
def BOOT_LWBASE_ADDR : Fld := ⟨BOOT_LWBASE, 12, 36⟩
def BOOT_LWBASE_EN : Fld := ⟨BOOT_LWBASE, 0, 1⟩

/-- `BOOT.LWCFG`. -/
def BOOT_LWCFG : RegDef where
  base := 0x20111108
  n1 := 16
  s1 := 0x10
  n2 := 1
  s2 := 0x10
  i0 := 0
  j0 := 0
  wide := false
  lock := .none
  fields := [⟨31, 1, .ro, 0, false⟩,
    ⟨24, 4, .rw, 0, false⟩,
    ⟨0, 18, .rw, 0, false⟩]
def BOOT_LWCFG_FAIL : Fld := ⟨BOOT_LWCFG, 31, 1⟩
def BOOT_LWCFG_SEAT : Fld := ⟨BOOT_LWCFG, 24, 4⟩
def BOOT_LWCFG_NBLK : Fld := ⟨BOOT_LWCFG, 0, 18⟩

/-- `BOOT.LWVBLK`. -/
def BOOT_LWVBLK : RegDef where
  base := 0x2011110C
  n1 := 16
  s1 := 0x10
  n2 := 1
  s2 := 0x10
  i0 := 0
  j0 := 0
  wide := false
  lock := .none
  fields := [⟨0, 18, .ro, 0, false⟩]
def BOOT_LWVBLK_VBLK : Fld := ⟨BOOT_LWVBLK, 0, 18⟩

/-- `LCC.STATE`. -/
def LCC_STATE : RegDef where
  base := 0x200F0000
  n1 := 1
  s1 := 0x10000000000
  n2 := 1
  s2 := 0x10000000000
  i0 := 0
  j0 := 0
  wide := false
  lock := .none
  fields := [⟨0, 3, .ro, 0, false⟩]
def LCC_STATE_STATE : Fld := ⟨LCC_STATE, 0, 3⟩

/-- `LCC.STAT`. -/
def LCC_STAT : RegDef where
  base := 0x200F0004
  n1 := 1
  s1 := 0x10000000000
  n2 := 1
  s2 := 0x10000000000
  i0 := 0
  j0 := 0
  wide := false
  lock := .none
  fields := [⟨31, 1, .ro, 0, false⟩,
    ⟨30, 1, .ro, 0, false⟩,
    ⟨29, 1, .ro, 0, false⟩,
    ⟨16, 8, .ro, 0, false⟩,
    ⟨0, 9, .ro, 0, false⟩]
def LCC_STAT_PEND : Fld := ⟨LCC_STAT, 31, 1⟩
def LCC_STAT_PART : Fld := ⟨LCC_STAT, 30, 1⟩
def LCC_STAT_FDMG : Fld := ⟨LCC_STAT, 29, 1⟩
def LCC_STAT_DMGFLD : Fld := ⟨LCC_STAT, 16, 8⟩
def LCC_STAT_SPOIL : Fld := ⟨LCC_STAT, 0, 9⟩

/-- `LCC.PCMD`. -/
def LCC_PCMD : RegDef where
  base := 0x200F1000
  n1 := 1
  s1 := 0x10000000000
  n2 := 1
  s2 := 0x10000000000
  i0 := 0
  j0 := 0
  wide := false
  lock := .none
  fields := [⟨31, 1, .wo, 0, false⟩,
    ⟨24, 4, .wo, 0, false⟩,
    ⟨0, 8, .wo, 0, false⟩]
def LCC_PCMD_GO : Fld := ⟨LCC_PCMD, 31, 1⟩
def LCC_PCMD_OP : Fld := ⟨LCC_PCMD, 24, 4⟩
def LCC_PCMD_FIELD : Fld := ⟨LCC_PCMD, 0, 8⟩

/-- `LCC.PSTAT`. -/
def LCC_PSTAT : RegDef where
  base := 0x200F1004
  n1 := 1
  s1 := 0x10000000000
  n2 := 1
  s2 := 0x10000000000
  i0 := 0
  j0 := 0
  wide := false
  lock := .none
  fields := [⟨31, 1, .ro, 0, false⟩,
    ⟨30, 1, .w1c, 0, false⟩,
    ⟨16, 8, .ro, 0, false⟩]
def LCC_PSTAT_BUSY : Fld := ⟨LCC_PSTAT, 31, 1⟩
def LCC_PSTAT_DONE : Fld := ⟨LCC_PSTAT, 30, 1⟩
def LCC_PSTAT_ERR : Fld := ⟨LCC_PSTAT, 16, 8⟩

/-- `LCC.PDATA`. -/
def LCC_PDATA : RegDef where
  base := 0x200F1020
  n1 := 8
  s1 := 4
  n2 := 1
  s2 := 4
  i0 := 0
  j0 := 0
  wide := false
  lock := .none
  fields := [⟨0, 32, .wo, 0, false⟩]
def LCC_PDATA_DATA : Fld := ⟨LCC_PDATA, 0, 32⟩

/-- `LCC.FUSE`. -/
def LCC_FUSE : RegDef where
  base := 0x200F2000
  n1 := 256
  s1 := 4
  n2 := 1
  s2 := 4
  i0 := 0
  j0 := 0
  wide := false
  lock := .none
  fields := [⟨0, 32, .ro, 0, false⟩]
def LCC_FUSE_BITS : Fld := ⟨LCC_FUSE, 0, 32⟩

/-- `PRS.STAT`. -/
def PRS_STAT : RegDef where
  base := 0x20150000
  n1 := 1
  s1 := 0x10000000000
  n2 := 1
  s2 := 0x10000000000
  i0 := 0
  j0 := 0
  wide := false
  lock := .seat
  fields := [⟨31, 1, .w1c, 0, false⟩,
    ⟨16, 10, .ro, 0, false⟩,
    ⟨0, 11, .ro, 0, false⟩]
def PRS_STAT_WORNEV : Fld := ⟨PRS_STAT, 31, 1⟩
def PRS_STAT_FIRST : Fld := ⟨PRS_STAT, 16, 10⟩
def PRS_STAT_NWORN : Fld := ⟨PRS_STAT, 0, 11⟩

/-- `PRS.GOWN`. -/
def PRS_GOWN : RegDef where
  base := 0x20150010
  n1 := 16
  s1 := 4
  n2 := 1
  s2 := 4
  i0 := 0
  j0 := 0
  wide := false
  lock := .seat
  fields := [⟨0, 4, .rwl, 0, true⟩]
def PRS_GOWN_OWNER : Fld := ⟨PRS_GOWN, 0, 4⟩

/-- `PRS.WEAR`. -/
def PRS_WEAR : RegDef where
  base := 0x20151000
  n1 := 1024
  s1 := 4
  n2 := 1
  s2 := 4
  i0 := 0
  j0 := 0
  wide := false
  lock := .seat
  fields := [⟨31, 1, .ro, 0, false⟩,
    ⟨0, 27, .ro, 0, false⟩]
def PRS_WEAR_WORN : Fld := ⟨PRS_WEAR, 31, 1⟩
def PRS_WEAR_COUNT : Fld := ⟨PRS_WEAR, 0, 27⟩

/-- `MBX.REQPI`. -/
def MBX_REQPI : RegDef where
  base := 0x20130000
  n1 := 16
  s1 := 0x1000
  n2 := 1
  s2 := 0x1000
  i0 := 0
  j0 := 0
  wide := false
  lock := .none
  fields := [⟨0, 16, .rw, 0, false⟩]
def MBX_REQPI_INDEX : Fld := ⟨MBX_REQPI, 0, 16⟩

/-- `MBX.REQCI`. -/
def MBX_REQCI : RegDef where
  base := 0x20130004
  n1 := 16
  s1 := 0x1000
  n2 := 1
  s2 := 0x1000
  i0 := 0
  j0 := 0
  wide := false
  lock := .none
  fields := [⟨0, 16, .rw, 0, false⟩]
def MBX_REQCI_INDEX : Fld := ⟨MBX_REQCI, 0, 16⟩

/-- `MBX.RSPPI`. -/
def MBX_RSPPI : RegDef where
  base := 0x20130008
  n1 := 16
  s1 := 0x1000
  n2 := 1
  s2 := 0x1000
  i0 := 0
  j0 := 0
  wide := false
  lock := .none
  fields := [⟨0, 16, .rw, 0, false⟩]
def MBX_RSPPI_INDEX : Fld := ⟨MBX_RSPPI, 0, 16⟩

/-- `MBX.RSPCI`. -/
def MBX_RSPCI : RegDef where
  base := 0x2013000C
  n1 := 16
  s1 := 0x1000
  n2 := 1
  s2 := 0x1000
  i0 := 0
  j0 := 0
  wide := false
  lock := .none
  fields := [⟨0, 16, .rw, 0, false⟩]
def MBX_RSPCI_INDEX : Fld := ⟨MBX_RSPCI, 0, 16⟩

/-- `MBX.STAT`. -/
def MBX_STAT : RegDef where
  base := 0x20130010
  n1 := 16
  s1 := 0x1000
  n2 := 1
  s2 := 0x1000
  i0 := 0
  j0 := 0
  wide := false
  lock := .none
  fields := [⟨31, 1, .w1c, 0, false⟩,
    ⟨30, 1, .w1c, 0, false⟩,
    ⟨29, 1, .w1c, 0, false⟩]
def MBX_STAT_REQERR : Fld := ⟨MBX_STAT, 31, 1⟩
def MBX_STAT_RSPERR : Fld := ⟨MBX_STAT, 30, 1⟩
def MBX_STAT_SVPERR : Fld := ⟨MBX_STAT, 29, 1⟩

/-- `SVP.WVER`. -/
def SVP_WVER : RegDef where
  base := 0x20140000
  n1 := 1
  s1 := 0x10000000000
  n2 := 1
  s2 := 0x10000000000
  i0 := 0
  j0 := 0
  wide := false
  lock := .none
  fields := [⟨24, 8, .ro, 0, true⟩,
    ⟨16, 8, .ro, 0, true⟩,
    ⟨8, 8, .ro, 0, true⟩,
    ⟨0, 8, .ro, 0, true⟩]
def SVP_WVER_MAJOR : Fld := ⟨SVP_WVER, 24, 8⟩
def SVP_WVER_MINOR : Fld := ⟨SVP_WVER, 16, 8⟩
def SVP_WVER_WCIMAX : Fld := ⟨SVP_WVER, 8, 8⟩
def SVP_WVER_WCIMIN : Fld := ⟨SVP_WVER, 0, 8⟩

/-- `SVP.STAT`. -/
def SVP_STAT : RegDef where
  base := 0x20141000
  n1 := 1
  s1 := 0x10000000000
  n2 := 1
  s2 := 0x10000000000
  i0 := 0
  j0 := 0
  wide := false
  lock := .none
  fields := [⟨0, 16, .rc, 0, false⟩]
def SVP_STAT_CE : Fld := ⟨SVP_STAT, 0, 16⟩

/-- `SVP.MPUCTL`. -/
def SVP_MPUCTL : RegDef where
  base := 0x20141004
  n1 := 1
  s1 := 0x10000000000
  n2 := 1
  s2 := 0x10000000000
  i0 := 0
  j0 := 0
  wide := false
  lock := .none
  fields := [⟨0, 1, .rw, 0, false⟩]
def SVP_MPUCTL_EN : Fld := ⟨SVP_MPUCTL, 0, 1⟩

/-- `SVP.MPUBASE`. -/
def SVP_MPUBASE : RegDef where
  base := 0x20141100
  n1 := 16
  s1 := 0x10
  n2 := 1
  s2 := 0x10
  i0 := 0
  j0 := 0
  wide := false
  lock := .none
  fields := [⟨0, 32, .rw, 0, false⟩]
def SVP_MPUBASE_ADDR : Fld := ⟨SVP_MPUBASE, 0, 32⟩

/-- `SVP.MPULIM`. -/
def SVP_MPULIM : RegDef where
  base := 0x20141104
  n1 := 16
  s1 := 0x10
  n2 := 1
  s2 := 0x10
  i0 := 0
  j0 := 0
  wide := false
  lock := .none
  fields := [⟨0, 32, .rw, 0, false⟩]
def SVP_MPULIM_ADDR : Fld := ⟨SVP_MPULIM, 0, 32⟩

/-- `SVP.MPUATTR`. -/
def SVP_MPUATTR : RegDef where
  base := 0x20141108
  n1 := 16
  s1 := 0x10
  n2 := 1
  s2 := 0x10
  i0 := 0
  j0 := 0
  wide := false
  lock := .none
  fields := [⟨31, 1, .rw, 0, false⟩,
    ⟨3, 3, .rw, 0, false⟩,
    ⟨0, 3, .rw, 0, false⟩]
def SVP_MPUATTR_EN : Fld := ⟨SVP_MPUATTR, 31, 1⟩
def SVP_MPUATTR_KRWX : Fld := ⟨SVP_MPUATTR, 3, 3⟩
def SVP_MPUATTR_URWX : Fld := ⟨SVP_MPUATTR, 0, 3⟩

/-- `ETHSW.HQTXBASE`. -/
def ETHSW_HQTXBASE : RegDef where
  base := 0x23010000
  n1 := 16
  s1 := 0x1000
  n2 := 1
  s2 := 0x1000
  i0 := 1
  j0 := 0
  wide := true
  lock := .seat
  fields := [⟨13, 35, .rw, 0, false⟩]
def ETHSW_HQTXBASE_ADDR : Fld := ⟨ETHSW_HQTXBASE, 13, 35⟩

/-- `ETHSW.HQRXBASE`. -/
def ETHSW_HQRXBASE : RegDef where
  base := 0x23010008
  n1 := 16
  s1 := 0x1000
  n2 := 1
  s2 := 0x1000
  i0 := 1
  j0 := 0
  wide := true
  lock := .seat
  fields := [⟨13, 35, .rw, 0, false⟩]
def ETHSW_HQRXBASE_ADDR : Fld := ⟨ETHSW_HQRXBASE, 13, 35⟩

/-- `ETHSW.HQCFG`. -/
def ETHSW_HQCFG : RegDef where
  base := 0x23010010
  n1 := 16
  s1 := 0x1000
  n2 := 1
  s2 := 0x1000
  i0 := 1
  j0 := 0
  wide := false
  lock := .seat
  fields := [⟨31, 1, .rw, 0, false⟩,
    ⟨16, 8, .rwl, 0, true⟩]
def ETHSW_HQCFG_EN : Fld := ⟨ETHSW_HQCFG, 31, 1⟩
def ETHSW_HQCFG_TCMASK : Fld := ⟨ETHSW_HQCFG, 16, 8⟩

/-- `ETHSW.HQSTAT`. -/
def ETHSW_HQSTAT : RegDef where
  base := 0x23010014
  n1 := 16
  s1 := 0x1000
  n2 := 1
  s2 := 0x1000
  i0 := 1
  j0 := 0
  wide := false
  lock := .seat
  fields := [⟨31, 1, .w1c, 0, false⟩,
    ⟨30, 1, .ro, 1, false⟩,
    ⟨29, 1, .w1c, 0, false⟩,
    ⟨28, 1, .w1c, 0, false⟩,
    ⟨27, 1, .w1c, 0, false⟩,
    ⟨0, 16, .rc, 0, false⟩]
def ETHSW_HQSTAT_POLDROP : Fld := ⟨ETHSW_HQSTAT, 31, 1⟩
def ETHSW_HQSTAT_HOLD : Fld := ⟨ETHSW_HQSTAT, 30, 1⟩
def ETHSW_HQSTAT_IDXERR : Fld := ⟨ETHSW_HQSTAT, 29, 1⟩
def ETHSW_HQSTAT_RXEV : Fld := ⟨ETHSW_HQSTAT, 28, 1⟩
def ETHSW_HQSTAT_TXEV : Fld := ⟨ETHSW_HQSTAT, 27, 1⟩
def ETHSW_HQSTAT_DROPS : Fld := ⟨ETHSW_HQSTAT, 0, 16⟩

/-- `ETHSW.HQTXPI`. -/
def ETHSW_HQTXPI : RegDef where
  base := 0x23010020
  n1 := 16
  s1 := 0x1000
  n2 := 1
  s2 := 0x1000
  i0 := 1
  j0 := 0
  wide := false
  lock := .seat
  fields := [⟨0, 16, .rw, 0, false⟩]
def ETHSW_HQTXPI_INDEX : Fld := ⟨ETHSW_HQTXPI, 0, 16⟩

/-- `ETHSW.HQTXCI`. -/
def ETHSW_HQTXCI : RegDef where
  base := 0x23010024
  n1 := 16
  s1 := 0x1000
  n2 := 1
  s2 := 0x1000
  i0 := 1
  j0 := 0
  wide := false
  lock := .seat
  fields := [⟨0, 16, .rw, 0, false⟩]
def ETHSW_HQTXCI_INDEX : Fld := ⟨ETHSW_HQTXCI, 0, 16⟩

/-- `ETHSW.HQRXPI`. -/
def ETHSW_HQRXPI : RegDef where
  base := 0x23010028
  n1 := 16
  s1 := 0x1000
  n2 := 1
  s2 := 0x1000
  i0 := 1
  j0 := 0
  wide := false
  lock := .seat
  fields := [⟨0, 16, .rw, 0, false⟩]
def ETHSW_HQRXPI_INDEX : Fld := ⟨ETHSW_HQRXPI, 0, 16⟩

/-- `ETHSW.HQRXCI`. -/
def ETHSW_HQRXCI : RegDef where
  base := 0x2301002C
  n1 := 16
  s1 := 0x1000
  n2 := 1
  s2 := 0x1000
  i0 := 1
  j0 := 0
  wide := false
  lock := .seat
  fields := [⟨0, 16, .rw, 0, false⟩]
def ETHSW_HQRXCI_INDEX : Fld := ⟨ETHSW_HQRXCI, 0, 16⟩

/-- `UCL.CFG`. -/
def UCL_CFG : RegDef where
  base := 0x23100000
  n1 := 1
  s1 := 0x10000000000
  n2 := 1
  s2 := 0x10000000000
  i0 := 0
  j0 := 0
  wide := false
  lock := .seat
  fields := [⟨31, 1, .rwl, 0, true⟩,
    ⟨8, 1, .rwl, 0, true⟩,
    ⟨0, 1, .rw, 0, false⟩]
def UCL_CFG_MGR : Fld := ⟨UCL_CFG, 31, 1⟩
def UCL_CFG_RING : Fld := ⟨UCL_CFG, 8, 1⟩
def UCL_CFG_EN : Fld := ⟨UCL_CFG, 0, 1⟩

/-- `UCL.STAT`. -/
def UCL_STAT : RegDef where
  base := 0x23100004
  n1 := 1
  s1 := 0x10000000000
  n2 := 1
  s2 := 0x10000000000
  i0 := 0
  j0 := 0
  wide := false
  lock := .seat
  fields := [⟨31, 1, .ro, 0, false⟩,
    ⟨30, 1, .w1c, 0, false⟩,
    ⟨29, 1, .w1c, 0, false⟩,
    ⟨28, 1, .w1c, 0, false⟩,
    ⟨27, 1, .w1c, 0, false⟩,
    ⟨0, 13, .ro, 0, false⟩]
def UCL_STAT_ENUMDONE : Fld := ⟨UCL_STAT, 31, 1⟩
def UCL_STAT_MGRCONF : Fld := ⟨UCL_STAT, 30, 1⟩
def UCL_STAT_AUTHF : Fld := ⟨UCL_STAT, 29, 1⟩
def UCL_STAT_LINKEV : Fld := ⟨UCL_STAT, 28, 1⟩
def UCL_STAT_TOPOERR : Fld := ⟨UCL_STAT, 27, 1⟩
def UCL_STAT_NDEV : Fld := ⟨UCL_STAT, 0, 13⟩

/-- `UCL.STOPTX`. -/
def UCL_STOPTX : RegDef where
  base := 0x23100008
  n1 := 1
  s1 := 0x10000000000
  n2 := 1
  s2 := 0x10000000000
  i0 := 0
  j0 := 0
  wide := false
  lock := .seat
  fields := [⟨31, 1, .wo, 0, false⟩,
    ⟨30, 1, .wo, 0, false⟩,
    ⟨16, 4, .wo, 0, false⟩,
    ⟨0, 12, .wo, 0, false⟩]
def UCL_STOPTX_GO : Fld := ⟨UCL_STOPTX, 31, 1⟩
def UCL_STOPTX_BCAST : Fld := ⟨UCL_STOPTX, 30, 1⟩
def UCL_STOPTX_SEAT : Fld := ⟨UCL_STOPTX, 16, 4⟩
def UCL_STOPTX_DEST : Fld := ⟨UCL_STOPTX, 0, 12⟩

/-- `UCL.STOPLOG`. -/
def UCL_STOPLOG : RegDef where
  base := 0x2310000C
  n1 := 1
  s1 := 0x10000000000
  n2 := 1
  s2 := 0x10000000000
  i0 := 0
  j0 := 0
  wide := false
  lock := .seat
  fields := [⟨31, 1, .w1c, 0, false⟩,
    ⟨30, 1, .ro, 0, false⟩,
    ⟨16, 4, .ro, 0, false⟩,
    ⟨0, 16, .ro, 0, false⟩]
def UCL_STOPLOG_VALID : Fld := ⟨UCL_STOPLOG, 31, 1⟩
def UCL_STOPLOG_BCAST : Fld := ⟨UCL_STOPLOG, 30, 1⟩
def UCL_STOPLOG_SEAT : Fld := ⟨UCL_STOPLOG, 16, 4⟩
def UCL_STOPLOG_COUNT : Fld := ⟨UCL_STOPLOG, 0, 16⟩

/-- `UCL.RDIDX`. -/
def UCL_RDIDX : RegDef where
  base := 0x23100010
  n1 := 1
  s1 := 0x10000000000
  n2 := 1
  s2 := 0x10000000000
  i0 := 0
  j0 := 0
  wide := false
  lock := .seat
  fields := [⟨0, 12, .rw, 0, false⟩]
def UCL_RDIDX_DEV : Fld := ⟨UCL_RDIDX, 0, 12⟩

/-- `UCL.RDST`. -/
def UCL_RDST : RegDef where
  base := 0x23100014
  n1 := 1
  s1 := 0x10000000000
  n2 := 1
  s2 := 0x10000000000
  i0 := 0
  j0 := 0
  wide := false
  lock := .seat
  fields := [⟨31, 1, .w1c, 0, false⟩,
    ⟨30, 1, .rw, 0, false⟩,
    ⟨29, 1, .ro, 0, false⟩,
    ⟨0, 8, .ro, 0, false⟩]
def UCL_RDST_DEAD : Fld := ⟨UCL_RDST, 31, 1⟩
def UCL_RDST_ISO : Fld := ⟨UCL_RDST, 30, 1⟩
def UCL_RDST_DOWN : Fld := ⟨UCL_RDST, 29, 1⟩
def UCL_RDST_OUT : Fld := ⟨UCL_RDST, 0, 8⟩

/-- `UCL.EXPBASE`. -/
def UCL_EXPBASE : RegDef where
  base := 0x23100100
  n1 := 16
  s1 := 0x20
  n2 := 1
  s2 := 0x20
  i0 := 0
  j0 := 0
  wide := true
  lock := .seat
  fields := [⟨12, 36, .rwl, 0, true⟩,
    ⟨0, 1, .rwl, 0, true⟩]
def UCL_EXPBASE_ADDR : Fld := ⟨UCL_EXPBASE, 12, 36⟩
def UCL_EXPBASE_EN : Fld := ⟨UCL_EXPBASE, 0, 1⟩

/-- `UCL.EXPOFS`. -/
def UCL_EXPOFS : RegDef where
  base := 0x23100108
  n1 := 16
  s1 := 0x20
  n2 := 1
  s2 := 0x20
  i0 := 0
  j0 := 0
  wide := false
  lock := .seat
  fields := [⟨0, 23, .rwl, 0, true⟩]
def UCL_EXPOFS_PAGES : Fld := ⟨UCL_EXPOFS, 0, 23⟩

/-- `UCL.EXPSIZE`. -/
def UCL_EXPSIZE : RegDef where
  base := 0x2310010C
  n1 := 16
  s1 := 0x20
  n2 := 1
  s2 := 0x20
  i0 := 0
  j0 := 0
  wide := false
  lock := .seat
  fields := [⟨0, 23, .rwl, 0, true⟩]
def UCL_EXPSIZE_PAGES : Fld := ⟨UCL_EXPSIZE, 0, 23⟩

/-- `UCL.EXPCFG`. -/
def UCL_EXPCFG : RegDef where
  base := 0x23100110
  n1 := 16
  s1 := 0x20
  n2 := 1
  s2 := 0x20
  i0 := 0
  j0 := 0
  wide := false
  lock := .seat
  fields := [⟨20, 12, .rwl, 0, true⟩,
    ⟨16, 4, .rwl, 0, true⟩,
    ⟨9, 1, .rwl, 0, true⟩,
    ⟨8, 1, .rwl, 0, true⟩,
    ⟨0, 4, .rwl, 0, true⟩]
def UCL_EXPCFG_SRCDEV : Fld := ⟨UCL_EXPCFG, 20, 12⟩
def UCL_EXPCFG_SRCSEAT : Fld := ⟨UCL_EXPCFG, 16, 4⟩
def UCL_EXPCFG_WR : Fld := ⟨UCL_EXPCFG, 9, 1⟩
def UCL_EXPCFG_RD : Fld := ⟨UCL_EXPCFG, 8, 1⟩
def UCL_EXPCFG_SEAT : Fld := ⟨UCL_EXPCFG, 0, 4⟩

/-- `UCL.ADDR`. -/
def UCL_ADDR : RegDef where
  base := 0x23101000
  n1 := 1
  s1 := 0x10000000000
  n2 := 1
  s2 := 0x10000000000
  i0 := 0
  j0 := 0
  wide := false
  lock := .seat
  fields := [⟨31, 1, .ro, 0, false⟩,
    ⟨0, 12, .ro, 0, false⟩]
def UCL_ADDR_VALID : Fld := ⟨UCL_ADDR, 31, 1⟩
def UCL_ADDR_DEV : Fld := ⟨UCL_ADDR, 0, 12⟩

/-- `UCL.TSTAT`. -/
def UCL_TSTAT : RegDef where
  base := 0x23101004
  n1 := 1
  s1 := 0x10000000000
  n2 := 1
  s2 := 0x10000000000
  i0 := 0
  j0 := 0
  wide := false
  lock := .seat
  fields := [⟨31, 1, .ro, 0, false⟩,
    ⟨30, 1, .ro, 0, false⟩,
    ⟨29, 1, .ro, 0, false⟩,
    ⟨0, 8, .ro, 0, false⟩]
def UCL_TSTAT_LOCK : Fld := ⟨UCL_TSTAT, 31, 1⟩
def UCL_TSTAT_HOLD : Fld := ⟨UCL_TSTAT, 30, 1⟩
def UCL_TSTAT_ROOT : Fld := ⟨UCL_TSTAT, 29, 1⟩
def UCL_TSTAT_HOPS : Fld := ⟨UCL_TSTAT, 0, 8⟩

/-- `UCL.TOFS`. -/
def UCL_TOFS : RegDef where
  base := 0x23101008
  n1 := 1
  s1 := 0x10000000000
  n2 := 1
  s2 := 0x10000000000
  i0 := 0
  j0 := 0
  wide := false
  lock := .seat
  fields := [⟨0, 32, .ro, 0, false⟩]
def UCL_TOFS_OFS : Fld := ⟨UCL_TOFS, 0, 32⟩

/-- `UCL.PCFG`. -/
def UCL_PCFG : RegDef where
  base := 0x23110000
  n1 := 4
  s1 := 0x10000
  n2 := 1
  s2 := 0x10000
  i0 := 0
  j0 := 0
  wide := false
  lock := .seat
  fields := [⟨30, 2, .rwl, 0, true⟩,
    ⟨28, 2, .rwl, 0, true⟩,
    ⟨24, 3, .rwl, 0, true⟩,
    ⟨0, 12, .rwl, 0, true⟩]
def UCL_PCFG_MODE : Fld := ⟨UCL_PCFG, 30, 2⟩
def UCL_PCFG_ETHP : Fld := ⟨UCL_PCFG, 28, 2⟩
def UCL_PCFG_TC : Fld := ⟨UCL_PCFG, 24, 3⟩
def UCL_PCFG_VLAN : Fld := ⟨UCL_PCFG, 0, 12⟩

/-- `UCL.PSTAT`. -/
def UCL_PSTAT : RegDef where
  base := 0x23110004
  n1 := 4
  s1 := 0x10000
  n2 := 1
  s2 := 0x10000
  i0 := 0
  j0 := 0
  wide := false
  lock := .seat
  fields := [⟨31, 1, .ro, 0, false⟩,
    ⟨30, 1, .ro, 0, false⟩,
    ⟨29, 1, .ro, 0, false⟩,
    ⟨0, 12, .ro, 0, false⟩]
def UCL_PSTAT_UP : Fld := ⟨UCL_PSTAT, 31, 1⟩
def UCL_PSTAT_AUTH : Fld := ⟨UCL_PSTAT, 30, 1⟩
def UCL_PSTAT_LOCK : Fld := ⟨UCL_PSTAT, 29, 1⟩
def UCL_PSTAT_PEER : Fld := ⟨UCL_PSTAT, 0, 12⟩

/-- `UCL.PERR`. -/
def UCL_PERR : RegDef where
  base := 0x23110008
  n1 := 4
  s1 := 0x10000
  n2 := 1
  s2 := 0x10000
  i0 := 0
  j0 := 0
  wide := false
  lock := .seat
  fields := [⟨16, 16, .rc, 0, false⟩,
    ⟨0, 16, .rc, 0, false⟩]
def UCL_PERR_REPLAY : Fld := ⟨UCL_PERR, 16, 16⟩
def UCL_PERR_CRC : Fld := ⟨UCL_PERR, 0, 16⟩

/-- `UCL.PDLY`. -/
def UCL_PDLY : RegDef where
  base := 0x2311000C
  n1 := 4
  s1 := 0x10000
  n2 := 1
  s2 := 0x10000
  i0 := 0
  j0 := 0
  wide := false
  lock := .seat
  fields := [⟨0, 16, .ro, 0, false⟩]
def UCL_PDLY_NS : Fld := ⟨UCL_PDLY, 0, 16⟩

/-- `UCL.PEERMAC`. -/
def UCL_PEERMAC : RegDef where
  base := 0x23110010
  n1 := 4
  s1 := 0x10000
  n2 := 1
  s2 := 0x10000
  i0 := 0
  j0 := 0
  wide := true
  lock := .seat
  fields := [⟨0, 48, .rwl, 0, true⟩]
def UCL_PEERMAC_MAC : Fld := ⟨UCL_PEERMAC, 0, 48⟩

/-- `PWC.STAT`. -/
def PWC_STAT : RegDef where
  base := 0x20090000
  n1 := 1
  s1 := 0x10000000000
  n2 := 1
  s2 := 0x10000000000
  i0 := 0
  j0 := 0
  wide := false
  lock := .deal
  fields := [⟨30, 2, .ro, 3, false⟩,
    ⟨29, 1, .ro, 0, false⟩,
    ⟨28, 1, .ro, 0, false⟩,
    ⟨1, 15, .ro, 0, false⟩]
def PWC_STAT_PF : Fld := ⟨PWC_STAT, 30, 2⟩
def PWC_STAT_PFBUSY : Fld := ⟨PWC_STAT, 29, 1⟩
def PWC_STAT_STBY : Fld := ⟨PWC_STAT, 28, 1⟩
def PWC_STAT_SRBUSY : Fld := ⟨PWC_STAT, 1, 15⟩

/-- `PWC.PFCTL`. -/
def PWC_PFCTL : RegDef where
  base := 0x20090004
  n1 := 1
  s1 := 0x10000000000
  n2 := 1
  s2 := 0x10000000000
  i0 := 0
  j0 := 0
  wide := false
  lock := .deal
  fields := [⟨30, 2, .rw, 3, false⟩,
    ⟨0, 8, .rw, 0x28, false⟩]
def PWC_PFCTL_TARGET : Fld := ⟨PWC_PFCTL, 30, 2⟩
def PWC_PFCTL_VSETTLE : Fld := ⟨PWC_PFCTL, 0, 8⟩

/-- `PWC.DSTAT`. -/
def PWC_DSTAT : RegDef where
  base := 0x20090008
  n1 := 1
  s1 := 0x10000000000
  n2 := 1
  s2 := 0x10000000000
  i0 := 0
  j0 := 0
  wide := false
  lock := .deal
  fields := [⟨0, 31, .ro, 0x7FFFF00F, false⟩]
def PWC_DSTAT_ON : Fld := ⟨PWC_DSTAT, 0, 31⟩

/-- `PWC.FIO`. -/
def PWC_FIO : RegDef where
  base := 0x2009000C
  n1 := 1
  s1 := 0x10000000000
  n2 := 1
  s2 := 0x10000000000
  i0 := 0
  j0 := 0
  wide := false
  lock := .deal
  fields := [⟨4, 16, .w1c, 0, false⟩]
def PWC_FIO_FIO : Fld := ⟨PWC_FIO, 4, 16⟩

/-- `PWC.SBCTL`. -/
def PWC_SBCTL : RegDef where
  base := 0x20090010
  n1 := 1
  s1 := 0x10000000000
  n2 := 1
  s2 := 0x10000000000
  i0 := 0
  j0 := 0
  wide := false
  lock := .deal
  fields := [⟨31, 1, .wo, 0, false⟩,
    ⟨30, 1, .wo, 0, false⟩,
    ⟨0, 8, .rw, 0x64, false⟩]
def PWC_SBCTL_GO : Fld := ⟨PWC_SBCTL, 31, 1⟩
def PWC_SBCTL_OFF : Fld := ⟨PWC_SBCTL, 30, 1⟩
def PWC_SBCTL_TICK : Fld := ⟨PWC_SBCTL, 0, 8⟩

/-- `PWC.RST`. -/
def PWC_RST : RegDef where
  base := 0x20090014
  n1 := 1
  s1 := 0x10000000000
  n2 := 1
  s2 := 0x10000000000
  i0 := 0
  j0 := 0
  wide := false
  lock := .deal
  fields := [⟨28, 4, .wo, 0, false⟩,
    ⟨8, 8, .wo, 0, false⟩,
    ⟨0, 8, .wo, 0, false⟩]
def PWC_RST_OP : Fld := ⟨PWC_RST, 28, 4⟩
def PWC_RST_KEY : Fld := ⟨PWC_RST, 8, 8⟩
def PWC_RST_ARG : Fld := ⟨PWC_RST, 0, 8⟩

/-- `PWC.RSTCAUSE`. -/
def PWC_RSTCAUSE : RegDef where
  base := 0x20090018
  n1 := 1
  s1 := 0x10000000000
  n2 := 1
  s2 := 0x10000000000
  i0 := 0
  j0 := 0
  wide := false
  lock := .deal
  fields := [⟨6, 1, .w1c, 0, false⟩,
    ⟨5, 1, .w1c, 0, false⟩,
    ⟨4, 1, .w1c, 0, false⟩,
    ⟨3, 1, .w1c, 0, false⟩,
    ⟨2, 1, .w1c, 0, false⟩,
    ⟨1, 1, .w1c, 0, false⟩]
def PWC_RSTCAUSE_OFFX : Fld := ⟨PWC_RSTCAUSE, 6, 1⟩
def PWC_RSTCAUSE_VDROP : Fld := ⟨PWC_RSTCAUSE, 5, 1⟩
def PWC_RSTCAUSE_PORST : Fld := ⟨PWC_RSTCAUSE, 4, 1⟩
def PWC_RSTCAUSE_RESETN : Fld := ⟨PWC_RSTCAUSE, 3, 1⟩
def PWC_RSTCAUSE_SWRST : Fld := ⟨PWC_RSTCAUSE, 2, 1⟩
def PWC_RSTCAUSE_AONPOR : Fld := ⟨PWC_RSTCAUSE, 1, 1⟩

/-- `PWC.TGBUDGET`. -/
def PWC_TGBUDGET : RegDef where
  base := 0x20090020
  n1 := 1
  s1 := 0x10000000000
  n2 := 1
  s2 := 0x10000000000
  i0 := 0
  j0 := 0
  wide := false
  lock := .deal
  fields := [⟨16, 16, .rwl, 0xBB8, false⟩,
    ⟨0, 16, .rwl, 0xFA0, false⟩]
def PWC_TGBUDGET_RSV : Fld := ⟨PWC_TGBUDGET, 16, 16⟩
def PWC_TGBUDGET_TOTAL : Fld := ⟨PWC_TGBUDGET, 0, 16⟩

/-- `PWC.TGPOOL`. -/
def PWC_TGPOOL : RegDef where
  base := 0x20090024
  n1 := 1
  s1 := 0x10000000000
  n2 := 1
  s2 := 0x10000000000
  i0 := 0
  j0 := 0
  wide := false
  lock := .deal
  fields := [⟨16, 16, .ro, 0xFA0, false⟩,
    ⟨0, 8, .ro, 0, false⟩]
def PWC_TGPOOL_FREE : Fld := ⟨PWC_TGPOOL, 16, 16⟩
def PWC_TGPOOL_QUEUE : Fld := ⟨PWC_TGPOOL, 0, 8⟩

/-- `PWC.TGSHARE`. -/
def PWC_TGSHARE : RegDef where
  base := 0x20090040
  n1 := 16
  s1 := 4
  n2 := 1
  s2 := 4
  i0 := 1
  j0 := 0
  wide := false
  lock := .deal
  fields := [⟨0, 16, .rwl, 0, true⟩]
def PWC_TGSHARE_SHARE : Fld := ⟨PWC_TGSHARE, 0, 16⟩

/-- `PWC.WAKEEN`. -/
def PWC_WAKEEN : RegDef where
  base := 0x20090100
  n1 := 16
  s1 := 4
  n2 := 1
  s2 := 4
  i0 := 0
  j0 := 0
  wide := false
  lock := .deal
  fields := [⟨0, 32, .rw, 0, false⟩]
def PWC_WAKEEN_EN : Fld := ⟨PWC_WAKEEN, 0, 32⟩

/-- `PWC.TGSTAT`. -/
def PWC_TGSTAT : RegDef where
  base := 0x20090000
  n1 := 16
  s1 := 0x1000
  n2 := 1
  s2 := 0x1000
  i0 := 1
  j0 := 0
  wide := false
  lock := .deal
  fields := [⟨31, 1, .w1c, 0, false⟩,
    ⟨30, 1, .ro, 0, false⟩,
    ⟨0, 16, .ro, 0, false⟩]
def PWC_TGSTAT_REFUSED : Fld := ⟨PWC_TGSTAT, 31, 1⟩
def PWC_TGSTAT_WAIT : Fld := ⟨PWC_TGSTAT, 30, 1⟩
def PWC_TGSTAT_HELD : Fld := ⟨PWC_TGSTAT, 0, 16⟩

/-- `PWC.CCTL`. -/
def PWC_CCTL : RegDef where
  base := 0x20091100
  n1 := 32
  s1 := 4
  n2 := 1
  s2 := 4
  i0 := 0
  j0 := 0
  wide := false
  lock := .deal
  fields := [⟨30, 2, .ro, 3, false⟩,
    ⟨29, 1, .w1c, 0, false⟩,
    ⟨28, 1, .w1c, 0, false⟩,
    ⟨27, 1, .ro, 0, false⟩,
    ⟨8, 1, .wo, 0, false⟩,
    ⟨0, 2, .rw, 1, false⟩]
def PWC_CCTL_STATE : Fld := ⟨PWC_CCTL, 30, 2⟩
def PWC_CCTL_WLOST : Fld := ⟨PWC_CCTL, 29, 1⟩
def PWC_CCTL_DEMOTE : Fld := ⟨PWC_CCTL, 28, 1⟩
def PWC_CCTL_TGWAIT : Fld := ⟨PWC_CCTL, 27, 1⟩
def PWC_CCTL_WAKE : Fld := ⟨PWC_CCTL, 8, 1⟩
def PWC_CCTL_DEPTH : Fld := ⟨PWC_CCTL, 0, 2⟩

/-- `CRG.STAT`. -/
def CRG_STAT : RegDef where
  base := 0x200A0000
  n1 := 1
  s1 := 0x10000000000
  n2 := 1
  s2 := 0x10000000000
  i0 := 0
  j0 := 0
  wide := false
  lock := .none
  fields := [⟨31, 1, .ro, 0, false⟩,
    ⟨30, 1, .ro, 0, false⟩,
    ⟨0, 10, .ro, 0, false⟩]
def CRG_STAT_LOCK : Fld := ⟨CRG_STAT, 31, 1⟩
def CRG_STAT_REFOK : Fld := ⟨CRG_STAT, 30, 1⟩
def CRG_STAT_FIOMHZ : Fld := ⟨CRG_STAT, 0, 10⟩

/-- `DBG.CTL`. -/
def DBG_CTL : RegDef where
  base := 0x20160000
  n1 := 1
  s1 := 0x10000000000
  n2 := 1
  s2 := 0x10000000000
  i0 := 0
  j0 := 0
  wide := false
  lock := .none
  fields := [⟨20, 4, .rw, 0, false⟩,
    ⟨19, 1, .rw, 0, false⟩,
    ⟨12, 4, .rw, 0, false⟩,
    ⟨11, 1, .rw, 0, false⟩,
    ⟨2, 1, .rw, 0, false⟩,
    ⟨1, 1, .rw, 0, false⟩,
    ⟨0, 1, .rw, 1, false⟩]
def DBG_CTL_EXTIN : Fld := ⟨DBG_CTL, 20, 4⟩
def DBG_CTL_EXTINEN : Fld := ⟨DBG_CTL, 19, 1⟩
def DBG_CTL_EXTOUT : Fld := ⟨DBG_CTL, 12, 4⟩
def DBG_CTL_EXTOUTEN : Fld := ⟨DBG_CTL, 11, 1⟩
def DBG_CTL_HALTREL : Fld := ⟨DBG_CTL, 2, 1⟩
def DBG_CTL_WDFRZ : Fld := ⟨DBG_CTL, 1, 1⟩
def DBG_CTL_PEEK : Fld := ⟨DBG_CTL, 0, 1⟩

/-- `DBG.STAT`. -/
def DBG_STAT : RegDef where
  base := 0x20160004
  n1 := 1
  s1 := 0x10000000000
  n2 := 1
  s2 := 0x10000000000
  i0 := 0
  j0 := 0
  wide := false
  lock := .none
  fields := [⟨31, 1, .w1c, 0, false⟩,
    ⟨30, 1, .ro, 0, false⟩,
    ⟨29, 1, .w1c, 0, false⟩,
    ⟨28, 1, .w1c, 0, false⟩,
    ⟨1, 15, .ro, 0, false⟩]
def DBG_STAT_NOPEEK : Fld := ⟨DBG_STAT, 31, 1⟩
def DBG_STAT_AUTHOK : Fld := ⟨DBG_STAT, 30, 1⟩
def DBG_STAT_AUTHF : Fld := ⟨DBG_STAT, 29, 1⟩
def DBG_STAT_XTERR : Fld := ⟨DBG_STAT, 28, 1⟩
def DBG_STAT_GRANTED : Fld := ⟨DBG_STAT, 1, 15⟩

/-- `DBG.NONCE`. -/
def DBG_NONCE : RegDef where
  base := 0x20160010
  n1 := 8
  s1 := 4
  n2 := 1
  s2 := 4
  i0 := 0
  j0 := 0
  wide := false
  lock := .none
  fields := [⟨0, 32, .ro, 0, false⟩]
def DBG_NONCE_BYTES : Fld := ⟨DBG_NONCE, 0, 32⟩

/-- `DBG.GRANT`. -/
def DBG_GRANT : RegDef where
  base := 0x20160040
  n1 := 16
  s1 := 4
  n2 := 1
  s2 := 4
  i0 := 1
  j0 := 0
  wide := false
  lock := .none
  fields := [⟨31, 1, .w1c, 0, false⟩,
    ⟨30, 1, .ro, 0, false⟩,
    ⟨29, 1, .ro, 0, false⟩,
    ⟨0, 16, .ro, 0, false⟩]
def DBG_GRANT_VALID : Fld := ⟨DBG_GRANT, 31, 1⟩
def DBG_GRANT_HALT : Fld := ⟨DBG_GRANT, 30, 1⟩
def DBG_GRANT_MEM : Fld := ⟨DBG_GRANT, 29, 1⟩
def DBG_GRANT_MIN : Fld := ⟨DBG_GRANT, 0, 16⟩

/-- `DBG.DAMADDR`. -/
def DBG_DAMADDR : RegDef where
  base := 0x20160100
  n1 := 1
  s1 := 0x10000000000
  n2 := 1
  s2 := 0x10000000000
  i0 := 0
  j0 := 0
  wide := true
  lock := .none
  fields := [⟨0, 48, .rw, 0, false⟩]
def DBG_DAMADDR_ADDR : Fld := ⟨DBG_DAMADDR, 0, 48⟩

/-- `DBG.DAMDATA`. -/
def DBG_DAMDATA : RegDef where
  base := 0x20160108
  n1 := 1
  s1 := 0x10000000000
  n2 := 1
  s2 := 0x10000000000
  i0 := 0
  j0 := 0
  wide := true
  lock := .none
  fields := [⟨0, 64, .rw, 0, false⟩]
def DBG_DAMDATA_DATA : Fld := ⟨DBG_DAMDATA, 0, 64⟩

/-- `DBG.DAMCTL`. -/
def DBG_DAMCTL : RegDef where
  base := 0x20160110
  n1 := 1
  s1 := 0x10000000000
  n2 := 1
  s2 := 0x10000000000
  i0 := 0
  j0 := 0
  wide := false
  lock := .none
  fields := [⟨31, 1, .wo, 0, false⟩,
    ⟨30, 1, .ro, 0, false⟩,
    ⟨29, 1, .rw, 0, false⟩,
    ⟨27, 2, .rw, 3, false⟩,
    ⟨26, 1, .ro, 0, false⟩,
    ⟨0, 4, .rw, 0, false⟩]
def DBG_DAMCTL_GO : Fld := ⟨DBG_DAMCTL, 31, 1⟩
def DBG_DAMCTL_BUSY : Fld := ⟨DBG_DAMCTL, 30, 1⟩
def DBG_DAMCTL_WR : Fld := ⟨DBG_DAMCTL, 29, 1⟩
def DBG_DAMCTL_SIZE : Fld := ⟨DBG_DAMCTL, 27, 2⟩
def DBG_DAMCTL_ERR : Fld := ⟨DBG_DAMCTL, 26, 1⟩
def DBG_DAMCTL_SEAT : Fld := ⟨DBG_DAMCTL, 0, 4⟩

/-- `DBG.CCTL`. -/
def DBG_CCTL : RegDef where
  base := 0x20161000
  n1 := 32
  s1 := 0x100
  n2 := 1
  s2 := 0x100
  i0 := 0
  j0 := 0
  wide := false
  lock := .none
  fields := [⟨31, 1, .ro, 0, false⟩,
    ⟨30, 1, .wo, 0, false⟩,
    ⟨29, 1, .wo, 0, false⟩,
    ⟨28, 1, .wo, 0, false⟩,
    ⟨27, 1, .rw, 0, false⟩,
    ⟨26, 1, .rw, 0, false⟩,
    ⟨25, 1, .w1c, 0, false⟩,
    ⟨24, 1, .rw, 0, false⟩,
    ⟨20, 4, .rw, 0, false⟩,
    ⟨0, 16, .rw, 0, false⟩]
def DBG_CCTL_HALTED : Fld := ⟨DBG_CCTL, 31, 1⟩
def DBG_CCTL_HALTREQ : Fld := ⟨DBG_CCTL, 30, 1⟩
def DBG_CCTL_RESUME : Fld := ⟨DBG_CCTL, 29, 1⟩
def DBG_CCTL_STEP : Fld := ⟨DBG_CCTL, 28, 1⟩
def DBG_CCTL_STEPIE : Fld := ⟨DBG_CCTL, 27, 1⟩
def DBG_CCTL_BRKHALT : Fld := ⟨DBG_CCTL, 26, 1⟩
def DBG_CCTL_RESREF : Fld := ⟨DBG_CCTL, 25, 1⟩
def DBG_CCTL_TOEN : Fld := ⟨DBG_CCTL, 24, 1⟩
def DBG_CCTL_TOCH : Fld := ⟨DBG_CCTL, 20, 4⟩
def DBG_CCTL_TRIGIN : Fld := ⟨DBG_CCTL, 0, 16⟩

/-- `DBG.CRSEL`. -/
def DBG_CRSEL : RegDef where
  base := 0x20161004
  n1 := 32
  s1 := 0x100
  n2 := 1
  s2 := 0x100
  i0 := 0
  j0 := 0
  wide := false
  lock := .none
  fields := [⟨31, 1, .wo, 0, false⟩,
    ⟨30, 1, .wo, 0, false⟩,
    ⟨29, 1, .ro, 0, false⟩,
    ⟨12, 2, .rw, 0, false⟩,
    ⟨0, 12, .rw, 0, false⟩]
def DBG_CRSEL_GO : Fld := ⟨DBG_CRSEL, 31, 1⟩
def DBG_CRSEL_WR : Fld := ⟨DBG_CRSEL, 30, 1⟩
def DBG_CRSEL_ERR : Fld := ⟨DBG_CRSEL, 29, 1⟩
def DBG_CRSEL_SPACE : Fld := ⟨DBG_CRSEL, 12, 2⟩
def DBG_CRSEL_NUM : Fld := ⟨DBG_CRSEL, 0, 12⟩

/-- `DBG.CRDATA`. -/
def DBG_CRDATA : RegDef where
  base := 0x20161008
  n1 := 32
  s1 := 0x100
  n2 := 1
  s2 := 0x100
  i0 := 0
  j0 := 0
  wide := true
  lock := .none
  fields := [⟨0, 64, .rw, 0, false⟩]
def DBG_CRDATA_DATA : Fld := ⟨DBG_CRDATA, 0, 64⟩

/-- `DBG.CMPADDR`. -/
def DBG_CMPADDR : RegDef where
  base := 0x20161040
  n1 := 32
  s1 := 0x100
  n2 := 8
  s2 := 0x10
  i0 := 0
  j0 := 0
  wide := true
  lock := .none
  fields := [⟨0, 48, .rw, 0, false⟩]
def DBG_CMPADDR_ADDR : Fld := ⟨DBG_CMPADDR, 0, 48⟩

/-- `DBG.CMPCTL`. -/
def DBG_CMPCTL : RegDef where
  base := 0x20161048
  n1 := 32
  s1 := 0x100
  n2 := 8
  s2 := 0x10
  i0 := 0
  j0 := 0
  wide := false
  lock := .none
  fields := [⟨31, 1, .rw, 0, false⟩,
    ⟨29, 2, .rw, 0, false⟩,
    ⟨28, 1, .rw, 0, false⟩,
    ⟨26, 2, .rw, 0, false⟩,
    ⟨25, 1, .rw, 0, false⟩,
    ⟨21, 4, .rw, 0, false⟩,
    ⟨16, 4, .rw, 0, false⟩,
    ⟨12, 1, .rw, 0, false⟩,
    ⟨0, 12, .rw, 0, false⟩]
def DBG_CMPCTL_EN : Fld := ⟨DBG_CMPCTL, 31, 1⟩
def DBG_CMPCTL_KIND : Fld := ⟨DBG_CMPCTL, 29, 2⟩
def DBG_CMPCTL_RANGE : Fld := ⟨DBG_CMPCTL, 28, 1⟩
def DBG_CMPCTL_ACT : Fld := ⟨DBG_CMPCTL, 26, 2⟩
def DBG_CMPCTL_TOEN : Fld := ⟨DBG_CMPCTL, 25, 1⟩
def DBG_CMPCTL_CH : Fld := ⟨DBG_CMPCTL, 21, 4⟩
def DBG_CMPCTL_SEAT : Fld := ⟨DBG_CMPCTL, 16, 4⟩
def DBG_CMPCTL_ASIDEN : Fld := ⟨DBG_CMPCTL, 12, 1⟩
def DBG_CMPCTL_ASID : Fld := ⟨DBG_CMPCTL, 0, 12⟩

/-- `DBG.LGXT`. -/
def DBG_LGXT : RegDef where
  base := 0x20163000
  n1 := 4
  s1 := 4
  n2 := 1
  s2 := 4
  i0 := 0
  j0 := 0
  wide := false
  lock := .none
  fields := [⟨16, 16, .rw, 0, false⟩,
    ⟨0, 16, .rw, 0, false⟩]
def DBG_LGXT_LANES : Fld := ⟨DBG_LGXT, 16, 16⟩
def DBG_LGXT_CHAN : Fld := ⟨DBG_LGXT, 0, 16⟩

/-- `TRC.RBASE`. -/
def TRC_RBASE : RegDef where
  base := 0x20170000
  n1 := 8
  s1 := 0x20
  n2 := 1
  s2 := 0x20
  i0 := 0
  j0 := 0
  wide := true
  lock := .none
  fields := [⟨6, 42, .rw, 0, false⟩]
def TRC_RBASE_ADDR : Fld := ⟨TRC_RBASE, 6, 42⟩

/-- `TRC.RLIM`. -/
def TRC_RLIM : RegDef where
  base := 0x20170008
  n1 := 8
  s1 := 0x20
  n2 := 1
  s2 := 0x20
  i0 := 0
  j0 := 0
  wide := true
  lock := .none
  fields := [⟨6, 42, .rw, 0, false⟩]
def TRC_RLIM_ADDR : Fld := ⟨TRC_RLIM, 6, 42⟩

/-- `TRC.RWP`. -/
def TRC_RWP : RegDef where
  base := 0x20170010
  n1 := 8
  s1 := 0x20
  n2 := 1
  s2 := 0x20
  i0 := 0
  j0 := 0
  wide := true
  lock := .none
  fields := [⟨6, 42, .rw, 0, false⟩]
def TRC_RWP_ADDR : Fld := ⟨TRC_RWP, 6, 42⟩

/-- `TRC.RCTL`. -/
def TRC_RCTL : RegDef where
  base := 0x20170018
  n1 := 8
  s1 := 0x20
  n2 := 1
  s2 := 0x20
  i0 := 0
  j0 := 0
  wide := false
  lock := .none
  fields := [⟨31, 1, .rw, 0, false⟩,
    ⟨30, 1, .rw, 1, false⟩,
    ⟨29, 1, .w1c, 0, false⟩,
    ⟨28, 1, .w1c, 0, false⟩,
    ⟨0, 4, .ro, 0, true⟩]
def TRC_RCTL_EN : Fld := ⟨TRC_RCTL, 31, 1⟩
def TRC_RCTL_WRAP : Fld := ⟨TRC_RCTL, 30, 1⟩
def TRC_RCTL_WRAPPED : Fld := ⟨TRC_RCTL, 29, 1⟩
def TRC_RCTL_ERR : Fld := ⟨TRC_RCTL, 28, 1⟩
def TRC_RCTL_OWNER : Fld := ⟨TRC_RCTL, 0, 4⟩

/-- `TRC.PCTL`. -/
def TRC_PCTL : RegDef where
  base := 0x20170100
  n1 := 1
  s1 := 0x10000000000
  n2 := 1
  s2 := 0x10000000000
  i0 := 0
  j0 := 0
  wide := false
  lock := .none
  fields := [⟨31, 1, .rw, 0, false⟩,
    ⟨0, 4, .ro, 0, true⟩]
def TRC_PCTL_EN : Fld := ⟨TRC_PCTL, 31, 1⟩
def TRC_PCTL_OWNER : Fld := ⟨TRC_PCTL, 0, 4⟩

/-- `TRC.SCTL`. -/
def TRC_SCTL : RegDef where
  base := 0x20170000
  n1 := 16
  s1 := 0x1000
  n2 := 1
  s2 := 0x1000
  i0 := 1
  j0 := 0
  wide := false
  lock := .none
  fields := [⟨31, 1, .rw, 0, false⟩,
    ⟨30, 1, .rw, 0, false⟩,
    ⟨29, 1, .rw, 0, false⟩,
    ⟨0, 3, .rw, 0, false⟩]
def TRC_SCTL_FLOW : Fld := ⟨TRC_SCTL, 31, 1⟩
def TRC_SCTL_STIM : Fld := ⟨TRC_SCTL, 30, 1⟩
def TRC_SCTL_PORT : Fld := ⟨TRC_SCTL, 29, 1⟩
def TRC_SCTL_REGION : Fld := ⟨TRC_SCTL, 0, 3⟩

/-- `TRC.SWP`. -/
def TRC_SWP : RegDef where
  base := 0x20170008
  n1 := 16
  s1 := 0x1000
  n2 := 1
  s2 := 0x1000
  i0 := 1
  j0 := 0
  wide := true
  lock := .none
  fields := [⟨63, 1, .ro, 0, false⟩,
    ⟨62, 1, .ro, 0, false⟩,
    ⟨0, 48, .ro, 0, false⟩]
def TRC_SWP_WRAPPED : Fld := ⟨TRC_SWP, 63, 1⟩
def TRC_SWP_ERR : Fld := ⟨TRC_SWP, 62, 1⟩
def TRC_SWP_ADDR : Fld := ⟨TRC_SWP, 0, 48⟩

/-- `TRC.STIM`. -/
def TRC_STIM : RegDef where
  base := 0x20170100
  n1 := 16
  s1 := 0x1000
  n2 := 16
  s2 := 4
  i0 := 1
  j0 := 0
  wide := false
  lock := .none
  fields := [⟨0, 32, .wo, 0, false⟩]
def TRC_STIM_VALUE : Fld := ⟨TRC_STIM, 0, 32⟩

/-- `PMX.OWN`. -/
def PMX_OWN : RegDef where
  base := 0x200E0000
  n1 := 200
  s1 := 4
  n2 := 1
  s2 := 4
  i0 := 0
  j0 := 0
  wide := false
  lock := .none
  fields := [⟨31, 1, .ro, 0, false⟩,
    ⟨16, 8, .ro, 0, false⟩,
    ⟨14, 2, .ro, 2, false⟩,
    ⟨8, 3, .ro, 0, false⟩,
    ⟨0, 4, .ro, 0, false⟩]
def PMX_OWN_HELD : Fld := ⟨PMX_OWN, 31, 1⟩
def PMX_OWN_SEL : Fld := ⟨PMX_OWN, 16, 8⟩
def PMX_OWN_SAFE : Fld := ⟨PMX_OWN, 14, 2⟩
def PMX_OWN_FUNC : Fld := ⟨PMX_OWN, 8, 3⟩
def PMX_OWN_OWNER : Fld := ⟨PMX_OWN, 0, 4⟩

/-- `PMX.STAT`. -/
def PMX_STAT : RegDef where
  base := 0x200E0400
  n1 := 1
  s1 := 0x10000000000
  n2 := 1
  s2 := 0x10000000000
  i0 := 0
  j0 := 0
  wide := false
  lock := .none
  fields := [⟨31, 1, .w1c, 0, false⟩,
    ⟨0, 8, .ro, 0, false⟩]
def PMX_STAT_DISP : Fld := ⟨PMX_STAT, 31, 1⟩
def PMX_STAT_FIRST : Fld := ⟨PMX_STAT, 0, 8⟩

/-- `TBS.NOW`. -/
def TBS_NOW : RegDef where
  base := 0x200B0000
  n1 := 1
  s1 := 0x10000000000
  n2 := 1
  s2 := 0x10000000000
  i0 := 0
  j0 := 0
  wide := true
  lock := .none
  fields := [⟨0, 64, .ro, 0, false⟩]
def TBS_NOW_NS : Fld := ⟨TBS_NOW, 0, 64⟩

/-- `TBS.NOWF`. -/
def TBS_NOWF : RegDef where
  base := 0x200B0008
  n1 := 1
  s1 := 0x10000000000
  n2 := 1
  s2 := 0x10000000000
  i0 := 0
  j0 := 0
  wide := false
  lock := .none
  fields := [⟨0, 16, .ro, 0, false⟩]
def TBS_NOWF_FRAC : Fld := ⟨TBS_NOWF, 0, 16⟩

/-- `TBS.RATE`. -/
def TBS_RATE : RegDef where
  base := 0x200B0010
  n1 := 1
  s1 := 0x10000000000
  n2 := 1
  s2 := 0x10000000000
  i0 := 0
  j0 := 0
  wide := false
  lock := .none
  fields := [⟨0, 32, .rw, 0x50000, false⟩]
def TBS_RATE_INC : Fld := ⟨TBS_RATE, 0, 32⟩

/-- `TBS.CCCTL`. -/
def TBS_CCCTL : RegDef where
  base := 0x200B1000
  n1 := 32
  s1 := 0x1000
  n2 := 1
  s2 := 0x1000
  i0 := 0
  j0 := 0
  wide := false
  lock := .none
  fields := [⟨28, 4, .ro, 0, true⟩,
    ⟨16, 1, .rw, 0, false⟩,
    ⟨12, 2, .rw, 0, false⟩,
    ⟨0, 2, .rw, 0, false⟩]
def TBS_CCCTL_OWNER : Fld := ⟨TBS_CCCTL, 28, 4⟩
def TBS_CCCTL_IRQ : Fld := ⟨TBS_CCCTL, 16, 1⟩
def TBS_CCCTL_EDGE : Fld := ⟨TBS_CCCTL, 12, 2⟩
def TBS_CCCTL_MODE : Fld := ⟨TBS_CCCTL, 0, 2⟩

/-- `TBS.CCTIME`. -/
def TBS_CCTIME : RegDef where
  base := 0x200B1008
  n1 := 32
  s1 := 0x1000
  n2 := 1
  s2 := 0x1000
  i0 := 0
  j0 := 0
  wide := true
  lock := .none
  fields := [⟨0, 64, .rw, 0, false⟩]
def TBS_CCTIME_NS : Fld := ⟨TBS_CCTIME, 0, 64⟩

/-- `TBS.CCFRAC`. -/
def TBS_CCFRAC : RegDef where
  base := 0x200B1010
  n1 := 32
  s1 := 0x1000
  n2 := 1
  s2 := 0x1000
  i0 := 0
  j0 := 0
  wide := false
  lock := .none
  fields := [⟨0, 16, .rw, 0, false⟩]
def TBS_CCFRAC_FRAC : Fld := ⟨TBS_CCFRAC, 0, 16⟩

/-- `CRE.STAT`. -/
def CRE_STAT : RegDef where
  base := 0x20100000
  n1 := 1
  s1 := 0x10000000000
  n2 := 1
  s2 := 0x10000000000
  i0 := 0
  j0 := 0
  wide := false
  lock := .none
  fields := [⟨31, 1, .ro, 0, false⟩,
    ⟨30, 1, .ro, 0, false⟩,
    ⟨0, 16, .ro, 0, false⟩]
def CRE_STAT_TRNGF : Fld := ⟨CRE_STAT, 31, 1⟩
def CRE_STAT_LDBUSY : Fld := ⟨CRE_STAT, 30, 1⟩
def CRE_STAT_JOBS : Fld := ⟨CRE_STAT, 0, 16⟩

/-- Part of the register map, in the order of the spec. -/
def regTable0 : List RegDef :=
  [SEAT_LOCK, SEAT_STAT, SEAT_GUAR, SEAT_PAIRMODE, SEAT_CORE, SEAT_BANK, SEAT_LANE, SEAT_SDI, SEAT_HRP, SEAT_SRC, SEAT_XBBASE, SEAT_XBSIZE, SEAT_XBCFG, SEAT_VIOL, SEAT_VADDR, DEAL_LOCK, DEAL_STAT, DEAL_CFG, DEAL_NOW, DEAL_ROUND, DEAL_ERR, DEAL_RFI, DEAL_SWLIM, DEAL_ROTCORE, DEAL_SWSTAT, DEAL_SLOT, IBC_DMLATS, IBC_DMLATD, IBC_DMSTAT, IBC_LSSTAT, IBC_LSPC, IBC_PMCTL, IBC_PMOVF, IBC_PMEVT, IBC_PMCNT, MCS_LOCK, MCS_STAT, MCS_PERR, MCS_WADDR, MCS_WDATA]

/-- Part of the register map, in the order of the spec. -/
def regTable1 : List RegDef :=
  [MCS_PMATCH, MCS_CXENT, MMU_STAT, MMU_ERR, MMU_S2ROOT, MMU_SEATCFG, MMU_FBASE, MMU_FLIM, MMU_S2INV, CACHE_WOWN, CACHE_ERR, CACHE_UELOG, CACHE_SMASK, CACHE_SCTL, CACHE_WLOCK, CACHE_STAT, DSTORE_BCFG, DSTORE_ERR, DSTORE_UELOG, DSTORE_SCRUB, DSTORE_INITSTAT, FAB_PROT, FAB_STAT, FAB_ERR, FAB_ELOG, FAB_QUENCH, FAB_PELOG0, FAB_PECNT0, FAB_DTTMO, FAB_TGT, FAB_PELOG, FAB_PECNT, DMC_CFG, DMC_STAT, DMC_GEOM, DMC_ILV, DMC_TEMP, DMC_QOSTGT, DMC_BSET, DMC_ERR]

/-- Part of the register map, in the order of the spec. -/
def regTable2 : List RegDef :=
  [DMC_UELOG, DMC_CELOG, DMC_SCRUB, DMC_TRNDATA, LG_LPAIR, LG_CTL, LG_STAT, LG_SYNC, LG_STOP, LG_EVCNT, LG_LOADSRC, LG_LOAD, LG_XW, LN_CTL, LN_STAT, LN_ENTRY, LN_PC, LN_PMCRC, LN_SIGCODE, LN_ERR, LN_CRCLEN, LN_MBIN, LN_MBOUT, LN_FWBASE, LN_FWSIZE, LN_FWSTAT, SDI_CTL, SDI_SCALE, SDI_STAT, SDI_RES, SDI_FT, SDI_FTHR, SDI_TRIPMASK, SDI_BSCHK, SDI_FTVAL, SDI_MCLK, SDI_GSTAT, HRP_CTL, HRP_STAT, HRP_RBCFG]

/-- Part of the register map, in the order of the spec. -/
def regTable3 : List RegDef :=
  [HRP_CNT, HRP_SHD, HRP_SHD_PERIOD, HRP_ACT, HRP_ACT_PERIOD, HRP_GSTAT, ICU_STRTMO, ICU_STAT, ICU_SRC, ICU_SWTRIG, ICU_CLAIM, ICU_COMPLETE, ICU_TCTL, ICU_TSTAT, SFI_STAT, SFI_SEATSAFE, SFI_CTL, SFI_GTEST, SFI_MON, SFI_TMON, SFI_SVPWD, SFI_SVPKICK, SFI_INJ, SFI_FLOGIDX, SFI_POL, SFI_FLOG, SFI_FLOGT, SFI_SSTAT, SFI_SWDCFG, SFI_SWDWIN, SFI_SWDKICK, SFI_SWDCNT, SFI_CWDCFG, SFI_CWDKICK, SFI_CWDCNT, BNV_STAT, BOOT_STAT, BOOT_SLOT, BOOT_SEQ, BOOT_MSTIME]

/-- Part of the register map, in the order of the spec. -/
def regTable4 : List RegDef :=
  [BOOT_LWBASE, BOOT_LWCFG, BOOT_LWVBLK, LCC_STATE, LCC_STAT, LCC_PCMD, LCC_PSTAT, LCC_PDATA, LCC_FUSE, PRS_STAT, PRS_GOWN, PRS_WEAR, MBX_REQPI, MBX_REQCI, MBX_RSPPI, MBX_RSPCI, MBX_STAT, SVP_WVER, SVP_STAT, SVP_MPUCTL, SVP_MPUBASE, SVP_MPULIM, SVP_MPUATTR, ETHSW_HQTXBASE, ETHSW_HQRXBASE, ETHSW_HQCFG, ETHSW_HQSTAT, ETHSW_HQTXPI, ETHSW_HQTXCI, ETHSW_HQRXPI, ETHSW_HQRXCI, UCL_CFG, UCL_STAT, UCL_STOPTX, UCL_STOPLOG, UCL_RDIDX, UCL_RDST, UCL_EXPBASE, UCL_EXPOFS, UCL_EXPSIZE]

/-- Part of the register map, in the order of the spec. -/
def regTable5 : List RegDef :=
  [UCL_EXPCFG, UCL_ADDR, UCL_TSTAT, UCL_TOFS, UCL_PCFG, UCL_PSTAT, UCL_PERR, UCL_PDLY, UCL_PEERMAC, PWC_STAT, PWC_PFCTL, PWC_DSTAT, PWC_FIO, PWC_SBCTL, PWC_RST, PWC_RSTCAUSE, PWC_TGBUDGET, PWC_TGPOOL, PWC_TGSHARE, PWC_WAKEEN, PWC_TGSTAT, PWC_CCTL, CRG_STAT, DBG_CTL, DBG_STAT, DBG_NONCE, DBG_GRANT, DBG_DAMADDR, DBG_DAMDATA, DBG_DAMCTL, DBG_CCTL, DBG_CRSEL, DBG_CRDATA, DBG_CMPADDR, DBG_CMPCTL, DBG_LGXT, TRC_RBASE, TRC_RLIM, TRC_RWP, TRC_RCTL]

/-- Part of the register map, in the order of the spec. -/
def regTable6 : List RegDef :=
  [TRC_PCTL, TRC_SCTL, TRC_SWP, TRC_STIM, PMX_OWN, PMX_STAT, TBS_NOW, TBS_NOWF, TBS_RATE, TBS_CCCTL, TBS_CCTIME, TBS_CCFRAC, CRE_STAT]

/-- Every register of the map. -/
def regTable : List RegDef :=
  regTable0 ++ regTable1 ++ regTable2 ++ regTable3 ++ regTable4 ++ regTable5 ++ regTable6

end Sys2Proof.Machine
end

