-- ==== Sys2Proof/Machine/State.lean ====
section
/-!
DEFINITION. The state of the UZ-7432: the queue of waiting commands, the device registers, memory, the cores, the
lanes, and what the blocks hold besides their registers. Plain data throughout.
-/

namespace Sys2Proof.Machine

/-- Reasons a step stops with a fault. No step of this model does: every access the spec describes has an answer
(an error response, a bus error, an ignored write), which is a next state. -/
inductive Fault where
  /-- Raised by nothing. Safe. -/
  | none
  deriving DecidableEq, Repr

/-- Reasons a command is refused. -/
inductive Refusal where
  /-- Raised by the dispatcher for a row without a meaning. Safe: the machine stops. -/
  | notModelled (mnemonic : String)
  deriving DecidableEq, Repr

/-- What a device register word holds when the register store does not list its address. -/
def resetWord (a : Nat) : Word32 :=
  match regTable.find? (fun r => r.covers a) with
  | some r => BitVec.ofNat 32 (r.resetValue / 2 ^ (8 * (r.place a).2.2))
  | none => 0

/-- What a byte of memory that nothing has written reads as: DSTORE and the mailbox rings zero, and every other memory
zero too (DESIGN CHOICE, log 4). -/
def memDefault (_ : Nat) : Byte := 0

/-- The machine. -/
structure State where
  /-- Commands waiting, first in, first out. -/
  pending : List Instr
  /-- Device registers: the words that differ from their reset value, by physical address. -/
  regs : List (Nat × Word32)
  /-- Memory: the bytes that differ from `memDefault`, by physical address. -/
  mem : List Host.Cell
  /-- Physical addresses of the 64-bit words marked poisoned in DSTORE or DRAM (R278, R348), ascending. -/
  poison : List Nat
  /-- Counter of free values (the model's own field). -/
  fresh : Nat
  /-- Response of the last bus request a command made. -/
  resp : BusResp
  cores : Vector Core 32
  l2 : Vector L2 8
  /-- DSTORE: tags of the memory-side cache banks, and the replacement sequence of each bank (R275). -/
  msc : List MscTag
  mscLfsr : Vector (BitVec 16) 32
  /-- MCS: the words of the patch and customer regions that are not 0, by word address (R196, R197), and the replica
  words (cluster, address) that hold a parity error (R198). -/
  mcsWords : List (Nat × BitVec 128)
  mcsBad : List (Nat × Nat)
  /-- Welfen: WCI sessions (R504), and messages sent over UCL and ETHM, oldest first. -/
  sessions : List Session
  wciOut : List WciMsg
  /-- Welfen: messages received whole over UCL and ETHM, oldest first, and the parts of messages still arriving over UCL. -/
  wciIn : List (SessionId × List Byte)
  uclParts : List (Nat × List Byte)
  /-- Welfen: safe channels (R515), messages sent on them to other devices, the slot that an update writes, and the fault
  log from before the start (R444): SFI.FLOG and SFI.FLOGT of each entry, and SFI.STAT.LOST. -/
  safeChannels : List SafeChannel
  safeOut : List SafeMsg
  update : Option Nat
  faultStore : List (Nat × Nat)
  faultLost : Nat
  /-- The boundary register while EXTEST drives the balls (R585). -/
  boundary : Option (BitVec 959)
  /-- DBG: VDD_DBG is powered (R583), cross-trigger channels raised and not yet delivered, and PER_CLK cycles left of the pulse
  on DBG_TRIGOUT (R598). -/
  vddDbg : Bool
  channels : List Nat
  trigOut : Nat
  /-- TAP: the last DBGACC read, and whether the last DBGACC access was refused (Table DBG-1). -/
  tapData : Word32
  tapRefused : Bool
  /-- TRC: FIFO of each core and stimulus FIFO of each seat (R601). -/
  trcCore : Vector TraceFifo 32
  trcStim : Vector TraceFifo 16
  /-- TRC: regions that have stopped (R602), and the unit that the trace port sent last. -/
  trcStopped : BitVec 8
  traceSent : List Byte
  /-- SEAT: a consistency check runs (R33). -/
  seatChecking : Bool
  /-- SEAT: the cores each seat shares, recorded at the lock (R34): (seat, core) pairs. -/
  seatShares : List (Nat × Nat)
  /-- Welfen: the entry address of each seat's manifest (R511, ENTRY). -/
  seatEntry : Vector Word64 16
  /-- TBS: fraction of the current time (R43), and the fraction each seat captured with TBS.NOW. -/
  tbsFrac : BitVec 16
  tbsCaptured : Vector (BitVec 16) 16
  /-- TBS: output level of each unit (toggle, R46) and units that pulse in this PER_CLK period. -/
  tbsOut : BitVec 32
  tbsPulse : BitVec 32
  /-- TBS: compare units that have acted on their compare time (R46). -/
  tbsActed : BitVec 32
  /-- DEAL: slots of the round in progress (R58), and a passed check that waits for its round boundary (R71). -/
  dealLen : Nat
  dealPassed : Bool
  /-- ICU: claims in service (R417) and targets that may have sampled a signal since withdrawn (R416). -/
  inSvc : List InSvc
  stale : List (Nat × Nat)
  /-- CLA: the lanes and lane groups, and the lanes that have executed in the current lane cycle with what they did. -/
  lanes : Vector Lane 64
  groups : Vector LaneGroup 4
  laneRan : List Nat
  laneDeeds : List LaneDeed
  /-- SDI: the latest result of each channel saturated (SDIST bit OVR, R385). -/
  sdiSat : BitVec 48
  /-- HRP pairs. -/
  hrp : Vector HrpPair 24
  /-- LCC: the fuses, the value fields written and destroyed (their data or check fuses are not blank), those found damaged
  at the fuse load, and the programming operation in progress. -/
  fuses : BitVec 8192
  fuseWritten : List Nat
  fuseDestroyed : List Nat
  fuseDamaged : List Nat
  fuseOp : Option FuseOp
  /-- CRE: jobs waiting. -/
  creJobs : List CreJob
  /-- The xSPI flash devices that hold slots A and B: the bytes that are not 0xFF. -/
  flash : Vector (List Host.Cell) 2
  /-- The service processor, the image of this start, and the seat manifests accepted. -/
  svp : SvpRun
  image : Option BootImage
  manifests : List SeatManifest
  /-- Seats that Welfen starts again when their seat reset completes (R428). -/
  restarts : List Nat
  /-- UCL, and the identity-key hashes of the system's devices (R543). -/
  ucl : Ucl
  members : List (List Byte)
  /-- ETH switch: classes whose gate window is open on ports P0 to P3, the last frame sent, and link speeds in Mbit/s of
  ETH0 to ETH3 and ETHM (0: no link). -/
  gates : Vector (BitVec 8) 4
  ethSent : Option EthFrame
  ethLink : Vector Nat 5
  /-- Legacy controllers: MVB0, MVB1, CAN0 to CAN7, I2C0, I2C1, SPI0 to SPI3, UART0 to UART3. GPIO.RBMIS. -/
  legacy : Vector LegacyCtl 20
  gpioRbmis : BitVec 96
  /-- FAB: output ports with what waits for them, and the flit that the last hop sent. -/
  fabPorts : List FabPort
  fabSent : Option Flit
  /-- DRAM controllers, and the next line of each DSTORE bank's scrub (R280). -/
  dmc : Vector Dmc 4
  dstoreScrub : Vector Nat 32
  /-- SFI: fault lines not yet decided, clock windows in error in a row (R435), critical samples in a row (R437). -/
  faults : List FaultLine
  clockBad : Nat
  critSamples : Nat
  /-- SFI: watchdogs of cores and seats that a fault has stopped (R438), and the ticks left to the service processor's
  (R442). -/
  cwdStopped : BitVec 32
  swdStopped : BitVec 16
  svpCount : Nat
  /-- CRG: PER_CLK edges since the last tick of the watchdogs (two to a reference period). -/
  refPhase : Nat
  /-- PWC: tokens held, requests waiting, tokens released and not yet available (seat shares, pool). -/
  tokens : List TokenHeld
  tokenQueue : List TokenWait
  relShare : Vector Nat 16
  relPool : Nat
  /-- PWC: the level that the running change leads to, a TARGET written while PFBUSY (R561), the PWR_VID balls, the
  device state. -/
  pfRun : Nat
  pfHeld : Option Nat
  pwrVid : Nat
  device : DeviceState
  /-- Supply rails above their reset thresholds (Table PKG-2), and the ball PWR_EN. -/
  rails : BitVec 12
  pwrEn : Bool
  /-- Seat resets whose outstanding requests have their responses (Table PWR-9 step 3). -/
  srDrained : List Nat
  /-- Highest performance level each seat has asked for through PFREQ (R560). -/
  pfAsked : List (Nat × Nat)
  /-- DBG: the next nonce has not yet been offered after a failed request (R586). -/
  nonceHeld : Bool
  /-- PER_CLK cycles since the last full minute of each seat's grant (R588). -/
  grantPhase : Vector Nat 16
  deriving DecidableEq, Repr

/-- The machine right after power-on reset. -/
def State.reset : State where
  pending := []
  regs := []
  mem := []
  poison := []
  fresh := 0
  resp := .none
  cores := Vector.replicate 32 Core.initial
  l2 := Vector.replicate 8 ⟨[], Vector.replicate 16 1⟩
  msc := []
  mscLfsr := Vector.replicate 32 1
  mcsWords := []
  mcsBad := []
  sessions := []
  wciOut := []
  wciIn := []
  uclParts := []
  safeChannels := []
  safeOut := []
  update := none
  faultStore := []
  faultLost := 0
  boundary := none
  vddDbg := true
  channels := []
  trigOut := 0
  tapData := 0
  tapRefused := false
  trcCore := Vector.replicate 32 ⟨[], 0, [], 0, 0⟩
  trcStim := Vector.replicate 16 ⟨[], 0, [], 0, 0⟩
  trcStopped := 0
  traceSent := []
  seatChecking := false
  seatShares := []
  seatEntry := Vector.replicate 16 0
  tbsFrac := 0
  tbsCaptured := Vector.replicate 16 0
  tbsOut := 0
  tbsPulse := 0
  tbsActed := 0
  dealLen := 64
  dealPassed := false
  inSvc := []
  stale := []
  lanes := Vector.replicate 64 Lane.initial
  groups := Vector.replicate 4 ⟨0, none, []⟩
  laneRan := []
  laneDeeds := []
  sdiSat := 0
  hrp := Vector.replicate 24 ⟨[], [], false, 0⟩
  fuses := 0
  fuseWritten := []
  fuseDestroyed := []
  fuseDamaged := []
  fuseOp := none
  creJobs := []
  flash := Vector.replicate 2 []
  svp := .held
  image := none
  manifests := []
  restarts := []
  ucl := Ucl.initial
  members := []
  gates := Vector.replicate 4 0xFF
  ethSent := none
  ethLink := Vector.replicate 5 0
  legacy := Vector.replicate 20 ⟨[], false⟩
  gpioRbmis := 0
  fabPorts := []
  fabSent := none
  dmc := Vector.replicate 4 ⟨[], [], 0, 0, 0⟩
  dstoreScrub := Vector.replicate 32 0
  faults := []
  clockBad := 0
  critSamples := 0
  cwdStopped := 0
  swdStopped := 0
  svpCount := 200000
  refPhase := 0
  tokens := []
  tokenQueue := []
  relShare := Vector.replicate 16 0
  relPool := 0
  pfRun := 3
  pfHeld := none
  pwrVid := 3
  device := .reset
  rails := 0xFFF
  pwrEn := true
  srDrained := []
  pfAsked := []
  nonceHeld := false
  grantPhase := Vector.replicate 16 0

end Sys2Proof.Machine
end

