-- ==== Sys2Proof/Machine/Ops.lean ====
section
/-!
DEFINITION. Named operations that every family uses: device register fields, memory, cores, free values, raising an
interrupt source, reporting a fault, recording a seat violation, and owner lookups.
-/

namespace Sys2Proof.Machine

/-- What a meaning answers. -/
abbrev Result := Host.Outcome State Fault Refusal

/-- `true` as 1, `false` as 0. -/
def bit (b : Bool) : Nat := if b then 1 else 0

/-- The number that bits [lo + w - 1 : lo] of `v` spell. -/
def slice (v lo w : Nat) : Nat := v / 2 ^ lo % 2 ^ w

/-- `v` with bits [lo + w - 1 : lo] replaced by `x`. -/
def withSlice (v lo w x : Nat) : Nat := v - slice v lo w * 2 ^ lo + x % 2 ^ w * 2 ^ lo

/-- Value of the sum capped at `m`. -/
def satAdd (v d m : Nat) : Nat := if v + d ≤ m then v + d else m

/-! ### Device registers -/

/-- The stored 32-bit word at device address `a`. -/
def State.word (s : State) (a : Nat) : Nat := (cellGet resetWord a s.regs).toNat

/-- Store a 32-bit word at device address `a`. -/
def State.setWord (s : State) (a v : Nat) : State :=
  { s with regs := cellSet resetWord a (BitVec.ofNat 32 v) s.regs }

/-- The whole value of instance (i, j) of a register, both words of a 64-bit one. -/
def State.reg (s : State) (r : RegDef) (i : Nat := 0) (j : Nat := 0) : Nat :=
  let a := r.addr i j
  if r.wide then s.word a + s.word (a + 4) * 2 ^ 32 else s.word a

/-- Replace the whole value of instance (i, j) of a register. -/
def State.setReg (s : State) (r : RegDef) (v : Nat) (i : Nat := 0) (j : Nat := 0) : State :=
  let a := r.addr i j
  if r.wide then (s.setWord a (v % 2 ^ 32)).setWord (a + 4) (v / 2 ^ 32) else s.setWord a v

/-- The value of a field. -/
def State.get (s : State) (f : Fld) (i : Nat := 0) (j : Nat := 0) : Nat := slice (s.reg f.reg i j) f.lo f.w

/-- Is a one-bit field 1? -/
def State.flag (s : State) (f : Fld) (i : Nat := 0) (j : Nat := 0) : Bool := s.get f i j == 1

/-- The block itself sets a field. -/
def State.put (s : State) (f : Fld) (v : Nat) (i : Nat := 0) (j : Nat := 0) : State :=
  s.setReg f.reg (withSlice (s.reg f.reg i j) f.lo f.w v) i j

/-- Bit `b` of a field. -/
def State.bitOf (s : State) (f : Fld) (b : Nat) (i : Nat := 0) (j : Nat := 0) : Bool :=
  s.get f i j / 2 ^ b % 2 == 1

/-- Set or clear bit `b` of a field. -/
def State.putBit (s : State) (f : Fld) (b : Nat) (v : Bool) (i : Nat := 0) (j : Nat := 0) : State :=
  s.put f (withSlice (s.get f i j) b 1 (bit v)) i j

/-- Count one event in a field that saturates at all ones. -/
def State.countUp (s : State) (f : Fld) (i : Nat := 0) (j : Nat := 0) : State :=
  s.put f (satAdd (s.get f i j) 1 (2 ^ f.w - 1)) i j

/-- Every register word whose address satisfies `p` returns to its reset value. -/
def State.clearRegs (s : State) (p : Nat → Bool) : State := { s with regs := cellClear p s.regs }

/-- Every instance of a register returns to its reset value. -/
def State.resetReg (s : State) (r : RegDef) : State := s.clearRegs r.covers

/-- One instance of a register returns to its reset value. -/
def State.resetInst (s : State) (r : RegDef) (i : Nat := 0) (j : Nat := 0) : State :=
  s.setReg r r.resetValue i j

/-! ### Memory -/

/-- The canonical form of memory: addresses strictly rise, and no entry equals what an unlisted address reads as. -/
def Memory.wf (m : List Host.Cell) : Bool := cellsWf memDefault m

/-- The byte at physical address `a` of memory. -/
def State.byte (s : State) (a : Nat) : Byte := cellGet memDefault a s.mem

/-- `n` bytes from `a`, little-endian (R7). -/
def State.readMem (s : State) (a : Nat) : Nat → Nat
  | 0 => 0
  | n + 1 => (s.byte a).toNat + 256 * s.readMem (a + 1) n

/-- Bytes of `v`, little-endian, into a cell list. -/
def storeCells (m : List Host.Cell) (a v : Nat) : Nat → List Host.Cell
  | 0 => m
  | n + 1 => storeCells (cellSet memDefault a (BitVec.ofNat 8 v) m) (a + 1) (v / 256) n

/-- Poison is kept per 64-bit word in DSTORE (R278) and per 64-byte line in DRAM (R348): the size of the unit that
holds byte `a`, and its base. -/
def poisonSize (a : Nat) : Nat := if 0x010000000000 ≤ a then 64 else 8
def poisonBase (a : Nat) : Nat := a / poisonSize a * poisonSize a

/-- Store `n` bytes of `v` at `a`. A poisoned unit written whole loses its poison (R279, R348). -/
def State.writeMem (s : State) (a n v : Nat) : State :=
  { s with
    mem := storeCells s.mem a v n
    poison := s.poison.filter (fun p => !(decide (a ≤ p) && decide (p + poisonSize p ≤ a + n))) }

/-- Mark the unit that holds byte `a` poisoned. -/
def State.poisonWord (s : State) (a : Nat) : State :=
  let w := poisonBase a
  { s with poison := s.poison.filter (· < w) ++ w :: s.poison.filter (w < ·) }

/-- Does a poisoned unit overlap the `n` bytes at `a`? -/
def State.poisoned (s : State) (a n : Nat) : Bool :=
  s.poison.any (fun p => decide (p < a + n) && decide (a < p + poisonSize p))

/-- Zero the `n` bytes at `a`: their cells return to what unlisted memory reads as, and their poison goes. -/
def State.zeroMem (s : State) (a n : Nat) : State :=
  { s with
    mem := cellClear (fun x => decide (a ≤ x) && decide (x < a + n)) s.mem
    poison := s.poison.filter (fun p => !(decide (a ≤ p) && decide (p < a + n))) }

/-- Byte `a` of the flash device that holds slot `i` takes a value. -/
def State.flashByte (s : State) (i a : Nat) (b : Byte) : State :=
  { s with flash := s.flash.set! i (cellSet (fun _ => (0xFF : Byte)) a b s.flash[i]!) }

/-- The flash device that holds slot `i` is erased. -/
def State.flashErase (s : State) (i : Nat) : State := { s with flash := s.flash.set! i [] }

/-! ### Cores and free values -/

/-- Core k. -/
def State.core (s : State) (k : CoreId) : Core := s.cores[k]

/-- Replace core k. -/
def State.setCore (s : State) (k : CoreId) (c : Core) : State := { s with cores := s.cores.set k c }

/-- Change core k. -/
def State.mapCore (s : State) (k : CoreId) (f : Core → Core) : State := s.setCore k (f (s.core k))

/-- Change every core for which `p` holds. -/
def State.mapCores (s : State) (p : CoreId → Bool) (f : Core → Core) : State :=
  { s with cores := Vector.ofFn (fun k => if p k then f s.cores[k] else s.cores[k]) }

/-- Draw the next free value. -/
def State.draw (s : State) : Word64 × State := (Config.freeWord s.fresh, { s with fresh := s.fresh + 1 })

/-- Draw the next value of the random number generator. -/
def State.drawRandom (s : State) : Word64 × State := (Config.trng s.fresh, { s with fresh := s.fresh + 1 })

/-- A 16-bit replacement seed from the TRNG; a drawn 0 becomes 1 (R257). -/
def State.drawSeed (s : State) : BitVec 16 × State :=
  let (v, s) := s.drawRandom
  (if v.truncate 16 = 0 then 1 else v.truncate 16, s)

/-- One step of the replacement sequence with the polynomial x^16 + x^15 + x^13 + x^4 + 1 (R256), shifting left. -/
def lfsrNext (v : BitVec 16) : BitVec 16 :=
  let fb := v.getLsbD 15 ^^ v.getLsbD 14 ^^ v.getLsbD 12 ^^ v.getLsbD 3
  v <<< 1 ||| BitVec.ofNat 16 (bit fb)

/-- The candidate chosen among n (R256). -/
def lfsrPick (v : BitVec 16) (n : Nat) : Nat := v.toNat % 256 % n

/-- Fold a state change over a list of numbers. -/
def State.each (s : State) (l : List Nat) (f : Nat → State → State) : State := l.foldl (fun t n => f n t) s

/-! ### Interrupt sources and faults -/

/-- Sources that Table ICU-1 does not connect. -/
def srcConnected (n : Nat) : Bool :=
  decide (n < 512) && n != 272 && !(decide (317 ≤ n) && decide (n ≤ 319)) && !(decide (440 ≤ n) && decide (n ≤ 447))

/-- Is seat s's seat reset running (PWC.STAT.SRBUSY)? -/
def State.seatResetting (s : State) (seat : Nat) : Bool := decide (1 ≤ seat) && s.bitOf PWC_STAT_SRBUSY (seat - 1)

/-- A rising edge of source n sets PEND (R407), unless the source is not connected (R406) or its owner's seat reset
runs (R420). -/
def raiseSrc (n : Nat) (s : State) : State :=
  if srcConnected n && !(s.seatResetting (s.get SEAT_SRC_OWNER n)) then s.put ICU_SRC_PEND 1 n else s

/-- Source numbers of Table ICU-1. -/
def srcFab : Nat := 200
def srcSeat : Nat := 216
def srcMmu : Nat := 217
def srcStranded : Nat := 218
def srcDeal : Nat := 219
def srcSfi : Nat := 220
def srcPwc : Nat := 221
def srcCrg : Nat := 222
def srcLcc : Nat := 223
def srcCre : Nat := 224
def srcBnv : Nat := 225
def srcMcs : Nat := 226
def srcPrs : Nat := 227
def srcDbg : Nat := 228
def srcTrc : Nat := 229
def srcDstore : Nat := 230
def srcCache (c : Nat) : Nat := 231 + c
def srcDmc (c : Nat) : Nat := 239 + c
def srcHostQueue (seat : Nat) : Nat := if seat ≤ 13 then 242 + seat else 424 + seat
def srcPosted (seat : Nat) : Nat := 200 + seat
def srcLane (n : Nat) : Nat := 32 + n
def srcSdi (n : Nat) : Nat := 96 + n
def srcHrp (n : Nat) : Nat := 144 + n
def srcTbs (n : Nat) : Nat := 168 + n
def srcMbxReq (seat : Nat) : Nat := 256 + seat
def srcMbxRsp (seat : Nat) : Nat := 272 + seat
def srcUcl (p : Nat) : Nat := 313 + p
def srcUclCommon : Nat := 312
def srcGpio (p : Nat) : Nat := 342 + p

/-- A block reports a fault on its fault line (R422). -/
def reportFault (code seat unit info : Nat) (s : State) : State :=
  { s with faults := s.faults ++ [⟨code, seat, unit, info, false, false⟩] }

/-- The response of a bus request. -/
def State.answer (s : State) (r : BusResp) : State := { s with resp := r }

/-! ### Owners, locks and modes -/

/-- SEAT.LOCK.LOCK. -/
def State.seatLocked (s : State) : Bool := s.flag SEAT_LOCK_LOCK
/-- DEAL.LOCK.LOCK. -/
def State.dealLocked (s : State) : Bool := s.flag DEAL_LOCK_LOCK
/-- The Deal's lock, or the interval in which its writes are ignored as once it is set (R71). -/
def State.dealFixed (s : State) : Bool := s.dealLocked || s.flag DEAL_STAT_BUSY
/-- Is pair n locked (SEAT.PAIRMODE)? -/
def State.pairLocked (s : State) (n : Nat) : Bool := s.bitOf SEAT_PAIRMODE_LOCKED n
/-- Is core n the trailing core of a locked pair? -/
def State.trailing (s : State) (n : Nat) : Bool := n % 2 == 1 && s.pairLocked (n / 2)
/-- The leading core of core n's locked pair, or n itself. -/
def State.leadOf (s : State) (n : Nat) : Nat := if s.pairLocked (n / 2) then n / 2 * 2 else n
/-- Are lanes 2k and 2k+1 a locked lane pair (LG.LPAIR)? -/
def State.lanePairLocked (s : State) (k : Nat) : Bool := s.bitOf LG_LPAIR_LOCKED (k % 8) (k / 8)
/-- Owner seats. -/
def State.coreOwner (s : State) (n : Nat) : Nat := s.get SEAT_CORE_OWNER n
def State.bankOwner (s : State) (b : Nat) : Nat := s.get SEAT_BANK_OWNER b
def State.laneOwner (s : State) (n : Nat) : Nat := s.get SEAT_LANE_OWNER n
def State.sdiOwner (s : State) (n : Nat) : Nat := s.get SEAT_SDI_OWNER n
def State.hrpOwner (s : State) (n : Nat) : Nat := s.get SEAT_HRP_OWNER n
def State.srcOwner (s : State) (n : Nat) : Nat := s.get SEAT_SRC_OWNER n
/-- Life-cycle states (LCC.STATE). -/
def lcMaker : Nat := 0
def lcProvision : Nat := 1
def lcDevelopment : Nat := 2
def lcField : Nat := 3
def lcReturn : Nat := 4
def lcEnd : Nat := 5
def State.lifeCycle (s : State) : Nat := s.get LCC_STATE_STATE
/-- MAKER or DEVELOPMENT, in which debug may freeze counts (R69, R440). -/
def State.openLife (s : State) : Bool := s.lifeCycle == lcMaker || s.lifeCycle == lcDevelopment
/-- Rotation group membership of core n (DEAL.ROTCORE). -/
def State.inRotation (s : State) (n : Nat) : Bool := [0, 1, 2, 3].any (fun g => s.bitOf DEAL_ROTCORE_CORES n g)
/-- Does seat `seat` share core n through a rotation group, as recorded at the lock (R34)? -/
def State.sharesCore (s : State) (seat n : Nat) : Bool := s.seatShares.contains (seat, n)
/-- Power state of core n (PWC.CCTL.STATE): 0 C0, 1 C1, 2 C2, 3 C3. -/
def State.cState (s : State) (n : Nat) : Nat := s.get PWC_CCTL_STATE n
/-- Is seat s in its safe state (SFI.SEATSAFE)? -/
def State.seatSafe (s : State) (seat : Nat) : Bool := decide (1 ≤ seat) && s.bitOf SFI_SEATSAFE_SAFE (seat - 1)
/-- Is seat s quenched (FAB.QUENCH)? -/
def State.quenched (s : State) (seat : Nat) : Bool := decide (1 ≤ seat) && s.bitOf FAB_QUENCH_SEAT (seat - 1)
/-- The current slot entry of the active table. -/
def State.slotEntry (s : State) (n : Nat) : Nat := s.reg DEAL_SLOT (s.get DEAL_NOW_ACT) n
def State.curSlot (s : State) : Nat := s.slotEntry (s.get DEAL_NOW_SLOT)
/-- Fields of a slot entry. -/
def slotKind (e : Nat) : Nat := slice e 8 2
def slotOwner (e : Nat) : Nat := slice e 0 4
def slotCh (e : Nat) : Nat := slice e 12 4
def slotSw (e : Nat) : Bool := slice e 17 1 == 1
def slotSwg (e : Nat) : Nat := slice e 18 2
/-- Current time in units of 2^-16 ns (R43). -/
def State.time80 (s : State) : Nat := s.get TBS_NOW_NS * 2 ^ 16 + s.tbsFrac.toNat
/-- Seats 1 to 15. -/
def customerSeats : List Nat := [1, 2, 3, 4, 5, 6, 7, 8, 9, 10, 11, 12, 13, 14, 15]

end Sys2Proof.Machine
end

