-- ==== Sys2Proof/Machine/Session.lean ====
section
/-!
DEFINITION. WCI sessions as every block uses them: the mailbox rings (R499 to R501), sending a message (Table WCI-1),
and notifications with their token buckets (R510, Table WCI-5).
-/

namespace Sys2Proof.Machine

/-! ### Mailbox rings -/

/-- Base of seat s's mailbox region, and of its response ring. -/
def mbxBase (seat : Nat) : Nat := 0x06000000 + seat * 0x10000
def rspRing (seat : Nat) : Nat := mbxBase seat + 0x8000
/-- Slots a ring holds: PI - CI modulo 65,536 (R499). -/
def ringCount (pi ci : Nat) : Nat := (pi + 65536 - ci) % 65536
/-- Slots that a message of `len` payload bytes occupies. -/
def msgSlots (len : Nat) : Nat := (16 + len + 63) / 64
/-- Slots that a message takes in a ring whose producer index is `pi`: a PAD message comes first where it would cross
the end. -/
def ringSlots (pi len : Nat) : Nat :=
  if 512 < pi % 512 + msgSlots len then 512 - pi % 512 + msgSlots len else msgSlots len
/-- Has the response ring of `seat` room for a message of `len` payload bytes? -/
def State.rspRoom (s : State) (seat len : Nat) : Bool :=
  decide (ringCount (s.get MBX_RSPPI_INDEX seat) (s.get MBX_RSPCI_INDEX seat) +
    ringSlots (s.get MBX_RSPPI_INDEX seat) len ≤ 512)

/-- Header of Table WCI-1 as a number of 16 bytes. -/
def wciHeader (major cls status opcode seat seq len : Nat) : Nat :=
  major + cls * 2 ^ 16 + status * 2 ^ 24 + opcode * 2 ^ 32 + seat * 2 ^ 48 + seq % 2 ^ 32 * 2 ^ 64 + len * 2 ^ 96

/-- Bytes of a list at `a`. -/
def State.writeBytes (s : State) (a : Nat) : List Byte → State
  | [] => s
  | b :: bs => (s.writeMem a 1 b.toNat).writeBytes (a + 1) bs

/-- The index write that announces a message raises the response doorbell of the seat (R500). -/
def announce (seat pi : Nat) (s : State) : State := raiseSrc (srcMbxRsp seat) (s.put MBX_RSPPI_INDEX pi seat)

/-- Welfen puts a message into the response ring of `seat`, behind a PAD message where it would cross the end. -/
def ringPut (major : Nat) (m : WciMsg) (seat : Nat) (s : State) : State :=
  let pi := s.get MBX_RSPPI_INDEX seat
  let len := m.payload.length
  let slot := pi % 512
  let pad := if 512 < slot + msgSlots len then 512 - slot else 0
  let s := if pad = 0 then s
    else s.writeMem (rspRing seat + slot * 64) 16 (wciHeader major 0 0 0 m.seat 0 (pad * 64 - 16))
  let at_ := rspRing seat + (pi + pad) % 512 * 64
  let s := s.writeMem at_ 16 (wciHeader major m.cls m.status m.opcode m.seat m.seq len)
  announce seat ((pi + pad + msgSlots len) % 65536) (s.writeBytes (at_ + 16) m.payload)

/-! ### Sessions -/

/-- The session at an endpoint. -/
def State.session (s : State) (id : SessionId) : Option Session := s.sessions.find? (fun e => e.id == id)
/-- Change the session at an endpoint. -/
def State.mapSession (s : State) (id : SessionId) (f : Session → Session) : State :=
  { s with sessions := s.sessions.map (fun e => if e.id == id then f e else e) }
/-- A new session, before HELLO has completed. -/
def Session.fresh (id : SessionId) (now : Nat) : Session :=
  ⟨id, false, 1, 0, false, false, 1, 1, 1, [], [], List.replicate 3 ⟨8000000000, now, 0⟩, 0, 0, none, [], none⟩

/-- Send a message: into the mailbox's response ring, or out over UCL or ETHM (whose datagrams the sender counts,
R505). A side whose datagram counter would pass 2^64 - 1 ends the session. -/
def sendMsg (m : WciMsg) (s : State) : State :=
  let major := match s.session m.dest with
    | some e => if m.opcode = 1 then 0 else e.major
    | none => 0
  match m.dest with
  | .mailbox seat => ringPut major m seat s
  | .ucl _ => { s with wciOut := s.wciOut ++ [m] }
  | .ethm _ =>
    if (s.session m.dest).any (fun e => e.auth && decide (2 ^ 64 ≤ e.txCount + 1)) then
      { s with sessions := s.sessions.filter (·.id != m.dest) }
    else { s.mapSession m.dest (fun e => { e with txCount := e.txCount + 1 }) with wciOut := s.wciOut ++ [m] }

/-- Send a response, and keep it with the last 16 of its session (R506). -/
def respond (m : WciMsg) (s : State) : State :=
  sendMsg m (s.mapSession m.dest (fun e => { e with kept := (e.kept ++ [m]).drop (e.kept.length - 15) }))

/-! ### Notifications -/

/-- Category and refill rate per second of a NOTE (Table WCI-5). -/
def noteRate (op : Nat) : Nat × Nat :=
  match op with
  | 0x0F01 | 0x0F02 | 0x0F03 | 0x0F04 => (0, 100)
  | 0x0F11 => (1, 1)
  | 0x0F20 => (2, 1000)
  | _ => (1, 10)

/-- A bucket after the time to `now`. -/
def NoteBucket.refill (b : NoteBucket) (now rate : Nat) : NoteBucket :=
  { b with level := min 8000000000 (b.level + (now - b.time) * rate), time := now }

/-- The seat whose mailbox an endpoint is, if it is one. -/
def SessionId.seat? : SessionId → Option Nat
  | .mailbox n => some n
  | _ => none

/-- Send a NOTE of a category with its refill rate in one session, or count it (R510). A NOTE to a seat in its safe state is
not sent. -/
def noteIn (cat rate op seat : Nat) (payload : List Byte) (id : SessionId) (s : State) : State :=
  match s.session id with
  | none => s
  | some e =>
    let safe := match id.seat? with
      | some n => s.seatSafe n
      | none => false
    if !e.hello || safe || s.svp == .held then s
    else
      let b := (e.buckets.getD cat ⟨0, 0, 0⟩).refill (s.get TBS_NOW_NS) rate
      let merge := e.features.testBit 6
      let body := if merge then
          (List.range 4).map (fun i => BitVec.ofNat 8 (b.merged / 256 ^ i)) ++ payload
        else payload
      let room := match id.seat? with
        | some n => s.rspRoom n body.length
        | none => true
      if b.level < 1000000000 || decide (32 ≤ e.unacked.length) || !room then
        s.mapSession id (fun e => { e with buckets := e.buckets.set cat { b with merged := b.merged + 1 } })
      else
        let m : WciMsg := ⟨id, 3, 0, op, seat, e.nextNote, body⟩
        sendMsg m (s.mapSession id (fun e => { e with
          nextNote := e.nextNote + 1
          unacked := e.unacked ++ [⟨op, seat, e.nextNote, 0, body⟩]
          buckets := e.buckets.set cat { b with level := b.level - 1000000000, merged := 0 } }))

/-- A NOTE of Table WCI-5. -/
def noteTo (op seat : Nat) (payload : List Byte) (id : SessionId) (s : State) : State :=
  noteIn (noteRate op).1 (noteRate op).2 op seat payload id s

/-- A NOTE to the session of a seat's mailbox. -/
def noteSeat (op seat : Nat) (payload : List Byte) (s : State) : State := noteTo op seat payload (.mailbox seat) s

/-- A NOTE to the system manager, over UCL and ETHM. -/
def noteManager (op seat : Nat) (payload : List Byte) (s : State) : State :=
  ((s.sessions.map (·.id)).filter (fun id => id.seat?.isNone)).foldl (fun t id => noteTo op seat payload id t) s

/-- STOP, a safe state or a seat reset of `seat` (R508): its running command is answered ABORTED, its queued commands and
the NOTEs that wait for its acknowledgement are discarded. -/
def abortCommands (seat : Nat) (s : State) : State :=
  let mine (j : CreJob) : Bool := match j.reply with
    | some m => m.seat == seat
    | none => false
  let s := (s.creJobs.filter mine).foldl (fun t j => match j.reply with
    | some m => if (t.session m.dest).isSome then respond { m with status := 0x0B, payload := [] } t else t
    | none => t) { s with creJobs := s.creJobs.filter (fun j => !mine j) }
  let s := s.put MBX_REQCI_INDEX (s.get MBX_REQPI_INDEX seat) seat
  s.mapSession (.mailbox seat) (fun e => { e with unacked := [] })

/-- SEAT.VIOL and SEAT.VADDR record a violation (R25, R35), and Welfen notifies the offending seat. -/
def seatViolation (seat : Nat) (write : Bool) (addr : Nat) (s : State) : State :=
  if s.flag SEAT_VIOL_VALID then s.countUp SEAT_VIOL_COUNT
  else
    let s := ((((s.put SEAT_VIOL_VALID 1).put SEAT_VIOL_COUNT 1).put SEAT_VIOL_KIND (bit write)).put SEAT_VIOL_SEAT seat)
    noteSeat 0x0F02 seat [] (raiseSrc srcSeat (s.put SEAT_VADDR_ADDR addr))

end Sys2Proof.Machine
end

