-- ==== Sys2Proof/Machine/Targets.lean ====
section
/-!
DEFINITION. The physical address map (Table DEV-2), the register frames (Table DEV-3) with their target numbers
(Table FAB-5), and whether a memory range answers a request, makes it wait, or refuses it (R20, R274, R277, R317, R322,
R329, R465, R466).
-/

namespace Sys2Proof.Machine

/-- A row of Table DEV-3: base, instances, stride, 64 KiB frames per instance, target number of instance 0. -/
structure Block where
  base : Nat
  n : Nat
  stride : Nat
  frames : Nat
  first : Nat
  deriving DecidableEq, Repr

/-- Table DEV-3 with the numbers of Table FAB-5. -/
def blocks : List Block :=
  [⟨0x20000000, 1, 0x10000, 1, 0x40⟩, ⟨0x20020000, 1, 0x20000, 2, 0x41⟩, ⟨0x20040000, 1, 0x10000, 1, 0x42⟩,
   ⟨0x20050000, 1, 0x10000, 1, 0x43⟩, ⟨0x20190000, 1, 0x40000, 4, 0x44⟩, ⟨0x20080000, 1, 0x10000, 1, 0x45⟩,
   ⟨0x20090000, 1, 0x10000, 1, 0x46⟩, ⟨0x200A0000, 1, 0x10000, 1, 0x47⟩, ⟨0x200B0000, 1, 0x30000, 3, 0x48⟩,
   ⟨0x200E0000, 1, 0x10000, 1, 0x49⟩, ⟨0x200F0000, 1, 0x10000, 1, 0x4A⟩, ⟨0x20100000, 1, 0x10000, 1, 0x4B⟩,
   ⟨0x20110000, 1, 0x10000, 1, 0x4C⟩, ⟨0x20120000, 1, 0x10000, 1, 0x4D⟩, ⟨0x20130000, 1, 0x10000, 1, 0x4E⟩,
   ⟨0x20140000, 1, 0x10000, 1, 0x4F⟩, ⟨0x20150000, 1, 0x10000, 1, 0x50⟩, ⟨0x20160000, 1, 0x10000, 1, 0x51⟩,
   ⟨0x20170000, 1, 0x10000, 1, 0x52⟩, ⟨0x20180000, 1, 0x10000, 1, 0x53⟩, ⟨0x20200000, 1, 0x40000, 4, 0x54⟩,
   ⟨0x20240000, 1, 0x20000, 2, 0x55⟩, ⟨0x21000000, 4, 0x10000, 1, 0x58⟩, ⟨0x21100000, 64, 0x10000, 1, 0x60⟩,
   ⟨0x22000000, 32, 0x10000, 1, 0xA0⟩, ⟨0x22200000, 8, 0x10000, 1, 0xC0⟩, ⟨0x22400000, 4, 0x20000, 2, 0xC8⟩,
   ⟨0x23000000, 1, 0x10000, 1, 0xD0⟩, ⟨0x23010000, 1, 0x10000, 1, 0xD1⟩, ⟨0x23020000, 4, 0x10000, 1, 0xD2⟩,
   ⟨0x23100000, 1, 0x10000, 1, 0xD6⟩, ⟨0x23110000, 4, 0x10000, 1, 0xD7⟩, ⟨0x23200000, 2, 0x10000, 1, 0xDB⟩,
   ⟨0x23300000, 8, 0x10000, 1, 0xE0⟩, ⟨0x23400000, 2, 0x10000, 1, 0xE8⟩, ⟨0x23500000, 2, 0x10000, 1, 0xEA⟩,
   ⟨0x23600000, 4, 0x10000, 1, 0xEC⟩, ⟨0x23700000, 4, 0x10000, 1, 0xF0⟩, ⟨0x23800000, 1, 0x10000, 1, 0xF4⟩]

def Block.covers (b : Block) (pa : Nat) : Bool :=
  decide (b.base ≤ pa) && decide ((pa - b.base) / b.stride < b.n) &&
    decide ((pa - b.base) % b.stride < b.frames * 0x10000)

/-- Target number of the register frame at `pa`; none outside every block frame (R11). -/
def frameTarget (pa : Nat) : Option Nat :=
  (blocks.find? (fun b => b.covers pa)).map (fun b => b.first + (pa - b.base) / b.stride)

/-- Does Table FAB-5 list target t? -/
def targetListed (t : Nat) : Bool :=
  decide (t ≤ 0x24) || blocks.any (fun b => decide (b.first ≤ t) && decide (t < b.first + b.n))

/-- Device register space, DSTORE, DRAM and the remote window (Table DEV-2). -/
def isDevice (pa : Nat) : Bool := decide (0x20000000 ≤ pa) && decide (pa < 0x40000000)
def isDstore (pa : Nat) : Bool := decide (0x10000000 ≤ pa) && decide (pa < 0x18000000)
def isDram (pa : Nat) : Bool := decide (0x010000000000 ≤ pa) && decide (pa < 0x020000000000)
def isRemote (pa : Nat) : Bool := decide (0x800000000000 ≤ pa) && decide (pa < 0x1000000000000)
/-- On-chip control space. -/
def isBnv (pa : Nat) : Bool := decide (0x04000000 ≤ pa) && decide (pa < 0x05000000)
def isPrs (pa : Nat) : Bool := decide (0x05000000 ≤ pa) && decide (pa < 0x05001000)
def isMailbox (pa : Nat) : Bool := decide (0x06000000 ≤ pa) && decide (pa < 0x06100000)
def isSave (pa : Nat) : Bool := decide (0x07000000 ≤ pa) && decide (pa < 0x07080000)
def isSvpRam (pa : Nat) : Bool := decide (0x08000000 ≤ pa) && decide (pa < 0x08200000)

/-- DSTORE bank of an address. -/
def bankOf (pa : Nat) : Nat := (pa - 0x10000000) / 0x400000
def bankBase (b : Nat) : Nat := 0x10000000 + b * 0x400000

/-- Is channel c trained and populated (R345)? -/
def State.chanReady (s : State) (c : Nat) : Bool := s.flag DMC_STAT_READY c
/-- Populated DRAM bytes (R329). -/
def State.dramCapacity (s : State) : Nat :=
  ([0, 1, 2, 3].map (fun c => if s.chanReady c then s.get DMC_GEOM_CAP c * 0x10000000 else 0)).sum
/-- Interleave grain and number of channels (DMC0.ILV). -/
def State.grain (s : State) : Nat :=
  match s.get DMC_ILV_GRAIN with
  | 0 => 0x100
  | 1 => 0x400
  | 2 => 0x1000
  | 3 => 0x10000
  | _ => 0x200000
def State.numChans (s : State) : Nat := 2 ^ s.get DMC_ILV_NCH
/-- Channel of a DRAM byte (R330). -/
def State.chanOf (s : State) (pa : Nat) : Nat := (pa - 0x010000000000) / s.grain % s.numChans
/-- Channel-local address: the offset with the channel-select bits removed (R330). -/
def State.localAddr (s : State) (pa : Nat) : Nat :=
  let o := pa - 0x010000000000
  o / (s.grain * s.numChans) * s.grain + o % s.grain
/-- Ranks on a channel. -/
def State.numRanks (s : State) (c : Nat) : Nat := max 1 (s.get DMC_GEOM_RANKS c * s.get DMC_GEOM_NDIMM c)
/-- Unit 8r + g of a DRAM byte on its channel (R331). -/
def State.unitOf (s : State) (pa : Nat) : Nat :=
  let k := (pa - 0x010000000000) / 2 ^ 23 % 32
  8 * (k / 8 % s.numRanks (s.chanOf pa)) + k % 8
/-- Seat whose bank set holds unit u on channel c; 0 for the shared pool. -/
def State.unitOwner (s : State) (c u : Nat) : Nat :=
  (customerSeats.find? (fun t => s.bitOf DMC_BSET_UNITS u c t)).getD 0

/-- Target number of a physical address (R320, Table FAB-5). Remote devices are isolated in UCL instead. -/
def State.targetOf (s : State) (pa : Nat) : Option Nat :=
  if isDstore pa then some (bankOf pa)
  else if isDram pa then some (0x20 + s.chanOf pa)
  else if isBnv pa || isPrs pa || isMailbox pa || isSave pa then some 0x24
  else if isDevice pa then frameTarget pa
  else none

/-- Device address of a remote physical address (Table DEV-2). -/
def remoteDev (pa : Nat) : Nat := (pa - 0x800000000000) / 2 ^ 35
/-- Target of an access in the sense of R287 and R288: remote devices are targets of their own (R544). -/
def State.orderTarget (s : State) (pa : Nat) : Option Nat := if isRemote pa then some (0x1000 + remoteDev pa) else s.targetOf pa

/-- Is target t dead or isolated (R322)? -/
def State.targetDown (s : State) (t : Nat) : Bool := s.flag FAB_TGT_DEAD t || s.flag FAB_TGT_ISO t

/-- What a memory range does with a request: serve it, keep it waiting, or answer with an error response. -/
inductive MemAns where
  | ok | wait | error
  deriving DecidableEq, Repr

/-- The load gate (R465, R466): a request of a customer seat in a window whose block is not verified. -/
def State.loadGate (s : State) (seat pa : Nat) : MemAns :=
  if seat = 0 then .ok
  else
    let hit (w : Nat) : Bool :=
      let base := s.get BOOT_LWBASE_ADDR w * 0x1000
      let b := (pa - base) / 0x1000
      s.flag BOOT_LWBASE_EN w && decide (base ≤ pa) && decide (b < s.get BOOT_LWCFG_NBLK w) &&
        decide (s.get BOOT_LWVBLK_VBLK w ≤ b)
    match (List.range 16).find? hit with
    | some w => if s.flag BOOT_LWCFG_FAIL w then .error else .wait
    | none => .ok

/-- How memory (DSTORE, DRAM, control space) answers a request of `seat` at `pa`. -/
def State.memGate (s : State) (seat pa : Nat) : MemAns :=
  if s.quenched seat then .wait
  else match s.targetOf pa with
    | none => .error
    | some t =>
      if s.targetDown t then .error
      else if isDstore pa then
        if s.get DSTORE_BCFG_MODE t == 1 then .error
        else if s.bitOf DSTORE_INITSTAT_BUSY t then .wait
        else s.loadGate seat pa
      else if isDram pa then
        if s.dramCapacity ≤ pa - 0x010000000000 then .error else s.loadGate seat pa
      else .ok

/-- Do the `n` bytes at `pa` touch the locked seat-table fence (R225)? -/
def State.fenced (s : State) (pa n : Nat) : Bool :=
  s.seatLocked && decide (s.get MMU_FBASE_PAGE * 0x1000 < pa + n) && decide (pa < (s.get MMU_FLIM_PAGE + 1) * 0x1000)

/-- MMU.STAT records the first refused write to the fence, and its change raises the MMU's source. -/
def fenceViolation (seat : Nat) (s : State) : State :=
  if s.flag MMU_STAT_FVIOL then s else raiseSrc srcMmu ((s.put MMU_STAT_FVIOL 1).put MMU_STAT_FSEAT seat)

/-- How memory answers a write: as a read, but for the fence. -/
def storeGate (seat pa n : Nat) (s : State) : MemAns × State :=
  if s.fenced pa n && !s.quenched seat then (.error, fenceViolation seat s) else (s.memGate seat pa, s)

end Sys2Proof.Machine
end

