-- ==== Sys2Proof/Machine/Coherent.lean ====
section
/-!
DEFINITION. The caches as the spec's coherence rules keep them (R244 to R260): L1 and victim caches hold tags only,
because every L1 line equals its cluster's L2 line of the same seat (write-through and inclusion, R246, R248); L2 lines
hold their data, because a dirty line is the only copy and a stale one can be read (R160, R261). Also the performance
counters that count cache events (R171, R172), and reads and writes of agents outside the clusters (R251).
-/

namespace Sys2Proof.Machine

/-! ### Performance counters -/

def plOf (c : Core) : Nat := slice c.pstate.toNat 6 2
def Core.dm (c : Core) : Bool := c.pstate.getLsbD 11
def Core.twOn (c : Core) : Bool := c.pstate.getLsbD 10

/-- One counter of core k counts event `ev` if it selects it (R171). -/
def pmCount1 (k ev : Nat) (c : Core) (j : Nat) (s : State) : State :=
  let lvl := match plOf c with
    | 0 => s.flag IBC_PMEVT_USR k j
    | 1 => s.flag IBC_PMEVT_KRN k j
    | _ => s.flag IBC_PMEVT_MON k j
  if s.bitOf IBC_PMCTL_EN j k && s.get IBC_PMEVT_EVENT k j == ev && lvl &&
      c.seatid == s.coreOwner k && (!s.flag IBC_PMEVT_DMONLY k j || c.dm) &&
      !(s.flag IBC_PMCTL_FRZ k && s.get IBC_PMOVF_OVF k != 0) then
    let v := s.get IBC_PMCNT_COUNT k j + 1
    if v < 2 ^ 48 then s.put IBC_PMCNT_COUNT v k j
    else
      let s := (s.put IBC_PMCNT_COUNT 0 k j).putBit IBC_PMOVF_OVF j true k
      if s.flag IBC_PMCTL_IRQ k then raiseSrc k s else s
  else s

/-- Event `ev` of Table PIPE-12 happens on core k. -/
def pmCount (k : CoreId) (ev : Nat) (s : State) : State :=
  s.each [0, 1, 2, 3, 4, 5] (pmCount1 k.val ev (s.core k))

/-! ### Lines and sequences -/

/-- Cluster of a core. -/
def clusterOf (k : Nat) : Nat := k / 4

/-- The 64 bytes of a line in memory, and which of its eight words are poisoned. -/
def State.memLine (s : State) (line : Nat) : BitVec 512 := BitVec.ofNat 512 (s.readMem (line * 64) 64)
def State.memPoison (s : State) (line : Nat) : BitVec 8 :=
  BitVec.ofNat 8 (([0, 1, 2, 3, 4, 5, 6, 7].map
    (fun i => bit (s.poisoned (line * 64 + 8 * i) 8) * 2 ^ i)).sum)

/-- `n` bytes at offset `off` of a line, and the line with them replaced. -/
def lineGet (d : BitVec 512) (off n : Nat) : Nat := d.toNat / 2 ^ (8 * off) % 2 ^ (8 * n)
def lineSet (d : BitVec 512) (off n v : Nat) : BitVec 512 :=
  BitVec.ofNat 512 (withSlice d.toNat (8 * off) (8 * n) v)

/-- Poison bits of the words that overlap `n` bytes at `off`, and of those written whole. -/
def wordsTouched (off n : Nat) : BitVec 8 :=
  BitVec.ofNat 8 (([0, 1, 2, 3, 4, 5, 6, 7].map
    (fun i => bit (decide (8 * i < off + n) && decide (off < 8 * i + 8)) * 2 ^ i)).sum)
def wordsWhole (off n : Nat) : BitVec 8 :=
  BitVec.ofNat 8 (([0, 1, 2, 3, 4, 5, 6, 7].map
    (fun i => bit (decide (off ≤ 8 * i) && decide (8 * i + 8 ≤ off + n)) * 2 ^ i)).sum)

/-- Advance core k's replacement sequence and choose among n (R256). -/
def coreChoice (k : CoreId) (n : Nat) (s : State) : Nat × State :=
  let v := lfsrNext (s.core k).lfsr
  (lfsrPick v n, s.mapCore k (fun c => { c with lfsr := v }))

/-- Advance the sequence of `seat` in L2 `c` and choose among n. -/
def l2Choice (c seat n : Nat) (s : State) : Nat × State :=
  let l := s.l2[c]!
  let v := lfsrNext (l.lfsr[seat]!)
  (lfsrPick v n, { s with l2 := s.l2.set! c { l with lfsr := l.lfsr.set! seat v } })

/-- Change the lines of L2 `c`. -/
def State.mapL2 (s : State) (c : Nat) (f : List L2Line → List L2Line) : State :=
  let l := s.l2[c]!
  { s with l2 := s.l2.set! c { l with lines := f l.lines } }

/-- The line of `seat` in L2 `c` (R250). -/
def State.l2Find (s : State) (c seat line : Nat) : Option L2Line :=
  (s.l2[c]!).lines.find? (fun e => e.seat == seat && e.line == line)

/-- Remove a line's tags from one core's L1I, L1D and victim cache. -/
def Core.dropLine (line : Nat) (c : Core) : Core :=
  { c with
    l1i := c.l1i.filter (fun t => t.line != line)
    l1d := c.l1d.filter (fun t => t.line != line)
    victim := c.victim.filter (· != line) }

/-- An L2 line leaves: its copies in the L1s of the cluster's cores that run the seat leave first (R246). The
reservation of a core whose L1D line goes is cleared (R114). -/
def dropL1Copies (cl seat line : Nat) (s : State) : State :=
  s.mapCores (fun k => clusterOf k.val == cl && (s.core k).seatid == seat) (fun c =>
    let c' := c.dropLine line
    if c'.l1d.length < c.l1d.length then
      match c.reservation with
      | some r => if r.cached && r.pa / 64 == line then { c' with reservation := none } else c'
      | none => c'
    else c')

/-- A dirty line goes back to memory with its poison (R279); a home that does not answer loses it. -/
def writeBack (e : L2Line) (s : State) : State :=
  if s.memGate 0 (e.line * 64) = .error then s
  else
    let s := s.writeMem (e.line * 64) 64 e.data.toNat
    s.each ([0, 1, 2, 3, 4, 5, 6, 7].filter (fun i => e.poison.getLsbD i))
      (fun i s => s.poisonWord (e.line * 64 + 8 * i))

/-- Remove one L2 line, writing it back first where `clean`. -/
def l2Remove (cl seat line : Nat) (clean : Bool) (s : State) : State :=
  match s.l2Find cl seat line with
  | none => s
  | some e =>
    let s := dropL1Copies cl seat line s
    let s := if clean && e.dirty then writeBack e s else s
    s.mapL2 cl (·.filter (fun x => !(x.seat == seat && x.line == line)))

/-- Write a dirty L2 line back and keep it, now clean. -/
def l2Clean (cl seat line : Nat) (s : State) : State :=
  match s.l2Find cl seat line with
  | none => s
  | some e =>
    if e.dirty then
      (writeBack e s).mapL2 cl (·.map (fun x => if x.seat == seat && x.line == line then { x with dirty := false } else x))
    else s

/-- Clusters. -/
def clusterIds : List Nat := [0, 1, 2, 3, 4, 5, 6, 7]
/-- The copies of a line: cluster and seat of each (R250). -/
def State.holders (s : State) (line : Nat) : List (Nat × Nat) :=
  clusterIds.flatMap (fun cl => ((s.l2[cl]!).lines.filter (fun e => e.line == line)).map (fun e => (cl, e.seat)))

/-- Bring memory up to date with every dirty copy of a line; the copies stay. -/
def recallLine (line : Nat) (s : State) : State :=
  (s.holders line).foldl (fun t h => l2Clean h.1 h.2 line t) s

/-- Invalidate every cached copy of a line but the one of `keep` (cluster, seat), writing dirty data back first
(R250, R251). -/
def invalidateOthers (line : Nat) (keep : Option (Nat × Nat)) (s : State) : State :=
  (s.holders line).foldl (fun t h => if keep = some h then t else l2Remove h.1 h.2 line true t) s

/-- A write by core `by_` (none: another agent) to a granule clears every other core's reservation on it (R114,
R297). -/
def breakReservations (by_ : Option Nat) (line : Nat) (s : State) : State :=
  s.mapCores (fun k => some k.val != by_) (fun c =>
    match c.reservation with
    | some r => if r.pa / 64 = line then { c with reservation := none } else c
    | none => c)

/-! ### Memory-side cache (R275): tags only, because it is write-through -/

/-- Banks of a seat that work as memory-side cache. -/
def State.mscBanks (s : State) (seat : Nat) : List Nat :=
  (List.range 32).filter (fun b => s.get DSTORE_BCFG_MODE b == 1 && s.bankOwner b == seat)

/-- A best-effort read of a DRAM line by `seat` looks the memory-side cache up and allocates on a miss. -/
def mscRead (seat line : Nat) (s : State) : State :=
  let bs := s.mscBanks seat
  if bs.length = 0 || !isDram (line * 64) ||
      s.unitOwner (s.chanOf (line * 64)) (s.unitOf (line * 64)) != seat then s
  else
    let b := bs.getD (line % bs.length) 0
    let set := line / bs.length % 16384
    let here := s.msc.filter (fun t => t.bank == b && t.set == set)
    if here.any (fun t => t.line == line) then s
    else
      match [0, 1, 2, 3].find? (fun w => !here.any (fun t => t.way == w)) with
      | some w => { s with msc := s.msc ++ [⟨b, set, w, line⟩] }
      | none =>
        let v := lfsrNext (s.mscLfsr[b]!)
        let w := lfsrPick v 4
        { s with
          mscLfsr := s.mscLfsr.set! b v
          msc := s.msc.filter (fun t => !(t.bank == b && t.set == set && t.way == w)) ++ [⟨b, set, w, line⟩] }

/-! ### Agents outside the clusters (R251) -/

/-- A best-effort read obtains the latest data from any L2. -/
def cohRead (seat pa n : Nat) (s : State) : Nat × State :=
  let s := mscRead seat (pa / 64) (recallLine (pa / 64) s)
  let s := if (pa + n - 1) / 64 = pa / 64 then s else recallLine ((pa + n - 1) / 64) s
  (s.readMem pa n, s)

/-- A best-effort write invalidates every cached copy; `by_` is the core that writes, if one does. -/
def cohWrite (by_ : Option Nat) (pa n v : Nat) (s : State) : State :=
  let l := pa / 64
  let s := breakReservations by_ l (invalidateOthers l none s)
  let l2 := (pa + n - 1) / 64
  let s := if l2 = l then s else breakReservations by_ l2 (invalidateOthers l2 none s)
  s.writeMem pa n v

/-- A memory read that the check bits of DSTORE or DRAM find wrong (R278, R347, R348), before the read is answered. -/
def memUpset (pa : Nat) (scrub : Bool) (u : Upset) (s : State) : State :=
  if isDstore pa then
    match u with
    | .single => s.countUp DSTORE_ERR_CE
    | .double =>
      let b := bankOf pa
      let s := (s.poisonWord pa).countUp DSTORE_ERR_UE
      let s := if s.flag DSTORE_UELOG_VALID then s
        else raiseSrc srcDstore ((((((s.put DSTORE_UELOG_VALID 1).put DSTORE_UELOG_SCRUB (bit scrub)).put
          DSTORE_UELOG_BANK b).put DSTORE_UELOG_SEAT (s.bankOwner b)).put DSTORE_UELOG_ADDR (pa / 8)))
      reportFault 0x0C (s.bankOwner b) b (pa / 8 * 8 % 2 ^ 32) s
    | _ => s
  else if isDram pa then
    let c := s.chanOf pa
    let unit := s.unitOf pa
    let owner := s.unitOwner c unit
    match u with
    | .single =>
      let s := s.countUp DMC_ERR_CE c
      if s.flag DMC_CELOG_VALID c then s
      else
        -- the subchannel and the device position are the outside's: free values (log 15)
        let (v, s) := s.draw
        let s := (s.put DMC_CELOG_SUB (v.toNat / 16 % 2) c).put DMC_CELOG_DEV (v.toNat % 16 % 10) c
        (((((s.put DMC_CELOG_VALID 1 c).put DMC_CELOG_SCRUB (bit scrub) c).put DMC_CELOG_UNIT unit c).put
          DMC_CELOG_SEAT owner c).put DMC_CELOG_ADDR (pa / 64) c)
    | .double =>
      let s := (s.poisonWord pa).countUp DMC_ERR_UE c
      let s := if s.flag DMC_UELOG_VALID c then s
        else
          let (v, s) := s.draw
          let s := s.put DMC_UELOG_SUB (v.toNat % 2) c
          raiseSrc (srcDmc c) ((((((s.put DMC_UELOG_VALID 1 c).put DMC_UELOG_SCRUB (bit scrub) c).put
          DMC_UELOG_UNIT unit c).put DMC_UELOG_SEAT owner c).put DMC_UELOG_DEV 0 c).put DMC_UELOG_ADDR (pa / 64) c)
      reportFault 0x0D owner c (pa / 8 * 8 % 2 ^ 32) s
    | _ => s
  else s

/-! ### Fills (R253, R254) -/

/-- Ways of L2 `cl` that `seat` owns. -/
def State.ownedWays (s : State) (cl seat : Nat) : List Nat :=
  if seat = 0 then [] else (List.range 16).filter (fun w => s.get CACHE_WOWN_OWNER cl w == seat)
/-- Is way w locked by its owner (R255)? -/
def State.wayLocked (s : State) (cl seat w : Nat) : Bool := s.bitOf CACHE_WLOCK_LOCK w cl seat
/-- The allocation mask. -/
def State.allocWays (s : State) (cl seat : Nat) : List Nat :=
  let own := s.ownedWays cl seat
  if s.flag CACHE_SCTL_FILLEN cl seat then own.filter (fun w => s.bitOf CACHE_SCTL_FILLMASK w cl seat) else own

/-- Bring a line into L2 `cl` for `seat`; `va` is virtual address bits [13:12] of the fill. Answers whether the line
is now held. -/
def l2Fill (cl seat line va : Nat) (s : State) : Bool × State :=
  if (s.l2Find cl seat line).isSome then (true, s)
  else
    let s := mscRead seat line (recallLine line s)
    let set := line % 4096
    let held (w : Nat) : Option L2Line := (s.l2[cl]!).lines.find? (fun e => e.way == w && e.line % 4096 == set)
    let mask := s.allocWays cl seat
    let fresh (w : Nat) : L2Line := ⟨w, seat, line, s.memLine line, s.memPoison line, false, va⟩
    let free := mask.filter (fun w => (held w).isNone)
    match free.find? (fun w => s.wayLocked cl seat w) with
    | some w => (true, s.mapL2 cl (· ++ [fresh w]))
    | none =>
      match free with
      | w :: _ => (true, s.mapL2 cl (· ++ [fresh w]))
      | [] =>
        let cand := mask.filter (fun w => !s.wayLocked cl seat w)
        if cand.length = 0 then
          (false, if mask.length = 0 && (s.ownedWays cl seat).length = 0 then s else s.put CACHE_STAT_NOALLOC 1 cl seat)
        else
          let (i, s) := l2Choice cl seat cand.length s
          let w := cand.getD i 0
          let s := match held w with
            | some e => l2Remove cl e.seat e.line true s
            | none => s
          (true, s.mapL2 cl (· ++ [⟨w, seat, line, s.memLine line, s.memPoison line, false, va⟩]))

/-- Index of an L1: virtual address bits [13:6] (Table CACHE-1). -/
def l1Set (va : Nat) : Nat := va / 64 % 256

/-- Install a tag in a 4-way L1, and answer the line it displaced. -/
def l1Install (k : CoreId) (tags : List L1Tag) (set line : Nat) (s : State) : List L1Tag × Option Nat × State :=
  let tags := tags.filter (fun t => t.line != line)
  let here := tags.filter (fun t => t.set == set)
  match [0, 1, 2, 3].find? (fun w => !here.any (fun t => t.way == w)) with
  | some w => (tags ++ [⟨set, w, line⟩], none, s)
  | none =>
    let (w, s) := coreChoice k 4 s
    (tags.filter (fun t => !(t.set == set && t.way == w)) ++ [⟨set, w, line⟩],
      (here.find? (fun t => t.way == w)).map (·.line), s)

/-- A line enters the victim cache, which drops one of its 16 lines when full (R247). -/
def victimInstall (k : CoreId) (line : Nat) (s : State) : State :=
  let v := (s.core k).victim
  if v.length < 16 then s.mapCore k (fun c => { c with victim := c.victim ++ [line] })
  else
    let (i, s) := coreChoice k 16 s
    s.mapCore k (fun c => { c with victim := c.victim.eraseIdx i ++ [line] })

/-- Install a line in core k's L1D; the line it displaces moves to the victim cache (R247). A reservation on the
displaced line is cleared (R114: eviction from the L1D). -/
def l1dInstall (k : CoreId) (va line : Nat) (s : State) : State :=
  let s := s.mapCore k (fun c => { c with victim := c.victim.filter (· != line) })
  let (tags, out, s) := l1Install k (s.core k).l1d (l1Set va) line s
  let s := s.mapCore k (fun c => { c with l1d := tags })
  match out with
  | none => s
  | some o =>
    let s := s.mapCore k (fun c => match c.reservation with
      | some r => if r.cached && r.pa / 64 == o then { c with reservation := none } else c
      | none => c)
    victimInstall k o s

/-- Install a line in core k's L1I. -/
def l1iInstall (k : CoreId) (va line : Nat) (s : State) : State :=
  let (tags, _, s) := l1Install k (s.core k).l1i (l1Set va) line s
  s.mapCore k (fun c => { c with l1i := tags })

/-- Next-line prefetch after a demand miss (R260): the next line of the same 4 KiB page into the L2, and into the L1I
after an instruction miss. -/
def prefetch (k : CoreId) (instr : Bool) (va pa : Nat) (s : State) : State :=
  let c := s.core k
  let cl := clusterOf k.val
  let line := pa / 64 + 1
  if s.flag CACHE_SCTL_PFEN cl c.seatid && decide (line % 64 ≠ 0) && (s.l2Find cl c.seatid line).isNone &&
      s.memGate c.seatid (line * 64) == .ok then
    let mask := s.allocWays cl c.seatid
    let free := mask.any (fun w => !s.wayLocked cl c.seatid w ||
      !(s.l2[cl]!).lines.any (fun e => e.way == w && e.line % 4096 == line % 4096))
    if free then
      let (ok, s) := l2Fill cl c.seatid line ((va + 64) / 4096 % 4) s
      if ok && instr then l1iInstall k (va + 64) line s else s
    else s
  else s

/-- A cacheable store of core k applied at its cluster's L2 (R248, R250, R252): allocate on a miss, update, mark dirty,
and remove every other copy, the other L1s of the cluster and the core's own L1I included. Without a way it goes to
memory. -/
def storeCached (k : CoreId) (seat pa n v : Nat) (s : State) : State :=
  let cl := clusterOf k.val
  let line := pa / 64
  let s := invalidateOthers line (some (cl, seat)) s
  let s := breakReservations (some k.val) line s
  let (held, s) := l2Fill cl seat line 0 s
  let s := s.mapCores (fun j => clusterOf j.val == cl && j != k) (Core.dropLine line)
  let s := s.mapCore k (fun c => { c with l1i := c.l1i.filter (fun t => t.line != line) })
  if held then
    let off := pa % 64
    s.mapL2 cl (·.map (fun e =>
      if e.seat == seat && e.line == line then
        { e with data := lineSet e.data off n v, poison := e.poison &&& ~~~(wordsWhole off n), dirty := true }
      else e))
  else s.writeMem pa n v

end Sys2Proof.Machine
end

