-- ==== Sys2Proof/Machine/Icu.lean ====
section
/-!
DEFINITION. The interrupt controller (R406 to R421): candidates, signals, claims, completions, source writes, software
triggers and stranded sources.
-/

namespace Sys2Proof.Machine

/-! ### Candidates and signals -/

/-- Highest set bit of a 16-bit mask. -/
def topBit (m : Nat) : Option Nat := ((List.range 16).filter (fun p => m.testBit p)).getLast?

/-- Does a source at priority `p` exceed target t's running priority (R409)? -/
def State.aboveRunning (s : State) (t p : Nat) : Bool :=
  match topBit (s.get ICU_TSTAT_INSVC t) with
  | some q => decide (q < p)
  | none => true

/-- Is source n in service at target t (R412)? -/
def State.servedAt (s : State) (n t : Nat) : Bool := s.inSvc.any (fun e => e.src == n && e.tgt == t)

/-- Sources whose PEND may be set: those whose register differs from its reset value. -/
def State.listedSources (s : State) : List Nat :=
  (s.regs.filter (fun c => decide (ICU_SRC.base ≤ c.1) && decide (c.1 < ICU_SRC.base + 2048))).map
    (fun c => (c.1 - ICU_SRC.base) / 4)

/-- Is source n a candidate of target t, the SEATID condition apart (R409, R412)? -/
def State.wouldSignal (s : State) (n t : Nat) : Bool :=
  s.flag ICU_SRC_PEND n && s.flag ICU_SRC_EN n && s.get ICU_SRC_TGT n == t &&
    decide (s.get ICU_TCTL_THR t ≤ s.get ICU_SRC_PRIO n) && s.aboveRunning t (s.get ICU_SRC_PRIO n) &&
    !s.servedAt n t

/-- SEATID of core number n. -/
def State.seatOf (s : State) (n : Nat) : Nat :=
  match s.cores[n]? with
  | some c => c.seatid
  | none => 0

/-- Is source n a candidate of target t (R409)? Target 32 is the service processor. -/
def State.candidate (s : State) (n t : Nat) : Bool :=
  s.wouldSignal n t && (t == 32 || s.srcOwner n == s.seatOf t)

/-- The source signalled to target t: the highest priority, then the lowest number (R411, R412). -/
def State.signalled (s : State) (t : Nat) : Option Nat :=
  let c := s.listedSources.filter (fun n => s.candidate n t)
  c.foldl (fun best n => match best with
    | none => some n
    | some b => if s.get ICU_SRC_PRIO b < s.get ICU_SRC_PRIO n then some n else best) none

/-- Priority signalled to target t. -/
def State.signalPrio (s : State) (t : Nat) : Option Nat := (s.signalled t).map (fun n => s.get ICU_SRC_PRIO n)

/-! ### Claim and complete -/

/-- What a read of ICU.CLAIM returns: PRIO and ID. -/
def claimWord (s : State) (t : Nat) : Nat :=
  match s.signalled t with
  | some n => s.get ICU_SRC_PRIO n * 2 ^ 16 + n
  | none => 0x3FF

/-- The read's effect (R412). -/
def claimAt (t : Nat) (s : State) : Nat × State :=
  match s.signalled t with
  | none => (0x3FF, s)
  | some n =>
    let p := s.get ICU_SRC_PRIO n
    let s' := (((s.put ICU_SRC_PEND 0 n).put ICU_SRC_ACT 1 n).putBit ICU_TSTAT_INSVC p true t)
    (p * 2 ^ 16 + n, { s' with inSvc := s'.inSvc ++ [⟨n, t, p⟩] })

/-- A write of ICU.COMPLETE (R413). -/
def completeAt (t n : Nat) (s : State) : State :=
  if n = 0x3FF then s
  else match s.inSvc.find? (fun e => e.src == n && e.tgt == t) with
    | none => s.put ICU_TSTAT_CERR 1 t
    | some e =>
      let s := { s with inSvc := s.inSvc.filter (fun x => !(x.src == n && x.tgt == t)) }
      let s := s.putBit ICU_TSTAT_INSVC e.prio false t
      if s.inSvc.any (fun x => x.src == n) then s else s.put ICU_SRC_ACT 0 n

/-! ### Source writes -/

/-- May `seat` name target t (R414)? -/
def State.targetAllowed (s : State) (seat t : Nat) : Bool :=
  decide (t < 32) && (s.coreOwner t == seat || s.sharesCore seat t)

/-- Remember the signals a source write withdraws: a core may have sampled one of them (R416). -/
def noteWithdrawn (before after : State) : State :=
  let gone := (List.range 32).filterMap (fun t => match before.signalPrio t with
    | some p => if after.signalPrio t = some p then none else some (t, p)
    | none => none)
  { after with stale := after.stale ++ gone }

/-- A write of ICU.SRC of source n by `seat` (R414, R416). The first component is false for a violation of R25. -/
def srcWrite (seat n v : Nat) (s : State) : Bool × State :=
  if seat ≠ 0 && s.srcOwner n != seat then (false, seatViolation seat true (ICU_SRC.addr n 0) s)
  else
    let t := v % 64
    if seat ≠ 0 && !s.targetAllowed seat t then (false, seatViolation seat true (ICU_SRC.addr n 0) s)
    else
      let old := s
      let s := if v.testBit 31 then s.put ICU_SRC_PEND 0 n else s
      let s := if v.testBit 29 then s.put ICU_SRC_STR 0 n else s
      let s := (s.put ICU_SRC_EN (slice v 24 1) n).put ICU_SRC_PRIO (slice v 16 4) n
      let s := if s.seatChecking then s else if t ≤ 31 then s.put ICU_SRC_TGT (s.leadOf t) n else if t = 32 then s.put ICU_SRC_TGT 32 n else s
      (true, noteWithdrawn old s)

/-- A write of ICU.SWTRIG by `seat`; the checked source is the one named (R25, ICU.SWTRIG). -/
def swtrig (seat v : Nat) (s : State) : Bool × State :=
  let n := v % 512
  if n < 448 then (true, s)
  else if seat ≠ 0 && s.srcOwner n != seat then (false, seatViolation seat true ICU_SWTRIG.base s)
  else (true, raiseSrc n s)

/-! ### Stranded sources -/

/-- Is target t unreachable (R419)? -/
def State.unreachable (s : State) (t : Nat) : Bool :=
  match s.cores[t]? with
  | none => false
  | some c => s.cState t == 3 || c.run == .held || c.run == .stopped || s.coreOwner t == 0

/-- Number of sources with STR = 1 (ICU.STAT.NSTR). -/
def State.numStranded (s : State) : Nat := (s.listedSources.filter (fun n => s.flag ICU_SRC_STR n)).length

/-! ### Commands -/

/-- An edge at a source. -/
def execIcuEdge (src : Fin 512) (s : State) : Result := .next (raiseSrc src.val s)

/-- A read of ICU.CLAIM in the page of target t; the page of a locked pair's trailing core reads 0. -/
def execIcuClaim (t : Fin 33) (s : State) : Result :=
  if s.trailing t.val then .next (s.answer (.ok 0))
  else
    let (v, s) := claimAt t.val s
    .next (s.answer (.ok (BitVec.ofNat 64 v)))

/-- A write of ICU.COMPLETE in the page of target t. -/
def execIcuComplete (t : Fin 33) (id : BitVec 10) (s : State) : Result :=
  .next ((if s.trailing t.val then s else completeAt t.val id.toNat s).answer (.ok 0))

/-- A write of ICU.SRC. -/
def execIcuSrcWrite (by_ : Seat) (src : Fin 512) (value : Word32) (s : State) : Result :=
  let (ok, s) := srcWrite by_.val src.val value.toNat s
  .next (s.answer (if ok then .ok 0 else .error))

/-- A write of ICU.SWTRIG. -/
def execIcuSwtrig (by_ : Seat) (value : Word32) (s : State) : Result :=
  let (ok, s) := swtrig by_.val value.toNat s
  .next (s.answer (if ok then .ok 0 else .error))

/-- A source number as payload. -/
def srcBytes (n : Nat) : List Byte := [BitVec.ofNat 8 n, BitVec.ofNat 8 (n / 256)]

/-- A source has stayed a candidate of an unreachable target for ICU.STRTMO.TMO (R419). Welfen notifies the
source's owner seat. -/
def execIcuStrandedTimeout (src : Fin 512) (s : State) : Result :=
  let n := src.val
  if s.wouldSignal n (s.get ICU_SRC_TGT n) && s.unreachable (s.get ICU_SRC_TGT n) && !s.flag ICU_SRC_STR n then
    let s := noteSeat 0x0F03 (s.srcOwner n) (srcBytes n) (s.put ICU_SRC_STR 1 n)
    .next (if s.flag ICU_STAT_STREV then s else raiseSrc srcStranded ((s.put ICU_STAT_FIRST n).put ICU_STAT_STREV 1))
  else .next s

end Sys2Proof.Machine
end

