-- ==== Sys2Proof/Machine/Flags.lean ====
section
/-!
DEFINITION. Integer results with their flags (R93, R94), the conditions (Table ISA-4), and the check values of CRC
(R121). Flags travel as the four bits NZCV with N highest.
-/

namespace Sys2Proof.Machine

/-- A result with the flags it would set. -/
structure AluOut where
  val : Word64
  nzcv : BitVec 4
  deriving DecidableEq, Repr

/-- NZCV from its four bits. -/
def mkFlags (n z c v : Bool) : BitVec 4 :=
  BitVec.ofBool n ++ BitVec.ofBool z ++ BitVec.ofBool c ++ BitVec.ofBool v

def flagN (f : BitVec 4) : Bool := f.getLsbD 3
def flagZ (f : BitVec 4) : Bool := f.getLsbD 2
def flagC (f : BitVec 4) : Bool := f.getLsbD 1
def flagV (f : BitVec 4) : Bool := f.getLsbD 0

/-- Does condition code `c` hold on the flags (Table ISA-4)? -/
def condHolds (c : Fin 15) (f : BitVec 4) : Bool :=
  match c.val with
  | 0 => true
  | 1 => flagZ f
  | 2 => !flagZ f
  | 3 => !flagC f
  | 4 => flagC f
  | 5 => flagN f
  | 6 => !flagN f
  | 7 => flagV f
  | 8 => !flagV f
  | 9 => flagC f && !flagZ f
  | 10 => !flagC f || flagZ f
  | 11 => flagN f != flagV f
  | 12 => flagN f == flagV f
  | 13 => flagZ f || flagN f != flagV f
  | _ => !flagZ f && flagN f == flagV f

/-- a + b + cin at width `w` with all four flags: C is the carry out of the top bit, V the signed overflow (R93). -/
def addFlags {w : Nat} (a b : BitVec w) (cin : Bool) : BitVec w × BitVec 4 :=
  let c := if cin then 1 else 0
  let r : BitVec w := BitVec.ofNat w (a.toNat + b.toNat + c)
  let s : Int := a.toInt + b.toInt + c
  (r, mkFlags r.msb (r == 0) (decide (2 ^ w ≤ a.toNat + b.toNat + c)) (decide (r.toInt ≠ s)))

/-- a - b - (1 - cin): the sum of a, NOT b and cin, so that C is 1 when there is no borrow (R93). -/
def subFlags {w : Nat} (a b : BitVec w) (cin : Bool) : BitVec w × BitVec 4 :=
  let c : Nat := if cin then 0 else 1
  let r := a - b - BitVec.ofNat w c
  let s : Int := a.toInt - b.toInt - c
  (r, mkFlags r.msb (r == 0) (decide (b.toNat + c ≤ a.toNat)) (decide (r.toInt ≠ s)))

/-- N and Z of a result, C and V as they were (R93). -/
def nzFlags {w : Nat} (r : BitVec w) (f : BitVec 4) : BitVec 4 := mkFlags r.msb (r == 0) (flagC f) (flagV f)

/-- N and Z of a shift's result, C the last bit shifted out (unchanged for a shift of 0), V unchanged (R93). -/
def shiftFlags {w : Nat} (r : BitVec w) (n : Nat) (out : Bool) (f : BitVec 4) : BitVec 4 :=
  mkFlags r.msb (r == 0) (if n = 0 then flagC f else out) (flagV f)

/-- Shift left by `n` < w. -/
def shlOut {w : Nat} (a : BitVec w) (n : Nat) (f : BitVec 4) : BitVec w × BitVec 4 :=
  let r := a <<< n
  (r, shiftFlags r n (a.getLsbD (w - n)) f)

/-- Logical shift right by `n` < w. -/
def shrOut {w : Nat} (a : BitVec w) (n : Nat) (f : BitVec 4) : BitVec w × BitVec 4 :=
  let r := a >>> n
  (r, shiftFlags r n (a.getLsbD (n - 1)) f)

/-- Arithmetic shift right by `n` < w. -/
def sraOut {w : Nat} (a : BitVec w) (n : Nat) (f : BitVec 4) : BitVec w × BitVec 4 :=
  let r := a.sshiftRight n
  (r, shiftFlags r n (a.getLsbD (n - 1)) f)

/-- Rotate right by `n` < w. The last bit moved out of bit 0 is the result's top bit. -/
def rorOut {w : Nat} (a : BitVec w) (n : Nat) (f : BitVec 4) : BitVec w × BitVec 4 :=
  let r := a.rotateRight n
  (r, shiftFlags r n (a.getLsbD (n - 1)) f)

/-- A 64-bit result as an ALU output. -/
def out64 (p : Word64 × BitVec 4) : AluOut := ⟨p.1, p.2⟩
/-- A 32-bit result, sign-extended (Table ISA-7, 0x18 to 0x1C). -/
def out32 (p : BitVec 32 × BitVec 4) : AluOut := ⟨p.1.signExtend 64, p.2⟩

/-- Leading zeros of the low `n` bits of a number. -/
def leadingZeros (v : Nat) : Nat → Nat
  | 0 => 0
  | n + 1 => if v.testBit n then 0 else 1 + leadingZeros v n

/-- Set bits among the low `n` bits. -/
def setBits (v : Nat) : Nat → Nat
  | 0 => 0
  | n + 1 => (if v.testBit n then 1 else 0) + setBits v n

/-- The bytes of a number of `n` bytes in reverse order. -/
def swapBytes (v : Nat) : Nat → Nat
  | 0 => 0
  | n + 1 => v % 256 * 256 ^ n + swapBytes (v / 256) n

/-- The ALU group (Table ISA-7): operation number fn[5:0] on `a` (rs1) and `b` (rs2) with the flags `f`; none where
the table defines no operation. -/
def aluOp (op : Nat) (a b : Word64) (f : BitVec 4) : Option AluOut :=
  let sh := b.toNat % 64
  let shw := b.toNat % 32
  let aw : BitVec 32 := a.truncate 32
  let bw : BitVec 32 := b.truncate 32
  let logic (r : Word64) : Option AluOut := some ⟨r, nzFlags r f⟩
  match op with
  | 0x00 => some (out64 (addFlags a b false))
  | 0x01 => some (out64 (subFlags a b true))
  | 0x02 => some (out64 (addFlags a b (flagC f)))
  | 0x03 => some (out64 (subFlags a b (flagC f)))
  | 0x04 => logic (a &&& b)
  | 0x05 => logic (a ||| b)
  | 0x06 => logic (a ^^^ b)
  | 0x07 => logic (a &&& ~~~b)
  | 0x08 => some (out64 (shlOut a sh f))
  | 0x09 => some (out64 (shrOut a sh f))
  | 0x0A => some (out64 (sraOut a sh f))
  | 0x0B => some (out64 (rorOut a sh f))
  | 0x0C => logic (if a.slt b then a else b)
  | 0x0D => logic (if a.slt b then b else a)
  | 0x0E => logic (if a.ult b then a else b)
  | 0x0F => logic (if a.ult b then b else a)
  | 0x10 => logic (BitVec.ofNat 64 (leadingZeros a.toNat 64))
  | 0x11 => logic (BitVec.ofNat 64 (setBits a.toNat 64))
  | 0x12 => logic ((a.truncate 8).signExtend 64)
  | 0x13 => logic ((a.truncate 16).signExtend 64)
  | 0x14 => logic (aw.signExtend 64)
  | 0x15 => logic (BitVec.ofNat 64 (swapBytes a.toNat 8))
  | 0x18 => some (out32 (addFlags aw bw false))
  | 0x19 => some (out32 (subFlags aw bw true))
  | 0x1A => some (out32 (shlOut aw shw f))
  | 0x1B => some (out32 (shrOut aw shw f))
  | 0x1C => some (out32 (sraOut aw shw f))
  | _ => none

/-- The operations whose rs2 field must be 0 (Table ISA-7, 0x10 to 0x15). -/
def aluUnary (op : Nat) : Bool := decide (0x10 ≤ op) && decide (op ≤ 0x15)

/-- The 128-bit product of MUL and MULU (Table ISA-7). -/
def mulProduct (signed : Bool) (a b : Word64) : BitVec 128 :=
  if signed then a.signExtend 128 * b.signExtend 128 else a.zeroExtend 128 * b.zeroExtend 128

/-- Halfword `i` of a register. -/
def halfOf (v : Word64) (i : Nat) : BitVec 16 := v.extractLsb' (16 * i) 16

/-- The sum of the four 16 × 16 products of MAC16 and MACU16. -/
def macSum (signed : Bool) (a b : Word64) : Word64 :=
  let p (i : Nat) : Word64 :=
    if signed then (halfOf a i).signExtend 64 * (halfOf b i).signExtend 64
    else (halfOf a i).zeroExtend 64 * (halfOf b i).zeroExtend 64
  p 0 + p 1 + p 2 + p 3

/-- Signed quotient rounded toward zero and remainder with the sign of the dividend (R98); the most negative value by
-1 gives the most negative value and 0. -/
def divResult (signed : Bool) (a b : Word64) : Word64 := if signed then a.sdiv b else a / b
def remResult (signed : Bool) (a b : Word64) : Word64 := if signed then a.srem b else a % b

/-! ### CRC (R121) -/

/-- Eight steps of a reflected CRC. -/
def crcReflected (poly : BitVec 32) (v : BitVec 32) : Nat → BitVec 32
  | 0 => v
  | n + 1 => crcReflected poly (if v.getLsbD 0 then v >>> 1 ^^^ poly else v >>> 1) n

/-- Eight steps of CRC-16, not reflected. -/
def crc16Steps (v : BitVec 16) : Nat → BitVec 16
  | 0 => v
  | n + 1 => crc16Steps (if v.getLsbD 15 then v <<< 1 ^^^ 0x1021 else v <<< 1) n

/-- One byte into a check value; the polynomials 0x04C11DB7 and 0x1EDC6F41 appear reflected. A 32-bit check value is
held in bits [31:0], a 16-bit one in bits [15:0]. -/
def crcByte (sel : Nat) (v : Word64) (b : BitVec 8) : Word64 :=
  match sel with
  | 0 => (crcReflected 0xEDB88320 (v.truncate 32 ^^^ b.zeroExtend 32) 8).zeroExtend 64
  | 1 => (crcReflected 0x82F63B78 (v.truncate 32 ^^^ b.zeroExtend 32) 8).zeroExtend 64
  | _ => (crc16Steps (v.truncate 16 ^^^ (b.zeroExtend 16 <<< 8)) 8).zeroExtend 64

/-- `n` bytes of `data`, lowest first, into a check value. -/
def crcBytes (sel : Nat) (v data : Word64) : Nat → Word64
  | 0 => v
  | n + 1 => crcBytes sel (crcByte sel v (data.truncate 8)) (data >>> 8) n

end Sys2Proof.Machine
end

