-- ==== Sys2Proof/Machine/Operands.lean ====
section
/-!
DEFINITION. The operands of core instructions: general registers through the window ring and the trap window (R81 to
R83), the flags and the other fields of PSTATE, the MD registers with their exposed latency (R84, R95, R96), the
scoreboard (R132), immediates and addresses, and the control and translation registers (R85 to R88, R117, Tables ISA-2
and XLAT).
-/

namespace Sys2Proof.Machine

/-! ### General registers -/

/-- Where general register r lives now (Table ISA-1, R82, R83). -/
def Core.regAt (c : Core) (r : Fin 32) : PReg :=
  if r.val < 12 then .g r.val
  else if c.twOn then .tw (r.val - 12)
  else if r.val < 28 then .win c.cwp (r.val - 12)
  else .win ((c.cwp + 1) % 12) (r.val - 28)

/-- The value of a physical register; G0 reads 0. -/
def Core.getP (c : Core) : PReg → Word64
  | .g n => if n = 0 then 0 else c.g[n]!
  | .win w n => (c.win[w]!)[n]!
  | .tw n => c.tw[n]!

/-- Write a physical register; writes to G0 are discarded. -/
def Core.setP (c : Core) (p : PReg) (v : Word64) : Core :=
  match p with
  | .g n => if n = 0 then c else { c with g := c.g.set! n v }
  | .win w n => { c with win := c.win.set! w ((c.win[w]!).set! n v) }
  | .tw n => { c with tw := c.tw.set! n v }

/-- Read general register r. -/
def Core.reg (c : Core) (r : Fin 32) : Word64 := c.getP (c.regAt r)
/-- Write general register r. -/
def Core.setReg (c : Core) (r : Fin 32) (v : Word64) : Core := c.setP (c.regAt r) v

/-- Is r a windowed register of the ring now (R113)? -/
def Core.windowed (c : Core) (r : Fin 32) : Bool := decide (12 ≤ r.val) && !c.twOn

/-- Does a long operation still have to write one of the registers (R97, R132)? -/
def Core.awaited (c : Core) (rs : List (Fin 32)) : Bool :=
  let hit (o : Option LongOp) : Bool := match o with
    | some op => rs.any (fun r => c.regAt r == op.dest && op.dest != .g 0)
    | none => false
  hit c.longInt || hit c.longFp

/-- Does window w have a long-operation result outstanding (R97)? -/
def Core.windowAwaited (c : Core) (w : Nat) : Bool :=
  let hit (o : Option LongOp) : Bool := match o with
    | some op => (match op.dest with
      | .win x _ => x == w
      | _ => false)
    | none => false
  hit c.longInt || hit c.longFp

/-! ### PSTATE -/

/-- NZCV. -/
def Core.flags (c : Core) : BitVec 4 := c.pstate.extractLsb' 28 4
/-- A field of PSTATE replaced. -/
def Core.setPs (c : Core) (lo w v : Nat) : Core :=
  { c with pstate := BitVec.ofNat 64 (withSlice c.pstate.toNat lo w v) }
def Core.setFlags (c : Core) (f : BitVec 4) : Core := c.setPs 28 4 f.toNat
def Core.pl (c : Core) : Nat := slice c.pstate.toNat 6 2
def Core.ppl (c : Core) : Nat := slice c.pstate.toNat 8 2
def Core.ie (c : Core) : Bool := c.pstate.getLsbD 4
def Core.pie (c : Core) : Bool := c.pstate.getLsbD 5

/-! ### MD registers -/

/-- One landed write. -/
def Core.landOne (c : Core) (w : MdWrite) : Core :=
  { c with mdh := w.h.getD c.mdh, mdl := w.l.getD c.mdl, mda := w.a.getD c.mda }
/-- Every MD write lands (trap entry, debug halt, SWSEAT). -/
def Core.landAll (c : Core) : Core := { c.mdFlight.foldl Core.landOne c with mdFlight := [] }
/-- The core as an MFMD sees it with the youngest `n` writes still in flight (R95). -/
def Core.mdSeen (c : Core) (n : Nat) : Core := (c.mdFlight.take (c.mdFlight.length - n)).foldl Core.landOne c
/-- Issue a write: it lands four core cycles later, so at most four are in flight, and the oldest lands first. -/
def Core.issueMd (c : Core) (w : MdWrite) : Core :=
  match c.mdFlight with
  | [a, b, d, e] => { c.landOne a with mdFlight := [b, d, e, w] }
  | l => { c with mdFlight := l ++ [w] }
/-- MDA after every earlier write in program order (R96). -/
def Core.mdaLatest (c : Core) : Word64 := c.landAll.mda

/-! ### Immediates and addresses -/

/-- sext(imm12). -/
def simm (i : BitVec 12) : Word64 := i.signExtend 64
/-- zext(imm12). -/
def zimm (i : BitVec 12) : Word64 := i.zeroExtend 64
/-- Does an address lie in the 48-bit range (R102)? -/
def inRange (a : Word64) : Bool := decide (a.toNat < 2 ^ 48)
/-- Bytes of a size code. -/
def sizeOf (code : Nat) : Nat := 2 ^ code
/-- A loaded value of `n` bytes, sign- or zero-extended. -/
def extend (signed : Bool) (n v : Nat) : Word64 :=
  if signed && v.testBit (8 * n - 1) then BitVec.ofNat 64 (2 ^ 64 - 2 ^ (8 * n) + v) else BitVec.ofNat 64 v

/-! ### Control registers (Table ISA-2) -/

/-- Lowest level that may read, and that may write (none: no write), control register n; none: no such register. -/
def ctrlLevels (n : Nat) : Option (Nat × Option Nat) :=
  match n with
  | 0x0 | 0x1 | 0x5 | 0x6 => some (1, some 1)
  | 0x2 | 0x3 | 0x4 => some (1, none)
  | 0x7 | 0xC => some (0, none)
  | 0x8 | 0x9 => some (0, some 1)
  | 0xA | 0xB => some (0, some 0)
  | _ => none

/-- The value of control register n of core k. -/
def State.readCtrl (s : State) (k : CoreId) (n : Nat) : Word64 :=
  let c := s.core k
  match n with
  | 0x0 => c.pstate
  | 0x1 => c.epc
  | 0x2 => c.ecause
  | 0x3 => c.eaddr
  | 0x4 => c.lxa
  | 0x5 => c.tvec
  | 0x6 => c.rpcnt
  | 0x7 => BitVec.ofNat 64 c.seatid
  | 0x8 => BitVec.ofNat 64 (c.res * 256 + c.cwp)
  | 0x9 => c.wspill
  | 0xA => BitVec.ofNat 64 (c.flags.toNat * 2 ^ 28)
  | 0xB => c.fstat
  | 0xC => BitVec.ofNat 64 (if s.pairLocked (k.val / 2) then 256 + k.val / 2 * 2 else k.val)
  | _ => 0

/-- The writable bits of PSTATE but DM: N Z C V, PPL, PIE, IE. -/
def pstateMask : Word64 := 0xF0000330

/-- Write a control register at the current level (R85 to R88, TVEC). PSTATE.DM is left to the caller (R161). -/
def Core.writeCtrl (c : Core) (n : Nat) (v : Word64) : Core :=
  match n with
  | 0x0 =>
    let ppl := slice v.toNat 8 2
    let keep := ppl == 2 || (c.pl == 1 && ppl == 3)
    let m : Word64 := if keep then pstateMask &&& ~~~(0x300 : Word64) else pstateMask
    { c with pstate := (c.pstate &&& ~~~m) ||| (v &&& m) }
  | 0x1 => { c with epc := v &&& 0x0000FFFFFFFFFFFC }
  | 0x5 => { c with tvec := if c.pl = 3 then v else (c.tvec &&& 0xFFFFFFFF00000000) ||| (v &&& 0xFFFFFFFF) }
  | 0x6 => { c with rpcnt := v &&& 0x800000000000FFFF }
  | 0x8 => let r := slice v.toNat 8 4; if r < c.res then { c with res := r } else c
  | 0x9 => { c with wspill := v &&& 0x0000FFFFFFFFFF80 }
  | 0xA => c.setFlags (v.extractLsb' 28 4)
  | 0xB => { c with fstat := v &&& 0x1F1F }
  | _ => c

/-- The translation registers (PTROOT, PTCTL, FPA); a write to FPA is ignored. -/
def Core.readXlat (c : Core) (n : Nat) : Word64 :=
  match n with
  | 0 => c.ptroot
  | 1 => c.ptctl
  | _ => c.fpa
def Core.writeXlat (c : Core) (n : Nat) (v : Word64) : Core :=
  match n with
  | 0 => { c with ptroot := v &&& 0x0FFFFFFFFFFFF000 }
  | 1 => { c with ptctl := v &&& 3 }
  | _ => c

end Sys2Proof.Machine
end

