-- ==== Sys2Proof/Machine/RegOps.lean ====
section
/-!
DEFINITION. What a write of a device register does to its fields, before any effect of its own (R12, R13, R15, Table
SCOPE-3): access codes, locks, reserved encodings, and fields that Welfen writes.
-/

namespace Sys2Proof.Machine

/-- Registers of SEAT.LOCK that its check reads, closed while it runs (R33): RWL fields of SEAT, DSTORE.BCFG, LG.LPAIR. -/
def RegDef.inCheck (r : RegDef) : Bool := decide (r.base < 0x20010000) || r.base == DSTORE_BCFG.base || r.base == LG_LPAIR.base

/-- Is the lock that governs a register's RWL fields set? SFI.CWDCFG is fixed by its own EN (R445). -/
def State.lockSet (s : State) (r : RegDef) (i j : Nat) : Bool :=
  match r.lock with
  | .none => false
  | .seat => s.seatLocked || (s.seatChecking && r.inCheck)
  | .deal => s.dealFixed || (s.seatChecking && (r == DEAL_CFG || r == DEAL_ROTCORE || r == DEAL_SLOT)) ||
    (s.seatLocked && r == DEAL_ROTCORE)
  | .mcs => s.flag MCS_LOCK_LOCK
  | .ownEn => if r.base == SFI_SWDWIN.base then s.flag SFI_SWDCFG_EN i else slice (s.reg r i j) 31 1 == 1

/-- Does a field take an encoding? The reserved encodings for which no chapter states an effect leave the field
unchanged (R12). -/
def encodingTaken (r : RegDef) (f : FieldDef) (x : Nat) : Bool :=
  if r.base == DSTORE_BCFG.base && f.lo == 0 then decide (x < 2)
  else if r.base == DMC_ILV.base && f.lo == 8 then decide (x < 3)
  else if r.base == DMC_ILV.base && f.lo == 0 then decide (x < 5)
  else if r.base == SDI_CTL.base && f.lo == 16 then decide (x ≠ 0)
  else if r.base == HRP_CTL.base && (f.lo == 28 || f.lo == 2 || f.lo == 0) then decide (x < 3)
  else true

/-- A field after a write of the whole-register value `v`, of which the bits of `mask` are written. -/
def fieldAfter (seat : Nat) (closed : Bool) (r : RegDef) (v mask old : Nat) (f : FieldDef) : Nat :=
  let o := slice old f.lo f.w
  let m := slice mask f.lo f.w
  let x := slice v f.lo f.w
  let set := (o &&& (2 ^ f.w - 1 - m)) ||| (x &&& m)
  let taken := if encodingTaken r f set then set else o
  match f.acc with
  | .rw | .rwp => taken
  | .rwl => if closed then o else taken
  | .ro => if f.byWelfen && seat == 0 then taken else o
  | .wo | .rc => o
  | .w1c => o - (o &&& x &&& m)
  | .w1s => o ||| (x &&& m)

/-- Instance (i, j) of a register after a write by `seat`. -/
def writeFields (seat : Nat) (r : RegDef) (i j v mask : Nat) (s : State) : State :=
  let old := s.reg r i j
  let closed := s.lockSet r i j
  s.setReg r (r.fields.foldl (fun w f => withSlice w f.lo f.w (fieldAfter seat closed r v mask old f)) old) i j

/-! ### The microcode store -/

/-- The word at an address of the patch or customer region. -/
def State.mcsWord (s : State) (a : Nat) : BitVec 128 := cellGet (fun _ => (0 : BitVec 128)) a s.mcsWords

/-- A write of MCS.WADDR: WDATA 0 to 3 into the master copy and every replica (R197). The base region and a locked store
take no write; a customer word counts in CXUSED, which saturates at its width (log 33). -/
def mcsCommit (a : Nat) (s : State) : State :=
  let s := s.put MCS_WADDR_ADDR a
  if a < 0x3000 then s
  else
    let w := s.reg MCS_WDATA 0 + s.reg MCS_WDATA 1 * 2 ^ 32 + s.reg MCS_WDATA 2 * 2 ^ 64 + s.reg MCS_WDATA 3 * 2 ^ 96
    let s := { s with
      mcsWords := cellSet (fun _ => (0 : BitVec 128)) a (BitVec.ofNat 128 w) s.mcsWords
      mcsBad := s.mcsBad.filter (fun e => e.2 != a) }
    if 0x3800 ≤ a then s.countUp MCS_STAT_CXUSED else s

end Sys2Proof.Machine
end

