-- ==== Sys2Proof/Machine/TraceOps.lean ====
section
/-!
DEFINITION. Trace packets into the FIFO of a core or of a seat's stimulus ports (R600, R601, Table DBG-4), and the
address comparators of a core (R595).
-/

namespace Sys2Proof.Machine

/-- The low `n` bytes of `v`, lowest first. -/
def bytesOf (v : Nat) : Nat → List Byte
  | 0 => []
  | n + 1 => BitVec.ofNat 8 v :: bytesOf (v / 256) n

/-- One packet that traces `seat` into a FIFO of 2 KiB; a packet that does not fit is lost, and once space returns the FIFO first
emits OVF with the number of packets lost. -/
def TraceFifo.push (f : TraceFifo) (seat : Nat) (p : List Byte) : TraceFifo :=
  let new := (if f.lost = 0 then [] else [(seat, 0x90 :: bytesOf (min f.lost 0xFFFF) 2)]) ++ [(seat, p)]
  let all := f.packets ++ new
  if (all.map (fun q => q.2.length)).sum ≤ 2048 then { f with packets := all, lost := 0, count := f.count + 1 }
  else { f with lost := f.lost + 1 }

/-- Header byte. -/
def traceHdr (kind low : Nat) : Byte := BitVec.ofNat 8 (kind * 16 + low)

/-- Pack the branch outcomes collected so far into an ATOM packet. -/
def TraceFifo.flushAtoms (f : TraceFifo) (seat : Nat) : TraceFifo :=
  if f.atoms.length = 0 then f
  else
    let v := f.atoms.foldr (fun b v => bit b + 2 * v) 0
    { f with atoms := [] }.push seat [traceHdr 0x2 (f.atoms.length - 1), BitVec.ofNat 8 v]

/-- Is the program flow of core k traced now (TRC.SCTL.FLOW of the seat it runs)? -/
def State.flowTraced (s : State) (k : CoreId) : Bool :=
  let seat := (s.core k).seatid
  decide (1 ≤ seat) && s.flag TRC_SCTL_FLOW seat

/-- Change the FIFO of core k. -/
def State.mapTrace (s : State) (k : CoreId) (f : TraceFifo → TraceFifo) : State :=
  { s with trcCore := s.trcCore.set k (f s.trcCore[k]) }

/-- A SYNC packet at enable and every 1,024 packets. -/
def traceSync (k : CoreId) (s : State) : State :=
  if s.trcCore[k].count % 1024 = 0 then
    s.mapTrace k (·.push (s.core k).seatid (traceHdr 0x1 (k.val % 16) :: BitVec.ofNat 8 (k.val / 16) ::
      bytesOf (s.get TBS_NOW_NS) 8 ++ bytesOf (s.core k).pc.toNat 6))
  else s

/-- Emit a packet of core k if its flow is traced. -/
def traceEmit (k : CoreId) (p : List Byte) (s : State) : State :=
  if s.flowTraced k then (traceSync k s).mapTrace k (fun f => (f.flushAtoms (s.core k).seatid).push (s.core k).seatid p) else s

/-- TIME, after each EXC, RETI and SEAT, with all eight bytes (log 12). -/
def traceTime (k : CoreId) (s : State) : State := traceEmit k (traceHdr 0x7 8 :: bytesOf (s.get TBS_NOW_NS) 8) s

/-- Fewest low bytes of `t` that leave the higher ones as in the previous target. -/
def targetBytes (t prev : Nat) : Nat :=
  (([1, 2, 3, 4, 5].find? (fun b => t / 2 ^ (8 * b) == prev / 2 ^ (8 * b)))).getD 6

/-- TARGET or RETI. -/
def traceTarget (k : CoreId) (kind : Nat) (t : Word64) (s : State) : State :=
  let a := t.toNat % 2 ^ 48
  let b := targetBytes a s.trcCore[k].target
  let s := traceEmit k (traceHdr kind b :: bytesOf a b) s
  if s.flowTraced k then s.mapTrace k (fun f => { f with target := a }) else s

/-- The outcome of a conditional branch; eight of them make an ATOM packet. -/
def traceAtom (k : CoreId) (taken : Bool) (s : State) : State :=
  if s.flowTraced k then
    (traceSync k s).mapTrace k (fun f =>
      let f := { f with atoms := f.atoms ++ [taken] }
      if f.atoms.length = 8 then f.flushAtoms (s.core k).seatid else f)
  else s

/-- EXC with its cause code and vector, then TIME. -/
def traceExc (k : CoreId) (code vec : Nat) (s : State) : State :=
  traceTime k (traceEmit k (traceHdr 0x4 0 :: BitVec.ofNat 8 code :: bytesOf vec 6) s)

/-- SEAT with the seat now traced, or 0, then TIME. -/
def traceSeat (k : CoreId) (seat : Nat) (s : State) : State :=
  traceTime k (traceEmit k [traceHdr 0x6 (seat % 16)] s)

/-! ### Stimulus ports -/

/-- A write to stimulus port `port` of `seat` (R601). -/
def stimWrite (seat port v : Nat) (s : State) : State :=
  if s.flag TRC_SCTL_STIM seat then
    let p := traceHdr 0x8 port :: bytesOf v 4 ++ bytesOf (s.get TBS_NOW_NS) 4
    { s with trcStim := s.trcStim.set! seat ((s.trcStim[seat]!).push seat p) }
  else s

/-- A write of TRC.SCTL: where it enables FLOW, the next packet of each core that runs the seat is a SYNC. -/
def sctlWrite (by_ seat v : Nat) (s : State) : State :=
  let t := writeFields by_ TRC_SCTL seat 0 v 0xFFFFFFFF s
  if t.flag TRC_SCTL_FLOW seat && !s.flag TRC_SCTL_FLOW seat then
    (List.finRange 32).foldl (fun u k => if (u.core k).seatid = seat then u.mapTrace k (fun f => { f with count := 0 }) else u) t
  else t

/-! ### Comparators -/

/-- Does comparator j of core k match an access of kind `kind` (0 fetch, 1 load, 2 store) to bytes lo to hi? -/
def State.cmpMatch (s : State) (k : CoreId) (j kind lo hi : Nat) : Bool :=
  let c := s.core k
  let ck := s.get DBG_CMPCTL_KIND k j
  let a := s.get DBG_CMPADDR_ADDR k j
  let range := j % 2 == 0 && s.flag DBG_CMPCTL_RANGE k j
  let viaEven := j % 2 == 1 && s.flag DBG_CMPCTL_RANGE k (j - 1)
  let kindOk := if kind = 0 then ck == 0 else ck == kind || ck == 3
  let hit :=
    if range then decide (a ≤ hi) && decide (lo ≤ s.get DBG_CMPADDR_ADDR k (j + 1))
    else if kind = 0 then lo == a
    else decide (a / 8 * 8 ≤ hi) && decide (lo < a / 8 * 8 + 8)
  s.vddDbg && s.flag DBG_CMPCTL_EN k j && !viaEven && kindOk && s.get DBG_CMPCTL_SEAT k j == c.seatid &&
    (!s.flag DBG_CMPCTL_ASIDEN k j || s.get DBG_CMPCTL_ASID k j == slice c.ptroot.toNat 48 12) &&
    hit && c.cmpSkip != some j

/-- What a comparator does to the instruction. -/
inductive CmpAct where
  | none
  | brk (j : Nat)
  | halt (j : Nat)
  deriving DecidableEq, Repr

/-- Every matching comparator raises its channel; the first with a breakpoint or halt action stops the
instruction. -/
def comparators (k : CoreId) (kind lo hi : Nat) (s : State) : CmpAct × State :=
  if !s.vddDbg then (.none, s)
  else
    let m := [0, 1, 2, 3, 4, 5, 6, 7].filter (fun j => s.cmpMatch k j kind lo hi)
    let chans := (m.filter (fun j => s.flag DBG_CMPCTL_TOEN k j)).map (fun j => s.get DBG_CMPCTL_CH k j)
    let s' := { s with channels := s.channels ++ chans }
    match m.find? (fun j => s.get DBG_CMPCTL_ACT k j == 1 || s.get DBG_CMPCTL_ACT k j == 2) with
    | some j => (if s.get DBG_CMPCTL_ACT k j == 1 then .brk j else .halt j, s')
    | none => (.none, s')

end Sys2Proof.Machine
end

