-- ==== Sys2Proof/Machine/Tokens.lean ====
section
/-!
DEFINITION. Toll Gate (R574 to R577) and the power states of cores and clusters (R564 to R568), as the operations that
WAIT, wakes and resets share.
-/

namespace Sys2Proof.Machine

/-! ### Toll Gate -/

/-- Cost of one operation of a holder (Table PWR-7). -/
def tokenCost : TokenHolder → Nat
  | .core _ => 90
  | .lane _ => 10
  | .cluster _ => 50

/-- Reserved share of a seat: none before the lock (R577), none for seat 0. -/
def State.share (s : State) (seat : Nat) : Nat := if s.dealLocked && seat != 0 then s.get PWC_TGSHARE_SHARE seat else 0
/-- The whole pool (R575). -/
def State.poolSize (s : State) : Nat := s.get PWC_TGBUDGET_TOTAL - (customerSeats.map s.share).sum
/-- Pool tokens available now; those released in this round come back at its end. -/
def State.poolFree (s : State) : Nat := s.poolSize - (s.tokens.map (·.pool)).sum - s.relPool
/-- Tokens that a seat holds from its share, requests already accepted against it and tokens not yet available again
included. -/
def State.shareHeld (s : State) (seat : Nat) : Nat :=
  ((s.tokens.filter (fun t => t.seat == seat)).map (·.share)).sum + s.relShare[seat]! +
    ((s.tokenQueue.filter (fun q => q.share && q.seat == seat)).map (·.cost)).sum
/-- Tokens held by a seat (PWC.TGSTAT.HELD). -/
def State.tokensHeld (s : State) (seat : Nat) : Nat :=
  ((s.tokens.filter (fun t => t.seat == seat)).map (fun t => t.share + t.pool)).sum
/-- Does a holder hold its tokens? -/
def State.holdsTokens (s : State) (w : TokenHolder) : Bool := s.tokens.any (fun t => t.who == w)
/-- Does a holder wait for tokens? -/
def State.waitsTokens (s : State) (w : TokenHolder) : Bool := s.tokenQueue.any (fun q => q.who.contains w)

/-- A request (R575, R576). The first component is false where it is refused. -/
def requestTokens (who : List TokenHolder) (seat : Nat) (s : State) : Bool × State :=
  let cost := (who.map tokenCost).sum
  if seat ≠ 0 && decide (cost + s.shareHeld seat ≤ s.share seat) then
    (true, { s with tokenQueue := s.tokenQueue ++ [⟨who, seat, cost, true⟩] })
  else if s.poolSize < cost then (false, if seat = 0 then s else s.put PWC_TGSTAT_REFUSED 1 seat)
  else (true, { s with tokenQueue := s.tokenQueue ++ [⟨who, seat, cost, false⟩] })

/-- May a waiting request be granted in the current slot (R575)? The share's in a slot that the seat owns, the pool's
in an open slot and in arrival order. -/
def State.grantable (s : State) (q : TokenWait) : Bool :=
  if q.share then slotKind s.curSlot == 1 && slotOwner s.curSlot == q.seat
  else slotKind s.curSlot == 0 && (s.tokenQueue.filter (fun x => !x.share)).head? == some q &&
    decide (q.cost ≤ s.poolFree)

/-- Grant a request as a whole. -/
def grantRequest (q : TokenWait) (s : State) : State :=
  { s with
    tokenQueue := s.tokenQueue.erase q
    tokens := s.tokens ++ q.who.map (fun w =>
      ⟨w, q.seat, if q.share then tokenCost w else 0, if q.share then 0 else tokenCost w⟩) }

/-- Holders give their tokens back; they are available again from the next round boundary (R575). Their waiting
requests end. -/
def releaseTokens (p : TokenHolder → Bool) (s : State) : State :=
  let out := s.tokens.filter (fun t => p t.who)
  { s with
    tokens := s.tokens.filter (fun t => !p t.who)
    tokenQueue := (s.tokenQueue.map (fun q =>
      let w := q.who.filter (fun x => !p x)
      { q with who := w, cost := (w.map tokenCost).sum })).filter (fun q => q.who.length != 0)
    relShare := out.foldl (fun v t => v.set! t.seat (v[t.seat]! + t.share)) s.relShare
    relPool := s.relPool + (out.map (·.pool)).sum }

/-- A round boundary makes released tokens available. -/
def returnTokens (s : State) : State := { s with relShare := Vector.replicate 16 0, relPool := 0 }

/-! ### Core and cluster power -/

/-- The cores that change state as one with core n (R564). -/
def State.pairOf (s : State) (n : Nat) : List Nat := if s.pairLocked (n / 2) then [n / 2 * 2, n / 2 * 2 + 1] else [n]

/-- PWC.CCTL.STATE of a core and its locked partner. -/
def State.setCState (s : State) (n st : Nat) : State := s.each (s.pairOf n) (fun m t => t.put PWC_CCTL_STATE st m)

/-- Is cluster `cl` powered? -/
def State.clusterOn (s : State) (cl : Nat) : Bool := s.bitOf PWC_DSTAT_ON (4 + cl)

/-- Power a cluster off: dirty lines go back, the L2 is empty, its tokens return (R568). -/
def clusterOff (cl : Nat) (s : State) : State :=
  let s := ((s.l2[cl]!).lines).foldl (fun t e => if e.dirty then writeBack e t else t) s
  let s := (s.mapL2 cl (fun _ => [])).putBit PWC_DSTAT_ON (4 + cl) false
  releaseTokens (fun w => w == .cluster cl) (s.putBit PWC_FIO_FIO cl false)

/-- A cluster whose four cores are in C3 powers off. -/
def clusterOffIfIdle (cl : Nat) (s : State) : State :=
  if s.clusterOn cl && [0, 1, 2, 3].all (fun i => s.cState (4 * cl + i) == 3) then clusterOff cl s else s

/-- Each seat's L2 sequence from the TRNG (R257). -/
def seedL2 (cl : Nat) (s : State) : State :=
  s.each (List.range 16) (fun seat t =>
    let (v, t) := t.drawSeed
    let l := t.l2[cl]!
    { t with l2 := t.l2.set! cl { l with lfsr := l.lfsr.set! seat v } })

/-- Power a cluster up on FIO (R568). -/
def clusterOnFio (cl : Nat) (s : State) : State :=
  raiseSrc srcPwc (seedL2 cl (((s.mapL2 cl (fun _ => [])).putBit PWC_DSTAT_ON (4 + cl) true).putBit PWC_FIO_FIO cl true))

/-- The performance counters of core n return to reset (R173, R567). -/
def resetCounters (n : Nat) (s : State) : State :=
  let s := (s.resetInst IBC_PMCTL n).resetInst IBC_PMOVF n
  s.each [0, 1, 2, 3, 4, 5] (fun j t => (t.resetInst IBC_PMEVT n j).resetInst IBC_PMCNT n j)

/-- What a core loses in C2 (R566). -/
def Core.enterC2 (c : Core) : Core :=
  { c with
    reservation := none, l1i := [], l1d := [], victim := []
    itlb := c.itlb.filter (·.pinned), dtlb := c.dtlb.filter (·.pinned), tlb2 := [], s2cache := []
    targets := [], ras := [], history := 0 }

/-- The save list of core n goes to its save area in 38 accesses of 64 bytes (R566). The spec lists the items and not
their places, so every doubleword of the area holds a free value (log 30); the core's own state stays in `State`. -/
def writeSaveArea (n : Nat) (s : State) : State :=
  s.each (List.range 304) (fun i t =>
    let (v, t) := t.draw
    t.writeMem (0x07000000 + n * 0x1000 + 8 * i) 8 v.toNat)

/-- Core k enters C1, C2 or C3 (R564 to R567). -/
def coreSleep (k : CoreId) (depth : Nat) (s : State) : State :=
  let n := k.val
  if depth = 2 && s.inRotation n then (s.setCState n 1).put PWC_CCTL_DEMOTE 1 n
  else if depth = 2 then
    releaseTokens (fun w => (s.pairOf n).any (fun m => w == .core m))
      (writeSaveArea n ((s.setCState n 2).mapCore k Core.enterC2))
  else if depth = 3 then
    let s := if (s.core k).res = 0 then s else s.put PWC_CCTL_WLOST 1 n
    let s := resetCounters n (s.setCState n 3)
    let s := s.mapCore k (fun _ => { Core.initial with run := .running })
    clusterOffIfIdle (clusterOf n) (releaseTokens (fun w => (s.pairOf n).any (fun m => w == .core m)) s)
  else s.setCState n 1

/-- A core starts as at release from reset (R126, R257, R567): Monitor level, its manifest's entry address, SEATID
from SEAT.CORE.OWNER. -/
def coreStart (k : CoreId) (s : State) : State :=
  let (v, s) := s.drawSeed
  let owner := s.coreOwner k.val
  let s := s.mapCore k (fun _ => { Core.initial with
    run := .running, pc := s.seatEntry[owner]!, seatid := owner, lfsr := v, haltReq := (s.core k).haltReq })
  traceSeat k owner (s.setCState k.val 0)

/-- Core k asks for the tokens of a wake from C2 or C3, and its cluster's where that is off (R568, R574). -/
def requestWake (k : CoreId) (s : State) : State :=
  let n := k.val
  let cl := clusterOf n
  let who := (s.pairOf n).map TokenHolder.core
  if s.waitsTokens (.core n) || s.holdsTokens (.core n) then s
  else
    let s := if s.clusterOn cl || s.waitsTokens (.cluster cl) || s.holdsTokens (.cluster cl) then s
      else (requestTokens [.cluster cl] 0 s).2
    let (ok, s) := requestTokens who (s.coreOwner n) s
    if ok then s.put PWC_CCTL_TGWAIT 1 n else s

end Sys2Proof.Machine
end

