-- ==== Sys2Proof/Machine/CoreLinks.lean ====
section
/-!
DEFINITION. What other blocks do to a core without its taking part: stopping a mismatching pair (R168), asking a core
to wake (R119, R564), and a change of performance level (R561).
-/

namespace Sys2Proof.Machine

/-- Where the oldest unretired instruction is: a REP in progress restarts at its prefix (R106). -/
def Core.oldest (c : Core) : Word64 :=
  match c.rep with
  | some r => r.prefixPc
  | none => c.pc

/-- Is core k running in C0, the trailing core of no locked pair? -/
def State.coreRuns (s : State) (k : CoreId) : Bool :=
  (s.core k).run == .running && s.cState k.val == 0 && !s.trailing k.val

/-- A detected mismatch of pair n stops both cores; LSSTAT and LSPC take the first one (R168). -/
def pairStops (n kind : Nat) (s : State) : State :=
  let lead := 2 * n
  let s := if s.flag IBC_LSSTAT_MISM lead then s
    else match s.cores[lead]? with
      | some c => ((s.put IBC_LSSTAT_MISM 1 lead).put IBC_LSSTAT_KIND kind lead).put IBC_LSPC_PC c.oldest.toNat lead
      | none => s
  s.mapCores (fun k => k.val / 2 == n) (fun c => { c with run := .stopped, load := none, fillWait := false })

/-- A core in C2 or C3 is asked to wake; a core that has not been released stays held (R27). -/
def wakeCore (k : CoreId) (s : State) : State :=
  if (s.core k).run == .running && decide (2 ≤ s.cState k.val) then requestWake k s else s

/-- A change to level `t` starts (R561, Table PWR-3). A lower core voltage is driven after the divider has changed. -/
def levelChange (t : Nat) (s : State) : State :=
  { s.put PWC_STAT_PFBUSY 1 with pfRun := t, pwrVid := if t < s.get PWC_STAT_PF then t else s.pwrVid }

/-- A write of PWC.PFCTL: TARGET starts a change, or is held while one runs. -/
def pfctlWrite (v : Nat) (s : State) : State :=
  let t := slice v 30 2
  let s := (s.put PWC_PFCTL_TARGET t).put PWC_PFCTL_VSETTLE (slice v 0 8)
  if s.flag PWC_STAT_PFBUSY then { s with pfHeld := some t } else levelChange t s

/-- A write of PWC.FIO: the named domains change to the PLL (R569). -/
def fioWrite (v : Nat) (s : State) : State := s.put PWC_FIO_FIO (s.get PWC_FIO_FIO - (s.get PWC_FIO_FIO &&& slice v 4 16))

end Sys2Proof.Machine
end

