-- ==== Sys2Proof/Machine/Translate.lean ====
section
/-!
DEFINITION. Translation: the seat table (stage 2, R222 to R226), the page tables (stage 1, R216 to R221), permissions
(R230, R240, Table XLAT-6), memory types (R227), and the TLBs (R232 to R239).
-/

namespace Sys2Proof.Machine

/-- Kind of an access. -/
inductive XKind where
  | read | write | fetch
  deriving DecidableEq, Repr

/-- A stage-2 leaf: rights, guaranteed attribute, type override, and the level of the leaf. -/
structure S2Leaf where
  r : Bool
  w : Bool
  x : Bool
  g : Bool
  tovr : Nat
  lvl : Nat
  deriving DecidableEq, Repr

/-- Answer of a walk stage: a result, a fault with level and reason, or a read that has to wait. -/
inductive WalkAns (α : Type) where
  | ok (a : α)
  | fault (lvl reason : Nat)
  | wait
  deriving DecidableEq, Repr

/-! ### Stage 2 -/

/-- A descriptor read of the seat table: memory as every agent sees it. -/
def s2Read (seat pa : Nat) (s : State) : WalkAns Nat :=
  match s.memGate seat pa with
  | .wait => .wait
  | .error => .fault 0 0x04
  | .ok =>
    if s.poisoned pa 8 then .fault 0 0x04
    else
      let line := pa / 64
      match (s.holders line).find? (fun h => match s.l2Find h.1 h.2 line with
        | some e => e.dirty
        | none => false) with
      | some h => match s.l2Find h.1 h.2 line with
        | some e => .ok (lineGet e.data (pa % 64) 8)
        | none => .ok (s.readMem pa 8)
      | none => .ok (s.readMem pa 8)

/-- Core k's walk cache holds a descriptor (Table XLAT-5). -/
def Core.s2Lookup (c : Core) (seat addr : Nat) : Option Nat :=
  (c.s2cache.find? (fun e => e.seat == seat && e.addr == addr)).map (fun e => e.desc.toNat)

/-- Install a descriptor in the walk cache of the core that walks; checkers of lanes and DMA agents keep none. -/
def s2Install (k : Option CoreId) (seat addr desc : Nat) (s : State) : State :=
  match k with
  | none => s
  | some k =>
    let c := s.core k
    if (c.s2Lookup seat addr).isSome then s
    else if c.s2cache.length < 64 then
      s.mapCore k (fun c => { c with s2cache := c.s2cache ++ [⟨seat, addr, BitVec.ofNat 64 desc⟩] })
    else
      let (i, s) := coreChoice k 64 s
      s.mapCore k (fun c => { c with s2cache := c.s2cache.eraseIdx i ++ [⟨seat, addr, BitVec.ofNat 64 desc⟩] })

/-- May a pointer to table page `page` be followed (R225)? -/
def State.inFence (s : State) (page : Nat) : Bool :=
  !s.seatLocked || (decide (s.get MMU_FBASE_PAGE ≤ page) && decide (page ≤ s.get MMU_FLIM_PAGE))

/-- Address bits that level `l` leaves to a leaf: 39, 30, 21, 12. -/
def leafBits (l : Nat) : Nat := 39 - 9 * l

/-- One level of the seat-table walk from table page `page`, with `n` levels below still allowed. -/
def s2Level (k : Option CoreId) (seat pa : Nat) : Nat → Nat → State → WalkAns S2Leaf × State
  | 0, _, s => (.fault 3 0x02, s)
  | n + 1, page, s =>
    let l := 3 - n
    if !s.inFence page then (.fault l 0x24, s)
    else
      let addr := page * 0x1000 + pa / 2 ^ leafBits l % 512 * 8
      let hit := match k with
        | some k => (s.core k).s2Lookup seat addr
        | none => none
      let ans : WalkAns Nat := match hit with
        | some d => .ok d
        | none => s2Read seat addr s
      match ans with
      | .wait => (.wait, s)
      | .fault _ r => (.fault l r, s)
      | .ok d =>
        let kind := d % 4
        let s := if kind = 1 ∨ kind = 2 then s2Install k seat addr d s else s
        if kind = 0 then (.fault l 0x01, s)
        else if kind = 3 then (.fault l 0x02, s)
        else if kind = 2 then
          if l = 3 ∨ slice d 48 16 ≠ 0 ∨ slice d 2 10 ≠ 0 then (.fault l 0x02, s)
          else s2Level k seat pa n (slice d 12 36) s
        else
          let w := slice d 3 1 == 1
          let r := slice d 2 1 == 1
          let x := slice d 4 1 == 1
          if l = 0 ∨ slice d 48 16 ≠ 0 ∨ slice d 8 4 ≠ 0 ∨ (w && !r) then (.fault l 0x02, s)
          else if slice d 12 36 * 0x1000 ≠ pa / 2 ^ leafBits l * 2 ^ leafBits l then (.fault l 0x23, s)
          else if w && x && !s.flag MMU_SEATCFG_CODEPATCH seat then (.fault l 0x26, s)
          else (.ok ⟨r, w, x, slice d 5 1 == 1, slice d 6 2, l⟩, s)

/-- The seat table of `seat` for physical address `pa`. Seat 0 has none and passes every check (R26). -/
def stage2 (k : Option CoreId) (seat pa : Nat) (s : State) : WalkAns S2Leaf × State :=
  if seat = 0 then (.ok ⟨true, true, true, false, 0, 0⟩, s)
  else if !s.flag MMU_S2ROOT_EN seat then (.fault 0 0x25, s)
  else s2Level k seat pa 4 (s.get MMU_S2ROOT_ROOT seat) s

/-- Permission of a stage-2 leaf: reason 0x20, 0x21 or 0x22 where it refuses. -/
def s2Refuses (l : S2Leaf) (a : XKind) : Option Nat :=
  match a with
  | .read => if l.r then none else some 0x20
  | .write => if l.w then none else some 0x21
  | .fetch => if l.x then none else some 0x22

/-- The checker of an agent without stage 1 (R223): none where the access passes. -/
def checkSeat (seat pa : Nat) (a : XKind) (s : State) : WalkAns S2Leaf :=
  match (stage2 none seat pa s).1 with
  | .ok l => match s2Refuses l a with
    | none => .ok l
    | some r => .fault l.lvl r
  | .fault l r => .fault l r
  | .wait => .wait

/-! ### Types -/

def typeOf (code : Nat) : MemType :=
  match code with
  | 0 => .normal
  | 1 => .nonCacheable
  | 2 => .deviceStrict
  | _ => .devicePosted
def typeCode : MemType → Nat
  | .normal => 0
  | .nonCacheable => 1
  | .deviceStrict => 2
  | .devicePosted => 3
def MemType.isDev : MemType → Bool
  | .deviceStrict | .devicePosted => true
  | _ => false

/-- The resulting type (R227): the override, else stage 1; a Normal type in device register space is Device-Strict. -/
def resultType (s1 : MemType) (tovr pa : Nat) : MemType :=
  let t := if tovr = 0 then s1 else typeOf tovr
  if isDevice pa && !t.isDev then .deviceStrict else t

/-! ### Stage 1 -/

/-- Outcome of a translation: the page, or a cause with its INFO and, for stage 2, the address checked. -/
inductive XlAns where
  | ok (e : TlbEntry)
  | fault (code info : Nat) (fpa : Option Nat)
  | wait
  deriving DecidableEq, Repr

/-- Read `n` bytes within a line through the cluster's L2, filling it (walks and engines). -/
def l2Read (k : CoreId) (seat va pa n : Nat) (s : State) : Nat × Bool × State :=
  let cl := clusterOf k.val
  let line := pa / 64
  let (held, s) := l2Fill cl seat line (va / 4096 % 4) s
  match (if held then s.l2Find cl seat line else none) with
  | some e => (lineGet e.data (pa % 64) n, e.poison &&& wordsTouched (pa % 64) n != 0, s)
  | none => (s.readMem pa n, s.poisoned pa n, s)

/-- A stage-1 table read at `pa` (R223, R229): its bytes, or a cause and INFO with bit 8 for a table read. -/
def tableRead (k : CoreId) (a : XKind) (lvl pa : Nat) (s : State) : XlAns × Nat × State :=
  let c := s.core k
  let own := if a = .fetch then 0x08 else 0x09
  let (ans, s) := stage2 (some k) c.seatid pa s
  match ans with
  | .wait => (.wait, 0, s)
  | .fault l r => (.fault 0x0B (l * 4096 + 0x100 + r) (some pa), 0, s)
  | .ok leaf =>
    match s2Refuses leaf .read with
    | some r => (.fault 0x0B (leaf.lvl * 4096 + 0x100 + r) (some pa), 0, s)
    | none =>
      let t := resultType .normal leaf.tovr pa
      if t.isDev then (.fault own (lvl * 4096 + 0x105) none, 0, s)
      else match s.memGate c.seatid pa with
        | .wait => (.wait, 0, s)
        | .error => (.fault own (lvl * 4096 + 0x104) none, 0, s)
        | .ok =>
          let (v, p, s) :=
            if c.dm then (s.readMem pa 8, s.poisoned pa 8, s)
            else if t = .normal then l2Read k c.seatid pa pa 8 s
            else let s := recallLine (pa / 64) s; (s.readMem pa 8, s.poisoned pa 8, s)
          if p then (.fault own (lvl * 4096 + 0x104) none, 0, s)
          else (.fault 0 0 none, v, s)

/-- A stage-1 leaf as a TLB entry without its stage-2 part; fault reason where it is refused (R219, R230). -/
def s1Leaf (s : State) (seat asid va l d : Nat) : WalkAns TlbEntry :=
  let ps := slice d 11 1 == 1
  let bits := if ps then 16 else leafBits l
  let w := slice d 3 1 == 1
  let kx := slice d 5 1 == 1
  let ux := slice d 4 1 == 1
  if l = 0 ∨ slice d 48 16 ≠ 0 ∨ (ps ∧ l ≠ 3) then .fault l 0x02
  else if slice d 12 36 * 0x1000 % 2 ^ bits ≠ 0 then .fault l 0x03
  else if w && (kx || ux) && !s.flag MMU_SEATCFG_CODEPATCH seat then .fault l 0x13
  else .ok {
    seat := seat, asid := asid, glob := slice d 10 1 == 1, va := va / 2 ^ bits * 2 ^ bits, bits := bits,
    pa := slice d 12 36 * 0x1000, type := typeOf (slice d 6 2), ph := slice d 8 2, g := false, kx := kx, ux := ux,
    w := w, u := slice d 2 1 == 1, s2r := false, s2w := false, s2x := false, lvl := l, lvl2 := 0, pinned := false }

/-- One level of the stage-1 walk from table page `page`. -/
def s1Level (k : CoreId) (a : XKind) (va : Nat) : Nat → Nat → State → XlAns × State
  | 0, _, s => (.wait, s)
  | n + 1, page, s =>
    let l := 3 - n
    let own := if a = .fetch then 0x08 else 0x09
    let (bad, d, s) := tableRead k a l (page * 0x1000 + va / 2 ^ leafBits l % 512 * 8) s
    if bad ≠ .fault 0 0 none then (bad, s)
    else
      let kind := d % 4
      if kind = 0 then (.fault own (l * 4096 + 0x01) none, s)
      else if kind = 3 then (.fault own (l * 4096 + 0x02) none, s)
      else if kind = 2 then
        if l = 3 ∨ slice d 48 16 ≠ 0 ∨ slice d 2 10 ≠ 0 then (.fault own (l * 4096 + 0x02) none, s)
        else s1Level k a va n (slice d 12 36) s
      else
        match s1Leaf s (s.core k).seatid (slice (s.core k).ptroot.toNat 48 12) va l d with
        | .ok e => (.ok e, s)
        | .fault l r => (.fault (if r = 0x13 then 0x0A else own) (l * 4096 + r) none, s)
        | .wait => (.wait, s)

/-- Permissions of a translated page (R240): stage 1 first, then stage 2, at physical address `pa`. -/
def permit (user kxu : Bool) (a : XKind) (e : TlbEntry) (pa : Nat) : XlAns :=
  let s1 : Option Nat := match a with
    | .fetch => if if user then e.ux else e.kx && !(kxu && e.u) then none else some 0x12
    | .read => if user && !e.u then some 0x10 else none
    | .write => if user && !e.u then some 0x10 else if e.w then none else some 0x11
  match s1 with
  | some r => .fault 0x0A (e.lvl * 4096 + r) none
  | none =>
    match s2Refuses ⟨e.s2r, e.s2w, e.s2x, e.g, 0, e.lvl2⟩ a with
    | some r => .fault 0x0B (e.lvl2 * 4096 + r) (some pa)
    | none => .ok e

/-- Physical address that an entry gives a virtual address. -/
def TlbEntry.phys (e : TlbEntry) (va : Nat) : Nat := e.pa + va % 2 ^ e.bits

/-- Does an entry serve a virtual address of the core's context (R232)? -/
def TlbEntry.serves (e : TlbEntry) (c : Core) (va : Nat) : Bool :=
  e.seat == c.seatid && (e.glob || e.asid == slice c.ptroot.toNat 48 12) && e.va == va / 2 ^ e.bits * 2 ^ e.bits

/-- Put an entry into a fully associative TLB of `cap` entries, replacing an unpinned one by the core's sequence. -/
def tlbPut (k : CoreId) (l : List TlbEntry) (cap : Nat) (e : TlbEntry) (s : State) : List TlbEntry × State :=
  let same (x : TlbEntry) : Bool := x.seat == e.seat && x.asid == e.asid && x.glob == e.glob && x.va == e.va && x.bits == e.bits
  if l.any same then (l.map (fun x => if same x then { e with pinned := x.pinned || e.pinned } else x), s)
  else if l.length < cap then (l ++ [e], s)
  else
    let free := l.filter (fun x => !x.pinned)
    if free.length = 0 then (l, s)
    else
      let (i, s) := coreChoice k free.length s
      let out := free.getD i e
      (l.erase out ++ [e], s)

/-- Set of the 8-way second-level TLB: the page number modulo 128 (log 13). -/
def tlb2Set (e : TlbEntry) : Nat := e.va / 2 ^ e.bits % 128

/-- Install a translated page in a first-level TLB. -/
def installL1Tlb (k : CoreId) (fetch : Bool) (e : TlbEntry) (s : State) : State :=
  if fetch then
    let (l, s) := tlbPut k (s.core k).itlb 32 e s
    s.mapCore k (fun c => { c with itlb := l })
  else
    let (l, s) := tlbPut k (s.core k).dtlb 48 e s
    s.mapCore k (fun c => { c with dtlb := l })

/-- Install a translated page in the second-level TLB. -/
def installTlb2 (k : CoreId) (e : TlbEntry) (s : State) : State :=
  let here := (s.core k).tlb2.filter (fun x => tlb2Set x == tlb2Set e)
  let rest := (s.core k).tlb2.filter (fun x => tlb2Set x != tlb2Set e)
  let (l, s) := tlbPut k here 8 e s
  s.mapCore k (fun c => { c with tlb2 := rest ++ l })

/-- A page with stage 1 off (R220): the identity, every right, and stage 2 for the rest. -/
def flatPage (seat va : Nat) : TlbEntry where
  seat := seat
  asid := 0
  glob := true
  va := va / 4096 * 4096
  bits := 12
  pa := va / 4096 * 4096
  type := if isDstore va || isDram va then .normal else .deviceStrict
  ph := 0
  g := false
  kx := true
  ux := true
  w := true
  u := true
  s2r := false
  s2w := false
  s2x := false
  lvl := 0
  lvl2 := 0
  pinned := false

/-- Stage 2 over a stage-1 result: the combined entry (R232). -/
def combine (k : CoreId) (va : Nat) (e : TlbEntry) (s : State) : XlAns × State :=
  let pa := e.phys va
  let (ans, s) := stage2 (some k) e.seat pa s
  match ans with
  | .wait => (.wait, s)
  | .fault l r => (.fault 0x0B (l * 4096 + r) (some pa), s)
  | .ok leaf =>
    -- the entry covers the smaller of the two pages
    let bits := min e.bits (leafBits leaf.lvl)
    (.ok { e with
      va := va / 2 ^ bits * 2 ^ bits, pa := pa / 2 ^ bits * 2 ^ bits, bits := bits, g := leaf.g,
      type := resultType e.type leaf.tovr pa, s2r := leaf.r, s2w := leaf.w, s2x := leaf.x, lvl2 := leaf.lvl }, s)

/-- PTCTL.KXU while stage 1 is on. -/
def Core.kxu (c : Core) : Bool := c.ptctl.getLsbD 0 && c.ptctl.getLsbD 1

/-- Walk both stages (R216 to R223, R233); permissions of stage 1 come before stage 2. In deterministic mode a walk
sets IBC.DMSTAT.VAR. -/
def walk (k : CoreId) (a : XKind) (va : Nat) (s : State) : XlAns × State :=
  let c := s.core k
  let s := if c.dm then s.put IBC_DMSTAT_VAR 1 k.val else s
  let en := c.ptctl.getLsbD 0
  let (r, s) :=
    if en then s1Level k a va 4 (slice c.ptroot.toNat 12 36) s else (.ok (flatPage c.seatid va), s)
  match r with
  | .ok e =>
    match permit (c.pl == 0) c.kxu a { e with s2r := true, s2w := true, s2x := true } (e.phys va) with
    | .ok _ =>
      let (r, s) := combine k va e s
      match r with
      | .ok e =>
        (.ok e, if en then installTlb2 k e (installL1Tlb k (a = .fetch) e s) else s)
      | other => (other, s)
    | other => (other, s)
  | other => (other, s)

/-- The TLB entry that serves an access, if one does: the first-level TLB, then the second (which refills the
first). With stage 1 off the TLBs serve nothing (log 14). -/
def tlbLookup (k : CoreId) (fetch : Bool) (va : Nat) (s : State) : Option TlbEntry × State :=
  let c := s.core k
  if !c.ptctl.getLsbD 0 then (none, s)
  else
    match (if fetch then c.itlb else c.dtlb).find? (fun e => e.serves c va) with
    | some e => (some e, s)
    | none =>
      match c.tlb2.find? (fun e => e.serves c va) with
      | some e => (some e, installL1Tlb k fetch { e with pinned := false } s)
      | none => (none, s)

/-- A parity error on a lookup discards the entry and counts (R235). -/
def tlbParity (k : CoreId) (fetch : Bool) (va : Nat) (s : State) : State :=
  let c := s.core k
  if c.ptctl.getLsbD 0 && ((if fetch then c.itlb else c.dtlb) ++ c.tlb2).any (fun e => e.serves c va) then
    let drop (l : List TlbEntry) := l.filter (fun e => !e.serves c va)
    (s.mapCore k (fun c =>
      if fetch then { c with itlb := drop c.itlb, tlb2 := drop c.tlb2 }
      else { c with dtlb := drop c.dtlb, tlb2 := drop c.tlb2 })).countUp MMU_ERR_CE
  else s

/-- Translate a virtual address below 2^48 for an access of core k (R240). -/
def translate (k : CoreId) (a : XKind) (va : Nat) (s : State) : XlAns × State :=
  let c := s.core k
  let (hit, s) := tlbLookup k (a = .fetch) va s
  match hit with
  | some e => (permit (c.pl == 0) c.kxu a e (e.phys va), s)
  | none =>
    let (r, s) := walk k a va s
    match r with
    | .ok e => (permit (c.pl == 0) c.kxu a e (e.phys va), s)
    | other => (other, s)

end Sys2Proof.Machine
end

