-- ==== Sys2Proof/Machine/Dma.lean ====
section
/-!
DEFINITION. Memory requests of agents outside the clusters (R18, Table DEV-8): each passes the seat table for the seat it
stamps (R223) and travels in the class of the page (R59); a best-effort request is coherent (R251), a guaranteed one
goes to its home.
-/

namespace Sys2Proof.Machine

/-- How a request of an agent ends. -/
inductive DmaAns where
  | ok (v : Nat)
  | poison
  | error
  | wait
  deriving DecidableEq, Repr

/-- The checks of a request: the class of its page (true: guaranteed), or why it is not served. -/
def dmaCheck (seat pa : Nat) (a : XKind) (s : State) : WalkAns Bool :=
  if isDevice pa then .fault 0 0
  else match checkSeat seat pa a s with
    | .wait => .wait
    | .fault l r => .fault l r
    | .ok leaf =>
      match s.memGate seat pa with
      | .wait => .wait
      | .error => .fault 0 0
      | .ok => .ok leaf.g

/-- Read `n` bytes that lie in one page. -/
def dmaRead (seat pa n : Nat) (s : State) : DmaAns × State :=
  match dmaCheck seat pa .read s with
  | .wait => (.wait, s)
  | .fault _ _ => (.error, s)
  | .ok g =>
    let s := if g then s else (cohRead seat pa n s).2
    (if s.poisoned pa n then .poison else .ok (s.readMem pa n), s)

/-- Write `n` bytes that lie in one page. -/
def dmaWrite (seat pa n v : Nat) (s : State) : DmaAns × State :=
  match dmaCheck seat pa .write s with
  | .wait => (.wait, s)
  | .fault _ _ => (.error, s)
  | .ok g =>
    if s.fenced pa n then (.error, fenceViolation seat s)
    else (.ok 0, if g then (breakReservations none (pa / 64) s).writeMem pa n v else cohWrite none pa n v s)

end Sys2Proof.Machine
end

