-- ==== Sys2Proof/Machine/LaneOps.lean ====
section
/-!
DEFINITION. What the lane instructions, lane groups and converter blocks share (R351 to R382): lane state, lane faults,
halts and starts, data memory, pointers, sync events, and the staging and landing of HRP commits.
-/

namespace Sys2Proof.Machine

/-! ### Lanes -/

/-- Lane n. -/
def State.lane (s : State) (n : Nat) : Lane := s.lanes[n]!
/-- Change lane n. -/
def State.mapLane (s : State) (n : Nat) (f : Lane → Lane) : State := { s with lanes := s.lanes.set! n (f (s.lane n)) }
/-- Group of a lane, and the lane's bit in the group. -/
def groupOf (n : Nat) : Nat := n / 16
/-- Is lane n the trailing lane of a locked pair (R374)? -/
def State.laneTrails (s : State) (n : Nat) : Bool := n % 2 == 1 && s.lanePairLocked (n / 2)
/-- The lanes that start and stop as one with lane n. -/
def State.lanePair (s : State) (n : Nat) : List Nat :=
  if s.lanePairLocked (n / 2) then [n / 2 * 2, n / 2 * 2 + 1] else [n]

/-- Lane states (LN.STAT.STATE). -/
def lsHalted : Nat := 0
def lsRunning : Nat := 1
def lsStarting : Nat := 2
def lsFault : Nat := 3
def State.laneState (s : State) (n : Nat) : Nat := s.get LN_STAT_STATE n
/-- Is lane n HALTED or in FAULT? -/
def State.laneStopped (s : State) (n : Nat) : Bool := s.laneState n == lsHalted || s.laneState n == lsFault

/-- The lane's ICU source, while IEN is 1 (R375). -/
def laneSource (n : Nat) (s : State) : State := if s.flag LN_CTL_IEN n then raiseSrc (srcLane n) s else s

/-- Staged fields of a lane are discarded (R362). -/
def dropStaged (n : Nat) (s : State) : State :=
  { s with hrp := s.hrp.map (fun p => { p with stage := p.stage.filter (fun e => e.lane != n) }) }

/-- A lane leaves RUNNING or STARTING for `st`: its tokens or its request go, and what it had staged. -/
def laneLeaves (n st : Nat) (s : State) : State :=
  let s := dropStaged n ((s.put LN_STAT_STATE st n).put LN_STAT_WAIT 0 n)
  let ls := s.lanePair n
  releaseTokens (fun w => ls.any (fun m => w == .lane m)) (s.mapLane n (fun l => { l with stepping := false }))

/-- A lane stops in FAULT with a code; FPC names the instruction at LN.PC (R378). -/
def laneStops (n code : Nat) (s : State) : State :=
  let s := laneLeaves n lsFault s
  laneSource n ((s.put LN_STAT_FCODE code n).put LN_STAT_FPC (s.get LN_PC_PC n) n)

/-- Every other running lane of the group stops with code 0x0C where GFSTOP is 1. -/
def groupFaultStop (n : Nat) (s : State) : State :=
  let g := groupOf n
  if s.flag LG_CTL_GFSTOP g then
    s.each ((List.range 16).map (· + 16 * g)) (fun m t =>
      if !(s.lanePair n).contains m && t.laneState m == lsRunning then laneStops m 0x0C t else t)
  else s

/-- A lane fault (R378). -/
def laneFault (n code : Nat) (s : State) : State :=
  groupFaultStop n (reportFault 0x10 (s.laneOwner n) n code (laneStops n code s))

/-- LN.PC is loaded from LN.ENTRY, which clears the return stack, the loop state and the latched event (R376). -/
def loadEntry (n : Nat) (s : State) : State :=
  (s.put LN_PC_PC (s.get LN_ENTRY_ADDR n) n).mapLane n (fun l => { l with ret := [], loop := none, latched := false })

/-- A lane that runs or starts is halted at its boundary (R376). -/
def laneHalt (n : Nat) (s : State) : State :=
  if s.laneState n == lsRunning || s.laneState n == lsStarting then laneLeaves n lsHalted s else s

/-! ### Starts (R377) -/

/-- Ask for the tokens of lanes that start together; a refused request leaves them HALTED (R576). -/
def startLanes (ls : List Nat) (s : State) : State :=
  match ls.filter (fun n => s.laneState n == lsHalted && !s.laneTrails n) with
  | [] => s
  | n :: rest =>
    let all := n :: rest
    let (ok, s) := requestTokens ((all.flatMap s.lanePair).map TokenHolder.lane) (s.laneOwner n) s
    if ok then s.each all (fun m t => t.put LN_STAT_STATE lsStarting m) else s

/-- A start request, held while a load of the group names one of its lanes (R381). -/
def requestStart (g : Nat) (ls : List Nat) (s : State) : State :=
  let grp := s.groups[g]!
  match grp.load with
  | some l =>
    let wait := ls.filter (fun n => l.lanes.contains n)
    let s := if wait.length = 0 then s else { s with groups := s.groups.set! g { grp with held := grp.held ++ [wait] } }
    startLanes (ls.filter (fun n => !l.lanes.contains n)) s
  | none => startLanes ls s

/-- Lanes enter RUNNING (R377). -/
def runLanes (ls : List Nat) (s : State) : State := s.each ls (fun m t => t.put LN_STAT_STATE lsRunning m)

/-! ### Data memory and pointers -/

/-- Data-memory word a. -/
def Lane.word (l : Lane) (a : Nat) : Half := cellGet (fun _ => (0 : Half)) (a % 4096) l.dm
/-- Store a data-memory word. -/
def Lane.setWord (l : Lane) (a : Nat) (x : Half) : Lane :=
  { l with dm := cellSet (fun _ => (0 : Half)) (a % 4096) x l.dm }
/-- The 32 words from `a` as one number of 64 bytes, little-endian, and such a number stored. -/
def Lane.block (l : Lane) (a : Nat) : Nat := (List.range 32).foldr (fun i acc => (l.word (a + i)).toNat + 65536 * acc) 0
def Lane.setBlock (l : Lane) (a d : Nat) : Lane :=
  (List.range 32).foldl (fun l i => l.setWord (a + i) (BitVec.ofNat 16 (d / 65536 ^ i))) l

/-- A pointer advance (R356). -/
def Lane.advance (l : Lane) (p : Fin 4) (d : Int) : Lane :=
  let len := l.len[p]
  let b := l.base[p]
  let r : Int := (l.p[p] : Int) + d
  let r := if len = 0 then r else if (b : Int) + len ≤ r then r - len else if r < b then r + len else r
  { l with p := l.p.set p (r.emod 4096).toNat }

/-- Registers; V0 reads 0 and takes nothing. -/
def Lane.reg (l : Lane) (r : Fin 32) : Half := if r = 0 then 0 else l.v[r]
def Lane.setReg (l : Lane) (r : Fin 32) (x : Half) : Lane := if r = 0 then l else { l with v := l.v.set r x }

/-! ### Sequence (R358) -/

/-- Sequential successor of the instruction at `pc`, and the loop after it: at the end of an active loop, the first
instruction of the body while iterations remain. -/
def laneSucc (l : Lane) (pc : Nat) : Nat × Option LaneLoop :=
  match l.loop with
  | some lp =>
    if pc = lp.last then
      if 1 < lp.left then (lp.first, some { lp with left := lp.left - 1 }) else ((pc + 1) % 4096, none)
    else ((pc + 1) % 4096, some lp)
  | none => ((pc + 1) % 4096, none)

/-- Lane n goes on behind the instruction at LN.PC. -/
def laneNext (n : Nat) (s : State) : State :=
  let r := laneSucc (s.lane n) (s.get LN_PC_PC n)
  (s.put LN_PC_PC r.1 n).mapLane n (fun l => { l with loop := r.2 })

/-! ### Sync events (R370, R371) -/

/-- One delivered event at one lane. -/
def eventAtLane (n : Nat) (s : State) : State :=
  if s.laneState n != lsRunning || s.laneTrails n then s
  else if s.flag LN_STAT_WAIT n then laneNext n (s.put LN_STAT_WAIT 0 n)
  else if (s.lane n).latched then
    let s := s.countUp LN_ERR_EVOVR n
    if s.flag LG_CTL_OVRF (groupOf n) then laneFault n 0x09 s else s
  else s.mapLane n (fun l => { l with latched := true })

/-- The group delivers an event to its lanes. -/
def deliverEvent (g : Nat) (s : State) : State :=
  let s := s.put LG_EVCNT_COUNT ((s.get LG_EVCNT_COUNT g + 1) % 2 ^ 32) g
  s.each ((List.range 16).map (· + 16 * g)) eventAtLane

/-- A source event at group g: one in DIV + 1 is delivered. -/
def groupEvent (g : Nat) (s : State) : State :=
  let grp := s.groups[g]!
  if s.get LG_SYNC_DIV g ≤ grp.div then deliverEvent g { s with groups := s.groups.set! g { grp with div := 0 } }
  else { s with groups := s.groups.set! g { grp with div := grp.div + 1 } }

/-- An event of a source (SRC, NUM) reaches the groups that name it. -/
def sourceEvent (src num : Nat) (s : State) : State :=
  s.each [0, 1, 2, 3] (fun g t =>
    if t.get LG_SYNC_SRC g == src && t.get LG_SYNC_NUM g == num then groupEvent g t else t)

/-! ### HRP pairs -/

def State.pair (s : State) (p : Nat) : HrpPair := s.hrp[p]!
def State.mapPair (s : State) (p : Nat) (f : HrpPair → HrpPair) : State := { s with hrp := s.hrp.set! p (f (s.pair p)) }

/-- One commit reaches the shadow of pair p: an update where it copies a field (R401). -/
def landCommit (p : Nat) (c : List (Nat × Nat)) (s : State) : State :=
  let s := c.foldl (fun t e => t.put HRP_SHD_VALUE e.2 p e.1) s
  if c.length = 0 then s else s.mapPair p (fun h => { h with updated := true })

/-- Every commit of pair p but the youngest `n` reaches the shadow. -/
def landCommits (p n : Nat) (s : State) : State :=
  let fl := (s.pair p).flight
  let k := fl.length - n
  ((fl.take k).foldl (fun t c => landCommit p c t) s).mapPair p (fun h => { h with flight := h.flight.drop k })

/-- Is the device gate active (R427, R432)? -/
def State.gateActive (s : State) : Bool := !s.flag SFI_CTL_RELEASE || s.flag SFI_STAT_DSAFE
/-- Is a seat's output held by its safe state or its reset (SEATSAFE)? -/
def State.seatHeld (s : State) (seat : Nat) : Bool := s.seatSafe seat || s.seatResetting seat

/-- The causes of R399, "not running" apart. -/
def State.safeCause (s : State) (p : Nat) : Bool :=
  s.gateActive || s.flag HRP_STAT_TRIPPED p || s.seatHeld (s.hrpOwner p) || s.flag HRP_STAT_CWDEXP p

/-- The pair drives its safe pattern; entry raises its source with IEN (HRP.CTL). -/
def driveSafe (p : Nat) (s : State) : State :=
  if s.flag HRP_STAT_SAFE p then s
  else
    let s := s.put HRP_STAT_SAFE 1 p
    if s.flag HRP_CTL_IEN p then raiseSrc (srcHrp p) s else s

end Sys2Proof.Machine
end

