-- ==== Sys2Proof/Machine/LaneCtl.lean ====
section
/-!
DEFINITION. Supervision of lanes and lane groups (R370 to R381): writes of the LG and LN registers that do something,
program loads and program-memory CRC passes, and the Toll Gate grant of a start.
-/

namespace Sys2Proof.Machine

/-! ### Who writes -/

/-- The group owner (R373): the seat that owns all 16 lanes, or seat 0. -/
def State.groupOwner (s : State) (g : Nat) : Nat :=
  let o := s.laneOwner (16 * g)
  if (List.range 16).all (fun i => s.laneOwner (16 * g + i) == o) then o else 0

/-- May seat `by_` reach the frame of a resource that `owner` owns? Welfen maps the frame into the owner only (R24). -/
def framePasses (by_ owner : Nat) : Bool := by_ == 0 || by_ == owner

/-- A write to the LG frame. A write by seat 0 counts as one on behalf of the group owner (log 37). -/
def lgWrite (by_ g : Nat) (f : Nat → State → State) (s : State) : Result :=
  let o := s.groupOwner g
  if framePasses by_ o then .next ((f o s).answer (.ok 0)) else .next (s.answer .error)

/-- A write to the LN frame of lane n. The trailing lane's frame holds no registers. -/
def lnWrite (by_ n : Nat) (f : State → State) (s : State) : Result :=
  if framePasses by_ (s.laneOwner n) then
    .next ((if s.laneTrails n then s else f s).answer (.ok 0))
  else .next (s.answer .error)

/-- The lanes that a mask of a group's lanes names. -/
def maskLanes (g mask : Nat) : List Nat := ((List.range 16).filter (fun i => mask.testBit i)).map (· + 16 * g)

/-! ### Lane groups -/

/-- KICK: an event that passes the divider unchanged. -/
def execLgKick (by_ : Seat) (g : GroupId) (s : State) : Result :=
  lgWrite by_.val g.val (fun _ s => deliverEvent g.val s) s

/-- START with the lanes of `mask`. -/
def execLgStart (by_ : Seat) (g : GroupId) (mask : BitVec 16) (s : State) : Result :=
  lgWrite by_.val g.val (fun _ s => requestStart g.val (maskLanes g.val mask.toNat) s) s

/-- LG.STOP: the named lanes halt at one boundary; a locked pair halts as one. -/
def stopLanes (g mask : Nat) (s : State) : State :=
  s.each (maskLanes g mask) (fun m t => laneHalt (if t.laneTrails m then m - 1 else m) t)

def execLgStop (by_ : Seat) (g : GroupId) (mask : BitVec 16) (s : State) : Result :=
  lgWrite by_.val g.val (fun _ s => stopLanes g.val mask.toNat s) s

/-- May a group that works for seat `seat` take its events from source (src, num) (R372)? -/
def State.syncAllowed (s : State) (seat src num : Nat) : Bool :=
  let owned (o : Nat) : Bool := seat == 0 || o == seat
  match src with
  | 0 => true
  | 1 => decide (num < 48) && owned (s.sdiOwner num)
  | 2 => decide (num < 24) && owned (s.hrpOwner num)
  | _ => decide (num < 32) && owned (s.get TBS_CCCTL_OWNER num)

/-- A write of LG.SYNC for seat `seat`: taken whole, with the divider starting anew (log 38), or refused whole. -/
def syncWrite (g seat value : Nat) (s : State) : State :=
  let src := slice value 30 2
  let num := slice value 16 6
  if s.syncAllowed seat src num then
    let s := ((s.put LG_SYNC_SRC src g).put LG_SYNC_NUM num g).put LG_SYNC_DIV (slice value 0 8) g
    { s with groups := s.groups.set! g { s.groups[g]! with div := 0 } }
  else s.put LG_STAT_SYNCERR 1 g

def execLgSyncWrite (by_ : Seat) (g : GroupId) (value : Word32) (s : State) : Result :=
  lgWrite by_.val g.val (fun o s => syncWrite g.val o value.toNat s) s

/-- A write of LG.LOAD for seat `seat` (R381). A write while a copy runs is refused as well (log 39). -/
def loadWrite (g seat value : Nat) (s : State) : State :=
  let ls := (maskLanes g (slice value 16 16)).filter (fun m => !s.laneTrails m)
  if slice value 16 16 = 0 then s
  else if s.flag LG_STAT_LDBUSY g || ls.any (fun m => !s.laneStopped m) then s.put LG_STAT_LDERR 1 g
  else
    let s := s.put LG_STAT_LDBUSY 1 g
    { s with groups := s.groups.set! g { s.groups[g]! with
        load := some ⟨ls, slice value 0 12 + 1, s.get LG_LOADSRC_ADDR g * 64, seat⟩ } }

def execLgLoad (by_ : Seat) (g : GroupId) (value : Word32) (s : State) : Result :=
  lgWrite by_.val g.val (fun o s => loadWrite g.val o value.toNat s) s

/-- A write of LG.CTL for seat `by_`: OVRF and GFSTOP, then START and KICK. -/
def lgCtlWrite (by_ g value : Nat) (s : State) : State :=
  let s := writeFields by_ LG_CTL g 0 value 0xFFFFFFFF s
  let ls := maskLanes g (slice value 0 16)
  let s := if ls.length = 0 then s else requestStart g ls s
  if slice value 16 1 = 1 then deliverEvent g s else s

/-! ### Program memory -/

/-- Program word a of lane n, and a write of it. -/
def State.pmWord (s : State) (n a : Nat) : Word32 := cellGet (fun _ => (0 : Word32)) a (s.lane n).pm
def State.setPmWord (s : State) (n a : Nat) (v : Word32) : State :=
  s.mapLane n (fun l => { l with pm := cellSet (fun _ => (0 : Word32)) a v l.pm })

/-- CRC-32C over program words 0 to k − 1 (R381). -/
def programCrc (n k : Nat) (s : State) : Nat :=
  let v := (List.range k).foldl (fun v a => crcBytes 1 v ((s.pmWord n a).zeroExtend 64) 4) (0xFFFFFFFF#64)
  ((~~~v).truncate 32).toNat

/-- Words covered by a CRC pass. -/
def State.crcWords (s : State) (n : Nat) : Nat := min 4096 (s.get LN_CRCLEN_N n)

/-- A CRC pass over program memory ends in LN.PMCRC. -/
def crcPass (n : Nat) (s : State) : State :=
  (s.put LN_PMCRC_CRC (programCrc n (s.crcWords n) s) n).put LN_CRCLEN_BUSY 0 n

/-- Words of a load, 16 to a 64-byte read, copied into the lanes. `stop`: the word at which the outside ends the copy with
an error. Answers whether all were copied; none where a read has to wait. -/
def copyWords (l : GroupLoad) (stop : Option Nat) : Nat → Nat → State → Option Bool × State
  | 0, _, s => (some true, s)
  | fuel + 1, i, s =>
    if l.count ≤ i then (some true, s)
    else if stop.any (fun w => decide (w < i + 16) && decide (w < l.count)) then (some false, s)
    else
      let (r, s) := dmaRead l.seat (l.src + 4 * i) 64 s
      match r with
      | .wait => (none, s)
      | .ok v =>
        let s := s.each ((List.range 16).filter (fun j => decide (i + j < l.count))) (fun j t =>
          t.each l.lanes (fun m u => u.setPmWord m (i + j) (BitVec.ofNat 32 (v / 2 ^ (32 * j)))))
        copyWords l stop fuel (i + 16) s
      | _ => (some false, s)

/-- The program copy of group g ends; `bad`: the word whose read is answered with an error response. -/
def execLgLoadDone (g : GroupId) (bad : Option (BitVec 12)) (s : State) : Result :=
  let g := g.val
  let grp := s.groups[g]!
  match grp.load with
  | none => .next s
  | some l =>
    let (done, t) := copyWords l (bad.map (·.toNat)) 256 0 s
    match done with
    | none => .next s
    | some ok =>
      let t := t.put LG_STAT_LDBUSY 0 g
      let t := if ok then
          t.each l.lanes (fun m t => crcPass m ((loadEntry m t).put LN_CRCLEN_N l.count m))
        else t.put LG_STAT_LDERR 1 g
      let t := { t with groups := t.groups.set! g { t.groups[g]! with load := none, held := [] } }
      .next (grp.held.foldl (fun t ls => startLanes ls t) t)

/-! ### Lanes -/

def execLnRun (by_ : Seat) (n : LaneId) (s : State) : Result :=
  lnWrite by_.val n.val (fun s => requestStart (groupOf n.val) [n.val] s) s

def execLnHaltRequest (by_ : Seat) (n : LaneId) (s : State) : Result :=
  lnWrite by_.val n.val (fun s => laneHalt n.val s) s

/-- STEP: the next instruction of the HALTED lane executes, as a command of its own. -/
def stepLane (n : Nat) (s : State) : State :=
  if s.laneState n == lsHalted then s.mapLane n (fun l => { l with stepping := true }) else s

def execLnStep (by_ : Seat) (n : LaneId) (s : State) : Result := lnWrite by_.val n.val (stepLane n.val) s

/-- CLRF: FAULT to HALTED. -/
def clearLaneFault (n : Nat) (s : State) : State :=
  if s.laneState n == lsFault then
    loadEntry n (((s.put LN_STAT_STATE lsHalted n).put LN_STAT_FCODE 0 n).put LN_STAT_FPC 0 n)
  else s

def execLnClrf (by_ : Seat) (n : LaneId) (s : State) : Result := lnWrite by_.val n.val (clearLaneFault n.val) s

/-- A write of LN.ENTRY. -/
def entryWrite (n value : Nat) (s : State) : State :=
  let s := s.put LN_ENTRY_ADDR (slice value 0 12) n
  if s.laneStopped n then loadEntry n s else s

def execLnEntryWrite (by_ : Seat) (n : LaneId) (value : Word32) (s : State) : Result :=
  lnWrite by_.val n.val (entryWrite n.val value.toNat) s

/-- A supervisor write of program word `a` (R380). -/
def programWrite (n a value : Nat) (s : State) : State :=
  if s.laneStopped n then s.setPmWord n (a % 4096) (BitVec.ofNat 32 value) else s.put LN_STAT_PMWERR 1 n

/-- While the memories are being zeroed, the access waits (R382). -/
def execLnProgramWrite (by_ : Seat) (n : LaneId) (a : BitVec 12) (value : Word32) (s : State) : Result :=
  if (s.lane n.val).zeroing then .next s else lnWrite by_.val n.val (programWrite n.val a.toNat value.toNat) s

/-- A write of LN.CRCLEN starts a pass; 0 does nothing. -/
def crclenWrite (n value : Nat) (s : State) : State :=
  let s := s.put LN_CRCLEN_N (slice value 0 13) n
  if slice value 0 13 = 0 then s else s.put LN_CRCLEN_BUSY 1 n

def execLnCrclenWrite (by_ : Seat) (n : LaneId) (value : Word32) (s : State) : Result :=
  lnWrite by_.val n.val (crclenWrite n.val value.toNat) s

/-- A CRC pass ends; `corrected`: the single-bit errors that it met and corrected (R379). -/
def execLnCrcDone (n : LaneId) (corrected : BitVec 8) (s : State) : Result :=
  if s.flag LN_CRCLEN_BUSY n.val then
    .next (crcPass n.val (s.put LN_ERR_CEPM (satAdd (s.get LN_ERR_CEPM n.val) corrected.toNat 255) n.val))
  else .next s

/-- Toll Gate grants the start request of lane n in a slot that serves it, and the lanes that start together enter
RUNNING in the lane cycle after it (R377). -/
def execLaneStartGrant (n : LaneId) (s : State) : Result :=
  let m := n.val
  if s.laneState m != lsStarting then .next s
  else
    let s := match s.tokenQueue.find? (fun q => q.who.contains (.lane m)) with
      | some q => if s.grantable q then grantRequest q s else s
      | none => s
    .next (runLanes (((List.range 16).map (· + 16 * groupOf m)).filter (fun k =>
      s.laneState k == lsStarting && s.holdsTokens (.lane k))) s)

end Sys2Proof.Machine
end

