-- ==== Sys2Proof/Machine/Conv.lean ====
section
/-!
DEFINITION. Converter I/O (R383 to R404): the sigma-delta channels with their filters, fast trip and bitstream errors, and
the PWM pairs with their boundaries, limits, safe pattern, commit watchdog and readback.
-/

namespace Sys2Proof.Machine

/-! ### Filters -/

/-- Moving sums of `w` over samples, newest first; what lies before the oldest counts as 0. -/
def movingSums (w : Nat) (l : List Int) : List Int :=
  -- sums from each sample to the oldest
  let tails := l.foldr (fun x acc => (x + acc.headD 0) :: acc) []
  tails.zipWith (· - ·) (tails.drop w ++ List.replicate w 0)

/-- Moving sums applied `k` times (R385, R388). -/
def cascade (w : Nat) : Nat → List Int → List Int
  | 0, l => l
  | k + 1, l => cascade w k (movingSums w l)

/-- A sampled 1 is +1, a sampled 0 is −1 (R384). -/
def sampleValues (bits : List Bool) : List Int := bits.map (fun b => if b then 1 else -1)

/-- Decimation R and order K of a channel (SDI.CTL), window W and confirming samples N of its fast filter (SDI.FT). -/
def State.sdiR (s : State) (ch : Nat) : Nat := max 7 (s.get SDI_CTL_DEC ch) + 1
def State.sdiK (s : State) (ch : Nat) : Nat := s.get SDI_CTL_ORD ch
def State.ftW (s : State) (ch : Nat) : Nat := max 3 (s.get SDI_FT_WIN ch) + 1
def State.ftK (s : State) (ch : Nat) : Nat := s.get SDI_FT_FORD ch + 1
def State.ftN (s : State) (ch : Nat) : Nat := max 1 (s.get SDI_FT_N ch)

/-- The scaled result of a filter output (R385), before saturation. -/
def sdiScaled (d : Int) (gain shift : Nat) : Int :=
  let sh := min 47 shift
  if sh = 0 then d * gain else (d * gain + 2 ^ (sh - 1)).shiftRight sh

/-- Does a channel sample? -/
def State.sdiRuns (s : State) (ch : Nat) : Bool :=
  s.device == .on && s.flag SDI_CTL_EN ch && s.flag SDI_MCLK_EN (s.get SDI_CTL_GEN ch)

/-! ### Generator and channel registers -/

/-- A write to an SDI channel page or an HRP pair page, which Welfen maps into the owner. -/
def pageWrite (by_ owner : Nat) (f : State → State) (s : State) : Result :=
  if framePasses by_ owner then .next ((f s).answer (.ok 0)) else .next (s.answer .error)

/-- A write of SDI.MCLK; the common page is read-only for customer seats. A filter that restarts keeps SEQ, and its next
result needs a window of samples taken since (`execSdiResult`). -/
def execMclkWrite (by_ : Seat) (g : Fin 8) (value : Word32) (s : State) : Result :=
  pageWrite by_.val 0 (writeFields by_.val SDI_MCLK g.val 0 value.toNat 0xFFFFFFFF) s

/-- A write of SDI.CTL. -/
def execSdiCtlWrite (by_ : Seat) (ch : Fin 48) (value : Word32) (s : State) : Result :=
  pageWrite by_.val (s.sdiOwner ch.val) (writeFields by_.val SDI_CTL ch.val 0 value.toNat 0xFFFFFFFF) s

/-- A write of SDI.FT: a change of WIN or FORD empties the fast filter. -/
def ftWrite (by_ ch value : Nat) (s : State) : State :=
  let t := writeFields by_ SDI_FT ch 0 value 0xFFFFFFFF s
  if t.get SDI_FT_WIN ch = s.get SDI_FT_WIN ch ∧ t.get SDI_FT_FORD ch = s.get SDI_FT_FORD ch then t
  else t.put SDI_FTVAL_VALUE 0 ch

def execSdiFtWrite (by_ : Seat) (ch : Fin 48) (value : Word32) (s : State) : Result :=
  pageWrite by_.val (s.sdiOwner ch.val) (ftWrite by_.val ch.val value.toNat) s

/-! ### Results, trips and bitstream errors -/

/-- FTVAL takes the newest value of the fast filter over `bits`, where they fill its window. -/
def fastValue (ch : Nat) (bits : List Bool) (s : State) : State :=
  let w := s.ftW ch
  let k := s.ftK ch
  if k * (w - 1) < bits.length then
    s.put SDI_FTVAL_VALUE (BitVec.ofInt 16 ((cascade w k (sampleValues bits)).headD 0)).toNat ch
  else s

/-- A result becomes readable (R385, R386, R370): its value, SEQ, saturation, the lanes' NEW bits, the source. -/
def deliverResult (ch : Nat) (d : Int) (s : State) : State :=
  let x := sdiScaled d (s.get SDI_SCALE_GAIN ch) (s.get SDI_SCALE_SHIFT ch)
  let hi := decide (32767 < x)
  let sat := hi || decide (x < -32768)
  let y : Int := if hi then 32767 else if x < -32768 then -32768 else x
  let s := (s.put SDI_RES_VALUE (BitVec.ofInt 16 y).toNat ch).put SDI_RES_SEQ ((s.get SDI_RES_SEQ ch + 1) % 2 ^ 16) ch
  let one : BitVec 48 := 1#48 <<< ch
  let s := { s with
    sdiSat := if sat then s.sdiSat ||| one else s.sdiSat &&& ~~~one
    lanes := s.lanes.map (fun l => { l with unread := l.unread ||| one }) }
  let s := if sat then s.put SDI_STAT_OVR 1 ch else s
  let s := if s.flag SDI_CTL_RIEN ch then raiseSrc (srcSdi ch) s else s
  sourceEvent 1 ch s

/-- Channel ch completes a window; `bits`: its last K x R samples, newest first, all taken since the filter started. -/
def execSdiResult (ch : Fin 48) (bits : List Bool) (s : State) : Result :=
  let c := ch.val
  let r := s.sdiR c
  let k := s.sdiK c
  if s.sdiRuns c && decide (bits.length = k * r) then
    .next (deliverResult c ((cascade r k (sampleValues bits)).headD 0) (fastValue c bits s))
  else .next s

/-- A channel trips (R389). -/
def tripChannel (ch : Nat) (s : State) : State :=
  if s.flag SDI_STAT_TRIP ch then s
  else
    let s := s.put SDI_STAT_TRIP 1 ch
    let s := s.each ((List.range 24).filter (fun p => s.bitOf SDI_TRIPMASK_PAIRS p ch)) (fun p t =>
      driveSafe p (t.put HRP_STAT_TRIPPED 1 p))
    let s := if s.flag SDI_CTL_EIEN ch then raiseSrc (srcSdi ch) s else s
    reportFault 0x11 (s.sdiOwner ch) ch 0 s

/-- Is a fast-filter value beyond a threshold? -/
def State.beyond (s : State) (ch : Nat) (v : Int) : Bool :=
  decide ((BitVec.ofNat 16 (s.get SDI_FTHR_THI ch)).toInt < v) || decide (v < (BitVec.ofNat 16 (s.get SDI_FTHR_TLO ch)).toInt)

/-- The fast filter of channel ch lies beyond a threshold for N samples; `bits`: the samples since the filter was last
empty, or enough of the last ones to fill it N times, newest first. Samples that no command brings change no register. -/
def execSdiTrip (ch : Fin 48) (bits : List Bool) (s : State) : Result :=
  let c := ch.val
  let w := s.ftW c
  let n := s.ftN c
  let vals := cascade w (s.ftK c) (sampleValues bits)
  if s.sdiRuns c && s.flag SDI_FT_FEN c && decide (w + n - 1 ≤ bits.length) && (vals.take n).all (s.beyond c) then
    .next (tripChannel c (s.put SDI_FTVAL_VALUE (BitVec.ofInt 16 (vals.headD 0)).toNat c))
  else .next s

/-- Can an error of a kind exist on channel ch (R392)? -/
def State.bsPossible (s : State) (ch kind : Nat) : Bool :=
  s.device == .on && s.flag SDI_CTL_EN ch &&
    match kind with
    | 1 => s.sdiRuns ch && s.get SDI_BSCHK_STUCK ch != 0
    | 2 => s.sdiRuns ch
    | 3 => !s.flag SDI_MCLK_EN (s.get SDI_CTL_GEN ch)
    | _ => false

/-- A bitstream error of channel ch is found. -/
def execSdiBitstreamError (ch : Fin 48) (kind : Fin 4) (s : State) : Result :=
  let c := ch.val
  if s.bsPossible c kind.val then
    let s := if kind.val = 2 then s.putBit SDI_GSTAT_CLKERR (s.get SDI_CTL_GEN c) true else s
    if s.flag SDI_STAT_BSERR c then .next s
    else
      let s := (s.put SDI_STAT_BSERR 1 c).put SDI_STAT_BSKIND kind.val c
      let s := if s.flag SDI_CTL_EIEN c then raiseSrc (srcSdi c) s else s
      let s := reportFault 0x12 (s.sdiOwner c) c kind.val s
      .next (if s.flag SDI_FT_BSTRIP c then tripChannel c s else s)
  else .next s

/-- A write of SDI.STAT: 1 clears TRIP, BSERR (with the kind that it names, log 40) and OVR. -/
def sdiStatWrite (by_ ch value : Nat) (s : State) : State :=
  let t := writeFields by_ SDI_STAT ch 0 value 0xFFFFFFFF s
  if t.flag SDI_STAT_BSERR ch then t else t.put SDI_STAT_BSKIND 0 ch

def execSdiTripClear (by_ : Seat) (ch : Fin 48) (value : Word32) (s : State) : Result :=
  pageWrite by_.val (s.sdiOwner ch.val) (sdiStatWrite by_.val ch.val value.toNat) s

/-- TRIPMASK bits for pairs of another seat are not written (R390). -/
def tripmaskWrite (by_ ch value : Nat) (s : State) : State :=
  let own := ((List.range 24).map (fun p => bit (s.hrpOwner p == s.sdiOwner ch) * 2 ^ p)).sum
  writeFields by_ SDI_TRIPMASK ch 0 (value &&& own) 0xFFFFFFFF s

/-! ### The commanded signal -/

/-- R394: the commanded signal at counter position t. -/
def hrpCommand (duty phase period t : Nat) : Bool := decide ((t + period - phase % period) % period < duty)

/-- The commanded signal of pair p with its active values. -/
def State.commanded (s : State) (p t : Nat) : Bool :=
  hrpCommand (s.get HRP_ACT_VALUE p 0) (s.get HRP_ACT_VALUE p 1) (s.get HRP_ACT_PERIOD_VALUE p) t

/-! ### Boundaries and starts -/

/-- Table CIO-3: the limited values of DUTY, PHASE, DEAD and PERIOD, and whether a limit sets CLAMP. -/
def limitFields (duty phase dead period : Nat) : (Nat × Nat × Nat × Nat) × Bool :=
  let per := max 960 (min 268435455 period)
  let ph := if phase < per then phase else 0
  let dd := min 16320 dead
  ((min duty per, ph, dd, per), per != period || ph != phase || dd != dead)

/-- The shadow transfer of a boundary or a start, unless HOLD is 1. -/
def shadowTransfer (p : Nat) (s : State) : State :=
  if s.flag HRP_CTL_HOLD p then s
  else
    let ((du, ph, de, pe), c) := limitFields (s.get HRP_SHD_VALUE p 0) (s.get HRP_SHD_VALUE p 1)
      (s.get HRP_SHD_VALUE p 2) (s.get HRP_SHD_PERIOD_VALUE p)
    let s := (((s.put HRP_ACT_VALUE du p 0).put HRP_ACT_VALUE ph p 1).put HRP_ACT_VALUE de p 2).put HRP_ACT_PERIOD_VALUE pe p
    if c then s.put HRP_STAT_CLAMP 1 p else s

/-- The pair leaves the safe pattern where no cause holds (R400). -/
def leaveSafe (p : Nat) (s : State) : State := if s.safeCause p then s else s.put HRP_STAT_SAFE 0 p

/-- A pair starts (R397): transfer and sync event, and a commit watchdog that counts from 0 (R401). -/
def startPair (p : Nat) (s : State) : State :=
  let s := sourceEvent 2 p (shadowTransfer p (landCommits p 0 s))
  leaveSafe p ((s.put HRP_STAT_RUNNING 1 p).mapPair p (fun h => { h with updated := false, since := 0 }))

/-- Does pair q wait for pair m to start, or for a boundary of it? -/
def State.waitsMaster (s : State) (q m : Nat) : Bool :=
  s.flag HRP_CTL_RUN q && !s.flag HRP_STAT_RUNNING q && s.get HRP_CTL_STSRC q == 1 && s.get HRP_CTL_MASTER q == m

/-- Pairs start together with the pairs of `ms`, and those that wait for them. -/
def startSlaves : Nat → List Nat → State → State
  | 0, _, s => s
  | fuel + 1, ms, s =>
    match (List.range 24).filter (fun q => ms.any (fun m => s.waitsMaster q m)) with
    | [] => s
    | qs => startSlaves fuel qs (s.each qs startPair)

/-- A pair starts, and the pairs that name it their master. -/
def startWithSlaves (p : Nat) (s : State) : State := startSlaves 24 [p] (startPair p s)

/-- The commit watchdog at a boundary (R401). A pair whose watchdog expires counts anew (log 41). -/
def countBoundary (p : Nat) (s : State) : State :=
  let h := s.pair p
  let n := s.get HRP_CTL_CWD p
  if h.updated || n = 0 then s.mapPair p (fun h => { h with updated := false, since := 0 })
  else if n ≤ h.since + 1 then
    driveSafe p ((s.put HRP_STAT_CWDEXP 1 p).mapPair p (fun h => { h with since := 0 }))
  else s.mapPair p (fun h => { h with since := h.since + 1 })

/-- A boundary of a running pair: the youngest `inFlight` commits have not reached the shadow before its lane cycle (R362). -/
def pairBoundary (p inFlight : Nat) (s : State) : State :=
  let s := countBoundary p (shadowTransfer p (landCommits p inFlight s))
  let s := sourceEvent 2 p s
  let s := if s.flag HRP_CTL_RUN p then leaveSafe p s else driveSafe p (s.put HRP_STAT_RUNNING 0 p)
  startSlaves 24 [p] s

def execHrpBoundary (pr : Fin 24) (inFlight : Fin 4) (s : State) : Result :=
  if s.device == .on && s.flag HRP_STAT_RUNNING pr.val then .next (pairBoundary pr.val inFlight.val s) else .next s

/-- A pair with STSRC = 0b00 starts after the write of RUN; the other sources start it at their own events. -/
def execHrpStart (pr : Fin 24) (s : State) : Result :=
  let p := pr.val
  if s.device == .on && s.flag HRP_CTL_RUN p && !s.flag HRP_STAT_RUNNING p && s.get HRP_CTL_STSRC p == 0 then
    .next (startWithSlaves p s)
  else .next s

/-- The boundary at which the commit watchdog expires. -/
def execHrpCwdExpiry (pr : Fin 24) (inFlight : Fin 4) (s : State) : Result :=
  let p := pr.val
  let t := landCommits p inFlight.val s
  let n := s.get HRP_CTL_CWD p
  if s.device == .on && s.flag HRP_STAT_RUNNING p && n != 0 && !(t.pair p).updated && decide (n ≤ (t.pair p).since + 1) then
    .next (pairBoundary p inFlight.val s)
  else .next s

/-! ### Register writes -/

/-- A core write of shadow field `f` of pair p. `same`: a commit with the field reaches the shadow in its lane cycle. -/
def shadowWrite (p f value inFlight : Nat) (same : Bool) (s : State) : State :=
  let s := landCommits p inFlight s
  if same then s.put HRP_STAT_WCOLL 1 p
  else (s.put HRP_SHD_VALUE value p f).mapPair p (fun h => { h with updated := true })

def execHrpShadowWrite (by_ : Seat) (pr : Fin 24) (fld : Fin 4) (value : Word32) (inFlight : Fin 4) (same : Bool)
    (s : State) : Result :=
  pageWrite by_.val (s.hrpOwner pr.val) (shadowWrite pr.val fld.val value.toNat inFlight.val same) s

/-- A write of HRP.STAT: TRIPPED stays while a channel that names the pair is tripped (R400). -/
def hrpStatWrite (by_ p value : Nat) (s : State) : State :=
  let held := (List.range 48).any (fun ch => s.flag SDI_STAT_TRIP ch && s.bitOf SDI_TRIPMASK_PAIRS p ch)
  writeFields by_ HRP_STAT p 0 (if held then value - (value &&& 2 ^ 29) else value) 0xFFFFFFFF s

def execHrpTrippedClear (by_ : Seat) (pr : Fin 24) (value : Word32) (s : State) : Result :=
  pageWrite by_.val (s.hrpOwner pr.val) (hrpStatWrite by_.val pr.val value.toNat) s

/-- A write of HRP.CTL: a MASTER or TBSU that R397 refuses, and safe levels that would both be high (R398), leave their
fields as they were. -/
def hrpCtlWrite (by_ p value : Nat) (s : State) : State :=
  let owner := s.hrpOwner p
  let old := s.reg HRP_CTL p
  let m := slice value 23 5
  let u := slice value 18 5
  let v := if m = p || 24 ≤ m || s.hrpOwner m != owner then withSlice value 23 5 (slice old 23 5) else value
  let v := if owner ≠ 0 && s.get TBS_CCCTL_OWNER u != owner then withSlice v 18 5 (slice old 18 5) else v
  let t := writeFields by_ HRP_CTL p 0 v 0xFFFFFFFF s
  if t.get HRP_CTL_SAFEH p = 1 ∧ t.get HRP_CTL_SAFEL p = 1 then
    (t.put HRP_CTL_SAFEH (slice old 2 2) p).put HRP_CTL_SAFEL (slice old 0 2) p
  else t

/-! ### Readback -/

/-- The ball of output `low` (0 H, 1 L) of a pair differs from its command for 96 compared lane cycles (R403). An output
commanded to high impedance is not compared. -/
def execHrpReadbackMismatch (pr : Fin 24) (low : Bool) (s : State) : Result :=
  let p := pr.val
  let lvl := if low then s.get HRP_CTL_SAFEL p else s.get HRP_CTL_SAFEH p
  if s.device == .on && s.flag HRP_CTL_RBEN p && !(s.flag HRP_STAT_SAFE p && lvl == 2) then
    let s := if s.flag HRP_STAT_RBERR p then s else (s.put HRP_STAT_RBERR 1 p).put HRP_STAT_RBOUT (bit low) p
    let s := if s.flag HRP_CTL_IEN p then raiseSrc (srcHrp p) s else s
    .next (reportFault 0x13 (s.hrpOwner p) p (bit low) s)
  else .next s

end Sys2Proof.Machine
end

