-- ==== Sys2Proof/Machine/LaneInstr.lean ====
section
/-!
DEFINITION. The instructions of a control lane (R353 to R379): one meaning each over a shared issue, which checks that the
lane executes, counts and refuses program-memory errors, refuses illegal words, and moves LN.PC and the hardware loop on.
-/

namespace Sys2Proof.Machine

/-! ### Issue -/

/-- How a lane instruction ends: at its sequential successor, at a target of its own (a taken B cancels a loop that it
leaves), without moving LN.PC, or in a lane fault, before any effect. -/
inductive LaneAct where
  | next (s : State)
  | goto (t : Nat) (cancels : Bool) (s : State)
  | stay (s : State)
  | fault (code : Nat) (s : State)

/-- Does lane n execute: RUNNING and not waiting, or HALTED with a STEP asked for (Table LANE-5)? The trailing lane of a
locked pair executes with its leader. -/
def State.laneMay (s : State) (n : Nat) : Bool :=
  s.device == .on && !s.laneTrails n &&
    ((s.laneState n == lsRunning && !s.flag LN_STAT_WAIT n) || (s.laneState n == lsHalted && (s.lane n).stepping))

/-- The lane cycle that an instruction executes in: that of the lane instruction before it, or a new one. -/
def laneCycle (i : LIssue) (s : State) : State :=
  if i.same && !s.laneRan.contains i.lane.val then { s with laneRan := i.lane.val :: s.laneRan }
  else { s with laneRan := [i.lane.val], laneDeeds := [] }

/-- Control goes to `t`; a taken B whose target lies outside the body cancels the loop (R358). -/
def laneGoto (n t : Nat) (cancels : Bool) (s : State) : State :=
  let lp := (laneSucc (s.lane n) (s.get LN_PC_PC n)).2
  let lp := match lp with
    | some l => if cancels && !(decide (l.first ≤ t) && decide (t ≤ l.last)) then none else some l
    | none => none
  (s.put LN_PC_PC t n).mapLane n (fun x => { x with loop := lp })

/-- One instruction of a lane. -/
def laneIssue (i : LIssue) (legal : Bool) (f : State → LaneAct) (s : State) : Result :=
  let n := i.lane.val
  if !s.laneMay n then .next s
  else
    let s := laneCycle i s
    let s := if i.pm = .single then s.countUp LN_ERR_CEPM n else s
    if i.pm = .double then .next (laneFault n 0x02 s)
    else if i.junk || !legal then .next (laneFault n 0x01 s)
    else
      match f s with
      | .next s => .next ((laneNext n s).mapLane n (fun l => { l with stepping := false }))
      | .goto t c s => .next ((laneGoto n t c s).mapLane n (fun l => { l with stepping := false }))
      | .stay s => .next (s.mapLane n (fun l => { l with stepping := false }))
      | .fault code s => .next (laneFault n code s)

/-- An instruction that changes only the lane's own registers, and whether it saturates or clamps (R355). -/
def laneLocal (i : LIssue) (legal : Bool) (f : Lane → Lane × Bool) (s : State) : Result :=
  laneIssue i legal (fun s =>
    let n := i.lane.val
    let (l, sat) := f (s.lane n)
    let s := s.mapLane n (fun _ => l)
    .next (if sat then s.put LN_STAT_S 1 n else s)) s

/-! ### Arithmetic -/

/-- A value limited to `w` bits, two's complement, and whether it was limited. -/
def satInt (w : Nat) (x : Int) : Int × Bool :=
  let hi : Int := 2 ^ (w - 1) - 1
  let lo : Int := -2 ^ (w - 1)
  if hi < x then (hi, true) else if x < lo then (lo, true) else (x, false)

/-- Does an exact 16-bit sum or difference overflow? -/
def overflow16 (x : Int) : Bool := (satInt 16 x).2

/-- Z, N and V from a result (R355). -/
def Lane.flags (l : Lane) (r : Half) (v : Bool) : Lane := { l with z := r == 0, n := r.msb, o := v }

/-- A result with its flags: Vd ← r. -/
def Lane.result (l : Lane) (d : Fin 32) (r : Half) (v : Bool) : Lane := (l.flags r v).setReg d r

/-- An accumulator takes an exact value (R355). -/
def Lane.accPut (l : Lane) (acc : Fin 4) (x : Int) : Lane × Bool :=
  let (y, sat) := satInt 40 x
  ({ l with ac := l.ac.set acc (BitVec.ofInt 40 y) }, sat)

/-- Signed values of a register, an accumulator and a data-memory word. -/
def Lane.regI (l : Lane) (r : Fin 32) : Int := (l.reg r).toInt
def Lane.accI (l : Lane) (a : Fin 4) : Int := l.ac[a].toInt
def Lane.wordI (l : Lane) (a : Nat) : Int := (l.word a).toInt

/-- ALU operation of two registers: the result, V, and whether it saturated. -/
def laneAlu (i : LIssue) (d a b : Fin 32) (f : Half → Half → Half × Bool × Bool) (s : State) : Result :=
  laneLocal i true (fun l =>
    let (r, v, sat) := f (l.reg a) (l.reg b)
    (l.result d r v, sat)) s

/-- The wrapping and the saturating form of an exact result. -/
def wrap16 (x : Int) : Half × Bool × Bool := (BitVec.ofInt 16 x, overflow16 x, false)
def clip16 (x : Int) : Half × Bool × Bool :=
  let (y, sat) := satInt 16 x
  (BitVec.ofInt 16 y, sat, sat)
/-- A result that clears V. -/
def plain16 (r : Half) : Half × Bool × Bool := (r, false, false)
/-- A saturating result that clears V (ABS, NEG). -/
def clipNoV (x : Int) : Half × Bool × Bool :=
  let (y, sat) := satInt 16 x
  (BitVec.ofInt 16 y, false, sat)

def execLaneNop (i : LIssue) (s : State) : Result := laneIssue i true (fun s => .next s) s
def execLaneAdd (i : LIssue) (d a b : Fin 32) (s : State) : Result :=
  laneAlu i d a b (fun x y => wrap16 (x.toInt + y.toInt)) s
def execLaneSub (i : LIssue) (d a b : Fin 32) (s : State) : Result :=
  laneAlu i d a b (fun x y => wrap16 (x.toInt - y.toInt)) s
def execLaneAdds (i : LIssue) (d a b : Fin 32) (s : State) : Result :=
  laneAlu i d a b (fun x y => clip16 (x.toInt + y.toInt)) s
def execLaneSubs (i : LIssue) (d a b : Fin 32) (s : State) : Result :=
  laneAlu i d a b (fun x y => clip16 (x.toInt - y.toInt)) s
def execLaneAnd (i : LIssue) (d a b : Fin 32) (s : State) : Result := laneAlu i d a b (fun x y => plain16 (x &&& y)) s
def execLaneOr (i : LIssue) (d a b : Fin 32) (s : State) : Result := laneAlu i d a b (fun x y => plain16 (x ||| y)) s
def execLaneXor (i : LIssue) (d a b : Fin 32) (s : State) : Result := laneAlu i d a b (fun x y => plain16 (x ^^^ y)) s
def execLaneShl (i : LIssue) (d a b : Fin 32) (s : State) : Result :=
  laneAlu i d a b (fun x y => plain16 (x <<< (y.toNat % 16))) s
def execLaneShr (i : LIssue) (d a b : Fin 32) (s : State) : Result :=
  laneAlu i d a b (fun x y => plain16 (x >>> (y.toNat % 16))) s
def execLaneSra (i : LIssue) (d a b : Fin 32) (s : State) : Result :=
  laneAlu i d a b (fun x y => plain16 (x.sshiftRight (y.toNat % 16))) s
def execLaneMin (i : LIssue) (d a b : Fin 32) (s : State) : Result :=
  laneAlu i d a b (fun x y => plain16 (if x.slt y then x else y)) s
def execLaneMax (i : LIssue) (d a b : Fin 32) (s : State) : Result :=
  laneAlu i d a b (fun x y => plain16 (if x.slt y then y else x)) s
def execLaneAbs (i : LIssue) (d a : Fin 32) (s : State) : Result :=
  laneAlu i d a 0 (fun x _ => clipNoV (if x.toInt < 0 then -x.toInt else x.toInt)) s
def execLaneNeg (i : LIssue) (d a : Fin 32) (s : State) : Result := laneAlu i d a 0 (fun x _ => clipNoV (-x.toInt)) s
def execLaneMov (i : LIssue) (d a : Fin 32) (s : State) : Result := laneAlu i d a 0 (fun x _ => plain16 x) s
def execLaneCmp (i : LIssue) (a b : Fin 32) (s : State) : Result :=
  laneLocal i true (fun l => (l.flags (l.reg a - l.reg b) (overflow16 (l.regI a - l.regI b)), false)) s
/-- CLRS clears the sticky flag and changes no other. -/
def execLaneClrs (i : LIssue) (s : State) : Result :=
  laneIssue i true (fun s => .next (s.put LN_STAT_S 0 i.lane.val)) s
def execLaneAddi (i : LIssue) (d a : Fin 32) (imm : BitVec 16) (s : State) : Result :=
  laneLocal i true (fun l => (l.result d (l.reg a + imm) (overflow16 (l.regI a + imm.toInt)), false)) s
def execLaneLdi (i : LIssue) (d : Fin 32) (imm : BitVec 16) (s : State) : Result :=
  laneLocal i true (fun l => (l.setReg d imm, false)) s
def execLaneAndi (i : LIssue) (d a : Fin 32) (imm : BitVec 16) (s : State) : Result :=
  laneLocal i true (fun l => (l.result d (l.reg a &&& imm) false, false)) s
def execLaneCmpi (i : LIssue) (a : Fin 32) (imm : BitVec 16) (s : State) : Result :=
  laneLocal i true (fun l => (l.flags (l.reg a - imm) (overflow16 (l.regI a - imm.toInt)), false)) s
/-- k = 0b11 is reserved. -/
def execLaneShi (i : LIssue) (d a : Fin 32) (k : Fin 4) (amt : Fin 16) (s : State) : Result :=
  laneLocal i (k.val ≠ 3) (fun l =>
    let x := l.reg a
    let r := match k.val with
      | 0 => x <<< amt.val
      | 1 => x >>> amt.val
      | _ => x.sshiftRight amt.val
    (l.result d r false, false)) s

/-! ### Data memory and pointers -/

/-- A read of data memory with what its check bits say (R379). -/
def laneDm (n : Nat) (u : Upset) (s : State) (f : State → LaneAct) : LaneAct :=
  if u = .double then .fault 0x03 s else f (if u = .single then s.countUp LN_ERR_CEDM n else s)

/-- Address of LD and ST: the offset form adds `off` without wrap (R356). -/
def Lane.at_ (l : Lane) (p : Fin 4) (inc : Bool) (off : BitVec 12) : Nat :=
  if inc then l.p[p] else (l.p[p] + off.toNat) % 4096

def execLaneLd (i : LIssue) (d : Fin 32) (p : Fin 4) (inc : Bool) (off : BitVec 12) (u : Upset) (s : State) : Result :=
  let n := i.lane.val
  laneIssue i (!inc || off == 0) (fun s => laneDm n u s (fun s => .next (s.mapLane n (fun l =>
    let l' := l.setReg d (l.word (l.at_ p inc off))
    if inc then l'.advance p 1 else l')))) s
def execLaneSt (i : LIssue) (a : Fin 32) (p : Fin 4) (inc : Bool) (off : BitVec 12) (s : State) : Result :=
  laneLocal i (!inc || off == 0) (fun l =>
    let l' := l.setWord (l.at_ p inc off) (l.reg a)
    (if inc then l'.advance p 1 else l', false)) s
def execPsetBase (i : LIssue) (p : Fin 4) (imm : BitVec 12) (s : State) : Result :=
  laneLocal i true (fun l => ({ l with p := l.p.set p imm.toNat, base := l.base.set p imm.toNat }, false)) s
def execPsetLength (i : LIssue) (p : Fin 4) (imm : BitVec 12) (s : State) : Result :=
  laneLocal i true (fun l => ({ l with len := l.len.set p imm.toNat }, false)) s
def execPsetAdvance (i : LIssue) (p : Fin 4) (imm : BitVec 12) (s : State) : Result :=
  laneLocal i true (fun l => (l.advance p imm.toInt, false)) s

/-! ### Accumulators -/

/-- The four modes of DMAC. -/
def execDmac (i : LIssue) (m acc : Fin 4) (a b c d : Fin 32) (s : State) : Result :=
  laneLocal i true (fun l =>
    let x := l.regI a * l.regI b
    let y := l.regI c * l.regI d
    l.accPut acc (match m.val with
      | 0 => l.accI acc + x + y
      | 1 => x + y
      | 2 => l.accI acc - (x + y)
      | _ => l.accI acc + x - y)) s
def execAcld (i : LIssue) (acc : Fin 4) (a sh : Fin 32) (s : State) : Result :=
  laneLocal i true (fun l => l.accPut acc (l.regI a * 2 ^ sh.val)) s
def execAcopClr (i : LIssue) (dst : Fin 4) (s : State) : Result := laneLocal i true (fun l => l.accPut dst 0) s
def execAcopMov (i : LIssue) (dst src : Fin 4) (s : State) : Result :=
  laneLocal i true (fun l => l.accPut dst (l.accI src)) s
def execAcopAdd (i : LIssue) (dst src : Fin 4) (s : State) : Result :=
  laneLocal i true (fun l => l.accPut dst (l.accI dst + l.accI src)) s
def execAcopSub (i : LIssue) (dst src : Fin 4) (s : State) : Result :=
  laneLocal i true (fun l => l.accPut dst (l.accI dst - l.accI src)) s
def execAcopNeg (i : LIssue) (dst src : Fin 4) (s : State) : Result :=
  laneLocal i true (fun l => l.accPut dst (-l.accI src)) s
/-- Vd ← sat16 of the rounded accumulator. -/
def execRnd (i : LIssue) (d : Fin 32) (acc : Fin 4) (sh : Fin 32) (s : State) : Result :=
  laneLocal i true (fun l =>
    let x := if sh.val = 0 then l.accI acc else (l.accI acc + 2 ^ (sh.val - 1)).shiftRight sh.val
    let (y, sat) := satInt 16 x
    (l.setReg d (BitVec.ofInt 16 y), sat)) s
/-- Vd:Vb ← sat32 of the shifted accumulator; d and b must differ. -/
def execAcx (i : LIssue) (d : Fin 32) (acc : Fin 4) (b sh : Fin 32) (s : State) : Result :=
  laneLocal i (d ≠ b) (fun l =>
    let (y, sat) := satInt 32 ((l.accI acc).shiftRight sh.val)
    let w := BitVec.ofInt 32 y
    ((l.setReg d (w.extractLsb' 16 16)).setReg b (w.extractLsb' 0 16), sat)) s
/-- Clamp to ±|Va| × 2^15; S where the value changes (log 35). -/
def execAcclp (i : LIssue) (acc : Fin 4) (a : Fin 32) (s : State) : Result :=
  laneLocal i true (fun l =>
    let lim : Int := (l.regI a).natAbs * 2 ^ 15
    let x := l.accI acc
    let y := min (max x (-lim)) lim
    let (l, sat) := l.accPut acc y
    (l, sat || y != x)) s

/-- Is a pointer aligned for MACP (R357)? -/
def Lane.macpOk (l : Lane) (p : Fin 4) : Bool :=
  l.p[p] % 2 == 0 && (l.len[p] == 0 || (l.base[p] % 2 == 0 && l.len[p] % 2 == 0))

def execMacp (i : LIssue) (acc p q : Fin 4) (u : Upset) (s : State) : Result :=
  let n := i.lane.val
  laneIssue i true (fun s =>
    let l := s.lane n
    if !l.macpOk p || !l.macpOk q then .fault 0x07 s
    else laneDm n u s (fun s =>
      let (l', sat) := l.accPut acc (l.accI acc + l.wordI l.p[p] * l.wordI l.p[q] +
        l.wordI (l.p[p] + 1) * l.wordI (l.p[q] + 1))
      let l' := l'.advance p 2
      let s := s.mapLane n (fun _ => if p = q then l' else l'.advance q 2)
      .next (if sat then s.put LN_STAT_S 1 n else s))) s

/-! ### Converter port -/

/-- The access of another seat's channel or pair (R363): it is recorded, and the lane takes fault 0x08. -/
def portRefused (n : Nat) (write : Bool) (page : Nat) (s : State) : LaneAct :=
  .fault 0x08 (seatViolation (s.laneOwner n) write page s)

/-- Is lane n's owner the owner of SDI channel ch, of HRP pair pr? -/
def State.laneHasSdi (s : State) (n ch : Nat) : Bool := s.sdiOwner ch == s.laneOwner n
def State.laneHasHrp (s : State) (n pr : Nat) : Bool := s.hrpOwner pr == s.laneOwner n

/-- The status word of SDIST (R360). -/
def sdiWord (n ch : Nat) (s : State) : Half :=
  BitVec.ofNat 16 (bit ((s.lane n).unread.getLsbD ch) + 2 * bit (s.flag SDI_STAT_TRIP ch) +
    4 * bit (s.sdiSat.getLsbD ch) + 8 * bit (s.flag SDI_STAT_BSERR ch))

def execSdird (i : LIssue) (d : Fin 32) (ch : Fin 64) (s : State) : Result :=
  let n := i.lane.val
  laneIssue i (ch.val < 48) (fun s =>
    if !s.laneHasSdi n ch.val then portRefused n false (SDI_CTL.addr ch.val 0) s
    else
      let v := BitVec.ofNat 16 (s.get SDI_RES_VALUE ch.val)
      .next (s.mapLane n (fun l =>
        { l.setReg d v with unread := l.unread &&& ~~~(1#48 <<< ch.val) }))) s
def execSdist (i : LIssue) (d : Fin 32) (ch : Fin 64) (s : State) : Result :=
  let n := i.lane.val
  laneIssue i (ch.val < 48) (fun s =>
    if !s.laneHasSdi n ch.val then portRefused n false (SDI_CTL.addr ch.val 0) s
    else
      let v := sdiWord n ch.val s
      .next (s.mapLane n (fun l => l.setReg d v))) s

/-- The staged value of a field before the current lane cycle: what a deed of another lane in the cycle replaced. -/
def State.stagedBefore (s : State) (n pr fld : Nat) : Option (Nat × Nat) :=
  match s.laneDeeds.findSome? (fun e => match e with
    | .stage m p f old => if m ≠ n ∧ p = pr ∧ f = fld then some old else none
    | _ => none) with
  | some old => old
  | none => ((s.pair pr).stage.find? (fun e => e.fld == fld)).map (fun e => (e.value, e.lane))

/-- Put a value into staging. -/
def stagePut (pr fld : Nat) (v : Nat × Nat) (s : State) : State :=
  s.mapPair pr (fun h => { h with stage := h.stage.filter (fun e => e.fld != fld) ++ [⟨fld, v.1, v.2⟩] })

/-- Two lanes meet at one pair in one lane cycle: LG.STAT.HCOLL of the higher one's group. -/
def hcoll (a b : Nat) (s : State) : State := s.put LG_STAT_HCOLL 1 (groupOf (max a b))

def execHrpw (i : LIssue) (pr : Fin 32) (fld : Fin 8) (a b : Fin 32) (s : State) : Result :=
  let n := i.lane.val
  laneIssue i (decide (pr.val < 24) && decide (fld.val < 4)) (fun s =>
    if !s.laneHasHrp n pr.val then portRefused n true (HRP_CTL.addr pr.val 0) s
    else
      let l := s.lane n
      let v := (l.reg a).toNat * 2 ^ 16 + (l.reg b).toNat
      let other := s.laneDeeds.findSome? (fun e => match e with
        | .stage m p f _ => if m ≠ n ∧ p = pr.val ∧ f = fld.val then some m else none
        | _ => none)
      let old := ((s.pair pr.val).stage.find? (fun e => e.fld == fld.val)).map (fun e => (e.value, e.lane))
      match other with
      | none => .next { stagePut pr.val fld.val (v, n) s with laneDeeds := s.laneDeeds ++ [.stage n pr.val fld.val old] }
      | some m =>
        let s := hcoll m n s
        .next (if s.laneDeeds.any (fun e => match e with
            | .stage k p f _ => p == pr.val && f == fld.val && decide (n < k)
            | _ => false) then s
          else
            let s := stagePut pr.val fld.val (v, n) s
            { s with laneDeeds := s.laneDeeds ++ [.stage n pr.val fld.val old] })) s

/-- Commit the staged fields of one pair as they stood before the lane cycle (R361, R362). -/
def commitPair (n pr : Nat) (s : State) : State :=
  match s.laneDeeds.findSome? (fun e => match e with
    | .commit m p => if p = pr then some m else none
    | _ => none) with
  | some m => hcoll m n s
  | none =>
    let fresh := s.laneDeeds.filterMap (fun e => match e with
      | .stage m p f _ => if m ≠ n ∧ p = pr then some f else none
      | _ => none)
    let c := [0, 1, 2, 3].filterMap (fun f => (s.stagedBefore n pr f).map (fun v => (f, v.1)))
    let s := s.mapPair pr (fun h => { h with
      stage := h.stage.filter (fun e => fresh.contains e.fld)
      flight := if c.length = 0 then h.flight else h.flight ++ [c] })
    { s with laneDeeds := s.laneDeeds ++ [.commit n pr] }

def execHrpc (i : LIssue) (mask : BitVec 24) (s : State) : Result :=
  let n := i.lane.val
  let prs := (List.range 24).filter (fun p => mask.getLsbD p)
  laneIssue i true (fun s =>
    match prs.find? (fun p => !s.laneHasHrp n p) with
    | some p => portRefused n true (HRP_CTL.addr p 0) s
    | none => .next (s.each prs (fun p t => commitPair n p t))) s

/-! ### Exchange words and mailboxes -/

/-- An XRD in the lane cycle of an XWR returns the old value (R364). -/
def execXrd (i : LIssue) (d : Fin 32) (x : Fin 64) (s : State) : Result :=
  let n := i.lane.val
  laneIssue i true (fun s =>
    let g := groupOf n
    let v := match s.laneDeeds.findSome? (fun e => match e with
      | .xw _ h w old => if h = g ∧ w = x.val then some old else none
      | _ => none) with
      | some old => old
      | none => s.get LG_XW_VALUE g x.val
    .next (s.mapLane n (fun l => l.setReg d (BitVec.ofNat 16 v)))) s
def execXwr (i : LIssue) (a : Fin 32) (x : Fin 64) (s : State) : Result :=
  let n := i.lane.val
  laneIssue i true (fun s =>
    let g := groupOf n
    let rivals := s.laneDeeds.filterMap (fun e => match e with
      | .xw m h w _ => if h = g ∧ w = x.val then some m else none
      | _ => none)
    let s := if rivals.length = 0 then s else s.put LG_STAT_XCOLL 1 g
    let old := s.get LG_XW_VALUE g x.val
    let s := { s with laneDeeds := s.laneDeeds ++ [.xw n g x.val old] }
    .next (if rivals.any (fun m => decide (n < m)) then s
      else s.put LG_XW_VALUE ((s.lane n).reg a).toNat g x.val)) s
def execMbrd (i : LIssue) (d : Fin 32) (x : Fin 4) (s : State) : Result :=
  let n := i.lane.val
  laneIssue i true (fun s =>
    let v := BitVec.ofNat 16 (s.get LN_MBIN_VALUE n x.val)
    .next (s.mapLane n (fun l => l.setReg d v))) s
def execMbwr (i : LIssue) (a : Fin 32) (x : Fin 4) (s : State) : Result :=
  let n := i.lane.val
  laneIssue i true (fun s => .next (s.put LN_MBOUT_VALUE ((s.lane n).reg a).toNat n x.val)) s

/-! ### Block transfers (R366 to R369) -/

/-- Start a transfer of window w, after its checks in order. -/
def startTransfer (n : Nat) (w p : Fin 4) (off : BitVec 16) (store : Bool) (u : Upset) (s : State) : LaneAct :=
  let l := s.lane n
  let at_ := l.p[p]
  if s.flag LN_FWSTAT_BUSY n w.val || !s.flag LN_FWBASE_EN n w.val then .fault 0x06 s
  else if at_ % 32 ≠ 0 then .fault 0x07 s
  else if s.get LN_FWSIZE_NBLK n w.val < off.toNat then .fault 0x0A s
  else laneDm n u s (fun s =>
    let x : Transfer := ⟨store, s.get LN_FWBASE_BASE n w.val * 64 + off.toNat * 64, at_,
      if store then l.block at_ else 0, s.laneOwner n⟩
    .next ((s.put LN_FWSTAT_BUSY 1 n w.val).mapLane n (fun l => { l with xfer := l.xfer.set w (some x) })))

def execFld (i : LIssue) (w p : Fin 4) (off : BitVec 16) (s : State) : Result :=
  laneIssue i true (startTransfer i.lane.val w p off false .none) s
def execFst (i : LIssue) (w p : Fin 4) (off : BitVec 16) (u : Upset) (s : State) : Result :=
  laneIssue i true (startTransfer i.lane.val w p off true u) s

/-- The transfer of window w ends with an error or with poisoned data, or well. -/
def transferEnds (n : Nat) (w : Fin 4) (err poison : Bool) (s : State) : State :=
  let s := s.put LN_FWSTAT_COUNT ((s.get LN_FWSTAT_COUNT n w.val + 1) % 2 ^ 16) n w.val
  let s := ((s.put LN_FWSTAT_BUSY 0 n w.val).put LN_FWSTAT_ERR (bit err) n w.val).put LN_FWSTAT_POISON (bit poison) n w.val
  s.mapLane n (fun l => { l with xfer := l.xfer.set w none })

/-- The transfer of window w of lane n completes, or its target answers with an error response (`r`); `u`: what the
check bits say of the memory that an FLD reads. It passes the seat table (R223); devices take no block transfer. -/
def execLaneTransferComplete (n : LaneId) (w : Fin 4) (r : Answer) (u : Upset) (s : State) : Result :=
  let m := n.val
  match (s.lane m).xfer[w] with
  | none => .next s
  | some x =>
    -- requests of an agent that is dead or isolated are discarded at its router (R322)
    if s.targetDown (0x60 + m) || s.targetDown (0x58 + groupOf m) then .next s
    else match checkSeat x.seat x.pa (if x.store then .write else .read) s with
    | .wait => .next s
    | .fault _ _ => .next (transferEnds m w true false s)
    | .ok _ =>
      match s.memGate x.seat x.pa with
      | .wait => .next s
      | .error => .next (transferEnds m w true false s)
      | .ok =>
        if r = .error || isDevice x.pa then .next (transferEnds m w true false s)
        else if x.store && s.fenced x.pa 64 then .next (transferEnds m w true false (fenceViolation x.seat s))
        else if x.store then
          .next (transferEnds m w false false ((breakReservations none (x.pa / 64) s).writeMem x.pa 64 x.data))
        else
          let s := memUpset x.pa false u s
          if s.poisoned x.pa 64 then .next (transferEnds m w true true s)
          else
            let d := s.readMem x.pa 64
            .next (transferEnds m w false false (s.mapLane m (fun l => l.setBlock x.at_ d)))

/-! ### Control -/

/-- Table LANE-4. -/
def laneCond (n : Nat) (c : Fin 16) (s : State) : Bool :=
  let l := s.lane n
  match c.val with
  | 0 => true
  | 1 => l.z
  | 2 => !l.z
  | 3 => l.n != l.o
  | 4 => l.n == l.o
  | 5 => l.z || l.n != l.o
  | 6 => !l.z && l.n == l.o
  | 7 => s.flag LN_STAT_S n
  | 8 => !s.flag LN_FWSTAT_BUSY n 0
  | 9 => !s.flag LN_FWSTAT_BUSY n 1
  | 10 => !s.flag LN_FWSTAT_BUSY n 2
  | 11 => !s.flag LN_FWSTAT_BUSY n 3
  | 12 => s.flag LN_FWSTAT_ERR n 0
  | 13 => s.flag LN_FWSTAT_ERR n 1
  | 14 => s.flag LN_FWSTAT_ERR n 2
  | _ => s.flag LN_FWSTAT_ERR n 3

def execLaneB (i : LIssue) (cond : Fin 16) (tgt : BitVec 12) (s : State) : Result :=
  laneIssue i true (fun s => if laneCond i.lane.val cond s then .goto tgt.toNat true s else .next s) s
/-- CALL pushes its sequential successor, which at the end of a loop is the next iteration (R358). -/
def execLaneCall (i : LIssue) (tgt : BitVec 12) (s : State) : Result :=
  let n := i.lane.val
  laneIssue i true (fun s =>
    let l := s.lane n
    if 4 ≤ l.ret.length then .fault 0x04 s
    else
      let back := (laneSucc l (s.get LN_PC_PC n)).1
      .stay ((laneGoto n tgt.toNat false s).mapLane n (fun l => { l with ret := back :: l.ret }))) s
def execLaneRet (i : LIssue) (s : State) : Result :=
  let n := i.lane.val
  laneIssue i true (fun s =>
    match (s.lane n).ret with
    | [] => .fault 0x04 s
    | t :: rest => .stay ((laneGoto n t false s).mapLane n (fun l => { l with ret := rest }))) s
/-- LOOP: `last` must lie after it, and with M = 1 cnt[11:5] must be 0; the count is then bits [4:0] of Vcnt (log 36). -/
def execLoop (i : LIssue) (m : Bool) (last cnt : BitVec 12) (s : State) : Result :=
  let n := i.lane.val
  let pc := s.get LN_PC_PC n
  laneIssue i (decide (pc < last.toNat) && (!m || decide (cnt.toNat < 32))) (fun s =>
    let l := s.lane n
    if l.loop.isSome then .fault 0x05 s
    else
      let count := if m then (l.reg (Fin.ofNat 32 cnt.toNat)).toNat % 32 else cnt.toNat
      if count = 0 then .goto ((last.toNat + 1) % 4096) false s
      else .stay ((s.put LN_PC_PC (pc + 1) n).mapLane n
        (fun l => { l with loop := some ⟨pc + 1, last.toNat, count⟩ }))) s
/-- WAITE consumes a latched event, or waits; a STEP of it without an event stays halted at it (R371, R376). -/
def execWaite (i : LIssue) (s : State) : Result :=
  let n := i.lane.val
  laneIssue i true (fun s =>
    if (s.lane n).latched then .next (s.mapLane n (fun l => { l with latched := false }))
    else if s.laneState n == lsHalted then .stay s
    else .stay (s.put LN_STAT_WAIT 1 n)) s
def execSig (i : LIssue) (code : BitVec 16) (s : State) : Result :=
  let n := i.lane.val
  laneIssue i true (fun s => .next (laneSource n ((s.put LN_SIGCODE_CODE code.toNat n).put LN_STAT_SIGP 1 n))) s
/-- HALT: LN.PC names the instruction after it. -/
def execLaneHalt (i : LIssue) (s : State) : Result :=
  let n := i.lane.val
  laneIssue i true (fun s => .stay (laneSource n ((laneLeaves n lsHalted (laneNext n s)).put LN_STAT_DONE 1 n))) s

/-! ### Locked lane pairs -/

/-- Both lanes of a locked pair stop with code 0x0B, and GFSTOP applies. -/
def lanePairStops (k : Nat) (s : State) : State := groupFaultStop (2 * k) (laneStops (2 * k) 0x0B s)

/-- A locked lane pair detects a difference; fault code 0x02 names the pair. -/
def execLanePairMismatch (pair : Fin 32) (s : State) : Result :=
  let n := 2 * pair.val
  if s.lanePairLocked pair.val && (s.laneState n == lsRunning || (s.lane n).stepping) then
    .next (reportFault 0x02 (s.laneOwner n) pair.val 0 (lanePairStops pair.val s))
  else .next s

end Sys2Proof.Machine
end

