-- ==== Sys2Proof/Machine/Sfi.lean ====
section
/-!
DEFINITION. The safety island (R422 to R446): decisions of the fault collection unit with the safe states, the gate and
its self-test, the monitors, the watchdogs, and fault injection.
-/

namespace Sys2Proof.Machine

/-! ### Safe states -/

/-- Frames queued in the host queue of `seat` are dropped (R518). -/
def dropFrames (seat : Nat) (s : State) : State :=
  let n := ringCount (s.get ETHSW_HQTXPI_INDEX seat) (s.get ETHSW_HQTXCI_INDEX seat)
  (s.put ETHSW_HQSTAT_DROPS (satAdd (s.get ETHSW_HQSTAT_DROPS seat) n 0xFFFF) seat).put ETHSW_HQTXCI_INDEX
    (s.get ETHSW_HQTXPI_INDEX seat) seat

/-- The seat safe state of `seat` (R425). Balls and bus controllers follow SEATSAFE. -/
def enterSeatSafe (seat : Nat) (s : State) : State :=
  let s := (s.putBit SFI_SEATSAFE_SAFE (seat - 1) true).put SFI_SSTAT_SAFE 1 seat
  let s := s.each ((List.range 24).filter (fun p => s.hrpOwner p == seat)) driveSafe
  let s := s.mapCores (fun k => (s.core k).seatid == seat && (s.core k).run == .running)
    (fun c => { c with run := .stopped, load := none, fillWait := false })
  let s := s.each ((List.range 64).filter (fun n => s.laneOwner n == seat)) (fun n t =>
    if t.laneState n == lsRunning || t.laneState n == lsStarting then laneStops n 0x0C t else t)
  abortCommands seat (dropFrames seat (s.putBit FAB_QUENCH_SEAT (seat - 1) true))

/-- The device safe state with its code (R427). -/
def enterDeviceSafe (code : Nat) (s : State) : State :=
  let s := (s.put SFI_STAT_DSAFE 1).put SFI_STAT_DCODE code
  let s := s.each (customerSeats.filter (fun seat => !s.seatSafe seat)) enterSeatSafe
  s.each (List.range 24) driveSafe

/-! ### Decisions (R422 to R431) -/

/-- Reactions (Table SFI-2). -/
def reactLog : Nat := 0
def reactSafe : Nat := 1
def reactReset : Nat := 2
def reactDevice : Nat := 3

/-- Policy class of a code (Table SFI-1). -/
def faultClass (code : Nat) : Option Nat :=
  match code with
  | 0x01 => some 0 | 0x02 => some 1 | 0x03 => some 2 | 0x04 => some 2 | 0x05 => some 2 | 0x06 => some 3
  | 0x07 => some 4 | 0x08 => some 4 | 0x0A => some 5 | 0x0B => some 5 | 0x0C => some 6 | 0x0D => some 7
  | 0x0E => some 7 | 0x0F => some 8 | 0x10 => some 9 | 0x11 => some 10 | 0x12 => some 11 | 0x13 => some 12
  | 0x14 => some 13 | 0x15 => some 14 | 0x16 => some 15 | 0x17 => some 15
  | _ => none

/-- Codes whose reaction is the device safe state. -/
def deviceCode (code : Nat) : Bool := code == 0x09 || (decide (0x20 ≤ code) && decide (code ≤ 0x29))

/-- Is a code in Table SFI-1? -/
def faultListed (code : Nat) : Bool :=
  (faultClass code).isSome || deviceCode code || code == 0x18 || code == 0x30

/-- The reaction that a fault calls for. -/
def State.reactionOf (s : State) (f : FaultLine) : Nat :=
  if f.test then reactLog
  else if deviceCode f.code then reactDevice
  else if f.seat = 0 then reactLog
  else if f.code = 0x18 then reactSafe
  else match faultClass f.code with
    | none => reactLog
    | some c =>
      let r := slice (s.reg SFI_POL f.seat) (2 * c) 2
      if c ≤ 2 && r = 0 then reactSafe else r

/-- Record one fault in the log, or count it as lost (R430). -/
def logFault (f : FaultLine) (react : Nat) (s : State) : State :=
  let n := s.get SFI_FLOGIDX_NEXT
  if 16 ≤ n then s.countUp SFI_STAT_LOST
  else
    let s := ((((((s.put SFI_FLOG_VALID 1 n).put SFI_FLOG_INJ (bit f.inj) n).put SFI_FLOG_REACT react n).put
      SFI_FLOG_SEAT f.seat n).put SFI_FLOG_CODE f.code n).put SFI_FLOG_UNIT f.unit n).put SFI_FLOG_INFO f.info n
    (s.put SFI_FLOGT_NS (s.get TBS_NOW_NS) n).put SFI_FLOGIDX_NEXT (n + 1)

/-- RELOAD values below 1,024 act as 1,024. -/
def State.cwdReload (s : State) (n : Nat) : Nat := max 1024 (s.get SFI_CWDCFG_RELOAD n)
def State.swdReload (s : State) (seat : Nat) : Nat := max 1024 (s.get SFI_SWDCFG_RELOAD seat)

/-- What a watchdog does after the reaction to its fault: it goes on after LOG, and stops after any other (R438). -/
def watchdogReacted (f : FaultLine) (react : Nat) (s : State) : State :=
  if react ≠ reactLog then s
  else if f.code = 0x14 && f.unit < 32 && s.flag SFI_CWDCFG_EN f.unit then
    { s.put SFI_CWDCNT_COUNT (s.cwdReload f.unit) f.unit with cwdStopped := s.cwdStopped &&& ~~~(1#32 <<< f.unit) }
  else if f.code = 0x15 && f.unit < 16 && s.flag SFI_SWDCFG_EN f.unit then
    { s.put SFI_SWDCNT_COUNT (s.swdReload f.unit) f.unit with swdStopped := s.swdStopped &&& ~~~(1#16 <<< f.unit) }
  else s

/-- The account of one fault: log, the seat's status, its watchdog, and Welfen's notifications. -/
def accountFault (f : FaultLine) (react : Nat) (s : State) : State :=
  let s := logFault f react s
  if f.test then s
  else
    let s := if f.seat = 0 then s else (s.countUp SFI_SSTAT_COUNT f.seat).put SFI_SSTAT_LAST f.code f.seat
    let s := watchdogReacted f react s
    noteManager 0x0F01 f.seat [] (if f.seat = 0 then s else noteSeat 0x0F01 f.seat [] s)

/-- Insert a fault in ascending code order, behind equal codes. -/
def faultInsert (f : FaultLine) : List FaultLine → List FaultLine
  | [] => [f]
  | g :: l => if f.code < g.code then f :: g :: l else g :: faultInsert f l

/-- Faults that arrive together are decided together (R429): DEVICE over all, else each seat's strongest reaction
(log 42). A fault of a seat in its safe state changes the reaction only if it calls for DEVICE. -/
def decideFaults (batch : List FaultLine) (s : State) : State :=
  let batch := batch.foldl (fun l f => faultInsert f l) []
  let safe (seat : Nat) : Bool := s.flag SFI_STAT_DSAFE || s.seatSafe seat
  let dev := batch.find? (fun f => s.reactionOf f == reactDevice)
  let strongest (seat : Nat) : Nat :=
    if safe seat then reactLog
    else ((batch.filter (fun f => f.seat == seat)).map s.reactionOf).foldl max reactLog
  let react (f : FaultLine) : Nat :=
    if f.test then reactLog else if dev.isSome then reactDevice else strongest f.seat
  let stop := batch.any (fun f => (f.code == 0x22 || f.code == 0x23) && !f.test)
  let t := match dev with
    | some f => if s.flag SFI_STAT_DSAFE then s else enterDeviceSafe f.code s
    | none => s.each (customerSeats.filter (fun seat => decide (reactSafe ≤ strongest seat))) enterSeatSafe
  let t := batch.foldl (fun t f => accountFault f (react f) t) t
  raiseSrc srcSfi (if stop then { t.put SFI_STAT_SVPSTOP 1 with svp := .held } else t)

/-- The FCU decides on the `n` oldest faults on its lines, which arrived in one lane cycle. `agree`: its channels reach
the same decision; where they do not, both also decide the device safe state with code 0x28. -/
def execFcuDecision (n : Nat) (agree : Bool) (s : State) : Result :=
  let batch := s.faults.take n
  if batch.length = 0 then .next s
  else
    let s := { s with faults := s.faults.drop n }
    .next (decideFaults (if agree then batch else batch ++ [⟨0x28, 0, 0, 0, false, false⟩]) s)

/-! ### Gate and monitors -/

/-- The self-test of gate paths A and B (R434); a path whose readback is wrong fails. -/
def execGateSelfTest (aOk bOk : Bool) (s : State) : Result :=
  let s := if aOk then s else reportFault 0x27 0 0 0 (s.put SFI_GTEST_AFAIL 1)
  let s := if bOk then s else reportFault 0x27 0 1 0 (s.put SFI_GTEST_BFAIL 1)
  .next (s.countUp SFI_GTEST_PASSES)

/-- A clock-monitor fault (R435). -/
def clockFault (s : State) : State := reportFault 0x24 0 0 0 (s.put SFI_MON_CLKF 1)

/-- A monitor window ends: are the counts inside their tolerances, and is the root PLL locked? Windows at the boundary
of a level change are not checked. -/
def execClockMonitorWindow (countsOk lockOk : Bool) (s : State) : Result :=
  let excluded := s.flag PWC_STAT_PFBUSY
  let bad := if countsOk || excluded then 0 else s.clockBad + 1
  let s := { s with clockBad := bad }
  .next (if 2 ≤ bad || !lockOk then clockFault s else s)

/-- 50 ns pass without an edge of the reference. -/
def execMissingReferenceEdge (s : State) : Result := .next (clockFault s)

/-- A rail, VDD_DBG apart, has been outside its window for 500 ns (R436). -/
def execVoltageMonitorFault (rail : Fin 12) (s : State) : Result :=
  let s := if s.flag SFI_MON_VOLTF then s else (s.put SFI_MON_VOLTF 1).put SFI_MON_RAIL rail.val
  .next (reportFault 0x25 0 rail.val 0 s)

/-- TMON thresholds in °C: TCRIT at most 130, TWARN at most TCRIT. -/
def State.tcrit (s : State) : Nat := min 130 (s.get SFI_TMON_TCRIT)
def State.twarn (s : State) : Nat := min s.tcrit (s.get SFI_TMON_TWARN)

/-- The junction sensors are sampled; `t` is the highest reading in °C (R437). -/
def execTemperatureSample (t : BitVec 8) (s : State) : Result :=
  let v := t.toInt
  let s := s.put SFI_MON_TEMP t.toNat
  let s :=
    if (s.twarn : Int) < v && !s.flag SFI_MON_TWARN then
      noteManager 0x0F13 0 [] (reportFault 0x30 0 0 0 (s.put SFI_MON_TWARN 1))
    else if s.flag SFI_MON_TWARN && v + 5 ≤ (s.twarn : Int) then noteManager 0x0F13 0 [] (s.put SFI_MON_TWARN 0)
    else s
  let hot := decide ((s.tcrit : Int) < v)
  let s := (s.put SFI_MON_TCRIT (bit hot))
  let s := { s with critSamples := if hot then s.critSamples + 1 else 0 }
  .next (if s.critSamples = 2 then reportFault 0x26 0 0 0 s else s)

/-! ### Watchdogs (R438 to R442) -/

/-- Is core n halted by debug? -/
def State.coreHalted (s : State) (n : Nat) : Bool :=
  match s.cores[n]? with
  | some c => c.run == .halted
  | none => false

/-- Is a core watchdog, a seat watchdog frozen by a debug halt (R440)? -/
def State.cwdFrozen (s : State) (n : Nat) : Bool :=
  s.openLife && s.flag DBG_CTL_WDFRZ && s.coreHalted n
def State.swdFrozen (s : State) (seat : Nat) : Bool :=
  s.openLife && s.flag DBG_CTL_WDFRZ &&
    ((List.range 32).filter (fun n => s.coreOwner n == seat)).all (fun n => s.coreHalted n) &&
    (List.range 32).any (fun n => s.coreOwner n == seat)

/-- Does a watchdog count? -/
def State.cwdCounts (s : State) (n : Nat) : Bool := s.flag SFI_CWDCFG_EN n && !s.cwdStopped.getLsbD n && !s.cwdFrozen n
def State.swdCounts (s : State) (seat : Nat) : Bool :=
  s.flag SFI_SWDCFG_EN seat && !s.swdStopped.getLsbD seat && !s.swdFrozen seat

/-- A watchdog raises its fault and waits for the reaction. -/
def cwdFault (n : Nat) (s : State) : State :=
  reportFault 0x14 (s.coreOwner n) n 0 { s with cwdStopped := s.cwdStopped ||| 1#32 <<< n }
def swdFault (seat : Nat) (s : State) : State :=
  reportFault 0x15 seat seat 0 { s with swdStopped := s.swdStopped ||| 1#16 <<< seat }

/-- The tick at which COUNT of a watchdog reaches 0. -/
def execWatchdogExpiry (w : Wdog) (s : State) : Result :=
  match w with
  | .core n => if s.cwdCounts n.val then .next (cwdFault n.val (s.put SFI_CWDCNT_COUNT 0 n.val)) else .next s
  | .seat n =>
    if n ≠ 0 && s.swdCounts n.val then .next (swdFault n.val (s.put SFI_SWDCNT_COUNT 0 n.val)) else .next s

/-- Address of a watchdog register of seat `by_`'s page, from its offset in the page. -/
def cwdAddr (by_ n off : Nat) : Nat := 0x20080100 + by_ * 0x1000 + n * 0x10 + off

/-- An access to a watchdog that `by_` does not own (R438, R25). -/
def wdogRefused (by_ addr : Nat) (s : State) : Result := .next ((seatViolation by_ true addr s).answer .error)

/-- A write of KICK; a watchdog that does not count takes none (log 43). -/
def cwdKick (n key : Nat) (s : State) : State :=
  if !s.cwdCounts n then s
  else if key = 0xC5 then s.put SFI_CWDCNT_COUNT (s.cwdReload n) n
  else cwdFault n s
def swdKick (seat key : Nat) (s : State) : State :=
  if !s.swdCounts seat then s
  else if key = 0xC5 && decide (s.get SFI_SWDCNT_COUNT seat ≤ s.get SFI_SWDWIN_OPEN seat) then
    s.put SFI_SWDCNT_COUNT (s.swdReload seat) seat
  else swdFault seat s

def execWatchdogKick (by_ : Seat) (w : Wdog) (key : BitVec 8) (s : State) : Result :=
  match w with
  | .core n =>
    if framePasses by_.val (s.coreOwner n.val) then .next ((cwdKick n.val key.toNat s).answer (.ok 0))
    else wdogRefused by_.val (cwdAddr by_.val n.val 4) s
  | .seat n =>
    if n = 0 then .next (s.answer (.ok 0))
    else if framePasses by_.val n.val then .next ((swdKick n.val key.toNat s).answer (.ok 0))
    else wdogRefused by_.val (SFI_SWDKICK.addr n.val 0) s

/-- A write of CWDCFG or SWDCFG: RELOAD while EN is 0; EN starts the watchdog. -/
def cwdConfig (by_ n value : Nat) (s : State) : State :=
  let t := writeFields by_ SFI_CWDCFG n 0 value 0xFFFFFFFF s
  if t.flag SFI_CWDCFG_EN n && !s.flag SFI_CWDCFG_EN n then t.put SFI_CWDCNT_COUNT (t.cwdReload n) n else t
def swdConfig (by_ seat value : Nat) (s : State) : State :=
  let t := writeFields by_ SFI_SWDCFG seat 0 value 0xFFFFFFFF s
  if t.flag SFI_SWDCFG_EN seat && !s.flag SFI_SWDCFG_EN seat then t.put SFI_SWDCNT_COUNT (t.swdReload seat) seat else t

def execWatchdogEnable (by_ : Seat) (w : Wdog) (value : Word32) (s : State) : Result :=
  match w with
  | .core n =>
    if framePasses by_.val (s.coreOwner n.val) then .next ((cwdConfig by_.val n.val value.toNat s).answer (.ok 0))
    else wdogRefused by_.val (cwdAddr by_.val n.val 0) s
  | .seat n =>
    if n = 0 then .next (s.answer (.ok 0))
    else if framePasses by_.val n.val then .next ((swdConfig by_.val n.val value.toNat s).answer (.ok 0))
    else wdogRefused by_.val (SFI_SWDCFG.addr n.val 0) s

/-- The service-processor watchdog expires; it never freezes. A stopped service processor has none left to stop. -/
def execSvpWatchdogExpiry (s : State) : Result := .next (reportFault 0x23 0 0 0 { s with svpCount := 0 })

/-- A write of SFI.SVPKICK. -/
def svpKick (key : Nat) (s : State) : State :=
  if key = 0xC5 then { s with svpCount := max 1024 (s.get SFI_SVPWD_RELOAD) } else reportFault 0x23 0 0 0 s

def execSvpKick (by_ : Seat) (key : BitVec 8) (s : State) : Result :=
  pageWrite by_.val 0 (svpKick key.toNat) s

/-- One tick of 1 µs: every counting watchdog counts down. The tick at which one reaches 0 is the command
WATCHDOG_EXPIRY or SVP_WATCHDOG_EXPIRY, so that a count stays at 1 until then (log 3). -/
def watchdogTick (s : State) : State :=
  let s := s.each ((List.range 32).filter (fun n => s.cwdCounts n && decide (1 < s.get SFI_CWDCNT_COUNT n)))
    (fun n t => t.put SFI_CWDCNT_COUNT (t.get SFI_CWDCNT_COUNT n - 1) n)
  let s := s.each (customerSeats.filter (fun n => s.swdCounts n && decide (1 < s.get SFI_SWDCNT_COUNT n)))
    (fun n t => t.put SFI_SWDCNT_COUNT (t.get SFI_SWDCNT_COUNT n - 1) n)
  { s with svpCount := if 1 < s.svpCount then s.svpCount - 1 else s.svpCount }

/-- Watchdogs that were frozen in `s0` and no longer are resume with at least 1,024 ticks (R440). -/
def thawWatchdogs (s0 s : State) : State :=
  let s := s.each ((List.range 32).filter (fun n => s0.cwdFrozen n && s.cwdCounts n && decide (s.get SFI_CWDCNT_COUNT n < 1024)))
    (fun n t => t.put SFI_CWDCNT_COUNT 1024 n)
  s.each (customerSeats.filter (fun n => s0.swdFrozen n && s.swdCounts n && decide (s.get SFI_SWDCNT_COUNT n < 1024)))
    (fun n t => t.put SFI_SWDCNT_COUNT 1024 n)

/-! ### Control -/

/-- A write of SFI.CTL: RELEASE is refused in recovery, in PROVISION and in END (R470). -/
def sfiCtlWrite (value : Nat) (s : State) : State :=
  let no := s.flag BOOT_STAT_RECOV || s.lifeCycle == lcProvision || s.lifeCycle == lcEnd
  writeFields 0 SFI_CTL 0 0 (if no then value - (value &&& 2 ^ 31) else value) 0xFFFFFFFF s

def execSfiRelease (by_ : Seat) (value : Word32) (s : State) : Result := pageWrite by_.val 0 (sfiCtlWrite value.toNat) s

/-- SFI_FORCE_N has been low for 50 ns. -/
def execSfiForce (s : State) : Result := .next (if s.flag SFI_CTL_FORCEEN then reportFault 0x29 0 0 0 s else s)

/-- SFI_SAFE_N (R433): high only with RELEASE and without the device safe state. -/
def State.sfiSafeN (s : State) : Bool := !s.gateActive && s.device == .on

/-- Owner seat of an injected fault, as far as UNIT names it. -/
def State.injectOwner (s : State) (code unit : Nat) : Nat :=
  if code ∈ [0x03, 0x04, 0x05, 0x06, 0x07, 0x08, 0x18] then (if unit < 32 then s.seatOf unit else 0)
  else if code = 0x01 then s.seatOf (2 * unit)
  else if code = 0x02 then s.laneOwner (2 * unit)
  else if code = 0x0C then (if unit < 32 then s.bankOwner unit else 0)
  else if code = 0x10 then (if unit < 64 then s.laneOwner unit else 0)
  else if code = 0x11 ∨ code = 0x12 then (if unit < 48 then s.sdiOwner unit else 0)
  else if code = 0x13 then (if unit < 24 then s.hrpOwner unit else 0)
  else if code = 0x14 then (if unit < 32 then s.coreOwner unit else 0)
  else if code = 0x15 then unit % 16
  else 0

/-- A write of SFI.INJ (R443). What an injected comparison inverts is open: LSSTAT.KIND takes a free value of 1 to 7. -/
def injectFault (value : Nat) (s : State) : State :=
  let code := slice value 0 8
  let unit := slice value 16 8
  let test := slice value 30 1 == 1
  if slice value 31 1 = 0 || (s.seatLocked && !s.openLife) || !faultListed code then s
  else if code = 0x01 then
    if unit < 16 && s.pairLocked unit then
      let (v, s) := s.draw
      let kind := 1 + v.toNat % 7
      let line : FaultLine := ⟨code, s.injectOwner code unit, unit, kind, true, test⟩
      let s := if test then s else pairStops unit kind s
      { s with faults := s.faults ++ [line] }
    else s
  else if code = 0x02 then
    if unit < 32 && s.lanePairLocked unit then
      let line : FaultLine := ⟨code, s.injectOwner code unit, unit, 0, true, test⟩
      let s := if test then s else lanePairStops unit s
      { s with faults := s.faults ++ [line] }
    else s
  else { s with faults := s.faults ++ [⟨code, s.injectOwner code unit, unit, 0, true, test⟩] }

def execFaultInject (by_ : Seat) (value : Word32) (s : State) : Result := pageWrite by_.val 0 (injectFault value.toNat) s

/-- A write of SFI.FLOGIDX: CLR. -/
def clearLog (value : Nat) (s : State) : State :=
  if slice value 31 1 = 0 then s
  else
    let s := s.each (List.range 16) (fun n t => (t.resetInst SFI_FLOG n).resetInst SFI_FLOGT n)
    (s.put SFI_FLOGIDX_NEXT 0).put SFI_STAT_LOST 0

def execFaultLogClear (by_ : Seat) (value : Word32) (s : State) : Result := pageWrite by_.val 0 (clearLog value.toNat) s

end Sys2Proof.Machine
end

