-- ==== Sys2Proof/Machine/Deal.lean ====
section
/-!
DEFINITION. The seat lock with its check (R33, R34, Table DEV-7), the Deal: slots, rounds, seat-switch events and the lock
with its check (R55 to R80, Table DEAL-3), and the time base with its capture/compare units (R43 to R46).
-/

namespace Sys2Proof.Machine

/-! ### The seat lock -/

/-- Slots in the round of table t (DEAL.CFG). -/
def State.tableLen (s : State) (t : Nat) : Nat := (s.get (if t = 0 then DEAL_CFG_LEN0 else DEAL_CFG_LEN1) + 1) * 64

/-- Entry n of table t. -/
def State.tableEntry (s : State) (t n : Nat) : Nat := s.reg DEAL_SLOT t n

/-- Does a slot entry raise a switch event? SW is ignored unless KIND is 0b01 (R80). -/
def slotSwitches (e : Nat) : Bool := slotSw e && slotKind e == 1

/-- The (seat, core) pairs that share through a rotation group in the table that DEAL.CFG.NEXT selects (R34). -/
def State.rotationShares (s : State) : List (Nat × Nat) :=
  let t := s.get DEAL_CFG_NEXT
  let es := ((List.range (s.tableLen t)).map (fun n => s.tableEntry t n)).filter slotSwitches
  ((es.map (fun e => (slotOwner e, slotSwg e))).dedup).flatMap (fun (seat, g) =>
    if seat = 0 then [] else ((List.range 32).filter (fun n => s.bitOf DEAL_ROTCORE_CORES n g)).map (fun n => (seat, n)))

/-- First page of crossing buffer x, and the number of its last page, in 4 KiB units from the DSTORE base. -/
def State.xbFirst (s : State) (x : Nat) : Nat := s.get SEAT_XBBASE_OFFSET x
def State.xbLast (s : State) (x : Nat) : Nat := s.xbFirst x + s.get SEAT_XBSIZE_NPAGE x
def State.xbOn (s : State) (x : Nat) : Bool := s.flag SEAT_XBCFG_EN x

/-- The entries that a code of Table DEV-7 looks at, and whether one fails. -/
def State.seatCheckCode (s : State) (code n : Nat) : Bool :=
  match code with
  | 1 => s.pairLocked n && s.coreOwner (2 * n) != s.coreOwner (2 * n + 1)
  | 2 =>
    let msc := s.get DSTORE_BCFG_MODE n == 1
    if s.flag SEAT_BANK_XING n then s.bankOwner n != 0 || msc else msc && s.bankOwner n == 0
  | 3 =>
    let b := s.xbFirst n / 1024
    s.xbOn n && (32 ≤ b || !s.flag SEAT_BANK_XING b || s.xbLast n / 1024 != b)
  | 4 => s.xbOn n && (List.range n).any (fun y => s.xbOn y && decide (s.xbFirst y ≤ s.xbLast n) && decide (s.xbFirst n ≤ s.xbLast y))
  | 5 =>
    let w := s.get SEAT_XBCFG_WRITER n
    let r := s.get SEAT_XBCFG_READER n
    s.xbOn n && (w == r || w == 0 || r == 0)
  | 6 =>
    let o := s.srcOwner n
    let t := s.get ICU_SRC_TGT n
    o != 0 && decide (t < 32) && s.coreOwner t != o && !s.rotationShares.contains (o, t)
  | _ => s.lanePairLocked n && s.laneOwner (2 * n) != s.laneOwner (2 * n + 1)

def seatCheckCount : Nat → Nat
  | 1 => 16
  | 2 => 32
  | 6 => 512
  | 7 => 32
  | _ => 64

/-- The first failure of the check of Table DEV-7: code and index. -/
def State.seatCheck (s : State) : Option (Nat × Nat) :=
  [1, 2, 3, 4, 5, 6, 7].findSome? (fun code =>
    ((List.range (seatCheckCount code)).find? (fun n => s.seatCheckCode code n)).map (fun n => (code, n)))

/-- A write of 1 to SEAT.LOCK.LOCK starts the check. -/
def seatLockWrite (s : State) : State := if s.seatLocked then s else { s with seatChecking := true }

/-- SEAT.LOCK is written by seat 0 only: page 0 is read-only for customer seats. -/
def execSeatLockWrite (by_ : Seat) (s : State) : Result :=
  if by_ ≠ 0 then .next (s.answer .error)
  else if s.seatLocked then .next (s.answer (.ok 0))
  else .next ((seatLockWrite s).answer .none)

/-- The check ends, and with it the write of LOCK is acknowledged. -/
def execSeatLockCheckDone (s : State) : Result :=
  if !s.seatChecking then .next s
  else
    let s := { s with seatChecking := false }
    match s.seatCheck with
    | none =>
      let shares := s.rotationShares
      .next ({ ((s.put SEAT_LOCK_LOCK 1).put SEAT_STAT_CHKERR 0).put SEAT_STAT_CHKIDX 0 with
        seatShares := shares }.answer (.ok 0))
    | some (code, n) =>
      let s := (s.put SEAT_STAT_CHKERR code).put SEAT_STAT_CHKIDX (n % 256)
      .next ((if code = 6 then s.put SEAT_VADDR_ADDR n else s).answer (.ok 0))

/-! ### Seat-switch events (R66 to R70) -/

/-- SWSTAT names the first overrun or miss. -/
def recordSwitch (f : Fld) (k seat : Nat) (s : State) : State :=
  let first := !s.flag DEAL_SWSTAT_OVR && !s.flag DEAL_SWSTAT_MISS
  let s := s.put f 1
  if first then (s.put DEAL_SWSTAT_CORE k).put DEAL_SWSTAT_SEAT seat else s

/-- A seat-switch event reaches core k. -/
def switchEvent (k : CoreId) (seat : Nat) (s : State) : State :=
  if s.trailing k.val then s
  else if s.cState k.val == 3 then recordSwitch DEAL_SWSTAT_MISS k.val seat s
  else
    let s := if (s.core k).switchEv.isSome then recordSwitch DEAL_SWSTAT_OVR k.val seat s else s
    s.mapCore k (fun c => { c with switchEv := some ⟨seat, 0⟩ })

/-- Does the limit of core k stand still (R69)? -/
def State.limitFrozen (s : State) (k : CoreId) : Bool :=
  s.openLife && s.flag DBG_CTL_WDFRZ && (s.core k).run == .halted

/-- The slots counted since each event advance by one. -/
def countSwitchSlots (s : State) : State :=
  s.mapCores (fun k => (s.core k).switchEv.isSome && !s.limitFrozen k)
    (fun c => { c with switchEv := c.switchEv.map (fun e => { e with slots := e.slots + 1 }) })

/-- SWSEAT of core k has not completed within DEAL.SWLIM slots of the event. -/
def execSwitchOverrun (k : CoreId) (s : State) : Result :=
  let c := s.core k
  match c.switchEv with
  | some e =>
    if max 8 (s.get DEAL_SWLIM_LIMIT) ≤ e.slots then
      let s := recordSwitch DEAL_SWSTAT_OVR k.val e.seat s
      .next (reportFault 0x04 c.seatid k.val 0
        (s.mapCore k (fun c => { c with run := .stopped, switchEv := none, load := none, fillWait := false })))
    else .next s
  | none => .next s

/-! ### Slots and rounds -/

/-- A round boundary (R58, R65, R71): the table that NEXT selects, its length, tokens, and a lock that waits for it. -/
def roundBoundary (s : State) : State :=
  let act := s.get DEAL_CFG_NEXT
  let s := (s.put DEAL_NOW_ACT act).put DEAL_ROUND_COUNT ((s.get DEAL_ROUND_COUNT + 1) % 2 ^ 32)
  let s := returnTokens { s with dealLen := s.tableLen act }
  if s.dealPassed then { (s.put DEAL_LOCK_LOCK 1).put DEAL_STAT_BUSY 0 with dealPassed := false } else s

/-- The next slot begins; `u`: what the check bits of its entry say (R79). An entry that cannot be corrected raises no
event. -/
def nextSlot (u : Upset) (s : State) : State :=
  let n := s.get DEAL_NOW_SLOT + 1
  let last := decide (s.dealLen ≤ n)
  let s := if last then roundBoundary s else s
  let n := if last then 0 else n
  let s := countSwitchSlots (s.put DEAL_NOW_SLOT n)
  match u with
  | .double =>
    let s := if s.flag DEAL_ERR_UE then s else (s.put DEAL_ERR_UE 1).put DEAL_ERR_UEIDX n
    reportFault 0x20 0 0 0 (raiseSrc srcDeal s)
  | _ =>
    let s := if u = .single then s.countUp DEAL_ERR_CE else s
    let e := s.curSlot
    if slotSwitches e then
      (List.finRange 32).foldl (fun t k =>
        if t.bitOf DEAL_ROTCORE_CORES k.val (slotSwg e) then switchEvent k (slotOwner e) t else t) s
    else s

/-! ### The lock of the Deal -/

/-- Runs of slots for which `p` holds in a round of `n`, counted cyclically: first slot and length, ascending. A run of
the whole round starts at slot 0. -/
def cyclicRuns (n : Nat) (p : Nat → Bool) : List (Nat × Nat) :=
  if (List.range n).all p then [(0, n)]
  else ((List.range n).filter (fun i => p i && !p ((i + n - 1) % n))).map (fun i =>
    (i, ((List.range n).takeWhile (fun d => p ((i + d) % n))).length))

/-- Each element with the cyclically next one's distance in a round of `n`. -/
def cyclicGaps (n : Nat) (l : List Nat) : List (Nat × Nat) :=
  match l with
  | [] => []
  | f :: _ => l.zipWith (fun a b => (a, b - a)) (l.drop 1 ++ [f + n])

/-- Length of a refresh run (Table DMC-4). -/
def State.refreshSlots (s : State) (c : Nat) : Nat := if s.get DMC_GEOM_DENS c = 1 then 30 else 22

/-- The least of a list of slots. -/
def leastOf (l : List Nat) : Option Nat := l.foldl (fun b x => match b with
  | none => some x
  | some y => some (min x y)) none

/-- Seats of a rotation group in the table. -/
def groupSeats (entry : Nat → Nat) (n g : Nat) : List Nat :=
  (((List.range n).map entry).filter (fun e => slotSwitches e && slotSwg e == g)).map slotOwner

/-- Core k in the second pass of code 0x06. -/
def State.rotCoreFails (s : State) (entry : Nat → Nat) (n k : Nat) : Bool :=
  let gs := [0, 1, 2, 3].filter (fun g => s.bitOf DEAL_ROTCORE_CORES k g)
  let mate := if k % 2 = 0 then k + 1 else k - 1
  decide (1 < gs.length) || gs.any (fun g =>
    (s.pairLocked (k / 2) && !s.bitOf DEAL_ROTCORE_CORES mate g) || !(groupSeats entry n g).contains (s.coreOwner k))

/-- The failure that one code of Table DEAL-3 finds first. -/
def State.dealCheckCode (s : State) (code : Nat) : Option Nat :=
  let t := s.get DEAL_CFG_NEXT
  let n := s.tableLen t
  let entry (i : Nat) : Nat := s.tableEntry t i
  let names (c e : Nat) : Bool := (slotCh e).testBit c
  match code with
  | 1 => (List.range n).find? (fun i =>
      let e := entry i
      (slotOwner e != 0 && slotKind e != 1) || (slotCh e == 0 && slotKind e == 2) || (slotSw e && slotKind e != 1))
  | 2 => (List.range n).find? (fun i =>
      let e := entry i
      (slotKind e == 1 || slotKind e == 2) && [0, 1, 2, 3].any (fun c =>
        names c e && (!s.chanReady c || (slotKind e == 1 && s.get DMC_BSET_UNITS c (slotOwner e) == 0))))
  | 3 => ((List.range (n / 64)).map (· * 64)).find? (fun b => !(List.range 64).any (fun i => slotKind (entry (b + i)) == 3))
  | 4 => leastOf ([0, 1, 2, 3].flatMap (fun c =>
      ((cyclicRuns n (fun i => (slotKind (entry i) == 1 || slotKind (entry i) == 2) && names c (entry i))).filter
        (fun r => decide (32 < r.2))).map (·.1)))
  | 5 => leastOf (([0, 1, 2, 3].filter s.chanReady).flatMap (fun c =>
      let runs := cyclicRuns n (fun i => slotKind (entry i) == 2 && names c (entry i))
      if runs.length = 0 then [0]
      else ((runs.filter (fun r => decide (r.2 < s.refreshSlots c))).map (·.1)) ++
        ((cyclicGaps n (runs.map (·.1))).filter (fun g => decide (s.get DEAL_RFI_MAXGAP < g.2))).map (·.1)))
  | 6 =>
    let sw := (List.range n).filter (fun i => slotSwitches (entry i))
    match sw.find? (fun i => s.get DEAL_ROTCORE_CORES (slotSwg (entry i)) == 0) with
    | some i => some i
    | none =>
      match (List.range 32).find? (fun k => s.rotCoreFails entry n k) with
      | some k => some k
      | none => leastOf ([0, 1, 2, 3].flatMap (fun g =>
          ((cyclicGaps n (sw.filter (fun i => slotSwg (entry i) == g))).filter
            (fun p => decide (p.2 < max 8 (s.get DEAL_SWLIM_LIMIT)))).map (·.1)))
  | _ =>
    let rsv := min (s.get PWC_TGBUDGET_RSV) (s.get PWC_TGBUDGET_TOTAL)
    let owns (seat : Nat) : Bool := (List.range n).any (fun i => slotKind (entry i) == 1 && slotOwner (entry i) == seat)
    customerSeats.find? (fun seat =>
      (s.get PWC_TGSHARE_SHARE seat != 0 && !owns seat) ||
        decide (rsv < ((List.range (seat + 1)).map (fun t => if t = 0 then 0 else s.get PWC_TGSHARE_SHARE t)).sum))

/-- The first failure of the Deal check. -/
def State.dealCheck (s : State) : Option (Nat × Nat) :=
  [1, 2, 3, 4, 5, 6, 7].findSome? (fun code => (s.dealCheckCode code).map (fun i => (code, i)))

/-- The check of a write of 1 to DEAL.LOCK.LOCK, which is acknowledged when it ends (R71). -/
def dealLockWrite (s : State) : State :=
  if s.dealFixed then s
  else match s.dealCheck with
    | none => { ((s.put DEAL_STAT_BUSY 1).put DEAL_STAT_CHKERR 0).put DEAL_STAT_CHKIDX 0 with dealPassed := true }
    | some (code, i) => (s.put DEAL_STAT_CHKERR code).put DEAL_STAT_CHKIDX i

def execDealLockWrite (by_ : Seat) (s : State) : Result := pageWrite by_.val 0 dealLockWrite s

/-! ### Time base -/

/-- Device time as an 80-bit number (R43), and a time put into a unit's CCTIME and CCFRAC. -/
def State.setTime (s : State) (v : Nat) : State :=
  { s.put TBS_NOW_NS (v / 2 ^ 16 % 2 ^ 64) with tbsFrac := BitVec.ofNat 16 v }
def State.unitTime (s : State) (n : Nat) : Nat := s.get TBS_CCTIME_NS n * 2 ^ 16 + s.get TBS_CCFRAC_FRAC n

/-- One PER_CLK edge: device time advances by RATE, and pulses of the last period end. -/
def perClkEdge (s : State) : State :=
  { s.setTime ((s.time80 + s.get TBS_RATE_INC) % 2 ^ 80) with tbsPulse := 0 }

/-- An input edge at capture unit n: the time of the first PER_CLK edge after it, less 10 ns (R45). -/
def execTbsCapture (n : Fin 32) (rising : Bool) (s : State) : Result :=
  let u := n.val
  let e := s.get TBS_CCCTL_EDGE u
  let wanted := match e with
    | 1 => !rising
    | 2 => true
    | _ => rising
  if s.device == .on && s.get TBS_CCCTL_MODE u == 1 && wanted then
    let t := (2 ^ 80 - 10 * 2 ^ 16 + s.time80 + s.get TBS_RATE_INC) % 2 ^ 80
    let s := (s.put TBS_CCTIME_NS (t / 2 ^ 16) u).put TBS_CCFRAC_FRAC (t % 2 ^ 16) u
    .next (if s.flag TBS_CCCTL_IRQ u then raiseSrc (srcTbs u) s else s)
  else .next s

/-- A match of unit n as the source of a lane group: a seat of the group holds the unit (R372), or the unit is not claimed and
the group is seat 0's. -/
def unitEvent (n : Nat) (s : State) : State :=
  let o := s.get TBS_CCCTL_OWNER n
  s.each [0, 1, 2, 3] (fun g t =>
    if t.get LG_SYNC_SRC g == 3 && t.get LG_SYNC_NUM g == n &&
        (if o = 0 then (List.range 16).all (fun i => t.laneOwner (16 * g + i) == 0)
          else (List.range 16).any (fun i => t.laneOwner (16 * g + i) == o)) then groupEvent g t else t)

/-- Pairs that wait for the compare match of unit n start (R397). -/
def startOnUnit (n : Nat) (s : State) : State :=
  let ps := (List.range 24).filter (fun p =>
    s.flag HRP_CTL_RUN p && !s.flag HRP_STAT_RUNNING p && s.get HRP_CTL_STSRC p == 2 && s.get HRP_CTL_TBSU p == n)
  startSlaves 24 ps (s.each ps startPair)

/-- Device time reaches the time of compare unit n (R46). -/
def execTbsCompareMatch (n : Fin 32) (s : State) : Result :=
  let u := n.val
  let one : BitVec 32 := 1#32 <<< u
  let mode := s.get TBS_CCCTL_MODE u
  if s.device == .on && decide (2 ≤ mode) && decide (s.unitTime u ≤ s.time80) && !s.tbsActed.getLsbD u then
    let s := if mode = 2 then { s.put TBS_CCCTL_MODE 0 u with tbsPulse := s.tbsPulse ||| one }
      else { s with tbsOut := s.tbsOut ^^^ one, tbsActed := s.tbsActed ||| one }
    let s := if s.flag TBS_CCCTL_IRQ u then raiseSrc (srcTbs u) s else s
    .next (startOnUnit u (unitEvent u s))
  else .next s

end Sys2Proof.Machine
end

