-- ==== Sys2Proof/Machine/Fab.lean ====
section
/-!
DEFINITION. The fabric (R314, R317 to R324): the choice of a flit at an output port with the check of its protection, the
quench, and dead and isolated targets.
-/

namespace Sys2Proof.Machine

/-! ### Flits -/

/-- Order of precedence of a flit at an output port (R314), lowest first. -/
def flitRank (kind owner mgt : Nat) (f : Flit) : Nat :=
  if f.vn = 3 then if kind = 3 then 1 else if kind ≠ 1 ∧ 7 ≤ mgt then 4 else 6
  else if f.guar then if kind = 1 ∧ owner = f.seat.val then 2 else 3
  else 5

/-- The flit that goes first: by rank, then by slot of injection, then by position. -/
def firstFlit (kind owner mgt : Nat) (l : List Flit) : Option Flit :=
  l.foldl (fun best f => match best with
    | none => some f
    | some b =>
      let rb := flitRank kind owner mgt b
      let rf := flitRank kind owner mgt f
      if rf < rb ∨ (rf = rb ∧ f.inj < b.inj) then some f else some b) none

/-- The first error that is not corrected (FAB.ELOG). -/
def fabLog (kind router port : Nat) (f : Flit) (s : State) : State :=
  if s.flag FAB_ELOG_VALID then s
  else
    let known := kind ≠ 3
    ((((((s.put FAB_ELOG_VALID 1).put FAB_ELOG_KIND kind).put FAB_ELOG_VN f.vn.val).put FAB_ELOG_ROUTER router).put
      FAB_ELOG_PORT port).put FAB_ELOG_SEAT (if known then f.seat.val else 0)).put FAB_ELOG_TGT (if known then f.tgt.toNat else 0)

/-- A flit arrives at a router's input port, with its check (Table FAB-4); none where the packet is discarded. `eject`:
the router is the packet's last. -/
def arriveFlit (router port : Nat) (eject : Bool) (f : Flit) (s : State) : Option Flit × State :=
  let clean : Flit := { f with err := .none }
  if f.err = .none then (some f, s)
  else if f.head then
    if f.err = .single then (some clean, s.countUp FAB_ERR_CE)
    else (none, reportFault 0x21 0 router 0 (fabLog 3 router port f s))
  else if !f.e2e then
    (some { clean with poison := true }, reportFault 0x16 f.seat.val router 0 (fabLog 1 router port f (s.countUp FAB_ERR_UE)))
  else if !eject then (some f, s)
  else if f.err = .single then (some clean, s.countUp FAB_ERR_CE)
  else
    (some { clean with poison := true }, reportFault 0x17 f.seat.val router 0 (fabLog 2 router port f (s.countUp FAB_ERR_UE)))

/-- The state of an output port. -/
def State.fabPort (s : State) (router port : Nat) : FabPort :=
  (s.fabPorts.find? (fun p => p.router == router && p.port == port)).getD ⟨router, port, [], 7⟩

/-- One fabric cycle at output port `out` of a router: the flits of `arrivals`, each at an input port, are checked and wait
for it with those before them; the one that R314 puts first is sent. `eject`: the port leads to an agent. -/
def execFlitHop (router : Fin 38) (out : Fin 16) (eject : Bool) (arrivals : List (Fin 16 × Flit)) (s : State) : Result :=
  let r := router.val
  let (q, s) := arrivals.foldl (fun (q, t) (p, f) =>
    let (g, t) := arriveFlit r p.val eject f t
    (q ++ g.toList, t)) ((s.fabPort r out.val).queue, s)
  let old := s.fabPort r out.val
  let pick := firstFlit (slotKind s.curSlot) (slotOwner s.curSlot) old.mgt q
  let mgt := match pick with
    | some f => if f.vn = 3 then 0 else old.mgt + 1
    | none => old.mgt + 1
  let q := match pick with
    | some f => q.erase f
    | none => q
  .next { s with
    fabPorts := s.fabPorts.filter (fun p => !(p.router == r && p.port == out.val)) ++ [⟨r, out.val, q, min mgt 7⟩]
    fabSent := pick }

/-! ### Quench -/

/-- A write of FAB.QUENCH; page 0 is seat 0's. -/
def execFabQuenchWrite (by_ : Seat) (value : Word32) (s : State) : Result :=
  pageWrite by_.val 0 (writeFields by_.val FAB_QUENCH 0 0 value.toNat 0xFFFFFFFF) s

/-! ### Dead targets -/

/-- Frame of legacy controller c: MVB0, MVB1, CAN0 to CAN7, I2C0, I2C1, SPI0 to SPI3, UART0 to UART3. -/
def ctlFrame (c : Nat) : Nat :=
  if c < 2 then 0x23200000 + c * 0x10000
  else if c < 10 then 0x23300000 + (c - 2) * 0x10000
  else if c < 12 then 0x23500000 + (c - 10) * 0x10000
  else if c < 16 then 0x23600000 + (c - 12) * 0x10000
  else 0x23700000 + (c - 16) * 0x10000

/-- Owner of a legacy controller (R517): the customer seat whose table maps its frame. -/
def State.ctlOwner (s : State) (c : Nat) : Nat :=
  (customerSeats.find? (fun seat => match checkSeat seat (ctlFrame c) .read s with
    | .ok _ => true
    | _ => false)).getD 0

/-- Owner seats of a target for its dead-target fault (R321). -/
def State.targetOwners (s : State) (t : Nat) : List Nat :=
  if t < 0x20 then [s.bankOwner t]
  else if t < 0x24 then
    let l := customerSeats.filter (fun seat => s.get DMC_BSET_UNITS (t - 0x20) seat != 0)
    if l.length = 0 then [0] else l
  else if 0x58 ≤ t ∧ t ≤ 0x5B then [s.groupOwner (t - 0x58)]
  else if 0x60 ≤ t ∧ t ≤ 0x9F then [s.laneOwner (t - 0x60)]
  else if 0xA0 ≤ t ∧ t ≤ 0xBF then [s.coreOwner (t - 0xA0)]
  else if t = 0xDB ∨ t = 0xDC then [s.ctlOwner (t - 0xDB)]
  else if 0xE0 ≤ t ∧ t ≤ 0xE7 then [s.ctlOwner (2 + (t - 0xE0))]
  else if 0xEA ≤ t ∧ t ≤ 0xEB then [s.ctlOwner (10 + (t - 0xEA))]
  else if 0xEC ≤ t ∧ t ≤ 0xEF then [s.ctlOwner (12 + (t - 0xEC))]
  else if 0xF0 ≤ t ∧ t ≤ 0xF3 then [s.ctlOwner (16 + (t - 0xF0))]
  else [0]

/-- Every outstanding request to target t is answered with an error response: loads that wait, and stores on their way. -/
def answerWithError (t : Nat) (s : State) : State :=
  s.mapCores (fun _ => true) (fun c => { c with
    load := c.load.map (fun l => if l.parts.any (fun p => s.targetOf p.pa == some t) then { l with err := true } else l)
    stores := c.stores.map (fun e => if e.sent && s.targetOf e.pa == some t then { e with err := true } else e) })

/-- A request to target t has waited FAB.DTTMO without a response. -/
def execDeadTargetTimeout (t : BitVec 8) (s : State) : Result :=
  let n := t.toNat
  if !targetListed n || s.targetDown n then .next s
  else
    let s := (answerWithError n s).put FAB_TGT_DEAD 1 n
    let s := (s.targetOwners n).foldl (fun u seat =>
      let u := reportFault 0x0F seat n 0 u
      if seat = 0 then u else noteSeat 0x0F04 seat [] u) s
    .next (if s.flag FAB_STAT_DEADEV then s
      else raiseSrc srcFab ((s.put FAB_STAT_DEADEV 1).put FAB_STAT_FIRST n))

/-- A write of FAB.TGT: DEAD = 1 with ISO = 0 restores the target, ISO = 1 isolates it. -/
def tgtWrite (t value : Nat) (s : State) : State :=
  if !targetListed t then s
  else
    let iso := slice value 30 1 == 1
    let s := if iso && !s.flag FAB_TGT_ISO t then answerWithError t s else s
    let s := s.put FAB_TGT_ISO (bit iso) t
    if slice value 31 1 = 1 ∧ !iso then s.put FAB_TGT_DEAD 0 t else s

def execTgtRestore (by_ : Seat) (t : BitVec 8) (s : State) : Result := pageWrite by_.val 0 (tgtWrite t.toNat 0x80000000) s
def execTgtIsolate (by_ : Seat) (t : BitVec 8) (s : State) : Result := pageWrite by_.val 0 (tgtWrite t.toNat 0x40000000) s

/-- A response arrives from a target that is dead or isolated, or for a request that has been answered already. -/
def execLateResponse (t : BitVec 8) (s : State) : Result :=
  if targetListed t.toNat then .next (s.countUp FAB_ERR_LATE) else .next s

end Sys2Proof.Machine
end

