-- ==== Sys2Proof/Machine/Dram.lean ====
section
/-!
DEFINITION. The DRAM controllers (R327 to R349): queues with credits and the urgency ladder, windows and refresh as a slot
brings them, page policy, the write queue, temperature, training, bank sets and the patrol scrub; and the DSTORE banks'
zeroing, scrub and modes (R274 to R280). Data moves when the requester's step completes; a controller's queue shows who
waits, and for how long the levels say.
-/

namespace Sys2Proof.Machine

/-! ### Slots of a channel -/

/-- Is slot entry `e` open on channel c (Table DEAL-1)? -/
def openOn (c e : Nat) : Bool := slotKind e == 0 || slotKind e == 3 || !(slotCh e).testBit c

/-- Entries of the active table, over its round. -/
def State.activeEntry (s : State) (n : Nat) : Nat := s.slotEntry (n % s.dealLen)

/-- Does the active table hold a refresh run for channel c? -/
def State.hasRefreshRun (s : State) (c : Nat) : Bool :=
  (List.range s.dealLen).any (fun n => slotKind (s.slotEntry n) == 2 && (slotCh (s.slotEntry n)).testBit c)

/-- Does the active table give `seat` a window on channel c? -/
def State.hasWindow (s : State) (seat c : Nat) : Bool :=
  (List.range s.dealLen).any (fun n =>
    slotKind (s.slotEntry n) == 1 && slotOwner (s.slotEntry n) == seat && (slotCh (s.slotEntry n)).testBit c)

/-! ### Queues -/

def State.mapDmc (s : State) (c : Nat) (f : Dmc → Dmc) : State := { s with dmc := s.dmc.set! c (f s.dmc[c]!) }

/-- A row access under the page policy (R336): the bank holds the row, or none. -/
def touchRow (c : Nat) (r : DmcReq) (s : State) : State :=
  let (b, row) := Config.dramBankRow r.pa
  let keep := if r.guar then false
    else match r.hint with
      | 1 => true
      | 2 => false
      | _ => s.flag DMC_CFG_PPOL c
  s.mapDmc c (fun d => { d with rows := d.rows.filter (fun x => x.1 != b) ++ (if keep then [(b, row)] else []) })

/-- Request `r` leaves the queue of channel c. -/
def serveReq (c : Nat) (r : DmcReq) (s : State) : State :=
  touchRow c r (s.mapDmc c (fun d => { d with queue := d.queue.erase r }))

/-- Does a request hit an open row? -/
def rowHit (d : Dmc) (r : DmcReq) : Bool := d.rows.contains (Config.dramBankRow r.pa)

/-- The best-effort request that goes first among those `p` allows (R338): the higher level; within U0 and U1 row hits
first; then the oldest. No row is opened for U0 or U1 in a bank where a U2 request waits. -/
def nextBestEffort (d : Dmc) (p : DmcReq → Bool) : Option DmcReq :=
  let cand := d.queue.filter (fun r => !r.guar && p r &&
    (decide (2 ≤ r.level) || rowHit d r ||
      !d.queue.any (fun x => decide (2 ≤ x.level) && (Config.dramBankRow x.pa).1 == (Config.dramBankRow r.pa).1)))
  let key (r : DmcReq) : Nat := if 2 ≤ r.level then 2 * r.level + 1 else 2 * r.level + bit (rowHit d r)
  cand.foldl (fun best r => match best with
    | none => some r
    | some b => if key b < key r then some r else some b) none

/-- Serve up to `n` best-effort reads (and writes at U3, R340) that `p` allows. -/
def serveBestEffort (c : Nat) (p : DmcReq → Bool) : Nat → State → State
  | 0, s => s
  | n + 1, s =>
    match nextBestEffort s.dmc[c]! (fun r => p r && (!r.write || r.level == 3)) with
    | none => s
    | some r => serveBestEffort c p n (serveReq c r s)

/-- Serve up to `n` guaranteed requests of `seat`, in order of arrival (R62, R63). -/
def serveGuaranteed (c seat : Nat) : Nat → State → State
  | 0, s => s
  | n + 1, s =>
    match (s.dmc[c]!).queue.find? (fun r => r.guar && r.seat == seat) with
    | none => s
    | some r => serveGuaranteed c seat n (serveReq c r s)

/-- What a slot brings channel c: a window of its owner with 4 transfers on each subchannel, the rest of which serves the
owner's best effort; a refresh, which closes every row; or best effort of all seats, one burst of 2.5 ns at a time on
each subchannel (log 44). -/
def channelSlot (c : Nat) (s : State) : State :=
  let e := s.curSlot
  if !s.chanReady c then s
  else if openOn c e then
    let owned := slotKind e == 1
    serveBestEffort c (fun r => !owned || r.seat == slotOwner e) 8 s
  else if slotKind e = 1 then
    let before := (s.dmc[c]!).queue.length
    let s := s.mapDmc c (fun d => { d with
      rows := d.rows.filter (fun x => !d.queue.any (fun r => r.seat == slotOwner e && (Config.dramBankRow r.pa).1 == x.1)) })
    let s := serveGuaranteed c (slotOwner e) 8 s
    serveBestEffort c (fun r => r.seat == slotOwner e) (8 - (before - (s.dmc[c]!).queue.length)) s
  else s.mapDmc c (fun d => { d with rows := [], postponed := 0 })

/-- The slot of the Deal on every channel (R335, R341). -/
def dramSlot (s : State) : State := s.each [0, 1, 2, 3] channelSlot

/-- A slot begins (R55). The Deal stands still outside ON. -/
def execSlotStart (u : Upset) (s : State) : Result := if s.device == .on then .next (dramSlot (nextSlot u s)) else .next s

/-- The round boundary after a passed check, with the slot that begins there. -/
def execDealLockActivate (u : Upset) (s : State) : Result :=
  if s.device == .on && s.dealPassed && decide (s.dealLen ≤ s.get DEAL_NOW_SLOT + 1) then .next (dramSlot (nextSlot u s)) else .next s

/-- A request of 64 bytes arrives at channel c through a port (R337): it needs a credit of the port unless it is
guaranteed. A guaranteed one outside its seat's bank set, or without a window on the channel, is served as best effort
and sets GDOWN (R334). -/
def execDmcRequest (c : Fin 4) (port : Fin 16) (seat : Seat) (pa : BitVec 48) (write guar : Bool) (hint : Fin 4) (s : State) : Result :=
  let ch := c.val
  let a := pa.toNat / 64 * 64
  if s.device != .on || !s.chanReady ch || !isDram a || s.chanOf a != ch || s.dramCapacity ≤ a - 0x010000000000 then .next s
  else
    let served := guar && s.bitOf DMC_BSET_UNITS (s.unitOf a) ch seat.val && s.hasWindow seat.val ch
    let s := if guar && !served && decide (seat.val ≠ 0) then s.put DMC_STAT_GDOWN 1 ch else s
    let held := ((s.dmc[ch]!).queue.filter (fun r => !r.guar && r.port == port.val && r.write == write)).length
    let room := !write || served || decide (((s.dmc[ch]!).queue.filter (fun r => r.write && !r.guar)).length < 64)
    if !served && (8 ≤ held || !room) then .next s
    else .next (s.mapDmc ch (fun d => { d with queue := d.queue ++ [⟨port.val, seat.val, a, write, served, hint.val, 0⟩] }))

/-- The age of the i-th request of channel c crosses a threshold of Table DMC-3. -/
def execUrgencyEscalation (c : Fin 4) (i : Nat) (s : State) : Result :=
  let ch := c.val
  match (s.dmc[ch]!).queue[i]? with
  | none => .next s
  | some r =>
    if r.guar || 3 ≤ r.level then .next s
    else
      let s := s.mapDmc ch (fun d => { d with queue := d.queue.set i { r with level := r.level + 1 } })
      .next (if r.level = 2 then s.countUp DMC_STAT_U3CNT ch else s)

/-- The write queue of channel c drains (R340). `u`: what the check bits say of the line that a partial write reads. -/
def execWriteQueueDrain (c : Fin 4) (u : Upset) (s : State) : Result :=
  let ch := c.val
  let q := (s.dmc[ch]!).queue
  let ws := q.filter (fun r => r.write && !r.guar)
  match ws with
  | [] => .next s
  | w :: _ =>
    if 48 ≤ ws.length || ws.any (fun r => decide (2 ≤ r.level)) || !q.any (fun r => !r.write) then
      .next (ws.foldl (fun t r => serveReq ch r t) (memUpset w.pa false u s))
    else .next s

/-- An open row of a bank without a further hit is closed after the idle timeout (R336). -/
def execRowIdleClose (c : Fin 4) (bank : Nat) (s : State) : Result :=
  let d := s.dmc[c.val]!
  if d.queue.any (fun r => rowHit d r && (Config.dramBankRow r.pa).1 == bank) then .next s
  else .next (s.mapDmc c.val (fun d => { d with rows := d.rows.filter (fun x => x.1 != bank) }))

/-- A write of channel c raises a CRC alert and is replayed from the queue (R348). `u`: what the check bits say of the line
that the replay of a partial write reads. -/
def execCrcAlertReplay (c : Fin 4) (u : Upset) (s : State) : Result :=
  match (s.dmc[c.val]!).queue.find? (·.write) with
  | none => .next s
  | some r => .next (memUpset r.pa false u (s.countUp DMC_ERR_CE c.val))

/-! ### Refresh and temperature -/

/-- Channel c refreshes on its own schedule, or postpones while requests wait, at most 4 times (R342). -/
def execDmcSelfRefresh (c : Fin 4) (postpone : Bool) (s : State) : Result :=
  let ch := c.val
  let d := s.dmc[ch]!
  if s.device != .on || !s.chanReady ch || s.hasRefreshRun ch then .next s
  else if postpone && decide (d.postponed < 4) && d.queue.length != 0 then
    .next (s.mapDmc ch (fun d => { d with postponed := d.postponed + 1 }))
  else .next (s.mapDmc ch (fun d => { d with postponed := 0, rows := [] }))

/-- Can refreshes be added to the active table of channel c so that no two starts are more than 195 slots apart (R343)?
Starts of runs, and slots at which a stretch open on the channel is long enough. -/
def State.refreshFits (s : State) (c : Nat) : Bool :=
  let n := s.dealLen
  let starts := (cyclicRuns n (fun i => slotKind (s.activeEntry i) == 2 && (slotCh (s.activeEntry i)).testBit c)).map (·.1)
  let cand := (List.range n).filter (fun i => (List.range (s.refreshSlots c)).all (fun d => openOn c (s.activeEntry (i + d))))
  (cyclicGaps n ((List.range n).filter (fun i => starts.contains i || cand.contains i))).all (fun g => decide (g.2 ≤ 195))

/-- OVHT becomes 1: the fault goes to every seat with a bank set on the channel. -/
def setOverheat (c : Nat) (s : State) : State :=
  if s.flag DMC_STAT_OVHT c then s
  else
    let owners := customerSeats.filter (fun seat => s.get DMC_BSET_UNITS c seat != 0)
    (if owners.length = 0 then [0] else owners).foldl (fun t seat => reportFault 0x0E seat c 0 t) (s.put DMC_STAT_OVHT 1 c)

/-- The thermal sensors of the DIMMs of channel c are read (R343). -/
def execDmcTempRead (c : Fin 4) (t0 t1 : BitVec 8) (s : State) : Result :=
  let ch := c.val
  if !s.chanReady ch then .next s
  else
    let s := ((s.put DMC_TEMP_VALID 1 ch).put DMC_TEMP_DIMM0 t0.toNat ch).put DMC_TEMP_DIMM1 t1.toNat ch
    let two := decide (2 ≤ s.get DMC_GEOM_NDIMM ch)
    let hottest : Int := if two then max t0.toInt t1.toInt else t0.toInt
    if hottest ≤ 85 then
      let s := s.mapDmc ch (fun d => { d with cool := min 100 (d.cool + 1) })
      .next (if (s.dmc[ch]!).cool = 100 then (s.put DMC_STAT_HOT 0 ch).put DMC_STAT_OVHT 0 ch else s)
    else
      let s := (s.mapDmc ch (fun d => { d with cool := 0 })).put DMC_STAT_HOT 1 ch
      let blocked := s.hasRefreshRun ch && decide (195 < s.get DEAL_RFI_MAXGAP) && !s.refreshFits ch
      .next (if 95 < hottest || blocked then setOverheat ch s else s)

/-! ### Training, bank sets, scrub -/

/-- Channel c finishes training: the geometry of its DIMMs, or none where training fails (R345). -/
def execDramTrainingDone (c : Fin 4) (geom : Option Word32) (s : State) : Result :=
  let ch := c.val
  if s.device != .on || s.chanReady ch || s.flag DMC_STAT_TRERR ch then .next s
  else match geom with
    | none => .next (s.put DMC_STAT_TRERR 1 ch)
    | some w =>
      let v := w.toNat
      -- the training results are the outside's: free values
      let s := s.each (List.range 1024) (fun i t =>
        let (x, t) := t.draw
        t.setReg DMC_TRNDATA (x.toNat % 2 ^ 32) ch i)
      .next ((((((s.put DMC_GEOM_CAP (slice v 16 11) ch).put DMC_GEOM_X8 (slice v 7 1) ch).put DMC_GEOM_DENS (slice v 4 3) ch).put
        DMC_GEOM_RANKS (slice v 2 2) ch).put DMC_GEOM_NDIMM (slice v 0 2) ch).put DMC_STAT_READY 1 ch)

/-- A write of BSET: refused where it names another seat's unit; units above those of the ranks read 0 (R332). -/
def bsetWrite (c seat value : Nat) (s : State) : State :=
  let v := value % 2 ^ (8 * s.numRanks c)
  if s.dealFixed then s
  else if customerSeats.any (fun t => t != seat && (s.get DMC_BSET_UNITS c t &&& v) != 0) then s.put DMC_STAT_BSCONF 1 c
  else s.put DMC_BSET_UNITS v c seat

def execBsetWrite (by_ : Seat) (c : Fin 4) (seat : Seat) (value : Word32) (s : State) : Result :=
  pageWrite by_.val 0 (fun s => if seat = 0 then s else bsetWrite c.val seat.val value.toNat s) s

/-- Physical address of a channel-local address (R330). -/
def State.globalAddr (s : State) (c a : Nat) : Nat :=
  0x010000000000 + (a / s.grain * s.numChans + c) * s.grain + a % s.grain

/-- The patrol scrub reads the next line of channel c, in a slot open on it (R349). -/
def execDmcScrubRead (c : Fin 4) (u : Upset) (s : State) : Result :=
  let ch := c.val
  if s.device != .on || !s.chanReady ch || !s.flag DMC_SCRUB_EN ch || !openOn ch s.curSlot then .next s
  else
    let lines := s.get DMC_GEOM_CAP ch * 0x400000
    let i := (s.dmc[ch]!).scrub
    let s := memUpset (s.globalAddr ch (i * 64)) true u s
    let s := s.mapDmc ch (fun d => { d with scrub := if i + 1 < lines then i + 1 else 0 })
    .next (if i + 1 < lines then s else s.countUp DMC_SCRUB_PASSES ch)

/-! ### DSTORE -/

/-- A bank has been zeroed (R277). -/
def execDstoreZeroDone (b : Fin 32) (s : State) : Result :=
  if s.bitOf DSTORE_INITSTAT_BUSY b.val then
    .next ((s.zeroMem (bankBase b.val) 0x400000).putBit DSTORE_INITSTAT_BUSY b.val false)
  else .next s

/-- Is the current slot open for DSTORE bank b (Table DEAL-2)? -/
def State.openForBank (s : State) : Bool := slotKind s.curSlot != 1

/-- Bank b scrubs its next line (R280). In a memory-side cache bank an uncorrectable line is invalidated (R278); the
place of a line in such a bank is the model's (log 45). -/
def execDstoreScrubRead (b : Fin 32) (u : Upset) (s : State) : Result :=
  let n := b.val
  if s.device != .on || !s.flag DSTORE_SCRUB_EN || s.bitOf DSTORE_INITSTAT_BUSY n || !s.openForBank then .next s
  else
    let i := s.dstoreScrub[n]!
    let s :=
      if s.get DSTORE_BCFG_MODE n = 1 then
        match u with
        | .single => s.countUp DSTORE_ERR_CE
        | .double => { s with msc := s.msc.filter (fun t => !(t.bank == n && t.set == i / 4 && t.way == i % 4)) }
        | _ => s
      else memUpset (bankBase n + i * 64) true u s
    let s := { s with dstoreScrub := s.dstoreScrub.set! n ((i + 1) % 65536) }
    .next (if i = 65535 && s.dstoreScrub.toList.all (· == 0) then s.countUp DSTORE_SCRUB_PASSES else s)

/-- A write of BCFG: a ninth memory-side cache bank is refused (R274). -/
def bcfgWrite (b value : Nat) (s : State) : State :=
  let cached := ((List.range 32).filter (fun n => n != b && s.get DSTORE_BCFG_MODE n == 1)).length
  if slice value 0 2 = 1 ∧ 8 ≤ cached then s
  else
    let t := writeFields 0 DSTORE_BCFG b 0 value 0xFFFFFFFF s
    if t.get DSTORE_BCFG_MODE b = s.get DSTORE_BCFG_MODE b then t else { t with msc := t.msc.filter (fun x => x.bank != b) }

def execDstoreBcfgWrite (by_ : Seat) (b : Fin 32) (value : Word32) (s : State) : Result :=
  pageWrite by_.val 0 (bcfgWrite b.val value.toNat) s

end Sys2Proof.Machine
end

