-- ==== Sys2Proof/Machine/Lcc.lean ====
section
/-!
DEFINITION. Life cycle, fuses, crypto engine and persistent words (R477 to R495).
-/

namespace Sys2Proof.Machine

/-! ### Fuses (R481, R482) -/

/-- First fuse and number of fuses of a field code (R488, Table LCK-1); no fuse for other codes. -/
def fuseField (f : Nat) : Nat × Nat :=
  if f ≤ 0x04 then (0x20 * f, 32)
  else if f = 0x05 then (0x00A0, 16)
  else if f = 0x06 then (0x00B0, 16)
  else if 0x08 ≤ f ∧ f ≤ 0x10 then (0x00C0 + 3 * (f - 0x08), 3)
  else if 0x18 ≤ f ∧ f ≤ 0x20 then (0x00E0 + 3 * (f - 0x18), 3)
  else if f = 0x28 then (0x0100, 16)
  else if 0x30 ≤ f ∧ f ≤ 0x33 then (0x0200 + 256 * (f - 0x30), 256)
  else if f = 0x40 then (0x0600, 256)
  else if 0x41 ≤ f ∧ f ≤ 0x49 then (0x0700 + 256 * (f - 0x41), 256)
  else if f = 0x50 then (0x1000, 256)
  else if f = 0x51 then (0x1100, 256)
  else if f = 0x52 then (0x1200, 64)
  else (0, 0)

/-- Field codes by kind. -/
def isGroup (f : Nat) : Bool := decide (f ≤ 4)
def isErase (f : Nat) : Bool := f == 5 || f == 6
def isRevoke (f : Nat) : Bool := decide (0x08 ≤ f) && decide (f ≤ 0x10)
def isProvision (f : Nat) : Bool := decide (0x18 ≤ f) && decide (f ≤ 0x20)
def isCounter (f : Nat) : Bool := decide (0x30 ≤ f) && decide (f ≤ 0x33)
def isValue (f : Nat) : Bool := (decide (0x40 ≤ f) && decide (f ≤ 0x49)) || (decide (0x50 ≤ f) && decide (f ≤ 0x52))

/-- The fuses of a field, in ascending order. -/
def fusesOf (f : Nat) : List Nat := (List.range (fuseField f).2).map ((fuseField f).1 + ·)
/-- Is fuse i blown? -/
def State.fuse (s : State) (i : Nat) : Bool := s.fuses.getLsbD i
/-- Blown fuses of a field. -/
def State.blownIn (s : State) (f : Nat) : Nat := ((fusesOf f).filter s.fuse).length
/-- Blown fuses at which a group, a flag or the lock counts as blown (R477, R482, Table LCK-1). -/
def fuseNeed (f : Nat) : Nat := if isGroup f then 17 else if isErase f || f == 0x28 then 9 else 2
/-- Is a group, flag or lock set? -/
def State.fuseSet (s : State) (f : Nat) : Bool := decide (fuseNeed f ≤ s.blownIn f)
/-- A group with some of its fuses blown, too few to count (R479). -/
def State.fusePart (s : State) (f : Nat) : Bool := decide (0 < s.blownIn f) && !s.fuseSet f
/-- Blow fuses. -/
def State.blow (s : State) (l : List Nat) : State :=
  { s with fuses := l.foldl (fun v i => v ||| BitVec.ofNat 8192 (2 ^ i)) s.fuses }
/-- A value field as bytes, lowest fuse first. -/
def State.fuseBytes (s : State) (f : Nat) : List Byte :=
  let (lo, n) := fuseField f
  (List.range (n / 8)).map (fun i => s.fuses.extractLsb' (lo + 8 * i) 8)

/-- Revoked and provisioned slots (R484). LCC blows no provisioned flag of slot 0 (Table LCK-4), so the maker's slot is
provisioned while its hash is written (log 46). -/
def State.slotRevoked (s : State) (k : Nat) : Bool := s.fuseSet (0x08 + k)
def State.slotProvisioned (s : State) (k : Nat) : Bool :=
  if k = 0 then s.fuseWritten.contains 0x41 else s.fuseSet (0x18 + k)
/-- A spoiled slot: its hash is written and its flag is clear. -/
def State.slotSpoiled (s : State) (k : Nat) : Bool := s.fuseWritten.contains (0x41 + k) && !s.slotProvisioned k
/-- Has the field a value that a check can match (R482, R480)? -/
def State.fieldGood (s : State) (f : Nat) : Bool :=
  s.fuseWritten.contains f && !s.fuseDamaged.contains f && !s.fuseDestroyed.contains f
/-- Value of rollback counter c (R486). -/
def State.rollback (s : State) (c : Nat) : Nat := (((fusesOf (0x30 + c)).take 255).filter s.fuse).length

/-- Checks of R457 on a carried key: revocation, provisioning and key hash; the REASON of the first failure. -/
def State.keyCheck (s : State) (slot : Nat) (key : List Byte) : Option Nat :=
  if s.slotRevoked slot then some 0x04
  else if slot ≤ 8 && s.slotProvisioned slot && s.fieldGood (0x41 + slot) &&
      Config.shake256 32 key == s.fuseBytes (0x41 + slot) then none
  else some 0x03

/-- Checks of R457 on a signed object: the key, then the signature. -/
def State.signedCheck (s : State) (slot : Nat) (key ctx body sig : List Byte) : Option Nat :=
  match s.keyCheck slot key with
  | some r => some r
  | none => if Config.ed448Verify key ctx body sig then none else some 0x05

/-- Life-cycle state that the groups give (R477). -/
def State.groupState (s : State) : Nat :=
  if s.fuseSet 4 then 5 else if s.fuseSet 3 then 4 else if s.fuseSet 2 then 3 else if s.fuseSet 1 then 2
  else if s.fuseSet 0 then 1 else 0

/-- Field codes that may be damaged, in ascending order. -/
def valueFields : List Nat := [0x40, 0x41, 0x42, 0x43, 0x44, 0x45, 0x46, 0x47, 0x48, 0x49, 0x50, 0x51, 0x52]

/-- The fuse load (R477, R479, R482, R484, R449 step 1). `damage`: the value fields whose check bits show an
uncorrectable error. -/
def fuseLoad (damage : List Nat) (s : State) : State :=
  let bad := valueFields.filter (fun f => damage.contains f)
  let s := { s with fuseDamaged := bad, fuseOp := none }
  let spoil := ((List.range 9).map (fun k => bit (s.slotSpoiled k) * 2 ^ k)).sum
  let s := (((s.put LCC_STATE_STATE s.groupState).put LCC_STAT_PEND 0).put LCC_STAT_PART
    (bit ((List.range 7).any s.fusePart))).put LCC_STAT_SPOIL spoil
  let s := match bad with
    | [] => (s.put LCC_STAT_FDMG 0).put LCC_STAT_DMGFLD 0
    | f :: _ => (s.put LCC_STAT_FDMG 1).put LCC_STAT_DMGFLD f
  s.put BNV_STAT_S0LOCK (bit (s.fuseSet 0x28))

/-! ### Programming (R483 to R487) -/

/-- Is an operation on a field permitted in the life-cycle state (Tables LCK-2 and LCK-4)? -/
def State.fusePermitted (s : State) (op f : Nat) : Bool :=
  let lc := s.lifeCycle
  let among (l : List Nat) : Bool := l.contains lc
  match op with
  | 1 =>
    if f = 0x40 ∨ f = 0x41 ∨ f = 0x50 ∨ f = 0x51 ∨ f = 0x52 then lc == lcMaker
    else isValue f && among [lcProvision, lcDevelopment, lcField]
  | 2 =>
    if f = 0x28 then lc == lcMaker
    else if f = 0x08 then among [lcMaker, lcEnd]
    else if isRevoke f then among [lcProvision, lcDevelopment, lcField, lcReturn, lcEnd]
    else if isProvision f then f != 0x18 && among [lcProvision, lcDevelopment, lcField]
    else if f = 5 then lc == lcReturn
    else if f = 6 then lc == lcEnd
    else if f = 0 then lc == lcMaker && [0x40, 0x41, 0x50, 0x51, 0x52].all (fun g => s.fuseWritten.contains g)
    else if f = 1 then lc == lcProvision
    else if f = 2 then among [lcProvision, lcDevelopment]
    else if f = 3 then among [lcDevelopment, lcField]
    else f == 4 && lc != lcEnd
  | 3 => isCounter f && among [lcDevelopment, lcField]
  | 4 => if f = 0x51 then among [lcReturn, lcEnd] else isValue f && f != 0x40 && f != 0x52 && lc == lcEnd
  | _ => false

/-- Is a value field blank, its check fuses included (R483)? -/
def State.fuseBlank (s : State) (f : Nat) : Bool := !s.fuseWritten.contains f && s.blownIn f == 0

/-- Conditions under which LCC refuses to program (R487). -/
def State.fuseUnsafe (s : State) : Bool := s.flag SFI_STAT_DSAFE || s.flag SFI_MON_VOLTF || s.flag SFI_MON_TWARN

/-- The fuses that an operation blows; `data` is PDATA. -/
def State.fuseBits (s : State) (op f data : Nat) : List Nat :=
  let (lo, n) := fuseField f
  match op with
  | 1 => ((List.range n).filter (fun i => data.testBit i)).map (lo + ·)
  | 3 => (((fusesOf f).take 255).filter (fun i => !s.fuse i)).take (data % 256 - s.blownIn f)
  | _ => (fusesOf f).filter (fun i => !s.fuse i)

/-- A field after an operation has blown `l` of its fuses: what is written, and what is pending. -/
def fuseBlown (op f : Nat) (l : List Nat) (s : State) : State :=
  let s := s.blow l
  let s := if op = 1 || op = 4 then { s with fuseWritten := if s.fuseWritten.contains f then s.fuseWritten else f :: s.fuseWritten }
    else s
  let s := if op = 4 then { s with fuseDestroyed := if s.fuseDestroyed.contains f then s.fuseDestroyed else f :: s.fuseDestroyed }
    else s
  let s := if f = 0x28 then s.put BNV_STAT_S0LOCK (bit (s.fuseSet 0x28)) else s
  if isGroup f && s.groupState != s.lifeCycle then s.put LCC_STAT_PEND 1 else s

/-- PDATA as one value. -/
def State.pdata (s : State) : Nat := ((List.range 8).map (fun k => s.get LCC_PDATA_DATA k * 2 ^ (32 * k))).sum

/-- A write of LCC.PCMD with GO = 1 (R483, R487). -/
def pcmdWrite (op f : Nat) (s : State) : State :=
  if s.flag LCC_PSTAT_BUSY then s.put LCC_PSTAT_ERR 1
  else if !s.fusePermitted op f then s.put LCC_PSTAT_ERR 2
  else if op = 1 && !s.fuseBlank f then s.put LCC_PSTAT_ERR 3
  else if s.fuseUnsafe then s.put LCC_PSTAT_ERR 4
  else { s.put LCC_PSTAT_BUSY 1 with fuseOp := some ⟨op * 256 + f, s.fuseBits op f s.pdata⟩ }

/-- An operation that stage 0 or Welfen makes and waits for; none where LCC refuses it. -/
def fuseNow (op f data : Nat) (s : State) : Option State :=
  if s.flag LCC_PSTAT_BUSY || !s.fusePermitted op f || (op == 1 && !s.fuseBlank f) || s.fuseUnsafe then none
  else some (fuseBlown op f (s.fuseBits op f data) s)

/-- The same, going on where LCC refuses. -/
def fuseTry (op f data : Nat) (s : State) : State := (fuseNow op f data s).getD s

/-- The operation ends; the fuses of `stuck` do not read as blown. -/
def fuseOpDone (stuck : List Nat) (s : State) : State :=
  match s.fuseOp with
  | none => s
  | some o =>
    let good := o.bits.filter (fun i => !stuck.contains i)
    let s := { fuseBlown (o.field / 256) (o.field % 256) good s with fuseOp := none }
    ((s.put LCC_PSTAT_BUSY 0).put LCC_PSTAT_DONE 1).put LCC_PSTAT_ERR (if good.length = o.bits.length then 0 else 5)

/-- A loss of power or a reset ends an operation after `n` of its fuses. -/
def fuseOpCut (n : Nat) (s : State) : State :=
  match s.fuseOp with
  | none => s
  | some o => { fuseBlown (o.field / 256) (o.field % 256) (o.bits.take n) s with fuseOp := none }

/-- What LCC.FUSE shows of word w: secret fields read 0. -/
def State.fuseWord (s : State) (w : Nat) : Nat :=
  if 0x80 ≤ w ∧ w < 0x90 then 0 else (s.fuses.extractLsb' (32 * w) 32).toNat

/-- LCC.PCMD is written by `by_` for an operation (R488: pages 1 and 2 are seat 0's). -/
def pcmdBy (by_ : Seat) (op f : Nat) (s : State) : State :=
  if by_ ≠ 0 then s.answer .error else (pcmdWrite op f s).answer (.ok 0)

def execFuseWrite (by_ : Seat) (field : BitVec 8) (s : State) : Result := .next (pcmdBy by_ 1 field.toNat s)
def execFuseBlow (by_ : Seat) (field : BitVec 8) (s : State) : Result := .next (pcmdBy by_ 2 field.toNat s)
def execCounterRaise (by_ : Seat) (field : BitVec 8) (s : State) : Result := .next (pcmdBy by_ 3 field.toNat s)
def execFieldDestroy (by_ : Seat) (field : BitVec 8) (s : State) : Result := .next (pcmdBy by_ 4 field.toNat s)

/-- A programming operation ends. -/
def execLccOpDone (stuck : List (Fin 8192)) (s : State) : Result := .next (fuseOpDone (stuck.map (·.val)) s)

/-! ### Crypto engine (R489 to R491) -/

def execTrngHealthFail (s : State) : Result := .next (raiseSrc srcCre (s.put CRE_STAT_TRNGF 1))
def execTrngRecover (s : State) : Result := .next (s.put CRE_STAT_TRNGF 0)

/-- The next job to complete: the load engine's first, then the others in order of submission (R490). -/
def State.nextJob (s : State) : Option CreJob :=
  match s.creJobs.find? (·.load) with
  | some j => some j
  | none => s.creJobs.head?

/-- A job completes: a response that waits for it is sent, if its session is still there. It waits while the response ring
lacks room. -/
def execCreJobDone (s : State) : Result :=
  match s.nextJob with
  | none => .next s
  | some j =>
    let t := { s with creJobs := s.creJobs.erase j }
    match j.reply with
    | some m =>
      if (s.session m.dest).isNone then .next t
      else if m.dest.seat?.any (fun n => !s.rspRoom n m.payload.length) then .next s
      else .next (respond m t)
    | none => .next t

/-- Secret seed of the device identity key (R489); none once the root secret cannot give it. -/
def State.identitySeed (s : State) : Option (List Byte) :=
  if s.fieldGood 0x51 then
    some (Config.shake256 57 (s.fuseBytes 0x51 ++ s.fuseBytes 0x52 ++ [0x55, 0x5A, 0x49, 0x44]))
  else none

/-! ### Persistent words (R492 to R495) -/

def prsBase : Nat := 0x05000000
/-- Word n. -/
def State.prs (s : State) (n : Nat) : Nat := s.readMem (prsBase + 4 * n) 4
/-- Owner of a word's group; groups 0 and 1 are seat 0's. -/
def State.prsOwner (s : State) (n : Nat) : Nat := if n < 128 then 0 else s.get PRS_GOWN_OWNER (n / 64)

/-- Welfen notifies the word's owner that it is worn. -/
def noteWorn (n : Nat) (s : State) : State :=
  let body := [BitVec.ofNat 8 n, BitVec.ofNat 8 (n / 256)]
  if s.prsOwner n = 0 then noteManager 0x0F12 0 body s else noteSeat 0x0F12 (s.prsOwner n) body s

/-- What word n holds of a value: the reserved bits of PRS.BRSTAT (words 1 and 3) stay 0. -/
def prsLegal (n v : Nat) : Nat := if n = 1 ∨ n = 3 then v &&& 0xCF00FF00 else v

/-- A write of a word (R493, R494). The first component is false for an error response. -/
def prsStore (n v : Nat) (s : State) : Bool × State :=
  let v := prsLegal n v
  if s.flag PRS_WEAR_WORN n then (false, s)
  else if s.prs n = v % 2 ^ 32 then (true, s)
  else
    let s := (s.writeMem (prsBase + 4 * n) 4 v).put PRS_WEAR_COUNT (s.get PRS_WEAR_COUNT n + 1) n
    if s.get PRS_WEAR_COUNT n < 100000000 then (true, s)
    else
      let s := (s.put PRS_WEAR_WORN 1 n).put PRS_STAT_NWORN (s.get PRS_STAT_NWORN + 1)
      if s.flag PRS_STAT_WORNEV then (true, s)
      else (true, noteWorn n (raiseSrc srcPrs ((s.put PRS_STAT_WORNEV 1).put PRS_STAT_FIRST n)))

/-- A write that stage 0 or Welfen makes to a word it owns. -/
def prsPut (n v : Nat) (s : State) : State := (prsStore n v s).2

/-- The writes of the erasure apply whatever WORN is (R494). -/
def prsErase (from_ : Nat) (s : State) : State := s.zeroMem (prsBase + 4 * from_) (4 * (1024 - from_))

/-- A write by a seat, whom the owner check must pass (R25, R492). -/
def prsWriteBy (seat n v : Nat) (s : State) : Bool × State :=
  if seat ≠ 0 && s.prsOwner n != seat then (false, seatViolation seat true (prsBase + 4 * n) s)
  else prsStore n v s

def execPrsWrite (by_ : Seat) (word : Fin 1024) (value : Word32) (s : State) : Result :=
  let (ok, s) := prsWriteBy by_.val word.val value.toNat s
  .next (s.answer (if ok then .ok 0 else .error))

end Sys2Proof.Machine
end

