-- ==== Sys2Proof/Machine/Net.lean ====
section
/-!
DEFINITION. Train networks and legacy buses (R517 to R530): host queues, gate windows, received frames, link changes, the
legacy controllers before MS4, and GPIO readback.
-/

namespace Sys2Proof.Machine

/-! ### Host queues (R526, R527) -/

/-- A descriptor at `a` (Table NET-2): buffer, length, class, TSREQ, and whether its reserved bits are 0. -/
structure HqDesc where
  addr : Nat
  len : Nat
  tc : Nat
  tsreq : Bool
  good : Bool
  deriving DecidableEq, Repr

def hqDesc (w0 w1 w3 : Nat) : HqDesc :=
  ⟨w0 % 2 ^ 48, w1 % 2 ^ 14, slice w1 14 3, slice w1 17 1 == 1, decide (w0 < 2 ^ 48) && slice w1 18 14 == 0 && w3 == 0⟩

/-- Address of descriptor `i` of a ring. -/
def hqAddr (base i : Nat) : Nat := base + i % 256 * 32

/-- The descriptor at `a`, read as the seat. -/
def readDesc (seat a : Nat) (s : State) : Option HqDesc × State :=
  let (r0, s) := dmaRead seat a 8 s
  let (r1, s) := dmaRead seat (a + 8) 8 s
  let (r3, s) := dmaRead seat (a + 0x18) 8 s
  match r0, r1, r3 with
  | .ok w0, .ok w1, .ok w3 => (some (hqDesc w0 w1 w3), s)
  | _, _, _ => (none, s)

/-- Bytes of a buffer, read as the seat, a byte at a time within the pages of its table. -/
def readBuffer (seat : Nat) : Nat → Nat → State → Option (List Byte) × State
  | _, 0, s => (some [], s)
  | a, n + 1, s =>
    let (r, s) := dmaRead seat a 1 s
    match r with
    | .ok v =>
      let (l, s) := readBuffer seat (a + 1) n s
      (l.map (fun l => BitVec.ofNat 8 v :: l), s)
    | _ => (none, s)

/-- Write a buffer as the seat; false where a write is refused. -/
def writeBuffer (seat : Nat) : Nat → List Byte → State → Bool × State
  | _, [], s => (true, s)
  | a, b :: bs, s =>
    let (r, s) := dmaWrite seat a 1 b.toNat s
    match r with
    | .ok _ => writeBuffer seat (a + 1) bs s
    | _ => (false, s)

/-- STS and TS of a completed descriptor, before its event is raised. -/
def completeDesc (seat a sts : Nat) (ts : Option Nat) (s : State) : State :=
  let s := (dmaWrite seat (a + 0xC) 4 sts s).2
  match ts with
  | some t => (dmaWrite seat (a + 0x10) 8 t s).2
  | none => s

/-- A transmit producer index written by a seat: refused where it passes the consumer index by more than 256 or moves
backwards. -/
def hqTxpi (seat v : Nat) (s : State) : State :=
  let pi := s.get ETHSW_HQTXPI_INDEX seat
  let ci := s.get ETHSW_HQTXCI_INDEX seat
  let v := v % 65536
  if ringCount pi ci ≤ ringCount v ci ∧ ringCount v ci ≤ 256 then s.put ETHSW_HQTXPI_INDEX v seat
  else s.put ETHSW_HQSTAT_IDXERR 1 seat

/-- May `by_` write registers of the page of seat `seat` (page 0 is seat 0's)? -/
def pagePasses (by_ seat : Nat) : Bool := by_ == 0 || by_ == seat

/-- Welfen maps page s into seat s: a write of any other seat does not reach it. -/
def execHqTxpiWrite (by_ : Seat) (value : Word32) (s : State) : Result :=
  if by_ = 0 then .next (s.answer .error) else .next ((hqTxpi by_.val value.toNat s).answer (.ok 0))

/-- A receive consumer index frees the descriptors before it. -/
def execHqRxciWrite (by_ : Seat) (value : Word32) (s : State) : Result :=
  if by_ = 0 then .next (s.answer .error)
  else .next ((s.put ETHSW_HQRXCI_INDEX (value.toNat % 65536) by_.val).answer (.ok 0))

/-- Does the switch take descriptors of `seat` (R518, R529, R550)? -/
def State.hqTakes (s : State) (seat : Nat) : Bool :=
  s.device == .on && decide (1 ≤ seat) && s.flag ETHSW_HQCFG_EN seat && !s.seatSafe seat && !s.quenched seat &&
    !s.seatResetting seat

/-- The descriptor at consumer index `ci` is done: the index moves on, with TXEV and the seat's source. -/
def txDone (n ci : Nat) (s : State) : State :=
  raiseSrc (srcHostQueue n) ((s.put ETHSW_HQTXCI_INDEX ((ci + 1) % 65536) n).put ETHSW_HQSTAT_TXEV 1 n)

/-- A descriptor at `a` is refused: ERR and POL, and POLDROP. -/
def txRefused (n ci a : Nat) (s : State) : State :=
  txDone n ci (completeDesc n a 0xE0000000 none (s.put ETHSW_HQSTAT_POLDROP 1 n))

/-- A frame leaves through a port, and its descriptor completes. -/
def txSent (n ci a port tc : Nat) (ts : Option Nat) (data : List Byte) (s : State) : State :=
  txDone n ci (completeDesc n a 0x80000000 ts { s with ethSent := some ⟨port, n, tc, data⟩ })

/-- The buffer of a good descriptor is read and sent, unless its class waits for a gate window. -/
def txFrame (n ci a port : Nat) (d : HqDesc) (s : State) : Option State :=
  let (b, t) := readBuffer n d.addr d.len s
  match b with
  | none => some (txRefused n ci a t)
  | some data =>
    if port < 4 && !(s.gates[port]!).getLsbD d.tc then none
    else some (txSent n ci a port d.tc (if d.tsreq then some (s.get TBS_NOW_NS) else none) data t)

/-- The next transmit descriptor of `seat` is taken and completes. `granted`: the switch configuration grants the seat the
frame's source address and VLAN. `port`: where the switch sends the frame (P0 to P3 external, P4 host, P5 service);
while the gate of its class is closed there, it waits. -/
def execHqTxComplete (seat : Seat) (granted : Bool) (port : Fin 6) (s : State) : Result :=
  let n := seat.val
  let ci := s.get ETHSW_HQTXCI_INDEX n
  let a := hqAddr (s.get ETHSW_HQTXBASE_ADDR n * 0x2000) ci
  if !s.hqTakes n || s.flag ETHSW_HQSTAT_HOLD n || ringCount (s.get ETHSW_HQTXPI_INDEX n) ci == 0 then .next s
  else
    let (d, t) := readDesc n a s
    match d with
    | none => .next (txRefused n ci a t)
    | some d =>
      if !granted || !d.good || d.tc == 7 || !(t.get ETHSW_HQCFG_TCMASK n).testBit d.tc then .next (txRefused n ci a t)
      else .next ((txFrame n ci a port.val d t).getD s)

/-- A frame goes to one seat: into its next receive descriptor, or dropped for want of one. A frame longer than its
descriptor's buffer completes it with ERR (log 47). -/
def deliverFrame (data : List Byte) (seat : Nat) (s : State) : State :=
  let pi := s.get ETHSW_HQRXPI_INDEX seat
  if !s.hqTakes seat || ringCount pi (s.get ETHSW_HQRXCI_INDEX seat) == 256 then s.countUp ETHSW_HQSTAT_DROPS seat
  else
    let a := hqAddr (s.get ETHSW_HQRXBASE_ADDR seat * 0x2000) pi
    let (d, s) := readDesc seat a s
    let now := s.get TBS_NOW_NS
    let ends (sts : Nat) (s : State) : State :=
      let s := completeDesc seat a sts (some now) s
      raiseSrc (srcHostQueue seat) ((s.put ETHSW_HQRXPI_INDEX ((pi + 1) % 65536) seat).put ETHSW_HQSTAT_RXEV 1 seat)
    match d with
    | none => ends 0xE0000000 (s.put ETHSW_HQSTAT_POLDROP 1 seat)
    | some d =>
      if !d.good then ends 0xE0000000 (s.put ETHSW_HQSTAT_POLDROP 1 seat)
      else if d.len < data.length then ends (0xC0000000 + data.length % 2 ^ 14) s
      else
        let (ok, s) := writeBuffer seat d.addr data s
        if ok then ends (0x80000000 + data.length % 2 ^ 14) s
        else ends 0xE0000000 (s.put ETHSW_HQSTAT_POLDROP 1 seat)

/-- A frame arrives; `seats`: those whose grants name its destination address and VLAN. -/
def execFrameReceive (data : List Byte) (seats : List Seat) (s : State) : Result :=
  if s.device != .on || 9216 < data.length then .next s
  else .next (s.each ((seats.map (·.val)).filter (1 ≤ ·)) (deliverFrame data))

/-- A gate-control entry of a port opens the windows of `classes` and closes the others; class 7 is open in every entry
(R521). -/
def execGateWindowOpen (port : Fin 4) (classes : BitVec 8) (s : State) : Result :=
  .next { s with gates := s.gates.set! port.val (classes ||| 0x80) }

/-- A change of inauguration: a NOTE of category Status to every entitled seat (R525). -/
def execInauguration (entitled : List Seat) (s : State) : Result :=
  .next ((entitled.map (·.val)).foldl (fun t seat =>
    noteIn 1 10 Config.inaugurationNote.toNat seat [] (.mailbox seat) t) s)

/-- The PHY of ETHM (port 4) or a 10GBASE-R port gains a link of a speed, or loses it (speed 0): the MAC follows (R519,
R520). -/
def execEthLinkChange (port : Fin 5) (speed : Nat) (s : State) : Result :=
  let legal := speed == 0 || (if port = 4 then speed == 100 || speed == 1000 else speed == 10000)
  .next (if legal then { s with ethLink := s.ethLink.set! port.val speed } else s)

/-! ### Legacy controllers and GPIO (R528 to R530) -/

/-- Interrupt source of legacy controller c (Table ICU-1). -/
def srcLegacy (c : Nat) : Nat := if c < 10 then 320 + c else 322 + c

/-- Are the transmissions of customer seats held: from MS3 until MS4 (R468)? -/
def State.startHeld (s : State) : Bool := s.get BOOT_STAT_MS != 4

/-- A frame or byte arrives at a legacy controller. A controller of a seat in its safe state is in reset (R518); before MS4
one of a customer seat listens and does not answer (R529). -/
def execLegacyBusReceive (c : Fin 20) (data : List Byte) (s : State) : Result :=
  let o := s.ctlOwner c.val
  if s.device != .on || s.seatSafe o then .next s
  else
    let l := s.legacy[c.val]!
    .next (raiseSrc (srcLegacy c.val) { s with
      legacy := s.legacy.set! c.val { rx := l.rx ++ [data], answered := o == 0 || !s.startHeld } })

/-- An output pin has differed from its driven level for 1 µs. -/
def execGpioReadbackMismatch (pin : Fin 96) (s : State) : Result :=
  .next (raiseSrc (srcGpio pin.val) { s with gpioRbmis := s.gpioRbmis ||| BitVec.ofNat 96 (2 ^ pin.val) })

end Sys2Proof.Machine
end

