-- ==== Sys2Proof/Machine/Ucl.lean ====
section
/-!
DEFINITION. Chain links and multi-device systems (R531 to R557): routing, cells, enumeration and authentication, STOP,
system time, link failure, and what the issuing UCL does with a request to a remote device. Serving a remote request is
Machine/Remote.lean.
-/

namespace Sys2Proof.Machine

/-! ### Addresses and routes (R531, R532, R554) -/

def chainOf (dev : Nat) : Nat := dev / 64
def posOf (dev : Nat) : Nat := dev % 64

/-- Own address, if one is held. -/
def State.ownAddr (s : State) : Option Nat := if s.flag UCL_ADDR_VALID then some (s.get UCL_ADDR_DEV) else none

/-- Port by the rules of R532. -/
def routePort (own dest : Nat) : Nat :=
  let (c, p) := (chainOf own, posOf own)
  let (c', p') := (chainOf dest, posOf dest)
  if c' = c then (if p < p' then 1 else 0)
  else if c = 0 then (if p < c' then 1 else if c' = p then 2 else 0)
  else 0

/-- Port that a cell takes: R532's, or, where it is down and the chain is a ring, the other direction: UCL0 and UCL1 of a
chain replace each other, and at its ends UCL3 takes the place of the port that leads nowhere (R531, R554). -/
def State.outPort (s : State) (own dest : Nat) : Option Nat :=
  let up (n : Nat) : Bool := s.flag UCL_PSTAT_UP n
  let n := routePort own dest
  if up n then some n
  else if !s.flag UCL_CFG_RING || n == 2 || (n == 0 && posOf own == 0) then none
  else if up 3 then some 3
  else if n = 1 && posOf own != 0 && up 0 then some 0
  else if n = 0 && up 1 then some 1
  else none

/-- Hops from the manager. -/
def hopsOf (dev : Nat) : Nat := if chainOf dev = 0 then posOf dev else chainOf dev + 1 + posOf dev

/-! ### Sending -/

def cellIdle : Nat := 0
def cellRd : Nat := 1
def cellWr : Nat := 2
def cellPw : Nat := 3
def cellRsp : Nat := 4
def cellMgt : Nat := 5
def cellStop : Nat := 6
def cellTime : Nat := 7
def cellLink : Nat := 8

/-- An empty cell of a type from the own address. -/
def mkCell (type : Nat) (src dst : Nat) : Cell :=
  ⟨Fin.ofNat 16 type, false, false, false, false, BitVec.ofNat 12 dst, 0, BitVec.ofNat 12 src, 0, 0, 0, 0, []⟩

/-- Change port n. -/
def State.mapUport (s : State) (n : Nat) (f : UclPort → UclPort) : State :=
  { s with ucl := { s.ucl with ports := s.ucl.ports.set! n (f s.ucl.ports[n]!) } }

/-- Send a cell through port n: a cell that is not MGT-class is sequenced and kept for replay, the last 128 (R537, R538). -/
def sendCell (n : Nat) (c : Cell) (s : State) : State :=
  let p := s.ucl.ports[n]!
  let c := { c with ack := BitVec.ofNat 16 (p.rxNext + 65535) }
  if 5 ≤ c.type.val || c.type = 0 then { s with ucl := { s.ucl with sent := s.ucl.sent ++ [(n, c)] } }
  else
    let c := { c with txseq := BitVec.ofNat 16 p.txNext }
    let next := if p.txNext = 65535 then 1 else p.txNext + 1
    let s := s.mapUport n (fun p => { p with
      txNext := next, sent := (p.sent ++ [c]).drop (p.sent.length - 127) })
    { s with ucl := { s.ucl with sent := s.ucl.sent ++ [(n, c)] } }

/-- The cells that a command sends are those it leaves in `ucl.sent`. -/
def clearSent (s : State) : State := { s with ucl := { s.ucl with sent := [] } }

/-! ### Remote devices (R544, R546) -/

def State.remote (s : State) (dev : Nat) : Remote := (s.ucl.remotes.find? (·.dev == dev)).getD ⟨dev, false, false⟩
def State.setRemote (s : State) (r : Remote) : State :=
  { s with ucl := { s.ucl with remotes := s.ucl.remotes.filter (·.dev != r.dev) ++ [r] } }

/-- No route reaches the device (UCL.RDST.DOWN). -/
def State.remoteDown (s : State) (dev : Nat) : Bool :=
  match s.ownAddr with
  | none => true
  | some own => own != dev && (s.outPort own dev).isNone

/-- Requests of the cores to remote addresses that satisfy `p` are answered with an error response. -/
def remoteErrors (p : Nat → Bool) (seat : Option Nat) (s : State) : State :=
  let hit (pa : Nat) : Bool := isRemote pa && p pa
  let own (n : Nat) : Bool := match seat with
    | none => true
    | some m => m == n
  s.mapCores (fun _ => true) (fun c => { c with
    load := c.load.map (fun l => if own l.seat && l.parts.any (fun q => hit q.pa) then { l with err := true } else l)
    stores := c.stores.map (fun e => if own e.seat && hit e.pa then { e with err := true } else e) })

/-- What the issuing UCL does with a request: held until MS4 (R543), refused at once, or sent. -/
def State.remoteGate (s : State) (seat pa n : Nat) : MemAns :=
  let dev := remoteDev pa
  if seat ≠ 0 && s.startHeld then .wait
  else if s.quenched seat then .wait
  else if !(n == 1 || n == 2 || n == 4 || n == 8) || pa % n != 0 then .error
  else match s.ownAddr with
    | none => .error
    | some own =>
      let r := s.remote dev
      if own == dev || r.dead || r.iso || s.remoteDown dev then .error else .ok

/-- Send the cell of a request. `pa` is remote and passes `remoteGate`. -/
def sendRequest (type seat pa n v : Nat) (s : State) : State :=
  match s.ownAddr with
  | none => s
  | some own =>
    let dev := remoteDev pa
    match s.outPort own dev with
    | none => s
    | some p =>
      let ofs := pa % 2 ^ 35
      let bytes (x k : Nat) : List Byte := (List.range k).map (fun i => BitVec.ofNat 8 (x / 256 ^ i))
      let body := bytes ofs 8 ++ bytes n 8 ++ (if type = cellRd then [] else bytes v 8)
      sendCell p { mkCell type own dev with sseat := Fin.ofNat 16 seat, payload := body } s

/-- Outstanding requests of the cores to a device (UCL.RDST.OUT). -/
def State.remoteOut (s : State) (dev : Nat) : Nat :=
  let hit (pa : Nat) : Bool := isRemote pa && remoteDev pa == dev
  min 255 ((s.cores.toList.map (fun c =>
    (match c.load with
      | some l => (l.parts.filter (fun q => hit q.pa)).length
      | none => 0) + (c.stores.filter (fun e => e.sent && hit e.pa)).length)).sum)

/-- What UCL.RDST shows, and a write of it (R546, as FAB.TGT). -/
def State.rdstWord (s : State) : Nat :=
  let r := s.remote (s.get UCL_RDIDX_DEV)
  bit r.dead * 2 ^ 31 + bit r.iso * 2 ^ 30 + bit (s.remoteDown r.dev) * 2 ^ 29 + s.remoteOut r.dev

def rdstWrite (v : Nat) (s : State) : State :=
  let r := s.remote (s.get UCL_RDIDX_DEV)
  let iso := slice v 30 1 == 1
  let s := if iso && !r.iso then remoteErrors (fun pa => remoteDev pa == r.dev) none s else s
  s.setRemote { r with iso := iso, dead := r.dead && !(slice v 31 1 == 1) }

/-- A request to a remote device has waited FAB.DTTMO (R546): an error response, and the device is dead. -/
def execRemoteTimeout (dev : BitVec 12) (s : State) : Result :=
  let d := dev.toNat
  if (s.remote d).dead then .next s
  else .next ((remoteErrors (fun pa => remoteDev pa == d) none s).setRemote { s.remote d with dead := true })

/-! ### Enumeration and authentication (R541 to R543) -/

/-- The UCL settings that Welfen takes from PRS at MS2 (R541). -/
def uclSetup (s : State) : State :=
  let w := s.prs 12
  let w := if w = 0 then 0x154 else w
  let s := (s.put UCL_CFG_MGR (slice w 0 1)).put UCL_CFG_RING (slice w 1 1)
  let s := s.each [0, 1, 2, 3] (fun n t =>
    let t := ((t.put UCL_PCFG_MODE (slice w (2 * n + 2) 2) n).put UCL_PCFG_ETHP (slice w (2 * n + 10) 2) n).put
      UCL_PCFG_VLAN (slice (s.prs 13) 0 12) n
    t.put UCL_PEERMAC_MAC ((s.prs (14 + 2 * n) + s.prs (15 + 2 * n) * 2 ^ 32) % 2 ^ 48) n)
  if s.flag UCL_CFG_MGR then ((s.put UCL_ADDR_VALID 1).put UCL_ADDR_DEV 0).put UCL_TSTAT_ROOT 1 else s

/-- Is the member list in force: between MS2 and a recovery (R541)? -/
def State.membersInForce (s : State) : Bool :=
  let m := s.get BOOT_STAT_MS
  m == 2 || m == 3 || m == 4 || m == 8

/-- A device with an address assigns one over an authenticated link (R542). -/
def assignOver (n : Nat) (s : State) : State :=
  match s.ownAddr with
  | none => s
  | some own =>
    let (c, p) := (chainOf own, posOf own)
    let give (dev : Nat) : State := sendCell n { mkCell cellLink own dev with payload := [1, BitVec.ofNat 8 dev, BitVec.ofNat 8 (dev / 256)] } s
    if n = 1 then (if 63 < p + 1 then s.put UCL_STAT_TOPOERR 1 else give (own + 1))
    else if n = 2 && c = 0 && p != 0 then give (p * 64)
    else s

/-- A trained port exchanges nonces and signatures with its peer (R541): the peer's identity key, whether its signature
verifies, its address if it holds one, and whether it claims the manager role. -/
def execLinkAuth (port : Fin 4) (key : List Byte) (sigOk : Bool) (peer : Option (BitVec 12)) (manager : Bool) (s : State) : Result :=
  let n := port.val
  if !s.flag UCL_PSTAT_UP n || s.flag UCL_PSTAT_AUTH n || !s.membersInForce || s.flag CRE_STAT_TRNGF then .next s
  else
    let s := clearSent s
    let conflict := manager && !s.flag UCL_CFG_MGR && (match s.ucl.mgrKey with
      | some k => k != key
      | none => false)
    if conflict then .next ((s.put UCL_STAT_MGRCONF 1).mapUport n (fun p => { p with linkOnly := true }))
    else if sigOk && s.members.contains (Config.shake256 32 key) then
      let s := (s.put UCL_PSTAT_AUTH 1 n).put UCL_PSTAT_PEER (match peer with
        | some d => d.toNat
        | none => 0) n
      let s := { s.mapUport n (fun p => { p with linkOnly := false }) with
        ucl := { (s.mapUport n (fun p => { p with linkOnly := false })).ucl with
          mgrKey := if manager && s.ucl.mgrKey.isNone then some key else s.ucl.mgrKey } }
      .next (assignOver n s)
    else .next ((s.put UCL_STAT_AUTHF 1).mapUport n (fun p => { p with linkOnly := true }))

/-- A worker opens its WCI session with the manager (R542, R504). -/
def openManagerSession (s : State) : State :=
  let id := SessionId.ucl 0
  if (s.session id).isSome then s
  else
    let s := { s with sessions := s.sessions ++ [Session.fresh id (s.get TBS_NOW_NS)] }
    sendMsg ⟨id, 1, 0, 1, 0, 0, [1, 1, 0, 0, 0x7F, 0, 0, 0, 0, 0, 0, 0]⟩ s

/-- An ASSIGN LINK cell arrives (R542, R555). -/
def execAssign (port : Fin 4) (dev : BitVec 12) (s : State) : Result :=
  let n := port.val
  let d := dev.toNat
  if !s.flag UCL_PSTAT_AUTH n || s.flag UCL_CFG_MGR then .next s
  else if n = 3 then
    -- both ends lie in one chain, one at its head and one at its last position
    match s.ownAddr with
    | some own =>
      if chainOf own = chainOf d && (posOf own == 0 || posOf d == 0) then .next s
      else .next (s.put UCL_STAT_TOPOERR 1)
    | none => .next s
  else if n ≠ 0 then .next s
  else match s.ownAddr with
    | some own =>
      if own = d then .next s
      else .next ((s.put UCL_STAT_TOPOERR 1).mapUport n (fun p => { p with linkOnly := true }))
    | none =>
      let s := ((((clearSent s).put UCL_ADDR_VALID 1).put UCL_ADDR_DEV d).put UCL_TSTAT_HOPS (min 255 (hopsOf d))).put
        UCL_STAT_ENUMDONE 1
      let s := openManagerSession s
      .next (s.each [1, 2] (fun m t => if t.flag UCL_PSTAT_AUTH m then assignOver m t else t))

/-- The manager learns that a device holds an address: it has opened its session (R542, R543). -/
def deviceAssigned (dev : Nat) (s : State) : State :=
  if !s.flag UCL_CFG_MGR || s.ucl.assigned.contains dev then s
  else
    let s := { s with ucl := { s.ucl with assigned := s.ucl.assigned ++ [dev] } }
    let s := s.put UCL_STAT_NDEV s.ucl.assigned.length
    let own : List (List Byte) := match s.identitySeed with
      | some k => [Config.shake256 32 (Config.ed448Public k)]
      | none => []
    if (s.members.filter (fun m => !own.contains m)).length ≤ s.ucl.assigned.length then s.put UCL_STAT_ENUMDONE 1 else s

/-! ### STOP (R547 to R550) -/

/-- Ports that a STOP copy takes from here. -/
def State.stopPorts (s : State) (arrival : Option Nat) (bcast : Bool) (dest : Nat) : List Nat :=
  if bcast then [0, 1, 2, 3].filter (fun n => some n != arrival && s.flag UCL_PSTAT_UP n)
  else match s.ownAddr with
    | some own => if own = dest then [] else (s.outPort own dest).toList
    | none => []

/-- A STOP cell; `a` is the STOPID and the copy number. -/
def stopCellOf (bcast : Bool) (seat dest id copy : Nat) : Cell :=
  { mkCell cellStop 0 dest with
    bcast := bcast, dseat := Fin.ofNat 16 seat, first := true, last := true
    payload := [BitVec.ofNat 8 id, BitVec.ofNat 8 copy] }

/-- A write of UCL.STOPTX: the manager sends copies 0 to 7 of the next STOPID. -/
def stoptxWrite (v : Nat) (s : State) : State :=
  if slice v 31 1 = 0 || !s.flag UCL_CFG_MGR then s
  else
    let bcast := slice v 30 1 == 1
    let dest := slice v 0 12
    let seat := slice v 16 4
    let id := s.ucl.stopNext
    let s := clearSent s
    let s := s.each (List.range 8) (fun k t =>
      (t.stopPorts none bcast dest).foldl (fun t n => sendCell n (stopCellOf bcast seat dest id k) t) t)
    { s with ucl := { s.ucl with stopNext := (id + 1) % 4 } }

def execStoptxWrite (by_ : Seat) (value : Word32) (s : State) : Result := pageWrite by_.val 0 (stoptxWrite value.toNat) s

/-- The destination acts on a STOP (R550), and Welfen takes the seat safe state. -/
def actOnStop (bcast : Bool) (seat : Nat) (s : State) : State :=
  let s := if s.flag UCL_STOPLOG_VALID then s
    else ((s.put UCL_STOPLOG_VALID 1).put UCL_STOPLOG_BCAST (bit bcast)).put UCL_STOPLOG_SEAT seat
  let s := raiseSrc srcUclCommon (s.countUp UCL_STOPLOG_COUNT)
  if seat = 0 then s
  else
    let s := remoteErrors (fun _ => true) (some seat) (s.putBit FAB_QUENCH_SEAT (seat - 1) true)
    if s.seatSafe seat then s else enterSeatSafe seat s

/-- A STOP copy arrives over port n: it is forwarded, and the first copy of each STOPID addressed here is acted on. Copies of
one STOP come in ascending order, so an equal STOPID with a copy number that is not above the last one is a new STOP
(log 48). -/
def stopArrives (n : Nat) (src : Nat) (bcast : Bool) (dest seat id copy : Nat) (s : State) : State :=
  if !s.flag UCL_PSTAT_AUTH n || src != 0 then s
  else
    let s := (s.stopPorts (some n) bcast dest).foldl (fun t m => sendCell m (stopCellOf bcast seat dest id copy) t) s
    if !bcast && s.ownAddr != some dest then s
    else
      let seen := match s.ucl.stopLast with
        | some (i, k) => i == id && decide (k < copy)
        | none => false
      let s := { s with ucl := { s.ucl with stopLast := some (id, copy) } }
      if seen then s else actOnStop bcast seat s

def execStopCell (port : Fin 4) (src : BitVec 12) (bcast : Bool) (dest : BitVec 12) (seat : Seat) (id : Fin 4) (copy : Fin 8) (s : State) : Result :=
  .next (stopArrives port.val src.toNat bcast dest.toNat seat.val id.val copy.val (clearSent s))

/-! ### System time (R551, R552) -/

/-- Bounds of TBS.RATE under the servo: 5 ns ± 200 ppm, in units of 2^-16 ns. -/
def clampRate (v : Nat) : Nat := max 327615 (min 327745 v)

/-- A TIME exchange over port n: the offset from system time in ns, the rate that the servo chooses, and the link delay
where it is measured (every 64 exchanges). -/
def execTimeExchange (port : Fin 4) (offset : BitVec 32) (rate : Word32) (delay : Option (BitVec 16)) (s : State) : Result :=
  let n := port.val
  let s := match delay with
    | some d => s.put UCL_PDLY_NS d.toNat n
    | none => s
  match s.ownAddr with
  | none => .next s
  | some own =>
    if s.flag UCL_CFG_MGR || s.outPort own 0 != some n || !s.flag UCL_PSTAT_AUTH n then .next s
    else
      let o := offset.toInt
      let s := (s.put UCL_TOFS_OFS offset.toNat).put UCL_TSTAT_HOLD 0
      let ms := s.get BOOT_STAT_MS
      let s := if ms = 3 || ms = 4 then s.put TBS_RATE_INC (clampRate rate.toNat)
        else if s.ucl.stepped then s
        else
          let t := (Int.toNat (((s.get TBS_NOW_NS : Int) - o) % 2 ^ 64))
          { s.put TBS_NOW_NS t with ucl := { s.ucl with stepped := true } }
      let near := if o.natAbs < 100 then s.ucl.near + 1 else 0
      let far := if 1000 < o.natAbs then s.ucl.far + 1 else 0
      let s := { s with ucl := { s.ucl with near := min 8 near, far := min 8 far } }
      .next (if 8 ≤ near then s.put UCL_TSTAT_LOCK 1 else if 8 ≤ far then s.put UCL_TSTAT_LOCK 0 else s)

/-! ### Ports (R553 to R555) -/

/-- Welfen of a worker reports a change of port state to the manager. -/
def reportPort (n : Nat) (up : Bool) (s : State) : State :=
  match s.session (.ucl 0) with
  | none => s
  | some e =>
    sendMsg ⟨.ucl 0, 1, 0, 0x0C00 + Config.portReport.toNat, 0, e.ownCmd, [BitVec.ofNat 8 n, BitVec.ofNat 8 (bit up)]⟩
      (s.mapSession (.ucl 0) (fun e => { e with ownCmd := e.ownCmd + 1 }))

/-- Port n goes down: requests that left through it get error responses, and a worker whose upstream port it was holds its
rate. -/
def portDown (n : Nat) (s : State) : State :=
  if !s.flag UCL_PSTAT_UP n then s
  else
    let through (pa : Nat) : Bool := match s.ownAddr with
      | some own => s.outPort own (remoteDev pa) == some n
      | none => false
    let upstream := match s.ownAddr with
      | some own => !s.flag UCL_CFG_MGR && s.outPort own 0 == some n
      | none => false
    let s := remoteErrors through none s
    let s := ((s.put UCL_PSTAT_UP 0 n).put UCL_PSTAT_AUTH 0 n).put UCL_PSTAT_LOCK 0 n
    let s := raiseSrc (srcUcl n) (s.put UCL_STAT_LINKEV 1)
    let lost := match s.ownAddr with
      | some own => (s.outPort own 0).isNone
      | none => false
    let s := if upstream && lost then s.put UCL_TSTAT_HOLD 1 else s
    reportPort n false s

def execPortDown (port : Fin 4) (s : State) : Result := .next (portDown port.val (clearSent s))

/-- A port comes up: it trains, and authentication follows (R555). A port that is off, or a device whose UCL is not
enabled, does not. -/
def execPortUp (port : Fin 4) (s : State) : Result :=
  let n := port.val
  let m := s.get UCL_PCFG_MODE n
  if s.flag UCL_PSTAT_UP n || !(m == 1 || m == 2) || !s.flag UCL_CFG_EN then .next s
  else
    let s := (clearSent s).mapUport n (fun _ => ⟨1, 1, false, 0, 0, [], false⟩)
    let s := (s.put UCL_PSTAT_UP 1 n).put UCL_PSTAT_LOCK 1 n
    .next (reportPort n true (raiseSrc (srcUcl n) (s.put UCL_STAT_LINKEV 1)))

/-! ### Receiving a cell (R532, R535 to R538, R541) -/

/-- A response with a status to a request. -/
def respondCell (n : Nat) (req : Cell) (own status : Nat) (data : List Byte) (s : State) : State :=
  sendCell n { mkCell cellRsp own req.src.toNat with
    dseat := req.sseat, tag := req.tag, payload := BitVec.ofNat 8 status :: List.replicate 7 0 ++ data } s

/-- A NAK that names the last good cell. -/
def sendNak (n own : Nat) (s : State) : State := sendCell n { mkCell cellIdle own 0 with nak := true } s

/-- Does link sequence number `b` come after `a` (R537)? -/
def seqAfter (a b : Nat) : Bool :=
  let d := (b + 65536 - a) % 65536
  decide (0 < d) && decide (d < 32768)

/-- A NAK arrives: the cells behind `ack` are sent again; four replays of one cell in a row take the port down. -/
def replayFrom (n ack : Nat) (s : State) : State :=
  let p := s.ucl.ports[n]!
  let again := p.sent.filter (fun c => seqAfter ack c.txseq.toNat)
  let k := if p.replayAck = ack && p.replays ≠ 0 then p.replays + 1 else 1
  let s := (s.countUp UCL_PERR_REPLAY n).mapUport n (fun p => { p with replays := k, replayAck := ack })
  if 4 ≤ k then portDown n s
  else { s with ucl := { s.ucl with sent := s.ucl.sent ++ again.map (fun c => (n, c)) } }

/-- A good cell that is not for this device goes on, or is refused: a request with an error response (R532, R553). -/
def forwardCell (n own : Nat) (c : Cell) (s : State) : State :=
  match s.outPort own c.dst.toNat with
  | some m => sendCell m c s
  | none => if 1 ≤ c.type.val && c.type.val ≤ 3 then respondCell n c own 1 [] s else s

/-- A fragment of a WCI message from device `src` (Table UCL-2). A fragment without a beginning is dropped. -/
def mgtArrives (src : Nat) (c : Cell) (s : State) : State :=
  let old := (s.uclParts.find? (·.1 == src)).map (·.2)
  let part := if c.first then some c.payload else old.map (· ++ c.payload)
  let s := { s with uclParts := s.uclParts.filter (·.1 != src) }
  match part with
  | none => s
  | some l =>
    if c.last then { s with wciIn := s.wciIn ++ [(.ucl src, l)] } else { s with uclParts := s.uclParts ++ [(src, l)] }

/-- A good cell in sequence. -/
def acceptCell (n : Nat) (c : Cell) (s : State) : State :=
  let t := c.type.val
  if t = cellIdle then s
  else if t = cellLink then s
  else if t = cellMgt && !s.membersInForce then mgtArrives c.src.toNat c s
  else if !s.flag UCL_PSTAT_AUTH n || (s.ucl.ports[n]!).linkOnly then s
  else if t = cellStop then
    stopArrives n c.src.toNat c.bcast c.dst.toNat c.dseat.val ((c.payload.headD 0).toNat % 4)
      ((c.payload.getD 1 0).toNat % 8) s
  else match s.ownAddr with
    | none => s
    | some own =>
      if c.dst.toNat ≠ own then forwardCell n own c s
      else if 1 ≤ t && t ≤ 3 then { s with ucl := { s.ucl with requests := s.ucl.requests ++ [(n, c)] } }
      else if t = cellMgt then mgtArrives c.src.toNat c s
      else s

/-- A cell arrives at port n; `crcOk`: its CRC is right. -/
def execCellReceive (port : Fin 4) (c : Cell) (crcOk : Bool) (s : State) : Result :=
  let n := port.val
  if !s.flag UCL_PSTAT_UP n then .next s
  else
    let s := clearSent s
    let own := (s.ownAddr).getD 0
    let bad (s : State) : State := sendNak n own ((s.countUp UCL_PERR_CRC n).mapUport n (fun p => { p with resync := true }))
    if !crcOk then .next (bad s)
    else if 9 ≤ c.type.val then .next (s.countUp UCL_PERR_CRC n)
    else
      let s := if c.nak then replayFrom n c.ack.toNat s
        else s.mapUport n (fun p => { p with
          replays := if seqAfter p.replayAck c.ack.toNat then 0 else p.replays
          sent := p.sent.filter (fun x => seqAfter c.ack.toNat x.txseq.toNat) })
      if c.txseq = 0 then .next (acceptCell n c s)
      else
        let p := s.ucl.ports[n]!
        if c.txseq.toNat = p.rxNext then
          let next := if p.rxNext = 65535 then 1 else p.rxNext + 1
          .next (acceptCell n c (s.mapUport n (fun p => { p with rxNext := next, resync := false })))
        else if p.resync then .next s
        else .next (sendNak n own (s.mapUport n (fun p => { p with resync := true })))

end Sys2Proof.Machine
end

