-- ==== Sys2Proof/Machine/Reset.lean ====
section
/-!
DEFINITION. Resets (R31, R173, R259, R276, R277, R326, R382, R404, R420, R446, R508, R518, R557, R578 to R584, R603): power-on
and device reset, the seat reset in its steps, and the block reset.
-/

namespace Sys2Proof.Machine

/-! ### Power-on and device reset (Table PWR-8) -/

/-- Register words of the DBG frame. -/
def inDbgFrame (a : Nat) : Bool := decide (0x20160000 ≤ a) && decide (a < 0x20170000)

/-- Register words that a power-on reset keeps: RSTCAUSE, what PRS holds, and the debug domain's registers other than the
grants, CCTL, CMPCTL and LGXT (R584). -/
def porKeeps (a : Nat) : Bool :=
  PWC_RSTCAUSE.covers a || PRS_WEAR.covers a || PRS_STAT.covers a ||
    (inDbgFrame a && !(DBG_GRANT.covers a || DBG_CCTL.covers a || DBG_CMPCTL.covers a || DBG_LGXT.covers a))

/-- Register words that a device reset keeps besides: the TBS count, DEAL.ROUND, the SFI log, DMC.TRNDATA, the lock of the
PLL, and, with `open_`, every register of the DBG frame. -/
def deviceKeeps (open_ : Bool) (a : Nat) : Bool :=
  porKeeps a || TBS_NOW.covers a || DEAL_ROUND.covers a || SFI_FLOG.covers a || SFI_FLOGT.covers a ||
    SFI_FLOGIDX.covers a || SFI_STAT.covers a || SFI_SSTAT.covers a || DMC_TRNDATA.covers a || CRG_STAT.covers a ||
    (open_ && inDbgFrame a)

/-- A reset that keeps the register words for which `keep` holds, boot NVM, the persistent words, the fuses and the flash
devices. -/
def resetState (keep : Nat → Bool) (s : State) : State :=
  { State.reset with
    pending := s.pending
    resp := s.resp
    fresh := s.fresh
    regs := s.regs.filter (fun c => keep c.1)
    mem := s.mem.filter (fun c => isBnv c.1 || isPrs c.1)
    fuses := s.fuses
    fuseWritten := s.fuseWritten
    fuseDestroyed := s.fuseDestroyed
    fuseDamaged := s.fuseDamaged
    fuseOp := s.fuseOp
    flash := s.flash
    vddDbg := s.vddDbg
    nonceHeld := s.nonceHeld
    wciOut := s.wciOut
    safeOut := s.safeOut
    faultStore := s.faultStore
    faultLost := s.faultLost
    boundary := s.boundary
    tapData := s.tapData
    tapRefused := s.tapRefused
    rails := s.rails
    pwrEn := s.pwrEn }

/-- PRS.STAT keeps NWORN only. -/
def prsStatKept (s : State) : State := (s.put PRS_STAT_WORNEV 0).put PRS_STAT_FIRST 0

/-- A power-on reset with its cause. -/
def powerOnReset (cause : Fld) (s : State) : State := (prsStatKept (resetState porKeeps s)).put cause 1

/-- Steps 3 and the start of step 4 of R449: the fabric runs, and every DSTORE bank zeroes itself. -/
def deviceOn (s : State) : State := { s.put DSTORE_INITSTAT_BUSY 0xFFFFFFFF with device := .on }

/-- A device reset with its cause, up to the stage-0 check: a fuse operation is cut after `cut` fuses, and the fuse load finds
the value fields `damage` uncorrectable (R579). -/
def deviceReset (cause : Fld) (cut : Nat) (damage : List Nat) (s : State) : State :=
  let keepDbg := s.lifeCycle == lcMaker || s.lifeCycle == lcDevelopment
  let t := fuseOpCut cut s
  let t := prsStatKept (resetState (deviceKeeps keepDbg) t)
  let t := { t with tbsFrac := s.tbsFrac, grantPhase := s.grantPhase }
  let t := customerSeats.foldl (fun u seat => u.put SFI_SSTAT_SAFE 0 seat) (t.put SFI_STAT_DSAFE 0)
  deviceOn (fuseLoad damage (t.put cause 1))

/-- The damage of value fields that a reset inside another command finds: that of the last fuse load. -/
def softReset (s : State) : State := deviceReset PWC_RSTCAUSE_SWRST 0 s.fuseDamaged s

/-! ### Seat reset (R580, Table PWR-9) -/

/-- Cores that a seat reset stops: those the seat owns, and those that run it (log 49). -/
def State.resetCores (s : State) (seat : Nat) (k : CoreId) : Bool :=
  s.coreOwner k.val == seat || (s.core k).seatid == seat
def State.ownedCores (s : State) (seat : Nat) : List Nat := (List.range 32).filter (fun n => s.coreOwner n == seat)
def State.ownedLanes (s : State) (seat : Nat) : List Nat := (List.range 64).filter (fun n => s.laneOwner n == seat)

/-- A core held in reset is not released, so that it is in C3 (Table PWR-5). -/
def holdCores (seat : Nat) (s : State) : State :=
  let ks := (List.finRange 32).filter (fun k => s.resetCores seat k)
  let s := s.mapCores (fun k => ks.contains k) (fun _ => Core.initial)
  ks.foldl (fun t k => ((t.put PWC_CCTL_STATE 3 k.val).put PWC_CCTL_TGWAIT 0 k.val).put DBG_CCTL_HALTED 0 k.val) s

/-- Steps 1 and 2. -/
def seatResetStart (seat : Nat) (s : State) : State :=
  if seat = 0 || 15 < seat || s.seatResetting seat then s
  else
    let s := if s.seatSafe seat && !s.restarts.contains seat then { s with restarts := s.restarts ++ [seat] } else s
    let s := s.putBit PWC_STAT_SRBUSY (seat - 1) true
    let s := s.each ((List.range 24).filter (fun p => s.hrpOwner p == seat)) driveSafe
    let s := s.putBit FAB_QUENCH_SEAT (seat - 1) true
    let s := holdCores seat s
    let s := s.each (s.ownedLanes seat) (fun n t => laneLeaves n lsHalted t)
    abortCommands seat s

/-- Caches of the seat (R259). -/
def resetCaches (seat : Nat) (s : State) : State :=
  s.each (List.range 8) (fun cl t =>
    let t := t.mapL2 cl (·.filter (fun e => e.seat != seat))
    ((t.resetInst CACHE_WLOCK cl seat).resetInst CACHE_SCTL cl seat).resetInst CACHE_STAT cl seat)

/-- DSTORE banks of the seat: those in memory mode begin to zero themselves, tags of the others go (R276, R277). -/
def resetBanks (seat : Nat) (s : State) : State :=
  let mine := (List.range 32).filter (fun b => s.bankOwner b == seat && !s.flag SEAT_BANK_XING b)
  let s := s.each (mine.filter (fun b => s.get DSTORE_BCFG_MODE b == 0)) (fun b t => t.putBit DSTORE_INITSTAT_BUSY b true)
  { s with msc := s.msc.filter (fun x => !mine.contains x.bank) }

/-- ICU sources and targets of the seat (R420). -/
def resetSources (seat : Nat) (s : State) : State :=
  let src := (List.range 512).filter (fun n => s.srcOwner n == seat)
  let tgt := s.ownedCores seat
  let s := { s with
    inSvc := s.inSvc.filter (fun e => !src.contains e.src && !tgt.contains e.tgt)
    stale := s.stale.filter (fun e => !tgt.contains e.1) }
  let s := s.each src (fun n t => (((t.put ICU_SRC_PEND 0 n).put ICU_SRC_ACT 0 n).put ICU_SRC_STR 0 n).put ICU_SRC_EN 0 n)
  s.each tgt (fun n t => (t.resetInst ICU_TCTL n).resetInst ICU_TSTAT n)

/-- Watchdogs of the seat (R446). -/
def resetWatchdogs (seat : Nat) (s : State) : State :=
  let s := ((s.resetInst SFI_SWDCFG seat).resetInst SFI_SWDWIN seat).resetInst SFI_SWDCNT seat
  let s := s.each (s.ownedCores seat) (fun n t => (t.resetInst SFI_CWDCFG n).resetInst SFI_CWDCNT n)
  { s with
    swdStopped := s.swdStopped &&& ~~~(1#16 <<< seat)
    cwdStopped := (s.ownedCores seat).foldl (fun v n => v &&& ~~~(1#32 <<< n)) s.cwdStopped }

/-- IBC registers of the seat's cores (R173). -/
def resetIbc (seat : Nat) (s : State) : State :=
  s.each (s.ownedCores seat) (fun n t =>
    resetCounters n (((t.resetInst IBC_DMSTAT n).resetInst IBC_LSSTAT n).resetInst IBC_LSPC n))

/-- A lane and its registers, FWBASE and FWSIZE apart (R382). Its memories are zeroed. -/
def resetLane (n : Nat) (s : State) : State :=
  let s := [LN_CTL, LN_STAT, LN_ENTRY, LN_PC, LN_PMCRC, LN_SIGCODE, LN_ERR, LN_CRCLEN].foldl
    (fun t r => t.resetInst r n) s
  let s := s.each [0, 1, 2, 3] (fun j t => ((t.resetInst LN_MBIN n j).resetInst LN_MBOUT n j).resetInst LN_FWSTAT n j)
  { s with lanes := s.lanes.set! n { Lane.initial with zeroing := true } }

/-- Lanes of the seat, and the registers of the groups that it owns whole. -/
def resetLanes (seat : Nat) (s : State) : State :=
  let gs := [0, 1, 2, 3].filter (fun g => s.groupOwner g == seat)
  let s := s.each (s.ownedLanes seat) resetLane
  s.each gs (fun g t =>
    let t := [LG_CTL, LG_STAT, LG_SYNC, LG_STOP, LG_EVCNT, LG_LOADSRC, LG_LOAD].foldl (fun u r => u.resetInst r g) t
    let t := t.each (List.range 64) (fun w u => u.resetInst LG_XW g w)
    { t with groups := t.groups.set! g ⟨0, none, []⟩ })

/-- SDI channels and HRP pairs of the seat, SAFEH and SAFEL apart (R404). -/
def resetConverter (seat : Nat) (s : State) : State :=
  let chs := (List.range 48).filter (fun c => s.sdiOwner c == seat)
  let ps := (List.range 24).filter (fun p => s.hrpOwner p == seat)
  let s := s.each chs (fun c t =>
    let t := [SDI_CTL, SDI_SCALE, SDI_STAT, SDI_RES, SDI_FT, SDI_FTHR, SDI_TRIPMASK, SDI_BSCHK, SDI_FTVAL].foldl
      (fun u r => u.resetInst r c) t
    { t with sdiSat := t.sdiSat &&& ~~~(1#48 <<< c) })
  s.each ps (fun p t =>
    let h := t.get HRP_CTL_SAFEH p
    let l := t.get HRP_CTL_SAFEL p
    let t := [HRP_CTL, HRP_STAT, HRP_RBCFG, HRP_CNT, HRP_SHD_PERIOD, HRP_ACT_PERIOD].foldl (fun u r => u.resetInst r p) t
    let t := t.each [0, 1, 2] (fun j u => (u.resetInst HRP_SHD p j).resetInst HRP_ACT p j)
    let t := (t.put HRP_CTL_SAFEH h p).put HRP_CTL_SAFEL l p
    { t with hrp := t.hrp.set! p ⟨[], [], false, 0⟩ })

/-- Host queues and legacy controllers of the seat (R518). The permissions that Welfen wrote from the manifests stay. -/
def resetControllers (seat : Nat) (s : State) : State :=
  let mask := s.get ETHSW_HQCFG_TCMASK seat
  let hold := s.get ETHSW_HQSTAT_HOLD seat
  let s := [ETHSW_HQTXBASE, ETHSW_HQRXBASE, ETHSW_HQCFG, ETHSW_HQSTAT, ETHSW_HQTXPI, ETHSW_HQTXCI, ETHSW_HQRXPI,
    ETHSW_HQRXCI].foldl (fun u r => u.resetInst r seat) s
  let s := (s.put ETHSW_HQCFG_TCMASK mask seat).put ETHSW_HQSTAT_HOLD hold seat
  let cs := (List.range 20).filter (fun c => s.ctlOwner c == seat)
  { s with legacy := cs.foldl (fun v c => v.set! c ⟨[], false⟩) s.legacy }

/-- Mailbox indices (R508), FAB (R326) and trace control (R603) of the seat. -/
def resetPages (seat : Nat) (s : State) : State :=
  [MBX_REQPI, MBX_REQCI, MBX_RSPPI, MBX_RSPCI, FAB_PELOG, FAB_PECNT, TRC_SCTL].foldl (fun u r => u.resetInst r seat) s

/-- Step 4, which ends step 3: every outstanding request of the seat has its response. -/
def seatResetClear (seat : Nat) (s : State) : State :=
  if !s.seatResetting seat || s.srDrained.contains seat then s
  else
    let s := { s with srDrained := s.srDrained ++ [seat] }
    let s := resetBanks seat (resetCaches seat s)
    let s := resetWatchdogs seat (resetSources seat s)
    let s := resetConverter seat (resetLanes seat (resetIbc seat s))
    resetPages seat (resetControllers seat s)

/-- May step 5 run: step 4 has, every bank has been zeroed, and the device is not in its safe state (R429)? -/
def State.seatResetReady (s : State) (seat : Nat) : Bool :=
  s.seatResetting seat && s.srDrained.contains seat && !s.flag SFI_STAT_DSAFE &&
    (List.range 32).all (fun b => !(s.bankOwner b == seat && s.bitOf DSTORE_INITSTAT_BUSY b))

/-- Step 5. -/
def seatResetEnd (seat : Nat) (s : State) : State :=
  let cs := s.ownedCores seat
  let ls := s.ownedLanes seat
  let s := releaseTokens (fun w => match w with
    | .core n => cs.contains n
    | .lane n => ls.contains n
    | .cluster _ => false) s
  let s := ((s.putBit FAB_QUENCH_SEAT (seat - 1) false).putBit SFI_SEATSAFE_SAFE (seat - 1) false).putBit
    PWC_STAT_SRBUSY (seat - 1) false
  let s := { s.put SFI_SSTAT_SAFE 0 seat with srDrained := s.srDrained.filter (· != seat) }
  [0, 1, 2, 3, 4, 5, 6, 7].foldl (fun t cl => clusterOffIfIdle cl t) s

/-! ### Block reset (R581) -/

/-- Base and size of the frames of target number t. -/
def targetFrames (t : Nat) : Option (Nat × Nat) :=
  (blocks.find? (fun b => decide (b.first ≤ t) && decide (t < b.first + b.n))).map
    (fun b => (b.base + (t - b.first) * b.stride, b.frames * 0x10000))

/-- What target t holds besides its registers returns to its reset value. -/
def blockHidden (t : Nat) (s : State) : State :=
  if t = 0xD0 then { s with ethLink := s.ethLink.set! 4 0 }
  else if t = 0xD1 then { s with gates := Vector.replicate 4 0xFF, ethSent := none }
  else if t ≤ 0xD5 then { s with ethLink := s.ethLink.set! (t - 0xD2) 0 }
  else if t = 0xD6 then { s with ucl := Ucl.initial }
  else if t ≤ 0xDA then s.mapUport (t - 0xD7) (fun _ => ⟨1, 1, false, 0, 0, [], false⟩)
  else if t ≤ 0xDC then { s with legacy := s.legacy.set! (t - 0xDB) ⟨[], false⟩ }
  else if 0xE0 ≤ t ∧ t ≤ 0xE7 then { s with legacy := s.legacy.set! (2 + (t - 0xE0)) ⟨[], false⟩ }
  else if 0xEA ≤ t ∧ t ≤ 0xF3 then { s with legacy := s.legacy.set! (10 + (t - 0xEA)) ⟨[], false⟩ }
  else if t = 0xF4 then { s with gpioRbmis := 0 }
  else s

/-- One peripheral target returns to its reset values. -/
def blockReset (t : Nat) (s : State) : State :=
  if t < 0xD0 || 0xF4 < t then s
  else match targetFrames t with
    | none => s
    | some (base, n) => blockHidden t (s.clearRegs (fun a => decide (base ≤ a) && decide (a < base + n)))

/-! ### PWC.RST -/

/-- A write of PWC.RST; `cut` and `damage` as for `deviceReset`. -/
def rstWrite (v cut : Nat) (damage : List Nat) (s : State) : State :=
  match slice v 28 4 with
  | 1 => seatResetStart (slice v 0 8) s
  | 2 => blockReset (slice v 0 8) s
  | 3 => if slice v 8 8 = 0x5A then deviceReset PWC_RSTCAUSE_SWRST cut damage s else s
  | _ => s

end Sys2Proof.Machine
end

