-- ==== Sys2Proof/Machine/Pmx.lean ====
section
/-!
DEFINITION. Claimable resources (R29 to R31, R603, R608 to R612): pins, TBS units and trace regions, with the status codes of
Table WCI-2.
-/

namespace Sys2Proof.Machine

/-! ### Status codes (Table WCI-2) -/

def stOk : Nat := 0x00
def stBusy : Nat := 0x01
def stNotent : Nat := 0x02
def stLastkey : Nat := 0x03
def stBadmsg : Nat := 0x04
def stUnsup : Nat := 0x05
def stDenied : Nat := 0x06
def stLocked : Nat := 0x07
def stNosession : Nat := 0x08
def stSigfail : Nat := 0x09
def stRange : Nat := 0x0A
def stAborted : Nat := 0x0B
def stNomem : Nat := 0x0C
/-- A refusal whose code the spec does not give. -/
def stOpen (n : Nat) : Nat := (Config.openStatus n).toNat % 12 + 1

/-! ### Entitlement (Table WCI-6, ENTITLE) -/

/-- The accepted manifest of a seat, and the data of its records of a type. -/
def State.manifest (s : State) (seat : Nat) : Option SeatManifest := s.manifests.find? (·.seat == seat)
def SeatManifest.record (m : SeatManifest) (type : Nat) : List Byte :=
  (m.records.filter (fun r => r.1 == type)).flatMap (·.2)
/-- Number of `n` bytes, little-endian, at offset `o` of a byte list. -/
def bytesAt (l : List Byte) (o n : Nat) : Nat := ((l.drop o).take n).foldr (fun b v => b.toNat + 256 * v) 0
/-- A byte list in entries of `n` bytes; a rest that is shorter is dropped. -/
def entriesOf (n : Nat) (l : List Byte) : List (List Byte) :=
  (List.range (l.length / n)).map (fun i => (l.drop (i * n)).take n)

/-- Does the manifest of `seat` list the resource? -/
def State.entitled (s : State) (seat kind index : Nat) : Bool :=
  match s.manifest seat with
  | none => false
  | some m => (entriesOf 4 (m.record 0x000D)).any (fun e => bytesAt e 0 1 == kind && bytesAt e 2 2 == index)

/-! ### Balls -/

def fnNone : Nat := 0
def fnHrp : Nat := 1
def fnTbs : Nat := 2
def fnGpio : Nat := 3
def fnCtl : Nat := 4
def fnTrace : Nat := 5
def fnSdi : Nat := 6

/-- Rank of a function (R610); an assigned SDI or generator ball is never taken. -/
def fnRank (f : Nat) : Nat := if f = fnHrp || f = fnSdi then 4 else if f = fnTbs then 3 else if f = fnTrace then 1 else 2

/-- Functions that ball p offers to a claim (Table PKG-4). -/
def ballOffers (p f : Nat) : Bool :=
  if p < 96 then f == fnTbs || f == fnGpio || f == fnCtl || (f == fnTrace && decide (64 ≤ p) && decide (p ≤ 80))
  else if p < 152 then f == fnSdi
  else f == fnHrp || f == fnTbs

/-- The trace port. -/
def tracePort : List Nat := (List.range 17).map (64 + ·)

/-- Safe level of a held ball (R611), coded as PMX.OWN.SAFE. -/
def State.ballSafe (s : State) (p : Nat) : Nat :=
  if p < 96 then 0
  else if p < 152 then 3
  else if p % 2 = 0 then s.get HRP_CTL_SAFEH ((p - 152) / 2) else s.get HRP_CTL_SAFEL ((p - 152) / 2)

/-- PMX.OWN of a ball that a seat takes. -/
def takeBall (seat p f unit : Nat) (s : State) : State :=
  ((((s.put PMX_OWN_HELD 1 p).put PMX_OWN_SEL (if f = fnTbs then unit else 0) p).put PMX_OWN_SAFE (s.ballSafe p) p).put
    PMX_OWN_FUNC f p).put PMX_OWN_OWNER seat p

/-- A ball's function loses it: a TBS unit goes with its ball, and the trace port as a whole. -/
def dropBall (p : Nat) (s : State) : State :=
  let f := s.get PMX_OWN_FUNC p
  let s := if f = fnTbs then s.put TBS_CCCTL_OWNER 0 (s.get PMX_OWN_SEL p) else s
  if f = fnTrace then (s.each tracePort (fun q t => if t.get PMX_OWN_FUNC q = fnTrace then t.resetInst PMX_OWN q else t)).put TRC_PCTL_OWNER 0
  else s.resetInst PMX_OWN p

/-- May `seat` take ball p for function f: no other seat holds it, and no function of the same seat of the same or a higher
rank does? -/
def State.ballFree (s : State) (seat p f : Nat) : Bool :=
  !s.flag PMX_OWN_HELD p || (s.get PMX_OWN_OWNER p == seat && decide (fnRank (s.get PMX_OWN_FUNC p) < fnRank f))

/-- A function takes a ball; one that it displaces is recorded (R610). -/
def grantBall (seat f unit p : Nat) (s : State) : State :=
  let s := if s.flag PMX_OWN_HELD p then
      let s := dropBall p s
      if s.flag PMX_STAT_DISP then s else (s.put PMX_STAT_DISP 1).put PMX_STAT_FIRST p
    else s
  takeBall seat p f unit s

/-- The ball that carries unit u. -/
def State.unitBall (s : State) (u : Nat) : Option Nat :=
  (List.range 200).find? (fun p => s.flag PMX_OWN_HELD p && s.get PMX_OWN_FUNC p == fnTbs && s.get PMX_OWN_SEL p == u)

/-- A pin claim (R609, R610). -/
def claimPin (seat f p unit : Nat) (s : State) : Nat × State :=
  if 200 ≤ p || !ballOffers p f || (f == fnTbs && decide (32 ≤ unit)) then (stRange, s)
  else
    let balls := if f = fnTrace then tracePort else [p]
    if !balls.all (fun q => s.entitled seat 1 q) || (f == fnTbs && !s.entitled seat 2 unit) then (stNotent, s)
    else
      let unitFree := s.get TBS_CCCTL_OWNER unit == 0 || (s.get TBS_CCCTL_OWNER unit == seat && (s.unitBall unit).isNone)
      if !balls.all (fun q => s.ballFree seat q f) || (f == fnTbs && !unitFree) then (stBusy, s)
      else
        let s := s.each balls (grantBall seat f unit)
        let s := if f = fnTbs then s.put TBS_CCCTL_OWNER seat unit else s
        (stOk, if f = fnTrace then s.put TRC_PCTL_OWNER seat else s)

/-! ### WCI CLAIM and RELEASE -/

/-- A claim of `seat`: kind 1 a pin for function f, 2 a TBS unit, 3 a trace region (R29). -/
def claim (seat kind f index unit : Nat) (s : State) : Nat × State :=
  match kind with
  | 1 => claimPin seat f index unit s
  | 2 =>
    if 32 ≤ index then (stRange, s)
    else if !s.entitled seat 2 index then (stNotent, s)
    else if s.get TBS_CCCTL_OWNER index ≠ 0 then (stBusy, s)
    else (stOk, s.put TBS_CCCTL_OWNER seat index)
  | 3 =>
    if 8 ≤ index then (stRange, s)
    else if !s.entitled seat 3 index then (stNotent, s)
    else if s.get TRC_RCTL_OWNER index ≠ 0 then (stBusy, s)
    else (stOk, s.put TRC_RCTL_OWNER seat index)
  | _ => (stRange, s)

/-- A release by `seat`. The assigned balls of the converter are held for the life of the start (R609). -/
def releaseClaim (seat kind index : Nat) (s : State) : Nat × State :=
  match kind with
  | 1 =>
    if 200 ≤ index then (stRange, s)
    else if s.flag PMX_OWN_HELD index && s.get PMX_OWN_OWNER index == seat && fnRank (s.get PMX_OWN_FUNC index) != 4 then
      (stOk, dropBall index s)
    else (stOpen 0, s)
  | 2 =>
    if 32 ≤ index then (stRange, s)
    else if s.get TBS_CCCTL_OWNER index ≠ seat then (stOpen 0, s)
    else match s.unitBall index with
      | some p => (stOk, dropBall p s)
      | none => (stOk, s.put TBS_CCCTL_OWNER 0 index)
  | 3 =>
    if 8 ≤ index then (stRange, s)
    else if s.get TRC_RCTL_OWNER index ≠ seat then (stOpen 0, s)
    else (stOk, s.put TRC_RCTL_OWNER 0 index)
  | _ => (stRange, s)

/-- At MS2 the converter's balls go to the owners of their channels and pairs, and the generators' to seat 0 (R609). -/
def assignBalls (s : State) : State :=
  let s := s.each (List.range 48) (fun c t => takeBall (t.sdiOwner c) (96 + c) fnSdi 0 t)
  let s := s.each (List.range 8) (fun g t => takeBall 0 (144 + g) fnSdi 0 t)
  s.each (List.range 48) (fun k t => takeBall (t.hrpOwner (k / 2)) (152 + k) fnHrp 0 t)

end Sys2Proof.Machine
end

