-- ==== Sys2Proof/Machine/Manifest.lean ====
section
/-!
DEFINITION. Seat manifests (R511 to R513, Table WCI-6): their checks, how Welfen combines them, what their records set, the
crossing buffers (R36, R39, R40) and the seat tables that Welfen builds from them (R24, R222, R224 to R226, R333).
-/

namespace Sys2Proof.Machine

/-! ### Parsing -/

/-- `n` records (TYPE, data) from a byte list; none where one runs past its end. Data are padded to 4 bytes. -/
def parseRecords : Nat → List Byte → Option (List (Nat × List Byte))
  | 0, _ => some []
  | n + 1, l =>
    let len := bytesAt l 2 2
    let padded := (len + 3) / 4 * 4
    if l.length < 4 + padded || ((l.drop (4 + len)).take (padded - len)).any (· != 0) then none
    else (parseRecords n (l.drop (4 + padded))).map (fun r => (bytesAt l 0 2, (l.drop 4).take len) :: r)

/-- Record types that may appear more than once. -/
def recordRepeats (t : Nat) : Bool := t == 0x8005 || t == 0x8011

/-- Record types that Table WCI-6 knows. -/
def recordKnown (t : Nat) : Bool :=
  (decide (0x8001 ≤ t) && decide (t ≤ 0x800C)) || t == 0x8010 || t == 0x8011 || (decide (0x000D ≤ t) && decide (t ≤ 0x000F))

/-- Numbers of the set bits of an `n`-bit mask. -/
def bitsOf (v n : Nat) : List Nat := (List.range n).filter (fun i => v.testBit i)

/-- Is the data of a known record within the limits of what it sets (R513)? -/
def recordFits (t : Nat) (d : List Byte) : Bool :=
  let each (n : Nat) (p : List Byte → Bool) : Bool := d.length % n == 0 && (entriesOf n d).all p
  match t with
  | 0x8001 => d.length == 6
  | 0x8002 => d.length == 8
  | 0x8003 => d.length == 12
  | 0x8004 =>
    d.length == 12 + (bitsOf (bytesAt d 8 4) 32).length && decide (bytesAt d 8 4 < 2 ^ 24) && decide (bytesAt d 0 8 < 2 ^ 48) &&
      (d.drop 12).all (fun b => decide (b.toNat < 16) && b.toNat % 4 != 3 && b.toNat / 4 != 3)
  | 0x8005 => d.length == 2 && decide (bytesAt d 0 1 < 8) && decide (48 ≤ bytesAt d 1 1) && decide (bytesAt d 1 1 ≤ 240)
  | 0x8006 => each 4 (fun e => decide (bytesAt e 0 2 < 512) && decide (bytesAt e 2 1 < 16) && decide (bytesAt e 3 1 < 64))
  | 0x8007 => d.length == 16
  | 0x8008 => d.length == 16
  | 0x8009 => each 4 (fun e =>
    decide (bytesAt e 0 2 < 4096) && decide (bytesAt e 2 1 < 16) && slice (bytesAt e 3 1) 2 5 == 0)
  | 0x800A => d.length == 4 && decide (bytesAt d 0 4 < 2 ^ 16)
  | 0x800B => each 17 (fun e =>
    bytesAt e 0 8 % 4096 == 0 && bytesAt e 8 8 % 4096 == 0 && decide (0 < bytesAt e 8 8) &&
      decide (bytesAt e 0 8 + bytesAt e 8 8 ≤ 2 ^ 48) && decide (bytesAt e 16 1 < 32))
  | 0x800C => d.length == 4
  | 0x000D => each 4 (fun e => decide (1 ≤ bytesAt e 0 1) && decide (bytesAt e 0 1 ≤ 3) && bytesAt e 1 1 == 0)
  | 0x000E => each 8 (fun e =>
    (bytesAt e 0 1 == 1 || bytesAt e 0 1 == 2) && decide (1 ≤ bytesAt e 1 1) && decide (bytesAt e 1 1 ≤ 15) &&
      decide (1 ≤ bytesAt e 4 4) && decide (bytesAt e 4 4 ≤ 1024))
  | 0x000F => d.length == 2
  | 0x8010 =>
    decide (5 ≤ d.length) && bytesAt d 0 2 % 64 == 0 && decide (64 ≤ bytesAt d 0 2) && decide (bytesAt d 0 2 ≤ 4096) &&
      decide (bytesAt d 2 2 < 4096)
  | 0x8011 => d.length % 32 == 0
  | _ => true

/-- FLAGS.CODEPATCH, DEVSAFE and SYSTEM. -/
def SeatManifest.codepatch (m : SeatManifest) : Bool := m.flags.testBit 0
def SeatManifest.devsafe (m : SeatManifest) : Bool := m.flags.testBit 1
def SeatManifest.system (m : SeatManifest) : Bool := m.flags.testBit 2
def SeatManifest.has (m : SeatManifest) (t : Nat) : Bool := m.records.any (·.1 == t)

/-- Is a signer of slot k allowed in the life-cycle state (Table BOOT-5)? -/
def signerAllowed (lc k : Nat) : Bool :=
  if lc = lcDevelopment ∨ lc = lcField then decide (1 ≤ k) && decide (k ≤ 8) else lc != lcEnd && k == 0

/-- Context strings. -/
def ctxUZSM : List Byte := [0x55, 0x5A, 0x53, 0x4D]

/-- The manifest that the bytes of component `comp`, of seat `seat`, spell; none where Welfen refuses it on its own
(R511, R512, R513, R543). -/
def readManifest (comp seat : Nat) (l : List Byte) (s : State) : Option SeatManifest :=
  let len := bytesAt l 8 4
  let flags := bytesAt l 14 1
  let body := l.take (len - 114)
  let headOk := bytesAt l 0 4 == 0x4D535A55 && bytesAt l 4 2 == 1 && decide (0x60 + 114 ≤ len) && decide (len ≤ l.length) &&
    bytesAt l 12 1 == seat && decide (1 ≤ seat) && decide (seat ≤ 15) && decide (flags < 8) && bytesAt l 0x1A 6 == 0 &&
    bytesAt l 0x59 7 == 0 && decide (bytesAt l 0x10 8 < 2 ^ 48)
  let slot := bytesAt l 13 1
  let signed := (s.signedCheck slot ((l.drop 0x20).take 57) ctxUZSM body ((l.drop (len - 114)).take 114)).isNone &&
    signerAllowed s.lifeCycle slot
  match parseRecords (bytesAt l 0x18 2) (body.drop 0x60) with
  | none => none
  | some rs =>
    let types := rs.map (·.1)
    let once := rs.all (fun r => recordRepeats r.1 || types.count r.1 == 1 || (!recordKnown r.1 && decide (r.1 < 0x8000)))
    let known := rs.all (fun r => recordKnown r.1 || decide (r.1 < 0x8000))
    let fits := rs.all (fun r => recordFits r.1 r.2)
    let m : SeatManifest := ⟨seat, slot, comp, flags, bytesAt l 0x10 8, rs.filter (fun r => recordKnown r.1)⟩
    let members := if m.has 0x8011 then m.system && decide ((m.record 0x8011).length ≤ 32 * 4096) else true
    if headOk && signed && once && known && fits && members then some m else none

/-! ### Combining (R513, R517) -/

/-- Legacy controller frames that a PAGES record names. -/
def pagesFrames (d : List Byte) : List Nat :=
  (List.range 20).filter (fun c => (entriesOf 17 d).any (fun e =>
    decide (bytesAt e 0 8 ≤ ctlFrame c) && decide (ctlFrame c < bytesAt e 0 8 + bytesAt e 8 8)))

/-- The resources that a record names, each as one number: those of different kinds differ. -/
def recordResources (r : Nat × List Byte) : List Nat :=
  let d := r.2
  let mk (kind : Nat) (l : List Nat) : List Nat := l.map (· + kind * 0x100000)
  match r.1 with
  | 0x8001 => mk 1 (bitsOf (bytesAt d 0 4) 32)
  | 0x8002 => mk 2 (bitsOf (bytesAt d 0 4 ||| bytesAt d 4 4) 32)
  | 0x8003 => mk 3 (bitsOf (bytesAt d 0 8) 64)
  | 0x8004 => mk 4 (bitsOf (bytesAt d 0 8) 48) ++ mk 5 (bitsOf (bytesAt d 8 4) 24)
  | 0x8006 => mk 6 ((entriesOf 4 d).map (fun e => bytesAt e 0 2))
  | 0x8007 => (List.range 8).flatMap (fun c => mk 7 ((bitsOf (bytesAt d (2 * c) 2) 16).map (· + 16 * c)))
  | 0x8008 => (List.range 4).flatMap (fun c => mk 8 ((bitsOf (bytesAt d (4 * c) 4) 32).map (· + 32 * c)))
  | 0x8009 => mk 9 ((entriesOf 4 d).map (fun e => bytesAt e 0 2))
  | 0x800B => mk 10 (pagesFrames d)
  | 0x000F => mk 11 (bitsOf (bytesAt d 0 2) 16)
  | _ => []

def SeatManifest.resources (m : SeatManifest) : List Nat := m.records.flatMap recordResources

/-- Does the manifest carry the SYSTEM record that R513 asks for? -/
def SeatManifest.carriesSystem (m : SeatManifest) : Bool := m.system && m.has 0x8010

/-- Generators with their DIV. Seats may share a generator under one DIV. -/
def SeatManifest.clocks (m : SeatManifest) : List (Nat × Nat) :=
  (m.records.filter (·.1 == 0x8005)).map (fun r => (bytesAt r.2 0 1, bytesAt r.2 1 1))

/-- Is a manifest refused beside manifests of lower seats: a second one for its seat, a resource that a lower seat names, or a
second SYSTEM record? -/
def manifestClash (m : SeatManifest) (lower : List SeatManifest) : Bool :=
  lower.any (fun x => x.seat == m.seat || x.resources.any (m.resources.contains ·) || (x.carriesSystem && m.carriesSystem) ||
    x.clocks.any (fun a => m.clocks.any (fun b => a.1 == b.1 && a.2 != b.2)))

/-- Manifests in ascending order of seat, and of component within a seat. -/
def byseat (l : List SeatManifest) : List SeatManifest :=
  customerSeats.flatMap (fun n => l.filter (·.seat == n))

/-- The components that are refused when all manifests are taken together. -/
def refusedTogether (l : List SeatManifest) : List Nat :=
  ((byseat l).foldl (fun (acc : List SeatManifest × List Nat) m =>
    if manifestClash m acc.1 then (acc.1, acc.2 ++ [m.comp]) else (acc.1 ++ [m], acc.2)) ([], [])).2

/-! ### What the records set -/

/-- Owner fields of the resources that a mask names. -/
def ownAll (f : Fld) (seat : Nat) (l : List Nat) (s : State) : State := s.each l (fun n t => t.put f seat n)

/-- A seat's policy: without DEVSAFE, reaction 0b11 becomes 0b10 (R424). -/
def policyWord (devsafe : Bool) (v : Nat) : Nat :=
  if devsafe then v
  else (List.range 16).foldl (fun w i => if slice v (2 * i) 2 = 3 then withSlice w (2 * i) 2 2 else w) v

/-- The table that Welfen writes: the inactive one. -/
def State.otherTable (s : State) : Nat := 1 - s.get DEAL_NOW_ACT

/-- What one record of the manifest of `seat` sets. -/
def applyRecord (m : SeatManifest) (r : Nat × List Byte) (s : State) : State :=
  let d := r.2
  let seat := m.seat
  match r.1 with
  | 0x8001 =>
    (ownAll SEAT_CORE_OWNER seat (bitsOf (bytesAt d 0 4) 32) s).put SEAT_PAIRMODE_LOCKED (s.get SEAT_PAIRMODE_LOCKED ||| bytesAt d 4 2)
  | 0x8002 =>
    let s := ownAll SEAT_BANK_OWNER seat (bitsOf (bytesAt d 0 4 ||| bytesAt d 4 4) 32) s
    ownAll DSTORE_BCFG_MODE 1 (bitsOf (bytesAt d 4 4) 32) s
  | 0x8003 =>
    let s := ownAll SEAT_LANE_OWNER seat (bitsOf (bytesAt d 0 8) 64) s
    s.each (bitsOf (bytesAt d 8 4) 32) (fun k t => t.putBit LG_LPAIR_LOCKED (k % 8) true (k / 8))
  | 0x8004 =>
    let ps := bitsOf (bytesAt d 8 4) 24
    let s := ownAll SEAT_SDI_OWNER seat (bitsOf (bytesAt d 0 8) 48) s
    (ps.zip (d.drop 12)).foldl (fun t e =>
      ((t.put SEAT_HRP_OWNER seat e.1).put HRP_CTL_SAFEH (e.2.toNat / 4) e.1).put HRP_CTL_SAFEL (e.2.toNat % 4) e.1) s
  | 0x8005 => (s.put SDI_MCLK_DIV (bytesAt d 1 1) (bytesAt d 0 1)).put SDI_MCLK_EN 1 (bytesAt d 0 1)
  | 0x8006 => (entriesOf 4 d).foldl (fun t e =>
      let n := bytesAt e 0 2
      ((t.put SEAT_SRC_OWNER seat n).put ICU_SRC_PRIO (bytesAt e 2 1) n).put ICU_SRC_TGT (bytesAt e 3 1) n) s
  | 0x8007 => s.each (List.range 8) (fun c t =>
      t.each (bitsOf (bytesAt d (2 * c) 2) 16) (fun w u => u.put CACHE_WOWN_OWNER seat c w))
  | 0x8008 => s.each (List.range 4) (fun c t => t.put DMC_BSET_UNITS (bytesAt d (4 * c) 4) c seat)
  | 0x8009 => (entriesOf 4 d).foldl (fun t e =>
      let f := bytesAt e 3 1
      t.setReg DEAL_SLOT (seat + 0x100 + bytesAt e 2 1 * 0x1000 + f / 0x80 * 2 ^ 17 + f % 4 * 2 ^ 18) t.otherTable (bytesAt e 0 2)) s
  | 0x800A => s.put PWC_TGSHARE_SHARE (bytesAt d 0 4) seat
  | 0x800C => s.setReg SFI_POL (policyWord m.devsafe (bytesAt d 0 4)) seat
  | 0x000F => s.each ((bitsOf (bytesAt d 0 2) 16).filter (2 ≤ ·)) (fun g t => t.put PRS_GOWN_OWNER seat g)
  | 0x8010 =>
    if !m.system then s
    else
      let t := s.otherTable
      let len := bytesAt d 0 2 / 64 - 1
      let s := if t = 0 then s.put DEAL_CFG_LEN0 len else s.put DEAL_CFG_LEN1 len
      ((s.put DEAL_CFG_NEXT t).put DEAL_RFI_MAXGAP (bytesAt d 2 2)).put DEAL_SWLIM_LIMIT (bytesAt d 4 1)
  | _ => s

/-- Groups of PRS words whose owner has changed are zeroed, and words 4 and 5 record the new owners (R495): group g in bits
[4(g mod 8) + 3 : 4(g mod 8)] of word 4 + g / 8. -/
def prsOwners (s : State) : State :=
  let old := s.prs 4 + s.prs 5 * 2 ^ 32
  let new := ((List.range 16).map (fun g => (if g < 2 then 0 else s.get PRS_GOWN_OWNER g) * 2 ^ (4 * g))).sum
  let s := s.each (List.range 16) (fun g t =>
    if slice old (4 * g) 4 = slice new (4 * g) 4 then t else t.each (List.range 64) (fun i u => prsPut (64 * g + i) 0 u))
  prsPut 5 (new / 2 ^ 32) (prsPut 4 (new % 2 ^ 32) s)

/-! ### Crossing buffers (R36, R39, R40) -/

/-- An entry of an XBUF record: role, peer, tag, pages. -/
def xbufEntries (m : SeatManifest) : List (Nat × Nat × Nat × Nat) :=
  (entriesOf 8 (m.record 0x000E)).map (fun e => (bytesAt e 0 1, bytesAt e 1 1, bytesAt e 2 2, bytesAt e 4 4))

/-- Does the reader's manifest accept a buffer that the writer's declares, under the same tag and size? -/
def xbufMatch (ms : List SeatManifest) (writer reader tag pages : Nat) : Bool :=
  ms.any (fun w => w.seat == writer && (xbufEntries w).contains (1, reader, tag, pages)) &&
    ms.any (fun r => r.seat == reader && (xbufEntries r).contains (2, writer, tag, pages))

/-- Buffers that the manifests agree on: writer, reader, pages. -/
def agreedBuffers (ms : List SeatManifest) : List (Nat × Nat × Nat) :=
  (byseat ms).flatMap (fun m => ((xbufEntries m).filter (fun e =>
    e.1 == 1 && xbufMatch ms m.seat e.2.1 e.2.2.1 e.2.2.2)).map (fun e => (m.seat, e.2.1, e.2.2.2)))

/-- DSTORE page behind the last crossing buffer set up, at least that of bank `b`. -/
def State.xbufNext (s : State) (b : Nat) : Nat :=
  ((List.range 64).filter (fun x => s.flag SEAT_XBCFG_EN x)).foldl
    (fun n x => max n (s.get SEAT_XBBASE_OFFSET x + s.get SEAT_XBSIZE_NPAGE x + 1)) (b * 0x400)

/-- Set up one buffer in crossing bank `b` behind the others, filled with zeros; one that finds no room is not set up. -/
def xbufSetup (b writer reader pages : Nat) (s : State) : Bool × State :=
  let page := s.xbufNext b
  match (List.range 64).find? (fun x => !s.flag SEAT_XBCFG_EN x) with
  | none => (false, s)
  | some x =>
    if (b + 1) * 0x400 < page + pages then (false, s)
    else
      let s := s.zeroMem (0x10000000 + page * 0x1000) (pages * 0x1000)
      let s := (s.put SEAT_XBBASE_OFFSET page x).put SEAT_XBSIZE_NPAGE (pages - 1) x
      (true, ((s.put SEAT_XBCFG_WRITER writer x).put SEAT_XBCFG_READER reader x).put SEAT_XBCFG_EN 1 x)

/-! ### Seat tables -/

/-- Part of a seat's physical space with one set of attributes: base, size, descriptor bits [11:0] of its leaves. -/
structure PageRule where
  base : Nat
  size : Nat
  attr : Nat
  deriving DecidableEq, Repr

/-- Descriptor bits of a leaf (Table XLAT-3). -/
def leafAttr (r w x g : Bool) (tovr : Nat) : Nat :=
  1 + 4 * bit r + 8 * bit w + 16 * bit x + 32 * bit g + 64 * tovr

/-- Read-only and read-write pages of register space. -/
def devRO (base size : Nat) : PageRule := ⟨base, size, leafAttr true false false false 2⟩
def devRW (base size : Nat) : PageRule := ⟨base, size, leafAttr true true false false 2⟩

/-- Does `seat` own the resource behind a page that a PAGES record names (R24, R333)? TBS units and legacy controllers
belong to the seat whose manifest names them. -/
def State.pageOwned (s : State) (m : SeatManifest) (pa : Nat) : Bool :=
  if isDstore pa then s.bankOwner (bankOf pa) == m.seat && !s.flag SEAT_BANK_XING (bankOf pa)
  else if isDram pa then
    (List.range (max 1 (0x1000 / s.grain))).all (fun i =>
      let a := pa + i * s.grain
      let o := s.unitOwner (s.chanOf a) (s.unitOf a)
      o == m.seat || o == 0)
  else if isRemote pa then true
  else if (decide (0x200B1000 ≤ pa) && decide (pa < 0x200D1000)) then
    (entriesOf 4 (m.record 0x000D)).any (fun e => bytesAt e 0 1 == 2 && bytesAt e 2 2 == (pa - 0x200B1000) / 0x1000)
  else (List.range 20).any (fun c => ctlFrame c ≤ pa && pa < ctlFrame c + 0x10000) || decide (0x23800000 ≤ pa && pa < 0x23810000)

/-- May a page carry the guaranteed attribute (R224, R333)? -/
def State.pageGuar (s : State) (m : SeatManifest) (pa : Nat) : Bool :=
  isDstore pa || (isDram pa && (List.range (max 1 (0x1000 / s.grain))).all (fun i =>
    s.unitOwner (s.chanOf (pa + i * s.grain)) (s.unitOf (pa + i * s.grain)) == m.seat))

/-- Rules of a PAGES record; an entry of which a page is not the seat's is not granted. -/
def pageRules (m : SeatManifest) (s : State) : List PageRule :=
  (entriesOf 17 (m.record 0x800B)).filterMap (fun e =>
    let base := bytesAt e 0 8
    let pages := (List.range (bytesAt e 8 8 / 0x1000)).map (fun i => base + i * 0x1000)
    let f := bytesAt e 16 1
    let dev := isDevice base || isRemote base
    let tovr := if dev then (if f.testBit 4 then 3 else 2) else 0
    if pages.all (s.pageOwned m) then
      some ⟨base, bytesAt e 8 8, leafAttr (f.testBit 0 || f.testBit 1) (f.testBit 1) (f.testBit 2)
        (f.testBit 3 && pages.all (s.pageGuar m)) tovr⟩
    else none)

/-- Pages that the chapters map into a seat by what it owns. -/
def standardRules (seat : Nat) (s : State) : List PageRule :=
  let page (base : Nat) : PageRule := devRW (base + seat * 0x1000) 0x1000
  let when_ (c : Bool) (l : List PageRule) : List PageRule := if c then l else []
  let common := [0x20000000, 0x20020000, 0x200B0000, 0x20230000, 0x20258000, 0x20111000, 0x200F0000, 0x20140000, 0x23101000,
    0x200E1000].map (fun b => devRO b 0x1000)
  let cores := s.ownedCores seat
  let groups := (List.range 16).any (fun g => decide (2 ≤ g) && s.get PRS_GOWN_OWNER g == seat)
  common ++ [devRO 0x20030000 0x10000] ++
    [0x20040000, 0x20080000, 0x20090000, 0x20170000, 0x23010000, 0x20130000].map page ++
    [⟨mbxBase seat, 0x10000, leafAttr true true false false 1⟩] ++
    when_ ((List.range 512).any (fun n => s.srcOwner n == seat)) [devRW 0x20191000 0x1000] ++
    ((List.range 32).filter (fun n => s.coreOwner n == seat || (s.inRotation n && s.sharesCore seat n))).map
      (fun n => devRW (0x201A0000 + n * 0x1000) 0x1000) ++
    (cores.filter (fun n => !s.inRotation n)).flatMap
      (fun n => [devRO (0x22000000 + n * 0x10000) 0x1000, devRW (0x22001000 + n * 0x10000) 0x1000]) ++
    ((List.range 8).filter (fun c => cores.any (fun n => n / 4 == c))).map
      (fun c => devRW (0x22200000 + c * 0x10000 + seat * 0x1000) 0x1000) ++
    ((List.range 4).filter (fun g => s.groupOwner g == seat)).flatMap
      (fun g => [devRO (0x21000000 + g * 0x10000) 0x1000, devRW (0x21001000 + g * 0x10000) 0x1000]) ++
    (s.ownedLanes seat).map (fun n => devRW (0x21100000 + n * 0x10000) 0x10000) ++
    ((List.range 48).filter (fun n => s.sdiOwner n == seat)).map (fun n => devRW (0x20200000 + n * 0x1000) 0x1000) ++
    ((List.range 24).filter (fun n => s.hrpOwner n == seat)).map (fun n => devRW (0x20240000 + n * 0x1000) 0x1000) ++
    when_ groups [devRW prsBase 0x1000, devRO 0x20151000 0x1000] ++
    ((List.range 64).filter (fun x => s.flag SEAT_XBCFG_EN x &&
        (s.get SEAT_XBCFG_WRITER x == seat || s.get SEAT_XBCFG_READER x == seat))).map (fun x =>
      ⟨0x10000000 + s.get SEAT_XBBASE_OFFSET x * 0x1000, (s.get SEAT_XBSIZE_NPAGE x + 1) * 0x1000,
        leafAttr true (s.get SEAT_XBCFG_WRITER x == seat) false true 1⟩)

/-- Build the table page `t` of level 3 - n for the region at `a`, with further pages from `next` on; answers the next free page.
Leaves map 2 MiB where one rule covers the block, and 4 KiB otherwise. -/
def buildTable (rs : List PageRule) : Nat → Nat → Nat → Nat → State → Nat × State
  | 0, a, t, next, s =>
    (next, s.each (List.range 512) (fun i u =>
      let p := a + i * 0x1000
      match rs.find? (fun r => decide (r.base ≤ p) && decide (p + 0x1000 ≤ r.base + r.size)) with
      | some r => u.writeMem (t * 0x1000 + 8 * i) 8 (p + r.attr)
      | none => u))
  | n + 1, a, t, next, s =>
    let step := 0x1000 * 512 ^ (n + 1)
    (List.range 512).foldl (fun (acc : Nat × State) i =>
      let p := a + i * step
      let covers := if n = 0 then rs.find? (fun r => decide (r.base ≤ p) && decide (p + step ≤ r.base + r.size)) else none
      match covers with
      | some r => (acc.1, acc.2.writeMem (t * 0x1000 + 8 * i) 8 (p + r.attr))
      | none =>
        if rs.any (fun r => decide (r.base < p + step) && decide (p < r.base + r.size)) then
          let u := acc.2.zeroMem (acc.1 * 0x1000) 0x1000
          let u := u.writeMem (t * 0x1000 + 8 * i) 8 (acc.1 * 0x1000 + 2)
          buildTable rs n p acc.1 (acc.1 + 1) u
        else acc) (next, s)

/-- Build the tables of every seat with a manifest from page `first` on, and set the fence around them (R225, R226). -/
def buildTables (first : Nat) (s : State) : State :=
  let r := (byseat s.manifests).foldl (fun (acc : Nat × State) m =>
    let rules := standardRules m.seat acc.2 ++ pageRules m acc.2
    let (next, u) := buildTable rules 3 0 acc.1 (acc.1 + 1) (acc.2.zeroMem (acc.1 * 0x1000) 0x1000)
    let u := (u.put MMU_S2ROOT_ROOT acc.1 m.seat).put MMU_S2ROOT_EN 1 m.seat
    (next, u.put MMU_SEATCFG_CODEPATCH (bit m.codepatch) m.seat)) (first, s)
  (r.2.put MMU_FBASE_PAGE first).put MMU_FLIM_PAGE (r.1 - 1)

/-- MMU.S2INV: every TLB entry of a seat goes, on every core (R243). -/
def s2inv (seat : Nat) (s : State) : State :=
  let keep (l : List TlbEntry) : List TlbEntry := l.filter (fun e => e.seat != seat)
  s.mapCores (fun _ => true) (fun c => { c with
    itlb := keep c.itlb, dtlb := keep c.dtlb, tlb2 := keep c.tlb2, s2cache := c.s2cache.filter (fun e => e.seat != seat) })

/-! ### Application at MS2 -/

/-- Welfen gives every seat what its manifest states. `xing`: the bank that it makes a crossing bank, for the crossing
buffers and, behind them, the seat tables. -/
def applyManifests (xing : Nat) (ms : List SeatManifest) (s : State) : State :=
  let s := { s with manifests := byseat ms }
  let s := (byseat ms).foldl (fun t m => m.records.foldl (fun u r => applyRecord m r u)
    { t with seatEntry := t.seatEntry.set! m.seat (BitVec.ofNat 64 m.entry) }) s
  let s := { s with members := match ms.find? (·.carriesSystem) with
    | some m => entriesOf 32 (m.record 0x8011)
    | none => [] }
  let s := assignBalls (prsOwners s)
  let s := (s.put SEAT_BANK_OWNER 0 xing).put SEAT_BANK_XING 1 xing
  let s := (agreedBuffers ms).foldl (fun t b => (xbufSetup xing b.1 b.2.1 b.2.2 t).2) s
  buildTables (0x10000 + s.xbufNext xing) s

end Sys2Proof.Machine
end

