-- ==== Sys2Proof/Machine/Power.lean ====
section
/-!
DEFINITION. Supplies, resets as commands, device states and token requests (R449, R558, R563, R570 to R581, R605, R613).
-/

namespace Sys2Proof.Machine

/-! ### Supplies and resets -/

/-- The rails of stage 1 (Table PKG-6): VDD_SFI, VDD_AON, VDDIO_AON. -/
def stage1Up (r : BitVec 12) : Bool := r.getLsbD 2 && r.getLsbD 3 && r.getLsbD 4

/-- VDD_AON rises (R578, R582): nothing of RSTCAUSE survives. -/
def aonRise (s : State) : State := powerOnReset PWC_RSTCAUSE_AONPOR (s.setReg PWC_RSTCAUSE 0)

def execVddAonRise (s : State) : Result :=
  let s := aonRise s
  .next { s with rails := s.rails ||| 0x008, pwrEn := stage1Up (s.rails ||| 0x008) }

/-- A rail rises past its threshold (Table PKG-6). Once those of stage 1 are up, the device drives PWR_EN. -/
def execSupplyPowerUp (rail : Fin 12) (s : State) : Result :=
  let s := if rail.val = 3 && !s.rails.getLsbD 3 then aonRise s else s
  let r := s.rails ||| (1#12 <<< rail.val)
  .next { s with rails := r, pwrEn := stage1Up r && s.device != .off }

/-- A rail falls below its reset threshold (R605). -/
def execRailUndervoltageReset (rail : Fin 12) (s : State) : Result :=
  let s := powerOnReset PWC_RSTCAUSE_VDROP s
  let r := s.rails &&& ~~~(1#12 <<< rail.val)
  .next { s with rails := r, pwrEn := s.pwrEn && stage1Up r }

/-- PORST_N has been low for 1 µs. -/
def execPorstInput (s : State) : Result := .next (powerOnReset PWC_RSTCAUSE_PORST s)

/-- RESET_N has been low for 1 µs. Before the PLL has locked and in OFF no main domain runs that it could reset. -/
def execResetNInput (cut : Nat) (damage : List (BitVec 8)) (s : State) : Result :=
  if s.device == .on || s.device == .standby then
    .next (deviceReset PWC_RSTCAUSE_RESETN cut (damage.map (·.toNat)) s)
  else .next s

/-- Power-on reset releases once every monitored rail is up and the reference is present (Table PKG-6 stage 6): the fuses
load (R449 step 1), and the PLL starts to lock. `cut`: fuses that an operation in progress at the loss of power had
blown; `damage`: value fields found uncorrectable. -/
def execPowerOnResetRelease (cut : Nat) (damage : List (BitVec 8)) (s : State) : Result :=
  if s.device == .reset && s.rails == 0xFFF && s.pwrEn then
    .next { (fuseLoad (damage.map (·.toNat)) (fuseOpCut cut s)).put CRG_STAT_REFOK 1 with device := .starting }
  else .next s

/-- The root PLL locks (R558); the fabric starts and DSTORE zeroes itself (R449 steps 2 and 3). -/
def execPllLock (s : State) : Result :=
  if s.device == .starting then .next (deviceOn (s.put CRG_STAT_LOCK 1)) else .next s

/-- PWC.RST by `by_`, whose page 0 is seat 0's. -/
def rstBy (by_ : Seat) (v cut : Nat) (damage : List Nat) (s : State) : Result := pageWrite by_.val 0 (rstWrite v cut damage) s

def execDeviceReset (by_ : Seat) (key : BitVec 8) (cut : Nat) (damage : List (BitVec 8)) (s : State) : Result :=
  rstBy by_ (0x30000000 + key.toNat * 0x100) cut (damage.map (·.toNat)) s

def execSeatReset (by_ : Seat) (seat : BitVec 8) (s : State) : Result := rstBy by_ (0x10000000 + seat.toNat) 0 [] s

def execBlockReset (by_ : Seat) (target : BitVec 8) (s : State) : Result := rstBy by_ (0x20000000 + target.toNat) 0 [] s

/-- Every outstanding request of the seat has its response: its state is reset (Table PWR-9 steps 3 and 4). -/
def execSeatResetDrainDone (seat : Seat) (s : State) : Result := .next (seatResetClear seat.val s)

/-- The memories of a lane hold zeros (R382). -/
def execLaneMemoryZeroDone (n : LaneId) (s : State) : Result :=
  .next (s.mapLane n.val (fun l => if l.zeroing then { l with zeroing := false, pm := [], dm := [] } else l))

/-! ### STANDBY and OFF (R570 to R573) -/

/-- May the device leave ON (R570): every released customer core in C2 or C3, every lane HALTED, every pair stopped? -/
def State.quiet (s : State) : Bool :=
  (List.range 32).all (fun n => decide (2 ≤ s.cState n)) && (List.range 64).all (fun n => s.laneState n == lsHalted) &&
    (List.range 24).all (fun p => !s.flag HRP_STAT_RUNNING p)

/-- The network hub stops: links are lost. -/
def linksLost (s : State) : State :=
  let s := s.each [0, 1, 2, 3] portDown
  { s with ethLink := Vector.replicate 5 0 }

/-- Entry to STANDBY: clusters are cleaned and off, bank groups and lane groups in retention, DRAM in self-refresh. -/
def enterStandby (s : State) : State :=
  let s := linksLost (s.put PWC_STAT_STBY 1)
  let s := (List.range 8).foldl (fun t cl => if t.clusterOn cl then clusterOff cl t else t) s
  let on := s.get PWC_DSTAT_ON
  let s := s.put PWC_DSTAT_ON (on - (on &&& 0x0F0FF000))
  { s with
    device := .standby
    dmc := s.dmc.map (fun d => { d with queue := [], rows := [], postponed := 0 }) }

/-- Entry to OFF: only the always-on domain stays. -/
def enterOff (s : State) : State :=
  { (prsStatKept (resetState porKeeps s)).put PWC_STAT_STBY 1 with device := .off, pwrEn := false, rails := s.rails &&& 0x01C }

/-- A write of PWC.SBCTL. Welfen writes GO only under the conditions of R570; with them unmet nothing is entered (log 50). -/
def sbctlWrite (v : Nat) (s : State) : State :=
  let s := writeFields 0 PWC_SBCTL 0 0 v 0xFFFFFFFF s
  if slice v 31 1 = 0 || s.device != .on || !s.quiet then s
  else if slice v 30 1 = 1 then enterOff s else enterStandby s

def execStandbyEntry (by_ : Seat) (tick : BitVec 8) (s : State) : Result :=
  pageWrite by_.val 0 (sbctlWrite (0x80000000 + tick.toNat)) s

def execOffEntry (by_ : Seat) (tick : BitVec 8) (s : State) : Result :=
  pageWrite by_.val 0 (sbctlWrite (0xC0000000 + tick.toNat)) s

/-- PWC wakes the service processor alone, and Welfen kicks its watchdog (R571). -/
def execStandbyTick (s : State) : Result :=
  if s.device == .standby && s.svp != .held then .next (svpKick 0xC5 s) else .next s

/-- Is a source that wakes the device pending (PWC.WAKEEN)? -/
def State.wakePending (s : State) : Bool :=
  (List.range 512).any (fun n => s.flag ICU_SRC_PEND n && (s.get PWC_WAKEEN_EN (n / 32)).testBit (n % 32))

/-- The device returns to ON (R572): bank groups run on FIO, the Deal restarts at slot 0. -/
def leaveStandby (s : State) : State :=
  let s := s.put PWC_DSTAT_ON (s.get PWC_DSTAT_ON ||| 0x0F0FF000)
  let s := (s.put PWC_FIO_FIO (s.get PWC_FIO_FIO ||| 0xFF00)).put PWC_STAT_STBY 0
  raiseSrc srcPwc { s.put DEAL_NOW_SLOT 0 with device := .on }

/-- A wake source is pending, or PWR_WAKE_N (`ball`) has been low for 1 µs. -/
def execStandbyWake (ball : Bool) (s : State) : Result :=
  if s.device == .standby && (ball || s.wakePending) then .next (leaveStandby s) else .next s

/-- PWR_WAKE_N in OFF: PWR_EN rises, and the main domain undergoes a power-on reset (R573). -/
def execOffExit (s : State) : Result :=
  if s.device == .off then .next { powerOnReset PWC_RSTCAUSE_OFFX s with pwrEn := true } else .next s

/-! ### Token requests (R574 to R576) -/

/-- A core in C2 with a signalled interrupt (R418), a lane in STARTING, or an unpowered cluster with a core that waits to
wake asks for its tokens. -/
def execTokenRequest (op : TokenOp) (s : State) : Result :=
  match op with
  | .core k =>
    if s.cState k.val == 2 && !s.trailing k.val && (s.signalPrio k.val).isSome then .next (requestWake k s) else .next s
  | .lane n =>
    let ls := s.lanePair n.val
    if s.laneState n.val != lsStarting || s.waitsTokens (.lane n.val) || s.holdsTokens (.lane n.val) then .next s
    else
      let (ok, s) := requestTokens (ls.map .lane) (s.laneOwner n.val) s
      .next (if ok then s else s.each ls (fun m t => laneLeaves m lsHalted t))
  | .cluster c =>
    if s.clusterOn c.val || s.waitsTokens (.cluster c.val) || s.holdsTokens (.cluster c.val) ||
        !(List.range 4).any (fun i => s.waitsTokens (.core (4 * c.val + i)) || s.holdsTokens (.core (4 * c.val + i))) then .next s
    else .next (requestTokens [.cluster c.val] 0 s).2

end Sys2Proof.Machine
end

