-- ==== Sys2Proof/Machine/Boot.lean ====
section
/-!
DEFINITION. Start-up and image trust (R448 to R476), the erasures of R480, and the restart of a seat (R428).
-/

namespace Sys2Proof.Machine

/-! ### Boot NVM (R450, R451) -/

/-- A milestone is reached; MSTIME holds its time (R448). -/
def milestone (code index : Nat) (s : State) : State :=
  (s.put BOOT_STAT_MS code).put BOOT_MSTIME_NS (s.get TBS_NOW_NS) index

/-- The stage-0 region. -/
def State.stage0Bytes (s : State) : List Byte := (List.range 0x80000).map (fun i => s.byte (0x04000000 + i))

/-- BNV checks stage 0 and releases the service processor, with its watchdog running, or does not. -/
def execStage0Check (s : State) : Result :=
  if s.device != .on || s.svp != .held || s.flag SFI_STAT_DSAFE || s.get BOOT_STAT_REASON == 0x32 then .next s
  else
    let written := s.fuseWritten.contains 0x40
    let pass := s.fieldGood 0x40 && Config.shake256 32 s.stage0Bytes == s.fuseBytes 0x40
    let s := (s.put BNV_STAT_S0CHK (bit written)).put BNV_STAT_S0OK (bit (written && pass))
    if written && !pass then .next (s.put BOOT_STAT_REASON 0x32)
    else .next { milestone 0 0 s with svp := .stage0, svpCount := max 1024 (s.get SFI_SVPWD_RELOAD) }

/-- A write of seat 0 to boot NVM: the stage-0 region takes none while S0LOCK is set. False: an error response. -/
def bnvWrite (offset n v : Nat) (s : State) : Bool × State :=
  if offset < 0x80000 ∧ s.flag BNV_STAT_S0LOCK = true then (false, s.countUp BNV_STAT_WREJ)
  else (true, s.writeMem (0x04000000 + offset) n v)

/-- A write of a byte to the stage-0 region by `by_`; customer seats do not reach boot NVM. -/
def execStage0WriteReject (by_ : Seat) (offset : BitVec 19) (value : Byte) (s : State) : Result :=
  if by_ ≠ 0 then .next (s.answer .error)
  else
    let (ok, s) := bnvWrite offset.toNat 1 value.toNat s
    .next (s.answer (if ok then .ok 0 else .error))

/-! ### Reading a slot (R453 to R459) -/

/-- `n` bytes at an offset of a slot. -/
def State.flashBytes (s : State) (slot off n : Nat) : List Byte :=
  (List.range n).map (fun i => cellGet (fun _ => (0xFF : Byte)) (off + i) s.flash[slot]!)

def ctxUZIM : List Byte := [0x55, 0x5A, 0x49, 0x4D]
def ctxUZWF : List Byte := [0x55, 0x5A, 0x57, 0x46]

/-- Are rollback counters checked in the life-cycle state (Table BOOT-5)? -/
def State.countersChecked (s : State) : Bool := s.lifeCycle == lcDevelopment || s.lifeCycle == lcField

/-- The component entries of a manifest. -/
def manifestEntries (m : List Byte) : List (List Byte) := (entriesOf 0x60 ((m.drop 0x60).take (bytesAt m 0x16 2 * 0x60)))

/-- A component entry of Table BOOT-4 is well formed. -/
def entryOk (e : List Byte) : Bool :=
  let t := bytesAt e 0 1
  let seat := bytesAt e 1 1
  decide (1 ≤ t) && decide (t ≤ 5) && (if t ≤ 2 then seat == 0 else decide (1 ≤ seat) && decide (seat ≤ 15)) &&
    bytesAt e 2 2 == 0 && bytesAt e 4 4 % 0x1000 == 0 && bytesAt e 0x18 8 == 0 && (t != 4 || bytesAt e 0x10 8 % 0x1000 == 0)

/-- Length of the manifest that a header announces. -/
def manifestLen (m : List Byte) : Nat := 0x60 + bytesAt m 0x16 2 * 0x60 + 114

/-- Checks of an image manifest up to its signer (R454, R457, R458, R460, R465); the REASON of the first failure. A manifest
with the wrong RECOVERY flag counts as unreadable. -/
def manifestCheck (recovery : Bool) (m : List Byte) (s : State) : Option Nat :=
  let n := bytesAt m 0x16 2
  let slot := bytesAt m 0x15 1
  let es := manifestEntries m
  if bytesAt m 0 4 ≠ 0x4D495A55 then some 0x01
  else if bytesAt m 4 2 ≠ 1 then some 0x02
  else if n = 0 || 32 < n || bytesAt m 8 4 != manifestLen m || m.length != manifestLen m || bytesAt m 0xC 4 != bytesAt m 0xC 4 % 4 ||
      (bytesAt m 0xC 4 % 2 == 1) != recovery || bytesAt m 0x18 8 != 0 || bytesAt m 0x59 7 != 0 || !es.all entryOk ||
      decide (16 < (es.filter (fun e => bytesAt e 0 1 == 4)).length) then some 0x01
  else match s.signedCheck slot ((m.drop 0x20).take 57) ctxUZIM (m.take (manifestLen m - 114)) (m.drop (manifestLen m - 114)) with
    | some r => some r
    | none =>
      if s.countersChecked && decide (bytesAt m 0x14 1 < s.rollback (if recovery then 3 else 2)) then some 0x07
      else if !signerAllowed s.lifeCycle slot then some 0x06
      else none

/-- The Welfen header (R456): bytes 0x000 to 0x18B, then the maker's signature, bound to the component entry's HLHASH. -/
def welfenCheck (h hl : List Byte) (s : State) : Bool :=
  bytesAt h 0 4 == 0x46575A55 && (h.drop 0x10).take 64 == hl &&
    (s.signedCheck 0 ((h.drop 0x50).take 57) ctxUZWF (h.take 0x18C) ((h.drop 0x18C).take 114)).isNone &&
    (!s.countersChecked || decide (s.rollback 0 ≤ bytesAt h 4 4))

/-- Boot record of a slot as it applies to SEQ (R462): STATE and ATT. -/
def State.bootRecord (s : State) (slot seq : Nat) : Nat × Nat :=
  let st := s.prs (2 * slot + 1)
  if s.prs (2 * slot) = seq then (slice st 30 2, slice st 24 4) else (0, 0)

/-- The manifest in a slot. -/
def State.slotManifest (s : State) (slot : Nat) : List Byte :=
  s.flashBytes slot 0 (manifestLen (s.flashBytes slot 0 0x60))

/-- The entry of the Welfen component, and the header that lies before its body. -/
def welfenEntry (m : List Byte) : Option (List Byte) := (manifestEntries m).find? (fun e => bytesAt e 0 1 == 1)
def State.welfenHeader (s : State) (slot : Nat) (m : List Byte) : List Byte :=
  match welfenEntry m with
  | some e => s.flashBytes slot (bytesAt e 4 4) 512
  | none => []

/-- Why a slot is no candidate (R460). -/
def State.slotReason (s : State) (slot : Nat) (readErr : Bool) : Option Nat :=
  let m := s.slotManifest slot
  if readErr then some 0x01
  else match manifestCheck false m s with
    | some r => some r
    | none =>
      let hl := match welfenEntry m with
        | some e => (e.drop 0x20).take 64
        | none => []
      let rec_ := s.bootRecord slot (bytesAt m 0x10 4)
      if !welfenCheck (s.welfenHeader slot m) hl s then some 0x10
      else if rec_.1 = 3 || 3 ≤ rec_.2 then some 0x08
      else none

/-- The components of a manifest, none loaded yet. The blocks of Welfen are those of its body. -/
def imageComps (m header : List Byte) : List BootComp :=
  (manifestEntries m).map (fun e =>
    let t := bytesAt e 0 1
    let src := bytesAt e 4 4
    { type := t, seat := bytesAt e 1 1, start := if t = 1 then src + 0x200 else src, src := src,
      length := if t = 1 then bytesAt header 8 4 else bytesAt e 8 4, hlOff := bytesAt e 0xC 4, dest := bytesAt e 0x10 8,
      hlHash := (e.drop 0x20).take 64, hashes := none, blocks := 0, failed := none })

/-- Blocks of a component (R455). -/
def BootComp.nb (c : BootComp) : Nat := (c.length + 4095) / 4096
def BootComp.done (c : BootComp) : Bool := c.hashes.isSome && c.blocks == c.nb && c.failed.isNone

/-! ### Choosing an image (R460 to R462) -/

/-- BOOT.SLOT and BOOT.SEQ of a slot. -/
def slotRecord (slot : Nat) (readErr : Bool) (s : State) : State :=
  let m := if readErr then [] else s.slotManifest slot
  let s := (s.put BOOT_SLOT_CHECKED 1 slot).put BOOT_SEQ_SEQ (bytesAt m 0x10 4) slot
  let s := (s.put BOOT_SLOT_SECVER (bytesAt m 0x14 1) slot).put BOOT_SLOT_KEYSLOT (bytesAt m 0x15 1) slot
  match s.slotReason slot readErr with
  | none => s.put BOOT_SLOT_CAND 1 slot
  | some r => s.put BOOT_SLOT_REASON r slot

/-- Stage 0 starts to load the image in `slot`. -/
def startSlot (slot : Nat) (s : State) : State :=
  let m := s.slotManifest slot
  let h := s.welfenHeader slot m
  let seq := bytesAt m 0x10 4
  let old := s.prs (2 * slot + 1)
  let att := (s.bootRecord slot seq).2
  let reason := if s.prs (2 * slot) = seq then slice old 8 8 else 0
  let s := prsPut (2 * slot + 1) (2 ^ 30 + min 15 (att + 1) * 2 ^ 24 + reason * 0x100) (prsPut (2 * slot) seq s)
  let s := { s with image := some ⟨false, slot, bytesAt m 0xC 4 / 2 % 2 == 1, bytesAt m 0x14 1, bytesAt h 4 4, 0, imageComps m h⟩ }
  milestone 1 1 (s.put BOOT_STAT_SLOT slot)

/-- Does the erasure of R480 have to run first? -/
def State.mustErase (s : State) : Bool :=
  (s.lifeCycle == lcReturn && !s.fuseSet 5) || (s.lifeCycle == lcEnd && !s.fuseSet 6)

/-- END: stage 0 stops. -/
def stopAtEnd (s : State) : State := (s.put BOOT_STAT_MS 0xE).put BOOT_STAT_REASON 0x33

/-- Stage 0 checks both slots and chooses. -/
def execSlotSelect (readErr : Vector Bool 2) (s : State) : Result :=
  if s.svp != .stage0 || s.get BOOT_STAT_MS != 0 || s.image.isSome || s.flag BOOT_SLOT_CHECKED 0 || s.mustErase then .next s
  else if s.lifeCycle = lcEnd then .next (stopAtEnd s)
  else
    let s := slotRecord 1 readErr[1] (slotRecord 0 readErr[0] s)
    let a := s.flag BOOT_SLOT_CAND 0
    let b := s.flag BOOT_SLOT_CAND 1
    let qa := s.get BOOT_SEQ_SEQ 0
    let qb := s.get BOOT_SEQ_SEQ 1
    if a && b then
      if qa = qb then .next (startSlot 0 (s.put BOOT_STAT_TIE 1))
      else .next (startSlot (if qa < qb then 1 else 0) s)
    else if a then .next (startSlot 0 s)
    else if b then .next (startSlot 1 s)
    else .next (s.put BOOT_STAT_REASON (s.get BOOT_SLOT_REASON 0))

/-! ### Loading (R463 to R466) -/

/-- Change component i of the image. -/
def State.mapComp (s : State) (i : Nat) (f : BootComp → BootComp) : State :=
  { s with image := s.image.map (fun im => { im with comps := im.comps.modify i f }) }
def State.comp (s : State) (i : Nat) : Option BootComp := match s.image with
  | some im => im.comps[i]?
  | none => none
/-- Components of the image. -/
def State.comps (s : State) : List BootComp := match s.image with
  | some im => im.comps
  | none => []

/-- Load window of component i: seat images take the windows in the order of the manifest. -/
def State.windowOf (s : State) (i : Nat) : Option Nat :=
  match s.comp i with
  | some c => if c.type = 4 then some ((s.comps.take i).filter (·.type == 4)).length else none
  | none => none

/-- Enable the window of a seat image (R465). -/
def windowOn (i : Nat) (s : State) : State :=
  match s.comp i, s.windowOf i with
  | some c, some w =>
    let s := ((s.put BOOT_LWBASE_ADDR (c.dest / 0x1000) w).put BOOT_LWCFG_NBLK c.nb w).put BOOT_LWCFG_SEAT c.seat w
    (((s.put BOOT_LWCFG_FAIL 0 w).put BOOT_LWVBLK_VBLK c.blocks w).put BOOT_LWBASE_EN 1 w)
  | _, _ => s

/-- A component fails; so does its window (R466). -/
def compFails (i reason : Nat) (s : State) : State :=
  let s := s.mapComp i (fun c => { c with failed := some reason })
  match s.windowOf i with
  | some w => s.put BOOT_LWCFG_FAIL 1 w
  | none => s

/-- Is every page of a range in banks or bank sets of `seat`? -/
def State.rangeOwned (s : State) (seat base blocks : Nat) : Bool :=
  (List.range blocks).all (fun b =>
    let a := base + b * 0x1000
    if isDstore a then s.bankOwner (bankOf a) == seat
    else isDram a && (List.range (max 1 (0x1000 / s.grain))).all (fun i =>
      s.unitOwner (s.chanOf (a + i * s.grain)) (s.unitOf (a + i * s.grain)) == seat))

/-- May component i be loaded now: Welfen by stage 0, everything else by Welfen, and seat images once the manifests have given
the seats their memory? -/
def State.loadable (s : State) (i : Nat) : Bool :=
  let ms := s.get BOOT_STAT_MS
  match s.comp i with
  | none => false
  | some c =>
    if c.failed.isSome then false
    else if c.type = 1 then s.svp == .stage0 && ms == 1
    else s.svp == .welfen && (ms == 2 || ms == 3 || ms == 4) && (c.type != 4 || s.manifests.length != 0)

/-- CRE.STAT.LDBUSY: the load engine has a component under way. -/
def loadBusy (s : State) : State :=
  s.put CRE_STAT_LDBUSY (bit (s.comps.any (fun c => c.hashes.isSome && decide (c.blocks < c.nb) && c.failed.isNone)))

/-- The load engine reads a component's block-hash list (R463). -/
def execHashListCheck (comp : Fin 32) (readErr : Bool) (s : State) : Result :=
  let i := comp.val
  match s.image, s.comp i with
  | some im, some c =>
    if im.recovery || c.hashes.isSome || !s.loadable i then .next s
    else
      let l := s.flashBytes im.slot c.hlOff (32 * c.nb)
      if readErr || Config.shake256 64 l != c.hlHash then .next (compFails i 0x11 s)
      else if c.type = 4 && !s.rangeOwned c.seat c.dest c.nb then .next (compFails i 0x17 s)
      else .next (loadBusy (s.mapComp i (fun c => { c with hashes := some l })))
  | _, _ => .next s

/-- Eight bytes of a number, little-endian. -/
def le64 (v : Nat) : List Byte := (List.range 8).map (fun i => BitVec.ofNat 8 (v / 256 ^ i))
/-- A block filled with zeros to 4,096 bytes. -/
def padBlock (l : List Byte) : List Byte := l ++ List.replicate (4096 - l.length) 0
/-- Does block n of a component pass its entry of the list (R455)? -/
def blockGood (c : BootComp) (n : Nat) (block : List Byte) : Bool :=
  Config.shake256 32 (le64 n ++ block) == ((c.hashes.getD []).drop (32 * n)).take 32

/-- Before its self-test Welfen copies the fault log into its store and clears it (R444). -/
def storeFaults (s : State) : State :=
  let es := ((List.range 16).filter (fun n => s.flag SFI_FLOG_VALID n)).map (fun n => (s.reg SFI_FLOG n, s.reg SFI_FLOGT n))
  clearLog (2 ^ 31) { s with faultStore := es, faultLost := s.get SFI_STAT_LOST }

/-- Welfen runs: SVP.WVER shows its release, a free value, and the one WCI major of HELLO. -/
def welfenRuns (s : State) : State :=
  let (v, s) := s.draw
  let s := (s.put SVP_WVER_MAJOR (v.toNat % 256)).put SVP_WVER_MINOR (v.toNat / 256 % 256)
  { (s.put SVP_WVER_WCIMAX 1).put SVP_WVER_WCIMIN 1 with svp := .welfen }

/-- MS2: stage 0 jumps to Welfen, which keeps the fault log from before the start, applies the MPU, takes its network settings and enables the load windows. -/
def reachMs2 (s : State) : State :=
  let s := storeFaults (welfenRuns (milestone 2 2 s))
  let s := uclSetup (s.put SVP_MPUCTL_EN 1)
  s.each (List.range 32) windowOn

/-- Seat-manifest components with their indices. -/
def State.manifestComps (s : State) : List (Nat × BootComp) := s.comps.zipIdx.filterMap (fun p =>
  if p.1.type = 3 then some (p.2, p.1) else none)

/-- The last seat manifest has been verified: Welfen checks them all, and applies them where none is refused and exactly one
carries the SYSTEM record (R511 to R513). An image without that record fails with REASON 0x14 and SEAT 0 at its first seat
manifest, which `failed` holds as 0x114. -/
def manifestsLoaded (slot xing : Nat) (s : State) : State :=
  let cs := s.manifestComps
  let read (p : Nat × BootComp) : Option SeatManifest := readManifest p.1 p.2.seat (s.flashBytes slot p.2.start p.2.length) s
  let alone := (cs.filter (fun p => (read p).isNone)).map (·.1)
  let ms := cs.filterMap read
  let bad := alone ++ refusedTogether ms
  if bad.length ≠ 0 then s.each bad (fun i t => compFails i 0x14 t)
  else if !ms.any (·.carriesSystem) then
    match cs with
    | p :: _ => compFails p.1 0x114 s
    | [] => s
  else applyManifests xing ms s

/-- The load engine loads the next block of a component and compares its hash (R464). `xing` as for `applyManifests`. A block
whose destination does not answer yet waits. -/
def execLoadBlockVerify (comp : Fin 32) (readErr : Bool) (xing : Fin 32) (s : State) : Result :=
  let i := comp.val
  match s.image, s.comp i with
  | some im, some c =>
    let n := c.blocks
    let dest := c.dest + n * 4096
    if im.recovery || c.hashes.isNone || c.nb ≤ n || !s.loadable i || (c.type == 4 && s.memGate 0 dest != .ok) then .next s
    else
      let block := padBlock (s.flashBytes im.slot (c.start + n * 4096) (min 4096 (c.length - n * 4096)))
      if readErr || !blockGood c n block then .next (loadBusy (compFails i (if c.type = 3 then 0x14 else 0x12) s))
      else
        let s := s.mapComp i (fun c => { c with blocks := n + 1 })
        let s := if c.type = 4 then s.writeBytes dest block else s
        let s := match s.windowOf i with
          | some w => s.put BOOT_LWVBLK_VBLK (n + 1) w
          | none => s
        let s := loadBusy s
        if n + 1 < c.nb then .next s
        else if c.type = 1 then .next (reachMs2 s)
        else if c.type = 3 && s.manifestComps.all (fun p => p.2.done) then .next (manifestsLoaded im.slot xing.val s)
        else .next s
  | _, _ => .next s

/-! ### MS3 and MS4 (R467 to R470) -/

/-- Release the customer cores for which `p` holds: each asks for its tokens and starts once it has them. -/
def releaseCores (p : CoreId → Bool) (s : State) : State :=
  let ks := (List.finRange 32).filter (fun k => (s.core k).run == .held && s.coreOwner k.val != 0 && p k)
  let halt := s.openLife && s.vddDbg && s.flag DBG_CTL_HALTREL
  let s := s.mapCores (fun k => ks.contains k) (fun c => { c with run := .running, haltReq := halt })
  (ks.filter (fun k => !s.trailing k.val)).foldl (fun t k => requestWake k t) s

/-- Conditions of MS3. The comparator self-tests have passed unless their failure has been reported (REASON 0x31). -/
def State.ms3Ready (s : State) : Bool :=
  s.svp == .welfen && s.get BOOT_STAT_MS == 2 && s.flag MCS_LOCK_LOCK && s.seatLocked && s.dealLocked &&
    s.manifests.length != 0 && s.comps.all (fun c => c.failed.isNone && (c.type == 4 || c.done)) &&
    (List.range 4).all (fun c => s.chanReady c || s.get DMC_GEOM_NDIMM c == 0) &&
    (List.range 32).all (fun i => match s.windowOf i with
      | some w => s.flag BOOT_LWBASE_EN w
      | none => true)

/-- MS3; `patch`: the security version of the patch bundle applied. -/
def execMs3Release (patch : BitVec 8) (s : State) : Result :=
  if !s.ms3Ready then .next s
  else
    let s := { s.put MCS_STAT_PATCHVER patch.toNat with image := s.image.map (fun im => { im with patchVer := patch.toNat }) }
    let s := releaseCores (fun _ => true) (milestone 3 3 s)
    .next (noteManager 0x0F10 0 [3] s)

/-- MS4: the boot record, the rollback counters, the windows, the queues, RELEASE and the manager, in this order. -/
def execMs4Reached (s : State) : Result :=
  match s.image with
  | none => .next s
  | some im =>
    if im.recovery || s.svp != .welfen || s.get BOOT_STAT_MS != 3 || s.lifeCycle == lcProvision || s.lifeCycle == lcEnd ||
        !im.comps.all BootComp.done then .next s
    else
      let old := s.prs (2 * im.slot + 1)
      let s := prsPut (2 * im.slot + 1) (2 ^ 31 + slice old 8 8 * 0x100) s
      let vers := [(0, im.welfenVer), (1, im.patchVer), (2, im.secver)].filter (fun p => decide (s.rollback p.1 < p.2))
      let s := if im.commit && s.countersChecked && vers.length != 0 then
          vers.foldl (fun t p => fuseTry 3 (0x30 + p.1) p.2 t) (s.put BOOT_STAT_RBADV 1)
        else s
      let s := s.each (List.range 16) (fun w t => t.put BOOT_LWBASE_EN 0 w)
      let s := customerSeats.foldl (fun t n => t.put ETHSW_HQSTAT_HOLD 0 n) s
      let s := sfiCtlWrite (s.reg SFI_CTL % 2 ^ 31 + 2 ^ 31) s
      .next (noteManager 0x0F10 0 [4] (milestone 4 4 s))

/-! ### Failures (R471) -/

/-- Classes of Table BOOT-6 for the failures after selection. -/
def reasonIsImage (r : Nat) : Bool := [0x11, 0x12, 0x13, 0x14, 0x15, 0x16, 0x17].contains r
def reasonIsHold (r : Nat) : Bool := r == 0x30 || r == 0x31

/-- Has the failure of REASON r, component i, come about? What Welfen finds in a bundle and in a self-test, the command says. -/
def State.failureFound (s : State) (r i : Nat) : Bool :=
  let ofComp (t : Nat) : Bool := match s.comp i with
    | some c => c.type == t && c.done
    | none => false
  let failedAs : Bool := match s.comp i with
    | some c => c.failed == some r || (r == 0x14 && c.failed == some 0x114)
    | none => false
  if r = 0x11 ∨ r = 0x12 ∨ r = 0x14 ∨ r = 0x17 then failedAs
  else if r = 0x13 then ofComp 2
  else if r = 0x15 then !s.seatLocked && s.get SEAT_STAT_CHKERR != 0
  else if r = 0x16 then !s.dealLocked && s.get DEAL_STAT_CHKERR != 0
  else if r = 0x20 then ofComp 5
  else if r = 0x30 then (List.range 4).any (fun c => s.flag DMC_STAT_TRERR c)
  else r == 0x31

/-- COMP and SEAT of a failure: those of the component it was found in. -/
def State.failurePlace (s : State) (r i : Nat) : Nat × Nat :=
  if r = 0x15 ∨ r = 0x16 ∨ r = 0x30 ∨ r = 0x31 then (0, 0)
  else match s.comp i with
    | some c => (i, if c.failed = some 0x114 then 0 else c.seat)
    | none => (i, 0)

/-- Record a failure, unless an earlier one is recorded there. -/
def recordFailure (slot r i seat : Nat) (s : State) : State :=
  let s := if s.get BOOT_STAT_REASON = 0 then
      ((s.put BOOT_STAT_REASON r).put BOOT_STAT_COMP i).put BOOT_STAT_SEAT seat
    else s
  let st := s.prs (2 * slot + 1)
  if slice st 8 8 = 0 then prsPut (2 * slot + 1) (withSlice st 8 8 r) s else s

/-- Welfen, or stage 0 while Welfen loads, acts on a failure after selection. -/
def execImageFailure (reason : BitVec 8) (comp : Fin 32) (s : State) : Result :=
  let r := reason.toNat
  let ms := s.get BOOT_STAT_MS
  match s.image with
  | none => .next s
  | some im =>
    if im.recovery || !(ms == 1 || ms == 2 || ms == 3) || !s.failureFound r comp.val then .next s
    else
      let place := s.failurePlace r comp.val
      let s := recordFailure im.slot r place.1 place.2 s
      if reasonIsImage r then
        let st := s.prs (2 * im.slot + 1)
        let s := prsPut (2 * im.slot + 1) (withSlice st 30 2 3) (customerSeats.foldl (fun t n => seatResetStart n t) s)
        .next (softReset (noteManager 0x0F10 0 [reason] s))
      else if reasonIsHold r then .next (s.put BOOT_STAT_MS 8)
      else .next s

/-! ### Recovery (R472 to R474) -/

/-- Payload of NOIMAGE: BOOT.SLOT, BOOT.SEQ, the life-cycle state, and the REASON recorded. -/
def State.noImage (s : State) : List Byte :=
  let w (v : Nat) : List Byte := (List.range 4).map (fun i => BitVec.ofNat 8 (v / 256 ^ i))
  w (s.reg BOOT_SLOT 0) ++ w (s.reg BOOT_SLOT 1) ++ w (s.reg BOOT_SEQ 0) ++ w (s.reg BOOT_SEQ 1) ++
    [BitVec.ofNat 8 s.lifeCycle, BitVec.ofNat 8 (s.get BOOT_STAT_REASON)]

/-- Stage 0 enters recovery: ETHM and every UCL port come up, the device as a worker. -/
def enterMsx (s : State) : State :=
  let s := uclSetup { milestone 0xF 5 s with svp := .stage0, image := none }
  let s := (((s.put UCL_CFG_MGR 0).put UCL_ADDR_VALID 0).put UCL_TSTAT_ROOT 0).put UCL_CFG_EN 1
  noteManager 0x0F11 0 s.noImage s

/-- No image is a candidate. -/
def execMsxEnter (s : State) : Result :=
  if s.svp == .stage0 && s.get BOOT_STAT_MS == 0 && s.image.isNone && s.flag BOOT_SLOT_CHECKED 0 && s.flag BOOT_SLOT_CHECKED 1 then
    .next (enterMsx s)
  else .next s

/-- The timer of the NOIMAGE notification. -/
def execNoimageRepeat (s : State) : Result :=
  .next (if s.svp == .stage0 && s.get BOOT_STAT_MS == 0xF then noteManager 0x0F11 0 s.noImage s else s)

/-- A recovery image fails: it is discarded as a whole. -/
def recoveryFails (s : State) : State :=
  let s := { s.put BOOT_STAT_REASON 0x3F with image := none }
  noteManager 0x0F11 0 s.noImage s

/-- Every block of a recovery image has passed: the recovery Welfen starts. -/
def execRecoveryStart (s : State) : Result :=
  match s.image with
  | none => .next s
  | some im =>
    if !im.recovery || s.svp != .stage0 || s.get BOOT_STAT_MS != 0xF || !im.comps.all BootComp.done then .next s
    else
      let s := if im.commit && s.countersChecked then fuseTry 3 0x33 im.secver s else s
      .next (welfenRuns (s.put BOOT_STAT_RECOV 1))

/-! ### Erasure (R480, Table LCK-3) -/

/-- Stage 0 performs the steps of the erasure. The flash devices read as erased, and so does Welfen's store. -/
def execErasure (s : State) : Result :=
  if s.svp != .stage0 || s.get BOOT_STAT_MS != 0 || s.flag BOOT_SLOT_CHECKED 0 || !s.mustErase || s.fuseUnsafe then .next s
  else
    let end_ := s.lifeCycle == lcEnd
    let s := s.each (if end_ then List.range 9 else [1, 2, 3, 4, 5, 6, 7, 8]) (fun k t => fuseTry 2 (8 + k) 0 t)
    let s := s.each (if end_ then [0x51, 0x50, 0x41, 0x42, 0x43, 0x44, 0x45, 0x46, 0x47, 0x48, 0x49] else [0x51])
      (fun f t => fuseTry 4 f 0 t)
    let s := prsErase (if end_ then 0 else 4) s
    let s := s.zeroMem 0x04080000 0xF80000
    let s := { (s.flashErase 0).flashErase 1 with faultStore := [], faultLost := 0 }
    .next (if end_ then stopAtEnd (fuseTry 2 6 0 s) else fuseTry 2 5 0 s)

/-! ### The end of a seat reset (R428, R580) -/

/-- Welfen starts a seat from its verified image: its components load again under their windows, and its cores are released. -/
def restartSeat (seat : Nat) (s : State) : State :=
  let mine := (List.range 32).filter (fun i => match s.comp i with
    | some c => c.type == 4 && c.seat == seat
    | none => false)
  let s := s.each mine (fun i t => windowOn i (t.mapComp i (fun c => { c with blocks := 0, failed := none })))
  releaseCores (fun k => s.coreOwner k.val == seat) s

/-- The seat's banks have been zeroed: the seat reset completes (step 5 of Table PWR-9). -/
def execSeatResetComplete (seat : Seat) (s : State) : Result :=
  let n := seat.val
  if !s.seatResetReady n then .next s
  else
    let s := seatResetEnd n s
    let again := s.restarts.contains n && s.svp == .welfen && (s.get BOOT_STAT_MS == 3 || s.get BOOT_STAT_MS == 4)
    let s := { s with restarts := s.restarts.filter (· != n) }
    .next (if again then restartSeat n s else s)

end Sys2Proof.Machine
end

