-- ==== Sys2Proof/Machine/Grant.lean ====
section
/-!
DEFINITION. Debug grants (R586 to R588, Table DBG-2): signed requests, what a grant allows, and its end.
-/

namespace Sys2Proof.Machine

/-! ### What a grant allows -/

/-- Does a grant of `seat` cover halts, steps, registers and comparators? MAKER needs none. -/
def State.mayHalt (s : State) (seat : Nat) : Bool :=
  s.lifeCycle == lcMaker || (decide (1 ≤ seat) && decide (seat ≤ 15) && s.flag DBG_GRANT_VALID seat && s.flag DBG_GRANT_HALT seat)

/-- The seat that core n counts to: the one it runs, and its owner while it runs none. -/
def State.debugSeat (s : State) (k : CoreId) : Nat :=
  if (s.core k).run == .held || s.cState k.val == 3 then s.coreOwner k.val else (s.core k).seatid

/-- Restart a halted core at its boundary, for one step or for good (R592). -/
def resumeCore (step : Bool) (k : CoreId) (s : State) : State :=
  let t := s.mapCore k (fun c => { c with
    run := .running, stepping := step
    cmpSkip := match c.cmpLast with
      | some (j, a) => if a = c.pc then some j else none
      | none => none })
  thawWatchdogs s (t.put DBG_CCTL_HALTED 0 k.val)

/-- Is core k halted as a locked pair in FIELD, so that only a seat reset ends its halt (R591)? -/
def State.haltFinal (s : State) (k : CoreId) : Bool := s.lifeCycle == lcField && s.pairLocked (k.val / 2)

/-- A grant ends (R588): halted cores of the seat resume unless the seat is in its safe state, and its comparators and
lane-group entries become disabled. In MAKER no core was halted under the grant. -/
def endGrant (seat : Nat) (s : State) : State :=
  if !s.flag DBG_GRANT_VALID seat then s
  else
    let under := s.flag DBG_GRANT_HALT seat && s.lifeCycle != lcMaker
    let s := { s.resetInst DBG_GRANT seat with grantPhase := s.grantPhase.set! seat 0 }
    let mine := (List.finRange 32).filter (fun k => under && s.debugSeat k == seat)
    let s := s.mapCores (fun k => mine.contains k) (fun c => { c with haltReq := false })
    let s := (mine.filter (fun k => (s.core k).run == .halted && !s.seatSafe seat && !s.haltFinal k)).foldl
      (fun t k => resumeCore false k t) s
    let s := s.each (List.range 32) (fun n t => t.each (List.range 8) (fun k u =>
      if u.get DBG_CMPCTL_SEAT n k == seat then u.put DBG_CMPCTL_EN 0 n k else u))
    s.each [0, 1, 2, 3] (fun g t => t.each (List.range 16) (fun i u =>
      if u.laneOwner (16 * g + i) == seat then u.putBit DBG_LGXT_LANES i false g else u))

/-! ### Signed requests -/

/-- The current nonce, and the device serial. -/
def State.debugNonce (s : State) : List Byte := (List.range 8).flatMap (fun k => bytesOf (s.reg DBG_NONCE k) 4)
def State.serial (s : State) : List Byte := s.fuseBytes 0x52

/-- A new nonce from the TRNG. -/
def newDebugNonce (s : State) : State :=
  s.each [0, 1, 2, 3] (fun i t =>
    let (v, t) := t.drawRandom
    (t.setReg DBG_NONCE (v.toNat % 2 ^ 32) (2 * i)).setReg DBG_NONCE (v.toNat / 2 ^ 32) (2 * i + 1))

def ctxUZDG : List Byte := [0x55, 0x5A, 0x44, 0x47]

/-- The bytes that a signed request signs. -/
def requestBody (r : DbgRequest) (s : State) : List Byte :=
  s.debugNonce ++ bytesOf r.serial.toNat 8 ++ bytesOf r.mask.toNat 2 ++ bytesOf r.rights.toNat 1 ++ bytesOf r.minutes.toNat 2

/-- Does Table DBG-2 allow the signer and the scope of a request? -/
def State.requestScope (s : State) (r : DbgRequest) : Bool :=
  let lc := s.lifeCycle
  let slot := r.slot.val
  if lc = lcMaker then true
  else if lc = lcDevelopment then decide (1 ≤ slot) && decide (slot ≤ 8) && !r.mask.getLsbD 0
  else if lc = lcField then
    !r.mask.getLsbD 0 && customerSeats.all (fun n => !r.mask.getLsbD n || (match s.manifest n with
      | some m => m.key == slot
      | none => false))
  else lc == lcReturn && slot == 0 && s.fuseSet 5

/-- Does a signed request pass? MAKER needs no signer. -/
def State.requestPasses (s : State) (r : DbgRequest) : Bool :=
  let fields := bytesOf r.serial.toNat 8 == s.serial && decide (1 ≤ r.minutes.toNat) && decide (r.minutes.toNat ≤ 1440)
  let signed := s.lifeCycle == lcMaker || (s.signedCheck r.slot.val r.key ctxUZDG (requestBody r s) r.sig).isNone
  !s.nonceHeld && fields && signed && s.requestScope r

/-- DBG checks a signed request (R586): it writes the grants of the mask, or sets AUTHF, and the nonce is replaced, after a failure
by NONCE_OFFER. Answers whether it passed. -/
def signedRequest (r : DbgRequest) (s : State) : Bool × State :=
  if s.requestPasses r then
    let s := s.each (customerSeats.filter (fun n => r.mask.getLsbD n)) (fun n t =>
      let t := ((t.put DBG_GRANT_VALID 1 n).put DBG_GRANT_HALT (bit (r.rights.getLsbD 0)) n).put DBG_GRANT_MEM (bit (r.rights.getLsbD 1)) n
      { t.put DBG_GRANT_MIN r.minutes.toNat n with grantPhase := t.grantPhase.set! n 0 })
    (true, newDebugNonce s)
  else
    let s := (s.put DBG_STAT_AUTHF 1).each (List.range 8) (fun k t => t.setReg DBG_NONCE 0 k)
    (false, { s with nonceHeld := true })

/-- After a failure the next nonce is offered no sooner than 1 s later. -/
def execNonceOffer (s : State) : Result :=
  .next (if s.vddDbg && s.nonceHeld then newDebugNonce { s with nonceHeld := false } else s)

/-- A TAP DBGAUTH update (Table DBG-1). -/
def execDbgauth (r : DbgRequest) (s : State) : Result :=
  let lc := s.lifeCycle
  .next (if !s.vddDbg || lc == lcProvision || lc == lcEnd then s else (signedRequest r s).2)

/-- The minutes of a grant have counted down to 0: the last minute ends with this command (log 3). -/
def execGrantExpiry (seat : Seat) (s : State) : Result :=
  .next (endGrant seat.val s)

/-- Seat 0 writes 1 to DBG.GRANT.VALID. No customer seat reaches the DBG frame; DBG.GRANT(0) does not exist. -/
def execGrantEndWrite (by_ : Seat) (seat : Seat) (s : State) : Result :=
  if by_ ≠ 0 then .next (s.answer .error)
  else .next ((if s.vddDbg && seat ≠ 0 then endGrant seat.val s else s).answer (.ok 0))

end Sys2Proof.Machine
end

