-- ==== Sys2Proof/Machine/Wci.lean ====
section
/-!
DEFINITION. The Welfen Command Interface: mailbox indices (R499, R500), received messages and their checks (R502, R503), sessions
(R504 to R506), who may send what (R509), and the way every command is run and answered.
-/

namespace Sys2Proof.Machine

/-! ### Mailbox indices (R500, R516) -/

/-- A producer index that `seat` side writes: it may not move backwards or pass the consumer index by more than 512. -/
def producerOk (old ci new : Nat) : Bool := decide (ringCount old ci ≤ ringCount new ci) && decide (ringCount new ci ≤ 512)
/-- A consumer index: it may not move backwards or pass the producer index. -/
def consumerOk (pi old new : Nat) : Bool := decide (ringCount new old ≤ ringCount pi old)

def reqpiWrite (seat v : Nat) (s : State) : State :=
  let old := s.get MBX_REQPI_INDEX seat
  if v = old then s
  else if producerOk old (s.get MBX_REQCI_INDEX seat) v then raiseSrc (srcMbxReq seat) (s.put MBX_REQPI_INDEX v seat)
  else s.put MBX_STAT_REQERR 1 seat

def rspciWrite (seat v : Nat) (s : State) : State :=
  if consumerOk (s.get MBX_RSPPI_INDEX seat) (s.get MBX_RSPCI_INDEX seat) v then s.put MBX_RSPCI_INDEX v seat
  else s.put MBX_STAT_RSPERR 1 seat

def rsppiWrite (seat v : Nat) (s : State) : State :=
  let old := s.get MBX_RSPPI_INDEX seat
  if v = old then s
  else if producerOk old (s.get MBX_RSPCI_INDEX seat) v then announce seat v s
  else s.put MBX_STAT_SVPERR 1 seat

def reqciWrite (seat v : Nat) (s : State) : State :=
  if consumerOk (s.get MBX_REQPI_INDEX seat) (s.get MBX_REQCI_INDEX seat) v then s.put MBX_REQCI_INDEX v seat
  else s.put MBX_STAT_SVPERR 1 seat

/-- A write to page `seat` of MBX by `by_`: the seat's side writes REQPI and RSPCI, seat 0 the others, and a write by the other
side is ignored. Both sides of mailbox 0 are seat 0's. -/
def mbxWrite (by_ : Seat) (seat : Seat) (bySeat : Bool) (f : State → State) (s : State) : Result :=
  pageWrite by_.val seat.val (if by_ = (if bySeat then seat else 0) then f else id) s

def execMbxReqpiWrite (by_ : Seat) (seat : Seat) (value : Word32) (s : State) : Result :=
  mbxWrite by_ seat true (reqpiWrite seat.val (value.toNat % 65536)) s
def execMbxRspciWrite (by_ : Seat) (seat : Seat) (value : Word32) (s : State) : Result :=
  mbxWrite by_ seat true (rspciWrite seat.val (value.toNat % 65536)) s
def execMbxRsppiWrite (by_ : Seat) (seat : Seat) (value : Word32) (s : State) : Result :=
  mbxWrite by_ seat false (rsppiWrite seat.val (value.toNat % 65536)) s
def execMbxReqciWrite (by_ : Seat) (seat : Seat) (value : Word32) (s : State) : Result :=
  mbxWrite by_ seat false (reqciWrite seat.val (value.toNat % 65536)) s

/-! ### Received messages (R499, R502, R503) -/

/-- The session of a peer. -/
def sessionOf : Peer → SessionId
  | .mailbox n => .mailbox n.val
  | .ucl d => .ucl d.toNat
  | .ethm n => .ethm n.val

/-- The oldest message of a session: its header (Table WCI-1), its payload, whether it lies whole in what was received, and the
request slots that it takes with the PAD messages before it. -/
structure Incoming where
  major : Nat
  minor : Nat
  cls : Nat
  status : Nat
  opcode : Nat
  seat : Nat
  pad : Nat
  seq : Nat
  len : Nat
  payload : List Byte
  fits : Bool
  slots : Nat
  deriving DecidableEq, Repr

def readIncoming (l : List Byte) (fits : Bool) (slots : Nat) : Incoming :=
  let len := bytesAt l 12 4
  ⟨bytesAt l 0 1, bytesAt l 1 1, bytesAt l 2 1, bytesAt l 3 1, bytesAt l 4 2, bytesAt l 6 1, bytesAt l 7 1, bytesAt l 8 4, len,
    (l.drop 16).take len, fits, slots⟩

/-- The message `skip` slots behind the consumer index of request ring `n`. PAD messages are skipped. A message that runs past the
producer index or the end of the ring takes everything up to the producer index. -/
def State.mailboxHead (s : State) (n : Nat) : Nat → Nat → Option Incoming
  | 0, _ => none
  | fuel + 1, skip =>
    let ci := s.get MBX_REQCI_INDEX n
    let held := ringCount (s.get MBX_REQPI_INDEX n) ci
    if held ≤ skip then none
    else
      let slot := (ci + skip) % 512
      let a := mbxBase n + slot * 64
      let bytes (k : Nat) : List Byte := (List.range k).map (fun i => s.byte (a + i))
      let h := readIncoming (bytes 16) false held
      let slots := msgSlots h.len
      if held < skip + slots || 512 < slot + slots then some h
      else if h.cls = 0 then s.mailboxHead n fuel (skip + slots)
      else some (readIncoming (bytes (16 + h.len)) true (skip + slots))

/-- The oldest message received from a peer and not yet taken. -/
def State.headOf (s : State) : SessionId → Option Incoming
  | .mailbox n => s.mailboxHead n 512 0
  | id => (s.wciIn.find? (·.1 == id)).map (fun e =>
      readIncoming e.2 (decide (16 + bytesAt e.2 12 4 ≤ e.2.length)) 0)

/-- Take it. -/
def takeHead (id : SessionId) (m : Incoming) (s : State) : State :=
  match id with
  | .mailbox n => s.put MBX_REQCI_INDEX ((s.get MBX_REQCI_INDEX n + m.slots) % 65536) n
  | _ => { s with wciIn := s.wciIn.eraseP (·.1 == id) }

/-- Is the header well formed (R503)? A STATUS outside a RESPONSE is 0. -/
def Incoming.good (m : Incoming) (id : SessionId) : Bool :=
  m.fits && decide (m.len ≤ 4096) && decide (1 ≤ m.cls) && decide (m.cls ≤ 3) && m.pad == 0 && decide (m.seat < 16) &&
    (m.status == 0 || m.cls == 2) && (match id.seat? with
      | some n => m.seat == n
      | none => true)

/-! ### Who may send what (Tables WCI-3 and WCI-4, R509) -/

/-- Opcodes of Table WCI-3; every operation of the SYSTEM class counts as one. -/
def opcodeKnown (op : Nat) : Bool :=
  let n := op % 256
  let last := match op / 256 with
    | 0 => 4 | 1 => 3 | 2 => 4 | 3 => 5 | 4 => 3 | 5 => 4 | 6 => 3 | 7 => 3 | 8 => 4 | 9 => 2 | 10 => 4 | 11 => 2 | 12 => 255
    | _ => 0
  (decide (1 ≤ n) || op / 256 == 12) && decide (n ≤ last)

/-- Feature bit that a class needs. -/
def classFeature (cls : Nat) : Option Nat := if 5 ≤ cls ∧ cls ≤ 9 then some (cls - 5) else none

/-- Features of the side that answers: Welfen has all seven, and stage 0 in MSX the recovery class alone. -/
def State.ownFeatures (s : State) : Nat := if s.svp == .welfen then 0x7F else 0x04

/-- Who answers WCI now: Welfen, or stage 0 in MSX. -/
def State.answersWci (s : State) : Bool :=
  s.device == .on && (s.svp == .welfen || (s.svp == .stage0 && s.get BOOT_STAT_MS == 0xF))

/-- May the sender issue a command of this class? The manager commands over UCL; in MSX the direct peer stands in for it, and SYSTEM
commands pass in both directions between workers and the manager. -/
def State.mayIssueClass (s : State) (e : Session) (cls : Nat) : Bool :=
  let fromS := e.id.seat?.isSome
  let fromU := match e.id with
    | .ucl _ => true
    | _ => false
  let fromM := fromU && (s.svp == .stage0 || (e.id == .ucl 0 && !s.flag UCL_CFG_MGR))
  let fromE := !fromS && !fromU && e.auth
  if cls = 0 then true
  else if cls = 1 || cls = 2 || cls = 4 || cls = 10 then fromS || fromM || fromE
  else if cls = 3 || cls = 5 then fromS
  else if cls = 12 then fromU
  else if cls = 15 then false
  else fromM || fromE

/-! ### Running a command -/

/-- What a command answers: a status with its payload at once, or, from a crypto job, at the job's end. -/
inductive Reply where
  | now (status : Nat) (payload : List Byte) (s : State)
  | job (payload : List Byte) (s : State)
  | wait

/-- Answer a message; none where the response ring lacks room, so that Welfen does not take it (R501). `keep`: the response answers a
command in sequence, and is kept (R506). -/
def answerWci (id : SessionId) (m : Incoming) (keep : Bool) (status : Nat) (payload : List Byte) (s : State) : Option State :=
  let t := takeHead id m s
  let r : WciMsg := ⟨id, 2, status, m.opcode, m.seat, m.seq, payload⟩
  if id.seat?.any (fun n => !t.rspRoom n payload.length) then none
  else if keep then some (respond r (t.mapSession id (fun e => { e with nextCmd := e.nextCmd + 1 })))
  else some (sendMsg r t)

/-- A command in sequence of a session in force: its authority, its feature and its effect. `after` follows the response to a
command that was done. None where it has to wait. -/
def performWci (id : SessionId) (m : Incoming) (e : Session) (f : Session → Incoming → State → Reply)
    (after : Incoming → State → State) (s : State) : Option State :=
  let cls := m.opcode / 256
  let lacks := match classFeature cls with
    | some b => !e.features.testBit b
    | none => false
  let ethm := match id with
    | .ethm _ => true
    | _ => false
  if (ethm && !e.auth && m.opcode != 2) || cls = 15 then answerWci id m true stDenied [] s
  else if !opcodeKnown m.opcode then answerWci id m true stUnsup [] s
  else if !s.mayIssueClass e cls then answerWci id m true stDenied [] s
  else if lacks || (s.svp == .stage0 && cls != 0 && cls != 7) then answerWci id m true stUnsup [] s
  else match f e m s with
    | .wait => none
    | .now st p t =>
      match answerWci id m true st p t with
      | some u => some (if st = stOk then after m u else u)
      | none => none
    | .job p t =>
      let t := takeHead id m (t.mapSession id (fun e => { e with nextCmd := e.nextCmd + 1 }))
      some { t with creJobs := t.creJobs ++ [⟨false, some ⟨id, 2, stOk, m.opcode, m.seat, m.seq, p⟩⟩] }

/-- The message at the head of a session meets a command of opcode `op`. -/
def serveHead (id : SessionId) (m : Incoming) (op : Nat) (f : Session → Incoming → State → Reply)
    (after : Incoming → State → State) (s : State) : Option State :=
  let e := s.session id
  let next := e.any (fun e => e.hello && m.seq == e.nextCmd)
  if !m.good id then
    if m.cls = 2 then some (takeHead id m s) else answerWci id m (next && m.cls == 1) stBadmsg [] s
  else if m.cls = 2 || (m.cls = 1 && opcodeKnown m.opcode && m.opcode != op) then none
  else match e with
    | none => answerWci id m false stNosession [] s
    | some e =>
      if !e.hello then answerWci id m false stNosession [] s
      else if m.major ≠ e.major then answerWci id m (next && m.cls == 1) stBadmsg [] s
      else if m.cls = 3 then
        -- a worker's NOTE to the manager is acknowledged; from others only Welfen sends NOTEs
        match id with
        | .ucl _ => answerWci id m false stOk [] s
        | _ => answerWci id m false stDenied [] s
      else match e.kept.find? (·.seq == m.seq) with
        | some r =>
          if id.seat?.any (fun n => !s.rspRoom n r.payload.length) then none else some (sendMsg r (takeHead id m s))
        | none => if next then performWci id m e f after s else answerWci id m false stBadmsg [] s

/-- The command of opcode `op` arrives from a peer: the oldest message of its session is taken. What a message without a session, out
of sequence, malformed or unknown is answered, any command finds; a well-formed message with another known opcode waits for its
own command. A session's commands run one after the other, so nothing is taken while a crypto job of it runs (R507). -/
def runWci (p : Peer) (op : Nat) (f : Session → Incoming → State → Reply) (after : Incoming → State → State) (s : State) : Result :=
  let id := sessionOf p
  if !s.answersWci || s.creJobs.any (fun j => j.reply.any (fun r => r.dest == id)) then .next s
  else match s.headOf id with
    | none => .next s
    | some m => .next ((serveHead id m op f after s).getD s)

/-- A command whose effect is a status, a payload and a state, with nothing behind the response. -/
def plainWci (p : Peer) (op : Nat) (f : Session → Incoming → State → Nat × List Byte × State) (s : State) : Result :=
  runWci p op (fun e m s => let r := f e m s; .now r.1 r.2.1 r.2.2) (fun _ t => t) s

/-- A command for a customer seat. -/
def seatWci (p : Peer) (op : Nat) (f : Nat → State → Nat × List Byte × State) (after : Nat → State → State) (s : State) : Result :=
  runWci p op (fun _ m s => if m.seat = 0 then .now stRange [] s else let r := f m.seat s; .now r.1 r.2.1 r.2.2)
    (fun m t => after m.seat t) s

/-! ### SESSION -/

/-- HELLO's payload: lowest and highest major, minor, features. -/
def helloBody (features : Nat) : List Byte := [1, 1, 0, 0] ++ bytesOf features 8

/-- The session of an endpoint ends; its crypto jobs answer nobody. -/
def endSession (id : SessionId) (s : State) : State :=
  { s with
    sessions := s.sessions.filter (·.id != id)
    creJobs := s.creJobs.filter (fun j => !j.reply.any (fun r => r.dest == id)) }

/-- A HELLO from a peer: it ends the previous session, and opens one if the ranges share major 1. -/
def helloCommand (id : SessionId) (m : Incoming) (s : State) : Option State :=
  let t := endSession id s
  if m.major ≠ 0 || m.minor ≠ 0 then answerWci id m false stBadmsg [] s
  else if s.flag CRE_STAT_TRNGF then answerWci id m false (stOpen 1) [] t
  else if 1 < bytesAt m.payload 0 1 || bytesAt m.payload 1 1 < 1 then answerWci id m false stUnsup (helloBody s.ownFeatures) t
  else
    let both := bytesAt m.payload 4 8 &&& s.ownFeatures
    let e := { Session.fresh id (s.get TBS_NOW_NS) with hello := true, features := both }
    let t := { t with sessions := t.sessions ++ [e] }
    let t := match id with
      | .ucl d => deviceAssigned d t
      | _ => t
    answerWci id m false stOk (helloBody both) t

/-- HELLO, or the manager's response to the HELLO of this worker. -/
def execHello (p : Peer) (s : State) : Result :=
  let id := sessionOf p
  if !s.answersWci then .next s
  else match s.headOf id with
    | none => .next s
    | some m =>
      if !m.good id || m.opcode ≠ 1 then runWci p 1 (fun _ _ s => .now stBadmsg [] s) (fun _ t => t) s
      else if m.cls = 1 then .next ((helloCommand id m s).getD s)
      else if m.cls = 2 && (s.session id).any (fun e => !e.hello) then
        let t := takeHead id m s
        if m.status = stOk then
          .next (t.mapSession id (fun e => { e with hello := true, features := bytesAt m.payload 4 8 &&& s.ownFeatures }))
        else .next (endSession id t)
      else .next s

def ctxUZWA : List Byte := [0x55, 0x5A, 0x57, 0x41]

/-- Draw `n` 64-bit values from the TRNG, as bytes. -/
def drawBytes : Nat → State → List Byte × State
  | 0, s => ([], s)
  | n + 1, s =>
    let (v, s) := s.drawRandom
    let (l, s) := drawBytes n s
    (le64 v.toNat ++ l, s)

/-- The first step of AUTH: a nonce of 32 bytes and an X448 public value. -/
def authBegin (id : SessionId) (s : State) : Nat × List Byte × State :=
  if s.flag CRE_STAT_TRNGF then (stOpen 1, [], s)
  else
    let (nonce, s) := drawBytes 4 s
    let (secret, s) := drawBytes 7 s
    (stOk, nonce ++ Config.x448Public secret, s.mapSession id (fun e => { e with challenge := some (nonce, secret) }))

/-- The second step: the peer's key, its signature over both values and the nonce, and the session key. A maker signs only where
Table BOOT-5 allows the maker. -/
def authEnd (id : SessionId) (e : Session) (r : AuthReply) (s : State) : Nat × List Byte × State :=
  match e.challenge with
  | none => (stOpen 2, [], s)
  | some (nonce, secret) =>
    let t := s.mapSession id (fun e => { e with challenge := none })
    let slot := r.slot.val
    let allowed := decide (1 ≤ slot) || signerAllowed s.lifeCycle 0
    if (s.signedCheck slot r.key ctxUZWA (Config.x448Public secret ++ r.value ++ nonce) r.sig).isSome || !allowed then (stSigfail, [], t)
    else (stOk, [], s.mapSession id (fun e => { e with
      challenge := none, maker := slot == 0, key := Config.shake256 32 (Config.x448Shared secret r.value ++ nonce) }))

/-- AUTH; the session counts as authenticated once the response has left (R505). Only ETHM sessions need it. -/
def execAuth (p : Peer) (reply : Option AuthReply) (s : State) : Result :=
  let id := sessionOf p
  runWci p 2 (fun e _ s =>
      let r := match id, reply with
        | .ethm _, none => authBegin id s
        | .ethm _, some r => authEnd id e r s
        | _, _ => (stOpen 3, [], s)
      .now r.1 r.2.1 r.2.2)
    (fun _ t => if reply.isSome then t.mapSession id (fun e => { e with auth := true, txCount := 0, rxCount := 0 }) else t) s

def execBye (p : Peer) (s : State) : Result :=
  runWci p 3 (fun _ _ s => .now stOk [] s) (fun _ t => endSession (sessionOf p) t) s

def execPing (p : Peer) (s : State) : Result := plainWci p 4 (fun _ _ s => (stOk, [], s)) s

/-! ### Notifications and datagrams -/

/-- A NOTE over UCL or ETHM that has waited 10 ms for its acknowledgement is sent again, up to 5 times (R510). -/
def execNoteRetransmit (p : Peer) (seq : Word32) (s : State) : Result :=
  let id := sessionOf p
  match s.session id with
  | none => .next s
  | some e =>
    match e.unacked.find? (·.seq == seq.toNat) with
    | none => .next s
    | some n =>
      if id.seat?.isSome || 5 ≤ n.again then .next s
      else .next (sendMsg ⟨id, 3, 0, n.opcode, n.seat, n.seq, n.payload⟩ (s.mapSession id (fun e => { e with
        unacked := e.unacked.map (fun x => if x.seq == n.seq then { x with again := x.again + 1 } else x) })))

/-- A RESPONSE: with STATUS OK it acknowledges the NOTE of its SEQ and OPCODE; any other is dropped. -/
def execNoteAck (p : Peer) (s : State) : Result :=
  let id := sessionOf p
  if !s.answersWci then .next s
  else match s.headOf id with
    | none => .next s
    | some m =>
      if m.cls ≠ 2 || (m.good id && m.opcode == 1) then .next s
      else
        let t := takeHead id m s
        if m.good id && m.status == stOk then
          .next (t.mapSession id (fun e => { e with unacked := e.unacked.filter (fun n => !(n.seq == m.seq && n.opcode == m.opcode)) }))
        else .next t

/-- A datagram arrives in ETHM session n: before AUTH its message in clear, and then with its counter, whether its tag is right, and its
message decrypted (R505). -/
def execEthmDatagram (n : Fin 4) (counter : Word64) (tagOk : Bool) (msg : List Byte) (s : State) : Result :=
  let id := SessionId.ethm n.val
  let take (s : State) : State := { s with wciIn := s.wciIn ++ [(id, msg)] }
  if !s.answersWci then .next s
  else match s.session id with
    | none => .next (take s)
    | some e =>
      if !e.auth then .next (take s)
      else if tagOk && decide (e.rxCount < counter.toNat) then
        .next (take (s.mapSession id (fun e => { e with rxCount := counter.toNat })))
      else .next s

end Sys2Proof.Machine
end

