-- ==== Sys2Proof/Machine/WciCmd.lean ====
section
/-!
DEFINITION. The WCI commands (Table WCI-3): INFO, SEAT, RESOURCE, POWER, SAFECOMM, UPDATE, RECOVERY, LCYCLE, DEBUG, CRYPTO, NETCFG
and SYSTEM. The layout of a payload that Table WCI-3 leaves to the Welfen service reference is the model's; arguments in such a
layout are operands of the command.
-/

namespace Sys2Proof.Machine

/-! ### INFO -/

/-- DEVINFO: serial, life-cycle state, BOOT.STAT, identity public key while it can be derived. -/
def State.devInfo (s : State) : List Byte :=
  s.serial ++ [BitVec.ofNat 8 s.lifeCycle] ++ bytesOf (s.reg BOOT_STAT) 4 ++ (match s.identitySeed with
    | some k => Config.ed448Public k
    | none => [])

def execDevinfo (p : Peer) (s : State) : Result := plainWci p 0x0101 (fun _ _ s => (stOk, s.devInfo, s)) s

/-- FAULTLOG: the entries from before the start with their LOST, then those of SFI.FLOG with LOST. -/
def State.faultLog (s : State) : List Byte :=
  let entry (e : Nat × Nat) : List Byte := bytesOf e.1 4 ++ bytesOf e.2 8
  let now := ((List.range 16).filter (fun n => s.flag SFI_FLOG_VALID n)).map (fun n => (s.reg SFI_FLOG n, s.reg SFI_FLOGT n))
  [BitVec.ofNat 8 s.faultStore.length, BitVec.ofNat 8 now.length] ++ bytesOf s.faultLost 2 ++ bytesOf (s.get SFI_STAT_LOST) 2 ++
    (s.faultStore ++ now).flatMap entry

def execFaultlog (p : Peer) (s : State) : Result := plainWci p 0x0102 (fun _ _ s => (stOk, s.faultLog, s)) s

/-- SEATINFO: cores, banks, lanes, SDI channels, HRP pairs, interrupt sources, ways and bank sets of a seat, as bit masks. -/
def State.seatInfo (s : State) (seat : Nat) : List Byte :=
  let mask (n : Nat) (f : Nat → Nat) : List Byte :=
    bytesOf (((List.range n).map (fun i => bit (f i == seat) * 2 ^ i)).sum) (n / 8)
  mask 32 s.coreOwner ++ mask 32 s.bankOwner ++ mask 64 s.laneOwner ++ mask 48 s.sdiOwner ++ mask 24 s.hrpOwner ++
    mask 512 s.srcOwner ++ (List.range 8).flatMap (fun c => mask 16 (fun w => s.get CACHE_WOWN_OWNER c w)) ++
    (List.range 4).flatMap (fun c => bytesOf (s.get DMC_BSET_UNITS c seat) 4)

def execSeatinfo (p : Peer) (s : State) : Result := plainWci p 0x0103 (fun _ m s => (stOk, s.seatInfo m.seat, s)) s

/-! ### SEAT -/

def execSeatResetCommand (p : Peer) (s : State) : Result :=
  seatWci p 0x0201 (fun _ s => (stOk, [], s)) seatResetStart s

/-- SAFE, unless the seat is in its safe state already. -/
def safeCommand (seat : Nat) (s : State) : State := if s.seatSafe seat then s else enterSeatSafe seat s

def execSeatSafeCommand (p : Peer) (s : State) : Result := seatWci p 0x0202 (fun _ s => (stOk, [], s)) safeCommand s

/-- RESTART: a seat reset, at whose end the seat starts from its verified image. -/
def restartCommand (seat : Nat) (s : State) : State :=
  seatResetStart seat { s with restarts := if s.restarts.contains seat then s.restarts else s.restarts ++ [seat] }

def execSeatRestart (p : Peer) (s : State) : Result := seatWci p 0x0203 (fun _ s => (stOk, [], s)) restartCommand s

/-- STOP: quench and SAFE. -/
def stopCommand (seat : Nat) (s : State) : State := safeCommand seat (s.putBit FAB_QUENCH_SEAT (seat - 1) true)

def execSeatStop (p : Peer) (s : State) : Result := seatWci p 0x0204 (fun _ s => (stOk, [], s)) stopCommand s

/-! ### RESOURCE -/

/-- CLAIM and RELEASE carry kind, a byte, and a 16-bit index; the byte is the function of a pin claim. `unit`: the TBS unit of a pin
claim for TBS. -/
def execClaim (p : Peer) (unit : Fin 32) (s : State) : Result :=
  plainWci p 0x0301 (fun _ m s =>
    let r := Machine.claim m.seat (bytesAt m.payload 0 1) (bytesAt m.payload 1 1) (bytesAt m.payload 2 2) unit.val s
    (r.1, [], r.2)) s

def execRelease (p : Peer) (s : State) : Result :=
  plainWci p 0x0302 (fun _ m s =>
    let r := releaseClaim m.seat (bytesAt m.payload 0 1) (bytesAt m.payload 2 2) s
    (r.1, [], r.2)) s

/-- XBUF (R40): refused after the lock; a buffer that both manifests state is set up in crossing bank `bank`, behind the others, and the
seat tables are built anew behind it. -/
def xbufCommand (writer reader tag pages bank : Nat) (s : State) : Nat × State :=
  let have_ := (List.range 64).any (fun x => s.flag SEAT_XBCFG_EN x && s.get SEAT_XBCFG_WRITER x == writer &&
    s.get SEAT_XBCFG_READER x == reader && s.get SEAT_XBSIZE_NPAGE x + 1 == pages)
  if s.seatLocked then (stLocked, s)
  else if !xbufMatch s.manifests writer reader tag pages then (stNotent, s)
  else if have_ then (stOk, s)
  else if !(s.flag SEAT_BANK_XING bank && s.bankOwner bank == 0) then (stNomem, s)
  else match xbufSetup bank writer reader pages s with
    | (false, _) => (stNomem, s)
    | (true, t) => (stOk, t.manifests.foldl (fun u m => s2inv m.seat u) (buildTables (0x10000 + t.xbufNext bank) t))

def execXbuf (p : Peer) (writer : Bool) (peer : Seat) (tag : BitVec 16) (pages : Word32) (bank : Fin 32) (s : State) : Result :=
  plainWci p 0x0303 (fun _ m s =>
    let (w, r) := if writer then (m.seat, peer.val) else (peer.val, m.seat)
    let a := xbufCommand w r tag.toNat pages.toNat bank.val s
    (a.1, [], a.2)) s

/-- Does the group's source already serve another seat that owns lanes of it (R372)? -/
def State.groupTaken (s : State) (seat g : Nat) : Bool :=
  let src := s.get LG_SYNC_SRC g
  (List.range 16).any (fun i =>
    let o := s.laneOwner (16 * g + i)
    o != seat && o != 0 && src != 0 && s.syncAllowed o src (s.get LG_SYNC_NUM g))

/-- LGWRITE for a seat (R372, R373): only for sources and lanes that it owns. `src`: what LG.LOADSRC takes before LG.LOAD. -/
def lgCommand (seat : Nat) (reg : LgReg) (g value src : Nat) (s : State) : Nat × State :=
  let own (mask : Nat) : Bool := (maskLanes g mask).all (fun n => s.laneOwner n == seat)
  if !(List.range 16).any (fun i => s.laneOwner (16 * g + i) == seat) then (stNotent, s)
  else match reg with
    | .stop => if own (slice value 0 16) then (stOk, stopLanes g (slice value 0 16) s) else (stNotent, s)
    | .sync =>
      if !s.syncAllowed seat (slice value 30 2) (slice value 16 6) then (stNotent, s)
      else if s.groupTaken seat g then (stBusy, s)
      else (stOk, syncWrite g seat value s)
    | .ctl =>
      if !own (slice value 0 16) then (stNotent, s)
      else if s.groupTaken seat g then (stBusy, s)
      else (stOk, lgCtlWrite 0 g value s)
    | .load =>
      if !own (slice value 16 16) then (stNotent, s)
      else if s.groupTaken seat g then (stBusy, s)
      else (stOk, loadWrite g seat value (s.put LG_LOADSRC_ADDR (src / 64) g))

def execLgwrite (p : Peer) (reg : LgReg) (g : GroupId) (value : Word32) (src : BitVec 48) (s : State) : Result :=
  plainWci p 0x0304 (fun _ m s =>
    let r := lgCommand m.seat reg g.val value.toNat src.toNat s
    (r.1, [], r.2)) s

/-- RESTORE (R324): Welfen isolates a peripheral target that the seat owns, resets its block and restores it. -/
def restoreCommand (seat t : Nat) (s : State) : Nat × State :=
  if !(s.targetOwners t).contains seat then (stNotent, s)
  else if t < 0xD0 || 0xF4 < t then (stRange, s)
  else (stOk, tgtWrite t 0x80000000 (blockReset t (tgtWrite t 0x40000000 s)))

def execRestore (p : Peer) (target : BitVec 8) (s : State) : Result :=
  plainWci p 0x0305 (fun _ m s =>
    let r := restoreCommand m.seat target.toNat s
    (r.1, [], r.2)) s

/-! ### POWER -/

/-- PFREQ (R560): the highest level that any seat has asked for, PF0 being the highest, unless a temperature warning holds. -/
def pfCommand (seat level : Nat) (s : State) : Nat × State :=
  if 3 < level then (stRange, s)
  else
    let s := { s with pfAsked := s.pfAsked.filter (·.1 != seat) ++ [(seat, level)] }
    let best := s.pfAsked.foldl (fun b e => min b e.2) 3
    if s.flag SFI_MON_TWARN || s.get PWC_PFCTL_TARGET == best then (stOk, s)
    else
      let s := s.put PWC_PFCTL_TARGET best
      (stOk, if s.flag PWC_STAT_PFBUSY then { s with pfHeld := some best } else levelChange best s)

def execPfreq (p : Peer) (level : BitVec 8) (s : State) : Result :=
  plainWci p 0x0401 (fun _ m s =>
    let r := pfCommand m.seat level.toNat s
    (r.1, [], r.2)) s

/-- TOKENS: the reserved share and the tokens held. -/
def execTokens (p : Peer) (s : State) : Result :=
  plainWci p 0x0402 (fun _ m s => (stOk, bytesOf (s.share m.seat) 4 ++ bytesOf (s.tokensHeld m.seat) 4, s)) s

/-- STANDBY, or OFF when the flag byte is 1. From a seat only with FLAGS.SYSTEM; refused while R570 does not allow it. -/
def execStandbyCommand (p : Peer) (tick : BitVec 8) (s : State) : Result :=
  let ownSeat := (sessionOf p).seat?.isSome
  runWci p 0x0403 (fun _ m s =>
      let entitled := (s.manifest m.seat).any SeatManifest.system
      if ownSeat && !entitled then .now stNotent [] s else if !s.quiet then .now (stOpen 4) [] s else .now stOk [] s)
    (fun m t => sbctlWrite ((if bytesAt m.payload 0 1 = 1 then 0xC0000000 else 0x80000000) + tick.toNat) t) s

/-! ### SAFECOMM (R515, Table WCI-7) -/

def State.safeChannel (s : State) (owner id : Nat) : Option SafeChannel := s.safeChannels.find? (fun c => c.owner == owner && c.id == id)
def State.mapSafe (s : State) (owner id : Nat) (f : SafeChannel → SafeChannel) : State :=
  { s with safeChannels := s.safeChannels.map (fun c => if c.owner == owner && c.id == id then f c else c) }
/-- Own device address; a device without one counts as 0. -/
def State.selfAddr (s : State) : Nat := s.ownAddr.getD 0

/-- A message arrives on a channel; `ok`: its safety code or its tag is right. One that fails a check is discarded and counted. -/
def SafeChannel.take (own now : Nat) (m : SafeMsg) (ok : Bool) (c : SafeChannel) : SafeChannel :=
  let named := m.srcDev.toNat == c.dev && m.srcSeat.val == c.peer && m.dstDev.toNat == own && m.dstSeat.val == c.owner && m.id.toNat == c.id
  if ok && named && decide (m.data.length ≤ 1024) && decide (now - m.time.toNat ≤ c.maxAge) && decide (c.rx < m.seq.toNat) then
    { c with rx := m.seq.toNat, time := now, inbox := c.inbox ++ [(decide (c.rx + 1 < m.seq.toNat), m.data)] }
  else { c with discarded := c.discarded + 1 }

/-- OPEN: a channel of the sender's seat. An open channel draws its keys, which a failed TRNG prevents. -/
def safeOpen (owner id dev peer : Nat) (opened : Bool) (maxAge : Nat) (s : State) : Nat × State :=
  if peer = 0 then (stRange, s)
  else if (s.safeChannel owner id).isSome then (stBusy, s)
  else if opened && s.flag CRE_STAT_TRNGF then (stOpen 1, s)
  else (stOk, { s with safeChannels := s.safeChannels ++ [⟨owner, id, dev, peer, opened, maxAge, 0, 0, s.get TBS_NOW_NS, [], 0⟩] })

def execSafecommOpen (p : Peer) (id : BitVec 16) (dev : BitVec 12) (peer : Seat) (opened : Bool) (maxAge : Word64) (s : State) : Result :=
  plainWci p 0x0501 (fun _ m s =>
    let r := safeOpen m.seat id.toNat dev.toNat peer.val opened maxAge.toNat s
    (r.1, [], r.2)) s

/-- SEND: the message leaves for the peer; one for a seat of this device arrives at once, and its seat is told. -/
def safeSend (owner id : Nat) (data : List Byte) (s : State) : Nat × State :=
  match s.safeChannel owner id with
  | none => (stOpen 5, s)
  | some c =>
    if 1024 < data.length then (stRange, s)
    else if 2 ^ 32 ≤ c.tx + 1 then (stOpen 6, s)
    else
      let own := s.selfAddr
      let m : SafeMsg := ⟨BitVec.ofNat 12 own, Fin.ofNat 16 owner, BitVec.ofNat 12 c.dev, Fin.ofNat 16 c.peer, BitVec.ofNat 16 id,
        BitVec.ofNat 32 (c.tx + 1), BitVec.ofNat 64 (s.get TBS_NOW_NS), data⟩
      let s := s.mapSafe owner id (fun c => { c with tx := c.tx + 1 })
      if c.dev ≠ own then (stOk, { s with safeOut := s.safeOut ++ [m] })
      else match s.safeChannel c.peer id with
        | none => (stOk, s)
        | some d =>
          let s := s.mapSafe c.peer id (SafeChannel.take own (s.get TBS_NOW_NS) m (d.opened == c.opened))
          (stOk, if (s.safeChannel c.peer id).any (fun x => x.inbox.length != 0) then
            noteSeat 0x0F20 c.peer (bytesOf id 2) s else s)

def execSafecommSend (p : Peer) (id : BitVec 16) (data : List Byte) (s : State) : Result :=
  plainWci p 0x0502 (fun _ m s =>
    let r := safeSend m.seat id.toNat data s
    (r.1, [], r.2)) s

/-- RECV: the messages `arrived` since, then the oldest accepted one: bit 0 a gap before it, bit 1 no message accepted within the
maximum age, bit 2 data follow; the count of messages discarded; the data. -/
def safeRecv (owner id : Nat) (arrived : List (SafeMsg × Bool)) (s : State) : Nat × List Byte × State :=
  match s.safeChannel owner id with
  | none => (stOpen 5, [], s)
  | some c =>
    let now := s.get TBS_NOW_NS
    let c := arrived.foldl (fun c a => c.take s.selfAddr now a.1 a.2) c
    let late := bit (decide (c.maxAge < now - c.time)) * 2
    match c.inbox with
    | [] => (stOk, BitVec.ofNat 8 late :: bytesOf c.discarded 4, s.mapSafe owner id (fun _ => c))
    | (gap, data) :: rest =>
      (stOk, BitVec.ofNat 8 (bit gap + late + 4) :: bytesOf c.discarded 4 ++ data,
        s.mapSafe owner id (fun _ => { c with inbox := rest }))

def execSafecommRecv (p : Peer) (id : BitVec 16) (arrived : List (SafeMsg × Bool)) (s : State) : Result :=
  plainWci p 0x0503 (fun _ m s => safeRecv m.seat id.toNat arrived s) s

def execSafecommClose (p : Peer) (id : BitVec 16) (s : State) : Result :=
  plainWci p 0x0504 (fun _ m s =>
    if (s.safeChannel m.seat id.toNat).isNone then (stOpen 5, [], s)
    else (stOk, [], { s with safeChannels := s.safeChannels.filter (fun c => !(c.owner == m.seat && c.id == id.toNat)) })) s

/-! ### UPDATE -/

/-- Put bytes into a slot's flash device. -/
def flashPut (slot : Nat) : Nat → List Byte → State → State
  | _, [], s => s
  | a, b :: l, s => flashPut slot (a + 1) l (s.flashByte slot a b)

/-- BEGIN erases the slot. -/
def execUpdateBegin (p : Peer) (slot : Fin 2) (s : State) : Result :=
  plainWci p 0x0601 (fun _ _ s => (stOk, [], { s.flashErase slot.val with update := some slot.val })) s

def execUpdateBlock (p : Peer) (offset : Word32) (data : List Byte) (s : State) : Result :=
  plainWci p 0x0602 (fun _ _ s => match s.update with
    | some slot => (stOk, [], flashPut slot offset.toNat data s)
    | none => (stOpen 7, [], s)) s

def execUpdateCommit (p : Peer) (s : State) : Result :=
  plainWci p 0x0603 (fun _ _ s => if s.update.isSome then (stOk, [], { s with update := none }) else (stOpen 7, [], s)) s

/-! ### RECOVERY (R472, R473) -/

/-- Components of a recovery image, with their block-hash lists; none where one is not allowed in it, lies outside DSTORE, or has a
list that differs from its HLHASH. -/
def recoveryComps (m header : List Byte) (lists : List (List Byte)) (s : State) : Option (List BootComp) :=
  let cs := (imageComps m header).zip lists
  let ok (p : BootComp × List Byte) : Bool :=
    p.2.length == 32 * p.1.nb && Config.shake256 64 p.2 == p.1.hlHash &&
      (p.1.type == 1 || (p.1.type == 4 && decide (0x10000000 ≤ p.1.dest) && decide (p.1.dest + p.1.nb * 4096 ≤ 0x18000000)))
  if lists.length = (manifestEntries m).length && cs.all ok && cs.any (fun p => p.1.type == 1) &&
      (match welfenEntry m with
        | some e => welfenCheck header ((e.drop 0x20).take 64) s
        | none => false) then
    some (cs.map (fun p => { p.1 with hashes := some p.2 }))
  else none

/-- BEGIN: in MSX, or out of a held start (R471), which enters MSX first. -/
def recoveryBegin (m header : List Byte) (lists : List (List Byte)) (s : State) : Nat × List Byte × State :=
  let ms := s.get BOOT_STAT_MS
  if !(ms == 0xF || ms == 8) then (stOpen 8, [], s)
  else
    let s := if ms = 8 then enterMsx s else s
    match manifestCheck true m s, recoveryComps m header lists s with
    | none, some cs =>
      (stOk, [], { s with image := some ⟨true, 0, bytesAt m 0xC 4 / 2 % 2 == 1, bytesAt m 0x14 1, bytesAt header 4 4, 0, cs⟩ })
    | _, _ => (stSigfail, [], recoveryFails s)

def execRecoveryBegin (p : Peer) (manifest : List Byte) (header : List Byte) (lists : List (List Byte)) (s : State) : Result :=
  plainWci p 0x0701 (fun _ _ s => recoveryBegin manifest header lists s) s

/-- BLOCK: the next block of a component, verified on arrival. A block of a seat image waits while DSTORE does not answer. -/
def recoveryBlock (i index : Nat) (data : List Byte) (s : State) : Reply :=
  match s.image, s.comp i with
  | some im, some c =>
    if !im.recovery then .now (stOpen 8) [] s
    else if index ≠ c.blocks || c.nb ≤ index then .now stRange [] s
    else if data.length ≠ min 4096 (c.length - index * 4096) then .now stBadmsg [] s
    else if c.type = 4 && s.memGate 0 (c.dest + index * 4096) != .ok then .wait
    else if blockGood c index (padBlock data) then
      let s := s.mapComp i (fun c => { c with blocks := index + 1 })
      .now stOk [] (if c.type = 4 then s.writeBytes (c.dest + index * 4096) (padBlock data) else s)
    else .now stSigfail [] (recoveryFails s)
  | _, _ => .now (stOpen 8) [] s

def execRecoveryBlock (p : Peer) (comp : Fin 32) (index : BitVec 20) (data : List Byte) (s : State) : Result :=
  runWci p 0x0702 (fun _ _ s => recoveryBlock comp.val index.toNat data s) (fun _ t => t) s

def execRecoveryEnd (p : Peer) (s : State) : Result :=
  plainWci p 0x0703 (fun _ _ s => match s.image with
    | some im => if im.recovery && im.comps.all BootComp.done then (stOk, [], s) else (stOpen 9, [], s)
    | none => (stOpen 9, [], s)) s

/-! ### LCYCLE (R478, R480, R485) -/

/-- NONCE: 32 bytes for the next life-cycle command of the session. -/
def execLcycleNonce (p : Peer) (s : State) : Result :=
  plainWci p 0x0801 (fun e _ s =>
    if s.flag CRE_STAT_TRNGF then (stOpen 1, [], s)
    else
      let (n, s) := drawBytes 4 s
      (stOk, n, s.mapSession e.id (fun x => { x with lcNonce := some n }))) s

/-- The nonce has been used. -/
def spendNonce (e : Session) (s : State) : State := s.mapSession e.id (fun x => { x with lcNonce := none })

/-- A signature by the key of slot 0, or of an unrevoked owner slot, over a body. -/
def State.makerSigned (s : State) (g : Signed) (body : List Byte) : Bool :=
  g.slot.val == 0 && (s.signedCheck 0 g.key Config.lcycleContext body g.sig).isNone
def State.ownerSigned (s : State) (g : Signed) (body : List Byte) : Bool :=
  decide (1 ≤ g.slot.val) && decide (g.slot.val ≤ 8) && (s.signedCheck g.slot.val g.key Config.lcycleContext body g.sig).isNone

/-- Table LCK-2: does the transition exist, and does it need the owner's and the maker's signature? -/
def transitionRow (lc target : Nat) : Option (Bool × Bool) :=
  if lc = lcMaker && target = lcProvision then some (false, true)
  else if lc = lcProvision && target = lcDevelopment then some (true, false)
  else if (lc = lcProvision || lc = lcDevelopment) && target = lcField then some (true, false)
  else if (lc = lcDevelopment || lc = lcField) && target = lcReturn then some (true, true)
  else if (lc = lcMaker || lc = lcProvision || lc = lcReturn) && target = lcEnd then some (false, true)
  else if (lc = lcDevelopment || lc = lcField) && target = lcEnd then some (true, false)
  else none

/-- The preparation of R480: every customer seat in seat reset, DSTORE and DRAM zeroed. -/
def prepareReturn (s : State) : State :=
  ((s.each customerSeats seatResetStart).zeroMem 0x10000000 0x8000000).zeroMem 0x010000000000 0x010000000000

/-- Blow the group of a transition, after the stage-0 lock where it leads to PROVISION; none where LCC refuses. -/
def blowTransition (target : Nat) (s : State) : Option State :=
  let s := s.each customerSeats endGrant
  let s := if target = lcReturn then prepareReturn s else s
  if target = lcProvision then
    if s.fusePermitted 2 0 then (fuseNow 2 0x28 0 s).bind (fuseNow 2 0 0) else none
  else fuseNow 2 (target - 1) 0 s

/-- TRANSITION; a device reset follows the response. -/
def transitionCommand (e : Session) (target : Nat) (owner maker : Option Signed) (s : State) : Nat × State :=
  match transitionRow s.lifeCycle target, e.lcNonce with
  | none, _ => (stDenied, s)
  | some _, none => (stSigfail, s)
  | some (needOwner, needMaker), some nonce =>
    if needMaker && !e.maker then (stDenied, s)
    else if (needOwner && !owner.any (fun g => s.ownerSigned g nonce)) || (needMaker && !maker.any (fun g => s.makerSigned g nonce)) then
      (stSigfail, spendNonce e s)
    else match blowTransition target s with
      | some t => (stOk, spendNonce e t)
      | none => (stOpen 10, spendNonce e s)

def execLcycleTransition (p : Peer) (target : Fin 6) (owner : Option Signed) (maker : Option Signed) (s : State) : Result :=
  runWci p 0x0802 (fun e _ s => let r := transitionCommand e target.val owner maker s; .now r.1 [] r.2) (fun _ t => softReset t) s

/-- KEYADD: the key hash, then the provisioned flag, of the lowest slot that is neither provisioned nor spoiled. In PROVISION the key
signs for itself; afterwards an unrevoked owner key does. -/
def keyAdd (e : Session) (key : List Byte) (g : Signed) (s : State) : Nat × State :=
  let lc := s.lifeCycle
  let body := Config.keyCommandBody 0x0803 (e.lcNonce.getD []) key
  let self := g.key == key && Config.ed448Verify key Config.lcycleContext body g.sig
  if !(lc == lcProvision || lc == lcDevelopment || lc == lcField) then (stDenied, s)
  else if e.lcNonce.isNone then (stSigfail, s)
  else if !(if lc = lcProvision then self else s.ownerSigned g body) then (stSigfail, spendNonce e s)
  else match [1, 2, 3, 4, 5, 6, 7, 8].find? (fun k => !s.slotProvisioned k && !s.slotSpoiled k) with
    | none => (stOpen 11, spendNonce e s)
    | some k =>
      let hash := bytesAt (Config.shake256 32 key) 0 32
      match fuseNow 1 (0x41 + k) hash s with
      | none => (stOpen 10, spendNonce e s)
      | some t =>
        match fuseNow 2 (0x18 + k) 0 t with
        | some u => (stOk, spendNonce e u)
        | none => (stOpen 10, spendNonce e t)

def execKeyadd (p : Peer) (key : List Byte) (by_ : Signed) (s : State) : Result :=
  plainWci p 0x0803 (fun e _ s => let r := keyAdd e key by_ s; (r.1, [], r.2)) s

/-- KEYREVOKE: an owner slot, signed by an unrevoked owner key; slot 0 only in MAKER, signed by the maker. -/
def keyRevoke (e : Session) (slot : Nat) (g : Signed) (s : State) : Nat × State :=
  let body := Config.keyCommandBody 0x0804 (e.lcNonce.getD []) [BitVec.ofNat 8 slot]
  let others := [1, 2, 3, 4, 5, 6, 7, 8].any (fun k => k != slot && s.slotProvisioned k && !s.slotRevoked k)
  if slot = 0 && s.lifeCycle != lcMaker then (stDenied, s)
  else if e.lcNonce.isNone then (stSigfail, s)
  else if !(if slot = 0 then s.makerSigned g body else s.ownerSigned g body) then (stSigfail, spendNonce e s)
  else if slot ≠ 0 && !others then (stLastkey, spendNonce e s)
  else match fuseNow 2 (0x08 + slot) 0 s with
    | some t => (stOk, spendNonce e t)
    | none => (stOpen 10, spendNonce e s)

def execKeyrevoke (p : Peer) (slot : Fin 9) (by_ : Signed) (s : State) : Result :=
  plainWci p 0x0804 (fun e _ s => let r := keyRevoke e slot.val by_ s; (r.1, [], r.2)) s

/-! ### DEBUG -/

/-- GRANT: the signed request of R586. -/
def execDebugGrant (p : Peer) (r : DbgRequest) (s : State) : Result :=
  plainWci p 0x0901 (fun _ _ s =>
    if s.lifeCycle == lcProvision || s.lifeCycle == lcEnd then (stDenied, [], s)
    else if !s.vddDbg then (stOpen 12, [], s)
    else
      let (ok, s) := signedRequest r s
      (if ok then stOk else stSigfail, [], s)) s

def execDebugRevoke (p : Peer) (s : State) : Result := seatWci p 0x0902 (fun n s => (stOk, [], endGrant n s)) (fun _ t => t) s

/-! ### CRYPTO (R489, R490) -/

def execCryptoRandom (p : Peer) (n : BitVec 16) (s : State) : Result :=
  plainWci p 0x0A01 (fun _ _ s =>
    if 4096 < n.toNat then (stRange, [], s)
    else
      let (l, s) := drawBytes ((n.toNat + 7) / 8) s
      (stOk, l.take n.toNat, s)) s

def execCryptoHash (p : Peer) (n : BitVec 16) (data : List Byte) (s : State) : Result :=
  runWci p 0x0A02 (fun _ _ s =>
    if 4096 < n.toNat then .now stRange [] s else .job (Config.shake256 n.toNat data) s) (fun _ t => t) s

/-- VERIFY answers one byte: 1 if the signature verifies. -/
def execCryptoVerify (p : Peer) (key : List Byte) (ctx : List Byte) (msg : List Byte) (sig : List Byte) (s : State) : Result :=
  runWci p 0x0A03 (fun _ _ s =>
    if 255 < ctx.length then .now stRange [] s
    else .job [BitVec.ofNat 8 (bit (Config.ed448Verify key ctx msg sig))] s) (fun _ t => t) s

def execCryptoSign (p : Peer) (ctx : List Byte) (msg : List Byte) (s : State) : Result :=
  runWci p 0x0A04 (fun _ _ s =>
    if 255 < ctx.length then .now stRange [] s
    else match s.identitySeed with
      | some k => .job (Config.ed448Sign k ctx msg) s
      | none => .now (stOpen 13) [] s) (fun _ t => t) s

/-! ### NETCFG and SYSTEM -/

/-- GET: PRS words 8 to 11. -/
def execNetcfgGet (p : Peer) (s : State) : Result :=
  plainWci p 0x0B01 (fun _ _ s => (stOk, [8, 9, 10, 11].flatMap (fun n => bytesOf (s.prs n) 4), s)) s

def execNetcfgSet (p : Peer) (words : Vector Word32 4) (s : State) : Result :=
  plainWci p 0x0B02 (fun _ _ s => (stOk, [], [0, 1, 2, 3].foldl (fun t i => prsPut (8 + i) (words[i]!).toNat t) s)) s

/-- SYSTEM: the report of a port state is taken; no other operation is given (R554). -/
def execSystemCommand (p : Peer) (op : BitVec 8) (s : State) : Result :=
  plainWci p (0x0C00 + op.toNat) (fun _ _ s => (if op = Config.portReport then stOk else stUnsup, [], s)) s

end Sys2Proof.Machine
end

