-- ==== Sys2Proof/Machine/Bus.lean ====
section
/-!
DEFINITION. Device register accesses and other requests that go past the caches (R9 to R15, R19, R22 to R26): what a
register shows, what reading and writing it does, the windows of the lane memories, and the memories of the control space.
-/

namespace Sys2Proof.Machine

/-- How a request ends: with data, with poisoned data, with an error response, or not yet. -/
inductive BusAns where
  | ok (v : Nat)
  | poison
  | error
  | wait
  deriving DecidableEq, Repr

/-! ### Where a register lies -/

/-- The place of a register that several places show: the CWD registers and PWC.CCTL of every seat page, page 1 of PMX, and
DMC.ILV of DMC1 to DMC3. -/
def homeOf (a : Nat) : Nat :=
  let o := a % 0x1000
  if 0x20081000 ≤ a ∧ a < 0x20090000 ∧ 0x100 ≤ o ∧ o < 0x300 then 0x20081000 + o
  else if 0x20091000 ≤ a ∧ a < 0x200A0000 ∧ 0x100 ≤ o ∧ o < 0x180 then 0x20091000 + o
  else if 0x200E1000 ≤ a ∧ a < 0x200E1320 then a - 0x1000
  else if a = 0x2242000C ∨ a = 0x2244000C ∨ a = 0x2246000C then 0x2240000C
  else a

/-- The register whose word lies at `a`. -/
def regAt (a : Nat) : Option RegDef := regTable.find? (fun r => r.covers a)

/-- Does a frame that holds no registers of its own cover instance i of a register: of a trailing core (R169, R591), of a trailing
lane, or the DBG frame without VDD_DBG (R583)? -/
def State.regAbsent (s : State) (r : RegDef) (i : Nat) : Bool :=
  if 0x22000000 ≤ r.base ∧ r.base < 0x22200000 then s.trailing i
  else if 0x21100000 ≤ r.base ∧ r.base < 0x21500000 then s.laneTrails i
  else if 0x20160000 ≤ r.base ∧ r.base < 0x20170000 then
    !s.vddDbg || (decide (0x20161000 ≤ r.base) && decide (r.base < 0x20163000) && s.trailing i)
  else if 0x201A0000 ≤ r.base ∧ r.base < 0x201D0000 then s.trailing i
  else r == PWC_CCTL && s.trailing i

/-- Does the block refuse an access of `seat` to the register word at `a`, because another seat owns the instance addressed
(R25, R438, R492)? Source writes have a check of their own. -/
def State.ownerRefuses (s : State) (seat a : Nat) (write : Bool) : Bool :=
  let o := a % 0x1000
  if seat = 0 then false
  else if 0x20191000 ≤ a ∧ a < 0x20191800 then !write && s.srcOwner ((a - 0x20191000) / 4) != seat
  else if 0x20081000 ≤ a ∧ a < 0x20090000 ∧ 0x100 ≤ o ∧ o < 0x300 then s.coreOwner ((o - 0x100) / 16) != seat
  else if 0x20091000 ≤ a ∧ a < 0x200A0000 ∧ 0x100 ≤ o ∧ o < 0x180 then s.coreOwner ((o - 0x100) / 4) != seat
  else if 0x200E1000 ≤ a ∧ a < 0x200E1320 then s.get PMX_OWN_OWNER ((a - 0x200E1000) / 4) != seat
  else if 0x20151000 ≤ a ∧ a < 0x20152000 then s.prsOwner ((a - 0x20151000) / 4) != seat
  else false

/-! ### What a register shows -/

/-- Bits of a list of conditions, the first at bit 0. -/
def maskOf (l : List Bool) : Nat := l.foldr (fun b v => bit b + 2 * v) 0

/-- SEAT.GUAR: conditions 1, 2 and 4 of R48. -/
def State.guarantee (s : State) : Nat :=
  maskOf (customerSeats.map (fun n => s.lifeCycle == lcField && s.dealLocked && s.seatLocked && !s.flag DBG_GRANT_VALID n))

/-- DBG.STAT.GRANTED. -/
def State.granted (s : State) : Nat := maskOf (customerSeats.map (fun n => s.flag DBG_GRANT_VALID n))

/-- Requests of the cores outstanding to target t (FAB.TGT.OUT). -/
def State.targetOut (s : State) (t : Nat) : Nat :=
  min 255 ((s.cores.toList.map (fun c =>
    (match c.load with
      | some l => (l.parts.filter (fun q => s.targetOf q.pa == some t)).length
      | none => 0) + (c.stores.filter (fun e => e.sent && s.targetOf e.pa == some t)).length)).sum)

/-- The fields that show what the block holds elsewhere, as `seat` reads instance (i, j) of register r. -/
def State.liveFields (s : State) (seat : Nat) (r : RegDef) (i j : Nat) : List (Fld × Nat) :=
  if r = SEAT_GUAR then [(SEAT_GUAR_GUAR, s.guarantee)]
  else if r = CACHE_SMASK then [(CACHE_SMASK_MASK, maskOf ((List.range 16).map (fun w => (s.ownedWays i j).contains w)))]
  else if r = CACHE_WLOCK then
    [(CACHE_WLOCK_LOCK, maskOf ((List.range 16).map (fun w => s.wayLocked i j w && (s.ownedWays i j).contains w)))]
  else if r = FAB_STAT then [(FAB_STAT_NDEAD, min 255 ((List.range 256).filter s.targetDown).length)]
  else if r = FAB_TGT then [(FAB_TGT_OUT, s.targetOut i)]
  else if r = LG_STAT then
    [(LG_STAT_TGWAIT, bit ((List.range 16).any (fun m => s.waitsTokens (.lane (16 * i + m))))),
      (LG_STAT_RUN, maskOf ((List.range 16).map (fun m => s.laneState (16 * i + m) == lsRunning)))]
  else if r = HRP_STAT then
    [(HRP_STAT_GATE, bit s.gateActive), (HRP_STAT_SEATSAFE, bit (s.seatHeld (s.hrpOwner i)))]
  else if r = HRP_GSTAT then [(HRP_GSTAT_SAFE, maskOf ((List.range 24).map (fun p => s.flag HRP_STAT_SAFE p)))]
  else if r = ICU_STAT then [(ICU_STAT_NSTR, s.numStranded)]
  else if r = ICU_SRC then [(ICU_SRC_SIG, bit (s.signalled (s.get ICU_SRC_TGT i) == some i))]
  else if r = ICU_TSTAT then [(ICU_TSTAT_SIGV, bit (s.signalPrio i).isSome), (ICU_TSTAT_SIGP, (s.signalPrio i).getD 0)]
  else if r = SFI_SWDCNT then [(SFI_SWDCNT_FROZEN, bit (s.swdFrozen i))]
  else if r = SFI_CWDCNT then [(SFI_CWDCNT_FROZEN, bit (s.cwdFrozen i))]
  else if r = LCC_FUSE then [(LCC_FUSE_BITS, s.fuseWord i)]
  else if r = CRE_STAT then
    [(CRE_STAT_JOBS, min 65535 s.creJobs.length), (CRE_STAT_LDBUSY, bit (s.creJobs.any (·.load) || s.flag CRE_STAT_LDBUSY))]
  else if r = UCL_RDST then
    [(UCL_RDST_DEAD, s.rdstWord / 2 ^ 31), (UCL_RDST_ISO, s.rdstWord / 2 ^ 30), (UCL_RDST_DOWN, s.rdstWord / 2 ^ 29),
      (UCL_RDST_OUT, s.rdstWord)]
  else if r = PWC_DSTAT then [(PWC_DSTAT_ON, withSlice (s.get PWC_DSTAT_ON) 30 1 (bit s.vddDbg))]
  else if r = PWC_TGPOOL then [(PWC_TGPOOL_FREE, s.poolFree), (PWC_TGPOOL_QUEUE, min 255 s.tokenQueue.length)]
  else if r = PWC_TGSTAT then
    [(PWC_TGSTAT_HELD, s.tokensHeld i), (PWC_TGSTAT_WAIT, bit (s.tokenQueue.any (fun q => q.seat == i)))]
  else if r = DBG_STAT then
    [(DBG_STAT_GRANTED, s.granted), (DBG_STAT_AUTHOK, bit (s.lifeCycle == lcMaker || s.granted != 0))]
  else if r = TRC_SWP then
    let n := s.get TRC_SCTL_REGION i
    [(TRC_SWP_WRAPPED, s.get TRC_RCTL_WRAPPED n), (TRC_SWP_ERR, s.get TRC_RCTL_ERR n), (TRC_SWP_ADDR, s.get TRC_RWP_ADDR n * 64)]
  else if r = PMX_OWN then [(PMX_OWN_SAFE, s.ballSafe i)]
  else if r = TBS_NOWF then [(TBS_NOWF_FRAC, (s.tbsCaptured[seat]!).toNat)]
  else []

/-- What a read of instance (i, j) of register r by `seat` returns, both words of a 64-bit one, without its effect: WO fields read
0 (R13). -/
def State.regShown (s : State) (seat : Nat) (r : RegDef) (i j : Nat) : Nat :=
  if s.regAbsent r i then 0
  else
    let v := (s.liveFields seat r i j).foldl (fun v e => withSlice v e.1.lo e.1.w e.2) (s.reg r i j)
    r.fields.foldl (fun v f => if f.acc = .wo then withSlice v f.lo f.w 0 else v) v

/-! ### Reads -/

/-- What a read does besides: RC fields clear (R13), ICU.CLAIM claims (R412), counters that run freely give a free value. -/
def regReadEffect (r : RegDef) (i j mask : Nat) (s : State) : State :=
  if s.regAbsent r i then s
  else if r = ICU_CLAIM then (claimAt i s).2
  else r.fields.foldl (fun t f =>
    if f.acc = .rc ∧ slice mask f.lo f.w ≠ 0 then t.setReg r (withSlice (t.reg r i j) f.lo f.w 0) i j else t) s

/-- A read of the register, `mask` the bits read; `peek`: without side effects (R14, R597). -/
def regRead (seat : Nat) (r : RegDef) (i j mask : Nat) (peek : Bool) (s : State) : Nat × State :=
  if r = ICU_CLAIM then
    (if s.regAbsent r i then 0 else claimWord s i, if peek then s else regReadEffect r i j mask s)
  else if r = CRG_STAT then
    let (v, t) := s.draw
    (withSlice (s.regShown seat r i j) 0 10 (380 + v.toNat % 41), t)
  else if r = HRP_CNT && s.flag HRP_STAT_RUNNING i then
    let (v, t) := s.draw
    (v.toNat % 2 ^ 28, t)
  else
    let s := if r = HRP_SHD ∨ r = HRP_SHD_PERIOD then landCommits i 0 s else s
    (s.regShown seat r i j, if peek then s else regReadEffect r i j mask s)

/-- Lane of an address in the program or data memory of a lane frame, whether it is data memory, and the word. -/
def laneMemAt (a : Nat) : Option (Nat × Bool × Nat) :=
  let o := a % 0x10000
  if a < 0x21100000 ∨ 0x21500000 ≤ a then none
  else if 0x4000 ≤ o ∧ o < 0x8000 then some ((a - 0x21100000) / 0x10000, false, (o - 0x4000) / 4)
  else if 0x8000 ≤ o ∧ o < 0xA000 then some ((a - 0x21100000) / 0x10000, true, (o - 0x8000) / 4)
  else none

/-- A supervisor read of a lane memory word; `u`: what its check bits say (R379). A trailing lane's frame shows nothing. -/
def laneMemRead (n : Nat) (data : Bool) (w : Nat) (u : Upset) (s : State) : BusAns × State :=
  let l := s.lane n
  if l.zeroing then (.wait, s)
  else if s.laneTrails n then (.ok 0, s)
  else
    let v := if data then (l.word (2 * w)).toNat + (l.word (2 * w + 1)).toNat * 65536 else (s.pmWord n w).toNat
    match u with
    | .double => (.error, s)
    | .single => (.ok v, s.countUp (if data then LN_ERR_CEDM else LN_ERR_CEPM) n)
    | _ => (.ok v, s)

/-- Answers of the two words of an aligned 64-bit read. -/
def pairAns (a b : BusAns) : BusAns :=
  match a, b with
  | .ok v, .ok w => .ok (v + w * 2 ^ 32)
  | .ok _, e => e
  | e, _ => e

/-- Blocks whose registers the spec does not lay out: ETHM, ETH0 to ETH3, MVB, CAN, XSPI, I2C, SPI, UART, GPIO. -/
def noLayout (a : Nat) : Bool :=
  match frameTarget a with
  | some t => t == 0xD0 || (decide (0xD2 ≤ t) && decide (t ≤ 0xD5)) || decide (0xDB ≤ t)
  | none => false

/-- A read of one 32-bit word in a block frame. A word of a block without a layout is a free value. -/
def wordRead (seat a : Nat) (u : Upset) (peek : Bool) (s : State) : BusAns × State :=
  if s.ownerRefuses seat a false then (.error, seatViolation seat false a s)
  else match laneMemAt a with
    | some (n, data, w) => laneMemRead n data w u s
    | none =>
      match regAt (homeOf a) with
      | none =>
        if noLayout a then
          let (v, s) := s.draw
          (.ok (v.toNat % 2 ^ 32), s)
        else (.ok 0, s)
      | some r =>
        let p := r.place (homeOf a)
        let sh := 8 * p.2.2
        let (v, s) := regRead seat r p.1 p.2.1 ((2 ^ 32 - 1) * 2 ^ sh) peek s
        (.ok (v / 2 ^ sh % 2 ^ 32), s)

/-- Does a 64-bit register begin at `a`? -/
def wideAt (a : Nat) : Bool :=
  match regAt (homeOf a) with
  | some r => r.wide && (r.place (homeOf a)).2.2 == 0
  | none => false
/-- Does an aligned 64-bit access at `a`, where no 64-bit register begins, reach a 32-bit register (R10)? A lane memory word counts as
one. -/
def reachesNarrow (a : Nat) : Bool :=
  (laneMemAt a).isSome || [a, a + 4].any (fun x => match regAt (homeOf x) with
    | some r => !r.wide
    | none => false)

/-- A read of device register space. A 64-bit read of TBS.NOW captures the fraction for its requester. -/
def deviceRead (seat a n : Nat) (u : Upset) (peek : Bool) (s : State) : BusAns × State :=
  match frameTarget a with
  | none => (.error, s)
  | some t =>
    if s.targetDown t then (.error, s)
    else if n = 4 ∧ a % 4 = 0 then wordRead seat a u peek s
    else if n = 8 ∧ a % 8 = 0 then
      if wideAt a then
        let s := if a = TBS_NOW.base ∧ peek = false then { s with tbsCaptured := s.tbsCaptured.set! seat s.tbsFrac } else s
        let (x, s) := wordRead seat a u peek s
        let (y, s) := wordRead seat (a + 4) u peek s
        (pairAns x y, s)
      else if reachesNarrow a then (.error, s)
      else if noLayout a then
        -- whether 32-bit registers lie there is open as well
        let (v, s) := s.draw
        let (w, s) := s.draw
        (if v.getLsbD 0 then .error else .ok w.toNat, s)
      else (.ok 0, s)
    else (.error, s)

/-- A response from a remote device arrives: its data is the other device's, a free value; `u`: poisoned (status 0x02). -/
def remoteRead (seat pa n : Nat) (u : Upset) (s : State) : BusAns × State :=
  match s.remoteGate seat pa n with
  | .wait => (.wait, s)
  | .error => (.error, s)
  | .ok =>
    if u = .double then (.poison, s)
    else
      let (v, s) := s.draw
      (.ok (v.toNat % 2 ^ (8 * n)), s)

/-- A request leaves for a remote device, if it may. -/
def remoteSend (type seat pa n v : Nat) (s : State) : State :=
  if isRemote pa && s.remoteGate seat pa n == .ok then sendRequest type seat pa n v (clearSent s) else s

/-- May `seat` reach the control space at `pa`: the save SRAM is seat 0's, and boot NVM too? -/
def controlPasses (seat pa : Nat) : Bool := seat == 0 || !(isSave pa || isBnv pa)

/-- A best-effort read of `n` bytes past the caches. -/
def busRead (seat pa n : Nat) (u : Upset) (peek : Bool) (s : State) : BusAns × State :=
  if s.quenched seat then (.wait, s)
  else if isRemote pa then remoteRead seat pa n u s
  else if isDevice pa then deviceRead seat pa n u peek s
  else match s.memGate seat pa with
    | .wait => (.wait, s)
    | .error => (.error, s)
    | .ok =>
      if isPrs pa then
        if n ≠ 4 ∨ pa % 4 ≠ 0 then (.error, s)
        else if seat ≠ 0 && s.prsOwner ((pa - prsBase) / 4) != seat then (.error, seatViolation seat false pa s)
        else (.ok (s.readMem pa 4), s)
      else if !controlPasses seat pa then (.error, s)
      else
        let s := memUpset pa false u s
        let (v, s) := cohRead seat pa n s
        (if s.poisoned pa n then .poison else .ok v, s)

/-! ### Writes -/

/-- The whole-chip blocks: SEAT, DEAL, MMU, DSTORE, FAB, DMC, MCS, LCC, PRS. None: nothing but the access codes. -/
def globalWrite (seat : Nat) (r : RegDef) (i j v mask : Nat) (s : State) : Option State :=
  let plain := writeFields seat r i j v mask s
  if r = SEAT_LOCK then some (if v.testBit 0 then seatLockWrite s else s)
  else if r = SEAT_VIOL then some (if plain.flag SEAT_VIOL_VALID then plain else plain.put SEAT_VIOL_COUNT 0)
  else if r = DEAL_LOCK then some (if v.testBit 0 then dealLockWrite s else s)
  else if r = DEAL_SLOT then
    let old := s.reg DEAL_SLOT i j
    -- once the seat configuration is locked, the switch slots stand (R34)
    let keeps := slotSw old == slotSw v && (!slotSw old || (slotSwg old == slotSwg v && slotOwner old == slotOwner v))
    some (if s.seatLocked && !keeps then s else plain)
  else if r = MMU_S2ROOT then some (if i = 0 then s else plain)
  else if r = MMU_S2INV then some (if v.testBit 31 && !s.seatLocked then s2inv (slice v 0 4) s else s)
  else if r = DSTORE_BCFG then some (bcfgWrite i v s)
  else if r = FAB_TGT then some (tgtWrite i v s)
  else if r = DMC_BSET then some (bsetWrite i j v s)
  else if r = MCS_WADDR then some (if s.flag MCS_LOCK_LOCK then s else mcsCommit (v % 2 ^ 14) s)
  else if r = LCC_PCMD then some (if v.testBit 31 then pcmdWrite (slice v 24 4) (slice v 0 8) s else s)
  else if r = LCC_PDATA then some (s.setReg LCC_PDATA v i)
  else if r = PRS_GOWN then some (if i < 2 then s else plain)
  else if r = CACHE_WLOCK then
    some (s.put CACHE_WLOCK_LOCK (v &&& maskOf ((List.range 16).map (fun w => (s.ownedWays i j).contains w))) i j)
  else none

/-- Lanes and converters. -/
def laneRegWrite (seat : Nat) (r : RegDef) (i j v mask : Nat) (s : State) : Option State :=
  let plain := writeFields seat r i j v mask s
  let o := s.groupOwner (i % 4)
  if r = LG_CTL then some (lgCtlWrite seat i v s)
  else if r = LG_SYNC then some (syncWrite i o v s)
  else if r = LG_STOP then some (stopLanes i (v % 2 ^ 16) s)
  else if r = LG_LOAD then some (loadWrite i o v s)
  else if r = LN_CTL then
    let t := if v.testBit 4 then clearLaneFault i plain else plain
    let t := if v.testBit 2 then laneHalt i t else t
    let t := if v.testBit 3 then stepLane i t else t
    some (if v.testBit 1 then requestStart (groupOf i) [i] t else t)
  else if r = LN_ENTRY then some (entryWrite i v s)
  else if r = LN_CRCLEN then some (crclenWrite i v s)
  else if r = SDI_FT then some (ftWrite seat i v s)
  else if r = SDI_STAT then some (sdiStatWrite seat i v s)
  else if r = SDI_TRIPMASK then some (tripmaskWrite seat i v s)
  else if r = HRP_CTL then some (hrpCtlWrite seat i v s)
  else if r = HRP_STAT then some (hrpStatWrite seat i v s)
  else if r = HRP_SHD then some (shadowWrite i j v 0 false s)
  else if r = HRP_SHD_PERIOD then some (shadowWrite i 3 v 0 false s)
  else none

/-- Safety island, power, time base, cores. -/
def systemRegWrite (seat : Nat) (r : RegDef) (i j v mask : Nat) (s : State) : Option State :=
  let plain := writeFields seat r i j v mask s
  if r = SFI_CTL then some (sfiCtlWrite v s)
  else if r = SFI_SVPKICK then some (svpKick (slice v 0 8) s)
  else if r = SFI_INJ then some (injectFault v s)
  else if r = SFI_FLOGIDX then some (clearLog v s)
  else if r = SFI_POL then some (if i = 0 then s else plain)
  else if r = SFI_SWDCFG then some (swdConfig seat i v s)
  else if r = SFI_SWDKICK then some (swdKick i (slice v 0 8) s)
  else if r = SFI_CWDCFG then some (cwdConfig seat i v s)
  else if r = SFI_CWDKICK then some (cwdKick i (slice v 0 8) s)
  else if r = PWC_PFCTL then some (pfctlWrite v s)
  else if r = PWC_FIO then some (fioWrite v s)
  else if r = PWC_SBCTL then some (sbctlWrite v s)
  else if r = PWC_RST then some (rstWrite v 0 s.fuseDamaged s)
  else if r = PWC_CCTL then some (if v.testBit 8 then (List.finRange 32).foldl (fun t k => if k.val = i then wakeCore k t else t) plain else plain)
  else if r = TBS_CCCTL ∨ r = TBS_CCTIME ∨ r = TBS_CCFRAC then
    -- a unit whose time or mode is written is armed again (R46)
    some { plain with tbsActed := plain.tbsActed &&& ~~~(1#32 <<< i) }
  else if r = IBC_DMSTAT then some (if plain.flag IBC_DMSTAT_OVR i then plain else plain.put IBC_DMSTAT_MAXEXC 0 i)
  else none

/-- Networks, mailboxes, trace. -/
def linkRegWrite (seat : Nat) (r : RegDef) (i j v mask : Nat) (s : State) : Option State :=
  let plain := writeFields seat r i j v mask s
  let side (bySeat : Bool) (t : State) : Option State := some (if seat = (if bySeat then i else 0) then t else s)
  if r = MBX_REQPI then side true (reqpiWrite i (v % 65536) s)
  else if r = MBX_RSPCI then side true (rspciWrite i (v % 65536) s)
  else if r = MBX_RSPPI then side false (rsppiWrite i (v % 65536) s)
  else if r = MBX_REQCI then side false (reqciWrite i (v % 65536) s)
  else if r = ETHSW_HQTXPI then side true (hqTxpi i v s)
  else if r = ETHSW_HQRXCI then side true plain
  else if r = ETHSW_HQTXCI ∨ r = ETHSW_HQRXPI then some s
  else if r = ETHSW_HQTXBASE ∨ r = ETHSW_HQRXBASE then some (if s.flag ETHSW_HQCFG_EN i then s else plain)
  else if r = ETHSW_HQCFG then some (writeFields seat r i j (v - (v &&& 2 ^ 23)) mask s)
  else if r = UCL_STOPTX then some (stoptxWrite v s)
  else if r = UCL_RDST then some (rdstWrite v s)
  else if r = UCL_STOPLOG then some (if plain.flag UCL_STOPLOG_VALID then plain else plain.put UCL_STOPLOG_COUNT 0)
  else if r = TRC_STIM then some (stimWrite i j v s)
  else if r = TRC_SCTL then some (sctlWrite seat i v s)
  else if r = TRC_RCTL then some { plain with trcStopped := plain.trcStopped &&& ~~~(1#8 <<< i) }
  else none

/-- A write of instance (i, j) of register r: what the register does with it, or its access codes alone (R13). The first component is
false for an error response. -/
def regWrite (seat : Nat) (r : RegDef) (i j v mask : Nat) (s : State) : Bool × State :=
  if s.regAbsent r i then (true, s)
  else if r = ICU_SRC then srcWrite seat i v s
  else if r = ICU_SWTRIG then swtrig seat v s
  else if r = ICU_COMPLETE then (true, completeAt i (slice v 0 10) s)
  else (true, (((globalWrite seat r i j v mask s).orElse (fun _ => laneRegWrite seat r i j v mask s)).orElse
    (fun _ => (systemRegWrite seat r i j v mask s).orElse (fun _ => linkRegWrite seat r i j v mask s))).getD
      (writeFields seat r i j v mask s))

/-- A supervisor write of a lane memory word (R380, R382). -/
def laneMemWrite (n : Nat) (data : Bool) (w v : Nat) (s : State) : BusAns × State :=
  if (s.lane n).zeroing then (.wait, s)
  else if s.laneTrails n then (.ok 0, s)
  else if data then
    (.ok 0, s.mapLane n (fun l => (l.setWord (2 * w) (BitVec.ofNat 16 v)).setWord (2 * w + 1) (BitVec.ofNat 16 (v / 65536))))
  else (.ok 0, programWrite n w v s)

/-- A write of one 32-bit word in a block frame. -/
def wordWrite (seat a v : Nat) (s : State) : BusAns × State :=
  if s.ownerRefuses seat a true then (.error, seatViolation seat true a s)
  else match laneMemAt a with
    | some (n, data, w) => laneMemWrite n data w v s
    | none =>
      if homeOf a = DMC_ILV.base ∧ a ≠ DMC_ILV.base then (.ok 0, s)
      else match regAt (homeOf a) with
        | none => (.ok 0, s)
        | some r =>
          let p := r.place (homeOf a)
          let sh := 8 * p.2.2
          let (ok, s) := regWrite seat r p.1 p.2.1 (v % 2 ^ 32 * 2 ^ sh) ((2 ^ 32 - 1) * 2 ^ sh) s
          (if ok then .ok 0 else .error, s)

/-- A write to device register space. -/
def deviceWrite (seat a n v : Nat) (s : State) : BusAns × State :=
  match frameTarget a with
  | none => (.error, s)
  | some t =>
    if s.targetDown t then (.error, s)
    else if n = 4 ∧ a % 4 = 0 then wordWrite seat a v s
    else if n = 8 ∧ a % 8 = 0 then
      match regAt a with
      | some r =>
        if r.wide && (r.place a).2.2 == 0 then
          let (ok, s) := regWrite seat r (r.place a).1 (r.place a).2.1 (v % 2 ^ 64) (2 ^ 64 - 1) s
          (if ok then .ok 0 else .error, s)
        else (.error, s)
      | none =>
        if reachesNarrow a then (.error, s)
        else if noLayout a then
          let (v, s) := s.draw
          (if v.getLsbD 0 then .error else .ok 0, s)
        else (.ok 0, s)
    else (.error, s)

/-- A best-effort write of `n` bytes past the caches; `src`: the core that makes it, if one does. -/
def busWrite (src : Option Nat) (seat pa n v : Nat) (s : State) : BusAns × State :=
  if s.quenched seat then (.wait, s)
  else if isRemote pa then
    match s.remoteGate seat pa n with
    | .wait => (.wait, s)
    | .error => (.error, s)
    | .ok => (.ok 0, s)
  else if isDevice pa then deviceWrite seat pa n v s
  else
    let (g, s) := storeGate seat pa n s
    match g with
    | .wait => (.wait, s)
    | .error => (.error, s)
    | .ok =>
      if isPrs pa then
        if n ≠ 4 ∨ pa % 4 ≠ 0 then (.error, s)
        else
          let (ok, s) := prsWriteBy seat ((pa - prsBase) / 4) v s
          (if ok then .ok 0 else .error, s)
      else if !controlPasses seat pa then (.error, s)
      else if isBnv pa then
        let (ok, s) := bnvWrite (pa - 0x04000000) n v s
        (if ok then .ok 0 else .error, s)
      else (.ok 0, cohWrite src pa n v s)

end Sys2Proof.Machine
end

