-- ==== Sys2Proof/Machine/CoreMem.lean ====
section
/-!
DEFINITION. Memory accesses of a core: preparing an access with its checks in the order of R150, cached, non-cacheable,
device and deterministic reads (R133, R154 to R158, R245 to R254, R269, R270), the store buffer (R282 to R289, R304,
R323), and instruction fetch (R19, R155, R252).
-/

namespace Sys2Proof.Machine

/-- How an instruction's step ends: it retires, and execution goes on behind it; it retires, and execution goes on at
a target; it retires as a return does (R107, R592); it raises an exception, whose EPC is the instruction or the
instruction after it; or it does not retire yet. -/
inductive Act where
  | done (s : State)
  | jump (t : Word64) (s : State)
  | ret (t : Word64) (s : State)
  | exc (e : Exc) (s : State)
  | excAfter (e : Exc) (s : State)
  | stall (s : State)

/-- An exception with no address. -/
def excPlain (code : Nat) (info : Nat := 0) : Exc := ⟨code, info, none, false, false⟩
/-- An exception that names an address. -/
def excAt (code : Nat) (a : Nat) (st : Bool := false) (info : Nat := 0) : Exc :=
  ⟨code, info, some (BitVec.ofNat 64 a), st, false⟩
/-- Machine check with its INFO. -/
def machineCheck (info : Nat) : Exc := excPlain 0x15 info

/-- The exception of a refused translation; FPA takes the address that stage 2 checked (R240). -/
def xlExc (k : CoreId) (a : XKind) (va code info : Nat) (fpa : Option Nat) (s : State) : Exc × State :=
  let s := match fpa with
    | some p => s.mapCore k (fun c => { c with fpa := BitVec.ofNat 64 p })
    | none => s
  (excAt code va (a = .write) info, s)

/-! ### Preparing an access -/

/-- Outcome of the checks of an access. -/
inductive Prep where
  | ok (ps : List Part)
  | exc (e : Exc)
  | wait

/-- Translate one piece. -/
def prepPart (k : CoreId) (a : XKind) (va size : Nat) (s : State) : Prep × State :=
  if 2 ^ 48 ≤ va then (.exc (excAt 0x07 va (a = .write)), s)
  else
    let (r, s) := translate k a va s
    match r with
    | .ok e => (.ok [⟨va, e.phys va, size, e.type, e.g⟩], s)
    | .fault code info fpa => let (e, s) := xlExc k a va code info fpa s; (.exc e, s)
    | .wait => (.wait, s)

/-- The checks of a load, store, LDST or MCPY access in the order of R150: range, stage 1, stage 2, alignment of
device accesses with the width check of R10. A piece per line. -/
def prepare (k : CoreId) (a : XKind) (va size : Nat) (s : State) : Prep × State :=
  let first := min size (64 - va % 64)
  let (p, s) := prepPart k a va first s
  match p with
  | .ok [q] =>
    let misaligned := Prep.exc (excAt 0x05 va (a = .write))
    if (q.type.isDev && va % size != 0) || (isDevice q.pa && decide (size < 4)) then (misaligned, s)
    else if first = size then (.ok [q], s)
    else
      let (p2, s) := prepPart k a (va + first) (size - first) s
      match p2 with
      | .ok [q2] => if q2.type.isDev then (misaligned, s) else (.ok [q, q2], pmCount k 0x0D s)
      | other => (other, s)
  | other => (other, s)

/-- The checks of an ATOM access in the order of R116: range, alignment, both stages, memory type. -/
def prepareAtom (k : CoreId) (a : XKind) (va size : Nat) (s : State) : Prep × State :=
  if 2 ^ 48 ≤ va then (.exc (excAt 0x07 va (a = .write)), s)
  else if va % size ≠ 0 then (.exc (excAt 0x05 va (a = .write)), s)
  else
    let (p, s) := prepPart k a va size s
    match p with
    | .ok [q] => if q.type.isDev then (.exc (excAt 0x06 va (a = .write)), s) else (.ok [q], s)
    | other => (other, s)

/-- Data comparators on one piece (R595): the breakpoint of a match of ACT 1, or that a match of ACT 2 asks for a halt. -/
def dataCompareOne (k : CoreId) (kind : Nat) (p : Part) (s : State) : (Option Exc × Bool) × State :=
  let m := comparators k kind p.va (p.va + p.size - 1) s
  match m.1 with
  | .none => ((none, false), m.2)
  | .brk j => ((some (excPlain 0x10 (j + 1)), false), m.2.mapCore k (fun c => { c with cmpLast := some (j, c.pc) }))
  | .halt j => ((none, true), m.2.mapCore k (fun c => { c with haltReq := true, cmpLast := some (j, c.pc) }))

/-- Data comparators on every piece, up to the first that raises the breakpoint or asks for a halt. -/
def dataCompare (k : CoreId) (kind : Nat) (ps : List Part) (s : State) : Option Exc × Bool × State :=
  let r := ps.foldl (fun a p => if a.1.1.isSome || a.1.2 then a else dataCompareOne k kind p a.2) ((none, false), s)
  (r.1.1, r.1.2, r.2)

/-! ### Stores -/

/-- A posted-store error (R323). -/
def postedError (seat pa : Nat) (s : State) : State :=
  if seat = 0 then
    let s := s.countUp FAB_PECNT0_COUNT
    let s := if s.flag FAB_PELOG0_VALID then s else (s.put FAB_PELOG0_VALID 1).put FAB_PELOG0_ADDR pa
    raiseSrc srcFab s
  else
    let s := s.countUp FAB_PECNT_COUNT seat
    let s := if s.flag FAB_PELOG_VALID seat then s else (s.put FAB_PELOG_VALID 1 seat).put FAB_PELOG_ADDR pa seat
    raiseSrc (srcPosted seat) s

/-- An error response to a store of core k (R304). -/
def storeError (k : CoreId) (e : StoreEntry) (s : State) : State :=
  if e.type = .devicePosted then postedError e.seat e.pa s
  else s.mapCore k (fun c => if c.busErr.isNone then { c with busErr := some e.pa } else c)

/-- The request of a store to a remote device leaves (R544). -/
def requestStore (e : StoreEntry) (s : State) : State :=
  remoteSend (if e.type = .devicePosted then cellPw else cellWr) e.seat e.pa e.size e.data s

/-- Perform a store at its target. The second component is false while the request has to wait. -/
def performStore (k : CoreId) (e : StoreEntry) (s : State) : State × Bool :=
  if e.err then (storeError k e s, true)
  else if s.fenced e.pa e.size && !s.quenched e.seat then (storeError k e (fenceViolation e.seat s), true)
  else match e.type with
    | .normal =>
      if (s.l2Find (clusterOf k.val) e.seat (e.pa / 64)).isSome then (storeCached k e.seat e.pa e.size e.data s, true)
      else match s.memGate e.seat e.pa with
        | .ok => (storeCached k e.seat e.pa e.size e.data s, true)
        | .error => (storeError k e s, true)
        | .wait => (s, false)
    | .nonCacheable =>
      match s.memGate e.seat e.pa with
      | .ok => (cohWrite (some k.val) e.pa e.size e.data s, true)
      | .error => (storeError k e s, true)
      | .wait => (s, false)
    | _ =>
      let (r, s) := busWrite (some k.val) e.seat e.pa e.size e.data s
      match r with
      | .ok _ | .poison => (if e.sent then s else requestStore e s, true)
      | .error => (storeError k e s, true)
      | .wait => (s, false)

/-- Must entry `e` stay behind the earlier entry `b` (R283, R287, R288)? A posted store that has been sent has been
performed for the order of later strict accesses. -/
def storeBlocks (s : State) (b e : StoreEntry) : Bool :=
  b.pa / 64 == e.pa / 64 ||
  (e.type == .deviceStrict && b.type.isDev && !(b.type == .devicePosted && b.sent)) ||
  (e.type == .devicePosted && ((b.type == .devicePosted && s.orderTarget b.pa == s.orderTarget e.pa) ||
    b.type == .deviceStrict))

/-- Leave the store buffer in order until no entry satisfies `p`: entries that `p` names, each after those it must
follow. One pass over at most `n` entries. -/
def drainWhere (k : CoreId) (p : StoreEntry → Bool) : Nat → State → State
  | 0, s => s
  | n + 1, s =>
    let l := (s.core k).stores
    match l.findIdx? p with
    | none => s
    | some i =>
      match l[i]? with
      | none => s
      | some e =>
        -- the first entry of the buffer that `e` has to wait for goes first
        let j := ((l.take i).findIdx? (fun b => storeBlocks s b e)).getD i
        match l[j]? with
        | none => s
        | some f =>
          let (s', ok) := performStore k f (s.mapCore k (fun c => { c with stores := c.stores.eraseIdx j }))
          if ok then drainWhere k p n s' else s

/-- Every buffered store of a line leaves (R283). -/
def drainLine (k : CoreId) (line : Nat) (s : State) : State :=
  drainWhere k (fun e => e.pa / 64 == line) ((s.core k).stores.length * (s.core k).stores.length + 1) s

/-- Every buffered store leaves. -/
def drainAll (k : CoreId) (s : State) : State :=
  drainWhere k (fun _ => true) ((s.core k).stores.length + 1) s

/-- A DM access to Normal memory outside DSTORE, or to DRAM while DMLATD is 0, or to a device, takes its actual latency
(R158). -/
def dmVariable (k : CoreId) (p : Part) (s : State) : State :=
  if p.type.isDev || !(isDstore p.pa || isDram p.pa) || (isDram p.pa && s.get IBC_DMLATD_CYC k.val == 0) then
    s.put IBC_DMSTAT_VAR 1 k.val
  else s

/-- A store of core k: into the store buffer, or, in deterministic mode, straight to its target past L2 and directory
(R154, R158). False: it has to wait. -/
def issueStore (k : CoreId) (p : Part) (v : Nat) (s : State) : State × Bool :=
  let c := s.core k
  let e : StoreEntry := ⟨p.pa, p.size, v % 2 ^ (8 * p.size), p.type, c.seatid, false, false⟩
  if c.dm then
    let s := dmVariable k p s
    if p.type.isDev then performStore k e s
    else
      let (g, s) := storeGate c.seatid p.pa p.size s
      match g with
      | .ok => ((breakReservations (some k.val) (p.pa / 64) s).writeMem p.pa p.size e.data, true)
      | .error => (storeError k e s, true)
      | .wait => (s, false)
  else (s.mapCore k (fun c => { c with stores := c.stores ++ [e] }), true)

/-- The stores of all pieces of an access, lowest address first. -/
def issueStores (k : CoreId) : List Part → Nat → State → State × Bool
  | [], _, s => (s, true)
  | p :: ps, v, s =>
    let (s', ok) := issueStore k p v s
    if ok then issueStores k ps (v / 2 ^ (8 * p.size)) s' else (s, false)

/-! ### Loads -/

/-- What reading one piece gives: data, poison (R270), a request that leaves the cluster, an error, or a wait. -/
inductive LoadAns where
  | data (v : Nat)
  | poison
  | miss
  | error (pa : Nat)
  | wait
  deriving DecidableEq, Repr

/-- Record an uncorrected L2 error (R269, Table CACHE-3) and raise the cluster's source at the first (log 15). -/
def l2Uncorrected (cl kind : Nat) (e : L2Line) (addr fault : Nat) (s : State) : State :=
  let s := if s.flag CACHE_UELOG_VALID cl then s
    else raiseSrc (srcCache cl) (((((s.put CACHE_UELOG_VALID 1 cl).put CACHE_UELOG_KIND kind cl).put CACHE_UELOG_SEAT
      e.seat cl).put CACHE_UELOG_WAY e.way cl).put CACHE_UELOG_ADDR addr cl)
  reportFault fault e.seat cl (e.line * 64 % 2 ^ 32) s

/-- An error found in an L2 line that a read hits (Table CACHE-3). -/
def l2Upset (cl seat line : Nat) (u : Upset) (s : State) : State :=
  match s.l2Find cl seat line with
  | none => s
  | some e =>
    match u with
    | .single => s.countUp CACHE_ERR_CEL2 cl
    | .double =>
      if e.dirty then
        l2Uncorrected cl 1 e (line * 64) 0x0A
          (s.mapL2 cl (·.map (fun x => if x.seat == seat && x.line == line then { x with poison := 0xFF } else x)))
      else (l2Remove cl seat line false s).countUp CACHE_ERR_CEL2 cl
    | .tag =>
      if e.dirty then l2Uncorrected cl 2 e (line * 64 % 2 ^ 18) 0x0B (l2Remove cl seat line false s)
      else (l2Remove cl seat line false s).countUp CACHE_ERR_CEL2 cl
    | _ => s

/-- An error found in an L1 or victim line (Table CACHE-3): corrected, or the line or set invalidated. -/
def l1Upset (k : CoreId) (va line : Nat) (u : Upset) (s : State) : State :=
  match u with
  | .single => s.countUp CACHE_ERR_CEL1 (clusterOf k.val)
  | .double => (s.mapCore k (fun c => { c with
      l1d := c.l1d.filter (fun t => t.line != line), victim := c.victim.filter (· != line) })).countUp
        CACHE_ERR_CEL1 (clusterOf k.val)
  | .tag => (s.mapCore k (fun c => { c with
      l1d := c.l1d.filter (fun t => t.set != l1Set va), victim := c.victim.filter (· != line) })).countUp
        CACHE_ERR_CEL1 (clusterOf k.val)
  | _ => s

/-- Data of a line that L2 `cl` holds for the seat. -/
def l2Data (cl seat pa n : Nat) (s : State) : LoadAns :=
  match s.l2Find cl seat (pa / 64) with
  | some e => if e.poison &&& wordsTouched (pa % 64) n ≠ 0 then .poison else .data (lineGet e.data (pa % 64) n)
  | none => if s.poisoned pa n then .poison else .data (s.readMem pa n)

/-- Read one piece in Normal cacheable memory through L1D, victim cache and L2 (R245 to R250, R133). `arrived`: the
line's data has come from memory, so a miss fills now. -/
def readCached (k : CoreId) (p : Part) (u : Upset) (arrived : Bool) (s : State) : LoadAns × State :=
  let seat := (s.core k).seatid
  let cl := clusterOf k.val
  let line := p.pa / 64
  let s := drainLine k line s
  let inL1 (s : State) : Bool := (s.core k).l1d.any (fun t => t.set == l1Set p.va && t.line == line)
  let inV (s : State) : Bool := (s.core k).victim.contains line
  let s := if inL1 s || inV s then l1Upset k p.va line u s else s
  if inL1 s then (l2Data cl seat p.pa p.size s, s)
  else if inV s then
    let s := pmCount k 0x05 (pmCount k 0x06 s)
    (l2Data cl seat p.pa p.size s, l1dInstall k p.va line s)
  else
    let s := if arrived then s else pmCount k 0x05 s
    let s := if (s.l2Find cl seat line).isSome && !arrived then l2Upset cl seat line u s else s
    if (s.l2Find cl seat line).isSome then
      let ans := l2Data cl seat p.pa p.size s
      (ans, l1dInstall k p.va line s)
    else if !arrived then (.miss, pmCount k 0x07 s)
    else match s.memGate seat p.pa with
      | .wait => (.wait, s)
      | .error => (.error p.pa, s)
      | .ok =>
        let (held, s) := l2Fill cl seat line (p.va / 4096 % 4) s
        let ans := l2Data cl seat p.pa p.size s
        (ans, if held then prefetch k false p.va p.pa (l1dInstall k p.va line s) else s)

/-- Read one piece past the caches: non-cacheable memory at its home, a device, or the deterministic path. -/
def readUncached (k : CoreId) (p : Part) (u : Upset) (s : State) : LoadAns × State :=
  let seat := (s.core k).seatid
  if p.type.isDev then
    let (r, s) := busRead seat p.pa p.size u false s
    (match r with
      | .ok v => .data v
      | .poison => .poison
      | .error => .error p.pa
      | .wait => .wait, s)
  else match s.memGate seat p.pa with
    | .wait => (.wait, s)
    | .error => (.error p.pa, s)
    | .ok =>
      let s := memUpset p.pa false u s
      let s := if (s.core k).dm then s else mscRead seat (p.pa / 64) (recallLine (p.pa / 64) s)
      (if s.poisoned p.pa p.size then .poison else .data (s.readMem p.pa p.size), s)

/-- Read one piece. `arrived` as for `readCached`; outside deterministic mode a request that leaves the cluster first
answers `miss`. -/
def readPart (k : CoreId) (p : Part) (u : Upset) (arrived : Bool) (s : State) : LoadAns × State :=
  let c := s.core k
  if c.dm then readUncached k p u (remoteSend cellRd c.seatid p.pa p.size 0 (dmVariable k p s))
  else if p.type = .normal && (s.ownedWays (clusterOf k.val) c.seatid).length != 0 then
    let s := if arrived then memUpset p.pa false u s else s
    readCached k p (if arrived then .none else u) arrived s
  else
    let s := drainLine k (p.pa / 64) s
    if (s.core k).stores.any (fun e => e.pa / 64 == p.pa / 64) then (.wait, s)
    else if arrived then readUncached k p u s
    else (.miss, remoteSend cellRd c.seatid p.pa p.size 0 s)

/-- Read every piece, lowest address first. -/
def readParts (k : CoreId) (u : Upset) (arrived : Bool) : List Part → State → LoadAns × State
  | [], s => (.data 0, s)
  | p :: ps, s =>
    let (a, s) := readPart k p u arrived s
    match a with
    | .data v =>
      let (b, s) := readParts k u arrived ps s
      match b with
      | .data w => (.data (v + w * 2 ^ (8 * p.size)), s)
      | other => (other, s)
    | other => (other, s)

/-- May the device pieces of a load be sent now: no earlier strict store waits, and no posted store is still in the
buffer (R287)? -/
def devLoadReady (k : CoreId) (ps : List Part) (s : State) : Bool :=
  !ps.any (fun p => p.type.isDev) ||
    !(s.core k).stores.any (fun e => e.type == .deviceStrict || (e.type == .devicePosted && !e.sent))

/-! ### Fetch -/

/-- Outcome of fetching an instruction. -/
inductive FetchAns where
  | ok
  | exc (e : Exc)
  | wait

/-- Fetch the instruction at `va` for core k: range (R102), both stages, the DSTORE rule of deterministic mode (R155),
then L1I and L2, or memory past them. -/
def fetchAt (k : CoreId) (va : Nat) (s : State) : FetchAns × State :=
  if 2 ^ 48 ≤ va then (.exc (excAt 0x07 va), s)
  else
    let (r, s) := translate k .fetch va s
    match r with
    | .wait => (.wait, s)
    | .fault code info fpa => let (e, s) := xlExc k .fetch va code info fpa s; (.exc e, s)
    | .ok e =>
      let c := s.core k
      let pa := e.phys va
      let cl := clusterOf k.val
      let line := pa / 64
      let answer (a : LoadAns) : FetchAns := match a with
        | .poison => .exc (machineCheck 0x03)
        | .error q => .exc (excAt 0x0C q)
        | .wait => .wait
        | _ => .ok
      if c.dm then
        if !isDstore pa then (.exc (excAt 0x11 va), s)
        else
          let (a, s) := readUncached k ⟨va, pa, 4, .nonCacheable, true⟩ .none s
          (answer a, s)
      else if e.type = .normal && (s.ownedWays cl c.seatid).length != 0 then
        if c.l1i.any (fun t => t.set == l1Set va && t.line == line) then
          (answer (l2Data cl c.seatid pa 4 s), s)
        else
          let s := pmCount k 0x04 s
          if (s.l2Find cl c.seatid line).isSome then
            (answer (l2Data cl c.seatid pa 4 s), l1iInstall k va line s)
          else match s.memGate c.seatid pa with
            | .wait => (.wait, s)
            | .error => (.exc (excAt 0x0C pa), s)
            | .ok =>
              let s := pmCount k 0x07 s
              let (held, s) := l2Fill cl c.seatid line (va / 4096 % 4) s
              let a := l2Data cl c.seatid pa 4 s
              (answer a, if held then prefetch k true va pa (l1iInstall k va line s) else s)
      else
        let (a, s) := readUncached k ⟨va, pa, 4, e.type, e.g⟩ .none s
        (answer a, s)

end Sys2Proof.Machine
end

