-- ==== Sys2Proof/Machine/Trap.lean ====
section
/-!
DEFINITION. Taking an exception (R175 to R191): the one entry operation, double faults, the spill engine and its
faults (R112, R188), completion of long operations and their exceptions (R135 to R137), and the choice among pending
events (R179, R180).
-/

namespace Sys2Proof.Machine

/-! ### The spill engine -/

/-- Oldest resident window, and the window below it, which a fill restores (R83, R112). -/
def Core.oldestWindow (c : Core) : Nat := (c.cwp + 13 - c.res) % 12
def Core.fillWindow (c : Core) : Nat := (c.cwp + 12 - c.res) % 12

/-- Record of window w: L0 to L11, then A0 to A3, little-endian, as a number of 128 bytes (R112). -/
def Core.record (c : Core) (w : Nat) : Nat :=
  let v := c.win[w]!
  (List.range 16).foldr (fun i acc => (v[(i + 4) % 16]!).toNat + 2 ^ 64 * acc) 0

/-- A window from its record. -/
def windowOf (r : Nat) : Vector Word64 16 :=
  Vector.ofFn (fun (i : Fin 16) => BitVec.ofNat 64 (r / 2 ^ (64 * ((i.val + 12) % 16))))

/-- Outcome of a spill or fill: done, refused with the code of the underlying fault, or it waits. -/
inductive EngineAns where
  | ok
  | fault (code addr : Nat)
  | wait
  deriving DecidableEq, Repr

/-- The two lines of a record at `va`, translated once (a record lies in one page). -/
def enginePrep (k : CoreId) (a : XKind) (va : Nat) (s : State) : EngineAns × List Part × State :=
  let (p, s) := prepPart k a va 64 s
  match p with
  | .ok [q] =>
    if q.type.isDev then (.fault 0x0B va, [], s)
    else (.ok, [q, { q with va := q.va + 64, pa := q.pa + 64 }], s)
  | .ok _ => (.ok, [], s)
  | .exc e => (.fault e.code va, [], s)
  | .wait => (.wait, [], s)

/-- The record is stored at `va`, once its lines are translated. -/
def spillStore (k : CoreId) (va : Nat) (s : State) (r : EngineAns × List Part × State) : EngineAns × State :=
  let c := s.core k
  match r with
  | (.ok, ps, s1) =>
    let (s2, ok) := issueStores k ps (c.record c.oldestWindow) s1
    if ok then
      (.ok, pmCount k 0x0A (s2.mapCore k (fun c => { c with wspill := BitVec.ofNat 64 va, res := c.res - 1 })))
    else (.wait, s)
  | (other, _, s1) => (other, s1)

/-- Spill the oldest resident window: WSPILL goes down by 128, the record is stored, RES goes down (R112). A spill that
fails changes neither (R188). -/
def spillOne (k : CoreId) (s : State) : EngineAns × State :=
  let va := (2 ^ 48 - 128 + (s.core k).wspill.toNat) % 2 ^ 48
  spillStore k va s (enginePrep k .write va s)

/-- The window is filled with what its record at `va` held. -/
def fillWith (k : CoreId) (va : Nat) (s : State) (r : LoadAns × State) : EngineAns × State :=
  match r with
  | (.data v, s2) =>
    (.ok, pmCount k 0x0B (s2.mapCore k (fun c => { c with
      win := c.win.set! c.fillWindow (windowOf v)
      wspill := BitVec.ofNat 64 ((va + 128) % 2 ^ 48), res := c.res + 1 })))
  | (.poison, s2) => (.fault 0x15 va, s2)
  | (.error _, s2) => (.fault 0x0C va, s2)
  | _ => (.wait, s)

/-- The record at `va` is loaded, once its lines are translated. -/
def fillLoad (k : CoreId) (va : Nat) (s : State) (r : EngineAns × List Part × State) : EngineAns × State :=
  match r with
  | (.ok, ps, s1) => fillWith k va s (readParts k .none true ps s1)
  | (other, _, s1) => (other, s1)

/-- Fill the window below the oldest resident one from the record at WSPILL (R112). -/
def fillOne (k : CoreId) (s : State) : EngineAns × State :=
  let va := (s.core k).wspill.toNat
  fillLoad k va s (enginePrep k .read va s)

/-! ### Long operations -/

/-- A section completes: the result is written where the operation was issued, flags rise, and an exception is
detected (R97, R135, R87). -/
def Core.finish (c : Core) (o : LongOp) : Core :=
  let c := if o.writes then c.setP o.dest o.result else c
  let c := { c with fstat := c.fstat ||| BitVec.ofNat 64 (o.flags % 32) }
  if o.divZero then { c with longExcs := c.longExcs ++ [⟨0x0D, 0, o.pc, o.order⟩] }
  else if (o.flags % 32 &&& slice c.fstat.toNat 8 5) ≠ 0 then
    { c with longExcs := c.longExcs ++ [⟨0x0E, o.flags % 32, o.pc, o.order⟩] }
  else c

/-- The integer section completes. -/
def Core.finishInt (c : Core) : Core :=
  match c.longInt with
  | some o => { c.finish o with longInt := none }
  | none => c
/-- The floating-point section completes. -/
def Core.finishFp (c : Core) : Core :=
  match c.longFp with
  | some o => { c.finish o with longFp := none }
  | none => c
/-- Both sections complete, the one older in program order first (R137). -/
def Core.settle (c : Core) : Core :=
  match c.longInt, c.longFp with
  | some a, some b => if a.order < b.order then c.finishInt.finishFp else c.finishFp.finishInt
  | _, _ => c.finishInt.finishFp

/-! ### Entry -/

/-- Vector offset of a cause (Table TRAP-2). -/
def vectorOffset (code : Nat) : Nat :=
  match code with
  | 0x03 | 0x0F => 0x0000
  | 0x13 | 0x14 => 0x0200
  | 0x10 => 0x0300
  | 0x15 => 0x0400
  | 0x30 => 0x0500
  | _ => if 0x20 ≤ code ∧ code ≤ 0x2F then 0x1000 + (code - 0x20) * 0x100 else 0x0100

/-- Does the cause go to the Monitor table from level `pl` (R178)? -/
def toMonitor (pl code : Nat) : Bool := pl == 3 || code == 0x03 || code == 0x15 || code == 0x30
/-- Is the cause's vector marked "into TW"? -/
def intoTw (code : Nat) : Bool := code == 0x13 || code == 0x14 || code == 0x30

/-- Address of the vector of a cause. -/
def Core.vector (c : Core) (code : Nat) : Nat :=
  (if toMonitor c.pl code then slice c.tvec.toNat 32 32 else slice c.tvec.toNat 0 32) * 0x10000 + vectorOffset code

/-- ECAUSE (R178). -/
def ecauseWord (e : Exc) (tw : Bool) : Word64 :=
  BitVec.ofNat 64 (e.info % 2 ^ 16 * 2 ^ 24 + bit e.st * 2 ^ 18 + bit e.imp * 2 ^ 17 + bit tw * 2 ^ 16 + e.code)

/-- RPCNT after an event between iterations or in one (R106). -/
def Core.repCount (c : Core) : Word64 :=
  match c.rep with
  | some r => 0x8000000000000000 ||| BitVec.ofNat 64 (r.left % 65536)
  | none => c.rpcnt

def epcMask : Word64 := 0x0000FFFFFFFFFFFC

/-- A double fault stops the core (R191). -/
def doubleFault (k : CoreId) (epc : Word64) (e : Exc) (s : State) : State :=
  let s := s.mapCore k (fun c => { c with
    epc := epc &&& epcMask
    ecause := ecauseWord { e with code := 0x3F, info := e.code } false
    eaddr := e.eaddr.getD c.eaddr
    rpcnt := c.repCount, rep := none, load := none, fillWait := false, micro := none
    run := .stopped })
  reportFault 0x03 (s.core k).seatid k.val e.code s

/-- The registers after an entry (R181 steps 2 to 5). -/
def Core.entered (c : Core) (epc : Word64) (e : Exc) : Core :=
  let tw := intoTw e.code
  let pl := if toMonitor c.pl e.code then 3 else 1
  let c' := (((c.setPs 8 2 c.pl).setPs 5 1 (bit c.ie)).setPs 4 1 0).setPs 6 2 pl
  let c' := if tw then c'.setPs 10 1 1 else { c' with cwp := (c.cwp + 1) % 12, res := c.res + 1 }
  { c' with
    epc := epc &&& epcMask, ecause := ecauseWord e tw, eaddr := e.eaddr.getD c.eaddr
    rpcnt := c.repCount, rep := none, reservation := none, afterReti := false, load := none, fillWait := false
    micro := none, cmpSkip := none, pc := BitVec.ofNat 64 (c.vector e.code) }

/-- Step 6: the vector is fetched; a fault there is a double fault (R182). -/
def fetchVector (k : CoreId) (s : State) : State :=
  let pc := (s.core k).pc
  let (f, s) := fetchAt k pc.toNat s
  match f with
  | .exc e => doubleFault k pc e s
  | _ => s

/-- An entry (R181), the window for it being there. -/
def commitEntry (k : CoreId) (epc : Word64) (e : Exc) (s : State) : State :=
  let s := s.mapCore k (fun c => c.landAll.entered epc e)
  fetchVector k (traceExc k e.code (s.core k).pc.toNat s)

/-- Take an exception or event with its EPC: a double fault in the trap window or for a machine check at Monitor level
(R179, R190); with RES = 11, one spill first, whose failure is taken instead (R184, R188). -/
def takeEntry (k : CoreId) (epc : Word64) (e : Exc) (s : State) : State :=
  let c := s.core k
  if c.twOn || (e.code == 0x15 && c.pl == 3) then doubleFault k epc e (s.mapCore k Core.landAll)
  else if intoTw e.code || decide (c.res < 11) then commitEntry k epc e s
  else
    let (a, s1) := spillOne k s
    match a with
    | .ok => commitEntry k epc e s1
    | .fault code va =>
      if e.code = 0x15 then doubleFault k epc e (s1.mapCore k Core.landAll)
      else commitEntry k c.oldest ⟨0x13, code, some (BitVec.ofNat 64 va), true, true⟩ s1
    | .wait => s

/-- A spill or fill fault (R188), taken at the oldest unretired instruction. -/
def windowFault (k : CoreId) (code underlying va : Nat) (s : State) : State :=
  let imp := code == 0x13
  takeEntry k (s.core k).oldest ⟨code, underlying, some (BitVec.ofNat 64 va), code == 0x13, imp⟩ s

/-! ### Pending events -/

/-- The exception that the detected long-operation exceptions make (R135, R136), and LXA. -/
def longEntry (l : List LongExc) : Option (Exc × Word64) :=
  match l with
  | [] => none
  | [a] => some (⟨a.code, a.info, none, false, true⟩, a.pc)
  | a :: b :: _ =>
    let (o, y) := if a.order < b.order then (a, b) else (b, a)
    some (⟨0x12, o.code * 256 + y.code, some y.pc, false, true⟩, o.pc)

/-- Take the long-operation exceptions detected so far. -/
def takeLong (k : CoreId) (s : State) : State :=
  match longEntry (s.core k).longExcs with
  | none => s
  | some (e, lxa) =>
    takeEntry k (s.core k).oldest e (s.mapCore k (fun c => { c with longExcs := [], lxa := lxa &&& 0xFFFFFFFFFFFF }))

/-- Is the core at a retirement boundary: no device load has been sent (R184), no REP with I = 0 is under way, no
customer routine runs? -/
def Core.atBoundary (c : Core) : Bool :=
  (match c.load with
    | some l => !l.parts.any (fun p => p.type.isDev)
    | none => true) &&
  (match c.rep with
    | some r => r.intr
    | none => true) && c.micro.isNone

/-- At a boundary with both sections idle, detected long-operation exceptions are taken. -/
def takeLongIfReady (k : CoreId) (s : State) : State :=
  let c := s.core k
  if c.longExcs.length ≠ 0 && c.longInt.isNone && c.longFp.isNone && c.atBoundary && c.run == .running && !c.haltReq &&
      s.cState k.val == 0 then takeLong k s
  else s

/-- A held event (Table TRAP-3). -/
inductive HeldEvent where
  | seatSwitch (seat : Nat)
  | busError (pa : Nat)
  | interrupt (prio : Nat)
  deriving DecidableEq, Repr

/-- Priority of the interrupt that core k sees: the ICU's signal, or one it sampled before it was withdrawn (R416). -/
def State.seenInterrupt (s : State) (k : CoreId) : Option Nat :=
  match s.signalPrio k.val with
  | some p => some p
  | none => (s.stale.find? (fun e => e.1 == k.val)).map (·.2)

/-- The held event that R179 allows at level `pl` with interrupt enable `ie` and TW = 0, first in the order of
R180. A debugger's step takes no interrupt and no seat-switch event unless STEPIE is 1 (R592). -/
def State.heldEvent (s : State) (k : CoreId) (pl : Nat) (ie : Bool) : Option HeldEvent :=
  let c := s.core k
  let quiet := c.stepping && !s.flag DBG_CCTL_STEPIE k.val
  match (if c.switching || quiet then none else c.switchEv) with
  | some e =>
    if pl = 0 ∨ (pl = 1 ∧ ie) then some (.seatSwitch e.seat)
    else match c.busErr with
      | some a => if pl = 0 ∨ ie then some (.busError a) else none
      | none => none
  | none =>
    match c.busErr with
    | some a =>
      if pl = 0 ∨ ie then some (.busError a)
      else none
    | none =>
      if ie && pl != 3 && !quiet then (s.seenInterrupt k).map .interrupt else none

/-- The exception of a held event, and its effect on what was pending. -/
def heldExc : HeldEvent → Exc
  | .seatSwitch seat => ⟨0x30, seat, none, false, false⟩
  | .busError pa => ⟨0x0C, 0, some (BitVec.ofNat 64 pa), true, true⟩
  | .interrupt p => ⟨0x20 + p, 0, none, false, false⟩

/-- The event is no longer pending once taken; a seat-switch event stays until SWSEAT (R122). -/
def consumeHeld (k : CoreId) (e : HeldEvent) (s : State) : State :=
  match e with
  | .seatSwitch _ => s.mapCore k (fun c => { c with switching := true })
  | .busError _ => s.mapCore k (fun c => { c with busErr := none })
  | .interrupt _ => { s with stale := s.stale.filter (fun x => x.1 != k.val) }

/-- Take a held event that `want` accepts at the next boundary: the waits end first (R137, R184), a long-operation
exception detected in them goes first, and the event is taken only if R180 chooses it. -/
def takeHeld (k : CoreId) (want : HeldEvent → Bool) (s : State) : State :=
  let c := s.core k
  if !s.coreRuns k || !c.atBoundary || c.twOn || c.haltReq then s
  else match s.heldEvent k c.pl c.ie with
    | none => s
    | some e =>
      if want e then
        let s := s.mapCore k Core.settle
        if (s.core k).longExcs.length ≠ 0 then takeLong k s
        else takeEntry k (s.core k).oldest (heldExc e) (consumeHeld k e s)
      else s

end Sys2Proof.Machine
end

