-- ==== Sys2Proof/Machine/Runner.lean ====
section
/-!
DEFINITION. Executing one core instruction: when a core issues (R127, R132, R590), fetch, the checks of R90 and R85,
the condition (R91, R105), register parity (R174), the first windowed access with RES = 0 (R113), the repeat latch
(R103 to R107), retirement (R128), and raising an exception of the instruction (R180, R181).
-/

namespace Sys2Proof

/-- The issue without its parity operand, as the repeat latch keeps it. -/
def Issue.clean (i : Issue) : Issue := { i with par := false }
/-- The same for an XT instruction. -/
def XIssue.clean (i : XIssue) : XIssue := { i with par := false }

end Sys2Proof

namespace Sys2Proof.Machine

/-- May core k issue an instruction now? It runs in C0, waits for no load, no window fill, no halt and no routine, and
no detected long-operation exception waits for the other section (R136), and in deterministic mode no spill is due
(Table PIPE-9). -/
def State.mayIssue (s : State) (k : CoreId) : Bool :=
  let c := s.core k
  s.coreRuns k && c.load.isNone && !c.fillWait && !c.haltReq && c.micro.isNone &&
    (c.longExcs.length == 0 || !c.atBoundary) && !(c.dm && decide (11 ≤ c.res) && !c.twOn)

/-! ### Boundaries -/

/-- A core enters debug halt at its boundary (R589): the waits end and the reservation is cleared. With TOEN it raises its
channel (R598), and a locked pair in FIELD raises fault 0x18 (R591). -/
def enterHalt (k : CoreId) (s : State) : State :=
  let s := s.mapCore k (fun c => { c.settle.landAll with
    reservation := none, run := .halted, stepping := false, haltReq := false })
  let s := s.put DBG_CCTL_HALTED 1 k.val
  let s := if s.vddDbg && s.flag DBG_CCTL_TOEN k.val then { s with channels := s.channels ++ [s.get DBG_CCTL_TOCH k.val] } else s
  if s.lifeCycle == lcField && s.pairLocked (k.val / 2) then reportFault 0x18 (s.coreOwner k.val) k.val 0 s else s

/-- After a step's boundary the core halts again (R592). -/
def stepEnds (k : CoreId) (s : State) : State :=
  let c := s.core k
  if c.stepping && c.run == .running && c.load.isNone && !c.fillWait && c.atBoundary then enterHalt k s else s

/-- What every boundary after an instruction does: detected long-operation exceptions are taken, and a step ends. -/
def boundary (k : CoreId) (s : State) : State := stepEnds k (takeLongIfReady k s)

/-! ### Retirement -/

/-- The next instruction after a retired one: behind it, or, in a repeat, the next iteration (R103, R107). -/
def Core.advance (c : Core) : Core :=
  match c.rep with
  | none => { c with pc := c.pc + 4 }
  | some r =>
    if r.left ≤ 1 then { c with rep := none, rpcnt := c.rpcnt &&& 0x7FFFFFFFFFFFFFFF, pc := c.pc + 4 }
    else { c with rep := some { r with left := r.left - 1 } }

/-- Retirement behind the instruction. -/
def retire (k : CoreId) (s : State) : State :=
  let s := pmCount k 0x01 s
  let s := if (s.core k).rep.isSome then pmCount k 0x0E s else s
  let s := s.mapCore k (fun c => { c.advance with afterReti := false, cmpSkip := none })
  boundary k { s with stale := s.stale.filter (fun e => e.1 != k.val) }

/-- Retirement with a transfer of control. -/
def retireTo (k : CoreId) (t : Word64) (s : State) : State :=
  let s := (pmCount k 0x01 s).mapCore k (fun c => { c with pc := t, afterReti := false, cmpSkip := none })
  boundary k { s with stale := s.stale.filter (fun e => e.1 != k.val) }

/-- Retirement of RETI and SWSEAT: the next instruction is the first after it (R107), and the comparator that stopped
at the address does not match it (R592). -/
def retireRet (k : CoreId) (t : Word64) (s : State) : State :=
  let s := (pmCount k 0x01 s).mapCore k (fun c => { c with
    pc := t, afterReti := true
    cmpSkip := match c.cmpLast with
      | some (j, a) => if a = t then some j else none
      | none => none })
  boundary k { s with stale := s.stale.filter (fun e => e.1 != k.val) }

/-! ### Exceptions of an instruction -/

/-- Raise an exception at the oldest instruction (R180): the long-operation sections finish first (R137), and an event
of higher rank is taken instead. `s0` is the state before the instruction, `s` the one its checks leave. -/
def raiseExc (k : CoreId) (epc : Word64) (e : Exc) (s0 s : State) : State :=
  let t0 := s0.mapCore k Core.settle
  let c := t0.core k
  if e.code ≠ 0x15 && c.longExcs.length ≠ 0 && c.atBoundary then stepEnds k (takeLong k t0)
  else
    let held := if e.code = 0x15 || c.twOn || !c.atBoundary then none else t0.heldEvent k c.pl c.ie
    match held with
    | some h => stepEnds k (takeEntry k c.oldest (heldExc h) (consumeHeld k h t0))
    | none => stepEnds k (takeEntry k epc e (s.mapCore k Core.settle))

/-- The state after an instruction's act. -/
def finishAct (k : CoreId) (s0 : State) (a : Act) : State :=
  match a with
  | .done s => retire k s
  | .jump t s => retireTo k t s
  | .ret t s => retireRet k t s
  | .exc e s => raiseExc k (s0.core k).oldest e s0 s
  | .excAfter e s => raiseExc k ((s0.core k).pc + 4) e s0 s
  | .stall s => s

/-! ### Microcode parity (R198) -/

/-- A parity error in the micro-word that core k fetches at `a`: the routine is abandoned, MCS.PERR records the first
error, the FCU hears of it, and a machine check is raised. A word of the patch or customer region stays faulty in the
cluster's replica until MCS rewrites it. -/
def microParity (k : CoreId) (a : Nat) (s : State) : Act :=
  let cl := clusterOf k.val
  let base := decide (a < 0x3000)
  let s := if s.flag MCS_PERR_VALID then s
    else (((s.put MCS_PERR_VALID 1).put MCS_PERR_PERM (bit base)).put MCS_PERR_CLU cl).put MCS_PERR_ADDR a
  let s := if base || s.mcsBad.contains (cl, a) then s else { s with mcsBad := s.mcsBad ++ [(cl, a)] }
  let s := reportFault (if base then 0x09 else 0x08) (if base then 0 else (s.core k).seatid) k.val 0 s
  .exc (machineCheck 0x02) (s.mapCore k (fun c => { c with bank := none }))

/-- The body of a microcoded instruction; `mp` names the micro-word whose parity is found wrong. -/
def microBody (k : CoreId) (mp : Option (BitVec 14)) (body : State → Act) (s : State) : Act :=
  match mp with
  | some a => microParity k a.toNat s
  | none => body s

/-! ### One instruction -/

/-- What the runner needs to know of an instruction: the latch key, its condition (none: XT), the parity operand,
whether its fields are legal (R90), its lowest level, the registers it reads and writes, whether REP may repeat
it (R104), and whether it is a branch, whose outcome the trace records (Table DBG-4, log 28). -/
structure Issued where
  core : CoreId
  key : Instr
  cond : Option (Fin 15)
  par : Bool
  legal : Bool
  level : Nat
  regs : List (Fin 32)
  repOk : Bool
  branch : Bool := false

/-- Does the instruction's condition hold (R91, R92)? -/
def Issued.holds (d : Issued) (s : State) : Bool :=
  match d.cond with
  | none => true
  | some c => condHolds c (s.core d.core).flags

/-- The ATOM of a conditional branch. -/
def Issued.atom (d : Issued) (taken : Bool) (s : State) : State :=
  if d.branch && d.cond != some 0 then traceAtom d.core taken s else s

/-- The checks before the effect: R90, the level (R85), the condition, parity, the registers. -/
def checked (d : Issued) (s : State) (body : State → Act) : Act :=
  let k := d.core
  let c := s.core k
  if !d.legal then .exc (excPlain 0x01) s
  else if c.pl < d.level then .exc (excPlain 0x02) s
  else if !d.holds s then .done (d.atom false s)
  else
    let (m, s) := comparators k 0 c.pc.toNat c.pc.toNat s
    match m with
    | .brk j => .exc (excPlain 0x10 (j + 1)) (s.mapCore k (fun c => { c with cmpLast := some (j, c.pc) }))
    | .halt j => .stall (s.mapCore k (fun c => { c with haltReq := true, cmpLast := some (j, c.pc) }))
    | .none =>
      if d.par then .exc (machineCheck 0x01) (reportFault 0x07 c.seatid k.val 0 s)
      else if c.awaited d.regs then .stall s
      else if c.res == 0 && d.regs.any c.windowed then .stall (s.mapCore k (fun c => { c with fillWait := true }))
      else body (d.atom true s)

/-- The repeated instruction is issued for the first time: the latch takes it, and RPCNT.VALID falls unless the
count came from RPCNT (R107). -/
def latchRep (k : CoreId) (r : RepState) (key : Instr) (s : State) : State :=
  s.mapCore k (fun c => { c with
    rep := some { r with latch := some key }
    rpcnt := if r.fromRpcnt then c.rpcnt else c.rpcnt &&& 0x7FFFFFFFFFFFFFFF })

/-- A fault of the prefix itself: the repeat is off and execution stands at the prefix. -/
def atPrefix (k : CoreId) (r : RepState) (s : State) : State :=
  s.mapCore k (fun c => { c with rep := none, pc := r.prefixPc })

/-- Core `d.core` executes one instruction. An instruction that cannot issue now changes nothing. -/
def runInstr (d : Issued) (body : State → Act) (s : State) : Result :=
  let k := d.core
  let c := s.core k
  if !s.mayIssue k then .next s
  else match c.rep with
    | some ⟨_, _, _, _, some key⟩ =>
      if key = d.key then .next (finishAct k s (checked d s body)) else .next s
    | some r =>
      let (f, s1) := fetchAt k c.pc.toNat s
      match f with
      | .wait => .next s
      | .exc e =>
        let s1 := (atPrefix k r s1).mapCore k (fun c => { c with rpcnt := c.rpcnt &&& 0x7FFFFFFFFFFFFFFF })
        .next (finishAct k s1 (.exc e s1))
      | .ok =>
        if !d.repOk then
          let s1 := atPrefix k r s1
          .next (finishAct k s1 (.exc (excPlain 0x01) s1))
        else
          let s1 := latchRep k r d.key s1
          .next (finishAct k s1 (checked d s1 body))
    | none =>
      let (f, s1) := fetchAt k c.pc.toNat s
      match f with
      | .wait => .next s
      | .exc e => .next (finishAct k s1 (.exc e s1))
      | .ok => .next (finishAct k s1 (checked d s1 body))

end Sys2Proof.Machine
end

