-- ==== Sys2Proof/Machine/LoadStore.lean ====
section
/-!
DEFINITION. Loads, stores, LDST, MCPY (R100 to R102, R150 to R153), exclusives and atomics (R114 to R116, R297), the
response of an outstanding load (R133, R304), and what leaves the store buffer (R282 to R288).
-/

namespace Sys2Proof.Machine

/-! ### Using loaded data -/

/-- Outcome of the store half of an instruction. -/
inductive StoreAns where
  | ok (s : State)
  | exc (e : Exc) (s : State)
  | stall (s : State)

/-- A store of `size` bytes at `va` with all its checks (R150, R152, R595), into the store buffer. -/
def storeAccess (k : CoreId) (va : Word64) (size v : Nat) (s0 : State) : StoreAns :=
  let (p, s) := prepare k .write va.toNat size s0
  match p with
  | .exc e => .exc e s
  | .wait => .stall s0
  | .ok ps =>
    let (b, h, s) := dataCompare k 2 ps s
    match b with
    | some e => .exc e s
    | none =>
      if h then .stall s
      else
        let (s, ok) := issueStores k ps v s
        if ok then .ok s else .stall s0

/-- A store performed at once at its target, behind the core's own buffered stores of the line (R283). -/
def storeNow (k : CoreId) (p : Part) (v : Nat) (s : State) : State × Bool :=
  let c := s.core k
  if c.dm then issueStore k p v s
  else
    let s := drainLine k (p.pa / 64) s
    performStore k ⟨p.pa, p.size, v % 2 ^ (8 * p.size), p.type, c.seatid, false, false⟩ s

/-- The bytes `v` have arrived for a load: what the instruction does with them. -/
def useLoaded (k : CoreId) (use : LoadUse) (ps : List Part) (v : Nat) (s : State) : Act :=
  match use with
  | .reg rd signed size base =>
    .done (s.mapCore k (fun c =>
      let c := match base with
        | some (b, w) => c.setP b w
        | none => c
      c.setP rd (extend signed size v)))
  | .ldx rd size =>
    match ps with
    | p :: _ =>
      let c := s.core k
      let cached := !c.dm && c.l1d.any (fun t => t.line == p.pa / 64)
      .done (s.mapCore k (fun c =>
        { c.setP rd (extend false size v) with reservation := some ⟨p.pa, size, cached⟩ }))
    | [] => .stall s
  | .swap rd data add size =>
    match ps with
    | p :: _ =>
      let w := if add then v + data.toNat else data.toNat
      let (s', ok) := storeNow k p w s
      if ok then .done (s'.mapCore k (fun c => c.setP rd (extend false size v))) else .stall s
    | [] => .stall s
  | .mcpy rd rs1 size =>
    match storeAccess k ((s.core k).getP rd) size v s with
    | .ok s => .done (s.mapCore k (fun c =>
        let d := BitVec.ofNat 64 size
        let c' := c.setP rd (c.getP rd + d)
        c'.setP rs1 (c.getP rs1 + d)))
    | .exc e s => .exc e s
    | .stall s => .stall s

/-- Read the pieces of a load. A request that leaves the cluster makes the load wait for its response (R133). -/
def loadParts (k : CoreId) (use : LoadUse) (ps : List Part) (u : Upset) (arrived : Bool) (s0 : State) : Act :=
  let (a, s) := readParts k u arrived ps s0
  match a with
  | .data v => useLoaded k use ps v s
  | .poison => .exc (machineCheck 0x03) s
  | .error pa => .exc (excAt 0x0C pa) s
  | .miss => .stall (s.mapCore k (fun c => { c with load := some ⟨use, ps, c.seatid, false, false⟩ }))
  | .wait => .stall s0

/-- After the checks of a load: comparators, the order of device accesses, then the read. -/
def loadChecked (k : CoreId) (use : LoadUse) (u : Upset) (p : Prep) (s0 s : State) : Act :=
  match p with
  | .exc e => .exc e s
  | .wait => .stall s0
  | .ok ps =>
    let (b, h, s) := dataCompare k 1 ps s
    match b with
    | some e => .exc e s
    | none => if h then .stall s else if devLoadReady k ps s then loadParts k use ps u false s else .stall s0

/-- A load access of `size` bytes at `va`. -/
def loadAccess (k : CoreId) (use : LoadUse) (va : Word64) (size : Nat) (u : Upset) (s0 : State) : Act :=
  let s := if u = .tlb then tlbParity k false va.toNat s0 else s0
  let (p, s) := prepare k .read va.toNat size s
  loadChecked k use u p s0 s

/-! ### Immediate forms -/

/-- A load from rs1 + sext(imm12). -/
def loadInstr (key : Instr) (signed : Bool) (size : Nat) (i : Issue) (a : IArgs) (u : Upset) (s : State) : Result :=
  runInstr ⟨i.core, key, some i.cond, i.par, true, 0, [a.rd, a.rs1], true, false⟩
    (fun s =>
      let c := s.core i.core
      loadAccess i.core (.reg (c.regAt a.rd) signed size none) (c.reg a.rs1 + simm a.imm) size u s) s

/-- A store of rd to rs1 + sext(imm12). -/
def storeInstr (key : Instr) (size : Nat) (i : Issue) (a : IArgs) (s : State) : Result :=
  runInstr ⟨i.core, key, some i.cond, i.par, true, 0, [a.rd, a.rs1], true, false⟩
    (fun s =>
      let c := s.core i.core
      match storeAccess i.core (c.reg a.rs1 + simm a.imm) size (c.reg a.rd).toNat s with
      | .ok s => .done s
      | .exc e s => .exc e s
      | .stall s => .stall s) s

/-- LDB: byte, sign-extended. -/
def execLdb (i : Issue) (a : IArgs) (u : Upset) (s : State) : Result :=
  loadInstr (.ldb i.clean a .none) true 1 i a u s
/-- LDBU: byte, zero-extended. -/
def execLdbu (i : Issue) (a : IArgs) (u : Upset) (s : State) : Result :=
  loadInstr (.ldbu i.clean a .none) false 1 i a u s
/-- LDH: halfword, sign-extended. -/
def execLdh (i : Issue) (a : IArgs) (u : Upset) (s : State) : Result :=
  loadInstr (.ldh i.clean a .none) true 2 i a u s
/-- LDHU: halfword, zero-extended. -/
def execLdhu (i : Issue) (a : IArgs) (u : Upset) (s : State) : Result :=
  loadInstr (.ldhu i.clean a .none) false 2 i a u s
/-- LDW: word, sign-extended. -/
def execLdw (i : Issue) (a : IArgs) (u : Upset) (s : State) : Result :=
  loadInstr (.ldw i.clean a .none) true 4 i a u s
/-- LDWU: word, zero-extended. -/
def execLdwu (i : Issue) (a : IArgs) (u : Upset) (s : State) : Result :=
  loadInstr (.ldwu i.clean a .none) false 4 i a u s
/-- LDD: doubleword. -/
def execLdd (i : Issue) (a : IArgs) (u : Upset) (s : State) : Result :=
  loadInstr (.ldd i.clean a .none) true 8 i a u s
/-- STB: byte. -/
def execStb (i : Issue) (a : IArgs) (s : State) : Result := storeInstr (.stb i.clean a) 1 i a s
/-- STH: halfword. -/
def execSth (i : Issue) (a : IArgs) (s : State) : Result := storeInstr (.sth i.clean a) 2 i a s
/-- STW: word. -/
def execStw (i : Issue) (a : IArgs) (s : State) : Result := storeInstr (.stw i.clean a) 4 i a s
/-- STD: doubleword. -/
def execStd (i : Issue) (a : IArgs) (s : State) : Result := storeInstr (.std i.clean a) 8 i a s

/-! ### LDST and MCPY -/

/-- Fields of LDST (Table ISA-10, R100). -/
def ldstLegal (a : RArgs) : Bool :=
  let p := a.fn.getLsbD 6
  let st := a.fn.getLsbD 5
  let uz := a.fn.getLsbD 4
  (!p || (a.rs2 == 0 && slice a.fn.toNat 0 2 == 0)) && !(uz && (st || slice a.fn.toNat 2 2 == 3)) &&
    !(p && !st && a.rd == a.rs1)

/-- LDST: an indexed or post-increment access. -/
def execLdst (i : Issue) (a : RArgs) (u : Upset) (s : State) : Result :=
  let k := i.core
  let p := a.fn.getLsbD 6
  let size := sizeOf (slice a.fn.toNat 2 2)
  runInstr ⟨k, .ldst i.clean a .none, some i.cond, i.par, ldstLegal a, 0, [a.rd, a.rs1, a.rs2], true, false⟩
    (fun s =>
      let c := s.core k
      let base := c.reg a.rs1
      let va := if p then base else base + (c.reg a.rs2 <<< slice a.fn.toNat 0 2)
      let next := base + BitVec.ofNat 64 size
      if a.fn.getLsbD 5 then
        match storeAccess k va size (c.reg a.rd).toNat s with
        | .ok s => .done (if p then s.mapCore k (fun c => c.setReg a.rs1 next) else s)
        | .exc e s => .exc e s
        | .stall s => .stall s
      else
        loadAccess k (.reg (c.regAt a.rd) (!a.fn.getLsbD 4) size
          (if p then some (c.regAt a.rs1, next) else none)) va size u s) s

/-- MCPY: one element from [rs1] to [rd], then both advance (R101). -/
def execMcpy (i : Issue) (a : RArgs) (u : Upset) (s : State) : Result :=
  let k := i.core
  let size := sizeOf (slice a.fn.toNat 0 2)
  runInstr ⟨k, .mcpy i.clean a .none, some i.cond, i.par,
    a.rs2 == 0 && decide (a.fn.toNat < 4) && a.rd != a.rs1, 0, [a.rd, a.rs1], true, false⟩
    (fun s =>
      let c := s.core k
      loadAccess k (.mcpy (c.regAt a.rd) (c.regAt a.rs1) size) (c.reg a.rs1) size u s) s

/-! ### ATOM group -/

/-- fn of an ATOM instruction with code `op` (Table ISA-12): a word or a doubleword. -/
def atomLegal (op : Nat) (a : RArgs) : Bool := a.fn.toNat == op * 16 + 8 || a.fn.toNat == op * 16 + 12
def atomSize (a : RArgs) : Nat := if a.fn.getLsbD 2 then 8 else 4

/-- LDX: load and reserve (R114). -/
def execLdx (i : Issue) (a : RArgs) (u : Upset) (s : State) : Result :=
  let k := i.core
  runInstr ⟨k, .ldx i.clean a .none, some i.cond, i.par, atomLegal 0 a && a.rs2 == 0, 0, [a.rd, a.rs1], false, false⟩
    (fun s0 =>
      let c := s0.core k
      let va := (c.reg a.rs1).toNat
      let s := if u = .tlb then tlbParity k false va s0 else s0
      let (p, s) := prepareAtom k .read va (atomSize a) s
      loadChecked k (.ldx (c.regAt a.rd) (atomSize a)) u p s0 s) s

/-- Does the reservation hold for an STX at `pa` (R114)? -/
def Core.reserves (c : Core) (pa size : Nat) : Bool :=
  match c.reservation with
  | some r => r.pa == pa && r.size == size
  | none => false

/-- STX: store if the reservation holds; rd takes the outcome. -/
def execStx (i : Issue) (a : RArgs) (s : State) : Result :=
  let k := i.core
  let size := atomSize a
  runInstr ⟨k, .stx i.clean a, some i.cond, i.par, atomLegal 1 a, 0, [a.rd, a.rs1, a.rs2], false, false⟩
    (fun s0 =>
      let c := s0.core k
      let (p, s) := prepareAtom k .write (c.reg a.rs1).toNat size s0
      match p with
      | .exc e => .exc e s
      | .wait => .stall s0
      | .ok ps =>
        match ps with
        | [] => .stall s0
        | q :: _ =>
          if !(s.core k).reserves q.pa size then
            .done (s.mapCore k (fun c => { c.setReg a.rd 1 with reservation := none }))
          else
            let (b, h, s) := dataCompare k 2 ps s
            match b with
            | some e => .exc e s
            | none =>
              if h then .stall s
              else
                let (s, ok) := storeNow k q (c.reg a.rs2).toNat s
                if ok then .done (s.mapCore k (fun c => { c.setReg a.rd 0 with reservation := none }))
                else .stall s0) s

/-- SWAP and ADDA: a load and a store that no other agent splits (R116). -/
def swapInstr (key : Instr) (op : Nat) (add : Bool) (i : Issue) (a : RArgs) (u : Upset) (mp : Option (BitVec 14))
    (s : State) : Result :=
  let k := i.core
  runInstr ⟨k, key, some i.cond, i.par, atomLegal op a, 0, [a.rd, a.rs1, a.rs2], false, false⟩
    (microBody k mp (fun s0 =>
      let c := s0.core k
      let va := (c.reg a.rs1).toNat
      let s := if u = .tlb then tlbParity k false va s0 else s0
      let (p, s) := prepareAtom k .read va (atomSize a) s
      match p with
      | .exc e => .exc e s
      | .wait => .stall s0
      | .ok _ =>
        let (p, s) := prepareAtom k .write va (atomSize a) s
        match p with
        | .exc e => .exc e s
        | .wait => .stall s0
        | .ok ps =>
          let (b, h, s) := dataCompare k 2 ps s
          match b with
          | some e => .exc e s
          | none =>
            if h then .stall s
            else loadChecked k (.swap (c.regAt a.rd) (c.reg a.rs2) add (atomSize a)) u (.ok ps) s0 s)) s

/-- SWAP: rd and memory exchange, memory taking rs2. -/
def execSwap (i : Issue) (a : RArgs) (u : Upset) (mp : Option (BitVec 14)) (s : State) : Result :=
  swapInstr (.swap i.clean a .none none) 2 false i a u mp s
/-- ADDA: memory takes the sum with rs2, rd the old value. -/
def execAdda (i : Issue) (a : RArgs) (u : Upset) (mp : Option (BitVec 14)) (s : State) : Result :=
  swapInstr (.adda i.clean a .none none) 3 true i a u mp s

/-! ### Responses and the store buffer -/

/-- A core that was to stop when its device access ends stops now (R426). -/
def stopIfDue (k : CoreId) (s : State) : State :=
  s.mapCore k (fun c => if c.stopAtResponse && c.load.isNone then { c with run := .stopped, stopAtResponse := false } else c)

/-- The response to core k's outstanding load: an error response raises the bus error with the physical address
(R304); a load whose fill was voided is sent again (R266); else the data arrives and the load completes. -/
def execLoadResponse (k : CoreId) (r : Answer) (u : Upset) (s : State) : Result :=
  let c := s.core k
  match c.load with
  | none => .next s
  | some l =>
    let s1 := s.mapCore k (fun c => { c with load := none })
    match l.parts with
    | [] => .next s1
    | p :: _ =>
      if r = .error || l.err then
        .next (stopIfDue k (finishAct k s1 (.exc (excAt 0x0C p.pa) s1)))
      else if l.voided then .next (s.mapCore k (fun c => { c with load := some { l with voided := false } }))
      else
        -- posted stores to the same target are performed there first (R288)
        let s1 := if p.type.isDev then
            drainWhere k (fun e => e.type == .devicePosted && s1.orderTarget e.pa == s1.orderTarget p.pa)
              ((s1.core k).stores.length + 1) s1
          else s1
        match loadParts k l.use l.parts u true s1 with
        | .stall _ => .next s
        | a => .next (stopIfDue k (finishAct k s1 a))

/-- Entry `n` of core k's store buffer leaves, unless an earlier entry must go first (R283, R287, R288): `answered`,
its target performs it and answers; otherwise it is sent and waits for its answer. -/
def execStoreBufferDrain (k : CoreId) (n : Nat) (answered : Bool) (s : State) : Result :=
  let c := s.core k
  match c.stores[n]? with
  | none => .next s
  | some e =>
    if (c.stores.take n).any (fun b => storeBlocks s b e) then .next s
    else if answered then
      let (s', ok) := performStore k e (s.mapCore k (fun c => { c with stores := c.stores.eraseIdx n }))
      .next (if ok then s' else s)
    else if e.sent then .next s
    else .next (requestStore e (s.mapCore k (fun c => { c with stores := c.stores.set n { e with sent := true } })))

/-- The target of a sent store answers with an error response (R304, R323). -/
def execStoreErrorResponse (k : CoreId) (n : Nat) (s : State) : Result :=
  let c := s.core k
  match c.stores[n]? with
  | none => .next s
  | some e =>
    if e.sent then .next (storeError k e (s.mapCore k (fun c => { c with stores := c.stores.eraseIdx n }))) else .next s

end Sys2Proof.Machine
end

