-- ==== Sys2Proof/Machine/Alu.lean ====
section
/-!
DEFINITION. The ALU group and the immediate instructions (R93, R94, Tables ISA-5 and ISA-7).
-/

namespace Sys2Proof.Machine

/-- Write a result, and the flags where `set` asks for them (R93). -/
def putAlu (k : CoreId) (rd : Fin 32) (set : Bool) (o : AluOut) (s : State) : Act :=
  .done (s.mapCore k (fun c => let c := c.setReg rd o.val; if set then c.setFlags o.nzcv else c))

/-- A register-format instruction with its fields; `op` is fn[5:0], `key` the latch key. -/
def aluInstr (key : Instr) (op : Nat) (i : Issue) (a : RArgs) (s : State) : Result :=
  let k := i.core
  runInstr ⟨k, key, some i.cond, i.par, a.fn.toNat % 64 == op && (!aluUnary op || a.rs2 == 0), 0,
    [a.rd, a.rs1, a.rs2], true, false⟩
    (fun s =>
      let c := s.core k
      match aluOp op (c.reg a.rs1) (c.reg a.rs2) c.flags with
      | some o => putAlu k a.rd (a.fn.getLsbD 6) o s
      | none => .exc (excPlain 0x01) s) s

/-- An immediate-format instruction that computes `f` of rs1, imm12 and the flags; `set`: it sets the flags. -/
def immInstr (key : Instr) (legal set : Bool) (f : Word64 → BitVec 12 → BitVec 4 → AluOut) (i : Issue) (a : IArgs)
    (s : State) : Result :=
  let k := i.core
  runInstr ⟨k, key, some i.cond, i.par, legal, 0, [a.rd, a.rs1], true, false⟩
    (fun s =>
      let c := s.core k
      putAlu k a.rd set (f (c.reg a.rs1) a.imm c.flags) s) s

/-- SHI (R94): imm[11:10] selects the shift, imm[9] the 32-bit form. The flags follow the shift (log 25). -/
def shiOut (a : Word64) (imm : BitVec 12) (f : BitVec 4) : AluOut :=
  let n := imm.toNat
  let kind := n / 1024
  if imm.getLsbD 9 then
    if kind = 3 then out32 (rorOut (a.truncate 32 : BitVec 32) (n % 32) f)
    else (aluOp (0x1A + kind) a (BitVec.ofNat 64 (n % 32)) f).getD ⟨a, f⟩
  else (aluOp (0x08 + kind) a (BitVec.ofNat 64 (n % 64)) f).getD ⟨a, f⟩

/-- Fields of SHI that must be 0 (R94). -/
def shiLegal (imm : BitVec 12) : Bool :=
  slice imm.toNat 6 3 == 0 && (!imm.getLsbD 9 || !imm.getLsbD 5)

/-- ADD: rs1 + rs2. -/
def execAdd (i : Issue) (a : RArgs) (s : State) : Result := aluInstr (.add i.clean a) 0x00 i a s
/-- SUB: rs1 - rs2. -/
def execSub (i : Issue) (a : RArgs) (s : State) : Result := aluInstr (.sub i.clean a) 0x01 i a s
/-- ADDC: rs1 + rs2 + C. -/
def execAddc (i : Issue) (a : RArgs) (s : State) : Result := aluInstr (.addc i.clean a) 0x02 i a s
/-- SUBC: rs1 - rs2 - (1 - C). -/
def execSubc (i : Issue) (a : RArgs) (s : State) : Result := aluInstr (.subc i.clean a) 0x03 i a s
/-- AND: bitwise and. -/
def execAnd (i : Issue) (a : RArgs) (s : State) : Result := aluInstr (.and i.clean a) 0x04 i a s
/-- OR: bitwise or. -/
def execOr (i : Issue) (a : RArgs) (s : State) : Result := aluInstr (.or i.clean a) 0x05 i a s
/-- XOR: bitwise exclusive or. -/
def execXor (i : Issue) (a : RArgs) (s : State) : Result := aluInstr (.xor i.clean a) 0x06 i a s
/-- ANDN: rs1 and not rs2. -/
def execAndn (i : Issue) (a : RArgs) (s : State) : Result := aluInstr (.andn i.clean a) 0x07 i a s
/-- SHL: shift left. -/
def execShl (i : Issue) (a : RArgs) (s : State) : Result := aluInstr (.shl i.clean a) 0x08 i a s
/-- SHR: logical shift right. -/
def execShr (i : Issue) (a : RArgs) (s : State) : Result := aluInstr (.shr i.clean a) 0x09 i a s
/-- SRA: arithmetic shift right. -/
def execSra (i : Issue) (a : RArgs) (s : State) : Result := aluInstr (.sra i.clean a) 0x0A i a s
/-- ROR: rotate right. -/
def execRor (i : Issue) (a : RArgs) (s : State) : Result := aluInstr (.ror i.clean a) 0x0B i a s
/-- MIN: signed minimum. -/
def execMin (i : Issue) (a : RArgs) (s : State) : Result := aluInstr (.min i.clean a) 0x0C i a s
/-- MAX: signed maximum. -/
def execMax (i : Issue) (a : RArgs) (s : State) : Result := aluInstr (.max i.clean a) 0x0D i a s
/-- MINU: unsigned minimum. -/
def execMinu (i : Issue) (a : RArgs) (s : State) : Result := aluInstr (.minu i.clean a) 0x0E i a s
/-- MAXU: unsigned maximum. -/
def execMaxu (i : Issue) (a : RArgs) (s : State) : Result := aluInstr (.maxu i.clean a) 0x0F i a s
/-- CLZ: leading zeros. -/
def execClz (i : Issue) (a : RArgs) (s : State) : Result := aluInstr (.clz i.clean a) 0x10 i a s
/-- POPC: set bits. -/
def execPopc (i : Issue) (a : RArgs) (s : State) : Result := aluInstr (.popc i.clean a) 0x11 i a s
/-- SEXTB: sign extension from 8 bits. -/
def execSextb (i : Issue) (a : RArgs) (s : State) : Result := aluInstr (.sextb i.clean a) 0x12 i a s
/-- SEXTH: sign extension from 16 bits. -/
def execSexth (i : Issue) (a : RArgs) (s : State) : Result := aluInstr (.sexth i.clean a) 0x13 i a s
/-- SEXTW: sign extension from 32 bits. -/
def execSextw (i : Issue) (a : RArgs) (s : State) : Result := aluInstr (.sextw i.clean a) 0x14 i a s
/-- BSWAP: bytes reversed. -/
def execBswap (i : Issue) (a : RArgs) (s : State) : Result := aluInstr (.bswap i.clean a) 0x15 i a s
/-- ADDW: 32-bit addition. -/
def execAddw (i : Issue) (a : RArgs) (s : State) : Result := aluInstr (.addw i.clean a) 0x18 i a s
/-- SUBW: 32-bit subtraction. -/
def execSubw (i : Issue) (a : RArgs) (s : State) : Result := aluInstr (.subw i.clean a) 0x19 i a s
/-- SHLW: 32-bit shift left. -/
def execShlw (i : Issue) (a : RArgs) (s : State) : Result := aluInstr (.shlw i.clean a) 0x1A i a s
/-- SHRW: 32-bit logical shift right. -/
def execShrw (i : Issue) (a : RArgs) (s : State) : Result := aluInstr (.shrw i.clean a) 0x1B i a s
/-- SRAW: 32-bit arithmetic shift right. -/
def execSraw (i : Issue) (a : RArgs) (s : State) : Result := aluInstr (.sraw i.clean a) 0x1C i a s
/-- ADDI: rs1 + sext(imm12). -/
def execAddi (i : Issue) (a : IArgs) (s : State) : Result :=
  immInstr (.addi i.clean a) true false (fun x n f => ⟨x + simm n, f⟩) i a s
/-- ANDI: rs1 and zext(imm12). -/
def execAndi (i : Issue) (a : IArgs) (s : State) : Result :=
  immInstr (.andi i.clean a) true false (fun x n f => ⟨x &&& zimm n, f⟩) i a s
/-- ORI: rs1 or zext(imm12). -/
def execOri (i : Issue) (a : IArgs) (s : State) : Result :=
  immInstr (.ori i.clean a) true false (fun x n f => ⟨x ||| zimm n, f⟩) i a s
/-- XORI: rs1 exclusive or zext(imm12). -/
def execXori (i : Issue) (a : IArgs) (s : State) : Result :=
  immInstr (.xori i.clean a) true false (fun x n f => ⟨x ^^^ zimm n, f⟩) i a s
/-- SHI: shift by imm12. -/
def execShi (i : Issue) (a : IArgs) (s : State) : Result :=
  immInstr (.shi i.clean a) (shiLegal a.imm) true shiOut i a s
/-- CMPI: the flags of rs1 - sext(imm12); rd must be 0. -/
def execCmpi (i : Issue) (a : IArgs) (s : State) : Result :=
  immInstr (.cmpi i.clean a) (a.rd == 0) true (fun x n _ => out64 (subFlags x (simm n) true)) i a s
/-- LSI: (rs1 << 12) or imm12. -/
def execLsi (i : Issue) (a : IArgs) (s : State) : Result :=
  immInstr (.lsi i.clean a) true false (fun x n f => ⟨x <<< 12 ||| zimm n, f⟩) i a s

end Sys2Proof.Machine
end

