-- ==== Sys2Proof/Machine/Float.lean ====
section
/-!
DEFINITION. IEEE 754-2019 binary32 and binary64 arithmetic, exact and then rounded to nearest, ties to even (R99), with
the FSTAT flags (invalid 16, divide by zero 8, overflow 4, underflow 2, inexact 1).
-/

namespace Sys2Proof.Machine

/-- A binary format: precision with the hidden bit, and the width of the exponent field. -/
structure FpFormat where
  prec : Nat
  ebits : Nat
  deriving DecidableEq, Repr

def binary32 : FpFormat := ⟨24, 8⟩
def binary64 : FpFormat := ⟨53, 11⟩
/-- The format that fn[6] selects. -/
def fpFormat (double : Bool) : FpFormat := if double then binary64 else binary32

/-- Largest exponent. -/
def FpFormat.emax (f : FpFormat) : Nat := 2 ^ (f.ebits - 1) - 1
/-- Width of the whole encoding. -/
def FpFormat.width (f : FpFormat) : Nat := f.prec + f.ebits

/-- A floating-point datum. `fin s m e` is (-1)^s · m · 2^e. -/
inductive Fp where
  | nan (signaling : Bool)
  | inf (s : Bool)
  | fin (s : Bool) (m : Nat) (e : Int)
  deriving DecidableEq, Repr

/-- Result bits with the flags raised. -/
structure FpOut where
  bits : Nat
  flags : Nat
  deriving DecidableEq, Repr

/-- The datum that `v` encodes in format `f`; bits above the format are ignored. -/
def fpDecode (f : FpFormat) (v : Nat) : Fp :=
  let frac := v % 2 ^ (f.prec - 1)
  let ex := v / 2 ^ (f.prec - 1) % 2 ^ f.ebits
  let s := v.testBit (f.width - 1)
  let low : Int := 2 - (f.emax + f.prec : Int)
  if ex = 2 ^ f.ebits - 1 then (if frac = 0 then .inf s else .nan (!frac.testBit (f.prec - 2)))
  else if ex = 0 then .fin s frac low
  else .fin s (frac + 2 ^ (f.prec - 1)) (low + ex - 1)

/-- Sign bit, exponent field and fraction together. -/
def fpPack (f : FpFormat) (s : Bool) (ex frac : Nat) : Nat :=
  (if s then 2 ^ (f.width - 1) else 0) + ex * 2 ^ (f.prec - 1) + frac

/-- The default quiet NaN; R99 does not give its sign and payload. -/
def fpNan (f : FpFormat) : Nat :=
  fpPack f Config.nanSign (2 ^ f.ebits - 1)
    (2 ^ (f.prec - 2) + if f.prec = 24 then Config.nanPayload32.toNat else Config.nanPayload64.toNat)

def fpInf (f : FpFormat) (s : Bool) : Nat := fpPack f s (2 ^ f.ebits - 1) 0
def fpZero (f : FpFormat) (s : Bool) : Nat := fpPack f s 0 0

/-- Number of bits of `m`. -/
def bitLen (m : Nat) : Nat := if m = 0 then 0 else Nat.log2 m + 1

/-- `m` divided by 2^k and rounded to nearest even; `sticky` says that the exact value lies a little above `m`. The
second component says whether the result is inexact. -/
def roundShift (m k : Nat) (sticky : Bool) : Nat × Bool :=
  let q := m / 2 ^ k
  let r := m % 2 ^ k
  let half := 2 ^ k / 2
  let up := k ≠ 0 ∧ (half < r ∨ r = half ∧ (sticky ∨ q % 2 = 1))
  (if up then q + 1 else q, decide (r ≠ 0) || sticky)

/-- Round (-1)^s · (m + sticky) · 2^e into format `f`. A caller with `sticky` supplies more than `prec` + 2 bits. -/
def fpRound (f : FpFormat) (s : Bool) (m : Nat) (e : Int) (sticky : Bool) : FpOut :=
  if m = 0 then ⟨fpZero f s, if sticky then 3 else 0⟩
  else
    let top : Int := (bitLen m : Int) - 1 + e
    let emin : Int := 1 - (f.emax : Int)
    let p1 : Int := (f.prec : Int) - 1
    let q : Int := max (top - p1) (emin - p1)
    let (r, inexact) :=
      if q ≤ e then (m * 2 ^ (e - q).toNat, sticky) else roundShift m (q - e).toNat sticky
    let (r, q) := if r = 2 ^ f.prec then (r / 2, q + 1) else (r, q)
    -- tininess: before rounding, or after rounding as though the exponent had no lower bound
    let qFree := top - p1
    let rFree := if qFree ≤ e then m * 2 ^ (e - qFree).toNat else (roundShift m (qFree - e).toNat sticky).1
    let tiny := decide (top < emin) &&
      (!Config.tinyAfterRounding || !(decide (top = emin - 1) && rFree == 2 ^ f.prec))
    if (f.emax : Int) < q + p1 ∧ 2 ^ (f.prec - 1) ≤ r then ⟨fpInf f s, 5⟩
    else
      let bits :=
        if r < 2 ^ (f.prec - 1) then fpPack f s 0 r
        else fpPack f s (q + p1 + f.emax).toNat (r - 2 ^ (f.prec - 1))
      ⟨bits, (if inexact then 1 else 0) + (if inexact && tiny then 2 else 0)⟩

/-- A NaN result: the default NaN, with invalid where `inv`. -/
def fpNanOut (f : FpFormat) (inv : Bool) : FpOut := ⟨fpNan f, if inv then 16 else 0⟩

def Fp.isNan : Fp → Bool
  | .nan _ => true
  | _ => false
def Fp.isSignaling : Fp → Bool
  | .nan s => s
  | _ => false
def Fp.sign : Fp → Bool
  | .nan _ => false
  | .inf s => s
  | .fin s _ _ => s

/-- The datum with the opposite sign. -/
def Fp.neg : Fp → Fp
  | .nan s => .nan s
  | .inf s => .inf (!s)
  | .fin s m e => .fin (!s) m e

/-- A datum back into a format (no rounding for data decoded from it). -/
def fpEncode (f : FpFormat) : Fp → Nat
  | .nan _ => fpNan f
  | .inf s => fpInf f s
  | .fin s m e => (fpRound f s m e false).bits

/-- Signed mantissa of a finite datum at exponent `e0` ≤ its own. -/
def fpAt (s : Bool) (m : Nat) (e e0 : Int) : Int :=
  let v : Int := (m * 2 ^ (e - e0).toNat : Nat)
  if s then -v else v

/-- FADD; FSUB negates its second operand first. -/
def fpAdd (f : FpFormat) (a b : Fp) : FpOut :=
  match a, b with
  | .nan x, y => fpNanOut f (x || y.isSignaling)
  | _, .nan y => fpNanOut f y
  | .inf s, .inf t => if s = t then ⟨fpInf f s, 0⟩ else fpNanOut f true
  | .inf s, _ => ⟨fpInf f s, 0⟩
  | _, .inf t => ⟨fpInf f t, 0⟩
  | .fin s m e, .fin t n g =>
    let e0 := min e g
    let v := fpAt s m e e0 + fpAt t n g e0
    if v = 0 then ⟨fpZero f (s && t), 0⟩ else fpRound f (decide (v < 0)) v.natAbs e0 false

def fpMul (f : FpFormat) (a b : Fp) : FpOut :=
  let s := a.sign != b.sign
  match a, b with
  | .nan x, y => fpNanOut f (x || y.isSignaling)
  | _, .nan y => fpNanOut f y
  | .inf _, .inf _ => ⟨fpInf f s, 0⟩
  | .inf _, .fin _ n _ => if n = 0 then fpNanOut f true else ⟨fpInf f s, 0⟩
  | .fin _ m _, .inf _ => if m = 0 then fpNanOut f true else ⟨fpInf f s, 0⟩
  | .fin _ m e, .fin _ n g => fpRound f s (m * n) (e + g) false

def fpDiv (f : FpFormat) (a b : Fp) : FpOut :=
  let s := a.sign != b.sign
  match a, b with
  | .nan x, y => fpNanOut f (x || y.isSignaling)
  | _, .nan y => fpNanOut f y
  | .inf _, .inf _ => fpNanOut f true
  | .inf _, .fin _ _ _ => ⟨fpInf f s, 0⟩
  | .fin _ _ _, .inf _ => ⟨fpZero f s, 0⟩
  | .fin _ m e, .fin _ n g =>
    if n = 0 then (if m = 0 then fpNanOut f true else ⟨fpInf f s, 8⟩)
    else
      let k := 2 * f.prec + 4
      let num := m * 2 ^ k
      fpRound f s (num / n) (e - g - k) (decide (num % n ≠ 0))

/-- Integer square root of a number of at most 2·n bits, by restoring steps. -/
def isqrt (v : Nat) : Nat → Nat → Nat
  | 0, r => r
  | n + 1, r => isqrt v n (if (r + 2 ^ n) * (r + 2 ^ n) ≤ v then r + 2 ^ n else r)

def fpSqrt (f : FpFormat) (a : Fp) : FpOut :=
  match a with
  | .nan x => fpNanOut f x
  | .inf s => if s then fpNanOut f true else ⟨fpInf f false, 0⟩
  | .fin s m e =>
    if m = 0 then ⟨fpZero f s, 0⟩
    else if s then fpNanOut f true
    else
      let k := 2 * f.prec + 4
      let k := if (e - k) % 2 = 0 then k else k + 1
      let v := m * 2 ^ k
      let r := isqrt v (2 * f.prec + 4) 0
      fpRound f false r ((e - k) / 2) (decide (r * r ≠ v))

/-- Comparison of two data that are not NaN: less, equal, greater. -/
def fpOrd (a b : Fp) : Ordering :=
  match a, b with
  | .inf s, .inf t => if s = t then .eq else if s then .lt else .gt
  | .inf s, _ => if s then .lt else .gt
  | _, .inf t => if t then .gt else .lt
  | .fin s m e, .fin t n g =>
    let e0 := min e g
    compare (fpAt s m e e0) (fpAt t n g e0)
  | _, _ => .eq

/-- FCMP (R99); a quiet NaN raises nothing, a signaling one invalid (log 24). -/
def fpCompare (a b : Fp) : BitVec 4 × Nat :=
  if a.isNan || b.isNan then (0b0011, if a.isSignaling || b.isSignaling then 16 else 0)
  else match fpOrd a b with
    | .lt => (0b1000, 0)
    | .eq => (0b0110, 0)
    | .gt => (0b0010, 0)

/-- minimumNumber and maximumNumber (IEEE 754-2019, 9.6): a number beats a NaN, -0 is below +0. -/
def fpMinMax (f : FpFormat) (wantMin : Bool) (a b : Fp) : FpOut :=
  let fl := if a.isSignaling || b.isSignaling then 16 else 0
  if a.isNan && b.isNan then ⟨fpNan f, fl⟩
  else if a.isNan then ⟨fpEncode f b, fl⟩
  else if b.isNan then ⟨fpEncode f a, fl⟩
  else
    let aBelow := match fpOrd a b with
      | .lt => true
      | .eq => a.sign
      | .gt => false
    ⟨fpEncode f (if aBelow = wantMin then a else b), fl⟩

/-- FABS and FNEG raise no flags; a NaN operand gives the default NaN (R99). -/
def fpAbs (f : FpFormat) (a : Fp) : FpOut := ⟨fpEncode f (if a.sign then a.neg else a), 0⟩
def fpNegate (f : FpFormat) (a : Fp) : FpOut := ⟨fpEncode f a.neg, 0⟩

/-- FCVT.L: toward zero; a NaN or a value out of range gives the most negative integer and invalid (R99). -/
def fpToInt (a : Fp) : Word64 × Nat :=
  let bad : Word64 × Nat := (BitVec.ofNat 64 (2 ^ 63), 16)
  match a with
  | .fin s m e =>
    let t := if 0 ≤ e then m * 2 ^ (min e.toNat 64) else m / 2 ^ (-e).toNat
    let exact := decide (0 ≤ e) || m % 2 ^ (-e).toNat == 0
    if m ≠ 0 ∧ 64 < e then bad
    else if (if s then 2 ^ 63 < t else 2 ^ 63 ≤ t) then bad
    else (BitVec.ofInt 64 (if s then -(t : Int) else t), if exact then 0 else 1)
  | _ => bad

/-- FCVT.F: a signed 64-bit integer into the format. -/
def fpFromInt (f : FpFormat) (v : Word64) : FpOut := fpRound f v.msb v.toInt.natAbs 0 false

/-- FCVT.X: a datum of the other format into this one. -/
def fpConvert (f : FpFormat) (a : Fp) : FpOut :=
  match a with
  | .nan x => fpNanOut f x
  | .inf s => ⟨fpInf f s, 0⟩
  | .fin s m e => fpRound f s m e false

end Sys2Proof.Machine
end

