-- ==== Sys2Proof/Machine/LongOps.lean ====
section
/-!
DEFINITION. Long operations (Table ISA-8, R97, R98, R134 to R137, R154): division, remainder, floating-point division
and square root, and the completion of a section.
-/

namespace Sys2Proof.Machine

/-- Is a section busy? -/
def Core.busy (c : Core) (sec : LongSection) : Bool :=
  match sec with
  | .int => c.longInt.isSome
  | .fp => c.longFp.isSome

/-- Put an operation into its section. -/
def Core.start (c : Core) (sec : LongSection) (o : LongOp) : Core :=
  match sec with
  | .int => { c with longInt := some o, order := c.order + 1 }
  | .fp => { c with longFp := some o, order := c.order + 1 }

/-- Issue a long operation: it stalls while its section is busy, starts in normal mode, and completes at once, with a
precise exception, in deterministic mode (R134, R154). -/
def issueLong (k : CoreId) (sec : LongSection) (o : LongOp) (s : State) : Act :=
  let c := s.core k
  if c.dm then
    let c' := (if o.writes then c.setP o.dest o.result else c)
    let c' := { c' with fstat := c'.fstat ||| BitVec.ofNat 64 (o.flags % 32) }
    if o.divZero then .exc (excPlain 0x0D) (s.setCore k { c' with lxa := o.pc &&& 0xFFFFFFFFFFFF })
    else if (o.flags % 32 &&& slice c'.fstat.toNat 8 5) ≠ 0 then
      .exc (excPlain 0x0E (o.flags % 32)) (s.setCore k { c' with lxa := o.pc &&& 0xFFFFFFFFFFFF })
    else .done (s.setCore k c')
  else if c.busy sec then .stall (pmCount k 0x0C s)
  else .done (s.mapCore k (fun c => c.start sec o))

/-- An integer long operation with its result function; `fn` is its code. -/
def divInstr (key : Instr) (fn : Nat) (f : Word64 → Word64 → Word64) (i : Issue) (a : RArgs) (s : State) : Result :=
  runInstr ⟨i.core, key, some i.cond, i.par, a.fn.toNat == fn, 0, [a.rd, a.rs1, a.rs2], true, false⟩
    (fun s =>
      let c := s.core i.core
      let zero := c.reg a.rs2 == 0
      issueLong i.core .int
        ⟨c.regAt a.rd, f (c.reg a.rs1) (c.reg a.rs2), !zero, 0, zero, c.pc, c.order⟩ s) s

/-- A floating-point long operation. -/
def fpLongInstr (key : Instr) (fn : Nat) (unary double : Bool) (f : FpFormat → Fp → Fp → FpOut) (i : Issue)
    (a : RArgs) (s : State) : Result :=
  runInstr ⟨i.core, key, some i.cond, i.par, a.fn.toNat == fn && (!unary || a.rs2 == 0), 0, [a.rd, a.rs1, a.rs2], true, false⟩
    (fun s =>
      let c := s.core i.core
      let fm := fpFormat double
      let r := f fm (fpDecode fm (c.reg a.rs1).toNat) (fpDecode fm (c.reg a.rs2).toNat)
      issueLong i.core .fp ⟨c.regAt a.rd, BitVec.ofNat 64 r.bits, true, r.flags, false, c.pc, c.order⟩ s) s

/-- DIV: signed quotient. -/
def execDiv (i : Issue) (a : RArgs) (s : State) : Result := divInstr (.div i.clean a) 0x00 (divResult true) i a s
/-- DIVU: unsigned quotient. -/
def execDivu (i : Issue) (a : RArgs) (s : State) : Result := divInstr (.divu i.clean a) 0x01 (divResult false) i a s
/-- REM: signed remainder. -/
def execRem (i : Issue) (a : RArgs) (s : State) : Result := divInstr (.rem i.clean a) 0x02 (remResult true) i a s
/-- REMU: unsigned remainder. -/
def execRemu (i : Issue) (a : RArgs) (s : State) : Result := divInstr (.remu i.clean a) 0x03 (remResult false) i a s
/-- FDIV.S. -/
def execFdivS (i : Issue) (a : RArgs) (s : State) : Result :=
  fpLongInstr (.fdivS i.clean a) 0x10 false false fpDiv i a s
/-- FSQRT.S. -/
def execFsqrtS (i : Issue) (a : RArgs) (s : State) : Result :=
  fpLongInstr (.fsqrtS i.clean a) 0x11 true false (fun f x _ => fpSqrt f x) i a s
/-- FDIV.D. -/
def execFdivD (i : Issue) (a : RArgs) (s : State) : Result :=
  fpLongInstr (.fdivD i.clean a) 0x12 false true fpDiv i a s
/-- FSQRT.D. -/
def execFsqrtD (i : Issue) (a : RArgs) (s : State) : Result :=
  fpLongInstr (.fsqrtD i.clean a) 0x13 true true (fun f x _ => fpSqrt f x) i a s

/-- A section completes (R135): with an exception, the core waits for the other section, then takes the entry
(R136). -/
def execLongOpComplete (k : CoreId) (sec : LongSection) (s : State) : Result :=
  .next (takeLongIfReady k (s.mapCore k (fun c => match sec with
    | .int => c.finishInt
    | .fp => c.finishFp)))

end Sys2Proof.Machine
end

