-- ==== Sys2Proof/Machine/Micro.lean ====
section
/-!
DEFINITION. The microcode store (R196 to R204) and customer instructions (R207 to R214): the micro-word interpreter, its
commit, its time limit and its micro-traps; CRC (R121).
-/

namespace Sys2Proof.Machine

/-! ### CRC -/

/-- CRC: bytes of rs2 into the check value of rs1. -/
def execCrc (i : XIssue) (a : RArgs) (mp : Option (BitVec 14)) (s : State) : Result :=
  let k := i.core
  let fn := a.fn.toNat
  runInstr ⟨k, .crc i.clean a none, none, i.par, slice fn 5 2 == 0 && slice fn 0 2 != 3, 0, [a.rd, a.rs1, a.rs2],
    false, false⟩
    (microBody k mp (fun s => .done (s.mapCore k (fun c =>
      c.setReg a.rd (crcBytes (slice fn 0 2) (c.reg a.rs1) (c.reg a.rs2) (slice fn 2 3 + 1)))))) s

/-! ### The store -/

/-- A write of MCS.WADDR by `by_`: the frame is reachable only by seat 0. -/
def execMcsWordWrite (by_ : Seat) (value : Word32) (s : State) : Result :=
  if by_ ≠ 0 then .next (s.answer .error)
  else .next ((if s.flag MCS_LOCK_LOCK then s else mcsCommit (value.toNat % 2 ^ 14) s).answer (.ok 0))

/-- MCS rewrites a faulty replica word from the master copy (R198). -/
def execReplicaRewrite (cl : ClusterId) (word : BitVec 14) (s : State) : Result :=
  .next { s with mcsBad := s.mcsBad.filter (fun e => e != (cl.val, word.toNat)) }

/-! ### Micro-words -/

/-- What a micro-step does: the routine goes on, ends, raises an exception, holds a code that the region may not hold
(R213), or has to wait for memory. -/
inductive MicroAns where
  | run (r : MicroRun)
  | fin (r : MicroRun)
  | exc (e : Exc)
  | bad
  | wait

/-- The operands that an instruction gives a routine: rs1, rs2, rd and NZCV at the start. -/
structure MicroOps where
  a : Word64
  b : Word64
  d : Word64
  f : BitVec 4

/-- The value of a source selector (Table MCS-4). -/
def microSrc (o : MicroOps) (lit : Word64) (r : MicroRun) (sel : Nat) : Option Word64 :=
  if sel < 16 then some r.u[sel]!
  else match sel with
    | 0x10 => some o.a
    | 0x11 => some o.b
    | 0x12 => some o.d
    | 0x13 => some lit
    | 0x14 => some (o.f.zeroExtend 64)
    | _ => none

/-- Write a destination selector. -/
def microDst (r : MicroRun) (sel : Nat) (v : Word64) : Option MicroRun :=
  if sel < 16 then some { r with u := r.u.set! sel v }
  else match sel with
    | 0x18 => some { r with result := some v }
    | 0x19 => some { r with nzcv := some (v.truncate 4) }
    | 0x1A => some { r with lc := v.toNat % 4096 }
    | _ => none

/-- A MUL-group micro-op on the routine's own MD registers (log 34): the new registers, and the value for DST. -/
def microMul (fn : Nat) (x y : Word64) (r : MicroRun) : Option (MicroRun × Option Word64) :=
  match fn with
  | 0x00 | 0x01 =>
    let p := mulProduct (fn == 0) x y
    some ({ r with mdh := p.extractLsb' 64 64, mdl := p.extractLsb' 0 64 }, none)
  | 0x02 | 0x03 => some ({ r with mda := r.mda + macSum (fn == 2) x y }, none)
  | 0x10 => some (r, some r.mdh)
  | 0x11 => some (r, some r.mdl)
  | 0x12 => some (r, some r.mda)
  | 0x18 => some ({ r with mdh := x }, none)
  | 0x19 => some ({ r with mdl := x }, none)
  | 0x1A => some ({ r with mda := x }, none)
  | _ => none

/-- The unit's part of a micro-word (UNIT, FN): the value for DST, if there is one. -/
def microUnit (unit fn : Nat) (x y : Option Word64) (r : MicroRun) : Option (MicroRun × Option Word64) :=
  match unit with
  | 3 => some (r, none)
  | 0 => match x, y with
    | some x, some y => (aluOp fn x y r.flags).map (fun o => ({ r with flags := o.nzcv }, some o.val))
    | _, _ => none
  | 1 => match x, y with
    | some x, some y => microMul fn x y r
    | _, _ => none
  | _ => match x, y with
    | some x, some y => if fn < 3 then some (r, some (crcByte fn x (y.truncate 8))) else none
    | _, _ => none

/-- Does a buffered store of the routine overlap a load? -/
def storesOverlap (st : List (List Part × Nat)) (ps : List Part) : Bool :=
  st.any (fun e => e.1.any (fun p => ps.any (fun q => decide (p.pa < q.pa + q.size) && decide (q.pa < p.pa + p.size))))

/-- The checks of a routine's access (R213): range, translation, and Normal memory only. -/
def microPrep (k : CoreId) (a : XKind) (va size : Nat) (s : State) : Prep × State :=
  let (p, s') := prepPart k a va (min size (64 - va % 64)) s
  match p with
  | .ok [q] => if q.type.isDev then (.exc (excAt 0x06 va (a = .write)), s')
    else
      match prepare k a va size s with
      | (.ok ps, s'') => if ps.any (fun p => p.type.isDev) then (.exc (excAt 0x06 va (a = .write)), s'') else (.ok ps, s'')
      | other => other
  | other => (other, s')

/-- The next micro-address (SEQ), and the routine after it; none: END. -/
def microSeq (seq tgt cond : Nat) (r : MicroRun) : Option (MicroRun × Option Nat) :=
  let next := some (r, some (r.upc + 1))
  match seq with
  | 0 => next
  | 1 => some (r, some tgt)
  | 2 => if h : cond < 15 then (if condHolds ⟨cond, h⟩ r.flags then some (r, some tgt) else next) else none
  | 3 =>
    let lc := (r.lc + 4095) % 4096
    let r := { r with lc := lc }
    if lc ≠ 0 then some (r, some tgt) else some (r, some (r.upc + 1))
  | 4 => some (r, none)
  | _ => none

/-- The memory part of a micro-word. -/
def microMem (k : CoreId) (mem size dst : Nat) (x y : Option Word64) (r : MicroRun) (s : State) : MicroAns × State :=
  match mem, x with
  | 0, _ => (.run r, s)
  | 1, some x =>
    let (p, s) := microPrep k .read x.toNat (2 ^ size) s
    match p with
    | .exc e => (.exc e, s)
    | .wait => (.wait, s)
    | .ok ps =>
      if storesOverlap r.stores ps then
        let (v, s) := s.draw
        ((match microDst r dst (v &&& BitVec.ofNat 64 (2 ^ (8 * 2 ^ size) - 1)) with
          | some r => .run r
          | none => .bad), s)
      else
        let (d, s) := readParts k .none true ps s
        match d with
        | .data v => ((match microDst r dst (BitVec.ofNat 64 v) with
          | some r => .run r
          | none => .bad), s)
        | .poison => (.exc (machineCheck 0x03), s)
        | .error pa => (.exc (excAt 0x0C pa), s)
        | _ => (.wait, s)
  | 2, some x =>
    match y with
    | none => (.bad, s)
    | some y =>
      if 4 ≤ r.stores.length then (.bad, s)
      else
        let (p, s) := microPrep k .write x.toNat (2 ^ size) s
        match p with
        | .exc e => (.exc e, s)
        | .wait => (.wait, s)
        | .ok ps => (.run { r with stores := r.stores ++ [(ps, y.toNat % 2 ^ (8 * 2 ^ size))] }, s)
  | _, _ => (.bad, s)

/-- One micro-word (R212). -/
def microStep (k : CoreId) (o : MicroOps) (w : BitVec 128) (r : MicroRun) (s : State) : MicroAns × State :=
  let v := w.toNat
  let lit := BitVec.ofNat 64 v
  let x := microSrc o lit r (slice v 86 6)
  let y := microSrc o lit r (slice v 80 6)
  let dst := slice v 92 6
  let mem := slice v 78 2
  if slice v 64 12 ≠ 0 then (.bad, s)
  else match microUnit (slice v 104 2) (slice v 98 6) x y r with
    | none => (.bad, s)
    | some (r, val) =>
      let r? := match val with
        | some val => if mem = 1 then some r else microDst r dst val
        | none => some r
      match r? with
      | none => (.bad, s)
      | some r =>
        let (m, s) := microMem k mem (slice v 76 2) dst x y r s
        match m with
        | .run r =>
          match microSeq (slice v 124 4) (slice v 110 14) (slice v 106 4) r with
          | none => (.bad, s)
          | some (r, none) => (.fin { r with cyc := r.cyc + 1 }, s)
          | some (r, some a) => (.run { r with upc := a, cyc := r.cyc + 1 }, s)
        | other => (other, s)

/-- Up to `n` micro-words. -/
def microLoop (k : CoreId) (o : MicroOps) (mp : Option (BitVec 14)) : Nat → MicroRun → State → MicroAns × State
  | 0, r, s => (.run r, s)
  | n + 1, r, s =>
    if r.upc < 0x3800 || 0x4000 ≤ r.upc then (.bad, s)
    else if mp == some (BitVec.ofNat 14 r.upc) || s.mcsBad.contains (clusterOf k.val, r.upc) then
      match microParity k r.upc s with
      | .exc e s => (.exc e, s)
      | _ => (.bad, s)
    else
      let (a, s) := microStep k o (s.mcsWord r.upc) r s
      match a with
      | .run r => microLoop k o mp n r s
      | other => (other, s)

/-! ### Customer instructions -/

/-- Code of a customer instruction (R209). -/
def customCode (op : Fin 8) (a : RArgs) : Nat := op.val * 128 + a.fn.toNat
/-- Lowest level of code c; 0b10 acts as Monitor. -/
def State.customLevel (s : State) (c : Nat) : Nat := if s.get MCS_CXENT_LEVEL c = 2 then 3 else s.get MCS_CXENT_LEVEL c

/-- A routine at its first micro-word. What the temporaries, the loop counter and the micro-flags hold there is open: free
values. -/
def startRun (c : Core) (entry limit : Nat) (s : State) : MicroRun × State :=
  let v (i : Nat) : Word64 := Config.freeWord (s.fresh + i)
  let c := c.landAll
  (⟨0x3800 + entry, (v 16).toNat % 4096, Vector.ofFn (fun i => v i.val), (v 17).truncate 4, none, none,
    c.mdh, c.mdl, c.mda, [], 0, limit⟩, { s with fresh := s.fresh + 18 })

/-- The buffered stores leave in order (R214). -/
def microStores (k : CoreId) : List (List Part × Nat) → State → State × Bool
  | [], s => (s, true)
  | (ps, v) :: rest, s =>
    let (s, ok) := issueStores k ps v s
    if ok then microStores k rest s else (s, false)

/-- END: RESULT, NZCV and the buffered stores as one commit. -/
def microCommit (k : CoreId) (rd : Fin 32) (r : MicroRun) (s0 s : State) : Act :=
  let s := s.mapCore k (fun c =>
    let c := match r.result with
      | some v => c.setReg rd v
      | none => c
    let c := match r.nzcv with
      | some f => c.setFlags f
      | none => c
    { c with micro := none })
  let (s, ok) := microStores k r.stores s
  if ok then .done s else .stall s0

/-- A routine is abandoned (R211). -/
def microAbandon (k : CoreId) (s : State) : Act :=
  .exc (excPlain 0x01 0x0100) (s.mapCore k (fun c => { c with micro := none, bank := none }))

/-- Run a routine to its next micro-trap point, its end or its limit. A micro-word that the customer region may not hold
never reaches END. -/
def runRoutine (k : CoreId) (code : Nat) (a : RArgs) (mp : Option (BitVec 14)) (r : MicroRun) (s : State) : Act :=
  let c := s.core k
  let o : MicroOps := ⟨c.reg a.rs1, c.reg a.rs2, c.reg a.rd, c.flags⟩
  let left := r.limit - r.cyc
  let n := if s.flag MCS_CXENT_MT code then min left (16 - r.cyc % 16) else left
  let (m, s1) := microLoop k o mp n r s
  match m with
  | .run r => .stall (s1.mapCore k (fun c => { c with micro := some r }))
  | .fin r => microCommit k a.rd r s s1
  | .exc e => .exc e (s1.mapCore k (fun c => { c with micro := none, bank := none }))
  | .bad => microAbandon k s1
  | .wait => .stall s

/-- A customer instruction: it starts (R210), resumes from the micro-state bank (R202), or goes on from its micro-trap
point. -/
def execCustomerInstruction (i : XIssue) (op : Fin 8) (a : RArgs) (mp : Option (BitVec 14)) (s : State) : Result :=
  let k := i.core
  let code := customCode op a
  match (s.core k).micro with
  | some r =>
    if s.coreRuns k && decide (r.cyc < r.limit) then .next (finishAct k s (runRoutine k code a mp r s))
    else .next s
  | none =>
    runInstr ⟨k, .customerInstruction i.clean op a none, none, i.par,
      s.flag MCS_CXENT_VALID code && s.get MCS_CXENT_CYC code != 0 && s.get MCS_CXENT_SEAT code == (s.core k).seatid,
      s.customLevel code, [a.rd, a.rs1, a.rs2], false, false⟩
      (fun s =>
        let c := s.core k
        match c.bank with
        | some b =>
          if b.pc = c.pc ∧ b.seat = c.seatid then
            runRoutine k code a mp b.run (s.mapCore k (fun c => { c with bank := none }))
          else
            let (r, s) := startRun c (s.get MCS_CXENT_ENTRY code) (s.get MCS_CXENT_CYC code) s
            runRoutine k code a mp r s
        | none =>
          let (r, s) := startRun c (s.get MCS_CXENT_ENTRY code) (s.get MCS_CXENT_CYC code) s
          runRoutine k code a mp r s) s

/-- A routine that has used its CYC micro-cycles without END is abandoned (R211). -/
def execCustomerRoutineTimeout (k : CoreId) (s : State) : Result :=
  match (s.core k).micro with
  | some r => if s.coreRuns k && decide (r.limit ≤ r.cyc) then .next (finishAct k s (microAbandon k s)) else .next s
  | none => .next s

/-- Is the routine at a micro-trap point: 16 micro-cycles further, not at its limit? -/
def MicroRun.atPoint (r : MicroRun) : Bool := r.cyc % 16 == 0 && decide (0 < r.cyc)

/-- The micro-state goes to the bank, and the routine stands at its instruction (R201). -/
def Core.saveMicro (c : Core) : Core :=
  match c.micro with
  | some r => { c with bank := some ⟨r, c.pc, c.seatid⟩, micro := none }
  | none => c

/-- A micro-trap: at a micro-trap point the pending event is taken, with EPC naming the instruction. -/
def execMicroTrap (k : CoreId) (s : State) : Result :=
  match (s.core k).micro with
  | some r =>
    if r.atPoint && s.coreRuns k && !(s.core k).twOn && !(s.core k).haltReq &&
        (s.heldEvent k (s.core k).pl (s.core k).ie).isSome then
      .next (takeHeld k (fun _ => true) (s.mapCore k Core.saveMicro))
    else .next s
  | none => .next s

end Sys2Proof.Machine
end

