-- ==== Sys2Proof/Machine/Remote.lean ====
section
/-!
DEFINITION. Accesses on behalf of another device or of the debugger: requests through an export (R545), and accesses that pass
a seat's table (R223).
-/

namespace Sys2Proof.Machine

/-- The answer of a coherent access, as the answer of a request. -/
def BusAns.ofDma : DmaAns → BusAns
  | .ok v => .ok v
  | .poison => .poison
  | .error => .error
  | .wait => .wait

/-- A read of `n` bytes for `seat` through its seat table, in the class of the page. -/
def checkedRead (seat pa n : Nat) (s : State) : BusAns × State :=
  match checkSeat seat pa .read s with
  | .wait => (.wait, s)
  | .fault _ _ => (.error, s)
  | .ok leaf =>
    if leaf.g && (isDstore pa || isDram pa) then
      let (r, s) := dmaRead seat pa n s
      (BusAns.ofDma r, s)
    else busRead seat pa n .none false s

/-- A write of `n` bytes for `seat` through its seat table. -/
def checkedWrite (seat pa n v : Nat) (s : State) : BusAns × State :=
  match checkSeat seat pa .write s with
  | .wait => (.wait, s)
  | .fault _ _ => (.error, s)
  | .ok leaf =>
    if leaf.g && (isDstore pa || isDram pa) then
      let (r, s) := dmaWrite seat pa n v s
      (BusAns.ofDma r, s)
    else busWrite none seat pa n v s

/-- The export that serves a request: the first that is enabled, contains the offset, names the requester and allows the access. -/
def State.exportFor (s : State) (ofs src seat : Nat) (write : Bool) : Option Nat :=
  (List.range 16).find? (fun x =>
    s.flag UCL_EXPBASE_EN x && decide (s.get UCL_EXPOFS_PAGES x ≤ ofs / 0x1000) &&
      decide (ofs / 0x1000 ≤ s.get UCL_EXPOFS_PAGES x + s.get UCL_EXPSIZE_PAGES x) &&
      s.get UCL_EXPCFG_SRCDEV x == src && s.get UCL_EXPCFG_SRCSEAT x == seat &&
      (if write then s.flag UCL_EXPCFG_WR x else s.flag UCL_EXPCFG_RD x))

/-- The access that export x makes for a request. -/
def exportAccess (x ofs n : Nat) (write : Bool) (v : Nat) (s : State) : BusAns × State :=
  let seat := s.get UCL_EXPCFG_SEAT x
  let pa := s.get UCL_EXPBASE_ADDR x * 0x1000 + (ofs - s.get UCL_EXPOFS_PAGES x * 0x1000)
  if !(n == 1 || n == 2 || n == 4 || n == 8) || ofs % n != 0 then (.error, s)
  else if s.seatSafe seat || s.seatResetting seat then (.error, s)
  else if write then checkedWrite seat pa n v s
  else checkedRead seat pa n s

/-- Status and data of the answer to a request; none where the access has to wait. -/
def exportStatus (write : Bool) : BusAns → Option (Nat × Nat)
  | .ok v => some (0, if write then 0 else v)
  | .poison => some (2, 0)
  | .error => some (1, 0)
  | .wait => none

/-- What the export engine answers to a request that export x serves, if one does: status and data; none where the access has to
wait. -/
def serveBy (c : Cell) (x : Option Nat) (s : State) : Option (Nat × Nat) × State :=
  match x with
  | none => (some (1, 0), s)
  | some x =>
    let write := c.type.val ≠ cellRd
    let (r, s) := exportAccess x (bytesAt c.payload 0 8 % 2 ^ 35) (bytesAt c.payload 8 1) write (bytesAt c.payload 16 8) s
    (exportStatus write r, s)

/-- What the export engine answers to a request. A size or alignment that R544 does not carry matches no export. -/
def serveRequest (c : Cell) (s : State) : Option (Nat × Nat) × State :=
  serveBy c (s.exportFor (bytesAt c.payload 0 8 % 2 ^ 35) c.src.toNat c.sseat.val (c.type.val ≠ cellRd)) s

/-- The answer to request c leaves: a posted write is answered only with an error (Table UCL-2). -/
def sendAnswer (c : Cell) (st v : Nat) (s : State) : State :=
  if c.type.val = cellPw ∧ st = 0 then s
  else match s.ownAddr with
    | none => s
    | some own =>
      match s.outPort own c.src.toNat with
      | none => s
      | some p =>
        sendCell p { mkCell cellRsp own c.src.toNat with
          dseat := c.sseat, tag := c.tag, payload := bytesOf st 8 ++ bytesOf v 8 } s

/-- Request c leaves the queue for its answer; `s`: the state before it was served, which stays where the access has to wait. -/
def answerFirst (c : Cell) (rest : List (Nat × Cell)) (s : State) (r : Option (Nat × Nat) × State) : State :=
  match r with
  | (none, _) => s
  | (some (st, v), t) => sendAnswer c st v (clearSent { t with ucl := { t.ucl with requests := rest } })

/-- The oldest request received is served, and answered. -/
def execRemoteRequest (s : State) : Result :=
  match s.ucl.requests with
  | [] => .next s
  | (_, c) :: rest => .next (answerFirst c rest s (serveRequest c s))

end Sys2Proof.Machine
end

