-- ==== Sys2Proof/Machine/System.lean ====
section
/-!
DEFINITION. The system instructions (Table ISA-6): MFC and MTC, barriers, ISYNC, FLUSHW, SWSEAT, RETI, TRAP, BRK and
WAIT.
-/

namespace Sys2Proof.Machine

/-- Every operand field of a register-format system instruction is 0. -/
def noFields (a : RArgs) : Bool := a.rd == 0 && a.rs1 == 0 && a.rs2 == 0 && a.fn == 0

/-! ### Waits -/

/-- A posted store that has been sent has reached its posting point (R291). -/
def StoreEntry.posted (e : StoreEntry) : Bool := e.type == .devicePosted && e.sent
/-- Every earlier store is performed at CLU and SYS, or is posted. -/
def Core.storesDone (c : Core) : Bool := c.stores.all StoreEntry.posted
/-- Every earlier store is performed as the core itself and its devices see it: strict stores have their answer, and
the others have left the buffer. -/
def Core.storesSent (c : Core) : Bool := c.stores.all (fun e => e.sent && e.type != .deviceStrict)

/-! ### MFC and MTC -/

/-- Lowest level at which control register n may be read, and written: a register without a write level ignores a write
at or above its read level (R85). -/
def readLevel (n : Nat) : Nat := ((ctrlLevels n).map (·.1)).getD 0
def writeLevel (n : Nat) : Nat := ((ctrlLevels n).map (fun p => p.2.getD p.1)).getD 0

/-- MFC: rd takes control register imm12. -/
def execMfc (i : XIssue) (a : IArgs) (s : State) : Result :=
  let k := i.core
  let n := a.imm.toNat
  runInstr ⟨k, .mfc i.clean a, none, i.par, (ctrlLevels n).isSome && a.rs1 == 0, readLevel n, [a.rd], false, false⟩
    (fun s => .done (s.mapCore k (fun c => c.setReg a.rd (s.readCtrl k n)))) s

/-- Entering deterministic mode cleans and invalidates the L1 caches (Table PIPE-7). A reservation that an L1D line
held goes with the line (R114). -/
def Core.clearL1 (c : Core) : Core :=
  { c with
    l1i := [], l1d := [], victim := []
    reservation := match c.reservation with
      | some r => if r.cached then none else some r
      | none => none }

/-- The DM value that a write of PSTATE asks for (R162). -/
def State.dmWanted (s : State) (k : CoreId) (v : Word64) : Bool :=
  v.getLsbD 11 && ((s.core k).dm || s.get IBC_DMLATS_CYC k.val != 0)

/-- MTC to PSTATE, with the mode change of Table PIPE-7. -/
def writePstate (k : CoreId) (v : Word64) (s : State) : Act :=
  let c := s.core k
  let dm := s.dmWanted k v
  if dm == c.dm then .done (s.mapCore k (fun c => c.writeCtrl 0 v))
  else if !c.storesDone || (decide (11 ≤ c.res) && !c.twOn) then .stall s
  else
    .done (s.mapCore k (fun c =>
      let c := (c.settle.landAll.writeCtrl 0 v).setPs 11 1 (bit dm)
      if dm then c.clearL1 else c))

/-- MTC: control register imm12 takes rs1. -/
def execMtc (i : XIssue) (a : IArgs) (s : State) : Result :=
  let k := i.core
  let n := a.imm.toNat
  runInstr ⟨k, .mtc i.clean a, none, i.par, (ctrlLevels n).isSome && a.rd == 0, writeLevel n, [a.rs1], false, false⟩
    (fun s =>
      let v := (s.core k).reg a.rs1
      if n = 0 then writePstate k v s else .done (s.mapCore k (fun c => c.writeCtrl n v))) s

/-! ### Barriers -/

/-- Type and scope of BAR (Table ISA-13). -/
def barType (a : RArgs) : Nat := slice a.fn.toNat 2 2
def barScope (a : RArgs) : Nat := slice a.fn.toNat 0 2
def barLegal (a : RArgs) : Bool :=
  a.rd == 0 && a.rs1 == 0 && a.rs2 == 0 && slice a.fn.toNat 4 3 == 0 && barType a != 0 && barScope a != 3

/-- BAR (R290 to R294): earlier loads have their data already; a barrier that names stores waits for them at its
scope. -/
def execBar (i : XIssue) (a : RArgs) (s : State) : Result :=
  let k := i.core
  runInstr ⟨k, .bar i.clean a, none, i.par, barLegal a, 0, [], false, false⟩
    (fun s =>
      let c := s.core k
      let free := if barType a = 1 then true else if barScope a = 0 then c.storesSent else c.storesDone
      if free then .done s else .stall s) s

/-- LBAR: both sections complete, and any exception of theirs is taken first (R98, R137). -/
def execLbar (i : XIssue) (a : RArgs) (s : State) : Result :=
  let k := i.core
  runInstr ⟨k, .lbar i.clean a, none, i.par, noFields a, 0, [], false, false⟩
    (fun s =>
      let s := s.mapCore k Core.settle
      if (s.core k).longExcs.length ≠ 0 then .stall (stepEnds k (takeLong k s)) else .done s) s

/-- ISYNC: what follows is fetched again, which every instruction of this model is. -/
def execIsync (i : XIssue) (a : RArgs) (s : State) : Result :=
  runInstr ⟨i.core, .isync i.clean a, none, i.par, noFields a, 0, [], false, false⟩ (fun s => .done s) s

/-! ### FLUSHW -/

/-- Spill until `n` resident windows are left, at most `fuel` of them. -/
def spillTo (k : CoreId) (n : Nat) : Nat → State → EngineAns × State
  | 0, s => (.ok, s)
  | f + 1, s =>
    if (s.core k).res ≤ n then (.ok, s)
    else
      let (a, s1) := spillOne k s
      match a with
      | .ok => spillTo k n f s1
      | other => (other, s1)

/-- Does a resident window that a flush to `n` spills have a result outstanding (R97)? -/
def Core.flushBlocked (c : Core) (n : Nat) : Bool :=
  (List.range (c.res - n)).any (fun i => c.windowAwaited ((c.cwp + 13 - c.res + i) % 12))

/-- Spill down to `n` windows and write every spilled record (R113): each spill is architectural as it completes
(R204), and one that fails raises a spill fault. -/
def flushWindows (k : CoreId) (n : Nat) (then_ : State → Act) (s : State) : Act :=
  if (s.core k).flushBlocked n then .stall s
  else
    let (a, s1) := spillTo k n 12 s
    match a with
    | .wait => .stall s1
    | .fault code va => .stall (stepEnds k (windowFault k 0x13 code va (s1.mapCore k Core.settle)))
    | .ok =>
      let s2 := drainWhere k (fun e => !e.type.isDev) (((s1.core k).stores.length + 1) ^ 2) s1
      if (s2.core k).stores.any (fun e => !e.type.isDev) then .stall s2 else then_ s2

/-- FLUSHW: only the current window stays resident. -/
def execFlushw (i : XIssue) (a : RArgs) (mp : Option (BitVec 14)) (s : State) : Result :=
  let k := i.core
  runInstr ⟨k, .flushw i.clean a none, none, i.par, a.rd == 0 && a.rs1 == 0 && a.rs2 == 0 && a.fn == 0, 0, [], false, false⟩
    (microBody k mp (fun s => flushWindows k 1 .done s)) s

/-- B0 to B3 of the current window read 0. -/
def Core.clearB (c : Core) : Core :=
  [0, 1, 2, 3].foldl (fun c n => c.setP (.win ((c.cwp + 1) % 12) n) 0) c

/-- FLUSHW.A: no window stays resident, and B0 to B3 read 0 until written. -/
def execFlushwA (i : XIssue) (a : RArgs) (mp : Option (BitVec 14)) (s : State) : Result :=
  let k := i.core
  runInstr ⟨k, .flushwA i.clean a none, none, i.par, a.rd == 0 && a.rs1 == 0 && a.rs2 == 0 && a.fn == 1, 0, [], false, false⟩
    (microBody k mp (fun s => flushWindows k 0 (fun s => .done (s.mapCore k Core.clearB)) s)) s

/-! ### SWSEAT -/

/-- Address of the context record of a seat on a core (R123). -/
def recordAddr (seat : Nat) (k : CoreId) : Nat := 0x07040000 + (seat * 32 + k.val) * 0x100

/-- The 32 doublewords of the record of a context (Table ISA-14, Table XLAT registers). -/
def Core.context (c : Core) : List Word64 :=
  ([1] : List Word64) ++ (List.range 11).map (fun i => c.g[i + 1]!) ++ [c.mdh, c.mdl, c.mda, c.pstate, c.epc, c.ecause, c.eaddr, c.lxa,
    c.tvec, c.rpcnt, BitVec.ofNat 64 (c.res * 256 + c.cwp), c.wspill, c.fstat, c.ptroot, c.ptctl, c.fpa, 0, 0, 0, 0]

/-- Write doublewords at `a`, past every stage and cache (R124). -/
def writeDoublewords (a : Nat) : List Word64 → State → State
  | [], s => s
  | w :: ws, s => writeDoublewords (a + 8) ws (s.writeMem a 8 w.toNat)

/-- The context of a record, with RES = 0. Reserved bits are not loaded. -/
def Core.loadContext (c : Core) (w : Nat → Word64) : Core :=
  { c with
    g := Vector.ofFn (fun i => if i.val = 0 then 0 else w i.val)
    mdh := w 12, mdl := w 13, mda := w 14
    pstate := w 15 &&& 0xF0000FF0
    epc := w 16 &&& 0x0000FFFFFFFFFFFC, ecause := w 17 &&& 0x000000FFFF0700FF, eaddr := w 18
    lxa := w 19 &&& 0x0000FFFFFFFFFFFF, tvec := w 20, rpcnt := w 21 &&& 0x800000000000FFFF
    res := 0, cwp := slice (w 22).toNat 0 4 % 12, wspill := w 23 &&& 0x0000FFFFFFFFFF80, fstat := w 24 &&& 0x1F1F
    ptroot := w 25 &&& 0x0FFFFFFFFFFFF000, ptctl := w 26 &&& 3, fpa := w 27 &&& 0x0000FFFFFFFFFFFF }

/-- Step 4 (R122, R258): no register state of the outgoing context stays. -/
def Core.cleared (c : Core) : Core :=
  { c with
    g := Vector.replicate 12 0, win := Vector.replicate 12 (Vector.replicate 16 0), tw := Vector.replicate 20 0
    mdh := 0, mdl := 0, mda := 0, mdFlight := [], ras := [], targets := [], reservation := none
    l1i := [], l1d := [], victim := [], bank := none, afterReti := false }

/-- Steps 5 to 7: the incoming seat, its sequences (R257), its context, and the return. -/
def switchIn (k : CoreId) (seat : Nat) (s : State) : Act :=
  let (v, s) := s.drawSeed
  let (v2, s) := s.drawSeed
  let cl := clusterOf k.val
  let l := s.l2[cl]!
  let s := { s with l2 := s.l2.set! cl { l with lfsr := l.lfsr.set! seat v2 } }
  let a := recordAddr seat k
  let w (i : Nat) : Word64 := BitVec.ofNat 64 (s.readMem (a + 8 * i) 8)
  let s := traceSeat k 0 s
  let s := s.mapCore k (fun c =>
    let c := { c with seatid := seat, lfsr := v }.loadContext w
    { (((c.setPs 6 2 c.ppl).setPs 4 1 (bit c.pie)).setPs 10 1 0) with switchEv := none, switching := false })
  .ret (s.core k).epc (traceSeat k seat s)

/-- VALID of the record of a seat on a core. -/
def State.recordValid (s : State) (seat : Nat) (k : CoreId) : Bool := s.readMem (recordAddr seat k) 8 % 2 == 1

/-- After step 4, with the context of `out` saved: an incoming record with VALID = 0 stops the core. -/
def switchLoad (k : CoreId) (out seat : Nat) (s : State) : Act :=
  if s.recordValid seat k then switchIn k seat s
  else .stall (reportFault 0x05 out k.val 0 (s.mapCore k (fun c => { c with run := .stopped })))

/-- Steps 3 to 7 of a switch to `seat`: the outgoing context is saved, and nothing of it stays. -/
def switchOver (k : CoreId) (seat : Nat) (s : State) : Act :=
  if !(s.core k).storesDone then .stall s
  else
    let out := (s.core k).seatid
    switchLoad k out seat ((writeDoublewords (recordAddr out k) (s.core k).context s).mapCore k Core.cleared)

/-- The switch that the event held asks for: outstanding work ends first, then every window is saved. -/
def switchSeat (k : CoreId) (s : State) : Act :=
  match (s.core k).switchEv with
  | none => .exc (excPlain 0x03) s
  | some ev =>
    if !(s.core k).storesDone then .stall s
    else
      let s := s.mapCore k (fun c => c.settle.landAll)
      if (s.core k).longExcs.length ≠ 0 then .stall (stepEnds k (takeLong k s))
      else flushWindows k 0 (switchOver k ev.seat) s

/-- SWSEAT (R122 to R124, R192). -/
def execSwseat (i : XIssue) (a : RArgs) (mp : Option (BitVec 14)) (s : State) : Result :=
  let k := i.core
  runInstr ⟨k, .swseat i.clean a none, none, i.par, noFields a, 3, [], false, false⟩ (microBody k mp (switchSeat k)) s

/-! ### RETI -/

/-- The window exit of RETI (R186): out of the trap window, or back to the caller's window. -/
def Core.exitWindow (c : Core) : Core :=
  if c.twOn then { c.setPs 10 1 0 with switching := false }
  else { c with cwp := (c.cwp + 11) % 12, res := c.res - 1 }

/-- RETI's commit. -/
def Core.returnFrom (c : Core) : Core :=
  let c := c.exitWindow
  { (c.setPs 6 2 c.ppl).setPs 4 1 (bit c.pie) with reservation := none }

/-- A chained entry (R187): EPC, PPL and PIE keep their values, PL, ECAUSE and EADDR are the new cause's, and the window
is what the exit followed by the entry leaves. -/
def Core.chained (c : Core) (e : Exc) : Core :=
  let pl := if toMonitor c.ppl e.code then 3 else 1
  let vec := { c with pstate := (c.setPs 6 2 c.ppl).pstate }.vector e.code
  let c := c.exitWindow
  let c := if intoTw e.code then c.setPs 10 1 1 else { c with cwp := (c.cwp + 1) % 12, res := c.res + 1 }
  { (c.setPs 6 2 pl).setPs 4 1 0 with
    ecause := ecauseWord e (intoTw e.code), eaddr := e.eaddr.getD c.eaddr, reservation := none, cmpSkip := none
    afterReti := false, pc := BitVec.ofNat 64 vec }

/-- RETI abandons its exit for a pending event. -/
def chainTo (k : CoreId) (h : HeldEvent) (s : State) : State :=
  let s := consumeHeld k h (pmCount k 0x01 s)
  let s := s.mapCore k (fun c => c.landAll.chained (heldExc h))
  fetchVector k (traceExc k (heldExc h).code (s.core k).pc.toNat s)

/-- RETI (R186, R187): to EPC at level PPL with IE = PIE, unless an event that R179 allows there chains. -/
def execReti (i : XIssue) (a : RArgs) (s : State) : Result :=
  let k := i.core
  runInstr ⟨k, .reti i.clean a, none, i.par, noFields a, 1, [], false, false⟩
    (fun s =>
      let c := s.core k
      match s.heldEvent k c.ppl c.pie with
      | some h =>
        let s := s.mapCore k Core.settle
        if (s.core k).longExcs.length ≠ 0 then .stall (stepEnds k (takeLong k s))
        else .stall (stepEnds k (chainTo k h s))
      | none =>
        if !c.twOn && decide (c.res ≤ 1) then .stall (s.mapCore k (fun c => { c with fillWait := true }))
        else .ret c.epc (traceTime k (traceTarget k 0x5 c.epc (s.mapCore k Core.returnFrom)))) s

/-! ### TRAP, BRK, WAIT -/

/-- TRAP: a system call that carries imm12. -/
def execTrap (i : XIssue) (a : IArgs) (s : State) : Result :=
  runInstr ⟨i.core, .trap i.clean a, none, i.par, a.rd == 0 && a.rs1 == 0, 0, [], false, false⟩
    (fun s => .excAfter (excPlain 0x0F a.imm.toNat) s) s

/-- Does a grant with HALT, or the state MAKER or DEVELOPMENT, cover a seat (Table DBG-2)? -/
def State.debugCovers (s : State) (seat : Nat) : Bool :=
  s.lifeCycle == lcMaker || (s.lifeCycle == lcDevelopment && seat != 0) ||
    (decide (1 ≤ seat) && s.flag DBG_GRANT_VALID seat && s.flag DBG_GRANT_HALT seat)

/-- BRK: a breakpoint exception, or a halt at its retirement boundary (R593). -/
def execBrk (i : XIssue) (a : IArgs) (s : State) : Result :=
  let k := i.core
  runInstr ⟨k, .brk i.clean a, none, i.par, a.rd == 0 && a.rs1 == 0 && a.imm == 0, 0, [], false, false⟩
    (fun s =>
      if s.vddDbg && s.flag DBG_CCTL_BRKHALT k.val && s.debugCovers (s.core k).seatid then
        .done (s.mapCore k (fun c => { c with haltReq := true }))
      else .exc (excPlain 0x10) s) s

/-- WAIT (R119, R564 to R567): C1, C2 or C3 as DEPTH selects; 0b00 acts as C1. C2 and C3 wait for the core's
outstanding work first. -/
def execWait (i : XIssue) (a : RArgs) (s : State) : Result :=
  let k := i.core
  runInstr ⟨k, .wait i.clean a, none, i.par, noFields a, 1, [], false, false⟩
    (fun s =>
      let s := if (s.core k).dm then s.put IBC_DMSTAT_VAR 1 k.val else s
      let d := s.get PWC_CCTL_DEPTH k.val
      if d ≤ 1 then .done (coreSleep k 1 s)
      else if !(s.core k).storesDone then .stall s
      else
        let s := s.mapCore k (fun c => c.settle.landAll)
        if (s.core k).longExcs.length ≠ 0 then .stall (stepEnds k (takeLong k s))
        else if d = 2 then .done (coreSleep k 2 s)
        else .stall (coreSleep k 3 (pmCount k 0x01 s))) s

end Sys2Proof.Machine
end

