-- ==== Sys2Proof/Machine/Dbg.lean ====
section
/-!
DEFINITION. Debug (R583 to R598): the DBG registers, halts, steps, the registers of a halted core, debug memory accesses,
cross-triggers, the TAP, and the supply of the debug domain.
-/

namespace Sys2Proof.Machine

/-! ### Halt, step, resume -/

/-- A write of CCTL.HALTREQ: a halt is requested where a grant, or MAKER, covers the core's seat. -/
def requestHalt (k : CoreId) (s : State) : State :=
  if s.mayHalt (s.debugSeat k) && (s.core k).run != .halted && (s.core k).run != .stopped then
    s.mapCore k (fun c => { c with haltReq := true })
  else s

/-- A write of CCTL.RESUME, or of STEP: refused for a locked pair in FIELD (R591). -/
def resumeWrite (step : Bool) (k : CoreId) (s : State) : State :=
  if (s.core k).run != .halted || !s.mayHalt (s.debugSeat k) then s
  else if s.haltFinal k then s.put DBG_CCTL_RESREF 1 k.val
  else resumeCore step k s

/-- The next retirement boundary of a core with a halt request (R589): a load that has not been sent to a device is dropped and
executes again, a running routine has reached a micro-trap point. -/
def execDebugHalt (k : CoreId) (s : State) : Result :=
  let s' := s.mapCore k (fun c =>
    let c := match c.micro with
      | some r => if r.atPoint then c.saveMicro else c
      | none => c
    if c.atBoundary then { c with load := none, fillWait := false } else c)
  .next (if s.vddDbg && (s.core k).haltReq && s.coreRuns k && (s'.core k).atBoundary then enterHalt k s' else s)

/-! ### Cross-trigger membership (R598) -/

/-- Seats of the units that channel c joins: cores halted by it or raising it, comparators that raise it, lanes it halts. -/
def State.channelSeats (s : State) (c : Nat) : List Nat :=
  let cores := (List.finRange 32).filter (fun k =>
    s.bitOf DBG_CCTL_TRIGIN c k.val || (s.flag DBG_CCTL_TOEN k.val && s.get DBG_CCTL_TOCH k.val == c))
  let cmps := (List.range 32).flatMap (fun n => ((List.range 8).filter (fun j =>
    s.flag DBG_CMPCTL_EN n j && s.flag DBG_CMPCTL_TOEN n j && s.get DBG_CMPCTL_CH n j == c)).map
      (fun j => s.get DBG_CMPCTL_SEAT n j))
  let lanes := (List.range 4).flatMap (fun g =>
    if s.bitOf DBG_LGXT_CHAN c g then
      ((List.range 16).filter (fun i => s.bitOf DBG_LGXT_LANES i g)).map (fun i => s.laneOwner (16 * g + i))
    else [])
  cores.map s.debugSeat ++ cmps ++ lanes

/-- A cross-trigger write that leads from `s` to `t`: in FIELD, one that would join units of two seats in a channel whose
membership it changes, or a unit of an ungranted seat, leaves the register unchanged and sets XTERR. -/
def crossWrite (s t : State) : State :=
  let bad (c : Nat) : Bool :=
    let l := t.channelSeats c
    l != s.channelSeats c && (l.any (fun x => !s.mayHalt x) || l.any (fun x => some x != l.head?))
  if s.lifeCycle == lcField && (List.range 16).any bad then s.put DBG_STAT_XTERR 1 else t

/-! ### The registers of a halted core (R594) -/

/-- Does CRSEL name a register that exists, and that may be written where `wr`? -/
def crselNamed (space num : Nat) (wr : Bool) : Bool :=
  match space with
  | 0 => decide (num < 32)
  | 1 => match ctrlLevels num with
    | some (_, w) => !wr || w.isSome
    | none => false
  | _ => decide (num < 3)

/-- Read a register of core k. -/
def crRead (k : CoreId) (space num : Nat) (s : State) : Word64 :=
  let c := s.core k
  match space with
  | 0 => c.reg (Fin.ofNat 32 num)
  | 1 => s.readCtrl k num
  | 2 => c.readXlat num
  | _ => if num = 0 then c.mdh else if num = 1 then c.mdl else c.mda

/-- Write a register of core k: a control register as an MTC at Monitor level writes it. -/
def crWrite (k : CoreId) (space num : Nat) (v : Word64) (s : State) : State :=
  match space with
  | 0 => s.mapCore k (fun c => c.setReg (Fin.ofNat 32 num) v)
  | 1 =>
    let pl := (s.core k).pl
    let u := s.mapCore k (fun c => c.setPs 6 2 3)
    let t := if num = 0 then
        match writePstate k v u with
        | .done t => t
        | _ => u.mapCore k (fun c => c.writeCtrl 0 v)
      else u.mapCore k (fun c => c.writeCtrl num v)
    t.mapCore k (fun c => c.setPs 6 2 pl)
  | 2 => s.mapCore k (fun c => c.writeXlat num v)
  | _ => s.mapCore k (fun c => if num = 0 then { c with mdh := v } else if num = 1 then { c with mdl := v } else { c with mda := v })

/-- A write of DBG.CRSEL. -/
def crselWrite (k : CoreId) (v : Nat) (s : State) : State :=
  let n := k.val
  let space := slice v 12 2
  let num := slice v 0 12
  let wr := v.testBit 30
  let s := (s.put DBG_CRSEL_SPACE space n).put DBG_CRSEL_NUM num n
  if !v.testBit 31 then s
  else if (s.core k).run != .halted || !s.mayHalt (s.debugSeat k) || !crselNamed space num wr then s.put DBG_CRSEL_ERR 1 n
  else
    let s := s.put DBG_CRSEL_ERR 0 n
    if wr then crWrite k space num (BitVec.ofNat 64 (s.get DBG_CRDATA_DATA n)) s
    else s.put DBG_CRDATA_DATA (crRead k space num s).toNat n

/-! ### Debug memory access (R596, R597) -/

/-- May the DAM access memory stamped `seat`? -/
def State.damAllowed (s : State) (seat : Nat) (write : Bool) : Bool :=
  s.lifeCycle == lcMaker || s.lifeCycle == lcReturn ||
    (s.lifeCycle == lcDevelopment && seat == 0 && !write) ||
    (decide (1 ≤ seat) && s.flag DBG_GRANT_VALID seat && s.flag DBG_GRANT_MEM seat)

/-- A write of DBG.DAMCTL: the access starts, or is refused with ERR. While one is outstanding the register takes no write. -/
def damctlWrite (v : Nat) (s : State) : State :=
  if s.flag DBG_DAMCTL_BUSY then s
  else
    let s := writeFields 0 DBG_DAMCTL 0 0 v 0xFFFFFFFF s
    if !v.testBit 31 then s
    else
      let ok := s.damAllowed (s.get DBG_DAMCTL_SEAT) (s.flag DBG_DAMCTL_WR) &&
        s.get DBG_DAMADDR_ADDR % 2 ^ s.get DBG_DAMCTL_SIZE == 0
      (s.put DBG_DAMCTL_ERR (bit (!ok))).put DBG_DAMCTL_BUSY (bit ok)

/-! ### Register writes -/

/-- A write of DBG.CCTL: its settings, then the requests. -/
def cctlWrite (k : CoreId) (v : Nat) (s : State) : State :=
  let t := crossWrite s (writeFields 0 DBG_CCTL k.val 0 v 0xFFFFFFFF s)
  let t := if v.testBit 30 then requestHalt k t else t
  let t := if v.testBit 29 then resumeWrite false k t else t
  if v.testBit 28 then resumeWrite true k t else t

/-- A write of DBG.CMPCTL: EN stays 0 for a seat that no right covers. -/
def cmpctlWrite (n j v : Nat) (s : State) : State :=
  crossWrite s (writeFields 0 DBG_CMPCTL n j (if s.mayHalt (slice v 16 4) then v else v % 2 ^ 31) 0xFFFFFFFF s)

/-- A write of 32-bit word `a` of the DBG frame by seat 0 or the TAP (R583, Table DBG-3). -/
def dbgWrite (a v : Nat) (s : State) : State :=
  match regAt a with
  | none => s
  | some r =>
    let (i, j, h) := r.place a
    let plain := writeFields 0 r i j (v % 2 ^ 32 * 2 ^ (8 * h)) ((2 ^ 32 - 1) * 2 ^ (8 * h)) s
    let core (f : CoreId → State) : State := if h : i < 32 then f ⟨i, h⟩ else s
    if s.regAbsent r i then s
    else if r = DBG_CTL then thawWatchdogs s plain
    else if r = DBG_GRANT then (if v.testBit 31 then endGrant i s else s)
    else if r = DBG_DAMCTL then damctlWrite v s
    else if r = DBG_CCTL then core (fun k => cctlWrite k v s)
    else if r = DBG_CRSEL then core (fun k => crselWrite k v s)
    else if r = DBG_CMPCTL then cmpctlWrite i j v s
    else if r = DBG_LGXT then crossWrite s plain
    else plain

/-- Is `a` in the DBG frame? -/
def inDbg (a : Nat) : Bool := decide (0x20160000 ≤ a) && decide (a < 0x20170000)

/-- A write by seat 0 to anything it reaches. -/
def seat0Write (pa n v : Nat) (s : State) : BusAns × State :=
  if inDbg pa && !s.targetDown 0x51 then
    if n = 4 ∧ pa % 4 = 0 then (.ok 0, dbgWrite pa v s)
    else if n = 8 ∧ pa % 8 = 0 ∧ (wideAt pa = true ∨ reachesNarrow pa = false) then
      (.ok 0, dbgWrite (pa + 4) (v / 2 ^ 32) (dbgWrite pa v s))
    else (.error, s)
  else busWrite none 0 pa n v s

/-- A write to the DBG frame: no customer seat reaches it. -/
def dbgRow (by_ : Seat) (a v : Nat) (s : State) : Result :=
  if by_ ≠ 0 then .next (s.answer .error) else .next ((dbgWrite a v s).answer (.ok 0))

/-- The bit of CCTL alone, its settings as they stand. -/
def State.cctlWith (s : State) (k : CoreId) (b : Nat) : Nat :=
  withSlice (s.reg DBG_CCTL k.val % 2 ^ 28) 25 1 0 + 2 ^ b

def execDbgHaltreq (by_ : Seat) (k : CoreId) (s : State) : Result := dbgRow by_ (DBG_CCTL.addr k.val 0) (s.cctlWith k 30) s
def execDbgResume (by_ : Seat) (k : CoreId) (s : State) : Result := dbgRow by_ (DBG_CCTL.addr k.val 0) (s.cctlWith k 29) s
def execDbgStep (by_ : Seat) (k : CoreId) (s : State) : Result := dbgRow by_ (DBG_CCTL.addr k.val 0) (s.cctlWith k 28) s
def execCrselAccess (by_ : Seat) (k : CoreId) (value : Word32) (s : State) : Result :=
  dbgRow by_ (DBG_CRSEL.addr k.val 0) value.toNat s
def execDamGo (by_ : Seat) (value : Word32) (s : State) : Result := dbgRow by_ DBG_DAMCTL.base value.toNat s

/-! ### A debug memory access completes -/

/-- Is `pa` in the frame of an MVB, CAN, I2C, SPI or UART controller? -/
def isLegacyFrame (pa : Nat) : Bool := (List.range 20).any (fun c => decide (ctlFrame c ≤ pa) && decide (pa < ctlFrame c + 0x10000))

/-- A read of the DAM. With PEEK it has no side effects; remote accesses cannot peek, and which registers of a legacy controller hold
receive data is open: a free value says whether this one does. -/
def damRead (seat pa n : Nat) (s : State) : BusAns × State :=
  let peek := s.flag DBG_CTL_PEEK
  let (v, t) := s.draw
  if peek && (isRemote pa || (isLegacyFrame pa && v.getLsbD 0)) then
    (.ok 0, (if isRemote pa then s else t).put DBG_STAT_NOPEEK 1)
  else busRead seat pa n .none peek (if isRemote pa then remoteSend cellRd seat pa n 0 s else s)

/-- A write of the DAM. -/
def damWrite (seat pa n v : Nat) (s : State) : BusAns × State :=
  if seat = 0 then seat0Write pa n v (remoteSend cellWr seat pa n v s)
  else busWrite none seat pa n v (remoteSend cellWr seat pa n v s)

/-- The outstanding access passes the seat table of the seat it is stamped with, as best effort, and ends. -/
def execDamComplete (s : State) : Result :=
  if !s.flag DBG_DAMCTL_BUSY || !s.vddDbg then .next s
  else
    let seat := s.get DBG_DAMCTL_SEAT
    let wr := s.flag DBG_DAMCTL_WR
    let pa := s.get DBG_DAMADDR_ADDR
    let n := 2 ^ s.get DBG_DAMCTL_SIZE
    let data := s.get DBG_DAMDATA_DATA % 2 ^ (8 * n)
    let (r, t) :=
      if !s.damAllowed seat wr then (BusAns.error, s)
      else match checkSeat seat pa (if wr then .write else .read) s with
        | .wait => (BusAns.wait, s)
        | .fault _ _ => (BusAns.error, s)
        | .ok _ => if wr then damWrite seat pa n data s else damRead seat pa n s
    match r with
    | .wait => .next s
    | .ok v =>
      let t := (t.put DBG_DAMCTL_BUSY 0).put DBG_DAMCTL_ERR 0
      .next (if wr then t else t.put DBG_DAMDATA_DATA v)
    | _ => .next ((t.put DBG_DAMCTL_BUSY 0).put DBG_DAMCTL_ERR 1)

/-! ### Cross-triggers -/

/-- The oldest raised channel reaches its cores, its lanes and DBG_TRIGOUT. Only units whose seat a right covers halt. -/
def execCrossTrigger (s : State) : Result :=
  match s.channels with
  | [] => .next s
  | c :: rest =>
    let s := { s with channels := rest }
    let s := (List.finRange 32).foldl (fun t k => if t.bitOf DBG_CCTL_TRIGIN c k.val then requestHalt k t else t) s
    let s := s.each [0, 1, 2, 3] (fun g t =>
      if t.bitOf DBG_LGXT_CHAN c g then
        stopLanes g (((List.range 16).filter (fun i => t.bitOf DBG_LGXT_LANES i g && t.mayHalt (t.laneOwner (16 * g + i)))).map
          (2 ^ ·)).sum t
      else t)
    .next (if s.flag DBG_CTL_EXTOUTEN && s.get DBG_CTL_EXTOUT == c then { s with trigOut := 4 } else s)

/-- An edge on DBG_TRIGIN. -/
def execDbgTrigin (s : State) : Result :=
  .next (if s.vddDbg && s.flag DBG_CTL_EXTINEN then { s with channels := s.channels ++ [s.get DBG_CTL_EXTIN] } else s)

/-! ### The debug domain -/

/-- The debug domain is reset: its registers, its grants, and its halts end. -/
def resetDebug (s : State) : State :=
  let s := customerSeats.foldl (fun t n => endGrant n t) s
  let s := (List.finRange 32).foldl (fun t k => if (t.core k).run == .halted && !t.haltFinal k && !t.seatSafe (t.debugSeat k) then resumeCore false k t else t) s
  let s := s.mapCores (fun _ => true) (fun c => { c with haltReq := false })
  { s.clearRegs inDbg with channels := [], trigOut := 0, nonceHeld := false, boundary := none, tapData := 0, tapRefused := false }

/-- VDD_DBG rises: the debug domain starts from reset. -/
def execVddDbgRise (s : State) : Result := .next (if s.vddDbg then s else resetDebug { s with vddDbg := true })

/-- VDD_DBG is removed (R583): no halt, comparator or cross-trigger acts any more, so halted cores go on. -/
def execVddDbgFall (s : State) : Result := .next (if s.vddDbg then resetDebug { s with vddDbg := false } else s)

/-- TRST_N low resets the TAP alone, which then holds IDCODE. -/
def execTrst (s : State) : Result := .next { s with boundary := none, tapData := 0, tapRefused := false }

/-! ### The TAP -/

/-- May the TAP access the DBG frame? MAKER, or while a grant stands. -/
def State.tapAccess (s : State) : Bool :=
  s.lifeCycle == lcMaker ||
    (s.lifeCycle != lcProvision && s.lifeCycle != lcEnd && s.granted != 0)

/-- A DBGACC update: an access of one word of the DBG frame. -/
def execDbgacc (write : Bool) (offset : BitVec 16) (data : Word32) (s : State) : Result :=
  if !s.vddDbg || s.lifeCycle == lcProvision || s.lifeCycle == lcEnd then .next s
  else if !s.tapAccess || offset.toNat % 4 ≠ 0 then .next { s.answer .error with tapRefused := true }
  else
    let a := 0x20160000 + offset.toNat
    if write then .next { (dbgWrite a data.toNat s).answer (.ok 0) with tapRefused := false }
    else
      let (r, s) := wordRead 0 a .none false s
      match r with
      | .ok v => .next { s.answer (.ok (BitVec.ofNat 64 v)) with tapData := BitVec.ofNat 32 v, tapRefused := false }
      | _ => .next { s.answer .error with tapRefused := true }

/-- An EXTEST update: in MAKER the balls are driven from the boundary register. -/
def execExtest (value : BitVec 959) (s : State) : Result :=
  .next (if s.vddDbg && s.lifeCycle == lcMaker then { s with boundary := some value } else s)

end Sys2Proof.Machine
end

