-- ==== Sys2Proof/Machine/Access.lean ====
section
/-!
DEFINITION. Register writes as commands (R9 to R15), MMU.S2INV (R243), writes to the seat-table fence (R225), and trace as it leaves
the FIFOs (R600 to R602).
-/

namespace Sys2Proof.Machine

/-- The answer of a request, which changes nothing while it waits. -/
def busRow (s : State) (r : BusAns × State) : Result :=
  match r.1 with
  | .wait => .next s
  | .error => .next (r.2.answer .error)
  | _ => .next (r.2.answer (.ok 0))

/-- A write of `n` bytes that a seat makes: seat 0's passes every check, a customer seat's its seat table first (R24, R26). -/
def seatWrite (seat pa n v : Nat) (s : State) : BusAns × State :=
  if seat = 0 then seat0Write pa n v s
  else match checkSeat seat pa .write s with
    | .wait => (.wait, s)
    | .fault _ _ => (.error, s)
    | .ok _ => busWrite none seat pa n v s

/-- A write of a device register, of one word or of an aligned pair (R10). -/
def execRegisterWrite (by_ : Seat) (addr : BitVec 48) (wide : Bool) (value : Word64) (s : State) : Result :=
  if isDevice addr.toNat then
    busRow s (seatWrite by_.val addr.toNat (if wide then 8 else 4) (if wide then value.toNat else value.toNat % 2 ^ 32) s)
  else .next (s.answer .error)

/-- A write of MMU.S2INV: the frame is seat 0's. -/
def execS2inv (by_ : Seat) (value : Word32) (s : State) : Result :=
  if by_ ≠ 0 then .next (s.answer .error) else busRow s (wordWrite 0 MMU_S2INV.base value.toNat s)

/-- A write of a doubleword to the fence: refused and recorded while SEAT.LOCK.LOCK is 1, and a write like any other before. -/
def execFenceWriteReject (by_ : Seat) (addr : BitVec 48) (value : Word64) (s : State) : Result :=
  let a := addr.toNat / 8 * 8
  if isDevice a then .next (s.answer .error) else busRow s (seatWrite by_.val a 8 value.toNat s)

/-! ### Trace -/

/-- A write to stimulus port `port` of `seat`, whose page Welfen maps into the seat. -/
def execTraceStimWrite (by_ : Seat) (seat : Seat) (port : Fin 16) (value : Word32) (s : State) : Result :=
  pageWrite by_.val seat.val (if seat = 0 then id else stimWrite seat.val port.val value.toNat) s

/-- The packets of one unit: those of the first packet's seat, whole, up to 63 bytes. -/
def unitPackets (seat : Nat) : Nat → List (Nat × List Byte) → List Byte × List (Nat × List Byte)
  | _, [] => ([], [])
  | room, (t, p) :: rest =>
    if t = seat ∧ p.length ≤ room then
      let (b, r) := unitPackets seat (room - p.length) rest
      (p ++ b, r)
    else ([], (t, p) :: rest)

/-- The FIFO of a source, and the state with it replaced. -/
def State.traceFifo (s : State) : TraceSource → TraceFifo
  | .core n => s.trcCore[n]
  | .stim n => s.trcStim[n.val]!
def State.setTraceFifo (s : State) (src : TraceSource) (f : TraceFifo) : State :=
  match src with
  | .core n => { s with trcCore := s.trcCore.set n f }
  | .stim n => { s with trcStim := s.trcStim.set! n.val f }
def sourceByte : TraceSource → Byte
  | .core n => BitVec.ofNat 8 n.val
  | .stim n => BitVec.ofNat 8 (0x40 + n.val)

/-- A region takes a unit: it advances, wraps or stops (R602). -/
def regionAdvance (r : Nat) (s : State) : State :=
  if s.get TRC_RWP_ADDR r = s.get TRC_RLIM_ADDR r then
    if s.flag TRC_RCTL_WRAP r then (s.put TRC_RWP_ADDR (s.get TRC_RBASE_ADDR r) r).put TRC_RCTL_WRAPPED 1 r
    else { s with trcStopped := s.trcStopped ||| 1#8 <<< r }
  else s.put TRC_RWP_ADDR (s.get TRC_RWP_ADDR r + 1) r

/-- Does region r take units of `seat`? -/
def State.regionTakes (s : State) (seat r : Nat) : Bool :=
  decide (seat ≠ 0) && s.get TRC_RCTL_OWNER r == seat && s.flag TRC_RCTL_EN r && !s.trcStopped.getLsbD r

/-- The write of a unit into region r has its answer; `s`: the state before the unit left, which stays where the write has to
wait. -/
def unitWritten (r : Nat) (s : State) (x : DmaAns × State) : State :=
  match x with
  | (.wait, _) => s
  | (.ok _, u) => regionAdvance r u
  | (_, u) => { u.put TRC_RCTL_ERR 1 r with trcStopped := u.trcStopped ||| 1#8 <<< r }

/-- A unit of `seat` goes to the trace port, or to the region that the seat selects; a unit without a taker is dropped. `s`: the
state before it left its source, `t` after. -/
def sendUnit (seat : Nat) (bytes : List Byte) (s t : State) : State :=
  let r := s.get TRC_SCTL_REGION seat
  if seat ≠ 0 && s.flag TRC_SCTL_PORT seat then
    if s.get TRC_PCTL_OWNER == seat && s.flag TRC_PCTL_EN then { t with traceSent := bytes } else t
  else if !s.regionTakes seat r then t
  else unitWritten r s
    (dmaWrite seat (s.get TRC_RWP_ADDR r * 64) 64 (bytes.foldr (fun b v => b.toNat + 256 * v) 0) t)

/-- TRC moves the next unit of a source, whole packets of one seat. -/
def execTraceUnitWrite (src : TraceSource) (s : State) : Result :=
  let f := s.traceFifo src
  match f.packets with
  | [] => .next s
  | (seat, _) :: _ =>
    let p := unitPackets seat 63 f.packets
    .next (sendUnit seat (sourceByte src :: p.1 ++ List.replicate (63 - p.1.length) 0xFF) s
      (s.setTraceFifo src { f with packets := p.2 }))

end Sys2Proof.Machine
end

