-- ==== Sys2Proof/Machine/Branch.lean ====
section
/-!
DEFINITION. Branches, calls and returns (R108 to R111), REP (R103 to R107), target prediction (R141, R142), and the
spill engine's two events (R112, R188, R189).
-/

namespace Sys2Proof.Machine

/-! ### Prediction -/

/-- Push a return address; the oldest entry of a full stack is lost (R142). -/
def pushReturn (k : CoreId) (a : Word64) (s : State) : State :=
  if (s.core k).dm then s else s.mapCore k (fun c => { c with ras := (a :: c.ras).take 16 })

/-- An indirect branch resolves to `t`: its prediction came from the return-address stack or the target buffer; a wrong
guess counts as event 0x08 (R141, R142, R144). -/
def resolveIndirect (k : CoreId) (viaRas : Bool) (t : Word64) (s : State) : State :=
  let c := s.core k
  if c.dm then s
  else match (if viaRas then c.ras else []) with
    | top :: rest =>
      let s := s.mapCore k (fun c => { c with ras := rest })
      if top = t then s else pmCount k 0x08 s
    | [] =>
      let i := Config.targetIndex c.pc c.history % 256
      let guess := match c.targets.find? (fun e => e.1 == i) with
        | some e => e.2
        | none => c.pc + 4
      let s := s.mapCore k (fun c => { c with
        targets := c.targets.filter (fun e => e.1 != i) ++ [(i, t)]
        history := Config.historyNext c.history t })
      if guess = t then s else pmCount k 0x08 s

/-- A conditional direct branch is guessed by its hint bit (R109, R141). -/
def resolveHint (k : CoreId) (cond : Fin 15) (h taken : Bool) (s : State) : State :=
  if cond = 0 || h = taken || (s.core k).dm then s else pmCount k 0x08 s

/-! ### Branches and calls -/

/-- The branch displacement in bytes. -/
def dispOf (d : BitVec 21) : Word64 := d.signExtend 64 <<< 2

/-- The registers after CALL and CALLR (R110): the next window, L11 takes G10, G10 the return address. -/
def Core.called (c : Core) : Core :=
  let w := (c.cwp + 1) % 12
  let c' := c.setP (.win w 15) (c.getP (.g 10))
  { c'.setP (.g 10) (c.pc + 4) with cwp := w, res := c.res + 1 }

/-- A call to `t`. In the trap window it is a double fault (R190); with RES = 11 it waits for a spill. -/
def callTo (k : CoreId) (t : Word64) (indirect : Bool) (s : State) : Act :=
  let c := s.core k
  if c.twOn then .exc (excPlain 0x01) s
  else if t.toNat % 4 ≠ 0 then .exc (excAt 0x04 t.toNat) s
  else if 11 ≤ c.res then .stall s
  else
    let s := pushReturn k (c.pc + 4) (if indirect then traceTarget k 0x3 t (resolveIndirect k false t s) else s)
    .jump t (s.mapCore k Core.called)

/-- B. -/
def execB (i : Issue) (a : BArgs) (s : State) : Result :=
  let k := i.core
  runInstr ⟨k, .b i.clean a, some i.cond, i.par, !(i.cond == 0 && a.h), 0, [], false, true⟩
    (fun s => .jump ((s.core k).pc + dispOf a.disp) (resolveHint k i.cond a.h true s)) s

/-- CALL. -/
def execCall (i : Issue) (a : BArgs) (s : State) : Result :=
  let k := i.core
  runInstr ⟨k, .call i.clean a, some i.cond, i.par, !(i.cond == 0 && a.h), 0, [10], false, true⟩
    (fun s => callTo k ((s.core k).pc + dispOf a.disp) false (resolveHint k i.cond a.h true s)) s

/-- JMPL: to rs1 + sext(imm12); rd takes the next address. -/
def execJmpl (i : Issue) (a : IArgs) (s : State) : Result :=
  let k := i.core
  runInstr ⟨k, .jmpl i.clean a, some i.cond, i.par, true, 0, [a.rd, a.rs1], false, true⟩
    (fun s =>
      let c := s.core k
      let t := c.reg a.rs1 + simm a.imm
      if t.toNat % 4 ≠ 0 then .exc (excAt 0x04 t.toNat) s
      else
        let s := resolveIndirect k (a.rs1 == 10 && a.rd == 0) t s
        let s := traceTarget k 0x3 t (if a.rd = 10 then pushReturn k (c.pc + 4) s else s)
        .jump t (s.mapCore k (fun c => c.setReg a.rd (c.pc + 4)))) s

/-- CALLR: a call to rs1 + sext(imm12); rd must be 0. -/
def execCallr (i : Issue) (a : IArgs) (s : State) : Result :=
  let k := i.core
  runInstr ⟨k, .callr i.clean a, some i.cond, i.par, a.rd == 0, 0, [a.rs1, 10], false, true⟩
    (fun s => callTo k ((s.core k).reg a.rs1 + simm a.imm) true s) s

/-- The registers after RETW (R111). -/
def Core.returned (c : Core) : Core :=
  { c.setP (.g 10) (c.reg 27) with cwp := (c.cwp + 11) % 12, res := c.res - 1 }

/-- RETW: to G10, with the caller's window. It checks the alignment first, and waits for a fill where the window is
not resident. -/
def execRetw (i : Issue) (a : RArgs) (s : State) : Result :=
  let k := i.core
  runInstr ⟨k, .retw i.clean a, some i.cond, i.par, a.rd == 0 && a.rs1 == 0 && a.rs2 == 0 && a.fn == 0, 0, [10],
    false, true⟩
    (fun s =>
      let c := s.core k
      let t := c.reg 10
      if t.toNat % 4 ≠ 0 then .exc (excAt 0x04 t.toNat) s
      else if c.awaited [27] then .stall s
      else if c.res ≤ 1 then .stall (s.mapCore k (fun c => { c with fillWait := true }))
      else .jump t ((traceTarget k 0x3 t (resolveIndirect k true t s)).mapCore k Core.returned)) s

/-! ### REP -/

/-- Fields of REP (Table ISA-11): rd holds I, RS and three zero bits. -/
def repI (a : IArgs) : Bool := a.rd.val ≥ 16
def repRs (a : IArgs) : Bool := a.rd.val / 8 % 2 == 1
def repLegal (a : IArgs) : Bool :=
  a.rd.val % 8 == 0 && (if repRs a then a.imm == 0 else a.rs1 == 0 && (repI a || decide (a.imm.toNat ≤ 64)))

/-- The prefix's own count (R103). -/
def repOwnCount (c : Core) (a : IArgs) : Nat :=
  if repRs a then
    let n := (c.reg a.rs1).toNat % 65536
    if repI a then n else min n 64
  else a.imm.toNat

/-- REP: the next instruction runs a counted number of times; after RETI the count is RPCNT's where it is valid
(R107). -/
def execRep (i : XIssue) (a : IArgs) (s : State) : Result :=
  let k := i.core
  runInstr ⟨k, .rep i.clean a, none, i.par, repLegal a, 0, if repRs a then [a.rs1] else [], false, false⟩
    (fun s =>
      let c := s.core k
      let resume := c.afterReti && c.rpcnt.getLsbD 63
      let n := if resume then c.rpcnt.toNat % 65536 else repOwnCount c a
      if n = 0 then
        .jump (c.pc + 8) (s.mapCore k (fun c => { c with rpcnt := c.rpcnt &&& 0x7FFFFFFFFFFFFFFF }))
      else .jump (c.pc + 4) (s.mapCore k (fun c => { c with rep := some ⟨n, resume, repI a, c.pc, none⟩ }))) s

/-! ### The spill engine's events -/

/-- The engine spills the oldest resident window while fewer than 2 windows are free (R112), not in the trap window
(R188), and no window with a result outstanding (R97). A spill that fails raises a spill fault at the boundary. -/
def execWindowSpill (k : CoreId) (s : State) : Result :=
  let c := s.core k
  if !s.coreRuns k || c.twOn || decide (c.res < 11) || c.windowAwaited c.oldestWindow then .next s
  else
    let (a, s1) := spillOne k s
    match a with
    | .ok => .next s1
    | .wait => .next s
    | .fault code va => if c.atBoundary then .next (windowFault k 0x13 code va (s1.mapCore k Core.settle)) else .next s

/-- The fill that an instruction waits for (R111, R113, R186). A fill that fails raises a fill fault at that
instruction. -/
def execWindowFill (k : CoreId) (s : State) : Result :=
  let c := s.core k
  if !s.coreRuns k || !c.fillWait then .next s
  else
    let (a, s1) := fillOne k s
    match a with
    | .ok => .next (s1.mapCore k (fun c => { c with fillWait := false }))
    | .wait => .next s
    | .fault code va => .next (stepEnds k (windowFault k 0x14 code va (s1.mapCore k Core.settle)))

/-! ### Entries for held events -/

/-- A signalled interrupt is taken at the boundary (R181, R185). -/
def execInterruptEntry (k : CoreId) (s : State) : Result :=
  .next (takeHeld k (fun e => match e with
    | .interrupt _ => true
    | _ => false) s)

/-- A pending asynchronous bus error is taken (R304). -/
def execAsyncBusErrorEntry (k : CoreId) (s : State) : Result :=
  .next (takeHeld k (fun e => match e with
    | .busError _ => true
    | _ => false) s)

/-- A held seat-switch event is taken into the trap window at Monitor level (R192). -/
def execSeatSwitchEntry (k : CoreId) (s : State) : Result :=
  .next (takeHeld k (fun e => match e with
    | .seatSwitch _ => true
    | _ => false) s)

end Sys2Proof.Machine
end

