-- ==== Sys2Proof/Machine/Cmo.lean ====
section
/-!
DEFINITION. Cache maintenance (R261 to R268, Table CACHE-2). An operation by address acts on the copies of the line held
for the issuing seat. A range operation does one line per step of its command and stays the oldest instruction until
rs2 is 0 (R263).
-/

namespace Sys2Proof.Machine

/-- What an operation does to a line. -/
inductive CmoOp where
  | cln | civ | inv | fill
  deriving DecidableEq, Repr

/-- The permission that Table CACHE-2 names, and the lowest level. -/
def CmoOp.access : CmoOp → XKind
  | .cln | .fill => .read
  | .civ | .inv => .write
def CmoOp.level : CmoOp → Nat
  | .inv => 1
  | _ => 0

/-- Is the copy of a line that a cluster holds for a seat in a locked way that LKPROT protects (R265)? -/
def State.protected (s : State) (cl seat line : Nat) : Bool :=
  s.flag CACHE_SCTL_LKPROT cl seat && match s.l2Find cl seat line with
    | some e => s.wayLocked cl seat e.way
    | none => false

/-- The operation on one cluster's copy; `guard` for the operations that LKPROT holds back. -/
def cmoCopy (op : CmoOp) (guard : Bool) (seat line cl : Nat) (s : State) : State :=
  if guard && s.protected cl seat line then s.put CACHE_STAT_LKSKIP 1 cl seat
  else match op with
    | .cln => l2Clean cl seat line s
    | .civ => l2Remove cl seat line true s
    | .inv => l2Remove cl seat line false s
    | .fill => s

/-- Fills of the line on their way to the cluster become void: the loads that wait on them are sent again (R266). -/
def voidFills (k : CoreId) (seat line : Nat) (s : State) : State :=
  s.mapCores (fun j => j != k && clusterOf j.val == clusterOf k.val && (s.core j).seatid == seat) (fun c =>
    match c.load with
    | some l =>
      if l.parts.any (fun p => p.type == .normal && p.pa / 64 == line) then { c with load := some { l with voided := true } }
      else c
    | none => c)

/-- How one line operation ends. -/
inductive LineAns where
  | ok
  | exc (e : Exc)
  | wait

/-- One line operation at virtual address `va` (R262, R268). -/
def cmoLine (k : CoreId) (op : CmoOp) (guard : Bool) (va : Nat) (s0 : State) : LineAns × State :=
  if 2 ^ 48 ≤ va then (.exc (excAt 0x07 va), s0)
  else
    let s := if (s0.core k).dm then s0.put IBC_DMSTAT_VAR 1 k.val else s0
    let (r, s) := translate k op.access va s
    match r with
    | .wait => (.wait, s)
    | .fault code info fpa => let (e, s) := xlExc k .read va code info fpa s; (.exc e, s)
    | .ok e =>
      let pa := e.phys va
      let line := pa / 64
      let c := s.core k
      if e.type.isDev then (.ok, s)
      else
        let s := drainLine k line s
        if (s.core k).stores.any (fun x => x.pa / 64 == line) then (.wait, s)
        else match op with
          | .fill =>
            if e.type != .normal || (s.l2Find (clusterOf k.val) c.seatid line).isSome then (.ok, s)
            else match s.memGate c.seatid pa with
              | .wait => (.wait, s)
              | .error => (.exc (excAt 0x0C pa), s)
              | .ok => (.ok, (l2Fill (clusterOf k.val) c.seatid line (va / 4096 % 4) s).2)
          | _ =>
            let s := if op = .cln then s else voidFills k c.seatid line s
            (.ok, s.each clusterIds (cmoCopy op guard c.seatid line))

/-- A single-line operation. -/
def cmoOne (key : Instr) (fn : Nat) (op : CmoOp) (i : XIssue) (a : RArgs) (s : State) : Result :=
  let k := i.core
  runInstr ⟨k, key, none, i.par, a.fn.toNat == fn && a.rd == 0 && a.rs2 == 0, op.level, [a.rs1], false, false⟩
    (fun s =>
      let (r, s1) := cmoLine k op false ((s.core k).reg a.rs1).toNat s
      match r with
      | .ok => .done s1
      | .exc e => .exc e s1
      | .wait => .stall s1) s

/-- The registers after one line of a range: rs1 at the next line, rs2 less by the bytes passed, not below 0. Where both
operands name one register, the count is written last (log 31). -/
def Core.rangeStep (c : Core) (a : RArgs) : Core :=
  let v := c.reg a.rs1
  let next := (v.toNat / 64 + 1) * 64
  let n := (c.reg a.rs2).toNat
  (c.setReg a.rs1 (BitVec.ofNat 64 next)).setReg a.rs2 (BitVec.ofNat 64 (n - (next - v.toNat)))

/-- A range operation: its next line, or its end. -/
def cmoRange (key : Instr) (fn : Nat) (op : CmoOp) (i : XIssue) (a : RArgs) (s : State) : Result :=
  let k := i.core
  runInstr ⟨k, key, none, i.par, a.fn.toNat == fn && a.rd == 0, op.level, [a.rs1, a.rs2], false, false⟩
    (fun s =>
      let c := s.core k
      if c.reg a.rs2 = 0 then .done s
      else
        let (r, s1) := cmoLine k op (op != .fill) (c.reg a.rs1).toNat s
        match r with
        | .exc e => .exc e s1
        | .wait => .stall s1
        | .ok =>
          let s2 := s1.mapCore k (·.rangeStep a)
          if (s2.core k).reg a.rs2 = 0 then .done s2 else .stall s2) s

/-- CLN. -/
def execCmoCln (i : XIssue) (a : RArgs) (s : State) : Result := cmoOne (.cmoCln i.clean a) 0x00 .cln i a s
/-- CIV. -/
def execCmoCiv (i : XIssue) (a : RArgs) (s : State) : Result := cmoOne (.cmoCiv i.clean a) 0x01 .civ i a s
/-- INV. -/
def execCmoInv (i : XIssue) (a : RArgs) (s : State) : Result := cmoOne (.cmoInv i.clean a) 0x02 .inv i a s
/-- FILL. -/
def execCmoFill (i : XIssue) (a : RArgs) (s : State) : Result := cmoOne (.cmoFill i.clean a) 0x03 .fill i a s
/-- CLN.R. -/
def execCmoClnR (i : XIssue) (a : RArgs) (s : State) : Result := cmoRange (.cmoClnR i.clean a) 0x04 .cln i a s
/-- CIV.R. -/
def execCmoCivR (i : XIssue) (a : RArgs) (s : State) : Result := cmoRange (.cmoCivR i.clean a) 0x05 .civ i a s
/-- INV.R. -/
def execCmoInvR (i : XIssue) (a : RArgs) (s : State) : Result := cmoRange (.cmoInvR i.clean a) 0x06 .inv i a s
/-- FILL.R. -/
def execCmoFillR (i : XIssue) (a : RArgs) (s : State) : Result := cmoRange (.cmoFillR i.clean a) 0x07 .fill i a s

/-- CIV.SEAT: every line in the seat's ways of the issuing core's cluster. -/
def execCivSeat (i : XIssue) (a : RArgs) (s : State) : Result :=
  let k := i.core
  runInstr ⟨k, .civSeat i.clean a, none, i.par, a.fn.toNat == 0x10 && a.rd == 0 && a.rs1 == 0 && a.rs2 == 0, 1, [],
    false, false⟩
    (fun s =>
      let s := drainWhere k (fun e => !e.type.isDev) (((s.core k).stores.length + 1) ^ 2) s
      let cl := clusterOf k.val
      let seat := (s.core k).seatid
      let own := s.ownedWays cl seat
      let lines := ((s.l2[cl]!).lines.filter (fun e => own.contains e.way)).map (fun e => (e.seat, e.line))
      .done (lines.foldl (fun t e => cmoCopy .civ true e.1 e.2 cl t) s)) s

/-- INV.L1. -/
def execInvL1 (i : XIssue) (a : RArgs) (s : State) : Result :=
  let k := i.core
  runInstr ⟨k, .invL1 i.clean a, none, i.par, a.fn.toNat == 0x11 && a.rd == 0 && a.rs1 == 0 && a.rs2 == 0, 1, [],
    false, false⟩
    (fun s => .done (s.mapCore k (fun c =>
      { c with
        l1i := [], l1d := [], victim := []
        reservation := match c.reservation with
          | some r => if r.cached then none else some r
          | none => none }))) s

end Sys2Proof.Machine
end

