-- ==== Sys2Proof/Machine/CoreEvents.lean ====
section
/-!
DEFINITION. Events of cores and clusters: a lockstep mismatch (R168), an overrun in deterministic mode (R157), a counter
that wraps (R171), wakes (R119, R566 to R568), and the change to the PLL (R569).
-/

namespace Sys2Proof.Machine

/-! ### Comparators and counters -/

/-- A lockstep mismatch of pair n, of which the FCU hears. -/
def pairMismatch (n kind : Nat) (s : State) : State :=
  reportFault 0x01 (s.seatOf (2 * n)) n kind (pairStops n kind s)

/-- The comparator of a locked pair in C0 finds a difference of one of the seven kinds. -/
def execLockstepMismatch (pair : Fin 16) (kind : BitVec 4) (s : State) : Result :=
  let n := pair.val
  if s.pairLocked n && decide (1 ≤ kind.toNat) && decide (kind.toNat ≤ 7) &&
      (match s.cores[2 * n]? with
        | some c => c.run == .running && s.cState (2 * n) == 0
        | none => false) then
    .next (pairMismatch n kind.toNat s)
  else .next s

/-- A DM access is answered `excess` core cycles after its stated cycle. -/
def execDmAccessOverrun (k : CoreId) (excess : BitVec 20) (s : State) : Result :=
  let c := s.core k
  let n := k.val
  if s.coreRuns k && c.dm then
    let s := (s.put IBC_DMSTAT_MAXEXC (max (s.get IBC_DMSTAT_MAXEXC n) excess.toNat) n).put IBC_DMSTAT_OVR 1 n
    .next (reportFault 0x06 c.seatid n 0 (pmCount k 0x0F s))
  else .next s

/-- Counter `ctr` of core k wraps. The model counts the events of its own steps (`pmCount`) and not the cycle counts of
Table PIPE-12, whose wrap this command is. -/
def execPerfCounterOverflow (k : CoreId) (ctr : Fin 6) (s : State) : Result :=
  let n := k.val
  let j := ctr.val
  let ev := s.get IBC_PMEVT_EVENT n j
  if s.bitOf IBC_PMCTL_EN j n && (ev == 0x00 || ev == 0x02 || ev == 0x03 || ev == 0x09 || ev == 0x0C) &&
      (s.core k).seatid == s.coreOwner n && !(s.flag IBC_PMCTL_FRZ n && s.get IBC_PMOVF_OVF n != 0) then
    let s := (s.put IBC_PMCNT_COUNT 0 n j).putBit IBC_PMOVF_OVF j true n
    .next (if s.flag IBC_PMCTL_IRQ n then raiseSrc n s else s)
  else .next s

/-! ### Wakes -/

/-- A core in C1 leaves on a signalled interrupt or a seat-switch event, whatever IE is (R119, R418). -/
def execCoreWakeC1 (k : CoreId) (s : State) : Result :=
  let c := s.core k
  if s.cState k.val == 1 && c.run == .running && ((s.seenInterrupt k).isSome || c.switchEv.isSome) then
    .next (takeLongIfReady k (s.setCState k.val 0))
  else .next s

/-- Do all DSTORE bank groups run on the PLL (R572)? -/
def State.banksOnPll (s : State) : Bool := slice (s.get PWC_FIO_FIO) 8 8 == 0

/-- Has core k, with its locked partner, the tokens and the power that a wake needs? -/
def State.wakeReady (s : State) (k : CoreId) : Bool :=
  s.holdsTokens (.core k.val) && s.clusterOn (clusterOf k.val) && s.banksOnPll && s.device == .on

/-- A granted wake from C2 (R566): the saved state is there again, and the random sequence is reloaded. -/
def execCoreWakeC2 (k : CoreId) (s : State) : Result :=
  if s.cState k.val == 2 && !s.trailing k.val && s.wakeReady k then
    let (v, s) := s.drawSeed
    .next (((s.setCState k.val 0).mapCore k (fun c => { c with lfsr := v })).put PWC_CCTL_TGWAIT 0 k.val)
  else .next s

/-- A granted wake from C3 of a released core: it starts as at release from reset (R567). -/
def execCoreWakeC3 (k : CoreId) (s : State) : Result :=
  if s.cState k.val == 3 && !s.trailing k.val && (s.core k).run == .running && s.wakeReady k then
    .next ((coreStart k s).put PWC_CCTL_TGWAIT 0 k.val)
  else .next s

/-- A write of 1 to PWC.CCTL.WAKE of core k by `by_`, whom the owner check must pass (R25). The trailing core's CCTL takes
no write. -/
def execCctlWake (by_ : Seat) (k : CoreId) (s : State) : Result :=
  if by_.val ≠ 0 && s.coreOwner k.val != by_.val then
    .next ((seatViolation by_.val true (0x20090100 + by_.val * 0x1000 + 4 * k.val) s).answer .error)
  else if s.trailing k.val then .next (s.answer (.ok 0))
  else .next ((wakeCore k s).answer (.ok 0))

/-- A granted cluster powers up on FIO with its L2 empty (R568). -/
def execClusterPowerUp (c : ClusterId) (s : State) : Result :=
  if !s.clusterOn c.val && s.holdsTokens (.cluster c.val) then .next (clusterOnFio c.val s) else .next s

/-- A write of PWC.FIO by `by_`: the named domains change to the PLL (R569). Page 0 is seat 0's. -/
def execFioSwitch (by_ : Seat) (value : Word32) (s : State) : Result :=
  if by_ ≠ 0 then .next (s.answer .error) else .next ((fioWrite value.toNat s).answer (.ok 0))

/-! ### Performance levels -/

/-- A write of PWC.PFCTL by `by_`: TARGET starts a change, or is held while one runs. -/
def execPfctlTargetWrite (by_ : Seat) (value : Word32) (s : State) : Result :=
  if by_ ≠ 0 then .next (s.answer .error) else .next ((pfctlWrite value.toNat s).answer (.ok 0))

/-- The regulator has settled: the level is reached, and a held TARGET starts the next change. -/
def execLevelChangeDone (s : State) : Result :=
  if !s.flag PWC_STAT_PFBUSY then .next s
  else
    let s := { s.put PWC_STAT_PF s.pfRun with pwrVid := s.pfRun }
    match s.pfHeld with
    | some t => .next (levelChange t { s with pfHeld := none })
    | none => .next (s.put PWC_STAT_PFBUSY 0)

/-- Toll Gate grants the first waiting request that the current slot serves (R575). A grant ends PWC.CCTL.TGWAIT. -/
def execTokenGrant (s : State) : Result :=
  match s.tokenQueue.find? (fun q => s.grantable q) with
  | none => .next s
  | some q => .next (q.who.foldl (fun t w => match w with
      | .core n => t.put PWC_CCTL_TGWAIT 0 n
      | _ => t) (grantRequest q s))

end Sys2Proof.Machine
end

