-- ==== Sys2Proof/Machine/FpOps.lean ====
section
/-!
DEFINITION. The floating-point group (Table ISA-9, R87, R99).
-/

namespace Sys2Proof.Machine

/-- Retire a floating-point instruction: the flags it raises go to FSTAT.FLG, and an enabled one raises the exception
after the result is written (R87). -/
def fpRetire (k : CoreId) (flags : Nat) (s : State) : Act :=
  let s := s.mapCore k (fun c => { c with fstat := c.fstat ||| BitVec.ofNat 64 (flags % 32) })
  if (flags % 32 &&& slice (s.core k).fstat.toNat 8 5) ≠ 0 then .exc (excPlain 0x0E (flags % 32)) s else .done s

/-- A floating-point instruction: `op` is fn[5:0], `unary` asks for rs2 = 0; `f` gets the selected format and the
operands' bits, and gives the result with its flags. -/
def fpInstr (key : Instr) (op : Nat) (unary : Bool) (f : FpFormat → Nat → Nat → FpOut) (i : Issue) (a : RArgs)
    (s : State) : Result :=
  runInstr ⟨i.core, key, some i.cond, i.par, a.fn.toNat % 64 == op && (!unary || a.rs2 == 0), 0,
    [a.rd, a.rs1, a.rs2], true, false⟩
    (fun s =>
      let c := s.core i.core
      let r := f (fpFormat (a.fn.getLsbD 6)) (c.reg a.rs1).toNat (c.reg a.rs2).toNat
      fpRetire i.core r.flags (s.mapCore i.core (fun c => c.setReg a.rd (BitVec.ofNat 64 r.bits)))) s

/-- An operation on two decoded operands. -/
def onTwo (f : FpFormat → Fp → Fp → FpOut) (fm : FpFormat) (a b : Nat) : FpOut := f fm (fpDecode fm a) (fpDecode fm b)

/-- FADD. -/
def execFadd (i : Issue) (a : RArgs) (s : State) : Result := fpInstr (.fadd i.clean a) 0x00 false (onTwo fpAdd) i a s
/-- FSUB: the sum with the second operand negated. -/
def execFsub (i : Issue) (a : RArgs) (s : State) : Result :=
  fpInstr (.fsub i.clean a) 0x01 false (onTwo (fun f x y => fpAdd f x y.neg)) i a s
/-- FMUL. -/
def execFmul (i : Issue) (a : RArgs) (s : State) : Result := fpInstr (.fmul i.clean a) 0x02 false (onTwo fpMul) i a s
/-- FMIN: minimumNumber. -/
def execFmin (i : Issue) (a : RArgs) (s : State) : Result :=
  fpInstr (.fmin i.clean a) 0x03 false (onTwo (fun f => fpMinMax f true)) i a s
/-- FMAX: maximumNumber. -/
def execFmax (i : Issue) (a : RArgs) (s : State) : Result :=
  fpInstr (.fmax i.clean a) 0x04 false (onTwo (fun f => fpMinMax f false)) i a s
/-- FABS. -/
def execFabs (i : Issue) (a : RArgs) (s : State) : Result :=
  fpInstr (.fabs i.clean a) 0x05 true (onTwo (fun f x _ => fpAbs f x)) i a s
/-- FNEG. -/
def execFneg (i : Issue) (a : RArgs) (s : State) : Result :=
  fpInstr (.fneg i.clean a) 0x06 true (onTwo (fun f x _ => fpNegate f x)) i a s

/-- FCMP: NZCV from the comparison; rd must be 0. -/
def execFcmp (i : Issue) (a : RArgs) (s : State) : Result :=
  runInstr ⟨i.core, .fcmp i.clean a, some i.cond, i.par, a.fn.toNat % 64 == 0x07 && a.rd == 0, 0, [a.rs1, a.rs2], true, false⟩
    (fun s =>
      let c := s.core i.core
      let fm := fpFormat (a.fn.getLsbD 6)
      let r := fpCompare (fpDecode fm (c.reg a.rs1).toNat) (fpDecode fm (c.reg a.rs2).toNat)
      fpRetire i.core r.2 (s.mapCore i.core (fun c => c.setFlags r.1))) s

/-- FCVT.L: to a signed 64-bit integer, toward zero. -/
def execFcvtL (i : Issue) (a : RArgs) (s : State) : Result :=
  fpInstr (.fcvtL i.clean a) 0x08 true (fun f x _ => let r := fpToInt (fpDecode f x); ⟨r.1.toNat, r.2⟩) i a s
/-- FCVT.F: from a signed 64-bit integer. -/
def execFcvtF (i : Issue) (a : RArgs) (s : State) : Result :=
  fpInstr (.fcvtF i.clean a) 0x09 true (fun f x _ => fpFromInt f (BitVec.ofNat 64 x)) i a s
/-- FCVT.X: from the other format. -/
def execFcvtX (i : Issue) (a : RArgs) (s : State) : Result :=
  fpInstr (.fcvtX i.clean a) 0x0A true
    (fun f x _ => fpConvert f (fpDecode (if f = binary64 then binary32 else binary64) x)) i a s

end Sys2Proof.Machine
end

