-- ==== Sys2Proof/Machine/Mul.lean ====
section
/-!
DEFINITION. The MUL group (Table ISA-7, R84, R95, R96): products and sums into the MD registers, which land later, and
moves from and to them.
-/

namespace Sys2Proof.Machine

/-- A MUL-group instruction: `legal` says that the unused fields are 0 and fn is the operation's. -/
def mulInstr (key : Instr) (legal : Bool) (i : Issue) (a : RArgs) (f : Core → Core) (s : State) : Result :=
  runInstr ⟨i.core, key, some i.cond, i.par, legal, 0, [a.rd, a.rs1, a.rs2], true, false⟩
    (fun s => .done (s.mapCore i.core f)) s

/-- A product into MDH:MDL. -/
def Core.product (c : Core) (signed : Bool) (a : RArgs) : Core :=
  let p := mulProduct signed (c.reg a.rs1) (c.reg a.rs2)
  c.issueMd ⟨some (p.extractLsb' 64 64), some (p.extractLsb' 0 64), none⟩

/-- A sum of products onto MDA after every earlier MD write (R96). -/
def Core.accumulate (c : Core) (signed : Bool) (a : RArgs) : Core :=
  c.issueMd ⟨none, none, some (c.mdaLatest + macSum signed (c.reg a.rs1) (c.reg a.rs2))⟩

/-- MUL: signed product. -/
def execMul (i : Issue) (a : RArgs) (s : State) : Result :=
  mulInstr (.mul i.clean a) (a.fn == 0x00 && a.rd == 0) i a (fun c => c.product true a) s
/-- MULU: unsigned product. -/
def execMulu (i : Issue) (a : RArgs) (s : State) : Result :=
  mulInstr (.mulu i.clean a) (a.fn == 0x01 && a.rd == 0) i a (fun c => c.product false a) s
/-- MAC16: four signed products onto MDA. -/
def execMac16 (i : Issue) (a : RArgs) (s : State) : Result :=
  mulInstr (.mac16 i.clean a) (a.fn == 0x02 && a.rd == 0) i a (fun c => c.accumulate true a) s
/-- MACU16: four unsigned products onto MDA. -/
def execMacu16 (i : Issue) (a : RArgs) (s : State) : Result :=
  mulInstr (.macu16 i.clean a) (a.fn == 0x03 && a.rd == 0) i a (fun c => c.accumulate false a) s
/-- MFMD.H: rd takes MDH as it stands with the youngest `n` writes in flight (R95). -/
def execMfmdH (i : Issue) (a : RArgs) (n : Fin 5) (s : State) : Result :=
  mulInstr (.mfmdH i.clean a 0) (a.fn == 0x10 && a.rs1 == 0 && a.rs2 == 0) i a
    (fun c => c.setReg a.rd (c.mdSeen n.val).mdh) s
/-- MFMD.L: rd takes MDL. -/
def execMfmdL (i : Issue) (a : RArgs) (n : Fin 5) (s : State) : Result :=
  mulInstr (.mfmdL i.clean a 0) (a.fn == 0x11 && a.rs1 == 0 && a.rs2 == 0) i a
    (fun c => c.setReg a.rd (c.mdSeen n.val).mdl) s
/-- MFMD.A: rd takes MDA. -/
def execMfmdA (i : Issue) (a : RArgs) (n : Fin 5) (s : State) : Result :=
  mulInstr (.mfmdA i.clean a 0) (a.fn == 0x12 && a.rs1 == 0 && a.rs2 == 0) i a
    (fun c => c.setReg a.rd (c.mdSeen n.val).mda) s
/-- MTMD.H: MDH takes rs1. -/
def execMtmdH (i : Issue) (a : RArgs) (s : State) : Result :=
  mulInstr (.mtmdH i.clean a) (a.fn == 0x18 && a.rd == 0 && a.rs2 == 0) i a
    (fun c => c.issueMd ⟨some (c.reg a.rs1), none, none⟩) s
/-- MTMD.L: MDL takes rs1. -/
def execMtmdL (i : Issue) (a : RArgs) (s : State) : Result :=
  mulInstr (.mtmdL i.clean a) (a.fn == 0x19 && a.rd == 0 && a.rs2 == 0) i a
    (fun c => c.issueMd ⟨none, some (c.reg a.rs1), none⟩) s
/-- MTMD.A: MDA takes rs1. -/
def execMtmdA (i : Issue) (a : RArgs) (s : State) : Result :=
  mulInstr (.mtmdA i.clean a) (a.fn == 0x1A && a.rd == 0 && a.rs2 == 0) i a
    (fun c => c.issueMd ⟨none, none, some (c.reg a.rs1)⟩) s

end Sys2Proof.Machine
end

