-- ==== Sys2Proof/Machine/Tlbop.lean ====
section
/-!
DEFINITION. TLB maintenance (R236 to R239, Tables XLAT-7 and XLAT-8) and the translation registers (R221).
-/

namespace Sys2Proof.Machine

/-- In deterministic mode the operation takes a count that is not fixed (Table PIPE-8). -/
def dmNotFixed (k : CoreId) (s : State) : State := if (s.core k).dm then s.put IBC_DMSTAT_VAR 1 k.val else s

/-! ### Invalidations -/

/-- What an invalidation removes. -/
inductive InvKind where
  | all | asid | va | vaa
  deriving DecidableEq, Repr

/-- Does an entry cover a virtual address? -/
def TlbEntry.covers (e : TlbEntry) (va : Nat) : Bool := e.va == va / 2 ^ e.bits * 2 ^ e.bits

/-- Does an invalidation with operand `v` by seat `seat` under ASID `cur` remove an entry (Table XLAT-7)? -/
def InvKind.hits (i : InvKind) (seat cur : Nat) (v : Word64) (e : TlbEntry) : Bool :=
  e.seat == seat && match i with
    | .all => true
    | .asid => e.asid == v.toNat % 4096 && !e.glob
    | .va => e.covers v.toNat && (e.glob || e.asid == cur)
    | .vaa => e.covers v.toNat

/-- One core's TLBs without the entries that `p` names; an invalidation of everything drops the seat's walk-cache
entries too. -/
def Core.dropTlb (p : TlbEntry → Bool) (walks : Option Nat) (c : Core) : Core :=
  { c with
    itlb := c.itlb.filter (fun e => !p e), dtlb := c.dtlb.filter (fun e => !p e), tlb2 := c.tlb2.filter (fun e => !p e)
    s2cache := match walks with
      | some seat => c.s2cache.filter (fun e => e.seat != seat)
      | none => c.s2cache }

/-- Has core j completed every access of `seat` that it has translated (R238)? -/
def State.accessesDone (s : State) (j : CoreId) (seat : Nat) : Bool :=
  let c := s.core j
  (c.stores.filter (fun e => e.seat == seat)).all StoreEntry.posted && match c.load with
    | some l => l.seat != seat
    | none => true

/-- An invalidation on the cores that `on` names. Walks complete within a step, so none is in progress (R239). -/
def invalidate (k : CoreId) (kind : InvKind) (v : Word64) (on : CoreId → Bool) (s : State) : Act :=
  let c := s.core k
  let seat := c.seatid
  if (List.finRange 32).all (fun j => !on j || s.accessesDone j seat) then
    let p := kind.hits seat (slice c.ptroot.toNat 48 12) v
    .done (s.mapCores on (Core.dropTlb p (if kind = .all then some seat else none)))
  else .stall s

/-- A local invalidation: `va` says whether the operation takes rs1. -/
def invLocal (key : Instr) (fn : Nat) (kind : InvKind) (i : XIssue) (a : RArgs) (s : State) : Result :=
  let k := i.core
  runInstr ⟨k, key, none, i.par, a.fn.toNat == fn && a.rd == 0 && a.rs2 == 0 && (kind != .all || a.rs1 == 0), 1,
    [a.rs1], false, false⟩
    (fun s => invalidate k kind ((s.core k).reg a.rs1) (· == k) s) s

/-- INV.ALL. -/
def execTlbInvAll (i : XIssue) (a : RArgs) (s : State) : Result := invLocal (.tlbInvAll i.clean a) 0x00 .all i a s
/-- INV.ASID. -/
def execTlbInvAsid (i : XIssue) (a : RArgs) (s : State) : Result := invLocal (.tlbInvAsid i.clean a) 0x01 .asid i a s
/-- INV.VA. -/
def execTlbInvVa (i : XIssue) (a : RArgs) (s : State) : Result := invLocal (.tlbInvVa i.clean a) 0x02 .va i a s
/-- INV.VAA. -/
def execTlbInvVaa (i : XIssue) (a : RArgs) (s : State) : Result := invLocal (.tlbInvVaa i.clean a) 0x03 .vaa i a s

/-- The operation of fn 0x08 to 0x0B. -/
def broadcastKind (fn : Nat) : InvKind :=
  match fn with
  | 0x08 => .all
  | 0x09 => .asid
  | 0x0A => .va
  | _ => .vaa

/-- INV.ALL.S to INV.VAA.S: on every core, each of which may hold entries of the seat (R238). -/
def execTlbInvBroadcast (i : XIssue) (a : RArgs) (s : State) : Result :=
  let k := i.core
  let fn := a.fn.toNat
  runInstr ⟨k, .tlbInvBroadcast i.clean a, none, i.par,
    decide (0x08 ≤ fn) && decide (fn ≤ 0x0B) && a.rd == 0 && a.rs2 == 0 && (fn != 0x08 || a.rs1 == 0), 1, [a.rs1],
    false, false⟩
    (fun s => invalidate k (broadcastKind fn) ((s.core k).reg a.rs1) (fun _ => true) (dmNotFixed k s)) s

/-! ### Pins -/

/-- The first-level TLB concerned, and that TLB replaced. -/
def Core.l1Tlb (c : Core) (fetch : Bool) : List TlbEntry := if fetch then c.itlb else c.dtlb
def Core.setL1Tlb (c : Core) (fetch : Bool) (l : List TlbEntry) : Core :=
  if fetch then { c with itlb := l } else { c with dtlb := l }

/-- Pin the entries that serve an address. -/
def Core.pin (c : Core) (fetch : Bool) (va : Nat) : Core :=
  c.setL1Tlb fetch ((c.l1Tlb fetch).map (fun e => if e.serves c va then { e with pinned := true } else e))

/-- Is one of the 8 pins of a TLB free? -/
def Core.pinFree (c : Core) (fetch : Bool) : Bool := decide (((c.l1Tlb fetch).filter (·.pinned)).length < 8)

/-- The registers after a pin, or after no pin was free. -/
def pinResult (k : CoreId) (fetch : Bool) (va : Nat) (rd : Fin 32) (s : State) : Act :=
  if (s.core k).pinFree fetch then .done (s.mapCore k (fun c => (c.pin fetch va).setReg rd 0))
  else .done (s.mapCore k (fun c => c.setReg rd 1))

/-- PIN.D and PIN.I (R237). With stage 1 off the TLBs hold nothing for the address, and nothing is pinned (log 14). -/
def pinInstr (key : Instr) (fn : Nat) (fetch : Bool) (i : XIssue) (a : RArgs) (s : State) : Result :=
  let k := i.core
  runInstr ⟨k, key, none, i.par, a.fn.toNat == fn && a.rs2 == 0, 1, [a.rd, a.rs1], false, false⟩
    (fun s =>
      let s := dmNotFixed k s
      let c := s.core k
      let va := (c.reg a.rs1).toNat
      let kind : XKind := if fetch then .fetch else .read
      if 2 ^ 48 ≤ va then .exc (excAt 0x07 va) s
      else match (if c.ptctl.getLsbD 0 then (c.l1Tlb fetch).find? (fun e => e.serves c va) else none) with
        | some e =>
          if e.pinned then .done (s.mapCore k (fun c => c.setReg a.rd 0)) else pinResult k fetch va a.rd s
        | none =>
          let (r, s1) := walk k kind va s
          let r := match r with
            | .ok e => permit (c.pl == 0) c.kxu kind e (e.phys va)
            | other => other
          match r with
          | .ok _ => pinResult k fetch va a.rd s1
          | .fault code info fpa => let (e, s1) := xlExc k kind va code info fpa s1; .exc e s1
          | .wait => .stall s1) s

/-- PIN.D. -/
def execPinD (i : XIssue) (a : RArgs) (s : State) : Result := pinInstr (.pinD i.clean a) 0x10 false i a s
/-- PIN.I. -/
def execPinI (i : XIssue) (a : RArgs) (s : State) : Result := pinInstr (.pinI i.clean a) 0x11 true i a s

/-- UNPIN: every pinned entry of the seat on this core becomes ordinary. -/
def execUnpin (i : XIssue) (a : RArgs) (s : State) : Result :=
  let k := i.core
  runInstr ⟨k, .unpin i.clean a, none, i.par, a.fn.toNat == 0x12 && a.rd == 0 && a.rs1 == 0 && a.rs2 == 0, 1, [],
    false, false⟩
    (fun s => .done (s.mapCore k (fun c =>
      let off (e : TlbEntry) : TlbEntry := if e.seat == c.seatid then { e with pinned := false } else e
      { c with itlb := c.itlb.map off, dtlb := c.dtlb.map off, tlb2 := c.tlb2.map off }))) s

/-! ### PROBE, TWR, TRD -/

/-- The rights of a page at the current level, as PROBE shows them: X, W, R. -/
def TlbEntry.rights (e : TlbEntry) (user kxu : Bool) : Nat :=
  let x := (if user then e.ux else e.kx && !(kxu && e.u)) && e.s2x
  let data := !user || e.u
  bit x * 16 + bit (data && e.w && e.s2w) * 8 + bit (data && e.s2r) * 4

/-- The result of PROBE (Table XLAT-8). -/
def probeWord (user kxu : Bool) (va : Nat) (r : XlAns) : Word64 :=
  match r with
  | .ok e => BitVec.ofNat 64 (e.phys va / 4096 * 4096 + e.ph * 256 + typeCode e.type * 64 + bit e.g * 32 + e.rights user kxu)
  | .fault code info _ => BitVec.ofNat 64 (2 ^ 63 + code * 2 ^ 16 + info)
  | .wait => 0

/-- PROBE: the translation of rs1 as a load, without a fault. FPA keeps its value (log 32). -/
def execProbe (i : XIssue) (a : RArgs) (s : State) : Result :=
  let k := i.core
  runInstr ⟨k, .probe i.clean a, none, i.par, a.fn.toNat == 0x20 && a.rs2 == 0, 1, [a.rd, a.rs1], false, false⟩
    (fun s =>
      let s := dmNotFixed k s
      let c := s.core k
      let va := (c.reg a.rs1).toNat
      if 2 ^ 48 ≤ va then .exc (excAt 0x07 va) s
      else
        let (r, s1) := translate k .read va s
        match r with
        | .wait => .stall s1
        | r => .done (s1.mapCore k (fun c' => c'.setReg a.rd (probeWord (c.pl == 0) c.kxu va r)))) s

/-- TWR: a translation register takes rs1. -/
def execTwr (i : XIssue) (a : RArgs) (s : State) : Result :=
  let k := i.core
  let n := a.fn.toNat - 0x40
  runInstr ⟨k, .twr i.clean a, none, i.par,
    decide (0x40 ≤ a.fn.toNat) && decide (n < 3) && a.rd == 0 && a.rs2 == 0, 1, [a.rs1], false, false⟩
    (fun s => .done (s.mapCore k (fun c => c.writeXlat n (c.reg a.rs1)))) s

/-- TRD: rd takes a translation register. -/
def execTrd (i : XIssue) (a : RArgs) (s : State) : Result :=
  let k := i.core
  let n := a.fn.toNat - 0x60
  runInstr ⟨k, .trd i.clean a, none, i.par,
    decide (0x60 ≤ a.fn.toNat) && decide (n < 3) && a.rs1 == 0 && a.rs2 == 0, 1, [a.rd], false, false⟩
    (fun s => .done (s.mapCore k (fun c => c.setReg a.rd (c.readXlat n)))) s

end Sys2Proof.Machine
end

