-- ==== Sys2Proof/Machine/Dispatch.lean ====
section
/-!
DEFINITION. The dispatcher: one arm per command, in the order of spec/opcode_table.json.
-/

namespace Sys2Proof.Machine

/-- The effect of a command on everything but the queue. -/
def exec (i : Instr) (s : State) : Host.Outcome State Fault Refusal :=
  match i with
  | .add iss a => Sys2Proof.Machine.execAdd iss a s
  | .sub iss a => Sys2Proof.Machine.execSub iss a s
  | .addc iss a => Sys2Proof.Machine.execAddc iss a s
  | .subc iss a => Sys2Proof.Machine.execSubc iss a s
  | .and iss a => Sys2Proof.Machine.execAnd iss a s
  | .or iss a => Sys2Proof.Machine.execOr iss a s
  | .xor iss a => Sys2Proof.Machine.execXor iss a s
  | .andn iss a => Sys2Proof.Machine.execAndn iss a s
  | .shl iss a => Sys2Proof.Machine.execShl iss a s
  | .shr iss a => Sys2Proof.Machine.execShr iss a s
  | .sra iss a => Sys2Proof.Machine.execSra iss a s
  | .ror iss a => Sys2Proof.Machine.execRor iss a s
  | .min iss a => Sys2Proof.Machine.execMin iss a s
  | .max iss a => Sys2Proof.Machine.execMax iss a s
  | .minu iss a => Sys2Proof.Machine.execMinu iss a s
  | .maxu iss a => Sys2Proof.Machine.execMaxu iss a s
  | .clz iss a => Sys2Proof.Machine.execClz iss a s
  | .popc iss a => Sys2Proof.Machine.execPopc iss a s
  | .sextb iss a => Sys2Proof.Machine.execSextb iss a s
  | .sexth iss a => Sys2Proof.Machine.execSexth iss a s
  | .sextw iss a => Sys2Proof.Machine.execSextw iss a s
  | .bswap iss a => Sys2Proof.Machine.execBswap iss a s
  | .addw iss a => Sys2Proof.Machine.execAddw iss a s
  | .subw iss a => Sys2Proof.Machine.execSubw iss a s
  | .shlw iss a => Sys2Proof.Machine.execShlw iss a s
  | .shrw iss a => Sys2Proof.Machine.execShrw iss a s
  | .sraw iss a => Sys2Proof.Machine.execSraw iss a s
  | .addi iss a => Sys2Proof.Machine.execAddi iss a s
  | .andi iss a => Sys2Proof.Machine.execAndi iss a s
  | .ori iss a => Sys2Proof.Machine.execOri iss a s
  | .xori iss a => Sys2Proof.Machine.execXori iss a s
  | .shi iss a => Sys2Proof.Machine.execShi iss a s
  | .cmpi iss a => Sys2Proof.Machine.execCmpi iss a s
  | .lsi iss a => Sys2Proof.Machine.execLsi iss a s
  | .mul iss a => Sys2Proof.Machine.execMul iss a s
  | .mulu iss a => Sys2Proof.Machine.execMulu iss a s
  | .mac16 iss a => Sys2Proof.Machine.execMac16 iss a s
  | .macu16 iss a => Sys2Proof.Machine.execMacu16 iss a s
  | .mfmdH iss a inFlight => Sys2Proof.Machine.execMfmdH iss a inFlight s
  | .mfmdL iss a inFlight => Sys2Proof.Machine.execMfmdL iss a inFlight s
  | .mfmdA iss a inFlight => Sys2Proof.Machine.execMfmdA iss a inFlight s
  | .mtmdH iss a => Sys2Proof.Machine.execMtmdH iss a s
  | .mtmdL iss a => Sys2Proof.Machine.execMtmdL iss a s
  | .mtmdA iss a => Sys2Proof.Machine.execMtmdA iss a s
  | .div iss a => Sys2Proof.Machine.execDiv iss a s
  | .divu iss a => Sys2Proof.Machine.execDivu iss a s
  | .rem iss a => Sys2Proof.Machine.execRem iss a s
  | .remu iss a => Sys2Proof.Machine.execRemu iss a s
  | .fdivS iss a => Sys2Proof.Machine.execFdivS iss a s
  | .fsqrtS iss a => Sys2Proof.Machine.execFsqrtS iss a s
  | .fdivD iss a => Sys2Proof.Machine.execFdivD iss a s
  | .fsqrtD iss a => Sys2Proof.Machine.execFsqrtD iss a s
  | .longOpComplete k sec => Sys2Proof.Machine.execLongOpComplete k sec s
  | .fadd iss a => Sys2Proof.Machine.execFadd iss a s
  | .fsub iss a => Sys2Proof.Machine.execFsub iss a s
  | .fmul iss a => Sys2Proof.Machine.execFmul iss a s
  | .fmin iss a => Sys2Proof.Machine.execFmin iss a s
  | .fmax iss a => Sys2Proof.Machine.execFmax iss a s
  | .fabs iss a => Sys2Proof.Machine.execFabs iss a s
  | .fneg iss a => Sys2Proof.Machine.execFneg iss a s
  | .fcmp iss a => Sys2Proof.Machine.execFcmp iss a s
  | .fcvtL iss a => Sys2Proof.Machine.execFcvtL iss a s
  | .fcvtF iss a => Sys2Proof.Machine.execFcvtF iss a s
  | .fcvtX iss a => Sys2Proof.Machine.execFcvtX iss a s
  | .ldb iss a u => Sys2Proof.Machine.execLdb iss a u s
  | .ldbu iss a u => Sys2Proof.Machine.execLdbu iss a u s
  | .ldh iss a u => Sys2Proof.Machine.execLdh iss a u s
  | .ldhu iss a u => Sys2Proof.Machine.execLdhu iss a u s
  | .ldw iss a u => Sys2Proof.Machine.execLdw iss a u s
  | .ldwu iss a u => Sys2Proof.Machine.execLdwu iss a u s
  | .ldd iss a u => Sys2Proof.Machine.execLdd iss a u s
  | .stb iss a => Sys2Proof.Machine.execStb iss a s
  | .sth iss a => Sys2Proof.Machine.execSth iss a s
  | .stw iss a => Sys2Proof.Machine.execStw iss a s
  | .std iss a => Sys2Proof.Machine.execStd iss a s
  | .ldst iss a u => Sys2Proof.Machine.execLdst iss a u s
  | .ldx iss a u => Sys2Proof.Machine.execLdx iss a u s
  | .stx iss a => Sys2Proof.Machine.execStx iss a s
  | .swap iss a u mp => Sys2Proof.Machine.execSwap iss a u mp s
  | .adda iss a u mp => Sys2Proof.Machine.execAdda iss a u mp s
  | .mcpy iss a u => Sys2Proof.Machine.execMcpy iss a u s
  | .b iss a => Sys2Proof.Machine.execB iss a s
  | .call iss a => Sys2Proof.Machine.execCall iss a s
  | .jmpl iss a => Sys2Proof.Machine.execJmpl iss a s
  | .callr iss a => Sys2Proof.Machine.execCallr iss a s
  | .retw iss a => Sys2Proof.Machine.execRetw iss a s
  | .rep iss a => Sys2Proof.Machine.execRep iss a s
  | .mfc iss a => Sys2Proof.Machine.execMfc iss a s
  | .mtc iss a => Sys2Proof.Machine.execMtc iss a s
  | .bar iss a => Sys2Proof.Machine.execBar iss a s
  | .lbar iss a => Sys2Proof.Machine.execLbar iss a s
  | .isync iss a => Sys2Proof.Machine.execIsync iss a s
  | .flushw iss a mp => Sys2Proof.Machine.execFlushw iss a mp s
  | .flushwA iss a mp => Sys2Proof.Machine.execFlushwA iss a mp s
  | .swseat iss a mp => Sys2Proof.Machine.execSwseat iss a mp s
  | .reti iss a => Sys2Proof.Machine.execReti iss a s
  | .trap iss a => Sys2Proof.Machine.execTrap iss a s
  | .brk iss a => Sys2Proof.Machine.execBrk iss a s
  | .wait iss a => Sys2Proof.Machine.execWait iss a s
  | .cmoCln iss a => Sys2Proof.Machine.execCmoCln iss a s
  | .cmoCiv iss a => Sys2Proof.Machine.execCmoCiv iss a s
  | .cmoInv iss a => Sys2Proof.Machine.execCmoInv iss a s
  | .cmoFill iss a => Sys2Proof.Machine.execCmoFill iss a s
  | .cmoClnR iss a => Sys2Proof.Machine.execCmoClnR iss a s
  | .cmoCivR iss a => Sys2Proof.Machine.execCmoCivR iss a s
  | .cmoInvR iss a => Sys2Proof.Machine.execCmoInvR iss a s
  | .cmoFillR iss a => Sys2Proof.Machine.execCmoFillR iss a s
  | .civSeat iss a => Sys2Proof.Machine.execCivSeat iss a s
  | .invL1 iss a => Sys2Proof.Machine.execInvL1 iss a s
  | .tlbInvAll iss a => Sys2Proof.Machine.execTlbInvAll iss a s
  | .tlbInvAsid iss a => Sys2Proof.Machine.execTlbInvAsid iss a s
  | .tlbInvVa iss a => Sys2Proof.Machine.execTlbInvVa iss a s
  | .tlbInvVaa iss a => Sys2Proof.Machine.execTlbInvVaa iss a s
  | .tlbInvBroadcast iss a => Sys2Proof.Machine.execTlbInvBroadcast iss a s
  | .pinD iss a => Sys2Proof.Machine.execPinD iss a s
  | .pinI iss a => Sys2Proof.Machine.execPinI iss a s
  | .unpin iss a => Sys2Proof.Machine.execUnpin iss a s
  | .probe iss a => Sys2Proof.Machine.execProbe iss a s
  | .twr iss a => Sys2Proof.Machine.execTwr iss a s
  | .trd iss a => Sys2Proof.Machine.execTrd iss a s
  | .crc iss a mp => Sys2Proof.Machine.execCrc iss a mp s
  | .customerInstruction iss op a mp => Sys2Proof.Machine.execCustomerInstruction iss op a mp s
  | .customerRoutineTimeout k => Sys2Proof.Machine.execCustomerRoutineTimeout k s
  | .microTrap k => Sys2Proof.Machine.execMicroTrap k s
  | .replicaRewrite cl word => Sys2Proof.Machine.execReplicaRewrite cl word s
  | .mcsWordWrite by_ value => Sys2Proof.Machine.execMcsWordWrite by_ value s
  | .interruptEntry k => Sys2Proof.Machine.execInterruptEntry k s
  | .asyncBusErrorEntry k => Sys2Proof.Machine.execAsyncBusErrorEntry k s
  | .seatSwitchEntry k => Sys2Proof.Machine.execSeatSwitchEntry k s
  | .windowSpill k => Sys2Proof.Machine.execWindowSpill k s
  | .windowFill k => Sys2Proof.Machine.execWindowFill k s
  | .storeBufferDrain k n answered => Sys2Proof.Machine.execStoreBufferDrain k n answered s
  | .loadResponse k r u => Sys2Proof.Machine.execLoadResponse k r u s
  | .storeErrorResponse k n => Sys2Proof.Machine.execStoreErrorResponse k n s
  | .lockstepMismatch pair kind => Sys2Proof.Machine.execLockstepMismatch pair kind s
  | .dmAccessOverrun k excess => Sys2Proof.Machine.execDmAccessOverrun k excess s
  | .perfCounterOverflow k ctr => Sys2Proof.Machine.execPerfCounterOverflow k ctr s
  | .seatLockWrite by_ => Sys2Proof.Machine.execSeatLockWrite by_ s
  | .seatLockCheckDone => Sys2Proof.Machine.execSeatLockCheckDone s
  | .tbsCapture n rising => Sys2Proof.Machine.execTbsCapture n rising s
  | .tbsCompareMatch n => Sys2Proof.Machine.execTbsCompareMatch n s
  | .slotStart u => Sys2Proof.Machine.execSlotStart u s
  | .dealLockWrite by_ => Sys2Proof.Machine.execDealLockWrite by_ s
  | .dealLockActivate u => Sys2Proof.Machine.execDealLockActivate u s
  | .switchOverrun k => Sys2Proof.Machine.execSwitchOverrun k s
  | .flitHop router out eject arrivals => Sys2Proof.Machine.execFlitHop router out eject arrivals s
  | .fabQuenchWrite by_ value => Sys2Proof.Machine.execFabQuenchWrite by_ value s
  | .deadTargetTimeout t => Sys2Proof.Machine.execDeadTargetTimeout t s
  | .tgtRestore by_ t => Sys2Proof.Machine.execTgtRestore by_ t s
  | .tgtIsolate by_ t => Sys2Proof.Machine.execTgtIsolate by_ t s
  | .lateResponse t => Sys2Proof.Machine.execLateResponse t s
  | .dmcRequest c port seat pa write guar hint => Sys2Proof.Machine.execDmcRequest c port seat pa write guar hint s
  | .urgencyEscalation c iss => Sys2Proof.Machine.execUrgencyEscalation c iss s
  | .dmcSelfRefresh c postpone => Sys2Proof.Machine.execDmcSelfRefresh c postpone s
  | .rowIdleClose c bank => Sys2Proof.Machine.execRowIdleClose c bank s
  | .writeQueueDrain c u => Sys2Proof.Machine.execWriteQueueDrain c u s
  | .dmcTempRead c t0 t1 => Sys2Proof.Machine.execDmcTempRead c t0 t1 s
  | .dmcScrubRead c u => Sys2Proof.Machine.execDmcScrubRead c u s
  | .crcAlertReplay c u => Sys2Proof.Machine.execCrcAlertReplay c u s
  | .dramTrainingDone c geom => Sys2Proof.Machine.execDramTrainingDone c geom s
  | .bsetWrite by_ c seat value => Sys2Proof.Machine.execBsetWrite by_ c seat value s
  | .dstoreZeroDone b => Sys2Proof.Machine.execDstoreZeroDone b s
  | .dstoreScrubRead b u => Sys2Proof.Machine.execDstoreScrubRead b u s
  | .dstoreBcfgWrite by_ b value => Sys2Proof.Machine.execDstoreBcfgWrite by_ b value s
  | .laneNop iss => Sys2Proof.Machine.execLaneNop iss s
  | .laneAdd iss d a b => Sys2Proof.Machine.execLaneAdd iss d a b s
  | .laneSub iss d a b => Sys2Proof.Machine.execLaneSub iss d a b s
  | .laneAdds iss d a b => Sys2Proof.Machine.execLaneAdds iss d a b s
  | .laneSubs iss d a b => Sys2Proof.Machine.execLaneSubs iss d a b s
  | .laneAnd iss d a b => Sys2Proof.Machine.execLaneAnd iss d a b s
  | .laneOr iss d a b => Sys2Proof.Machine.execLaneOr iss d a b s
  | .laneXor iss d a b => Sys2Proof.Machine.execLaneXor iss d a b s
  | .laneShl iss d a b => Sys2Proof.Machine.execLaneShl iss d a b s
  | .laneShr iss d a b => Sys2Proof.Machine.execLaneShr iss d a b s
  | .laneSra iss d a b => Sys2Proof.Machine.execLaneSra iss d a b s
  | .laneMin iss d a b => Sys2Proof.Machine.execLaneMin iss d a b s
  | .laneMax iss d a b => Sys2Proof.Machine.execLaneMax iss d a b s
  | .laneAbs iss d a => Sys2Proof.Machine.execLaneAbs iss d a s
  | .laneNeg iss d a => Sys2Proof.Machine.execLaneNeg iss d a s
  | .laneMov iss d a => Sys2Proof.Machine.execLaneMov iss d a s
  | .laneCmp iss a b => Sys2Proof.Machine.execLaneCmp iss a b s
  | .laneClrs iss => Sys2Proof.Machine.execLaneClrs iss s
  | .laneAddi iss d a imm => Sys2Proof.Machine.execLaneAddi iss d a imm s
  | .laneLdi iss d imm => Sys2Proof.Machine.execLaneLdi iss d imm s
  | .laneAndi iss d a imm => Sys2Proof.Machine.execLaneAndi iss d a imm s
  | .laneCmpi iss a imm => Sys2Proof.Machine.execLaneCmpi iss a imm s
  | .laneShi iss d a k amt => Sys2Proof.Machine.execLaneShi iss d a k amt s
  | .laneLd iss d p inc off u => Sys2Proof.Machine.execLaneLd iss d p inc off u s
  | .laneSt iss a p inc off => Sys2Proof.Machine.execLaneSt iss a p inc off s
  | .psetBase iss p imm => Sys2Proof.Machine.execPsetBase iss p imm s
  | .psetLength iss p imm => Sys2Proof.Machine.execPsetLength iss p imm s
  | .psetAdvance iss p imm => Sys2Proof.Machine.execPsetAdvance iss p imm s
  | .dmac iss m acc a b c d => Sys2Proof.Machine.execDmac iss m acc a b c d s
  | .acld iss acc a sh => Sys2Proof.Machine.execAcld iss acc a sh s
  | .acopClr iss dst => Sys2Proof.Machine.execAcopClr iss dst s
  | .acopMov iss dst src => Sys2Proof.Machine.execAcopMov iss dst src s
  | .acopAdd iss dst src => Sys2Proof.Machine.execAcopAdd iss dst src s
  | .acopSub iss dst src => Sys2Proof.Machine.execAcopSub iss dst src s
  | .acopNeg iss dst src => Sys2Proof.Machine.execAcopNeg iss dst src s
  | .rnd iss d acc sh => Sys2Proof.Machine.execRnd iss d acc sh s
  | .acx iss d acc b sh => Sys2Proof.Machine.execAcx iss d acc b sh s
  | .acclp iss acc a => Sys2Proof.Machine.execAcclp iss acc a s
  | .macp iss acc p q u => Sys2Proof.Machine.execMacp iss acc p q u s
  | .sdird iss d ch => Sys2Proof.Machine.execSdird iss d ch s
  | .sdist iss d ch => Sys2Proof.Machine.execSdist iss d ch s
  | .hrpw iss pr fld a b => Sys2Proof.Machine.execHrpw iss pr fld a b s
  | .hrpc iss mask => Sys2Proof.Machine.execHrpc iss mask s
  | .xrd iss d x => Sys2Proof.Machine.execXrd iss d x s
  | .xwr iss a x => Sys2Proof.Machine.execXwr iss a x s
  | .mbrd iss d x => Sys2Proof.Machine.execMbrd iss d x s
  | .mbwr iss a x => Sys2Proof.Machine.execMbwr iss a x s
  | .fld iss w p off => Sys2Proof.Machine.execFld iss w p off s
  | .fst iss w p off u => Sys2Proof.Machine.execFst iss w p off u s
  | .laneTransferComplete n w r u => Sys2Proof.Machine.execLaneTransferComplete n w r u s
  | .laneB iss cond tgt => Sys2Proof.Machine.execLaneB iss cond tgt s
  | .laneCall iss tgt => Sys2Proof.Machine.execLaneCall iss tgt s
  | .laneRet iss => Sys2Proof.Machine.execLaneRet iss s
  | .loop iss m last cnt => Sys2Proof.Machine.execLoop iss m last cnt s
  | .waite iss => Sys2Proof.Machine.execWaite iss s
  | .sig iss code => Sys2Proof.Machine.execSig iss code s
  | .laneHalt iss => Sys2Proof.Machine.execLaneHalt iss s
  | .lanePairMismatch pair => Sys2Proof.Machine.execLanePairMismatch pair s
  | .lgKick by_ g => Sys2Proof.Machine.execLgKick by_ g s
  | .lgStart by_ g mask => Sys2Proof.Machine.execLgStart by_ g mask s
  | .lgStop by_ g mask => Sys2Proof.Machine.execLgStop by_ g mask s
  | .lgSyncWrite by_ g value => Sys2Proof.Machine.execLgSyncWrite by_ g value s
  | .lgLoad by_ g value => Sys2Proof.Machine.execLgLoad by_ g value s
  | .lgLoadDone g bad => Sys2Proof.Machine.execLgLoadDone g bad s
  | .lnRun by_ n => Sys2Proof.Machine.execLnRun by_ n s
  | .lnHaltRequest by_ n => Sys2Proof.Machine.execLnHaltRequest by_ n s
  | .lnStep by_ n => Sys2Proof.Machine.execLnStep by_ n s
  | .lnClrf by_ n => Sys2Proof.Machine.execLnClrf by_ n s
  | .lnEntryWrite by_ n value => Sys2Proof.Machine.execLnEntryWrite by_ n value s
  | .lnProgramWrite by_ n a value => Sys2Proof.Machine.execLnProgramWrite by_ n a value s
  | .lnCrclenWrite by_ n value => Sys2Proof.Machine.execLnCrclenWrite by_ n value s
  | .lnCrcDone n corrected => Sys2Proof.Machine.execLnCrcDone n corrected s
  | .laneStartGrant n => Sys2Proof.Machine.execLaneStartGrant n s
  | .mclkWrite by_ g value => Sys2Proof.Machine.execMclkWrite by_ g value s
  | .sdiCtlWrite by_ ch value => Sys2Proof.Machine.execSdiCtlWrite by_ ch value s
  | .sdiFtWrite by_ ch value => Sys2Proof.Machine.execSdiFtWrite by_ ch value s
  | .sdiResult ch bits => Sys2Proof.Machine.execSdiResult ch bits s
  | .sdiTrip ch bits => Sys2Proof.Machine.execSdiTrip ch bits s
  | .sdiBitstreamError ch kind => Sys2Proof.Machine.execSdiBitstreamError ch kind s
  | .sdiTripClear by_ ch value => Sys2Proof.Machine.execSdiTripClear by_ ch value s
  | .hrpBoundary pr inFlight => Sys2Proof.Machine.execHrpBoundary pr inFlight s
  | .hrpStart pr => Sys2Proof.Machine.execHrpStart pr s
  | .hrpShadowWrite by_ pr fld value inFlight same => Sys2Proof.Machine.execHrpShadowWrite by_ pr fld value inFlight same s
  | .hrpCwdExpiry pr inFlight => Sys2Proof.Machine.execHrpCwdExpiry pr inFlight s
  | .hrpReadbackMismatch pr low => Sys2Proof.Machine.execHrpReadbackMismatch pr low s
  | .hrpTrippedClear by_ pr value => Sys2Proof.Machine.execHrpTrippedClear by_ pr value s
  | .icuEdge src => Sys2Proof.Machine.execIcuEdge src s
  | .icuClaim t => Sys2Proof.Machine.execIcuClaim t s
  | .icuComplete t id => Sys2Proof.Machine.execIcuComplete t id s
  | .icuSrcWrite by_ src value => Sys2Proof.Machine.execIcuSrcWrite by_ src value s
  | .icuSwtrig by_ value => Sys2Proof.Machine.execIcuSwtrig by_ value s
  | .icuStrandedTimeout src => Sys2Proof.Machine.execIcuStrandedTimeout src s
  | .fcuDecision n agree => Sys2Proof.Machine.execFcuDecision n agree s
  | .gateSelfTest aOk bOk => Sys2Proof.Machine.execGateSelfTest aOk bOk s
  | .clockMonitorWindow countsOk lockOk => Sys2Proof.Machine.execClockMonitorWindow countsOk lockOk s
  | .missingReferenceEdge => Sys2Proof.Machine.execMissingReferenceEdge s
  | .voltageMonitorFault rail => Sys2Proof.Machine.execVoltageMonitorFault rail s
  | .temperatureSample t => Sys2Proof.Machine.execTemperatureSample t s
  | .watchdogExpiry w => Sys2Proof.Machine.execWatchdogExpiry w s
  | .watchdogKick by_ w key => Sys2Proof.Machine.execWatchdogKick by_ w key s
  | .watchdogEnable by_ w value => Sys2Proof.Machine.execWatchdogEnable by_ w value s
  | .svpWatchdogExpiry => Sys2Proof.Machine.execSvpWatchdogExpiry s
  | .svpKick by_ key => Sys2Proof.Machine.execSvpKick by_ key s
  | .sfiRelease by_ value => Sys2Proof.Machine.execSfiRelease by_ value s
  | .sfiForce => Sys2Proof.Machine.execSfiForce s
  | .faultInject by_ value => Sys2Proof.Machine.execFaultInject by_ value s
  | .faultLogClear by_ value => Sys2Proof.Machine.execFaultLogClear by_ value s
  | .powerOnResetRelease cut damage => Sys2Proof.Machine.execPowerOnResetRelease cut damage s
  | .stage0Check => Sys2Proof.Machine.execStage0Check s
  | .stage0WriteReject by_ offset value => Sys2Proof.Machine.execStage0WriteReject by_ offset value s
  | .slotSelect readErr => Sys2Proof.Machine.execSlotSelect readErr s
  | .hashListCheck comp readErr => Sys2Proof.Machine.execHashListCheck comp readErr s
  | .loadBlockVerify comp readErr xing => Sys2Proof.Machine.execLoadBlockVerify comp readErr xing s
  | .ms3Release patch => Sys2Proof.Machine.execMs3Release patch s
  | .ms4Reached => Sys2Proof.Machine.execMs4Reached s
  | .imageFailure reason comp => Sys2Proof.Machine.execImageFailure reason comp s
  | .msxEnter => Sys2Proof.Machine.execMsxEnter s
  | .noimageRepeat => Sys2Proof.Machine.execNoimageRepeat s
  | .recoveryStart => Sys2Proof.Machine.execRecoveryStart s
  | .erasure => Sys2Proof.Machine.execErasure s
  | .fuseWrite by_ field => Sys2Proof.Machine.execFuseWrite by_ field s
  | .fuseBlow by_ field => Sys2Proof.Machine.execFuseBlow by_ field s
  | .counterRaise by_ field => Sys2Proof.Machine.execCounterRaise by_ field s
  | .fieldDestroy by_ field => Sys2Proof.Machine.execFieldDestroy by_ field s
  | .lccOpDone stuck => Sys2Proof.Machine.execLccOpDone stuck s
  | .trngHealthFail => Sys2Proof.Machine.execTrngHealthFail s
  | .trngRecover => Sys2Proof.Machine.execTrngRecover s
  | .creJobDone => Sys2Proof.Machine.execCreJobDone s
  | .prsWrite by_ word value => Sys2Proof.Machine.execPrsWrite by_ word value s
  | .mbxReqpiWrite by_ seat value => Sys2Proof.Machine.execMbxReqpiWrite by_ seat value s
  | .mbxRspciWrite by_ seat value => Sys2Proof.Machine.execMbxRspciWrite by_ seat value s
  | .mbxRsppiWrite by_ seat value => Sys2Proof.Machine.execMbxRsppiWrite by_ seat value s
  | .mbxReqciWrite by_ seat value => Sys2Proof.Machine.execMbxReqciWrite by_ seat value s
  | .hello p => Sys2Proof.Machine.execHello p s
  | .auth p reply => Sys2Proof.Machine.execAuth p reply s
  | .bye p => Sys2Proof.Machine.execBye p s
  | .ping p => Sys2Proof.Machine.execPing p s
  | .devinfo p => Sys2Proof.Machine.execDevinfo p s
  | .faultlog p => Sys2Proof.Machine.execFaultlog p s
  | .seatinfo p => Sys2Proof.Machine.execSeatinfo p s
  | .seatResetCommand p => Sys2Proof.Machine.execSeatResetCommand p s
  | .seatSafeCommand p => Sys2Proof.Machine.execSeatSafeCommand p s
  | .seatRestart p => Sys2Proof.Machine.execSeatRestart p s
  | .seatStop p => Sys2Proof.Machine.execSeatStop p s
  | .claim p unit => Sys2Proof.Machine.execClaim p unit s
  | .release p => Sys2Proof.Machine.execRelease p s
  | .xbuf p writer peer tag pages bank => Sys2Proof.Machine.execXbuf p writer peer tag pages bank s
  | .lgwrite p reg g value src => Sys2Proof.Machine.execLgwrite p reg g value src s
  | .restore p target => Sys2Proof.Machine.execRestore p target s
  | .pfreq p level => Sys2Proof.Machine.execPfreq p level s
  | .tokens p => Sys2Proof.Machine.execTokens p s
  | .standbyCommand p tick => Sys2Proof.Machine.execStandbyCommand p tick s
  | .safecommOpen p id dev peer opened maxAge => Sys2Proof.Machine.execSafecommOpen p id dev peer opened maxAge s
  | .safecommSend p id data => Sys2Proof.Machine.execSafecommSend p id data s
  | .safecommRecv p id arrived => Sys2Proof.Machine.execSafecommRecv p id arrived s
  | .safecommClose p id => Sys2Proof.Machine.execSafecommClose p id s
  | .updateBegin p slot => Sys2Proof.Machine.execUpdateBegin p slot s
  | .updateBlock p offset data => Sys2Proof.Machine.execUpdateBlock p offset data s
  | .updateCommit p => Sys2Proof.Machine.execUpdateCommit p s
  | .recoveryBegin p manifest header lists => Sys2Proof.Machine.execRecoveryBegin p manifest header lists s
  | .recoveryBlock p comp index data => Sys2Proof.Machine.execRecoveryBlock p comp index data s
  | .recoveryEnd p => Sys2Proof.Machine.execRecoveryEnd p s
  | .lcycleNonce p => Sys2Proof.Machine.execLcycleNonce p s
  | .lcycleTransition p target owner maker => Sys2Proof.Machine.execLcycleTransition p target owner maker s
  | .keyadd p key by_ => Sys2Proof.Machine.execKeyadd p key by_ s
  | .keyrevoke p slot by_ => Sys2Proof.Machine.execKeyrevoke p slot by_ s
  | .debugGrant p r => Sys2Proof.Machine.execDebugGrant p r s
  | .debugRevoke p => Sys2Proof.Machine.execDebugRevoke p s
  | .cryptoRandom p n => Sys2Proof.Machine.execCryptoRandom p n s
  | .cryptoHash p n data => Sys2Proof.Machine.execCryptoHash p n data s
  | .cryptoVerify p key ctx msg sig => Sys2Proof.Machine.execCryptoVerify p key ctx msg sig s
  | .cryptoSign p ctx msg => Sys2Proof.Machine.execCryptoSign p ctx msg s
  | .netcfgGet p => Sys2Proof.Machine.execNetcfgGet p s
  | .netcfgSet p words => Sys2Proof.Machine.execNetcfgSet p words s
  | .systemCommand p op => Sys2Proof.Machine.execSystemCommand p op s
  | .noteRetransmit p seq => Sys2Proof.Machine.execNoteRetransmit p seq s
  | .noteAck p => Sys2Proof.Machine.execNoteAck p s
  | .ethmDatagram n counter tagOk msg => Sys2Proof.Machine.execEthmDatagram n counter tagOk msg s
  | .hqTxpiWrite by_ value => Sys2Proof.Machine.execHqTxpiWrite by_ value s
  | .hqRxciWrite by_ value => Sys2Proof.Machine.execHqRxciWrite by_ value s
  | .hqTxComplete seat granted port => Sys2Proof.Machine.execHqTxComplete seat granted port s
  | .frameReceive data seats => Sys2Proof.Machine.execFrameReceive data seats s
  | .gateWindowOpen port classes => Sys2Proof.Machine.execGateWindowOpen port classes s
  | .inauguration entitled => Sys2Proof.Machine.execInauguration entitled s
  | .gpioReadbackMismatch pin => Sys2Proof.Machine.execGpioReadbackMismatch pin s
  | .cellReceive port c crcOk => Sys2Proof.Machine.execCellReceive port c crcOk s
  | .linkAuth port key sigOk peer manager => Sys2Proof.Machine.execLinkAuth port key sigOk peer manager s
  | .assign port dev => Sys2Proof.Machine.execAssign port dev s
  | .remoteRequest => Sys2Proof.Machine.execRemoteRequest s
  | .remoteTimeout dev => Sys2Proof.Machine.execRemoteTimeout dev s
  | .stoptxWrite by_ value => Sys2Proof.Machine.execStoptxWrite by_ value s
  | .stopCell port src bcast dest seat id copy => Sys2Proof.Machine.execStopCell port src bcast dest seat id copy s
  | .timeExchange port offset rate delay => Sys2Proof.Machine.execTimeExchange port offset rate delay s
  | .portDown port => Sys2Proof.Machine.execPortDown port s
  | .portUp port => Sys2Proof.Machine.execPortUp port s
  | .pfctlTargetWrite by_ value => Sys2Proof.Machine.execPfctlTargetWrite by_ value s
  | .levelChangeDone => Sys2Proof.Machine.execLevelChangeDone s
  | .coreWakeC1 k => Sys2Proof.Machine.execCoreWakeC1 k s
  | .coreWakeC2 k => Sys2Proof.Machine.execCoreWakeC2 k s
  | .coreWakeC3 k => Sys2Proof.Machine.execCoreWakeC3 k s
  | .cctlWake by_ k => Sys2Proof.Machine.execCctlWake by_ k s
  | .clusterPowerUp c => Sys2Proof.Machine.execClusterPowerUp c s
  | .fioSwitch by_ value => Sys2Proof.Machine.execFioSwitch by_ value s
  | .tokenRequest op => Sys2Proof.Machine.execTokenRequest op s
  | .tokenGrant => Sys2Proof.Machine.execTokenGrant s
  | .standbyEntry by_ tick => Sys2Proof.Machine.execStandbyEntry by_ tick s
  | .offEntry by_ tick => Sys2Proof.Machine.execOffEntry by_ tick s
  | .standbyTick => Sys2Proof.Machine.execStandbyTick s
  | .standbyWake ball => Sys2Proof.Machine.execStandbyWake ball s
  | .offExit => Sys2Proof.Machine.execOffExit s
  | .porstInput => Sys2Proof.Machine.execPorstInput s
  | .resetNInput cut damage => Sys2Proof.Machine.execResetNInput cut damage s
  | .vddAonRise => Sys2Proof.Machine.execVddAonRise s
  | .supplyPowerUp rail => Sys2Proof.Machine.execSupplyPowerUp rail s
  | .railUndervoltageReset rail => Sys2Proof.Machine.execRailUndervoltageReset rail s
  | .deviceReset by_ key cut damage => Sys2Proof.Machine.execDeviceReset by_ key cut damage s
  | .seatReset by_ seat => Sys2Proof.Machine.execSeatReset by_ seat s
  | .seatResetDrainDone seat => Sys2Proof.Machine.execSeatResetDrainDone seat s
  | .seatResetComplete seat => Sys2Proof.Machine.execSeatResetComplete seat s
  | .blockReset by_ target => Sys2Proof.Machine.execBlockReset by_ target s
  | .pllLock => Sys2Proof.Machine.execPllLock s
  | .dbgauth r => Sys2Proof.Machine.execDbgauth r s
  | .dbgacc write offset data => Sys2Proof.Machine.execDbgacc write offset data s
  | .grantExpiry seat => Sys2Proof.Machine.execGrantExpiry seat s
  | .grantEndWrite by_ seat => Sys2Proof.Machine.execGrantEndWrite by_ seat s
  | .dbgHaltreq by_ k => Sys2Proof.Machine.execDbgHaltreq by_ k s
  | .debugHalt k => Sys2Proof.Machine.execDebugHalt k s
  | .dbgResume by_ k => Sys2Proof.Machine.execDbgResume by_ k s
  | .dbgStep by_ k => Sys2Proof.Machine.execDbgStep by_ k s
  | .crselAccess by_ k value => Sys2Proof.Machine.execCrselAccess by_ k value s
  | .damGo by_ value => Sys2Proof.Machine.execDamGo by_ value s
  | .damComplete => Sys2Proof.Machine.execDamComplete s
  | .crossTrigger => Sys2Proof.Machine.execCrossTrigger s
  | .dbgTrigin => Sys2Proof.Machine.execDbgTrigin s
  | .vddDbgRise => Sys2Proof.Machine.execVddDbgRise s
  | .trst => Sys2Proof.Machine.execTrst s
  | .traceStimWrite by_ seat port value => Sys2Proof.Machine.execTraceStimWrite by_ seat port value s
  | .traceUnitWrite src => Sys2Proof.Machine.execTraceUnitWrite src s
  | .s2inv by_ value => Sys2Proof.Machine.execS2inv by_ value s
  | .fenceWriteReject by_ addr value => Sys2Proof.Machine.execFenceWriteReject by_ addr value s
  | .registerWrite by_ addr wide value => Sys2Proof.Machine.execRegisterWrite by_ addr wide value s
  | .vddDbgFall => Sys2Proof.Machine.execVddDbgFall s
  | .nonceOffer => Sys2Proof.Machine.execNonceOffer s
  | .laneMemoryZeroDone n => Sys2Proof.Machine.execLaneMemoryZeroDone n s
  | .ethLinkChange port speed => Sys2Proof.Machine.execEthLinkChange port speed s
  | .legacyBusReceive c data => Sys2Proof.Machine.execLegacyBusReceive c data s
  | .extest value => Sys2Proof.Machine.execExtest value s

end Sys2Proof.Machine
end

