-- ==== Sys2Proof/Machine/Idle.lean ====
section
/-!
DEFINITION. What passes with time alone (log 3): with no command waiting, a step is one PER_CLK edge (5 ns). Device time
advances (R43), the watchdogs tick once in 200 edges, which is 100 periods of the reference, and the minutes of debug
grants count (R588). Everything else that time brings is a row of the table of its own.
-/

namespace Sys2Proof.Machine

/-- PER_CLK edges in a watchdog tick of 1 µs, and in a minute. -/
def edgesPerTick : Nat := 200
def edgesPerMinute : Nat := 12000000000

/-- The minutes of the grant of `seat` count; the last one ends with GRANT_EXPIRY. -/
def grantEdge (seat : Nat) (s : State) : State :=
  if !s.flag DBG_GRANT_VALID seat then s
  else
    let p := s.grantPhase[seat]! + 1
    if p < edgesPerMinute then { s with grantPhase := s.grantPhase.set! seat p }
    else
      let m := s.get DBG_GRANT_MIN seat
      { s.put DBG_GRANT_MIN (if 1 < m then m - 1 else m) seat with grantPhase := s.grantPhase.set! seat 0 }

/-- The reference clock runs: from the release of power-on reset until OFF. -/
def State.refRuns (s : State) : Bool := s.device == .starting || s.device == .on || s.device == .standby

/-- The watchdogs' prescaler. -/
def watchdogEdge (s : State) : State :=
  if s.refPhase + 1 < edgesPerTick then { s with refPhase := s.refPhase + 1 }
  else watchdogTick { s with refPhase := 0 }

/-- One PER_CLK edge. PER_CLK itself needs the PLL, so that device time and DBG_TRIGOUT stand still before it locks. -/
def idleTick (s : State) : Result :=
  if !s.refRuns then .next s
  else
    let s := watchdogEdge (s.each customerSeats grantEdge)
    if s.device == .starting then .next s
    else .next (perClkEdge { s with trigOut := s.trigOut - 1 })

end Sys2Proof.Machine
end

