-- ==== Sys2Proof/Safety.lean ====
section
/-!
DEFINITION. The terms that claims use: the canonical form of everything that the state stores sparsely, what every step
keeps, and when a core or a lane executes an instruction.
-/

namespace Sys2Proof

/-! ### Instructions by their issuer -/

/-- The issue of a lane instruction: its lane, and what its program word is. -/
def Instr.laneIssue? (c : Instr) : Option LIssue :=
  match c with
  | .laneNop i | .laneAdd i _ _ _ | .laneSub i _ _ _ | .laneAdds i _ _ _ | .laneSubs i _ _ _ | .laneAnd i _ _ _
  | .laneOr i _ _ _ | .laneXor i _ _ _ | .laneShl i _ _ _ | .laneShr i _ _ _ | .laneSra i _ _ _ | .laneMin i _ _ _
  | .laneMax i _ _ _ | .laneAbs i _ _ | .laneNeg i _ _ | .laneMov i _ _ | .laneCmp i _ _ | .laneClrs i
  | .laneAddi i _ _ _ | .laneLdi i _ _ | .laneAndi i _ _ _ | .laneCmpi i _ _ | .laneShi i _ _ _ _
  | .laneLd i _ _ _ _ _ | .laneSt i _ _ _ _ | .psetBase i _ _ | .psetLength i _ _ | .psetAdvance i _ _
  | .dmac i _ _ _ _ _ _ | .acld i _ _ _ | .acopClr i _ | .acopMov i _ _ | .acopAdd i _ _ | .acopSub i _ _
  | .acopNeg i _ _ | .rnd i _ _ _ | .acx i _ _ _ _ | .acclp i _ _ | .macp i _ _ _ _ | .sdird i _ _ | .sdist i _ _
  | .hrpw i _ _ _ _ | .hrpc i _ | .xrd i _ _ | .xwr i _ _ | .mbrd i _ _ | .mbwr i _ _ | .fld i _ _ _
  | .fst i _ _ _ _ | .laneB i _ _ | .laneCall i _ | .laneRet i | .loop i _ _ _ | .waite i | .sig i _ | .laneHalt i => some i
  | _ => none

/-- The issue of a core instruction: its core, its condition and what its word holds. -/
def Instr.issue? (c : Instr) : Option Issue :=
  match c with
  | .add i _ | .sub i _ | .addc i _ | .subc i _ | .and i _ | .or i _ | .xor i _ | .andn i _ | .shl i _ | .shr i _
  | .sra i _ | .ror i _ | .min i _ | .max i _ | .minu i _ | .maxu i _ | .clz i _ | .popc i _ | .sextb i _
  | .sexth i _ | .sextw i _ | .bswap i _ | .addw i _ | .subw i _ | .shlw i _ | .shrw i _ | .sraw i _ | .addi i _
  | .andi i _ | .ori i _ | .xori i _ | .shi i _ | .cmpi i _ | .lsi i _ | .mul i _ | .mulu i _ | .mac16 i _
  | .macu16 i _ | .mfmdH i _ _ | .mfmdL i _ _ | .mfmdA i _ _ | .mtmdH i _ | .mtmdL i _ | .mtmdA i _ | .div i _
  | .divu i _ | .rem i _ | .remu i _ | .fdivS i _ | .fsqrtS i _ | .fdivD i _ | .fsqrtD i _ | .fadd i _ | .fsub i _
  | .fmul i _ | .fmin i _ | .fmax i _ | .fabs i _ | .fneg i _ | .fcmp i _ | .fcvtL i _ | .fcvtF i _ | .fcvtX i _
  | .ldb i _ _ | .ldbu i _ _ | .ldh i _ _ | .ldhu i _ _ | .ldw i _ _ | .ldwu i _ _ | .ldd i _ _ | .stb i _
  | .sth i _ | .stw i _ | .std i _ | .ldst i _ _ | .ldx i _ _ | .stx i _ | .mcpy i _ _ | .b i _ | .call i _
  | .jmpl i _ | .callr i _ | .retw i _ => some i
  | _ => none

/-- The peer and the opcode of a WCI command (Table WCI-3), HELLO apart. -/
def Instr.wci? (c : Instr) : Option (Peer × Nat) :=
  match c with
  | .auth p _ => some (p, 0x0002) | .bye p => some (p, 0x0003) | .ping p => some (p, 0x0004)
  | .devinfo p => some (p, 0x0101) | .faultlog p => some (p, 0x0102) | .seatinfo p => some (p, 0x0103)
  | .seatResetCommand p => some (p, 0x0201) | .seatSafeCommand p => some (p, 0x0202)
  | .seatRestart p => some (p, 0x0203) | .seatStop p => some (p, 0x0204)
  | .claim p _ => some (p, 0x0301) | .release p => some (p, 0x0302) | .xbuf p _ _ _ _ _ => some (p, 0x0303)
  | .lgwrite p _ _ _ _ => some (p, 0x0304) | .restore p _ => some (p, 0x0305)
  | .pfreq p _ => some (p, 0x0401) | .tokens p => some (p, 0x0402) | .standbyCommand p _ => some (p, 0x0403)
  | .safecommOpen p _ _ _ _ _ => some (p, 0x0501) | .safecommSend p _ _ => some (p, 0x0502)
  | .safecommRecv p _ _ => some (p, 0x0503) | .safecommClose p _ => some (p, 0x0504)
  | .updateBegin p _ => some (p, 0x0601) | .updateBlock p _ _ => some (p, 0x0602) | .updateCommit p => some (p, 0x0603)
  | .recoveryBegin p _ _ _ => some (p, 0x0701) | .recoveryBlock p _ _ _ => some (p, 0x0702)
  | .recoveryEnd p => some (p, 0x0703)
  | .lcycleNonce p => some (p, 0x0801) | .lcycleTransition p _ _ _ => some (p, 0x0802)
  | .keyadd p _ _ => some (p, 0x0803) | .keyrevoke p _ _ => some (p, 0x0804)
  | .debugGrant p _ => some (p, 0x0901) | .debugRevoke p => some (p, 0x0902)
  | .cryptoRandom p _ => some (p, 0x0A01) | .cryptoHash p _ _ => some (p, 0x0A02)
  | .cryptoVerify p _ _ _ _ => some (p, 0x0A03) | .cryptoSign p _ _ => some (p, 0x0A04)
  | .netcfgGet p => some (p, 0x0B01) | .netcfgSet p _ => some (p, 0x0B02)
  | .systemCommand p op => some (p, 0x0C00 + op.toNat)
  | _ => none

end Sys2Proof

namespace Sys2Proof.Machine

/-- Everything stored sparsely is in canonical form: device registers, memory, the microcode store's words and the two
flash devices list no key twice and no default value, and the poisoned units are listed once, in ascending order. -/
structure State.Canonical (s : State) : Prop where
  regs : cellsWf resetWord s.regs = true
  mem : Memory.wf s.mem = true
  mcs : cellsWf (fun _ => (0 : BitVec 128)) s.mcsWords = true
  flash : ∀ i : Fin 2, cellsWf (fun _ => (0xFF : Byte)) s.flash[i] = true
  poison : s.poison.Pairwise (· < ·)

/-- What no command and no passing of time undoes, from `s` to `t`: fuses that are blown stay blown (R481), the counter of
free values never goes back, and the canonical form is kept. -/
structure Keeps (s t : State) : Prop where
  fuses : ∀ i : Nat, s.fuses.getLsbD i = true → t.fuses.getLsbD i = true
  fresh : s.fresh ≤ t.fresh
  canonical : s.Canonical → t.Canonical

/-! ### When a core or a lane executes -/

/-- The core with NZCV replaced where an instruction sets the flags. -/
def Core.flagsIf (c : Core) (sets : Bool) (f : BitVec 4) : Core := if sets then c.setFlags f else c

/-- Core k issues the instruction at its pc, behind no prefix, and its fetch succeeds; `t` is the state that the fetch
leaves. -/
structure State.Fetches (s : State) (k : CoreId) (t : State) : Prop where
  issues : s.mayIssue k = true
  noPrefix : (s.core k).rep = none
  fetched : fetchAt k (s.core k).pc.toNat s = (.ok, t)

/-- An instruction of core k with condition `cond` (none: XT), lowest level `level` and the registers `regs` comes to
its own effect: it is fetched, its level and its condition hold, no address comparator stops it, no register it names
waits for a long operation, and where no window is resident it names no windowed register. `u` is the state that its
effect starts from. -/
structure State.Executes (s : State) (k : CoreId) (cond : Option (Fin 15)) (level : Nat) (regs : List (Fin 32))
    (u : State) : Prop where
  fetched : ∃ t, s.Fetches k t ∧ level ≤ (t.core k).pl ∧ (∀ c, cond = some c → condHolds c (t.core k).flags = true) ∧
    comparators k 0 (t.core k).pc.toNat (t.core k).pc.toNat t = (.none, u) ∧ (t.core k).awaited regs = false ∧
    ((t.core k).res ≠ 0 ∨ regs.any (t.core k).windowed = false)

/-- The checks of core k's load of `size` bytes at `va` pass (an ATOM access where `atom`), no data comparator matches,
no earlier device store is waited for, and its data `d` are at hand: `ps` are its pieces, `t` the state that the read
leaves. -/
structure State.Loads (s : State) (k : CoreId) (atom : Bool) (va : Word64) (size : Nat) (up : Upset) (ps : List Part)
    (d : Nat) (t : State) : Prop where
  upset : up ≠ .tlb
  read : ∃ a b, (if atom then prepareAtom else prepare) k .read va.toNat size s = (.ok ps, a) ∧
    dataCompare k 1 ps a = (none, false, b) ∧ devLoadReady k ps b = true ∧ readParts k up false ps b = (.data d, t)

/-- The checks of core k's store of `size` bytes at `va` pass and no data comparator matches: `ps` are its pieces, `t`
the state that the checks leave. -/
structure State.Stores (s : State) (k : CoreId) (atom : Bool) (va : Word64) (size : Nat) (ps : List Part) (t : State) :
    Prop where
  checks : ∃ a, (if atom then prepareAtom else prepare) k .write va.toNat size s = (.ok ps, a) ∧
    dataCompare k 2 ps a = (none, false, t)

/-- What a store of `v` puts into the store buffer of a core that runs seat `seat`: one entry per piece, lowest address
first, each with its own bytes. -/
def storeEntries (seat : Nat) : List Part → Nat → List StoreEntry
  | [], _ => []
  | p :: ps, v => ⟨p.pa, p.size, v % 2 ^ (8 * p.size), p.type, seat, false, false⟩ ::
      storeEntries seat ps (v / 2 ^ (8 * p.size))

/-- The core with `l` behind the entries of its store buffer. -/
def Core.buffered (c : Core) (l : List StoreEntry) : Core := { c with stores := c.stores ++ l }

/-- A lane instruction comes to its own effect: its lane executes, its program word is legal and holds no uncorrectable
error. `u` is the state that its effect starts from: its lane cycle stands in it, and a corrected error is counted. -/
structure State.LaneExecutes (s : State) (i : LIssue) (u : State) : Prop where
  may : s.laneMay i.lane.val = true
  sound : i.pm ≠ .double
  legal : i.junk = false
  start : u = if i.pm = .single then (laneCycle i s).countUp LN_ERR_CEPM i.lane.val else laneCycle i s

/-- Lane n goes on behind its instruction, and a STEP of it is over. -/
def laneOn (n : Nat) (s : State) : State := (laneNext n s).mapLane n (fun l => { l with stepping := false })

/-- The value of lane arithmetic that does not fit `w` bits, and its nearest value that does (R355). -/
def beyond (w : Nat) (e : Int) : Bool := decide (e < -2 ^ (w - 1) ∨ 2 ^ (w - 1) ≤ e)
def clamp (w : Nat) (e : Int) : Int := max (-2 ^ (w - 1)) (min (2 ^ (w - 1) - 1) e)
/-- S is set where `sat`, and never cleared. -/
def State.sticky (s : State) (n : Nat) (sat : Bool) : State := if sat then s.put LN_STAT_S 1 n else s

/-! ### WCI commands -/

/-- The message at the head of the session of `p` is `m`, whoever answers WCI is ready for it, and no crypto job of the
session runs. -/
structure State.Meets (s : State) (p : Peer) (m : Incoming) : Prop where
  answers : s.answersWci = true
  idle : ∀ j ∈ s.creJobs, ∀ r, j.reply = some r → r.dest ≠ sessionOf p
  head : s.headOf (sessionOf p) = some m

/-- `m` is a well-formed command of opcode `op`, the next in sequence of the session `e` in force. -/
structure State.InSequence (s : State) (p : Peer) (op : Nat) (m : Incoming) (e : Session) : Prop where
  meets : s.Meets p m
  good : m.good (sessionOf p) = true
  command : m.cls = 1
  opcode : m.opcode = op
  session : s.session (sessionOf p) = some e
  hello : e.hello = true
  major : m.major = e.major
  next : m.seq = e.nextCmd
  fresh : e.kept.find? (·.seq == m.seq) = none

/-- The sender of `m` may issue it in session `e`: over ETHM only after AUTH, by the class's issuers, with the class's
feature, and to stage 0 only the session and recovery classes. -/
structure State.Entitled (s : State) (p : Peer) (op : Nat) (e : Session) : Prop where
  known : opcodeKnown op = true
  ethm : (∃ n, sessionOf p = .ethm n) → e.auth = true ∨ op = 2
  issuer : s.mayIssueClass e (op / 256) = true
  feature : ∀ b, classFeature (op / 256) = some b → e.features.testBit b = true
  stage : s.svp = .stage0 → op / 256 = 0 ∨ op / 256 = 7

/-- The command comes to its own effect. -/
structure State.Takes (s : State) (p : Peer) (op : Nat) (m : Incoming) (e : Session) : Prop where
  inSequence : s.InSequence p op m e
  entitled : s.Entitled p op e

/-- The response ring of the session has room for `payload` once `m` is taken. -/
def State.Room (s : State) (p : Peer) (m : Incoming) (payload : List Byte) : Prop :=
  ∀ n, (sessionOf p).seat? = some n → (takeHead (sessionOf p) m s).rspRoom n payload.length = true

/-- `m` is taken, counted in its session and answered. -/
def answered (p : Peer) (m : Incoming) (status : Nat) (payload : List Byte) (s : State) : State :=
  respond ⟨sessionOf p, 2, status, m.opcode, m.seat, m.seq, payload⟩
    ((takeHead (sessionOf p) m s).mapSession (sessionOf p) (fun e => { e with nextCmd := e.nextCmd + 1 }))

/-- `m` is taken and counted, and its response waits for a crypto job. -/
def deferred (p : Peer) (m : Incoming) (payload : List Byte) (s : State) : State :=
  let t := takeHead (sessionOf p) m (s.mapSession (sessionOf p) (fun e => { e with nextCmd := e.nextCmd + 1 }))
  { t with creJobs := t.creJobs ++ [⟨false, some ⟨sessionOf p, 2, stOk, m.opcode, m.seat, m.seq, payload⟩⟩] }

end Sys2Proof.Machine
end

