-- ==== Sys2Proof/Certificates/Slice0/Obligations.lean ====
section
/-!
DEFINITION. The statements for the provers.
-/

open Sys2Proof Sys2Proof.Machine

/-- R93, R94, Table ISA-7: what the additions, the subtractions and the comparison by an immediate write to rd, and the four
flags they set: C is the carry out of the top bit, and after a subtraction 1 means no borrow; V is the signed overflow. ADDI
does not change the flags; the W forms work on the low halves and sign-extend their result. Each retires, and changes
nothing else. -/
def Obligations.AdditionAndSubtraction : Prop :=
  (∀ (i : Issue) (a : RArgs) (s u : State), i.par = false →
    s.Executes i.core (some i.cond) 0 [a.rd, a.rs1, a.rs2] u →
    let k := i.core
    let x := (u.core k).reg a.rs1
    let y := (u.core k).reg a.rs2
    let xw : BitVec 32 := x.truncate 32
    let yw : BitVec 32 := y.truncate 32
    let c : Nat := if (u.core k).flags.getLsbD 1 then 1 else 0
    let op := a.fn.toNat % 64
    let leaves (v : Word64) (f : BitVec 4) : Result :=
      .next (retire k (u.mapCore k (fun c => (c.setReg a.rd v).flagsIf (a.fn.getLsbD 6) f)))
    (op = 0x00 → exec (.add i a) s = leaves (x + y) (mkFlags (x + y).msb (x + y == 0)
      (decide (2 ^ 64 ≤ x.toNat + y.toNat)) (decide ((x + y).toInt ≠ x.toInt + y.toInt)))) ∧
    (op = 0x01 → exec (.sub i a) s = leaves (x - y) (mkFlags (x - y).msb (x - y == 0)
      (decide (y.toNat ≤ x.toNat)) (decide ((x - y).toInt ≠ x.toInt - y.toInt)))) ∧
    (op = 0x02 → ∀ r : Word64, r = x + y + BitVec.ofNat 64 c → exec (.addc i a) s = leaves r (mkFlags r.msb (r == 0)
      (decide (2 ^ 64 ≤ x.toNat + y.toNat + c)) (decide (r.toInt ≠ x.toInt + y.toInt + c)))) ∧
    (op = 0x03 → ∀ r : Word64, r = x - y - BitVec.ofNat 64 (1 - c) → exec (.subc i a) s = leaves r (mkFlags r.msb (r == 0)
      (decide (y.toNat + (1 - c) ≤ x.toNat)) (decide (r.toInt ≠ x.toInt - y.toInt - (1 - c : Nat))))) ∧
    (op = 0x18 → exec (.addw i a) s = leaves ((xw + yw).signExtend 64) (mkFlags (xw + yw).msb (xw + yw == 0)
      (decide (2 ^ 32 ≤ xw.toNat + yw.toNat)) (decide ((xw + yw).toInt ≠ xw.toInt + yw.toInt)))) ∧
    (op = 0x19 → exec (.subw i a) s = leaves ((xw - yw).signExtend 64) (mkFlags (xw - yw).msb (xw - yw == 0)
      (decide (yw.toNat ≤ xw.toNat)) (decide ((xw - yw).toInt ≠ xw.toInt - yw.toInt))))) ∧
  (∀ (i : Issue) (a : IArgs) (s u : State), i.par = false → s.Executes i.core (some i.cond) 0 [a.rd, a.rs1] u →
    let k := i.core
    let x := (u.core k).reg a.rs1
    let n : Word64 := a.imm.signExtend 64
    exec (.addi i a) s = .next (retire k (u.mapCore k (fun c => c.setReg a.rd (x + n)))) ∧
    (a.rd = 0 → exec (.cmpi i a) s = .next (retire k (u.mapCore k (fun c => c.setFlags
      (mkFlags (x - n).msb (x - n == 0) (decide (n.toNat ≤ x.toNat)) (decide ((x - n).toInt ≠ x.toInt - n.toInt))))))))

/-- R93, R94, Table ISA-7: the operations of the ALU group that set N and Z and leave C and V, with what they write: bitwise
operations, minimum and maximum, counts, sign extensions and byte reversal; and the bitwise immediate instructions, which do
not change the flags. -/
def Obligations.LogicAndSelection : Prop :=
  (∀ (i : Issue) (a : RArgs) (s u : State), i.par = false →
    s.Executes i.core (some i.cond) 0 [a.rd, a.rs1, a.rs2] u →
    let k := i.core
    let x := (u.core k).reg a.rs1
    let y := (u.core k).reg a.rs2
    let f := (u.core k).flags
    let op := a.fn.toNat % 64
    let leaves (v : Word64) : Result :=
      .next (retire k (u.mapCore k (fun c => (c.setReg a.rd v).flagsIf (a.fn.getLsbD 6)
        (mkFlags v.msb (v == 0) (f.getLsbD 1) (f.getLsbD 0)))))
    (op = 0x04 → exec (.and i a) s = leaves (x &&& y)) ∧
    (op = 0x05 → exec (.or i a) s = leaves (x ||| y)) ∧
    (op = 0x06 → exec (.xor i a) s = leaves (x ^^^ y)) ∧
    (op = 0x07 → exec (.andn i a) s = leaves (x &&& ~~~y)) ∧
    (op = 0x0C → ∀ v : Word64, v.toInt = min x.toInt y.toInt → exec (.min i a) s = leaves v) ∧
    (op = 0x0D → ∀ v : Word64, v.toInt = max x.toInt y.toInt → exec (.max i a) s = leaves v) ∧
    (op = 0x0E → ∀ v : Word64, v.toNat = min x.toNat y.toNat → exec (.minu i a) s = leaves v) ∧
    (op = 0x0F → ∀ v : Word64, v.toNat = max x.toNat y.toNat → exec (.maxu i a) s = leaves v) ∧
    (op = 0x10 → a.rs2 = 0 → ∀ n : Nat, n ≤ 64 → x.toNat < 2 ^ (64 - n) → (n < 64 → 2 ^ (63 - n) ≤ x.toNat) →
      exec (.clz i a) s = leaves (BitVec.ofNat 64 n)) ∧
    (op = 0x11 → a.rs2 = 0 → exec (.popc i a) s =
      leaves (BitVec.ofNat 64 ((List.range 64).countP (fun b => x.getLsbD b)))) ∧
    (op = 0x12 → a.rs2 = 0 → exec (.sextb i a) s = leaves ((x.truncate 8).signExtend 64)) ∧
    (op = 0x13 → a.rs2 = 0 → exec (.sexth i a) s = leaves ((x.truncate 16).signExtend 64)) ∧
    (op = 0x14 → a.rs2 = 0 → exec (.sextw i a) s = leaves ((x.truncate 32).signExtend 64)) ∧
    (op = 0x15 → a.rs2 = 0 → ∀ v : Word64, (∀ b : Nat, b < 8 → v.extractLsb' (8 * b) 8 = x.extractLsb' (8 * (7 - b)) 8) →
      exec (.bswap i a) s = leaves v)) ∧
  (∀ (i : Issue) (a : IArgs) (s u : State), i.par = false → s.Executes i.core (some i.cond) 0 [a.rd, a.rs1] u →
    let k := i.core
    let x := (u.core k).reg a.rs1
    let n : Word64 := a.imm.zeroExtend 64
    let leaves (v : Word64) : Result := .next (retire k (u.mapCore k (fun c => c.setReg a.rd v)))
    exec (.andi i a) s = leaves (x &&& n) ∧
    exec (.ori i a) s = leaves (x ||| n) ∧
    exec (.xori i a) s = leaves (x ^^^ n) ∧
    exec (.lsi i a) s = leaves (x <<< 12 ||| n))

/-- R93, R94, Table ISA-7: shifts and rotations by 0 to 63, and the 32-bit forms by 0 to 31 with a sign-extended result: N and Z
come from the result, C is the last bit shifted out and stays for a shift of 0, V is unchanged. That SHI sets the flags as these
operations do is the model's choice (log 25). -/
def Obligations.ShiftsAndRotations : Prop :=
  (∀ (i : Issue) (a : RArgs) (s u : State), i.par = false →
    s.Executes i.core (some i.cond) 0 [a.rd, a.rs1, a.rs2] u →
    let k := i.core
    let x := (u.core k).reg a.rs1
    let n := ((u.core k).reg a.rs2).toNat % 64
    let m := ((u.core k).reg a.rs2).toNat % 32
    let xw : BitVec 32 := x.truncate 32
    let f := (u.core k).flags
    let op := a.fn.toNat % 64
    let leaves (v : Word64) (n : Nat) (out : Bool) : Result :=
      .next (retire k (u.mapCore k (fun c => (c.setReg a.rd v).flagsIf (a.fn.getLsbD 6)
        (mkFlags v.msb (v == 0) (if n = 0 then f.getLsbD 1 else out) (f.getLsbD 0)))))
    (op = 0x08 → exec (.shl i a) s = leaves (x <<< n) n (x.getLsbD (64 - n))) ∧
    (op = 0x09 → exec (.shr i a) s = leaves (x >>> n) n (x.getLsbD (n - 1))) ∧
    (op = 0x0A → exec (.sra i a) s = leaves (x.sshiftRight n) n (x.getLsbD (n - 1))) ∧
    (op = 0x0B → exec (.ror i a) s = leaves (x.rotateRight n) n (x.getLsbD (n - 1))) ∧
    (op = 0x1A → exec (.shlw i a) s = leaves ((xw <<< m).signExtend 64) m (xw.getLsbD (32 - m))) ∧
    (op = 0x1B → exec (.shrw i a) s = leaves ((xw >>> m).signExtend 64) m (xw.getLsbD (m - 1))) ∧
    (op = 0x1C → exec (.sraw i a) s = leaves ((xw.sshiftRight m).signExtend 64) m (xw.getLsbD (m - 1)))) ∧
  (∀ (i : Issue) (a : IArgs) (s u : State), i.par = false → s.Executes i.core (some i.cond) 0 [a.rd, a.rs1] u →
    let k := i.core
    let x := (u.core k).reg a.rs1
    let xw : BitVec 32 := x.truncate 32
    let kind := a.imm.toNat / 1024
    let n := a.imm.toNat % 64
    let f := (u.core k).flags
    let leaves (v : Word64) (out : Bool) : Result :=
      .next (retire k (u.mapCore k (fun c => (c.setReg a.rd v).setFlags
        (mkFlags v.msb (v == 0) (if n = 0 then f.getLsbD 1 else out) (f.getLsbD 0)))))
    a.imm.toNat / 64 % 8 = 0 →
    (a.imm.getLsbD 9 = false → exec (.shi i a) s = match kind with
      | 0 => leaves (x <<< n) (x.getLsbD (64 - n))
      | 1 => leaves (x >>> n) (x.getLsbD (n - 1))
      | 2 => leaves (x.sshiftRight n) (x.getLsbD (n - 1))
      | _ => leaves (x.rotateRight n) (x.getLsbD (n - 1))) ∧
    (a.imm.getLsbD 9 = true → a.imm.getLsbD 5 = false → exec (.shi i a) s = match kind with
      | 0 => leaves ((xw <<< n).signExtend 64) (xw.getLsbD (32 - n))
      | 1 => leaves ((xw >>> n).signExtend 64) (xw.getLsbD (n - 1))
      | 2 => leaves ((xw.sshiftRight n).signExtend 64) (xw.getLsbD (n - 1))
      | _ => leaves ((xw.rotateRight n).signExtend 64) (xw.getLsbD (n - 1))))

/-- R84, R95, R96, Table ISA-7: the MUL group. A product, a sum of products onto MDA after every earlier write in program
order, and a move into an MD register enter the core's list of writes in flight, of which at most four wait; a move from
an MD register writes rd with the register as the youngest `n` writes in flight leave it out. -/
def Obligations.MultiplyGroup : Prop :=
  (∀ (i : Issue) (a : RArgs) (s u : State), i.par = false →
    s.Executes i.core (some i.cond) 0 [a.rd, a.rs1, a.rs2] u →
    let k := i.core
    let x := (u.core k).reg a.rs1
    let y := (u.core k).reg a.rs2
    let part (v : Word64) (j : Nat) : BitVec 16 := v.extractLsb' (16 * j) 16
    let issues (w : MdWrite) : Result := .next (retire k (u.mapCore k (fun c => c.issueMd w)))
    let moves (v : Core → Word64) : Result := .next (retire k (u.mapCore k (fun c => c.setReg a.rd (v c))))
    (a.fn = 0x00 → a.rd = 0 → ∀ p : BitVec 128, p = BitVec.ofInt 128 (x.toInt * y.toInt) →
      exec (.mul i a) s = issues ⟨some (p.extractLsb' 64 64), some (p.extractLsb' 0 64), none⟩) ∧
    (a.fn = 0x01 → a.rd = 0 → ∀ p : BitVec 128, p = BitVec.ofNat 128 (x.toNat * y.toNat) →
      exec (.mulu i a) s = issues ⟨some (p.extractLsb' 64 64), some (p.extractLsb' 0 64), none⟩) ∧
    (a.fn = 0x02 → a.rd = 0 → exec (.mac16 i a) s = issues ⟨none, none, some ((u.core k).landAll.mda +
      BitVec.ofInt 64 (([0, 1, 2, 3].map (fun j => (part x j).toInt * (part y j).toInt)).sum))⟩) ∧
    (a.fn = 0x03 → a.rd = 0 → exec (.macu16 i a) s = issues ⟨none, none, some ((u.core k).landAll.mda +
      BitVec.ofNat 64 (([0, 1, 2, 3].map (fun j => (part x j).toNat * (part y j).toNat)).sum))⟩) ∧
    (a.rs1 = 0 → a.rs2 = 0 → ∀ n : Fin 5,
      (a.fn = 0x10 → exec (.mfmdH i a n) s = moves (fun c => (c.mdSeen n.val).mdh)) ∧
      (a.fn = 0x11 → exec (.mfmdL i a n) s = moves (fun c => (c.mdSeen n.val).mdl)) ∧
      (a.fn = 0x12 → exec (.mfmdA i a n) s = moves (fun c => (c.mdSeen n.val).mda))) ∧
    (a.rd = 0 → a.rs2 = 0 →
      (a.fn = 0x18 → exec (.mtmdH i a) s = issues ⟨some x, none, none⟩) ∧
      (a.fn = 0x19 → exec (.mtmdL i a) s = issues ⟨none, some x, none⟩) ∧
      (a.fn = 0x1A → exec (.mtmdA i a) s = issues ⟨none, none, some x⟩))) ∧
  (∀ (c : Core) (w : MdWrite), c.mdFlight.length ≤ 4 →
    (c.issueMd w).mdFlight.length ≤ 4 ∧ (c.issueMd w).landAll = { c.landAll.landOne w with mdFlight := [] } ∧
    c.mdSeen c.mdFlight.length = c ∧ { c.mdSeen 0 with mdFlight := [] } = c.landAll)

/-- R97, R98, R134, R135, R154, Table ISA-8: a long operation enters its free section with its result and completes later, or,
in deterministic mode, at once; the quotient is rounded toward zero, the remainder has the sign of the dividend, and an
integer divisor of 0 leaves rd unwritten and marks the operation for the exception. Completion writes rd and FSTAT.FLG,
and notes the exception that is due; where none is due it changes nothing else. -/
def Obligations.LongOperations : Prop :=
  (∀ (i : Issue) (a : RArgs) (s u : State), i.par = false →
    s.Executes i.core (some i.cond) 0 [a.rd, a.rs1, a.rs2] u →
    let k := i.core
    let c := u.core k
    let x := c.reg a.rs1
    let y := c.reg a.rs2
    let starts (v : Word64) (zero : Bool) : Result := .next (retire k (u.mapCore k (fun c =>
      { c with longInt := some ⟨c.regAt a.rd, v, !zero, 0, zero, c.pc, c.order⟩, order := c.order + 1 })))
    let ends (v : Word64) : Result := .next (retire k (u.mapCore k (fun c => c.setReg a.rd v)))
    let waits : Result := .next (pmCount k 0x0C u)
    let runs (e : Result) (v : Word64) : Prop :=
      (c.dm = false → c.longInt = none → y = 0 → ∃ r, e = starts r true) ∧
      (c.dm = false → c.longInt = none → y ≠ 0 → e = starts v false) ∧
      (c.dm = false → c.longInt ≠ none → e = waits) ∧
      (c.dm = true → y ≠ 0 → e = ends v)
    (a.fn = 0x00 → runs (exec (.div i a) s) (BitVec.ofInt 64 (x.toInt.tdiv y.toInt))) ∧
    (a.fn = 0x01 → runs (exec (.divu i a) s) (BitVec.ofNat 64 (x.toNat / y.toNat))) ∧
    (a.fn = 0x02 → runs (exec (.rem i a) s) (BitVec.ofInt 64 (x.toInt.tmod y.toInt))) ∧
    (a.fn = 0x03 → runs (exec (.remu i a) s) (BitVec.ofNat 64 (x.toNat % y.toNat)))) ∧
  (∀ (i : Issue) (a : RArgs) (s u : State), i.par = false →
    s.Executes i.core (some i.cond) 0 [a.rd, a.rs1, a.rs2] u →
    let k := i.core
    let c := u.core k
    let x := (c.reg a.rs1).toNat
    let y := (c.reg a.rs2).toNat
    let runs (e : Result) (o : FpOut) : Prop :=
      (c.dm = false → c.longFp = none → e = .next (retire k (u.mapCore k (fun c =>
        { c with longFp := some ⟨c.regAt a.rd, BitVec.ofNat 64 o.bits, true, o.flags, false, c.pc, c.order⟩, order := c.order + 1 })))) ∧
      (c.dm = false → c.longFp ≠ none → e = .next (pmCount k 0x0C u)) ∧
      (c.dm = true → o.flags % 32 &&& slice (c.fstat ||| BitVec.ofNat 64 (o.flags % 32)).toNat 8 5 = 0 →
        e = .next (retire k (u.mapCore k (fun c =>
          { c.setReg a.rd (BitVec.ofNat 64 o.bits) with fstat := c.fstat ||| BitVec.ofNat 64 (o.flags % 32) }))))
    (a.fn = 0x10 → runs (exec (.fdivS i a) s) (fpDiv binary32 (fpDecode binary32 x) (fpDecode binary32 y))) ∧
    (a.fn = 0x12 → runs (exec (.fdivD i a) s) (fpDiv binary64 (fpDecode binary64 x) (fpDecode binary64 y))) ∧
    (a.fn = 0x11 → a.rs2 = 0 → runs (exec (.fsqrtS i a) s) (fpSqrt binary32 (fpDecode binary32 x))) ∧
    (a.fn = 0x13 → a.rs2 = 0 → runs (exec (.fsqrtD i a) s) (fpSqrt binary64 (fpDecode binary64 x)))) ∧
  (∀ (k : CoreId) (s : State) (o : LongOp),
    let finished (c : Core) : Core := { (if o.writes then c.setP o.dest o.result else c) with
      fstat := c.fstat ||| BitVec.ofNat 64 (o.flags % 32) }
    o.divZero = false → o.flags % 32 &&& slice ((s.core k).fstat ||| BitVec.ofNat 64 (o.flags % 32)).toNat 8 5 = 0 →
      (s.core k).longExcs = [] →
      ((s.core k).longInt = some o → exec (.longOpComplete k .int) s =
        .next (s.mapCore k (fun c => { finished c with longInt := none }))) ∧
      ((s.core k).longFp = some o → exec (.longOpComplete k .fp) s =
        .next (s.mapCore k (fun c => { finished c with longFp := none })))) ∧
  (∀ (k : CoreId) (s : State) (o p : LongOp), (s.core k).longInt = some o → (s.core k).longFp = some p →
    o.divZero = true → o.writes = false →
    exec (.longOpComplete k .int) s = .next (s.mapCore k (fun c => { c with
      longInt := none, fstat := c.fstat ||| BitVec.ofNat 64 (o.flags % 32)
      longExcs := c.longExcs ++ [⟨0x0D, 0, o.pc, o.order⟩] })))

/-- R87, R99, Table ISA-9: a floating-point instruction writes rd with the operation's result on its operands, of the
format that fn[6] selects, and adds the flags it raises to FSTAT.FLG; FCMP writes NZCV instead. With an enabled flag
raised it writes the same and takes cause 0x0E, with the flags as ECAUSE.INFO. -/
def Obligations.FloatingPoint : Prop :=
  ∀ (i : Issue) (a : RArgs) (s u : State), i.par = false →
    let k := i.core
    let c := u.core k
    let x := (c.reg a.rs1).toNat
    let y := (c.reg a.rs2).toNat
    let fm := if a.fn.getLsbD 6 then binary64 else binary32
    let other := if a.fn.getLsbD 6 then binary32 else binary64
    let p := fpDecode fm x
    let q := fpDecode fm y
    let op := a.fn.toNat % 64
    let ends (e : Result) (flags : Nat) (w : State) : Prop :=
      let v := w.mapCore k (fun c => { c with fstat := c.fstat ||| BitVec.ofNat 64 (flags % 32) })
      (flags % 32 &&& slice (v.core k).fstat.toNat 8 5 = 0 → e = .next (retire k v)) ∧
      (flags % 32 &&& slice (v.core k).fstat.toNat 8 5 ≠ 0 → ∃ t, s.Fetches k t ∧
        e = .next (raiseExc k (t.core k).oldest ⟨0x0E, flags % 32, none, false, false⟩ t v))
    let leaves (e : Result) (o : FpOut) : Prop :=
      ends e o.flags (u.mapCore k (fun c => c.setReg a.rd (BitVec.ofNat 64 o.bits)))
    (s.Executes k (some i.cond) 0 [a.rd, a.rs1, a.rs2] u →
      (op = 0x00 → leaves (exec (.fadd i a) s) (fpAdd fm p q)) ∧
      (op = 0x01 → leaves (exec (.fsub i a) s) (fpAdd fm p q.neg)) ∧
      (op = 0x02 → leaves (exec (.fmul i a) s) (fpMul fm p q)) ∧
      (op = 0x03 → leaves (exec (.fmin i a) s) (fpMinMax fm true p q)) ∧
      (op = 0x04 → leaves (exec (.fmax i a) s) (fpMinMax fm false p q)) ∧
      (op = 0x05 → a.rs2 = 0 → leaves (exec (.fabs i a) s) (fpAbs fm p)) ∧
      (op = 0x06 → a.rs2 = 0 → leaves (exec (.fneg i a) s) (fpNegate fm p)) ∧
      (op = 0x08 → a.rs2 = 0 → leaves (exec (.fcvtL i a) s) ⟨(fpToInt p).1.toNat, (fpToInt p).2⟩) ∧
      (op = 0x09 → a.rs2 = 0 → leaves (exec (.fcvtF i a) s) (fpFromInt fm (c.reg a.rs1))) ∧
      (op = 0x0A → a.rs2 = 0 → leaves (exec (.fcvtX i a) s) (fpConvert fm (fpDecode other x)))) ∧
    (s.Executes k (some i.cond) 0 [a.rs1, a.rs2] u → op = 0x07 → a.rd = 0 →
      ends (exec (.fcmp i a) s) (fpCompare p q).2 (u.mapCore k (fun c => c.setFlags (fpCompare p q).1)))

/-- R99: special values. A NaN operand gives the default NaN; infinity less infinity, 0 times infinity, 0 by 0, infinity by
infinity and the root of a negative number are invalid (16) with that NaN; a finite number by 0 gives infinity and
divide by zero (8); minimumNumber and maximumNumber ignore a quiet NaN beside a number; FCMP of a NaN sets C and V;
FCVT.L of a NaN or an infinity gives the most negative integer and invalid. -/
def Obligations.FloatingPointSpecialValues : Prop :=
  ∀ (f : FpFormat) (s t : Bool) (m n : Nat) (e g : Int) (x : Fp),
    (fpAdd f (.nan false) (.fin s m e)) = ⟨fpNan f, 0⟩ ∧ fpAdd f (.nan true) x = ⟨fpNan f, 16⟩ ∧
    fpMul f (.nan true) x = ⟨fpNan f, 16⟩ ∧ fpDiv f (.nan true) x = ⟨fpNan f, 16⟩ ∧ fpSqrt f (.nan true) = ⟨fpNan f, 16⟩ ∧
    fpAdd f (.inf s) (.inf (!s)) = ⟨fpNan f, 16⟩ ∧ fpAdd f (.inf s) (.inf s) = ⟨fpInf f s, 0⟩ ∧
    fpMul f (.inf s) (.fin t 0 e) = ⟨fpNan f, 16⟩ ∧ fpMul f (.fin t 0 e) (.inf s) = ⟨fpNan f, 16⟩ ∧
    (n ≠ 0 → fpMul f (.inf s) (.fin t n e) = ⟨fpInf f (s ^^ t), 0⟩) ∧
    fpDiv f (.fin s 0 e) (.fin t 0 g) = ⟨fpNan f, 16⟩ ∧ fpDiv f (.inf s) (.inf t) = ⟨fpNan f, 16⟩ ∧
    (m ≠ 0 → fpDiv f (.fin s m e) (.fin t 0 g) = ⟨fpInf f (s ^^ t), 8⟩) ∧
    fpDiv f (.fin s m e) (.inf t) = ⟨fpZero f (s ^^ t), 0⟩ ∧
    (m ≠ 0 → fpSqrt f (.fin true m e) = ⟨fpNan f, 16⟩) ∧ fpSqrt f (.inf true) = ⟨fpNan f, 16⟩ ∧
    fpMinMax f true (.nan false) (.fin s m e) = ⟨fpEncode f (.fin s m e), 0⟩ ∧
    fpMinMax f false (.fin s m e) (.nan true) = ⟨fpEncode f (.fin s m e), 16⟩ ∧
    fpCompare (.nan false) x = (0b0011, if x.isSignaling then 16 else 0) ∧
    fpCompare (.fin s m e) (.fin s m e) = (0b0110, 0) ∧
    fpToInt (.nan s) = (BitVec.ofNat 64 (2 ^ 63), 16) ∧ fpToInt (.inf s) = (BitVec.ofNat 64 (2 ^ 63), 16)

/-- R6, R7, R100, R102, R133, R150, R151, Tables ISA-3 and ISA-10: a load whose checks pass and whose data are at hand writes
rd with them, sign- or zero-extended, from rs1 + sext(imm12), or for LDST from the indexed address, or from rs1 which
then advances by the size. A load whose request leaves the cluster waits for its response and retires with it. -/
def Obligations.Loads : Prop :=
  (∀ (i : Issue) (a : IArgs) (up : Upset) (s u t : State) (ps : List Part) (d : Nat), i.par = false →
    s.Executes i.core (some i.cond) 0 [a.rd, a.rs1] u →
    let k := i.core
    let va := (u.core k).reg a.rs1 + a.imm.signExtend 64
    let loads (e : Result) (size : Nat) (v : Word64) : Prop := u.Loads k false va size up ps d t →
      e = .next (retire k (t.mapCore k (fun c => c.setP ((u.core k).regAt a.rd) v)))
    (d < 2 ^ 8 → loads (exec (.ldb i a up) s) 1 ((BitVec.ofNat 8 d).signExtend 64)) ∧
    (d < 2 ^ 8 → loads (exec (.ldbu i a up) s) 1 (BitVec.ofNat 64 d)) ∧
    (d < 2 ^ 16 → loads (exec (.ldh i a up) s) 2 ((BitVec.ofNat 16 d).signExtend 64)) ∧
    (d < 2 ^ 16 → loads (exec (.ldhu i a up) s) 2 (BitVec.ofNat 64 d)) ∧
    (d < 2 ^ 32 → loads (exec (.ldw i a up) s) 4 ((BitVec.ofNat 32 d).signExtend 64)) ∧
    (d < 2 ^ 32 → loads (exec (.ldwu i a up) s) 4 (BitVec.ofNat 64 d)) ∧
    (d < 2 ^ 64 → loads (exec (.ldd i a up) s) 8 (BitVec.ofNat 64 d))) ∧
  (∀ (i : Issue) (a : RArgs) (up : Upset) (s u t : State) (ps : List Part) (d : Nat), i.par = false →
    s.Executes i.core (some i.cond) 0 [a.rd, a.rs1, a.rs2] u →
    let k := i.core
    let base := (u.core k).reg a.rs1
    let size := 2 ^ (a.fn.toNat / 4 % 4)
    let v : Word64 := if a.fn.getLsbD 4 then BitVec.ofNat 64 d else extend true size d
    a.fn.getLsbD 5 = false → ¬ (a.fn.getLsbD 4 = true ∧ size = 8) →
    (a.fn.getLsbD 6 = false → u.Loads k false (base + ((u.core k).reg a.rs2 <<< (a.fn.toNat % 4))) size up ps d t →
      exec (.ldst i a up) s = .next (retire k (t.mapCore k (fun c => c.setP ((u.core k).regAt a.rd) v)))) ∧
    (a.fn.getLsbD 6 = true → a.rs2 = 0 → a.fn.toNat % 4 = 0 → a.rd ≠ a.rs1 → u.Loads k false base size up ps d t →
      exec (.ldst i a up) s = .next (retire k (t.mapCore k (fun c =>
        (c.setP ((u.core k).regAt a.rs1) (base + BitVec.ofNat 64 size)).setP ((u.core k).regAt a.rd) v))))) ∧
  (∀ (i : Issue) (a : IArgs) (s u b c t : State) (ps : List Part), i.par = false →
    s.Executes i.core (some i.cond) 0 [a.rd, a.rs1] u →
    let k := i.core
    let use : LoadUse := .reg ((u.core k).regAt a.rd) true 8 none
    prepare k .read ((u.core k).reg a.rs1 + a.imm.signExtend 64).toNat 8 u = (.ok ps, b) →
    dataCompare k 1 ps b = (none, false, c) → devLoadReady k ps c = true → readParts k .none false ps c = (.miss, t) →
    exec (.ldd i a .none) s = .next (t.mapCore k (fun c => { c with load := some ⟨use, ps, c.seatid, false, false⟩ }))) ∧
  (∀ (k : CoreId) (s t : State) (l : OutLoad) (p : Part) (rd : PReg) (sg : Bool) (n d : Nat), (s.core k).load = some l →
    l.use = .reg rd sg n none → l.parts = [p] → p.type.isDev = false → l.err = false → l.voided = false →
    readParts k .none true [p] (s.mapCore k (fun c => { c with load := none })) = (.data d, t) →
    exec (.loadResponse k .ok .none) s =
      .next (stopIfDue k (retire k (t.mapCore k (fun c => c.setP rd (extend sg n d))))))

/-- R100, R101, R150, R152, R282: a store whose checks pass puts the low bytes of its register into the core's store buffer, one
entry per piece within a line, and retires; memory changes when an entry leaves. In deterministic mode it goes to its
target at once. LDST stores from rd at its address, or at rs1, which then advances; MCPY stores the element it loaded
at rd and advances both pointers. -/
def Obligations.StoresAndCopies : Prop :=
  (∀ (i : Issue) (a : IArgs) (s u t : State) (ps : List Part), i.par = false →
    s.Executes i.core (some i.cond) 0 [a.rd, a.rs1] u →
    let k := i.core
    let va := (u.core k).reg a.rs1 + a.imm.signExtend 64
    let v := ((u.core k).reg a.rd).toNat
    let stores (e : Result) (size : Nat) : Prop := u.Stores k false va size ps t →
      ((t.core k).dm = false → e = .next (retire k (t.mapCore k (fun c => c.buffered (storeEntries c.seatid ps v))))) ∧
      (∀ w, (t.core k).dm = true → issueStores k ps v t = (w, true) → e = .next (retire k w))
    stores (exec (.stb i a) s) 1 ∧ stores (exec (.sth i a) s) 2 ∧ stores (exec (.stw i a) s) 4 ∧ stores (exec (.std i a) s) 8) ∧
  (∀ (i : Issue) (a : RArgs) (up : Upset) (s u t : State) (ps : List Part), i.par = false →
    s.Executes i.core (some i.cond) 0 [a.rd, a.rs1, a.rs2] u →
    let k := i.core
    let base := (u.core k).reg a.rs1
    let size := 2 ^ (a.fn.toNat / 4 % 4)
    let v := ((u.core k).reg a.rd).toNat
    a.fn.getLsbD 5 = true → a.fn.getLsbD 4 = false → (t.core k).dm = false →
    (a.fn.getLsbD 6 = false → u.Stores k false (base + ((u.core k).reg a.rs2 <<< (a.fn.toNat % 4))) size ps t →
      exec (.ldst i a up) s = .next (retire k (t.mapCore k (fun c => c.buffered (storeEntries c.seatid ps v))))) ∧
    (a.fn.getLsbD 6 = true → a.rs2 = 0 → a.fn.toNat % 4 = 0 → u.Stores k false base size ps t →
      exec (.ldst i a up) s = .next (retire k (t.mapCore k (fun c =>
        (c.buffered (storeEntries c.seatid ps v)).setReg a.rs1 (base + BitVec.ofNat 64 size)))))) ∧
  (∀ (i : Issue) (a : RArgs) (up : Upset) (s u t w : State) (ps qs : List Part) (d : Nat), i.par = false →
    s.Executes i.core (some i.cond) 0 [a.rd, a.rs1] u →
    let k := i.core
    let size := 2 ^ a.fn.toNat
    let step : Word64 := BitVec.ofNat 64 size
    let dst := (u.core k).regAt a.rd
    let src := (u.core k).regAt a.rs1
    a.rs2 = 0 → a.fn.toNat < 4 → a.rd ≠ a.rs1 →
    u.Loads k false ((u.core k).reg a.rs1) size up ps d t → t.Stores k false ((t.core k).getP dst) size qs w →
    (w.core k).dm = false →
    exec (.mcpy i a up) s = .next (retire k (w.mapCore k (fun c =>
      let c := c.buffered (storeEntries c.seatid qs d)
      (c.setP dst (c.getP dst + step)).setP src (c.getP src + step))))) ∧
  (∀ (k : CoreId) (seat : Nat) (p q : Part) (v : Nat), storeEntries seat [p, q] v =
    [⟨p.pa, p.size, v % 2 ^ (8 * p.size), p.type, seat, false, false⟩,
     ⟨q.pa, q.size, v / 2 ^ (8 * p.size) % 2 ^ (8 * q.size), q.type, seat, false, false⟩])

/-- R114, R115, R116, R297, Table ISA-12: LDX loads a word or doubleword zero-extended and takes the reservation; STX whose
address and size the reservation names stores and writes 0 to rd, else it stores nothing and writes 1, and either way the
reservation goes; SWAP and ADDA write the old value to rd and store rs2, or the sum, behind the core's own stores. -/
def Obligations.ExclusivesAndAtomics : Prop :=
  ∀ (i : Issue) (a : RArgs) (up : Upset) (s u b t w : State) (p q : Part) (d : Nat), i.par = false →
    let k := i.core
    let rd := (u.core k).regAt a.rd
    let va := (u.core k).reg a.rs1
    let y := ((u.core k).reg a.rs2).toNat
    let size := if a.fn.getLsbD 2 then 8 else 4
    let code (n : Nat) : Prop := a.fn.toNat = 16 * n + 8 ∨ a.fn.toNat = 16 * n + 12
    s.Executes k (some i.cond) 0 [a.rd, a.rs1, a.rs2] u →
    (s.Executes k (some i.cond) 0 [a.rd, a.rs1] u → code 0 → a.rs2 = 0 → u.Loads k true va size up [p] d t →
      exec (.ldx i a up) s = .next (retire k (t.mapCore k (fun c => { c.setP rd (BitVec.ofNat 64 d) with
        reservation := some ⟨p.pa, size, !c.dm && c.l1d.any (fun e => e.line == p.pa / 64)⟩ })))) ∧
    (code 1 → prepareAtom k .write va.toNat size u = (.ok [p], b) → (b.core k).reserves p.pa size = false →
      exec (.stx i a) s = .next (retire k (b.mapCore k (fun c => { c.setReg a.rd 1 with reservation := none })))) ∧
    (code 1 → u.Stores k true va size [p] t → prepareAtom k .write va.toNat size u = (.ok [p], b) →
      (b.core k).reserves p.pa size = true → storeNow k p y t = (w, true) →
      exec (.stx i a) s = .next (retire k (w.mapCore k (fun c => { c.setReg a.rd 0 with reservation := none })))) ∧
    (∀ (c : State) (mp : State), prepareAtom k .read va.toNat size u = (.ok [q], c) → up ≠ .tlb →
      c.Stores k true va size [p] mp → dataCompare k 1 [p] mp = (none, false, b) → devLoadReady k [p] b = true →
      readParts k up false [p] b = (.data d, t) →
      (code 2 → storeNow k p y t = (w, true) →
        exec (.swap i a up none) s = .next (retire k (w.mapCore k (fun c => c.setP rd (BitVec.ofNat 64 d))))) ∧
      (code 3 → storeNow k p (d + y) t = (w, true) →
        exec (.adda i a up none) s = .next (retire k (w.mapCore k (fun c => c.setP rd (BitVec.ofNat 64 d))))))

/-- R108 to R111, R141, R142: a branch goes to its own address plus 4 × disp, a call also makes the next window current,
keeps G10 in that window's L11 and the return address in G10, JMPL writes the next address to rd, RETW goes to G10, takes
G10 back from L11 and makes the window before it current. A misaligned indirect target takes cause 0x04, with no other
effect. The statement names the prediction and trace state that these change through the model's operations; that a
branch records an ATOM is the model's reading (log 28). -/
def Obligations.BranchesAndCalls : Prop :=
  (∀ (i : Issue) (a : BArgs) (s u : State), i.par = false →
    let k := i.core
    let v := resolveHint k i.cond a.h true (if i.cond = 0 then u else traceAtom k true u)
    let c := u.core k
    let t := c.pc + (a.disp.signExtend 64 <<< 2)
    ¬ (i.cond = 0 ∧ a.h = true) →
    (s.Executes k (some i.cond) 0 [] u → exec (.b i a) s = .next (retireTo k t v)) ∧
    (s.Executes k (some i.cond) 0 [10] u → c.twOn = false → c.pc.toNat % 4 = 0 → c.res < 11 →
      exec (.call i a) s = .next (retireTo k t ((pushReturn k (c.pc + 4) v).mapCore k Core.called)))) ∧
  (∀ (i : Issue) (a : IArgs) (s u : State), i.par = false →
    let k := i.core
    let v := if i.cond = 0 then u else traceAtom k true u
    let c := u.core k
    let t := c.reg a.rs1 + a.imm.signExtend 64
    (s.Executes k (some i.cond) 0 [a.rd, a.rs1] u → t.toNat % 4 = 0 →
      exec (.jmpl i a) s = .next (retireTo k t ((traceTarget k 0x3 t
        (let w := resolveIndirect k (a.rs1 == 10 && a.rd == 0) t v
         if a.rd = 10 then pushReturn k (c.pc + 4) w else w)).mapCore k (fun c => c.setReg a.rd (c.pc + 4))))) ∧
    (s.Executes k (some i.cond) 0 [a.rd, a.rs1] u → t.toNat % 4 ≠ 0 → ∃ r, s.Fetches k r ∧
      exec (.jmpl i a) s = .next (raiseExc k (r.core k).oldest ⟨0x04, 0, some t, false, false⟩ r v)) ∧
    (s.Executes k (some i.cond) 0 [a.rs1, 10] u → a.rd = 0 → t.toNat % 4 = 0 → c.twOn = false → c.res < 11 →
      exec (.callr i a) s = .next (retireTo k t ((pushReturn k (c.pc + 4)
        (traceTarget k 0x3 t (resolveIndirect k false t v))).mapCore k Core.called)))) ∧
  (∀ (i : Issue) (a : RArgs) (s u : State), i.par = false → s.Executes i.core (some i.cond) 0 [10] u →
    let k := i.core
    let v := if i.cond = 0 then u else traceAtom k true u
    let c := u.core k
    let t := c.reg 10
    a.rd = 0 → a.rs1 = 0 → a.rs2 = 0 → a.fn = 0 → t.toNat % 4 = 0 → c.awaited [27] = false → 1 < c.res →
    exec (.retw i a) s = .next (retireTo k t ((traceTarget k 0x3 t (resolveIndirect k true t v)).mapCore k Core.returned))) ∧
  (∀ c : Core, c.twOn = false → c.cwp < 12 → c.called.cwp = (c.cwp + 1) % 12 ∧ c.called.res = c.res + 1 ∧ c.called.reg 10 = c.pc + 4 ∧
    c.called.reg 27 = c.reg 10 ∧ (∀ r : Fin 32, r ≠ 10 → r < 12 → c.called.reg r = c.reg r) ∧
    (∀ r : Fin 4, c.called.reg (12 + r.castLE (by decide)) = c.reg (28 + r.castLE (by decide))) ∧
    c.returned.reg 10 = c.reg 27 ∧ c.returned.cwp = (c.cwp + 11) % 12 ∧ c.returned.res = c.res - 1 ∧
    (∀ r : Fin 4, c.returned.reg (28 + r.castLE (by decide)) = c.reg (12 + r.castLE (by decide))))

/-- R103 to R107, Table ISA-11: REP latches the number of iterations for the next instruction, or skips it for a count of
0; after RETI a valid RPCNT gives the count. The repeated instruction retires once per iteration, at one address, and
the pc leaves it with the last. -/
def Obligations.Repeats : Prop :=
  (∀ (i : XIssue) (a : IArgs) (s u : State), i.par = false →
    let k := i.core
    let c := u.core k
    let own := if a.rd.val / 8 % 2 = 1 then
        (if 16 ≤ a.rd.val then (c.reg a.rs1).toNat % 65536 else min ((c.reg a.rs1).toNat % 65536) 64) else a.imm.toNat
    let resume := c.afterReti = true ∧ c.rpcnt.getLsbD 63 = true
    a.rd.val % 8 = 0 → (a.rd.val / 8 % 2 = 1 → a.imm = 0) →
    (a.rd.val / 8 % 2 = 0 → a.rs1 = 0 ∧ (16 ≤ a.rd.val ∨ a.imm.toNat ≤ 64)) →
    s.Executes k none 0 (if a.rd.val / 8 % 2 = 1 then [a.rs1] else []) u →
    (¬ resume → own ≠ 0 → exec (.rep i a) s = .next (retireTo k (c.pc + 4) (u.mapCore k (fun c =>
      { c with rep := some ⟨own, false, decide (16 ≤ a.rd.val), c.pc, none⟩ })))) ∧
    (¬ resume → own = 0 → exec (.rep i a) s = .next (retireTo k (c.pc + 8) (u.mapCore k (fun c =>
      { c with rpcnt := c.rpcnt &&& 0x7FFFFFFFFFFFFFFF })))) ∧
    (resume → c.rpcnt.toNat % 65536 ≠ 0 → exec (.rep i a) s = .next (retireTo k (c.pc + 4) (u.mapCore k (fun c =>
      { c with rep := some ⟨c.rpcnt.toNat % 65536, true, decide (16 ≤ a.rd.val), c.pc, none⟩ }))))) ∧
  (∀ (c : Core) (r : RepState), c.rep = some r →
    (1 < r.left → c.advance = { c with rep := some { r with left := r.left - 1 } }) ∧
    (r.left ≤ 1 → c.advance = { c with rep := none, rpcnt := c.rpcnt &&& 0x7FFFFFFFFFFFFFFF, pc := c.pc + 4 }))

/-- R85, R86, R88, R117, R221, Table ISA-2: MFC reads a control register, and MTC writes one at its level: the writable bits of
PSTATE (a PPL of 2, or of 3 below Monitor, is left), EPC, TVEC (below Monitor its low half), RPCNT, WSPILL, FLAGS and
FSTAT, and RES only downwards; a register without a write level ignores the write. TWR and TRD do the same for PTROOT,
PTCTL and FPA, which takes no write. -/
def Obligations.ControlRegisters : Prop :=
  (∀ (i : XIssue) (a : IArgs) (s u : State), i.par = false →
    let k := i.core
    let c := u.core k
    let reads (n : Nat) (v : Word64) : Prop := a.imm.toNat = n → a.rs1 = 0 → s.Executes k none (if n ≤ 6 then 1 else 0) [a.rd] u →
      exec (.mfc i a) s = .next (retire k (u.mapCore k (fun c => c.setReg a.rd v)))
    reads 0x0 c.pstate ∧ reads 0x1 c.epc ∧ reads 0x2 c.ecause ∧ reads 0x3 c.eaddr ∧ reads 0x4 c.lxa ∧ reads 0x5 c.tvec ∧
    reads 0x6 c.rpcnt ∧ reads 0x7 (BitVec.ofNat 64 c.seatid) ∧ reads 0x8 (BitVec.ofNat 64 (c.res * 256 + c.cwp)) ∧
    reads 0x9 c.wspill ∧ reads 0xA (c.pstate &&& 0xF0000000) ∧ reads 0xB c.fstat ∧
    reads 0xC (if u.pairLocked (k.val / 2) then BitVec.ofNat 64 (256 + k.val / 2 * 2) else BitVec.ofNat 64 k.val)) ∧
  (∀ (i : XIssue) (a : IArgs) (s u : State), i.par = false →
    let k := i.core
    let c := u.core k
    let x := c.reg a.rs1
    let writes (n level : Nat) (d : Core) : Prop := a.imm.toNat = n → a.rd = 0 → s.Executes k none level [a.rs1] u →
      exec (.mtc i a) s = .next (retire k (u.setCore k d))
    let m : Word64 := if slice x.toNat 8 2 = 2 ∨ c.pl = 1 ∧ slice x.toNat 8 2 = 3 then 0xF0000030 else 0xF0000330
    (u.dmWanted k x = c.dm → writes 0x0 1 { c with pstate := (c.pstate &&& ~~~m) ||| (x &&& m) }) ∧
    writes 0x1 1 { c with epc := x &&& 0x0000FFFFFFFFFFFC } ∧ writes 0x2 1 c ∧ writes 0x3 1 c ∧ writes 0x4 1 c ∧
    (c.pl = 3 → writes 0x5 1 { c with tvec := x }) ∧
    (c.pl ≠ 3 → writes 0x5 1 { c with tvec := (c.tvec &&& 0xFFFFFFFF00000000) ||| (x &&& 0xFFFFFFFF) }) ∧
    writes 0x6 1 { c with rpcnt := x &&& 0x800000000000FFFF } ∧ writes 0x7 0 c ∧
    writes 0x8 1 { c with res := min c.res (slice x.toNat 8 4) } ∧
    writes 0x9 1 { c with wspill := x &&& 0x0000FFFFFFFFFF80 } ∧ writes 0xA 0 (c.setFlags (x.extractLsb' 28 4)) ∧
    writes 0xB 0 { c with fstat := x &&& 0x1F1F } ∧ writes 0xC 0 c) ∧
  (∀ (i : XIssue) (a : RArgs) (s u : State), i.par = false →
    let k := i.core
    let c := u.core k
    let x := c.reg a.rs1
    (s.Executes k none 1 [a.rs1] u → a.rd = 0 → a.rs2 = 0 →
      let writes (n : Nat) (d : Core) : Prop := a.fn.toNat = n → exec (.twr i a) s = .next (retire k (u.setCore k d))
      writes 0x40 { c with ptroot := x &&& 0x0FFFFFFFFFFFF000 } ∧ writes 0x41 { c with ptctl := x &&& 3 } ∧ writes 0x42 c) ∧
    (s.Executes k none 1 [a.rd] u → a.rs1 = 0 → a.rs2 = 0 →
      let reads (n : Nat) (v : Word64) : Prop := a.fn.toNat = n → exec (.trd i a) s = .next (retire k (u.setCore k (c.setReg a.rd v)))
      reads 0x60 c.ptroot ∧ reads 0x61 c.ptctl ∧ reads 0x62 c.fpa))

/-- R98, R113, R119, R148, R290 to R294, R564 to R567, Table ISA-13: BAR retires once the earlier stores that it names are
performed at its scope, and waits while one is not; LBAR completes both long-operation sections; ISYNC changes nothing
else; FLUSHW keeps the current window alone resident, and FLUSHW.A none, B0 to B3 then reading 0; WAIT enters the state
that PWC.CCTL.DEPTH selects, 0 acting as C1. -/
def Obligations.BarriersFlushesAndWaits : Prop :=
  ∀ (i : XIssue) (a : RArgs) (s u : State), i.par = false →
    let k := i.core
    let c := u.core k
    a.rd = 0 → a.rs1 = 0 → a.rs2 = 0 →
    (s.Executes k none 0 [] u →
      (∀ ty sc : Nat, a.fn.toNat = 4 * ty + sc → 1 ≤ ty → ty ≤ 3 → sc ≤ 2 →
        (ty = 1 ∨ (∀ e ∈ c.stores, e.sent = true ∧ (if sc = 0 then e.type ≠ .deviceStrict else e.type = .devicePosted)) →
          exec (.bar i a) s = .next (retire k u)) ∧
        (ty ≠ 1 → (∃ e ∈ c.stores, e.sent = false) → exec (.bar i a) s = .next u)) ∧
      (a.fn = 0 → exec (.isync i a) s = .next (retire k u)) ∧
      (a.fn = 0 → c.settle.longExcs = [] → exec (.lbar i a) s = .next (retire k (u.mapCore k Core.settle))) ∧
      (∀ v : State, c.flushBlocked 1 = false → a.fn = 0 → spillTo k 1 12 u = (.ok, v) → (v.core k).stores = [] →
        exec (.flushw i a none) s = .next (retire k v)) ∧
      (∀ v : State, c.flushBlocked 0 = false → a.fn = 1 → spillTo k 0 12 u = (.ok, v) → (v.core k).stores = [] →
        exec (.flushwA i a none) s = .next (retire k (v.mapCore k (fun c =>
          [0, 1, 2, 3].foldl (fun c n => c.setP (.win ((c.cwp + 1) % 12) n) 0) c))))) ∧
    (s.Executes k none 1 [] u → a.fn = 0 → c.dm = false →
      (u.get PWC_CCTL_DEPTH k.val ≤ 1 → exec (.wait i a) s = .next (retire k (u.setCState k.val 1))) ∧
      (c.stores = [] → c.settle.landAll.longExcs = [] →
        let v := u.mapCore k (fun c => c.settle.landAll)
        (u.get PWC_CCTL_DEPTH k.val = 2 → v.inRotation k.val = true →
          exec (.wait i a) s = .next (retire k ((v.setCState k.val 1).put PWC_CCTL_DEMOTE 1 k.val))) ∧
        (u.get PWC_CCTL_DEPTH k.val = 2 → v.inRotation k.val = false → exec (.wait i a) s =
          .next (retire k (releaseTokens (fun w => (v.pairOf k.val).any (fun m => w == .core m))
            (writeSaveArea k.val ((v.setCState k.val 2).mapCore k Core.enterC2))))) ∧
        (u.get PWC_CCTL_DEPTH k.val = 3 → exec (.wait i a) s = .next (coreSleep k 3 (pmCount k 0x01 v)))))

/-- R118, R119, R122, R123, R186, R187, R192, R593: TRAP enters cause 0x0F behind itself with imm12 as ECAUSE.INFO; BRK enters
cause 0x10, or asks for a halt where debug covers the seat; RETI returns to EPC at level PPL with IE = PIE, out of the trap
window or to the window before, or chains into a pending event; SWSEAT without an event is an illegal operation, else it
saves the outgoing context, clears the core and returns into the incoming seat's. -/
def Obligations.TrapsAndReturns : Prop :=
  (∀ (i : XIssue) (a : IArgs) (s u : State), i.par = false →
    let k := i.core
    let enters (e : Result) (step : Word64) (x : Exc) : Prop := ∃ t, s.Fetches k t ∧
      e = .next (raiseExc k (if step = 0 then (t.core k).oldest else (t.core k).pc + step) x t u)
    s.Executes k none 0 [] u → a.rd = 0 → a.rs1 = 0 →
    enters (exec (.trap i a) s) 4 ⟨0x0F, a.imm.toNat, none, false, false⟩ ∧
    (a.imm = 0 →
      let halts := u.vddDbg = true ∧ u.flag DBG_CCTL_BRKHALT k.val = true ∧ u.debugCovers (u.core k).seatid = true
      (¬ halts → enters (exec (.brk i a) s) 0 ⟨0x10, 0, none, false, false⟩) ∧
      (halts → exec (.brk i a) s = .next (retire k (u.mapCore k (fun c => { c with haltReq := true })))))) ∧
  (∀ (i : XIssue) (a : RArgs) (s u : State), i.par = false →
    let k := i.core
    let c := u.core k
    a.rd = 0 → a.rs1 = 0 → a.rs2 = 0 → a.fn = 0 →
    (s.Executes k none 1 [] u →
      (u.heldEvent k c.ppl c.pie = none → (c.twOn = true ∨ 1 < c.res) → exec (.reti i a) s =
        .next (retireRet k c.epc (traceTime k (traceTarget k 0x5 c.epc (u.mapCore k Core.returnFrom))))) ∧
      (u.heldEvent k c.ppl c.pie = none → c.twOn = false → c.res ≤ 1 → exec (.reti i a) s =
        .next (u.mapCore k (fun c => { c with fillWait := true }))) ∧
      (∀ h, u.heldEvent k c.ppl c.pie = some h → c.settle.longExcs = [] → exec (.reti i a) s =
        .next (stepEnds k (chainTo k h (u.mapCore k Core.settle))))) ∧
    (s.Executes k none 3 [] u →
      (c.switchEv = none → ∃ t, s.Fetches k t ∧
        exec (.swseat i a none) s = .next (raiseExc k (t.core k).oldest ⟨0x03, 0, none, false, false⟩ t u)) ∧
      (∀ (ev : SwitchEvent) (w : Nat → Word64), c.switchEv = some ev → c.stores = [] → c.settle.landAll.longExcs = [] →
        c.settle.landAll.res = 0 →
        let v := u.mapCore k (fun c => c.settle.landAll)
        let z := (writeDoublewords (recordAddr c.seatid k) (v.core k).context v).mapCore k Core.cleared
        w = (fun n => BitVec.ofNat 64 (z.readMem (recordAddr ev.seat k + 8 * n) 8)) →
        ((w 0).getLsbD 0 = true → ∃ pc t, switchIn k ev.seat z = .ret pc t ∧ exec (.swseat i a none) s = .next (retireRet k pc t) ∧
          pc = w 16 &&& 0x0000FFFFFFFFFFFC ∧ (t.core k).seatid = ev.seat ∧ (t.core k).switchEv = none ∧ (t.core k).twOn = false ∧
          (t.core k).pl = slice (w 15).toNat 8 2 ∧ (t.core k).ie = (w 15).getLsbD 5 ∧ (t.core k).res = 0 ∧
          (t.core k).mda = w 14 ∧ (t.core k).tvec = w 20 ∧ (∀ n : Fin 12, n ≠ 0 → (t.core k).g[n] = w n.val)) ∧
        ((w 0).getLsbD 0 = false → exec (.swseat i a none) s =
          .next (reportFault 0x05 c.seatid k.val 0 (z.mapCore k (fun c => { c with run := .stopped }))))))) ∧
  (∀ c : Core, c.returnFrom.pl = c.ppl ∧ c.returnFrom.ie = c.pie ∧ c.returnFrom.reservation = none ∧ c.returnFrom.twOn = false ∧
    (c.twOn = true → c.returnFrom.cwp = c.cwp ∧ c.returnFrom.res = c.res) ∧
    (c.twOn = false → c.returnFrom.cwp = (c.cwp + 11) % 12 ∧ c.returnFrom.res = c.res - 1))

/-- R175 to R183, Table TRAP-2: taking an exception, with a window free or into the trap window. The pc goes to the vector
of the cause in the Monitor or the Kernel table; EPC, ECAUSE and, where the cause names an address, EADDR are written; PL
and IE go to PPL and PIE, IE falls, PL is Kernel or Monitor; the entry takes the next window, or sets TW; the MD writes
in flight land, the reservation ends, and a repeat stops with its count in RPCNT. -/
def Obligations.TakingAnException : Prop :=
  (∀ (k : CoreId) (epc : Word64) (e : Exc) (s : State), let c := s.core k
    c.twOn = false → ¬ (e.code = 0x15 ∧ c.pl = 3) → (e.code ∈ [0x13, 0x14, 0x30] ∨ c.res < 11) →
    takeEntry k epc e s = fetchVector k (traceExc k e.code (c.vector e.code % 2 ^ 64) (s.mapCore k (fun c => c.landAll.entered epc e)))) ∧
  (∀ (epc : Word64) (e : Exc) (c : Core), c.pl < 4 → e.code < 256 →
    let d := c.entered epc e
    let monitor := c.pl = 3 ∨ e.code ∈ [0x03, 0x15, 0x30]
    let tw := e.code ∈ [0x13, 0x14, 0x30]
    let table := if monitor then c.tvec.toNat / 2 ^ 32 else c.tvec.toNat % 2 ^ 32
    d.pc = BitVec.ofNat 64 (table * 0x10000 + vectorOffset e.code) ∧ d.epc = epc &&& 0x0000FFFFFFFFFFFC ∧
    slice d.ecause.toNat 0 8 = e.code ∧ slice d.ecause.toNat 24 16 = e.info % 2 ^ 16 ∧
    d.ecause.getLsbD 18 = e.st ∧ d.ecause.getLsbD 17 = e.imp ∧ (d.ecause.getLsbD 16 = true ↔ tw) ∧
    d.eaddr = e.eaddr.getD c.eaddr ∧ d.ppl = c.pl ∧ d.pie = c.ie ∧ d.ie = false ∧ d.pl = (if monitor then 3 else 1) ∧
    d.reservation = none ∧ d.rep = none ∧
    d.rpcnt = (match c.rep with | some r => 0x8000000000000000 ||| BitVec.ofNat 64 (r.left % 65536) | none => c.rpcnt) ∧
    (tw → d.twOn = true ∧ d.cwp = c.cwp ∧ d.res = c.res) ∧
    (¬ tw → d.twOn = c.twOn ∧ d.cwp = (c.cwp + 1) % 12 ∧ d.res = c.res + 1) ∧
    d.g = c.g ∧ d.win = c.win ∧ d.tw = c.tw ∧ d.seatid = c.seatid ∧ d.fstat = c.fstat ∧ d.wspill = c.wspill)

/-- R261 to R268, Table CACHE-2: cache maintenance by address acts on the copies of the line that the issuing seat holds:
CLN writes a dirty one back and keeps it, CIV writes back and removes, INV removes, FILL brings the line into the L2 of the
cluster. A range operation does one line, moves rs1 to the next line and takes the bytes passed from rs2, and ends with
rs2 = 0. CIV.SEAT does so for every line in the seat's ways; INV.L1 empties the issuing core's first-level caches.
That a range whose operands are one register keeps the count is the model's choice (log 31). -/
def Obligations.CacheMaintenance : Prop :=
  (∀ (i : XIssue) (a : RArgs) (s u t b : State) (e : TlbEntry), i.par = false →
    let k := i.core
    let c := u.core k
    let va := (c.reg a.rs1).toNat
    let line := e.phys va / 64
    let cl := clusterOf k.val
    a.rd = 0 → va < 2 ^ 48 → c.dm = false → e.type.isDev = false → b = drainLine k line t →
    (b.core k).stores.all (fun x => x.pa / 64 != line) = true →
    let seat := (t.core k).seatid
    let copies (guard : Bool) (f : Nat → State → State) (s : State) : State := clusterIds.foldl (fun s j =>
      if guard && s.protected j seat line then s.put CACHE_STAT_LKSKIP 1 j seat else f j s) s
    let one (x : Result) (level : Nat) (ac : XKind) (v : State) : Prop := s.Executes k none level [a.rs1] u → a.rs2 = 0 →
      translate k ac va u = (.ok e, t) → x = .next (retire k v)
    let range (x : Result) (level : Nat) (ac : XKind) (v : State) : Prop := s.Executes k none level [a.rs1, a.rs2] u →
      translate k ac va u = (.ok e, t) → c.reg a.rs2 ≠ 0 →
      let w := v.mapCore k (fun c =>
        let next := ((c.reg a.rs1).toNat / 64 + 1) * 64
        (c.setReg a.rs1 (BitVec.ofNat 64 next)).setReg a.rs2
          (BitVec.ofNat 64 ((c.reg a.rs2).toNat - (next - (c.reg a.rs1).toNat))))
      x = .next (if (w.core k).reg a.rs2 = 0 then retire k w else w)
    (a.fn = 0x00 → one (exec (.cmoCln i a) s) 0 .read (copies false (fun j => l2Clean j seat line) b)) ∧
    (a.fn = 0x01 → one (exec (.cmoCiv i a) s) 0 .write (copies false (fun j => l2Remove j seat line true) (voidFills k seat line b))) ∧
    (a.fn = 0x02 → one (exec (.cmoInv i a) s) 1 .write (copies false (fun j => l2Remove j seat line false) (voidFills k seat line b))) ∧
    (a.fn = 0x04 → range (exec (.cmoClnR i a) s) 0 .read (copies true (fun j => l2Clean j seat line) b)) ∧
    (a.fn = 0x05 → range (exec (.cmoCivR i a) s) 0 .write (copies true (fun j => l2Remove j seat line true) (voidFills k seat line b))) ∧
    (a.fn = 0x06 → range (exec (.cmoInvR i a) s) 1 .write (copies true (fun j => l2Remove j seat line false) (voidFills k seat line b))) ∧
    (e.type = .normal → b.l2Find cl seat line = none → b.memGate seat (e.phys va) = .ok →
      (a.fn = 0x03 → one (exec (.cmoFill i a) s) 0 .read (l2Fill cl seat line (va / 4096 % 4) b).2) ∧
      (a.fn = 0x07 → range (exec (.cmoFillR i a) s) 0 .read (l2Fill cl seat line (va / 4096 % 4) b).2))) ∧
  (∀ (i : XIssue) (a : RArgs) (s u : State), i.par = false →
    let k := i.core
    let c := u.core k
    let cl := clusterOf k.val
    a.rd = 0 → a.rs1 = 0 → a.rs2 = 0 → s.Executes k none 1 [] u →
    (a.fn = 0x10 → c.stores = [] → exec (.civSeat i a) s = .next (retire k
      ((((u.l2[cl]!).lines.filter (fun e => (u.ownedWays cl c.seatid).contains e.way)).map (fun e => (e.seat, e.line))).foldl
        (fun t e => if t.protected cl e.1 e.2 then t.put CACHE_STAT_LKSKIP 1 cl e.1 else l2Remove cl e.1 e.2 true t) u))) ∧
    (a.fn = 0x11 → exec (.invL1 i a) s = .next (retire k (u.mapCore k (fun c => { c with
      l1i := [], l1d := [], victim := []
      reservation := match c.reservation with
        | some r => if r.cached then none else some r
        | none => none })))))

/-- R236 to R239, Tables XLAT-7 and XLAT-8: a local TLB invalidation removes from the issuing core's TLBs, pinned entries
included, the entries of its seat that the operation names, and a broadcast one from every core's, once the accesses of
the seat on them are done; an invalidation of everything drops the seat's walk-cache entries too. PIN answers 0 for an
entry that is pinned or that it pins, and 1 where 8 are pinned; UNPIN makes the seat's pins ordinary; PROBE writes the
translation or its fault to rd and raises nothing. -/
def Obligations.TlbMaintenance : Prop :=
  (∀ (i : XIssue) (a : RArgs) (s u : State), i.par = false →
    let k := i.core
    let c := u.core k
    let v := c.reg a.rs1
    let cur := slice c.ptroot.toNat 48 12
    let covers (e : TlbEntry) : Bool := e.va == v.toNat / 2 ^ e.bits * 2 ^ e.bits
    let without (p : TlbEntry → Bool) (d : Core) : Core :=
      let f (l : List TlbEntry) := l.filter (fun e => !(e.seat == c.seatid && p e))
      { d with itlb := f d.itlb, dtlb := f d.dtlb, tlb2 := f d.tlb2 }
    let noWalks (d : Core) : Core := { d with s2cache := d.s2cache.filter (fun e => e.seat != c.seatid) }
    let asid (e : TlbEntry) : Bool := e.asid == v.toNat % 4096 && !e.glob
    let here (e : TlbEntry) : Bool := covers e && (e.glob || e.asid == cur)
    a.rd = 0 → a.rs2 = 0 → s.Executes k none 1 [a.rs1] u →
    (u.accessesDone k c.seatid = true →
      (a.fn = 0x00 → a.rs1 = 0 → exec (.tlbInvAll i a) s = .next (retire k (u.mapCore k (fun d => noWalks (without (fun _ => true) d))))) ∧
      (a.fn = 0x01 → exec (.tlbInvAsid i a) s = .next (retire k (u.mapCore k (without asid)))) ∧
      (a.fn = 0x02 → exec (.tlbInvVa i a) s = .next (retire k (u.mapCore k (without here)))) ∧
      (a.fn = 0x03 → exec (.tlbInvVaa i a) s = .next (retire k (u.mapCore k (without covers))))) ∧
    ((∀ j, u.accessesDone j c.seatid = true) → c.dm = false →
      (a.fn = 0x08 → a.rs1 = 0 → exec (.tlbInvBroadcast i a) s =
        .next (retire k (u.mapCores (fun _ => true) (fun d => noWalks (without (fun _ => true) d))))) ∧
      (a.fn = 0x09 → exec (.tlbInvBroadcast i a) s = .next (retire k (u.mapCores (fun _ => true) (without asid)))) ∧
      (a.fn = 0x0A → exec (.tlbInvBroadcast i a) s = .next (retire k (u.mapCores (fun _ => true) (without here)))) ∧
      (a.fn = 0x0B → exec (.tlbInvBroadcast i a) s = .next (retire k (u.mapCores (fun _ => true) (without covers)))))) ∧
  (∀ (i : XIssue) (a : RArgs) (s u : State) (e : TlbEntry), i.par = false →
    let k := i.core
    let c := u.core k
    let va := (c.reg a.rs1).toNat
    let pins (x : Result) (fetch : Bool) : Prop :=
      let l := if fetch then c.itlb else c.dtlb
      l.find? (fun e => e.serves c va) = some e →
      (e.pinned = true → x = .next (retire k (u.mapCore k (fun c => c.setReg a.rd 0)))) ∧
      (e.pinned = false → 8 ≤ (l.filter (·.pinned)).length → x = .next (retire k (u.mapCore k (fun c => c.setReg a.rd 1)))) ∧
      (e.pinned = false → (l.filter (·.pinned)).length < 8 → x = .next (retire k (u.mapCore k (fun c =>
        (c.setL1Tlb fetch (l.map (fun e => if e.serves c va then { e with pinned := true } else e))).setReg a.rd 0))))
    a.rs2 = 0 → c.dm = false → va < 2 ^ 48 →
    (s.Executes k none 1 [a.rd, a.rs1] u →
      (c.ptctl.getLsbD 0 = true → a.fn = 0x10 → pins (exec (.pinD i a) s) false) ∧
      (c.ptctl.getLsbD 0 = true → a.fn = 0x11 → pins (exec (.pinI i a) s) true) ∧
      (∀ (r : XlAns) (t : State), a.fn = 0x20 → translate k .read va u = (r, t) → r ≠ .wait →
        exec (.probe i a) s = .next (retire k (t.mapCore k (fun d => d.setReg a.rd (probeWord (c.pl == 0) c.kxu va r)))))) ∧
    (s.Executes k none 1 [] u → a.fn = 0x12 → a.rd = 0 → a.rs1 = 0 → exec (.unpin i a) s = .next (retire k (u.mapCore k (fun c =>
      let off (e : TlbEntry) : TlbEntry := if e.seat == c.seatid then { e with pinned := false } else e
      { c with itlb := c.itlb.map off, dtlb := c.dtlb.map off, tlb2 := c.tlb2.map off }))))) ∧
  (∀ (user kxu : Bool) (va : Nat) (e : TlbEntry) (code info : Nat) (fpa : Option Nat),
    probeWord user kxu va (.fault code info fpa) = BitVec.ofNat 64 (2 ^ 63 + code * 2 ^ 16 + info) ∧
    probeWord user kxu va (.ok e) =
      BitVec.ofNat 64 (e.phys va / 4096 * 4096 + e.ph * 256 + typeCode e.type * 64 + bit e.g * 32 + e.rights user kxu))

/-- R121, R197 to R204, R209 to R214, Tables MCS-3 and MCS-4: CRC feeds the low bytes of rs2, lowest first, into the check
value of rs1. A customer instruction runs its code's routine: at END it commits RESULT, NZCV and the buffered stores at
once; at a micro-trap point it pauses; a routine past its CYC ends in cause 0x01 with INFO 0x0100; a micro-trap keeps the
micro-state in the bank and takes the pending event. A write of MCS.WADDR while MCS is not locked stores the word and ends
its replica errors; a rewrite ends one. That a write of the customer region counts in CXUSED is the model's reading (log 33). -/
def Obligations.Microcode : Prop :=
  (∀ (i : XIssue) (a : RArgs) (s u : State), i.par = false →
    let k := i.core
    let sel := a.fn.toNat % 4
    let bytes := a.fn.toNat / 4 % 8 + 1
    a.fn.toNat < 32 → sel ≠ 3 → s.Executes k none 0 [a.rd, a.rs1, a.rs2] u →
    exec (.crc i a none) s = .next (retire k (u.mapCore k (fun c =>
      c.setReg a.rd (crcBytes sel (c.reg a.rs1) (c.reg a.rs2) bytes))))) ∧
  (∀ (sel : Nat) (v data : Word64) (n : Nat), crcBytes sel v data 0 = v ∧
    crcBytes sel v data (n + 1) = crcBytes sel (crcByte sel v (data.truncate 8)) (data >>> 8) n) ∧
  (∀ (i : XIssue) (op : Fin 8) (a : RArgs) (mp : Option (BitVec 14)) (s : State) (r : MicroRun), let k := i.core
    let code := op.val * 128 + a.fn.toNat
    (s.core k).micro = some r → s.coreRuns k = true → r.cyc < r.limit →
    exec (.customerInstruction i op a mp) s = .next (finishAct k s (runRoutine k code a mp r s))) ∧
  (∀ (i : XIssue) (op : Fin 8) (a : RArgs) (s u : State), i.par = false →
    let k := i.core
    let code := op.val * 128 + a.fn.toNat
    let c := u.core k
    let r := startRun c (u.get MCS_CXENT_ENTRY code) (u.get MCS_CXENT_CYC code) u
    (s.core k).micro = none → s.flag MCS_CXENT_VALID code = true → s.get MCS_CXENT_CYC code ≠ 0 →
    s.get MCS_CXENT_SEAT code = (s.core k).seatid → c.bank = none →
    s.Executes k none (if s.get MCS_CXENT_LEVEL code = 2 then 3 else s.get MCS_CXENT_LEVEL code) [a.rd, a.rs1, a.rs2] u →
    ∃ t, s.Fetches k t ∧ exec (.customerInstruction i op a none) s = .next (finishAct k t (runRoutine k code a none r.1 r.2))) ∧
  (∀ (k : CoreId) (code : Nat) (a : RArgs) (r q : MicroRun) (s t : State) (f : BitVec 4) (v : Word64), let c := s.core k
    let n := if s.flag MCS_CXENT_MT code then min (r.limit - r.cyc) (16 - r.cyc % 16) else r.limit - r.cyc
    let l := microLoop k ⟨c.reg a.rs1, c.reg a.rs2, c.reg a.rd, c.flags⟩ none n r s
    (l = (.run q, t) → runRoutine k code a none r s = .stall (t.mapCore k (fun c => { c with micro := some q }))) ∧
    (l = (.fin q, t) → q.result = some v → q.nzcv = some f → q.stores = [] → runRoutine k code a none r s =
      .done (t.mapCore k (fun c => { (c.setReg a.rd v).setFlags f with micro := none })))) ∧
  (∀ (k : CoreId) (s : State) (r : MicroRun), (s.core k).micro = some r → s.coreRuns k = true →
    (r.limit ≤ r.cyc → exec (.customerRoutineTimeout k) s = .next (raiseExc k (s.core k).oldest ⟨0x01, 0x0100, none, false, false⟩ s
      (s.mapCore k (fun c => { c with micro := none, bank := none })))) ∧
    (r.cyc % 16 = 0 → 0 < r.cyc → (s.core k).twOn = false → (s.core k).haltReq = false →
      s.heldEvent k (s.core k).pl (s.core k).ie ≠ none → exec (.microTrap k) s = .next (takeHeld k (fun _ => true)
        (s.mapCore k (fun c => { c with bank := some ⟨r, c.pc, c.seatid⟩, micro := none }))))) ∧
  (∀ (cl : ClusterId) (w : BitVec 14) (v : Word32) (s : State),
    exec (.replicaRewrite cl w) s = .next { s with mcsBad := s.mcsBad.filter (fun e => e != (cl.val, w.toNat)) } ∧
    (s.flag MCS_LOCK_LOCK = true → exec (.mcsWordWrite 0 v) s = .next (s.answer (.ok 0))) ∧
    (s.flag MCS_LOCK_LOCK = false → 0x3800 ≤ v.toNat % 2 ^ 14 →
      let addr := v.toNat % 2 ^ 14
      let t := s.put MCS_WADDR_ADDR addr
      let word := t.reg MCS_WDATA 0 + t.reg MCS_WDATA 1 * 2 ^ 32 + t.reg MCS_WDATA 2 * 2 ^ 64 + t.reg MCS_WDATA 3 * 2 ^ 96
      exec (.mcsWordWrite 0 v) s = .next ((State.countUp { t with
        mcsWords := cellSet (fun _ => (0 : BitVec 128)) addr (BitVec.ofNat 128 word) t.mcsWords
        mcsBad := t.mcsBad.filter (fun e => e.2 != addr) } MCS_STAT_CXUSED).answer (.ok 0))))

/-- R112, R179 to R181, R188, R192, R282, R304: the events of one core. A held interrupt, asynchronous bus error or
seat-switch event that is first in the order is taken at a boundary, behind completed long operations; the spill engine
stores the oldest window below WSPILL once 11 are resident, and a fill restores the record at WSPILL; an entry of the
store buffer that no earlier one holds back is performed, or sent and later answered with an error. -/
def Obligations.CoreEntriesAndEngines : Prop :=
  (∀ (k : CoreId) (s : State), s.coreRuns k = true → (s.core k).atBoundary = true → (s.core k).twOn = false →
    (s.core k).haltReq = false → (s.core k).settle.longExcs = [] →
    let t := s.mapCore k Core.settle
    let held := s.heldEvent k (s.core k).pl (s.core k).ie
    let epc := (t.core k).oldest
    (∀ p, held = some (.interrupt p) → exec (.interruptEntry k) s = .next (takeEntry k epc ⟨0x20 + p, 0, none, false, false⟩
      { t with stale := t.stale.filter (fun x => x.1 != k.val) })) ∧
    (∀ pa, held = some (.busError pa) → exec (.asyncBusErrorEntry k) s =
      .next (takeEntry k epc ⟨0x0C, 0, some (BitVec.ofNat 64 pa), true, true⟩ (t.mapCore k (fun c => { c with busErr := none })))) ∧
    (∀ seat, held = some (.seatSwitch seat) → exec (.seatSwitchEntry k) s =
      .next (takeEntry k epc ⟨0x30, seat, none, false, false⟩ (t.mapCore k (fun c => { c with switching := true }))))) ∧
  (∀ (k : CoreId) (s : State), let c := s.core k
    (c.switching = false → c.stepping = false →
      (∀ ev, c.switchEv = some ev → (c.pl = 0 ∨ (c.pl = 1 ∧ c.ie = true)) → s.heldEvent k c.pl c.ie = some (.seatSwitch ev.seat)) ∧
      (∀ pa, c.switchEv = none → c.busErr = some pa → (c.pl = 0 ∨ c.ie = true) → s.heldEvent k c.pl c.ie = some (.busError pa)) ∧
      (∀ p, c.switchEv = none → c.busErr = none → c.ie = true → c.pl ≠ 3 → s.seenInterrupt k = some p →
        s.heldEvent k c.pl c.ie = some (.interrupt p)))) ∧
  (∀ (k : CoreId) (s b t : State) (ps : List Part), let c := s.core k
    let va := (c.wspill.toNat + 2 ^ 48 - 128) % 2 ^ 48
    s.coreRuns k = true → c.twOn = false → c.res = 11 → c.windowAwaited c.oldestWindow = false →
    enginePrep k .write va s = (.ok, ps, b) → issueStores k ps (c.record c.oldestWindow) b = (t, true) →
    exec (.windowSpill k) s = .next (pmCount k 0x0A (t.mapCore k (fun d => { d with wspill := BitVec.ofNat 64 va, res := d.res - 1 })))) ∧
  (∀ (k : CoreId) (s b t : State) (ps : List Part) (v : Nat), let c := s.core k
    let va := c.wspill.toNat
    s.coreRuns k = true → c.fillWait = true → enginePrep k .read va s = (.ok, ps, b) → readParts k .none true ps b = (.data v, t) →
    exec (.windowFill k) s = .next ((pmCount k 0x0B (t.mapCore k (fun d => { d with
      win := d.win.set! d.fillWindow (windowOf v)
      wspill := BitVec.ofNat 64 ((va + 128) % 2 ^ 48), res := d.res + 1 }))).mapCore k (fun d => { d with fillWait := false }))) ∧
  (∀ (k : CoreId) (n : Nat) (s : State) (e : StoreEntry), (s.core k).stores[n]? = some e →
    (((s.core k).stores.take n).any (fun b => storeBlocks s b e) = false →
      (∀ t, performStore k e (s.mapCore k (fun c => { c with stores := c.stores.eraseIdx n })) = (t, true) →
        exec (.storeBufferDrain k n true) s = .next t) ∧
      (e.sent = false → exec (.storeBufferDrain k n false) s =
        .next (requestStore e (s.mapCore k (fun c => { c with stores := c.stores.set n { e with sent := true } }))))) ∧
    (e.sent = true → e.type ≠ .devicePosted → (s.core k).busErr = none → exec (.storeErrorResponse k n) s =
      .next (s.mapCore k (fun c => { c with stores := c.stores.eraseIdx n, busErr := some e.pa })))) ∧
  (∀ (k : CoreId) (s t : State) (l : OutLoad) (p : Part), (s.core k).load = some l → l.parts = [p] → t = s.mapCore k (fun c => { c with load := none }) →
    exec (.loadResponse k .error .none) s = .next (stopIfDue k (raiseExc k (t.core k).oldest
      ⟨0x0C, 0, some (BitVec.ofNat 64 p.pa), false, false⟩ t t)))

/-- R119, R157, R168, R171, R561, R564 to R569, R575: events of pairs, cores and clusters. A lockstep mismatch stops the pair,
keeps the first one's kind and reports fault 0x01; a late DM access sets OVR and MAXEXC and reports fault 0x06; a wrapped
counter sets its PMOVF bit; a core in C1 wakes on a signalled interrupt or a switch event, and one in C2 or C3 once it has
its tokens and its cluster is on; a cluster powers up on FIO; PWC.FIO moves domains to the PLL; PFCTL.TARGET starts a
level change that ends when the regulator has settled; a served request gets its tokens. -/
def Obligations.CoreAndClusterEvents : Prop :=
  (∀ (n : Fin 16) (kind : BitVec 4) (s : State) (c : Core), s.pairLocked n.val = true → 1 ≤ kind.toNat → kind.toNat ≤ 7 →
    s.cores[2 * n.val]? = some c → c.run = .running → s.cState (2 * n.val) = 0 →
    let t := if s.flag IBC_LSSTAT_MISM (2 * n.val) then s
      else ((s.put IBC_LSSTAT_MISM 1 (2 * n.val)).put IBC_LSSTAT_KIND kind.toNat (2 * n.val)).put IBC_LSPC_PC c.oldest.toNat (2 * n.val)
    exec (.lockstepMismatch n kind) s = .next (reportFault 0x01 (s.seatOf (2 * n.val)) n.val kind.toNat
      (t.mapCores (fun k => k.val / 2 == n.val) (fun c => { c with run := .stopped, load := none, fillWait := false })))) ∧
  (∀ (k : CoreId) (ex : BitVec 20) (s : State), s.coreRuns k = true → (s.core k).dm = true →
    exec (.dmAccessOverrun k ex) s = .next (reportFault 0x06 (s.core k).seatid k.val 0 (pmCount k 0x0F
      ((s.put IBC_DMSTAT_MAXEXC (max (s.get IBC_DMSTAT_MAXEXC k.val) ex.toNat) k.val).put IBC_DMSTAT_OVR 1 k.val)))) ∧
  (∀ (k : CoreId) (j : Fin 6) (s : State), s.bitOf IBC_PMCTL_EN j.val k.val = true → s.get IBC_PMEVT_EVENT k.val j.val ∈ [0x00, 0x02, 0x03, 0x09, 0x0C] →
    (s.core k).seatid = s.coreOwner k.val → s.flag IBC_PMCTL_FRZ k.val = false →
    let t := (s.put IBC_PMCNT_COUNT 0 k.val j.val).putBit IBC_PMOVF_OVF j.val true k.val
    exec (.perfCounterOverflow k j) s = .next (if t.flag IBC_PMCTL_IRQ k.val then raiseSrc k.val t else t)) ∧
  (∀ (k : CoreId) (s : State), (s.core k).run = .running →
    (s.cState k.val = 1 → (s.seenInterrupt k ≠ none ∨ (s.core k).switchEv ≠ none) →
      exec (.coreWakeC1 k) s = .next (takeLongIfReady k (s.setCState k.val 0))) ∧
    (s.trailing k.val = false → s.wakeReady k = true →
      (s.cState k.val = 2 → exec (.coreWakeC2 k) s = .next (let d := s.drawSeed
        ((d.2.setCState k.val 0).mapCore k (fun c => { c with lfsr := d.1 })).put PWC_CCTL_TGWAIT 0 k.val)) ∧
      (s.cState k.val = 3 → exec (.coreWakeC3 k) s = .next ((coreStart k s).put PWC_CCTL_TGWAIT 0 k.val))) ∧
    (s.trailing k.val = false → 2 ≤ s.cState k.val → exec (.cctlWake 0 k) s = .next ((requestWake k s).answer (.ok 0)))) ∧
  (∀ (by_ : Seat) (k : CoreId) (s : State), by_ ≠ 0 → s.coreOwner k.val ≠ by_.val → exec (.cctlWake by_ k) s =
    .next ((seatViolation by_.val true (0x20090100 + by_.val * 0x1000 + 4 * k.val) s).answer .error)) ∧
  (∀ (cl : ClusterId) (s : State), s.clusterOn cl.val = false → s.holdsTokens (.cluster cl.val) = true →
    exec (.clusterPowerUp cl) s = .next (raiseSrc srcPwc (seedL2 cl.val
      (((s.mapL2 cl.val (fun _ => [])).putBit PWC_DSTAT_ON (4 + cl.val) true).putBit PWC_FIO_FIO cl.val true)))) ∧
  (∀ (v : Word32) (s : State), let lvl := v.toNat / 2 ^ 30
    let t := (s.put PWC_PFCTL_TARGET lvl).put PWC_PFCTL_VSETTLE (v.toNat % 2 ^ 8)
    exec (.fioSwitch 0 v) s = .next ((s.put PWC_FIO_FIO (s.get PWC_FIO_FIO - (s.get PWC_FIO_FIO &&& slice v.toNat 4 16))).answer (.ok 0)) ∧
    (t.flag PWC_STAT_PFBUSY = true → exec (.pfctlTargetWrite 0 v) s = .next (State.answer { t with pfHeld := some lvl } (.ok 0))) ∧
    (t.flag PWC_STAT_PFBUSY = false → exec (.pfctlTargetWrite 0 v) s = .next (State.answer { t.put PWC_STAT_PFBUSY 1 with
      pfRun := lvl, pwrVid := if lvl < t.get PWC_STAT_PF then lvl else t.pwrVid } (.ok 0)))) ∧
  (∀ (by_ : Seat) (v : Word32) (s : State), by_ ≠ 0 → exec (.fioSwitch by_ v) s = .next (s.answer .error) ∧
    exec (.pfctlTargetWrite by_ v) s = .next (s.answer .error)) ∧
  (∀ (s : State), s.flag PWC_STAT_PFBUSY = true →
    let t := { s.put PWC_STAT_PF s.pfRun with pwrVid := s.pfRun }
    (s.pfHeld = none → exec .levelChangeDone s = .next (t.put PWC_STAT_PFBUSY 0)) ∧
    (∀ l, s.pfHeld = some l → exec .levelChangeDone s = .next (levelChange l { t with pfHeld := none }))) ∧
  (∀ (s : State) (q : TokenWait) (n : Nat), s.tokenQueue.find? (fun q => s.grantable q) = some q → q.who = [.core n] →
    exec .tokenGrant s = .next (State.put { s with
      tokenQueue := s.tokenQueue.erase q
      tokens := s.tokens ++ [⟨.core n, q.seat, if q.share then 90 else 0, if q.share then 0 else 90⟩] } PWC_CCTL_TGWAIT 0 n))

/-- R33, R34, R43, R45, R46, Table DEV-7: the seat lock and the time base. A write of LOCK starts the check; the check sets
LOCK and records the shared cores, or leaves LOCK 0 and records the first failure. A capture records the time of the next
PER_CLK edge less 10 ns; a compare unit whose time is reached pulses once or toggles. That no response is given before the
check ends is the model's form of the acknowledgement. -/
def Obligations.SeatLockAndTimeBase : Prop :=
  (∀ (by_ : Seat) (s : State),
    (by_ ≠ 0 → exec (.seatLockWrite by_) s = .next (s.answer .error)) ∧
    (s.seatLocked = false → exec (.seatLockWrite 0) s = .next (State.answer { s with seatChecking := true } .none)) ∧
    (s.seatLocked = true → exec (.seatLockWrite 0) s = .next (s.answer (.ok 0)))) ∧
  (∀ s : State, s.seatChecking = true →
    let t := { s with seatChecking := false }
    (t.seatCheck = none → exec .seatLockCheckDone s = .next (State.answer
      { ((t.put SEAT_LOCK_LOCK 1).put SEAT_STAT_CHKERR 0).put SEAT_STAT_CHKIDX 0 with seatShares := t.rotationShares } (.ok 0))) ∧
    (∀ code n, t.seatCheck = some (code, n) → code ≠ 6 → exec .seatLockCheckDone s =
      .next (((t.put SEAT_STAT_CHKERR code).put SEAT_STAT_CHKIDX (n % 256)).answer (.ok 0))) ∧
    (∀ n, t.seatCheck = some (6, n) → exec .seatLockCheckDone s =
      .next ((((t.put SEAT_STAT_CHKERR 6).put SEAT_STAT_CHKIDX (n % 256)).put SEAT_VADDR_ADDR n).answer (.ok 0)))) ∧
  (∀ s : State, s.seatCheck = none →
    (∀ n, n < 16 → s.pairLocked n = true → s.coreOwner (2 * n) = s.coreOwner (2 * n + 1)) ∧
    (∀ b, b < 32 → s.flag SEAT_BANK_XING b = true → s.bankOwner b = 0 ∧ s.get DSTORE_BCFG_MODE b ≠ 1) ∧
    (∀ x y, x < y → y < 64 → s.xbOn x = true → s.xbOn y = true → s.xbLast x < s.xbFirst y ∨ s.xbLast y < s.xbFirst x) ∧
    (∀ n, n < 64 → s.xbOn n = true → s.get SEAT_XBCFG_WRITER n ≠ s.get SEAT_XBCFG_READER n ∧
      s.get SEAT_XBCFG_WRITER n ≠ 0 ∧ s.get SEAT_XBCFG_READER n ≠ 0) ∧
    (∀ n, n < 32 → s.lanePairLocked n = true → s.laneOwner (2 * n) = s.laneOwner (2 * n + 1))) ∧
  (∀ (n : Fin 32) (rising : Bool) (s : State), s.device = .on → s.get TBS_CCCTL_MODE n.val = 1 →
    (if s.get TBS_CCCTL_EDGE n.val = 1 then rising = false else s.get TBS_CCCTL_EDGE n.val = 2 ∨ rising = true) →
    let at_ := (s.time80 + s.get TBS_RATE_INC + 2 ^ 80 - 10 * 2 ^ 16) % 2 ^ 80
    let t := (s.put TBS_CCTIME_NS (at_ / 2 ^ 16) n.val).put TBS_CCFRAC_FRAC (at_ % 2 ^ 16) n.val
    exec (.tbsCapture n rising) s = .next (if t.flag TBS_CCCTL_IRQ n.val then raiseSrc (168 + n.val) t else t)) ∧
  (∀ (n : Fin 32) (s : State), s.device = .on → s.unitTime n.val ≤ s.time80 → s.tbsActed.getLsbD n.val = false →
    let one : BitVec 32 := 1#32 <<< n.val
    let ends (t : State) : Result :=
      .next (startOnUnit n.val (unitEvent n.val (if t.flag TBS_CCCTL_IRQ n.val then raiseSrc (168 + n.val) t else t)))
    (s.get TBS_CCCTL_MODE n.val = 2 → exec (.tbsCompareMatch n) s =
      ends { s.put TBS_CCCTL_MODE 0 n.val with tbsPulse := s.tbsPulse ||| one }) ∧
    (s.get TBS_CCCTL_MODE n.val = 3 → exec (.tbsCompareMatch n) s =
      ends { s with tbsOut := s.tbsOut ^^^ one, tbsActed := s.tbsActed ||| one }))

/-- R55, R58, R65 to R72, R79, Table DEAL-3: a slot's start counts the slots of pending switch events and raises the entry's
own on every core of its group; the last slot of a round is followed by slot 0 of the table that NEXT selects, with released
tokens back and a passed lock in force. A write of LOCK by seat 0 runs the check: passed, the table waits for the round
boundary with BUSY = 1; failed, the first failure is recorded. A switch that is not complete in SWLIM slots stops the core
and reports fault 0x04. -/
def Obligations.SlotsAndTheDealLock : Prop :=
  (∀ s : State,
    let n := s.get DEAL_NOW_SLOT + 1
    let act := s.get DEAL_CFG_NEXT
    let bound := returnTokens { (s.put DEAL_NOW_ACT act).put DEAL_ROUND_COUNT ((s.get DEAL_ROUND_COUNT + 1) % 2 ^ 32) with
      dealLen := State.tableLen ((s.put DEAL_NOW_ACT act).put DEAL_ROUND_COUNT ((s.get DEAL_ROUND_COUNT + 1) % 2 ^ 32)) act }
    let locked := if bound.dealPassed then { (bound.put DEAL_LOCK_LOCK 1).put DEAL_STAT_BUSY 0 with dealPassed := false } else bound
    let t := countSwitchSlots (if s.dealLen ≤ n then locked.put DEAL_NOW_SLOT 0 else s.put DEAL_NOW_SLOT n)
    let cur := if s.dealLen ≤ n then 0 else n
    s.device = .on →
    (slotSwitches t.curSlot = false → exec (.slotStart .none) s = .next (dramSlot t)) ∧
    (slotSwitches t.curSlot = true → exec (.slotStart .none) s = .next (dramSlot ((List.finRange 32).foldl (fun u k =>
      if u.bitOf DEAL_ROTCORE_CORES k.val (slotSwg t.curSlot) then switchEvent k (slotOwner t.curSlot) u else u) t))) ∧
    (t.flag DEAL_ERR_UE = false → exec (.slotStart .double) s =
      .next (dramSlot (reportFault 0x20 0 0 0 (raiseSrc srcDeal ((t.put DEAL_ERR_UE 1).put DEAL_ERR_UEIDX cur))))) ∧
    (s.dealPassed = true → s.dealLen ≤ n → slotSwitches t.curSlot = false → exec (.dealLockActivate .none) s = .next (dramSlot t))) ∧
  (∀ (by_ : Seat) (s : State),
    (by_ ≠ 0 → exec (.dealLockWrite by_) s = .next (s.answer .error)) ∧
    (s.dealLocked = false → s.flag DEAL_STAT_BUSY = false →
      (s.dealCheck = none → exec (.dealLockWrite 0) s = .next (State.answer
        { ((s.put DEAL_STAT_BUSY 1).put DEAL_STAT_CHKERR 0).put DEAL_STAT_CHKIDX 0 with dealPassed := true } (.ok 0))) ∧
      (∀ code i, s.dealCheck = some (code, i) → exec (.dealLockWrite 0) s =
        .next (((s.put DEAL_STAT_CHKERR code).put DEAL_STAT_CHKIDX i).answer (.ok 0))))) ∧
  (∀ s : State, s.dealCheck = none →
    let t := s.get DEAL_CFG_NEXT
    (∀ i, i < s.tableLen t → (slotOwner (s.tableEntry t i) ≠ 0 → slotKind (s.tableEntry t i) = 1) ∧
      (slotSw (s.tableEntry t i) = true → slotKind (s.tableEntry t i) = 1)) ∧
    (∀ seat ∈ customerSeats, s.get PWC_TGSHARE_SHARE seat ≠ 0 →
      ∃ i, i < s.tableLen t ∧ slotKind (s.tableEntry t i) = 1 ∧ slotOwner (s.tableEntry t i) = seat) ∧
    ((customerSeats.map (fun seat => s.get PWC_TGSHARE_SHARE seat)).sum ≤ min (s.get PWC_TGBUDGET_RSV) (s.get PWC_TGBUDGET_TOTAL))) ∧
  (∀ (k : CoreId) (s : State) (e : SwitchEvent), (s.core k).switchEv = some e → max 8 (s.get DEAL_SWLIM_LIMIT) ≤ e.slots →
    exec (.switchOverrun k) s = .next (reportFault 0x04 (s.core k).seatid k.val 0
      ((recordSwitch DEAL_SWSTAT_OVR k.val e.seat s).mapCore k (fun c =>
        { c with run := .stopped, switchEv := none, load := none, fillWait := false }))))

/-- R314, R317, R318, R321 to R324, Table FAB-4: the fabric. An output port sends the waiting flit of the lowest rank, the
oldest slot of injection first; a header with an error that is not corrected is discarded with fault 0x21, a payload
poisoned with fault 0x16; a target that does not answer becomes dead, its outstanding requests get errors and fault 0x0F
goes to its owners; writing FAB.TGT restores or isolates; a late response is counted. -/
def Obligations.FabricFlitsAndTargets : Prop :=
  (∀ (r : Fin 38) (out p : Fin 16) (eject : Bool) (f : Flit) (s : State), (s.fabPort r.val out.val).queue = [] →
    let mgt := (s.fabPort r.val out.val).mgt
    let keeps (t : State) (n : Nat) (l : List Flit) : State := { t with
      fabPorts := t.fabPorts.filter (fun x => !(x.router == r.val && x.port == out.val)) ++ [⟨r.val, out.val, l, min n 7⟩] }
    (f.err = .none → exec (.flitHop r out eject [(p, f)]) s =
      .next { keeps s (if f.vn = 3 then 0 else mgt + 1) [] with fabSent := some f }) ∧
    (f.err = .double → f.head = true → let t := reportFault 0x21 0 r.val 0 (fabLog 3 r.val p.val f s)
      exec (.flitHop r out eject [(p, f)]) s = .next { keeps t ((t.fabPort r.val out.val).mgt + 1) [] with fabSent := none }) ∧
    (exec (.flitHop r out eject []) s = .next { keeps s (mgt + 1) [] with fabSent := none })) ∧
  (∀ (kind owner mgt : Nat) (l : List Flit) (f : Flit), firstFlit kind owner mgt l = some f → f ∈ l ∧
    ∀ g ∈ l, flitRank kind owner mgt f < flitRank kind owner mgt g ∨
      (flitRank kind owner mgt f = flitRank kind owner mgt g ∧ f.inj ≤ g.inj)) ∧
  (∀ (r p : Nat) (eject : Bool) (f : Flit) (s : State), f.head = false →
    (f.e2e = false → f.err ≠ .none → arriveFlit r p eject f s = (some { f with err := .none, poison := true },
      reportFault 0x16 f.seat.val r 0 (fabLog 1 r p f (s.countUp FAB_ERR_UE)))) ∧
    (f.e2e = true → f.err = .double → arriveFlit r p true f s = (some { f with err := .none, poison := true },
      reportFault 0x17 f.seat.val r 0 (fabLog 2 r p f (s.countUp FAB_ERR_UE))))) ∧
  (∀ (by_ : Seat) (v : Word32) (t : BitVec 8) (s : State), by_ ≠ 0 →
    exec (.fabQuenchWrite by_ v) s = .next (s.answer .error) ∧ exec (.tgtRestore by_ t) s = .next (s.answer .error) ∧
    exec (.tgtIsolate by_ t) s = .next (s.answer .error)) ∧
  (∀ (v : Word32) (s : State), exec (.fabQuenchWrite 0 v) s =
    .next ((writeFields 0 FAB_QUENCH 0 0 v.toNat 0xFFFFFFFF s).answer (.ok 0))) ∧
  (∀ (t : BitVec 8) (s : State), targetListed t.toNat = true →
    exec (.lateResponse t) s = .next (s.countUp FAB_ERR_LATE) ∧
    exec (.tgtRestore 0 t) s = .next (((s.put FAB_TGT_ISO 0 t.toNat).put FAB_TGT_DEAD 0 t.toNat).answer (.ok 0)) ∧
    (s.flag FAB_TGT_ISO t.toNat = false → exec (.tgtIsolate 0 t) s =
      .next (((answerWithError t.toNat s).put FAB_TGT_ISO 1 t.toNat).answer (.ok 0))) ∧
    (s.targetDown t.toNat = false →
      let u := ((answerWithError t.toNat s).put FAB_TGT_DEAD 1 t.toNat)
      let v := (u.targetOwners t.toNat).foldl (fun w seat =>
        let w := reportFault 0x0F seat t.toNat 0 w
        if seat = 0 then w else noteSeat 0x0F04 seat [] w) u
      exec (.deadTargetTimeout t) s = .next (if v.flag FAB_STAT_DEADEV then v
        else raiseSrc srcFab ((v.put FAB_STAT_DEADEV 1).put FAB_STAT_FIRST t.toNat))))

/-- R329 to R349, Tables DMC-3 and DMC-4: the DRAM controllers. A request enters its channel's queue while its port has a
credit, and outside its seat's bank set as best effort with GDOWN; it climbs one level of the ladder per threshold and
counts at U3; the write queue drains when full, urgent or unopposed; the controller refreshes on its own where the table
has no run; temperatures set HOT and, above 95 °C, OVHT with fault 0x0E; training sets the geometry and READY, or TRERR;
BSET refuses another seat's unit; the scrub reads line after line. -/
def Obligations.DramControllers : Prop :=
  (∀ (c : Fin 4) (port : Fin 16) (seat : Seat) (pa : BitVec 48) (write guar : Bool) (hint : Fin 4) (s : State),
    let a := pa.toNat / 64 * 64
    let d := s.dmc[c]
    let served := guar && s.bitOf DMC_BSET_UNITS (s.unitOf a) c.val seat.val && s.hasWindow seat.val c.val
    s.device = .on → s.chanReady c.val = true → isDram a = true → s.chanOf a = c.val → a - 0x010000000000 < s.dramCapacity →
    (served = true ∨ ((d.queue.filter (fun r => !r.guar && r.port == port.val && r.write == write)).length < 8 ∧
      (write = true → (d.queue.filter (fun r => r.write && !r.guar)).length < 64))) →
    exec (.dmcRequest c port seat pa write guar hint) s =
      .next ((if guar = true ∧ served = false ∧ seat ≠ 0 then s.put DMC_STAT_GDOWN 1 c.val else s).mapDmc c.val (fun d =>
        { d with queue := d.queue ++ [⟨port.val, seat.val, a, write, served, hint.val, 0⟩] }))) ∧
  (∀ (c : Fin 4) (i : Nat) (s : State) (r : DmcReq), (s.dmc[c]).queue[i]? = some r → r.guar = false → r.level < 3 →
    let t := s.mapDmc c.val (fun d => { d with queue := d.queue.set i { r with level := r.level + 1 } })
    exec (.urgencyEscalation c i) s = .next (if r.level = 2 then t.countUp DMC_STAT_U3CNT c.val else t)) ∧
  (∀ (c : Fin 4) (u : Upset) (s : State) (w : DmcReq) (ws : List DmcReq),
    (s.dmc[c]).queue.filter (fun r => r.write && !r.guar) = w :: ws →
    (48 ≤ (w :: ws).length ∨ (∃ r ∈ w :: ws, 2 ≤ r.level) ∨ (∀ r ∈ (s.dmc[c]).queue, r.write = true)) →
    exec (.writeQueueDrain c u) s = .next ((w :: ws).foldl (fun t r => serveReq c.val r t) (memUpset w.pa false u s))) ∧
  (∀ (c : Fin 4) (bank : Nat) (s : State), (∀ r ∈ (s.dmc[c]).queue, rowHit s.dmc[c] r = true → (Config.dramBankRow r.pa).1 ≠ bank) →
    exec (.rowIdleClose c bank) s = .next (s.mapDmc c.val (fun d => { d with rows := d.rows.filter (fun x => x.1 != bank) }))) ∧
  (∀ (c : Fin 4) (u : Upset) (s : State) (r : DmcReq), (s.dmc[c]).queue.find? (·.write) = some r →
    exec (.crcAlertReplay c u) s = .next (memUpset r.pa false u (s.countUp DMC_ERR_CE c.val))) ∧
  (∀ (c : Fin 4) (s : State), s.device = .on → s.chanReady c.val = true → s.hasRefreshRun c.val = false →
    (exec (.dmcSelfRefresh c false) s = .next (s.mapDmc c.val (fun d => { d with postponed := 0, rows := [] }))) ∧
    ((s.dmc[c]).postponed < 4 → (s.dmc[c]).queue ≠ [] → exec (.dmcSelfRefresh c true) s =
      .next (s.mapDmc c.val (fun d => { d with postponed := d.postponed + 1 })))) ∧
  (∀ (c : Fin 4) (t0 t1 : BitVec 8) (s : State), s.chanReady c.val = true →
    let t := ((s.put DMC_TEMP_VALID 1 c.val).put DMC_TEMP_DIMM0 t0.toNat c.val).put DMC_TEMP_DIMM1 t1.toNat c.val
    let hottest : Int := if 2 ≤ t.get DMC_GEOM_NDIMM c.val then max t0.toInt t1.toInt else t0.toInt
    (85 < hottest → let u := (t.mapDmc c.val (fun d => { d with cool := 0 })).put DMC_STAT_HOT 1 c.val
      (95 < hottest → exec (.dmcTempRead c t0 t1) s = .next (setOverheat c.val u)) ∧
      (hottest ≤ 95 → u.hasRefreshRun c.val = false → exec (.dmcTempRead c t0 t1) s = .next u)) ∧
    (hottest ≤ 85 → let u := t.mapDmc c.val (fun d => { d with cool := min 100 (d.cool + 1) })
      exec (.dmcTempRead c t0 t1) s = .next (if (u.dmc[c]).cool = 100 then (u.put DMC_STAT_HOT 0 c.val).put DMC_STAT_OVHT 0 c.val else u))) ∧
  (∀ (c : Fin 4) (w : Word32) (s : State), s.device = .on → s.chanReady c.val = false → s.flag DMC_STAT_TRERR c.val = false →
    exec (.dramTrainingDone c none) s = .next (s.put DMC_STAT_TRERR 1 c.val) ∧
    ∃ t : State, exec (.dramTrainingDone c (some w)) s = .next (((((((t.put DMC_GEOM_CAP (slice w.toNat 16 11) c.val).put DMC_GEOM_X8
      (slice w.toNat 7 1) c.val).put DMC_GEOM_DENS (slice w.toNat 4 3) c.val).put DMC_GEOM_RANKS (slice w.toNat 2 2) c.val).put
      DMC_GEOM_NDIMM (slice w.toNat 0 2) c.val)).put DMC_STAT_READY 1 c.val)) ∧
  (∀ (c : Fin 4) (seat : Seat) (v : Word32) (s : State), seat ≠ 0 → s.dealFixed = false →
    let x := v.toNat % 2 ^ (8 * s.numRanks c.val)
    let clash := ∃ n ∈ customerSeats, n ≠ seat.val ∧ s.get DMC_BSET_UNITS c.val n &&& x ≠ 0
    (clash → exec (.bsetWrite 0 c seat v) s = .next ((s.put DMC_STAT_BSCONF 1 c.val).answer (.ok 0))) ∧
    (¬ clash → exec (.bsetWrite 0 c seat v) s = .next ((s.put DMC_BSET_UNITS x c.val seat.val).answer (.ok 0)))) ∧
  (∀ (c : Fin 4) (u : Upset) (s : State), s.device = .on → s.chanReady c.val = true → s.flag DMC_SCRUB_EN c.val = true →
    openOn c.val s.curSlot = true → (s.dmc[c]).scrub + 1 < s.get DMC_GEOM_CAP c.val * 0x400000 →
    exec (.dmcScrubRead c u) s = .next ((memUpset (s.globalAddr c.val ((s.dmc[c]).scrub * 64)) true u s).mapDmc c.val
      (fun d => { d with scrub := (s.dmc[c]).scrub + 1 })))

/-- R274, R277, R278, R280: DSTORE. The end of zeroing leaves every byte of the bank 0 and clears its INITSTAT bit; the scrub
checks line after line in a slot that is open; a ninth memory-side cache bank is refused. -/
def Obligations.DstoreBanks : Prop :=
  (∀ (b : Fin 32) (s : State), s.bitOf DSTORE_INITSTAT_BUSY b.val = true →
    exec (.dstoreZeroDone b) s = .next ((s.zeroMem (0x10000000 + b.val * 0x400000) 0x400000).putBit DSTORE_INITSTAT_BUSY b.val false)) ∧
  (∀ (s : State) (a n x : Nat), (s.zeroMem a n).byte x = if a ≤ x ∧ x < a + n then 0 else s.byte x) ∧
  (∀ (b : Fin 32) (u : Upset) (s : State), s.device = .on → s.flag DSTORE_SCRUB_EN = true →
    s.bitOf DSTORE_INITSTAT_BUSY b.val = false → slotKind s.curSlot ≠ 1 → s.get DSTORE_BCFG_MODE b.val ≠ 1 → s.dstoreScrub[b] < 65535 →
    let t := memUpset (0x10000000 + b.val * 0x400000 + s.dstoreScrub[b] * 64) true u s
    exec (.dstoreScrubRead b u) s = .next { t with dstoreScrub := t.dstoreScrub.set! b.val (s.dstoreScrub[b] + 1) }) ∧
  (∀ (b : Fin 32) (v : Word32) (s : State),
    let cached := ((List.range 32).filter (fun n => n != b.val && s.get DSTORE_BCFG_MODE n == 1)).length
    let t := writeFields 0 DSTORE_BCFG b.val 0 v.toNat 0xFFFFFFFF s
    (v.toNat % 4 = 1 → 8 ≤ cached → exec (.dstoreBcfgWrite 0 b v) s = .next (s.answer (.ok 0))) ∧
    (¬ (v.toNat % 4 = 1 ∧ 8 ≤ cached) → exec (.dstoreBcfgWrite 0 b v) s = .next (State.answer
      (if t.get DSTORE_BCFG_MODE b.val = s.get DSTORE_BCFG_MODE b.val then t else { t with msc := t.msc.filter (fun x => x.bank != b.val) })
      (.ok 0)))) ∧
  (∀ (by_ : Seat) (b : Fin 32) (c : Fin 4) (seat : Seat) (v : Word32) (s : State), by_ ≠ 0 →
    exec (.dstoreBcfgWrite by_ b v) s = .next (s.answer .error) ∧ exec (.bsetWrite by_ c seat v) s = .next (s.answer .error))

/-- R353 to R355, Tables LANE-2 and LANE-3: the arithmetic of a control lane. Each instruction writes its result and the
flags that R355 gives it, S included, and the lane goes on behind it; nothing else changes. -/
def Obligations.LaneArithmetic : Prop :=
  ∀ (i : LIssue) (d a b : Fin 32) (imm : BitVec 16) (s u : State), s.LaneExecutes i u →
    let n := i.lane.val
    let x := (u.lane n).reg a
    let y := (u.lane n).reg b
    let done := fun (r : Half) (v sat : Bool) =>
      (.next (laneOn n ((u.mapLane n (fun l => l.result d r v)).sticky n sat)) : Host.Outcome State Fault Refusal)
    let flags := fun (r : Half) (v : Bool) =>
      (.next (laneOn n (u.mapLane n (fun l => l.flags r v))) : Host.Outcome State Fault Refusal)
    let fit := fun (e : Int) => BitVec.ofInt 16 (clamp 16 e)
    exec (.laneNop i) s = .next (laneOn n u) ∧
    exec (.laneAdd i d a b) s = done (x + y) (beyond 16 (x.toInt + y.toInt)) false ∧
    exec (.laneSub i d a b) s = done (x - y) (beyond 16 (x.toInt - y.toInt)) false ∧
    exec (.laneAdds i d a b) s = done (fit (x.toInt + y.toInt)) (beyond 16 (x.toInt + y.toInt)) (beyond 16 (x.toInt + y.toInt)) ∧
    exec (.laneSubs i d a b) s = done (fit (x.toInt - y.toInt)) (beyond 16 (x.toInt - y.toInt)) (beyond 16 (x.toInt - y.toInt)) ∧
    exec (.laneAnd i d a b) s = done (x &&& y) false false ∧
    exec (.laneOr i d a b) s = done (x ||| y) false false ∧
    exec (.laneXor i d a b) s = done (x ^^^ y) false false ∧
    exec (.laneShl i d a b) s = done (x <<< (y.toNat % 16)) false false ∧
    exec (.laneShr i d a b) s = done (x >>> (y.toNat % 16)) false false ∧
    exec (.laneSra i d a b) s = done (x.sshiftRight (y.toNat % 16)) false false ∧
    exec (.laneMin i d a b) s = done (if x.toInt ≤ y.toInt then x else y) false false ∧
    exec (.laneMax i d a b) s = done (if x.toInt ≤ y.toInt then y else x) false false ∧
    exec (.laneAbs i d a) s = done (fit (max x.toInt (-x.toInt))) false (decide (x.toInt = -32768)) ∧
    exec (.laneNeg i d a) s = done (fit (-x.toInt)) false (decide (x.toInt = -32768)) ∧
    exec (.laneMov i d a) s = done x false false ∧
    exec (.laneCmp i a b) s = flags (x - y) (beyond 16 (x.toInt - y.toInt)) ∧
    exec (.laneClrs i) s = .next (laneOn n (u.put LN_STAT_S 0 n)) ∧
    exec (.laneAddi i d a imm) s = done (x + imm) (beyond 16 (x.toInt + imm.toInt)) false ∧
    exec (.laneLdi i d imm) s = .next (laneOn n (u.mapLane n (fun l => l.setReg d imm))) ∧
    exec (.laneAndi i d a imm) s = done (x &&& imm) false false ∧
    exec (.laneCmpi i a imm) s = flags (x - imm) (beyond 16 (x.toInt - imm.toInt)) ∧
    (∀ amt : Fin 16, exec (.laneShi i d a 0 amt) s = done (x <<< amt.val) false false ∧
      exec (.laneShi i d a 1 amt) s = done (x >>> amt.val) false false ∧
      exec (.laneShi i d a 2 amt) s = done (x.sshiftRight amt.val) false false ∧
      exec (.laneShi i d a 3 amt) s = .next (laneFault n 0x01 u))

/-- R356, R357, R366 to R369, R379, Table LANE-2: data memory, pointers and block transfers of a lane. A pointer advance
stays in its circular range; a word written is read back and every other word keeps its value; LD, ST and PSET; FLD and
FST start their transfer or fault without it; its end moves 64 bytes, or moves none and sets ERR. -/
def Obligations.LaneMemoryAndTransfers : Prop :=
  (∀ (l : Lane) (p : Fin 4) (d : Int),
    (∀ q : Fin 4, q ≠ p → (l.advance p d).p[q] = l.p[q]) ∧
    (l.len[p] = 0 → ((l.advance p d).p[p] : Int) = (l.p[p] + d) % 4096) ∧
    (l.base[p] ≤ l.p[p] → l.p[p] < l.base[p] + l.len[p] → l.base[p] + l.len[p] ≤ 4096 → -(l.len[p] : Int) ≤ d → d ≤ l.len[p] →
      let r := (l.advance p d).p[p];
      l.base[p] ≤ r ∧ r < l.base[p] + l.len[p] ∧ ∃ k : Int, (r : Int) = l.p[p] + d + k * l.len[p])) ∧
  (∀ (l : Lane) (a b : Nat) (x : Half), cellsWf (fun _ => (0 : Half)) l.dm = true →
    (l.setWord a x).word b = if a % 4096 = b % 4096 then x else l.word b) ∧
  (∀ (i : LIssue) (d : Fin 32) (p w : Fin 4) (off imm : BitVec 12) (blk : BitVec 16) (up : Upset) (s u : State), s.LaneExecutes i u →
    let n := i.lane.val
    let v := if up = .single then u.countUp LN_ERR_CEDM n else u
    let at_ := (u.lane n).p[p]
    let far := fun l : Lane => l.p[p] + off.toNat
    let on := fun t => (.next (laneOn n t) : Host.Outcome State Fault Refusal)
    let open_ := u.flag LN_FWSTAT_BUSY n w.val = false ∧ u.flag LN_FWBASE_EN n w.val = true
    let inside := blk.toNat ≤ u.get LN_FWSIZE_NBLK n w.val;
    let start := fun (store : Bool) (data : Nat) (t : State) => on ((t.put LN_FWSTAT_BUSY 1 n w.val).mapLane n (fun l =>
      { l with xfer := l.xfer.set w (some ⟨store, t.get LN_FWBASE_BASE n w.val * 64 + blk.toNat * 64, at_, data, t.laneOwner n⟩) }))
    (up ≠ .double → exec (.laneLd i d p false off up) s = on (v.mapLane n (fun l => l.setReg d (l.word (far l)))) ∧
      exec (.laneLd i d p true 0 up) s = on (v.mapLane n (fun l => (l.setReg d (l.word l.p[p])).advance p 1))) ∧
    exec (.laneSt i d p false off) s = on (u.mapLane n (fun l => l.setWord (far l) (l.reg d))) ∧
    exec (.laneSt i d p true 0) s = on (u.mapLane n (fun l => (l.setWord l.p[p] (l.reg d)).advance p 1)) ∧
    exec (.psetBase i p imm) s = on (u.mapLane n (fun l => { l with p := l.p.set p imm.toNat, base := l.base.set p imm.toNat })) ∧
    exec (.psetLength i p imm) s = on (u.mapLane n (fun l => { l with len := l.len.set p imm.toNat })) ∧
    exec (.psetAdvance i p imm) s = on (u.mapLane n (fun l => l.advance p imm.toInt)) ∧
    (open_ → at_ % 32 = 0 → inside → exec (.fld i w p blk) s = start false 0 u ∧
      (up ≠ .double → exec (.fst i w p blk up) s = start true ((u.lane n).block at_) v) ∧
      exec (.fst i w p blk .double) s = .next (laneFault n 0x03 u)) ∧
    (∀ c : Instr, c = .fld i w p blk ∨ c = .fst i w p blk up → (¬ open_ → exec c s = .next (laneFault n 0x06 u)) ∧
      (open_ → at_ % 32 ≠ 0 → exec c s = .next (laneFault n 0x07 u)) ∧
      (open_ → at_ % 32 = 0 → ¬ inside → exec c s = .next (laneFault n 0x0A u)))) ∧
  (∀ (n : LaneId) (w : Fin 4) (r : Answer) (up : Upset) (s : State) (x : Transfer), (s.lane n.val).xfer[w] = some x →
    s.targetDown (0x60 + n.val) = false → s.targetDown (0x58 + n.val / 16) = false →
    (∃ l, checkSeat x.seat x.pa (if x.store then .write else .read) s = .ok l) → s.memGate x.seat x.pa = .ok →
    let t := memUpset x.pa false up s
    ((r = .error ∨ isDevice x.pa = true) → exec (.laneTransferComplete n w r up) s = .next (transferEnds n.val w true false s)) ∧
    (r ≠ .error → isDevice x.pa = false → (x.store = true → s.fenced x.pa 64 = false → exec (.laneTransferComplete n w r up) s =
        .next (transferEnds n.val w false false ((breakReservations none (x.pa / 64) s).writeMem x.pa 64 x.data))) ∧
      (x.store = false → t.poisoned x.pa 64 = false → exec (.laneTransferComplete n w r up) s =
        .next (transferEnds n.val w false false (t.mapLane n.val (fun l => l.setBlock x.at_ (t.readMem x.pa 64))))) ∧
      (x.store = false → t.poisoned x.pa 64 = true → exec (.laneTransferComplete n w r up) s =
        .next (transferEnds n.val w true true t))))

/-- R355, R357, Table LANE-2: the accumulators of a lane. Each takes its exact value, limited to 40 bits, and sets S where the
value was limited; RND and ACX limit what they write to registers; ACCLP clamps to ±|Va| × 2^15, and sets S where the value
changes (log 35); MACP takes two products of data memory and advances its pointers, a pointer named twice once. -/
def Obligations.LaneAccumulators : Prop :=
  ∀ (i : LIssue) (c e p q : Fin 4) (a b x y sh : Fin 32) (s u : State), s.LaneExecutes i u →
    let n := i.lane.val
    let l := u.lane n
    let acc := l.accI
    let on := fun (l' : Lane) (sat : Bool) =>
      (.next (laneOn n ((u.mapLane n (fun _ => l')).sticky n sat)) : Host.Outcome State Fault Refusal)
    let put := fun (z : Int) => on { l with ac := l.ac.set c (BitVec.ofInt 40 (clamp 40 z)) } (beyond 40 z)
    let ab := l.regI a * l.regI b
    let xy := l.regI x * l.regI y
    exec (.dmac i 0 c a b x y) s = put (acc c + ab + xy) ∧
    exec (.dmac i 1 c a b x y) s = put (ab + xy) ∧
    exec (.dmac i 2 c a b x y) s = put (acc c - (ab + xy)) ∧
    exec (.dmac i 3 c a b x y) s = put (acc c + ab - xy) ∧
    exec (.acld i c a sh) s = put (l.regI a * 2 ^ sh.val) ∧
    exec (.acopClr i c) s = put 0 ∧ exec (.acopMov i c e) s = put (acc e) ∧ exec (.acopAdd i c e) s = put (acc c + acc e) ∧
    exec (.acopSub i c e) s = put (acc c - acc e) ∧ exec (.acopNeg i c e) s = put (-acc e) ∧
    (let z := (acc c + (if sh = 0 then 0 else 2 ^ (sh.val - 1))) / 2 ^ sh.val;
      exec (.rnd i a c sh) s = on (l.setReg a (BitVec.ofInt 16 (clamp 16 z))) (beyond 16 z)) ∧
    (let z := acc c / 2 ^ sh.val;
      let w := BitVec.ofInt 32 (clamp 32 z);
      (a ≠ b → exec (.acx i a c b sh) s = on ((l.setReg a (w.extractLsb' 16 16)).setReg b (w.extractLsb' 0 16)) (beyond 32 z)) ∧
      (a = b → exec (.acx i a c b sh) s = .next (laneFault n 0x01 u))) ∧
    (let lim : Int := |l.regI a| * 2 ^ 15;
      let z := min (max (acc c) (-lim)) lim;
      exec (.acclp i c a) s = on { l with ac := l.ac.set c (BitVec.ofInt 40 z) } (decide (z ≠ acc c))) ∧
    (let even := fun k : Fin 4 => l.p[k] % 2 = 0 ∧ (l.len[k] ≠ 0 → l.base[k] % 2 = 0 ∧ l.len[k] % 2 = 0);
      let z := acc c + l.wordI l.p[p] * l.wordI l.p[q] + l.wordI (l.p[p] + 1) * l.wordI (l.p[q] + 1);
      let l' := ({ l with ac := l.ac.set c (BitVec.ofInt 40 (clamp 40 z)) }).advance p 2;
      (even p → even q → exec (.macp i c p q .none) s = on (if p = q then l' else l'.advance q 2) (beyond 40 z) ∧
        exec (.macp i c p q .double) s = .next (laneFault n 0x03 u)) ∧
      (¬ (even p ∧ even q) → ∀ up, exec (.macp i c p q up) s = .next (laneFault n 0x07 u)))

/-- R360 to R365: the converter port, the exchange words and the mailboxes. SDIRD and SDIST read a channel of the lane's
owner, HRPW stages a field, HRPC commits what was staged before its lane cycle; another seat's channel or pair is a
recorded violation and fault 0x08, and a number that names none is illegal. Of two lanes that meet in one lane cycle the
higher one's value stands and the collision is shown; an XRD in the cycle of an XWR returns the old value. -/
def Obligations.LaneConverterPort : Prop :=
  (∀ (i : LIssue) (d a b : Fin 32) (s u : State), s.LaneExecutes i u →
    let n := i.lane.val
    let g := n / 16
    let on := fun t => (.next (laneOn n t) : Host.Outcome State Fault Refusal)
    let set := fun v : Nat => on (u.mapLane n (fun l => l.setReg d (BitVec.ofNat 16 v)))
    let bad := fun (w : Bool) (addr : Nat) => (.next (laneFault n 0x08 (seatViolation (u.laneOwner n) w addr u)) :
      Host.Outcome State Fault Refusal);
    (∀ ch : Fin 64, (48 ≤ ch.val → exec (.sdird i d ch) s = .next (laneFault n 0x01 u) ∧
        exec (.sdist i d ch) s = .next (laneFault n 0x01 u)) ∧
      (ch.val < 48 → u.sdiOwner ch.val ≠ u.laneOwner n → exec (.sdird i d ch) s = bad false (SDI_CTL.addr ch.val 0) ∧
        exec (.sdist i d ch) s = bad false (SDI_CTL.addr ch.val 0)) ∧
      (ch.val < 48 → u.sdiOwner ch.val = u.laneOwner n →
        exec (.sdird i d ch) s = on (u.mapLane n (fun l =>
          { l.setReg d (BitVec.ofNat 16 (u.get SDI_RES_VALUE ch.val)) with unread := l.unread &&& ~~~(1#48 <<< ch.val) })) ∧
        exec (.sdist i d ch) s = set (bit ((u.lane n).unread.getLsbD ch.val) + 2 * u.get SDI_STAT_TRIP ch.val +
          4 * bit (u.sdiSat.getLsbD ch.val) + 8 * u.get SDI_STAT_BSERR ch.val))) ∧
    (∀ (pr : Fin 32) (fld : Fin 8), (24 ≤ pr.val ∨ 4 ≤ fld.val → exec (.hrpw i pr fld a b) s = .next (laneFault n 0x01 u)) ∧
      (pr.val < 24 → fld.val < 4 → let v := ((u.lane n).reg a).toNat * 2 ^ 16 + ((u.lane n).reg b).toNat
        let old := ((u.pair pr.val).stage.find? (fun e => e.fld == fld.val)).map (fun e => (e.value, e.lane));
        (u.hrpOwner pr.val ≠ u.laneOwner n → exec (.hrpw i pr fld a b) s = bad true (HRP_CTL.addr pr.val 0)) ∧
        (u.hrpOwner pr.val = u.laneOwner n →
          (u.laneDeeds = [] → exec (.hrpw i pr fld a b) s =
            on { stagePut pr.val fld.val (v, n) u with laneDeeds := [.stage n pr.val fld.val old] }) ∧
          (∀ (m : Nat) o, m ≠ n → u.laneDeeds = [.stage m pr.val fld.val o] →
            let t := u.put LG_STAT_HCOLL 1 (max m n / 16);
            (n < m → exec (.hrpw i pr fld a b) s = on t) ∧ (m < n → exec (.hrpw i pr fld a b) s =
              on { stagePut pr.val fld.val (v, n) t with laneDeeds := t.laneDeeds ++ [.stage n pr.val fld.val old] }))))) ∧
    (∀ mask : BitVec 24, let ps := (List.range 24).filter (fun p => mask.getLsbD p)
      ((∀ p ∈ ps, u.hrpOwner p = u.laneOwner n) → exec (.hrpc i mask) s = on (u.each ps (commitPair n))) ∧
      (∀ p ∈ ps, u.hrpOwner p ≠ u.laneOwner n → (∀ q ∈ ps, q < p → u.hrpOwner q = u.laneOwner n) →
        exec (.hrpc i mask) s = bad true (HRP_CTL.addr p 0))) ∧
    (∀ x : Fin 64, let w := u.get LG_XW_VALUE g x.val
      let put := fun t : State => t.put LG_XW_VALUE ((u.lane n).reg a).toNat g x.val;
      (u.laneDeeds = [] → exec (.xrd i d x) s = set w ∧ exec (.xwr i a x) s = on (put { u with laneDeeds := [.xw n g x.val w] })) ∧
      (∀ m o, m ≠ n → u.laneDeeds = [.xw m g x.val o] → exec (.xrd i d x) s = set o ∧
        (let t := u.put LG_STAT_XCOLL 1 g;
         let t := { t with laneDeeds := t.laneDeeds ++ [.xw n g x.val (t.get LG_XW_VALUE g x.val)] }
         (n < m → exec (.xwr i a x) s = on t) ∧
         (m < n → exec (.xwr i a x) s = on (t.put LG_XW_VALUE ((t.lane n).reg a).toNat g x.val))))) ∧
    (∀ x : Fin 4, exec (.mbrd i d x) s = set (u.get LN_MBIN_VALUE n x.val) ∧
      exec (.mbwr i a x) s = on (u.put LN_MBOUT_VALUE ((u.lane n).reg a).toNat n x.val))) ∧
  (∀ (n p : Nat) (u : State), p < 24 →
    let staged := fun f => ((u.pair p).stage.find? (fun e => e.fld == f)).map (fun e => (f, e.value))
    let c := [0, 1, 2, 3].filterMap staged;
    (u.laneDeeds = [] → commitPair n p u = { u.mapPair p (fun h => { h with stage := [], flight := if c = [] then h.flight
      else h.flight ++ [c] }) with laneDeeds := [.commit n p] }) ∧
    (∀ m, u.laneDeeds = [.commit m p] → commitPair n p u = u.put LG_STAT_HCOLL 1 (max m n / 16)) ∧
    (∀ m f, m ≠ n → f < 4 → u.laneDeeds = [.stage m p f none] →
      ((commitPair n p u).pair p).stage = (u.pair p).stage.filter (fun e => e.fld == f) ∧
      ((commitPair n p u).pair p).flight = (u.pair p).flight ++
        (if [0, 1, 2, 3].filterMap (fun k => if k = f then none else staged k) = [] then []
         else [[0, 1, 2, 3].filterMap (fun k => if k = f then none else staged k)])))

/-- R358, R359, R371, R375, R376, Table LANE-4: the control flow of a lane. After the last instruction of a loop's body its
first one follows while iterations remain; a taken B leaves a loop that does not hold its target; CALL and RET use the four
entries of the return stack; LOOP counts from its field or from the five low bits of Vcnt (log 36); WAITE, SIG and HALT. -/
def Obligations.LaneControlFlow : Prop :=
  (∀ (l : Lane) (pc : Nat) (first last left : Nat), l.loop = some ⟨first, last, left⟩ →
    (pc ≠ last → laneSucc l pc = ((pc + 1) % 4096, l.loop)) ∧
    (pc = last → laneSucc l pc = if 1 < left then (first, some ⟨first, last, left - 1⟩) else ((pc + 1) % 4096, none))) ∧
  (∀ (l : Lane) (pc : Nat), l.loop = none → laneSucc l pc = ((pc + 1) % 4096, none)) ∧
  (∀ (i : LIssue) (cond : Fin 16) (tgt last cnt : BitVec 12) (code : BitVec 16) (s u : State), s.LaneExecutes i u →
    let n := i.lane.val
    let l := u.lane n
    let pc := u.get LN_PC_PC n
    let next := laneSucc l pc
    -- the lane at `t`, with what its loop, return stack and latch become
    let at_ := fun (t : Nat) (lp : Option LaneLoop) (ret : List Nat) (latched : Bool) (v : State) =>
      (.next ((v.put LN_PC_PC t n).mapLane n (fun l => { l with loop := lp, ret := ret, latched := latched, stepping := false })) :
        Host.Outcome State Fault Refusal)
    (laneCond n cond u = false → exec (.laneB i cond tgt) s = .next (laneOn n u)) ∧
    (laneCond n cond u = true → exec (.laneB i cond tgt) s = at_ tgt.toNat
      (next.2.filter (fun lp => decide (lp.first ≤ tgt.toNat) && decide (tgt.toNat ≤ lp.last))) l.ret l.latched u) ∧
    (l.ret.length < 4 → exec (.laneCall i tgt) s = at_ tgt.toNat next.2 (next.1 :: l.ret) l.latched u) ∧
    (4 ≤ l.ret.length → exec (.laneCall i tgt) s = .next (laneFault n 0x04 u)) ∧
    (∀ t rest, l.ret = t :: rest → exec (.laneRet i) s = at_ t next.2 rest l.latched u) ∧
    (l.ret = [] → exec (.laneRet i) s = .next (laneFault n 0x04 u)) ∧
    (∀ m : Bool, let pc := s.get LN_PC_PC n
      let legal := pc < last.toNat ∧ (m = true → cnt.toNat < 32)
      let c := if m then (l.reg (Fin.ofNat 32 cnt.toNat)).toNat % 32 else cnt.toNat;
      (¬ legal → exec (.loop i m last cnt) s = .next (laneFault n 0x01 u)) ∧
      (legal → l.loop ≠ none → exec (.loop i m last cnt) s = .next (laneFault n 0x05 u)) ∧
      (legal → l.loop = none → c ≠ 0 → exec (.loop i m last cnt) s = at_ (pc + 1) (some ⟨pc + 1, last.toNat, c⟩) l.ret l.latched u) ∧
      (legal → l.loop = none → c = 0 → exec (.loop i m last cnt) s = at_ ((last.toNat + 1) % 4096) none l.ret l.latched u)) ∧
    (l.latched = true → exec (.waite i) s = .next (laneOn n (u.mapLane n (fun l => { l with latched := false })))) ∧
    (l.latched = false → exec (.waite i) s = .next ((if u.laneState n = lsHalted then u else u.put LN_STAT_WAIT 1 n).mapLane n
      (fun l => { l with stepping := false }))) ∧
    exec (.sig i code) s = .next (laneOn n (laneSource n ((u.put LN_SIGCODE_CODE code.toNat n).put LN_STAT_SIGP 1 n))) ∧
    exec (.laneHalt i) s = .next ((laneSource n ((laneLeaves n lsHalted (laneNext n u)).put LN_STAT_DONE 1 n)).mapLane n
      (fun l => { l with stepping := false })))

/-- R354, R375, R378, R379, Tables LANE-5 and LANE-7: what stops a lane, over every lane instruction. One that its lane does
not execute changes nothing; an illegal word is fault 0x01, an uncorrectable one 0x02, with no other effect; a fault leaves
FCODE and FPC, reports fault 0x10, and with GFSTOP stops the group's running lanes with code 0x0C. -/
def Obligations.LaneFaults : Prop :=
  (∀ (c : Instr) (i : LIssue) (s : State), c.laneIssue? = some i →
    (s.laneMay i.lane.val = false → exec c s = .next s) ∧
    (s.laneMay i.lane.val = true → (i.pm = .double → exec c s = .next (laneFault i.lane.val 0x02 (laneCycle i s))) ∧
      (i.pm = .none → i.junk = true → exec c s = .next (laneFault i.lane.val 0x01 (laneCycle i s))) ∧
      (i.pm = .single → i.junk = true → exec c s =
        .next (laneFault i.lane.val 0x01 ((laneCycle i s).countUp LN_ERR_CEPM i.lane.val))))) ∧
  (∀ (n code : Nat) (s : State), let t := laneLeaves n lsFault s
    laneFault n code s = groupFaultStop n (reportFault 0x10 (s.laneOwner n) n code
      (laneSource n ((t.put LN_STAT_FCODE code n).put LN_STAT_FPC (t.get LN_PC_PC n) n)))) ∧
  (∀ (n : LaneId) (s : State), (s.flag LG_CTL_GFSTOP (n.val / 16) = false → groupFaultStop n.val s = s) ∧
    (s.flag LG_CTL_GFSTOP (n.val / 16) = true → groupFaultStop n.val s =
      s.each ((List.range 16).map (· + 16 * (n.val / 16))) (fun m t =>
        if m ∉ s.lanePair n.val ∧ t.laneState m = lsRunning then laneStops m 0x0C t else t))) ∧
  (∀ (k : Fin 32) (s : State), s.lanePairLocked k.val = true → s.laneState (2 * k.val) = lsRunning →
    exec (.lanePairMismatch k) s = .next (reportFault 0x02 (s.laneOwner (2 * k.val)) k.val 0
      (groupFaultStop (2 * k.val) (laneStops (2 * k.val) 0x0B s))))

/-- R375 to R377, R379 to R382, Table LANE-5: supervision of one lane by its owner or Welfen; another seat gets an error. RUN
asks Toll Gate; HALT, STEP and CLRF move between the states; ENTRY loads LN.PC of a stopped lane and empties its return
stack, loop and latch; program memory is written only while the lane is stopped; a CRC pass ends in LN.PMCRC. -/
def Obligations.LaneSupervision : Prop :=
  (∀ (by_ : Seat) (n : LaneId) (a : BitVec 12) (v : Word32) (s : State), s.laneTrails n.val = false → (by_ = 0 ∨ by_.val = s.laneOwner n.val) →
    let st := s.laneState n.val
    let ok := fun t : State => (.next (t.answer (.ok 0)) : Host.Outcome State Fault Refusal)
    let fresh := fun t : State => (t.put LN_PC_PC (t.get LN_ENTRY_ADDR n.val) n.val).mapLane n.val (fun l =>
      { l with ret := [], loop := none, latched := false })
    let stopped := st = lsHalted ∨ st = lsFault
    let e := s.put LN_ENTRY_ADDR (v.toNat % 4096) n.val
    let k := s.put LN_CRCLEN_N (v.toNat % 8192) n.val;
    ((s.groups[n.val / 16]!).load = none → exec (.lnRun by_ n) s = ok (startLanes [n.val] s)) ∧
    (∀ l, (s.groups[n.val / 16]!).load = some l → n.val ∈ l.lanes → exec (.lnRun by_ n) s =
      ok { s with groups := s.groups.set! (n.val / 16) { s.groups[n.val / 16]! with held := (s.groups[n.val / 16]!).held ++ [[n.val]] } }) ∧
    (exec (.lnHaltRequest by_ n) s = ok (if st = lsRunning ∨ st = lsStarting then laneLeaves n.val lsHalted s else s)) ∧
    (exec (.lnStep by_ n) s = ok (if st = lsHalted then s.mapLane n.val (fun l => { l with stepping := true }) else s)) ∧
    (exec (.lnClrf by_ n) s = ok (if st = lsFault then
      fresh (((s.put LN_STAT_STATE lsHalted n.val).put LN_STAT_FCODE 0 n.val).put LN_STAT_FPC 0 n.val) else s)) ∧
    (exec (.lnEntryWrite by_ n v) s = ok (if e.laneStopped n.val then fresh e else e)) ∧
    ((s.lane n.val).zeroing = false → (stopped → exec (.lnProgramWrite by_ n a v) s = ok (s.setPmWord n.val a.toNat v)) ∧
      (¬ stopped → exec (.lnProgramWrite by_ n a v) s = ok (s.put LN_STAT_PMWERR 1 n.val))) ∧
    (v.toNat % 8192 ≠ 0 → exec (.lnCrclenWrite by_ n v) s = ok (k.put LN_CRCLEN_BUSY 1 n.val)) ∧
    (v.toNat % 8192 = 0 → exec (.lnCrclenWrite by_ n v) s = ok k)) ∧
  (∀ (by_ : Seat) (n : LaneId) (v : Word32) (s : State), by_ ≠ 0 → by_.val ≠ s.laneOwner n.val →
    ∀ c : Instr, c ∈ [.lnRun by_ n, .lnHaltRequest by_ n, .lnStep by_ n, .lnClrf by_ n, .lnEntryWrite by_ n v, .lnCrclenWrite by_ n v] →
      exec c s = .next (s.answer .error)) ∧
  (∀ (n : Nat) (s : State), let ls := s.lanePair n
    s.laneState n = lsHalted → s.laneTrails n = false →
    (s.laneOwner n ≠ 0 → (ls.map (fun m => tokenCost (.lane m))).sum + s.shareHeld (s.laneOwner n) ≤ s.share (s.laneOwner n) →
      startLanes [n] s = State.put { s with tokenQueue := s.tokenQueue ++
        [⟨ls.map .lane, s.laneOwner n, (ls.map (fun m => tokenCost (.lane m))).sum, true⟩] } LN_STAT_STATE lsStarting n)) ∧
  (∀ (n : LaneId) (s : State) (q : TokenWait), s.laneState n.val = lsStarting →
    s.tokenQueue.find? (fun q => q.who.contains (.lane n.val)) = some q → s.grantable q = true →
    let t := grantRequest q s
    exec (.laneStartGrant n) s = .next (t.each (((List.range 16).map (· + 16 * (n.val / 16))).filter (fun k =>
      t.laneState k == lsStarting && t.holdsTokens (.lane k))) (fun m u => u.put LN_STAT_STATE lsRunning m))) ∧
  (∀ (n : LaneId) (corrected : BitVec 8) (s : State), s.flag LN_CRCLEN_BUSY n.val = true →
    let t := s.put LN_ERR_CEPM (min 255 (s.get LN_ERR_CEPM n.val + corrected.toNat)) n.val
    exec (.lnCrcDone n corrected) s = .next ((t.put LN_PMCRC_CRC (programCrc n.val (min 4096 (t.get LN_CRCLEN_N n.val)) t) n.val).put
      LN_CRCLEN_BUSY 0 n.val)) ∧
  (∀ (n : LaneId) (s : State), exec (.laneMemoryZeroDone n) s = .next (s.mapLane n.val (fun l =>
    if l.zeroing then { l with zeroing := false, pm := [], dm := [] } else l)))

/-- R370 to R373, R378, R381: a lane group, commanded by its owner or Welfen. KICK delivers an event past the divider, a source
event counts in it; an event latches, ends a wait, or overruns; START, STOP, SYNC and LOAD act on the lanes named, and a
load that ends copies its words, reloads LN.PC and computes the CRC. A write by seat 0 counts for the owner (log 37). -/
def Obligations.LaneGroups : Prop :=
  (∀ (by_ : Seat) (g : GroupId) (mask : BitVec 16) (v : Word32) (s : State), (by_ = 0 ∨ by_.val = s.groupOwner g.val) →
    let o := s.groupOwner g.val
    let ok := fun t : State => (.next (t.answer (.ok 0)) : Host.Outcome State Fault Refusal)
    let named := fun m : Nat => ((List.range 16).filter (fun i => m.testBit i)).map (· + 16 * g.val)
    let src := v.toNat / 2 ^ 30
    let num := v.toNat / 2 ^ 16 % 64
    let own := fun seat : Nat => o = 0 ∨ seat = o
    let free := src = 0 ∨ (src = 1 ∧ num < 48 ∧ own (s.sdiOwner num)) ∨ (src = 2 ∧ num < 24 ∧ own (s.hrpOwner num)) ∨
      (src = 3 ∧ num < 32 ∧ own (s.get TBS_CCCTL_OWNER num))
    let t := ((s.put LG_SYNC_SRC src g.val).put LG_SYNC_NUM num g.val).put LG_SYNC_DIV (v.toNat % 256) g.val
    let m := v.toNat / 2 ^ 16
    let ls := (named m).filter (fun n => !s.laneTrails n)
    let busy := s.flag LG_STAT_LDBUSY g.val = true ∨ ∃ n ∈ ls, s.laneStopped n = false;
    exec (.lgKick by_ g) s = ok (deliverEvent g.val s) ∧
    ((s.groups[g.val]!).load = none → exec (.lgStart by_ g mask) s = ok (startLanes (named mask.toNat) s)) ∧
    exec (.lgStop by_ g mask) s = ok (s.each (named mask.toNat) (fun n t => laneHalt (if t.laneTrails n then n - 1 else n) t)) ∧
    (free → exec (.lgSyncWrite by_ g v) s = ok { t with groups := t.groups.set! g.val { t.groups[g.val]! with div := 0 } }) ∧
    (¬ free → exec (.lgSyncWrite by_ g v) s = ok (s.put LG_STAT_SYNCERR 1 g.val)) ∧
    (m = 0 → exec (.lgLoad by_ g v) s = ok s) ∧
    (m ≠ 0 → busy → exec (.lgLoad by_ g v) s = ok (s.put LG_STAT_LDERR 1 g.val)) ∧
    (m ≠ 0 → ¬ busy → let u := s.put LG_STAT_LDBUSY 1 g.val
      exec (.lgLoad by_ g v) s = ok { u with groups := u.groups.set! g.val { u.groups[g.val]! with
        load := some ⟨ls, v.toNat % 4096 + 1, u.get LG_LOADSRC_ADDR g.val * 64, o⟩ } })) ∧
  (∀ (by_ : Seat) (g : GroupId) (mask : BitVec 16) (v : Word32) (s : State), by_ ≠ 0 → by_.val ≠ s.groupOwner g.val →
    ∀ c : Instr, c ∈ [.lgKick by_ g, .lgStart by_ g mask, .lgStop by_ g mask, .lgSyncWrite by_ g v, .lgLoad by_ g v] →
      exec c s = .next (s.answer .error)) ∧
  (∀ (n : Nat) (s : State), s.laneTrails n = false →
    (s.laneState n ≠ lsRunning → eventAtLane n s = s) ∧
    (s.laneState n = lsRunning → (s.flag LN_STAT_WAIT n = true → eventAtLane n s = laneNext n (s.put LN_STAT_WAIT 0 n)) ∧
      (s.flag LN_STAT_WAIT n = false → (s.lane n).latched = false → eventAtLane n s = s.mapLane n (fun l => { l with latched := true })) ∧
      (s.flag LN_STAT_WAIT n = false → (s.lane n).latched = true → let t := s.countUp LN_ERR_EVOVR n
        (t.flag LG_CTL_OVRF (n / 16) = true → eventAtLane n s = laneFault n 0x09 t) ∧
        (t.flag LG_CTL_OVRF (n / 16) = false → eventAtLane n s = t)))) ∧
  (∀ (g : Nat) (s : State), let grp := s.groups[g]!
    (grp.div < s.get LG_SYNC_DIV g → groupEvent g s = { s with groups := s.groups.set! g { grp with div := grp.div + 1 } }) ∧
    (s.get LG_SYNC_DIV g ≤ grp.div → groupEvent g s = deliverEvent g { s with groups := s.groups.set! g { grp with div := 0 } })) ∧
  (∀ (g : GroupId) (s t : State) (l : GroupLoad) (bad : Option (BitVec 12)), (s.groups[g.val]!).load = some l →
    (copyWords l (bad.map (·.toNat)) 256 0 s = (some true, t) →
      let u := (t.put LG_STAT_LDBUSY 0 g.val).each l.lanes (fun m u => crcPass m ((loadEntry m u).put LN_CRCLEN_N l.count m))
      let u := { u with groups := u.groups.set! g.val { u.groups[g.val]! with load := none, held := [] } }
      exec (.lgLoadDone g bad) s = .next ((s.groups[g.val]!).held.foldl (fun t ls => startLanes ls t) u)) ∧
    (copyWords l (bad.map (·.toNat)) 256 0 s = (some false, t) →
      let u := (t.put LG_STAT_LDBUSY 0 g.val).put LG_STAT_LDERR 1 g.val
      let u := { u with groups := u.groups.set! g.val { u.groups[g.val]! with load := none, held := [] } }
      exec (.lgLoadDone g bad) s = .next ((s.groups[g.val]!).held.foldl (fun t ls => startLanes ls t) u)))

/-- R385 to R392: sigma-delta channels. A window of K × R samples gives the scaled, rounded and limited sum, advances SEQ, sets
the lanes' NEW bits and OVR, and is a sync event; N samples beyond a threshold trip the channel, which drives every pair of
TRIPMASK to its safe pattern and reports fault 0x11; a bitstream error is latched once, reported as fault 0x12, and trips
with BSTRIP. Writes: a change of WIN or FORD empties the fast filter; clearing BSERR clears its kind (log 40). -/
def Obligations.SigmaDeltaChannels : Prop :=
  (∀ (w : Nat) (l : List Int) (i : Nat), (movingSums w l)[i]? = if i < l.length then some (((l.drop i).take w).sum) else none) ∧
  (∀ (w : Nat) (l : List Int), cascade w 0 l = l ∧ ∀ k, cascade w (k + 1) l = cascade w k (movingSums w l)) ∧
  (∀ (d : Int) (gain shift : Nat), shift ≤ 47 → sdiScaled d gain shift =
    (d * gain + (if shift = 0 then 0 else 2 ^ (shift - 1))) / 2 ^ shift) ∧
  (∀ (ch : Fin 48) (bits : List Bool) (s : State), let c := ch.val
    s.sdiRuns c = true → bits.length = s.sdiK c * s.sdiR c →
    exec (.sdiResult ch bits) s = .next (deliverResult c
      ((cascade (s.sdiR c) (s.sdiK c) (bits.map (fun b => if b then 1 else -1))).headD 0) (fastValue c bits s))) ∧
  (∀ (ch : Nat) (d : Int) (s : State), let x := sdiScaled d (s.get SDI_SCALE_GAIN ch) (s.get SDI_SCALE_SHIFT ch)
    let one := 1#48 <<< ch
    let t := (s.put SDI_RES_VALUE (BitVec.ofInt 16 (clamp 16 x)).toNat ch).put SDI_RES_SEQ ((s.get SDI_RES_SEQ ch + 1) % 2 ^ 16) ch
    let t := { t with
      sdiSat := if beyond 16 x then t.sdiSat ||| one else t.sdiSat &&& ~~~one
      lanes := t.lanes.map (fun l => { l with unread := l.unread ||| one }) }
    let t := if beyond 16 x then t.put SDI_STAT_OVR 1 ch else t
    deliverResult ch d s = sourceEvent 1 ch (if t.flag SDI_CTL_RIEN ch then raiseSrc (srcSdi ch) t else t)) ∧
  (∀ (ch : Fin 48) (bits : List Bool) (s : State), let c := ch.val
    let vals := cascade (s.ftW c) (s.ftK c) (bits.map (fun b => if b then 1 else -1))
    s.sdiRuns c = true → s.flag SDI_FT_FEN c = true → s.ftW c + s.ftN c ≤ bits.length + 1 →
    (∀ v ∈ vals.take (s.ftN c), (BitVec.ofNat 16 (s.get SDI_FTHR_THI c)).toInt < v ∨ v < (BitVec.ofNat 16 (s.get SDI_FTHR_TLO c)).toInt) →
    exec (.sdiTrip ch bits) s = .next (tripChannel c (s.put SDI_FTVAL_VALUE (BitVec.ofInt 16 (vals.headD 0)).toNat c))) ∧
  (∀ (c : Nat) (s : State), (s.flag SDI_STAT_TRIP c = true → tripChannel c s = s) ∧
    (s.flag SDI_STAT_TRIP c = false → let t := s.put SDI_STAT_TRIP 1 c
      let u := t.each ((List.range 24).filter (fun p => t.bitOf SDI_TRIPMASK_PAIRS p c)) (fun p t =>
        driveSafe p (t.put HRP_STAT_TRIPPED 1 p))
      let v := if u.flag SDI_CTL_EIEN c then raiseSrc (srcSdi c) u else u
      tripChannel c s = reportFault 0x11 (v.sdiOwner c) c 0 v)) ∧
  (∀ (ch : Fin 48) (kind : Fin 4) (s : State), let c := ch.val
    let t := if kind = 2 then s.putBit SDI_GSTAT_CLKERR (s.get SDI_CTL_GEN c) true else s
    let u := (t.put SDI_STAT_BSERR 1 c).put SDI_STAT_BSKIND kind.val c
    let u := if u.flag SDI_CTL_EIEN c then raiseSrc (srcSdi c) u else u
    let u := reportFault 0x12 (u.sdiOwner c) c kind.val u
    s.device = .on → s.flag SDI_CTL_EN c = true →
    (kind = 1 ∧ s.sdiRuns c = true ∧ s.get SDI_BSCHK_STUCK c ≠ 0 ∨ kind = 2 ∧ s.sdiRuns c = true ∨
      kind = 3 ∧ s.flag SDI_MCLK_EN (s.get SDI_CTL_GEN c) = false) →
    (t.flag SDI_STAT_BSERR c = true → exec (.sdiBitstreamError ch kind) s = .next t) ∧
    (t.flag SDI_STAT_BSERR c = false →
      exec (.sdiBitstreamError ch kind) s = .next (if u.flag SDI_FT_BSTRIP c then tripChannel c u else u))) ∧
  (∀ (by_ : Seat) (g : Fin 8) (ch : Fin 48) (v : Word32) (s : State),
    let ok := fun t : State => (.next (t.answer (.ok 0)) : Host.Outcome State Fault Refusal)
    let w := fun (r : RegDef) (i : Nat) => writeFields by_.val r i 0 v.toNat 0xFFFFFFFF s
    let f := w SDI_FT ch.val
    let e := w SDI_STAT ch.val;
    (by_ = 0 → exec (.mclkWrite by_ g v) s = ok (w SDI_MCLK g.val)) ∧
    (by_ = 0 ∨ by_.val = s.sdiOwner ch.val → exec (.sdiCtlWrite by_ ch v) s = ok (w SDI_CTL ch.val) ∧
      exec (.sdiFtWrite by_ ch v) s = ok (if f.get SDI_FT_WIN ch.val = s.get SDI_FT_WIN ch.val ∧
        f.get SDI_FT_FORD ch.val = s.get SDI_FT_FORD ch.val then f else f.put SDI_FTVAL_VALUE 0 ch.val) ∧
      exec (.sdiTripClear by_ ch v) s = ok (if e.flag SDI_STAT_BSERR ch.val then e else e.put SDI_STAT_BSKIND 0 ch.val)) ∧
    (by_ ≠ 0 → exec (.mclkWrite by_ g v) s = .next (s.answer .error)) ∧
    (by_ ≠ 0 → by_.val ≠ s.sdiOwner ch.val → exec (.sdiCtlWrite by_ ch v) s = .next (s.answer .error) ∧
      exec (.sdiFtWrite by_ ch v) s = .next (s.answer .error) ∧ exec (.sdiTripClear by_ ch v) s = .next (s.answer .error)))

/-- R393 to R401, R403, Table CIO-3: PWM pairs. A boundary lands the commits that have arrived, copies the shadow within its
limits unless HOLD, counts for the commit watchdog, raises the sync event and leaves the safe pattern where no cause holds,
or stops the pair after RUN = 0; a start does so without counting; a core write of a shadow field loses to a commit of its
own cycle; TRIPPED stays while a channel that names the pair is tripped; a readback mismatch reports fault 0x13. -/
def Obligations.PwmPairs : Prop :=
  (∀ (duty phase dead period : Nat), let l := limitFields duty phase dead period
    let per := max 960 (min 268435455 period)
    l.1 = (min duty per, (if phase < per then phase else 0), min dead 16320, per) ∧
    (l.2 = true ↔ period < 960 ∨ 268435455 < period ∨ per ≤ phase ∧ phase ≠ 0 ∨ 16320 < dead)) ∧
  (∀ duty phase period t : Nat, phase < period → t < period →
    (hrpCommand duty phase period t = true ↔ ((t : Int) - phase) % period < duty)) ∧
  (∀ (p : Nat) (s : State), (s.flag HRP_CTL_HOLD p = true → shadowTransfer p s = s) ∧
    (s.flag HRP_CTL_HOLD p = false →
      let l := limitFields (s.get HRP_SHD_VALUE p 0) (s.get HRP_SHD_VALUE p 1) (s.get HRP_SHD_VALUE p 2)
        (s.get HRP_SHD_PERIOD_VALUE p)
      let t := (((s.put HRP_ACT_VALUE l.1.1 p 0).put HRP_ACT_VALUE l.1.2.1 p 1).put HRP_ACT_VALUE l.1.2.2.1 p 2).put
        HRP_ACT_PERIOD_VALUE l.1.2.2.2 p
      shadowTransfer p s = if l.2 then t.put HRP_STAT_CLAMP 1 p else t)) ∧
  (∀ (pr : Fin 24) (k : Fin 4) (s : State), let p := pr.val
    s.device = .on → s.flag HRP_STAT_RUNNING p = true →
    let t := shadowTransfer p (landCommits p k.val s)
    let n := t.get HRP_CTL_CWD p
    let reset := fun u : State => u.mapPair p (fun h => { h with updated := false, since := 0 })
    let go := fun u : State => let v := sourceEvent 2 p u
      startSlaves 24 [p] (if v.flag HRP_CTL_RUN p then (if v.safeCause p then v else v.put HRP_STAT_SAFE 0 p)
        else driveSafe p (v.put HRP_STAT_RUNNING 0 p));
    ((t.pair p).updated = true ∨ n = 0 → exec (.hrpBoundary pr k) s = .next (go (reset t))) ∧
    ((t.pair p).updated = false → n ≠ 0 → (t.pair p).since + 1 < n →
      exec (.hrpBoundary pr k) s = .next (go (t.mapPair p (fun h => { h with since := h.since + 1 })))) ∧
    ((t.pair p).updated = false → n ≠ 0 → n ≤ (t.pair p).since + 1 → exec (.hrpBoundary pr k) s =
      .next (go (driveSafe p ((t.put HRP_STAT_CWDEXP 1 p).mapPair p (fun h => { h with since := 0 })))))) ∧
  (∀ (pr : Fin 24) (k : Fin 4) (s : State), let p := pr.val
    let t := landCommits p k.val s
    s.device = .on → s.flag HRP_STAT_RUNNING p = true → s.get HRP_CTL_CWD p ≠ 0 → (t.pair p).updated = false →
    s.get HRP_CTL_CWD p ≤ (t.pair p).since + 1 → exec (.hrpCwdExpiry pr k) s = exec (.hrpBoundary pr k) s) ∧
  (∀ (pr : Fin 24) (s : State), let p := pr.val
    s.device = .on → s.flag HRP_CTL_RUN p = true → s.flag HRP_STAT_RUNNING p = false → s.get HRP_CTL_STSRC p = 0 →
    let t := (sourceEvent 2 p (shadowTransfer p (landCommits p 0 s))).put HRP_STAT_RUNNING 1 p
    let t := t.mapPair p (fun h => { h with updated := false, since := 0 })
    exec (.hrpStart pr) s = .next (startSlaves 24 [p] (if t.safeCause p then t else t.put HRP_STAT_SAFE 0 p))) ∧
  (∀ (by_ : Seat) (pr : Fin 24) (f k : Fin 4) (v : Word32) (same : Bool) (s : State), let p := pr.val
    let t := landCommits p k.val s
    let held := ∃ ch < 48, s.flag SDI_STAT_TRIP ch = true ∧ s.bitOf SDI_TRIPMASK_PAIRS p ch = true
    let w := fun x : Nat => writeFields by_.val HRP_STAT p 0 x 0xFFFFFFFF s;
    (by_ = 0 ∨ by_.val = s.hrpOwner p →
      exec (.hrpShadowWrite by_ pr f v k same) s = .next ((if same then t.put HRP_STAT_WCOLL 1 p
        else (t.put HRP_SHD_VALUE v.toNat p f.val).mapPair p (fun h => { h with updated := true })).answer (.ok 0)) ∧
      (held → exec (.hrpTrippedClear by_ pr v) s = .next ((w (v &&& ~~~(1#32 <<< 29)).toNat).answer (.ok 0))) ∧
      (¬ held → exec (.hrpTrippedClear by_ pr v) s = .next ((w v.toNat).answer (.ok 0)))) ∧
    (by_ ≠ 0 → by_.val ≠ s.hrpOwner p → exec (.hrpShadowWrite by_ pr f v k same) s = .next (s.answer .error) ∧
      exec (.hrpTrippedClear by_ pr v) s = .next (s.answer .error))) ∧
  (∀ (pr : Fin 24) (low : Bool) (s : State), let p := pr.val
    let lvl := s.get (if low then HRP_CTL_SAFEL else HRP_CTL_SAFEH) p
    s.device = .on → s.flag HRP_CTL_RBEN p = true → (s.flag HRP_STAT_SAFE p = false ∨ lvl ≠ 2) →
    let t := if s.flag HRP_STAT_RBERR p then s else (s.put HRP_STAT_RBERR 1 p).put HRP_STAT_RBOUT (bit low) p
    let t := if t.flag HRP_CTL_IEN p then raiseSrc (srcHrp p) t else t
    exec (.hrpReadbackMismatch pr low) s = .next (reportFault 0x13 (t.hrpOwner p) p (bit low) t))

/-- R406, R407, R409, R411 to R416, R419, R420: the interrupt controller. An edge sets PEND of a connected source whose owner's
seat reset does not run; a claim returns the candidate of highest priority, the lowest number among equals, and puts it in
service with its priority; a completion ends only a claim of that source at that target; a write by another seat, or one
that names a target its seat may not, is a violation; SWTRIG raises software sources; a stranded source sets STR once. -/
def Obligations.InterruptController : Prop :=
  (∀ (n : Fin 512) (s : State), exec (.icuEdge n) s = .next (if srcConnected n.val = true ∧
    s.seatResetting (s.srcOwner n.val) = false then s.put ICU_SRC_PEND 1 n.val else s)) ∧
  (∀ (t : Nat) (s : State), s.Canonical →
    (∀ n, s.signalled t = some n → s.candidate n t = true ∧
      ∀ m < 512, s.candidate m t = true → s.get ICU_SRC_PRIO m < s.get ICU_SRC_PRIO n ∨
        s.get ICU_SRC_PRIO m = s.get ICU_SRC_PRIO n ∧ n ≤ m) ∧
    (s.signalled t = none → ∀ m < 512, s.candidate m t = false)) ∧
  (∀ (n t : Nat) (s : State), s.candidate n t = true ↔ (s.flag ICU_SRC_PEND n = true ∧ s.flag ICU_SRC_EN n = true ∧
    s.get ICU_SRC_TGT n = t ∧ s.get ICU_TCTL_THR t ≤ s.get ICU_SRC_PRIO n ∧
    (∀ q < 16, s.bitOf ICU_TSTAT_INSVC q t = true → q < s.get ICU_SRC_PRIO n) ∧ (∀ e ∈ s.inSvc, ¬ (e.src = n ∧ e.tgt = t)) ∧
    (t = 32 ∨ s.srcOwner n = s.seatOf t))) ∧
  (∀ (t : Fin 33) (id : BitVec 10) (s : State), s.trailing t.val = false →
    let n := id.toNat
    (s.signalled t.val = none → exec (.icuClaim t) s = .next (s.answer (.ok 0x3FF))) ∧
    (∀ n, s.signalled t.val = some n → let p := s.get ICU_SRC_PRIO n
      let u := ((s.put ICU_SRC_PEND 0 n).put ICU_SRC_ACT 1 n).putBit ICU_TSTAT_INSVC p true t.val
      exec (.icuClaim t) s = .next (State.answer { u with inSvc := u.inSvc ++ [⟨n, t.val, p⟩] } (.ok (BitVec.ofNat 64 (p * 2 ^ 16 + n))))) ∧
    (n = 0x3FF → exec (.icuComplete t id) s = .next (s.answer (.ok 0))) ∧
    (n ≠ 0x3FF → (∀ e ∈ s.inSvc, ¬ (e.src = n ∧ e.tgt = t.val)) →
      exec (.icuComplete t id) s = .next ((s.put ICU_TSTAT_CERR 1 t.val).answer (.ok 0))) ∧
    (∀ e, n ≠ 0x3FF → s.inSvc.find? (fun e => e.src == n && e.tgt == t.val) = some e →
      let u := State.putBit { s with inSvc := s.inSvc.filter (fun x => !(x.src == n && x.tgt == t.val)) } ICU_TSTAT_INSVC e.prio false t.val
      ((∃ x ∈ u.inSvc, x.src = n) → exec (.icuComplete t id) s = .next (u.answer (.ok 0))) ∧
      ((∀ x ∈ u.inSvc, x.src ≠ n) → exec (.icuComplete t id) s = .next ((u.put ICU_SRC_ACT 0 n).answer (.ok 0))))) ∧
  (∀ (by_ : Seat) (src : Fin 512) (v : Word32) (s : State), let n := src.val
    let tgt := v.toNat % 64
    let named := by_ = 0 ∨ tgt < 32 ∧ (s.coreOwner tgt = by_.val ∨ s.sharesCore by_.val tgt = true)
    let bad := (.next ((seatViolation by_.val true (ICU_SRC.addr n 0) s).answer .error) : Host.Outcome State Fault Refusal)
    let t := if v.getLsbD 31 then s.put ICU_SRC_PEND 0 n else s
    let t := if v.getLsbD 29 then t.put ICU_SRC_STR 0 n else t
    let t := (t.put ICU_SRC_EN (bit (v.getLsbD 24)) n).put ICU_SRC_PRIO (v.toNat / 2 ^ 16 % 16) n;
    (by_ ≠ 0 → s.srcOwner n ≠ by_.val → exec (.icuSrcWrite by_ src v) s = bad) ∧
    (by_ ≠ 0 → ¬ named → exec (.icuSrcWrite by_ src v) s = bad) ∧
    ((by_ = 0 ∨ s.srcOwner n = by_.val) → named → t.seatChecking = false →
      (tgt < 32 → exec (.icuSrcWrite by_ src v) s = .next ((noteWithdrawn s (t.put ICU_SRC_TGT (t.leadOf tgt) n)).answer (.ok 0))) ∧
      (tgt = 32 → exec (.icuSrcWrite by_ src v) s = .next ((noteWithdrawn s (t.put ICU_SRC_TGT 32 n)).answer (.ok 0))) ∧
      (32 < tgt → exec (.icuSrcWrite by_ src v) s = .next ((noteWithdrawn s t).answer (.ok 0))))) ∧
  (∀ (by_ : Seat) (v : Word32) (s : State), let n := v.toNat % 512
    (n < 448 → exec (.icuSwtrig by_ v) s = .next (s.answer (.ok 0))) ∧
    (448 ≤ n → by_ = 0 ∨ s.srcOwner n = by_.val → exec (.icuSwtrig by_ v) s = .next ((raiseSrc n s).answer (.ok 0))) ∧
    (448 ≤ n → by_ ≠ 0 → s.srcOwner n ≠ by_.val →
      exec (.icuSwtrig by_ v) s = .next ((seatViolation by_.val true ICU_SWTRIG.base s).answer .error))) ∧
  (∀ (src : Fin 512) (s : State), let n := src.val
    let tgt := s.get ICU_SRC_TGT n
    s.wouldSignal n tgt = true → s.unreachable tgt = true → s.flag ICU_SRC_STR n = false →
    let t := noteSeat 0x0F03 (s.srcOwner n) [BitVec.ofNat 8 n, BitVec.ofNat 8 (n / 256)] (s.put ICU_SRC_STR 1 n)
    (t.flag ICU_STAT_STREV = true → exec (.icuStrandedTimeout src) s = .next t) ∧
    (t.flag ICU_STAT_STREV = false → exec (.icuStrandedTimeout src) s =
      .next (raiseSrc 218 ((t.put ICU_STAT_FIRST n).put ICU_STAT_STREV 1))))

/-- R422 to R431, Tables SFI-1 and SFI-2: decisions of the fault collection unit. The reaction comes from the table or from the
owner seat's policy, LOG acting as SAFE in classes 0 to 2; faults of one cycle are decided in ascending code order, and a
disagreement of the channels adds fault 0x28; a seat safe state stops that seat's cores and no other seat's; each fault is
logged with its reaction and time, or counted as lost; codes 0x22 and 0x23 stop the service processor. -/
def Obligations.FaultDecisions : Prop :=
  (∀ (f : FaultLine) (s : State), f.test = false →
    (f.code = 0x09 ∨ 0x20 ≤ f.code ∧ f.code ≤ 0x29 → s.reactionOf f = 3) ∧
    (¬ (f.code = 0x09 ∨ 0x20 ≤ f.code ∧ f.code ≤ 0x29) → (f.seat = 0 → s.reactionOf f = 0) ∧
      (f.seat ≠ 0 → f.code = 0x18 → s.reactionOf f = 1) ∧
      (f.seat ≠ 0 → ∀ c, faultClass f.code = some c → let r := s.reg SFI_POL f.seat / 2 ^ (2 * c) % 4
        (f.code ≠ 0x18) ∧ s.reactionOf f = if c ≤ 2 ∧ r = 0 then 1 else r))) ∧
  (∀ (l : List FaultLine), let m := l.foldl (fun l f => faultInsert f l) []
    m.Perm l ∧ m.Pairwise (fun f g => f.code ≤ g.code)) ∧
  (∀ (n : Nat) (s : State), let t := { s with faults := s.faults.drop n }
    s.faults.take n ≠ [] → exec (.fcuDecision n true) s = .next (decideFaults (s.faults.take n) t) ∧
      exec (.fcuDecision n false) s = .next (decideFaults (s.faults.take n ++ [⟨0x28, 0, 0, 0, false, false⟩]) t)) ∧
  (∀ (f : FaultLine) (s : State), f.test = false → f.code ≠ 0x22 → f.code ≠ 0x23 →
    let r := s.reactionOf f
    (r = 3 → s.flag SFI_STAT_DSAFE = false → decideFaults [f] s = raiseSrc 220 (accountFault f 3 (enterDeviceSafe f.code s))) ∧
    (r = 3 → s.flag SFI_STAT_DSAFE = true → decideFaults [f] s = raiseSrc 220 (accountFault f 3 s)) ∧
    ((r = 1 ∨ r = 2) → 1 ≤ f.seat → f.seat ≤ 15 → s.flag SFI_STAT_DSAFE = false → s.seatSafe f.seat = false →
      decideFaults [f] s = raiseSrc 220 (accountFault f r (enterSeatSafe f.seat s))) ∧
    (r < 3 → (r = 0 ∨ s.flag SFI_STAT_DSAFE = true ∨ s.seatSafe f.seat = true) →
      decideFaults [f] s = raiseSrc 220 (accountFault f 0 s))) ∧
  (∀ (f : FaultLine) (s : State), f.test = false → (f.code = 0x22 ∨ f.code = 0x23) → s.flag SFI_STAT_DSAFE = false →
    let t := (accountFault f 3 (enterDeviceSafe f.code s)).put SFI_STAT_SVPSTOP 1
    decideFaults [f] s = raiseSrc 220 { t with svp := .held }) ∧
  (∀ (seat : Nat) (s : State) (k : CoreId), 1 ≤ seat → seat ≤ 15 → let t := enterSeatSafe seat s
    ((s.core k).seatid = seat → (t.core k).run ≠ .running) ∧ ((s.core k).seatid ≠ seat → t.core k = s.core k)) ∧
  (∀ (code : Nat) (s : State) (k : CoreId), s.flag SFI_STAT_DSAFE = false → (∀ seat ∈ customerSeats, s.seatSafe seat = false) →
    (s.core k).seatid ∈ customerSeats → ((enterDeviceSafe code s).core k).run ≠ .running) ∧
  (∀ (f : FaultLine) (r : Nat) (s : State), let n := s.get SFI_FLOGIDX_NEXT
    (16 ≤ n → logFault f r s = s.countUp SFI_STAT_LOST) ∧
    (n < 16 → let t := ((((((s.put SFI_FLOG_VALID 1 n).put SFI_FLOG_INJ (bit f.inj) n).put SFI_FLOG_REACT r n).put
        SFI_FLOG_SEAT f.seat n).put SFI_FLOG_CODE f.code n).put SFI_FLOG_UNIT f.unit n).put SFI_FLOG_INFO f.info n
      logFault f r s = (t.put SFI_FLOGT_NS (t.get TBS_NOW_NS) n).put SFI_FLOGIDX_NEXT (n + 1)))

/-- R433 to R444: monitors, watchdogs and fault injection. A gate path whose self-test fails, two clock windows out of
tolerance, a lost lock, a missing edge, a rail out of its window and SFI_FORCE_N each report their fault; temperatures set
TWARN and, twice above TCRIT, report 0x26; a watchdog reloads on its key, within its window, and else raises its fault (one
that does not count takes no kick, log 43); SFI.INJ injects while SEAT.LOCK is open or in an open life-cycle state. -/
def Obligations.MonitorsAndWatchdogs : Prop :=
  (∀ (a b : Bool) (s : State), let t := if a then s else reportFault 0x27 0 0 0 (s.put SFI_GTEST_AFAIL 1)
    let t := if b then t else reportFault 0x27 0 1 0 (t.put SFI_GTEST_BFAIL 1)
    exec (.gateSelfTest a b) s = .next (t.countUp SFI_GTEST_PASSES)) ∧
  (∀ (counts lock : Bool) (rail : Fin 12) (s : State),
    let bad := if counts = true ∨ s.flag PWC_STAT_PFBUSY = true then 0 else s.clockBad + 1
    let t := { s with clockBad := bad }
    let clk := fun u : State => reportFault 0x24 0 0 0 (u.put SFI_MON_CLKF 1)
    exec (.clockMonitorWindow counts lock) s = .next (if 2 ≤ bad ∨ lock = false then clk t else t) ∧
    exec .missingReferenceEdge s = .next (clk s) ∧
    exec (.voltageMonitorFault rail) s = .next (reportFault 0x25 0 rail.val 0
      (if s.flag SFI_MON_VOLTF then s else (s.put SFI_MON_VOLTF 1).put SFI_MON_RAIL rail.val)) ∧
    exec .sfiForce s = .next (if s.flag SFI_CTL_FORCEEN then reportFault 0x29 0 0 0 s else s)) ∧
  (∀ (v : BitVec 8) (s : State), let t := s.put SFI_MON_TEMP v.toNat
    let warn : Int := t.twarn
    let u := if warn < v.toInt ∧ t.flag SFI_MON_TWARN = false then noteManager 0x0F13 0 [] (reportFault 0x30 0 0 0 (t.put SFI_MON_TWARN 1))
      else if t.flag SFI_MON_TWARN = true ∧ v.toInt + 5 ≤ warn then noteManager 0x0F13 0 [] (t.put SFI_MON_TWARN 0) else t
    let hot := (u.tcrit : Int) < v.toInt
    let w := u.put SFI_MON_TCRIT (if hot then 1 else 0)
    let n := if hot then w.critSamples + 1 else 0
    exec (.temperatureSample v) s = .next (if n = 2 then reportFault 0x26 0 0 0 { w with critSamples := n } else { w with critSamples := n })) ∧
  (∀ (by_ : Seat) (n : CoreId) (seat : Seat) (key : BitVec 8) (v : Word32) (s : State), seat ≠ 0 →
    let ok := fun t : State => (.next (t.answer (.ok 0)) : Host.Outcome State Fault Refusal)
    let cw := writeFields by_.val SFI_CWDCFG n.val 0 v.toNat 0xFFFFFFFF s
    let sw := writeFields by_.val SFI_SWDCFG seat.val 0 v.toNat 0xFFFFFFFF s;
    (by_ = 0 ∨ by_.val = s.coreOwner n.val → (s.cwdCounts n.val = true →
        exec (.watchdogKick by_ (.core n) 0xC5) s = ok (s.put SFI_CWDCNT_COUNT (max 1024 (s.get SFI_CWDCFG_RELOAD n.val)) n.val) ∧
        (key ≠ 0xC5 → exec (.watchdogKick by_ (.core n) key) s = ok (cwdFault n.val s))) ∧
      (s.cwdCounts n.val = false → exec (.watchdogKick by_ (.core n) key) s = ok s) ∧
      exec (.watchdogEnable by_ (.core n) v) s = ok (if cw.flag SFI_CWDCFG_EN n.val = true ∧ s.flag SFI_CWDCFG_EN n.val = false
        then cw.put SFI_CWDCNT_COUNT (cw.cwdReload n.val) n.val else cw)) ∧
    (by_ = 0 ∨ by_ = seat → (s.swdCounts seat.val = true → let inside := s.get SFI_SWDCNT_COUNT seat.val ≤ s.get SFI_SWDWIN_OPEN seat.val
        (key = 0xC5 → inside → exec (.watchdogKick by_ (.seat seat) key) s =
          ok (s.put SFI_SWDCNT_COUNT (max 1024 (s.get SFI_SWDCFG_RELOAD seat.val)) seat.val)) ∧
        (key ≠ 0xC5 ∨ ¬ inside → exec (.watchdogKick by_ (.seat seat) key) s = ok (swdFault seat.val s))) ∧
      (s.swdCounts seat.val = false → exec (.watchdogKick by_ (.seat seat) key) s = ok s) ∧
      exec (.watchdogEnable by_ (.seat seat) v) s = ok (if sw.flag SFI_SWDCFG_EN seat.val = true ∧ s.flag SFI_SWDCFG_EN seat.val = false
        then sw.put SFI_SWDCNT_COUNT (sw.swdReload seat.val) seat.val else sw)) ∧
    (s.cwdCounts n.val = true → exec (.watchdogExpiry (.core n)) s = .next (cwdFault n.val (s.put SFI_CWDCNT_COUNT 0 n.val))) ∧
    (s.swdCounts seat.val = true → exec (.watchdogExpiry (.seat seat)) s = .next (swdFault seat.val (s.put SFI_SWDCNT_COUNT 0 seat.val))) ∧
    (by_ ≠ 0 → by_.val ≠ s.coreOwner n.val → exec (.watchdogKick by_ (.core n) key) s =
      .next ((seatViolation by_.val true (0x20080104 + by_.val * 0x1000 + n.val * 0x10) s).answer .error))) ∧
  (∀ (n : Nat) (s : State), cwdFault n s = reportFault 0x14 (s.coreOwner n) n 0 { s with cwdStopped := s.cwdStopped ||| 1#32 <<< n } ∧
    swdFault n s = reportFault 0x15 n n 0 { s with swdStopped := s.swdStopped ||| 1#16 <<< n }) ∧
  (∀ (key : BitVec 8) (v : Word32) (s : State), let ok := fun t : State => (.next (t.answer (.ok 0)) : Host.Outcome State Fault Refusal)
    let barred := s.flag BOOT_STAT_RECOV = true ∨ s.lifeCycle = lcProvision ∨ s.lifeCycle = lcEnd
    let cleared := (List.range 16).foldl (fun t n => (t.resetInst SFI_FLOG n).resetInst SFI_FLOGT n) s;
    exec .svpWatchdogExpiry s = .next (reportFault 0x23 0 0 0 { s with svpCount := 0 }) ∧
    exec (.svpKick 0 0xC5) s = ok { s with svpCount := max 1024 (s.get SFI_SVPWD_RELOAD) } ∧
    (key ≠ 0xC5 → exec (.svpKick 0 key) s = ok (reportFault 0x23 0 0 0 s)) ∧
    (¬ barred → exec (.sfiRelease 0 v) s = ok (writeFields 0 SFI_CTL 0 0 v.toNat 0xFFFFFFFF s)) ∧
    (barred → exec (.sfiRelease 0 v) s = ok (writeFields 0 SFI_CTL 0 0 (v &&& ~~~(1#32 <<< 31)).toNat 0xFFFFFFFF s)) ∧
    exec (.faultLogClear 0 v) s = ok (if v.getLsbD 31 then (cleared.put SFI_FLOGIDX_NEXT 0).put SFI_STAT_LOST 0 else s)) ∧
  (∀ (by_ : Seat) (key : BitVec 8) (v : Word32) (s : State), by_ ≠ 0 → ∀ c : Instr,
    c ∈ [.svpKick by_ key, .sfiRelease by_ v, .faultInject by_ v, .faultLogClear by_ v] → exec c s = .next (s.answer .error)) ∧
  (∀ (v : Word32) (s : State), let code := v.toNat % 256
    let unit := v.toNat / 2 ^ 16 % 256
    let test := v.getLsbD 30
    let ok := fun t : State => (.next (t.answer (.ok 0)) : Host.Outcome State Fault Refusal);
    ((v.getLsbD 31 = false ∨ s.seatLocked = true ∧ s.openLife = false ∨ faultListed code = false) → exec (.faultInject 0 v) s = ok s) ∧
    (v.getLsbD 31 = true → (s.seatLocked = false ∨ s.openLife = true) → faultListed code = true →
      (code ≠ 1 → code ≠ 2 → exec (.faultInject 0 v) s = ok { s with faults := s.faults ++
        [⟨code, s.injectOwner code unit, unit, 0, true, test⟩] }) ∧
      (code = 2 → (unit < 32 → s.lanePairLocked unit = true → let t := if test then s else lanePairStops unit s
          exec (.faultInject 0 v) s = ok { t with faults := t.faults ++ [⟨2, s.laneOwner (2 * unit), unit, 0, true, test⟩] }) ∧
        (¬ (unit < 32 ∧ s.lanePairLocked unit = true) → exec (.faultInject 0 v) s = ok s)) ∧
      (code = 1 → ¬ (unit < 16 ∧ s.pairLocked unit = true) → exec (.faultInject 0 v) s = ok s) ∧
      (code = 1 → unit < 16 → s.pairLocked unit = true → ∃ kind, 1 ≤ kind ∧ kind ≤ 7 ∧
        let w := s.draw.2
        let t := if test then w else pairStops unit kind w
        exec (.faultInject 0 v) s = ok { t with faults := t.faults ++ [⟨1, w.injectOwner 1 unit, unit, kind, true, test⟩] })))

/-- R448 to R463, R472 to R474, R480: start-up. BNV hashes stage 0 and releases the service processor or stops with REASON
0x32; the locked region takes no write; of two candidates the higher SEQ is chosen, slot A on a tie; a slot whose manifest
fails a check is none, with that check's REASON; without a candidate stage 0 enters recovery; RETURN and END erase first.
With no candidate, BOOT.STAT.REASON is slot A's (the model's choice, NOTES.md). -/
def Obligations.StartUpAndImageChoice : Prop :=
  (∀ (s : State), s.device = .on → s.svp = .held → s.flag SFI_STAT_DSAFE = false → s.get BOOT_STAT_REASON ≠ 0x32 →
    let hash := s.fieldGood 0x40 && Config.shake256 32 ((List.range 0x80000).map (fun i => s.byte (0x04000000 + i))) == s.fuseBytes 0x40
    (0x40 ∈ s.fuseWritten → hash = false → exec .stage0Check s =
      .next (((s.put BNV_STAT_S0CHK 1).put BNV_STAT_S0OK 0).put BOOT_STAT_REASON 0x32)) ∧
    (∀ ok : Bool, ((0x40 ∈ s.fuseWritten ∧ hash = true ∧ ok = true) ∨ (0x40 ∉ s.fuseWritten ∧ ok = false)) →
      let t := (s.put BNV_STAT_S0CHK (bit ok)).put BNV_STAT_S0OK (bit ok)
      exec .stage0Check s = .next { milestone 0 0 t with svp := .stage0, svpCount := max 1024 (t.get SFI_SVPWD_RELOAD) })) ∧
  (∀ (by_ : Seat) (a : BitVec 19) (v : Byte) (s : State),
    (by_ ≠ 0 → exec (.stage0WriteReject by_ a v) s = .next (s.answer .error)) ∧
    (s.flag BNV_STAT_S0LOCK = true → exec (.stage0WriteReject 0 a v) s = .next ((s.countUp BNV_STAT_WREJ).answer .error)) ∧
    (s.flag BNV_STAT_S0LOCK = false →
      exec (.stage0WriteReject 0 a v) s = .next ((s.writeMem (0x04000000 + a.toNat) 1 v.toNat).answer (.ok 0)))) ∧
  (∀ (e : Vector Bool 2) (s : State), s.svp = .stage0 → s.get BOOT_STAT_MS = 0 → s.image = none → s.flag BOOT_SLOT_CHECKED 0 = false →
    s.mustErase = false → (s.lifeCycle = lcEnd → exec (.slotSelect e) s = .next ((s.put BOOT_STAT_MS 0xE).put BOOT_STAT_REASON 0x33)) ∧
    (s.lifeCycle ≠ lcEnd → let t := slotRecord 1 e[1] (slotRecord 0 e[0] s)
      let a := t.flag BOOT_SLOT_CAND 0
      let b := t.flag BOOT_SLOT_CAND 1
      let qa := t.get BOOT_SEQ_SEQ 0
      let qb := t.get BOOT_SEQ_SEQ 1
      (a = true → (b = false ∨ qb < qa) → exec (.slotSelect e) s = .next (startSlot 0 t)) ∧
      (b = true → (a = false ∨ qa < qb) → exec (.slotSelect e) s = .next (startSlot 1 t)) ∧
      (a = true → b = true → qa = qb → exec (.slotSelect e) s = .next (startSlot 0 (t.put BOOT_STAT_TIE 1))) ∧
      (a = false → b = false → exec (.slotSelect e) s = .next (t.put BOOT_STAT_REASON (t.get BOOT_SLOT_REASON 0))))) ∧
  (∀ (slot : Nat) (err : Bool) (s : State), (err = true → s.slotReason slot err = some 0x01) ∧
    (∀ r, manifestCheck false (s.slotManifest slot) s = some r → err = false → s.slotReason slot err = some r) ∧
    (s.slotReason slot err = none → err = false ∧ manifestCheck false (s.slotManifest slot) s = none ∧
      let m := s.slotManifest slot
      bytesAt m 0 4 = 0x4D495A55 ∧ bytesAt m 4 2 = 1 ∧ signerAllowed s.lifeCycle (bytesAt m 0x15 1) = true ∧
      (s.countersChecked = true → s.rollback 2 ≤ bytesAt m 0x14 1) ∧ (s.bootRecord slot (bytesAt m 0x10 4)).1 ≠ 3 ∧
      (s.bootRecord slot (bytesAt m 0x10 4)).2 < 3)) ∧
  (∀ (s : State), (s.svp = .stage0 → s.get BOOT_STAT_MS = 0 → s.image = none → s.flag BOOT_SLOT_CHECKED 0 = true →
      s.flag BOOT_SLOT_CHECKED 1 = true → exec .msxEnter s = .next (enterMsx s)) ∧
    (s.svp = .stage0 → s.get BOOT_STAT_MS = 0xF → exec .noimageRepeat s = .next (noteManager 0x0F11 0 s.noImage s)) ∧
    (∀ im, s.image = some im → im.recovery = true → s.svp = .stage0 → s.get BOOT_STAT_MS = 0xF → (∀ c ∈ im.comps, c.done = true) →
      let t := if im.commit = true ∧ s.countersChecked = true then fuseTry 3 0x33 im.secver s else s
      exec .recoveryStart s = .next (welfenRuns (t.put BOOT_STAT_RECOV 1))) ∧
    (s.svp = .stage0 → s.get BOOT_STAT_MS = 0 → s.flag BOOT_SLOT_CHECKED 0 = false → s.mustErase = true → s.fuseUnsafe = false →
      let wipe := fun (revoke destroy : List Nat) (from_ : Nat) =>
        let t := (destroy.foldl (fun t f => fuseTry 4 f 0 t) (revoke.foldl (fun t k => fuseTry 2 (8 + k) 0 t) s))
        let t := (prsErase from_ t).zeroMem 0x04080000 0xF80000
        { (t.flashErase 0).flashErase 1 with faultStore := [], faultLost := 0 }
      (s.lifeCycle = lcReturn → exec .erasure s = .next (fuseTry 2 5 0 (wipe [1, 2, 3, 4, 5, 6, 7, 8] [0x51] 4))) ∧
      (s.lifeCycle = lcEnd → exec .erasure s = .next (((fuseTry 2 6 0 (wipe (List.range 9)
        [0x51, 0x50, 0x41, 0x42, 0x43, 0x44, 0x45, 0x46, 0x47, 0x48, 0x49] 0)).put BOOT_STAT_MS 0xE).put BOOT_STAT_REASON 0x33))))

/-- R463 to R471: loading an image. A hash list is checked against the component's HLHASH and a block against its entry of
the list; a failure is recorded, and shown in the window; a verified seat-image block is in memory and advances its window;
Welfen runs once its last block has passed; MS3 releases the customer cores with the outputs gated, MS4 records the boot,
raises the counters, closes the windows, releases the queues and writes RELEASE; a failure acts by its class. -/
def Obligations.ImageLoading : Prop :=
  (∀ (i : Fin 32) (err : Bool) (s : State) (im : BootImage) (c : BootComp), s.image = some im → s.comp i.val = some c →
    im.recovery = false → c.hashes = none → s.loadable i.val = true →
    let l := s.flashBytes im.slot c.hlOff (32 * c.nb)
    (err = true ∨ Config.shake256 64 l ≠ c.hlHash → exec (.hashListCheck i err) s = .next (compFails i.val 0x11 s)) ∧
    (err = false → Config.shake256 64 l = c.hlHash →
      (c.type = 4 → s.rangeOwned c.seat c.dest c.nb = false → exec (.hashListCheck i err) s = .next (compFails i.val 0x17 s)) ∧
      (c.type ≠ 4 ∨ s.rangeOwned c.seat c.dest c.nb = true →
        exec (.hashListCheck i err) s = .next (loadBusy (s.mapComp i.val (fun c => { c with hashes := some l })))))) ∧
  (∀ (i x : Fin 32) (err : Bool) (s : State) (im : BootImage) (c : BootComp), s.image = some im → s.comp i.val = some c →
    im.recovery = false → c.hashes ≠ none → c.blocks < c.nb → s.loadable i.val = true →
    let n := c.blocks
    let dest := c.dest + n * 4096
    let block := padBlock (s.flashBytes im.slot (c.start + n * 4096) (min 4096 (c.length - n * 4096)))
    (c.type ≠ 4 ∨ s.memGate 0 dest = .ok) →
    (err = true ∨ blockGood c n block = false → exec (.loadBlockVerify i err x) s =
      .next (loadBusy (compFails i.val (if c.type = 3 then 0x14 else 0x12) s))) ∧
    (err = false → blockGood c n block = true → let t := s.mapComp i.val (fun c => { c with blocks := n + 1 })
      let u := if c.type = 4 then t.writeBytes dest block else t
      (∀ w, u.windowOf i.val = some w → n + 1 < c.nb → exec (.loadBlockVerify i err x) s =
        .next (loadBusy (u.put BOOT_LWVBLK_VBLK (n + 1) w))) ∧
      (c.type = 1 → n + 1 = c.nb → exec (.loadBlockVerify i err x) s = .next (reachMs2 (loadBusy u))) ∧
      (c.type = 3 → n + 1 < c.nb → exec (.loadBlockVerify i err x) s = .next (loadBusy u)) ∧
      (c.type = 3 → n + 1 = c.nb → (∀ p ∈ (loadBusy u).manifestComps, p.2.done = true) →
        exec (.loadBlockVerify i err x) s = .next (manifestsLoaded im.slot x.val (loadBusy u))))) ∧
  (∀ (patch : BitVec 8) (s : State), s.ms3Ready = true → let t := s.put MCS_STAT_PATCHVER patch.toNat
    exec (.ms3Release patch) s = .next (noteManager 0x0F10 0 [3] (releaseCores (fun _ => true) (milestone 3 3
      { t with image := t.image.map (fun im => { im with patchVer := patch.toNat }) })))) ∧
  (∀ (s : State) (im : BootImage), s.image = some im → im.recovery = false → s.svp = .welfen → s.get BOOT_STAT_MS = 3 →
    s.lifeCycle ≠ lcProvision → s.lifeCycle ≠ lcEnd → (∀ c ∈ im.comps, c.done = true) →
    let t := prsPut (2 * im.slot + 1) (2 ^ 31 + s.prs (2 * im.slot + 1) / 2 ^ 8 % 256 * 0x100) s
    let vers := [(0, im.welfenVer), (1, im.patchVer), (2, im.secver)].filter (fun p => decide (t.rollback p.1 < p.2))
    let t := if im.commit = true ∧ t.countersChecked = true ∧ vers ≠ [] then
      vers.foldl (fun t p => fuseTry 3 (0x30 + p.1) p.2 t) (t.put BOOT_STAT_RBADV 1) else t
    let t := (List.range 16).foldl (fun t w => t.put BOOT_LWBASE_EN 0 w) t
    let t := customerSeats.foldl (fun t n => t.put ETHSW_HQSTAT_HOLD 0 n) t
    exec .ms4Reached s = .next (noteManager 0x0F10 0 [4] (milestone 4 4 (sfiCtlWrite (t.reg SFI_CTL % 2 ^ 31 + 2 ^ 31) t)))) ∧
  (∀ (r : BitVec 8) (i : Fin 32) (s : State) (im : BootImage), s.image = some im → im.recovery = false →
    s.get BOOT_STAT_MS ∈ [1, 2, 3] → s.failureFound r.toNat i.val = true →
    let p := s.failurePlace r.toNat i.val
    let t := recordFailure im.slot r.toNat p.1 p.2 s
    (0x11 ≤ r.toNat → r.toNat ≤ 0x17 → exec (.imageFailure r i) s = .next (softReset (noteManager 0x0F10 0 [r]
      (prsPut (2 * im.slot + 1) (withSlice (t.prs (2 * im.slot + 1)) 30 2 3) (customerSeats.foldl (fun t n => seatResetStart n t) t))))) ∧
    (r = 0x30 ∨ r = 0x31 → exec (.imageFailure r i) s = .next (t.put BOOT_STAT_MS 8)) ∧
    (r = 0x20 → exec (.imageFailure r i) s = .next t)) ∧
  (∀ (slot r i seat : Nat) (s : State), let t := ((s.put BOOT_STAT_REASON r).put BOOT_STAT_COMP i).put BOOT_STAT_SEAT seat
    let u := if s.get BOOT_STAT_REASON = 0 then t else s
    let st := s.prs (2 * slot + 1)
    recordFailure slot r i seat s = if st / 2 ^ 8 % 256 = 0 then prsPut (2 * slot + 1) (withSlice st 8 8 r) u else u)

/-- R477, R481 to R491, Tables LCK-1 to LCK-4: fuses and the crypto engine. LCC.PCMD refuses with ERR 1 while busy, 2 where the
operation is not permitted, 3 on a field that is not blank, 4 in the device safe state or under a voltage or temperature
warning; else it blows the fuses when it ends, 5 where some do not read back. The groups give the life-cycle state, a
counter is the number of its blown fuses; jobs complete in order, the load engine's first. -/
def Obligations.FusesAndCrypto : Prop :=
  (∀ (op : Nat) (f : BitVec 8) (s : State),
    let c := if op = 1 then Instr.fuseWrite 0 f else if op = 2 then .fuseBlow 0 f else if op = 3 then .counterRaise 0 f
      else .fieldDestroy 0 f
    let ok := fun t : State => (.next (t.answer (.ok 0)) : Host.Outcome State Fault Refusal)
    let err := fun e : Nat => ok (s.put LCC_PSTAT_ERR e)
    1 ≤ op → op ≤ 4 → (s.flag LCC_PSTAT_BUSY = true → exec c s = err 1) ∧
    (s.flag LCC_PSTAT_BUSY = false → (s.fusePermitted op f.toNat = false → exec c s = err 2) ∧
      (s.fusePermitted op f.toNat = true → (op = 1 → s.fuseBlank f.toNat = false → exec c s = err 3) ∧
        ((op ≠ 1 ∨ s.fuseBlank f.toNat = true) → (s.fuseUnsafe = true → exec c s = err 4) ∧
          (s.fuseUnsafe = false → let t := s.put LCC_PSTAT_BUSY 1
            exec c s = ok { t with fuseOp := some ⟨op * 256 + f.toNat, s.fuseBits op f.toNat s.pdata⟩ }))))) ∧
  (∀ (by_ : Seat) (f : BitVec 8) (s : State), by_ ≠ 0 → ∀ c : Instr,
    c ∈ [.fuseWrite by_ f, .fuseBlow by_ f, .counterRaise by_ f, .fieldDestroy by_ f] → exec c s = .next (s.answer .error)) ∧
  (∀ (stuck : List (Fin 8192)) (s : State) (o : FuseOp), s.fuseOp = some o →
    let good := o.bits.filter (fun i => !(stuck.map (·.val)).contains i)
    let t := { fuseBlown (o.field / 256) (o.field % 256) good s with fuseOp := none }
    exec (.lccOpDone stuck) s = .next (((t.put LCC_PSTAT_BUSY 0).put LCC_PSTAT_DONE 1).put LCC_PSTAT_ERR
      (if good.length = o.bits.length then 0 else 5))) ∧
  (∀ (op f : Nat) (l : List Nat) (s : State), (∀ i ∈ l, i < 8192) →
    ∀ i < 8192, (fuseBlown op f l s).fuse i = (s.fuse i || decide (i ∈ l))) ∧
  (∀ s : State, s.groupState = if s.fuseSet 4 then 5 else if s.fuseSet 3 then 4 else if s.fuseSet 2 then 3 else
    if s.fuseSet 1 then 2 else if s.fuseSet 0 then 1 else 0) ∧
  (∀ (s : State) (f : Nat), f ≤ 4 → (s.fuseSet f = true ↔
    17 ≤ ((List.range 32).filter (fun i => s.fuse (32 * f + i))).length)) ∧
  (∀ (s : State) (c : Nat), c ≤ 3 → s.rollback c = ((List.range 255).filter (fun i => s.fuse (0x200 + 256 * c + i))).length) ∧
  (∀ s : State, s.fuseUnsafe = true ↔ s.flag SFI_STAT_DSAFE = true ∨ s.flag SFI_MON_VOLTF = true ∨ s.flag SFI_MON_TWARN = true) ∧
  (∀ s : State, exec .trngHealthFail s = .next (raiseSrc 224 (s.put CRE_STAT_TRNGF 1)) ∧
    exec .trngRecover s = .next (s.put CRE_STAT_TRNGF 0)) ∧
  (∀ (s : State) (j : CreJob), (s.creJobs.find? (·.load) = some j ∨ (∀ x ∈ s.creJobs, x.load = false) ∧ s.creJobs.head? = some j) →
    let t := { s with creJobs := s.creJobs.erase j }
    (j.reply = none → exec .creJobDone s = .next t) ∧
    (∀ m, j.reply = some m → s.session m.dest = none → exec .creJobDone s = .next t) ∧
    (∀ m e, j.reply = some m → s.session m.dest = some e → (∀ n, m.dest.seat? = some n → s.rspRoom n m.payload.length = true) →
      exec .creJobDone s = .next (respond m t)))

/-- R492 to R494: persistent words. A write by a seat that does not own the word's group is a violation; a worn word takes no
write; a write of the value that the word holds wears nothing; any other counts, and at 100,000,000 the word is worn, which
is noted once. A word written reads back, but for the reserved bits of PRS.BRSTAT (words 1 and 3), which stay 0. -/
def Obligations.PersistentWords : Prop :=
  (∀ (by_ : Seat) (w : Fin 1024) (v : Word32) (s : State), let n := w.val
    let x := if n = 1 ∨ n = 3 then v.toNat &&& 0xCF00FF00 else v.toNat
    let t := (s.writeMem (0x05000000 + 4 * n) 4 x).put PRS_WEAR_COUNT (s.get PRS_WEAR_COUNT n + 1) n
    let u := (t.put PRS_WEAR_WORN 1 n).put PRS_STAT_NWORN (t.get PRS_STAT_NWORN + 1);
    (by_ ≠ 0 → s.prsOwner n ≠ by_.val →
      exec (.prsWrite by_ w v) s = .next ((seatViolation by_.val true (0x05000000 + 4 * n) s).answer .error)) ∧
    ((by_ = 0 ∨ s.prsOwner n = by_.val) → (s.flag PRS_WEAR_WORN n = true → exec (.prsWrite by_ w v) s = .next (s.answer .error)) ∧
      (s.flag PRS_WEAR_WORN n = false → (s.prs n = x → exec (.prsWrite by_ w v) s = .next (s.answer (.ok 0))) ∧
        (s.prs n ≠ x → (t.get PRS_WEAR_COUNT n < 100000000 → exec (.prsWrite by_ w v) s = .next (t.answer (.ok 0))) ∧
          (100000000 ≤ t.get PRS_WEAR_COUNT n →
            (u.flag PRS_STAT_WORNEV = true → exec (.prsWrite by_ w v) s = .next (u.answer (.ok 0))) ∧
            (u.flag PRS_STAT_WORNEV = false → exec (.prsWrite by_ w v) s =
              .next ((noteWorn n (raiseSrc 227 ((u.put PRS_STAT_WORNEV 1).put PRS_STAT_FIRST n))).answer (.ok 0)))))))) ∧
  (∀ (n m v : Nat) (s : State), n < 1024 → m < 1024 → Memory.wf s.mem = true → s.flag PRS_WEAR_WORN n = false →
    (prsPut n v s).prs m = if m = n then (if n = 1 ∨ n = 3 then v &&& 0xCF00FF00 else v % 2 ^ 32) else s.prs m) ∧
  (∀ (s : State) (n : Nat), n < 128 → s.prsOwner n = 0)

/-- R449, R558, R578 to R582, R605, R613, Tables PWR-8 and PKG-6: supplies and resets. A power-on reset keeps fuses, flash, boot
NVM and persistent words, and brings memory, cores and every register that it does not keep to reset; a device reset keeps
the fault log and the time besides; releasing power-on reset loads the fuses, and DSTORE zeroes itself once the PLL has
locked; a write of PWC.RST with the key 0x5A resets the device. -/
def Obligations.SuppliesAndDeviceReset : Prop :=
  (∀ (f : Fld) (s : State), f.reg = PWC_RSTCAUSE → s.Canonical → let t := powerOnReset f s
    t.fuses = s.fuses ∧ t.flash = s.flash ∧ (∀ a, (isBnv a = true ∨ isPrs a = true) → t.byte a = s.byte a) ∧
    (∀ a, isBnv a = false → isPrs a = false → t.byte a = 0) ∧ (∀ k : CoreId, t.core k = Core.initial) ∧ t.device = .reset ∧
    t.svp = .held ∧ t.pending = s.pending ∧
    (∀ a, porKeeps a = false → t.word a = (resetWord a).toNat) ∧ (∀ a, inDbgFrame a = true → porKeeps a = true → t.word a = s.word a)) ∧
  (∀ (f : Fld) (cut : Nat) (s : State), f.reg = PWC_RSTCAUSE → s.Canonical → s.fuseOp = none → let t := deviceReset f cut [] s
    t.fuses = s.fuses ∧ t.device = .on ∧ t.svp = .held ∧ (∀ k : CoreId, t.core k = Core.initial) ∧ t.reg TBS_NOW = s.reg TBS_NOW ∧
    (∀ n < 16, t.reg SFI_FLOG n = s.reg SFI_FLOG n) ∧ t.flag SFI_STAT_DSAFE = false ∧ t.get DSTORE_INITSTAT_BUSY = 0xFFFFFFFF ∧
    t.get LCC_STATE_STATE = s.groupState) ∧
  (∀ (rail : Fin 12) (cut : Nat) (dmg : List (BitVec 8)) (s : State), let d := dmg.map (·.toNat)
    let aon := powerOnReset PWC_RSTCAUSE_AONPOR (s.setReg PWC_RSTCAUSE 0)
    let up := fun r : BitVec 12 => r.getLsbD 2 && r.getLsbD 3 && r.getLsbD 4
    let low := powerOnReset PWC_RSTCAUSE_VDROP s
    exec .vddAonRise s = .next { aon with rails := aon.rails ||| 0x008, pwrEn := up (aon.rails ||| 0x008) } ∧
    (rail ≠ 3 ∨ s.rails.getLsbD 3 = true → exec (.supplyPowerUp rail) s =
      .next { s with rails := s.rails ||| (1#12 <<< rail.val), pwrEn := up (s.rails ||| (1#12 <<< rail.val)) && (s.device != .off) }) ∧
    (s.rails.getLsbD 3 = false → exec (.supplyPowerUp 3) s =
      .next { aon with rails := aon.rails ||| (1#12 <<< 3), pwrEn := up (aon.rails ||| (1#12 <<< 3)) && (aon.device != .off) }) ∧
    exec (.railUndervoltageReset rail) s = .next
      { low with rails := low.rails &&& ~~~(1#12 <<< rail.val), pwrEn := low.pwrEn && up (low.rails &&& ~~~(1#12 <<< rail.val)) } ∧
    exec .porstInput s = .next (powerOnReset PWC_RSTCAUSE_PORST s) ∧
    (s.device = .on ∨ s.device = .standby → exec (.resetNInput cut dmg) s = .next (deviceReset PWC_RSTCAUSE_RESETN cut d s)) ∧
    (s.device = .reset → s.rails = 0xFFF → s.pwrEn = true → exec (.powerOnResetRelease cut dmg) s =
      .next { (fuseLoad d (fuseOpCut cut s)).put CRG_STAT_REFOK 1 with device := .starting }) ∧
    (s.device = .starting → let t := s.put CRG_STAT_LOCK 1
      exec .pllLock s = .next { t.put DSTORE_INITSTAT_BUSY 0xFFFFFFFF with device := .on }) ∧
    (∀ key : BitVec 8, (key = 0x5A → exec (.deviceReset 0 key cut dmg) s = .next ((deviceReset PWC_RSTCAUSE_SWRST cut d s).answer (.ok 0))) ∧
      (key ≠ 0x5A → exec (.deviceReset 0 key cut dmg) s = .next (s.answer (.ok 0))) ∧
      (∀ by_ : Seat, by_ ≠ 0 → exec (.deviceReset by_ key cut dmg) s = .next (s.answer .error)))) ∧
  (∀ (t : BitVec 8) (s : State), exec (.blockReset 0 t) s = .next ((blockReset t.toNat s).answer (.ok 0)) ∧
    (∀ base n, 0xD0 ≤ t.toNat → t.toNat ≤ 0xF4 → targetFrames t.toNat = some (base, n) → ∀ a,
      (base ≤ a → a < base + n → (blockReset t.toNat s).word a = (resetWord a).toNat) ∧
      ((a < base ∨ base + n ≤ a) → (blockReset t.toNat s).word a = s.word a)))

/-- R31, R428, R580, Table PWR-9: the seat reset. It stops the seat's cores and lanes, drives its outputs safe, quenches its
traffic and answers its commands ABORTED; once its requests have their responses its caches, banks, sources, watchdogs,
lanes, converter and pages are reset; when its banks are zeroed it ends, and Welfen restarts the seat where it was in its
safe state. Cores that the seat neither owns nor is running on keep all of their state (log 49). -/
def Obligations.SeatReset : Prop :=
  (∀ (n : BitVec 8) (s : State), exec (.seatReset 0 n) s = .next ((seatResetStart n.toNat s).answer (.ok 0)) ∧
    ∀ by_ : Seat, by_ ≠ 0 → exec (.seatReset by_ n) s = .next (s.answer .error)) ∧
  (∀ (n : Nat) (s : State), (n = 0 ∨ 15 < n ∨ s.seatResetting n = true → seatResetStart n s = s) ∧
    (1 ≤ n → n ≤ 15 → s.seatResetting n = false → ∀ k : CoreId,
      (s.coreOwner k.val = n ∨ (s.core k).seatid = n → (seatResetStart n s).core k = Core.initial) ∧
      (s.coreOwner k.val ≠ n → (s.core k).seatid ≠ n → (seatResetStart n s).core k = s.core k))) ∧
  (∀ (n : Seat) (s : State),
    (s.seatResetting n.val = false ∨ n.val ∈ s.srDrained → exec (.seatResetDrainDone n) s = .next s) ∧
    (s.seatResetting n.val = true → n.val ∉ s.srDrained →
      let t := resetBanks n.val (resetCaches n.val { s with srDrained := s.srDrained ++ [n.val] })
      let t := resetConverter n.val (resetLanes n.val (resetIbc n.val (resetWatchdogs n.val (resetSources n.val t))))
      exec (.seatResetDrainDone n) s = .next (resetPages n.val (resetControllers n.val t)))) ∧
  (∀ (n : Seat) (s : State), s.seatResetReady n.val = true → let t := seatResetEnd n.val s
    let again := t.restarts.contains n.val ∧ t.svp = .welfen ∧ (t.get BOOT_STAT_MS = 3 ∨ t.get BOOT_STAT_MS = 4)
    let u := { t with restarts := t.restarts.filter (· != n.val) }
    (again → exec (.seatResetComplete n) s = .next (restartSeat n.val u)) ∧
    (¬ again → exec (.seatResetComplete n) s = .next u)) ∧
  (∀ (n : Nat) (s : State), s.seatResetReady n = true ↔ s.seatResetting n = true ∧ n ∈ s.srDrained ∧ s.flag SFI_STAT_DSAFE = false ∧
    ∀ b < 32, s.bankOwner b = n → s.bitOf DSTORE_INITSTAT_BUSY b = false)

/-- R564, R570 to R576: device states and tokens. GO in a quiet device enters STANDBY, or OFF with its bit; with R570 unmet it
enters nothing (log 50); a wake source or the ball returns from STANDBY, the ball alone leaves OFF through a power-on reset;
a request takes its seat's share where that covers it, else the pool, and is refused where no pool could hold it; a share's
request is granted in a slot that its seat owns, the pool's in an open slot and in order of arrival. -/
def Obligations.PowerStatesAndTokens : Prop :=
  (∀ (tick : BitVec 8) (s : State),
    let go := fun v : Nat => writeFields 0 PWC_SBCTL 0 0 v 0xFFFFFFFF s
    let a := go (0x80000000 + tick.toNat)
    let b := go (0xC0000000 + tick.toNat);
    (a.device = .on → a.quiet = true → exec (.standbyEntry 0 tick) s = .next ((enterStandby a).answer (.ok 0))) ∧
    (a.quiet = false → exec (.standbyEntry 0 tick) s = .next (a.answer (.ok 0))) ∧
    (b.device = .on → b.quiet = true → exec (.offEntry 0 tick) s = .next ((enterOff b).answer (.ok 0))) ∧
    (b.quiet = false → exec (.offEntry 0 tick) s = .next (b.answer (.ok 0))) ∧
    (∀ by_ : Seat, by_ ≠ 0 → exec (.standbyEntry by_ tick) s = .next (s.answer .error) ∧ exec (.offEntry by_ tick) s = .next (s.answer .error))) ∧
  (∀ s : State, (enterStandby s).device = .standby ∧ (enterOff s).device = .off ∧ (enterOff s).pwrEn = false ∧
    (∀ cl < 8, (enterStandby s).clusterOn cl = false)) ∧
  (∀ (s : State), (s.device = .standby → s.svp ≠ .held → exec .standbyTick s = .next { s with svpCount := max 1024 (s.get SFI_SVPWD_RELOAD) }) ∧
    (s.device = .standby → exec (.standbyWake true) s = .next (leaveStandby s)) ∧
    (s.device = .standby → s.wakePending = true → exec (.standbyWake false) s = .next (leaveStandby s)) ∧
    (s.device = .standby → s.wakePending = false → exec (.standbyWake false) s = .next s) ∧
    (s.device = .off → exec .offExit s = .next { powerOnReset PWC_RSTCAUSE_OFFX s with pwrEn := true })) ∧
  (∀ s : State, s.wakePending = true ↔ ∃ n < 512, s.flag ICU_SRC_PEND n = true ∧ (s.get PWC_WAKEEN_EN (n / 32)).testBit (n % 32) = true) ∧
  (∀ (who : List TokenHolder) (seat : Nat) (s : State), let cost := (who.map tokenCost).sum
    let fits := seat ≠ 0 ∧ cost + s.shareHeld seat ≤ s.share seat;
    (fits → requestTokens who seat s = (true, { s with tokenQueue := s.tokenQueue ++ [⟨who, seat, cost, true⟩] })) ∧
    (¬ fits → cost ≤ s.poolSize → requestTokens who seat s = (true, { s with tokenQueue := s.tokenQueue ++ [⟨who, seat, cost, false⟩] })) ∧
    (¬ fits → s.poolSize < cost → requestTokens who seat s = (false, if seat = 0 then s else s.put PWC_TGSTAT_REFUSED 1 seat))) ∧
  (∀ (q : TokenWait) (s : State), (q.share = true → (s.grantable q = true ↔ slotKind s.curSlot = 1 ∧ slotOwner s.curSlot = q.seat)) ∧
    (q.share = false → (s.grantable q = true ↔ slotKind s.curSlot = 0 ∧ (s.tokenQueue.filter (fun x => !x.share)).head? = some q ∧
      q.cost ≤ s.poolFree))) ∧
  (∀ (k : CoreId) (n : LaneId) (c : ClusterId) (s : State),
    (s.cState k.val = 2 → s.trailing k.val = false → (s.signalPrio k.val).isSome = true → exec (.tokenRequest (.core k)) s = .next (requestWake k s)) ∧
    (s.laneState n.val = lsStarting → s.waitsTokens (.lane n.val) = false → s.holdsTokens (.lane n.val) = false →
      let r := requestTokens ((s.lanePair n.val).map .lane) (s.laneOwner n.val) s
      exec (.tokenRequest (.lane n)) s = .next (if r.1 then r.2 else (s.lanePair n.val).foldl (fun t m => laneLeaves m lsHalted t) r.2)) ∧
    (s.clusterOn c.val = false → s.waitsTokens (.cluster c.val) = false → s.holdsTokens (.cluster c.val) = false →
      (∃ i < 4, s.waitsTokens (.core (4 * c.val + i)) = true ∨ s.holdsTokens (.core (4 * c.val + i)) = true) →
      exec (.tokenRequest (.cluster c)) s = .next (requestTokens [.cluster c.val] 0 s).2))

/-- R499 to R504, R506 to R510: mailboxes and what every WCI command meets. An index that moves backwards or past the other is
refused and shown; a producer index that moves raises its source. A message that is malformed or out of sequence is answered
BADMSG, one without a session NOSESSION, one that its sender may not send DENIED, one whose feature is absent UNSUP, and one
that was answered already its kept response again; HELLO opens a session; NOTEs are sent again, acknowledged and dropped. -/
def Obligations.MailboxesAndSessions : Prop :=
  (∀ (seat : Seat) (v : Word32) (s : State), let n := seat.val
    let x := v.toNat % 65536
    let held := fun a b : Nat => (a + 65536 - b) % 65536
    let pi := s.get MBX_REQPI_INDEX n
    let ci := s.get MBX_REQCI_INDEX n
    let qi := s.get MBX_RSPPI_INDEX n
    let di := s.get MBX_RSPCI_INDEX n
    let ok := fun t : State => (.next (t.answer (.ok 0)) : Host.Outcome State Fault Refusal);
    (x = pi → exec (.mbxReqpiWrite seat seat v) s = ok s) ∧
    (x ≠ pi → (held pi ci ≤ held x ci → held x ci ≤ 512 →
        exec (.mbxReqpiWrite seat seat v) s = ok (raiseSrc (256 + n) (s.put MBX_REQPI_INDEX x n))) ∧
      (held x ci < held pi ci ∨ 512 < held x ci → exec (.mbxReqpiWrite seat seat v) s = ok (s.put MBX_STAT_REQERR 1 n))) ∧
    (held qi x ≤ held qi di → exec (.mbxRspciWrite seat seat v) s = ok (s.put MBX_RSPCI_INDEX x n)) ∧
    (held qi di < held qi x → exec (.mbxRspciWrite seat seat v) s = ok (s.put MBX_STAT_RSPERR 1 n)) ∧
    (x ≠ qi → (held qi di ≤ held x di → held x di ≤ 512 → exec (.mbxRsppiWrite 0 seat v) s = ok (announce n x s)) ∧
      (held x di < held qi di ∨ 512 < held x di → exec (.mbxRsppiWrite 0 seat v) s = ok (s.put MBX_STAT_SVPERR 1 n))) ∧
    (held pi x ≤ held pi ci → exec (.mbxReqciWrite 0 seat v) s = ok (s.put MBX_REQCI_INDEX x n)) ∧
    (held pi ci < held pi x → exec (.mbxReqciWrite 0 seat v) s = ok (s.put MBX_STAT_SVPERR 1 n)) ∧
    (seat ≠ 0 → exec (.mbxReqpiWrite 0 seat v) s = ok s ∧ exec (.mbxReqciWrite seat seat v) s = ok s) ∧
    (∀ by_ : Seat, by_ ≠ 0 → by_ ≠ seat → ∀ c : Instr, c ∈ [.mbxReqpiWrite by_ seat v, .mbxRspciWrite by_ seat v,
      .mbxRsppiWrite by_ seat v, .mbxReqciWrite by_ seat v] → exec c s = .next (s.answer .error))) ∧
  (∀ (c : Instr) (p : Peer) (op : Nat) (s : State), c.wci? = some (p, op) →
    (s.answersWci = false ∨ s.headOf (sessionOf p) = none → exec c s = .next s) ∧
    (∀ m, s.Meets p m → s.Room p m [] →
      let id := sessionOf p
      let say := fun (st : Nat) => (.next (sendMsg ⟨id, 2, st, m.opcode, m.seat, m.seq, []⟩ (takeHead id m s)) : Host.Outcome State Fault Refusal);
      (m.good id = false → m.cls = 2 → exec c s = .next (takeHead id m s)) ∧
      (m.good id = false → m.cls ≠ 2 → (s.session id = none ∨ m.cls ≠ 1) → exec c s = say stBadmsg) ∧
      (m.good id = true → m.cls = 1 → m.opcode = op → (s.session id = none ∨ ∃ e, s.session id = some e ∧ e.hello = false) →
        exec c s = say stNosession) ∧
      (∀ e, m.good id = true → m.cls = 1 → m.opcode = op → s.session id = some e → e.hello = true → m.major = e.major →
        (∀ r, e.kept.find? (·.seq == m.seq) = some r → s.Room p m r.payload → exec c s = .next (sendMsg r (takeHead id m s))) ∧
        (e.kept.find? (·.seq == m.seq) = none → m.seq ≠ e.nextCmd → exec c s = say stBadmsg)) ∧
      (∀ e, s.InSequence p op m e →
        ((∃ n, id = .ethm n) → e.auth = false → op ≠ 2 → exec c s = .next (answered p m stDenied [] s)) ∧
        (((∃ n, id = .ethm n) → e.auth = true) → s.mayIssueClass e (op / 256) = false → exec c s = .next (answered p m stDenied [] s)) ∧
        (((∃ n, id = .ethm n) → e.auth = true) → s.mayIssueClass e (op / 256) = true →
          ((∃ b, classFeature (op / 256) = some b ∧ e.features.testBit b = false) ∨ s.svp = .stage0 ∧ op / 256 ≠ 0 ∧ op / 256 ≠ 7) →
          exec c s = .next (answered p m stUnsup [] s))))) ∧
  (∀ (p : Peer) (m : Incoming) (s t : State), s.answersWci = true → s.headOf (sessionOf p) = some m → m.good (sessionOf p) = true →
    m.opcode = 1 → m.cls = 1 → helloCommand (sessionOf p) m s = some t → exec (.hello p) s = .next t) ∧
  (∀ (n : Fin 4) (m : Incoming) (s : State), s.answersWci = true → s.headOf (.ethm n.val) = some m → m.good (.ethm n.val) = true →
    m.opcode = 1 → m.cls = 1 → m.major = 0 → m.minor = 0 → s.flag CRE_STAT_TRNGF = false → bytesAt m.payload 0 1 ≤ 1 → 1 ≤ bytesAt m.payload 1 1 →
    let both := bytesAt m.payload 4 8 &&& s.ownFeatures
    let t := endSession (.ethm n.val) s
    let e := { Session.fresh (.ethm n.val) (s.get TBS_NOW_NS) with hello := true, features := both }
    exec (.hello (.ethm n)) s = .next (sendMsg ⟨.ethm n.val, 2, stOk, 1, m.seat, m.seq, helloBody both⟩
      (takeHead (.ethm n.val) m { t with sessions := t.sessions ++ [e] }))) ∧
  (∀ (p : Peer) (q : Word32) (s : State) (e : Session), s.session (sessionOf p) = some e →
    (∀ n, e.unacked.find? (·.seq == q.toNat) = some n → (sessionOf p).seat? = none → n.again < 5 → exec (.noteRetransmit p q) s =
      .next (sendMsg ⟨sessionOf p, 3, 0, n.opcode, n.seat, n.seq, n.payload⟩ (s.mapSession (sessionOf p) (fun e => { e with
        unacked := e.unacked.map (fun x => if x.seq == n.seq then { x with again := x.again + 1 } else x) })))) ∧
    (∀ n, e.unacked.find? (·.seq == q.toNat) = some n → 5 ≤ n.again → exec (.noteRetransmit p q) s = .next s)) ∧
  (∀ (p : Peer) (m : Incoming) (s : State), s.answersWci = true → s.headOf (sessionOf p) = some m → m.good (sessionOf p) = true →
    m.cls = 2 → m.opcode ≠ 1 → (m.status = stOk → exec (.noteAck p) s = .next ((takeHead (sessionOf p) m s).mapSession (sessionOf p) (fun e =>
      { e with unacked := e.unacked.filter (fun n => !(n.seq == m.seq && n.opcode == m.opcode)) }))) ∧
    (m.status ≠ stOk → exec (.noteAck p) s = .next (takeHead (sessionOf p) m s))) ∧
  (∀ (n : Fin 4) (ctr : Word64) (tag : Bool) (msg : List Byte) (s : State), s.answersWci = true → let id := SessionId.ethm n.val
    let take := fun t : State => { t with wciIn := t.wciIn ++ [(id, msg)] };
    (s.session id = none → exec (.ethmDatagram n ctr tag msg) s = .next (take s)) ∧
    (∀ e, s.session id = some e → (e.auth = false → exec (.ethmDatagram n ctr tag msg) s = .next (take s)) ∧
      (e.auth = true → tag = true → e.rxCount < ctr.toNat →
        exec (.ethmDatagram n ctr tag msg) s = .next (take (s.mapSession id (fun e => { e with rxCount := ctr.toNat })))) ∧
      (e.auth = true → (tag = false ∨ ctr.toNat ≤ e.rxCount) → exec (.ethmDatagram n ctr tag msg) s = .next s)))

/-- R29 to R31, R40, R324, R372, R373, R428, R444, R505, R508, R509, R560, R570, Tables WCI-3 and WCI-6: session, information,
seat, resource and power commands. Each command that its session takes is answered with its status and payload, and what it
does is done; SEAT commands act on the seat of the message, after the response; a claim is granted only to a seat whose
manifest lists the resource, and only where no other seat holds it; a release takes its own resource back. Claims refuse in
the order range, entitlement, holder, which is the model's; payloads left to the Welfen service reference are the model's. -/
def Obligations.SeatAndResourceCommands : Prop :=
  ∀ (p : Peer) (m : Incoming) (e : Session) (s : State),
    let does := fun (c : Instr) (st : Nat) (pl : List Byte) (t : State) => t.Room p m pl → exec c s = .next (answered p m st pl t);
    (s.Takes p 0x0002 m e → (∀ n, sessionOf p = .ethm n →
      does (.auth p none) (authBegin (.ethm n) s).1 (authBegin (.ethm n) s).2.1 (authBegin (.ethm n) s).2.2 ∧
      (∀ r, let a := authEnd (.ethm n) e r s; a.2.2.Room p m a.2.1 → exec (.auth p (some r)) s = .next
        (if a.1 = stOk then (answered p m a.1 a.2.1 a.2.2).mapSession (.ethm n) (fun e => { e with auth := true, txCount := 0, rxCount := 0 })
          else answered p m a.1 a.2.1 a.2.2)))) ∧
    (s.Takes p 0x0003 m e → s.Room p m [] → exec (.bye p) s = .next (endSession (sessionOf p) (answered p m stOk [] s))) ∧
    (s.Takes p 0x0004 m e → does (.ping p) stOk [] s) ∧
    (s.Takes p 0x0101 m e → does (.devinfo p) stOk (s.serial ++ [BitVec.ofNat 8 s.lifeCycle] ++ bytesOf (s.reg BOOT_STAT) 4 ++
      (s.identitySeed.elim [] Config.ed448Public)) s) ∧
    (s.Takes p 0x0102 m e → does (.faultlog p) stOk s.faultLog s) ∧
    (s.Takes p 0x0103 m e → does (.seatinfo p) stOk (s.seatInfo m.seat) s) ∧
    (∀ x ∈ [(0x0201, Instr.seatResetCommand p), (0x0202, .seatSafeCommand p), (0x0203, .seatRestart p), (0x0204, .seatStop p),
      (0x0902, .debugRevoke p)], s.Takes p x.1 m e → m.seat = 0 → does x.2 stRange [] s) ∧
    (m.seat ≠ 0 → s.Room p m [] → let n := m.seat
      let t := answered p m stOk [] s
      let safe := fun t : State => if t.seatSafe n then t else enterSeatSafe n t;
      (s.Takes p 0x0201 m e → exec (.seatResetCommand p) s = .next (seatResetStart n t)) ∧
      (s.Takes p 0x0202 m e → exec (.seatSafeCommand p) s = .next (safe t)) ∧
      (s.Takes p 0x0203 m e → exec (.seatRestart p) s = .next (seatResetStart n { t with restarts := (if t.restarts.contains n then t.restarts else t.restarts ++ [n]) })) ∧
      (s.Takes p 0x0204 m e → exec (.seatStop p) s = .next (safe (t.putBit FAB_QUENCH_SEAT (n - 1) true)))) ∧
    (s.Takes p 0x0301 m e → ∀ u : Fin 32, let kind := bytesAt m.payload 0 1
      let f := bytesAt m.payload 1 1
      let i := bytesAt m.payload 2 2
      let is := fun (st : Nat) (t : State) => does (.claim p u) st [] t;
      ((kind = 0 ∨ 3 < kind ∨ kind = 1 ∧ 200 ≤ i ∨ kind = 2 ∧ 32 ≤ i ∨ kind = 3 ∧ 8 ≤ i) → is stRange s) ∧
      (kind = 2 → i < 32 → (s.entitled m.seat 2 i = false → is stNotent s) ∧ (s.entitled m.seat 2 i = true →
        (s.get TBS_CCCTL_OWNER i ≠ 0 → is stBusy s) ∧ (s.get TBS_CCCTL_OWNER i = 0 → is stOk (s.put TBS_CCCTL_OWNER m.seat i)))) ∧
      (kind = 3 → i < 8 → (s.entitled m.seat 3 i = false → is stNotent s) ∧ (s.entitled m.seat 3 i = true →
        (s.get TRC_RCTL_OWNER i ≠ 0 → is stBusy s) ∧ (s.get TRC_RCTL_OWNER i = 0 → is stOk (s.put TRC_RCTL_OWNER m.seat i)))) ∧
      (kind = 1 → i < 200 → (ballOffers i f = false → is stRange s) ∧
        (ballOffers i f = true → f ≠ fnTrace → f ≠ fnTbs → (s.entitled m.seat 1 i = false → is stNotent s) ∧
          (s.entitled m.seat 1 i = true → (s.ballFree m.seat i f = false → is stBusy s) ∧
            (s.flag PMX_OWN_HELD i = false → is stOk (takeBall m.seat i f u.val s)))))) ∧
    (∀ (n q f : Nat), s.flag PMX_OWN_HELD q = true → s.get PMX_OWN_OWNER q ≠ n ∨ fnRank f ≤ fnRank (s.get PMX_OWN_FUNC q) → s.ballFree n q f = false) ∧
    (s.Takes p 0x0302 m e → let kind := bytesAt m.payload 0 1
      let i := bytesAt m.payload 2 2
      let is := fun (st : Nat) (t : State) => does (.release p) st [] t;
      ((kind = 0 ∨ 3 < kind ∨ kind = 1 ∧ 200 ≤ i ∨ kind = 2 ∧ 32 ≤ i ∨ kind = 3 ∧ 8 ≤ i) → is stRange s) ∧
      (kind = 2 → i < 32 → s.get TBS_CCCTL_OWNER i = m.seat → s.unitBall i = none → is stOk (s.put TBS_CCCTL_OWNER 0 i)) ∧
      (kind = 3 → i < 8 → s.get TRC_RCTL_OWNER i = m.seat → is stOk (s.put TRC_RCTL_OWNER 0 i)) ∧
      (kind = 1 → i < 200 → s.flag PMX_OWN_HELD i = true → s.get PMX_OWN_OWNER i = m.seat → fnRank (s.get PMX_OWN_FUNC i) < 3 →
        s.get PMX_OWN_FUNC i ≠ fnTrace → is stOk (s.resetInst PMX_OWN i))) ∧
    (s.Takes p 0x0303 m e → ∀ (w : Bool) (o : Seat) (tag : BitVec 16) (pages : Word32) (b : Fin 32),
      let c := Instr.xbuf p w o tag pages b
      let wr := if w then m.seat else o.val
      let rd := if w then o.val else m.seat;
      (s.seatLocked = true → does c stLocked [] s) ∧
      (s.seatLocked = false → xbufMatch s.manifests wr rd tag.toNat pages.toNat = false → does c stNotent [] s)) ∧
    (s.Takes p 0x0304 m e → ∀ (r : LgReg) (g : GroupId) (v : Word32) (src : BitVec 48), let c := Instr.lgwrite p r g v src
      let owns := fun mask : Nat => ∀ i < 16, mask.testBit i = true → s.laneOwner (16 * g.val + i) = m.seat;
      ((∀ i < 16, s.laneOwner (16 * g.val + i) ≠ m.seat) → does c stNotent [] s) ∧
      ((∃ i < 16, s.laneOwner (16 * g.val + i) = m.seat) →
        (r = .stop → ¬ owns (v.toNat % 65536) → does c stNotent [] s) ∧
        (r = .stop → owns (v.toNat % 65536) → does c stOk [] (stopLanes g.val (v.toNat % 65536) s)) ∧
        (r = .ctl → owns (v.toNat % 65536) → s.groupTaken m.seat g.val = false → does c stOk [] (lgCtlWrite 0 g.val v.toNat s)) ∧
        (r = .load → owns (v.toNat / 65536) → s.groupTaken m.seat g.val = false →
          does c stOk [] (loadWrite g.val m.seat v.toNat (s.put LG_LOADSRC_ADDR (src.toNat / 64) g.val))) ∧
        (r = .sync → s.syncAllowed m.seat (v.toNat / 2 ^ 30) (v.toNat / 65536 % 64) = false → does c stNotent [] s) ∧
        (r = .sync → s.syncAllowed m.seat (v.toNat / 2 ^ 30) (v.toNat / 65536 % 64) = true → s.groupTaken m.seat g.val = false →
          does c stOk [] (syncWrite g.val m.seat v.toNat s)))) ∧
    (s.Takes p 0x0305 m e → ∀ t : BitVec 8, (m.seat ∉ s.targetOwners t.toNat → does (.restore p t) stNotent [] s) ∧
      (m.seat ∈ s.targetOwners t.toNat → 0xD0 ≤ t.toNat → t.toNat ≤ 0xF4 → does (.restore p t) stOk []
        (tgtWrite t.toNat 0x80000000 (blockReset t.toNat (tgtWrite t.toNat 0x40000000 s))))) ∧
    (s.Takes p 0x0401 m e → ∀ l : BitVec 8, (3 < l.toNat → does (.pfreq p l) stRange [] s) ∧
      (l.toNat ≤ 3 → let t := { s with pfAsked := s.pfAsked.filter (·.1 != m.seat) ++ [(m.seat, l.toNat)] }
        let best := t.pfAsked.foldl (fun b e => min b e.2) 3;
        ((s.flag SFI_MON_TWARN = true ∨ s.get PWC_PFCTL_TARGET = best) → does (.pfreq p l) stOk [] t) ∧
        (s.flag SFI_MON_TWARN = false → s.get PWC_PFCTL_TARGET ≠ best → (t.put PWC_PFCTL_TARGET best).flag PWC_STAT_PFBUSY = false →
          does (.pfreq p l) stOk [] (levelChange best (t.put PWC_PFCTL_TARGET best))))) ∧
    (s.Takes p 0x0402 m e → does (.tokens p) stOk (bytesOf (s.share m.seat) 4 ++ bytesOf (s.tokensHeld m.seat) 4) s) ∧
    (s.Takes p 0x0403 m e → ∀ tick : BitVec 8, let c := Instr.standbyCommand p tick
      let mayNot := ∃ n, sessionOf p = .mailbox n ∧ (s.manifest m.seat).any SeatManifest.system = false;
      (mayNot → does c stNotent [] s) ∧
      (¬ mayNot → s.quiet = true → s.Room p m [] → exec c s = .next (sbctlWrite
        ((if bytesAt m.payload 0 1 = 1 then 0xC0000000 else 0x80000000) + tick.toNat) (answered p m stOk [] s))))

/-- R473, R478, R480, R485, R489, R490, R505, R509, R514, R515, R586, R588, Tables WCI-3, WCI-7, LCK-2: safe channels, updates,
recovery, the life cycle, debug grants, crypto, network settings. A safe message is accepted only in order, in time and from
its peer; a life-cycle command needs a fresh nonce and its signatures, is spent by one try, and never revokes the last owner
key; crypto jobs answer when they end; settings go to persistent words 8 to 11. `stOpen` refusals have codes that the spec
does not give; payload layouts left to the Welfen service reference are the model's. -/
def Obligations.ServiceCommands : Prop :=
  ∀ (p : Peer) (m : Incoming) (e : Session) (s : State),
    let does := fun (c : Instr) (st : Nat) (pl : List Byte) (t : State) => t.Room p m pl → exec c s = .next (answered p m st pl t)
    let spent := spendNonce e;
    (s.Takes p 0x0501 m e → ∀ (id : BitVec 16) (dev : BitVec 12) (o : Seat) (open_ : Bool) (age : Word64),
      let c := Instr.safecommOpen p id dev o open_ age;
      (o = 0 → does c stRange [] s) ∧ (o ≠ 0 → (s.safeChannel m.seat id.toNat).isSome → does c stBusy [] s) ∧
      (o ≠ 0 → s.safeChannel m.seat id.toNat = none → (open_ = false ∨ s.flag CRE_STAT_TRNGF = false) → does c stOk [] { s with
        safeChannels := s.safeChannels ++ [⟨m.seat, id.toNat, dev.toNat, o.val, open_, age.toNat, 0, 0, s.get TBS_NOW_NS, [], 0⟩] })) ∧
    (s.Takes p 0x0502 m e → ∀ (id : BitVec 16) (data : List Byte), let d := Instr.safecommSend p id data
      (s.safeChannel m.seat id.toNat = none → does d (stOpen 5) [] s) ∧
      (∀ c, s.safeChannel m.seat id.toNat = some c → (1024 < data.length → does d stRange [] s) ∧
        (data.length ≤ 1024 → c.tx + 1 < 2 ^ 32 → c.dev ≠ s.selfAddr →
          (let x : SafeMsg := ⟨BitVec.ofNat 12 s.selfAddr, Fin.ofNat 16 m.seat, BitVec.ofNat 12 c.dev, Fin.ofNat 16 c.peer, id, BitVec.ofNat 32 (c.tx + 1), BitVec.ofNat 64 (s.get TBS_NOW_NS), data⟩
          does d stOk [] { s.mapSafe m.seat id.toNat (fun c => { c with tx := c.tx + 1 }) with safeOut := s.safeOut ++ [x] })))) ∧
    (∀ (own now : Nat) (x : SafeMsg) (ok : Bool) (c : SafeChannel),
      let right := ok = true ∧ (x.srcDev.toNat = c.dev ∧ x.srcSeat.val = c.peer ∧ x.dstDev.toNat = own ∧ x.dstSeat.val = c.owner ∧ x.id.toNat = c.id) ∧
        x.data.length ≤ 1024 ∧ now - x.time.toNat ≤ c.maxAge ∧ c.rx < x.seq.toNat;
      (right → c.take own now x ok = { c with rx := x.seq.toNat, time := now, inbox := c.inbox ++ [(decide (c.rx + 1 < x.seq.toNat), x.data)] }) ∧
      (¬ right → c.take own now x ok = { c with discarded := c.discarded + 1 })) ∧
    (s.Takes p 0x0503 m e → ∀ (id : BitVec 16) (arr : List (SafeMsg × Bool)), let d := Instr.safecommRecv p id arr
      (s.safeChannel m.seat id.toNat = none → does d (stOpen 5) [] s) ∧
      (∀ c gap data rest, s.safeChannel m.seat id.toNat = some c →
        let a := arr.foldl (fun c x => c.take s.selfAddr (s.get TBS_NOW_NS) x.1 x.2) c
        a.inbox = (gap, data) :: rest → does d stOk (BitVec.ofNat 8 (bit gap + bit (decide (a.maxAge < s.get TBS_NOW_NS - a.time)) * 2 + 4) ::
          bytesOf a.discarded 4 ++ data) (s.mapSafe m.seat id.toNat (fun _ => { a with inbox := rest })))) ∧
    (s.Takes p 0x0504 m e → ∀ id : BitVec 16, (s.safeChannel m.seat id.toNat = none → does (.safecommClose p id) (stOpen 5) [] s) ∧
      ((s.safeChannel m.seat id.toNat).isSome → does (.safecommClose p id) stOk [] { s with
        safeChannels := s.safeChannels.filter (fun c => !(c.owner == m.seat && c.id == id.toNat)) })) ∧
    (s.Takes p 0x0601 m e → ∀ slot : Fin 2, does (.updateBegin p slot) stOk [] { s.flashErase slot.val with update := some slot.val }) ∧
    (s.Takes p 0x0602 m e → ∀ (o : Word32) (data : List Byte), (s.update = none → does (.updateBlock p o data) (stOpen 7) [] s) ∧
      (∀ slot, s.update = some slot → does (.updateBlock p o data) stOk [] (flashPut slot o.toNat data s))) ∧
    (s.Takes p 0x0603 m e → (s.update = none → does (.updateCommit p) (stOpen 7) [] s) ∧
      (s.update.isSome → does (.updateCommit p) stOk [] { s with update := none })) ∧
    (s.Takes p 0x0701 m e → ∀ (b h : List Byte) (l : List (List Byte)), let r := recoveryBegin b h l s
      does (.recoveryBegin p b h l) r.1 r.2.1 r.2.2) ∧
    (s.Takes p 0x0702 m e → ∀ (i : Fin 32) (n : BitVec 20) (data : List Byte) (im : BootImage) (c : BootComp), s.image = some im →
      s.comp i.val = some c → im.recovery = true → let d := Instr.recoveryBlock p i n data;
      ((n.toNat ≠ c.blocks ∨ c.nb ≤ n.toNat) → does d stRange [] s) ∧
      (n.toNat = c.blocks → n.toNat < c.nb → data.length = min 4096 (c.length - n.toNat * 4096) → c.type ≠ 4 →
        (blockGood c n.toNat (padBlock data) = true → does d stOk [] (s.mapComp i.val (fun c => { c with blocks := n.toNat + 1 }))) ∧
        (blockGood c n.toNat (padBlock data) = false → does d stSigfail [] (recoveryFails s)))) ∧
    (s.Takes p 0x0703 m e → (∀ im, s.image = some im → im.recovery = true → im.comps.all BootComp.done = true → does (.recoveryEnd p) stOk [] s) ∧
      (s.image = none → does (.recoveryEnd p) (stOpen 9) [] s)) ∧
    (s.Takes p 0x0801 m e → (s.flag CRE_STAT_TRNGF = true → does (.lcycleNonce p) (stOpen 1) [] s) ∧
      (s.flag CRE_STAT_TRNGF = false → does (.lcycleNonce p) stOk (drawBytes 4 s).1
        ((drawBytes 4 s).2.mapSession e.id (fun x => { x with lcNonce := some (drawBytes 4 s).1 })))) ∧
    (s.Takes p 0x0802 m e → ∀ (g : Fin 6) (ow mk : Option Signed), let c := Instr.lcycleTransition p g ow mk;
      (transitionRow s.lifeCycle g.val = none → does c stDenied [] s) ∧
      (∀ row, transitionRow s.lifeCycle g.val = some row → (e.lcNonce = none → does c stSigfail [] s) ∧
        (row.2 = true → e.maker = false → e.lcNonce.isSome → does c stDenied [] s) ∧
        (∀ n, e.lcNonce = some n → (row.2 = true → e.maker = true) →
          let good := (row.1 = true → ow.any (fun x => s.ownerSigned x n) = true) ∧ (row.2 = true → mk.any (fun x => s.makerSigned x n) = true)
          (¬ good → does c stSigfail [] (spent s)) ∧
          (∀ t, good → blowTransition g.val s = some t → (spent t).Room p m [] → exec c s = .next (softReset (answered p m stOk [] (spent t))))))) ∧
    (s.Takes p 0x0803 m e → ∀ (key : List Byte) (g : Signed), let c := Instr.keyadd p key g
      let mayAdd := s.lifeCycle = lcProvision ∨ s.lifeCycle = lcDevelopment ∨ s.lifeCycle = lcField
      let body := Config.keyCommandBody 0x0803 (e.lcNonce.getD []) key
      let good := if s.lifeCycle = lcProvision then g.key = key ∧ Config.ed448Verify key Config.lcycleContext body g.sig = true else s.ownerSigned g body = true;
      (¬ mayAdd → does c stDenied [] s) ∧ (mayAdd → e.lcNonce = none → does c stSigfail [] s) ∧
      (mayAdd → e.lcNonce.isSome → ¬ good → does c stSigfail [] (spent s)) ∧
      (∀ k t u, mayAdd → e.lcNonce.isSome → good → [1, 2, 3, 4, 5, 6, 7, 8].find? (fun k => !s.slotProvisioned k && !s.slotSpoiled k) = some k →
        fuseNow 1 (0x41 + k) (bytesAt (Config.shake256 32 key) 0 32) s = some t → fuseNow 2 (0x18 + k) 0 t = some u → does c stOk [] (spent u))) ∧
    (s.Takes p 0x0804 m e → ∀ (k : Fin 9) (g : Signed), let c := Instr.keyrevoke p k g
      let good := s.ownerSigned g (Config.keyCommandBody 0x0804 (e.lcNonce.getD []) [BitVec.ofNat 8 k.val]) = true
      let others := ∃ j, 1 ≤ j ∧ j ≤ 8 ∧ j ≠ k.val ∧ s.slotProvisioned j = true ∧ s.slotRevoked j = false;
      (k = 0 → s.lifeCycle ≠ lcMaker → does c stDenied [] s) ∧
      (k ≠ 0 → (e.lcNonce = none → does c stSigfail [] s) ∧ (e.lcNonce.isSome → (¬ good → does c stSigfail [] (spent s)) ∧
        (good → ¬ others → does c stLastkey [] (spent s)) ∧
        (∀ t, good → others → fuseNow 2 (0x08 + k.val) 0 s = some t → does c stOk [] (spent t))))) ∧
    (s.Takes p 0x0901 m e → ∀ r : DbgRequest, ((s.lifeCycle = lcProvision ∨ s.lifeCycle = lcEnd) → does (.debugGrant p r) stDenied [] s) ∧
      (s.lifeCycle ≠ lcProvision → s.lifeCycle ≠ lcEnd → s.vddDbg = true →
        (s.requestPasses r = true → does (.debugGrant p r) stOk [] (signedRequest r s).2) ∧
        (s.requestPasses r = false → does (.debugGrant p r) stSigfail [] (signedRequest r s).2))) ∧
    (s.Takes p 0x0902 m e → m.seat ≠ 0 → does (.debugRevoke p) stOk [] (endGrant m.seat s)) ∧
    (s.Takes p 0x0A01 m e → ∀ n : BitVec 16, (4096 < n.toNat → does (.cryptoRandom p n) stRange [] s) ∧
      (n.toNat ≤ 4096 → let d := drawBytes ((n.toNat + 7) / 8) s; does (.cryptoRandom p n) stOk (d.1.take n.toNat) d.2)) ∧
    (s.Takes p 0x0A02 m e → ∀ (n : BitVec 16) (d : List Byte), (4096 < n.toNat → does (.cryptoHash p n d) stRange [] s) ∧
      (n.toNat ≤ 4096 → exec (.cryptoHash p n d) s = .next (deferred p m (Config.shake256 n.toNat d) s))) ∧
    (s.Takes p 0x0A03 m e → ∀ key ctx msg sig : List Byte, (255 < ctx.length → does (.cryptoVerify p key ctx msg sig) stRange [] s) ∧
      (ctx.length ≤ 255 → exec (.cryptoVerify p key ctx msg sig) s =
        .next (deferred p m [BitVec.ofNat 8 (bit (Config.ed448Verify key ctx msg sig))] s))) ∧
    (s.Takes p 0x0A04 m e → ∀ ctx msg : List Byte, (255 < ctx.length → does (.cryptoSign p ctx msg) stRange [] s) ∧
      (ctx.length ≤ 255 → (∀ k, s.identitySeed = some k → exec (.cryptoSign p ctx msg) s = .next (deferred p m (Config.ed448Sign k ctx msg) s)) ∧
        (s.identitySeed = none → does (.cryptoSign p ctx msg) (stOpen 13) [] s))) ∧
    (s.Takes p 0x0B01 m e → does (.netcfgGet p) stOk (bytesOf (s.prs 8) 4 ++ bytesOf (s.prs 9) 4 ++ bytesOf (s.prs 10) 4 ++ bytesOf (s.prs 11) 4) s) ∧
    (s.Takes p 0x0B02 m e → ∀ w : Vector Word32 4, does (.netcfgSet p w) stOk []
      (prsPut 11 w[3].toNat (prsPut 10 w[2].toNat (prsPut 9 w[1].toNat (prsPut 8 w[0].toNat s))))) ∧
    (∀ op : BitVec 8, s.Takes p (0x0C00 + op.toNat) m e → (op = Config.portReport → does (.systemCommand p op) stOk [] s) ∧
      (op ≠ Config.portReport → does (.systemCommand p op) stUnsup [] s))

/-- R519 to R522, R525 to R530, Tables NET-2 and NET-4: host queues, frames, gates, links and the legacy buses. A seat moves
its own indices, and one that passes 256 descriptors or goes back is refused; a transmit descriptor is refused with ERR and
POL where its class, its grant or its buffer is not the seat's, waits while the gate of its class is closed, and else leaves
and completes, with TXEV and the seat's source; a received frame goes to the seats whose grants name it, or is dropped and
counted where no descriptor is free; before MS4 a legacy controller of a customer seat listens and does not answer. A frame
longer than its buffer completes with ERR and its own length, which is the model's (log 47). -/
def Obligations.TrainNetworksAndLegacyBuses : Prop :=
  (∀ (by_ : Seat) (v : Word32) (s : State), let n := by_.val
    let x := v.toNat % 65536
    let held := fun a b : Nat => (a + 65536 - b) % 65536
    let pi := s.get ETHSW_HQTXPI_INDEX n
    let ci := s.get ETHSW_HQTXCI_INDEX n;
    (by_ = 0 → exec (.hqTxpiWrite by_ v) s = .next (s.answer .error) ∧ exec (.hqRxciWrite by_ v) s = .next (s.answer .error)) ∧
    (by_ ≠ 0 → (held pi ci ≤ held x ci → held x ci ≤ 256 → exec (.hqTxpiWrite by_ v) s = .next ((s.put ETHSW_HQTXPI_INDEX x n).answer (.ok 0))) ∧
      (held x ci < held pi ci ∨ 256 < held x ci → exec (.hqTxpiWrite by_ v) s = .next ((s.put ETHSW_HQSTAT_IDXERR 1 n).answer (.ok 0))) ∧
      exec (.hqRxciWrite by_ v) s = .next ((s.put ETHSW_HQRXCI_INDEX x n).answer (.ok 0)))) ∧
  (∀ (seat : Seat) (granted : Bool) (port : Fin 6) (s : State), let n := seat.val
    let c := Instr.hqTxComplete seat granted port
    let ci := s.get ETHSW_HQTXCI_INDEX n
    let a := s.get ETHSW_HQTXBASE_ADDR n * 0x2000 + ci % 256 * 32
    let held := (s.get ETHSW_HQTXPI_INDEX n + 65536 - ci) % 65536
    let ends := fun (sts : Nat) (ts : Option Nat) (t : State) => let u := completeDesc n a sts ts t
      (.next (raiseSrc (if n ≤ 13 then 242 + n else 424 + n) ((u.put ETHSW_HQTXCI_INDEX ((ci + 1) % 65536) n).put ETHSW_HQSTAT_TXEV 1 n)) : Host.Outcome State Fault Refusal)
    let refused := fun t : State => ends 0xE0000000 none (t.put ETHSW_HQSTAT_POLDROP 1 n);
    (s.hqTakes n = false ∨ s.flag ETHSW_HQSTAT_HOLD n = true ∨ held = 0 → exec c s = .next s) ∧
    (s.hqTakes n = true → s.flag ETHSW_HQSTAT_HOLD n = false → held ≠ 0 →
      (∀ t, readDesc n a s = (none, t) → exec c s = refused t) ∧
      (∀ d t, readDesc n a s = (some d, t) →
        let good := granted = true ∧ d.good = true ∧ d.tc ≠ 7 ∧ (t.get ETHSW_HQCFG_TCMASK n).testBit d.tc = true
        (¬ good → exec c s = refused t) ∧
        (good → (∀ u, readBuffer n d.addr d.len t = (none, u) → exec c s = refused u) ∧
          (∀ data u, readBuffer n d.addr d.len t = (some data, u) → let open_ := port.val < 4 → u.gates[port.val]!.getLsbD d.tc = true
            (open_ → exec c s = ends 0x80000000 (if d.tsreq then some (u.get TBS_NOW_NS) else none)
              { u with ethSent := some ⟨port.val, n, d.tc, data⟩ }) ∧
            (¬ open_ → exec c s = .next s)))))) ∧
  (∀ (n : Nat) (s : State), s.hqTakes n = true ↔ s.device = .on ∧ 1 ≤ n ∧ s.flag ETHSW_HQCFG_EN n = true ∧ s.seatSafe n = false ∧
    s.quenched n = false ∧ s.seatResetting n = false) ∧
  (∀ w0 w1 w3 : Nat, (hqDesc w0 w1 w3).good = true ↔ w0 < 2 ^ 48 ∧ w1 / 2 ^ 18 % 2 ^ 14 = 0 ∧ w3 = 0) ∧
  (∀ (data : List Byte) (seat : Seat) (s : State), (s.device ≠ .on ∨ 9216 < data.length → exec (.frameReceive data [seat]) s = .next s) ∧
    (s.device = .on → data.length ≤ 9216 → seat ≠ 0 → let n := seat.val
      let pi := s.get ETHSW_HQRXPI_INDEX n
      let a := s.get ETHSW_HQRXBASE_ADDR n * 0x2000 + pi % 256 * 32
      let full := (pi + 65536 - s.get ETHSW_HQRXCI_INDEX n) % 65536 = 256
      let ends := fun (sts : Nat) (at_ : Nat) (t : State) => let u := completeDesc n a sts (some at_) t
        (.next (raiseSrc (if n ≤ 13 then 242 + n else 424 + n) ((u.put ETHSW_HQRXPI_INDEX ((pi + 1) % 65536) n).put ETHSW_HQSTAT_RXEV 1 n)) : Host.Outcome State Fault Refusal);
      (s.hqTakes n = false ∨ full → exec (.frameReceive data [seat]) s = .next (s.countUp ETHSW_HQSTAT_DROPS n)) ∧
      (s.hqTakes n = true → ¬ full → ∀ d t, readDesc n a s = (some d, t) → let now := t.get TBS_NOW_NS
        (d.good = true → d.len < data.length → exec (.frameReceive data [seat]) s = ends (0xC0000000 + data.length % 2 ^ 14) now t) ∧
        (d.good = true → data.length ≤ d.len → ∀ u, (writeBuffer n d.addr data t = (true, u) →
            exec (.frameReceive data [seat]) s = ends (0x80000000 + data.length % 2 ^ 14) now u) ∧
          (writeBuffer n d.addr data t = (false, u) → exec (.frameReceive data [seat]) s = ends 0xE0000000 now (u.put ETHSW_HQSTAT_POLDROP 1 n))) ∧
        (d.good = false → exec (.frameReceive data [seat]) s = ends 0xE0000000 now (t.put ETHSW_HQSTAT_POLDROP 1 n))))) ∧
  (∀ (p : Fin 4) (cls : BitVec 8) (s : State), exec (.gateWindowOpen p cls) s = .next { s with gates := s.gates.set p (cls ||| 0x80) }) ∧
  (∀ (seat : Seat) (s : State), exec (.inauguration [seat]) s =
    .next (noteIn 1 10 Config.inaugurationNote.toNat seat.val [] (.mailbox seat.val) s)) ∧
  (∀ (p : Fin 5) (speed : Nat) (s : State), let fits := speed = 0 ∨ (p = 4 ∧ (speed = 100 ∨ speed = 1000)) ∨ (p ≠ 4 ∧ speed = 10000);
    (fits → exec (.ethLinkChange p speed) s = .next { s with ethLink := s.ethLink.set p speed }) ∧
    (¬ fits → exec (.ethLinkChange p speed) s = .next s)) ∧
  (∀ (c : Fin 20) (data : List Byte) (s : State), let o := s.ctlOwner c.val;
    (s.device ≠ .on ∨ s.seatSafe o = true → exec (.legacyBusReceive c data) s = .next s) ∧
    (s.device = .on → s.seatSafe o = false → let l : LegacyCtl := ⟨s.legacy[c].rx ++ [data], o == 0 || s.get BOOT_STAT_MS == 4⟩
      exec (.legacyBusReceive c data) s =
        .next (raiseSrc (if c.val < 10 then 320 + c.val else 322 + c.val) { s with legacy := s.legacy.set c l }))) ∧
  (∀ (pin : Fin 96) (s : State), exec (.gpioReadbackMismatch pin) s =
    .next (raiseSrc (342 + pin.val) { s with gpioRbmis := s.gpioRbmis ||| BitVec.ofNat 96 (2 ^ pin.val) }))

/-- R531 to R538, R541 to R556, Table UCL-2: chain links. A cell with a wrong CRC is counted and NAKed, one in sequence is
accepted, one out of sequence is NAKed once; a cell for another device goes to the port of R532, or a request comes back
with an error. A port is authenticated by a member's signature; a worker takes the first address assigned on UCL0 and
refuses another; the manager sends eight copies of a STOP, and a device acts on the first that reaches it; a request that
times out marks its device dead; a port that goes down loses its requests. STOP copies are told apart by STOPID and copy
number (log 48). -/
def Obligations.ChainLinks : Prop :=
  (∀ (port : Fin 4) (c : Cell) (s : State), let n := port.val
    let own := s.ownAddr.getD 0
    let t := clearSent s
    (s.flag UCL_PSTAT_UP n = false → ∀ ok : Bool, exec (.cellReceive port c ok) s = .next s) ∧
    (s.flag UCL_PSTAT_UP n = true →
      exec (.cellReceive port c false) s = .next (sendNak n own ((t.countUp UCL_PERR_CRC n).mapUport n (fun p => { p with resync := true }))) ∧
      (9 ≤ c.type.val → exec (.cellReceive port c true) s = .next (t.countUp UCL_PERR_CRC n)) ∧
      (c.type.val < 9 → c.nak = false →
        let u := t.mapUport n (fun p => { p with replays := if seqAfter p.replayAck c.ack.toNat then 0 else p.replays, sent := p.sent.filter (fun x => seqAfter c.ack.toNat x.txseq.toNat) })
        let q := s.ucl.ports[port];
        (c.txseq = 0 → exec (.cellReceive port c true) s = .next (acceptCell n c u)) ∧
        (c.txseq ≠ 0 → c.txseq.toNat = q.rxNext → exec (.cellReceive port c true) s = .next (acceptCell n c (u.mapUport n
          (fun p => { p with rxNext := if q.rxNext = 65535 then 1 else q.rxNext + 1, resync := false })))) ∧
        (c.txseq ≠ 0 → c.txseq.toNat ≠ q.rxNext → (q.resync = true → exec (.cellReceive port c true) s = .next u) ∧
          (q.resync = false → exec (.cellReceive port c true) s = .next (sendNak n own (u.mapUport n (fun p => { p with resync := true })))))))) ∧
  (∀ (n own : Nat) (c : Cell) (s : State), s.flag UCL_PSTAT_AUTH n = true → s.ucl.ports[n]!.linkOnly = false → s.ownAddr = some own →
    c.dst.toNat ≠ own → 1 ≤ c.type.val → c.type.val ≤ 5 → (c.type.val = 5 → s.membersInForce = true) →
    (∀ m, s.outPort own c.dst.toNat = some m → acceptCell n c s = sendCell m c s) ∧
    (s.outPort own c.dst.toNat = none → (c.type.val ≤ 3 → acceptCell n c s = respondCell n c own 1 [] s) ∧
      (4 ≤ c.type.val → acceptCell n c s = s))) ∧
  (∀ own dest : Nat, own < 4096 → dest < 4096 → own ≠ dest →
    (own / 64 = dest / 64 → routePort own dest = if own < dest then 1 else 0) ∧
    (own / 64 ≠ dest / 64 → own / 64 ≠ 0 → routePort own dest = 0) ∧
    (own / 64 ≠ dest / 64 → own / 64 = 0 → routePort own dest = if own < dest / 64 then 1 else if dest / 64 = own then 2 else 0)) ∧
  (∀ (port : Fin 4) (key : List Byte) (ok : Bool) (peer : Option (BitVec 12)) (m : Bool) (s : State), let n := port.val
    let c := Instr.linkAuth port key ok peer m
    let clash := m = true ∧ s.flag UCL_CFG_MGR = false ∧ (∃ k, s.ucl.mgrKey = some k ∧ k ≠ key)
    let member := ok = true ∧ Config.shake256 32 key ∈ s.members
    let shut := fun (f : Fld) => (.next (((clearSent s).put f 1).mapUport n (fun p => { p with linkOnly := true })) : Host.Outcome State Fault Refusal);
    (s.flag UCL_PSTAT_UP n = false ∨ s.flag UCL_PSTAT_AUTH n = true ∨ s.membersInForce = false ∨ s.flag CRE_STAT_TRNGF = true →
      exec c s = .next s) ∧
    (s.flag UCL_PSTAT_UP n = true → s.flag UCL_PSTAT_AUTH n = false → s.membersInForce = true → s.flag CRE_STAT_TRNGF = false →
      (clash → exec c s = shut UCL_STAT_MGRCONF) ∧ (¬ clash → ¬ member → exec c s = shut UCL_STAT_AUTHF) ∧
      (¬ clash → member → m = false →
        let t := (((clearSent s).put UCL_PSTAT_AUTH 1 n).put UCL_PSTAT_PEER ((peer.map BitVec.toNat).getD 0) n).mapUport n (fun p => { p with linkOnly := false })
        exec c s = .next (assignOver n t)))) ∧
  (∀ (d : BitVec 12) (s : State), s.flag UCL_CFG_MGR = false →
    (s.flag UCL_PSTAT_AUTH 0 = true → (∀ own, s.ownAddr = some own → (own = d.toNat → exec (.assign 0 d) s = .next s) ∧
        (own ≠ d.toNat → exec (.assign 0 d) s = .next ((s.put UCL_STAT_TOPOERR 1).mapUport 0 (fun p => { p with linkOnly := true })))) ∧
      (s.ownAddr = none → let t := openManagerSession (((((clearSent s).put UCL_ADDR_VALID 1).put UCL_ADDR_DEV d.toNat).put UCL_TSTAT_HOPS (min 255 (hopsOf d.toNat))).put UCL_STAT_ENUMDONE 1)
        exec (.assign 0 d) s = .next (t.each [1, 2] (fun m u => if u.flag UCL_PSTAT_AUTH m then assignOver m u else u)))) ∧
    (∀ own, s.ownAddr = some own → s.flag UCL_PSTAT_AUTH 3 = true → ¬ (own / 64 = d.toNat / 64 ∧ (own % 64 = 0 ∨ d.toNat % 64 = 0)) →
      exec (.assign 3 d) s = .next (s.put UCL_STAT_TOPOERR 1))) ∧
  (∀ s : State, (s.ucl.requests = [] → exec .remoteRequest s = .next s) ∧
    (∀ n c rest st v t, s.ucl.requests = (n, c) :: rest → serveRequest c s = (some (st, v), t) →
      let u := clearSent { t with ucl := { t.ucl with requests := rest } }
      ((c.type.val = cellPw ∧ st = 0) → exec .remoteRequest s = .next u) ∧
      (∀ own p, ¬ (c.type.val = cellPw ∧ st = 0) → u.ownAddr = some own → u.outPort own c.src.toNat = some p → exec .remoteRequest s = .next
        (sendCell p { mkCell cellRsp own c.src.toNat with dseat := c.sseat, tag := c.tag, payload := bytesOf st 8 ++ bytesOf v 8 } u)))) ∧
  (∀ (x n : Nat) (w : Bool) (v ofs : Nat) (s : State), let seat := s.get UCL_EXPCFG_SEAT x
    ((n ∉ [1, 2, 4, 8] ∨ ofs % n ≠ 0 ∨ s.seatSafe seat = true ∨ s.seatResetting seat = true) → exportAccess x ofs n w v s = (.error, s))) ∧
  (∀ (d : BitVec 12) (s : State), let r := s.remote d.toNat
    (r.dead = true → exec (.remoteTimeout d) s = .next s) ∧
    (r.dead = false → exec (.remoteTimeout d) s = .next ((remoteErrors (fun pa => remoteDev pa == d.toNat) none s).setRemote { r with dead := true }))) ∧
  (∀ (v : Word32) (s : State), let go := v.toNat / 2 ^ 31 = 1
    let bc := v.toNat / 2 ^ 30 % 2 == 1
    let copies := (clearSent s).each (List.range 8) (fun k t => (t.stopPorts none bc (v.toNat % 4096)).foldl
      (fun t n => sendCell n (stopCellOf bc (v.toNat / 2 ^ 16 % 16) (v.toNat % 4096) s.ucl.stopNext k) t) t)
    (go → s.flag UCL_CFG_MGR = true → exec (.stoptxWrite 0 v) s =
      .next (State.answer { copies with ucl := { copies.ucl with stopNext := (s.ucl.stopNext + 1) % 4 } } (.ok 0))) ∧
    (¬ go ∨ s.flag UCL_CFG_MGR = false → exec (.stoptxWrite 0 v) s = .next (s.answer (.ok 0))) ∧
    (∀ by_ : Seat, by_ ≠ 0 → exec (.stoptxWrite by_ v) s = .next (s.answer .error))) ∧
  (∀ (port : Fin 4) (src dest : BitVec 12) (bc : Bool) (seat : Seat) (id : Fin 4) (copy : Fin 8) (s : State), let n := port.val
    let c := Instr.stopCell port src bc dest seat id copy
    let t := ((clearSent s).stopPorts (some n) bc dest.toNat).foldl (fun t m => sendCell m (stopCellOf bc seat.val dest.toNat id.val copy.val) t) (clearSent s)
    let u := { t with ucl := { t.ucl with stopLast := some (id.val, copy.val) } }
    let seen := ∃ k, t.ucl.stopLast = some (id.val, k) ∧ k < copy.val
    (s.flag UCL_PSTAT_AUTH n = false ∨ src ≠ 0 → exec c s = .next (clearSent s)) ∧
    (s.flag UCL_PSTAT_AUTH n = true → src = 0 → (bc = false → t.ownAddr ≠ some dest.toNat → exec c s = .next t) ∧
      (bc = true ∨ t.ownAddr = some dest.toNat → (seen → exec c s = .next u) ∧ (¬ seen → exec c s = .next (actOnStop bc seat.val u))))) ∧
  (∀ (bc : Bool) (seat : Nat) (s : State), seat ≠ 0 → s.flag UCL_STOPLOG_VALID = true →
    let t := remoteErrors (fun _ => true) (some seat) ((raiseSrc srcUclCommon (s.countUp UCL_STOPLOG_COUNT)).putBit FAB_QUENCH_SEAT (seat - 1) true)
    actOnStop bc seat s = if t.seatSafe seat then t else enterSeatSafe seat t) ∧
  (∀ (port : Fin 4) (o : BitVec 32) (r : Word32) (s : State), let n := port.val
    let c := Instr.timeExchange port o r none
    (s.ownAddr = none ∨ s.flag UCL_CFG_MGR = true ∨ s.flag UCL_PSTAT_AUTH n = false → exec c s = .next s) ∧
    (∀ own, s.ownAddr = some own → s.flag UCL_CFG_MGR = false → s.flag UCL_PSTAT_AUTH n = true → s.outPort own 0 = some n →
      let t := (s.put UCL_TOFS_OFS o.toNat).put UCL_TSTAT_HOLD 0
      t.get BOOT_STAT_MS = 4 → 100 ≤ o.toInt.natAbs → o.toInt.natAbs ≤ 1000 → let u := t.put TBS_RATE_INC (max 327615 (min 327745 r.toNat))
      exec c s = .next { u with ucl := { u.ucl with near := 0, far := 0 } })) ∧
  (∀ (port : Fin 4) (s : State), let n := port.val
    let mode := s.get UCL_PCFG_MODE n
    (s.flag UCL_PSTAT_UP n = false → exec (.portDown port) s = .next (clearSent s)) ∧
    (s.flag UCL_PSTAT_UP n = true → s.ownAddr = none → exec (.portDown port) s = .next (reportPort n false (raiseSrc (313 + n)
      (((((remoteErrors (fun _ => false) none (clearSent s)).put UCL_PSTAT_UP 0 n).put UCL_PSTAT_AUTH 0 n).put UCL_PSTAT_LOCK 0 n).put UCL_STAT_LINKEV 1)))) ∧
    (s.flag UCL_PSTAT_UP n = true ∨ (mode ≠ 1 ∧ mode ≠ 2) ∨ s.flag UCL_CFG_EN = false → exec (.portUp port) s = .next s) ∧
    (s.flag UCL_PSTAT_UP n = false → (mode = 1 ∨ mode = 2) → s.flag UCL_CFG_EN = true → exec (.portUp port) s = .next (reportPort n true (raiseSrc (313 + n)
      (((((clearSent s).mapUport n (fun _ => ⟨1, 1, false, 0, 0, [], false⟩)).put UCL_PSTAT_UP 1 n).put UCL_PSTAT_LOCK 1 n).put UCL_STAT_LINKEV 1)))))

/-- R583 to R594, Tables DBG-1 to DBG-3: debug rights, halts and registers. A signed request that passes writes the grants of its
mask, one that fails sets AUTHF and takes the nonce away; a grant that ends lets its cores go on and disables its
comparators; a halt is requested only where a grant or MAKER covers the core's seat, taken at a boundary, ends the
reservation, and is not ended in FIELD for a locked pair; CRSEL reads and writes a halted core; without VDD_DBG nothing of
the debug domain acts. Which register of CRSEL is named legally, what the TAP's refusal shows and the reading of TRST are
the model's. -/
def Obligations.DebugRightsAndHalts : Prop :=
  (∀ (r : DbgRequest) (s : State),
    let open_ := s.vddDbg = true ∧ s.lifeCycle ≠ lcProvision ∧ s.lifeCycle ≠ lcEnd
    let granted := s.each (customerSeats.filter (fun n => r.mask.getLsbD n)) (fun n t =>
      let t := ((t.put DBG_GRANT_VALID 1 n).put DBG_GRANT_HALT (bit (r.rights.getLsbD 0)) n).put DBG_GRANT_MEM (bit (r.rights.getLsbD 1)) n
      { t.put DBG_GRANT_MIN r.minutes.toNat n with grantPhase := t.grantPhase.set! n 0 });
    (¬ open_ → exec (.dbgauth r) s = .next s) ∧
    (open_ → s.requestPasses r = true → exec (.dbgauth r) s = .next (newDebugNonce granted)) ∧
    (open_ → s.requestPasses r = false → exec (.dbgauth r) s = .next
      { (s.put DBG_STAT_AUTHF 1).each (List.range 8) (fun k t => t.setReg DBG_NONCE 0 k) with nonceHeld := true }) ∧
    (s.requestPasses r = true → s.nonceHeld = false ∧ bytesOf r.serial.toNat 8 = s.serial ∧ 1 ≤ r.minutes.toNat ∧ r.minutes.toNat ≤ 1440 ∧
      (s.lifeCycle = lcDevelopment ∨ s.lifeCycle = lcField → r.mask.getLsbD 0 = false) ∧
      (s.lifeCycle = lcField → ∀ n ∈ customerSeats, r.mask.getLsbD n = true → ∃ m, s.manifest n = some m ∧ m.key = r.slot.val)) ∧
    exec .nonceOffer s = .next (if s.vddDbg = true ∧ s.nonceHeld = true then newDebugNonce { s with nonceHeld := false } else s)) ∧
  (∀ (seat by_ : Seat) (s : State), exec (.grantExpiry seat) s = .next (endGrant seat.val s) ∧
    (by_ ≠ 0 → exec (.grantEndWrite by_ seat) s = .next (s.answer .error)) ∧
    (seat ≠ 0 → s.vddDbg = true → exec (.grantEndWrite 0 seat) s = .next ((endGrant seat.val s).answer (.ok 0))) ∧
    (seat = 0 ∨ s.vddDbg = false → exec (.grantEndWrite 0 seat) s = .next (s.answer (.ok 0))) ∧
    (s.flag DBG_GRANT_VALID seat.val = false → endGrant seat.val s = s)) ∧
  (∀ (k : CoreId) (s : State), s.regAbsent DBG_CCTL k.val = false →
    let t := fun b : Nat => crossWrite s (writeFields 0 DBG_CCTL k.val 0 (s.cctlWith k b) 0xFFFFFFFF s)
    exec (.dbgHaltreq 0 k) s = .next ((requestHalt k (t 30)).answer (.ok 0)) ∧
    exec (.dbgResume 0 k) s = .next ((resumeWrite false k (t 29)).answer (.ok 0)) ∧
    exec (.dbgStep 0 k) s = .next ((resumeWrite true k (t 28)).answer (.ok 0))) ∧
  (∀ (k : CoreId) (s : State), let mine := s.mayHalt (s.debugSeat k) = true
    ((mine ∧ (s.core k).run ≠ .halted ∧ (s.core k).run ≠ .stopped) → requestHalt k s = s.mapCore k (fun c => { c with haltReq := true })) ∧
    (¬ mine ∨ (s.core k).run = .halted ∨ (s.core k).run = .stopped → requestHalt k s = s) ∧
    (∀ b : Bool, ((s.core k).run ≠ .halted ∨ ¬ mine → resumeWrite b k s = s) ∧
      ((s.core k).run = .halted → mine → (s.lifeCycle = lcField ∧ s.pairLocked (k.val / 2) = true → resumeWrite b k s = s.put DBG_CCTL_RESREF 1 k.val) ∧
        (¬ (s.lifeCycle = lcField ∧ s.pairLocked (k.val / 2) = true) → resumeWrite b k s = resumeCore b k s))) ∧
    (∀ b : Bool, ((resumeCore b k s).core k).run = .running ∧ ((resumeCore b k s).core k).stepping = b ∧ ((resumeCore b k s).core k).pc = (s.core k).pc)) ∧
  (∀ (n : Nat) (s : State), s.mayHalt n = true ↔ s.lifeCycle = lcMaker ∨
    (1 ≤ n ∧ n ≤ 15 ∧ s.flag DBG_GRANT_VALID n = true ∧ s.flag DBG_GRANT_HALT n = true)) ∧
  (∀ (k : CoreId) (s : State), (s.vddDbg = false ∨ (s.core k).haltReq = false ∨ s.coreRuns k = false → exec (.debugHalt k) s = .next s) ∧
    (s.vddDbg = true → (s.core k).haltReq = true → s.coreRuns k = true → (s.core k).micro = none →
      ((s.core k).atBoundary = false → exec (.debugHalt k) s = .next s) ∧
      ((s.core k).atBoundary = true → exec (.debugHalt k) s = .next (enterHalt k (s.mapCore k (fun c => { c with load := none, fillWait := false }))))) ∧
    ((enterHalt k s).core k).run = .halted ∧ ((enterHalt k s).core k).reservation = none) ∧
  (∀ (k : CoreId) (v : Word32) (s : State), s.regAbsent DBG_CRSEL k.val = false → let n := k.val
    let space := v.toNat / 2 ^ 12 % 4
    let num := v.toNat % 2 ^ 12
    let t := (s.put DBG_CRSEL_SPACE space n).put DBG_CRSEL_NUM num n
    let wr := v.toNat.testBit 30
    let may := (t.core k).run = .halted ∧ t.mayHalt (t.debugSeat k) = true ∧ crselNamed space num wr = true
    let u := t.put DBG_CRSEL_ERR 0 n;
    (v.toNat.testBit 31 = false → exec (.crselAccess 0 k v) s = .next (t.answer (.ok 0))) ∧
    (v.toNat.testBit 31 = true → ¬ may → exec (.crselAccess 0 k v) s = .next ((t.put DBG_CRSEL_ERR 1 n).answer (.ok 0))) ∧
    (v.toNat.testBit 31 = true → may → (wr = true → exec (.crselAccess 0 k v) s =
        .next ((crWrite k space num (BitVec.ofNat 64 (u.get DBG_CRDATA_DATA n)) u).answer (.ok 0))) ∧
      (wr = false → exec (.crselAccess 0 k v) s = .next ((u.put DBG_CRDATA_DATA (crRead k space num u).toNat n).answer (.ok 0))))) ∧
  (∀ (k : CoreId) (by_ : Seat) (v : Word32) (s : State), by_ ≠ 0 → ∀ c : Instr,
    c ∈ [.dbgHaltreq by_ k, .dbgResume by_ k, .dbgStep by_ k, .crselAccess by_ k v] → exec c s = .next (s.answer .error)) ∧
  (∀ s : State, exec .vddDbgRise s = .next (if s.vddDbg then s else resetDebug { s with vddDbg := true }) ∧
    exec .vddDbgFall s = .next (if s.vddDbg then resetDebug { s with vddDbg := false } else s) ∧
    exec .trst s = .next { s with boundary := none, tapData := 0, tapRefused := false } ∧
    (∀ a, inDbg a = true → (resetDebug s).word a = (resetWord a).toNat)) ∧
  (∀ (w : Bool) (ofs : BitVec 16) (d : Word32) (s : State), let a := 0x20160000 + ofs.toNat
    let open_ := s.vddDbg = true ∧ s.lifeCycle ≠ lcProvision ∧ s.lifeCycle ≠ lcEnd
    let may := (s.lifeCycle = lcMaker ∨ s.granted ≠ 0) ∧ ofs.toNat % 4 = 0;
    (¬ open_ → exec (.dbgacc w ofs d) s = .next s) ∧
    (open_ → ¬ may → exec (.dbgacc w ofs d) s = .next { s.answer .error with tapRefused := true }) ∧
    (open_ → may → exec (.dbgacc true ofs d) s = .next { (dbgWrite a d.toNat s).answer (.ok 0) with tapRefused := false }) ∧
    (∀ v t, open_ → may → wordRead 0 a .none false s = (.ok v, t) → exec (.dbgacc false ofs d) s = .next
      { t.answer (.ok (BitVec.ofNat 64 v)) with tapData := BitVec.ofNat 32 v, tapRefused := false })) ∧
  (∀ (v : BitVec 959) (s : State), (s.vddDbg = true → s.lifeCycle = lcMaker → exec (.extest v) s = .next { s with boundary := some v }) ∧
    (s.vddDbg = false ∨ s.lifeCycle ≠ lcMaker → exec (.extest v) s = .next s))

/-- R595 to R602, Table DBG-4: debug memory accesses, cross-triggers and trace. The DAM starts only what its rights allow, on an
aligned address, and passes the seat table of its seat; with PEEK a read that cannot peek is not made; a raised channel
requests halts of its cores, stops its lanes and pulses the ball; a stimulus write emits STIM into its seat's FIFO where
STIM is enabled; a unit of one seat's packets goes to the port or to the region that the seat selects, and a region that
reaches its limit wraps or stops. Where a unit breaks between packets, and that a stop lasts until RCTL is written, are the
model's. -/
def Obligations.DebugMemoryAndTrace : Prop :=
  (∀ (v : Word32) (s : State), s.regAbsent DBG_DAMCTL 0 = false →
    let t := writeFields 0 DBG_DAMCTL 0 0 v.toNat 0xFFFFFFFF s
    let ok := t.damAllowed (t.get DBG_DAMCTL_SEAT) (t.flag DBG_DAMCTL_WR) = true ∧ t.get DBG_DAMADDR_ADDR % 2 ^ t.get DBG_DAMCTL_SIZE = 0;
    (s.flag DBG_DAMCTL_BUSY = true → exec (.damGo 0 v) s = .next (s.answer (.ok 0))) ∧
    (s.flag DBG_DAMCTL_BUSY = false → (v.toNat.testBit 31 = false → exec (.damGo 0 v) s = .next (t.answer (.ok 0))) ∧
      (v.toNat.testBit 31 = true → ok → exec (.damGo 0 v) s = .next (((t.put DBG_DAMCTL_ERR 0).put DBG_DAMCTL_BUSY 1).answer (.ok 0))) ∧
      (v.toNat.testBit 31 = true → ¬ ok → exec (.damGo 0 v) s = .next (((t.put DBG_DAMCTL_ERR 1).put DBG_DAMCTL_BUSY 0).answer (.ok 0)))) ∧
    (∀ by_ : Seat, by_ ≠ 0 → exec (.damGo by_ v) s = .next (s.answer .error))) ∧
  (∀ (n : Nat) (w : Bool) (s : State), s.damAllowed n w = true ↔ s.lifeCycle = lcMaker ∨ s.lifeCycle = lcReturn ∨
    (s.lifeCycle = lcDevelopment ∧ n = 0 ∧ w = false) ∨ (1 ≤ n ∧ s.flag DBG_GRANT_VALID n = true ∧ s.flag DBG_GRANT_MEM n = true)) ∧
  (∀ s : State, let seat := s.get DBG_DAMCTL_SEAT
    let wr := s.flag DBG_DAMCTL_WR
    let pa := s.get DBG_DAMADDR_ADDR
    let n := 2 ^ s.get DBG_DAMCTL_SIZE
    let ends := fun (e : Nat) (t : State) => (t.put DBG_DAMCTL_BUSY 0).put DBG_DAMCTL_ERR e;
    (s.flag DBG_DAMCTL_BUSY = false ∨ s.vddDbg = false → exec .damComplete s = .next s) ∧
    (s.flag DBG_DAMCTL_BUSY = true → s.vddDbg = true → (s.damAllowed seat wr = false → exec .damComplete s = .next (ends 1 s)) ∧
      (s.damAllowed seat wr = true →
        (∀ l r, checkSeat seat pa (if wr then .write else .read) s = .fault l r → exec .damComplete s = .next (ends 1 s)) ∧
        (∀ l, checkSeat seat pa (if wr then .write else .read) s = .ok l →
          (∀ v t, wr = false → damRead seat pa n s = (.ok v, t) → exec .damComplete s = .next ((ends 0 t).put DBG_DAMDATA_DATA v)) ∧
          (∀ v t, wr = true → damWrite seat pa n (s.get DBG_DAMDATA_DATA % 2 ^ (8 * n)) s = (.ok v, t) → exec .damComplete s = .next (ends 0 t)) ∧
          (∀ a t, (a = .error ∨ a = .poison) → wr = false → damRead seat pa n s = (a, t) → exec .damComplete s = .next (ends 1 t)))))) ∧
  (∀ (seat pa n : Nat) (s : State), s.flag DBG_CTL_PEEK = true → (isRemote pa = true → damRead seat pa n s = (.ok 0, s.put DBG_STAT_NOPEEK 1)) ∧
    (isRemote pa = false → isLegacyFrame pa = false → damRead seat pa n s = busRead seat pa n .none true s)) ∧
  (∀ s : State, (s.channels = [] → exec .crossTrigger s = .next s) ∧
    (∀ c rest, s.channels = c :: rest → (∀ k < 32, s.bitOf DBG_CCTL_TRIGIN c k = false) → (∀ g < 4, s.bitOf DBG_LGXT_CHAN c g = false) →
      let t := { s with channels := rest }
      (s.flag DBG_CTL_EXTOUTEN = true ∧ s.get DBG_CTL_EXTOUT = c → exec .crossTrigger s = .next { t with trigOut := 4 }) ∧
      (¬ (s.flag DBG_CTL_EXTOUTEN = true ∧ s.get DBG_CTL_EXTOUT = c) → exec .crossTrigger s = .next t)) ∧
    (∀ c rest, s.channels = c :: rest → let t := (List.finRange 32).foldl (fun t k => if t.bitOf DBG_CCTL_TRIGIN c k.val then requestHalt k t else t) { s with channels := rest }
      (∀ g < 4, t.bitOf DBG_LGXT_CHAN c g = false) → s.flag DBG_CTL_EXTOUTEN = false → exec .crossTrigger s = .next t ∧
        ∀ k : CoreId, s.bitOf DBG_CCTL_TRIGIN c k.val = true → s.mayHalt (s.debugSeat k) = true → (s.core k).run = .running → (t.core k).haltReq = true) ∧
    (exec .dbgTrigin s = .next (if s.vddDbg = true ∧ s.flag DBG_CTL_EXTINEN = true then { s with channels := s.channels ++ [s.get DBG_CTL_EXTIN] } else s))) ∧
  (∀ (seat : Seat) (port : Fin 16) (v : Word32) (s : State), let n := seat.val
    let p := BitVec.ofNat 8 (0x80 + port.val) :: bytesOf v.toNat 4 ++ bytesOf (s.get TBS_NOW_NS) 4
    let c := Instr.traceStimWrite seat seat port v;
    (n ≠ 0 → s.flag TRC_SCTL_STIM n = true → exec c s = .next (State.answer { s with trcStim := s.trcStim.set seat (s.trcStim[seat].push n p) } (.ok 0))) ∧
    (n = 0 ∨ s.flag TRC_SCTL_STIM n = false → exec c s = .next (s.answer (.ok 0))) ∧
    (∀ by_ : Seat, by_ ≠ 0 → by_ ≠ seat → exec (.traceStimWrite by_ seat port v) s = .next (s.answer .error))) ∧
  (∀ (f : TraceFifo) (seat : Nat) (p : List Byte), f.lost = 0 → let size := fun l : List (Nat × List Byte) => (l.map (fun q => q.2.length)).sum
    (size (f.packets ++ [(seat, p)]) ≤ 2048 → f.push seat p = { f with packets := f.packets ++ [(seat, p)], lost := 0, count := f.count + 1 }) ∧
    (2048 < size (f.packets ++ [(seat, p)]) → f.push seat p = { f with lost := 1 })) ∧
  (∀ (src : TraceSource) (s : State), let f := s.traceFifo src
    (f.packets = [] → exec (.traceUnitWrite src) s = .next s) ∧
    (∀ seat x rest, f.packets = (seat, x) :: rest → let u := unitPackets seat 63 f.packets
      let bytes := sourceByte src :: u.1 ++ List.replicate (63 - u.1.length) 0xFF
      let t := s.setTraceFifo src { f with packets := u.2 }
      let r := s.get TRC_SCTL_REGION seat;
      (seat ≠ 0 → s.flag TRC_SCTL_PORT seat = true → (s.get TRC_PCTL_OWNER = seat ∧ s.flag TRC_PCTL_EN = true →
          exec (.traceUnitWrite src) s = .next { t with traceSent := bytes }) ∧
        (¬ (s.get TRC_PCTL_OWNER = seat ∧ s.flag TRC_PCTL_EN = true) → exec (.traceUnitWrite src) s = .next t)) ∧
      (seat = 0 ∨ s.flag TRC_SCTL_PORT seat = false → (s.regionTakes seat r = false → exec (.traceUnitWrite src) s = .next t) ∧
        (s.regionTakes seat r = true → exec (.traceUnitWrite src) s = .next (unitWritten r s
          (dmaWrite seat (s.get TRC_RWP_ADDR r * 64) 64 (bytes.foldr (fun b v => b.toNat + 256 * v) 0) t)))))) ∧
  (∀ (r v : Nat) (s u : State), unitWritten r s (.ok v, u) = regionAdvance r u ∧
    (u.get TRC_RWP_ADDR r ≠ u.get TRC_RLIM_ADDR r → regionAdvance r u = u.put TRC_RWP_ADDR (u.get TRC_RWP_ADDR r + 1) r) ∧
    (u.get TRC_RWP_ADDR r = u.get TRC_RLIM_ADDR r → (u.flag TRC_RCTL_WRAP r = true →
        regionAdvance r u = (u.put TRC_RWP_ADDR (u.get TRC_RBASE_ADDR r) r).put TRC_RCTL_WRAPPED 1 r) ∧
      (u.flag TRC_RCTL_WRAP r = false → regionAdvance r u = { u with trcStopped := u.trcStopped ||| 1#8 <<< r })))

/-- R9, R10, R12, R13, R24, R26, R225, R243, R583: device registers as software writes them. Each field takes a write as its
access code says; a write of one register changes no other; the map gives every register its place; seat 0's write of a
register without behaviour of its own is that and no more; a wrong width or alignment, a frame that is down and an address
that is no device's are answered with an error; a customer seat's write passes its seat table first; MMU.S2INV removes every
entry of a seat; a write to the fence is refused and recorded while the seat configuration is locked. -/
def Obligations.RegisterWrites : Prop :=
  (∀ (seat : Nat) (closed : Bool) (r : RegDef) (v old : Nat) (f : FieldDef), f.lo + f.w ≤ 64 →
    let o := old / 2 ^ f.lo % 2 ^ f.w
    let x := v / 2 ^ f.lo % 2 ^ f.w
    let n := fieldAfter seat closed r v (2 ^ 64 - 1) old f;
    (encodingTaken r f x = true → (f.acc = .rw ∨ f.acc = .rwp → n = x) ∧ (f.acc = .rwl → n = if closed then o else x) ∧
      (f.acc = .ro → n = if f.byWelfen = true ∧ seat = 0 then x else o)) ∧
    (encodingTaken r f x = false → f.acc = .rw ∨ f.acc = .rwp ∨ f.acc = .rwl → n = o) ∧
    (f.acc = .wo ∨ f.acc = .rc → n = o) ∧
    (f.acc = .w1c → ∀ b, n.testBit b = (o.testBit b && !x.testBit b)) ∧
    (f.acc = .w1s → ∀ b, n.testBit b = (o.testBit b || x.testBit b))) ∧
  (∀ (r : RegDef) (seat i j v : Nat) (s : State), r ∈ regTable → s.Canonical → let t := writeFields seat r i j v (2 ^ 64 - 1) s
    (∀ f ∈ r.fields, t.get ⟨r, f.lo, f.w⟩ i j = fieldAfter seat (s.lockSet r i j) r v (2 ^ 64 - 1) (s.reg r i j) f) ∧
    (∀ a, a ≠ r.addr i j → (r.wide = true → a ≠ r.addr i j + 4) → t.word a = s.word a)) ∧
  (∀ r ∈ regTable, regAt (r.addr r.i0 r.j0) = some r ∧ r.place (r.addr r.i0 r.j0) = (r.i0, r.j0, 0)) ∧
  (∀ (r : RegDef) (a : BitVec 48) (i j t : Nat) (v : Word64) (s : State), let x := v.toNat % 2 ^ 32
    let m := 2 ^ 32 - 1
    frameTarget a.toNat = some t → s.targetDown t = false → isDevice a.toNat = true → isRemote a.toNat = false → a.toNat % 4 = 0 →
    inDbg a.toNat = false → laneMemAt a.toNat = none → homeOf a.toNat = a.toNat → regAt a.toNat = some r → r.place a.toNat = (i, j, 0) →
    r ≠ ICU_SRC → r ≠ ICU_SWTRIG → r ≠ ICU_COMPLETE → s.regAbsent r i = false →
    globalWrite 0 r i j x m s = none → laneRegWrite 0 r i j x m s = none → systemRegWrite 0 r i j x m s = none →
    linkRegWrite 0 r i j x m s = none → exec (.registerWrite 0 a false v) s = .next ((writeFields 0 r i j x m s).answer (.ok 0))) ∧
  (∀ (by_ : Seat) (a : BitVec 48) (wide : Bool) (v : Word64) (s : State),
    (isDevice a.toNat = false → exec (.registerWrite by_ a wide v) s = .next (s.answer .error)) ∧
    (isDevice a.toNat = true → isRemote a.toNat = false → inDbg a.toNat = false →
      (∀ t, frameTarget a.toNat = some t → (s.targetDown t = true ∨ a.toNat % (if wide then 8 else 4) ≠ 0) →
        exec (.registerWrite 0 a wide v) s = .next (s.answer .error)) ∧
      (frameTarget a.toNat = none → exec (.registerWrite 0 a wide v) s = .next (s.answer .error)) ∧
      (∀ t r, frameTarget a.toNat = some t → s.targetDown t = false → a.toNat % 8 = 0 → regAt a.toNat = some r → r.wide = false →
        exec (.registerWrite 0 a true v) s = .next (s.answer .error))) ∧
    (∀ l c, by_ ≠ 0 → isDevice a.toNat = true → checkSeat by_.val a.toNat .write s = .fault l c →
      exec (.registerWrite by_ a wide v) s = .next (s.answer .error))) ∧
  (∀ (v : Word32) (s : State), let n := v.toNat % 16
    (v.toNat.testBit 31 = true → s.seatLocked = false → exec (.s2inv 0 v) s = .next ((s2inv n s).answer (.ok 0))) ∧
    (v.toNat.testBit 31 = false ∨ s.seatLocked = true → exec (.s2inv 0 v) s = .next (s.answer (.ok 0))) ∧
    (∀ by_ : Seat, by_ ≠ 0 → exec (.s2inv by_ v) s = .next (s.answer .error)) ∧
    (∀ k : CoreId, let c := (s2inv n s).core k
      ∀ e ∈ c.itlb ++ c.dtlb ++ c.tlb2, e.seat ≠ n ∧ e ∈ (s.core k).itlb ++ (s.core k).dtlb ++ (s.core k).tlb2)) ∧
  (∀ (by_ : Seat) (addr : BitVec 48) (v : Word64) (s : State), let a := addr.toNat / 8 * 8
    let c := Instr.fenceWriteReject by_ addr v;
    (isDevice a = true → exec c s = .next (s.answer .error)) ∧
    (isDevice a = false → isRemote a = false → (by_ = 0 ∨ ∃ l, checkSeat by_.val a .write s = .ok l) → s.quenched by_.val = false →
      (s.fenced a 8 = true → exec c s = .next ((fenceViolation by_.val s).answer .error)) ∧
      (s.fenced a 8 = false → (s.memGate by_.val a = .wait → exec c s = .next s) ∧ (s.memGate by_.val a = .error → exec c s = .next (s.answer .error)) ∧
        (s.memGate by_.val a = .ok → isPrs a = false → isBnv a = false → (by_ = 0 ∨ isSave a = false) →
          exec c s = .next ((cohWrite none a 8 v.toNat s).answer (.ok 0))))) ∧
    (s.fenced a 8 = true → s.seatLocked = true ∧ s.get MMU_FBASE_PAGE * 0x1000 < a + 8 ∧ a < (s.get MMU_FLIM_PAGE + 1) * 0x1000) ∧
    (s.flag MMU_STAT_FVIOL = false → fenceViolation by_.val s = raiseSrc 217 ((s.put MMU_STAT_FVIOL 1).put MMU_STAT_FSEAT by_.val)))

/-- R43, R440, R588: a step takes the command at the front of the queue and is that command with the queue's rest; with nothing
waiting, time passes by one PER_CLK edge (log 3): before the reference clock runs nothing happens, and before the PLL has
locked device time stands still. No word of the command table spells a command, for its rows give no bits. -/
def Obligations.StepRunsTheFrontCommand : Prop :=
  (∀ (c : Instr) (rest : List Instr) (s : State), s.pending = c :: rest → step s = exec c { s with pending := rest }) ∧
  (∀ s : State, s.pending = [] → step s = idleTick s) ∧
  (∀ s : State, s.pending = [] → (s.device = .reset ∨ s.device = .off) → step s = .next s) ∧
  (∀ s : State, s.pending = [] → s.device = .starting → (∀ n ∈ customerSeats, s.flag DBG_GRANT_VALID n = false) → s.refPhase + 1 < 200 →
    step s = .next { s with refPhase := s.refPhase + 1 }) ∧
  (∀ s : State, s.pending = [] → (s.device = .on ∨ s.device = .standby) → (∀ n ∈ customerSeats, s.flag DBG_GRANT_VALID n = false) →
    s.refPhase + 1 < 200 → step s = .next (perClkEdge { s with refPhase := s.refPhase + 1, trigOut := s.trigOut - 1 })) ∧
  (∀ nbits w : Nat, decodeTableWord nbits w = none) ∧ (∀ (s : State) (nbits w : Nat), s.withFetchWord nbits w = s)

/-- R15, R119, R449, R482: the machine after reset. Its queue is empty, its sparse stores are canonical and list nothing, every
register of the map holds the reset value of its Reset column, no fuse is blown, the cores are held in Monitor level with
traps enabled off, and nothing runs. The values that the spec does not give are the model's (logs 1, 2, 4). -/
def Obligations.ResetState : Prop :=
  let s := State.reset
  s.pending = [] ∧ s.Canonical ∧ s.regs = [] ∧ s.mem = [] ∧ s.poison = [] ∧ s.fuses = 0 ∧ s.device = .reset ∧ s.svp = .held ∧
  (∀ k : CoreId, (s.core k).run = .held ∧ (s.core k).pl = 3 ∧ (s.core k).ie = false ∧ (s.core k).reservation = none ∧ (s.core k).seatid = 0) ∧
  (∀ n : LaneId, (s.lane n.val) = Lane.initial) ∧
  (∀ r ∈ regTable, s.reg r r.i0 r.j0 = r.resetValue) ∧
  (∀ a : Nat, s.word a = (resetWord a).toNat) ∧ (∀ a : Nat, s.byte a = 0) ∧
  s.lifeCycle = 0 ∧ s.seatLocked = false ∧ s.dealLocked = false

/-- Whatever a step does, everything that the machine stores sparsely stays in canonical form: no register word, byte of memory
or flash or micro-word is listed twice, out of order or at the value that an unlisted one reads as, so that equal contents
are equal states. -/
def Obligations.StepKeepsCanonicalForm : Prop := ∀ s t : State, s.Canonical → step s = .next t → t.Canonical

/-- R477, R481, R484, R486: no step, reset or power loss unblows a fuse. A blown fuse still reads 1, a rollback counter does not
fall, a group that is blown stays blown, so that the life cycle that the fuses give does not return to a lower state, and a
revoked key slot stays revoked. -/
def Obligations.BlownFusesStayBlown : Prop :=
  ∀ s t : State, step s = .next t →
    (∀ i, s.fuse i = true → t.fuse i = true) ∧ (∀ c, s.rollback c ≤ t.rollback c) ∧
    (∀ f, f ≤ 4 → s.fuseSet f = true → t.fuseSet f = true) ∧ s.groupState ≤ t.groupState ∧
    (∀ k, k ≤ 8 → s.slotRevoked k = true → t.slotRevoked k = true)

/-- R7, R278, R348: memory. A store of n bytes reads back as its value, little-endian, and leaves every other byte alone; zeroed
bytes read 0; a store that covers a poisoned unit heals it, and one elsewhere does not; a unit that is poisoned shows in
every access that touches it. What a byte that nothing has written reads as is the model's choice, 0 (log 4). -/
def Obligations.MemoryReadsBack : Prop :=
  (∀ (s : State) (a n v : Nat), Memory.wf s.mem = true → let t := s.writeMem a n v
    t.readMem a n = v % 256 ^ n ∧ (∀ i < n, t.byte (a + i) = BitVec.ofNat 8 (v / 256 ^ i)) ∧
    (∀ b, b < a ∨ a + n ≤ b → t.byte b = s.byte b) ∧ Memory.wf t.mem = true ∧ t.regs = s.regs) ∧
  (∀ (s : State) (a n : Nat), let t := s.zeroMem a n
    (∀ b, a ≤ b → b < a + n → t.byte b = 0) ∧ (∀ b, b < a ∨ a + n ≤ b → t.byte b = s.byte b)) ∧
  (∀ (s : State) (a n b m : Nat), s.readMem b m < 256 ^ m ∧ (b + m ≤ a ∨ a + n ≤ b → ∀ v, (s.writeMem a n v).readMem b m = s.readMem b m)) ∧
  (∀ (s : State) (a n v p : Nat), p ∈ (s.writeMem a n v).poison ↔ p ∈ s.poison ∧ ¬ (a ≤ p ∧ p + poisonSize p ≤ a + n)) ∧
  (∀ (s : State) (a p : Nat), p ∈ (s.poisonWord a).poison ↔ p ∈ s.poison ∨ p = poisonBase a) ∧
  (∀ (s : State) (a n : Nat), 0 < n → (s.poisonWord a).poisoned a n = true)

/-- R90 to R92, R102, R109: what stands before the effect of a core instruction. One that its core cannot issue changes nothing, nor
does one whose fetch waits; a fetch that fails raises its exception; a function code that is not the instruction's raises
0x01 whatever the condition; one whose condition fails retires with no effect, or, where a field of it is illegal, raises
0x01. The outcome of a conditional branch that is not taken is traced (log 28). -/
def Obligations.CoreInstructionChecks : Prop :=
  (∀ (c : Instr) (i : Issue) (s : State), c.issue? = some i →
    (s.mayIssue i.core = false → exec c s = .next s) ∧
    (s.mayIssue i.core = true → (s.core i.core).rep = none →
      (∀ t, fetchAt i.core (s.core i.core).pc.toNat s = (.wait, t) → exec c s = .next s) ∧
      (∀ e t, fetchAt i.core (s.core i.core).pc.toNat s = (.exc e, t) →
        exec c s = .next (raiseExc i.core (t.core i.core).oldest e t t)))) ∧
  (∀ (c : Instr) (i : Issue) (s t : State), c.issue? = some i → s.Fetches i.core t →
    condHolds i.cond (t.core i.core).flags = false →
    exec c s = .next (retire i.core t) ∨ exec c s = .next (retire i.core (traceAtom i.core false t)) ∨
      exec c s = .next (raiseExc i.core (t.core i.core).oldest (excPlain 0x01) t t)) ∧
  (∀ (i : Issue) (a : RArgs) (s t : State), s.Fetches i.core t →
    ∀ x ∈ [(0x00, Instr.add i a), (0x01, .sub i a), (0x02, .addc i a), (0x03, .subc i a), (0x04, .and i a), (0x05, .or i a),
      (0x06, .xor i a), (0x07, .andn i a), (0x08, .shl i a), (0x09, .shr i a), (0x0A, .sra i a), (0x0B, .ror i a)],
    a.fn.toNat % 64 ≠ x.1 → exec x.2 s = .next (raiseExc i.core (t.core i.core).oldest (excPlain 0x01) t t)) ∧
  (∀ (i : Issue) (a : RArgs) (s t : State), s.Fetches i.core t → condHolds i.cond (t.core i.core).flags = false → a.fn.toNat % 64 = 0 →
    exec (.add i a) s = .next (retire i.core t))
end

