-- ==== Sys2Proof/Laws/Cells.lean ====
section
/-!
SUPPORT. Laws of sparse storage: what a read gives after a write or a clear, and that both keep the canonical form.
-/

set_option Elab.async false

namespace Sys2Proof.Laws

open Sys2Proof.Machine

variable {α : Type}

theorem keysAbove_iff (lo : Nat) (l : List (Nat × α)) : keysAbove lo l = true ↔ ∀ c ∈ l, lo < c.1 := by
  induction l with
  | nil => simp [keysAbove]
  | cons c rest ih => obtain ⟨k, v⟩ := c; simp [keysAbove, ih]

theorem cellGet_of_above (dflt : Nat → α) (a : Nat) (l : List (Nat × α)) (h : ∀ c ∈ l, a < c.1) :
    cellGet dflt a l = dflt a := by
  induction l with
  | nil => rfl
  | cons c rest ih =>
    obtain ⟨k, v⟩ := c
    have hk : a < k := h (k, v) (by simp)
    rw [cellGet, if_neg (by omega)]
    exact ih (fun c hc => h c (by simp [hc]))

/-- What a key holds after a clear. -/
theorem cellGet_cellClear (dflt : Nat → α) (p : Nat → Bool) (a : Nat) (l : List (Nat × α)) :
    cellGet dflt a (cellClear p l) = if p a then dflt a else cellGet dflt a l := by
  induction l with
  | nil => simp [cellClear, cellGet]
  | cons d rest ih =>
    obtain ⟨k, w⟩ := d
    simp only [cellClear, List.filter_cons] at ih ⊢
    by_cases hk : k = a
    · subst hk
      cases hp : p k
      · simp [cellGet]
      · simpa [cellGet, hp] using ih
    · cases hp : p k
      · simpa [cellGet, hk, hp] using ih
      · simpa [cellGet, hk, hp] using ih

variable [DecidableEq α]

/-- The canonical form, entry by entry. -/
theorem cellsWf_cons (dflt : Nat → α) (k : Nat) (v : α) (rest : List (Nat × α)) :
    cellsWf dflt ((k, v) :: rest) = true ↔ v ≠ dflt k ∧ (∀ c ∈ rest, k < c.1) ∧ cellsWf dflt rest = true := by
  simp [cellsWf, keysAbove_iff, and_assoc]

/-- Keys after a write: those before, and the key written. -/
theorem mem_cellSet {dflt : Nat → α} {a : Nat} {v : α} {l : List (Nat × α)} {c : Nat × α}
    (h : c ∈ cellSet dflt a v l) : c = (a, v) ∨ c ∈ l := by
  induction l with
  | nil => by_cases hv : v = dflt a <;> simp_all [cellSet]
  | cons d rest ih =>
    obtain ⟨k, w⟩ := d
    rw [cellSet] at h
    split at h
    · split at h
      · exact .inr h
      · rcases List.mem_cons.1 h with h | h
        · exact .inl h
        · exact .inr h
    · split at h
      · split at h
        · exact .inr (List.mem_cons_of_mem _ h)
        · rcases List.mem_cons.1 h with h | h
          · exact .inl h
          · exact .inr (List.mem_cons_of_mem _ h)
      · rcases List.mem_cons.1 h with h | h
        · exact .inr (h ▸ List.mem_cons_self)
        · rcases ih h with h | h
          · exact .inl h
          · exact .inr (List.mem_cons_of_mem _ h)

/-- A write keeps the canonical form. -/
theorem cellSet_wf {dflt : Nat → α} {l : List (Nat × α)} (a : Nat) (v : α) (h : cellsWf dflt l = true) :
    cellsWf dflt (cellSet dflt a v l) = true := by
  induction l with
  | nil => by_cases hv : v = dflt a <;> simp [cellSet, cellsWf, keysAbove, hv]
  | cons d rest ih =>
    obtain ⟨k, w⟩ := d
    obtain ⟨hw, ha, hr⟩ := (cellsWf_cons dflt k w rest).1 h
    rw [cellSet]
    split
    · rename_i hlt
      split
      · exact h
      · refine (cellsWf_cons ..).2 ⟨‹_›, ?_, h⟩
        intro c hc
        rcases List.mem_cons.1 hc with hc | hc
        · subst hc; exact hlt
        · have := ha c hc; omega
    · split
      · rename_i heq
        split
        · exact hr
        · subst heq; exact (cellsWf_cons ..).2 ⟨‹_›, ha, hr⟩
      · refine (cellsWf_cons ..).2 ⟨hw, ?_, ih hr⟩
        intro c hc
        rcases mem_cellSet hc with hc | hc
        · subst hc; show k < a; omega
        · exact ha c hc

/-- A clear keeps the canonical form. -/
theorem cellsWf_filter {dflt : Nat → α} {l : List (Nat × α)} (p : Nat × α → Bool) (h : cellsWf dflt l = true) :
    cellsWf dflt (l.filter p) = true := by
  induction l with
  | nil => rfl
  | cons d rest ih =>
    obtain ⟨k, w⟩ := d
    obtain ⟨hw, ha, hr⟩ := (cellsWf_cons dflt k w rest).1 h
    rw [List.filter_cons]
    split
    · exact (cellsWf_cons ..).2 ⟨hw, fun c hc => ha c (List.mem_of_mem_filter hc), ih hr⟩
    · exact ih hr

theorem cellClear_wf {dflt : Nat → α} {l : List (Nat × α)} (p : Nat → Bool) (h : cellsWf dflt l = true) :
    cellsWf dflt (cellClear p l) = true := cellsWf_filter _ h

/-- A read after a write to the same key gives the value written. -/
theorem cellGet_cellSet_same {dflt : Nat → α} {l : List (Nat × α)} (a : Nat) (v : α) (h : cellsWf dflt l = true) :
    cellGet dflt a (cellSet dflt a v l) = v := by
  induction l with
  | nil => by_cases hv : v = dflt a <;> simp [cellSet, cellGet, hv]
  | cons d rest ih =>
    obtain ⟨k, w⟩ := d
    obtain ⟨_, ha, hr⟩ := (cellsWf_cons dflt k w rest).1 h
    rw [cellSet]
    split
    · rename_i hlt
      split
      · rename_i hv
        rw [cellGet, if_neg (by omega), cellGet_of_above _ _ _ (fun c hc => by have := ha c hc; omega), hv]
      · simp [cellGet]
    · split
      · rename_i heq
        subst heq
        split
        · rename_i hv; rw [cellGet_of_above _ _ _ ha, hv]
        · simp [cellGet]
      · rename_i hne
        rw [cellGet, if_neg (fun e => hne e.symm)]
        exact ih hr

/-- A write leaves every other key alone. -/
theorem cellGet_cellSet_other {dflt : Nat → α} {l : List (Nat × α)} {a b : Nat} (v : α) (hab : a ≠ b) :
    cellGet dflt b (cellSet dflt a v l) = cellGet dflt b l := by
  induction l with
  | nil => by_cases hv : v = dflt a <;> simp [cellSet, cellGet, hv, hab]
  | cons d rest ih =>
    obtain ⟨k, w⟩ := d
    rw [cellSet]
    split
    · split
      · rfl
      · rw [cellGet, if_neg hab]
    · split
      · rename_i heq
        subst heq
        split <;> simp [cellGet, hab]
      · simp only [cellGet, ih]

end Sys2Proof.Laws
end

