-- ==== Sys2Proof/Laws/State.lean ====
section
/-!
SUPPORT. What the named updates leave alone, field by field, and what a read of a register word, of a core, gives after an
update.
-/

set_option Elab.async false

namespace Sys2Proof.Laws

open Sys2Proof.Machine

variable (s : State) (r : RegDef) (f : Fld) (k : CoreId) (c : Core) (g : Core → Core) (h : Lane → Lane) (a n v i j : Nat)

/-! ### setWord -/

@[simp] theorem setWord_pending : (s.setWord a v).pending = s.pending := rfl
@[simp] theorem setWord_mem : (s.setWord a v).mem = s.mem := rfl
@[simp] theorem setWord_poison : (s.setWord a v).poison = s.poison := rfl
@[simp] theorem setWord_fresh : (s.setWord a v).fresh = s.fresh := rfl
@[simp] theorem setWord_resp : (s.setWord a v).resp = s.resp := rfl
@[simp] theorem setWord_cores : (s.setWord a v).cores = s.cores := rfl
@[simp] theorem setWord_l2 : (s.setWord a v).l2 = s.l2 := rfl
@[simp] theorem setWord_msc : (s.setWord a v).msc = s.msc := rfl
@[simp] theorem setWord_mscLfsr : (s.setWord a v).mscLfsr = s.mscLfsr := rfl
@[simp] theorem setWord_mcsWords : (s.setWord a v).mcsWords = s.mcsWords := rfl
@[simp] theorem setWord_mcsBad : (s.setWord a v).mcsBad = s.mcsBad := rfl
@[simp] theorem setWord_sessions : (s.setWord a v).sessions = s.sessions := rfl
@[simp] theorem setWord_wciOut : (s.setWord a v).wciOut = s.wciOut := rfl
@[simp] theorem setWord_wciIn : (s.setWord a v).wciIn = s.wciIn := rfl
@[simp] theorem setWord_uclParts : (s.setWord a v).uclParts = s.uclParts := rfl
@[simp] theorem setWord_safeChannels : (s.setWord a v).safeChannels = s.safeChannels := rfl
@[simp] theorem setWord_safeOut : (s.setWord a v).safeOut = s.safeOut := rfl
@[simp] theorem setWord_update : (s.setWord a v).update = s.update := rfl
@[simp] theorem setWord_faultStore : (s.setWord a v).faultStore = s.faultStore := rfl
@[simp] theorem setWord_faultLost : (s.setWord a v).faultLost = s.faultLost := rfl
@[simp] theorem setWord_boundary : (s.setWord a v).boundary = s.boundary := rfl
@[simp] theorem setWord_vddDbg : (s.setWord a v).vddDbg = s.vddDbg := rfl
@[simp] theorem setWord_channels : (s.setWord a v).channels = s.channels := rfl
@[simp] theorem setWord_trigOut : (s.setWord a v).trigOut = s.trigOut := rfl
@[simp] theorem setWord_tapData : (s.setWord a v).tapData = s.tapData := rfl
@[simp] theorem setWord_tapRefused : (s.setWord a v).tapRefused = s.tapRefused := rfl
@[simp] theorem setWord_trcCore : (s.setWord a v).trcCore = s.trcCore := rfl
@[simp] theorem setWord_trcStim : (s.setWord a v).trcStim = s.trcStim := rfl
@[simp] theorem setWord_trcStopped : (s.setWord a v).trcStopped = s.trcStopped := rfl
@[simp] theorem setWord_traceSent : (s.setWord a v).traceSent = s.traceSent := rfl
@[simp] theorem setWord_seatChecking : (s.setWord a v).seatChecking = s.seatChecking := rfl
@[simp] theorem setWord_seatShares : (s.setWord a v).seatShares = s.seatShares := rfl
@[simp] theorem setWord_seatEntry : (s.setWord a v).seatEntry = s.seatEntry := rfl
@[simp] theorem setWord_tbsFrac : (s.setWord a v).tbsFrac = s.tbsFrac := rfl
@[simp] theorem setWord_tbsCaptured : (s.setWord a v).tbsCaptured = s.tbsCaptured := rfl
@[simp] theorem setWord_tbsOut : (s.setWord a v).tbsOut = s.tbsOut := rfl
@[simp] theorem setWord_tbsPulse : (s.setWord a v).tbsPulse = s.tbsPulse := rfl
@[simp] theorem setWord_tbsActed : (s.setWord a v).tbsActed = s.tbsActed := rfl
@[simp] theorem setWord_dealLen : (s.setWord a v).dealLen = s.dealLen := rfl
@[simp] theorem setWord_dealPassed : (s.setWord a v).dealPassed = s.dealPassed := rfl
@[simp] theorem setWord_inSvc : (s.setWord a v).inSvc = s.inSvc := rfl
@[simp] theorem setWord_stale : (s.setWord a v).stale = s.stale := rfl
@[simp] theorem setWord_lanes : (s.setWord a v).lanes = s.lanes := rfl
@[simp] theorem setWord_groups : (s.setWord a v).groups = s.groups := rfl
@[simp] theorem setWord_laneRan : (s.setWord a v).laneRan = s.laneRan := rfl
@[simp] theorem setWord_laneDeeds : (s.setWord a v).laneDeeds = s.laneDeeds := rfl
@[simp] theorem setWord_sdiSat : (s.setWord a v).sdiSat = s.sdiSat := rfl
@[simp] theorem setWord_hrp : (s.setWord a v).hrp = s.hrp := rfl
@[simp] theorem setWord_fuses : (s.setWord a v).fuses = s.fuses := rfl
@[simp] theorem setWord_fuseWritten : (s.setWord a v).fuseWritten = s.fuseWritten := rfl
@[simp] theorem setWord_fuseDestroyed : (s.setWord a v).fuseDestroyed = s.fuseDestroyed := rfl
@[simp] theorem setWord_fuseDamaged : (s.setWord a v).fuseDamaged = s.fuseDamaged := rfl
@[simp] theorem setWord_fuseOp : (s.setWord a v).fuseOp = s.fuseOp := rfl
@[simp] theorem setWord_creJobs : (s.setWord a v).creJobs = s.creJobs := rfl
@[simp] theorem setWord_flash : (s.setWord a v).flash = s.flash := rfl
@[simp] theorem setWord_svp : (s.setWord a v).svp = s.svp := rfl
@[simp] theorem setWord_image : (s.setWord a v).image = s.image := rfl
@[simp] theorem setWord_manifests : (s.setWord a v).manifests = s.manifests := rfl
@[simp] theorem setWord_restarts : (s.setWord a v).restarts = s.restarts := rfl
@[simp] theorem setWord_ucl : (s.setWord a v).ucl = s.ucl := rfl
@[simp] theorem setWord_members : (s.setWord a v).members = s.members := rfl
@[simp] theorem setWord_gates : (s.setWord a v).gates = s.gates := rfl
@[simp] theorem setWord_ethSent : (s.setWord a v).ethSent = s.ethSent := rfl
@[simp] theorem setWord_ethLink : (s.setWord a v).ethLink = s.ethLink := rfl
@[simp] theorem setWord_legacy : (s.setWord a v).legacy = s.legacy := rfl
@[simp] theorem setWord_gpioRbmis : (s.setWord a v).gpioRbmis = s.gpioRbmis := rfl
@[simp] theorem setWord_fabPorts : (s.setWord a v).fabPorts = s.fabPorts := rfl
@[simp] theorem setWord_fabSent : (s.setWord a v).fabSent = s.fabSent := rfl
@[simp] theorem setWord_dmc : (s.setWord a v).dmc = s.dmc := rfl
@[simp] theorem setWord_dstoreScrub : (s.setWord a v).dstoreScrub = s.dstoreScrub := rfl
@[simp] theorem setWord_faults : (s.setWord a v).faults = s.faults := rfl
@[simp] theorem setWord_clockBad : (s.setWord a v).clockBad = s.clockBad := rfl
@[simp] theorem setWord_critSamples : (s.setWord a v).critSamples = s.critSamples := rfl
@[simp] theorem setWord_cwdStopped : (s.setWord a v).cwdStopped = s.cwdStopped := rfl
@[simp] theorem setWord_swdStopped : (s.setWord a v).swdStopped = s.swdStopped := rfl
@[simp] theorem setWord_svpCount : (s.setWord a v).svpCount = s.svpCount := rfl
@[simp] theorem setWord_refPhase : (s.setWord a v).refPhase = s.refPhase := rfl
@[simp] theorem setWord_tokens : (s.setWord a v).tokens = s.tokens := rfl
@[simp] theorem setWord_tokenQueue : (s.setWord a v).tokenQueue = s.tokenQueue := rfl
@[simp] theorem setWord_relShare : (s.setWord a v).relShare = s.relShare := rfl
@[simp] theorem setWord_relPool : (s.setWord a v).relPool = s.relPool := rfl
@[simp] theorem setWord_pfRun : (s.setWord a v).pfRun = s.pfRun := rfl
@[simp] theorem setWord_pfHeld : (s.setWord a v).pfHeld = s.pfHeld := rfl
@[simp] theorem setWord_pwrVid : (s.setWord a v).pwrVid = s.pwrVid := rfl
@[simp] theorem setWord_device : (s.setWord a v).device = s.device := rfl
@[simp] theorem setWord_rails : (s.setWord a v).rails = s.rails := rfl
@[simp] theorem setWord_pwrEn : (s.setWord a v).pwrEn = s.pwrEn := rfl
@[simp] theorem setWord_srDrained : (s.setWord a v).srDrained = s.srDrained := rfl
@[simp] theorem setWord_pfAsked : (s.setWord a v).pfAsked = s.pfAsked := rfl
@[simp] theorem setWord_nonceHeld : (s.setWord a v).nonceHeld = s.nonceHeld := rfl
@[simp] theorem setWord_grantPhase : (s.setWord a v).grantPhase = s.grantPhase := rfl

/-! ### setReg -/

@[simp] theorem setReg_pending : (s.setReg r v i j).pending = s.pending := by unfold State.setReg; dsimp only; split <;> rfl
@[simp] theorem setReg_mem : (s.setReg r v i j).mem = s.mem := by unfold State.setReg; dsimp only; split <;> rfl
@[simp] theorem setReg_poison : (s.setReg r v i j).poison = s.poison := by unfold State.setReg; dsimp only; split <;> rfl
@[simp] theorem setReg_fresh : (s.setReg r v i j).fresh = s.fresh := by unfold State.setReg; dsimp only; split <;> rfl
@[simp] theorem setReg_resp : (s.setReg r v i j).resp = s.resp := by unfold State.setReg; dsimp only; split <;> rfl
@[simp] theorem setReg_cores : (s.setReg r v i j).cores = s.cores := by unfold State.setReg; dsimp only; split <;> rfl
@[simp] theorem setReg_l2 : (s.setReg r v i j).l2 = s.l2 := by unfold State.setReg; dsimp only; split <;> rfl
@[simp] theorem setReg_msc : (s.setReg r v i j).msc = s.msc := by unfold State.setReg; dsimp only; split <;> rfl
@[simp] theorem setReg_mscLfsr : (s.setReg r v i j).mscLfsr = s.mscLfsr := by unfold State.setReg; dsimp only; split <;> rfl
@[simp] theorem setReg_mcsWords : (s.setReg r v i j).mcsWords = s.mcsWords := by unfold State.setReg; dsimp only; split <;> rfl
@[simp] theorem setReg_mcsBad : (s.setReg r v i j).mcsBad = s.mcsBad := by unfold State.setReg; dsimp only; split <;> rfl
@[simp] theorem setReg_sessions : (s.setReg r v i j).sessions = s.sessions := by unfold State.setReg; dsimp only; split <;> rfl
@[simp] theorem setReg_wciOut : (s.setReg r v i j).wciOut = s.wciOut := by unfold State.setReg; dsimp only; split <;> rfl
@[simp] theorem setReg_wciIn : (s.setReg r v i j).wciIn = s.wciIn := by unfold State.setReg; dsimp only; split <;> rfl
@[simp] theorem setReg_uclParts : (s.setReg r v i j).uclParts = s.uclParts := by unfold State.setReg; dsimp only; split <;> rfl
@[simp] theorem setReg_safeChannels : (s.setReg r v i j).safeChannels = s.safeChannels := by unfold State.setReg; dsimp only; split <;> rfl
@[simp] theorem setReg_safeOut : (s.setReg r v i j).safeOut = s.safeOut := by unfold State.setReg; dsimp only; split <;> rfl
@[simp] theorem setReg_update : (s.setReg r v i j).update = s.update := by unfold State.setReg; dsimp only; split <;> rfl
@[simp] theorem setReg_faultStore : (s.setReg r v i j).faultStore = s.faultStore := by unfold State.setReg; dsimp only; split <;> rfl
@[simp] theorem setReg_faultLost : (s.setReg r v i j).faultLost = s.faultLost := by unfold State.setReg; dsimp only; split <;> rfl
@[simp] theorem setReg_boundary : (s.setReg r v i j).boundary = s.boundary := by unfold State.setReg; dsimp only; split <;> rfl
@[simp] theorem setReg_vddDbg : (s.setReg r v i j).vddDbg = s.vddDbg := by unfold State.setReg; dsimp only; split <;> rfl
@[simp] theorem setReg_channels : (s.setReg r v i j).channels = s.channels := by unfold State.setReg; dsimp only; split <;> rfl
@[simp] theorem setReg_trigOut : (s.setReg r v i j).trigOut = s.trigOut := by unfold State.setReg; dsimp only; split <;> rfl
@[simp] theorem setReg_tapData : (s.setReg r v i j).tapData = s.tapData := by unfold State.setReg; dsimp only; split <;> rfl
@[simp] theorem setReg_tapRefused : (s.setReg r v i j).tapRefused = s.tapRefused := by unfold State.setReg; dsimp only; split <;> rfl
@[simp] theorem setReg_trcCore : (s.setReg r v i j).trcCore = s.trcCore := by unfold State.setReg; dsimp only; split <;> rfl
@[simp] theorem setReg_trcStim : (s.setReg r v i j).trcStim = s.trcStim := by unfold State.setReg; dsimp only; split <;> rfl
@[simp] theorem setReg_trcStopped : (s.setReg r v i j).trcStopped = s.trcStopped := by unfold State.setReg; dsimp only; split <;> rfl
@[simp] theorem setReg_traceSent : (s.setReg r v i j).traceSent = s.traceSent := by unfold State.setReg; dsimp only; split <;> rfl
@[simp] theorem setReg_seatChecking : (s.setReg r v i j).seatChecking = s.seatChecking := by unfold State.setReg; dsimp only; split <;> rfl
@[simp] theorem setReg_seatShares : (s.setReg r v i j).seatShares = s.seatShares := by unfold State.setReg; dsimp only; split <;> rfl
@[simp] theorem setReg_seatEntry : (s.setReg r v i j).seatEntry = s.seatEntry := by unfold State.setReg; dsimp only; split <;> rfl
@[simp] theorem setReg_tbsFrac : (s.setReg r v i j).tbsFrac = s.tbsFrac := by unfold State.setReg; dsimp only; split <;> rfl
@[simp] theorem setReg_tbsCaptured : (s.setReg r v i j).tbsCaptured = s.tbsCaptured := by unfold State.setReg; dsimp only; split <;> rfl
@[simp] theorem setReg_tbsOut : (s.setReg r v i j).tbsOut = s.tbsOut := by unfold State.setReg; dsimp only; split <;> rfl
@[simp] theorem setReg_tbsPulse : (s.setReg r v i j).tbsPulse = s.tbsPulse := by unfold State.setReg; dsimp only; split <;> rfl
@[simp] theorem setReg_tbsActed : (s.setReg r v i j).tbsActed = s.tbsActed := by unfold State.setReg; dsimp only; split <;> rfl
@[simp] theorem setReg_dealLen : (s.setReg r v i j).dealLen = s.dealLen := by unfold State.setReg; dsimp only; split <;> rfl
@[simp] theorem setReg_dealPassed : (s.setReg r v i j).dealPassed = s.dealPassed := by unfold State.setReg; dsimp only; split <;> rfl
@[simp] theorem setReg_inSvc : (s.setReg r v i j).inSvc = s.inSvc := by unfold State.setReg; dsimp only; split <;> rfl
@[simp] theorem setReg_stale : (s.setReg r v i j).stale = s.stale := by unfold State.setReg; dsimp only; split <;> rfl
@[simp] theorem setReg_lanes : (s.setReg r v i j).lanes = s.lanes := by unfold State.setReg; dsimp only; split <;> rfl
@[simp] theorem setReg_groups : (s.setReg r v i j).groups = s.groups := by unfold State.setReg; dsimp only; split <;> rfl
@[simp] theorem setReg_laneRan : (s.setReg r v i j).laneRan = s.laneRan := by unfold State.setReg; dsimp only; split <;> rfl
@[simp] theorem setReg_laneDeeds : (s.setReg r v i j).laneDeeds = s.laneDeeds := by unfold State.setReg; dsimp only; split <;> rfl
@[simp] theorem setReg_sdiSat : (s.setReg r v i j).sdiSat = s.sdiSat := by unfold State.setReg; dsimp only; split <;> rfl
@[simp] theorem setReg_hrp : (s.setReg r v i j).hrp = s.hrp := by unfold State.setReg; dsimp only; split <;> rfl
@[simp] theorem setReg_fuses : (s.setReg r v i j).fuses = s.fuses := by unfold State.setReg; dsimp only; split <;> rfl
@[simp] theorem setReg_fuseWritten : (s.setReg r v i j).fuseWritten = s.fuseWritten := by unfold State.setReg; dsimp only; split <;> rfl
@[simp] theorem setReg_fuseDestroyed : (s.setReg r v i j).fuseDestroyed = s.fuseDestroyed := by unfold State.setReg; dsimp only; split <;> rfl
@[simp] theorem setReg_fuseDamaged : (s.setReg r v i j).fuseDamaged = s.fuseDamaged := by unfold State.setReg; dsimp only; split <;> rfl
@[simp] theorem setReg_fuseOp : (s.setReg r v i j).fuseOp = s.fuseOp := by unfold State.setReg; dsimp only; split <;> rfl
@[simp] theorem setReg_creJobs : (s.setReg r v i j).creJobs = s.creJobs := by unfold State.setReg; dsimp only; split <;> rfl
@[simp] theorem setReg_flash : (s.setReg r v i j).flash = s.flash := by unfold State.setReg; dsimp only; split <;> rfl
@[simp] theorem setReg_svp : (s.setReg r v i j).svp = s.svp := by unfold State.setReg; dsimp only; split <;> rfl
@[simp] theorem setReg_image : (s.setReg r v i j).image = s.image := by unfold State.setReg; dsimp only; split <;> rfl
@[simp] theorem setReg_manifests : (s.setReg r v i j).manifests = s.manifests := by unfold State.setReg; dsimp only; split <;> rfl
@[simp] theorem setReg_restarts : (s.setReg r v i j).restarts = s.restarts := by unfold State.setReg; dsimp only; split <;> rfl
@[simp] theorem setReg_ucl : (s.setReg r v i j).ucl = s.ucl := by unfold State.setReg; dsimp only; split <;> rfl
@[simp] theorem setReg_members : (s.setReg r v i j).members = s.members := by unfold State.setReg; dsimp only; split <;> rfl
@[simp] theorem setReg_gates : (s.setReg r v i j).gates = s.gates := by unfold State.setReg; dsimp only; split <;> rfl
@[simp] theorem setReg_ethSent : (s.setReg r v i j).ethSent = s.ethSent := by unfold State.setReg; dsimp only; split <;> rfl
@[simp] theorem setReg_ethLink : (s.setReg r v i j).ethLink = s.ethLink := by unfold State.setReg; dsimp only; split <;> rfl
@[simp] theorem setReg_legacy : (s.setReg r v i j).legacy = s.legacy := by unfold State.setReg; dsimp only; split <;> rfl
@[simp] theorem setReg_gpioRbmis : (s.setReg r v i j).gpioRbmis = s.gpioRbmis := by unfold State.setReg; dsimp only; split <;> rfl
@[simp] theorem setReg_fabPorts : (s.setReg r v i j).fabPorts = s.fabPorts := by unfold State.setReg; dsimp only; split <;> rfl
@[simp] theorem setReg_fabSent : (s.setReg r v i j).fabSent = s.fabSent := by unfold State.setReg; dsimp only; split <;> rfl
@[simp] theorem setReg_dmc : (s.setReg r v i j).dmc = s.dmc := by unfold State.setReg; dsimp only; split <;> rfl
@[simp] theorem setReg_dstoreScrub : (s.setReg r v i j).dstoreScrub = s.dstoreScrub := by unfold State.setReg; dsimp only; split <;> rfl
@[simp] theorem setReg_faults : (s.setReg r v i j).faults = s.faults := by unfold State.setReg; dsimp only; split <;> rfl
@[simp] theorem setReg_clockBad : (s.setReg r v i j).clockBad = s.clockBad := by unfold State.setReg; dsimp only; split <;> rfl
@[simp] theorem setReg_critSamples : (s.setReg r v i j).critSamples = s.critSamples := by unfold State.setReg; dsimp only; split <;> rfl
@[simp] theorem setReg_cwdStopped : (s.setReg r v i j).cwdStopped = s.cwdStopped := by unfold State.setReg; dsimp only; split <;> rfl
@[simp] theorem setReg_swdStopped : (s.setReg r v i j).swdStopped = s.swdStopped := by unfold State.setReg; dsimp only; split <;> rfl
@[simp] theorem setReg_svpCount : (s.setReg r v i j).svpCount = s.svpCount := by unfold State.setReg; dsimp only; split <;> rfl
@[simp] theorem setReg_refPhase : (s.setReg r v i j).refPhase = s.refPhase := by unfold State.setReg; dsimp only; split <;> rfl
@[simp] theorem setReg_tokens : (s.setReg r v i j).tokens = s.tokens := by unfold State.setReg; dsimp only; split <;> rfl
@[simp] theorem setReg_tokenQueue : (s.setReg r v i j).tokenQueue = s.tokenQueue := by unfold State.setReg; dsimp only; split <;> rfl
@[simp] theorem setReg_relShare : (s.setReg r v i j).relShare = s.relShare := by unfold State.setReg; dsimp only; split <;> rfl
@[simp] theorem setReg_relPool : (s.setReg r v i j).relPool = s.relPool := by unfold State.setReg; dsimp only; split <;> rfl
@[simp] theorem setReg_pfRun : (s.setReg r v i j).pfRun = s.pfRun := by unfold State.setReg; dsimp only; split <;> rfl
@[simp] theorem setReg_pfHeld : (s.setReg r v i j).pfHeld = s.pfHeld := by unfold State.setReg; dsimp only; split <;> rfl
@[simp] theorem setReg_pwrVid : (s.setReg r v i j).pwrVid = s.pwrVid := by unfold State.setReg; dsimp only; split <;> rfl
@[simp] theorem setReg_device : (s.setReg r v i j).device = s.device := by unfold State.setReg; dsimp only; split <;> rfl
@[simp] theorem setReg_rails : (s.setReg r v i j).rails = s.rails := by unfold State.setReg; dsimp only; split <;> rfl
@[simp] theorem setReg_pwrEn : (s.setReg r v i j).pwrEn = s.pwrEn := by unfold State.setReg; dsimp only; split <;> rfl
@[simp] theorem setReg_srDrained : (s.setReg r v i j).srDrained = s.srDrained := by unfold State.setReg; dsimp only; split <;> rfl
@[simp] theorem setReg_pfAsked : (s.setReg r v i j).pfAsked = s.pfAsked := by unfold State.setReg; dsimp only; split <;> rfl
@[simp] theorem setReg_nonceHeld : (s.setReg r v i j).nonceHeld = s.nonceHeld := by unfold State.setReg; dsimp only; split <;> rfl
@[simp] theorem setReg_grantPhase : (s.setReg r v i j).grantPhase = s.grantPhase := by unfold State.setReg; dsimp only; split <;> rfl

/-! ### put -/

@[simp] theorem put_pending : (s.put f v i j).pending = s.pending := setReg_pending ..
@[simp] theorem put_mem : (s.put f v i j).mem = s.mem := setReg_mem ..
@[simp] theorem put_poison : (s.put f v i j).poison = s.poison := setReg_poison ..
@[simp] theorem put_fresh : (s.put f v i j).fresh = s.fresh := setReg_fresh ..
@[simp] theorem put_resp : (s.put f v i j).resp = s.resp := setReg_resp ..
@[simp] theorem put_cores : (s.put f v i j).cores = s.cores := setReg_cores ..
@[simp] theorem put_l2 : (s.put f v i j).l2 = s.l2 := setReg_l2 ..
@[simp] theorem put_msc : (s.put f v i j).msc = s.msc := setReg_msc ..
@[simp] theorem put_mscLfsr : (s.put f v i j).mscLfsr = s.mscLfsr := setReg_mscLfsr ..
@[simp] theorem put_mcsWords : (s.put f v i j).mcsWords = s.mcsWords := setReg_mcsWords ..
@[simp] theorem put_mcsBad : (s.put f v i j).mcsBad = s.mcsBad := setReg_mcsBad ..
@[simp] theorem put_sessions : (s.put f v i j).sessions = s.sessions := setReg_sessions ..
@[simp] theorem put_wciOut : (s.put f v i j).wciOut = s.wciOut := setReg_wciOut ..
@[simp] theorem put_wciIn : (s.put f v i j).wciIn = s.wciIn := setReg_wciIn ..
@[simp] theorem put_uclParts : (s.put f v i j).uclParts = s.uclParts := setReg_uclParts ..
@[simp] theorem put_safeChannels : (s.put f v i j).safeChannels = s.safeChannels := setReg_safeChannels ..
@[simp] theorem put_safeOut : (s.put f v i j).safeOut = s.safeOut := setReg_safeOut ..
@[simp] theorem put_update : (s.put f v i j).update = s.update := setReg_update ..
@[simp] theorem put_faultStore : (s.put f v i j).faultStore = s.faultStore := setReg_faultStore ..
@[simp] theorem put_faultLost : (s.put f v i j).faultLost = s.faultLost := setReg_faultLost ..
@[simp] theorem put_boundary : (s.put f v i j).boundary = s.boundary := setReg_boundary ..
@[simp] theorem put_vddDbg : (s.put f v i j).vddDbg = s.vddDbg := setReg_vddDbg ..
@[simp] theorem put_channels : (s.put f v i j).channels = s.channels := setReg_channels ..
@[simp] theorem put_trigOut : (s.put f v i j).trigOut = s.trigOut := setReg_trigOut ..
@[simp] theorem put_tapData : (s.put f v i j).tapData = s.tapData := setReg_tapData ..
@[simp] theorem put_tapRefused : (s.put f v i j).tapRefused = s.tapRefused := setReg_tapRefused ..
@[simp] theorem put_trcCore : (s.put f v i j).trcCore = s.trcCore := setReg_trcCore ..
@[simp] theorem put_trcStim : (s.put f v i j).trcStim = s.trcStim := setReg_trcStim ..
@[simp] theorem put_trcStopped : (s.put f v i j).trcStopped = s.trcStopped := setReg_trcStopped ..
@[simp] theorem put_traceSent : (s.put f v i j).traceSent = s.traceSent := setReg_traceSent ..
@[simp] theorem put_seatChecking : (s.put f v i j).seatChecking = s.seatChecking := setReg_seatChecking ..
@[simp] theorem put_seatShares : (s.put f v i j).seatShares = s.seatShares := setReg_seatShares ..
@[simp] theorem put_seatEntry : (s.put f v i j).seatEntry = s.seatEntry := setReg_seatEntry ..
@[simp] theorem put_tbsFrac : (s.put f v i j).tbsFrac = s.tbsFrac := setReg_tbsFrac ..
@[simp] theorem put_tbsCaptured : (s.put f v i j).tbsCaptured = s.tbsCaptured := setReg_tbsCaptured ..
@[simp] theorem put_tbsOut : (s.put f v i j).tbsOut = s.tbsOut := setReg_tbsOut ..
@[simp] theorem put_tbsPulse : (s.put f v i j).tbsPulse = s.tbsPulse := setReg_tbsPulse ..
@[simp] theorem put_tbsActed : (s.put f v i j).tbsActed = s.tbsActed := setReg_tbsActed ..
@[simp] theorem put_dealLen : (s.put f v i j).dealLen = s.dealLen := setReg_dealLen ..
@[simp] theorem put_dealPassed : (s.put f v i j).dealPassed = s.dealPassed := setReg_dealPassed ..
@[simp] theorem put_inSvc : (s.put f v i j).inSvc = s.inSvc := setReg_inSvc ..
@[simp] theorem put_stale : (s.put f v i j).stale = s.stale := setReg_stale ..
@[simp] theorem put_lanes : (s.put f v i j).lanes = s.lanes := setReg_lanes ..
@[simp] theorem put_groups : (s.put f v i j).groups = s.groups := setReg_groups ..
@[simp] theorem put_laneRan : (s.put f v i j).laneRan = s.laneRan := setReg_laneRan ..
@[simp] theorem put_laneDeeds : (s.put f v i j).laneDeeds = s.laneDeeds := setReg_laneDeeds ..
@[simp] theorem put_sdiSat : (s.put f v i j).sdiSat = s.sdiSat := setReg_sdiSat ..
@[simp] theorem put_hrp : (s.put f v i j).hrp = s.hrp := setReg_hrp ..
@[simp] theorem put_fuses : (s.put f v i j).fuses = s.fuses := setReg_fuses ..
@[simp] theorem put_fuseWritten : (s.put f v i j).fuseWritten = s.fuseWritten := setReg_fuseWritten ..
@[simp] theorem put_fuseDestroyed : (s.put f v i j).fuseDestroyed = s.fuseDestroyed := setReg_fuseDestroyed ..
@[simp] theorem put_fuseDamaged : (s.put f v i j).fuseDamaged = s.fuseDamaged := setReg_fuseDamaged ..
@[simp] theorem put_fuseOp : (s.put f v i j).fuseOp = s.fuseOp := setReg_fuseOp ..
@[simp] theorem put_creJobs : (s.put f v i j).creJobs = s.creJobs := setReg_creJobs ..
@[simp] theorem put_flash : (s.put f v i j).flash = s.flash := setReg_flash ..
@[simp] theorem put_svp : (s.put f v i j).svp = s.svp := setReg_svp ..
@[simp] theorem put_image : (s.put f v i j).image = s.image := setReg_image ..
@[simp] theorem put_manifests : (s.put f v i j).manifests = s.manifests := setReg_manifests ..
@[simp] theorem put_restarts : (s.put f v i j).restarts = s.restarts := setReg_restarts ..
@[simp] theorem put_ucl : (s.put f v i j).ucl = s.ucl := setReg_ucl ..
@[simp] theorem put_members : (s.put f v i j).members = s.members := setReg_members ..
@[simp] theorem put_gates : (s.put f v i j).gates = s.gates := setReg_gates ..
@[simp] theorem put_ethSent : (s.put f v i j).ethSent = s.ethSent := setReg_ethSent ..
@[simp] theorem put_ethLink : (s.put f v i j).ethLink = s.ethLink := setReg_ethLink ..
@[simp] theorem put_legacy : (s.put f v i j).legacy = s.legacy := setReg_legacy ..
@[simp] theorem put_gpioRbmis : (s.put f v i j).gpioRbmis = s.gpioRbmis := setReg_gpioRbmis ..
@[simp] theorem put_fabPorts : (s.put f v i j).fabPorts = s.fabPorts := setReg_fabPorts ..
@[simp] theorem put_fabSent : (s.put f v i j).fabSent = s.fabSent := setReg_fabSent ..
@[simp] theorem put_dmc : (s.put f v i j).dmc = s.dmc := setReg_dmc ..
@[simp] theorem put_dstoreScrub : (s.put f v i j).dstoreScrub = s.dstoreScrub := setReg_dstoreScrub ..
@[simp] theorem put_faults : (s.put f v i j).faults = s.faults := setReg_faults ..
@[simp] theorem put_clockBad : (s.put f v i j).clockBad = s.clockBad := setReg_clockBad ..
@[simp] theorem put_critSamples : (s.put f v i j).critSamples = s.critSamples := setReg_critSamples ..
@[simp] theorem put_cwdStopped : (s.put f v i j).cwdStopped = s.cwdStopped := setReg_cwdStopped ..
@[simp] theorem put_swdStopped : (s.put f v i j).swdStopped = s.swdStopped := setReg_swdStopped ..
@[simp] theorem put_svpCount : (s.put f v i j).svpCount = s.svpCount := setReg_svpCount ..
@[simp] theorem put_refPhase : (s.put f v i j).refPhase = s.refPhase := setReg_refPhase ..
@[simp] theorem put_tokens : (s.put f v i j).tokens = s.tokens := setReg_tokens ..
@[simp] theorem put_tokenQueue : (s.put f v i j).tokenQueue = s.tokenQueue := setReg_tokenQueue ..
@[simp] theorem put_relShare : (s.put f v i j).relShare = s.relShare := setReg_relShare ..
@[simp] theorem put_relPool : (s.put f v i j).relPool = s.relPool := setReg_relPool ..
@[simp] theorem put_pfRun : (s.put f v i j).pfRun = s.pfRun := setReg_pfRun ..
@[simp] theorem put_pfHeld : (s.put f v i j).pfHeld = s.pfHeld := setReg_pfHeld ..
@[simp] theorem put_pwrVid : (s.put f v i j).pwrVid = s.pwrVid := setReg_pwrVid ..
@[simp] theorem put_device : (s.put f v i j).device = s.device := setReg_device ..
@[simp] theorem put_rails : (s.put f v i j).rails = s.rails := setReg_rails ..
@[simp] theorem put_pwrEn : (s.put f v i j).pwrEn = s.pwrEn := setReg_pwrEn ..
@[simp] theorem put_srDrained : (s.put f v i j).srDrained = s.srDrained := setReg_srDrained ..
@[simp] theorem put_pfAsked : (s.put f v i j).pfAsked = s.pfAsked := setReg_pfAsked ..
@[simp] theorem put_nonceHeld : (s.put f v i j).nonceHeld = s.nonceHeld := setReg_nonceHeld ..
@[simp] theorem put_grantPhase : (s.put f v i j).grantPhase = s.grantPhase := setReg_grantPhase ..

/-! ### raiseSrc -/

@[simp] theorem raiseSrc_pending : (raiseSrc n s).pending = s.pending := by unfold raiseSrc; split <;> simp
@[simp] theorem raiseSrc_mem : (raiseSrc n s).mem = s.mem := by unfold raiseSrc; split <;> simp
@[simp] theorem raiseSrc_poison : (raiseSrc n s).poison = s.poison := by unfold raiseSrc; split <;> simp
@[simp] theorem raiseSrc_fresh : (raiseSrc n s).fresh = s.fresh := by unfold raiseSrc; split <;> simp
@[simp] theorem raiseSrc_resp : (raiseSrc n s).resp = s.resp := by unfold raiseSrc; split <;> simp
@[simp] theorem raiseSrc_cores : (raiseSrc n s).cores = s.cores := by unfold raiseSrc; split <;> simp
@[simp] theorem raiseSrc_l2 : (raiseSrc n s).l2 = s.l2 := by unfold raiseSrc; split <;> simp
@[simp] theorem raiseSrc_msc : (raiseSrc n s).msc = s.msc := by unfold raiseSrc; split <;> simp
@[simp] theorem raiseSrc_mscLfsr : (raiseSrc n s).mscLfsr = s.mscLfsr := by unfold raiseSrc; split <;> simp
@[simp] theorem raiseSrc_mcsWords : (raiseSrc n s).mcsWords = s.mcsWords := by unfold raiseSrc; split <;> simp
@[simp] theorem raiseSrc_mcsBad : (raiseSrc n s).mcsBad = s.mcsBad := by unfold raiseSrc; split <;> simp
@[simp] theorem raiseSrc_sessions : (raiseSrc n s).sessions = s.sessions := by unfold raiseSrc; split <;> simp
@[simp] theorem raiseSrc_wciOut : (raiseSrc n s).wciOut = s.wciOut := by unfold raiseSrc; split <;> simp
@[simp] theorem raiseSrc_wciIn : (raiseSrc n s).wciIn = s.wciIn := by unfold raiseSrc; split <;> simp
@[simp] theorem raiseSrc_uclParts : (raiseSrc n s).uclParts = s.uclParts := by unfold raiseSrc; split <;> simp
@[simp] theorem raiseSrc_safeChannels : (raiseSrc n s).safeChannels = s.safeChannels := by unfold raiseSrc; split <;> simp
@[simp] theorem raiseSrc_safeOut : (raiseSrc n s).safeOut = s.safeOut := by unfold raiseSrc; split <;> simp
@[simp] theorem raiseSrc_update : (raiseSrc n s).update = s.update := by unfold raiseSrc; split <;> simp
@[simp] theorem raiseSrc_faultStore : (raiseSrc n s).faultStore = s.faultStore := by unfold raiseSrc; split <;> simp
@[simp] theorem raiseSrc_faultLost : (raiseSrc n s).faultLost = s.faultLost := by unfold raiseSrc; split <;> simp
@[simp] theorem raiseSrc_boundary : (raiseSrc n s).boundary = s.boundary := by unfold raiseSrc; split <;> simp
@[simp] theorem raiseSrc_vddDbg : (raiseSrc n s).vddDbg = s.vddDbg := by unfold raiseSrc; split <;> simp
@[simp] theorem raiseSrc_channels : (raiseSrc n s).channels = s.channels := by unfold raiseSrc; split <;> simp
@[simp] theorem raiseSrc_trigOut : (raiseSrc n s).trigOut = s.trigOut := by unfold raiseSrc; split <;> simp
@[simp] theorem raiseSrc_tapData : (raiseSrc n s).tapData = s.tapData := by unfold raiseSrc; split <;> simp
@[simp] theorem raiseSrc_tapRefused : (raiseSrc n s).tapRefused = s.tapRefused := by unfold raiseSrc; split <;> simp
@[simp] theorem raiseSrc_trcCore : (raiseSrc n s).trcCore = s.trcCore := by unfold raiseSrc; split <;> simp
@[simp] theorem raiseSrc_trcStim : (raiseSrc n s).trcStim = s.trcStim := by unfold raiseSrc; split <;> simp
@[simp] theorem raiseSrc_trcStopped : (raiseSrc n s).trcStopped = s.trcStopped := by unfold raiseSrc; split <;> simp
@[simp] theorem raiseSrc_traceSent : (raiseSrc n s).traceSent = s.traceSent := by unfold raiseSrc; split <;> simp
@[simp] theorem raiseSrc_seatChecking : (raiseSrc n s).seatChecking = s.seatChecking := by unfold raiseSrc; split <;> simp
@[simp] theorem raiseSrc_seatShares : (raiseSrc n s).seatShares = s.seatShares := by unfold raiseSrc; split <;> simp
@[simp] theorem raiseSrc_seatEntry : (raiseSrc n s).seatEntry = s.seatEntry := by unfold raiseSrc; split <;> simp
@[simp] theorem raiseSrc_tbsFrac : (raiseSrc n s).tbsFrac = s.tbsFrac := by unfold raiseSrc; split <;> simp
@[simp] theorem raiseSrc_tbsCaptured : (raiseSrc n s).tbsCaptured = s.tbsCaptured := by unfold raiseSrc; split <;> simp
@[simp] theorem raiseSrc_tbsOut : (raiseSrc n s).tbsOut = s.tbsOut := by unfold raiseSrc; split <;> simp
@[simp] theorem raiseSrc_tbsPulse : (raiseSrc n s).tbsPulse = s.tbsPulse := by unfold raiseSrc; split <;> simp
@[simp] theorem raiseSrc_tbsActed : (raiseSrc n s).tbsActed = s.tbsActed := by unfold raiseSrc; split <;> simp
@[simp] theorem raiseSrc_dealLen : (raiseSrc n s).dealLen = s.dealLen := by unfold raiseSrc; split <;> simp
@[simp] theorem raiseSrc_dealPassed : (raiseSrc n s).dealPassed = s.dealPassed := by unfold raiseSrc; split <;> simp
@[simp] theorem raiseSrc_inSvc : (raiseSrc n s).inSvc = s.inSvc := by unfold raiseSrc; split <;> simp
@[simp] theorem raiseSrc_stale : (raiseSrc n s).stale = s.stale := by unfold raiseSrc; split <;> simp
@[simp] theorem raiseSrc_lanes : (raiseSrc n s).lanes = s.lanes := by unfold raiseSrc; split <;> simp
@[simp] theorem raiseSrc_groups : (raiseSrc n s).groups = s.groups := by unfold raiseSrc; split <;> simp
@[simp] theorem raiseSrc_laneRan : (raiseSrc n s).laneRan = s.laneRan := by unfold raiseSrc; split <;> simp
@[simp] theorem raiseSrc_laneDeeds : (raiseSrc n s).laneDeeds = s.laneDeeds := by unfold raiseSrc; split <;> simp
@[simp] theorem raiseSrc_sdiSat : (raiseSrc n s).sdiSat = s.sdiSat := by unfold raiseSrc; split <;> simp
@[simp] theorem raiseSrc_hrp : (raiseSrc n s).hrp = s.hrp := by unfold raiseSrc; split <;> simp
@[simp] theorem raiseSrc_fuses : (raiseSrc n s).fuses = s.fuses := by unfold raiseSrc; split <;> simp
@[simp] theorem raiseSrc_fuseWritten : (raiseSrc n s).fuseWritten = s.fuseWritten := by unfold raiseSrc; split <;> simp
@[simp] theorem raiseSrc_fuseDestroyed : (raiseSrc n s).fuseDestroyed = s.fuseDestroyed := by unfold raiseSrc; split <;> simp
@[simp] theorem raiseSrc_fuseDamaged : (raiseSrc n s).fuseDamaged = s.fuseDamaged := by unfold raiseSrc; split <;> simp
@[simp] theorem raiseSrc_fuseOp : (raiseSrc n s).fuseOp = s.fuseOp := by unfold raiseSrc; split <;> simp
@[simp] theorem raiseSrc_creJobs : (raiseSrc n s).creJobs = s.creJobs := by unfold raiseSrc; split <;> simp
@[simp] theorem raiseSrc_flash : (raiseSrc n s).flash = s.flash := by unfold raiseSrc; split <;> simp
@[simp] theorem raiseSrc_svp : (raiseSrc n s).svp = s.svp := by unfold raiseSrc; split <;> simp
@[simp] theorem raiseSrc_image : (raiseSrc n s).image = s.image := by unfold raiseSrc; split <;> simp
@[simp] theorem raiseSrc_manifests : (raiseSrc n s).manifests = s.manifests := by unfold raiseSrc; split <;> simp
@[simp] theorem raiseSrc_restarts : (raiseSrc n s).restarts = s.restarts := by unfold raiseSrc; split <;> simp
@[simp] theorem raiseSrc_ucl : (raiseSrc n s).ucl = s.ucl := by unfold raiseSrc; split <;> simp
@[simp] theorem raiseSrc_members : (raiseSrc n s).members = s.members := by unfold raiseSrc; split <;> simp
@[simp] theorem raiseSrc_gates : (raiseSrc n s).gates = s.gates := by unfold raiseSrc; split <;> simp
@[simp] theorem raiseSrc_ethSent : (raiseSrc n s).ethSent = s.ethSent := by unfold raiseSrc; split <;> simp
@[simp] theorem raiseSrc_ethLink : (raiseSrc n s).ethLink = s.ethLink := by unfold raiseSrc; split <;> simp
@[simp] theorem raiseSrc_legacy : (raiseSrc n s).legacy = s.legacy := by unfold raiseSrc; split <;> simp
@[simp] theorem raiseSrc_gpioRbmis : (raiseSrc n s).gpioRbmis = s.gpioRbmis := by unfold raiseSrc; split <;> simp
@[simp] theorem raiseSrc_fabPorts : (raiseSrc n s).fabPorts = s.fabPorts := by unfold raiseSrc; split <;> simp
@[simp] theorem raiseSrc_fabSent : (raiseSrc n s).fabSent = s.fabSent := by unfold raiseSrc; split <;> simp
@[simp] theorem raiseSrc_dmc : (raiseSrc n s).dmc = s.dmc := by unfold raiseSrc; split <;> simp
@[simp] theorem raiseSrc_dstoreScrub : (raiseSrc n s).dstoreScrub = s.dstoreScrub := by unfold raiseSrc; split <;> simp
@[simp] theorem raiseSrc_faults : (raiseSrc n s).faults = s.faults := by unfold raiseSrc; split <;> simp
@[simp] theorem raiseSrc_clockBad : (raiseSrc n s).clockBad = s.clockBad := by unfold raiseSrc; split <;> simp
@[simp] theorem raiseSrc_critSamples : (raiseSrc n s).critSamples = s.critSamples := by unfold raiseSrc; split <;> simp
@[simp] theorem raiseSrc_cwdStopped : (raiseSrc n s).cwdStopped = s.cwdStopped := by unfold raiseSrc; split <;> simp
@[simp] theorem raiseSrc_swdStopped : (raiseSrc n s).swdStopped = s.swdStopped := by unfold raiseSrc; split <;> simp
@[simp] theorem raiseSrc_svpCount : (raiseSrc n s).svpCount = s.svpCount := by unfold raiseSrc; split <;> simp
@[simp] theorem raiseSrc_refPhase : (raiseSrc n s).refPhase = s.refPhase := by unfold raiseSrc; split <;> simp
@[simp] theorem raiseSrc_tokens : (raiseSrc n s).tokens = s.tokens := by unfold raiseSrc; split <;> simp
@[simp] theorem raiseSrc_tokenQueue : (raiseSrc n s).tokenQueue = s.tokenQueue := by unfold raiseSrc; split <;> simp
@[simp] theorem raiseSrc_relShare : (raiseSrc n s).relShare = s.relShare := by unfold raiseSrc; split <;> simp
@[simp] theorem raiseSrc_relPool : (raiseSrc n s).relPool = s.relPool := by unfold raiseSrc; split <;> simp
@[simp] theorem raiseSrc_pfRun : (raiseSrc n s).pfRun = s.pfRun := by unfold raiseSrc; split <;> simp
@[simp] theorem raiseSrc_pfHeld : (raiseSrc n s).pfHeld = s.pfHeld := by unfold raiseSrc; split <;> simp
@[simp] theorem raiseSrc_pwrVid : (raiseSrc n s).pwrVid = s.pwrVid := by unfold raiseSrc; split <;> simp
@[simp] theorem raiseSrc_device : (raiseSrc n s).device = s.device := by unfold raiseSrc; split <;> simp
@[simp] theorem raiseSrc_rails : (raiseSrc n s).rails = s.rails := by unfold raiseSrc; split <;> simp
@[simp] theorem raiseSrc_pwrEn : (raiseSrc n s).pwrEn = s.pwrEn := by unfold raiseSrc; split <;> simp
@[simp] theorem raiseSrc_srDrained : (raiseSrc n s).srDrained = s.srDrained := by unfold raiseSrc; split <;> simp
@[simp] theorem raiseSrc_pfAsked : (raiseSrc n s).pfAsked = s.pfAsked := by unfold raiseSrc; split <;> simp
@[simp] theorem raiseSrc_nonceHeld : (raiseSrc n s).nonceHeld = s.nonceHeld := by unfold raiseSrc; split <;> simp
@[simp] theorem raiseSrc_grantPhase : (raiseSrc n s).grantPhase = s.grantPhase := by unfold raiseSrc; split <;> simp

/-! ### clearRegs -/

@[simp] theorem clearRegs_pending (p : Nat → Bool) : (s.clearRegs p).pending = s.pending := rfl
@[simp] theorem clearRegs_mem (p : Nat → Bool) : (s.clearRegs p).mem = s.mem := rfl
@[simp] theorem clearRegs_poison (p : Nat → Bool) : (s.clearRegs p).poison = s.poison := rfl
@[simp] theorem clearRegs_fresh (p : Nat → Bool) : (s.clearRegs p).fresh = s.fresh := rfl
@[simp] theorem clearRegs_resp (p : Nat → Bool) : (s.clearRegs p).resp = s.resp := rfl
@[simp] theorem clearRegs_cores (p : Nat → Bool) : (s.clearRegs p).cores = s.cores := rfl
@[simp] theorem clearRegs_l2 (p : Nat → Bool) : (s.clearRegs p).l2 = s.l2 := rfl
@[simp] theorem clearRegs_msc (p : Nat → Bool) : (s.clearRegs p).msc = s.msc := rfl
@[simp] theorem clearRegs_mscLfsr (p : Nat → Bool) : (s.clearRegs p).mscLfsr = s.mscLfsr := rfl
@[simp] theorem clearRegs_mcsWords (p : Nat → Bool) : (s.clearRegs p).mcsWords = s.mcsWords := rfl
@[simp] theorem clearRegs_mcsBad (p : Nat → Bool) : (s.clearRegs p).mcsBad = s.mcsBad := rfl
@[simp] theorem clearRegs_sessions (p : Nat → Bool) : (s.clearRegs p).sessions = s.sessions := rfl
@[simp] theorem clearRegs_wciOut (p : Nat → Bool) : (s.clearRegs p).wciOut = s.wciOut := rfl
@[simp] theorem clearRegs_wciIn (p : Nat → Bool) : (s.clearRegs p).wciIn = s.wciIn := rfl
@[simp] theorem clearRegs_uclParts (p : Nat → Bool) : (s.clearRegs p).uclParts = s.uclParts := rfl
@[simp] theorem clearRegs_safeChannels (p : Nat → Bool) : (s.clearRegs p).safeChannels = s.safeChannels := rfl
@[simp] theorem clearRegs_safeOut (p : Nat → Bool) : (s.clearRegs p).safeOut = s.safeOut := rfl
@[simp] theorem clearRegs_update (p : Nat → Bool) : (s.clearRegs p).update = s.update := rfl
@[simp] theorem clearRegs_faultStore (p : Nat → Bool) : (s.clearRegs p).faultStore = s.faultStore := rfl
@[simp] theorem clearRegs_faultLost (p : Nat → Bool) : (s.clearRegs p).faultLost = s.faultLost := rfl
@[simp] theorem clearRegs_boundary (p : Nat → Bool) : (s.clearRegs p).boundary = s.boundary := rfl
@[simp] theorem clearRegs_vddDbg (p : Nat → Bool) : (s.clearRegs p).vddDbg = s.vddDbg := rfl
@[simp] theorem clearRegs_channels (p : Nat → Bool) : (s.clearRegs p).channels = s.channels := rfl
@[simp] theorem clearRegs_trigOut (p : Nat → Bool) : (s.clearRegs p).trigOut = s.trigOut := rfl
@[simp] theorem clearRegs_tapData (p : Nat → Bool) : (s.clearRegs p).tapData = s.tapData := rfl
@[simp] theorem clearRegs_tapRefused (p : Nat → Bool) : (s.clearRegs p).tapRefused = s.tapRefused := rfl
@[simp] theorem clearRegs_trcCore (p : Nat → Bool) : (s.clearRegs p).trcCore = s.trcCore := rfl
@[simp] theorem clearRegs_trcStim (p : Nat → Bool) : (s.clearRegs p).trcStim = s.trcStim := rfl
@[simp] theorem clearRegs_trcStopped (p : Nat → Bool) : (s.clearRegs p).trcStopped = s.trcStopped := rfl
@[simp] theorem clearRegs_traceSent (p : Nat → Bool) : (s.clearRegs p).traceSent = s.traceSent := rfl
@[simp] theorem clearRegs_seatChecking (p : Nat → Bool) : (s.clearRegs p).seatChecking = s.seatChecking := rfl
@[simp] theorem clearRegs_seatShares (p : Nat → Bool) : (s.clearRegs p).seatShares = s.seatShares := rfl
@[simp] theorem clearRegs_seatEntry (p : Nat → Bool) : (s.clearRegs p).seatEntry = s.seatEntry := rfl
@[simp] theorem clearRegs_tbsFrac (p : Nat → Bool) : (s.clearRegs p).tbsFrac = s.tbsFrac := rfl
@[simp] theorem clearRegs_tbsCaptured (p : Nat → Bool) : (s.clearRegs p).tbsCaptured = s.tbsCaptured := rfl
@[simp] theorem clearRegs_tbsOut (p : Nat → Bool) : (s.clearRegs p).tbsOut = s.tbsOut := rfl
@[simp] theorem clearRegs_tbsPulse (p : Nat → Bool) : (s.clearRegs p).tbsPulse = s.tbsPulse := rfl
@[simp] theorem clearRegs_tbsActed (p : Nat → Bool) : (s.clearRegs p).tbsActed = s.tbsActed := rfl
@[simp] theorem clearRegs_dealLen (p : Nat → Bool) : (s.clearRegs p).dealLen = s.dealLen := rfl
@[simp] theorem clearRegs_dealPassed (p : Nat → Bool) : (s.clearRegs p).dealPassed = s.dealPassed := rfl
@[simp] theorem clearRegs_inSvc (p : Nat → Bool) : (s.clearRegs p).inSvc = s.inSvc := rfl
@[simp] theorem clearRegs_stale (p : Nat → Bool) : (s.clearRegs p).stale = s.stale := rfl
@[simp] theorem clearRegs_lanes (p : Nat → Bool) : (s.clearRegs p).lanes = s.lanes := rfl
@[simp] theorem clearRegs_groups (p : Nat → Bool) : (s.clearRegs p).groups = s.groups := rfl
@[simp] theorem clearRegs_laneRan (p : Nat → Bool) : (s.clearRegs p).laneRan = s.laneRan := rfl
@[simp] theorem clearRegs_laneDeeds (p : Nat → Bool) : (s.clearRegs p).laneDeeds = s.laneDeeds := rfl
@[simp] theorem clearRegs_sdiSat (p : Nat → Bool) : (s.clearRegs p).sdiSat = s.sdiSat := rfl
@[simp] theorem clearRegs_hrp (p : Nat → Bool) : (s.clearRegs p).hrp = s.hrp := rfl
@[simp] theorem clearRegs_fuses (p : Nat → Bool) : (s.clearRegs p).fuses = s.fuses := rfl
@[simp] theorem clearRegs_fuseWritten (p : Nat → Bool) : (s.clearRegs p).fuseWritten = s.fuseWritten := rfl
@[simp] theorem clearRegs_fuseDestroyed (p : Nat → Bool) : (s.clearRegs p).fuseDestroyed = s.fuseDestroyed := rfl
@[simp] theorem clearRegs_fuseDamaged (p : Nat → Bool) : (s.clearRegs p).fuseDamaged = s.fuseDamaged := rfl
@[simp] theorem clearRegs_fuseOp (p : Nat → Bool) : (s.clearRegs p).fuseOp = s.fuseOp := rfl
@[simp] theorem clearRegs_creJobs (p : Nat → Bool) : (s.clearRegs p).creJobs = s.creJobs := rfl
@[simp] theorem clearRegs_flash (p : Nat → Bool) : (s.clearRegs p).flash = s.flash := rfl
@[simp] theorem clearRegs_svp (p : Nat → Bool) : (s.clearRegs p).svp = s.svp := rfl
@[simp] theorem clearRegs_image (p : Nat → Bool) : (s.clearRegs p).image = s.image := rfl
@[simp] theorem clearRegs_manifests (p : Nat → Bool) : (s.clearRegs p).manifests = s.manifests := rfl
@[simp] theorem clearRegs_restarts (p : Nat → Bool) : (s.clearRegs p).restarts = s.restarts := rfl
@[simp] theorem clearRegs_ucl (p : Nat → Bool) : (s.clearRegs p).ucl = s.ucl := rfl
@[simp] theorem clearRegs_members (p : Nat → Bool) : (s.clearRegs p).members = s.members := rfl
@[simp] theorem clearRegs_gates (p : Nat → Bool) : (s.clearRegs p).gates = s.gates := rfl
@[simp] theorem clearRegs_ethSent (p : Nat → Bool) : (s.clearRegs p).ethSent = s.ethSent := rfl
@[simp] theorem clearRegs_ethLink (p : Nat → Bool) : (s.clearRegs p).ethLink = s.ethLink := rfl
@[simp] theorem clearRegs_legacy (p : Nat → Bool) : (s.clearRegs p).legacy = s.legacy := rfl
@[simp] theorem clearRegs_gpioRbmis (p : Nat → Bool) : (s.clearRegs p).gpioRbmis = s.gpioRbmis := rfl
@[simp] theorem clearRegs_fabPorts (p : Nat → Bool) : (s.clearRegs p).fabPorts = s.fabPorts := rfl
@[simp] theorem clearRegs_fabSent (p : Nat → Bool) : (s.clearRegs p).fabSent = s.fabSent := rfl
@[simp] theorem clearRegs_dmc (p : Nat → Bool) : (s.clearRegs p).dmc = s.dmc := rfl
@[simp] theorem clearRegs_dstoreScrub (p : Nat → Bool) : (s.clearRegs p).dstoreScrub = s.dstoreScrub := rfl
@[simp] theorem clearRegs_faults (p : Nat → Bool) : (s.clearRegs p).faults = s.faults := rfl
@[simp] theorem clearRegs_clockBad (p : Nat → Bool) : (s.clearRegs p).clockBad = s.clockBad := rfl
@[simp] theorem clearRegs_critSamples (p : Nat → Bool) : (s.clearRegs p).critSamples = s.critSamples := rfl
@[simp] theorem clearRegs_cwdStopped (p : Nat → Bool) : (s.clearRegs p).cwdStopped = s.cwdStopped := rfl
@[simp] theorem clearRegs_swdStopped (p : Nat → Bool) : (s.clearRegs p).swdStopped = s.swdStopped := rfl
@[simp] theorem clearRegs_svpCount (p : Nat → Bool) : (s.clearRegs p).svpCount = s.svpCount := rfl
@[simp] theorem clearRegs_refPhase (p : Nat → Bool) : (s.clearRegs p).refPhase = s.refPhase := rfl
@[simp] theorem clearRegs_tokens (p : Nat → Bool) : (s.clearRegs p).tokens = s.tokens := rfl
@[simp] theorem clearRegs_tokenQueue (p : Nat → Bool) : (s.clearRegs p).tokenQueue = s.tokenQueue := rfl
@[simp] theorem clearRegs_relShare (p : Nat → Bool) : (s.clearRegs p).relShare = s.relShare := rfl
@[simp] theorem clearRegs_relPool (p : Nat → Bool) : (s.clearRegs p).relPool = s.relPool := rfl
@[simp] theorem clearRegs_pfRun (p : Nat → Bool) : (s.clearRegs p).pfRun = s.pfRun := rfl
@[simp] theorem clearRegs_pfHeld (p : Nat → Bool) : (s.clearRegs p).pfHeld = s.pfHeld := rfl
@[simp] theorem clearRegs_pwrVid (p : Nat → Bool) : (s.clearRegs p).pwrVid = s.pwrVid := rfl
@[simp] theorem clearRegs_device (p : Nat → Bool) : (s.clearRegs p).device = s.device := rfl
@[simp] theorem clearRegs_rails (p : Nat → Bool) : (s.clearRegs p).rails = s.rails := rfl
@[simp] theorem clearRegs_pwrEn (p : Nat → Bool) : (s.clearRegs p).pwrEn = s.pwrEn := rfl
@[simp] theorem clearRegs_srDrained (p : Nat → Bool) : (s.clearRegs p).srDrained = s.srDrained := rfl
@[simp] theorem clearRegs_pfAsked (p : Nat → Bool) : (s.clearRegs p).pfAsked = s.pfAsked := rfl
@[simp] theorem clearRegs_nonceHeld (p : Nat → Bool) : (s.clearRegs p).nonceHeld = s.nonceHeld := rfl
@[simp] theorem clearRegs_grantPhase (p : Nat → Bool) : (s.clearRegs p).grantPhase = s.grantPhase := rfl

/-! ### writeMem -/

@[simp] theorem writeMem_pending : (s.writeMem a n v).pending = s.pending := rfl
@[simp] theorem writeMem_regs : (s.writeMem a n v).regs = s.regs := rfl
@[simp] theorem writeMem_fresh : (s.writeMem a n v).fresh = s.fresh := rfl
@[simp] theorem writeMem_resp : (s.writeMem a n v).resp = s.resp := rfl
@[simp] theorem writeMem_cores : (s.writeMem a n v).cores = s.cores := rfl
@[simp] theorem writeMem_l2 : (s.writeMem a n v).l2 = s.l2 := rfl
@[simp] theorem writeMem_msc : (s.writeMem a n v).msc = s.msc := rfl
@[simp] theorem writeMem_mscLfsr : (s.writeMem a n v).mscLfsr = s.mscLfsr := rfl
@[simp] theorem writeMem_mcsWords : (s.writeMem a n v).mcsWords = s.mcsWords := rfl
@[simp] theorem writeMem_mcsBad : (s.writeMem a n v).mcsBad = s.mcsBad := rfl
@[simp] theorem writeMem_sessions : (s.writeMem a n v).sessions = s.sessions := rfl
@[simp] theorem writeMem_wciOut : (s.writeMem a n v).wciOut = s.wciOut := rfl
@[simp] theorem writeMem_wciIn : (s.writeMem a n v).wciIn = s.wciIn := rfl
@[simp] theorem writeMem_uclParts : (s.writeMem a n v).uclParts = s.uclParts := rfl
@[simp] theorem writeMem_safeChannels : (s.writeMem a n v).safeChannels = s.safeChannels := rfl
@[simp] theorem writeMem_safeOut : (s.writeMem a n v).safeOut = s.safeOut := rfl
@[simp] theorem writeMem_update : (s.writeMem a n v).update = s.update := rfl
@[simp] theorem writeMem_faultStore : (s.writeMem a n v).faultStore = s.faultStore := rfl
@[simp] theorem writeMem_faultLost : (s.writeMem a n v).faultLost = s.faultLost := rfl
@[simp] theorem writeMem_boundary : (s.writeMem a n v).boundary = s.boundary := rfl
@[simp] theorem writeMem_vddDbg : (s.writeMem a n v).vddDbg = s.vddDbg := rfl
@[simp] theorem writeMem_channels : (s.writeMem a n v).channels = s.channels := rfl
@[simp] theorem writeMem_trigOut : (s.writeMem a n v).trigOut = s.trigOut := rfl
@[simp] theorem writeMem_tapData : (s.writeMem a n v).tapData = s.tapData := rfl
@[simp] theorem writeMem_tapRefused : (s.writeMem a n v).tapRefused = s.tapRefused := rfl
@[simp] theorem writeMem_trcCore : (s.writeMem a n v).trcCore = s.trcCore := rfl
@[simp] theorem writeMem_trcStim : (s.writeMem a n v).trcStim = s.trcStim := rfl
@[simp] theorem writeMem_trcStopped : (s.writeMem a n v).trcStopped = s.trcStopped := rfl
@[simp] theorem writeMem_traceSent : (s.writeMem a n v).traceSent = s.traceSent := rfl
@[simp] theorem writeMem_seatChecking : (s.writeMem a n v).seatChecking = s.seatChecking := rfl
@[simp] theorem writeMem_seatShares : (s.writeMem a n v).seatShares = s.seatShares := rfl
@[simp] theorem writeMem_seatEntry : (s.writeMem a n v).seatEntry = s.seatEntry := rfl
@[simp] theorem writeMem_tbsFrac : (s.writeMem a n v).tbsFrac = s.tbsFrac := rfl
@[simp] theorem writeMem_tbsCaptured : (s.writeMem a n v).tbsCaptured = s.tbsCaptured := rfl
@[simp] theorem writeMem_tbsOut : (s.writeMem a n v).tbsOut = s.tbsOut := rfl
@[simp] theorem writeMem_tbsPulse : (s.writeMem a n v).tbsPulse = s.tbsPulse := rfl
@[simp] theorem writeMem_tbsActed : (s.writeMem a n v).tbsActed = s.tbsActed := rfl
@[simp] theorem writeMem_dealLen : (s.writeMem a n v).dealLen = s.dealLen := rfl
@[simp] theorem writeMem_dealPassed : (s.writeMem a n v).dealPassed = s.dealPassed := rfl
@[simp] theorem writeMem_inSvc : (s.writeMem a n v).inSvc = s.inSvc := rfl
@[simp] theorem writeMem_stale : (s.writeMem a n v).stale = s.stale := rfl
@[simp] theorem writeMem_lanes : (s.writeMem a n v).lanes = s.lanes := rfl
@[simp] theorem writeMem_groups : (s.writeMem a n v).groups = s.groups := rfl
@[simp] theorem writeMem_laneRan : (s.writeMem a n v).laneRan = s.laneRan := rfl
@[simp] theorem writeMem_laneDeeds : (s.writeMem a n v).laneDeeds = s.laneDeeds := rfl
@[simp] theorem writeMem_sdiSat : (s.writeMem a n v).sdiSat = s.sdiSat := rfl
@[simp] theorem writeMem_hrp : (s.writeMem a n v).hrp = s.hrp := rfl
@[simp] theorem writeMem_fuses : (s.writeMem a n v).fuses = s.fuses := rfl
@[simp] theorem writeMem_fuseWritten : (s.writeMem a n v).fuseWritten = s.fuseWritten := rfl
@[simp] theorem writeMem_fuseDestroyed : (s.writeMem a n v).fuseDestroyed = s.fuseDestroyed := rfl
@[simp] theorem writeMem_fuseDamaged : (s.writeMem a n v).fuseDamaged = s.fuseDamaged := rfl
@[simp] theorem writeMem_fuseOp : (s.writeMem a n v).fuseOp = s.fuseOp := rfl
@[simp] theorem writeMem_creJobs : (s.writeMem a n v).creJobs = s.creJobs := rfl
@[simp] theorem writeMem_flash : (s.writeMem a n v).flash = s.flash := rfl
@[simp] theorem writeMem_svp : (s.writeMem a n v).svp = s.svp := rfl
@[simp] theorem writeMem_image : (s.writeMem a n v).image = s.image := rfl
@[simp] theorem writeMem_manifests : (s.writeMem a n v).manifests = s.manifests := rfl
@[simp] theorem writeMem_restarts : (s.writeMem a n v).restarts = s.restarts := rfl
@[simp] theorem writeMem_ucl : (s.writeMem a n v).ucl = s.ucl := rfl
@[simp] theorem writeMem_members : (s.writeMem a n v).members = s.members := rfl
@[simp] theorem writeMem_gates : (s.writeMem a n v).gates = s.gates := rfl
@[simp] theorem writeMem_ethSent : (s.writeMem a n v).ethSent = s.ethSent := rfl
@[simp] theorem writeMem_ethLink : (s.writeMem a n v).ethLink = s.ethLink := rfl
@[simp] theorem writeMem_legacy : (s.writeMem a n v).legacy = s.legacy := rfl
@[simp] theorem writeMem_gpioRbmis : (s.writeMem a n v).gpioRbmis = s.gpioRbmis := rfl
@[simp] theorem writeMem_fabPorts : (s.writeMem a n v).fabPorts = s.fabPorts := rfl
@[simp] theorem writeMem_fabSent : (s.writeMem a n v).fabSent = s.fabSent := rfl
@[simp] theorem writeMem_dmc : (s.writeMem a n v).dmc = s.dmc := rfl
@[simp] theorem writeMem_dstoreScrub : (s.writeMem a n v).dstoreScrub = s.dstoreScrub := rfl
@[simp] theorem writeMem_faults : (s.writeMem a n v).faults = s.faults := rfl
@[simp] theorem writeMem_clockBad : (s.writeMem a n v).clockBad = s.clockBad := rfl
@[simp] theorem writeMem_critSamples : (s.writeMem a n v).critSamples = s.critSamples := rfl
@[simp] theorem writeMem_cwdStopped : (s.writeMem a n v).cwdStopped = s.cwdStopped := rfl
@[simp] theorem writeMem_swdStopped : (s.writeMem a n v).swdStopped = s.swdStopped := rfl
@[simp] theorem writeMem_svpCount : (s.writeMem a n v).svpCount = s.svpCount := rfl
@[simp] theorem writeMem_refPhase : (s.writeMem a n v).refPhase = s.refPhase := rfl
@[simp] theorem writeMem_tokens : (s.writeMem a n v).tokens = s.tokens := rfl
@[simp] theorem writeMem_tokenQueue : (s.writeMem a n v).tokenQueue = s.tokenQueue := rfl
@[simp] theorem writeMem_relShare : (s.writeMem a n v).relShare = s.relShare := rfl
@[simp] theorem writeMem_relPool : (s.writeMem a n v).relPool = s.relPool := rfl
@[simp] theorem writeMem_pfRun : (s.writeMem a n v).pfRun = s.pfRun := rfl
@[simp] theorem writeMem_pfHeld : (s.writeMem a n v).pfHeld = s.pfHeld := rfl
@[simp] theorem writeMem_pwrVid : (s.writeMem a n v).pwrVid = s.pwrVid := rfl
@[simp] theorem writeMem_device : (s.writeMem a n v).device = s.device := rfl
@[simp] theorem writeMem_rails : (s.writeMem a n v).rails = s.rails := rfl
@[simp] theorem writeMem_pwrEn : (s.writeMem a n v).pwrEn = s.pwrEn := rfl
@[simp] theorem writeMem_srDrained : (s.writeMem a n v).srDrained = s.srDrained := rfl
@[simp] theorem writeMem_pfAsked : (s.writeMem a n v).pfAsked = s.pfAsked := rfl
@[simp] theorem writeMem_nonceHeld : (s.writeMem a n v).nonceHeld = s.nonceHeld := rfl
@[simp] theorem writeMem_grantPhase : (s.writeMem a n v).grantPhase = s.grantPhase := rfl

/-! ### zeroMem -/

@[simp] theorem zeroMem_pending : (s.zeroMem a n).pending = s.pending := rfl
@[simp] theorem zeroMem_regs : (s.zeroMem a n).regs = s.regs := rfl
@[simp] theorem zeroMem_fresh : (s.zeroMem a n).fresh = s.fresh := rfl
@[simp] theorem zeroMem_resp : (s.zeroMem a n).resp = s.resp := rfl
@[simp] theorem zeroMem_cores : (s.zeroMem a n).cores = s.cores := rfl
@[simp] theorem zeroMem_l2 : (s.zeroMem a n).l2 = s.l2 := rfl
@[simp] theorem zeroMem_msc : (s.zeroMem a n).msc = s.msc := rfl
@[simp] theorem zeroMem_mscLfsr : (s.zeroMem a n).mscLfsr = s.mscLfsr := rfl
@[simp] theorem zeroMem_mcsWords : (s.zeroMem a n).mcsWords = s.mcsWords := rfl
@[simp] theorem zeroMem_mcsBad : (s.zeroMem a n).mcsBad = s.mcsBad := rfl
@[simp] theorem zeroMem_sessions : (s.zeroMem a n).sessions = s.sessions := rfl
@[simp] theorem zeroMem_wciOut : (s.zeroMem a n).wciOut = s.wciOut := rfl
@[simp] theorem zeroMem_wciIn : (s.zeroMem a n).wciIn = s.wciIn := rfl
@[simp] theorem zeroMem_uclParts : (s.zeroMem a n).uclParts = s.uclParts := rfl
@[simp] theorem zeroMem_safeChannels : (s.zeroMem a n).safeChannels = s.safeChannels := rfl
@[simp] theorem zeroMem_safeOut : (s.zeroMem a n).safeOut = s.safeOut := rfl
@[simp] theorem zeroMem_update : (s.zeroMem a n).update = s.update := rfl
@[simp] theorem zeroMem_faultStore : (s.zeroMem a n).faultStore = s.faultStore := rfl
@[simp] theorem zeroMem_faultLost : (s.zeroMem a n).faultLost = s.faultLost := rfl
@[simp] theorem zeroMem_boundary : (s.zeroMem a n).boundary = s.boundary := rfl
@[simp] theorem zeroMem_vddDbg : (s.zeroMem a n).vddDbg = s.vddDbg := rfl
@[simp] theorem zeroMem_channels : (s.zeroMem a n).channels = s.channels := rfl
@[simp] theorem zeroMem_trigOut : (s.zeroMem a n).trigOut = s.trigOut := rfl
@[simp] theorem zeroMem_tapData : (s.zeroMem a n).tapData = s.tapData := rfl
@[simp] theorem zeroMem_tapRefused : (s.zeroMem a n).tapRefused = s.tapRefused := rfl
@[simp] theorem zeroMem_trcCore : (s.zeroMem a n).trcCore = s.trcCore := rfl
@[simp] theorem zeroMem_trcStim : (s.zeroMem a n).trcStim = s.trcStim := rfl
@[simp] theorem zeroMem_trcStopped : (s.zeroMem a n).trcStopped = s.trcStopped := rfl
@[simp] theorem zeroMem_traceSent : (s.zeroMem a n).traceSent = s.traceSent := rfl
@[simp] theorem zeroMem_seatChecking : (s.zeroMem a n).seatChecking = s.seatChecking := rfl
@[simp] theorem zeroMem_seatShares : (s.zeroMem a n).seatShares = s.seatShares := rfl
@[simp] theorem zeroMem_seatEntry : (s.zeroMem a n).seatEntry = s.seatEntry := rfl
@[simp] theorem zeroMem_tbsFrac : (s.zeroMem a n).tbsFrac = s.tbsFrac := rfl
@[simp] theorem zeroMem_tbsCaptured : (s.zeroMem a n).tbsCaptured = s.tbsCaptured := rfl
@[simp] theorem zeroMem_tbsOut : (s.zeroMem a n).tbsOut = s.tbsOut := rfl
@[simp] theorem zeroMem_tbsPulse : (s.zeroMem a n).tbsPulse = s.tbsPulse := rfl
@[simp] theorem zeroMem_tbsActed : (s.zeroMem a n).tbsActed = s.tbsActed := rfl
@[simp] theorem zeroMem_dealLen : (s.zeroMem a n).dealLen = s.dealLen := rfl
@[simp] theorem zeroMem_dealPassed : (s.zeroMem a n).dealPassed = s.dealPassed := rfl
@[simp] theorem zeroMem_inSvc : (s.zeroMem a n).inSvc = s.inSvc := rfl
@[simp] theorem zeroMem_stale : (s.zeroMem a n).stale = s.stale := rfl
@[simp] theorem zeroMem_lanes : (s.zeroMem a n).lanes = s.lanes := rfl
@[simp] theorem zeroMem_groups : (s.zeroMem a n).groups = s.groups := rfl
@[simp] theorem zeroMem_laneRan : (s.zeroMem a n).laneRan = s.laneRan := rfl
@[simp] theorem zeroMem_laneDeeds : (s.zeroMem a n).laneDeeds = s.laneDeeds := rfl
@[simp] theorem zeroMem_sdiSat : (s.zeroMem a n).sdiSat = s.sdiSat := rfl
@[simp] theorem zeroMem_hrp : (s.zeroMem a n).hrp = s.hrp := rfl
@[simp] theorem zeroMem_fuses : (s.zeroMem a n).fuses = s.fuses := rfl
@[simp] theorem zeroMem_fuseWritten : (s.zeroMem a n).fuseWritten = s.fuseWritten := rfl
@[simp] theorem zeroMem_fuseDestroyed : (s.zeroMem a n).fuseDestroyed = s.fuseDestroyed := rfl
@[simp] theorem zeroMem_fuseDamaged : (s.zeroMem a n).fuseDamaged = s.fuseDamaged := rfl
@[simp] theorem zeroMem_fuseOp : (s.zeroMem a n).fuseOp = s.fuseOp := rfl
@[simp] theorem zeroMem_creJobs : (s.zeroMem a n).creJobs = s.creJobs := rfl
@[simp] theorem zeroMem_flash : (s.zeroMem a n).flash = s.flash := rfl
@[simp] theorem zeroMem_svp : (s.zeroMem a n).svp = s.svp := rfl
@[simp] theorem zeroMem_image : (s.zeroMem a n).image = s.image := rfl
@[simp] theorem zeroMem_manifests : (s.zeroMem a n).manifests = s.manifests := rfl
@[simp] theorem zeroMem_restarts : (s.zeroMem a n).restarts = s.restarts := rfl
@[simp] theorem zeroMem_ucl : (s.zeroMem a n).ucl = s.ucl := rfl
@[simp] theorem zeroMem_members : (s.zeroMem a n).members = s.members := rfl
@[simp] theorem zeroMem_gates : (s.zeroMem a n).gates = s.gates := rfl
@[simp] theorem zeroMem_ethSent : (s.zeroMem a n).ethSent = s.ethSent := rfl
@[simp] theorem zeroMem_ethLink : (s.zeroMem a n).ethLink = s.ethLink := rfl
@[simp] theorem zeroMem_legacy : (s.zeroMem a n).legacy = s.legacy := rfl
@[simp] theorem zeroMem_gpioRbmis : (s.zeroMem a n).gpioRbmis = s.gpioRbmis := rfl
@[simp] theorem zeroMem_fabPorts : (s.zeroMem a n).fabPorts = s.fabPorts := rfl
@[simp] theorem zeroMem_fabSent : (s.zeroMem a n).fabSent = s.fabSent := rfl
@[simp] theorem zeroMem_dmc : (s.zeroMem a n).dmc = s.dmc := rfl
@[simp] theorem zeroMem_dstoreScrub : (s.zeroMem a n).dstoreScrub = s.dstoreScrub := rfl
@[simp] theorem zeroMem_faults : (s.zeroMem a n).faults = s.faults := rfl
@[simp] theorem zeroMem_clockBad : (s.zeroMem a n).clockBad = s.clockBad := rfl
@[simp] theorem zeroMem_critSamples : (s.zeroMem a n).critSamples = s.critSamples := rfl
@[simp] theorem zeroMem_cwdStopped : (s.zeroMem a n).cwdStopped = s.cwdStopped := rfl
@[simp] theorem zeroMem_swdStopped : (s.zeroMem a n).swdStopped = s.swdStopped := rfl
@[simp] theorem zeroMem_svpCount : (s.zeroMem a n).svpCount = s.svpCount := rfl
@[simp] theorem zeroMem_refPhase : (s.zeroMem a n).refPhase = s.refPhase := rfl
@[simp] theorem zeroMem_tokens : (s.zeroMem a n).tokens = s.tokens := rfl
@[simp] theorem zeroMem_tokenQueue : (s.zeroMem a n).tokenQueue = s.tokenQueue := rfl
@[simp] theorem zeroMem_relShare : (s.zeroMem a n).relShare = s.relShare := rfl
@[simp] theorem zeroMem_relPool : (s.zeroMem a n).relPool = s.relPool := rfl
@[simp] theorem zeroMem_pfRun : (s.zeroMem a n).pfRun = s.pfRun := rfl
@[simp] theorem zeroMem_pfHeld : (s.zeroMem a n).pfHeld = s.pfHeld := rfl
@[simp] theorem zeroMem_pwrVid : (s.zeroMem a n).pwrVid = s.pwrVid := rfl
@[simp] theorem zeroMem_device : (s.zeroMem a n).device = s.device := rfl
@[simp] theorem zeroMem_rails : (s.zeroMem a n).rails = s.rails := rfl
@[simp] theorem zeroMem_pwrEn : (s.zeroMem a n).pwrEn = s.pwrEn := rfl
@[simp] theorem zeroMem_srDrained : (s.zeroMem a n).srDrained = s.srDrained := rfl
@[simp] theorem zeroMem_pfAsked : (s.zeroMem a n).pfAsked = s.pfAsked := rfl
@[simp] theorem zeroMem_nonceHeld : (s.zeroMem a n).nonceHeld = s.nonceHeld := rfl
@[simp] theorem zeroMem_grantPhase : (s.zeroMem a n).grantPhase = s.grantPhase := rfl

/-! ### poisonWord -/

@[simp] theorem poisonWord_pending : (s.poisonWord a).pending = s.pending := rfl
@[simp] theorem poisonWord_regs : (s.poisonWord a).regs = s.regs := rfl
@[simp] theorem poisonWord_mem : (s.poisonWord a).mem = s.mem := rfl
@[simp] theorem poisonWord_fresh : (s.poisonWord a).fresh = s.fresh := rfl
@[simp] theorem poisonWord_resp : (s.poisonWord a).resp = s.resp := rfl
@[simp] theorem poisonWord_cores : (s.poisonWord a).cores = s.cores := rfl
@[simp] theorem poisonWord_l2 : (s.poisonWord a).l2 = s.l2 := rfl
@[simp] theorem poisonWord_msc : (s.poisonWord a).msc = s.msc := rfl
@[simp] theorem poisonWord_mscLfsr : (s.poisonWord a).mscLfsr = s.mscLfsr := rfl
@[simp] theorem poisonWord_mcsWords : (s.poisonWord a).mcsWords = s.mcsWords := rfl
@[simp] theorem poisonWord_mcsBad : (s.poisonWord a).mcsBad = s.mcsBad := rfl
@[simp] theorem poisonWord_sessions : (s.poisonWord a).sessions = s.sessions := rfl
@[simp] theorem poisonWord_wciOut : (s.poisonWord a).wciOut = s.wciOut := rfl
@[simp] theorem poisonWord_wciIn : (s.poisonWord a).wciIn = s.wciIn := rfl
@[simp] theorem poisonWord_uclParts : (s.poisonWord a).uclParts = s.uclParts := rfl
@[simp] theorem poisonWord_safeChannels : (s.poisonWord a).safeChannels = s.safeChannels := rfl
@[simp] theorem poisonWord_safeOut : (s.poisonWord a).safeOut = s.safeOut := rfl
@[simp] theorem poisonWord_update : (s.poisonWord a).update = s.update := rfl
@[simp] theorem poisonWord_faultStore : (s.poisonWord a).faultStore = s.faultStore := rfl
@[simp] theorem poisonWord_faultLost : (s.poisonWord a).faultLost = s.faultLost := rfl
@[simp] theorem poisonWord_boundary : (s.poisonWord a).boundary = s.boundary := rfl
@[simp] theorem poisonWord_vddDbg : (s.poisonWord a).vddDbg = s.vddDbg := rfl
@[simp] theorem poisonWord_channels : (s.poisonWord a).channels = s.channels := rfl
@[simp] theorem poisonWord_trigOut : (s.poisonWord a).trigOut = s.trigOut := rfl
@[simp] theorem poisonWord_tapData : (s.poisonWord a).tapData = s.tapData := rfl
@[simp] theorem poisonWord_tapRefused : (s.poisonWord a).tapRefused = s.tapRefused := rfl
@[simp] theorem poisonWord_trcCore : (s.poisonWord a).trcCore = s.trcCore := rfl
@[simp] theorem poisonWord_trcStim : (s.poisonWord a).trcStim = s.trcStim := rfl
@[simp] theorem poisonWord_trcStopped : (s.poisonWord a).trcStopped = s.trcStopped := rfl
@[simp] theorem poisonWord_traceSent : (s.poisonWord a).traceSent = s.traceSent := rfl
@[simp] theorem poisonWord_seatChecking : (s.poisonWord a).seatChecking = s.seatChecking := rfl
@[simp] theorem poisonWord_seatShares : (s.poisonWord a).seatShares = s.seatShares := rfl
@[simp] theorem poisonWord_seatEntry : (s.poisonWord a).seatEntry = s.seatEntry := rfl
@[simp] theorem poisonWord_tbsFrac : (s.poisonWord a).tbsFrac = s.tbsFrac := rfl
@[simp] theorem poisonWord_tbsCaptured : (s.poisonWord a).tbsCaptured = s.tbsCaptured := rfl
@[simp] theorem poisonWord_tbsOut : (s.poisonWord a).tbsOut = s.tbsOut := rfl
@[simp] theorem poisonWord_tbsPulse : (s.poisonWord a).tbsPulse = s.tbsPulse := rfl
@[simp] theorem poisonWord_tbsActed : (s.poisonWord a).tbsActed = s.tbsActed := rfl
@[simp] theorem poisonWord_dealLen : (s.poisonWord a).dealLen = s.dealLen := rfl
@[simp] theorem poisonWord_dealPassed : (s.poisonWord a).dealPassed = s.dealPassed := rfl
@[simp] theorem poisonWord_inSvc : (s.poisonWord a).inSvc = s.inSvc := rfl
@[simp] theorem poisonWord_stale : (s.poisonWord a).stale = s.stale := rfl
@[simp] theorem poisonWord_lanes : (s.poisonWord a).lanes = s.lanes := rfl
@[simp] theorem poisonWord_groups : (s.poisonWord a).groups = s.groups := rfl
@[simp] theorem poisonWord_laneRan : (s.poisonWord a).laneRan = s.laneRan := rfl
@[simp] theorem poisonWord_laneDeeds : (s.poisonWord a).laneDeeds = s.laneDeeds := rfl
@[simp] theorem poisonWord_sdiSat : (s.poisonWord a).sdiSat = s.sdiSat := rfl
@[simp] theorem poisonWord_hrp : (s.poisonWord a).hrp = s.hrp := rfl
@[simp] theorem poisonWord_fuses : (s.poisonWord a).fuses = s.fuses := rfl
@[simp] theorem poisonWord_fuseWritten : (s.poisonWord a).fuseWritten = s.fuseWritten := rfl
@[simp] theorem poisonWord_fuseDestroyed : (s.poisonWord a).fuseDestroyed = s.fuseDestroyed := rfl
@[simp] theorem poisonWord_fuseDamaged : (s.poisonWord a).fuseDamaged = s.fuseDamaged := rfl
@[simp] theorem poisonWord_fuseOp : (s.poisonWord a).fuseOp = s.fuseOp := rfl
@[simp] theorem poisonWord_creJobs : (s.poisonWord a).creJobs = s.creJobs := rfl
@[simp] theorem poisonWord_flash : (s.poisonWord a).flash = s.flash := rfl
@[simp] theorem poisonWord_svp : (s.poisonWord a).svp = s.svp := rfl
@[simp] theorem poisonWord_image : (s.poisonWord a).image = s.image := rfl
@[simp] theorem poisonWord_manifests : (s.poisonWord a).manifests = s.manifests := rfl
@[simp] theorem poisonWord_restarts : (s.poisonWord a).restarts = s.restarts := rfl
@[simp] theorem poisonWord_ucl : (s.poisonWord a).ucl = s.ucl := rfl
@[simp] theorem poisonWord_members : (s.poisonWord a).members = s.members := rfl
@[simp] theorem poisonWord_gates : (s.poisonWord a).gates = s.gates := rfl
@[simp] theorem poisonWord_ethSent : (s.poisonWord a).ethSent = s.ethSent := rfl
@[simp] theorem poisonWord_ethLink : (s.poisonWord a).ethLink = s.ethLink := rfl
@[simp] theorem poisonWord_legacy : (s.poisonWord a).legacy = s.legacy := rfl
@[simp] theorem poisonWord_gpioRbmis : (s.poisonWord a).gpioRbmis = s.gpioRbmis := rfl
@[simp] theorem poisonWord_fabPorts : (s.poisonWord a).fabPorts = s.fabPorts := rfl
@[simp] theorem poisonWord_fabSent : (s.poisonWord a).fabSent = s.fabSent := rfl
@[simp] theorem poisonWord_dmc : (s.poisonWord a).dmc = s.dmc := rfl
@[simp] theorem poisonWord_dstoreScrub : (s.poisonWord a).dstoreScrub = s.dstoreScrub := rfl
@[simp] theorem poisonWord_faults : (s.poisonWord a).faults = s.faults := rfl
@[simp] theorem poisonWord_clockBad : (s.poisonWord a).clockBad = s.clockBad := rfl
@[simp] theorem poisonWord_critSamples : (s.poisonWord a).critSamples = s.critSamples := rfl
@[simp] theorem poisonWord_cwdStopped : (s.poisonWord a).cwdStopped = s.cwdStopped := rfl
@[simp] theorem poisonWord_swdStopped : (s.poisonWord a).swdStopped = s.swdStopped := rfl
@[simp] theorem poisonWord_svpCount : (s.poisonWord a).svpCount = s.svpCount := rfl
@[simp] theorem poisonWord_refPhase : (s.poisonWord a).refPhase = s.refPhase := rfl
@[simp] theorem poisonWord_tokens : (s.poisonWord a).tokens = s.tokens := rfl
@[simp] theorem poisonWord_tokenQueue : (s.poisonWord a).tokenQueue = s.tokenQueue := rfl
@[simp] theorem poisonWord_relShare : (s.poisonWord a).relShare = s.relShare := rfl
@[simp] theorem poisonWord_relPool : (s.poisonWord a).relPool = s.relPool := rfl
@[simp] theorem poisonWord_pfRun : (s.poisonWord a).pfRun = s.pfRun := rfl
@[simp] theorem poisonWord_pfHeld : (s.poisonWord a).pfHeld = s.pfHeld := rfl
@[simp] theorem poisonWord_pwrVid : (s.poisonWord a).pwrVid = s.pwrVid := rfl
@[simp] theorem poisonWord_device : (s.poisonWord a).device = s.device := rfl
@[simp] theorem poisonWord_rails : (s.poisonWord a).rails = s.rails := rfl
@[simp] theorem poisonWord_pwrEn : (s.poisonWord a).pwrEn = s.pwrEn := rfl
@[simp] theorem poisonWord_srDrained : (s.poisonWord a).srDrained = s.srDrained := rfl
@[simp] theorem poisonWord_pfAsked : (s.poisonWord a).pfAsked = s.pfAsked := rfl
@[simp] theorem poisonWord_nonceHeld : (s.poisonWord a).nonceHeld = s.nonceHeld := rfl
@[simp] theorem poisonWord_grantPhase : (s.poisonWord a).grantPhase = s.grantPhase := rfl

/-! ### setCore -/

@[simp] theorem setCore_pending : (s.setCore k c).pending = s.pending := rfl
@[simp] theorem setCore_regs : (s.setCore k c).regs = s.regs := rfl
@[simp] theorem setCore_mem : (s.setCore k c).mem = s.mem := rfl
@[simp] theorem setCore_poison : (s.setCore k c).poison = s.poison := rfl
@[simp] theorem setCore_fresh : (s.setCore k c).fresh = s.fresh := rfl
@[simp] theorem setCore_resp : (s.setCore k c).resp = s.resp := rfl
@[simp] theorem setCore_l2 : (s.setCore k c).l2 = s.l2 := rfl
@[simp] theorem setCore_msc : (s.setCore k c).msc = s.msc := rfl
@[simp] theorem setCore_mscLfsr : (s.setCore k c).mscLfsr = s.mscLfsr := rfl
@[simp] theorem setCore_mcsWords : (s.setCore k c).mcsWords = s.mcsWords := rfl
@[simp] theorem setCore_mcsBad : (s.setCore k c).mcsBad = s.mcsBad := rfl
@[simp] theorem setCore_sessions : (s.setCore k c).sessions = s.sessions := rfl
@[simp] theorem setCore_wciOut : (s.setCore k c).wciOut = s.wciOut := rfl
@[simp] theorem setCore_wciIn : (s.setCore k c).wciIn = s.wciIn := rfl
@[simp] theorem setCore_uclParts : (s.setCore k c).uclParts = s.uclParts := rfl
@[simp] theorem setCore_safeChannels : (s.setCore k c).safeChannels = s.safeChannels := rfl
@[simp] theorem setCore_safeOut : (s.setCore k c).safeOut = s.safeOut := rfl
@[simp] theorem setCore_update : (s.setCore k c).update = s.update := rfl
@[simp] theorem setCore_faultStore : (s.setCore k c).faultStore = s.faultStore := rfl
@[simp] theorem setCore_faultLost : (s.setCore k c).faultLost = s.faultLost := rfl
@[simp] theorem setCore_boundary : (s.setCore k c).boundary = s.boundary := rfl
@[simp] theorem setCore_vddDbg : (s.setCore k c).vddDbg = s.vddDbg := rfl
@[simp] theorem setCore_channels : (s.setCore k c).channels = s.channels := rfl
@[simp] theorem setCore_trigOut : (s.setCore k c).trigOut = s.trigOut := rfl
@[simp] theorem setCore_tapData : (s.setCore k c).tapData = s.tapData := rfl
@[simp] theorem setCore_tapRefused : (s.setCore k c).tapRefused = s.tapRefused := rfl
@[simp] theorem setCore_trcCore : (s.setCore k c).trcCore = s.trcCore := rfl
@[simp] theorem setCore_trcStim : (s.setCore k c).trcStim = s.trcStim := rfl
@[simp] theorem setCore_trcStopped : (s.setCore k c).trcStopped = s.trcStopped := rfl
@[simp] theorem setCore_traceSent : (s.setCore k c).traceSent = s.traceSent := rfl
@[simp] theorem setCore_seatChecking : (s.setCore k c).seatChecking = s.seatChecking := rfl
@[simp] theorem setCore_seatShares : (s.setCore k c).seatShares = s.seatShares := rfl
@[simp] theorem setCore_seatEntry : (s.setCore k c).seatEntry = s.seatEntry := rfl
@[simp] theorem setCore_tbsFrac : (s.setCore k c).tbsFrac = s.tbsFrac := rfl
@[simp] theorem setCore_tbsCaptured : (s.setCore k c).tbsCaptured = s.tbsCaptured := rfl
@[simp] theorem setCore_tbsOut : (s.setCore k c).tbsOut = s.tbsOut := rfl
@[simp] theorem setCore_tbsPulse : (s.setCore k c).tbsPulse = s.tbsPulse := rfl
@[simp] theorem setCore_tbsActed : (s.setCore k c).tbsActed = s.tbsActed := rfl
@[simp] theorem setCore_dealLen : (s.setCore k c).dealLen = s.dealLen := rfl
@[simp] theorem setCore_dealPassed : (s.setCore k c).dealPassed = s.dealPassed := rfl
@[simp] theorem setCore_inSvc : (s.setCore k c).inSvc = s.inSvc := rfl
@[simp] theorem setCore_stale : (s.setCore k c).stale = s.stale := rfl
@[simp] theorem setCore_lanes : (s.setCore k c).lanes = s.lanes := rfl
@[simp] theorem setCore_groups : (s.setCore k c).groups = s.groups := rfl
@[simp] theorem setCore_laneRan : (s.setCore k c).laneRan = s.laneRan := rfl
@[simp] theorem setCore_laneDeeds : (s.setCore k c).laneDeeds = s.laneDeeds := rfl
@[simp] theorem setCore_sdiSat : (s.setCore k c).sdiSat = s.sdiSat := rfl
@[simp] theorem setCore_hrp : (s.setCore k c).hrp = s.hrp := rfl
@[simp] theorem setCore_fuses : (s.setCore k c).fuses = s.fuses := rfl
@[simp] theorem setCore_fuseWritten : (s.setCore k c).fuseWritten = s.fuseWritten := rfl
@[simp] theorem setCore_fuseDestroyed : (s.setCore k c).fuseDestroyed = s.fuseDestroyed := rfl
@[simp] theorem setCore_fuseDamaged : (s.setCore k c).fuseDamaged = s.fuseDamaged := rfl
@[simp] theorem setCore_fuseOp : (s.setCore k c).fuseOp = s.fuseOp := rfl
@[simp] theorem setCore_creJobs : (s.setCore k c).creJobs = s.creJobs := rfl
@[simp] theorem setCore_flash : (s.setCore k c).flash = s.flash := rfl
@[simp] theorem setCore_svp : (s.setCore k c).svp = s.svp := rfl
@[simp] theorem setCore_image : (s.setCore k c).image = s.image := rfl
@[simp] theorem setCore_manifests : (s.setCore k c).manifests = s.manifests := rfl
@[simp] theorem setCore_restarts : (s.setCore k c).restarts = s.restarts := rfl
@[simp] theorem setCore_ucl : (s.setCore k c).ucl = s.ucl := rfl
@[simp] theorem setCore_members : (s.setCore k c).members = s.members := rfl
@[simp] theorem setCore_gates : (s.setCore k c).gates = s.gates := rfl
@[simp] theorem setCore_ethSent : (s.setCore k c).ethSent = s.ethSent := rfl
@[simp] theorem setCore_ethLink : (s.setCore k c).ethLink = s.ethLink := rfl
@[simp] theorem setCore_legacy : (s.setCore k c).legacy = s.legacy := rfl
@[simp] theorem setCore_gpioRbmis : (s.setCore k c).gpioRbmis = s.gpioRbmis := rfl
@[simp] theorem setCore_fabPorts : (s.setCore k c).fabPorts = s.fabPorts := rfl
@[simp] theorem setCore_fabSent : (s.setCore k c).fabSent = s.fabSent := rfl
@[simp] theorem setCore_dmc : (s.setCore k c).dmc = s.dmc := rfl
@[simp] theorem setCore_dstoreScrub : (s.setCore k c).dstoreScrub = s.dstoreScrub := rfl
@[simp] theorem setCore_faults : (s.setCore k c).faults = s.faults := rfl
@[simp] theorem setCore_clockBad : (s.setCore k c).clockBad = s.clockBad := rfl
@[simp] theorem setCore_critSamples : (s.setCore k c).critSamples = s.critSamples := rfl
@[simp] theorem setCore_cwdStopped : (s.setCore k c).cwdStopped = s.cwdStopped := rfl
@[simp] theorem setCore_swdStopped : (s.setCore k c).swdStopped = s.swdStopped := rfl
@[simp] theorem setCore_svpCount : (s.setCore k c).svpCount = s.svpCount := rfl
@[simp] theorem setCore_refPhase : (s.setCore k c).refPhase = s.refPhase := rfl
@[simp] theorem setCore_tokens : (s.setCore k c).tokens = s.tokens := rfl
@[simp] theorem setCore_tokenQueue : (s.setCore k c).tokenQueue = s.tokenQueue := rfl
@[simp] theorem setCore_relShare : (s.setCore k c).relShare = s.relShare := rfl
@[simp] theorem setCore_relPool : (s.setCore k c).relPool = s.relPool := rfl
@[simp] theorem setCore_pfRun : (s.setCore k c).pfRun = s.pfRun := rfl
@[simp] theorem setCore_pfHeld : (s.setCore k c).pfHeld = s.pfHeld := rfl
@[simp] theorem setCore_pwrVid : (s.setCore k c).pwrVid = s.pwrVid := rfl
@[simp] theorem setCore_device : (s.setCore k c).device = s.device := rfl
@[simp] theorem setCore_rails : (s.setCore k c).rails = s.rails := rfl
@[simp] theorem setCore_pwrEn : (s.setCore k c).pwrEn = s.pwrEn := rfl
@[simp] theorem setCore_srDrained : (s.setCore k c).srDrained = s.srDrained := rfl
@[simp] theorem setCore_pfAsked : (s.setCore k c).pfAsked = s.pfAsked := rfl
@[simp] theorem setCore_nonceHeld : (s.setCore k c).nonceHeld = s.nonceHeld := rfl
@[simp] theorem setCore_grantPhase : (s.setCore k c).grantPhase = s.grantPhase := rfl

/-! ### mapCore -/

@[simp] theorem mapCore_pending : (s.mapCore k g).pending = s.pending := rfl
@[simp] theorem mapCore_regs : (s.mapCore k g).regs = s.regs := rfl
@[simp] theorem mapCore_mem : (s.mapCore k g).mem = s.mem := rfl
@[simp] theorem mapCore_poison : (s.mapCore k g).poison = s.poison := rfl
@[simp] theorem mapCore_fresh : (s.mapCore k g).fresh = s.fresh := rfl
@[simp] theorem mapCore_resp : (s.mapCore k g).resp = s.resp := rfl
@[simp] theorem mapCore_l2 : (s.mapCore k g).l2 = s.l2 := rfl
@[simp] theorem mapCore_msc : (s.mapCore k g).msc = s.msc := rfl
@[simp] theorem mapCore_mscLfsr : (s.mapCore k g).mscLfsr = s.mscLfsr := rfl
@[simp] theorem mapCore_mcsWords : (s.mapCore k g).mcsWords = s.mcsWords := rfl
@[simp] theorem mapCore_mcsBad : (s.mapCore k g).mcsBad = s.mcsBad := rfl
@[simp] theorem mapCore_sessions : (s.mapCore k g).sessions = s.sessions := rfl
@[simp] theorem mapCore_wciOut : (s.mapCore k g).wciOut = s.wciOut := rfl
@[simp] theorem mapCore_wciIn : (s.mapCore k g).wciIn = s.wciIn := rfl
@[simp] theorem mapCore_uclParts : (s.mapCore k g).uclParts = s.uclParts := rfl
@[simp] theorem mapCore_safeChannels : (s.mapCore k g).safeChannels = s.safeChannels := rfl
@[simp] theorem mapCore_safeOut : (s.mapCore k g).safeOut = s.safeOut := rfl
@[simp] theorem mapCore_update : (s.mapCore k g).update = s.update := rfl
@[simp] theorem mapCore_faultStore : (s.mapCore k g).faultStore = s.faultStore := rfl
@[simp] theorem mapCore_faultLost : (s.mapCore k g).faultLost = s.faultLost := rfl
@[simp] theorem mapCore_boundary : (s.mapCore k g).boundary = s.boundary := rfl
@[simp] theorem mapCore_vddDbg : (s.mapCore k g).vddDbg = s.vddDbg := rfl
@[simp] theorem mapCore_channels : (s.mapCore k g).channels = s.channels := rfl
@[simp] theorem mapCore_trigOut : (s.mapCore k g).trigOut = s.trigOut := rfl
@[simp] theorem mapCore_tapData : (s.mapCore k g).tapData = s.tapData := rfl
@[simp] theorem mapCore_tapRefused : (s.mapCore k g).tapRefused = s.tapRefused := rfl
@[simp] theorem mapCore_trcCore : (s.mapCore k g).trcCore = s.trcCore := rfl
@[simp] theorem mapCore_trcStim : (s.mapCore k g).trcStim = s.trcStim := rfl
@[simp] theorem mapCore_trcStopped : (s.mapCore k g).trcStopped = s.trcStopped := rfl
@[simp] theorem mapCore_traceSent : (s.mapCore k g).traceSent = s.traceSent := rfl
@[simp] theorem mapCore_seatChecking : (s.mapCore k g).seatChecking = s.seatChecking := rfl
@[simp] theorem mapCore_seatShares : (s.mapCore k g).seatShares = s.seatShares := rfl
@[simp] theorem mapCore_seatEntry : (s.mapCore k g).seatEntry = s.seatEntry := rfl
@[simp] theorem mapCore_tbsFrac : (s.mapCore k g).tbsFrac = s.tbsFrac := rfl
@[simp] theorem mapCore_tbsCaptured : (s.mapCore k g).tbsCaptured = s.tbsCaptured := rfl
@[simp] theorem mapCore_tbsOut : (s.mapCore k g).tbsOut = s.tbsOut := rfl
@[simp] theorem mapCore_tbsPulse : (s.mapCore k g).tbsPulse = s.tbsPulse := rfl
@[simp] theorem mapCore_tbsActed : (s.mapCore k g).tbsActed = s.tbsActed := rfl
@[simp] theorem mapCore_dealLen : (s.mapCore k g).dealLen = s.dealLen := rfl
@[simp] theorem mapCore_dealPassed : (s.mapCore k g).dealPassed = s.dealPassed := rfl
@[simp] theorem mapCore_inSvc : (s.mapCore k g).inSvc = s.inSvc := rfl
@[simp] theorem mapCore_stale : (s.mapCore k g).stale = s.stale := rfl
@[simp] theorem mapCore_lanes : (s.mapCore k g).lanes = s.lanes := rfl
@[simp] theorem mapCore_groups : (s.mapCore k g).groups = s.groups := rfl
@[simp] theorem mapCore_laneRan : (s.mapCore k g).laneRan = s.laneRan := rfl
@[simp] theorem mapCore_laneDeeds : (s.mapCore k g).laneDeeds = s.laneDeeds := rfl
@[simp] theorem mapCore_sdiSat : (s.mapCore k g).sdiSat = s.sdiSat := rfl
@[simp] theorem mapCore_hrp : (s.mapCore k g).hrp = s.hrp := rfl
@[simp] theorem mapCore_fuses : (s.mapCore k g).fuses = s.fuses := rfl
@[simp] theorem mapCore_fuseWritten : (s.mapCore k g).fuseWritten = s.fuseWritten := rfl
@[simp] theorem mapCore_fuseDestroyed : (s.mapCore k g).fuseDestroyed = s.fuseDestroyed := rfl
@[simp] theorem mapCore_fuseDamaged : (s.mapCore k g).fuseDamaged = s.fuseDamaged := rfl
@[simp] theorem mapCore_fuseOp : (s.mapCore k g).fuseOp = s.fuseOp := rfl
@[simp] theorem mapCore_creJobs : (s.mapCore k g).creJobs = s.creJobs := rfl
@[simp] theorem mapCore_flash : (s.mapCore k g).flash = s.flash := rfl
@[simp] theorem mapCore_svp : (s.mapCore k g).svp = s.svp := rfl
@[simp] theorem mapCore_image : (s.mapCore k g).image = s.image := rfl
@[simp] theorem mapCore_manifests : (s.mapCore k g).manifests = s.manifests := rfl
@[simp] theorem mapCore_restarts : (s.mapCore k g).restarts = s.restarts := rfl
@[simp] theorem mapCore_ucl : (s.mapCore k g).ucl = s.ucl := rfl
@[simp] theorem mapCore_members : (s.mapCore k g).members = s.members := rfl
@[simp] theorem mapCore_gates : (s.mapCore k g).gates = s.gates := rfl
@[simp] theorem mapCore_ethSent : (s.mapCore k g).ethSent = s.ethSent := rfl
@[simp] theorem mapCore_ethLink : (s.mapCore k g).ethLink = s.ethLink := rfl
@[simp] theorem mapCore_legacy : (s.mapCore k g).legacy = s.legacy := rfl
@[simp] theorem mapCore_gpioRbmis : (s.mapCore k g).gpioRbmis = s.gpioRbmis := rfl
@[simp] theorem mapCore_fabPorts : (s.mapCore k g).fabPorts = s.fabPorts := rfl
@[simp] theorem mapCore_fabSent : (s.mapCore k g).fabSent = s.fabSent := rfl
@[simp] theorem mapCore_dmc : (s.mapCore k g).dmc = s.dmc := rfl
@[simp] theorem mapCore_dstoreScrub : (s.mapCore k g).dstoreScrub = s.dstoreScrub := rfl
@[simp] theorem mapCore_faults : (s.mapCore k g).faults = s.faults := rfl
@[simp] theorem mapCore_clockBad : (s.mapCore k g).clockBad = s.clockBad := rfl
@[simp] theorem mapCore_critSamples : (s.mapCore k g).critSamples = s.critSamples := rfl
@[simp] theorem mapCore_cwdStopped : (s.mapCore k g).cwdStopped = s.cwdStopped := rfl
@[simp] theorem mapCore_swdStopped : (s.mapCore k g).swdStopped = s.swdStopped := rfl
@[simp] theorem mapCore_svpCount : (s.mapCore k g).svpCount = s.svpCount := rfl
@[simp] theorem mapCore_refPhase : (s.mapCore k g).refPhase = s.refPhase := rfl
@[simp] theorem mapCore_tokens : (s.mapCore k g).tokens = s.tokens := rfl
@[simp] theorem mapCore_tokenQueue : (s.mapCore k g).tokenQueue = s.tokenQueue := rfl
@[simp] theorem mapCore_relShare : (s.mapCore k g).relShare = s.relShare := rfl
@[simp] theorem mapCore_relPool : (s.mapCore k g).relPool = s.relPool := rfl
@[simp] theorem mapCore_pfRun : (s.mapCore k g).pfRun = s.pfRun := rfl
@[simp] theorem mapCore_pfHeld : (s.mapCore k g).pfHeld = s.pfHeld := rfl
@[simp] theorem mapCore_pwrVid : (s.mapCore k g).pwrVid = s.pwrVid := rfl
@[simp] theorem mapCore_device : (s.mapCore k g).device = s.device := rfl
@[simp] theorem mapCore_rails : (s.mapCore k g).rails = s.rails := rfl
@[simp] theorem mapCore_pwrEn : (s.mapCore k g).pwrEn = s.pwrEn := rfl
@[simp] theorem mapCore_srDrained : (s.mapCore k g).srDrained = s.srDrained := rfl
@[simp] theorem mapCore_pfAsked : (s.mapCore k g).pfAsked = s.pfAsked := rfl
@[simp] theorem mapCore_nonceHeld : (s.mapCore k g).nonceHeld = s.nonceHeld := rfl
@[simp] theorem mapCore_grantPhase : (s.mapCore k g).grantPhase = s.grantPhase := rfl

/-! ### mapCores -/

@[simp] theorem mapCores_pending (q : CoreId → Bool) : (s.mapCores q g).pending = s.pending := by simp only [State.mapCores]
@[simp] theorem mapCores_regs (q : CoreId → Bool) : (s.mapCores q g).regs = s.regs := by simp only [State.mapCores]
@[simp] theorem mapCores_mem (q : CoreId → Bool) : (s.mapCores q g).mem = s.mem := by simp only [State.mapCores]
@[simp] theorem mapCores_poison (q : CoreId → Bool) : (s.mapCores q g).poison = s.poison := by simp only [State.mapCores]
@[simp] theorem mapCores_fresh (q : CoreId → Bool) : (s.mapCores q g).fresh = s.fresh := by simp only [State.mapCores]
@[simp] theorem mapCores_resp (q : CoreId → Bool) : (s.mapCores q g).resp = s.resp := by simp only [State.mapCores]
@[simp] theorem mapCores_l2 (q : CoreId → Bool) : (s.mapCores q g).l2 = s.l2 := by simp only [State.mapCores]
@[simp] theorem mapCores_msc (q : CoreId → Bool) : (s.mapCores q g).msc = s.msc := by simp only [State.mapCores]
@[simp] theorem mapCores_mscLfsr (q : CoreId → Bool) : (s.mapCores q g).mscLfsr = s.mscLfsr := by simp only [State.mapCores]
@[simp] theorem mapCores_mcsWords (q : CoreId → Bool) : (s.mapCores q g).mcsWords = s.mcsWords := by simp only [State.mapCores]
@[simp] theorem mapCores_mcsBad (q : CoreId → Bool) : (s.mapCores q g).mcsBad = s.mcsBad := by simp only [State.mapCores]
@[simp] theorem mapCores_sessions (q : CoreId → Bool) : (s.mapCores q g).sessions = s.sessions := by simp only [State.mapCores]
@[simp] theorem mapCores_wciOut (q : CoreId → Bool) : (s.mapCores q g).wciOut = s.wciOut := by simp only [State.mapCores]
@[simp] theorem mapCores_wciIn (q : CoreId → Bool) : (s.mapCores q g).wciIn = s.wciIn := by simp only [State.mapCores]
@[simp] theorem mapCores_uclParts (q : CoreId → Bool) : (s.mapCores q g).uclParts = s.uclParts := by simp only [State.mapCores]
@[simp] theorem mapCores_safeChannels (q : CoreId → Bool) : (s.mapCores q g).safeChannels = s.safeChannels := by simp only [State.mapCores]
@[simp] theorem mapCores_safeOut (q : CoreId → Bool) : (s.mapCores q g).safeOut = s.safeOut := by simp only [State.mapCores]
@[simp] theorem mapCores_update (q : CoreId → Bool) : (s.mapCores q g).update = s.update := by simp only [State.mapCores]
@[simp] theorem mapCores_faultStore (q : CoreId → Bool) : (s.mapCores q g).faultStore = s.faultStore := by simp only [State.mapCores]
@[simp] theorem mapCores_faultLost (q : CoreId → Bool) : (s.mapCores q g).faultLost = s.faultLost := by simp only [State.mapCores]
@[simp] theorem mapCores_boundary (q : CoreId → Bool) : (s.mapCores q g).boundary = s.boundary := by simp only [State.mapCores]
@[simp] theorem mapCores_vddDbg (q : CoreId → Bool) : (s.mapCores q g).vddDbg = s.vddDbg := by simp only [State.mapCores]
@[simp] theorem mapCores_channels (q : CoreId → Bool) : (s.mapCores q g).channels = s.channels := by simp only [State.mapCores]
@[simp] theorem mapCores_trigOut (q : CoreId → Bool) : (s.mapCores q g).trigOut = s.trigOut := by simp only [State.mapCores]
@[simp] theorem mapCores_tapData (q : CoreId → Bool) : (s.mapCores q g).tapData = s.tapData := by simp only [State.mapCores]
@[simp] theorem mapCores_tapRefused (q : CoreId → Bool) : (s.mapCores q g).tapRefused = s.tapRefused := by simp only [State.mapCores]
@[simp] theorem mapCores_trcCore (q : CoreId → Bool) : (s.mapCores q g).trcCore = s.trcCore := by simp only [State.mapCores]
@[simp] theorem mapCores_trcStim (q : CoreId → Bool) : (s.mapCores q g).trcStim = s.trcStim := by simp only [State.mapCores]
@[simp] theorem mapCores_trcStopped (q : CoreId → Bool) : (s.mapCores q g).trcStopped = s.trcStopped := by simp only [State.mapCores]
@[simp] theorem mapCores_traceSent (q : CoreId → Bool) : (s.mapCores q g).traceSent = s.traceSent := by simp only [State.mapCores]
@[simp] theorem mapCores_seatChecking (q : CoreId → Bool) : (s.mapCores q g).seatChecking = s.seatChecking := by simp only [State.mapCores]
@[simp] theorem mapCores_seatShares (q : CoreId → Bool) : (s.mapCores q g).seatShares = s.seatShares := by simp only [State.mapCores]
@[simp] theorem mapCores_seatEntry (q : CoreId → Bool) : (s.mapCores q g).seatEntry = s.seatEntry := by simp only [State.mapCores]
@[simp] theorem mapCores_tbsFrac (q : CoreId → Bool) : (s.mapCores q g).tbsFrac = s.tbsFrac := by simp only [State.mapCores]
@[simp] theorem mapCores_tbsCaptured (q : CoreId → Bool) : (s.mapCores q g).tbsCaptured = s.tbsCaptured := by simp only [State.mapCores]
@[simp] theorem mapCores_tbsOut (q : CoreId → Bool) : (s.mapCores q g).tbsOut = s.tbsOut := by simp only [State.mapCores]
@[simp] theorem mapCores_tbsPulse (q : CoreId → Bool) : (s.mapCores q g).tbsPulse = s.tbsPulse := by simp only [State.mapCores]
@[simp] theorem mapCores_tbsActed (q : CoreId → Bool) : (s.mapCores q g).tbsActed = s.tbsActed := by simp only [State.mapCores]
@[simp] theorem mapCores_dealLen (q : CoreId → Bool) : (s.mapCores q g).dealLen = s.dealLen := by simp only [State.mapCores]
@[simp] theorem mapCores_dealPassed (q : CoreId → Bool) : (s.mapCores q g).dealPassed = s.dealPassed := by simp only [State.mapCores]
@[simp] theorem mapCores_inSvc (q : CoreId → Bool) : (s.mapCores q g).inSvc = s.inSvc := by simp only [State.mapCores]
@[simp] theorem mapCores_stale (q : CoreId → Bool) : (s.mapCores q g).stale = s.stale := by simp only [State.mapCores]
@[simp] theorem mapCores_lanes (q : CoreId → Bool) : (s.mapCores q g).lanes = s.lanes := by simp only [State.mapCores]
@[simp] theorem mapCores_groups (q : CoreId → Bool) : (s.mapCores q g).groups = s.groups := by simp only [State.mapCores]
@[simp] theorem mapCores_laneRan (q : CoreId → Bool) : (s.mapCores q g).laneRan = s.laneRan := by simp only [State.mapCores]
@[simp] theorem mapCores_laneDeeds (q : CoreId → Bool) : (s.mapCores q g).laneDeeds = s.laneDeeds := by simp only [State.mapCores]
@[simp] theorem mapCores_sdiSat (q : CoreId → Bool) : (s.mapCores q g).sdiSat = s.sdiSat := by simp only [State.mapCores]
@[simp] theorem mapCores_hrp (q : CoreId → Bool) : (s.mapCores q g).hrp = s.hrp := by simp only [State.mapCores]
@[simp] theorem mapCores_fuses (q : CoreId → Bool) : (s.mapCores q g).fuses = s.fuses := by simp only [State.mapCores]
@[simp] theorem mapCores_fuseWritten (q : CoreId → Bool) : (s.mapCores q g).fuseWritten = s.fuseWritten := by simp only [State.mapCores]
@[simp] theorem mapCores_fuseDestroyed (q : CoreId → Bool) : (s.mapCores q g).fuseDestroyed = s.fuseDestroyed := by simp only [State.mapCores]
@[simp] theorem mapCores_fuseDamaged (q : CoreId → Bool) : (s.mapCores q g).fuseDamaged = s.fuseDamaged := by simp only [State.mapCores]
@[simp] theorem mapCores_fuseOp (q : CoreId → Bool) : (s.mapCores q g).fuseOp = s.fuseOp := by simp only [State.mapCores]
@[simp] theorem mapCores_creJobs (q : CoreId → Bool) : (s.mapCores q g).creJobs = s.creJobs := by simp only [State.mapCores]
@[simp] theorem mapCores_flash (q : CoreId → Bool) : (s.mapCores q g).flash = s.flash := by simp only [State.mapCores]
@[simp] theorem mapCores_svp (q : CoreId → Bool) : (s.mapCores q g).svp = s.svp := by simp only [State.mapCores]
@[simp] theorem mapCores_image (q : CoreId → Bool) : (s.mapCores q g).image = s.image := by simp only [State.mapCores]
@[simp] theorem mapCores_manifests (q : CoreId → Bool) : (s.mapCores q g).manifests = s.manifests := by simp only [State.mapCores]
@[simp] theorem mapCores_restarts (q : CoreId → Bool) : (s.mapCores q g).restarts = s.restarts := by simp only [State.mapCores]
@[simp] theorem mapCores_ucl (q : CoreId → Bool) : (s.mapCores q g).ucl = s.ucl := by simp only [State.mapCores]
@[simp] theorem mapCores_members (q : CoreId → Bool) : (s.mapCores q g).members = s.members := by simp only [State.mapCores]
@[simp] theorem mapCores_gates (q : CoreId → Bool) : (s.mapCores q g).gates = s.gates := by simp only [State.mapCores]
@[simp] theorem mapCores_ethSent (q : CoreId → Bool) : (s.mapCores q g).ethSent = s.ethSent := by simp only [State.mapCores]
@[simp] theorem mapCores_ethLink (q : CoreId → Bool) : (s.mapCores q g).ethLink = s.ethLink := by simp only [State.mapCores]
@[simp] theorem mapCores_legacy (q : CoreId → Bool) : (s.mapCores q g).legacy = s.legacy := by simp only [State.mapCores]
@[simp] theorem mapCores_gpioRbmis (q : CoreId → Bool) : (s.mapCores q g).gpioRbmis = s.gpioRbmis := by simp only [State.mapCores]
@[simp] theorem mapCores_fabPorts (q : CoreId → Bool) : (s.mapCores q g).fabPorts = s.fabPorts := by simp only [State.mapCores]
@[simp] theorem mapCores_fabSent (q : CoreId → Bool) : (s.mapCores q g).fabSent = s.fabSent := by simp only [State.mapCores]
@[simp] theorem mapCores_dmc (q : CoreId → Bool) : (s.mapCores q g).dmc = s.dmc := by simp only [State.mapCores]
@[simp] theorem mapCores_dstoreScrub (q : CoreId → Bool) : (s.mapCores q g).dstoreScrub = s.dstoreScrub := by simp only [State.mapCores]
@[simp] theorem mapCores_faults (q : CoreId → Bool) : (s.mapCores q g).faults = s.faults := by simp only [State.mapCores]
@[simp] theorem mapCores_clockBad (q : CoreId → Bool) : (s.mapCores q g).clockBad = s.clockBad := by simp only [State.mapCores]
@[simp] theorem mapCores_critSamples (q : CoreId → Bool) : (s.mapCores q g).critSamples = s.critSamples := by simp only [State.mapCores]
@[simp] theorem mapCores_cwdStopped (q : CoreId → Bool) : (s.mapCores q g).cwdStopped = s.cwdStopped := by simp only [State.mapCores]
@[simp] theorem mapCores_swdStopped (q : CoreId → Bool) : (s.mapCores q g).swdStopped = s.swdStopped := by simp only [State.mapCores]
@[simp] theorem mapCores_svpCount (q : CoreId → Bool) : (s.mapCores q g).svpCount = s.svpCount := by simp only [State.mapCores]
@[simp] theorem mapCores_refPhase (q : CoreId → Bool) : (s.mapCores q g).refPhase = s.refPhase := by simp only [State.mapCores]
@[simp] theorem mapCores_tokens (q : CoreId → Bool) : (s.mapCores q g).tokens = s.tokens := by simp only [State.mapCores]
@[simp] theorem mapCores_tokenQueue (q : CoreId → Bool) : (s.mapCores q g).tokenQueue = s.tokenQueue := by simp only [State.mapCores]
@[simp] theorem mapCores_relShare (q : CoreId → Bool) : (s.mapCores q g).relShare = s.relShare := by simp only [State.mapCores]
@[simp] theorem mapCores_relPool (q : CoreId → Bool) : (s.mapCores q g).relPool = s.relPool := by simp only [State.mapCores]
@[simp] theorem mapCores_pfRun (q : CoreId → Bool) : (s.mapCores q g).pfRun = s.pfRun := by simp only [State.mapCores]
@[simp] theorem mapCores_pfHeld (q : CoreId → Bool) : (s.mapCores q g).pfHeld = s.pfHeld := by simp only [State.mapCores]
@[simp] theorem mapCores_pwrVid (q : CoreId → Bool) : (s.mapCores q g).pwrVid = s.pwrVid := by simp only [State.mapCores]
@[simp] theorem mapCores_device (q : CoreId → Bool) : (s.mapCores q g).device = s.device := by simp only [State.mapCores]
@[simp] theorem mapCores_rails (q : CoreId → Bool) : (s.mapCores q g).rails = s.rails := by simp only [State.mapCores]
@[simp] theorem mapCores_pwrEn (q : CoreId → Bool) : (s.mapCores q g).pwrEn = s.pwrEn := by simp only [State.mapCores]
@[simp] theorem mapCores_srDrained (q : CoreId → Bool) : (s.mapCores q g).srDrained = s.srDrained := by simp only [State.mapCores]
@[simp] theorem mapCores_pfAsked (q : CoreId → Bool) : (s.mapCores q g).pfAsked = s.pfAsked := by simp only [State.mapCores]
@[simp] theorem mapCores_nonceHeld (q : CoreId → Bool) : (s.mapCores q g).nonceHeld = s.nonceHeld := by simp only [State.mapCores]
@[simp] theorem mapCores_grantPhase (q : CoreId → Bool) : (s.mapCores q g).grantPhase = s.grantPhase := by simp only [State.mapCores]

/-! ### mapLane -/

@[simp] theorem mapLane_pending : (s.mapLane n h).pending = s.pending := rfl
@[simp] theorem mapLane_regs : (s.mapLane n h).regs = s.regs := rfl
@[simp] theorem mapLane_mem : (s.mapLane n h).mem = s.mem := rfl
@[simp] theorem mapLane_poison : (s.mapLane n h).poison = s.poison := rfl
@[simp] theorem mapLane_fresh : (s.mapLane n h).fresh = s.fresh := rfl
@[simp] theorem mapLane_resp : (s.mapLane n h).resp = s.resp := rfl
@[simp] theorem mapLane_cores : (s.mapLane n h).cores = s.cores := rfl
@[simp] theorem mapLane_l2 : (s.mapLane n h).l2 = s.l2 := rfl
@[simp] theorem mapLane_msc : (s.mapLane n h).msc = s.msc := rfl
@[simp] theorem mapLane_mscLfsr : (s.mapLane n h).mscLfsr = s.mscLfsr := rfl
@[simp] theorem mapLane_mcsWords : (s.mapLane n h).mcsWords = s.mcsWords := rfl
@[simp] theorem mapLane_mcsBad : (s.mapLane n h).mcsBad = s.mcsBad := rfl
@[simp] theorem mapLane_sessions : (s.mapLane n h).sessions = s.sessions := rfl
@[simp] theorem mapLane_wciOut : (s.mapLane n h).wciOut = s.wciOut := rfl
@[simp] theorem mapLane_wciIn : (s.mapLane n h).wciIn = s.wciIn := rfl
@[simp] theorem mapLane_uclParts : (s.mapLane n h).uclParts = s.uclParts := rfl
@[simp] theorem mapLane_safeChannels : (s.mapLane n h).safeChannels = s.safeChannels := rfl
@[simp] theorem mapLane_safeOut : (s.mapLane n h).safeOut = s.safeOut := rfl
@[simp] theorem mapLane_update : (s.mapLane n h).update = s.update := rfl
@[simp] theorem mapLane_faultStore : (s.mapLane n h).faultStore = s.faultStore := rfl
@[simp] theorem mapLane_faultLost : (s.mapLane n h).faultLost = s.faultLost := rfl
@[simp] theorem mapLane_boundary : (s.mapLane n h).boundary = s.boundary := rfl
@[simp] theorem mapLane_vddDbg : (s.mapLane n h).vddDbg = s.vddDbg := rfl
@[simp] theorem mapLane_channels : (s.mapLane n h).channels = s.channels := rfl
@[simp] theorem mapLane_trigOut : (s.mapLane n h).trigOut = s.trigOut := rfl
@[simp] theorem mapLane_tapData : (s.mapLane n h).tapData = s.tapData := rfl
@[simp] theorem mapLane_tapRefused : (s.mapLane n h).tapRefused = s.tapRefused := rfl
@[simp] theorem mapLane_trcCore : (s.mapLane n h).trcCore = s.trcCore := rfl
@[simp] theorem mapLane_trcStim : (s.mapLane n h).trcStim = s.trcStim := rfl
@[simp] theorem mapLane_trcStopped : (s.mapLane n h).trcStopped = s.trcStopped := rfl
@[simp] theorem mapLane_traceSent : (s.mapLane n h).traceSent = s.traceSent := rfl
@[simp] theorem mapLane_seatChecking : (s.mapLane n h).seatChecking = s.seatChecking := rfl
@[simp] theorem mapLane_seatShares : (s.mapLane n h).seatShares = s.seatShares := rfl
@[simp] theorem mapLane_seatEntry : (s.mapLane n h).seatEntry = s.seatEntry := rfl
@[simp] theorem mapLane_tbsFrac : (s.mapLane n h).tbsFrac = s.tbsFrac := rfl
@[simp] theorem mapLane_tbsCaptured : (s.mapLane n h).tbsCaptured = s.tbsCaptured := rfl
@[simp] theorem mapLane_tbsOut : (s.mapLane n h).tbsOut = s.tbsOut := rfl
@[simp] theorem mapLane_tbsPulse : (s.mapLane n h).tbsPulse = s.tbsPulse := rfl
@[simp] theorem mapLane_tbsActed : (s.mapLane n h).tbsActed = s.tbsActed := rfl
@[simp] theorem mapLane_dealLen : (s.mapLane n h).dealLen = s.dealLen := rfl
@[simp] theorem mapLane_dealPassed : (s.mapLane n h).dealPassed = s.dealPassed := rfl
@[simp] theorem mapLane_inSvc : (s.mapLane n h).inSvc = s.inSvc := rfl
@[simp] theorem mapLane_stale : (s.mapLane n h).stale = s.stale := rfl
@[simp] theorem mapLane_groups : (s.mapLane n h).groups = s.groups := rfl
@[simp] theorem mapLane_laneRan : (s.mapLane n h).laneRan = s.laneRan := rfl
@[simp] theorem mapLane_laneDeeds : (s.mapLane n h).laneDeeds = s.laneDeeds := rfl
@[simp] theorem mapLane_sdiSat : (s.mapLane n h).sdiSat = s.sdiSat := rfl
@[simp] theorem mapLane_hrp : (s.mapLane n h).hrp = s.hrp := rfl
@[simp] theorem mapLane_fuses : (s.mapLane n h).fuses = s.fuses := rfl
@[simp] theorem mapLane_fuseWritten : (s.mapLane n h).fuseWritten = s.fuseWritten := rfl
@[simp] theorem mapLane_fuseDestroyed : (s.mapLane n h).fuseDestroyed = s.fuseDestroyed := rfl
@[simp] theorem mapLane_fuseDamaged : (s.mapLane n h).fuseDamaged = s.fuseDamaged := rfl
@[simp] theorem mapLane_fuseOp : (s.mapLane n h).fuseOp = s.fuseOp := rfl
@[simp] theorem mapLane_creJobs : (s.mapLane n h).creJobs = s.creJobs := rfl
@[simp] theorem mapLane_flash : (s.mapLane n h).flash = s.flash := rfl
@[simp] theorem mapLane_svp : (s.mapLane n h).svp = s.svp := rfl
@[simp] theorem mapLane_image : (s.mapLane n h).image = s.image := rfl
@[simp] theorem mapLane_manifests : (s.mapLane n h).manifests = s.manifests := rfl
@[simp] theorem mapLane_restarts : (s.mapLane n h).restarts = s.restarts := rfl
@[simp] theorem mapLane_ucl : (s.mapLane n h).ucl = s.ucl := rfl
@[simp] theorem mapLane_members : (s.mapLane n h).members = s.members := rfl
@[simp] theorem mapLane_gates : (s.mapLane n h).gates = s.gates := rfl
@[simp] theorem mapLane_ethSent : (s.mapLane n h).ethSent = s.ethSent := rfl
@[simp] theorem mapLane_ethLink : (s.mapLane n h).ethLink = s.ethLink := rfl
@[simp] theorem mapLane_legacy : (s.mapLane n h).legacy = s.legacy := rfl
@[simp] theorem mapLane_gpioRbmis : (s.mapLane n h).gpioRbmis = s.gpioRbmis := rfl
@[simp] theorem mapLane_fabPorts : (s.mapLane n h).fabPorts = s.fabPorts := rfl
@[simp] theorem mapLane_fabSent : (s.mapLane n h).fabSent = s.fabSent := rfl
@[simp] theorem mapLane_dmc : (s.mapLane n h).dmc = s.dmc := rfl
@[simp] theorem mapLane_dstoreScrub : (s.mapLane n h).dstoreScrub = s.dstoreScrub := rfl
@[simp] theorem mapLane_faults : (s.mapLane n h).faults = s.faults := rfl
@[simp] theorem mapLane_clockBad : (s.mapLane n h).clockBad = s.clockBad := rfl
@[simp] theorem mapLane_critSamples : (s.mapLane n h).critSamples = s.critSamples := rfl
@[simp] theorem mapLane_cwdStopped : (s.mapLane n h).cwdStopped = s.cwdStopped := rfl
@[simp] theorem mapLane_swdStopped : (s.mapLane n h).swdStopped = s.swdStopped := rfl
@[simp] theorem mapLane_svpCount : (s.mapLane n h).svpCount = s.svpCount := rfl
@[simp] theorem mapLane_refPhase : (s.mapLane n h).refPhase = s.refPhase := rfl
@[simp] theorem mapLane_tokens : (s.mapLane n h).tokens = s.tokens := rfl
@[simp] theorem mapLane_tokenQueue : (s.mapLane n h).tokenQueue = s.tokenQueue := rfl
@[simp] theorem mapLane_relShare : (s.mapLane n h).relShare = s.relShare := rfl
@[simp] theorem mapLane_relPool : (s.mapLane n h).relPool = s.relPool := rfl
@[simp] theorem mapLane_pfRun : (s.mapLane n h).pfRun = s.pfRun := rfl
@[simp] theorem mapLane_pfHeld : (s.mapLane n h).pfHeld = s.pfHeld := rfl
@[simp] theorem mapLane_pwrVid : (s.mapLane n h).pwrVid = s.pwrVid := rfl
@[simp] theorem mapLane_device : (s.mapLane n h).device = s.device := rfl
@[simp] theorem mapLane_rails : (s.mapLane n h).rails = s.rails := rfl
@[simp] theorem mapLane_pwrEn : (s.mapLane n h).pwrEn = s.pwrEn := rfl
@[simp] theorem mapLane_srDrained : (s.mapLane n h).srDrained = s.srDrained := rfl
@[simp] theorem mapLane_pfAsked : (s.mapLane n h).pfAsked = s.pfAsked := rfl
@[simp] theorem mapLane_nonceHeld : (s.mapLane n h).nonceHeld = s.nonceHeld := rfl
@[simp] theorem mapLane_grantPhase : (s.mapLane n h).grantPhase = s.grantPhase := rfl

/-! ### answer -/

@[simp] theorem answer_pending (b : BusResp) : (s.answer b).pending = s.pending := rfl
@[simp] theorem answer_regs (b : BusResp) : (s.answer b).regs = s.regs := rfl
@[simp] theorem answer_mem (b : BusResp) : (s.answer b).mem = s.mem := rfl
@[simp] theorem answer_poison (b : BusResp) : (s.answer b).poison = s.poison := rfl
@[simp] theorem answer_fresh (b : BusResp) : (s.answer b).fresh = s.fresh := rfl
@[simp] theorem answer_cores (b : BusResp) : (s.answer b).cores = s.cores := rfl
@[simp] theorem answer_l2 (b : BusResp) : (s.answer b).l2 = s.l2 := rfl
@[simp] theorem answer_msc (b : BusResp) : (s.answer b).msc = s.msc := rfl
@[simp] theorem answer_mscLfsr (b : BusResp) : (s.answer b).mscLfsr = s.mscLfsr := rfl
@[simp] theorem answer_mcsWords (b : BusResp) : (s.answer b).mcsWords = s.mcsWords := rfl
@[simp] theorem answer_mcsBad (b : BusResp) : (s.answer b).mcsBad = s.mcsBad := rfl
@[simp] theorem answer_sessions (b : BusResp) : (s.answer b).sessions = s.sessions := rfl
@[simp] theorem answer_wciOut (b : BusResp) : (s.answer b).wciOut = s.wciOut := rfl
@[simp] theorem answer_wciIn (b : BusResp) : (s.answer b).wciIn = s.wciIn := rfl
@[simp] theorem answer_uclParts (b : BusResp) : (s.answer b).uclParts = s.uclParts := rfl
@[simp] theorem answer_safeChannels (b : BusResp) : (s.answer b).safeChannels = s.safeChannels := rfl
@[simp] theorem answer_safeOut (b : BusResp) : (s.answer b).safeOut = s.safeOut := rfl
@[simp] theorem answer_update (b : BusResp) : (s.answer b).update = s.update := rfl
@[simp] theorem answer_faultStore (b : BusResp) : (s.answer b).faultStore = s.faultStore := rfl
@[simp] theorem answer_faultLost (b : BusResp) : (s.answer b).faultLost = s.faultLost := rfl
@[simp] theorem answer_boundary (b : BusResp) : (s.answer b).boundary = s.boundary := rfl
@[simp] theorem answer_vddDbg (b : BusResp) : (s.answer b).vddDbg = s.vddDbg := rfl
@[simp] theorem answer_channels (b : BusResp) : (s.answer b).channels = s.channels := rfl
@[simp] theorem answer_trigOut (b : BusResp) : (s.answer b).trigOut = s.trigOut := rfl
@[simp] theorem answer_tapData (b : BusResp) : (s.answer b).tapData = s.tapData := rfl
@[simp] theorem answer_tapRefused (b : BusResp) : (s.answer b).tapRefused = s.tapRefused := rfl
@[simp] theorem answer_trcCore (b : BusResp) : (s.answer b).trcCore = s.trcCore := rfl
@[simp] theorem answer_trcStim (b : BusResp) : (s.answer b).trcStim = s.trcStim := rfl
@[simp] theorem answer_trcStopped (b : BusResp) : (s.answer b).trcStopped = s.trcStopped := rfl
@[simp] theorem answer_traceSent (b : BusResp) : (s.answer b).traceSent = s.traceSent := rfl
@[simp] theorem answer_seatChecking (b : BusResp) : (s.answer b).seatChecking = s.seatChecking := rfl
@[simp] theorem answer_seatShares (b : BusResp) : (s.answer b).seatShares = s.seatShares := rfl
@[simp] theorem answer_seatEntry (b : BusResp) : (s.answer b).seatEntry = s.seatEntry := rfl
@[simp] theorem answer_tbsFrac (b : BusResp) : (s.answer b).tbsFrac = s.tbsFrac := rfl
@[simp] theorem answer_tbsCaptured (b : BusResp) : (s.answer b).tbsCaptured = s.tbsCaptured := rfl
@[simp] theorem answer_tbsOut (b : BusResp) : (s.answer b).tbsOut = s.tbsOut := rfl
@[simp] theorem answer_tbsPulse (b : BusResp) : (s.answer b).tbsPulse = s.tbsPulse := rfl
@[simp] theorem answer_tbsActed (b : BusResp) : (s.answer b).tbsActed = s.tbsActed := rfl
@[simp] theorem answer_dealLen (b : BusResp) : (s.answer b).dealLen = s.dealLen := rfl
@[simp] theorem answer_dealPassed (b : BusResp) : (s.answer b).dealPassed = s.dealPassed := rfl
@[simp] theorem answer_inSvc (b : BusResp) : (s.answer b).inSvc = s.inSvc := rfl
@[simp] theorem answer_stale (b : BusResp) : (s.answer b).stale = s.stale := rfl
@[simp] theorem answer_lanes (b : BusResp) : (s.answer b).lanes = s.lanes := rfl
@[simp] theorem answer_groups (b : BusResp) : (s.answer b).groups = s.groups := rfl
@[simp] theorem answer_laneRan (b : BusResp) : (s.answer b).laneRan = s.laneRan := rfl
@[simp] theorem answer_laneDeeds (b : BusResp) : (s.answer b).laneDeeds = s.laneDeeds := rfl
@[simp] theorem answer_sdiSat (b : BusResp) : (s.answer b).sdiSat = s.sdiSat := rfl
@[simp] theorem answer_hrp (b : BusResp) : (s.answer b).hrp = s.hrp := rfl
@[simp] theorem answer_fuses (b : BusResp) : (s.answer b).fuses = s.fuses := rfl
@[simp] theorem answer_fuseWritten (b : BusResp) : (s.answer b).fuseWritten = s.fuseWritten := rfl
@[simp] theorem answer_fuseDestroyed (b : BusResp) : (s.answer b).fuseDestroyed = s.fuseDestroyed := rfl
@[simp] theorem answer_fuseDamaged (b : BusResp) : (s.answer b).fuseDamaged = s.fuseDamaged := rfl
@[simp] theorem answer_fuseOp (b : BusResp) : (s.answer b).fuseOp = s.fuseOp := rfl
@[simp] theorem answer_creJobs (b : BusResp) : (s.answer b).creJobs = s.creJobs := rfl
@[simp] theorem answer_flash (b : BusResp) : (s.answer b).flash = s.flash := rfl
@[simp] theorem answer_svp (b : BusResp) : (s.answer b).svp = s.svp := rfl
@[simp] theorem answer_image (b : BusResp) : (s.answer b).image = s.image := rfl
@[simp] theorem answer_manifests (b : BusResp) : (s.answer b).manifests = s.manifests := rfl
@[simp] theorem answer_restarts (b : BusResp) : (s.answer b).restarts = s.restarts := rfl
@[simp] theorem answer_ucl (b : BusResp) : (s.answer b).ucl = s.ucl := rfl
@[simp] theorem answer_members (b : BusResp) : (s.answer b).members = s.members := rfl
@[simp] theorem answer_gates (b : BusResp) : (s.answer b).gates = s.gates := rfl
@[simp] theorem answer_ethSent (b : BusResp) : (s.answer b).ethSent = s.ethSent := rfl
@[simp] theorem answer_ethLink (b : BusResp) : (s.answer b).ethLink = s.ethLink := rfl
@[simp] theorem answer_legacy (b : BusResp) : (s.answer b).legacy = s.legacy := rfl
@[simp] theorem answer_gpioRbmis (b : BusResp) : (s.answer b).gpioRbmis = s.gpioRbmis := rfl
@[simp] theorem answer_fabPorts (b : BusResp) : (s.answer b).fabPorts = s.fabPorts := rfl
@[simp] theorem answer_fabSent (b : BusResp) : (s.answer b).fabSent = s.fabSent := rfl
@[simp] theorem answer_dmc (b : BusResp) : (s.answer b).dmc = s.dmc := rfl
@[simp] theorem answer_dstoreScrub (b : BusResp) : (s.answer b).dstoreScrub = s.dstoreScrub := rfl
@[simp] theorem answer_faults (b : BusResp) : (s.answer b).faults = s.faults := rfl
@[simp] theorem answer_clockBad (b : BusResp) : (s.answer b).clockBad = s.clockBad := rfl
@[simp] theorem answer_critSamples (b : BusResp) : (s.answer b).critSamples = s.critSamples := rfl
@[simp] theorem answer_cwdStopped (b : BusResp) : (s.answer b).cwdStopped = s.cwdStopped := rfl
@[simp] theorem answer_swdStopped (b : BusResp) : (s.answer b).swdStopped = s.swdStopped := rfl
@[simp] theorem answer_svpCount (b : BusResp) : (s.answer b).svpCount = s.svpCount := rfl
@[simp] theorem answer_refPhase (b : BusResp) : (s.answer b).refPhase = s.refPhase := rfl
@[simp] theorem answer_tokens (b : BusResp) : (s.answer b).tokens = s.tokens := rfl
@[simp] theorem answer_tokenQueue (b : BusResp) : (s.answer b).tokenQueue = s.tokenQueue := rfl
@[simp] theorem answer_relShare (b : BusResp) : (s.answer b).relShare = s.relShare := rfl
@[simp] theorem answer_relPool (b : BusResp) : (s.answer b).relPool = s.relPool := rfl
@[simp] theorem answer_pfRun (b : BusResp) : (s.answer b).pfRun = s.pfRun := rfl
@[simp] theorem answer_pfHeld (b : BusResp) : (s.answer b).pfHeld = s.pfHeld := rfl
@[simp] theorem answer_pwrVid (b : BusResp) : (s.answer b).pwrVid = s.pwrVid := rfl
@[simp] theorem answer_device (b : BusResp) : (s.answer b).device = s.device := rfl
@[simp] theorem answer_rails (b : BusResp) : (s.answer b).rails = s.rails := rfl
@[simp] theorem answer_pwrEn (b : BusResp) : (s.answer b).pwrEn = s.pwrEn := rfl
@[simp] theorem answer_srDrained (b : BusResp) : (s.answer b).srDrained = s.srDrained := rfl
@[simp] theorem answer_pfAsked (b : BusResp) : (s.answer b).pfAsked = s.pfAsked := rfl
@[simp] theorem answer_nonceHeld (b : BusResp) : (s.answer b).nonceHeld = s.nonceHeld := rfl
@[simp] theorem answer_grantPhase (b : BusResp) : (s.answer b).grantPhase = s.grantPhase := rfl

/-! ### reportFault -/

@[simp] theorem reportFault_pending : (reportFault a n i j s).pending = s.pending := rfl
@[simp] theorem reportFault_regs : (reportFault a n i j s).regs = s.regs := rfl
@[simp] theorem reportFault_mem : (reportFault a n i j s).mem = s.mem := rfl
@[simp] theorem reportFault_poison : (reportFault a n i j s).poison = s.poison := rfl
@[simp] theorem reportFault_fresh : (reportFault a n i j s).fresh = s.fresh := rfl
@[simp] theorem reportFault_resp : (reportFault a n i j s).resp = s.resp := rfl
@[simp] theorem reportFault_cores : (reportFault a n i j s).cores = s.cores := rfl
@[simp] theorem reportFault_l2 : (reportFault a n i j s).l2 = s.l2 := rfl
@[simp] theorem reportFault_msc : (reportFault a n i j s).msc = s.msc := rfl
@[simp] theorem reportFault_mscLfsr : (reportFault a n i j s).mscLfsr = s.mscLfsr := rfl
@[simp] theorem reportFault_mcsWords : (reportFault a n i j s).mcsWords = s.mcsWords := rfl
@[simp] theorem reportFault_mcsBad : (reportFault a n i j s).mcsBad = s.mcsBad := rfl
@[simp] theorem reportFault_sessions : (reportFault a n i j s).sessions = s.sessions := rfl
@[simp] theorem reportFault_wciOut : (reportFault a n i j s).wciOut = s.wciOut := rfl
@[simp] theorem reportFault_wciIn : (reportFault a n i j s).wciIn = s.wciIn := rfl
@[simp] theorem reportFault_uclParts : (reportFault a n i j s).uclParts = s.uclParts := rfl
@[simp] theorem reportFault_safeChannels : (reportFault a n i j s).safeChannels = s.safeChannels := rfl
@[simp] theorem reportFault_safeOut : (reportFault a n i j s).safeOut = s.safeOut := rfl
@[simp] theorem reportFault_update : (reportFault a n i j s).update = s.update := rfl
@[simp] theorem reportFault_faultStore : (reportFault a n i j s).faultStore = s.faultStore := rfl
@[simp] theorem reportFault_faultLost : (reportFault a n i j s).faultLost = s.faultLost := rfl
@[simp] theorem reportFault_boundary : (reportFault a n i j s).boundary = s.boundary := rfl
@[simp] theorem reportFault_vddDbg : (reportFault a n i j s).vddDbg = s.vddDbg := rfl
@[simp] theorem reportFault_channels : (reportFault a n i j s).channels = s.channels := rfl
@[simp] theorem reportFault_trigOut : (reportFault a n i j s).trigOut = s.trigOut := rfl
@[simp] theorem reportFault_tapData : (reportFault a n i j s).tapData = s.tapData := rfl
@[simp] theorem reportFault_tapRefused : (reportFault a n i j s).tapRefused = s.tapRefused := rfl
@[simp] theorem reportFault_trcCore : (reportFault a n i j s).trcCore = s.trcCore := rfl
@[simp] theorem reportFault_trcStim : (reportFault a n i j s).trcStim = s.trcStim := rfl
@[simp] theorem reportFault_trcStopped : (reportFault a n i j s).trcStopped = s.trcStopped := rfl
@[simp] theorem reportFault_traceSent : (reportFault a n i j s).traceSent = s.traceSent := rfl
@[simp] theorem reportFault_seatChecking : (reportFault a n i j s).seatChecking = s.seatChecking := rfl
@[simp] theorem reportFault_seatShares : (reportFault a n i j s).seatShares = s.seatShares := rfl
@[simp] theorem reportFault_seatEntry : (reportFault a n i j s).seatEntry = s.seatEntry := rfl
@[simp] theorem reportFault_tbsFrac : (reportFault a n i j s).tbsFrac = s.tbsFrac := rfl
@[simp] theorem reportFault_tbsCaptured : (reportFault a n i j s).tbsCaptured = s.tbsCaptured := rfl
@[simp] theorem reportFault_tbsOut : (reportFault a n i j s).tbsOut = s.tbsOut := rfl
@[simp] theorem reportFault_tbsPulse : (reportFault a n i j s).tbsPulse = s.tbsPulse := rfl
@[simp] theorem reportFault_tbsActed : (reportFault a n i j s).tbsActed = s.tbsActed := rfl
@[simp] theorem reportFault_dealLen : (reportFault a n i j s).dealLen = s.dealLen := rfl
@[simp] theorem reportFault_dealPassed : (reportFault a n i j s).dealPassed = s.dealPassed := rfl
@[simp] theorem reportFault_inSvc : (reportFault a n i j s).inSvc = s.inSvc := rfl
@[simp] theorem reportFault_stale : (reportFault a n i j s).stale = s.stale := rfl
@[simp] theorem reportFault_lanes : (reportFault a n i j s).lanes = s.lanes := rfl
@[simp] theorem reportFault_groups : (reportFault a n i j s).groups = s.groups := rfl
@[simp] theorem reportFault_laneRan : (reportFault a n i j s).laneRan = s.laneRan := rfl
@[simp] theorem reportFault_laneDeeds : (reportFault a n i j s).laneDeeds = s.laneDeeds := rfl
@[simp] theorem reportFault_sdiSat : (reportFault a n i j s).sdiSat = s.sdiSat := rfl
@[simp] theorem reportFault_hrp : (reportFault a n i j s).hrp = s.hrp := rfl
@[simp] theorem reportFault_fuses : (reportFault a n i j s).fuses = s.fuses := rfl
@[simp] theorem reportFault_fuseWritten : (reportFault a n i j s).fuseWritten = s.fuseWritten := rfl
@[simp] theorem reportFault_fuseDestroyed : (reportFault a n i j s).fuseDestroyed = s.fuseDestroyed := rfl
@[simp] theorem reportFault_fuseDamaged : (reportFault a n i j s).fuseDamaged = s.fuseDamaged := rfl
@[simp] theorem reportFault_fuseOp : (reportFault a n i j s).fuseOp = s.fuseOp := rfl
@[simp] theorem reportFault_creJobs : (reportFault a n i j s).creJobs = s.creJobs := rfl
@[simp] theorem reportFault_flash : (reportFault a n i j s).flash = s.flash := rfl
@[simp] theorem reportFault_svp : (reportFault a n i j s).svp = s.svp := rfl
@[simp] theorem reportFault_image : (reportFault a n i j s).image = s.image := rfl
@[simp] theorem reportFault_manifests : (reportFault a n i j s).manifests = s.manifests := rfl
@[simp] theorem reportFault_restarts : (reportFault a n i j s).restarts = s.restarts := rfl
@[simp] theorem reportFault_ucl : (reportFault a n i j s).ucl = s.ucl := rfl
@[simp] theorem reportFault_members : (reportFault a n i j s).members = s.members := rfl
@[simp] theorem reportFault_gates : (reportFault a n i j s).gates = s.gates := rfl
@[simp] theorem reportFault_ethSent : (reportFault a n i j s).ethSent = s.ethSent := rfl
@[simp] theorem reportFault_ethLink : (reportFault a n i j s).ethLink = s.ethLink := rfl
@[simp] theorem reportFault_legacy : (reportFault a n i j s).legacy = s.legacy := rfl
@[simp] theorem reportFault_gpioRbmis : (reportFault a n i j s).gpioRbmis = s.gpioRbmis := rfl
@[simp] theorem reportFault_fabPorts : (reportFault a n i j s).fabPorts = s.fabPorts := rfl
@[simp] theorem reportFault_fabSent : (reportFault a n i j s).fabSent = s.fabSent := rfl
@[simp] theorem reportFault_dmc : (reportFault a n i j s).dmc = s.dmc := rfl
@[simp] theorem reportFault_dstoreScrub : (reportFault a n i j s).dstoreScrub = s.dstoreScrub := rfl
@[simp] theorem reportFault_clockBad : (reportFault a n i j s).clockBad = s.clockBad := rfl
@[simp] theorem reportFault_critSamples : (reportFault a n i j s).critSamples = s.critSamples := rfl
@[simp] theorem reportFault_cwdStopped : (reportFault a n i j s).cwdStopped = s.cwdStopped := rfl
@[simp] theorem reportFault_swdStopped : (reportFault a n i j s).swdStopped = s.swdStopped := rfl
@[simp] theorem reportFault_svpCount : (reportFault a n i j s).svpCount = s.svpCount := rfl
@[simp] theorem reportFault_refPhase : (reportFault a n i j s).refPhase = s.refPhase := rfl
@[simp] theorem reportFault_tokens : (reportFault a n i j s).tokens = s.tokens := rfl
@[simp] theorem reportFault_tokenQueue : (reportFault a n i j s).tokenQueue = s.tokenQueue := rfl
@[simp] theorem reportFault_relShare : (reportFault a n i j s).relShare = s.relShare := rfl
@[simp] theorem reportFault_relPool : (reportFault a n i j s).relPool = s.relPool := rfl
@[simp] theorem reportFault_pfRun : (reportFault a n i j s).pfRun = s.pfRun := rfl
@[simp] theorem reportFault_pfHeld : (reportFault a n i j s).pfHeld = s.pfHeld := rfl
@[simp] theorem reportFault_pwrVid : (reportFault a n i j s).pwrVid = s.pwrVid := rfl
@[simp] theorem reportFault_device : (reportFault a n i j s).device = s.device := rfl
@[simp] theorem reportFault_rails : (reportFault a n i j s).rails = s.rails := rfl
@[simp] theorem reportFault_pwrEn : (reportFault a n i j s).pwrEn = s.pwrEn := rfl
@[simp] theorem reportFault_srDrained : (reportFault a n i j s).srDrained = s.srDrained := rfl
@[simp] theorem reportFault_pfAsked : (reportFault a n i j s).pfAsked = s.pfAsked := rfl
@[simp] theorem reportFault_nonceHeld : (reportFault a n i j s).nonceHeld = s.nonceHeld := rfl
@[simp] theorem reportFault_grantPhase : (reportFault a n i j s).grantPhase = s.grantPhase := rfl

/-! ### Reads after updates -/

/-- A register word after a write to it. -/
theorem word_setWord (hs : cellsWf resetWord s.regs = true) : (s.setWord a v).word a = v % 2 ^ 32 := by
  simp [State.setWord, State.word, cellGet_cellSet_same, hs]

/-- A register word after a write to another. -/
theorem word_setWord_other (b : Nat) (hab : a ≠ b) : (s.setWord a v).word b = s.word b := by
  simp [State.setWord, State.word, cellGet_cellSet_other, hab]

/-- A register write leaves the words of other registers alone. -/
theorem word_setReg_other (b : Nat) (h1 : b ≠ r.addr i j) (h2 : r.wide = true → b ≠ r.addr i j + 4) :
    (s.setReg r v i j).word b = s.word b := by
  unfold State.setReg
  dsimp only
  split
  · rename_i hw
    rw [word_setWord_other _ _ _ _ (Ne.symm (h2 hw)), word_setWord_other _ _ _ _ (Ne.symm h1)]
  · rw [word_setWord_other _ _ _ _ (Ne.symm h1)]

/-- What a register is read as stands in the register store alone. -/
theorem reg_congr (t : State) (ht : t.regs = s.regs) : t.reg r i j = s.reg r i j := by
  simp [State.reg, State.word, ht]
theorem get_congr (t : State) (ht : t.regs = s.regs) : t.get f i j = s.get f i j := by
  simp [State.get, reg_congr _ _ _ _ t ht]
theorem flag_congr (t : State) (ht : t.regs = s.regs) : t.flag f i j = s.flag f i j := by
  simp [State.flag, get_congr _ _ _ _ t ht]

/-- A core after an update of it, and of another. -/
@[simp] theorem core_setCore : (s.setCore k c).core k = c := by simp [State.setCore, State.core]
@[simp] theorem core_mapCore : (s.mapCore k g).core k = g (s.core k) := by simp [State.mapCore]
theorem core_setCore_other (l : CoreId) (hl : l ≠ k) : (s.setCore k c).core l = s.core l := by
  have : k.val ≠ l.val := fun e => hl (Fin.ext e.symm)
  simp [State.setCore, State.core, Vector.getElem_set, this]
theorem core_mapCore_other (l : CoreId) (hl : l ≠ k) : (s.mapCore k g).core l = s.core l :=
  core_setCore_other _ _ _ l hl

/-- A core is read from the cores alone. -/
theorem core_congr (t : State) (ht : t.cores = s.cores) : t.core k = s.core k := by simp [State.core, ht]

end Sys2Proof.Laws
end

