-- ==== Sys2Proof/Laws/Accesses.lean ====
section
/-!
SUPPORT. A core's loads and stores whose checks pass (`State.Loads`, `State.Stores`), and writes to the pages of a frame.
-/

set_option Elab.async false

namespace Sys2Proof.Laws

open Sys2Proof.Machine

/-- A load whose checks pass and whose data are at hand. -/
theorem loadAccess_loads (k : CoreId) (use : LoadUse) (va : Word64) (size : Nat) (up : Upset) (s t : State)
    (ps : List Part) (d : Nat) (h : s.Loads k false va size up ps d t) :
    loadAccess k use va size up s = useLoaded k use ps d t := by
  obtain ⟨hu, b, c, h1, h2, h3, h4⟩ := h
  simp only [Bool.false_eq_true, if_false] at h1
  unfold loadAccess
  rw [if_neg hu]
  simp only [h1]
  unfold loadChecked
  simp only [h2, h3, if_true, Bool.false_eq_true, if_false]
  unfold loadParts
  simp only [h4]

/-- Outside deterministic mode every piece of a store enters the store buffer. -/
theorem issueStores_buffered (k : CoreId) (ps : List Part) (v : Nat) (s : State) (h : (s.core k).dm = false) :
    issueStores k ps v s = (s.mapCore k (fun c => c.buffered (storeEntries c.seatid ps v)), true) := by
  induction ps generalizing v s with
  | nil =>
    have : s.mapCore k (fun c => c.buffered []) = s := by
      show s.setCore k ((s.core k).buffered []) = s
      have e : (s.core k).buffered [] = s.core k := by simp only [Core.buffered, List.append_nil]
      rw [e]
      simp [State.setCore, State.core]
    simp [issueStores, storeEntries, this]
  | cons p ps ih =>
    unfold issueStores
    have : issueStore k p v s = (s.mapCore k (fun c =>
        { c with stores := c.stores ++ [⟨p.pa, p.size, v % 2 ^ (8 * p.size), p.type, c.seatid, false, false⟩] }), true) := by
      simp [issueStore, h, State.mapCore]
    rw [this]
    simp only [if_true]
    rw [ih _ _ (by simpa [State.mapCore, Core.dm] using h)]
    simp [State.mapCore, State.setCore, State.core, Core.buffered, storeEntries]

/-- A store whose checks pass. -/
theorem storeAccess_stores (k : CoreId) (va : Word64) (size v : Nat) (u t : State) (ps : List Part)
    (h : u.Stores k false va size ps t) :
    storeAccess k va size v u = (let r := issueStores k ps v t; if r.2 then .ok r.1 else .stall u) := by
  obtain ⟨a, h1, h2⟩ := h
  simp only [Bool.false_eq_true, if_false] at h1
  simp only [storeAccess, h1, h2]
  rfl

/-- A frame passes seat 0 and the seat of the page, and nobody else. -/
theorem framePasses_own (by_ : Seat) (o : Nat) (h : by_ = 0 ∨ by_.val = o) : framePasses by_.val o = true := by
  rcases h with h | h <;> simp [framePasses, h]
theorem framePasses_other (by_ : Seat) (o : Nat) (h : by_ ≠ 0) (h2 : by_.val ≠ o) : framePasses by_.val o = false := by
  simp [framePasses, h2]; omega

end Sys2Proof.Laws
end

