-- ==== Sys2Proof/Laws/Carries.lean ====
section
/-!
SUPPORT. What every operation carries along: `Carries z s` says that `s` still has the queue of `z`, and everything that
`Keeps` names. Each operation of the model has one lemma of this kind (Laws/Carry*.lean); this file has the relation, its
laws for the primitive updates, and for results, answers and folds.
-/

set_option Elab.async false

namespace Sys2Proof.Laws

open Sys2Proof.Machine

/-- `s` comes from `z`, and nothing that `Keeps` names was undone; the queue is as it was. -/
structure Carries (z s : State) : Prop extends Keeps z s where
  pending : s.pending = z.pending

theorem Carries.refl (z : State) : Carries z z := ⟨⟨fun _ h => h, Nat.le_refl _, fun h => h⟩, rfl⟩

theorem Carries.trans {a b c : State} (h : Carries a b) (g : Carries b c) : Carries a c :=
  ⟨⟨fun i hi => g.fuses i (h.fuses i hi), Nat.le_trans h.fresh g.fresh, fun hc => g.canonical (h.canonical hc)⟩,
    g.pending.trans h.pending⟩

/-- An update that leaves the queue, the sparse stores, the fuses and the counter alone. -/
theorem Carries.same {z s t : State} (h : Carries z s) (hp : t.pending = s.pending) (hf : t.fresh = s.fresh)
    (hu : t.fuses = s.fuses) (hr : t.regs = s.regs) (hm : t.mem = s.mem) (hw : t.mcsWords = s.mcsWords)
    (hl : t.flash = s.flash) (ho : t.poison = s.poison) : Carries z t :=
  h.trans ⟨⟨fun i hi => hu ▸ hi, Nat.le_of_eq hf.symm,
    fun hc => ⟨hr ▸ hc.regs, hm ▸ hc.mem, hw ▸ hc.mcs, fun i => by simpa only [hl] using hc.flash i, ho ▸ hc.poison⟩⟩, hp⟩

/-- An update of other fields, as a record. -/
theorem Carries.mk_same {z s : State}
    (resp_ : BusResp) (cores_ : Vector Core 32) (l2_ : Vector L2 8) (msc_ : List MscTag) (mscLfsr_ : Vector (BitVec
    16) 32) (mcsBad_ : List (Nat × Nat)) (sessions_ : List Session) (wciOut_ : List WciMsg) (wciIn_ : List
    (SessionId × List Byte)) (uclParts_ : List (Nat × List Byte)) (safeChannels_ : List SafeChannel)
    (safeOut_ : List SafeMsg) (update_ : Option Nat) (faultStore_ : List (Nat × Nat)) (faultLost_ : Nat)
    (boundary_ : Option (BitVec 959)) (vddDbg_ : Bool) (channels_ : List Nat) (trigOut_ : Nat) (tapData_ : Word32)
    (tapRefused_ : Bool) (trcCore_ : Vector TraceFifo 32) (trcStim_ : Vector TraceFifo 16) (trcStopped_ : BitVec 8)
    (traceSent_ : List Byte) (seatChecking_ : Bool) (seatShares_ : List (Nat × Nat)) (seatEntry_ : Vector Word64 16)
    (tbsFrac_ : BitVec 16) (tbsCaptured_ : Vector (BitVec 16) 16) (tbsOut_ : BitVec 32) (tbsPulse_ : BitVec 32)
    (tbsActed_ : BitVec 32) (dealLen_ : Nat) (dealPassed_ : Bool) (inSvc_ : List InSvc) (stale_ : List (Nat × Nat))
    (lanes_ : Vector Lane 64) (groups_ : Vector LaneGroup 4) (laneRan_ : List Nat) (laneDeeds_ : List LaneDeed)
    (sdiSat_ : BitVec 48) (hrp_ : Vector HrpPair 24) (fuseWritten_ : List Nat) (fuseDestroyed_ : List Nat)
    (fuseDamaged_ : List Nat) (fuseOp_ : Option FuseOp) (creJobs_ : List CreJob) (svp_ : SvpRun) (image_ : Option
    BootImage) (manifests_ : List SeatManifest) (restarts_ : List Nat) (ucl_ : Ucl) (members_ : List (List Byte))
    (gates_ : Vector (BitVec 8) 4) (ethSent_ : Option EthFrame) (ethLink_ : Vector Nat 5) (legacy_ : Vector
    LegacyCtl 20) (gpioRbmis_ : BitVec 96) (fabPorts_ : List FabPort) (fabSent_ : Option Flit) (dmc_ : Vector Dmc 4)
    (dstoreScrub_ : Vector Nat 32) (faults_ : List FaultLine) (clockBad_ : Nat) (critSamples_ : Nat)
    (cwdStopped_ : BitVec 32) (swdStopped_ : BitVec 16) (svpCount_ : Nat) (refPhase_ : Nat) (tokens_ : List
    TokenHeld) (tokenQueue_ : List TokenWait) (relShare_ : Vector Nat 16) (relPool_ : Nat) (pfRun_ : Nat)
    (pfHeld_ : Option Nat) (pwrVid_ : Nat) (device_ : DeviceState) (rails_ : BitVec 12) (pwrEn_ : Bool)
    (srDrained_ : List Nat) (pfAsked_ : List (Nat × Nat)) (nonceHeld_ : Bool) (grantPhase_ : Vector Nat 16)
    (h : Carries z s) : Carries z (State.mk
      s.pending s.regs s.mem s.poison s.fresh resp_ cores_ l2_ msc_ mscLfsr_ s.mcsWords mcsBad_ sessions_ wciOut_
      wciIn_ uclParts_ safeChannels_ safeOut_ update_ faultStore_ faultLost_ boundary_ vddDbg_ channels_ trigOut_
      tapData_ tapRefused_ trcCore_ trcStim_ trcStopped_ traceSent_ seatChecking_ seatShares_ seatEntry_ tbsFrac_
      tbsCaptured_ tbsOut_ tbsPulse_ tbsActed_ dealLen_ dealPassed_ inSvc_ stale_ lanes_ groups_ laneRan_ laneDeeds_
      sdiSat_ hrp_ s.fuses fuseWritten_ fuseDestroyed_ fuseDamaged_ fuseOp_ creJobs_ s.flash svp_ image_ manifests_
      restarts_ ucl_ members_ gates_ ethSent_ ethLink_ legacy_ gpioRbmis_ fabPorts_ fabSent_ dmc_ dstoreScrub_
      faults_ clockBad_ critSamples_ cwdStopped_ swdStopped_ svpCount_ refPhase_ tokens_ tokenQueue_ relShare_
      relPool_ pfRun_ pfHeld_ pwrVid_ device_ rails_ pwrEn_ srDrained_ pfAsked_ nonceHeld_ grantPhase_) :=
  h.same rfl rfl rfl rfl rfl rfl rfl rfl

/-- An update of the register store. -/
theorem Carries.regs {z s : State} (h : Carries z s) (r : List (Nat × Word32))
    (hr : cellsWf resetWord s.regs = true → cellsWf resetWord r = true) : Carries z { s with regs := r } :=
  h.trans ⟨⟨fun _ hi => hi, Nat.le_refl _, fun hc => ⟨hr hc.regs, hc.mem, hc.mcs, hc.flash, hc.poison⟩⟩, rfl⟩

/-- An update of memory with its poison. -/
theorem Carries.mem {z s : State} (h : Carries z s) (m : List Host.Cell) (p : List Nat)
    (hm : Memory.wf s.mem = true → Memory.wf m = true)
    (hp : s.poison.Pairwise (· < ·) → p.Pairwise (· < ·)) : Carries z { s with mem := m, poison := p } :=
  h.trans ⟨⟨fun _ hi => hi, Nat.le_refl _, fun hc => ⟨hc.regs, hm hc.mem, hc.mcs, hc.flash, hp hc.poison⟩⟩, rfl⟩

/-- An update of the microcode store. -/
theorem Carries.mcs {z s : State} (h : Carries z s) (w : List (Nat × BitVec 128)) (b : List (Nat × Nat))
    (hw : cellsWf (fun _ => (0 : BitVec 128)) s.mcsWords = true → cellsWf (fun _ => (0 : BitVec 128)) w = true) :
    Carries z { s with mcsWords := w, mcsBad := b } :=
  h.trans ⟨⟨fun _ hi => hi, Nat.le_refl _, fun hc => ⟨hc.regs, hc.mem, hw hc.mcs, hc.flash, hc.poison⟩⟩, rfl⟩

/-- An update of the flash devices. -/
theorem Carries.flash {z s : State} (h : Carries z s) (l : Vector (List Host.Cell) 2)
    (hl : (∀ i : Fin 2, cellsWf (fun _ => (0xFF : Byte)) s.flash[i] = true) →
      ∀ i : Fin 2, cellsWf (fun _ => (0xFF : Byte)) l[i] = true) : Carries z { s with flash := l } :=
  h.trans ⟨⟨fun _ hi => hi, Nat.le_refl _, fun hc => ⟨hc.regs, hc.mem, hc.mcs, hl hc.flash, hc.poison⟩⟩, rfl⟩

/-- The counter of free values advances. -/
theorem Carries.advance {z s : State} (h : Carries z s) (n : Nat) (hn : s.fresh ≤ n) : Carries z { s with fresh := n } :=
  h.trans ⟨⟨fun _ hi => hi, hn, fun hc => ⟨hc.regs, hc.mem, hc.mcs, hc.flash, hc.poison⟩⟩, rfl⟩

/-- Fuses are blown. -/
theorem Carries.blow {z s : State} (h : Carries z s) (f : BitVec 8192)
    (hf : ∀ i : Nat, s.fuses.getLsbD i = true → f.getLsbD i = true) : Carries z { s with fuses := f } :=
  h.trans ⟨⟨hf, Nat.le_refl _, fun hc => ⟨hc.regs, hc.mem, hc.mcs, hc.flash, hc.poison⟩⟩, rfl⟩

/-! ### Through pairs, results and acts -/

theorem Carries.snd {α : Type} {z : State} {p : α × State} {a : α} {s : State} (e : p = (a, s)) (h : Carries z p.2) :
    Carries z s := by subst e; exact h
theorem Carries.fst {α : Type} {z : State} {p : State × α} {a : α} {s : State} (e : p = (s, a)) (h : Carries z p.1) :
    Carries z s := by subst e; exact h
theorem Carries.snd2 {α β : Type} {z : State} {p : α × β × State} {a : α} {b : β} {s : State} (e : p = (a, b, s))
    (h : Carries z p.2.2) : Carries z s := by subst e; exact h

/-- Every state that an optional state holds. -/
structure OptCarries (z : State) (o : Option State) : Prop where
  all : ∀ s, o = some s → Carries z s
theorem OptCarries.get {z : State} {o : Option State} {s : State} (e : o = some s) (h : OptCarries z o) : Carries z s :=
  h.all s e

/-- A result that is a next state, which carries. -/
structure ResCarries (z : State) (r : Result) : Prop where
  isNext : ∃ s, r = .next s ∧ Carries z s

/-- The state of an instruction's act. -/
def actState : Act → State
  | .done s => s
  | .jump _ s => s
  | .ret _ s => s
  | .exc _ s => s
  | .excAfter _ s => s
  | .stall s => s
/-- The state of an instruction's act carries. -/
structure ActCarries (z : State) (a : Act) : Prop where
  state : Carries z (actState a)

/-- The state of a lane instruction's act. -/
def laneActState : LaneAct → State
  | .next s => s
  | .goto _ _ s => s
  | .stay s => s
  | .fault _ s => s
/-- The state of a lane instruction's act carries. -/
structure LaneActCarries (z : State) (a : LaneAct) : Prop where
  state : Carries z (laneActState a)

/-- The state of a store's answer. -/
def storeState : StoreAns → State
  | .ok s => s
  | .exc _ s => s
  | .stall s => s
/-- The state of a store's answer carries. -/
structure StoreCarries (z : State) (a : StoreAns) : Prop where
  state : Carries z (storeState a)

theorem res_next {z s : State} (h : Carries z s) : ResCarries z (.next s) := ⟨s, rfl, h⟩
theorem res_next_of {z s : State} {r : Result} (e : r = .next s) (h : ResCarries z r) : Carries z s := by
  obtain ⟨t, ht, hc⟩ := h.isNext
  rw [e] at ht
  cases ht
  exact hc
theorem opt_some {z s : State} (h : Carries z s) : OptCarries z (some s) := ⟨fun _ e => Option.some.inj e ▸ h⟩
theorem opt_none {z : State} : OptCarries z none := ⟨fun _ e => nomatch e⟩
theorem getD_carries {z s : State} {o : Option State} (ho : OptCarries z o) (h : Carries z s) : Carries z (o.getD s) := by
  cases o with
  | none => exact h
  | some t => exact ho.all t rfl
theorem act_done {z s : State} (h : Carries z s) : ActCarries z (.done s) := ⟨h⟩
theorem act_done_of {z s : State} {a : Act} (e_ : a = .done s) (h : ActCarries z a) : Carries z s := by
  subst e_; exact h.state
theorem act_jump {z s : State} {t : Word64} (h : Carries z s) : ActCarries z (.jump t s) := ⟨h⟩
theorem act_jump_of {z s : State} {a : Act} {t : Word64} (e_ : a = .jump t s) (h : ActCarries z a) : Carries z s := by
  subst e_; exact h.state
theorem act_ret {z s : State} {t : Word64} (h : Carries z s) : ActCarries z (.ret t s) := ⟨h⟩
theorem act_ret_of {z s : State} {a : Act} {t : Word64} (e_ : a = .ret t s) (h : ActCarries z a) : Carries z s := by
  subst e_; exact h.state
theorem act_exc {z s : State} {e : Exc} (h : Carries z s) : ActCarries z (.exc e s) := ⟨h⟩
theorem act_exc_of {z s : State} {a : Act} {e : Exc} (e_ : a = .exc e s) (h : ActCarries z a) : Carries z s := by
  subst e_; exact h.state
theorem act_excAfter {z s : State} {e : Exc} (h : Carries z s) : ActCarries z (.excAfter e s) := ⟨h⟩
theorem act_excAfter_of {z s : State} {a : Act} {e : Exc} (e_ : a = .excAfter e s) (h : ActCarries z a) : Carries z s := by
  subst e_; exact h.state
theorem act_stall {z s : State} (h : Carries z s) : ActCarries z (.stall s) := ⟨h⟩
theorem act_stall_of {z s : State} {a : Act} (e_ : a = .stall s) (h : ActCarries z a) : Carries z s := by
  subst e_; exact h.state
theorem lact_next {z s : State} (h : Carries z s) : LaneActCarries z (.next s) := ⟨h⟩
theorem lact_next_of {z s : State} {a : LaneAct} (e_ : a = .next s) (h : LaneActCarries z a) : Carries z s := by
  subst e_; exact h.state
theorem lact_goto {z s : State} {t : Nat} {c : Bool} (h : Carries z s) : LaneActCarries z (.goto t c s) := ⟨h⟩
theorem lact_goto_of {z s : State} {a : LaneAct} {t : Nat} {c : Bool} (e_ : a = .goto t c s) (h : LaneActCarries z a) : Carries z s := by
  subst e_; exact h.state
theorem lact_stay {z s : State} (h : Carries z s) : LaneActCarries z (.stay s) := ⟨h⟩
theorem lact_stay_of {z s : State} {a : LaneAct} (e_ : a = .stay s) (h : LaneActCarries z a) : Carries z s := by
  subst e_; exact h.state
theorem lact_fault {z s : State} {n : Nat} (h : Carries z s) : LaneActCarries z (.fault n s) := ⟨h⟩
theorem lact_fault_of {z s : State} {a : LaneAct} {n : Nat} (e_ : a = .fault n s) (h : LaneActCarries z a) : Carries z s := by
  subst e_; exact h.state
theorem store_ok {z s : State} (h : Carries z s) : StoreCarries z (.ok s) := ⟨h⟩
theorem store_ok_of {z s : State} {a : StoreAns} (e_ : a = .ok s) (h : StoreCarries z a) : Carries z s := by
  subst e_; exact h.state
theorem store_exc {z s : State} {x : Exc} (h : Carries z s) : StoreCarries z (.exc x s) := ⟨h⟩
theorem store_exc_of {z s : State} {a : StoreAns} {x : Exc} (e_ : a = .exc x s) (h : StoreCarries z a) : Carries z s := by
  subst e_; exact h.state
theorem store_stall {z s : State} (h : Carries z s) : StoreCarries z (.stall s) := ⟨h⟩
theorem store_stall_of {z s : State} {a : StoreAns} (e_ : a = .stall s) (h : StoreCarries z a) : Carries z s := by
  subst e_; exact h.state

theorem ite_carries {z : State} {a b : State} {c : Prop} [Decidable c] (ha : c → Carries z a) (hb : ¬c → Carries z b) :
    Carries z (if c then a else b) := by
  by_cases h : c
  · rw [if_pos h]; exact ha h
  · rw [if_neg h]; exact hb h
theorem ite_res {z : State} {a b : Result} {c : Prop} [Decidable c] (ha : c → ResCarries z a) (hb : ¬c → ResCarries z b) :
    ResCarries z (if c then a else b) := by
  by_cases h : c
  · rw [if_pos h]; exact ha h
  · rw [if_neg h]; exact hb h
theorem ite_act {z : State} {a b : Act} {c : Prop} [Decidable c] (ha : c → ActCarries z a) (hb : ¬c → ActCarries z b) :
    ActCarries z (if c then a else b) := by
  by_cases h : c
  · rw [if_pos h]; exact ha h
  · rw [if_neg h]; exact hb h
theorem ite_lact {z : State} {a b : LaneAct} {c : Prop} [Decidable c] (ha : c → LaneActCarries z a) (hb : ¬c → LaneActCarries z b) :
    LaneActCarries z (if c then a else b) := by
  by_cases h : c
  · rw [if_pos h]; exact ha h
  · rw [if_neg h]; exact hb h
theorem ite_opt {z : State} {a b : Option State} {c : Prop} [Decidable c] (ha : c → OptCarries z a) (hb : ¬c → OptCarries z b) :
    OptCarries z (if c then a else b) := by
  by_cases h : c
  · rw [if_pos h]; exact ha h
  · rw [if_neg h]; exact hb h
theorem ite_snd {α : Type} {z : State} {a b : α × State} {c : Prop} [Decidable c] (ha : c → Carries z a.2) (hb : ¬c → Carries z b.2) :
    Carries z (if c then a else b).2 := by
  by_cases h : c
  · rw [if_pos h]; exact ha h
  · rw [if_neg h]; exact hb h
theorem ite_fst {α : Type} {z : State} {a b : State × α} {c : Prop} [Decidable c] (ha : c → Carries z a.1) (hb : ¬c → Carries z b.1) :
    Carries z (if c then a else b).1 := by
  by_cases h : c
  · rw [if_pos h]; exact ha h
  · rw [if_neg h]; exact hb h
theorem ite_snd2 {α : Type} {β : Type} {z : State} {a b : α × β × State} {c : Prop} [Decidable c] (ha : c → Carries z a.2.2) (hb : ¬c → Carries z b.2.2) :
    Carries z (if c then a else b).2.2 := by
  by_cases h : c
  · rw [if_pos h]; exact ha h
  · rw [if_neg h]; exact hb h

/-- The state of a reply of Welfen carries, where it has one. -/
structure ReplyCarries (z : State) (r : Reply) : Prop where
  now : ∀ n p s, r = .now n p s → Carries z s
  job : ∀ p s, r = .job p s → Carries z s
theorem reply_now {z s : State} {n : Nat} {p : List Byte} (h : Carries z s) : ReplyCarries z (.now n p s) :=
  ⟨fun _ _ _ e => by cases e; exact h, fun _ _ e => nomatch e⟩
theorem reply_job {z s : State} {p : List Byte} (h : Carries z s) : ReplyCarries z (.job p s) :=
  ⟨fun _ _ _ e => (nomatch e), fun _ _ e => by cases e; exact h⟩
theorem reply_wait {z : State} : ReplyCarries z .wait := ⟨fun _ _ _ e => (nomatch e), fun _ _ e => nomatch e⟩
theorem reply_now_of {z s : State} {r : Reply} {n : Nat} {p : List Byte} (e : r = .now n p s) (h : ReplyCarries z r) :
    Carries z s := h.now _ _ _ e
theorem reply_job_of {z s : State} {r : Reply} {p : List Byte} (e : r = .job p s) (h : ReplyCarries z r) :
    Carries z s := h.job _ _ e
theorem ite_reply {z : State} {a b : Reply} {c : Prop} [Decidable c] (ha : c → ReplyCarries z a) (hb : ¬c → ReplyCarries z b) :
    ReplyCarries z (if c then a else b) := by
  by_cases h : c
  · rw [if_pos h]; exact ha h
  · rw [if_neg h]; exact hb h

theorem ite_store {z : State} {a b : StoreAns} {c : Prop} [Decidable c] (ha : c → StoreCarries z a)
    (hb : ¬c → StoreCarries z b) : StoreCarries z (if c then a else b) := by
  by_cases h : c
  · rw [if_pos h]; exact ha h
  · rw [if_neg h]; exact hb h

theorem opt_bind {z : State} {o : Option State} {f : State → Option State} (ho : OptCarries z o)
    (hf : ∀ t, Carries z t → OptCarries z (f t)) : OptCarries z (o.bind f) := by
  cases o with
  | none => exact opt_none
  | some s => exact hf s (ho.all s rfl)

theorem opt_orElse {z : State} {o : Option State} {f : Unit → Option State} (ho : OptCarries z o)
    (hf : ∀ u, OptCarries z (f u)) : OptCarries z (o.orElse f) := by
  cases o with
  | none => exact hf ()
  | some s => exact ho

theorem id_carries {z s : State} (h : Carries z s) : Carries z (id s) := h

/-! ### Folds -/

theorem foldl_carries {β : Type} {z : State} (f : State → β → State) (hf : ∀ t b, Carries z t → Carries z (f t b))
    (l : List β) (s : State) (h : Carries z s) : Carries z (l.foldl f s) := by
  induction l generalizing s with
  | nil => exact h
  | cons b rest ih => exact ih _ (hf s b h)

theorem foldl_snd_carries {α β : Type} {z : State} (f : α × State → β → α × State)
    (hf : ∀ a t b, Carries z t → Carries z (f (a, t) b).2) (l : List β) (p : α × State) (h : Carries z p.2) :
    Carries z (l.foldl f p).2 := by
  induction l generalizing p with
  | nil => exact h
  | cons b rest ih => exact ih _ (hf p.1 p.2 b h)

theorem foldl_snd2_carries {α γ β : Type} {z : State} (f : α × γ × State → β → α × γ × State)
    (hf : ∀ a c t b, Carries z t → Carries z (f (a, c, t) b).2.2) (l : List β) (p : α × γ × State)
    (h : Carries z p.2.2) : Carries z (l.foldl f p).2.2 := by
  induction l generalizing p with
  | nil => exact h
  | cons b rest ih => exact ih _ (hf p.1 p.2.1 p.2.2 b h)

theorem each_carries {z : State} (l : List Nat) (f : Nat → State → State) (hf : ∀ n t, Carries z t → Carries z (f n t))
    (s : State) (h : Carries z s) : Carries z (s.each l f) := foldl_carries _ (fun t n ht => hf n t ht) l s h

/-! ### Primitive updates -/

theorem setWord_carries {z s : State} (a v : Nat) (h : Carries z s) : Carries z (s.setWord a v) :=
  h.regs _ (cellSet_wf _ _)

theorem clearRegs_carries {z s : State} (p : Nat → Bool) (h : Carries z s) : Carries z (s.clearRegs p) :=
  h.regs _ (cellClear_wf _)

theorem storeCells_wf (n : Nat) : ∀ (m : List Host.Cell) (a v : Nat), Memory.wf m = true → Memory.wf (storeCells m a v n) = true := by
  induction n with
  | zero => exact fun _ _ _ h => h
  | succ n ih => exact fun m a v h => ih _ _ _ (cellSet_wf _ _ h)

theorem writeMem_carries {z s : State} (a n v : Nat) (h : Carries z s) : Carries z (s.writeMem a n v) :=
  h.mem _ _ (storeCells_wf n _ _ _) (fun hp => hp.filter _)

theorem zeroMem_carries {z s : State} (a n : Nat) (h : Carries z s) : Carries z (s.zeroMem a n) :=
  h.mem _ _ (cellClear_wf _) (fun hp => hp.filter _)

theorem poisonWord_carries {z s : State} (a : Nat) (h : Carries z s) : Carries z (s.poisonWord a) := by
  refine h.mem _ _ (fun hm => hm) (fun hp => ?_)
  refine List.pairwise_append.2 ⟨hp.filter _, ?_, ?_⟩
  · refine List.pairwise_cons.2 ⟨fun x hx => ?_, hp.filter _⟩
    simpa using (List.mem_filter.1 hx).2
  · intro x hx y hy
    have h1 : x < poisonBase a := by simpa using (List.mem_filter.1 hx).2
    rcases List.mem_cons.1 hy with hy | hy
    · omega
    · have h2 : poisonBase a < y := by simpa using (List.mem_filter.1 hy).2
      omega

theorem draw_carries {z s : State} (h : Carries z s) : Carries z s.draw.2 := h.advance _ (Nat.le_succ _)
theorem drawRandom_carries {z s : State} (h : Carries z s) : Carries z s.drawRandom.2 := h.advance _ (Nat.le_succ _)

end Sys2Proof.Laws
end

