-- ==== Sys2Proof/Laws/CarryOps.lean ====
section
/-!
SUPPORT. What every operation of Machine/Ops.lean carries along (Laws/Carries.lean).
-/

set_option linter.all false
set_option Elab.async false

namespace Sys2Proof.Laws

open Sys2Proof.Machine

theorem setReg_carries {z : State} (s : State) (r : RegDef) (v : Nat) (i : Nat) (j : Nat) (h : Carries z s) :
    Carries z (State.setReg s r v i j) := by
  unfold Sys2Proof.Machine.State.setReg
  with_reducible repeat' (first
    | assumption | apply ite_carries | apply setWord_carries | split | dsimp only | intro)

theorem put_carries {z : State} (s : State) (f : Fld) (v : Nat) (i : Nat) (j : Nat) (h : Carries z s) :
    Carries z (State.put s f v i j) := by
  unfold Sys2Proof.Machine.State.put
  with_reducible repeat' (first
    | assumption | apply setReg_carries | split | dsimp only | intro)

theorem countUp_carries {z : State} (s : State) (f : Fld) (i : Nat) (j : Nat) (h : Carries z s) :
    Carries z (State.countUp s f i j) := by
  unfold Sys2Proof.Machine.State.countUp
  with_reducible repeat' (first
    | assumption | apply put_carries | split | dsimp only | intro)

theorem reportFault_carries {z : State} (code : Nat) (seat : Nat) (unit : Nat) (info : Nat) (s : State) (h : Carries z s) :
    Carries z (reportFault code seat unit info s) := by
  unfold Sys2Proof.Machine.reportFault
  with_reducible repeat' (first
    | assumption | (apply Carries.mk_same; first | assumption | split) | split | dsimp only | intro)

theorem resetInst_carries {z : State} (s : State) (r : RegDef) (i : Nat) (j : Nat) (h : Carries z s) :
    Carries z (State.resetInst s r i j) := by
  unfold Sys2Proof.Machine.State.resetInst
  with_reducible repeat' (first
    | assumption | apply setReg_carries | split | dsimp only | intro)

theorem raiseSrc_carries {z : State} (n : Nat) (s : State) (h : Carries z s) :
    Carries z (raiseSrc n s) := by
  unfold Sys2Proof.Machine.raiseSrc
  with_reducible repeat' (first
    | assumption | apply ite_carries | apply put_carries | split | dsimp only | intro)

theorem mapCores_carries {z : State} (s : State) (p : CoreId → Bool) (f : Core → Core) (h : Carries z s) :
    Carries z (State.mapCores s p f) := by
  unfold Sys2Proof.Machine.State.mapCores
  with_reducible repeat' (first
    | assumption | apply ite_carries | (apply Carries.mk_same; first | assumption | split) | split | dsimp only
    | intro)

theorem answer_carries {z : State} (s : State) (r : BusResp) (h : Carries z s) :
    Carries z (State.answer s r) := by
  unfold Sys2Proof.Machine.State.answer
  with_reducible repeat' (first
    | assumption | (apply Carries.mk_same; first | assumption | split) | split | dsimp only | intro)

theorem setCore_carries {z : State} (s : State) (k : CoreId) (c : Core) (h : Carries z s) :
    Carries z (State.setCore s k c) := by
  unfold Sys2Proof.Machine.State.setCore
  with_reducible repeat' (first
    | assumption | (apply Carries.mk_same; first | assumption | split) | split | dsimp only | intro)

theorem mapCore_carries {z : State} (s : State) (k : CoreId) (f : Core → Core) (h : Carries z s) :
    Carries z (State.mapCore s k f) := by
  unfold Sys2Proof.Machine.State.mapCore
  with_reducible repeat' (first
    | assumption | apply setCore_carries | split | dsimp only | intro)

theorem resetReg_carries {z : State} (s : State) (r : RegDef) (h : Carries z s) :
    Carries z (State.resetReg s r) := by
  unfold Sys2Proof.Machine.State.resetReg
  with_reducible repeat' (first
    | assumption | apply clearRegs_carries | split | dsimp only | intro)

theorem flashByte_carries {z : State} (s : State) (i : Nat) (a : Nat) (b : Byte) (h : Carries z s) :
    Carries z (State.flashByte s i a b) := by
  refine h.flash _ (fun hf j => ?_)
  have hi : ∀ k : Nat, k < 2 → cellsWf (fun _ => (0xFF : Byte)) (s.flash[k]!) = true := fun k hk => by
    rw [getElem!_pos s.flash k hk]; exact hf ⟨k, hk⟩
  simp only [Vector.set!_eq_setIfInBounds, Fin.getElem_fin, Vector.getElem_setIfInBounds]
  split
  · rename_i hij
    have := j.isLt
    exact cellSet_wf _ _ (hi i (by omega))
  · exact hf j

theorem flashErase_carries {z : State} (s : State) (i : Nat) (h : Carries z s) :
    Carries z (State.flashErase s i) := by
  refine h.flash _ (fun hf j => ?_)
  simp only [Vector.set!_eq_setIfInBounds, Fin.getElem_fin, Vector.getElem_setIfInBounds]
  split
  · rfl
  · exact hf j

theorem putBit_carries {z : State} (s : State) (f : Fld) (b : Nat) (v : Bool) (i : Nat) (j : Nat) (h : Carries z s) :
    Carries z (State.putBit s f b v i j) := by
  unfold Sys2Proof.Machine.State.putBit
  with_reducible repeat' (first
    | assumption | apply put_carries | split | dsimp only | intro)

theorem drawSeed_carries {z : State} (s : State) (h : Carries z s) :
    Carries z (State.drawSeed s).2 := by
  unfold Sys2Proof.Machine.State.drawSeed
  with_reducible repeat' (first
    | assumption | apply ite_carries | apply ite_snd | apply drawRandom_carries
    | refine Carries.snd (by assumption) ?_ | split | dsimp only | intro)

end Sys2Proof.Laws
end

