-- ==== Sys2Proof/Laws/CarrySession.lean ====
section
/-!
SUPPORT. What every operation of Machine/Session.lean carries along (Laws/Carries.lean).
-/

set_option linter.all false
set_option Elab.async false

namespace Sys2Proof.Laws

open Sys2Proof.Machine

theorem announce_carries {z : State} (seat : Nat) (pi : Nat) (s : State) (h : Carries z s) :
    Carries z (announce seat pi s) := by
  unfold Sys2Proof.Machine.announce
  with_reducible repeat' (first
    | assumption | apply raiseSrc_carries | apply put_carries | split | dsimp only | intro)

theorem writeBytes_carries {z : State} (s : State) (a : Nat) (x1 : List Byte) (h : Carries z s) :
    Carries z (State.writeBytes s a x1) := by
  induction x1 generalizing s a with
  | nil =>
    unfold Sys2Proof.Machine.State.writeBytes
    with_reducible repeat' (first
      | assumption | apply writeMem_carries | split | dsimp only | intro)
  | cons hd tl ih =>
    unfold Sys2Proof.Machine.State.writeBytes
    with_reducible repeat' (first
      | assumption | apply ih | apply writeMem_carries | split | dsimp only | intro)

theorem ringPut_carries {z : State} (major : Nat) (m : WciMsg) (seat : Nat) (s : State) (h : Carries z s) :
    Carries z (ringPut major m seat s) := by
  unfold Sys2Proof.Machine.ringPut
  with_reducible repeat' (first
    | assumption | apply ite_carries | apply writeMem_carries | apply announce_carries | apply writeBytes_carries
    | split | dsimp only | intro)

theorem mapSession_carries {z : State} (s : State) (id : SessionId) (f : Session → Session) (h : Carries z s) :
    Carries z (State.mapSession s id f) := by
  unfold Sys2Proof.Machine.State.mapSession
  with_reducible repeat' (first
    | assumption | apply ite_carries | (apply Carries.mk_same; first | assumption | split) | split | dsimp only
    | intro)

theorem sendMsg_carries {z : State} (m : WciMsg) (s : State) (h : Carries z s) :
    Carries z (sendMsg m s) := by
  unfold Sys2Proof.Machine.sendMsg
  with_reducible repeat' (first
    | assumption | apply ite_carries | apply ringPut_carries | apply mapSession_carries
    | (apply Carries.mk_same; first | assumption | apply ringPut_carries | apply mapSession_carries | split) | split
    | dsimp only | intro)

theorem noteIn_carries {z : State} (cat : Nat) (rate : Nat) (op : Nat) (seat : Nat) (payload : List Byte) (id : SessionId) (s : State) (h : Carries z s) :
    Carries z (noteIn cat rate op seat payload id s) := by
  unfold Sys2Proof.Machine.noteIn
  with_reducible repeat' (first
    | assumption | apply ite_carries | apply mapSession_carries | apply sendMsg_carries | split | dsimp only | intro)

theorem noteTo_carries {z : State} (op : Nat) (seat : Nat) (payload : List Byte) (id : SessionId) (s : State) (h : Carries z s) :
    Carries z (noteTo op seat payload id s) := by
  unfold Sys2Proof.Machine.noteTo
  with_reducible repeat' (first
    | assumption | apply noteIn_carries | split | dsimp only | intro)

theorem noteSeat_carries {z : State} (op : Nat) (seat : Nat) (payload : List Byte) (s : State) (h : Carries z s) :
    Carries z (noteSeat op seat payload s) := by
  unfold Sys2Proof.Machine.noteSeat
  with_reducible repeat' (first
    | assumption | apply noteTo_carries | split | dsimp only | intro)

theorem seatViolation_carries {z : State} (seat : Nat) (write : Bool) (addr : Nat) (s : State) (h : Carries z s) :
    Carries z (seatViolation seat write addr s) := by
  unfold Sys2Proof.Machine.seatViolation
  with_reducible repeat' (first
    | assumption | apply ite_carries | apply countUp_carries | apply put_carries | apply noteSeat_carries
    | apply raiseSrc_carries | split | dsimp only | intro)

theorem noteManager_carries {z : State} (op : Nat) (seat : Nat) (payload : List Byte) (s : State) (h : Carries z s) :
    Carries z (noteManager op seat payload s) := by
  unfold Sys2Proof.Machine.noteManager
  with_reducible repeat' (first
    | assumption | apply noteTo_carries | apply foldl_carries | apply foldl_snd_carries | apply foldl_snd2_carries
    | refine Carries.snd (by assumption) ?_ | refine Carries.snd2 (by assumption) ?_ | split | dsimp only | intro)

theorem respond_carries {z : State} (m : WciMsg) (s : State) (h : Carries z s) :
    Carries z (respond m s) := by
  unfold Sys2Proof.Machine.respond
  with_reducible repeat' (first
    | assumption | apply sendMsg_carries | apply mapSession_carries | split | dsimp only | intro)

theorem abortCommands_carries {z : State} (seat : Nat) (s : State) (h : Carries z s) :
    Carries z (abortCommands seat s) := by
  unfold Sys2Proof.Machine.abortCommands
  with_reducible repeat' (first
    | assumption | apply ite_carries | apply respond_carries | apply put_carries | apply mapSession_carries
    | apply foldl_carries | apply foldl_snd_carries | apply foldl_snd2_carries
    | refine Carries.snd (by assumption) ?_ | refine Carries.snd2 (by assumption) ?_
    | (apply Carries.mk_same; first | assumption | apply respond_carries | apply put_carries | apply mapSession_carries | apply foldl_carries | apply foldl_snd_carries | apply foldl_snd2_carries | refine Carries.snd (by assumption) ?_ | refine Carries.snd2 (by assumption) ?_ | split)
    | split | dsimp only | intro)

end Sys2Proof.Laws
end

