-- ==== Sys2Proof/Laws/CarryTargets.lean ====
section
/-!
SUPPORT. What every operation of Machine/Targets.lean carries along (Laws/Carries.lean).
-/

set_option linter.all false
set_option Elab.async false

namespace Sys2Proof.Laws

open Sys2Proof.Machine

theorem fenceViolation_carries {z : State} (seat : Nat) (s : State) (h : Carries z s) :
    Carries z (fenceViolation seat s) := by
  unfold Sys2Proof.Machine.fenceViolation
  with_reducible repeat' (first
    | assumption | apply ite_carries | apply raiseSrc_carries | apply put_carries | split | dsimp only | intro)

theorem storeGate_carries {z : State} (seat : Nat) (pa : Nat) (n : Nat) (s : State) (h : Carries z s) :
    Carries z (storeGate seat pa n s).2 := by
  unfold Sys2Proof.Machine.storeGate
  with_reducible repeat' (first
    | assumption | apply ite_carries | apply ite_snd | apply fenceViolation_carries | split | dsimp only | intro)

end Sys2Proof.Laws
end

