-- ==== Sys2Proof/Laws/CarryCoherent.lean ====
section
/-!
SUPPORT. What every operation of Machine/Coherent.lean carries along (Laws/Carries.lean).
-/

set_option linter.all false
set_option Elab.async false

namespace Sys2Proof.Laws

open Sys2Proof.Machine

theorem breakReservations_carries {z : State} (by_ : Option Nat) (line : Nat) (s : State) (h : Carries z s) :
    Carries z (breakReservations by_ line s) := by
  unfold Sys2Proof.Machine.breakReservations
  with_reducible repeat' (first
    | assumption | apply ite_carries | apply mapCores_carries | split | dsimp only | intro)

theorem dropL1Copies_carries {z : State} (cl : Nat) (seat : Nat) (line : Nat) (s : State) (h : Carries z s) :
    Carries z (dropL1Copies cl seat line s) := by
  unfold Sys2Proof.Machine.dropL1Copies
  with_reducible repeat' (first
    | assumption | apply ite_carries | apply mapCores_carries | split | dsimp only | intro)

theorem writeBack_carries {z : State} (e : L2Line) (s : State) (h : Carries z s) :
    Carries z (writeBack e s) := by
  unfold Sys2Proof.Machine.writeBack
  with_reducible repeat' (first
    | assumption | apply ite_carries | apply writeMem_carries | apply each_carries | apply poisonWord_carries
    | split | dsimp only | intro)

theorem mapL2_carries {z : State} (s : State) (c : Nat) (f : List L2Line → List L2Line) (h : Carries z s) :
    Carries z (State.mapL2 s c f) := by
  unfold Sys2Proof.Machine.State.mapL2
  with_reducible repeat' (first
    | assumption | (apply Carries.mk_same; first | assumption | split) | split | dsimp only | intro)

theorem l2Remove_carries {z : State} (cl : Nat) (seat : Nat) (line : Nat) (clean : Bool) (s : State) (h : Carries z s) :
    Carries z (l2Remove cl seat line clean s) := by
  unfold Sys2Proof.Machine.l2Remove
  with_reducible repeat' (first
    | assumption | apply ite_carries | apply dropL1Copies_carries | apply writeBack_carries | apply mapL2_carries
    | split | dsimp only | intro)

theorem invalidateOthers_carries {z : State} (line : Nat) (keep : Option (Nat × Nat)) (s : State) (h : Carries z s) :
    Carries z (invalidateOthers line keep s) := by
  unfold Sys2Proof.Machine.invalidateOthers
  with_reducible repeat' (first
    | assumption | apply ite_carries | apply l2Remove_carries | apply foldl_carries | apply foldl_snd_carries
    | apply foldl_snd2_carries | refine Carries.snd (by assumption) ?_ | refine Carries.snd2 (by assumption) ?_
    | split | dsimp only | intro)

theorem cohWrite_carries {z : State} (by_ : Option Nat) (pa : Nat) (n : Nat) (v : Nat) (s : State) (h : Carries z s) :
    Carries z (cohWrite by_ pa n v s) := by
  unfold Sys2Proof.Machine.cohWrite
  with_reducible repeat' (first
    | assumption | apply ite_carries | apply breakReservations_carries | apply invalidateOthers_carries
    | apply writeMem_carries | split | dsimp only | intro)

theorem pmCount1_carries {z : State} (k : Nat) (ev : Nat) (c : Core) (j : Nat) (s : State) (h : Carries z s) :
    Carries z (pmCount1 k ev c j s) := by
  unfold Sys2Proof.Machine.pmCount1
  with_reducible repeat' (first
    | assumption | apply ite_carries | apply put_carries | apply putBit_carries | apply raiseSrc_carries | split
    | dsimp only | intro)

theorem coreChoice_carries {z : State} (k : CoreId) (n : Nat) (s : State) (h : Carries z s) :
    Carries z (coreChoice k n s).2 := by
  unfold Sys2Proof.Machine.coreChoice
  with_reducible repeat' (first
    | assumption | apply mapCore_carries | split | dsimp only | intro)

theorem victimInstall_carries {z : State} (k : CoreId) (line : Nat) (s : State) (h : Carries z s) :
    Carries z (victimInstall k line s) := by
  unfold Sys2Proof.Machine.victimInstall
  with_reducible repeat' (first
    | assumption | apply ite_carries | apply mapCore_carries | apply coreChoice_carries
    | refine Carries.snd (by assumption) ?_ | split | dsimp only | intro)

theorem mscRead_carries {z : State} (seat : Nat) (line : Nat) (s : State) (h : Carries z s) :
    Carries z (mscRead seat line s) := by
  unfold Sys2Proof.Machine.mscRead
  with_reducible repeat' (first
    | assumption | apply ite_carries | (apply Carries.mk_same; first | assumption | split) | split | dsimp only
    | intro)

theorem l2Clean_carries {z : State} (cl : Nat) (seat : Nat) (line : Nat) (s : State) (h : Carries z s) :
    Carries z (l2Clean cl seat line s) := by
  unfold Sys2Proof.Machine.l2Clean
  with_reducible repeat' (first
    | assumption | apply ite_carries | apply mapL2_carries | apply writeBack_carries | split | dsimp only | intro)

theorem recallLine_carries {z : State} (line : Nat) (s : State) (h : Carries z s) :
    Carries z (recallLine line s) := by
  unfold Sys2Proof.Machine.recallLine
  with_reducible repeat' (first
    | assumption | apply l2Clean_carries | apply foldl_carries | apply foldl_snd_carries | apply foldl_snd2_carries
    | refine Carries.snd (by assumption) ?_ | refine Carries.snd2 (by assumption) ?_ | split | dsimp only | intro)

theorem l2Choice_carries {z : State} (c : Nat) (seat : Nat) (n : Nat) (s : State) (h : Carries z s) :
    Carries z (l2Choice c seat n s).2 := by
  unfold Sys2Proof.Machine.l2Choice
  with_reducible repeat' (first
    | assumption | (apply Carries.mk_same; first | assumption | split) | split | dsimp only | intro)

theorem l2Fill_carries {z : State} (cl : Nat) (seat : Nat) (line : Nat) (va : Nat) (s : State) (h : Carries z s) :
    Carries z (l2Fill cl seat line va s).2 := by
  unfold Sys2Proof.Machine.l2Fill
  with_reducible repeat' (first
    | assumption | apply ite_carries | apply ite_snd | apply mscRead_carries | apply recallLine_carries
    | apply mapL2_carries | apply put_carries | apply l2Choice_carries | apply l2Remove_carries
    | refine Carries.snd (by assumption) ?_ | split | dsimp only | intro)

theorem pmCount_carries {z : State} (k : CoreId) (ev : Nat) (s : State) (h : Carries z s) :
    Carries z (pmCount k ev s) := by
  unfold Sys2Proof.Machine.pmCount
  with_reducible repeat' (first
    | assumption | apply each_carries | apply pmCount1_carries | split | dsimp only | intro)

theorem cohRead_carries {z : State} (seat : Nat) (pa : Nat) (n : Nat) (s : State) (h : Carries z s) :
    Carries z (cohRead seat pa n s).2 := by
  unfold Sys2Proof.Machine.cohRead
  with_reducible repeat' (first
    | assumption | apply ite_carries | apply ite_snd | apply mscRead_carries | apply recallLine_carries | split
    | dsimp only | intro)

theorem l1Install_carries {z : State} (k : CoreId) (tags : List L1Tag) (set : Nat) (line : Nat) (s : State) (h : Carries z s) :
    Carries z (l1Install k tags set line s).2.2 := by
  unfold Sys2Proof.Machine.l1Install
  with_reducible repeat' (first
    | assumption | apply coreChoice_carries | refine Carries.snd (by assumption) ?_ | split | dsimp only | intro)

theorem storeCached_carries {z : State} (k : CoreId) (seat : Nat) (pa : Nat) (n : Nat) (v : Nat) (s : State) (h : Carries z s) :
    Carries z (storeCached k seat pa n v s) := by
  unfold Sys2Proof.Machine.storeCached
  with_reducible repeat' (first
    | assumption | apply ite_carries | apply invalidateOthers_carries | apply breakReservations_carries
    | apply l2Fill_carries | apply mapCores_carries | apply mapCore_carries | apply mapL2_carries
    | apply writeMem_carries | refine Carries.snd (by assumption) ?_ | split | dsimp only | intro)

theorem memUpset_carries {z : State} (pa : Nat) (scrub : Bool) (u : Upset) (s : State) (h : Carries z s) :
    Carries z (memUpset pa scrub u s) := by
  unfold Sys2Proof.Machine.memUpset
  with_reducible repeat' (first
    | assumption | apply ite_carries | apply countUp_carries | apply poisonWord_carries | apply raiseSrc_carries
    | apply put_carries | apply reportFault_carries | apply draw_carries | refine Carries.snd (by assumption) ?_
    | split | dsimp only | intro)

theorem l1iInstall_carries {z : State} (k : CoreId) (va : Nat) (line : Nat) (s : State) (h : Carries z s) :
    Carries z (l1iInstall k va line s) := by
  unfold Sys2Proof.Machine.l1iInstall
  with_reducible repeat' (first
    | assumption | apply l1Install_carries | apply mapCore_carries | refine Carries.snd2 (by assumption) ?_ | split
    | dsimp only | intro)

theorem prefetch_carries {z : State} (k : CoreId) (instr : Bool) (va : Nat) (pa : Nat) (s : State) (h : Carries z s) :
    Carries z (prefetch k instr va pa s) := by
  unfold Sys2Proof.Machine.prefetch
  with_reducible repeat' (first
    | assumption | apply ite_carries | apply l2Fill_carries | apply l1iInstall_carries
    | refine Carries.snd (by assumption) ?_ | split | dsimp only | intro)

theorem l1dInstall_carries {z : State} (k : CoreId) (va : Nat) (line : Nat) (s : State) (h : Carries z s) :
    Carries z (l1dInstall k va line s) := by
  unfold Sys2Proof.Machine.l1dInstall
  with_reducible repeat' (first
    | assumption | apply ite_carries | apply mapCore_carries | apply l1Install_carries | apply victimInstall_carries
    | refine Carries.snd2 (by assumption) ?_ | split | dsimp only | intro)

end Sys2Proof.Laws
end

