-- ==== Sys2Proof/Laws/CarryIcu.lean ====
section
/-!
SUPPORT. What every operation of Machine/Icu.lean carries along (Laws/Carries.lean).
-/

set_option linter.all false
set_option Elab.async false

namespace Sys2Proof.Laws

open Sys2Proof.Machine

theorem claimAt_carries {z : State} (t : Nat) (s : State) (h : Carries z s) :
    Carries z (claimAt t s).2 := by
  unfold Sys2Proof.Machine.claimAt
  with_reducible repeat' (first
    | assumption | apply putBit_carries | apply put_carries
    | (apply Carries.mk_same; first | assumption | apply putBit_carries | apply put_carries | split) | split
    | dsimp only | intro)

theorem execIcuStrandedTimeout_carries {z : State} (src : Fin 512) (s : State) (h : Carries z s) :
    ResCarries z (execIcuStrandedTimeout src s) := by
  unfold Sys2Proof.Machine.execIcuStrandedTimeout
  with_reducible repeat' (first
    | assumption | apply ite_carries | apply ite_res | apply res_next | apply noteSeat_carries | apply put_carries
    | apply raiseSrc_carries | split | dsimp only | intro)

theorem completeAt_carries {z : State} (t : Nat) (n : Nat) (s : State) (h : Carries z s) :
    Carries z (completeAt t n s) := by
  unfold Sys2Proof.Machine.completeAt
  with_reducible repeat' (first
    | assumption | apply ite_carries | apply put_carries | apply putBit_carries
    | (apply Carries.mk_same; first | assumption | apply put_carries | apply putBit_carries | split) | split
    | dsimp only | intro)

theorem noteWithdrawn_carries {z : State} (before : State) (after : State) (h_before : Carries z before) (h_after : Carries z after) :
    Carries z (noteWithdrawn before after) := by
  unfold Sys2Proof.Machine.noteWithdrawn
  with_reducible repeat' (first
    | assumption | apply ite_carries | (apply Carries.mk_same; first | assumption | split) | split | dsimp only
    | intro)

theorem execIcuClaim_carries {z : State} (t : Fin 33) (s : State) (h : Carries z s) :
    ResCarries z (execIcuClaim t s) := by
  unfold Sys2Proof.Machine.execIcuClaim
  with_reducible repeat' (first
    | assumption | apply ite_carries | apply ite_res | apply res_next | apply answer_carries | apply claimAt_carries
    | refine Carries.snd (by assumption) ?_ | split | dsimp only | intro)

theorem execIcuEdge_carries {z : State} (src : Fin 512) (s : State) (h : Carries z s) :
    ResCarries z (execIcuEdge src s) := by
  unfold Sys2Proof.Machine.execIcuEdge
  with_reducible repeat' (first
    | assumption | apply res_next | apply raiseSrc_carries | split | dsimp only | intro)

theorem srcWrite_carries {z : State} (seat : Nat) (n : Nat) (v : Nat) (s : State) (h : Carries z s) :
    Carries z (srcWrite seat n v s).2 := by
  unfold Sys2Proof.Machine.srcWrite
  with_reducible repeat' (first
    | assumption | apply ite_carries | apply ite_snd | apply seatViolation_carries | apply put_carries
    | apply noteWithdrawn_carries | split | dsimp only | intro)

theorem execIcuComplete_carries {z : State} (t : Fin 33) (id : BitVec 10) (s : State) (h : Carries z s) :
    ResCarries z (execIcuComplete t id s) := by
  unfold Sys2Proof.Machine.execIcuComplete
  with_reducible repeat' (first
    | assumption | apply ite_carries | apply ite_res | apply res_next | apply answer_carries
    | apply completeAt_carries | split | dsimp only | intro)

theorem swtrig_carries {z : State} (seat : Nat) (v : Nat) (s : State) (h : Carries z s) :
    Carries z (swtrig seat v s).2 := by
  unfold Sys2Proof.Machine.swtrig
  with_reducible repeat' (first
    | assumption | apply ite_carries | apply ite_snd | apply seatViolation_carries | apply raiseSrc_carries | split
    | dsimp only | intro)

theorem execIcuSwtrig_carries {z : State} (by_ : Seat) (value : Word32) (s : State) (h : Carries z s) :
    ResCarries z (execIcuSwtrig by_ value s) := by
  unfold Sys2Proof.Machine.execIcuSwtrig
  with_reducible repeat' (first
    | assumption | apply ite_carries | apply ite_res | apply res_next | apply swtrig_carries | apply answer_carries
    | refine Carries.snd (by assumption) ?_ | split | dsimp only | intro)

theorem execIcuSrcWrite_carries {z : State} (by_ : Seat) (src : Fin 512) (value : Word32) (s : State) (h : Carries z s) :
    ResCarries z (execIcuSrcWrite by_ src value s) := by
  unfold Sys2Proof.Machine.execIcuSrcWrite
  with_reducible repeat' (first
    | assumption | apply ite_carries | apply ite_res | apply res_next | apply srcWrite_carries
    | apply answer_carries | refine Carries.snd (by assumption) ?_ | split | dsimp only | intro)

end Sys2Proof.Laws
end

