-- ==== Sys2Proof/Laws/CarryRegOps.lean ====
section
/-!
SUPPORT. What every operation of Machine/RegOps.lean carries along (Laws/Carries.lean).
-/

set_option linter.all false
set_option Elab.async false

namespace Sys2Proof.Laws

open Sys2Proof.Machine

theorem writeFields_carries {z : State} (seat : Nat) (r : RegDef) (i : Nat) (j : Nat) (v : Nat) (mask : Nat) (s : State) (h : Carries z s) :
    Carries z (writeFields seat r i j v mask s) := by
  unfold Sys2Proof.Machine.writeFields
  with_reducible repeat' (first
    | assumption | apply setReg_carries | apply foldl_carries | apply foldl_snd_carries | apply foldl_snd2_carries
    | refine Carries.snd (by assumption) ?_ | refine Carries.snd2 (by assumption) ?_ | split | dsimp only | intro)

theorem mcsCommit_carries {z : State} (a : Nat) (s : State) (h : Carries z s) :
    Carries z (mcsCommit a s) := by
  unfold mcsCommit
  have h' := (put_carries s MCS_WADDR_ADDR a 0 0 h)
  dsimp only
  split
  · exact h'
  · split
    · exact countUp_carries _ _ _ _ (h'.mcs _ _ (cellSet_wf _ _))
    · exact h'.mcs _ _ (cellSet_wf _ _)

end Sys2Proof.Laws
end

