-- ==== Sys2Proof/Laws/CarryTraceOps.lean ====
section
/-!
SUPPORT. What every operation of Machine/TraceOps.lean carries along (Laws/Carries.lean).
-/

set_option linter.all false
set_option Elab.async false

namespace Sys2Proof.Laws

open Sys2Proof.Machine

theorem mapTrace_carries {z : State} (s : State) (k : CoreId) (f : TraceFifo → TraceFifo) (h : Carries z s) :
    Carries z (State.mapTrace s k f) := by
  unfold Sys2Proof.Machine.State.mapTrace
  with_reducible repeat' (first
    | assumption | (apply Carries.mk_same; first | assumption | split) | split | dsimp only | intro)

theorem traceSync_carries {z : State} (k : CoreId) (s : State) (h : Carries z s) :
    Carries z (traceSync k s) := by
  unfold Sys2Proof.Machine.traceSync
  with_reducible repeat' (first
    | assumption | apply ite_carries | apply mapTrace_carries | split | dsimp only | intro)

theorem traceEmit_carries {z : State} (k : CoreId) (p : List Byte) (s : State) (h : Carries z s) :
    Carries z (traceEmit k p s) := by
  unfold Sys2Proof.Machine.traceEmit
  with_reducible repeat' (first
    | assumption | apply ite_carries | apply mapTrace_carries | apply traceSync_carries | split | dsimp only | intro)

theorem traceTime_carries {z : State} (k : CoreId) (s : State) (h : Carries z s) :
    Carries z (traceTime k s) := by
  unfold Sys2Proof.Machine.traceTime
  with_reducible repeat' (first
    | assumption | apply traceEmit_carries | split | dsimp only | intro)

theorem traceExc_carries {z : State} (k : CoreId) (code : Nat) (vec : Nat) (s : State) (h : Carries z s) :
    Carries z (traceExc k code vec s) := by
  unfold Sys2Proof.Machine.traceExc
  with_reducible repeat' (first
    | assumption | apply traceTime_carries | apply traceEmit_carries | split | dsimp only | intro)

theorem comparators_carries {z : State} (k : CoreId) (kind : Nat) (lo : Nat) (hi : Nat) (s : State) (h : Carries z s) :
    Carries z (comparators k kind lo hi s).2 := by
  unfold Sys2Proof.Machine.comparators
  with_reducible repeat' (first
    | assumption | apply ite_carries | apply ite_snd | (apply Carries.mk_same; first | assumption | split) | split
    | dsimp only | intro)

theorem sctlWrite_carries {z : State} (by_ : Nat) (seat : Nat) (v : Nat) (s : State) (h : Carries z s) :
    Carries z (sctlWrite by_ seat v s) := by
  unfold Sys2Proof.Machine.sctlWrite
  with_reducible repeat' (first
    | assumption | apply ite_carries | apply writeFields_carries | apply mapTrace_carries | apply foldl_carries
    | apply foldl_snd_carries | apply foldl_snd2_carries | refine Carries.snd (by assumption) ?_
    | refine Carries.snd2 (by assumption) ?_ | split | dsimp only | intro)

theorem traceSeat_carries {z : State} (k : CoreId) (seat : Nat) (s : State) (h : Carries z s) :
    Carries z (traceSeat k seat s) := by
  unfold Sys2Proof.Machine.traceSeat
  with_reducible repeat' (first
    | assumption | apply traceTime_carries | apply traceEmit_carries | split | dsimp only | intro)

theorem traceTarget_carries {z : State} (k : CoreId) (kind : Nat) (t : Word64) (s : State) (h : Carries z s) :
    Carries z (traceTarget k kind t s) := by
  unfold Sys2Proof.Machine.traceTarget
  with_reducible repeat' (first
    | assumption | apply ite_carries | apply traceEmit_carries | apply mapTrace_carries | split | dsimp only | intro)

theorem traceAtom_carries {z : State} (k : CoreId) (taken : Bool) (s : State) (h : Carries z s) :
    Carries z (traceAtom k taken s) := by
  unfold Sys2Proof.Machine.traceAtom
  with_reducible repeat' (first
    | assumption | apply ite_carries | apply mapTrace_carries | apply traceSync_carries | split | dsimp only | intro)

theorem stimWrite_carries {z : State} (seat : Nat) (port : Nat) (v : Nat) (s : State) (h : Carries z s) :
    Carries z (stimWrite seat port v s) := by
  unfold Sys2Proof.Machine.stimWrite
  with_reducible repeat' (first
    | assumption | apply ite_carries | (apply Carries.mk_same; first | assumption | split) | split | dsimp only
    | intro)

end Sys2Proof.Laws
end

