-- ==== Sys2Proof/Laws/CarryTokens.lean ====
section
/-!
SUPPORT. What every operation of Machine/Tokens.lean carries along (Laws/Carries.lean).
-/

set_option linter.all false
set_option Elab.async false

namespace Sys2Proof.Laws

open Sys2Proof.Machine

theorem setCState_carries {z : State} (s : State) (n : Nat) (st : Nat) (h : Carries z s) :
    Carries z (State.setCState s n st) := by
  unfold Sys2Proof.Machine.State.setCState
  with_reducible repeat' (first
    | assumption | apply each_carries | apply put_carries | split | dsimp only | intro)

theorem coreStart_carries {z : State} (k : CoreId) (s : State) (h : Carries z s) :
    Carries z (coreStart k s) := by
  unfold Sys2Proof.Machine.coreStart
  with_reducible repeat' (first
    | assumption | apply drawSeed_carries | apply mapCore_carries | apply traceSeat_carries
    | apply setCState_carries | refine Carries.snd (by assumption) ?_ | split | dsimp only | intro)

theorem releaseTokens_carries {z : State} (p : TokenHolder → Bool) (s : State) (h : Carries z s) :
    Carries z (releaseTokens p s) := by
  unfold Sys2Proof.Machine.releaseTokens
  with_reducible repeat' (first
    | assumption | apply foldl_carries | apply foldl_snd_carries | apply foldl_snd2_carries
    | refine Carries.snd (by assumption) ?_ | refine Carries.snd2 (by assumption) ?_
    | (apply Carries.mk_same; first | assumption | apply foldl_carries | apply foldl_snd_carries | apply foldl_snd2_carries | refine Carries.snd (by assumption) ?_ | refine Carries.snd2 (by assumption) ?_ | split)
    | split | dsimp only | intro)

theorem clusterOff_carries {z : State} (cl : Nat) (s : State) (h : Carries z s) :
    Carries z (clusterOff cl s) := by
  unfold Sys2Proof.Machine.clusterOff
  with_reducible repeat' (first
    | assumption | apply ite_carries | apply writeBack_carries | apply putBit_carries | apply mapL2_carries
    | apply releaseTokens_carries | apply foldl_carries | apply foldl_snd_carries | apply foldl_snd2_carries
    | refine Carries.snd (by assumption) ?_ | refine Carries.snd2 (by assumption) ?_ | split | dsimp only | intro)

theorem requestTokens_carries {z : State} (who : List TokenHolder) (seat : Nat) (s : State) (h : Carries z s) :
    Carries z (requestTokens who seat s).2 := by
  unfold Sys2Proof.Machine.requestTokens
  with_reducible repeat' (first
    | assumption | apply ite_carries | apply ite_snd | apply put_carries
    | (apply Carries.mk_same; first | assumption | apply put_carries | split) | split | dsimp only | intro)

theorem requestWake_carries {z : State} (k : CoreId) (s : State) (h : Carries z s) :
    Carries z (requestWake k s) := by
  unfold Sys2Proof.Machine.requestWake
  with_reducible repeat' (first
    | assumption | apply ite_carries | apply requestTokens_carries | apply put_carries
    | refine Carries.snd (by assumption) ?_ | split | dsimp only | intro)

theorem writeSaveArea_carries {z : State} (n : Nat) (s : State) (h : Carries z s) :
    Carries z (writeSaveArea n s) := by
  unfold Sys2Proof.Machine.writeSaveArea
  with_reducible repeat' (first
    | assumption | apply each_carries | apply draw_carries | apply writeMem_carries
    | refine Carries.snd (by assumption) ?_ | split | dsimp only | intro)

theorem clusterOffIfIdle_carries {z : State} (cl : Nat) (s : State) (h : Carries z s) :
    Carries z (clusterOffIfIdle cl s) := by
  unfold Sys2Proof.Machine.clusterOffIfIdle
  with_reducible repeat' (first
    | assumption | apply ite_carries | apply clusterOff_carries | split | dsimp only | intro)

theorem seedL2_carries {z : State} (cl : Nat) (s : State) (h : Carries z s) :
    Carries z (seedL2 cl s) := by
  unfold Sys2Proof.Machine.seedL2
  with_reducible repeat' (first
    | assumption | apply each_carries | apply drawSeed_carries | refine Carries.snd (by assumption) ?_
    | (apply Carries.mk_same; first | assumption | apply each_carries | apply drawSeed_carries | refine Carries.snd (by assumption) ?_ | split)
    | split | dsimp only | intro)

theorem clusterOnFio_carries {z : State} (cl : Nat) (s : State) (h : Carries z s) :
    Carries z (clusterOnFio cl s) := by
  unfold Sys2Proof.Machine.clusterOnFio
  with_reducible repeat' (first
    | assumption | apply raiseSrc_carries | apply seedL2_carries | apply putBit_carries | apply mapL2_carries
    | split | dsimp only | intro)

theorem returnTokens_carries {z : State} (s : State) (h : Carries z s) :
    Carries z (returnTokens s) := by
  unfold Sys2Proof.Machine.returnTokens
  with_reducible repeat' (first
    | assumption | (apply Carries.mk_same; first | assumption | split) | split | dsimp only | intro)

theorem grantRequest_carries {z : State} (q : TokenWait) (s : State) (h : Carries z s) :
    Carries z (grantRequest q s) := by
  unfold Sys2Proof.Machine.grantRequest
  with_reducible repeat' (first
    | assumption | apply ite_carries | (apply Carries.mk_same; first | assumption | split) | split | dsimp only
    | intro)

theorem resetCounters_carries {z : State} (n : Nat) (s : State) (h : Carries z s) :
    Carries z (resetCounters n s) := by
  unfold Sys2Proof.Machine.resetCounters
  with_reducible repeat' (first
    | assumption | apply resetInst_carries | apply each_carries | split | dsimp only | intro)

theorem coreSleep_carries {z : State} (k : CoreId) (depth : Nat) (s : State) (h : Carries z s) :
    Carries z (coreSleep k depth s) := by
  unfold Sys2Proof.Machine.coreSleep
  with_reducible repeat' (first
    | assumption | apply ite_carries | apply put_carries | apply setCState_carries | apply releaseTokens_carries
    | apply writeSaveArea_carries | apply mapCore_carries | apply resetCounters_carries
    | apply clusterOffIfIdle_carries | split | dsimp only | intro)

end Sys2Proof.Laws
end

