-- ==== Sys2Proof/Laws/CarryCoreLinks.lean ====
section
/-!
SUPPORT. What every operation of Machine/CoreLinks.lean carries along (Laws/Carries.lean).
-/

set_option linter.all false
set_option Elab.async false

namespace Sys2Proof.Laws

open Sys2Proof.Machine

theorem levelChange_carries {z : State} (t : Nat) (s : State) (h : Carries z s) :
    Carries z (levelChange t s) := by
  unfold Sys2Proof.Machine.levelChange
  with_reducible repeat' (first
    | assumption | apply ite_carries | apply put_carries
    | (apply Carries.mk_same; first | assumption | apply put_carries | split) | split | dsimp only | intro)

theorem pfctlWrite_carries {z : State} (v : Nat) (s : State) (h : Carries z s) :
    Carries z (pfctlWrite v s) := by
  unfold Sys2Proof.Machine.pfctlWrite
  with_reducible repeat' (first
    | assumption | apply ite_carries | apply put_carries | apply levelChange_carries
    | (apply Carries.mk_same; first | assumption | apply put_carries | apply levelChange_carries | split) | split
    | dsimp only | intro)

theorem fioWrite_carries {z : State} (v : Nat) (s : State) (h : Carries z s) :
    Carries z (fioWrite v s) := by
  unfold Sys2Proof.Machine.fioWrite
  with_reducible repeat' (first
    | assumption | apply put_carries | split | dsimp only | intro)

theorem pairStops_carries {z : State} (n : Nat) (kind : Nat) (s : State) (h : Carries z s) :
    Carries z (pairStops n kind s) := by
  unfold Sys2Proof.Machine.pairStops
  with_reducible repeat' (first
    | assumption | apply ite_carries | apply put_carries | apply mapCores_carries | split | dsimp only | intro)

theorem wakeCore_carries {z : State} (k : CoreId) (s : State) (h : Carries z s) :
    Carries z (wakeCore k s) := by
  unfold Sys2Proof.Machine.wakeCore
  with_reducible repeat' (first
    | assumption | apply ite_carries | apply requestWake_carries | split | dsimp only | intro)

end Sys2Proof.Laws
end

