-- ==== Sys2Proof/Laws/CarryTranslate.lean ====
section
/-!
SUPPORT. What every operation of Machine/Translate.lean carries along (Laws/Carries.lean).
-/

set_option linter.all false
set_option Elab.async false

namespace Sys2Proof.Laws

open Sys2Proof.Machine

theorem tlbPut_carries {z : State} (k : CoreId) (l : List TlbEntry) (cap : Nat) (e : TlbEntry) (s : State) (h : Carries z s) :
    Carries z (tlbPut k l cap e s).2 := by
  unfold Sys2Proof.Machine.tlbPut
  with_reducible repeat' (first
    | assumption | apply ite_carries | apply ite_snd | apply coreChoice_carries
    | refine Carries.snd (by assumption) ?_ | split | dsimp only | intro)

theorem installL1Tlb_carries {z : State} (k : CoreId) (fetch : Bool) (e : TlbEntry) (s : State) (h : Carries z s) :
    Carries z (installL1Tlb k fetch e s) := by
  unfold Sys2Proof.Machine.installL1Tlb
  with_reducible repeat' (first
    | assumption | apply ite_carries | apply tlbPut_carries | apply mapCore_carries
    | refine Carries.snd (by assumption) ?_ | split | dsimp only | intro)

theorem tlbLookup_carries {z : State} (k : CoreId) (fetch : Bool) (va : Nat) (s : State) (h : Carries z s) :
    Carries z (tlbLookup k fetch va s).2 := by
  unfold Sys2Proof.Machine.tlbLookup
  with_reducible repeat' (first
    | assumption | apply ite_carries | apply ite_snd | apply installL1Tlb_carries | split | dsimp only | intro)

theorem l2Read_carries {z : State} (k : CoreId) (seat : Nat) (va : Nat) (pa : Nat) (n : Nat) (s : State) (h : Carries z s) :
    Carries z (l2Read k seat va pa n s).2.2 := by
  unfold Sys2Proof.Machine.l2Read
  with_reducible repeat' (first
    | assumption | apply ite_carries | apply ite_snd2 | apply l2Fill_carries | refine Carries.snd (by assumption) ?_
    | split | dsimp only | intro)

theorem s2Install_carries {z : State} (k : Option CoreId) (seat : Nat) (addr : Nat) (desc : Nat) (s : State) (h : Carries z s) :
    Carries z (s2Install k seat addr desc s) := by
  unfold Sys2Proof.Machine.s2Install
  with_reducible repeat' (first
    | assumption | apply ite_carries | apply mapCore_carries | apply coreChoice_carries
    | refine Carries.snd (by assumption) ?_ | split | dsimp only | intro)

theorem s2Level_carries {z : State} (k : Option CoreId) (seat : Nat) (pa : Nat) (x1 : Nat) (x2 : Nat) (x3 : State) (h_x3 : Carries z x3) :
    Carries z (s2Level k seat pa x1 x2 x3).2 := by
  induction x1 generalizing k seat pa x2 x3 with
  | zero =>
    unfold Sys2Proof.Machine.s2Level
    with_reducible repeat' (first
      | assumption | apply ite_carries | apply ite_snd | apply s2Install_carries | split | dsimp only | intro)
  | succ n ih =>
    unfold Sys2Proof.Machine.s2Level
    with_reducible repeat' (first
      | assumption | apply ih | apply ite_carries | apply ite_snd | apply s2Install_carries | split | dsimp only
      | intro)

theorem stage2_carries {z : State} (k : Option CoreId) (seat : Nat) (pa : Nat) (s : State) (h : Carries z s) :
    Carries z (stage2 k seat pa s).2 := by
  unfold Sys2Proof.Machine.stage2
  with_reducible repeat' (first
    | assumption | apply ite_carries | apply ite_snd | apply s2Level_carries | refine Carries.snd (by assumption) ?_
    | split | dsimp only | intro)

theorem tableRead_carries {z : State} (k : CoreId) (a : XKind) (lvl : Nat) (pa : Nat) (s : State) (h : Carries z s) :
    Carries z (tableRead k a lvl pa s).2.2 := by
  unfold Sys2Proof.Machine.tableRead
  with_reducible repeat' (first
    | assumption | apply ite_carries | apply ite_snd2 | apply stage2_carries | apply l2Read_carries
    | apply recallLine_carries | refine Carries.snd (by assumption) ?_ | refine Carries.snd2 (by assumption) ?_
    | split | dsimp only | intro)

theorem s1Level_carries {z : State} (k : CoreId) (a : XKind) (va : Nat) (x1 : Nat) (x2 : Nat) (x3 : State) (h_x3 : Carries z x3) :
    Carries z (s1Level k a va x1 x2 x3).2 := by
  induction x1 generalizing k a va x2 x3 with
  | zero =>
    unfold Sys2Proof.Machine.s1Level
    with_reducible repeat' (first
      | assumption | apply ite_carries | apply ite_snd | apply tableRead_carries
      | refine Carries.snd2 (by assumption) ?_ | split | dsimp only | intro)
  | succ n ih =>
    unfold Sys2Proof.Machine.s1Level
    with_reducible repeat' (first
      | assumption | apply ih | apply ite_carries | apply ite_snd | apply tableRead_carries
      | refine Carries.snd2 (by assumption) ?_ | split | dsimp only | intro)

theorem combine_carries {z : State} (k : CoreId) (va : Nat) (e : TlbEntry) (s : State) (h : Carries z s) :
    Carries z (combine k va e s).2 := by
  unfold Sys2Proof.Machine.combine
  with_reducible repeat' (first
    | assumption | apply stage2_carries | refine Carries.snd (by assumption) ?_ | split | dsimp only | intro)

theorem installTlb2_carries {z : State} (k : CoreId) (e : TlbEntry) (s : State) (h : Carries z s) :
    Carries z (installTlb2 k e s) := by
  unfold Sys2Proof.Machine.installTlb2
  with_reducible repeat' (first
    | assumption | apply tlbPut_carries | apply mapCore_carries | refine Carries.snd (by assumption) ?_ | split
    | dsimp only | intro)

theorem walk_carries {z : State} (k : CoreId) (a : XKind) (va : Nat) (s : State) (h : Carries z s) :
    Carries z (walk k a va s).2 := by
  unfold Sys2Proof.Machine.walk
  with_reducible repeat' (first
    | assumption | apply ite_carries | apply ite_snd | apply put_carries | apply s1Level_carries
    | apply combine_carries | apply installTlb2_carries | apply installL1Tlb_carries
    | refine Carries.snd (by assumption) ?_ | split | dsimp only | intro)

theorem tlbParity_carries {z : State} (k : CoreId) (fetch : Bool) (va : Nat) (s : State) (h : Carries z s) :
    Carries z (tlbParity k fetch va s) := by
  unfold Sys2Proof.Machine.tlbParity
  with_reducible repeat' (first
    | assumption | apply ite_carries | apply countUp_carries | apply mapCore_carries | split | dsimp only | intro)

theorem translate_carries {z : State} (k : CoreId) (a : XKind) (va : Nat) (s : State) (h : Carries z s) :
    Carries z (translate k a va s).2 := by
  unfold Sys2Proof.Machine.translate
  with_reducible repeat' (first
    | assumption | apply tlbLookup_carries | apply walk_carries | refine Carries.snd (by assumption) ?_ | split
    | dsimp only | intro)

end Sys2Proof.Laws
end

