-- ==== Sys2Proof/Laws/CarryDma.lean ====
section
/-!
SUPPORT. What every operation of Machine/Dma.lean carries along (Laws/Carries.lean).
-/

set_option linter.all false
set_option Elab.async false

namespace Sys2Proof.Laws

open Sys2Proof.Machine

theorem dmaWrite_carries {z : State} (seat : Nat) (pa : Nat) (n : Nat) (v : Nat) (s : State) (h : Carries z s) :
    Carries z (dmaWrite seat pa n v s).2 := by
  unfold Sys2Proof.Machine.dmaWrite
  with_reducible repeat' (first
    | assumption | apply ite_carries | apply ite_snd | apply fenceViolation_carries | apply writeMem_carries
    | apply breakReservations_carries | apply cohWrite_carries | split | dsimp only | intro)

theorem dmaRead_carries {z : State} (seat : Nat) (pa : Nat) (n : Nat) (s : State) (h : Carries z s) :
    Carries z (dmaRead seat pa n s).2 := by
  unfold Sys2Proof.Machine.dmaRead
  with_reducible repeat' (first
    | assumption | apply ite_carries | apply ite_snd | apply cohRead_carries | refine Carries.snd (by assumption) ?_
    | split | dsimp only | intro)

end Sys2Proof.Laws
end

