-- ==== Sys2Proof/Laws/CarryLaneOps.lean ====
section
/-!
SUPPORT. What every operation of Machine/LaneOps.lean carries along (Laws/Carries.lean).
-/

set_option linter.all false
set_option Elab.async false

namespace Sys2Proof.Laws

open Sys2Proof.Machine

theorem startLanes_carries {z : State} (ls : List Nat) (s : State) (h : Carries z s) :
    Carries z (startLanes ls s) := by
  unfold Sys2Proof.Machine.startLanes
  with_reducible repeat' (first
    | assumption | apply ite_carries | apply requestTokens_carries | apply each_carries | apply put_carries
    | refine Carries.snd (by assumption) ?_ | split | dsimp only | intro)

theorem requestStart_carries {z : State} (g : Nat) (ls : List Nat) (s : State) (h : Carries z s) :
    Carries z (requestStart g ls s) := by
  unfold Sys2Proof.Machine.requestStart
  with_reducible repeat' (first
    | assumption | apply ite_carries | apply startLanes_carries
    | (apply Carries.mk_same; first | assumption | apply startLanes_carries | split) | split | dsimp only | intro)

theorem mapPair_carries {z : State} (s : State) (p : Nat) (f : HrpPair → HrpPair) (h : Carries z s) :
    Carries z (State.mapPair s p f) := by
  unfold Sys2Proof.Machine.State.mapPair
  with_reducible repeat' (first
    | assumption | (apply Carries.mk_same; first | assumption | split) | split | dsimp only | intro)

theorem landCommit_carries {z : State} (p : Nat) (c : List (Nat × Nat)) (s : State) (h : Carries z s) :
    Carries z (landCommit p c s) := by
  unfold Sys2Proof.Machine.landCommit
  with_reducible repeat' (first
    | assumption | apply ite_carries | apply put_carries | apply mapPair_carries | apply foldl_carries
    | apply foldl_snd_carries | apply foldl_snd2_carries | refine Carries.snd (by assumption) ?_
    | refine Carries.snd2 (by assumption) ?_ | split | dsimp only | intro)

theorem dropStaged_carries {z : State} (n : Nat) (s : State) (h : Carries z s) :
    Carries z (dropStaged n s) := by
  unfold Sys2Proof.Machine.dropStaged
  with_reducible repeat' (first
    | assumption | (apply Carries.mk_same; first | assumption | split) | split | dsimp only | intro)

theorem mapLane_carries {z : State} (s : State) (n : Nat) (f : Lane → Lane) (h : Carries z s) :
    Carries z (State.mapLane s n f) := by
  unfold Sys2Proof.Machine.State.mapLane
  with_reducible repeat' (first
    | assumption | (apply Carries.mk_same; first | assumption | split) | split | dsimp only | intro)

theorem laneLeaves_carries {z : State} (n : Nat) (st : Nat) (s : State) (h : Carries z s) :
    Carries z (laneLeaves n st s) := by
  unfold Sys2Proof.Machine.laneLeaves
  with_reducible repeat' (first
    | assumption | apply dropStaged_carries | apply put_carries | apply releaseTokens_carries
    | apply mapLane_carries | split | dsimp only | intro)

theorem loadEntry_carries {z : State} (n : Nat) (s : State) (h : Carries z s) :
    Carries z (loadEntry n s) := by
  unfold Sys2Proof.Machine.loadEntry
  with_reducible repeat' (first
    | assumption | apply mapLane_carries | apply put_carries | split | dsimp only | intro)

theorem laneSource_carries {z : State} (n : Nat) (s : State) (h : Carries z s) :
    Carries z (laneSource n s) := by
  unfold Sys2Proof.Machine.laneSource
  with_reducible repeat' (first
    | assumption | apply ite_carries | apply raiseSrc_carries | split | dsimp only | intro)

theorem laneStops_carries {z : State} (n : Nat) (code : Nat) (s : State) (h : Carries z s) :
    Carries z (laneStops n code s) := by
  unfold Sys2Proof.Machine.laneStops
  with_reducible repeat' (first
    | assumption | apply laneLeaves_carries | apply laneSource_carries | apply put_carries | split | dsimp only
    | intro)

theorem groupFaultStop_carries {z : State} (n : Nat) (s : State) (h : Carries z s) :
    Carries z (groupFaultStop n s) := by
  unfold Sys2Proof.Machine.groupFaultStop
  with_reducible repeat' (first
    | assumption | apply ite_carries | apply each_carries | apply laneStops_carries | split | dsimp only | intro)

theorem laneFault_carries {z : State} (n : Nat) (code : Nat) (s : State) (h : Carries z s) :
    Carries z (laneFault n code s) := by
  unfold Sys2Proof.Machine.laneFault
  with_reducible repeat' (first
    | assumption | apply groupFaultStop_carries | apply reportFault_carries | apply laneStops_carries | split
    | dsimp only | intro)

theorem laneNext_carries {z : State} (n : Nat) (s : State) (h : Carries z s) :
    Carries z (laneNext n s) := by
  unfold Sys2Proof.Machine.laneNext
  with_reducible repeat' (first
    | assumption | apply mapLane_carries | apply put_carries | split | dsimp only | intro)

theorem landCommits_carries {z : State} (p : Nat) (n : Nat) (s : State) (h : Carries z s) :
    Carries z (landCommits p n s) := by
  unfold Sys2Proof.Machine.landCommits
  with_reducible repeat' (first
    | assumption | apply mapPair_carries | apply landCommit_carries | apply foldl_carries | apply foldl_snd_carries
    | apply foldl_snd2_carries | refine Carries.snd (by assumption) ?_ | refine Carries.snd2 (by assumption) ?_
    | split | dsimp only | intro)

theorem eventAtLane_carries {z : State} (n : Nat) (s : State) (h : Carries z s) :
    Carries z (eventAtLane n s) := by
  unfold Sys2Proof.Machine.eventAtLane
  with_reducible repeat' (first
    | assumption | apply ite_carries | apply laneNext_carries | apply put_carries | apply countUp_carries
    | apply laneFault_carries | apply mapLane_carries | split | dsimp only | intro)

theorem deliverEvent_carries {z : State} (g : Nat) (s : State) (h : Carries z s) :
    Carries z (deliverEvent g s) := by
  unfold Sys2Proof.Machine.deliverEvent
  with_reducible repeat' (first
    | assumption | apply put_carries | apply each_carries | apply eventAtLane_carries | split | dsimp only | intro)

theorem groupEvent_carries {z : State} (g : Nat) (s : State) (h : Carries z s) :
    Carries z (groupEvent g s) := by
  unfold Sys2Proof.Machine.groupEvent
  with_reducible repeat' (first
    | assumption | apply ite_carries | apply deliverEvent_carries
    | (apply Carries.mk_same; first | assumption | apply deliverEvent_carries | split) | split | dsimp only | intro)

theorem sourceEvent_carries {z : State} (src : Nat) (num : Nat) (s : State) (h : Carries z s) :
    Carries z (sourceEvent src num s) := by
  unfold Sys2Proof.Machine.sourceEvent
  with_reducible repeat' (first
    | assumption | apply ite_carries | apply each_carries | apply groupEvent_carries | split | dsimp only | intro)

theorem laneHalt_carries {z : State} (n : Nat) (s : State) (h : Carries z s) :
    Carries z (laneHalt n s) := by
  unfold Sys2Proof.Machine.laneHalt
  with_reducible repeat' (first
    | assumption | apply ite_carries | apply laneLeaves_carries | split | dsimp only | intro)

theorem runLanes_carries {z : State} (ls : List Nat) (s : State) (h : Carries z s) :
    Carries z (runLanes ls s) := by
  unfold Sys2Proof.Machine.runLanes
  with_reducible repeat' (first
    | assumption | apply each_carries | apply put_carries | split | dsimp only | intro)

theorem driveSafe_carries {z : State} (p : Nat) (s : State) (h : Carries z s) :
    Carries z (driveSafe p s) := by
  unfold Sys2Proof.Machine.driveSafe
  with_reducible repeat' (first
    | assumption | apply ite_carries | apply put_carries | apply raiseSrc_carries | split | dsimp only | intro)

end Sys2Proof.Laws
end

