-- ==== Sys2Proof/Laws/CarryLaneCtl.lean ====
section
/-!
SUPPORT. What every operation of Machine/LaneCtl.lean carries along (Laws/Carries.lean).
-/

set_option linter.all false
set_option Elab.async false

namespace Sys2Proof.Laws

open Sys2Proof.Machine

theorem lgWrite_carries {z : State} (by_ : Nat) (g : Nat) (f : Nat → State → State) (s : State) (h_f : ∀ a0 t, Carries z t → Carries z (f a0 t)) (h : Carries z s) :
    ResCarries z (lgWrite by_ g f s) := by
  unfold Sys2Proof.Machine.lgWrite
  with_reducible repeat' (first
    | assumption | apply ite_carries | apply ite_res | apply res_next | apply h_f | apply answer_carries | split
    | dsimp only | intro)

theorem loadWrite_carries {z : State} (g : Nat) (seat : Nat) (value : Nat) (s : State) (h : Carries z s) :
    Carries z (loadWrite g seat value s) := by
  unfold Sys2Proof.Machine.loadWrite
  with_reducible repeat' (first
    | assumption | apply ite_carries | apply put_carries
    | (apply Carries.mk_same; first | assumption | apply put_carries | split) | split | dsimp only | intro)

theorem execLgLoad_carries {z : State} (by_ : Seat) (g : GroupId) (value : Word32) (s : State) (h : Carries z s) :
    ResCarries z (execLgLoad by_ g value s) := by
  unfold Sys2Proof.Machine.execLgLoad
  with_reducible repeat' (first
    | assumption | apply res_next | apply lgWrite_carries | apply loadWrite_carries
    | refine res_next_of (by assumption) ?_ | split | dsimp only | intro)

theorem crcPass_carries {z : State} (n : Nat) (s : State) (h : Carries z s) :
    Carries z (crcPass n s) := by
  unfold Sys2Proof.Machine.crcPass
  with_reducible repeat' (first
    | assumption | apply put_carries | split | dsimp only | intro)

theorem execLnCrcDone_carries {z : State} (n : LaneId) (corrected : BitVec 8) (s : State) (h : Carries z s) :
    ResCarries z (execLnCrcDone n corrected s) := by
  unfold Sys2Proof.Machine.execLnCrcDone
  with_reducible repeat' (first
    | assumption | apply ite_carries | apply ite_res | apply res_next | apply crcPass_carries | apply put_carries
    | split | dsimp only | intro)

theorem setPmWord_carries {z : State} (s : State) (n : Nat) (a : Nat) (v : Word32) (h : Carries z s) :
    Carries z (State.setPmWord s n a v) := by
  unfold Sys2Proof.Machine.State.setPmWord
  with_reducible repeat' (first
    | assumption | apply mapLane_carries | split | dsimp only | intro)

theorem programWrite_carries {z : State} (n : Nat) (a : Nat) (value : Nat) (s : State) (h : Carries z s) :
    Carries z (programWrite n a value s) := by
  unfold Sys2Proof.Machine.programWrite
  with_reducible repeat' (first
    | assumption | apply ite_carries | apply setPmWord_carries | apply put_carries | split | dsimp only | intro)

theorem stopLanes_carries {z : State} (g : Nat) (mask : Nat) (s : State) (h : Carries z s) :
    Carries z (stopLanes g mask s) := by
  unfold Sys2Proof.Machine.stopLanes
  with_reducible repeat' (first
    | assumption | apply ite_carries | apply each_carries | apply laneHalt_carries | split | dsimp only | intro)

theorem execLgStop_carries {z : State} (by_ : Seat) (g : GroupId) (mask : BitVec 16) (s : State) (h : Carries z s) :
    ResCarries z (execLgStop by_ g mask s) := by
  unfold Sys2Proof.Machine.execLgStop
  with_reducible repeat' (first
    | assumption | apply res_next | apply lgWrite_carries | apply stopLanes_carries
    | refine res_next_of (by assumption) ?_ | split | dsimp only | intro)

theorem crclenWrite_carries {z : State} (n : Nat) (value : Nat) (s : State) (h : Carries z s) :
    Carries z (crclenWrite n value s) := by
  unfold Sys2Proof.Machine.crclenWrite
  with_reducible repeat' (first
    | assumption | apply ite_carries | apply put_carries | split | dsimp only | intro)

theorem copyWords_carries {z : State} (l : GroupLoad) (stop : Option Nat) (x1 : Nat) (x2 : Nat) (x3 : State) (h_x3 : Carries z x3) :
    Carries z (copyWords l stop x1 x2 x3).2 := by
  induction x1 generalizing l stop x2 x3 with
  | zero =>
    unfold Sys2Proof.Machine.copyWords
    with_reducible repeat' (first
      | assumption | apply ite_carries | apply ite_snd | apply dmaRead_carries | apply each_carries
      | apply setPmWord_carries | refine Carries.snd (by assumption) ?_ | split | dsimp only | intro)
  | succ n ih =>
    unfold Sys2Proof.Machine.copyWords
    with_reducible repeat' (first
      | assumption | apply ih | apply ite_carries | apply ite_snd | apply dmaRead_carries | apply each_carries
      | apply setPmWord_carries | refine Carries.snd (by assumption) ?_ | split | dsimp only | intro)

theorem execLgLoadDone_carries {z : State} (g : GroupId) (bad : Option (BitVec 12)) (s : State) (h : Carries z s) :
    ResCarries z (execLgLoadDone g bad s) := by
  unfold Sys2Proof.Machine.execLgLoadDone
  with_reducible repeat' (first
    | assumption | apply ite_carries | apply ite_res | apply res_next | apply copyWords_carries | apply put_carries
    | apply each_carries | apply crcPass_carries | apply loadEntry_carries | apply startLanes_carries
    | apply foldl_carries | apply foldl_snd_carries | apply foldl_snd2_carries
    | refine Carries.snd (by assumption) ?_ | refine Carries.snd2 (by assumption) ?_
    | (apply Carries.mk_same; first | assumption | apply copyWords_carries | apply put_carries | apply each_carries | apply crcPass_carries | apply loadEntry_carries | apply startLanes_carries | apply foldl_carries | apply foldl_snd_carries | apply foldl_snd2_carries | refine Carries.snd (by assumption) ?_ | refine Carries.snd2 (by assumption) ?_ | split)
    | split | dsimp only | intro)

theorem lnWrite_carries {z : State} (by_ : Nat) (n : Nat) (f : State → State) (s : State) (h_f : ∀ t, Carries z t → Carries z (f t)) (h : Carries z s) :
    ResCarries z (lnWrite by_ n f s) := by
  unfold Sys2Proof.Machine.lnWrite
  with_reducible repeat' (first
    | assumption | apply ite_carries | apply ite_res | apply res_next | apply h_f | apply answer_carries | split
    | dsimp only | intro)

theorem clearLaneFault_carries {z : State} (n : Nat) (s : State) (h : Carries z s) :
    Carries z (clearLaneFault n s) := by
  unfold Sys2Proof.Machine.clearLaneFault
  with_reducible repeat' (first
    | assumption | apply ite_carries | apply loadEntry_carries | apply put_carries | split | dsimp only | intro)

theorem execLnClrf_carries {z : State} (by_ : Seat) (n : LaneId) (s : State) (h : Carries z s) :
    ResCarries z (execLnClrf by_ n s) := by
  unfold Sys2Proof.Machine.execLnClrf
  with_reducible repeat' (first
    | assumption | apply res_next | apply lnWrite_carries | apply clearLaneFault_carries
    | refine res_next_of (by assumption) ?_ | split | dsimp only | intro)

theorem stepLane_carries {z : State} (n : Nat) (s : State) (h : Carries z s) :
    Carries z (stepLane n s) := by
  unfold Sys2Proof.Machine.stepLane
  with_reducible repeat' (first
    | assumption | apply ite_carries | apply mapLane_carries | split | dsimp only | intro)

theorem execLnStep_carries {z : State} (by_ : Seat) (n : LaneId) (s : State) (h : Carries z s) :
    ResCarries z (execLnStep by_ n s) := by
  unfold Sys2Proof.Machine.execLnStep
  with_reducible repeat' (first
    | assumption | apply res_next | apply lnWrite_carries | apply stepLane_carries
    | refine res_next_of (by assumption) ?_ | split | dsimp only | intro)

theorem execLnCrclenWrite_carries {z : State} (by_ : Seat) (n : LaneId) (value : Word32) (s : State) (h : Carries z s) :
    ResCarries z (execLnCrclenWrite by_ n value s) := by
  unfold Sys2Proof.Machine.execLnCrclenWrite
  with_reducible repeat' (first
    | assumption | apply res_next | apply lnWrite_carries | apply crclenWrite_carries
    | refine res_next_of (by assumption) ?_ | split | dsimp only | intro)

theorem execLgKick_carries {z : State} (by_ : Seat) (g : GroupId) (s : State) (h : Carries z s) :
    ResCarries z (execLgKick by_ g s) := by
  unfold Sys2Proof.Machine.execLgKick
  with_reducible repeat' (first
    | assumption | apply res_next | apply lgWrite_carries | apply deliverEvent_carries
    | refine res_next_of (by assumption) ?_ | split | dsimp only | intro)

theorem execLaneStartGrant_carries {z : State} (n : LaneId) (s : State) (h : Carries z s) :
    ResCarries z (execLaneStartGrant n s) := by
  unfold Sys2Proof.Machine.execLaneStartGrant
  with_reducible repeat' (first
    | assumption | apply ite_carries | apply ite_res | apply res_next | apply grantRequest_carries
    | apply runLanes_carries | split | dsimp only | intro)

theorem execLnHaltRequest_carries {z : State} (by_ : Seat) (n : LaneId) (s : State) (h : Carries z s) :
    ResCarries z (execLnHaltRequest by_ n s) := by
  unfold Sys2Proof.Machine.execLnHaltRequest
  with_reducible repeat' (first
    | assumption | apply res_next | apply lnWrite_carries | apply laneHalt_carries
    | refine res_next_of (by assumption) ?_ | split | dsimp only | intro)

theorem syncWrite_carries {z : State} (g : Nat) (seat : Nat) (value : Nat) (s : State) (h : Carries z s) :
    Carries z (syncWrite g seat value s) := by
  unfold Sys2Proof.Machine.syncWrite
  with_reducible repeat' (first
    | assumption | apply ite_carries | apply put_carries
    | (apply Carries.mk_same; first | assumption | apply put_carries | split) | split | dsimp only | intro)

theorem entryWrite_carries {z : State} (n : Nat) (value : Nat) (s : State) (h : Carries z s) :
    Carries z (entryWrite n value s) := by
  unfold Sys2Proof.Machine.entryWrite
  with_reducible repeat' (first
    | assumption | apply ite_carries | apply put_carries | apply loadEntry_carries | split | dsimp only | intro)

theorem execLnEntryWrite_carries {z : State} (by_ : Seat) (n : LaneId) (value : Word32) (s : State) (h : Carries z s) :
    ResCarries z (execLnEntryWrite by_ n value s) := by
  unfold Sys2Proof.Machine.execLnEntryWrite
  with_reducible repeat' (first
    | assumption | apply res_next | apply lnWrite_carries | apply entryWrite_carries
    | refine res_next_of (by assumption) ?_ | split | dsimp only | intro)

theorem execLgSyncWrite_carries {z : State} (by_ : Seat) (g : GroupId) (value : Word32) (s : State) (h : Carries z s) :
    ResCarries z (execLgSyncWrite by_ g value s) := by
  unfold Sys2Proof.Machine.execLgSyncWrite
  with_reducible repeat' (first
    | assumption | apply res_next | apply lgWrite_carries | apply syncWrite_carries
    | refine res_next_of (by assumption) ?_ | split | dsimp only | intro)

theorem execLnRun_carries {z : State} (by_ : Seat) (n : LaneId) (s : State) (h : Carries z s) :
    ResCarries z (execLnRun by_ n s) := by
  unfold Sys2Proof.Machine.execLnRun
  with_reducible repeat' (first
    | assumption | apply res_next | apply lnWrite_carries | apply requestStart_carries
    | refine res_next_of (by assumption) ?_ | split | dsimp only | intro)

theorem lgCtlWrite_carries {z : State} (by_ : Nat) (g : Nat) (value : Nat) (s : State) (h : Carries z s) :
    Carries z (lgCtlWrite by_ g value s) := by
  unfold Sys2Proof.Machine.lgCtlWrite
  with_reducible repeat' (first
    | assumption | apply ite_carries | apply writeFields_carries | apply requestStart_carries
    | apply deliverEvent_carries | split | dsimp only | intro)

theorem execLgStart_carries {z : State} (by_ : Seat) (g : GroupId) (mask : BitVec 16) (s : State) (h : Carries z s) :
    ResCarries z (execLgStart by_ g mask s) := by
  unfold Sys2Proof.Machine.execLgStart
  with_reducible repeat' (first
    | assumption | apply res_next | apply lgWrite_carries | apply requestStart_carries
    | refine res_next_of (by assumption) ?_ | split | dsimp only | intro)

theorem execLnProgramWrite_carries {z : State} (by_ : Seat) (n : LaneId) (a : BitVec 12) (value : Word32) (s : State) (h : Carries z s) :
    ResCarries z (execLnProgramWrite by_ n a value s) := by
  unfold Sys2Proof.Machine.execLnProgramWrite
  with_reducible repeat' (first
    | assumption | apply ite_carries | apply ite_res | apply res_next | apply lnWrite_carries
    | apply programWrite_carries | refine res_next_of (by assumption) ?_ | split | dsimp only | intro)

end Sys2Proof.Laws
end

