-- ==== Sys2Proof/Laws/CarryConv.lean ====
section
/-!
SUPPORT. What every operation of Machine/Conv.lean carries along (Laws/Carries.lean).
-/

set_option linter.all false
set_option Elab.async false

namespace Sys2Proof.Laws

open Sys2Proof.Machine

theorem pageWrite_carries {z : State} (by_ : Nat) (owner : Nat) (f : State → State) (s : State) (h_f : ∀ t, Carries z t → Carries z (f t)) (h : Carries z s) :
    ResCarries z (pageWrite by_ owner f s) := by
  unfold Sys2Proof.Machine.pageWrite
  with_reducible repeat' (first
    | assumption | apply ite_carries | apply ite_res | apply res_next | apply h_f | apply answer_carries | split
    | dsimp only | intro)

theorem execSdiCtlWrite_carries {z : State} (by_ : Seat) (ch : Fin 48) (value : Word32) (s : State) (h : Carries z s) :
    ResCarries z (execSdiCtlWrite by_ ch value s) := by
  unfold Sys2Proof.Machine.execSdiCtlWrite
  with_reducible repeat' (first
    | assumption | apply res_next | apply pageWrite_carries | apply writeFields_carries
    | refine res_next_of (by assumption) ?_ | split | dsimp only | intro)

theorem fastValue_carries {z : State} (ch : Nat) (bits : List Bool) (s : State) (h : Carries z s) :
    Carries z (fastValue ch bits s) := by
  unfold Sys2Proof.Machine.fastValue
  with_reducible repeat' (first
    | assumption | apply ite_carries | apply put_carries | split | dsimp only | intro)

theorem hrpCtlWrite_carries {z : State} (by_ : Nat) (p : Nat) (value : Nat) (s : State) (h : Carries z s) :
    Carries z (hrpCtlWrite by_ p value s) := by
  unfold Sys2Proof.Machine.hrpCtlWrite
  with_reducible repeat' (first
    | assumption | apply ite_carries | apply writeFields_carries | apply put_carries | split | dsimp only | intro)

theorem hrpStatWrite_carries {z : State} (by_ : Nat) (p : Nat) (value : Nat) (s : State) (h : Carries z s) :
    Carries z (hrpStatWrite by_ p value s) := by
  unfold Sys2Proof.Machine.hrpStatWrite
  with_reducible repeat' (first
    | assumption | apply ite_carries | apply writeFields_carries | split | dsimp only | intro)

theorem shadowTransfer_carries {z : State} (p : Nat) (s : State) (h : Carries z s) :
    Carries z (shadowTransfer p s) := by
  unfold Sys2Proof.Machine.shadowTransfer
  with_reducible repeat' (first
    | assumption | apply ite_carries | apply put_carries | split | dsimp only | intro)

theorem leaveSafe_carries {z : State} (p : Nat) (s : State) (h : Carries z s) :
    Carries z (leaveSafe p s) := by
  unfold Sys2Proof.Machine.leaveSafe
  with_reducible repeat' (first
    | assumption | apply ite_carries | apply put_carries | split | dsimp only | intro)

theorem startPair_carries {z : State} (p : Nat) (s : State) (h : Carries z s) :
    Carries z (startPair p s) := by
  unfold Sys2Proof.Machine.startPair
  with_reducible repeat' (first
    | assumption | apply sourceEvent_carries | apply shadowTransfer_carries | apply landCommits_carries
    | apply leaveSafe_carries | apply mapPair_carries | apply put_carries | split | dsimp only | intro)

theorem tripmaskWrite_carries {z : State} (by_ : Nat) (ch : Nat) (value : Nat) (s : State) (h : Carries z s) :
    Carries z (tripmaskWrite by_ ch value s) := by
  unfold Sys2Proof.Machine.tripmaskWrite
  with_reducible repeat' (first
    | assumption | apply writeFields_carries | split | dsimp only | intro)

theorem tripChannel_carries {z : State} (ch : Nat) (s : State) (h : Carries z s) :
    Carries z (tripChannel ch s) := by
  unfold Sys2Proof.Machine.tripChannel
  with_reducible repeat' (first
    | assumption | apply ite_carries | apply put_carries | apply each_carries | apply driveSafe_carries
    | apply raiseSrc_carries | apply reportFault_carries | split | dsimp only | intro)

theorem execSdiTrip_carries {z : State} (ch : Fin 48) (bits : List Bool) (s : State) (h : Carries z s) :
    ResCarries z (execSdiTrip ch bits s) := by
  unfold Sys2Proof.Machine.execSdiTrip
  with_reducible repeat' (first
    | assumption | apply ite_carries | apply ite_res | apply res_next | apply tripChannel_carries
    | apply put_carries | split | dsimp only | intro)

theorem deliverResult_carries {z : State} (ch : Nat) (d : Int) (s : State) (h : Carries z s) :
    Carries z (deliverResult ch d s) := by
  unfold Sys2Proof.Machine.deliverResult
  with_reducible repeat' (first
    | assumption | apply ite_carries | apply put_carries | apply raiseSrc_carries | apply sourceEvent_carries
    | (apply Carries.mk_same; first | assumption | apply put_carries | apply raiseSrc_carries | apply sourceEvent_carries | split)
    | split | dsimp only | intro)

theorem execSdiResult_carries {z : State} (ch : Fin 48) (bits : List Bool) (s : State) (h : Carries z s) :
    ResCarries z (execSdiResult ch bits s) := by
  unfold Sys2Proof.Machine.execSdiResult
  with_reducible repeat' (first
    | assumption | apply ite_carries | apply ite_res | apply res_next | apply deliverResult_carries
    | apply fastValue_carries | split | dsimp only | intro)

theorem shadowWrite_carries {z : State} (p : Nat) (f : Nat) (value : Nat) (inFlight : Nat) (same : Bool) (s : State) (h : Carries z s) :
    Carries z (shadowWrite p f value inFlight same s) := by
  unfold Sys2Proof.Machine.shadowWrite
  with_reducible repeat' (first
    | assumption | apply ite_carries | apply landCommits_carries | apply put_carries | apply mapPair_carries | split
    | dsimp only | intro)

theorem execHrpShadowWrite_carries {z : State} (by_ : Seat) (pr : Fin 24) (fld : Fin 4) (value : Word32) (inFlight : Fin 4) (same : Bool) (s : State) (h : Carries z s) :
    ResCarries z (execHrpShadowWrite by_ pr fld value inFlight same s) := by
  unfold Sys2Proof.Machine.execHrpShadowWrite
  with_reducible repeat' (first
    | assumption | apply res_next | apply pageWrite_carries | apply shadowWrite_carries
    | refine res_next_of (by assumption) ?_ | split | dsimp only | intro)

theorem countBoundary_carries {z : State} (p : Nat) (s : State) (h : Carries z s) :
    Carries z (countBoundary p s) := by
  unfold Sys2Proof.Machine.countBoundary
  with_reducible repeat' (first
    | assumption | apply ite_carries | apply mapPair_carries | apply driveSafe_carries | apply put_carries | split
    | dsimp only | intro)

theorem startSlaves_carries {z : State} (x1 : Nat) (x2 : List Nat) (x3 : State) (h_x3 : Carries z x3) :
    Carries z (startSlaves x1 x2 x3) := by
  induction x1 generalizing x2 x3 with
  | zero =>
    unfold Sys2Proof.Machine.startSlaves
    with_reducible repeat' (first
      | assumption | apply each_carries | apply startPair_carries | split | dsimp only | intro)
  | succ n ih =>
    unfold Sys2Proof.Machine.startSlaves
    with_reducible repeat' (first
      | assumption | apply ih | apply each_carries | apply startPair_carries | split | dsimp only | intro)

theorem pairBoundary_carries {z : State} (p : Nat) (inFlight : Nat) (s : State) (h : Carries z s) :
    Carries z (pairBoundary p inFlight s) := by
  unfold Sys2Proof.Machine.pairBoundary
  with_reducible repeat' (first
    | assumption | apply ite_carries | apply countBoundary_carries | apply shadowTransfer_carries
    | apply landCommits_carries | apply sourceEvent_carries | apply leaveSafe_carries | apply driveSafe_carries
    | apply put_carries | apply startSlaves_carries | split | dsimp only | intro)

theorem execHrpBoundary_carries {z : State} (pr : Fin 24) (inFlight : Fin 4) (s : State) (h : Carries z s) :
    ResCarries z (execHrpBoundary pr inFlight s) := by
  unfold Sys2Proof.Machine.execHrpBoundary
  with_reducible repeat' (first
    | assumption | apply ite_carries | apply ite_res | apply res_next | apply pairBoundary_carries | split
    | dsimp only | intro)

theorem execHrpCwdExpiry_carries {z : State} (pr : Fin 24) (inFlight : Fin 4) (s : State) (h : Carries z s) :
    ResCarries z (execHrpCwdExpiry pr inFlight s) := by
  unfold Sys2Proof.Machine.execHrpCwdExpiry
  with_reducible repeat' (first
    | assumption | apply ite_carries | apply ite_res | apply res_next | apply landCommits_carries
    | apply pairBoundary_carries | split | dsimp only | intro)

theorem sdiStatWrite_carries {z : State} (by_ : Nat) (ch : Nat) (value : Nat) (s : State) (h : Carries z s) :
    Carries z (sdiStatWrite by_ ch value s) := by
  unfold Sys2Proof.Machine.sdiStatWrite
  with_reducible repeat' (first
    | assumption | apply ite_carries | apply writeFields_carries | apply put_carries | split | dsimp only | intro)

theorem execSdiTripClear_carries {z : State} (by_ : Seat) (ch : Fin 48) (value : Word32) (s : State) (h : Carries z s) :
    ResCarries z (execSdiTripClear by_ ch value s) := by
  unfold Sys2Proof.Machine.execSdiTripClear
  with_reducible repeat' (first
    | assumption | apply res_next | apply pageWrite_carries | apply sdiStatWrite_carries
    | refine res_next_of (by assumption) ?_ | split | dsimp only | intro)

theorem execHrpTrippedClear_carries {z : State} (by_ : Seat) (pr : Fin 24) (value : Word32) (s : State) (h : Carries z s) :
    ResCarries z (execHrpTrippedClear by_ pr value s) := by
  unfold Sys2Proof.Machine.execHrpTrippedClear
  with_reducible repeat' (first
    | assumption | apply res_next | apply pageWrite_carries | apply hrpStatWrite_carries
    | refine res_next_of (by assumption) ?_ | split | dsimp only | intro)

theorem ftWrite_carries {z : State} (by_ : Nat) (ch : Nat) (value : Nat) (s : State) (h : Carries z s) :
    Carries z (ftWrite by_ ch value s) := by
  unfold Sys2Proof.Machine.ftWrite
  with_reducible repeat' (first
    | assumption | apply ite_carries | apply writeFields_carries | apply put_carries | split | dsimp only | intro)

theorem execSdiFtWrite_carries {z : State} (by_ : Seat) (ch : Fin 48) (value : Word32) (s : State) (h : Carries z s) :
    ResCarries z (execSdiFtWrite by_ ch value s) := by
  unfold Sys2Proof.Machine.execSdiFtWrite
  with_reducible repeat' (first
    | assumption | apply res_next | apply pageWrite_carries | apply ftWrite_carries
    | refine res_next_of (by assumption) ?_ | split | dsimp only | intro)

theorem startWithSlaves_carries {z : State} (p : Nat) (s : State) (h : Carries z s) :
    Carries z (startWithSlaves p s) := by
  unfold Sys2Proof.Machine.startWithSlaves
  with_reducible repeat' (first
    | assumption | apply startSlaves_carries | apply startPair_carries | split | dsimp only | intro)

theorem execHrpReadbackMismatch_carries {z : State} (pr : Fin 24) (low : Bool) (s : State) (h : Carries z s) :
    ResCarries z (execHrpReadbackMismatch pr low s) := by
  unfold Sys2Proof.Machine.execHrpReadbackMismatch
  with_reducible repeat' (first
    | assumption | apply ite_carries | apply ite_res | apply res_next | apply put_carries | apply raiseSrc_carries
    | apply reportFault_carries | split | dsimp only | intro)

theorem execHrpStart_carries {z : State} (pr : Fin 24) (s : State) (h : Carries z s) :
    ResCarries z (execHrpStart pr s) := by
  unfold Sys2Proof.Machine.execHrpStart
  with_reducible repeat' (first
    | assumption | apply ite_carries | apply ite_res | apply res_next | apply startWithSlaves_carries | split
    | dsimp only | intro)

theorem execMclkWrite_carries {z : State} (by_ : Seat) (g : Fin 8) (value : Word32) (s : State) (h : Carries z s) :
    ResCarries z (execMclkWrite by_ g value s) := by
  unfold Sys2Proof.Machine.execMclkWrite
  with_reducible repeat' (first
    | assumption | apply res_next | apply pageWrite_carries | apply writeFields_carries
    | refine res_next_of (by assumption) ?_ | split | dsimp only | intro)

theorem execSdiBitstreamError_carries {z : State} (ch : Fin 48) (kind : Fin 4) (s : State) (h : Carries z s) :
    ResCarries z (execSdiBitstreamError ch kind s) := by
  unfold Sys2Proof.Machine.execSdiBitstreamError
  with_reducible repeat' (first
    | assumption | apply ite_carries | apply ite_res | apply res_next | apply putBit_carries | apply put_carries
    | apply raiseSrc_carries | apply reportFault_carries | apply tripChannel_carries | split | dsimp only | intro)

end Sys2Proof.Laws
end

