-- ==== Sys2Proof/Laws/CarryLaneInstr.lean ====
section
/-!
SUPPORT. What every operation of Machine/LaneInstr.lean carries along (Laws/Carries.lean).
-/

set_option linter.all false
set_option Elab.async false

namespace Sys2Proof.Laws

open Sys2Proof.Machine

theorem laneDm_carries {z : State} (n : Nat) (u : Upset) (s : State) (f : State → LaneAct) (h : Carries z s) (h_f : ∀ t, Carries z t → LaneActCarries z (f t)) :
    LaneActCarries z (laneDm n u s f) := by
  unfold Sys2Proof.Machine.laneDm
  with_reducible repeat' (first
    | assumption | apply ite_carries | apply ite_lact | apply lact_next | apply lact_goto | apply lact_stay
    | apply lact_fault | apply h_f | apply countUp_carries | refine lact_next_of (by assumption) ?_
    | refine lact_goto_of (by assumption) ?_ | refine lact_stay_of (by assumption) ?_
    | refine lact_fault_of (by assumption) ?_ | split | dsimp only | intro)

theorem laneCycle_carries {z : State} (i : LIssue) (s : State) (h : Carries z s) :
    Carries z (laneCycle i s) := by
  unfold Sys2Proof.Machine.laneCycle
  with_reducible repeat' (first
    | assumption | apply ite_carries | (apply Carries.mk_same; first | assumption | split) | split | dsimp only
    | intro)

theorem laneGoto_carries {z : State} (n : Nat) (t : Nat) (cancels : Bool) (s : State) (h : Carries z s) :
    Carries z (laneGoto n t cancels s) := by
  unfold Sys2Proof.Machine.laneGoto
  with_reducible repeat' (first
    | assumption | apply ite_carries | apply mapLane_carries | apply put_carries | split | dsimp only | intro)

theorem laneIssue_carries {z : State} (i : LIssue) (legal : Bool) (f : State → LaneAct) (s : State) (h_f : ∀ t, Carries z t → LaneActCarries z (f t)) (h : Carries z s) :
    ResCarries z (laneIssue i legal f s) := by
  unfold Sys2Proof.Machine.laneIssue
  with_reducible repeat' (first
    | assumption | apply ite_carries | apply ite_res | apply res_next | apply lact_next | apply lact_goto
    | apply lact_stay | apply lact_fault | apply h_f | apply laneCycle_carries | apply countUp_carries
    | apply laneFault_carries | apply mapLane_carries | apply laneNext_carries | apply laneGoto_carries
    | refine lact_next_of (by assumption) ?_ | refine lact_goto_of (by assumption) ?_
    | refine lact_stay_of (by assumption) ?_ | refine lact_fault_of (by assumption) ?_ | split | dsimp only | intro)

theorem execSig_carries {z : State} (i : LIssue) (code : BitVec 16) (s : State) (h : Carries z s) :
    ResCarries z (execSig i code s) := by
  unfold Sys2Proof.Machine.execSig
  with_reducible repeat' (first
    | assumption | apply res_next | apply lact_next | apply laneIssue_carries | apply laneSource_carries
    | apply put_carries | refine res_next_of (by assumption) ?_ | split | dsimp only | intro)

theorem execLaneClrs_carries {z : State} (i : LIssue) (s : State) (h : Carries z s) :
    ResCarries z (execLaneClrs i s) := by
  unfold Sys2Proof.Machine.execLaneClrs
  with_reducible repeat' (first
    | assumption | apply res_next | apply lact_next | apply laneIssue_carries | apply put_carries
    | refine res_next_of (by assumption) ?_ | split | dsimp only | intro)

theorem laneLocal_carries {z : State} (i : LIssue) (legal : Bool) (f : Lane → Lane × Bool) (s : State) (h : Carries z s) :
    ResCarries z (laneLocal i legal f s) := by
  unfold Sys2Proof.Machine.laneLocal
  with_reducible repeat' (first
    | assumption | apply ite_carries | apply ite_res | apply res_next | apply lact_next | apply laneIssue_carries
    | apply mapLane_carries | apply put_carries | refine res_next_of (by assumption) ?_ | split | dsimp only | intro)

theorem execPsetBase_carries {z : State} (i : LIssue) (p : Fin 4) (imm : BitVec 12) (s : State) (h : Carries z s) :
    ResCarries z (execPsetBase i p imm s) := by
  unfold Sys2Proof.Machine.execPsetBase
  with_reducible repeat' (first
    | assumption | apply res_next | apply laneLocal_carries | refine res_next_of (by assumption) ?_ | split
    | dsimp only | intro)

theorem execMacp_carries {z : State} (i : LIssue) (acc : Fin 4) (p : Fin 4) (q : Fin 4) (u : Upset) (s : State) (h : Carries z s) :
    ResCarries z (execMacp i acc p q u s) := by
  unfold Sys2Proof.Machine.execMacp
  with_reducible repeat' (first
    | assumption | apply ite_carries | apply ite_res | apply res_next | apply lact_next | apply lact_fault
    | apply laneIssue_carries | apply laneDm_carries | apply mapLane_carries | apply put_carries
    | refine lact_next_of (by assumption) ?_ | refine lact_goto_of (by assumption) ?_
    | refine lact_stay_of (by assumption) ?_ | refine lact_fault_of (by assumption) ?_
    | refine res_next_of (by assumption) ?_ | split | dsimp only | intro)

theorem laneAlu_carries {z : State} (i : LIssue) (d : Fin 32) (a : Fin 32) (b : Fin 32) (f : Half → Half → Half × Bool × Bool) (s : State) (h : Carries z s) :
    ResCarries z (laneAlu i d a b f s) := by
  unfold Sys2Proof.Machine.laneAlu
  with_reducible repeat' (first
    | assumption | apply res_next | apply laneLocal_carries | refine res_next_of (by assumption) ?_ | split
    | dsimp only | intro)

theorem execLaneAdd_carries {z : State} (i : LIssue) (d : Fin 32) (a : Fin 32) (b : Fin 32) (s : State) (h : Carries z s) :
    ResCarries z (execLaneAdd i d a b s) := by
  unfold Sys2Proof.Machine.execLaneAdd
  with_reducible repeat' (first
    | assumption | apply res_next | apply laneAlu_carries | refine res_next_of (by assumption) ?_ | split
    | dsimp only | intro)

theorem execAcopAdd_carries {z : State} (i : LIssue) (dst : Fin 4) (src : Fin 4) (s : State) (h : Carries z s) :
    ResCarries z (execAcopAdd i dst src s) := by
  unfold Sys2Proof.Machine.execAcopAdd
  with_reducible repeat' (first
    | assumption | apply res_next | apply laneLocal_carries | refine res_next_of (by assumption) ?_ | split
    | dsimp only | intro)

theorem execLaneHalt_carries {z : State} (i : LIssue) (s : State) (h : Carries z s) :
    ResCarries z (execLaneHalt i s) := by
  unfold Sys2Proof.Machine.execLaneHalt
  with_reducible repeat' (first
    | assumption | apply res_next | apply lact_stay | apply laneIssue_carries | apply laneSource_carries
    | apply put_carries | apply laneLeaves_carries | apply laneNext_carries | refine res_next_of (by assumption) ?_
    | split | dsimp only | intro)

theorem hcoll_carries {z : State} (a : Nat) (b : Nat) (s : State) (h : Carries z s) :
    Carries z (hcoll a b s) := by
  unfold Sys2Proof.Machine.hcoll
  with_reducible repeat' (first
    | assumption | apply put_carries | split | dsimp only | intro)

theorem execLaneShl_carries {z : State} (i : LIssue) (d : Fin 32) (a : Fin 32) (b : Fin 32) (s : State) (h : Carries z s) :
    ResCarries z (execLaneShl i d a b s) := by
  unfold Sys2Proof.Machine.execLaneShl
  with_reducible repeat' (first
    | assumption | apply res_next | apply laneAlu_carries | refine res_next_of (by assumption) ?_ | split
    | dsimp only | intro)

theorem execLaneSra_carries {z : State} (i : LIssue) (d : Fin 32) (a : Fin 32) (b : Fin 32) (s : State) (h : Carries z s) :
    ResCarries z (execLaneSra i d a b s) := by
  unfold Sys2Proof.Machine.execLaneSra
  with_reducible repeat' (first
    | assumption | apply res_next | apply laneAlu_carries | refine res_next_of (by assumption) ?_ | split
    | dsimp only | intro)

theorem execLaneAnd_carries {z : State} (i : LIssue) (d : Fin 32) (a : Fin 32) (b : Fin 32) (s : State) (h : Carries z s) :
    ResCarries z (execLaneAnd i d a b s) := by
  unfold Sys2Proof.Machine.execLaneAnd
  with_reducible repeat' (first
    | assumption | apply res_next | apply laneAlu_carries | refine res_next_of (by assumption) ?_ | split
    | dsimp only | intro)

theorem lanePairStops_carries {z : State} (k : Nat) (s : State) (h : Carries z s) :
    Carries z (lanePairStops k s) := by
  unfold Sys2Proof.Machine.lanePairStops
  with_reducible repeat' (first
    | assumption | apply groupFaultStop_carries | apply laneStops_carries | split | dsimp only | intro)

theorem execMbrd_carries {z : State} (i : LIssue) (d : Fin 32) (x : Fin 4) (s : State) (h : Carries z s) :
    ResCarries z (execMbrd i d x s) := by
  unfold Sys2Proof.Machine.execMbrd
  with_reducible repeat' (first
    | assumption | apply res_next | apply lact_next | apply laneIssue_carries | apply mapLane_carries
    | refine res_next_of (by assumption) ?_ | split | dsimp only | intro)

theorem execAcld_carries {z : State} (i : LIssue) (acc : Fin 4) (a : Fin 32) (sh : Fin 32) (s : State) (h : Carries z s) :
    ResCarries z (execAcld i acc a sh s) := by
  unfold Sys2Proof.Machine.execAcld
  with_reducible repeat' (first
    | assumption | apply res_next | apply laneLocal_carries | refine res_next_of (by assumption) ?_ | split
    | dsimp only | intro)

theorem execLoop_carries {z : State} (i : LIssue) (m : Bool) (last : BitVec 12) (cnt : BitVec 12) (s : State) (h : Carries z s) :
    ResCarries z (execLoop i m last cnt s) := by
  unfold Sys2Proof.Machine.execLoop
  with_reducible repeat' (first
    | assumption | apply ite_carries | apply ite_res | apply res_next | apply lact_goto | apply lact_stay
    | apply lact_fault | apply laneIssue_carries | apply mapLane_carries | apply put_carries
    | refine res_next_of (by assumption) ?_ | split | dsimp only | intro)

theorem execLaneCall_carries {z : State} (i : LIssue) (tgt : BitVec 12) (s : State) (h : Carries z s) :
    ResCarries z (execLaneCall i tgt s) := by
  unfold Sys2Proof.Machine.execLaneCall
  with_reducible repeat' (first
    | assumption | apply ite_carries | apply ite_res | apply res_next | apply lact_stay | apply lact_fault
    | apply laneIssue_carries | apply mapLane_carries | apply laneGoto_carries
    | refine res_next_of (by assumption) ?_ | split | dsimp only | intro)

theorem execLaneMax_carries {z : State} (i : LIssue) (d : Fin 32) (a : Fin 32) (b : Fin 32) (s : State) (h : Carries z s) :
    ResCarries z (execLaneMax i d a b s) := by
  unfold Sys2Proof.Machine.execLaneMax
  with_reducible repeat' (first
    | assumption | apply ite_carries | apply ite_res | apply res_next | apply laneAlu_carries
    | refine res_next_of (by assumption) ?_ | split | dsimp only | intro)

theorem execLaneSubs_carries {z : State} (i : LIssue) (d : Fin 32) (a : Fin 32) (b : Fin 32) (s : State) (h : Carries z s) :
    ResCarries z (execLaneSubs i d a b s) := by
  unfold Sys2Proof.Machine.execLaneSubs
  with_reducible repeat' (first
    | assumption | apply res_next | apply laneAlu_carries | refine res_next_of (by assumption) ?_ | split
    | dsimp only | intro)

theorem portRefused_carries {z : State} (n : Nat) (write : Bool) (page : Nat) (s : State) (h : Carries z s) :
    LaneActCarries z (portRefused n write page s) := by
  unfold Sys2Proof.Machine.portRefused
  with_reducible repeat' (first
    | assumption | apply lact_next | apply lact_goto | apply lact_stay | apply lact_fault
    | apply seatViolation_carries | split | dsimp only | intro)

theorem commitPair_carries {z : State} (n : Nat) (pr : Nat) (s : State) (h : Carries z s) :
    Carries z (commitPair n pr s) := by
  unfold Sys2Proof.Machine.commitPair
  with_reducible repeat' (first
    | assumption | apply ite_carries | apply hcoll_carries | apply mapPair_carries
    | (apply Carries.mk_same; first | assumption | apply hcoll_carries | apply mapPair_carries | split) | split
    | dsimp only | intro)

theorem execLaneNeg_carries {z : State} (i : LIssue) (d : Fin 32) (a : Fin 32) (s : State) (h : Carries z s) :
    ResCarries z (execLaneNeg i d a s) := by
  unfold Sys2Proof.Machine.execLaneNeg
  with_reducible repeat' (first
    | assumption | apply res_next | apply laneAlu_carries | refine res_next_of (by assumption) ?_ | split
    | dsimp only | intro)

theorem startTransfer_carries {z : State} (n : Nat) (w : Fin 4) (p : Fin 4) (off : BitVec 16) (store : Bool) (u : Upset) (s : State) (h : Carries z s) :
    LaneActCarries z (startTransfer n w p off store u s) := by
  unfold Sys2Proof.Machine.startTransfer
  with_reducible repeat' (first
    | assumption | apply ite_carries | apply ite_lact | apply lact_next | apply lact_goto | apply lact_stay
    | apply lact_fault | apply laneDm_carries | apply mapLane_carries | apply put_carries
    | refine lact_next_of (by assumption) ?_ | refine lact_goto_of (by assumption) ?_
    | refine lact_stay_of (by assumption) ?_ | refine lact_fault_of (by assumption) ?_ | split | dsimp only | intro)

theorem execFst_carries {z : State} (i : LIssue) (w : Fin 4) (p : Fin 4) (off : BitVec 16) (u : Upset) (s : State) (h : Carries z s) :
    ResCarries z (execFst i w p off u s) := by
  unfold Sys2Proof.Machine.execFst
  with_reducible repeat' (first
    | assumption | apply res_next | apply laneIssue_carries | apply startTransfer_carries
    | refine lact_next_of (by assumption) ?_ | refine lact_goto_of (by assumption) ?_
    | refine lact_stay_of (by assumption) ?_ | refine lact_fault_of (by assumption) ?_
    | refine res_next_of (by assumption) ?_ | split | dsimp only | intro)

theorem execLaneRet_carries {z : State} (i : LIssue) (s : State) (h : Carries z s) :
    ResCarries z (execLaneRet i s) := by
  unfold Sys2Proof.Machine.execLaneRet
  with_reducible repeat' (first
    | assumption | apply res_next | apply lact_stay | apply lact_fault | apply laneIssue_carries
    | apply mapLane_carries | apply laneGoto_carries | refine res_next_of (by assumption) ?_ | split | dsimp only
    | intro)

theorem execLaneXor_carries {z : State} (i : LIssue) (d : Fin 32) (a : Fin 32) (b : Fin 32) (s : State) (h : Carries z s) :
    ResCarries z (execLaneXor i d a b s) := by
  unfold Sys2Proof.Machine.execLaneXor
  with_reducible repeat' (first
    | assumption | apply res_next | apply laneAlu_carries | refine res_next_of (by assumption) ?_ | split
    | dsimp only | intro)

theorem execLaneOr_carries {z : State} (i : LIssue) (d : Fin 32) (a : Fin 32) (b : Fin 32) (s : State) (h : Carries z s) :
    ResCarries z (execLaneOr i d a b s) := by
  unfold Sys2Proof.Machine.execLaneOr
  with_reducible repeat' (first
    | assumption | apply res_next | apply laneAlu_carries | refine res_next_of (by assumption) ?_ | split
    | dsimp only | intro)

theorem execAcclp_carries {z : State} (i : LIssue) (acc : Fin 4) (a : Fin 32) (s : State) (h : Carries z s) :
    ResCarries z (execAcclp i acc a s) := by
  unfold Sys2Proof.Machine.execAcclp
  with_reducible repeat' (first
    | assumption | apply res_next | apply laneLocal_carries | refine res_next_of (by assumption) ?_ | split
    | dsimp only | intro)

theorem execLaneLd_carries {z : State} (i : LIssue) (d : Fin 32) (p : Fin 4) (inc : Bool) (off : BitVec 12) (u : Upset) (s : State) (h : Carries z s) :
    ResCarries z (execLaneLd i d p inc off u s) := by
  unfold Sys2Proof.Machine.execLaneLd
  with_reducible repeat' (first
    | assumption | apply ite_carries | apply ite_res | apply res_next | apply lact_next | apply laneIssue_carries
    | apply laneDm_carries | apply mapLane_carries | refine lact_next_of (by assumption) ?_
    | refine lact_goto_of (by assumption) ?_ | refine lact_stay_of (by assumption) ?_
    | refine lact_fault_of (by assumption) ?_ | refine res_next_of (by assumption) ?_ | split | dsimp only | intro)

theorem execAcopMov_carries {z : State} (i : LIssue) (dst : Fin 4) (src : Fin 4) (s : State) (h : Carries z s) :
    ResCarries z (execAcopMov i dst src s) := by
  unfold Sys2Proof.Machine.execAcopMov
  with_reducible repeat' (first
    | assumption | apply res_next | apply laneLocal_carries | refine res_next_of (by assumption) ?_ | split
    | dsimp only | intro)

theorem execAcopSub_carries {z : State} (i : LIssue) (dst : Fin 4) (src : Fin 4) (s : State) (h : Carries z s) :
    ResCarries z (execAcopSub i dst src s) := by
  unfold Sys2Proof.Machine.execAcopSub
  with_reducible repeat' (first
    | assumption | apply res_next | apply laneLocal_carries | refine res_next_of (by assumption) ?_ | split
    | dsimp only | intro)

theorem execLaneLdi_carries {z : State} (i : LIssue) (d : Fin 32) (imm : BitVec 16) (s : State) (h : Carries z s) :
    ResCarries z (execLaneLdi i d imm s) := by
  unfold Sys2Proof.Machine.execLaneLdi
  with_reducible repeat' (first
    | assumption | apply res_next | apply laneLocal_carries | refine res_next_of (by assumption) ?_ | split
    | dsimp only | intro)

theorem execSdird_carries {z : State} (i : LIssue) (d : Fin 32) (ch : Fin 64) (s : State) (h : Carries z s) :
    ResCarries z (execSdird i d ch s) := by
  unfold Sys2Proof.Machine.execSdird
  with_reducible repeat' (first
    | assumption | apply ite_carries | apply ite_res | apply res_next | apply lact_next | apply laneIssue_carries
    | apply portRefused_carries | apply mapLane_carries | refine lact_next_of (by assumption) ?_
    | refine lact_goto_of (by assumption) ?_ | refine lact_stay_of (by assumption) ?_
    | refine lact_fault_of (by assumption) ?_ | refine res_next_of (by assumption) ?_ | split | dsimp only | intro)

theorem stagePut_carries {z : State} (pr : Nat) (fld : Nat) (v : Nat × Nat) (s : State) (h : Carries z s) :
    Carries z (stagePut pr fld v s) := by
  unfold Sys2Proof.Machine.stagePut
  with_reducible repeat' (first
    | assumption | apply mapPair_carries | split | dsimp only | intro)

theorem execLaneAdds_carries {z : State} (i : LIssue) (d : Fin 32) (a : Fin 32) (b : Fin 32) (s : State) (h : Carries z s) :
    ResCarries z (execLaneAdds i d a b s) := by
  unfold Sys2Proof.Machine.execLaneAdds
  with_reducible repeat' (first
    | assumption | apply res_next | apply laneAlu_carries | refine res_next_of (by assumption) ?_ | split
    | dsimp only | intro)

theorem execLanePairMismatch_carries {z : State} (pair : Fin 32) (s : State) (h : Carries z s) :
    ResCarries z (execLanePairMismatch pair s) := by
  unfold Sys2Proof.Machine.execLanePairMismatch
  with_reducible repeat' (first
    | assumption | apply ite_carries | apply ite_res | apply res_next | apply reportFault_carries
    | apply lanePairStops_carries | split | dsimp only | intro)

theorem execHrpc_carries {z : State} (i : LIssue) (mask : BitVec 24) (s : State) (h : Carries z s) :
    ResCarries z (execHrpc i mask s) := by
  unfold Sys2Proof.Machine.execHrpc
  with_reducible repeat' (first
    | assumption | apply res_next | apply lact_next | apply laneIssue_carries | apply portRefused_carries
    | apply each_carries | apply commitPair_carries | refine lact_next_of (by assumption) ?_
    | refine lact_goto_of (by assumption) ?_ | refine lact_stay_of (by assumption) ?_
    | refine lact_fault_of (by assumption) ?_ | refine res_next_of (by assumption) ?_ | split | dsimp only | intro)

theorem execLaneAbs_carries {z : State} (i : LIssue) (d : Fin 32) (a : Fin 32) (s : State) (h : Carries z s) :
    ResCarries z (execLaneAbs i d a s) := by
  unfold Sys2Proof.Machine.execLaneAbs
  with_reducible repeat' (first
    | assumption | apply ite_carries | apply ite_res | apply res_next | apply laneAlu_carries
    | refine res_next_of (by assumption) ?_ | split | dsimp only | intro)

theorem execXwr_carries {z : State} (i : LIssue) (a : Fin 32) (x : Fin 64) (s : State) (h : Carries z s) :
    ResCarries z (execXwr i a x s) := by
  unfold Sys2Proof.Machine.execXwr
  with_reducible repeat' (first
    | assumption | apply ite_carries | apply ite_res | apply res_next | apply lact_next | apply laneIssue_carries
    | apply put_carries | refine res_next_of (by assumption) ?_
    | (apply Carries.mk_same; first | assumption | apply laneIssue_carries | apply put_carries | refine res_next_of (by assumption) ?_ | split)
    | split | dsimp only | intro)

theorem execAcopClr_carries {z : State} (i : LIssue) (dst : Fin 4) (s : State) (h : Carries z s) :
    ResCarries z (execAcopClr i dst s) := by
  unfold Sys2Proof.Machine.execAcopClr
  with_reducible repeat' (first
    | assumption | apply res_next | apply laneLocal_carries | refine res_next_of (by assumption) ?_ | split
    | dsimp only | intro)

theorem execRnd_carries {z : State} (i : LIssue) (d : Fin 32) (acc : Fin 4) (sh : Fin 32) (s : State) (h : Carries z s) :
    ResCarries z (execRnd i d acc sh s) := by
  unfold Sys2Proof.Machine.execRnd
  with_reducible repeat' (first
    | assumption | apply ite_carries | apply ite_res | apply res_next | apply laneLocal_carries
    | refine res_next_of (by assumption) ?_ | split | dsimp only | intro)

theorem execLaneCmp_carries {z : State} (i : LIssue) (a : Fin 32) (b : Fin 32) (s : State) (h : Carries z s) :
    ResCarries z (execLaneCmp i a b s) := by
  unfold Sys2Proof.Machine.execLaneCmp
  with_reducible repeat' (first
    | assumption | apply res_next | apply laneLocal_carries | refine res_next_of (by assumption) ?_ | split
    | dsimp only | intro)

theorem execFld_carries {z : State} (i : LIssue) (w : Fin 4) (p : Fin 4) (off : BitVec 16) (s : State) (h : Carries z s) :
    ResCarries z (execFld i w p off s) := by
  unfold Sys2Proof.Machine.execFld
  with_reducible repeat' (first
    | assumption | apply res_next | apply laneIssue_carries | apply startTransfer_carries
    | refine lact_next_of (by assumption) ?_ | refine lact_goto_of (by assumption) ?_
    | refine lact_stay_of (by assumption) ?_ | refine lact_fault_of (by assumption) ?_
    | refine res_next_of (by assumption) ?_ | split | dsimp only | intro)

theorem execLaneMin_carries {z : State} (i : LIssue) (d : Fin 32) (a : Fin 32) (b : Fin 32) (s : State) (h : Carries z s) :
    ResCarries z (execLaneMin i d a b s) := by
  unfold Sys2Proof.Machine.execLaneMin
  with_reducible repeat' (first
    | assumption | apply ite_carries | apply ite_res | apply res_next | apply laneAlu_carries
    | refine res_next_of (by assumption) ?_ | split | dsimp only | intro)

theorem execLaneAddi_carries {z : State} (i : LIssue) (d : Fin 32) (a : Fin 32) (imm : BitVec 16) (s : State) (h : Carries z s) :
    ResCarries z (execLaneAddi i d a imm s) := by
  unfold Sys2Proof.Machine.execLaneAddi
  with_reducible repeat' (first
    | assumption | apply res_next | apply laneLocal_carries | refine res_next_of (by assumption) ?_ | split
    | dsimp only | intro)

theorem transferEnds_carries {z : State} (n : Nat) (w : Fin 4) (err : Bool) (poison : Bool) (s : State) (h : Carries z s) :
    Carries z (transferEnds n w err poison s) := by
  unfold Sys2Proof.Machine.transferEnds
  with_reducible repeat' (first
    | assumption | apply put_carries | apply mapLane_carries | split | dsimp only | intro)

theorem execLaneTransferComplete_carries {z : State} (n : LaneId) (w : Fin 4) (r : Answer) (u : Upset) (s : State) (h : Carries z s) :
    ResCarries z (execLaneTransferComplete n w r u s) := by
  unfold Sys2Proof.Machine.execLaneTransferComplete
  with_reducible repeat' (first
    | assumption | apply ite_carries | apply ite_res | apply res_next | apply transferEnds_carries
    | apply fenceViolation_carries | apply writeMem_carries | apply breakReservations_carries
    | apply memUpset_carries | apply mapLane_carries | split | dsimp only | intro)

theorem execPsetLength_carries {z : State} (i : LIssue) (p : Fin 4) (imm : BitVec 12) (s : State) (h : Carries z s) :
    ResCarries z (execPsetLength i p imm s) := by
  unfold Sys2Proof.Machine.execPsetLength
  with_reducible repeat' (first
    | assumption | apply res_next | apply laneLocal_carries | refine res_next_of (by assumption) ?_ | split
    | dsimp only | intro)

theorem execLaneSt_carries {z : State} (i : LIssue) (a : Fin 32) (p : Fin 4) (inc : Bool) (off : BitVec 12) (s : State) (h : Carries z s) :
    ResCarries z (execLaneSt i a p inc off s) := by
  unfold Sys2Proof.Machine.execLaneSt
  with_reducible repeat' (first
    | assumption | apply ite_carries | apply ite_res | apply res_next | apply laneLocal_carries
    | refine res_next_of (by assumption) ?_ | split | dsimp only | intro)

theorem execLaneNop_carries {z : State} (i : LIssue) (s : State) (h : Carries z s) :
    ResCarries z (execLaneNop i s) := by
  unfold Sys2Proof.Machine.execLaneNop
  with_reducible repeat' (first
    | assumption | apply res_next | apply lact_next | apply laneIssue_carries
    | refine res_next_of (by assumption) ?_ | split | dsimp only | intro)

theorem execWaite_carries {z : State} (i : LIssue) (s : State) (h : Carries z s) :
    ResCarries z (execWaite i s) := by
  unfold Sys2Proof.Machine.execWaite
  with_reducible repeat' (first
    | assumption | apply ite_carries | apply ite_res | apply res_next | apply lact_next | apply lact_stay
    | apply laneIssue_carries | apply mapLane_carries | apply put_carries | refine res_next_of (by assumption) ?_
    | split | dsimp only | intro)

theorem execAcx_carries {z : State} (i : LIssue) (d : Fin 32) (acc : Fin 4) (b : Fin 32) (sh : Fin 32) (s : State) (h : Carries z s) :
    ResCarries z (execAcx i d acc b sh s) := by
  unfold Sys2Proof.Machine.execAcx
  with_reducible repeat' (first
    | assumption | apply res_next | apply laneLocal_carries | refine res_next_of (by assumption) ?_ | split
    | dsimp only | intro)

theorem execXrd_carries {z : State} (i : LIssue) (d : Fin 32) (x : Fin 64) (s : State) (h : Carries z s) :
    ResCarries z (execXrd i d x s) := by
  unfold Sys2Proof.Machine.execXrd
  with_reducible repeat' (first
    | assumption | apply ite_carries | apply ite_res | apply res_next | apply lact_next | apply laneIssue_carries
    | apply mapLane_carries | refine res_next_of (by assumption) ?_ | split | dsimp only | intro)

theorem execLaneAndi_carries {z : State} (i : LIssue) (d : Fin 32) (a : Fin 32) (imm : BitVec 16) (s : State) (h : Carries z s) :
    ResCarries z (execLaneAndi i d a imm s) := by
  unfold Sys2Proof.Machine.execLaneAndi
  with_reducible repeat' (first
    | assumption | apply res_next | apply laneLocal_carries | refine res_next_of (by assumption) ?_ | split
    | dsimp only | intro)

theorem execDmac_carries {z : State} (i : LIssue) (m : Fin 4) (acc : Fin 4) (a : Fin 32) (b : Fin 32) (c : Fin 32) (d : Fin 32) (s : State) (h : Carries z s) :
    ResCarries z (execDmac i m acc a b c d s) := by
  unfold Sys2Proof.Machine.execDmac
  with_reducible repeat' (first
    | assumption | apply res_next | apply laneLocal_carries | refine res_next_of (by assumption) ?_ | split
    | dsimp only | intro)

theorem execMbwr_carries {z : State} (i : LIssue) (a : Fin 32) (x : Fin 4) (s : State) (h : Carries z s) :
    ResCarries z (execMbwr i a x s) := by
  unfold Sys2Proof.Machine.execMbwr
  with_reducible repeat' (first
    | assumption | apply res_next | apply lact_next | apply laneIssue_carries | apply put_carries
    | refine res_next_of (by assumption) ?_ | split | dsimp only | intro)

theorem execAcopNeg_carries {z : State} (i : LIssue) (dst : Fin 4) (src : Fin 4) (s : State) (h : Carries z s) :
    ResCarries z (execAcopNeg i dst src s) := by
  unfold Sys2Proof.Machine.execAcopNeg
  with_reducible repeat' (first
    | assumption | apply res_next | apply laneLocal_carries | refine res_next_of (by assumption) ?_ | split
    | dsimp only | intro)

theorem execLaneShi_carries {z : State} (i : LIssue) (d : Fin 32) (a : Fin 32) (k : Fin 4) (amt : Fin 16) (s : State) (h : Carries z s) :
    ResCarries z (execLaneShi i d a k amt s) := by
  unfold Sys2Proof.Machine.execLaneShi
  with_reducible repeat' (first
    | assumption | apply res_next | apply laneLocal_carries | refine res_next_of (by assumption) ?_ | split
    | dsimp only | intro)

theorem execLaneB_carries {z : State} (i : LIssue) (cond : Fin 16) (tgt : BitVec 12) (s : State) (h : Carries z s) :
    ResCarries z (execLaneB i cond tgt s) := by
  unfold Sys2Proof.Machine.execLaneB
  with_reducible repeat' (first
    | assumption | apply ite_carries | apply ite_res | apply res_next | apply lact_next | apply lact_goto
    | apply laneIssue_carries | refine res_next_of (by assumption) ?_ | split | dsimp only | intro)

theorem execLaneCmpi_carries {z : State} (i : LIssue) (a : Fin 32) (imm : BitVec 16) (s : State) (h : Carries z s) :
    ResCarries z (execLaneCmpi i a imm s) := by
  unfold Sys2Proof.Machine.execLaneCmpi
  with_reducible repeat' (first
    | assumption | apply res_next | apply laneLocal_carries | refine res_next_of (by assumption) ?_ | split
    | dsimp only | intro)

theorem execSdist_carries {z : State} (i : LIssue) (d : Fin 32) (ch : Fin 64) (s : State) (h : Carries z s) :
    ResCarries z (execSdist i d ch s) := by
  unfold Sys2Proof.Machine.execSdist
  with_reducible repeat' (first
    | assumption | apply ite_carries | apply ite_res | apply res_next | apply lact_next | apply laneIssue_carries
    | apply portRefused_carries | apply mapLane_carries | refine lact_next_of (by assumption) ?_
    | refine lact_goto_of (by assumption) ?_ | refine lact_stay_of (by assumption) ?_
    | refine lact_fault_of (by assumption) ?_ | refine res_next_of (by assumption) ?_ | split | dsimp only | intro)

theorem execLaneMov_carries {z : State} (i : LIssue) (d : Fin 32) (a : Fin 32) (s : State) (h : Carries z s) :
    ResCarries z (execLaneMov i d a s) := by
  unfold Sys2Proof.Machine.execLaneMov
  with_reducible repeat' (first
    | assumption | apply res_next | apply laneAlu_carries | refine res_next_of (by assumption) ?_ | split
    | dsimp only | intro)

theorem execLaneSub_carries {z : State} (i : LIssue) (d : Fin 32) (a : Fin 32) (b : Fin 32) (s : State) (h : Carries z s) :
    ResCarries z (execLaneSub i d a b s) := by
  unfold Sys2Proof.Machine.execLaneSub
  with_reducible repeat' (first
    | assumption | apply res_next | apply laneAlu_carries | refine res_next_of (by assumption) ?_ | split
    | dsimp only | intro)

theorem execLaneShr_carries {z : State} (i : LIssue) (d : Fin 32) (a : Fin 32) (b : Fin 32) (s : State) (h : Carries z s) :
    ResCarries z (execLaneShr i d a b s) := by
  unfold Sys2Proof.Machine.execLaneShr
  with_reducible repeat' (first
    | assumption | apply res_next | apply laneAlu_carries | refine res_next_of (by assumption) ?_ | split
    | dsimp only | intro)

theorem execPsetAdvance_carries {z : State} (i : LIssue) (p : Fin 4) (imm : BitVec 12) (s : State) (h : Carries z s) :
    ResCarries z (execPsetAdvance i p imm s) := by
  unfold Sys2Proof.Machine.execPsetAdvance
  with_reducible repeat' (first
    | assumption | apply res_next | apply laneLocal_carries | refine res_next_of (by assumption) ?_ | split
    | dsimp only | intro)

theorem execHrpw_carries {z : State} (i : LIssue) (pr : Fin 32) (fld : Fin 8) (a : Fin 32) (b : Fin 32) (s : State) (h : Carries z s) :
    ResCarries z (execHrpw i pr fld a b s) := by
  unfold Sys2Proof.Machine.execHrpw
  with_reducible repeat' (first
    | assumption | apply ite_carries | apply ite_res | apply res_next | apply lact_next | apply laneIssue_carries
    | apply portRefused_carries | apply stagePut_carries | apply hcoll_carries
    | refine lact_next_of (by assumption) ?_ | refine lact_goto_of (by assumption) ?_
    | refine lact_stay_of (by assumption) ?_ | refine lact_fault_of (by assumption) ?_
    | refine res_next_of (by assumption) ?_
    | (apply Carries.mk_same; first | assumption | apply laneIssue_carries | apply portRefused_carries | apply stagePut_carries | apply hcoll_carries | refine lact_next_of (by assumption) ?_ | refine lact_goto_of (by assumption) ?_ | refine lact_stay_of (by assumption) ?_ | refine lact_fault_of (by assumption) ?_ | refine res_next_of (by assumption) ?_ | split)
    | split | dsimp only | intro)

end Sys2Proof.Laws
end

