-- ==== Sys2Proof/Laws/CarrySfi.lean ====
section
/-!
SUPPORT. What every operation of Machine/Sfi.lean carries along (Laws/Carries.lean).
-/

set_option linter.all false
set_option Elab.async false

namespace Sys2Proof.Laws

open Sys2Proof.Machine

theorem watchdogTick_carries {z : State} (s : State) (h : Carries z s) :
    Carries z (watchdogTick s) := by
  unfold Sys2Proof.Machine.watchdogTick
  with_reducible repeat' (first
    | assumption | apply ite_carries | apply each_carries | apply put_carries
    | (apply Carries.mk_same; first | assumption | apply each_carries | apply put_carries | split) | split
    | dsimp only | intro)

theorem dropFrames_carries {z : State} (seat : Nat) (s : State) (h : Carries z s) :
    Carries z (dropFrames seat s) := by
  unfold Sys2Proof.Machine.dropFrames
  with_reducible repeat' (first
    | assumption | apply put_carries | split | dsimp only | intro)

theorem enterSeatSafe_carries {z : State} (seat : Nat) (s : State) (h : Carries z s) :
    Carries z (enterSeatSafe seat s) := by
  unfold Sys2Proof.Machine.enterSeatSafe
  with_reducible repeat' (first
    | assumption | apply ite_carries | apply put_carries | apply putBit_carries | apply each_carries
    | apply driveSafe_carries | apply mapCores_carries | apply laneStops_carries | apply abortCommands_carries
    | apply dropFrames_carries | split | dsimp only | intro)

theorem logFault_carries {z : State} (f : FaultLine) (react : Nat) (s : State) (h : Carries z s) :
    Carries z (logFault f react s) := by
  unfold Sys2Proof.Machine.logFault
  with_reducible repeat' (first
    | assumption | apply ite_carries | apply countUp_carries | apply put_carries | split | dsimp only | intro)

theorem watchdogReacted_carries {z : State} (f : FaultLine) (react : Nat) (s : State) (h : Carries z s) :
    Carries z (watchdogReacted f react s) := by
  unfold Sys2Proof.Machine.watchdogReacted
  with_reducible repeat' (first
    | assumption | apply ite_carries | apply put_carries
    | (apply Carries.mk_same; first | assumption | apply put_carries | split) | split | dsimp only | intro)

theorem accountFault_carries {z : State} (f : FaultLine) (react : Nat) (s : State) (h : Carries z s) :
    Carries z (accountFault f react s) := by
  unfold Sys2Proof.Machine.accountFault
  with_reducible repeat' (first
    | assumption | apply ite_carries | apply logFault_carries | apply put_carries | apply countUp_carries
    | apply watchdogReacted_carries | apply noteManager_carries | apply noteSeat_carries | split | dsimp only
    | intro)

theorem cwdFault_carries {z : State} (n : Nat) (s : State) (h : Carries z s) :
    Carries z (cwdFault n s) := by
  unfold Sys2Proof.Machine.cwdFault
  with_reducible repeat' (first
    | assumption | apply reportFault_carries
    | (apply Carries.mk_same; first | assumption | apply reportFault_carries | split) | split | dsimp only | intro)

theorem cwdKick_carries {z : State} (n : Nat) (key : Nat) (s : State) (h : Carries z s) :
    Carries z (cwdKick n key s) := by
  unfold Sys2Proof.Machine.cwdKick
  with_reducible repeat' (first
    | assumption | apply ite_carries | apply put_carries | apply cwdFault_carries | split | dsimp only | intro)

theorem clearLog_carries {z : State} (value : Nat) (s : State) (h : Carries z s) :
    Carries z (clearLog value s) := by
  unfold Sys2Proof.Machine.clearLog
  with_reducible repeat' (first
    | assumption | apply ite_carries | apply each_carries | apply resetInst_carries | apply put_carries | split
    | dsimp only | intro)

theorem cwdConfig_carries {z : State} (by_ : Nat) (n : Nat) (value : Nat) (s : State) (h : Carries z s) :
    Carries z (cwdConfig by_ n value s) := by
  unfold Sys2Proof.Machine.cwdConfig
  with_reducible repeat' (first
    | assumption | apply ite_carries | apply writeFields_carries | apply put_carries | split | dsimp only | intro)

theorem wdogRefused_carries {z : State} (by_ : Nat) (addr : Nat) (s : State) (h : Carries z s) :
    ResCarries z (wdogRefused by_ addr s) := by
  unfold Sys2Proof.Machine.wdogRefused
  with_reducible repeat' (first
    | assumption | apply res_next | apply answer_carries | apply seatViolation_carries | split | dsimp only | intro)

theorem swdConfig_carries {z : State} (by_ : Nat) (seat : Nat) (value : Nat) (s : State) (h : Carries z s) :
    Carries z (swdConfig by_ seat value s) := by
  unfold Sys2Proof.Machine.swdConfig
  with_reducible repeat' (first
    | assumption | apply ite_carries | apply writeFields_carries | apply put_carries | split | dsimp only | intro)

theorem execWatchdogEnable_carries {z : State} (by_ : Seat) (w : Wdog) (value : Word32) (s : State) (h : Carries z s) :
    ResCarries z (execWatchdogEnable by_ w value s) := by
  unfold Sys2Proof.Machine.execWatchdogEnable
  with_reducible repeat' (first
    | assumption | apply ite_carries | apply ite_res | apply res_next | apply answer_carries
    | apply cwdConfig_carries | apply wdogRefused_carries | apply swdConfig_carries
    | refine res_next_of (by assumption) ?_ | split | dsimp only | intro)

theorem thawWatchdogs_carries {z : State} (s0 : State) (s : State) (h_s0 : Carries z s0) (h : Carries z s) :
    Carries z (thawWatchdogs s0 s) := by
  unfold Sys2Proof.Machine.thawWatchdogs
  with_reducible repeat' (first
    | assumption | apply each_carries | apply put_carries | split | dsimp only | intro)

theorem svpKick_carries {z : State} (key : Nat) (s : State) (h : Carries z s) :
    Carries z (svpKick key s) := by
  unfold Sys2Proof.Machine.svpKick
  with_reducible repeat' (first
    | assumption | apply ite_carries | apply reportFault_carries
    | (apply Carries.mk_same; first | assumption | apply reportFault_carries | split) | split | dsimp only | intro)

theorem execSvpKick_carries {z : State} (by_ : Seat) (key : BitVec 8) (s : State) (h : Carries z s) :
    ResCarries z (execSvpKick by_ key s) := by
  unfold Sys2Proof.Machine.execSvpKick
  with_reducible repeat' (first
    | assumption | apply res_next | apply pageWrite_carries | apply svpKick_carries
    | refine res_next_of (by assumption) ?_ | split | dsimp only | intro)

theorem enterDeviceSafe_carries {z : State} (code : Nat) (s : State) (h : Carries z s) :
    Carries z (enterDeviceSafe code s) := by
  unfold Sys2Proof.Machine.enterDeviceSafe
  with_reducible repeat' (first
    | assumption | apply put_carries | apply each_carries | apply enterSeatSafe_carries | apply driveSafe_carries
    | split | dsimp only | intro)

theorem decideFaults_carries {z : State} (batch : List FaultLine) (s : State) (h : Carries z s) :
    Carries z (decideFaults batch s) := by
  unfold Sys2Proof.Machine.decideFaults
  with_reducible repeat' (first
    | assumption | apply ite_carries | apply enterDeviceSafe_carries | apply each_carries
    | apply enterSeatSafe_carries | apply accountFault_carries | apply raiseSrc_carries | apply put_carries
    | apply foldl_carries | apply foldl_snd_carries | apply foldl_snd2_carries
    | refine Carries.snd (by assumption) ?_ | refine Carries.snd2 (by assumption) ?_
    | (apply Carries.mk_same; first | assumption | apply enterDeviceSafe_carries | apply each_carries | apply enterSeatSafe_carries | apply accountFault_carries | apply raiseSrc_carries | apply put_carries | apply foldl_carries | apply foldl_snd_carries | apply foldl_snd2_carries | refine Carries.snd (by assumption) ?_ | refine Carries.snd2 (by assumption) ?_ | split)
    | split | dsimp only | intro)

theorem execFcuDecision_carries {z : State} (n : Nat) (agree : Bool) (s : State) (h : Carries z s) :
    ResCarries z (execFcuDecision n agree s) := by
  unfold Sys2Proof.Machine.execFcuDecision
  with_reducible repeat' (first
    | assumption | apply ite_carries | apply ite_res | apply res_next | apply decideFaults_carries
    | (apply Carries.mk_same; first | assumption | apply decideFaults_carries | split) | split | dsimp only | intro)

theorem execVoltageMonitorFault_carries {z : State} (rail : Fin 12) (s : State) (h : Carries z s) :
    ResCarries z (execVoltageMonitorFault rail s) := by
  unfold Sys2Proof.Machine.execVoltageMonitorFault
  with_reducible repeat' (first
    | assumption | apply ite_carries | apply ite_res | apply res_next | apply put_carries
    | apply reportFault_carries | split | dsimp only | intro)

theorem clockFault_carries {z : State} (s : State) (h : Carries z s) :
    Carries z (clockFault s) := by
  unfold Sys2Proof.Machine.clockFault
  with_reducible repeat' (first
    | assumption | apply reportFault_carries | apply put_carries | split | dsimp only | intro)

theorem execClockMonitorWindow_carries {z : State} (countsOk : Bool) (lockOk : Bool) (s : State) (h : Carries z s) :
    ResCarries z (execClockMonitorWindow countsOk lockOk s) := by
  unfold Sys2Proof.Machine.execClockMonitorWindow
  with_reducible repeat' (first
    | assumption | apply ite_carries | apply ite_res | apply res_next | apply clockFault_carries
    | (apply Carries.mk_same; first | assumption | apply clockFault_carries | split) | split | dsimp only | intro)

theorem execSvpWatchdogExpiry_carries {z : State} (s : State) (h : Carries z s) :
    ResCarries z (execSvpWatchdogExpiry s) := by
  unfold Sys2Proof.Machine.execSvpWatchdogExpiry
  with_reducible repeat' (first
    | assumption | apply res_next | apply reportFault_carries
    | (apply Carries.mk_same; first | assumption | apply reportFault_carries | split) | split | dsimp only | intro)

theorem sfiCtlWrite_carries {z : State} (value : Nat) (s : State) (h : Carries z s) :
    Carries z (sfiCtlWrite value s) := by
  unfold Sys2Proof.Machine.sfiCtlWrite
  with_reducible repeat' (first
    | assumption | apply ite_carries | apply writeFields_carries | split | dsimp only | intro)

theorem execSfiRelease_carries {z : State} (by_ : Seat) (value : Word32) (s : State) (h : Carries z s) :
    ResCarries z (execSfiRelease by_ value s) := by
  unfold Sys2Proof.Machine.execSfiRelease
  with_reducible repeat' (first
    | assumption | apply res_next | apply pageWrite_carries | apply sfiCtlWrite_carries
    | refine res_next_of (by assumption) ?_ | split | dsimp only | intro)

theorem execFaultLogClear_carries {z : State} (by_ : Seat) (value : Word32) (s : State) (h : Carries z s) :
    ResCarries z (execFaultLogClear by_ value s) := by
  unfold Sys2Proof.Machine.execFaultLogClear
  with_reducible repeat' (first
    | assumption | apply res_next | apply pageWrite_carries | apply clearLog_carries
    | refine res_next_of (by assumption) ?_ | split | dsimp only | intro)

theorem execGateSelfTest_carries {z : State} (aOk : Bool) (bOk : Bool) (s : State) (h : Carries z s) :
    ResCarries z (execGateSelfTest aOk bOk s) := by
  unfold Sys2Proof.Machine.execGateSelfTest
  with_reducible repeat' (first
    | assumption | apply ite_carries | apply ite_res | apply res_next | apply reportFault_carries
    | apply put_carries | apply countUp_carries | split | dsimp only | intro)

theorem swdFault_carries {z : State} (seat : Nat) (s : State) (h : Carries z s) :
    Carries z (swdFault seat s) := by
  unfold Sys2Proof.Machine.swdFault
  with_reducible repeat' (first
    | assumption | apply reportFault_carries
    | (apply Carries.mk_same; first | assumption | apply reportFault_carries | split) | split | dsimp only | intro)

theorem swdKick_carries {z : State} (seat : Nat) (key : Nat) (s : State) (h : Carries z s) :
    Carries z (swdKick seat key s) := by
  unfold Sys2Proof.Machine.swdKick
  with_reducible repeat' (first
    | assumption | apply ite_carries | apply put_carries | apply swdFault_carries | split | dsimp only | intro)

theorem injectFault_carries {z : State} (value : Nat) (s : State) (h : Carries z s) :
    Carries z (injectFault value s) := by
  unfold Sys2Proof.Machine.injectFault
  with_reducible repeat' (first
    | assumption | apply ite_carries | apply draw_carries | apply pairStops_carries | apply lanePairStops_carries
    | refine Carries.snd (by assumption) ?_
    | (apply Carries.mk_same; first | assumption | apply draw_carries | apply pairStops_carries | apply lanePairStops_carries | refine Carries.snd (by assumption) ?_ | split)
    | split | dsimp only | intro)

theorem execFaultInject_carries {z : State} (by_ : Seat) (value : Word32) (s : State) (h : Carries z s) :
    ResCarries z (execFaultInject by_ value s) := by
  unfold Sys2Proof.Machine.execFaultInject
  with_reducible repeat' (first
    | assumption | apply res_next | apply pageWrite_carries | apply injectFault_carries
    | refine res_next_of (by assumption) ?_ | split | dsimp only | intro)

theorem execWatchdogKick_carries {z : State} (by_ : Seat) (w : Wdog) (key : BitVec 8) (s : State) (h : Carries z s) :
    ResCarries z (execWatchdogKick by_ w key s) := by
  unfold Sys2Proof.Machine.execWatchdogKick
  with_reducible repeat' (first
    | assumption | apply ite_carries | apply ite_res | apply res_next | apply answer_carries | apply cwdKick_carries
    | apply wdogRefused_carries | apply swdKick_carries | refine res_next_of (by assumption) ?_ | split | dsimp only
    | intro)

theorem execWatchdogExpiry_carries {z : State} (w : Wdog) (s : State) (h : Carries z s) :
    ResCarries z (execWatchdogExpiry w s) := by
  unfold Sys2Proof.Machine.execWatchdogExpiry
  with_reducible repeat' (first
    | assumption | apply ite_carries | apply ite_res | apply res_next | apply cwdFault_carries | apply put_carries
    | apply swdFault_carries | split | dsimp only | intro)

theorem execSfiForce_carries {z : State} (s : State) (h : Carries z s) :
    ResCarries z (execSfiForce s) := by
  unfold Sys2Proof.Machine.execSfiForce
  with_reducible repeat' (first
    | assumption | apply ite_carries | apply ite_res | apply res_next | apply reportFault_carries | split
    | dsimp only | intro)

theorem execMissingReferenceEdge_carries {z : State} (s : State) (h : Carries z s) :
    ResCarries z (execMissingReferenceEdge s) := by
  unfold Sys2Proof.Machine.execMissingReferenceEdge
  with_reducible repeat' (first
    | assumption | apply res_next | apply clockFault_carries | split | dsimp only | intro)

theorem execTemperatureSample_carries {z : State} (t : BitVec 8) (s : State) (h : Carries z s) :
    ResCarries z (execTemperatureSample t s) := by
  unfold Sys2Proof.Machine.execTemperatureSample
  with_reducible repeat' (first
    | extract_lets | apply ite_carries | apply ite_res | assumption | apply res_next | apply put_carries
    | apply noteManager_carries | apply reportFault_carries
    | (apply Carries.mk_same; first | assumption | apply put_carries | apply noteManager_carries | apply reportFault_carries | split)
    | split | intro)

end Sys2Proof.Laws
end

