-- ==== Sys2Proof/Laws/CarryDeal.lean ====
section
/-!
SUPPORT. What every operation of Machine/Deal.lean carries along (Laws/Carries.lean).
-/

set_option linter.all false
set_option Elab.async false

namespace Sys2Proof.Laws

open Sys2Proof.Machine

theorem execTbsCapture_carries {z : State} (n : Fin 32) (rising : Bool) (s : State) (h : Carries z s) :
    ResCarries z (execTbsCapture n rising s) := by
  unfold Sys2Proof.Machine.execTbsCapture
  with_reducible repeat' (first
    | assumption | apply ite_carries | apply ite_res | apply res_next | apply put_carries | apply raiseSrc_carries
    | split | dsimp only | intro)

theorem setTime_carries {z : State} (s : State) (v : Nat) (h : Carries z s) :
    Carries z (State.setTime s v) := by
  unfold Sys2Proof.Machine.State.setTime
  with_reducible repeat' (first
    | assumption | apply put_carries | (apply Carries.mk_same; first | assumption | apply put_carries | split)
    | split | dsimp only | intro)

theorem execSeatLockCheckDone_carries {z : State} (s : State) (h : Carries z s) :
    ResCarries z (execSeatLockCheckDone s) := by
  unfold Sys2Proof.Machine.execSeatLockCheckDone
  with_reducible repeat' (first
    | assumption | apply ite_carries | apply ite_res | apply res_next | apply answer_carries | apply put_carries
    | (apply Carries.mk_same; first | assumption | apply answer_carries | apply put_carries | split) | split
    | dsimp only | intro)

theorem perClkEdge_carries {z : State} (s : State) (h : Carries z s) :
    Carries z (perClkEdge s) := by
  unfold Sys2Proof.Machine.perClkEdge
  with_reducible repeat' (first
    | assumption | apply setTime_carries
    | (apply Carries.mk_same; first | assumption | apply setTime_carries | split) | split | dsimp only | intro)

theorem roundBoundary_carries {z : State} (s : State) (h : Carries z s) :
    Carries z (roundBoundary s) := by
  unfold Sys2Proof.Machine.roundBoundary
  with_reducible repeat' (first
    | assumption | apply ite_carries | apply put_carries | apply returnTokens_carries
    | (apply Carries.mk_same; first | assumption | apply put_carries | apply returnTokens_carries | split) | split
    | dsimp only | intro)

theorem seatLockWrite_carries {z : State} (s : State) (h : Carries z s) :
    Carries z (seatLockWrite s) := by
  unfold Sys2Proof.Machine.seatLockWrite
  with_reducible repeat' (first
    | assumption | apply ite_carries | (apply Carries.mk_same; first | assumption | split) | split | dsimp only
    | intro)

theorem countSwitchSlots_carries {z : State} (s : State) (h : Carries z s) :
    Carries z (countSwitchSlots s) := by
  unfold Sys2Proof.Machine.countSwitchSlots
  with_reducible repeat' (first
    | assumption | apply mapCores_carries | split | dsimp only | intro)

theorem recordSwitch_carries {z : State} (f : Fld) (k : Nat) (seat : Nat) (s : State) (h : Carries z s) :
    Carries z (recordSwitch f k seat s) := by
  unfold Sys2Proof.Machine.recordSwitch
  with_reducible repeat' (first
    | assumption | apply ite_carries | apply put_carries | split | dsimp only | intro)

theorem switchEvent_carries {z : State} (k : CoreId) (seat : Nat) (s : State) (h : Carries z s) :
    Carries z (switchEvent k seat s) := by
  unfold Sys2Proof.Machine.switchEvent
  with_reducible repeat' (first
    | assumption | apply ite_carries | apply recordSwitch_carries | apply mapCore_carries | split | dsimp only
    | intro)

theorem nextSlot_carries {z : State} (u : Upset) (s : State) (h : Carries z s) :
    Carries z (nextSlot u s) := by
  unfold Sys2Proof.Machine.nextSlot
  with_reducible repeat' (first
    | assumption | apply ite_carries | apply roundBoundary_carries | apply countSwitchSlots_carries
    | apply put_carries | apply reportFault_carries | apply raiseSrc_carries | apply countUp_carries
    | apply switchEvent_carries | apply foldl_carries | apply foldl_snd_carries | apply foldl_snd2_carries
    | refine Carries.snd (by assumption) ?_ | refine Carries.snd2 (by assumption) ?_ | split | dsimp only | intro)

theorem execSeatLockWrite_carries {z : State} (by_ : Seat) (s : State) (h : Carries z s) :
    ResCarries z (execSeatLockWrite by_ s) := by
  unfold Sys2Proof.Machine.execSeatLockWrite
  with_reducible repeat' (first
    | assumption | apply ite_carries | apply ite_res | apply res_next | apply answer_carries
    | apply seatLockWrite_carries | split | dsimp only | intro)

theorem execSwitchOverrun_carries {z : State} (k : CoreId) (s : State) (h : Carries z s) :
    ResCarries z (execSwitchOverrun k s) := by
  unfold Sys2Proof.Machine.execSwitchOverrun
  with_reducible repeat' (first
    | assumption | apply ite_carries | apply ite_res | apply res_next | apply recordSwitch_carries
    | apply reportFault_carries | apply mapCore_carries | split | dsimp only | intro)

theorem startOnUnit_carries {z : State} (n : Nat) (s : State) (h : Carries z s) :
    Carries z (startOnUnit n s) := by
  unfold Sys2Proof.Machine.startOnUnit
  with_reducible repeat' (first
    | assumption | apply startSlaves_carries | apply each_carries | apply startPair_carries | split | dsimp only
    | intro)

theorem unitEvent_carries {z : State} (n : Nat) (s : State) (h : Carries z s) :
    Carries z (unitEvent n s) := by
  unfold Sys2Proof.Machine.unitEvent
  with_reducible repeat' (first
    | assumption | apply ite_carries | apply each_carries | apply groupEvent_carries | split | dsimp only | intro)

theorem execTbsCompareMatch_carries {z : State} (n : Fin 32) (s : State) (h : Carries z s) :
    ResCarries z (execTbsCompareMatch n s) := by
  unfold Sys2Proof.Machine.execTbsCompareMatch
  with_reducible repeat' (first
    | assumption | apply ite_carries | apply ite_res | apply res_next | apply put_carries | apply raiseSrc_carries
    | apply startOnUnit_carries | apply unitEvent_carries
    | (apply Carries.mk_same; first | assumption | apply put_carries | apply raiseSrc_carries | apply startOnUnit_carries | apply unitEvent_carries | split)
    | split | dsimp only | intro)

theorem dealLockWrite_carries {z : State} (s : State) (h : Carries z s) :
    Carries z (dealLockWrite s) := by
  unfold Sys2Proof.Machine.dealLockWrite
  with_reducible repeat' (first
    | assumption | apply ite_carries | apply put_carries
    | (apply Carries.mk_same; first | assumption | apply put_carries | split) | split | dsimp only | intro)

theorem execDealLockWrite_carries {z : State} (by_ : Seat) (s : State) (h : Carries z s) :
    ResCarries z (execDealLockWrite by_ s) := by
  unfold Sys2Proof.Machine.execDealLockWrite
  with_reducible repeat' (first
    | assumption | apply res_next | apply pageWrite_carries | apply dealLockWrite_carries
    | refine res_next_of (by assumption) ?_ | split | dsimp only | intro)

end Sys2Proof.Laws
end

