-- ==== Sys2Proof/Laws/CarryFab.lean ====
section
/-!
SUPPORT. What every operation of Machine/Fab.lean carries along (Laws/Carries.lean).
-/

set_option linter.all false
set_option Elab.async false

namespace Sys2Proof.Laws

open Sys2Proof.Machine

theorem fabLog_carries {z : State} (kind : Nat) (router : Nat) (port : Nat) (f : Flit) (s : State) (h : Carries z s) :
    Carries z (fabLog kind router port f s) := by
  unfold Sys2Proof.Machine.fabLog
  with_reducible repeat' (first
    | assumption | apply ite_carries | apply put_carries | split | dsimp only | intro)

theorem arriveFlit_carries {z : State} (router : Nat) (port : Nat) (eject : Bool) (f : Flit) (s : State) (h : Carries z s) :
    Carries z (arriveFlit router port eject f s).2 := by
  unfold Sys2Proof.Machine.arriveFlit
  with_reducible repeat' (first
    | assumption | apply ite_carries | apply ite_snd | apply countUp_carries | apply reportFault_carries
    | apply fabLog_carries | split | dsimp only | intro)

theorem execFlitHop_carries {z : State} (router : Fin 38) (out : Fin 16) (eject : Bool) (arrivals : List (Fin 16 × Flit)) (s : State) (h : Carries z s) :
    ResCarries z (execFlitHop router out eject arrivals s) := by
  unfold Sys2Proof.Machine.execFlitHop
  with_reducible repeat' (first
    | assumption | apply ite_carries | apply ite_res | apply res_next | apply arriveFlit_carries
    | apply foldl_carries | apply foldl_snd_carries | apply foldl_snd2_carries
    | refine Carries.snd (by assumption) ?_ | refine Carries.snd2 (by assumption) ?_
    | (apply Carries.mk_same; first | assumption | apply arriveFlit_carries | apply foldl_carries | apply foldl_snd_carries | apply foldl_snd2_carries | refine Carries.snd (by assumption) ?_ | refine Carries.snd2 (by assumption) ?_ | split)
    | split | dsimp only | intro)

theorem answerWithError_carries {z : State} (t : Nat) (s : State) (h : Carries z s) :
    Carries z (answerWithError t s) := by
  unfold Sys2Proof.Machine.answerWithError
  with_reducible repeat' (first
    | assumption | apply ite_carries | apply mapCores_carries | split | dsimp only | intro)

theorem tgtWrite_carries {z : State} (t : Nat) (value : Nat) (s : State) (h : Carries z s) :
    Carries z (tgtWrite t value s) := by
  unfold Sys2Proof.Machine.tgtWrite
  with_reducible repeat' (first
    | assumption | apply ite_carries | apply answerWithError_carries | apply put_carries | split | dsimp only
    | intro)

theorem execTgtIsolate_carries {z : State} (by_ : Seat) (t : BitVec 8) (s : State) (h : Carries z s) :
    ResCarries z (execTgtIsolate by_ t s) := by
  unfold Sys2Proof.Machine.execTgtIsolate
  with_reducible repeat' (first
    | assumption | apply res_next | apply pageWrite_carries | apply tgtWrite_carries
    | refine res_next_of (by assumption) ?_ | split | dsimp only | intro)

theorem execTgtRestore_carries {z : State} (by_ : Seat) (t : BitVec 8) (s : State) (h : Carries z s) :
    ResCarries z (execTgtRestore by_ t s) := by
  unfold Sys2Proof.Machine.execTgtRestore
  with_reducible repeat' (first
    | assumption | apply res_next | apply pageWrite_carries | apply tgtWrite_carries
    | refine res_next_of (by assumption) ?_ | split | dsimp only | intro)

theorem execLateResponse_carries {z : State} (t : BitVec 8) (s : State) (h : Carries z s) :
    ResCarries z (execLateResponse t s) := by
  unfold Sys2Proof.Machine.execLateResponse
  with_reducible repeat' (first
    | assumption | apply ite_carries | apply ite_res | apply res_next | apply countUp_carries | split | dsimp only
    | intro)

theorem execFabQuenchWrite_carries {z : State} (by_ : Seat) (value : Word32) (s : State) (h : Carries z s) :
    ResCarries z (execFabQuenchWrite by_ value s) := by
  unfold Sys2Proof.Machine.execFabQuenchWrite
  with_reducible repeat' (first
    | assumption | apply res_next | apply pageWrite_carries | apply writeFields_carries
    | refine res_next_of (by assumption) ?_ | split | dsimp only | intro)

theorem execDeadTargetTimeout_carries {z : State} (t : BitVec 8) (s : State) (h : Carries z s) :
    ResCarries z (execDeadTargetTimeout t s) := by
  unfold Sys2Proof.Machine.execDeadTargetTimeout
  with_reducible repeat' (first
    | assumption | apply ite_carries | apply ite_res | apply res_next | apply put_carries
    | apply answerWithError_carries | apply reportFault_carries | apply noteSeat_carries | apply raiseSrc_carries
    | apply foldl_carries | apply foldl_snd_carries | apply foldl_snd2_carries
    | refine Carries.snd (by assumption) ?_ | refine Carries.snd2 (by assumption) ?_ | split | dsimp only | intro)

end Sys2Proof.Laws
end

