-- ==== Sys2Proof/Laws/CarryDram.lean ====
section
/-!
SUPPORT. What every operation of Machine/Dram.lean carries along (Laws/Carries.lean).
-/

set_option linter.all false
set_option Elab.async false

namespace Sys2Proof.Laws

open Sys2Proof.Machine

theorem setOverheat_carries {z : State} (c : Nat) (s : State) (h : Carries z s) :
    Carries z (setOverheat c s) := by
  unfold Sys2Proof.Machine.setOverheat
  with_reducible repeat' (first
    | assumption | apply ite_carries | apply reportFault_carries | apply put_carries | apply foldl_carries
    | apply foldl_snd_carries | apply foldl_snd2_carries | refine Carries.snd (by assumption) ?_
    | refine Carries.snd2 (by assumption) ?_ | split | dsimp only | intro)

theorem mapDmc_carries {z : State} (s : State) (c : Nat) (f : Dmc → Dmc) (h : Carries z s) :
    Carries z (State.mapDmc s c f) := by
  unfold Sys2Proof.Machine.State.mapDmc
  with_reducible repeat' (first
    | assumption | (apply Carries.mk_same; first | assumption | split) | split | dsimp only | intro)

theorem execDmcScrubRead_carries {z : State} (c : Fin 4) (u : Upset) (s : State) (h : Carries z s) :
    ResCarries z (execDmcScrubRead c u s) := by
  unfold Sys2Proof.Machine.execDmcScrubRead
  with_reducible repeat' (first
    | assumption | apply ite_carries | apply ite_res | apply res_next | apply memUpset_carries
    | apply mapDmc_carries | apply countUp_carries | split | dsimp only | intro)

theorem touchRow_carries {z : State} (c : Nat) (r : DmcReq) (s : State) (h : Carries z s) :
    Carries z (touchRow c r s) := by
  unfold Sys2Proof.Machine.touchRow
  with_reducible repeat' (first
    | assumption | apply ite_carries | apply mapDmc_carries | split | dsimp only | intro)

theorem serveReq_carries {z : State} (c : Nat) (r : DmcReq) (s : State) (h : Carries z s) :
    Carries z (serveReq c r s) := by
  unfold Sys2Proof.Machine.serveReq
  with_reducible repeat' (first
    | assumption | apply touchRow_carries | apply mapDmc_carries | split | dsimp only | intro)

theorem serveBestEffort_carries {z : State} (c : Nat) (p : DmcReq → Bool) (x1 : Nat) (x2 : State) (h_x2 : Carries z x2) :
    Carries z (serveBestEffort c p x1 x2) := by
  induction x1 generalizing c p x2 with
  | zero =>
    unfold Sys2Proof.Machine.serveBestEffort
    with_reducible repeat' (first
      | assumption | apply serveReq_carries | split | dsimp only | intro)
  | succ n ih =>
    unfold Sys2Proof.Machine.serveBestEffort
    with_reducible repeat' (first
      | assumption | apply ih | apply serveReq_carries | split | dsimp only | intro)

theorem serveGuaranteed_carries {z : State} (c : Nat) (seat : Nat) (x1 : Nat) (x2 : State) (h_x2 : Carries z x2) :
    Carries z (serveGuaranteed c seat x1 x2) := by
  induction x1 generalizing c seat x2 with
  | zero =>
    unfold Sys2Proof.Machine.serveGuaranteed
    with_reducible repeat' (first
      | assumption | apply serveReq_carries | split | dsimp only | intro)
  | succ n ih =>
    unfold Sys2Proof.Machine.serveGuaranteed
    with_reducible repeat' (first
      | assumption | apply ih | apply serveReq_carries | split | dsimp only | intro)

theorem channelSlot_carries {z : State} (c : Nat) (s : State) (h : Carries z s) :
    Carries z (channelSlot c s) := by
  unfold Sys2Proof.Machine.channelSlot
  with_reducible repeat' (first
    | assumption | apply ite_carries | apply serveBestEffort_carries | apply mapDmc_carries
    | apply serveGuaranteed_carries | split | dsimp only | intro)

theorem dramSlot_carries {z : State} (s : State) (h : Carries z s) :
    Carries z (dramSlot s) := by
  unfold Sys2Proof.Machine.dramSlot
  with_reducible repeat' (first
    | assumption | apply each_carries | apply channelSlot_carries | split | dsimp only | intro)

theorem execDealLockActivate_carries {z : State} (u : Upset) (s : State) (h : Carries z s) :
    ResCarries z (execDealLockActivate u s) := by
  unfold Sys2Proof.Machine.execDealLockActivate
  with_reducible repeat' (first
    | assumption | apply ite_carries | apply ite_res | apply res_next | apply dramSlot_carries
    | apply nextSlot_carries | split | dsimp only | intro)

theorem execDmcRequest_carries {z : State} (c : Fin 4) (port : Fin 16) (seat : Seat) (pa : BitVec 48) (write : Bool) (guar : Bool) (hint : Fin 4) (s : State) (h : Carries z s) :
    ResCarries z (execDmcRequest c port seat pa write guar hint s) := by
  unfold Sys2Proof.Machine.execDmcRequest
  with_reducible repeat' (first
    | assumption | apply ite_carries | apply ite_res | apply res_next | apply put_carries | apply mapDmc_carries
    | split | dsimp only | intro)

theorem bcfgWrite_carries {z : State} (b : Nat) (value : Nat) (s : State) (h : Carries z s) :
    Carries z (bcfgWrite b value s) := by
  unfold Sys2Proof.Machine.bcfgWrite
  with_reducible repeat' (first
    | assumption | apply ite_carries | apply writeFields_carries
    | (apply Carries.mk_same; first | assumption | apply writeFields_carries | split) | split | dsimp only | intro)

theorem execDstoreScrubRead_carries {z : State} (b : Fin 32) (u : Upset) (s : State) (h : Carries z s) :
    ResCarries z (execDstoreScrubRead b u s) := by
  unfold Sys2Proof.Machine.execDstoreScrubRead
  with_reducible repeat' (first
    | assumption | apply ite_carries | apply ite_res | apply res_next | apply countUp_carries
    | apply memUpset_carries
    | (apply Carries.mk_same; first | assumption | apply countUp_carries | apply memUpset_carries | split) | split
    | dsimp only | intro)

theorem execDmcSelfRefresh_carries {z : State} (c : Fin 4) (postpone : Bool) (s : State) (h : Carries z s) :
    ResCarries z (execDmcSelfRefresh c postpone s) := by
  unfold Sys2Proof.Machine.execDmcSelfRefresh
  with_reducible repeat' (first
    | assumption | apply ite_carries | apply ite_res | apply res_next | apply mapDmc_carries | split | dsimp only
    | intro)

theorem execDstoreZeroDone_carries {z : State} (b : Fin 32) (s : State) (h : Carries z s) :
    ResCarries z (execDstoreZeroDone b s) := by
  unfold Sys2Proof.Machine.execDstoreZeroDone
  with_reducible repeat' (first
    | assumption | apply ite_carries | apply ite_res | apply res_next | apply putBit_carries | apply zeroMem_carries
    | split | dsimp only | intro)

theorem execDmcTempRead_carries {z : State} (c : Fin 4) (t0 : BitVec 8) (t1 : BitVec 8) (s : State) (h : Carries z s) :
    ResCarries z (execDmcTempRead c t0 t1 s) := by
  unfold Sys2Proof.Machine.execDmcTempRead
  with_reducible repeat' (first
    | assumption | apply ite_carries | apply ite_res | apply res_next | apply put_carries | apply mapDmc_carries
    | apply setOverheat_carries | split | dsimp only | intro)

theorem execUrgencyEscalation_carries {z : State} (c : Fin 4) (i : Nat) (s : State) (h : Carries z s) :
    ResCarries z (execUrgencyEscalation c i s) := by
  unfold Sys2Proof.Machine.execUrgencyEscalation
  with_reducible repeat' (first
    | assumption | apply ite_carries | apply ite_res | apply res_next | apply mapDmc_carries | apply countUp_carries
    | split | dsimp only | intro)

theorem execCrcAlertReplay_carries {z : State} (c : Fin 4) (u : Upset) (s : State) (h : Carries z s) :
    ResCarries z (execCrcAlertReplay c u s) := by
  unfold Sys2Proof.Machine.execCrcAlertReplay
  with_reducible repeat' (first
    | assumption | apply res_next | apply memUpset_carries | apply countUp_carries | split | dsimp only | intro)

theorem execWriteQueueDrain_carries {z : State} (c : Fin 4) (u : Upset) (s : State) (h : Carries z s) :
    ResCarries z (execWriteQueueDrain c u s) := by
  unfold Sys2Proof.Machine.execWriteQueueDrain
  with_reducible repeat' (first
    | assumption | apply ite_carries | apply ite_res | apply res_next | apply serveReq_carries
    | apply memUpset_carries | apply foldl_carries | apply foldl_snd_carries | apply foldl_snd2_carries
    | refine Carries.snd (by assumption) ?_ | refine Carries.snd2 (by assumption) ?_ | split | dsimp only | intro)

theorem execSlotStart_carries {z : State} (u : Upset) (s : State) (h : Carries z s) :
    ResCarries z (execSlotStart u s) := by
  unfold Sys2Proof.Machine.execSlotStart
  with_reducible repeat' (first
    | assumption | apply ite_carries | apply ite_res | apply res_next | apply dramSlot_carries
    | apply nextSlot_carries | split | dsimp only | intro)

theorem execDramTrainingDone_carries {z : State} (c : Fin 4) (geom : Option Word32) (s : State) (h : Carries z s) :
    ResCarries z (execDramTrainingDone c geom s) := by
  unfold Sys2Proof.Machine.execDramTrainingDone
  with_reducible repeat' (first
    | assumption | apply ite_carries | apply ite_res | apply res_next | apply put_carries | apply each_carries
    | apply draw_carries | apply setReg_carries | refine Carries.snd (by assumption) ?_ | split | dsimp only | intro)

theorem execRowIdleClose_carries {z : State} (c : Fin 4) (bank : Nat) (s : State) (h : Carries z s) :
    ResCarries z (execRowIdleClose c bank s) := by
  unfold Sys2Proof.Machine.execRowIdleClose
  with_reducible repeat' (first
    | assumption | apply ite_carries | apply ite_res | apply res_next | apply mapDmc_carries | split | dsimp only
    | intro)

theorem bsetWrite_carries {z : State} (c : Nat) (seat : Nat) (value : Nat) (s : State) (h : Carries z s) :
    Carries z (bsetWrite c seat value s) := by
  unfold Sys2Proof.Machine.bsetWrite
  with_reducible repeat' (first
    | assumption | apply ite_carries | apply put_carries | split | dsimp only | intro)

theorem execBsetWrite_carries {z : State} (by_ : Seat) (c : Fin 4) (seat : Seat) (value : Word32) (s : State) (h : Carries z s) :
    ResCarries z (execBsetWrite by_ c seat value s) := by
  unfold Sys2Proof.Machine.execBsetWrite
  with_reducible repeat' (first
    | assumption | apply ite_carries | apply ite_res | apply res_next | apply pageWrite_carries
    | apply bsetWrite_carries | refine res_next_of (by assumption) ?_ | split | dsimp only | intro)

theorem execDstoreBcfgWrite_carries {z : State} (by_ : Seat) (b : Fin 32) (value : Word32) (s : State) (h : Carries z s) :
    ResCarries z (execDstoreBcfgWrite by_ b value s) := by
  unfold Sys2Proof.Machine.execDstoreBcfgWrite
  with_reducible repeat' (first
    | assumption | apply res_next | apply pageWrite_carries | apply bcfgWrite_carries
    | refine res_next_of (by assumption) ?_ | split | dsimp only | intro)

end Sys2Proof.Laws
end

