-- ==== Sys2Proof/Laws/CarryLcc.lean ====
section
/-!
SUPPORT. What every operation of Machine/Lcc.lean carries along (Laws/Carries.lean).
-/

set_option linter.all false
set_option Elab.async false

namespace Sys2Proof.Laws

open Sys2Proof.Machine

theorem pcmdWrite_carries {z : State} (op : Nat) (f : Nat) (s : State) (h : Carries z s) :
    Carries z (pcmdWrite op f s) := by
  unfold Sys2Proof.Machine.pcmdWrite
  with_reducible repeat' (first
    | assumption | apply ite_carries | apply put_carries
    | (apply Carries.mk_same; first | assumption | apply put_carries | split) | split | dsimp only | intro)

theorem pcmdBy_carries {z : State} (by_ : Seat) (op : Nat) (f : Nat) (s : State) (h : Carries z s) :
    Carries z (pcmdBy by_ op f s) := by
  unfold Sys2Proof.Machine.pcmdBy
  with_reducible repeat' (first
    | assumption | apply ite_carries | apply answer_carries | apply pcmdWrite_carries | split | dsimp only | intro)

theorem execCounterRaise_carries {z : State} (by_ : Seat) (field : BitVec 8) (s : State) (h : Carries z s) :
    ResCarries z (execCounterRaise by_ field s) := by
  unfold Sys2Proof.Machine.execCounterRaise
  with_reducible repeat' (first
    | assumption | apply res_next | apply pcmdBy_carries | split | dsimp only | intro)

theorem fuseLoad_carries {z : State} (damage : List Nat) (s : State) (h : Carries z s) :
    Carries z (fuseLoad damage s) := by
  unfold Sys2Proof.Machine.fuseLoad
  with_reducible repeat' (first
    | assumption | apply put_carries | (apply Carries.mk_same; first | assumption | apply put_carries | split)
    | split | dsimp only | intro)

theorem noteWorn_carries {z : State} (n : Nat) (s : State) (h : Carries z s) :
    Carries z (noteWorn n s) := by
  unfold Sys2Proof.Machine.noteWorn
  with_reducible repeat' (first
    | assumption | apply ite_carries | apply noteManager_carries | apply noteSeat_carries | split | dsimp only
    | intro)

theorem prsStore_carries {z : State} (n : Nat) (v : Nat) (s : State) (h : Carries z s) :
    Carries z (prsStore n v s).2 := by
  unfold Sys2Proof.Machine.prsStore
  with_reducible repeat' (first
    | assumption | apply ite_carries | apply ite_snd | apply put_carries | apply writeMem_carries
    | apply noteWorn_carries | apply raiseSrc_carries | split | dsimp only | intro)

theorem blow_carries {z : State} (s : State) (l : List Nat) (h : Carries z s) :
    Carries z (State.blow s l) := by
  refine h.blow _ (fun i hi => ?_)
  have key : ∀ (l : List Nat) (v : BitVec 8192), v.getLsbD i = true →
      (l.foldl (fun v j => v ||| BitVec.ofNat 8192 (2 ^ j)) v).getLsbD i = true := by
    intro l
    induction l with
    | nil => exact fun _ hv => hv
    | cons j rest ih => exact fun v hv => ih _ (by simp [hv])
  exact key l _ hi

theorem fuseBlown_carries {z : State} (op : Nat) (f : Nat) (l : List Nat) (s : State) (h : Carries z s) :
    Carries z (fuseBlown op f l s) := by
  unfold Sys2Proof.Machine.fuseBlown
  with_reducible repeat' (first
    | assumption | apply ite_carries | apply blow_carries | apply put_carries
    | (apply Carries.mk_same; first | assumption | apply blow_carries | apply put_carries | split) | split
    | dsimp only | intro)

theorem fuseOpDone_carries {z : State} (stuck : List Nat) (s : State) (h : Carries z s) :
    Carries z (fuseOpDone stuck s) := by
  unfold Sys2Proof.Machine.fuseOpDone
  with_reducible repeat' (first
    | assumption | apply ite_carries | apply fuseBlown_carries | apply put_carries
    | (apply Carries.mk_same; first | assumption | apply fuseBlown_carries | apply put_carries | split) | split
    | dsimp only | intro)

theorem execLccOpDone_carries {z : State} (stuck : List (Fin 8192)) (s : State) (h : Carries z s) :
    ResCarries z (execLccOpDone stuck s) := by
  unfold Sys2Proof.Machine.execLccOpDone
  with_reducible repeat' (first
    | assumption | apply res_next | apply fuseOpDone_carries | split | dsimp only | intro)

theorem execFuseWrite_carries {z : State} (by_ : Seat) (field : BitVec 8) (s : State) (h : Carries z s) :
    ResCarries z (execFuseWrite by_ field s) := by
  unfold Sys2Proof.Machine.execFuseWrite
  with_reducible repeat' (first
    | assumption | apply res_next | apply pcmdBy_carries | split | dsimp only | intro)

theorem execFieldDestroy_carries {z : State} (by_ : Seat) (field : BitVec 8) (s : State) (h : Carries z s) :
    ResCarries z (execFieldDestroy by_ field s) := by
  unfold Sys2Proof.Machine.execFieldDestroy
  with_reducible repeat' (first
    | assumption | apply res_next | apply pcmdBy_carries | split | dsimp only | intro)

theorem execFuseBlow_carries {z : State} (by_ : Seat) (field : BitVec 8) (s : State) (h : Carries z s) :
    ResCarries z (execFuseBlow by_ field s) := by
  unfold Sys2Proof.Machine.execFuseBlow
  with_reducible repeat' (first
    | assumption | apply res_next | apply pcmdBy_carries | split | dsimp only | intro)

theorem prsWriteBy_carries {z : State} (seat : Nat) (n : Nat) (v : Nat) (s : State) (h : Carries z s) :
    Carries z (prsWriteBy seat n v s).2 := by
  unfold Sys2Proof.Machine.prsWriteBy
  with_reducible repeat' (first
    | assumption | apply ite_carries | apply ite_snd | apply seatViolation_carries | apply prsStore_carries
    | refine Carries.snd (by assumption) ?_ | split | dsimp only | intro)

theorem fuseOpCut_carries {z : State} (n : Nat) (s : State) (h : Carries z s) :
    Carries z (fuseOpCut n s) := by
  unfold Sys2Proof.Machine.fuseOpCut
  with_reducible repeat' (first
    | assumption | apply fuseBlown_carries
    | (apply Carries.mk_same; first | assumption | apply fuseBlown_carries | split) | split | dsimp only | intro)

theorem prsPut_carries {z : State} (n : Nat) (v : Nat) (s : State) (h : Carries z s) :
    Carries z (prsPut n v s) := by
  unfold Sys2Proof.Machine.prsPut
  with_reducible repeat' (first
    | assumption | apply prsStore_carries | refine Carries.snd (by assumption) ?_ | split | dsimp only | intro)

theorem execTrngRecover_carries {z : State} (s : State) (h : Carries z s) :
    ResCarries z (execTrngRecover s) := by
  unfold Sys2Proof.Machine.execTrngRecover
  with_reducible repeat' (first
    | assumption | apply res_next | apply put_carries | split | dsimp only | intro)

theorem fuseNow_carries {z : State} (op : Nat) (f : Nat) (data : Nat) (s : State) (h : Carries z s) :
    OptCarries z (fuseNow op f data s) := by
  unfold Sys2Proof.Machine.fuseNow
  with_reducible repeat' (first
    | assumption | apply ite_carries | apply ite_opt | apply opt_some | apply opt_none | apply fuseBlown_carries
    | split | dsimp only | intro)

theorem fuseTry_carries {z : State} (op : Nat) (f : Nat) (data : Nat) (s : State) (h : Carries z s) :
    Carries z (fuseTry op f data s) := by
  unfold Sys2Proof.Machine.fuseTry
  with_reducible repeat' (first
    | assumption | apply fuseNow_carries | refine OptCarries.get (by assumption) ?_ | apply getD_carries | split
    | dsimp only | intro)

theorem prsErase_carries {z : State} (from_ : Nat) (s : State) (h : Carries z s) :
    Carries z (prsErase from_ s) := by
  unfold Sys2Proof.Machine.prsErase
  with_reducible repeat' (first
    | assumption | apply zeroMem_carries | split | dsimp only | intro)

theorem execCreJobDone_carries {z : State} (s : State) (h : Carries z s) :
    ResCarries z (execCreJobDone s) := by
  unfold Sys2Proof.Machine.execCreJobDone
  with_reducible repeat' (first
    | assumption | apply ite_carries | apply ite_res | apply res_next | apply respond_carries
    | (apply Carries.mk_same; first | assumption | apply respond_carries | split) | split | dsimp only | intro)

theorem execTrngHealthFail_carries {z : State} (s : State) (h : Carries z s) :
    ResCarries z (execTrngHealthFail s) := by
  unfold Sys2Proof.Machine.execTrngHealthFail
  with_reducible repeat' (first
    | assumption | apply res_next | apply raiseSrc_carries | apply put_carries | split | dsimp only | intro)

theorem execPrsWrite_carries {z : State} (by_ : Seat) (word : Fin 1024) (value : Word32) (s : State) (h : Carries z s) :
    ResCarries z (execPrsWrite by_ word value s) := by
  unfold Sys2Proof.Machine.execPrsWrite
  with_reducible repeat' (first
    | assumption | apply ite_carries | apply ite_res | apply res_next | apply prsWriteBy_carries
    | apply answer_carries | refine Carries.snd (by assumption) ?_ | split | dsimp only | intro)

end Sys2Proof.Laws
end

