-- ==== Sys2Proof/Laws/CarryNet.lean ====
section
/-!
SUPPORT. What every operation of Machine/Net.lean carries along (Laws/Carries.lean).
-/

set_option linter.all false
set_option Elab.async false

namespace Sys2Proof.Laws

open Sys2Proof.Machine

theorem readDesc_carries {z : State} (seat : Nat) (a : Nat) (s : State) (h : Carries z s) :
    Carries z (readDesc seat a s).2 := by
  unfold Sys2Proof.Machine.readDesc
  with_reducible repeat' (first
    | assumption | apply dmaRead_carries | refine Carries.snd (by assumption) ?_ | split | dsimp only | intro)

theorem completeDesc_carries {z : State} (seat : Nat) (a : Nat) (sts : Nat) (ts : Option Nat) (s : State) (h : Carries z s) :
    Carries z (completeDesc seat a sts ts s) := by
  unfold Sys2Proof.Machine.completeDesc
  with_reducible repeat' (first
    | assumption | apply dmaWrite_carries | refine Carries.snd (by assumption) ?_ | split | dsimp only | intro)

theorem writeBuffer_carries {z : State} (seat : Nat) (x1 : Nat) (x2 : List Byte) (x3 : State) (h_x3 : Carries z x3) :
    Carries z (writeBuffer seat x1 x2 x3).2 := by
  induction x2 generalizing seat x1 x3 with
  | nil =>
    unfold Sys2Proof.Machine.writeBuffer
    with_reducible repeat' (first
      | assumption | apply dmaWrite_carries | refine Carries.snd (by assumption) ?_ | split | dsimp only | intro)
  | cons hd tl ih =>
    unfold Sys2Proof.Machine.writeBuffer
    with_reducible repeat' (first
      | assumption | apply ih | apply dmaWrite_carries | refine Carries.snd (by assumption) ?_ | split | dsimp only
      | intro)

theorem deliverFrame_carries {z : State} (data : List Byte) (seat : Nat) (s : State) (h : Carries z s) :
    Carries z (deliverFrame data seat s) := by
  unfold Sys2Proof.Machine.deliverFrame
  with_reducible repeat' (first
    | extract_lets | apply ite_carries | assumption | apply countUp_carries | apply readDesc_carries
    | apply completeDesc_carries | apply raiseSrc_carries | apply put_carries | apply writeBuffer_carries
    | refine Carries.snd (by assumption) ?_ | split | intro)

theorem execFrameReceive_carries {z : State} (data : List Byte) (seats : List Seat) (s : State) (h : Carries z s) :
    ResCarries z (execFrameReceive data seats s) := by
  unfold Sys2Proof.Machine.execFrameReceive
  with_reducible repeat' (first
    | assumption | apply ite_carries | apply ite_res | apply res_next | apply each_carries
    | apply deliverFrame_carries | split | dsimp only | intro)

theorem txDone_carries {z : State} (n : Nat) (ci : Nat) (s : State) (h : Carries z s) :
    Carries z (txDone n ci s) := by
  unfold Sys2Proof.Machine.txDone
  with_reducible repeat' (first
    | assumption | apply raiseSrc_carries | apply put_carries | split | dsimp only | intro)

theorem txRefused_carries {z : State} (n : Nat) (ci : Nat) (a : Nat) (s : State) (h : Carries z s) :
    Carries z (txRefused n ci a s) := by
  unfold Sys2Proof.Machine.txRefused
  with_reducible repeat' (first
    | assumption | apply txDone_carries | apply completeDesc_carries | apply put_carries | split | dsimp only
    | intro)

theorem hqTxpi_carries {z : State} (seat : Nat) (v : Nat) (s : State) (h : Carries z s) :
    Carries z (hqTxpi seat v s) := by
  unfold Sys2Proof.Machine.hqTxpi
  with_reducible repeat' (first
    | assumption | apply ite_carries | apply put_carries | split | dsimp only | intro)

theorem execHqRxciWrite_carries {z : State} (by_ : Seat) (value : Word32) (s : State) (h : Carries z s) :
    ResCarries z (execHqRxciWrite by_ value s) := by
  unfold Sys2Proof.Machine.execHqRxciWrite
  with_reducible repeat' (first
    | assumption | apply ite_carries | apply ite_res | apply res_next | apply answer_carries | apply put_carries
    | split | dsimp only | intro)

theorem execEthLinkChange_carries {z : State} (port : Fin 5) (speed : Nat) (s : State) (h : Carries z s) :
    ResCarries z (execEthLinkChange port speed s) := by
  unfold Sys2Proof.Machine.execEthLinkChange
  with_reducible repeat' (first
    | assumption | apply ite_carries | apply ite_res | apply res_next
    | (apply Carries.mk_same; first | assumption | split) | split | dsimp only | intro)

theorem execGateWindowOpen_carries {z : State} (port : Fin 4) (classes : BitVec 8) (s : State) (h : Carries z s) :
    ResCarries z (execGateWindowOpen port classes s) := by
  unfold Sys2Proof.Machine.execGateWindowOpen
  with_reducible repeat' (first
    | assumption | apply res_next | (apply Carries.mk_same; first | assumption | split) | split | dsimp only | intro)

theorem readBuffer_carries {z : State} (seat : Nat) (x1 : Nat) (x2 : Nat) (x3 : State) (h_x3 : Carries z x3) :
    Carries z (readBuffer seat x1 x2 x3).2 := by
  induction x2 generalizing seat x1 x3 with
  | zero =>
    unfold Sys2Proof.Machine.readBuffer
    with_reducible repeat' (first
      | assumption | apply dmaRead_carries | refine Carries.snd (by assumption) ?_ | split | dsimp only | intro)
  | succ n ih =>
    unfold Sys2Proof.Machine.readBuffer
    with_reducible repeat' (first
      | assumption | apply ih | apply dmaRead_carries | refine Carries.snd (by assumption) ?_ | split | dsimp only
      | intro)

theorem txSent_carries {z : State} (n : Nat) (ci : Nat) (a : Nat) (port : Nat) (tc : Nat) (ts : Option Nat) (data : List Byte) (s : State) (h : Carries z s) :
    Carries z (txSent n ci a port tc ts data s) := by
  unfold Sys2Proof.Machine.txSent
  with_reducible repeat' (first
    | assumption | apply txDone_carries | apply completeDesc_carries
    | (apply Carries.mk_same; first | assumption | apply txDone_carries | apply completeDesc_carries | split)
    | split | dsimp only | intro)

theorem txFrame_carries {z : State} (n : Nat) (ci : Nat) (a : Nat) (port : Nat) (d : HqDesc) (s : State) (h : Carries z s) :
    OptCarries z (txFrame n ci a port d s) := by
  unfold Sys2Proof.Machine.txFrame
  with_reducible repeat' (first
    | assumption | apply ite_carries | apply ite_opt | apply opt_some | apply opt_none | apply readBuffer_carries
    | apply txRefused_carries | apply txSent_carries | refine Carries.snd (by assumption) ?_ | split | dsimp only
    | intro)

theorem execHqTxpiWrite_carries {z : State} (by_ : Seat) (value : Word32) (s : State) (h : Carries z s) :
    ResCarries z (execHqTxpiWrite by_ value s) := by
  unfold Sys2Proof.Machine.execHqTxpiWrite
  with_reducible repeat' (first
    | assumption | apply ite_carries | apply ite_res | apply res_next | apply answer_carries | apply hqTxpi_carries
    | split | dsimp only | intro)

theorem execGpioReadbackMismatch_carries {z : State} (pin : Fin 96) (s : State) (h : Carries z s) :
    ResCarries z (execGpioReadbackMismatch pin s) := by
  unfold Sys2Proof.Machine.execGpioReadbackMismatch
  with_reducible repeat' (first
    | assumption | apply res_next | apply raiseSrc_carries
    | (apply Carries.mk_same; first | assumption | apply raiseSrc_carries | split) | split | dsimp only | intro)

theorem execInauguration_carries {z : State} (entitled : List Seat) (s : State) (h : Carries z s) :
    ResCarries z (execInauguration entitled s) := by
  unfold Sys2Proof.Machine.execInauguration
  with_reducible repeat' (first
    | assumption | apply res_next | apply noteIn_carries | apply foldl_carries | apply foldl_snd_carries
    | apply foldl_snd2_carries | refine Carries.snd (by assumption) ?_ | refine Carries.snd2 (by assumption) ?_
    | split | dsimp only | intro)

theorem execLegacyBusReceive_carries {z : State} (c : Fin 20) (data : List Byte) (s : State) (h : Carries z s) :
    ResCarries z (execLegacyBusReceive c data s) := by
  unfold Sys2Proof.Machine.execLegacyBusReceive
  with_reducible repeat' (first
    | assumption | apply ite_carries | apply ite_res | apply res_next | apply raiseSrc_carries
    | (apply Carries.mk_same; first | assumption | apply raiseSrc_carries | split) | split | dsimp only | intro)

theorem execHqTxComplete_carries {z : State} (seat : Seat) (granted : Bool) (port : Fin 6) (s : State) (h : Carries z s) :
    ResCarries z (execHqTxComplete seat granted port s) := by
  unfold Sys2Proof.Machine.execHqTxComplete
  with_reducible repeat' (first
    | extract_lets | apply ite_carries | apply ite_res | assumption | apply res_next | apply readDesc_carries
    | apply txRefused_carries | apply txFrame_carries | refine Carries.snd (by assumption) ?_
    | refine OptCarries.get (by assumption) ?_ | apply getD_carries | split | intro)

end Sys2Proof.Laws
end

