-- ==== Sys2Proof/Laws/CarryUcl.lean ====
section
/-!
SUPPORT. What every operation of Machine/Ucl.lean carries along (Laws/Carries.lean).
-/

set_option linter.all false
set_option Elab.async false

namespace Sys2Proof.Laws

open Sys2Proof.Machine

theorem remoteErrors_carries {z : State} (p : Nat → Bool) (seat : Option Nat) (s : State) (h : Carries z s) :
    Carries z (remoteErrors p seat s) := by
  unfold Sys2Proof.Machine.remoteErrors
  with_reducible repeat' (first
    | assumption | apply ite_carries | apply mapCores_carries | split | dsimp only | intro)

theorem reportPort_carries {z : State} (n : Nat) (up : Bool) (s : State) (h : Carries z s) :
    Carries z (reportPort n up s) := by
  unfold Sys2Proof.Machine.reportPort
  with_reducible repeat' (first
    | assumption | apply sendMsg_carries | apply mapSession_carries | split | dsimp only | intro)

theorem portDown_carries {z : State} (n : Nat) (s : State) (h : Carries z s) :
    Carries z (portDown n s) := by
  unfold Sys2Proof.Machine.portDown
  with_reducible repeat' (first
    | assumption | apply ite_carries | apply remoteErrors_carries | apply put_carries | apply raiseSrc_carries
    | apply reportPort_carries | split | dsimp only | intro)

theorem clearSent_carries {z : State} (s : State) (h : Carries z s) :
    Carries z (clearSent s) := by
  unfold Sys2Proof.Machine.clearSent
  with_reducible repeat' (first
    | assumption | (apply Carries.mk_same; first | assumption | split) | split | dsimp only | intro)

theorem execPortDown_carries {z : State} (port : Fin 4) (s : State) (h : Carries z s) :
    ResCarries z (execPortDown port s) := by
  unfold Sys2Proof.Machine.execPortDown
  with_reducible repeat' (first
    | assumption | apply res_next | apply portDown_carries | apply clearSent_carries | split | dsimp only | intro)

theorem mapUport_carries {z : State} (s : State) (n : Nat) (f : UclPort → UclPort) (h : Carries z s) :
    Carries z (State.mapUport s n f) := by
  unfold Sys2Proof.Machine.State.mapUport
  with_reducible repeat' (first
    | assumption | (apply Carries.mk_same; first | assumption | split) | split | dsimp only | intro)

theorem sendCell_carries {z : State} (n : Nat) (c : Cell) (s : State) (h : Carries z s) :
    Carries z (sendCell n c s) := by
  unfold Sys2Proof.Machine.sendCell
  with_reducible repeat' (first
    | assumption | apply ite_carries | apply mapUport_carries
    | (apply Carries.mk_same; first | assumption | apply mapUport_carries | split) | split | dsimp only | intro)

theorem setRemote_carries {z : State} (s : State) (r : Remote) (h : Carries z s) :
    Carries z (State.setRemote s r) := by
  unfold Sys2Proof.Machine.State.setRemote
  with_reducible repeat' (first
    | assumption | (apply Carries.mk_same; first | assumption | split) | split | dsimp only | intro)

theorem execRemoteTimeout_carries {z : State} (dev : BitVec 12) (s : State) (h : Carries z s) :
    ResCarries z (execRemoteTimeout dev s) := by
  unfold Sys2Proof.Machine.execRemoteTimeout
  with_reducible repeat' (first
    | assumption | apply ite_carries | apply ite_res | apply res_next | apply setRemote_carries
    | apply remoteErrors_carries | split | dsimp only | intro)

theorem execPortUp_carries {z : State} (port : Fin 4) (s : State) (h : Carries z s) :
    ResCarries z (execPortUp port s) := by
  unfold Sys2Proof.Machine.execPortUp
  with_reducible repeat' (first
    | assumption | apply ite_carries | apply ite_res | apply res_next | apply mapUport_carries
    | apply clearSent_carries | apply put_carries | apply reportPort_carries | apply raiseSrc_carries | split
    | dsimp only | intro)

theorem deviceAssigned_carries {z : State} (dev : Nat) (s : State) (h : Carries z s) :
    Carries z (deviceAssigned dev s) := by
  unfold Sys2Proof.Machine.deviceAssigned
  with_reducible repeat' (first
    | assumption | apply ite_carries | apply put_carries
    | (apply Carries.mk_same; first | assumption | apply put_carries | split) | split | dsimp only | intro)

theorem replayFrom_carries {z : State} (n : Nat) (ack : Nat) (s : State) (h : Carries z s) :
    Carries z (replayFrom n ack s) := by
  unfold Sys2Proof.Machine.replayFrom
  with_reducible repeat' (first
    | assumption | apply ite_carries | apply mapUport_carries | apply countUp_carries | apply portDown_carries
    | (apply Carries.mk_same; first | assumption | apply mapUport_carries | apply countUp_carries | apply portDown_carries | split)
    | split | dsimp only | intro)

theorem sendNak_carries {z : State} (n : Nat) (own : Nat) (s : State) (h : Carries z s) :
    Carries z (sendNak n own s) := by
  unfold Sys2Proof.Machine.sendNak
  with_reducible repeat' (first
    | assumption | apply sendCell_carries | split | dsimp only | intro)

theorem respondCell_carries {z : State} (n : Nat) (req : Cell) (own : Nat) (status : Nat) (data : List Byte) (s : State) (h : Carries z s) :
    Carries z (respondCell n req own status data s) := by
  unfold Sys2Proof.Machine.respondCell
  with_reducible repeat' (first
    | assumption | apply sendCell_carries | split | dsimp only | intro)

theorem stoptxWrite_carries {z : State} (v : Nat) (s : State) (h : Carries z s) :
    Carries z (stoptxWrite v s) := by
  unfold Sys2Proof.Machine.stoptxWrite
  with_reducible repeat' (first
    | assumption | apply ite_carries | apply clearSent_carries | apply each_carries | apply sendCell_carries
    | apply foldl_carries | apply foldl_snd_carries | apply foldl_snd2_carries
    | refine Carries.snd (by assumption) ?_ | refine Carries.snd2 (by assumption) ?_
    | (apply Carries.mk_same; first | assumption | apply clearSent_carries | apply each_carries | apply sendCell_carries | apply foldl_carries | apply foldl_snd_carries | apply foldl_snd2_carries | refine Carries.snd (by assumption) ?_ | refine Carries.snd2 (by assumption) ?_ | split)
    | split | dsimp only | intro)

theorem rdstWrite_carries {z : State} (v : Nat) (s : State) (h : Carries z s) :
    Carries z (rdstWrite v s) := by
  unfold Sys2Proof.Machine.rdstWrite
  with_reducible repeat' (first
    | assumption | apply ite_carries | apply remoteErrors_carries | apply setRemote_carries | split | dsimp only
    | intro)

theorem mgtArrives_carries {z : State} (src : Nat) (c : Cell) (s : State) (h : Carries z s) :
    Carries z (mgtArrives src c s) := by
  unfold Sys2Proof.Machine.mgtArrives
  with_reducible repeat' (first
    | assumption | apply ite_carries | (apply Carries.mk_same; first | assumption | split) | split | dsimp only
    | intro)

theorem actOnStop_carries {z : State} (bcast : Bool) (seat : Nat) (s : State) (h : Carries z s) :
    Carries z (actOnStop bcast seat s) := by
  unfold Sys2Proof.Machine.actOnStop
  with_reducible repeat' (first
    | assumption | apply ite_carries | apply put_carries | apply raiseSrc_carries | apply countUp_carries
    | apply remoteErrors_carries | apply putBit_carries | apply enterSeatSafe_carries | split | dsimp only | intro)

theorem stopArrives_carries {z : State} (n : Nat) (src : Nat) (bcast : Bool) (dest : Nat) (seat : Nat) (id : Nat) (copy : Nat) (s : State) (h : Carries z s) :
    Carries z (stopArrives n src bcast dest seat id copy s) := by
  unfold Sys2Proof.Machine.stopArrives
  with_reducible repeat' (first
    | assumption | apply ite_carries | apply sendCell_carries | apply actOnStop_carries | apply foldl_carries
    | apply foldl_snd_carries | apply foldl_snd2_carries | refine Carries.snd (by assumption) ?_
    | refine Carries.snd2 (by assumption) ?_
    | (apply Carries.mk_same; first | assumption | apply sendCell_carries | apply actOnStop_carries | apply foldl_carries | apply foldl_snd_carries | apply foldl_snd2_carries | refine Carries.snd (by assumption) ?_ | refine Carries.snd2 (by assumption) ?_ | split)
    | split | dsimp only | intro)

theorem forwardCell_carries {z : State} (n : Nat) (own : Nat) (c : Cell) (s : State) (h : Carries z s) :
    Carries z (forwardCell n own c s) := by
  unfold Sys2Proof.Machine.forwardCell
  with_reducible repeat' (first
    | assumption | apply ite_carries | apply sendCell_carries | apply respondCell_carries | split | dsimp only
    | intro)

theorem acceptCell_carries {z : State} (n : Nat) (c : Cell) (s : State) (h : Carries z s) :
    Carries z (acceptCell n c s) := by
  unfold Sys2Proof.Machine.acceptCell
  with_reducible repeat' (first
    | assumption | apply ite_carries | apply mgtArrives_carries | apply stopArrives_carries
    | apply forwardCell_carries
    | (apply Carries.mk_same; first | assumption | apply mgtArrives_carries | apply stopArrives_carries | apply forwardCell_carries | split)
    | split | dsimp only | intro)

theorem execStopCell_carries {z : State} (port : Fin 4) (src : BitVec 12) (bcast : Bool) (dest : BitVec 12) (seat : Seat) (id : Fin 4) (copy : Fin 8) (s : State) (h : Carries z s) :
    ResCarries z (execStopCell port src bcast dest seat id copy s) := by
  unfold Sys2Proof.Machine.execStopCell
  with_reducible repeat' (first
    | assumption | apply res_next | apply stopArrives_carries | apply clearSent_carries | split | dsimp only | intro)

theorem uclSetup_carries {z : State} (s : State) (h : Carries z s) :
    Carries z (uclSetup s) := by
  unfold Sys2Proof.Machine.uclSetup
  with_reducible repeat' (first
    | assumption | apply ite_carries | apply put_carries | apply each_carries | split | dsimp only | intro)

theorem execStoptxWrite_carries {z : State} (by_ : Seat) (value : Word32) (s : State) (h : Carries z s) :
    ResCarries z (execStoptxWrite by_ value s) := by
  unfold Sys2Proof.Machine.execStoptxWrite
  with_reducible repeat' (first
    | assumption | apply res_next | apply pageWrite_carries | apply stoptxWrite_carries
    | refine res_next_of (by assumption) ?_ | split | dsimp only | intro)

theorem execCellReceive_carries {z : State} (port : Fin 4) (c : Cell) (crcOk : Bool) (s : State) (h : Carries z s) :
    ResCarries z (execCellReceive port c crcOk s) := by
  unfold Sys2Proof.Machine.execCellReceive
  with_reducible repeat' (first
    | assumption | apply ite_carries | apply ite_res | apply res_next | apply clearSent_carries
    | apply sendNak_carries | apply mapUport_carries | apply countUp_carries | apply replayFrom_carries
    | apply acceptCell_carries | apply getD_carries | split | dsimp only | intro)

theorem openManagerSession_carries {z : State} (s : State) (h : Carries z s) :
    Carries z (openManagerSession s) := by
  unfold Sys2Proof.Machine.openManagerSession
  with_reducible repeat' (first
    | assumption | apply ite_carries | apply sendMsg_carries
    | (apply Carries.mk_same; first | assumption | apply sendMsg_carries | split) | split | dsimp only | intro)

theorem assignOver_carries {z : State} (n : Nat) (s : State) (h : Carries z s) :
    Carries z (assignOver n s) := by
  unfold Sys2Proof.Machine.assignOver
  with_reducible repeat' (first
    | assumption | apply ite_carries | apply sendCell_carries | apply put_carries | split | dsimp only | intro)

theorem execAssign_carries {z : State} (port : Fin 4) (dev : BitVec 12) (s : State) (h : Carries z s) :
    ResCarries z (execAssign port dev s) := by
  unfold Sys2Proof.Machine.execAssign
  with_reducible repeat' (first
    | assumption | apply ite_carries | apply ite_res | apply res_next | apply put_carries | apply mapUport_carries
    | apply clearSent_carries | apply openManagerSession_carries | apply each_carries | apply assignOver_carries
    | split | dsimp only | intro)

theorem execLinkAuth_carries {z : State} (port : Fin 4) (key : List Byte) (sigOk : Bool) (peer : Option (BitVec 12)) (manager : Bool) (s : State) (h : Carries z s) :
    ResCarries z (execLinkAuth port key sigOk peer manager s) := by
  unfold Sys2Proof.Machine.execLinkAuth
  with_reducible repeat' (first
    | assumption | apply ite_carries | apply ite_res | apply res_next | apply clearSent_carries
    | apply mapUport_carries | apply put_carries | apply assignOver_carries
    | (apply Carries.mk_same; first | assumption | apply clearSent_carries | apply mapUport_carries | apply put_carries | apply assignOver_carries | split)
    | split | dsimp only | intro)

theorem execTimeExchange_carries {z : State} (port : Fin 4) (offset : BitVec 32) (rate : Word32) (delay : Option (BitVec 16)) (s : State) (h : Carries z s) :
    ResCarries z (execTimeExchange port offset rate delay s) := by
  unfold Sys2Proof.Machine.execTimeExchange
  with_reducible repeat' (first
    | assumption | apply ite_carries | apply ite_res | apply res_next | apply put_carries
    | (apply Carries.mk_same; first | assumption | apply put_carries | split) | split | dsimp only | intro)

theorem sendRequest_carries {z : State} (type : Nat) (seat : Nat) (pa : Nat) (n : Nat) (v : Nat) (s : State) (h : Carries z s) :
    Carries z (sendRequest type seat pa n v s) := by
  unfold Sys2Proof.Machine.sendRequest
  with_reducible repeat' (first
    | assumption | apply ite_carries | apply sendCell_carries | split | dsimp only | intro)

end Sys2Proof.Laws
end

