-- ==== Sys2Proof/Laws/CarryReset.lean ====
section
/-!
SUPPORT. What every operation of Machine/Reset.lean carries along (Laws/Carries.lean).
-/

set_option linter.all false
set_option Elab.async false

namespace Sys2Proof.Laws

open Sys2Proof.Machine

theorem resetControllers_carries {z : State} (seat : Nat) (s : State) (h : Carries z s) :
    Carries z (resetControllers seat s) := by
  unfold Sys2Proof.Machine.resetControllers
  with_reducible repeat' (first
    | assumption | apply resetInst_carries | apply put_carries | apply foldl_carries | apply foldl_snd_carries
    | apply foldl_snd2_carries | refine Carries.snd (by assumption) ?_ | refine Carries.snd2 (by assumption) ?_
    | (apply Carries.mk_same; first | assumption | apply resetInst_carries | apply put_carries | apply foldl_carries | apply foldl_snd_carries | apply foldl_snd2_carries | refine Carries.snd (by assumption) ?_ | refine Carries.snd2 (by assumption) ?_ | split)
    | split | dsimp only | intro)

theorem blockHidden_carries {z : State} (t : Nat) (s : State) (h : Carries z s) :
    Carries z (blockHidden t s) := by
  unfold Sys2Proof.Machine.blockHidden
  with_reducible repeat' (first
    | assumption | apply ite_carries | apply mapUport_carries
    | (apply Carries.mk_same; first | assumption | apply mapUport_carries | split) | split | dsimp only | intro)

theorem holdCores_carries {z : State} (seat : Nat) (s : State) (h : Carries z s) :
    Carries z (holdCores seat s) := by
  unfold Sys2Proof.Machine.holdCores
  with_reducible repeat' (first
    | assumption | apply mapCores_carries | apply put_carries | apply foldl_carries | apply foldl_snd_carries
    | apply foldl_snd2_carries | refine Carries.snd (by assumption) ?_ | refine Carries.snd2 (by assumption) ?_
    | split | dsimp only | intro)

theorem seatResetStart_carries {z : State} (seat : Nat) (s : State) (h : Carries z s) :
    Carries z (seatResetStart seat s) := by
  unfold Sys2Proof.Machine.seatResetStart
  with_reducible repeat' (first
    | assumption | apply ite_carries | apply putBit_carries | apply each_carries | apply driveSafe_carries
    | apply holdCores_carries | apply laneLeaves_carries | apply abortCommands_carries
    | (apply Carries.mk_same; first | assumption | apply putBit_carries | apply each_carries | apply driveSafe_carries | apply holdCores_carries | apply laneLeaves_carries | apply abortCommands_carries | split)
    | split | dsimp only | intro)

theorem resetConverter_carries {z : State} (seat : Nat) (s : State) (h : Carries z s) :
    Carries z (resetConverter seat s) := by
  unfold Sys2Proof.Machine.resetConverter
  with_reducible repeat' (first
    | assumption | apply each_carries | apply resetInst_carries | apply put_carries | apply foldl_carries
    | apply foldl_snd_carries | apply foldl_snd2_carries | refine Carries.snd (by assumption) ?_
    | refine Carries.snd2 (by assumption) ?_
    | (apply Carries.mk_same; first | assumption | apply each_carries | apply resetInst_carries | apply put_carries | apply foldl_carries | apply foldl_snd_carries | apply foldl_snd2_carries | refine Carries.snd (by assumption) ?_ | refine Carries.snd2 (by assumption) ?_ | split)
    | split | dsimp only | intro)

theorem resetLane_carries {z : State} (n : Nat) (s : State) (h : Carries z s) :
    Carries z (resetLane n s) := by
  unfold Sys2Proof.Machine.resetLane
  with_reducible repeat' (first
    | assumption | apply resetInst_carries | apply each_carries | apply foldl_carries | apply foldl_snd_carries
    | apply foldl_snd2_carries | refine Carries.snd (by assumption) ?_ | refine Carries.snd2 (by assumption) ?_
    | (apply Carries.mk_same; first | assumption | apply resetInst_carries | apply each_carries | apply foldl_carries | apply foldl_snd_carries | apply foldl_snd2_carries | refine Carries.snd (by assumption) ?_ | refine Carries.snd2 (by assumption) ?_ | split)
    | split | dsimp only | intro)

theorem resetLanes_carries {z : State} (seat : Nat) (s : State) (h : Carries z s) :
    Carries z (resetLanes seat s) := by
  unfold Sys2Proof.Machine.resetLanes
  with_reducible repeat' (first
    | assumption | apply each_carries | apply resetLane_carries | apply resetInst_carries | apply foldl_carries
    | apply foldl_snd_carries | apply foldl_snd2_carries | refine Carries.snd (by assumption) ?_
    | refine Carries.snd2 (by assumption) ?_
    | (apply Carries.mk_same; first | assumption | apply each_carries | apply resetLane_carries | apply resetInst_carries | apply foldl_carries | apply foldl_snd_carries | apply foldl_snd2_carries | refine Carries.snd (by assumption) ?_ | refine Carries.snd2 (by assumption) ?_ | split)
    | split | dsimp only | intro)

theorem prsStatKept_carries {z : State} (s : State) (h : Carries z s) :
    Carries z (prsStatKept s) := by
  unfold Sys2Proof.Machine.prsStatKept
  with_reducible repeat' (first
    | assumption | apply put_carries | split | dsimp only | intro)

theorem resetState_carries {z : State} (keep : Nat → Bool) (s : State) (h : Carries z s) :
    Carries z (resetState keep s) := by
  refine h.trans ⟨⟨fun _ hi => hi, Nat.le_refl _, fun hc => ⟨?_, ?_, rfl, hc.flash, List.Pairwise.nil⟩⟩, rfl⟩
  · exact cellsWf_filter _ hc.regs
  · exact cellsWf_filter _ hc.mem

theorem deviceOn_carries {z : State} (s : State) (h : Carries z s) :
    Carries z (deviceOn s) := by
  unfold Sys2Proof.Machine.deviceOn
  with_reducible repeat' (first
    | assumption | apply put_carries | (apply Carries.mk_same; first | assumption | apply put_carries | split)
    | split | dsimp only | intro)

theorem deviceReset_carries {z : State} (cause : Fld) (cut : Nat) (damage : List Nat) (s : State) (h : Carries z s) :
    Carries z (deviceReset cause cut damage s) := by
  unfold Sys2Proof.Machine.deviceReset
  with_reducible repeat' (first
    | assumption | apply fuseOpCut_carries | apply prsStatKept_carries | apply resetState_carries
    | apply put_carries | apply deviceOn_carries | apply fuseLoad_carries | apply foldl_carries
    | apply foldl_snd_carries | apply foldl_snd2_carries | refine Carries.snd (by assumption) ?_
    | refine Carries.snd2 (by assumption) ?_
    | (apply Carries.mk_same; first | assumption | apply fuseOpCut_carries | apply prsStatKept_carries | apply resetState_carries | apply put_carries | apply deviceOn_carries | apply fuseLoad_carries | apply foldl_carries | apply foldl_snd_carries | apply foldl_snd2_carries | refine Carries.snd (by assumption) ?_ | refine Carries.snd2 (by assumption) ?_ | split)
    | split | dsimp only | intro)

theorem resetWatchdogs_carries {z : State} (seat : Nat) (s : State) (h : Carries z s) :
    Carries z (resetWatchdogs seat s) := by
  unfold Sys2Proof.Machine.resetWatchdogs
  with_reducible repeat' (first
    | assumption | apply resetInst_carries | apply each_carries | apply foldl_carries | apply foldl_snd_carries
    | apply foldl_snd2_carries | refine Carries.snd (by assumption) ?_ | refine Carries.snd2 (by assumption) ?_
    | (apply Carries.mk_same; first | assumption | apply resetInst_carries | apply each_carries | apply foldl_carries | apply foldl_snd_carries | apply foldl_snd2_carries | refine Carries.snd (by assumption) ?_ | refine Carries.snd2 (by assumption) ?_ | split)
    | split | dsimp only | intro)

theorem blockReset_carries {z : State} (t : Nat) (s : State) (h : Carries z s) :
    Carries z (blockReset t s) := by
  unfold Sys2Proof.Machine.blockReset
  with_reducible repeat' (first
    | assumption | apply ite_carries | apply blockHidden_carries | apply clearRegs_carries | split | dsimp only
    | intro)

theorem rstWrite_carries {z : State} (v : Nat) (cut : Nat) (damage : List Nat) (s : State) (h : Carries z s) :
    Carries z (rstWrite v cut damage s) := by
  unfold Sys2Proof.Machine.rstWrite
  with_reducible repeat' (first
    | assumption | apply ite_carries | apply seatResetStart_carries | apply blockReset_carries
    | apply deviceReset_carries | split | dsimp only | intro)

theorem resetSources_carries {z : State} (seat : Nat) (s : State) (h : Carries z s) :
    Carries z (resetSources seat s) := by
  unfold Sys2Proof.Machine.resetSources
  with_reducible repeat' (first
    | assumption | apply each_carries | apply put_carries | apply resetInst_carries
    | (apply Carries.mk_same; first | assumption | apply each_carries | apply put_carries | apply resetInst_carries | split)
    | split | dsimp only | intro)

theorem resetIbc_carries {z : State} (seat : Nat) (s : State) (h : Carries z s) :
    Carries z (resetIbc seat s) := by
  unfold Sys2Proof.Machine.resetIbc
  with_reducible repeat' (first
    | assumption | apply each_carries | apply resetCounters_carries | apply resetInst_carries | split | dsimp only
    | intro)

theorem seatResetEnd_carries {z : State} (seat : Nat) (s : State) (h : Carries z s) :
    Carries z (seatResetEnd seat s) := by
  unfold Sys2Proof.Machine.seatResetEnd
  with_reducible repeat' (first
    | assumption | apply releaseTokens_carries | apply putBit_carries | apply put_carries
    | apply clusterOffIfIdle_carries | apply foldl_carries | apply foldl_snd_carries | apply foldl_snd2_carries
    | refine Carries.snd (by assumption) ?_ | refine Carries.snd2 (by assumption) ?_
    | (apply Carries.mk_same; first | assumption | apply releaseTokens_carries | apply putBit_carries | apply put_carries | apply clusterOffIfIdle_carries | apply foldl_carries | apply foldl_snd_carries | apply foldl_snd2_carries | refine Carries.snd (by assumption) ?_ | refine Carries.snd2 (by assumption) ?_ | split)
    | split | dsimp only | intro)

theorem softReset_carries {z : State} (s : State) (h : Carries z s) :
    Carries z (softReset s) := by
  unfold Sys2Proof.Machine.softReset
  with_reducible repeat' (first
    | assumption | apply deviceReset_carries | split | dsimp only | intro)

theorem resetBanks_carries {z : State} (seat : Nat) (s : State) (h : Carries z s) :
    Carries z (resetBanks seat s) := by
  unfold Sys2Proof.Machine.resetBanks
  with_reducible repeat' (first
    | assumption | apply each_carries | apply putBit_carries
    | (apply Carries.mk_same; first | assumption | apply each_carries | apply putBit_carries | split) | split
    | dsimp only | intro)

theorem resetCaches_carries {z : State} (seat : Nat) (s : State) (h : Carries z s) :
    Carries z (resetCaches seat s) := by
  unfold Sys2Proof.Machine.resetCaches
  with_reducible repeat' (first
    | assumption | apply each_carries | apply mapL2_carries | apply resetInst_carries | split | dsimp only | intro)

theorem resetPages_carries {z : State} (seat : Nat) (s : State) (h : Carries z s) :
    Carries z (resetPages seat s) := by
  unfold Sys2Proof.Machine.resetPages
  with_reducible repeat' (first
    | assumption | apply resetInst_carries | apply foldl_carries | apply foldl_snd_carries
    | apply foldl_snd2_carries | refine Carries.snd (by assumption) ?_ | refine Carries.snd2 (by assumption) ?_
    | split | dsimp only | intro)

theorem seatResetClear_carries {z : State} (seat : Nat) (s : State) (h : Carries z s) :
    Carries z (seatResetClear seat s) := by
  unfold Sys2Proof.Machine.seatResetClear
  with_reducible repeat' (first
    | assumption | apply ite_carries | apply resetBanks_carries | apply resetCaches_carries
    | apply resetWatchdogs_carries | apply resetSources_carries | apply resetConverter_carries
    | apply resetLanes_carries | apply resetIbc_carries | apply resetPages_carries | apply resetControllers_carries
    | (apply Carries.mk_same; first | assumption | apply resetBanks_carries | apply resetCaches_carries | apply resetWatchdogs_carries | apply resetSources_carries | apply resetConverter_carries | apply resetLanes_carries | apply resetIbc_carries | apply resetPages_carries | apply resetControllers_carries | split)
    | split | dsimp only | intro)

theorem powerOnReset_carries {z : State} (cause : Fld) (s : State) (h : Carries z s) :
    Carries z (powerOnReset cause s) := by
  unfold Sys2Proof.Machine.powerOnReset
  with_reducible repeat' (first
    | assumption | apply put_carries | apply prsStatKept_carries | apply resetState_carries | split | dsimp only
    | intro)

end Sys2Proof.Laws
end

