-- ==== Sys2Proof/Laws/CarryPmx.lean ====
section
/-!
SUPPORT. What every operation of Machine/Pmx.lean carries along (Laws/Carries.lean).
-/

set_option linter.all false
set_option Elab.async false

namespace Sys2Proof.Laws

open Sys2Proof.Machine

theorem dropBall_carries {z : State} (p : Nat) (s : State) (h : Carries z s) :
    Carries z (dropBall p s) := by
  unfold Sys2Proof.Machine.dropBall
  with_reducible repeat' (first
    | assumption | apply ite_carries | apply put_carries | apply each_carries | apply resetInst_carries | split
    | dsimp only | intro)

theorem takeBall_carries {z : State} (seat : Nat) (p : Nat) (f : Nat) (unit : Nat) (s : State) (h : Carries z s) :
    Carries z (takeBall seat p f unit s) := by
  unfold Sys2Proof.Machine.takeBall
  with_reducible repeat' (first
    | assumption | apply ite_carries | apply put_carries | split | dsimp only | intro)

theorem grantBall_carries {z : State} (seat : Nat) (f : Nat) (unit : Nat) (p : Nat) (s : State) (h : Carries z s) :
    Carries z (grantBall seat f unit p s) := by
  unfold Sys2Proof.Machine.grantBall
  with_reducible repeat' (first
    | assumption | apply ite_carries | apply dropBall_carries | apply put_carries | apply takeBall_carries | split
    | dsimp only | intro)

theorem claimPin_carries {z : State} (seat : Nat) (f : Nat) (p : Nat) (unit : Nat) (s : State) (h : Carries z s) :
    Carries z (claimPin seat f p unit s).2 := by
  unfold Sys2Proof.Machine.claimPin
  with_reducible repeat' (first
    | assumption | apply ite_carries | apply ite_snd | apply each_carries | apply grantBall_carries
    | apply put_carries | split | dsimp only | intro)

theorem claim_carries {z : State} (seat : Nat) (kind : Nat) (f : Nat) (index : Nat) (unit : Nat) (s : State) (h : Carries z s) :
    Carries z (claim seat kind f index unit s).2 := by
  unfold Sys2Proof.Machine.claim
  with_reducible repeat' (first
    | assumption | apply ite_carries | apply ite_snd | apply claimPin_carries | apply put_carries
    | refine Carries.snd (by assumption) ?_ | split | dsimp only | intro)

theorem assignBalls_carries {z : State} (s : State) (h : Carries z s) :
    Carries z (assignBalls s) := by
  unfold Sys2Proof.Machine.assignBalls
  with_reducible repeat' (first
    | assumption | apply each_carries | apply takeBall_carries | split | dsimp only | intro)

theorem releaseClaim_carries {z : State} (seat : Nat) (kind : Nat) (index : Nat) (s : State) (h : Carries z s) :
    Carries z (releaseClaim seat kind index s).2 := by
  unfold Sys2Proof.Machine.releaseClaim
  with_reducible repeat' (first
    | assumption | apply ite_carries | apply ite_snd | apply dropBall_carries | apply put_carries | split
    | dsimp only | intro)

end Sys2Proof.Laws
end

