-- ==== Sys2Proof/Laws/CarryManifest.lean ====
section
/-!
SUPPORT. What every operation of Machine/Manifest.lean carries along (Laws/Carries.lean).
-/

set_option linter.all false
set_option Elab.async false

namespace Sys2Proof.Laws

open Sys2Proof.Machine

theorem buildTable_carries {z : State} (rs : List PageRule) (x1 : Nat) (x2 : Nat) (x3 : Nat) (x4 : Nat) (x5 : State) (h_x5 : Carries z x5) :
    Carries z (buildTable rs x1 x2 x3 x4 x5).2 := by
  induction x1 generalizing rs x2 x3 x4 x5 with
  | zero =>
    unfold Sys2Proof.Machine.buildTable
    with_reducible repeat' (first
      | assumption | apply ite_carries | apply ite_snd | apply each_carries | apply writeMem_carries
      | apply zeroMem_carries | apply foldl_carries | apply foldl_snd_carries | apply foldl_snd2_carries
      | refine Carries.snd (by assumption) ?_ | refine Carries.snd2 (by assumption) ?_ | split | dsimp only | intro)
  | succ n ih =>
    unfold Sys2Proof.Machine.buildTable
    with_reducible repeat' (first
      | assumption | apply ih | apply ite_carries | apply ite_snd | apply each_carries | apply writeMem_carries
      | apply zeroMem_carries | apply foldl_carries | apply foldl_snd_carries | apply foldl_snd2_carries
      | refine Carries.snd (by assumption) ?_ | refine Carries.snd2 (by assumption) ?_ | split | dsimp only | intro)

theorem xbufSetup_carries {z : State} (b : Nat) (writer : Nat) (reader : Nat) (pages : Nat) (s : State) (h : Carries z s) :
    Carries z (xbufSetup b writer reader pages s).2 := by
  unfold Sys2Proof.Machine.xbufSetup
  with_reducible repeat' (first
    | assumption | apply ite_carries | apply ite_snd | apply zeroMem_carries | apply put_carries | split
    | dsimp only | intro)

theorem ownAll_carries {z : State} (f : Fld) (seat : Nat) (l : List Nat) (s : State) (h : Carries z s) :
    Carries z (ownAll f seat l s) := by
  unfold Sys2Proof.Machine.ownAll
  with_reducible repeat' (first
    | assumption | apply each_carries | apply put_carries | split | dsimp only | intro)

theorem applyRecord_carries {z : State} (m : SeatManifest) (r : Nat × List Byte) (s : State) (h : Carries z s) :
    Carries z (applyRecord m r s) := by
  unfold Sys2Proof.Machine.applyRecord
  with_reducible repeat' (first
    | assumption | apply ite_carries | apply put_carries | apply ownAll_carries | apply each_carries
    | apply putBit_carries | apply setReg_carries | apply foldl_carries | apply foldl_snd_carries
    | apply foldl_snd2_carries | refine Carries.snd (by assumption) ?_ | refine Carries.snd2 (by assumption) ?_
    | split | dsimp only | intro)

theorem prsOwners_carries {z : State} (s : State) (h : Carries z s) :
    Carries z (prsOwners s) := by
  unfold Sys2Proof.Machine.prsOwners
  with_reducible repeat' (first
    | assumption | apply ite_carries | apply each_carries | apply prsPut_carries | split | dsimp only | intro)

theorem buildTables_carries {z : State} (first : Nat) (s : State) (h : Carries z s) :
    Carries z (buildTables first s) := by
  unfold Sys2Proof.Machine.buildTables
  with_reducible repeat' (first
    | assumption | apply buildTable_carries | apply zeroMem_carries | apply put_carries | apply foldl_carries
    | apply foldl_snd_carries | apply foldl_snd2_carries | refine Carries.snd (by assumption) ?_
    | refine Carries.snd2 (by assumption) ?_ | split | dsimp only | intro)

theorem applyManifests_carries {z : State} (xing : Nat) (ms : List SeatManifest) (s : State) (h : Carries z s) :
    Carries z (applyManifests xing ms s) := by
  unfold Sys2Proof.Machine.applyManifests
  with_reducible repeat' (first
    | assumption | apply applyRecord_carries | apply assignBalls_carries | apply prsOwners_carries
    | apply put_carries | apply xbufSetup_carries | apply buildTables_carries | apply foldl_carries
    | apply foldl_snd_carries | apply foldl_snd2_carries | refine Carries.snd (by assumption) ?_
    | refine Carries.snd2 (by assumption) ?_
    | (apply Carries.mk_same; first | assumption | apply applyRecord_carries | apply assignBalls_carries | apply prsOwners_carries | apply put_carries | apply xbufSetup_carries | apply buildTables_carries | apply foldl_carries | apply foldl_snd_carries | apply foldl_snd2_carries | refine Carries.snd (by assumption) ?_ | refine Carries.snd2 (by assumption) ?_ | split)
    | split | dsimp only | intro)

theorem s2inv_carries {z : State} (seat : Nat) (s : State) (h : Carries z s) :
    Carries z (s2inv seat s) := by
  unfold Sys2Proof.Machine.s2inv
  with_reducible repeat' (first
    | assumption | apply mapCores_carries | split | dsimp only | intro)

end Sys2Proof.Laws
end

