-- ==== Sys2Proof/Laws/CarryPower.lean ====
section
/-!
SUPPORT. What every operation of Machine/Power.lean carries along (Laws/Carries.lean).
-/

set_option linter.all false
set_option Elab.async false

namespace Sys2Proof.Laws

open Sys2Proof.Machine

theorem rstBy_carries {z : State} (by_ : Seat) (v : Nat) (cut : Nat) (damage : List Nat) (s : State) (h : Carries z s) :
    ResCarries z (rstBy by_ v cut damage s) := by
  unfold Sys2Proof.Machine.rstBy
  with_reducible repeat' (first
    | assumption | apply res_next | apply pageWrite_carries | apply rstWrite_carries
    | refine res_next_of (by assumption) ?_ | split | dsimp only | intro)

theorem execSeatReset_carries {z : State} (by_ : Seat) (seat : BitVec 8) (s : State) (h : Carries z s) :
    ResCarries z (execSeatReset by_ seat s) := by
  unfold Sys2Proof.Machine.execSeatReset
  with_reducible repeat' (first
    | assumption | apply res_next | apply rstBy_carries | refine res_next_of (by assumption) ?_ | split | dsimp only
    | intro)

theorem execOffExit_carries {z : State} (s : State) (h : Carries z s) :
    ResCarries z (execOffExit s) := by
  unfold Sys2Proof.Machine.execOffExit
  with_reducible repeat' (first
    | assumption | apply ite_carries | apply ite_res | apply res_next | apply powerOnReset_carries
    | (apply Carries.mk_same; first | assumption | apply powerOnReset_carries | split) | split | dsimp only | intro)

theorem aonRise_carries {z : State} (s : State) (h : Carries z s) :
    Carries z (aonRise s) := by
  unfold Sys2Proof.Machine.aonRise
  with_reducible repeat' (first
    | assumption | apply powerOnReset_carries | apply setReg_carries | split | dsimp only | intro)

theorem execVddAonRise_carries {z : State} (s : State) (h : Carries z s) :
    ResCarries z (execVddAonRise s) := by
  unfold Sys2Proof.Machine.execVddAonRise
  with_reducible repeat' (first
    | assumption | apply res_next | apply aonRise_carries
    | (apply Carries.mk_same; first | assumption | apply aonRise_carries | split) | split | dsimp only | intro)

theorem execResetNInput_carries {z : State} (cut : Nat) (damage : List (BitVec 8)) (s : State) (h : Carries z s) :
    ResCarries z (execResetNInput cut damage s) := by
  unfold Sys2Proof.Machine.execResetNInput
  with_reducible repeat' (first
    | assumption | apply ite_carries | apply ite_res | apply res_next | apply deviceReset_carries | split
    | dsimp only | intro)

theorem execDeviceReset_carries {z : State} (by_ : Seat) (key : BitVec 8) (cut : Nat) (damage : List (BitVec 8)) (s : State) (h : Carries z s) :
    ResCarries z (execDeviceReset by_ key cut damage s) := by
  unfold Sys2Proof.Machine.execDeviceReset
  with_reducible repeat' (first
    | assumption | apply res_next | apply rstBy_carries | refine res_next_of (by assumption) ?_ | split | dsimp only
    | intro)

theorem leaveStandby_carries {z : State} (s : State) (h : Carries z s) :
    Carries z (leaveStandby s) := by
  unfold Sys2Proof.Machine.leaveStandby
  with_reducible repeat' (first
    | assumption | apply put_carries | apply raiseSrc_carries
    | (apply Carries.mk_same; first | assumption | apply put_carries | apply raiseSrc_carries | split) | split
    | dsimp only | intro)

theorem execPllLock_carries {z : State} (s : State) (h : Carries z s) :
    ResCarries z (execPllLock s) := by
  unfold Sys2Proof.Machine.execPllLock
  with_reducible repeat' (first
    | assumption | apply ite_carries | apply ite_res | apply res_next | apply deviceOn_carries | apply put_carries
    | split | dsimp only | intro)

theorem execPowerOnResetRelease_carries {z : State} (cut : Nat) (damage : List (BitVec 8)) (s : State) (h : Carries z s) :
    ResCarries z (execPowerOnResetRelease cut damage s) := by
  unfold Sys2Proof.Machine.execPowerOnResetRelease
  with_reducible repeat' (first
    | assumption | apply ite_carries | apply ite_res | apply res_next | apply put_carries | apply fuseLoad_carries
    | apply fuseOpCut_carries
    | (apply Carries.mk_same; first | assumption | apply put_carries | apply fuseLoad_carries | apply fuseOpCut_carries | split)
    | split | dsimp only | intro)

theorem execRailUndervoltageReset_carries {z : State} (rail : Fin 12) (s : State) (h : Carries z s) :
    ResCarries z (execRailUndervoltageReset rail s) := by
  unfold Sys2Proof.Machine.execRailUndervoltageReset
  with_reducible repeat' (first
    | assumption | apply res_next | apply powerOnReset_carries
    | (apply Carries.mk_same; first | assumption | apply powerOnReset_carries | split) | split | dsimp only | intro)

theorem execBlockReset_carries {z : State} (by_ : Seat) (target : BitVec 8) (s : State) (h : Carries z s) :
    ResCarries z (execBlockReset by_ target s) := by
  unfold Sys2Proof.Machine.execBlockReset
  with_reducible repeat' (first
    | assumption | apply res_next | apply rstBy_carries | refine res_next_of (by assumption) ?_ | split | dsimp only
    | intro)

theorem enterOff_carries {z : State} (s : State) (h : Carries z s) :
    Carries z (enterOff s) := by
  unfold Sys2Proof.Machine.enterOff
  with_reducible repeat' (first
    | assumption | apply put_carries | apply prsStatKept_carries | apply resetState_carries
    | (apply Carries.mk_same; first | assumption | apply put_carries | apply prsStatKept_carries | apply resetState_carries | split)
    | split | dsimp only | intro)

theorem linksLost_carries {z : State} (s : State) (h : Carries z s) :
    Carries z (linksLost s) := by
  unfold Sys2Proof.Machine.linksLost
  with_reducible repeat' (first
    | assumption | apply each_carries | apply portDown_carries
    | (apply Carries.mk_same; first | assumption | apply each_carries | apply portDown_carries | split) | split
    | dsimp only | intro)

theorem enterStandby_carries {z : State} (s : State) (h : Carries z s) :
    Carries z (enterStandby s) := by
  unfold Sys2Proof.Machine.enterStandby
  with_reducible repeat' (first
    | assumption | apply ite_carries | apply linksLost_carries | apply put_carries | apply clusterOff_carries
    | apply foldl_carries | apply foldl_snd_carries | apply foldl_snd2_carries
    | refine Carries.snd (by assumption) ?_ | refine Carries.snd2 (by assumption) ?_
    | (apply Carries.mk_same; first | assumption | apply linksLost_carries | apply put_carries | apply clusterOff_carries | apply foldl_carries | apply foldl_snd_carries | apply foldl_snd2_carries | refine Carries.snd (by assumption) ?_ | refine Carries.snd2 (by assumption) ?_ | split)
    | split | dsimp only | intro)

theorem sbctlWrite_carries {z : State} (v : Nat) (s : State) (h : Carries z s) :
    Carries z (sbctlWrite v s) := by
  unfold Sys2Proof.Machine.sbctlWrite
  with_reducible repeat' (first
    | assumption | apply ite_carries | apply writeFields_carries | apply enterOff_carries
    | apply enterStandby_carries | split | dsimp only | intro)

theorem execPorstInput_carries {z : State} (s : State) (h : Carries z s) :
    ResCarries z (execPorstInput s) := by
  unfold Sys2Proof.Machine.execPorstInput
  with_reducible repeat' (first
    | assumption | apply res_next | apply powerOnReset_carries | split | dsimp only | intro)

theorem execTokenRequest_carries {z : State} (op : TokenOp) (s : State) (h : Carries z s) :
    ResCarries z (execTokenRequest op s) := by
  unfold Sys2Proof.Machine.execTokenRequest
  with_reducible repeat' (first
    | assumption | apply ite_carries | apply ite_res | apply res_next | apply requestWake_carries
    | apply requestTokens_carries | apply each_carries | apply laneLeaves_carries
    | refine Carries.snd (by assumption) ?_ | split | dsimp only | intro)

theorem execOffEntry_carries {z : State} (by_ : Seat) (tick : BitVec 8) (s : State) (h : Carries z s) :
    ResCarries z (execOffEntry by_ tick s) := by
  unfold Sys2Proof.Machine.execOffEntry
  with_reducible repeat' (first
    | assumption | apply res_next | apply pageWrite_carries | apply sbctlWrite_carries
    | refine res_next_of (by assumption) ?_ | split | dsimp only | intro)

theorem execSupplyPowerUp_carries {z : State} (rail : Fin 12) (s : State) (h : Carries z s) :
    ResCarries z (execSupplyPowerUp rail s) := by
  unfold Sys2Proof.Machine.execSupplyPowerUp
  with_reducible repeat' (first
    | assumption | apply ite_carries | apply ite_res | apply res_next | apply aonRise_carries
    | (apply Carries.mk_same; first | assumption | apply aonRise_carries | split) | split | dsimp only | intro)

theorem execSeatResetDrainDone_carries {z : State} (seat : Seat) (s : State) (h : Carries z s) :
    ResCarries z (execSeatResetDrainDone seat s) := by
  unfold Sys2Proof.Machine.execSeatResetDrainDone
  with_reducible repeat' (first
    | assumption | apply res_next | apply seatResetClear_carries | split | dsimp only | intro)

theorem execLaneMemoryZeroDone_carries {z : State} (n : LaneId) (s : State) (h : Carries z s) :
    ResCarries z (execLaneMemoryZeroDone n s) := by
  unfold Sys2Proof.Machine.execLaneMemoryZeroDone
  with_reducible repeat' (first
    | assumption | apply ite_carries | apply ite_res | apply res_next | apply mapLane_carries | split | dsimp only
    | intro)

theorem execStandbyEntry_carries {z : State} (by_ : Seat) (tick : BitVec 8) (s : State) (h : Carries z s) :
    ResCarries z (execStandbyEntry by_ tick s) := by
  unfold Sys2Proof.Machine.execStandbyEntry
  with_reducible repeat' (first
    | assumption | apply res_next | apply pageWrite_carries | apply sbctlWrite_carries
    | refine res_next_of (by assumption) ?_ | split | dsimp only | intro)

theorem execStandbyWake_carries {z : State} (ball : Bool) (s : State) (h : Carries z s) :
    ResCarries z (execStandbyWake ball s) := by
  unfold Sys2Proof.Machine.execStandbyWake
  with_reducible repeat' (first
    | assumption | apply ite_carries | apply ite_res | apply res_next | apply leaveStandby_carries | split
    | dsimp only | intro)

theorem execStandbyTick_carries {z : State} (s : State) (h : Carries z s) :
    ResCarries z (execStandbyTick s) := by
  unfold Sys2Proof.Machine.execStandbyTick
  with_reducible repeat' (first
    | assumption | apply ite_carries | apply ite_res | apply res_next | apply svpKick_carries | split | dsimp only
    | intro)

end Sys2Proof.Laws
end

