-- ==== Sys2Proof/Laws/CarryBoot.lean ====
section
/-!
SUPPORT. What every operation of Machine/Boot.lean carries along (Laws/Carries.lean).
-/

set_option linter.all false
set_option Elab.async false

namespace Sys2Proof.Laws

open Sys2Proof.Machine

theorem bnvWrite_carries {z : State} (offset : Nat) (n : Nat) (v : Nat) (s : State) (h : Carries z s) :
    Carries z (bnvWrite offset n v s).2 := by
  unfold Sys2Proof.Machine.bnvWrite
  with_reducible repeat' (first
    | assumption | apply ite_carries | apply ite_snd | apply countUp_carries | apply writeMem_carries | split
    | dsimp only | intro)

theorem welfenRuns_carries {z : State} (s : State) (h : Carries z s) :
    Carries z (welfenRuns s) := by
  unfold Sys2Proof.Machine.welfenRuns
  with_reducible repeat' (first
    | assumption | apply draw_carries | apply put_carries | refine Carries.snd (by assumption) ?_
    | (apply Carries.mk_same; first | assumption | apply draw_carries | apply put_carries | refine Carries.snd (by assumption) ?_ | split)
    | split | dsimp only | intro)

theorem execRecoveryStart_carries {z : State} (s : State) (h : Carries z s) :
    ResCarries z (execRecoveryStart s) := by
  unfold Sys2Proof.Machine.execRecoveryStart
  with_reducible repeat' (first
    | assumption | apply ite_carries | apply ite_res | apply res_next | apply fuseTry_carries
    | apply welfenRuns_carries | apply put_carries | split | dsimp only | intro)

theorem mapComp_carries {z : State} (s : State) (i : Nat) (f : BootComp → BootComp) (h : Carries z s) :
    Carries z (State.mapComp s i f) := by
  unfold Sys2Proof.Machine.State.mapComp
  with_reducible repeat' (first
    | assumption | (apply Carries.mk_same; first | assumption | split) | split | dsimp only | intro)

theorem compFails_carries {z : State} (i : Nat) (reason : Nat) (s : State) (h : Carries z s) :
    Carries z (compFails i reason s) := by
  unfold Sys2Proof.Machine.compFails
  with_reducible repeat' (first
    | assumption | apply mapComp_carries | apply put_carries | split | dsimp only | intro)

theorem loadBusy_carries {z : State} (s : State) (h : Carries z s) :
    Carries z (loadBusy s) := by
  unfold Sys2Proof.Machine.loadBusy
  with_reducible repeat' (first
    | assumption | apply put_carries | split | dsimp only | intro)

theorem storeFaults_carries {z : State} (s : State) (h : Carries z s) :
    Carries z (storeFaults s) := by
  unfold Sys2Proof.Machine.storeFaults
  with_reducible repeat' (first
    | assumption | apply clearLog_carries
    | (apply Carries.mk_same; first | assumption | apply clearLog_carries | split) | split | dsimp only | intro)

theorem milestone_carries {z : State} (code : Nat) (index : Nat) (s : State) (h : Carries z s) :
    Carries z (milestone code index s) := by
  unfold Sys2Proof.Machine.milestone
  with_reducible repeat' (first
    | assumption | apply put_carries | split | dsimp only | intro)

theorem windowOn_carries {z : State} (i : Nat) (s : State) (h : Carries z s) :
    Carries z (windowOn i s) := by
  unfold Sys2Proof.Machine.windowOn
  with_reducible repeat' (first
    | assumption | apply put_carries | split | dsimp only | intro)

theorem reachMs2_carries {z : State} (s : State) (h : Carries z s) :
    Carries z (reachMs2 s) := by
  unfold Sys2Proof.Machine.reachMs2
  with_reducible repeat' (first
    | assumption | apply storeFaults_carries | apply welfenRuns_carries | apply milestone_carries
    | apply uclSetup_carries | apply put_carries | apply each_carries | apply windowOn_carries | split | dsimp only
    | intro)

theorem manifestsLoaded_carries {z : State} (slot : Nat) (xing : Nat) (s : State) (h : Carries z s) :
    Carries z (manifestsLoaded slot xing s) := by
  unfold Sys2Proof.Machine.manifestsLoaded
  with_reducible repeat' (first
    | assumption | apply ite_carries | apply each_carries | apply compFails_carries | apply applyManifests_carries
    | split | dsimp only | intro)

theorem execLoadBlockVerify_carries {z : State} (comp : Fin 32) (readErr : Bool) (xing : Fin 32) (s : State) (h : Carries z s) :
    ResCarries z (execLoadBlockVerify comp readErr xing s) := by
  unfold Sys2Proof.Machine.execLoadBlockVerify
  with_reducible repeat' (first
    | assumption | apply ite_carries | apply ite_res | apply res_next | apply loadBusy_carries
    | apply compFails_carries | apply mapComp_carries | apply writeBytes_carries | apply put_carries
    | apply reachMs2_carries | apply manifestsLoaded_carries | split | dsimp only | intro)

theorem execStage0Check_carries {z : State} (s : State) (h : Carries z s) :
    ResCarries z (execStage0Check s) := by
  unfold Sys2Proof.Machine.execStage0Check
  with_reducible repeat' (first
    | assumption | apply ite_carries | apply ite_res | apply res_next | apply put_carries | apply milestone_carries
    | (apply Carries.mk_same; first | assumption | apply put_carries | apply milestone_carries | split) | split
    | dsimp only | intro)

theorem enterMsx_carries {z : State} (s : State) (h : Carries z s) :
    Carries z (enterMsx s) := by
  unfold Sys2Proof.Machine.enterMsx
  with_reducible repeat' (first
    | assumption | apply uclSetup_carries | apply milestone_carries | apply put_carries | apply noteManager_carries
    | (apply Carries.mk_same; first | assumption | apply uclSetup_carries | apply milestone_carries | apply put_carries | apply noteManager_carries | split)
    | split | dsimp only | intro)

theorem execMsxEnter_carries {z : State} (s : State) (h : Carries z s) :
    ResCarries z (execMsxEnter s) := by
  unfold Sys2Proof.Machine.execMsxEnter
  with_reducible repeat' (first
    | assumption | apply ite_carries | apply ite_res | apply res_next | apply enterMsx_carries | split | dsimp only
    | intro)

theorem slotRecord_carries {z : State} (slot : Nat) (readErr : Bool) (s : State) (h : Carries z s) :
    Carries z (slotRecord slot readErr s) := by
  unfold Sys2Proof.Machine.slotRecord
  with_reducible repeat' (first
    | assumption | apply ite_carries | apply put_carries | split | dsimp only | intro)

theorem releaseCores_carries {z : State} (p : CoreId → Bool) (s : State) (h : Carries z s) :
    Carries z (releaseCores p s) := by
  unfold Sys2Proof.Machine.releaseCores
  with_reducible repeat' (first
    | assumption | apply mapCores_carries | apply requestWake_carries | apply foldl_carries
    | apply foldl_snd_carries | apply foldl_snd2_carries | refine Carries.snd (by assumption) ?_
    | refine Carries.snd2 (by assumption) ?_ | split | dsimp only | intro)

theorem restartSeat_carries {z : State} (seat : Nat) (s : State) (h : Carries z s) :
    Carries z (restartSeat seat s) := by
  unfold Sys2Proof.Machine.restartSeat
  with_reducible repeat' (first
    | assumption | apply each_carries | apply windowOn_carries | apply mapComp_carries | apply releaseCores_carries
    | split | dsimp only | intro)

theorem execSeatResetComplete_carries {z : State} (seat : Seat) (s : State) (h : Carries z s) :
    ResCarries z (execSeatResetComplete seat s) := by
  unfold Sys2Proof.Machine.execSeatResetComplete
  with_reducible repeat' (first
    | assumption | apply ite_carries | apply ite_res | apply res_next | apply seatResetEnd_carries
    | apply restartSeat_carries
    | (apply Carries.mk_same; first | assumption | apply seatResetEnd_carries | apply restartSeat_carries | split)
    | split | dsimp only | intro)

theorem recordFailure_carries {z : State} (slot : Nat) (r : Nat) (i : Nat) (seat : Nat) (s : State) (h : Carries z s) :
    Carries z (recordFailure slot r i seat s) := by
  unfold Sys2Proof.Machine.recordFailure
  with_reducible repeat' (first
    | assumption | apply ite_carries | apply put_carries | apply prsPut_carries | split | dsimp only | intro)

theorem execImageFailure_carries {z : State} (reason : BitVec 8) (comp : Fin 32) (s : State) (h : Carries z s) :
    ResCarries z (execImageFailure reason comp s) := by
  unfold Sys2Proof.Machine.execImageFailure
  with_reducible repeat' (first
    | assumption | apply ite_carries | apply ite_res | apply res_next | apply recordFailure_carries
    | apply prsPut_carries | apply seatResetStart_carries | apply softReset_carries | apply noteManager_carries
    | apply put_carries | apply foldl_carries | apply foldl_snd_carries | apply foldl_snd2_carries
    | refine Carries.snd (by assumption) ?_ | refine Carries.snd2 (by assumption) ?_ | split | dsimp only | intro)

theorem stopAtEnd_carries {z : State} (s : State) (h : Carries z s) :
    Carries z (stopAtEnd s) := by
  unfold Sys2Proof.Machine.stopAtEnd
  with_reducible repeat' (first
    | assumption | apply put_carries | split | dsimp only | intro)

theorem startSlot_carries {z : State} (slot : Nat) (s : State) (h : Carries z s) :
    Carries z (startSlot slot s) := by
  unfold Sys2Proof.Machine.startSlot
  with_reducible repeat' (first
    | assumption | apply ite_carries | apply prsPut_carries | apply milestone_carries | apply put_carries
    | (apply Carries.mk_same; first | assumption | apply prsPut_carries | apply milestone_carries | apply put_carries | split)
    | split | dsimp only | intro)

theorem execSlotSelect_carries {z : State} (readErr : Vector Bool 2) (s : State) (h : Carries z s) :
    ResCarries z (execSlotSelect readErr s) := by
  unfold Sys2Proof.Machine.execSlotSelect
  with_reducible repeat' (first
    | assumption | apply ite_carries | apply ite_res | apply res_next | apply stopAtEnd_carries
    | apply slotRecord_carries | apply startSlot_carries | apply put_carries | split | dsimp only | intro)

theorem recoveryFails_carries {z : State} (s : State) (h : Carries z s) :
    Carries z (recoveryFails s) := by
  unfold Sys2Proof.Machine.recoveryFails
  with_reducible repeat' (first
    | assumption | apply put_carries | apply noteManager_carries
    | (apply Carries.mk_same; first | assumption | apply put_carries | apply noteManager_carries | split) | split
    | dsimp only | intro)

theorem execMs3Release_carries {z : State} (patch : BitVec 8) (s : State) (h : Carries z s) :
    ResCarries z (execMs3Release patch s) := by
  unfold Sys2Proof.Machine.execMs3Release
  with_reducible repeat' (first
    | assumption | apply ite_carries | apply ite_res | apply res_next | apply put_carries
    | apply releaseCores_carries | apply milestone_carries | apply noteManager_carries
    | (apply Carries.mk_same; first | assumption | apply put_carries | apply releaseCores_carries | apply milestone_carries | apply noteManager_carries | split)
    | split | dsimp only | intro)

theorem execErasure_carries {z : State} (s : State) (h : Carries z s) :
    ResCarries z (execErasure s) := by
  unfold Sys2Proof.Machine.execErasure
  with_reducible repeat' (first
    | assumption | apply ite_carries | apply ite_res | apply res_next | apply each_carries | apply fuseTry_carries
    | apply prsErase_carries | apply zeroMem_carries | apply flashErase_carries | apply stopAtEnd_carries
    | (apply Carries.mk_same; first | assumption | apply each_carries | apply fuseTry_carries | apply prsErase_carries | apply zeroMem_carries | apply flashErase_carries | apply stopAtEnd_carries | split)
    | split | dsimp only | intro)

theorem execHashListCheck_carries {z : State} (comp : Fin 32) (readErr : Bool) (s : State) (h : Carries z s) :
    ResCarries z (execHashListCheck comp readErr s) := by
  unfold Sys2Proof.Machine.execHashListCheck
  with_reducible repeat' (first
    | assumption | apply ite_carries | apply ite_res | apply res_next | apply compFails_carries
    | apply loadBusy_carries | apply mapComp_carries | split | dsimp only | intro)

theorem execNoimageRepeat_carries {z : State} (s : State) (h : Carries z s) :
    ResCarries z (execNoimageRepeat s) := by
  unfold Sys2Proof.Machine.execNoimageRepeat
  with_reducible repeat' (first
    | assumption | apply ite_carries | apply ite_res | apply res_next | apply noteManager_carries | split
    | dsimp only | intro)

theorem execStage0WriteReject_carries {z : State} (by_ : Seat) (offset : BitVec 19) (value : Byte) (s : State) (h : Carries z s) :
    ResCarries z (execStage0WriteReject by_ offset value s) := by
  unfold Sys2Proof.Machine.execStage0WriteReject
  with_reducible repeat' (first
    | assumption | apply ite_carries | apply ite_res | apply res_next | apply answer_carries
    | apply bnvWrite_carries | refine Carries.snd (by assumption) ?_ | split | dsimp only | intro)

theorem execMs4Reached_carries {z : State} (s : State) (h : Carries z s) :
    ResCarries z (execMs4Reached s) := by
  unfold Sys2Proof.Machine.execMs4Reached
  with_reducible repeat' (first
    | assumption | apply ite_carries | apply ite_res | apply res_next | apply prsPut_carries | apply fuseTry_carries
    | apply put_carries | apply each_carries | apply sfiCtlWrite_carries | apply noteManager_carries
    | apply milestone_carries | apply foldl_carries | apply foldl_snd_carries | apply foldl_snd2_carries
    | refine Carries.snd (by assumption) ?_ | refine Carries.snd2 (by assumption) ?_ | split | dsimp only | intro)

end Sys2Proof.Laws
end

