-- ==== Sys2Proof/Laws/CarryGrant.lean ====
section
/-!
SUPPORT. What every operation of Machine/Grant.lean carries along (Laws/Carries.lean).
-/

set_option linter.all false
set_option Elab.async false

namespace Sys2Proof.Laws

open Sys2Proof.Machine

theorem newDebugNonce_carries {z : State} (s : State) (h : Carries z s) :
    Carries z (newDebugNonce s) := by
  unfold Sys2Proof.Machine.newDebugNonce
  with_reducible repeat' (first
    | assumption | apply each_carries | apply drawRandom_carries | apply setReg_carries
    | refine Carries.snd (by assumption) ?_ | split | dsimp only | intro)

theorem signedRequest_carries {z : State} (r : DbgRequest) (s : State) (h : Carries z s) :
    Carries z (signedRequest r s).2 := by
  unfold Sys2Proof.Machine.signedRequest
  with_reducible repeat' (first
    | assumption | apply ite_carries | apply ite_snd | apply each_carries | apply put_carries
    | apply newDebugNonce_carries | apply setReg_carries
    | (apply Carries.mk_same; first | assumption | apply each_carries | apply put_carries | apply newDebugNonce_carries | apply setReg_carries | split)
    | split | dsimp only | intro)

theorem execDbgauth_carries {z : State} (r : DbgRequest) (s : State) (h : Carries z s) :
    ResCarries z (execDbgauth r s) := by
  unfold Sys2Proof.Machine.execDbgauth
  with_reducible repeat' (first
    | assumption | apply ite_carries | apply ite_res | apply res_next | apply signedRequest_carries
    | refine Carries.snd (by assumption) ?_ | split | dsimp only | intro)

theorem resumeCore_carries {z : State} (step : Bool) (k : CoreId) (s : State) (h : Carries z s) :
    Carries z (resumeCore step k s) := by
  unfold Sys2Proof.Machine.resumeCore
  with_reducible repeat' (first
    | assumption | apply ite_carries | apply mapCore_carries | apply thawWatchdogs_carries | apply put_carries
    | split | dsimp only | intro)

theorem endGrant_carries {z : State} (seat : Nat) (s : State) (h : Carries z s) :
    Carries z (endGrant seat s) := by
  unfold Sys2Proof.Machine.endGrant
  with_reducible repeat' (first
    | assumption | apply ite_carries | apply resetInst_carries | apply mapCores_carries | apply resumeCore_carries
    | apply each_carries | apply put_carries | apply putBit_carries | apply foldl_carries | apply foldl_snd_carries
    | apply foldl_snd2_carries | refine Carries.snd (by assumption) ?_ | refine Carries.snd2 (by assumption) ?_
    | (apply Carries.mk_same; first | assumption | apply resetInst_carries | apply mapCores_carries | apply resumeCore_carries | apply each_carries | apply put_carries | apply putBit_carries | apply foldl_carries | apply foldl_snd_carries | apply foldl_snd2_carries | refine Carries.snd (by assumption) ?_ | refine Carries.snd2 (by assumption) ?_ | split)
    | split | dsimp only | intro)

theorem execGrantEndWrite_carries {z : State} (by_ : Seat) (seat : Seat) (s : State) (h : Carries z s) :
    ResCarries z (execGrantEndWrite by_ seat s) := by
  unfold Sys2Proof.Machine.execGrantEndWrite
  with_reducible repeat' (first
    | assumption | apply ite_carries | apply ite_res | apply res_next | apply answer_carries
    | apply endGrant_carries | split | dsimp only | intro)

theorem execNonceOffer_carries {z : State} (s : State) (h : Carries z s) :
    ResCarries z (execNonceOffer s) := by
  unfold Sys2Proof.Machine.execNonceOffer
  with_reducible repeat' (first
    | assumption | apply ite_carries | apply ite_res | apply res_next | apply newDebugNonce_carries
    | (apply Carries.mk_same; first | assumption | apply newDebugNonce_carries | split) | split | dsimp only | intro)

theorem execGrantExpiry_carries {z : State} (seat : Seat) (s : State) (h : Carries z s) :
    ResCarries z (execGrantExpiry seat s) := by
  unfold Sys2Proof.Machine.execGrantExpiry
  with_reducible repeat' (first
    | assumption | apply res_next | apply endGrant_carries | split | dsimp only | intro)

end Sys2Proof.Laws
end

