-- ==== Sys2Proof/Laws/CarryWci.lean ====
section
/-!
SUPPORT. What every operation of Machine/Wci.lean carries along (Laws/Carries.lean).
-/

set_option linter.all false
set_option Elab.async false

namespace Sys2Proof.Laws

open Sys2Proof.Machine

theorem mbxWrite_carries {z : State} (by_ : Seat) (seat : Seat) (bySeat : Bool) (f : State → State) (s : State) (h_f : ∀ t, Carries z t → Carries z (f t)) (h : Carries z s) :
    ResCarries z (mbxWrite by_ seat bySeat f s) := by
  unfold Sys2Proof.Machine.mbxWrite
  with_reducible repeat' (first
    | assumption | apply ite_carries | apply ite_res | apply res_next | apply id_carries | apply h_f
    | apply pageWrite_carries | refine res_next_of (by assumption) ?_ | split | dsimp only | intro)

theorem takeHead_carries {z : State} (id : SessionId) (m : Incoming) (s : State) (h : Carries z s) :
    Carries z (takeHead id m s) := by
  unfold Sys2Proof.Machine.takeHead
  with_reducible repeat' (first
    | assumption | apply put_carries | (apply Carries.mk_same; first | assumption | apply put_carries | split)
    | split | dsimp only | intro)

theorem rsppiWrite_carries {z : State} (seat : Nat) (v : Nat) (s : State) (h : Carries z s) :
    Carries z (rsppiWrite seat v s) := by
  unfold Sys2Proof.Machine.rsppiWrite
  with_reducible repeat' (first
    | assumption | apply ite_carries | apply announce_carries | apply put_carries | split | dsimp only | intro)

theorem execMbxRsppiWrite_carries {z : State} (by_ : Seat) (seat : Seat) (value : Word32) (s : State) (h : Carries z s) :
    ResCarries z (execMbxRsppiWrite by_ seat value s) := by
  unfold Sys2Proof.Machine.execMbxRsppiWrite
  with_reducible repeat' (first
    | assumption | apply res_next | apply mbxWrite_carries | apply rsppiWrite_carries
    | refine res_next_of (by assumption) ?_ | split | dsimp only | intro)

theorem reqciWrite_carries {z : State} (seat : Nat) (v : Nat) (s : State) (h : Carries z s) :
    Carries z (reqciWrite seat v s) := by
  unfold Sys2Proof.Machine.reqciWrite
  with_reducible repeat' (first
    | assumption | apply ite_carries | apply put_carries | split | dsimp only | intro)

theorem answerWci_carries {z : State} (id : SessionId) (m : Incoming) (keep : Bool) (status : Nat) (payload : List Byte) (s : State) (h : Carries z s) :
    OptCarries z (answerWci id m keep status payload s) := by
  unfold Sys2Proof.Machine.answerWci
  with_reducible repeat' (first
    | assumption | apply ite_carries | apply ite_opt | apply opt_some | apply opt_none | apply takeHead_carries
    | apply respond_carries | apply mapSession_carries | apply sendMsg_carries | split | dsimp only | intro)

theorem performWci_carries {z : State} (id : SessionId) (m : Incoming) (e : Session) (f : Session → Incoming → State → Reply) (after : Incoming → State → State) (s : State) (h_f : ∀ a0 a1 t, Carries z t → ReplyCarries z (f a0 a1 t)) (h_after : ∀ a0 t, Carries z t → Carries z (after a0 t)) (h : Carries z s) :
    OptCarries z (performWci id m e f after s) := by
  unfold Sys2Proof.Machine.performWci
  with_reducible repeat' (first
    | assumption | apply ite_carries | apply ite_opt | apply opt_some | apply opt_none | apply reply_now
    | apply reply_job | apply reply_wait | apply ite_reply | apply h_f | apply h_after | apply answerWci_carries
    | apply takeHead_carries | apply mapSession_carries | refine OptCarries.get (by assumption) ?_
    | refine reply_now_of (by assumption) ?_ | refine reply_job_of (by assumption) ?_
    | (apply Carries.mk_same; first | assumption | apply h_f | apply h_after | apply answerWci_carries | apply takeHead_carries | apply mapSession_carries | refine OptCarries.get (by assumption) ?_ | refine reply_now_of (by assumption) ?_ | refine reply_job_of (by assumption) ?_ | split)
    | split | dsimp only | intro)

theorem serveHead_carries {z : State} (id : SessionId) (m : Incoming) (op : Nat) (f : Session → Incoming → State → Reply) (after : Incoming → State → State) (s : State) (h_f : ∀ a0 a1 t, Carries z t → ReplyCarries z (f a0 a1 t)) (h_after : ∀ a0 t, Carries z t → Carries z (after a0 t)) (h : Carries z s) :
    OptCarries z (serveHead id m op f after s) := by
  unfold Sys2Proof.Machine.serveHead
  with_reducible repeat' (first
    | assumption | apply ite_carries | apply ite_opt | apply opt_some | apply opt_none | apply h_f | apply h_after
    | apply takeHead_carries | apply answerWci_carries | apply sendMsg_carries | apply performWci_carries
    | refine OptCarries.get (by assumption) ?_ | refine reply_now_of (by assumption) ?_
    | refine reply_job_of (by assumption) ?_ | split | dsimp only | intro)

theorem runWci_carries {z : State} (p : Peer) (op : Nat) (f : Session → Incoming → State → Reply) (after : Incoming → State → State) (s : State) (h_f : ∀ a0 a1 t, Carries z t → ReplyCarries z (f a0 a1 t)) (h_after : ∀ a0 t, Carries z t → Carries z (after a0 t)) (h : Carries z s) :
    ResCarries z (runWci p op f after s) := by
  unfold Sys2Proof.Machine.runWci
  with_reducible repeat' (first
    | assumption | apply ite_carries | apply ite_res | apply res_next | apply h_f | apply h_after
    | apply serveHead_carries | refine OptCarries.get (by assumption) ?_ | apply getD_carries
    | refine reply_now_of (by assumption) ?_ | refine reply_job_of (by assumption) ?_ | split | dsimp only | intro)

theorem plainWci_carries {z : State} (p : Peer) (op : Nat) (f : Session →   Incoming → State → Nat × List Byte × State) (s : State) (h_f : ∀ a0 a1 t, Carries z t → Carries z (f a0 a1 t).2.2) (h : Carries z s) :
    ResCarries z (plainWci p op f s) := by
  unfold Sys2Proof.Machine.plainWci
  with_reducible repeat' (first
    | assumption | apply res_next | apply reply_now | apply ite_reply | apply h_f | apply runWci_carries
    | refine res_next_of (by assumption) ?_ | split | dsimp only | intro)

theorem execEthmDatagram_carries {z : State} (n : Fin 4) (counter : Word64) (tagOk : Bool) (msg : List Byte) (s : State) (h : Carries z s) :
    ResCarries z (execEthmDatagram n counter tagOk msg s) := by
  unfold Sys2Proof.Machine.execEthmDatagram
  with_reducible repeat' (first
    | assumption | apply ite_carries | apply ite_res | apply res_next | apply mapSession_carries
    | (apply Carries.mk_same; first | assumption | apply mapSession_carries | split) | split | dsimp only | intro)

theorem endSession_carries {z : State} (id : SessionId) (s : State) (h : Carries z s) :
    Carries z (endSession id s) := by
  unfold Sys2Proof.Machine.endSession
  with_reducible repeat' (first
    | assumption | (apply Carries.mk_same; first | assumption | split) | split | dsimp only | intro)

theorem execBye_carries {z : State} (p : Peer) (s : State) (h : Carries z s) :
    ResCarries z (execBye p s) := by
  unfold Sys2Proof.Machine.execBye
  with_reducible repeat' (first
    | assumption | apply res_next | apply reply_now | apply ite_reply | apply runWci_carries
    | apply endSession_carries | refine res_next_of (by assumption) ?_ | split | dsimp only | intro)

theorem seatWci_carries {z : State} (p : Peer) (op : Nat) (f : Nat → State → Nat × List Byte × State) (after : Nat → State → State) (s : State) (h_f : ∀ a0 t, Carries z t → Carries z (f a0 t).2.2) (h_after : ∀ a0 t, Carries z t → Carries z (after a0 t)) (h : Carries z s) :
    ResCarries z (seatWci p op f after s) := by
  unfold Sys2Proof.Machine.seatWci
  with_reducible repeat' (first
    | assumption | apply ite_carries | apply ite_res | apply res_next | apply reply_now | apply ite_reply
    | apply h_f | apply h_after | apply runWci_carries | refine res_next_of (by assumption) ?_ | split | dsimp only
    | intro)

theorem execNoteAck_carries {z : State} (p : Peer) (s : State) (h : Carries z s) :
    ResCarries z (execNoteAck p s) := by
  unfold Sys2Proof.Machine.execNoteAck
  with_reducible repeat' (first
    | assumption | apply ite_carries | apply ite_res | apply res_next | apply takeHead_carries
    | apply mapSession_carries | split | dsimp only | intro)

theorem authEnd_carries {z : State} (id : SessionId) (e : Session) (r : AuthReply) (s : State) (h : Carries z s) :
    Carries z (authEnd id e r s).2.2 := by
  unfold Sys2Proof.Machine.authEnd
  with_reducible repeat' (first
    | assumption | apply ite_carries | apply ite_snd2 | apply mapSession_carries | split | dsimp only | intro)

theorem execMbxReqciWrite_carries {z : State} (by_ : Seat) (seat : Seat) (value : Word32) (s : State) (h : Carries z s) :
    ResCarries z (execMbxReqciWrite by_ seat value s) := by
  unfold Sys2Proof.Machine.execMbxReqciWrite
  with_reducible repeat' (first
    | assumption | apply res_next | apply mbxWrite_carries | apply reqciWrite_carries
    | refine res_next_of (by assumption) ?_ | split | dsimp only | intro)

theorem drawBytes_carries {z : State} (x1 : Nat) (x2 : State) (h_x2 : Carries z x2) :
    Carries z (drawBytes x1 x2).2 := by
  induction x1 generalizing x2 with
  | zero =>
    unfold Sys2Proof.Machine.drawBytes
    with_reducible repeat' (first
      | assumption | apply drawRandom_carries | refine Carries.snd (by assumption) ?_ | split | dsimp only | intro)
  | succ n ih =>
    unfold Sys2Proof.Machine.drawBytes
    with_reducible repeat' (first
      | assumption | apply ih | apply drawRandom_carries | refine Carries.snd (by assumption) ?_ | split
      | dsimp only | intro)

theorem helloCommand_carries {z : State} (id : SessionId) (m : Incoming) (s : State) (h : Carries z s) :
    OptCarries z (helloCommand id m s) := by
  unfold Sys2Proof.Machine.helloCommand
  with_reducible repeat' (first
    | assumption | apply ite_carries | apply ite_opt | apply opt_some | apply opt_none | apply endSession_carries
    | apply answerWci_carries | apply deviceAssigned_carries | refine OptCarries.get (by assumption) ?_
    | (apply Carries.mk_same; first | assumption | apply endSession_carries | apply answerWci_carries | apply deviceAssigned_carries | refine OptCarries.get (by assumption) ?_ | split)
    | split | dsimp only | intro)

theorem execHello_carries {z : State} (p : Peer) (s : State) (h : Carries z s) :
    ResCarries z (execHello p s) := by
  unfold Sys2Proof.Machine.execHello
  with_reducible repeat' (first
    | assumption | apply ite_carries | apply ite_res | apply res_next | apply reply_now | apply ite_reply
    | apply runWci_carries | apply helloCommand_carries | apply takeHead_carries | apply mapSession_carries
    | apply endSession_carries | refine OptCarries.get (by assumption) ?_ | apply getD_carries
    | refine res_next_of (by assumption) ?_ | split | dsimp only | intro)

theorem reqpiWrite_carries {z : State} (seat : Nat) (v : Nat) (s : State) (h : Carries z s) :
    Carries z (reqpiWrite seat v s) := by
  unfold Sys2Proof.Machine.reqpiWrite
  with_reducible repeat' (first
    | assumption | apply ite_carries | apply raiseSrc_carries | apply put_carries | split | dsimp only | intro)

theorem execMbxReqpiWrite_carries {z : State} (by_ : Seat) (seat : Seat) (value : Word32) (s : State) (h : Carries z s) :
    ResCarries z (execMbxReqpiWrite by_ seat value s) := by
  unfold Sys2Proof.Machine.execMbxReqpiWrite
  with_reducible repeat' (first
    | assumption | apply res_next | apply mbxWrite_carries | apply reqpiWrite_carries
    | refine res_next_of (by assumption) ?_ | split | dsimp only | intro)

theorem execNoteRetransmit_carries {z : State} (p : Peer) (seq : Word32) (s : State) (h : Carries z s) :
    ResCarries z (execNoteRetransmit p seq s) := by
  unfold Sys2Proof.Machine.execNoteRetransmit
  with_reducible repeat' (first
    | assumption | apply ite_carries | apply ite_res | apply res_next | apply sendMsg_carries
    | apply mapSession_carries | split | dsimp only | intro)

theorem rspciWrite_carries {z : State} (seat : Nat) (v : Nat) (s : State) (h : Carries z s) :
    Carries z (rspciWrite seat v s) := by
  unfold Sys2Proof.Machine.rspciWrite
  with_reducible repeat' (first
    | assumption | apply ite_carries | apply put_carries | split | dsimp only | intro)

theorem authBegin_carries {z : State} (id : SessionId) (s : State) (h : Carries z s) :
    Carries z (authBegin id s).2.2 := by
  unfold Sys2Proof.Machine.authBegin
  with_reducible repeat' (first
    | assumption | apply ite_carries | apply ite_snd2 | apply drawBytes_carries | apply mapSession_carries
    | refine Carries.snd (by assumption) ?_ | split | dsimp only | intro)

theorem execPing_carries {z : State} (p : Peer) (s : State) (h : Carries z s) :
    ResCarries z (execPing p s) := by
  unfold Sys2Proof.Machine.execPing
  with_reducible repeat' (first
    | assumption | apply res_next | apply plainWci_carries | refine res_next_of (by assumption) ?_ | split
    | dsimp only | intro)

theorem execMbxRspciWrite_carries {z : State} (by_ : Seat) (seat : Seat) (value : Word32) (s : State) (h : Carries z s) :
    ResCarries z (execMbxRspciWrite by_ seat value s) := by
  unfold Sys2Proof.Machine.execMbxRspciWrite
  with_reducible repeat' (first
    | assumption | apply res_next | apply mbxWrite_carries | apply rspciWrite_carries
    | refine res_next_of (by assumption) ?_ | split | dsimp only | intro)

theorem execAuth_carries {z : State} (p : Peer) (reply : Option AuthReply) (s : State) (h : Carries z s) :
    ResCarries z (execAuth p reply s) := by
  unfold Sys2Proof.Machine.execAuth
  with_reducible repeat' (first
    | assumption | apply ite_carries | apply ite_res | apply res_next | apply reply_now | apply ite_reply
    | apply runWci_carries | apply authBegin_carries | apply authEnd_carries | apply mapSession_carries
    | refine Carries.snd2 (by assumption) ?_ | refine res_next_of (by assumption) ?_ | split | dsimp only | intro)

end Sys2Proof.Laws
end

