-- ==== Sys2Proof/Laws/CarryWciCmd.lean ====
section
/-!
SUPPORT. What every operation of Machine/WciCmd.lean carries along (Laws/Carries.lean).
-/

set_option linter.all false
set_option Elab.async false

namespace Sys2Proof.Laws

open Sys2Proof.Machine

theorem execSeatinfo_carries {z : State} (p : Peer) (s : State) (h : Carries z s) :
    ResCarries z (execSeatinfo p s) := by
  unfold Sys2Proof.Machine.execSeatinfo
  with_reducible repeat' (first
    | assumption | apply res_next | apply plainWci_carries | refine res_next_of (by assumption) ?_ | split
    | dsimp only | intro)

theorem execLcycleNonce_carries {z : State} (p : Peer) (s : State) (h : Carries z s) :
    ResCarries z (execLcycleNonce p s) := by
  unfold Sys2Proof.Machine.execLcycleNonce
  with_reducible repeat' (first
    | assumption | apply ite_carries | apply ite_res | apply res_next | apply plainWci_carries
    | apply drawBytes_carries | apply mapSession_carries | refine Carries.snd (by assumption) ?_
    | refine res_next_of (by assumption) ?_ | split | dsimp only | intro)

theorem execCryptoRandom_carries {z : State} (p : Peer) (n : BitVec 16) (s : State) (h : Carries z s) :
    ResCarries z (execCryptoRandom p n s) := by
  unfold Sys2Proof.Machine.execCryptoRandom
  with_reducible repeat' (first
    | assumption | apply ite_carries | apply ite_res | apply res_next | apply plainWci_carries
    | apply drawBytes_carries | refine Carries.snd (by assumption) ?_ | refine res_next_of (by assumption) ?_
    | split | dsimp only | intro)

theorem restoreCommand_carries {z : State} (seat : Nat) (t : Nat) (s : State) (h : Carries z s) :
    Carries z (restoreCommand seat t s).2 := by
  unfold Sys2Proof.Machine.restoreCommand
  with_reducible repeat' (first
    | assumption | apply ite_carries | apply ite_snd | apply tgtWrite_carries | apply blockReset_carries | split
    | dsimp only | intro)

theorem execRestore_carries {z : State} (p : Peer) (target : BitVec 8) (s : State) (h : Carries z s) :
    ResCarries z (execRestore p target s) := by
  unfold Sys2Proof.Machine.execRestore
  with_reducible repeat' (first
    | assumption | apply res_next | apply plainWci_carries | apply restoreCommand_carries
    | refine Carries.snd (by assumption) ?_ | refine res_next_of (by assumption) ?_ | split | dsimp only | intro)

theorem execDebugRevoke_carries {z : State} (p : Peer) (s : State) (h : Carries z s) :
    ResCarries z (execDebugRevoke p s) := by
  unfold Sys2Proof.Machine.execDebugRevoke
  with_reducible repeat' (first
    | assumption | apply res_next | apply seatWci_carries | apply endGrant_carries
    | refine res_next_of (by assumption) ?_ | split | dsimp only | intro)

theorem xbufCommand_carries {z : State} (writer : Nat) (reader : Nat) (tag : Nat) (pages : Nat) (bank : Nat) (s : State) (h : Carries z s) :
    Carries z (xbufCommand writer reader tag pages bank s).2 := by
  unfold Sys2Proof.Machine.xbufCommand
  with_reducible repeat' (first
    | assumption | apply ite_carries | apply ite_snd | apply xbufSetup_carries | apply s2inv_carries
    | apply buildTables_carries | apply foldl_carries | apply foldl_snd_carries | apply foldl_snd2_carries
    | refine Carries.snd (by assumption) ?_ | refine Carries.snd2 (by assumption) ?_ | split | dsimp only | intro)

theorem execXbuf_carries {z : State} (p : Peer) (writer : Bool) (peer : Seat) (tag : BitVec 16) (pages : Word32) (bank : Fin 32) (s : State) (h : Carries z s) :
    ResCarries z (execXbuf p writer peer tag pages bank s) := by
  unfold Sys2Proof.Machine.execXbuf
  with_reducible repeat' (first
    | assumption | apply ite_carries | apply ite_res | apply res_next | apply plainWci_carries
    | apply xbufCommand_carries | refine Carries.snd (by assumption) ?_ | refine res_next_of (by assumption) ?_
    | split | dsimp only | intro)

theorem spendNonce_carries {z : State} (e : Session) (s : State) (h : Carries z s) :
    Carries z (spendNonce e s) := by
  unfold Sys2Proof.Machine.spendNonce
  with_reducible repeat' (first
    | assumption | apply mapSession_carries | split | dsimp only | intro)

theorem prepareReturn_carries {z : State} (s : State) (h : Carries z s) :
    Carries z (prepareReturn s) := by
  unfold Sys2Proof.Machine.prepareReturn
  with_reducible repeat' (first
    | assumption | apply zeroMem_carries | apply each_carries | apply seatResetStart_carries | split | dsimp only
    | intro)

theorem blowTransition_carries {z : State} (target : Nat) (s : State) (h : Carries z s) :
    OptCarries z (blowTransition target s) := by
  unfold Sys2Proof.Machine.blowTransition
  with_reducible repeat' (first
    | assumption | apply ite_carries | apply ite_opt | apply opt_some | apply opt_none | apply each_carries
    | apply endGrant_carries | apply prepareReturn_carries | apply fuseNow_carries
    | refine OptCarries.get (by assumption) ?_ | apply opt_bind | split | dsimp only | intro)

theorem transitionCommand_carries {z : State} (e : Session) (target : Nat) (owner : Option Signed) (maker : Option Signed) (s : State) (h : Carries z s) :
    Carries z (transitionCommand e target owner maker s).2 := by
  unfold Sys2Proof.Machine.transitionCommand
  with_reducible repeat' (first
    | assumption | apply ite_carries | apply ite_snd | apply spendNonce_carries | apply blowTransition_carries
    | refine OptCarries.get (by assumption) ?_ | split | dsimp only | intro)

theorem recoveryBegin_carries {z : State} (m : List Byte) (header : List Byte) (lists : List (List Byte)) (s : State) (h : Carries z s) :
    Carries z (recoveryBegin m header lists s).2.2 := by
  unfold Sys2Proof.Machine.recoveryBegin
  with_reducible repeat' (first
    | assumption | apply ite_carries | apply ite_snd2 | apply enterMsx_carries | apply recoveryFails_carries
    | (apply Carries.mk_same; first | assumption | apply enterMsx_carries | apply recoveryFails_carries | split)
    | split | dsimp only | intro)

theorem execRecoveryBegin_carries {z : State} (p : Peer) (manifest : List Byte) (header : List Byte) (lists : List (List Byte)) (s : State) (h : Carries z s) :
    ResCarries z (execRecoveryBegin p manifest header lists s) := by
  unfold Sys2Proof.Machine.execRecoveryBegin
  with_reducible repeat' (first
    | assumption | apply res_next | apply plainWci_carries | apply recoveryBegin_carries
    | refine Carries.snd2 (by assumption) ?_ | refine res_next_of (by assumption) ?_ | split | dsimp only | intro)

theorem lgCommand_carries {z : State} (seat : Nat) (reg : LgReg) (g : Nat) (value : Nat) (src : Nat) (s : State) (h : Carries z s) :
    Carries z (lgCommand seat reg g value src s).2 := by
  unfold Sys2Proof.Machine.lgCommand
  with_reducible repeat' (first
    | assumption | apply ite_carries | apply ite_snd | apply stopLanes_carries | apply syncWrite_carries
    | apply lgCtlWrite_carries | apply loadWrite_carries | apply put_carries | split | dsimp only | intro)

theorem execRecoveryEnd_carries {z : State} (p : Peer) (s : State) (h : Carries z s) :
    ResCarries z (execRecoveryEnd p s) := by
  unfold Sys2Proof.Machine.execRecoveryEnd
  with_reducible repeat' (first
    | assumption | apply ite_carries | apply ite_res | apply res_next | apply plainWci_carries
    | refine res_next_of (by assumption) ?_ | split | dsimp only | intro)

theorem execStandbyCommand_carries {z : State} (p : Peer) (tick : BitVec 8) (s : State) (h : Carries z s) :
    ResCarries z (execStandbyCommand p tick s) := by
  unfold Sys2Proof.Machine.execStandbyCommand
  with_reducible repeat' (first
    | assumption | apply ite_carries | apply ite_res | apply res_next | apply reply_now | apply ite_reply
    | apply runWci_carries | apply sbctlWrite_carries | refine res_next_of (by assumption) ?_ | split | dsimp only
    | intro)

theorem pfCommand_carries {z : State} (seat : Nat) (level : Nat) (s : State) (h : Carries z s) :
    Carries z (pfCommand seat level s).2 := by
  unfold Sys2Proof.Machine.pfCommand
  with_reducible repeat' (first
    | assumption | apply ite_carries | apply ite_snd | apply put_carries | apply levelChange_carries
    | apply foldl_carries | apply foldl_snd_carries | apply foldl_snd2_carries
    | refine Carries.snd (by assumption) ?_ | refine Carries.snd2 (by assumption) ?_
    | (apply Carries.mk_same; first | assumption | apply put_carries | apply levelChange_carries | apply foldl_carries | apply foldl_snd_carries | apply foldl_snd2_carries | refine Carries.snd (by assumption) ?_ | refine Carries.snd2 (by assumption) ?_ | split)
    | split | dsimp only | intro)

theorem execPfreq_carries {z : State} (p : Peer) (level : BitVec 8) (s : State) (h : Carries z s) :
    ResCarries z (execPfreq p level s) := by
  unfold Sys2Proof.Machine.execPfreq
  with_reducible repeat' (first
    | assumption | apply res_next | apply plainWci_carries | apply pfCommand_carries
    | refine Carries.snd (by assumption) ?_ | refine res_next_of (by assumption) ?_ | split | dsimp only | intro)

theorem execLgwrite_carries {z : State} (p : Peer) (reg : LgReg) (g : GroupId) (value : Word32) (src : BitVec 48) (s : State) (h : Carries z s) :
    ResCarries z (execLgwrite p reg g value src s) := by
  unfold Sys2Proof.Machine.execLgwrite
  with_reducible repeat' (first
    | assumption | apply res_next | apply plainWci_carries | apply lgCommand_carries
    | refine Carries.snd (by assumption) ?_ | refine res_next_of (by assumption) ?_ | split | dsimp only | intro)

theorem execLcycleTransition_carries {z : State} (p : Peer) (target : Fin 6) (owner : Option Signed) (maker : Option Signed) (s : State) (h : Carries z s) :
    ResCarries z (execLcycleTransition p target owner maker s) := by
  unfold Sys2Proof.Machine.execLcycleTransition
  with_reducible repeat' (first
    | assumption | apply res_next | apply reply_now | apply ite_reply | apply runWci_carries
    | apply transitionCommand_carries | apply softReset_carries | refine Carries.snd (by assumption) ?_
    | refine res_next_of (by assumption) ?_ | split | dsimp only | intro)

theorem execCryptoHash_carries {z : State} (p : Peer) (n : BitVec 16) (data : List Byte) (s : State) (h : Carries z s) :
    ResCarries z (execCryptoHash p n data s) := by
  unfold Sys2Proof.Machine.execCryptoHash
  with_reducible repeat' (first
    | assumption | apply ite_carries | apply ite_res | apply res_next | apply reply_now | apply reply_job
    | apply ite_reply | apply runWci_carries | refine res_next_of (by assumption) ?_ | split | dsimp only | intro)

theorem mapSafe_carries {z : State} (s : State) (owner : Nat) (id : Nat) (f : SafeChannel → SafeChannel) (h : Carries z s) :
    Carries z (State.mapSafe s owner id f) := by
  unfold Sys2Proof.Machine.State.mapSafe
  with_reducible repeat' (first
    | assumption | apply ite_carries | (apply Carries.mk_same; first | assumption | split) | split | dsimp only
    | intro)

theorem safeSend_carries {z : State} (owner : Nat) (id : Nat) (data : List Byte) (s : State) (h : Carries z s) :
    Carries z (safeSend owner id data s).2 := by
  unfold Sys2Proof.Machine.safeSend
  with_reducible repeat' (first
    | assumption | apply ite_carries | apply ite_snd | apply mapSafe_carries | apply noteSeat_carries
    | (apply Carries.mk_same; first | assumption | apply mapSafe_carries | apply noteSeat_carries | split) | split
    | dsimp only | intro)

theorem restartCommand_carries {z : State} (seat : Nat) (s : State) (h : Carries z s) :
    Carries z (restartCommand seat s) := by
  unfold Sys2Proof.Machine.restartCommand
  with_reducible repeat' (first
    | assumption | apply ite_carries | apply seatResetStart_carries
    | (apply Carries.mk_same; first | assumption | apply seatResetStart_carries | split) | split | dsimp only
    | intro)

theorem execSeatRestart_carries {z : State} (p : Peer) (s : State) (h : Carries z s) :
    ResCarries z (execSeatRestart p s) := by
  unfold Sys2Proof.Machine.execSeatRestart
  with_reducible repeat' (first
    | assumption | apply res_next | apply seatWci_carries | apply restartCommand_carries
    | refine res_next_of (by assumption) ?_ | split | dsimp only | intro)

theorem execCryptoVerify_carries {z : State} (p : Peer) (key : List Byte) (ctx : List Byte) (msg : List Byte) (sig : List Byte) (s : State) (h : Carries z s) :
    ResCarries z (execCryptoVerify p key ctx msg sig s) := by
  unfold Sys2Proof.Machine.execCryptoVerify
  with_reducible repeat' (first
    | assumption | apply ite_carries | apply ite_res | apply res_next | apply reply_now | apply reply_job
    | apply ite_reply | apply runWci_carries | refine res_next_of (by assumption) ?_ | split | dsimp only | intro)

theorem execClaim_carries {z : State} (p : Peer) (unit : Fin 32) (s : State) (h : Carries z s) :
    ResCarries z (execClaim p unit s) := by
  unfold Sys2Proof.Machine.execClaim
  with_reducible repeat' (first
    | assumption | apply res_next | apply plainWci_carries | apply claim_carries
    | refine Carries.snd (by assumption) ?_ | refine res_next_of (by assumption) ?_ | split | dsimp only | intro)

theorem keyRevoke_carries {z : State} (e : Session) (slot : Nat) (g : Signed) (s : State) (h : Carries z s) :
    Carries z (keyRevoke e slot g s).2 := by
  unfold Sys2Proof.Machine.keyRevoke
  with_reducible repeat' (first
    | assumption | apply ite_carries | apply ite_snd | apply spendNonce_carries | apply fuseNow_carries
    | refine OptCarries.get (by assumption) ?_ | apply getD_carries | split | dsimp only | intro)

theorem safeOpen_carries {z : State} (owner : Nat) (id : Nat) (dev : Nat) (peer : Nat) (opened : Bool) (maxAge : Nat) (s : State) (h : Carries z s) :
    Carries z (safeOpen owner id dev peer opened maxAge s).2 := by
  unfold Sys2Proof.Machine.safeOpen
  with_reducible repeat' (first
    | assumption | apply ite_carries | apply ite_snd | (apply Carries.mk_same; first | assumption | split) | split
    | dsimp only | intro)

theorem execDevinfo_carries {z : State} (p : Peer) (s : State) (h : Carries z s) :
    ResCarries z (execDevinfo p s) := by
  unfold Sys2Proof.Machine.execDevinfo
  with_reducible repeat' (first
    | assumption | apply res_next | apply plainWci_carries | refine res_next_of (by assumption) ?_ | split
    | dsimp only | intro)

theorem safeCommand_carries {z : State} (seat : Nat) (s : State) (h : Carries z s) :
    Carries z (safeCommand seat s) := by
  unfold Sys2Proof.Machine.safeCommand
  with_reducible repeat' (first
    | assumption | apply ite_carries | apply enterSeatSafe_carries | split | dsimp only | intro)

theorem execSeatSafeCommand_carries {z : State} (p : Peer) (s : State) (h : Carries z s) :
    ResCarries z (execSeatSafeCommand p s) := by
  unfold Sys2Proof.Machine.execSeatSafeCommand
  with_reducible repeat' (first
    | assumption | apply res_next | apply seatWci_carries | apply safeCommand_carries
    | refine res_next_of (by assumption) ?_ | split | dsimp only | intro)

theorem execSafecommSend_carries {z : State} (p : Peer) (id : BitVec 16) (data : List Byte) (s : State) (h : Carries z s) :
    ResCarries z (execSafecommSend p id data s) := by
  unfold Sys2Proof.Machine.execSafecommSend
  with_reducible repeat' (first
    | assumption | apply res_next | apply plainWci_carries | apply safeSend_carries
    | refine Carries.snd (by assumption) ?_ | refine res_next_of (by assumption) ?_ | split | dsimp only | intro)

theorem recoveryBlock_carries {z : State} (i : Nat) (index : Nat) (data : List Byte) (s : State) (h : Carries z s) :
    ReplyCarries z (recoveryBlock i index data s) := by
  unfold Sys2Proof.Machine.recoveryBlock
  with_reducible repeat' (first
    | assumption | apply ite_carries | apply reply_now | apply reply_wait | apply ite_reply | apply mapComp_carries
    | apply writeBytes_carries | apply recoveryFails_carries | split | dsimp only | intro)

theorem execRecoveryBlock_carries {z : State} (p : Peer) (comp : Fin 32) (index : BitVec 20) (data : List Byte) (s : State) (h : Carries z s) :
    ResCarries z (execRecoveryBlock p comp index data s) := by
  unfold Sys2Proof.Machine.execRecoveryBlock
  with_reducible repeat' (first
    | assumption | apply res_next | apply runWci_carries | apply recoveryBlock_carries
    | refine reply_now_of (by assumption) ?_ | refine reply_job_of (by assumption) ?_
    | refine res_next_of (by assumption) ?_ | split | dsimp only | intro)

theorem execNetcfgSet_carries {z : State} (p : Peer) (words : Vector Word32 4) (s : State) (h : Carries z s) :
    ResCarries z (execNetcfgSet p words s) := by
  unfold Sys2Proof.Machine.execNetcfgSet
  with_reducible repeat' (first
    | assumption | apply res_next | apply plainWci_carries | apply prsPut_carries | apply foldl_carries
    | apply foldl_snd_carries | apply foldl_snd2_carries | refine Carries.snd (by assumption) ?_
    | refine Carries.snd2 (by assumption) ?_ | refine res_next_of (by assumption) ?_ | split | dsimp only | intro)

theorem execTokens_carries {z : State} (p : Peer) (s : State) (h : Carries z s) :
    ResCarries z (execTokens p s) := by
  unfold Sys2Proof.Machine.execTokens
  with_reducible repeat' (first
    | assumption | apply res_next | apply plainWci_carries | refine res_next_of (by assumption) ?_ | split
    | dsimp only | intro)

theorem safeRecv_carries {z : State} (owner : Nat) (id : Nat) (arrived : List (SafeMsg × Bool)) (s : State) (h : Carries z s) :
    Carries z (safeRecv owner id arrived s).2.2 := by
  unfold Sys2Proof.Machine.safeRecv
  with_reducible repeat' (first
    | assumption | apply mapSafe_carries | apply foldl_carries | apply foldl_snd_carries | apply foldl_snd2_carries
    | refine Carries.snd (by assumption) ?_ | refine Carries.snd2 (by assumption) ?_ | split | dsimp only | intro)

theorem execSafecommOpen_carries {z : State} (p : Peer) (id : BitVec 16) (dev : BitVec 12) (peer : Seat) (opened : Bool) (maxAge : Word64) (s : State) (h : Carries z s) :
    ResCarries z (execSafecommOpen p id dev peer opened maxAge s) := by
  unfold Sys2Proof.Machine.execSafecommOpen
  with_reducible repeat' (first
    | assumption | apply res_next | apply plainWci_carries | apply safeOpen_carries
    | refine Carries.snd (by assumption) ?_ | refine res_next_of (by assumption) ?_ | split | dsimp only | intro)

theorem execUpdateBegin_carries {z : State} (p : Peer) (slot : Fin 2) (s : State) (h : Carries z s) :
    ResCarries z (execUpdateBegin p slot s) := by
  unfold Sys2Proof.Machine.execUpdateBegin
  with_reducible repeat' (first
    | assumption | apply res_next | apply plainWci_carries | apply flashErase_carries
    | refine res_next_of (by assumption) ?_
    | (apply Carries.mk_same; first | assumption | apply plainWci_carries | apply flashErase_carries | refine res_next_of (by assumption) ?_ | split)
    | split | dsimp only | intro)

theorem execFaultlog_carries {z : State} (p : Peer) (s : State) (h : Carries z s) :
    ResCarries z (execFaultlog p s) := by
  unfold Sys2Proof.Machine.execFaultlog
  with_reducible repeat' (first
    | assumption | apply res_next | apply plainWci_carries | refine res_next_of (by assumption) ?_ | split
    | dsimp only | intro)

theorem execSafecommRecv_carries {z : State} (p : Peer) (id : BitVec 16) (arrived : List (SafeMsg × Bool)) (s : State) (h : Carries z s) :
    ResCarries z (execSafecommRecv p id arrived s) := by
  unfold Sys2Proof.Machine.execSafecommRecv
  with_reducible repeat' (first
    | assumption | apply res_next | apply plainWci_carries | apply safeRecv_carries
    | refine Carries.snd2 (by assumption) ?_ | refine res_next_of (by assumption) ?_ | split | dsimp only | intro)

theorem keyAdd_carries {z : State} (e : Session) (key : List Byte) (g : Signed) (s : State) (h : Carries z s) :
    Carries z (keyAdd e key g s).2 := by
  unfold Sys2Proof.Machine.keyAdd
  with_reducible repeat' (first
    | assumption | apply ite_carries | apply ite_snd | apply spendNonce_carries | apply fuseNow_carries
    | refine OptCarries.get (by assumption) ?_ | apply getD_carries | split | dsimp only | intro)

theorem execKeyadd_carries {z : State} (p : Peer) (key : List Byte) (by_ : Signed) (s : State) (h : Carries z s) :
    ResCarries z (execKeyadd p key by_ s) := by
  unfold Sys2Proof.Machine.execKeyadd
  with_reducible repeat' (first
    | assumption | apply res_next | apply plainWci_carries | apply keyAdd_carries
    | refine Carries.snd (by assumption) ?_ | refine res_next_of (by assumption) ?_ | split | dsimp only | intro)

theorem execDebugGrant_carries {z : State} (p : Peer) (r : DbgRequest) (s : State) (h : Carries z s) :
    ResCarries z (execDebugGrant p r s) := by
  unfold Sys2Proof.Machine.execDebugGrant
  with_reducible repeat' (first
    | assumption | apply ite_carries | apply ite_res | apply res_next | apply plainWci_carries
    | apply signedRequest_carries | refine Carries.snd (by assumption) ?_ | refine res_next_of (by assumption) ?_
    | split | dsimp only | intro)

theorem execUpdateCommit_carries {z : State} (p : Peer) (s : State) (h : Carries z s) :
    ResCarries z (execUpdateCommit p s) := by
  unfold Sys2Proof.Machine.execUpdateCommit
  with_reducible repeat' (first
    | assumption | apply ite_carries | apply ite_res | apply res_next | apply plainWci_carries
    | refine res_next_of (by assumption) ?_
    | (apply Carries.mk_same; first | assumption | apply plainWci_carries | refine res_next_of (by assumption) ?_ | split)
    | split | dsimp only | intro)

theorem stopCommand_carries {z : State} (seat : Nat) (s : State) (h : Carries z s) :
    Carries z (stopCommand seat s) := by
  unfold Sys2Proof.Machine.stopCommand
  with_reducible repeat' (first
    | assumption | apply safeCommand_carries | apply putBit_carries | split | dsimp only | intro)

theorem execSeatStop_carries {z : State} (p : Peer) (s : State) (h : Carries z s) :
    ResCarries z (execSeatStop p s) := by
  unfold Sys2Proof.Machine.execSeatStop
  with_reducible repeat' (first
    | assumption | apply res_next | apply seatWci_carries | apply stopCommand_carries
    | refine res_next_of (by assumption) ?_ | split | dsimp only | intro)

theorem execNetcfgGet_carries {z : State} (p : Peer) (s : State) (h : Carries z s) :
    ResCarries z (execNetcfgGet p s) := by
  unfold Sys2Proof.Machine.execNetcfgGet
  with_reducible repeat' (first
    | assumption | apply res_next | apply plainWci_carries | refine res_next_of (by assumption) ?_ | split
    | dsimp only | intro)

theorem execSystemCommand_carries {z : State} (p : Peer) (op : BitVec 8) (s : State) (h : Carries z s) :
    ResCarries z (execSystemCommand p op s) := by
  unfold Sys2Proof.Machine.execSystemCommand
  with_reducible repeat' (first
    | assumption | apply ite_carries | apply ite_res | apply res_next | apply plainWci_carries
    | refine res_next_of (by assumption) ?_ | split | dsimp only | intro)

theorem flashPut_carries {z : State} (slot : Nat) (x1 : Nat) (x2 : List Byte) (x3 : State) (h_x3 : Carries z x3) :
    Carries z (flashPut slot x1 x2 x3) := by
  induction x2 generalizing slot x1 x3 with
  | nil =>
    unfold Sys2Proof.Machine.flashPut
    with_reducible repeat' (first
      | assumption | apply flashByte_carries | split | dsimp only | intro)
  | cons hd tl ih =>
    unfold Sys2Proof.Machine.flashPut
    with_reducible repeat' (first
      | assumption | apply ih | apply flashByte_carries | split | dsimp only | intro)

theorem execUpdateBlock_carries {z : State} (p : Peer) (offset : Word32) (data : List Byte) (s : State) (h : Carries z s) :
    ResCarries z (execUpdateBlock p offset data s) := by
  unfold Sys2Proof.Machine.execUpdateBlock
  with_reducible repeat' (first
    | assumption | apply res_next | apply plainWci_carries | apply flashPut_carries
    | refine res_next_of (by assumption) ?_ | split | dsimp only | intro)

theorem execCryptoSign_carries {z : State} (p : Peer) (ctx : List Byte) (msg : List Byte) (s : State) (h : Carries z s) :
    ResCarries z (execCryptoSign p ctx msg s) := by
  unfold Sys2Proof.Machine.execCryptoSign
  with_reducible repeat' (first
    | assumption | apply ite_carries | apply ite_res | apply res_next | apply reply_now | apply reply_job
    | apply ite_reply | apply runWci_carries | refine res_next_of (by assumption) ?_ | split | dsimp only | intro)

theorem execSeatResetCommand_carries {z : State} (p : Peer) (s : State) (h : Carries z s) :
    ResCarries z (execSeatResetCommand p s) := by
  unfold Sys2Proof.Machine.execSeatResetCommand
  with_reducible repeat' (first
    | assumption | apply res_next | apply seatWci_carries | apply seatResetStart_carries
    | refine res_next_of (by assumption) ?_ | split | dsimp only | intro)

theorem execSafecommClose_carries {z : State} (p : Peer) (id : BitVec 16) (s : State) (h : Carries z s) :
    ResCarries z (execSafecommClose p id s) := by
  unfold Sys2Proof.Machine.execSafecommClose
  with_reducible repeat' (first
    | assumption | apply ite_carries | apply ite_res | apply res_next | apply plainWci_carries
    | refine res_next_of (by assumption) ?_
    | (apply Carries.mk_same; first | assumption | apply plainWci_carries | refine res_next_of (by assumption) ?_ | split)
    | split | dsimp only | intro)

theorem execRelease_carries {z : State} (p : Peer) (s : State) (h : Carries z s) :
    ResCarries z (execRelease p s) := by
  unfold Sys2Proof.Machine.execRelease
  with_reducible repeat' (first
    | assumption | apply res_next | apply plainWci_carries | apply releaseClaim_carries
    | refine Carries.snd (by assumption) ?_ | refine res_next_of (by assumption) ?_ | split | dsimp only | intro)

theorem execKeyrevoke_carries {z : State} (p : Peer) (slot : Fin 9) (by_ : Signed) (s : State) (h : Carries z s) :
    ResCarries z (execKeyrevoke p slot by_ s) := by
  unfold Sys2Proof.Machine.execKeyrevoke
  with_reducible repeat' (first
    | assumption | apply res_next | apply plainWci_carries | apply keyRevoke_carries
    | refine Carries.snd (by assumption) ?_ | refine res_next_of (by assumption) ?_ | split | dsimp only | intro)

end Sys2Proof.Laws
end

