-- ==== Sys2Proof/Laws/CarryBus.lean ====
section
/-!
SUPPORT. What every operation of Machine/Bus.lean carries along (Laws/Carries.lean).
-/

set_option linter.all false
set_option Elab.async false

namespace Sys2Proof.Laws

open Sys2Proof.Machine

theorem laneMemRead_carries {z : State} (n : Nat) (data : Bool) (w : Nat) (u : Upset) (s : State) (h : Carries z s) :
    Carries z (laneMemRead n data w u s).2 := by
  unfold Sys2Proof.Machine.laneMemRead
  with_reducible repeat' (first
    | assumption | apply ite_carries | apply ite_snd | apply countUp_carries | split | dsimp only | intro)

theorem regReadEffect_carries {z : State} (r : RegDef) (i : Nat) (j : Nat) (mask : Nat) (s : State) (h : Carries z s) :
    Carries z (regReadEffect r i j mask s) := by
  unfold Sys2Proof.Machine.regReadEffect
  with_reducible repeat' (first
    | assumption | apply ite_carries | apply claimAt_carries | apply setReg_carries | apply foldl_carries
    | apply foldl_snd_carries | apply foldl_snd2_carries | refine Carries.snd (by assumption) ?_
    | refine Carries.snd2 (by assumption) ?_ | split | dsimp only | intro)

theorem regRead_carries {z : State} (seat : Nat) (r : RegDef) (i : Nat) (j : Nat) (mask : Nat) (peek : Bool) (s : State) (h : Carries z s) :
    Carries z (regRead seat r i j mask peek s).2 := by
  unfold Sys2Proof.Machine.regRead
  with_reducible repeat' (first
    | assumption | apply ite_carries | apply ite_snd | apply regReadEffect_carries | apply draw_carries
    | apply landCommits_carries | refine Carries.snd (by assumption) ?_ | split | dsimp only | intro)

theorem wordRead_carries {z : State} (seat : Nat) (a : Nat) (u : Upset) (peek : Bool) (s : State) (h : Carries z s) :
    Carries z (wordRead seat a u peek s).2 := by
  unfold Sys2Proof.Machine.wordRead
  with_reducible repeat' (first
    | assumption | apply ite_carries | apply ite_snd | apply seatViolation_carries | apply laneMemRead_carries
    | apply draw_carries | apply regRead_carries | refine Carries.snd (by assumption) ?_ | split | dsimp only
    | intro)

theorem laneMemWrite_carries {z : State} (n : Nat) (data : Bool) (w : Nat) (v : Nat) (s : State) (h : Carries z s) :
    Carries z (laneMemWrite n data w v s).2 := by
  unfold Sys2Proof.Machine.laneMemWrite
  with_reducible repeat' (first
    | assumption | apply ite_carries | apply ite_snd | apply mapLane_carries | apply programWrite_carries | split
    | dsimp only | intro)

theorem globalWrite_carries {z : State} (seat : Nat) (r : RegDef) (i : Nat) (j : Nat) (v : Nat) (mask : Nat) (s : State) (h : Carries z s) :
    OptCarries z (globalWrite seat r i j v mask s) := by
  unfold Sys2Proof.Machine.globalWrite
  extract_lets
  all_goals
    repeat' refine ite_opt (fun _ => ?_) (fun _ => ?_)
    all_goals first | exact opt_none | refine opt_some ?_ | skip
  with_reducible repeat' (first
    | assumption | apply ite_carries | apply writeFields_carries | apply seatLockWrite_carries | apply put_carries
    | apply dealLockWrite_carries | apply s2inv_carries | apply bcfgWrite_carries | apply tgtWrite_carries
    | apply bsetWrite_carries | apply mcsCommit_carries | apply pcmdWrite_carries | apply setReg_carries | intro _
    | split | dsimp only)

theorem laneRegWrite_carries {z : State} (seat : Nat) (r : RegDef) (i : Nat) (j : Nat) (v : Nat) (mask : Nat) (s : State) (h : Carries z s) :
    OptCarries z (laneRegWrite seat r i j v mask s) := by
  unfold Sys2Proof.Machine.laneRegWrite
  extract_lets
  all_goals
    repeat' refine ite_opt (fun _ => ?_) (fun _ => ?_)
    all_goals first | exact opt_none | refine opt_some ?_ | skip
  with_reducible repeat' (first
    | assumption | apply ite_carries | apply writeFields_carries | apply lgCtlWrite_carries
    | apply syncWrite_carries | apply stopLanes_carries | apply loadWrite_carries | apply clearLaneFault_carries
    | apply laneHalt_carries | apply stepLane_carries | apply requestStart_carries | apply entryWrite_carries
    | apply crclenWrite_carries | apply ftWrite_carries | apply sdiStatWrite_carries | apply tripmaskWrite_carries
    | apply hrpCtlWrite_carries | apply hrpStatWrite_carries | apply shadowWrite_carries | intro _ | split
    | dsimp only)

theorem systemRegWrite_carries {z : State} (seat : Nat) (r : RegDef) (i : Nat) (j : Nat) (v : Nat) (mask : Nat) (s : State) (h : Carries z s) :
    OptCarries z (systemRegWrite seat r i j v mask s) := by
  unfold Sys2Proof.Machine.systemRegWrite
  extract_lets
  all_goals
    repeat' refine ite_opt (fun _ => ?_) (fun _ => ?_)
    all_goals first | exact opt_none | refine opt_some ?_ | skip
  with_reducible repeat' (first
    | assumption | apply ite_carries | apply writeFields_carries | apply sfiCtlWrite_carries | apply svpKick_carries
    | apply injectFault_carries | apply clearLog_carries | apply swdConfig_carries | apply swdKick_carries
    | apply cwdConfig_carries | apply cwdKick_carries | apply pfctlWrite_carries | apply fioWrite_carries
    | apply sbctlWrite_carries | apply rstWrite_carries | apply wakeCore_carries | apply put_carries
    | apply foldl_carries | apply foldl_snd_carries | apply foldl_snd2_carries
    | (apply Carries.mk_same; first | assumption | apply writeFields_carries | apply sfiCtlWrite_carries | apply svpKick_carries | apply injectFault_carries | apply clearLog_carries | apply swdConfig_carries | apply swdKick_carries | apply cwdConfig_carries | apply cwdKick_carries | apply pfctlWrite_carries | apply fioWrite_carries | apply sbctlWrite_carries | apply rstWrite_carries | apply wakeCore_carries | apply put_carries | apply foldl_carries | apply foldl_snd_carries | apply foldl_snd2_carries | refine Carries.snd (by assumption) ?_ | refine Carries.snd2 (by assumption) ?_ | split)
    | intro _ | split | dsimp only)

theorem linkRegWrite_carries {z : State} (seat : Nat) (r : RegDef) (i : Nat) (j : Nat) (v : Nat) (mask : Nat) (s : State) (h : Carries z s) :
    OptCarries z (linkRegWrite seat r i j v mask s) := by
  unfold Sys2Proof.Machine.linkRegWrite
  extract_lets
  all_goals
    repeat' refine ite_opt (fun _ => ?_) (fun _ => ?_)
    all_goals first | exact opt_none | refine opt_some ?_ | skip
  with_reducible repeat' (first
    | assumption | apply ite_carries | apply writeFields_carries | apply reqpiWrite_carries
    | apply rspciWrite_carries | apply rsppiWrite_carries | apply reqciWrite_carries | apply hqTxpi_carries
    | apply stoptxWrite_carries | apply rdstWrite_carries | apply put_carries | apply stimWrite_carries
    | apply sctlWrite_carries
    | (apply Carries.mk_same; first | assumption | apply writeFields_carries | apply reqpiWrite_carries | apply rspciWrite_carries | apply rsppiWrite_carries | apply reqciWrite_carries | apply hqTxpi_carries | apply stoptxWrite_carries | apply rdstWrite_carries | apply put_carries | apply stimWrite_carries | apply sctlWrite_carries | split)
    | intro _ | split | dsimp only)

theorem regWrite_carries {z : State} (seat : Nat) (r : RegDef) (i : Nat) (j : Nat) (v : Nat) (mask : Nat) (s : State) (h : Carries z s) :
    Carries z (regWrite seat r i j v mask s).2 := by
  unfold Sys2Proof.Machine.regWrite
  with_reducible repeat' (first
    | assumption | apply ite_carries | apply ite_snd | apply srcWrite_carries | apply swtrig_carries
    | apply completeAt_carries | apply globalWrite_carries | apply laneRegWrite_carries
    | apply systemRegWrite_carries | apply linkRegWrite_carries | apply writeFields_carries
    | refine Carries.snd (by assumption) ?_ | refine OptCarries.get (by assumption) ?_ | apply opt_orElse
    | apply getD_carries | split | dsimp only | intro)

theorem wordWrite_carries {z : State} (seat : Nat) (a : Nat) (v : Nat) (s : State) (h : Carries z s) :
    Carries z (wordWrite seat a v s).2 := by
  unfold Sys2Proof.Machine.wordWrite
  with_reducible repeat' (first
    | assumption | apply ite_carries | apply ite_snd | apply seatViolation_carries | apply laneMemWrite_carries
    | apply regWrite_carries | refine Carries.snd (by assumption) ?_ | split | dsimp only | intro)

theorem deviceWrite_carries {z : State} (seat : Nat) (a : Nat) (n : Nat) (v : Nat) (s : State) (h : Carries z s) :
    Carries z (deviceWrite seat a n v s).2 := by
  unfold Sys2Proof.Machine.deviceWrite
  with_reducible repeat' (first
    | assumption | apply ite_carries | apply ite_snd | apply wordWrite_carries | apply regWrite_carries
    | apply draw_carries | refine Carries.snd (by assumption) ?_ | split | dsimp only | intro)

theorem remoteRead_carries {z : State} (seat : Nat) (pa : Nat) (n : Nat) (u : Upset) (s : State) (h : Carries z s) :
    Carries z (remoteRead seat pa n u s).2 := by
  unfold Sys2Proof.Machine.remoteRead
  with_reducible repeat' (first
    | assumption | apply ite_carries | apply ite_snd | apply draw_carries | refine Carries.snd (by assumption) ?_
    | split | dsimp only | intro)

theorem deviceRead_carries {z : State} (seat : Nat) (a : Nat) (n : Nat) (u : Upset) (peek : Bool) (s : State) (h : Carries z s) :
    Carries z (deviceRead seat a n u peek s).2 := by
  unfold Sys2Proof.Machine.deviceRead
  with_reducible repeat' (first
    | assumption | apply ite_carries | apply ite_snd | apply wordRead_carries | apply draw_carries
    | refine Carries.snd (by assumption) ?_
    | (apply Carries.mk_same; first | assumption | apply wordRead_carries | apply draw_carries | refine Carries.snd (by assumption) ?_ | split)
    | split | dsimp only | intro)

theorem busRead_carries {z : State} (seat : Nat) (pa : Nat) (n : Nat) (u : Upset) (peek : Bool) (s : State) (h : Carries z s) :
    Carries z (busRead seat pa n u peek s).2 := by
  unfold Sys2Proof.Machine.busRead
  with_reducible repeat' (first
    | assumption | apply ite_carries | apply ite_snd | apply remoteRead_carries | apply deviceRead_carries
    | apply seatViolation_carries | apply memUpset_carries | apply cohRead_carries
    | refine Carries.snd (by assumption) ?_ | split | dsimp only | intro)

theorem busWrite_carries {z : State} (src : Option Nat) (seat : Nat) (pa : Nat) (n : Nat) (v : Nat) (s : State) (h : Carries z s) :
    Carries z (busWrite src seat pa n v s).2 := by
  unfold Sys2Proof.Machine.busWrite
  with_reducible repeat' (first
    | assumption | apply ite_carries | apply ite_snd | apply deviceWrite_carries | apply storeGate_carries
    | apply prsWriteBy_carries | apply bnvWrite_carries | apply cohWrite_carries
    | refine Carries.snd (by assumption) ?_ | split | dsimp only | intro)

theorem remoteSend_carries {z : State} (type : Nat) (seat : Nat) (pa : Nat) (n : Nat) (v : Nat) (s : State) (h : Carries z s) :
    Carries z (remoteSend type seat pa n v s) := by
  unfold Sys2Proof.Machine.remoteSend
  with_reducible repeat' (first
    | assumption | apply ite_carries | apply sendRequest_carries | apply clearSent_carries | split | dsimp only
    | intro)

end Sys2Proof.Laws
end

