-- ==== Sys2Proof/Laws/CarryCoreMem.lean ====
section
/-!
SUPPORT. What every operation of Machine/CoreMem.lean carries along (Laws/Carries.lean).
-/

set_option linter.all false
set_option Elab.async false

namespace Sys2Proof.Laws

open Sys2Proof.Machine

theorem postedError_carries {z : State} (seat : Nat) (pa : Nat) (s : State) (h : Carries z s) :
    Carries z (postedError seat pa s) := by
  unfold Sys2Proof.Machine.postedError
  with_reducible repeat' (first
    | assumption | apply ite_carries | apply countUp_carries | apply put_carries | apply raiseSrc_carries | split
    | dsimp only | intro)

theorem storeError_carries {z : State} (k : CoreId) (e : StoreEntry) (s : State) (h : Carries z s) :
    Carries z (storeError k e s) := by
  unfold Sys2Proof.Machine.storeError
  with_reducible repeat' (first
    | assumption | apply ite_carries | apply postedError_carries | apply mapCore_carries | split | dsimp only
    | intro)

theorem requestStore_carries {z : State} (e : StoreEntry) (s : State) (h : Carries z s) :
    Carries z (requestStore e s) := by
  unfold Sys2Proof.Machine.requestStore
  with_reducible repeat' (first
    | assumption | apply ite_carries | apply remoteSend_carries | split | dsimp only | intro)

theorem performStore_carries {z : State} (k : CoreId) (e : StoreEntry) (s : State) (h : Carries z s) :
    Carries z (performStore k e s).1 := by
  unfold Sys2Proof.Machine.performStore
  with_reducible repeat' (first
    | assumption | apply ite_carries | apply ite_fst | apply storeError_carries | apply fenceViolation_carries
    | apply storeCached_carries | apply cohWrite_carries | apply busWrite_carries | apply requestStore_carries
    | refine Carries.snd (by assumption) ?_ | split | dsimp only | intro)

theorem drainWhere_carries {z : State} (k : CoreId) (p : StoreEntry → Bool) (x1 : Nat) (x2 : State) (h_x2 : Carries z x2) :
    Carries z (drainWhere k p x1 x2) := by
  induction x1 generalizing k p x2 with
  | zero =>
    unfold Sys2Proof.Machine.drainWhere
    with_reducible repeat' (first
      | assumption | apply ite_carries | apply performStore_carries | apply mapCore_carries
      | refine Carries.fst (by assumption) ?_ | apply getD_carries | split | dsimp only | intro)
  | succ n ih =>
    unfold Sys2Proof.Machine.drainWhere
    with_reducible repeat' (first
      | assumption | apply ih | apply ite_carries | apply performStore_carries | apply mapCore_carries
      | refine Carries.fst (by assumption) ?_ | apply getD_carries | split | dsimp only | intro)

theorem readUncached_carries {z : State} (k : CoreId) (p : Part) (u : Upset) (s : State) (h : Carries z s) :
    Carries z (readUncached k p u s).2 := by
  unfold Sys2Proof.Machine.readUncached
  with_reducible repeat' (first
    | assumption | apply ite_carries | apply ite_snd | apply busRead_carries | apply memUpset_carries
    | apply mscRead_carries | apply recallLine_carries | refine Carries.snd (by assumption) ?_ | split | dsimp only
    | intro)

theorem dmVariable_carries {z : State} (k : CoreId) (p : Part) (s : State) (h : Carries z s) :
    Carries z (dmVariable k p s) := by
  unfold Sys2Proof.Machine.dmVariable
  with_reducible repeat' (first
    | assumption | apply ite_carries | apply put_carries | split | dsimp only | intro)

theorem issueStore_carries {z : State} (k : CoreId) (p : Part) (v : Nat) (s : State) (h : Carries z s) :
    Carries z (issueStore k p v s).1 := by
  unfold Sys2Proof.Machine.issueStore
  with_reducible repeat' (first
    | assumption | apply ite_carries | apply ite_fst | apply dmVariable_carries | apply performStore_carries
    | apply storeGate_carries | apply writeMem_carries | apply breakReservations_carries | apply storeError_carries
    | apply mapCore_carries | refine Carries.snd (by assumption) ?_ | refine Carries.fst (by assumption) ?_ | split
    | dsimp only | intro)

theorem issueStores_carries {z : State} (k : CoreId) (x1 : List Part) (x2 : Nat) (x3 : State) (h_x3 : Carries z x3) :
    Carries z (issueStores k x1 x2 x3).1 := by
  induction x1 generalizing k x2 x3 with
  | nil =>
    unfold Sys2Proof.Machine.issueStores
    with_reducible repeat' (first
      | assumption | apply ite_carries | apply ite_fst | apply issueStore_carries
      | refine Carries.fst (by assumption) ?_ | split | dsimp only | intro)
  | cons hd tl ih =>
    unfold Sys2Proof.Machine.issueStores
    with_reducible repeat' (first
      | assumption | apply ih | apply ite_carries | apply ite_fst | apply issueStore_carries
      | refine Carries.fst (by assumption) ?_ | split | dsimp only | intro)

theorem xlExc_carries {z : State} (k : CoreId) (a : XKind) (va : Nat) (code : Nat) (info : Nat) (fpa : Option Nat) (s : State) (h : Carries z s) :
    Carries z (xlExc k a va code info fpa s).2 := by
  unfold Sys2Proof.Machine.xlExc
  with_reducible repeat' (first
    | assumption | apply mapCore_carries | split | dsimp only | intro)

theorem prepPart_carries {z : State} (k : CoreId) (a : XKind) (va : Nat) (size : Nat) (s : State) (h : Carries z s) :
    Carries z (prepPart k a va size s).2 := by
  unfold Sys2Proof.Machine.prepPart
  with_reducible repeat' (first
    | assumption | apply ite_carries | apply ite_snd | apply translate_carries | apply xlExc_carries
    | refine Carries.snd (by assumption) ?_ | split | dsimp only | intro)

theorem prepareAtom_carries {z : State} (k : CoreId) (a : XKind) (va : Nat) (size : Nat) (s : State) (h : Carries z s) :
    Carries z (prepareAtom k a va size s).2 := by
  unfold Sys2Proof.Machine.prepareAtom
  with_reducible repeat' (first
    | assumption | apply ite_carries | apply ite_snd | apply prepPart_carries
    | refine Carries.snd (by assumption) ?_ | split | dsimp only | intro)

theorem l1Upset_carries {z : State} (k : CoreId) (va : Nat) (line : Nat) (u : Upset) (s : State) (h : Carries z s) :
    Carries z (l1Upset k va line u s) := by
  unfold Sys2Proof.Machine.l1Upset
  with_reducible repeat' (first
    | assumption | apply countUp_carries | apply mapCore_carries | split | dsimp only | intro)

theorem fetchAt_carries {z : State} (k : CoreId) (va : Nat) (s : State) (h : Carries z s) :
    Carries z (fetchAt k va s).2 := by
  unfold Sys2Proof.Machine.fetchAt
  with_reducible repeat' (first
    | assumption | apply ite_carries | apply ite_snd | apply translate_carries | apply xlExc_carries
    | apply readUncached_carries | apply pmCount_carries | apply l1iInstall_carries | apply l2Fill_carries
    | apply prefetch_carries | refine Carries.snd (by assumption) ?_ | split | dsimp only | intro)

theorem dataCompareOne_carries {z : State} (k : CoreId) (kind : Nat) (p : Part) (s : State) (h : Carries z s) :
    Carries z (dataCompareOne k kind p s).2 := by
  unfold Sys2Proof.Machine.dataCompareOne
  with_reducible repeat' (first
    | assumption | apply comparators_carries | apply mapCore_carries | refine Carries.snd (by assumption) ?_ | split
    | dsimp only | intro)

theorem l2Uncorrected_carries {z : State} (cl : Nat) (kind : Nat) (e : L2Line) (addr : Nat) (fault : Nat) (s : State) (h : Carries z s) :
    Carries z (l2Uncorrected cl kind e addr fault s) := by
  unfold Sys2Proof.Machine.l2Uncorrected
  with_reducible repeat' (first
    | assumption | apply ite_carries | apply raiseSrc_carries | apply put_carries | apply reportFault_carries
    | split | dsimp only | intro)

theorem l2Upset_carries {z : State} (cl : Nat) (seat : Nat) (line : Nat) (u : Upset) (s : State) (h : Carries z s) :
    Carries z (l2Upset cl seat line u s) := by
  unfold Sys2Proof.Machine.l2Upset
  with_reducible repeat' (first
    | assumption | apply ite_carries | apply countUp_carries | apply l2Uncorrected_carries | apply mapL2_carries
    | apply l2Remove_carries | split | dsimp only | intro)

theorem drainLine_carries {z : State} (k : CoreId) (line : Nat) (s : State) (h : Carries z s) :
    Carries z (drainLine k line s) := by
  unfold Sys2Proof.Machine.drainLine
  with_reducible repeat' (first
    | assumption | apply drainWhere_carries | split | dsimp only | intro)

theorem readCached_carries {z : State} (k : CoreId) (p : Part) (u : Upset) (arrived : Bool) (s : State) (h : Carries z s) :
    Carries z (readCached k p u arrived s).2 := by
  unfold Sys2Proof.Machine.readCached
  with_reducible repeat' (first
    | assumption | apply ite_carries | apply ite_snd | apply drainLine_carries | apply l1Upset_carries
    | apply pmCount_carries | apply l1dInstall_carries | apply l2Upset_carries | apply l2Fill_carries
    | apply prefetch_carries | refine Carries.snd (by assumption) ?_ | split | dsimp only | intro)

theorem readPart_carries {z : State} (k : CoreId) (p : Part) (u : Upset) (arrived : Bool) (s : State) (h : Carries z s) :
    Carries z (readPart k p u arrived s).2 := by
  unfold Sys2Proof.Machine.readPart
  with_reducible repeat' (first
    | assumption | apply ite_carries | apply ite_snd | apply readUncached_carries | apply remoteSend_carries
    | apply dmVariable_carries | apply memUpset_carries | apply readCached_carries | apply drainLine_carries
    | refine Carries.snd (by assumption) ?_ | split | dsimp only | intro)

theorem drainAll_carries {z : State} (k : CoreId) (s : State) (h : Carries z s) :
    Carries z (drainAll k s) := by
  unfold Sys2Proof.Machine.drainAll
  with_reducible repeat' (first
    | assumption | apply drainWhere_carries | split | dsimp only | intro)

theorem prepare_carries {z : State} (k : CoreId) (a : XKind) (va : Nat) (size : Nat) (s : State) (h : Carries z s) :
    Carries z (prepare k a va size s).2 := by
  unfold Sys2Proof.Machine.prepare
  with_reducible repeat' (first
    | assumption | apply ite_carries | apply ite_snd | apply prepPart_carries | apply pmCount_carries
    | refine Carries.snd (by assumption) ?_ | split | dsimp only | intro)

theorem dataCompare_carries {z : State} (k : CoreId) (kind : Nat) (ps : List Part) (s : State) (h : Carries z s) :
    Carries z (dataCompare k kind ps s).2.2 := by
  unfold Sys2Proof.Machine.dataCompare
  with_reducible repeat' (first
    | assumption | apply ite_carries | apply ite_snd2 | apply dataCompareOne_carries | apply foldl_carries
    | apply foldl_snd_carries | apply foldl_snd2_carries | refine Carries.snd (by assumption) ?_
    | refine Carries.snd2 (by assumption) ?_ | split | dsimp only | intro)

theorem readParts_carries {z : State} (k : CoreId) (u : Upset) (arrived : Bool) (x1 : List Part) (x2 : State) (h_x2 : Carries z x2) :
    Carries z (readParts k u arrived x1 x2).2 := by
  induction x1 generalizing k u arrived x2 with
  | nil =>
    unfold Sys2Proof.Machine.readParts
    with_reducible repeat' (first
      | assumption | apply readPart_carries | refine Carries.snd (by assumption) ?_ | split | dsimp only | intro)
  | cons hd tl ih =>
    unfold Sys2Proof.Machine.readParts
    with_reducible repeat' (first
      | assumption | apply ih | apply readPart_carries | refine Carries.snd (by assumption) ?_ | split | dsimp only
      | intro)

end Sys2Proof.Laws
end

