-- ==== Sys2Proof/Laws/CarryTrap.lean ====
section
/-!
SUPPORT. What every operation of Machine/Trap.lean carries along (Laws/Carries.lean).
-/

set_option linter.all false
set_option Elab.async false

namespace Sys2Proof.Laws

open Sys2Proof.Machine

theorem spillStore_carries {z : State} (k : CoreId) (va : Nat) (s : State) (r : EngineAns × List Part × State) (h : Carries z s) (h_r : Carries z r.2.2) :
    Carries z (spillStore k va s r).2 := by
  unfold Sys2Proof.Machine.spillStore
  with_reducible repeat' (first
    | assumption | apply ite_carries | apply ite_snd | apply issueStores_carries | apply pmCount_carries
    | apply mapCore_carries | refine Carries.fst (by assumption) ?_ | split | dsimp only | intro)

theorem enginePrep_carries {z : State} (k : CoreId) (a : XKind) (va : Nat) (s : State) (h : Carries z s) :
    Carries z (enginePrep k a va s).2.2 := by
  unfold Sys2Proof.Machine.enginePrep
  with_reducible repeat' (first
    | assumption | apply ite_carries | apply ite_snd2 | apply prepPart_carries
    | refine Carries.snd (by assumption) ?_ | split | dsimp only | intro)

theorem spillOne_carries {z : State} (k : CoreId) (s : State) (h : Carries z s) :
    Carries z (spillOne k s).2 := by
  unfold Sys2Proof.Machine.spillOne
  with_reducible repeat' (first
    | extract_lets | assumption | apply spillStore_carries | apply enginePrep_carries
    | refine Carries.snd (by assumption) ?_ | refine Carries.snd2 (by assumption) ?_ | split | intro)

theorem fillWith_carries {z : State} (k : CoreId) (va : Nat) (s : State) (r : LoadAns × State) (h : Carries z s) (h_r : Carries z r.2) :
    Carries z (fillWith k va s r).2 := by
  unfold Sys2Proof.Machine.fillWith
  with_reducible repeat' (first
    | assumption | apply pmCount_carries | apply mapCore_carries | split | dsimp only | intro)

theorem doubleFault_carries {z : State} (k : CoreId) (epc : Word64) (e : Exc) (s : State) (h : Carries z s) :
    Carries z (doubleFault k epc e s) := by
  unfold Sys2Proof.Machine.doubleFault
  with_reducible repeat' (first
    | assumption | apply mapCore_carries | apply reportFault_carries | apply getD_carries | split | dsimp only
    | intro)

theorem fetchVector_carries {z : State} (k : CoreId) (s : State) (h : Carries z s) :
    Carries z (fetchVector k s) := by
  unfold Sys2Proof.Machine.fetchVector
  with_reducible repeat' (first
    | assumption | apply fetchAt_carries | apply doubleFault_carries | refine Carries.snd (by assumption) ?_ | split
    | dsimp only | intro)

theorem commitEntry_carries {z : State} (k : CoreId) (epc : Word64) (e : Exc) (s : State) (h : Carries z s) :
    Carries z (commitEntry k epc e s) := by
  unfold Sys2Proof.Machine.commitEntry
  with_reducible repeat' (first
    | assumption | apply mapCore_carries | apply fetchVector_carries | apply traceExc_carries | split | dsimp only
    | intro)

theorem takeEntry_carries {z : State} (k : CoreId) (epc : Word64) (e : Exc) (s : State) (h : Carries z s) :
    Carries z (takeEntry k epc e s) := by
  unfold Sys2Proof.Machine.takeEntry
  with_reducible repeat' (first
    | assumption | apply ite_carries | apply doubleFault_carries | apply mapCore_carries | apply commitEntry_carries
    | apply spillOne_carries | refine Carries.snd (by assumption) ?_ | split | dsimp only | intro)

theorem windowFault_carries {z : State} (k : CoreId) (code : Nat) (underlying : Nat) (va : Nat) (s : State) (h : Carries z s) :
    Carries z (windowFault k code underlying va s) := by
  unfold Sys2Proof.Machine.windowFault
  with_reducible repeat' (first
    | assumption | apply takeEntry_carries | split | dsimp only | intro)

theorem takeLong_carries {z : State} (k : CoreId) (s : State) (h : Carries z s) :
    Carries z (takeLong k s) := by
  unfold Sys2Proof.Machine.takeLong
  with_reducible repeat' (first
    | assumption | apply takeEntry_carries | apply mapCore_carries | split | dsimp only | intro)

theorem takeLongIfReady_carries {z : State} (k : CoreId) (s : State) (h : Carries z s) :
    Carries z (takeLongIfReady k s) := by
  unfold Sys2Proof.Machine.takeLongIfReady
  with_reducible repeat' (first
    | assumption | apply ite_carries | apply takeLong_carries | split | dsimp only | intro)

theorem consumeHeld_carries {z : State} (k : CoreId) (e : HeldEvent) (s : State) (h : Carries z s) :
    Carries z (consumeHeld k e s) := by
  unfold Sys2Proof.Machine.consumeHeld
  with_reducible repeat' (first
    | assumption | apply mapCore_carries
    | (apply Carries.mk_same; first | assumption | apply mapCore_carries | split) | split | dsimp only | intro)

theorem takeHeld_carries {z : State} (k : CoreId) (want : HeldEvent → Bool) (s : State) (h : Carries z s) :
    Carries z (takeHeld k want s) := by
  unfold Sys2Proof.Machine.takeHeld
  with_reducible repeat' (first
    | assumption | apply ite_carries | apply mapCore_carries | apply takeLong_carries | apply takeEntry_carries
    | apply consumeHeld_carries | split | dsimp only | intro)

theorem fillLoad_carries {z : State} (k : CoreId) (va : Nat) (s : State) (r : EngineAns × List Part × State) (h : Carries z s) (h_r : Carries z r.2.2) :
    Carries z (fillLoad k va s r).2 := by
  unfold Sys2Proof.Machine.fillLoad
  with_reducible repeat' (first
    | assumption | apply fillWith_carries | apply readParts_carries | refine Carries.snd (by assumption) ?_ | split
    | dsimp only | intro)

theorem fillOne_carries {z : State} (k : CoreId) (s : State) (h : Carries z s) :
    Carries z (fillOne k s).2 := by
  unfold Sys2Proof.Machine.fillOne
  with_reducible repeat' (first
    | extract_lets | assumption | apply fillLoad_carries | apply enginePrep_carries
    | refine Carries.snd (by assumption) ?_ | refine Carries.snd2 (by assumption) ?_ | split | intro)

end Sys2Proof.Laws
end

