-- ==== Sys2Proof/Laws/CarryRunner.lean ====
section
/-!
SUPPORT. What every operation of Machine/Runner.lean carries along (Laws/Carries.lean).
-/

set_option linter.all false
set_option Elab.async false

namespace Sys2Proof.Laws

open Sys2Proof.Machine

theorem enterHalt_carries {z : State} (k : CoreId) (s : State) (h : Carries z s) :
    Carries z (enterHalt k s) := by
  unfold Sys2Proof.Machine.enterHalt
  with_reducible repeat' (first
    | assumption | apply ite_carries | apply mapCore_carries | apply put_carries | apply reportFault_carries
    | (apply Carries.mk_same; first | assumption | apply mapCore_carries | apply put_carries | apply reportFault_carries | split)
    | split | dsimp only | intro)

theorem stepEnds_carries {z : State} (k : CoreId) (s : State) (h : Carries z s) :
    Carries z (stepEnds k s) := by
  unfold Sys2Proof.Machine.stepEnds
  with_reducible repeat' (first
    | assumption | apply ite_carries | apply enterHalt_carries | split | dsimp only | intro)

theorem raiseExc_carries {z : State} (k : CoreId) (epc : Word64) (e : Exc) (s0 : State) (s : State) (h_s0 : Carries z s0) (h : Carries z s) :
    Carries z (raiseExc k epc e s0 s) := by
  unfold Sys2Proof.Machine.raiseExc
  with_reducible repeat' (first
    | assumption | apply ite_carries | apply mapCore_carries | apply stepEnds_carries | apply takeLong_carries
    | apply takeEntry_carries | apply consumeHeld_carries | split | dsimp only | intro)

theorem atPrefix_carries {z : State} (k : CoreId) (r : RepState) (s : State) (h : Carries z s) :
    Carries z (atPrefix k r s) := by
  unfold Sys2Proof.Machine.atPrefix
  with_reducible repeat' (first
    | assumption | apply mapCore_carries | split | dsimp only | intro)

theorem microParity_carries {z : State} (k : CoreId) (a : Nat) (s : State) (h : Carries z s) :
    ActCarries z (microParity k a s) := by
  unfold Sys2Proof.Machine.microParity
  with_reducible repeat' (first
    | assumption | apply ite_carries | apply ite_act | apply act_done | apply act_jump | apply act_ret
    | apply act_exc | apply act_excAfter | apply act_stall | apply put_carries | apply reportFault_carries
    | apply mapCore_carries
    | (apply Carries.mk_same; first | assumption | apply put_carries | apply reportFault_carries | apply mapCore_carries | split)
    | split | dsimp only | intro)

theorem boundary_carries {z : State} (k : CoreId) (s : State) (h : Carries z s) :
    Carries z (boundary k s) := by
  unfold Sys2Proof.Machine.boundary
  with_reducible repeat' (first
    | assumption | apply stepEnds_carries | apply takeLongIfReady_carries | split | dsimp only | intro)

theorem retire_carries {z : State} (k : CoreId) (s : State) (h : Carries z s) :
    Carries z (retire k s) := by
  unfold Sys2Proof.Machine.retire
  with_reducible repeat' (first
    | assumption | apply ite_carries | apply pmCount_carries | apply mapCore_carries | apply boundary_carries
    | (apply Carries.mk_same; first | assumption | apply pmCount_carries | apply mapCore_carries | apply boundary_carries | split)
    | split | dsimp only | intro)

theorem retireTo_carries {z : State} (k : CoreId) (t : Word64) (s : State) (h : Carries z s) :
    Carries z (retireTo k t s) := by
  unfold Sys2Proof.Machine.retireTo
  with_reducible repeat' (first
    | assumption | apply mapCore_carries | apply pmCount_carries | apply boundary_carries
    | (apply Carries.mk_same; first | assumption | apply mapCore_carries | apply pmCount_carries | apply boundary_carries | split)
    | split | dsimp only | intro)

theorem retireRet_carries {z : State} (k : CoreId) (t : Word64) (s : State) (h : Carries z s) :
    Carries z (retireRet k t s) := by
  unfold Sys2Proof.Machine.retireRet
  with_reducible repeat' (first
    | assumption | apply ite_carries | apply mapCore_carries | apply pmCount_carries | apply boundary_carries
    | (apply Carries.mk_same; first | assumption | apply mapCore_carries | apply pmCount_carries | apply boundary_carries | split)
    | split | dsimp only | intro)

theorem finishAct_carries {z : State} (k : CoreId) (s0 : State) (a : Act) (h_s0 : Carries z s0) (h_a : ActCarries z a) :
    Carries z (finishAct k s0 a) := by
  unfold Sys2Proof.Machine.finishAct
  with_reducible repeat' (first
    | assumption | apply act_done | apply act_jump | apply act_ret | apply act_exc | apply act_excAfter
    | apply act_stall | apply retire_carries | apply retireTo_carries | apply retireRet_carries
    | apply raiseExc_carries | refine act_done_of (by assumption) ?_ | refine act_jump_of (by assumption) ?_
    | refine act_ret_of (by assumption) ?_ | refine act_exc_of (by assumption) ?_
    | refine act_excAfter_of (by assumption) ?_ | refine act_stall_of (by assumption) ?_ | exact act_done_of rfl h_a
    | exact act_jump_of rfl h_a | exact act_ret_of rfl h_a | exact act_exc_of rfl h_a
    | exact act_excAfter_of rfl h_a | exact act_stall_of rfl h_a | split | dsimp only | intro)

theorem Issued_atom_carries {z : State} (d : Issued) (taken : Bool) (s : State) (h : Carries z s) :
    Carries z (Issued.atom d taken s) := by
  unfold Sys2Proof.Machine.Issued.atom
  with_reducible repeat' (first
    | assumption | apply ite_carries | apply traceAtom_carries | split | dsimp only | intro)

theorem checked_carries {z : State} (d : Issued) (s : State) (body : State → Act) (h : Carries z s) (h_body : ∀ t, Carries z t → ActCarries z (body t)) :
    ActCarries z (checked d s body) := by
  unfold Sys2Proof.Machine.checked
  with_reducible repeat' (first
    | assumption | apply ite_carries | apply ite_act | apply act_done | apply act_jump | apply act_ret
    | apply act_exc | apply act_excAfter | apply act_stall | apply h_body | apply Issued_atom_carries
    | apply comparators_carries | apply mapCore_carries | apply reportFault_carries
    | refine Carries.snd (by assumption) ?_ | refine act_done_of (by assumption) ?_
    | refine act_jump_of (by assumption) ?_ | refine act_ret_of (by assumption) ?_
    | refine act_exc_of (by assumption) ?_ | refine act_excAfter_of (by assumption) ?_
    | refine act_stall_of (by assumption) ?_ | split | dsimp only | intro)

theorem latchRep_carries {z : State} (k : CoreId) (r : RepState) (key : Instr) (s : State) (h : Carries z s) :
    Carries z (latchRep k r key s) := by
  unfold Sys2Proof.Machine.latchRep
  with_reducible repeat' (first
    | assumption | apply ite_carries | apply mapCore_carries | split | dsimp only | intro)

theorem runInstr_carries {z : State} (d : Issued) (body : State → Act) (s : State) (h_body : ∀ t, Carries z t → ActCarries z (body t)) (h : Carries z s) :
    ResCarries z (runInstr d body s) := by
  unfold Sys2Proof.Machine.runInstr
  with_reducible repeat' (first
    | assumption | apply ite_carries | apply ite_res | apply res_next | apply act_exc | apply h_body
    | apply finishAct_carries | apply checked_carries | apply fetchAt_carries | apply mapCore_carries
    | apply atPrefix_carries | apply latchRep_carries | refine Carries.snd (by assumption) ?_
    | refine act_done_of (by assumption) ?_ | refine act_jump_of (by assumption) ?_
    | refine act_ret_of (by assumption) ?_ | refine act_exc_of (by assumption) ?_
    | refine act_excAfter_of (by assumption) ?_ | refine act_stall_of (by assumption) ?_ | split | dsimp only
    | intro)

theorem microBody_carries {z : State} (k : CoreId) (mp : Option (BitVec 14)) (body : State → Act) (s : State) (h_body : ∀ t, Carries z t → ActCarries z (body t)) (h : Carries z s) :
    ActCarries z (microBody k mp body s) := by
  unfold Sys2Proof.Machine.microBody
  with_reducible repeat' (first
    | assumption | apply act_done | apply act_jump | apply act_ret | apply act_exc | apply act_excAfter
    | apply act_stall | apply h_body | apply microParity_carries | refine act_done_of (by assumption) ?_
    | refine act_jump_of (by assumption) ?_ | refine act_ret_of (by assumption) ?_
    | refine act_exc_of (by assumption) ?_ | refine act_excAfter_of (by assumption) ?_
    | refine act_stall_of (by assumption) ?_ | split | dsimp only | intro)

end Sys2Proof.Laws
end

