-- ==== Sys2Proof/Laws/CarryLoadStore.lean ====
section
/-!
SUPPORT. What every operation of Machine/LoadStore.lean carries along (Laws/Carries.lean).
-/

set_option linter.all false
set_option Elab.async false

namespace Sys2Proof.Laws

open Sys2Proof.Machine

theorem storeNow_carries {z : State} (k : CoreId) (p : Part) (v : Nat) (s : State) (h : Carries z s) :
    Carries z (storeNow k p v s).1 := by
  unfold Sys2Proof.Machine.storeNow
  with_reducible repeat' (first
    | assumption | apply ite_carries | apply ite_fst | apply issueStore_carries | apply drainLine_carries
    | apply performStore_carries | refine Carries.fst (by assumption) ?_ | split | dsimp only | intro)

theorem storeAccess_carries {z : State} (k : CoreId) (va : Word64) (size : Nat) (v : Nat) (s0 : State) (h_s0 : Carries z s0) :
    StoreCarries z (storeAccess k va size v s0) := by
  unfold Sys2Proof.Machine.storeAccess
  with_reducible repeat' (first
    | assumption | apply ite_carries | apply ite_store | apply store_ok | apply store_exc | apply store_stall
    | apply prepare_carries | apply dataCompare_carries | apply issueStores_carries
    | refine Carries.snd (by assumption) ?_ | refine Carries.snd2 (by assumption) ?_
    | refine Carries.fst (by assumption) ?_ | split | dsimp only | intro)

theorem useLoaded_carries {z : State} (k : CoreId) (use : LoadUse) (ps : List Part) (v : Nat) (s : State) (h : Carries z s) :
    ActCarries z (useLoaded k use ps v s) := by
  unfold Sys2Proof.Machine.useLoaded
  with_reducible repeat' (first
    | assumption | apply ite_carries | apply ite_act | apply act_done | apply act_jump | apply act_ret
    | apply act_exc | apply act_excAfter | apply act_stall | apply store_ok | apply store_exc | apply store_stall
    | apply mapCore_carries | apply storeNow_carries | apply storeAccess_carries
    | refine Carries.fst (by assumption) ?_ | refine store_ok_of (by assumption) ?_
    | refine store_exc_of (by assumption) ?_ | refine store_stall_of (by assumption) ?_ | split | dsimp only | intro)

theorem loadParts_carries {z : State} (k : CoreId) (use : LoadUse) (ps : List Part) (u : Upset) (arrived : Bool) (s0 : State) (h_s0 : Carries z s0) :
    ActCarries z (loadParts k use ps u arrived s0) := by
  unfold Sys2Proof.Machine.loadParts
  with_reducible repeat' (first
    | assumption | apply act_done | apply act_jump | apply act_ret | apply act_exc | apply act_excAfter
    | apply act_stall | apply readParts_carries | apply useLoaded_carries | apply mapCore_carries
    | refine Carries.snd (by assumption) ?_ | refine act_done_of (by assumption) ?_
    | refine act_jump_of (by assumption) ?_ | refine act_ret_of (by assumption) ?_
    | refine act_exc_of (by assumption) ?_ | refine act_excAfter_of (by assumption) ?_
    | refine act_stall_of (by assumption) ?_ | split | dsimp only | intro)

theorem loadChecked_carries {z : State} (k : CoreId) (use : LoadUse) (u : Upset) (p : Prep) (s0 : State) (s : State) (h_s0 : Carries z s0) (h : Carries z s) :
    ActCarries z (loadChecked k use u p s0 s) := by
  unfold Sys2Proof.Machine.loadChecked
  with_reducible repeat' (first
    | assumption | apply ite_carries | apply ite_act | apply act_done | apply act_jump | apply act_ret
    | apply act_exc | apply act_excAfter | apply act_stall | apply dataCompare_carries | apply loadParts_carries
    | refine Carries.snd2 (by assumption) ?_ | refine act_done_of (by assumption) ?_
    | refine act_jump_of (by assumption) ?_ | refine act_ret_of (by assumption) ?_
    | refine act_exc_of (by assumption) ?_ | refine act_excAfter_of (by assumption) ?_
    | refine act_stall_of (by assumption) ?_ | split | dsimp only | intro)

theorem stopIfDue_carries {z : State} (k : CoreId) (s : State) (h : Carries z s) :
    Carries z (stopIfDue k s) := by
  unfold Sys2Proof.Machine.stopIfDue
  with_reducible repeat' (first
    | assumption | apply ite_carries | apply mapCore_carries | split | dsimp only | intro)

theorem execLoadResponse_carries {z : State} (k : CoreId) (r : Answer) (u : Upset) (s : State) (h : Carries z s) :
    ResCarries z (execLoadResponse k r u s) := by
  unfold Sys2Proof.Machine.execLoadResponse
  with_reducible repeat' (first
    | assumption | apply ite_carries | apply ite_res | apply res_next | apply act_exc | apply act_stall
    | apply mapCore_carries | apply stopIfDue_carries | apply finishAct_carries | apply drainWhere_carries
    | apply loadParts_carries | refine act_done_of (by assumption) ?_ | refine act_jump_of (by assumption) ?_
    | refine act_ret_of (by assumption) ?_ | refine act_exc_of (by assumption) ?_
    | refine act_excAfter_of (by assumption) ?_ | refine act_stall_of (by assumption) ?_ | split | dsimp only
    | intro)

theorem swapInstr_carries {z : State} (key : Instr) (op : Nat) (add : Bool) (i : Issue) (a : RArgs) (u : Upset) (mp : Option (BitVec 14)) (s : State) (h : Carries z s) :
    ResCarries z (swapInstr key op add i a u mp s) := by
  unfold Sys2Proof.Machine.swapInstr
  with_reducible repeat' (first
    | assumption | apply ite_carries | apply ite_res | apply res_next | apply act_exc | apply act_stall
    | apply runInstr_carries | apply microBody_carries | apply tlbParity_carries | apply prepareAtom_carries
    | apply dataCompare_carries | apply loadChecked_carries | refine Carries.snd (by assumption) ?_
    | refine Carries.snd2 (by assumption) ?_ | refine act_done_of (by assumption) ?_
    | refine act_jump_of (by assumption) ?_ | refine act_ret_of (by assumption) ?_
    | refine act_exc_of (by assumption) ?_ | refine act_excAfter_of (by assumption) ?_
    | refine act_stall_of (by assumption) ?_ | refine res_next_of (by assumption) ?_ | split | dsimp only | intro)

theorem execAdda_carries {z : State} (i : Issue) (a : RArgs) (u : Upset) (mp : Option (BitVec 14)) (s : State) (h : Carries z s) :
    ResCarries z (execAdda i a u mp s) := by
  unfold Sys2Proof.Machine.execAdda
  with_reducible repeat' (first
    | assumption | apply res_next | apply swapInstr_carries | refine res_next_of (by assumption) ?_ | split
    | dsimp only | intro)

theorem loadAccess_carries {z : State} (k : CoreId) (use : LoadUse) (va : Word64) (size : Nat) (u : Upset) (s0 : State) (h_s0 : Carries z s0) :
    ActCarries z (loadAccess k use va size u s0) := by
  unfold Sys2Proof.Machine.loadAccess
  with_reducible repeat' (first
    | assumption | apply ite_carries | apply ite_act | apply act_done | apply act_jump | apply act_ret
    | apply act_exc | apply act_excAfter | apply act_stall | apply tlbParity_carries | apply prepare_carries
    | apply loadChecked_carries | refine Carries.snd (by assumption) ?_ | refine act_done_of (by assumption) ?_
    | refine act_jump_of (by assumption) ?_ | refine act_ret_of (by assumption) ?_
    | refine act_exc_of (by assumption) ?_ | refine act_excAfter_of (by assumption) ?_
    | refine act_stall_of (by assumption) ?_ | split | dsimp only | intro)

theorem loadInstr_carries {z : State} (key : Instr) (signed : Bool) (size : Nat) (i : Issue) (a : IArgs) (u : Upset) (s : State) (h : Carries z s) :
    ResCarries z (loadInstr key signed size i a u s) := by
  unfold Sys2Proof.Machine.loadInstr
  with_reducible repeat' (first
    | assumption | apply res_next | apply runInstr_carries | apply loadAccess_carries
    | refine act_done_of (by assumption) ?_ | refine act_jump_of (by assumption) ?_
    | refine act_ret_of (by assumption) ?_ | refine act_exc_of (by assumption) ?_
    | refine act_excAfter_of (by assumption) ?_ | refine act_stall_of (by assumption) ?_
    | refine res_next_of (by assumption) ?_ | split | dsimp only | intro)

theorem execSwap_carries {z : State} (i : Issue) (a : RArgs) (u : Upset) (mp : Option (BitVec 14)) (s : State) (h : Carries z s) :
    ResCarries z (execSwap i a u mp s) := by
  unfold Sys2Proof.Machine.execSwap
  with_reducible repeat' (first
    | assumption | apply res_next | apply swapInstr_carries | refine res_next_of (by assumption) ?_ | split
    | dsimp only | intro)

theorem execLdx_carries {z : State} (i : Issue) (a : RArgs) (u : Upset) (s : State) (h : Carries z s) :
    ResCarries z (execLdx i a u s) := by
  unfold Sys2Proof.Machine.execLdx
  with_reducible repeat' (first
    | assumption | apply ite_carries | apply ite_res | apply res_next | apply runInstr_carries
    | apply tlbParity_carries | apply prepareAtom_carries | apply loadChecked_carries
    | refine Carries.snd (by assumption) ?_ | refine act_done_of (by assumption) ?_
    | refine act_jump_of (by assumption) ?_ | refine act_ret_of (by assumption) ?_
    | refine act_exc_of (by assumption) ?_ | refine act_excAfter_of (by assumption) ?_
    | refine act_stall_of (by assumption) ?_ | refine res_next_of (by assumption) ?_ | split | dsimp only | intro)

theorem storeInstr_carries {z : State} (key : Instr) (size : Nat) (i : Issue) (a : IArgs) (s : State) (h : Carries z s) :
    ResCarries z (storeInstr key size i a s) := by
  unfold Sys2Proof.Machine.storeInstr
  with_reducible repeat' (first
    | assumption | apply res_next | apply act_done | apply act_exc | apply act_stall | apply runInstr_carries
    | apply storeAccess_carries | refine store_ok_of (by assumption) ?_ | refine store_exc_of (by assumption) ?_
    | refine store_stall_of (by assumption) ?_ | refine res_next_of (by assumption) ?_ | split | dsimp only | intro)

theorem execStoreErrorResponse_carries {z : State} (k : CoreId) (n : Nat) (s : State) (h : Carries z s) :
    ResCarries z (execStoreErrorResponse k n s) := by
  unfold Sys2Proof.Machine.execStoreErrorResponse
  with_reducible repeat' (first
    | assumption | apply ite_carries | apply ite_res | apply res_next | apply storeError_carries
    | apply mapCore_carries | split | dsimp only | intro)

theorem execLdb_carries {z : State} (i : Issue) (a : IArgs) (u : Upset) (s : State) (h : Carries z s) :
    ResCarries z (execLdb i a u s) := by
  unfold Sys2Proof.Machine.execLdb
  with_reducible repeat' (first
    | assumption | apply res_next | apply loadInstr_carries | refine res_next_of (by assumption) ?_ | split
    | dsimp only | intro)

theorem execLdwu_carries {z : State} (i : Issue) (a : IArgs) (u : Upset) (s : State) (h : Carries z s) :
    ResCarries z (execLdwu i a u s) := by
  unfold Sys2Proof.Machine.execLdwu
  with_reducible repeat' (first
    | assumption | apply res_next | apply loadInstr_carries | refine res_next_of (by assumption) ?_ | split
    | dsimp only | intro)

theorem execMcpy_carries {z : State} (i : Issue) (a : RArgs) (u : Upset) (s : State) (h : Carries z s) :
    ResCarries z (execMcpy i a u s) := by
  unfold Sys2Proof.Machine.execMcpy
  with_reducible repeat' (first
    | assumption | apply res_next | apply runInstr_carries | apply loadAccess_carries
    | refine act_done_of (by assumption) ?_ | refine act_jump_of (by assumption) ?_
    | refine act_ret_of (by assumption) ?_ | refine act_exc_of (by assumption) ?_
    | refine act_excAfter_of (by assumption) ?_ | refine act_stall_of (by assumption) ?_
    | refine res_next_of (by assumption) ?_ | split | dsimp only | intro)

theorem execStx_carries {z : State} (i : Issue) (a : RArgs) (s : State) (h : Carries z s) :
    ResCarries z (execStx i a s) := by
  unfold Sys2Proof.Machine.execStx
  with_reducible repeat' (first
    | assumption | apply ite_carries | apply ite_res | apply res_next | apply act_done | apply act_exc
    | apply act_stall | apply runInstr_carries | apply prepareAtom_carries | apply mapCore_carries
    | apply dataCompare_carries | apply storeNow_carries | refine Carries.snd (by assumption) ?_
    | refine Carries.snd2 (by assumption) ?_ | refine Carries.fst (by assumption) ?_
    | refine res_next_of (by assumption) ?_ | split | dsimp only | intro)

theorem execSth_carries {z : State} (i : Issue) (a : IArgs) (s : State) (h : Carries z s) :
    ResCarries z (execSth i a s) := by
  unfold Sys2Proof.Machine.execSth
  with_reducible repeat' (first
    | assumption | apply res_next | apply storeInstr_carries | refine res_next_of (by assumption) ?_ | split
    | dsimp only | intro)

theorem execStb_carries {z : State} (i : Issue) (a : IArgs) (s : State) (h : Carries z s) :
    ResCarries z (execStb i a s) := by
  unfold Sys2Proof.Machine.execStb
  with_reducible repeat' (first
    | assumption | apply res_next | apply storeInstr_carries | refine res_next_of (by assumption) ?_ | split
    | dsimp only | intro)

theorem execLdh_carries {z : State} (i : Issue) (a : IArgs) (u : Upset) (s : State) (h : Carries z s) :
    ResCarries z (execLdh i a u s) := by
  unfold Sys2Proof.Machine.execLdh
  with_reducible repeat' (first
    | assumption | apply res_next | apply loadInstr_carries | refine res_next_of (by assumption) ?_ | split
    | dsimp only | intro)

theorem execLdbu_carries {z : State} (i : Issue) (a : IArgs) (u : Upset) (s : State) (h : Carries z s) :
    ResCarries z (execLdbu i a u s) := by
  unfold Sys2Proof.Machine.execLdbu
  with_reducible repeat' (first
    | assumption | apply res_next | apply loadInstr_carries | refine res_next_of (by assumption) ?_ | split
    | dsimp only | intro)

theorem execStd_carries {z : State} (i : Issue) (a : IArgs) (s : State) (h : Carries z s) :
    ResCarries z (execStd i a s) := by
  unfold Sys2Proof.Machine.execStd
  with_reducible repeat' (first
    | assumption | apply res_next | apply storeInstr_carries | refine res_next_of (by assumption) ?_ | split
    | dsimp only | intro)

theorem execLdhu_carries {z : State} (i : Issue) (a : IArgs) (u : Upset) (s : State) (h : Carries z s) :
    ResCarries z (execLdhu i a u s) := by
  unfold Sys2Proof.Machine.execLdhu
  with_reducible repeat' (first
    | assumption | apply res_next | apply loadInstr_carries | refine res_next_of (by assumption) ?_ | split
    | dsimp only | intro)

theorem execLdd_carries {z : State} (i : Issue) (a : IArgs) (u : Upset) (s : State) (h : Carries z s) :
    ResCarries z (execLdd i a u s) := by
  unfold Sys2Proof.Machine.execLdd
  with_reducible repeat' (first
    | assumption | apply res_next | apply loadInstr_carries | refine res_next_of (by assumption) ?_ | split
    | dsimp only | intro)

theorem execStw_carries {z : State} (i : Issue) (a : IArgs) (s : State) (h : Carries z s) :
    ResCarries z (execStw i a s) := by
  unfold Sys2Proof.Machine.execStw
  with_reducible repeat' (first
    | assumption | apply res_next | apply storeInstr_carries | refine res_next_of (by assumption) ?_ | split
    | dsimp only | intro)

theorem execStoreBufferDrain_carries {z : State} (k : CoreId) (n : Nat) (answered : Bool) (s : State) (h : Carries z s) :
    ResCarries z (execStoreBufferDrain k n answered s) := by
  unfold Sys2Proof.Machine.execStoreBufferDrain
  with_reducible repeat' (first
    | assumption | apply ite_carries | apply ite_res | apply res_next | apply performStore_carries
    | apply mapCore_carries | apply requestStore_carries | refine Carries.fst (by assumption) ?_ | split
    | dsimp only | intro)

theorem execLdw_carries {z : State} (i : Issue) (a : IArgs) (u : Upset) (s : State) (h : Carries z s) :
    ResCarries z (execLdw i a u s) := by
  unfold Sys2Proof.Machine.execLdw
  with_reducible repeat' (first
    | assumption | apply res_next | apply loadInstr_carries | refine res_next_of (by assumption) ?_ | split
    | dsimp only | intro)

theorem execLdst_carries {z : State} (i : Issue) (a : RArgs) (u : Upset) (s : State) (h : Carries z s) :
    ResCarries z (execLdst i a u s) := by
  unfold Sys2Proof.Machine.execLdst
  with_reducible repeat' (first
    | assumption | apply ite_carries | apply ite_res | apply res_next | apply act_done | apply act_exc
    | apply act_stall | apply runInstr_carries | apply storeAccess_carries | apply mapCore_carries
    | apply loadAccess_carries | refine act_done_of (by assumption) ?_ | refine act_jump_of (by assumption) ?_
    | refine act_ret_of (by assumption) ?_ | refine act_exc_of (by assumption) ?_
    | refine act_excAfter_of (by assumption) ?_ | refine act_stall_of (by assumption) ?_
    | refine store_ok_of (by assumption) ?_ | refine store_exc_of (by assumption) ?_
    | refine store_stall_of (by assumption) ?_ | refine res_next_of (by assumption) ?_ | split | dsimp only | intro)

end Sys2Proof.Laws
end

