-- ==== Sys2Proof/Laws/CarryAlu.lean ====
section
/-!
SUPPORT. What every operation of Machine/Alu.lean carries along (Laws/Carries.lean).
-/

set_option linter.all false
set_option Elab.async false

namespace Sys2Proof.Laws

open Sys2Proof.Machine

theorem putAlu_carries {z : State} (k : CoreId) (rd : Fin 32) (set : Bool) (o : AluOut) (s : State) (h : Carries z s) :
    ActCarries z (putAlu k rd set o s) := by
  unfold Sys2Proof.Machine.putAlu
  with_reducible repeat' (first
    | assumption | apply ite_carries | apply ite_act | apply act_done | apply act_jump | apply act_ret
    | apply act_exc | apply act_excAfter | apply act_stall | apply mapCore_carries | split | dsimp only | intro)

theorem aluInstr_carries {z : State} (key : Instr) (op : Nat) (i : Issue) (a : RArgs) (s : State) (h : Carries z s) :
    ResCarries z (aluInstr key op i a s) := by
  unfold Sys2Proof.Machine.aluInstr
  with_reducible repeat' (first
    | assumption | apply res_next | apply act_exc | apply runInstr_carries | apply putAlu_carries
    | refine act_done_of (by assumption) ?_ | refine act_jump_of (by assumption) ?_
    | refine act_ret_of (by assumption) ?_ | refine act_exc_of (by assumption) ?_
    | refine act_excAfter_of (by assumption) ?_ | refine act_stall_of (by assumption) ?_
    | refine res_next_of (by assumption) ?_ | split | dsimp only | intro)

theorem execSubc_carries {z : State} (i : Issue) (a : RArgs) (s : State) (h : Carries z s) :
    ResCarries z (execSubc i a s) := by
  unfold Sys2Proof.Machine.execSubc
  with_reducible repeat' (first
    | assumption | apply res_next | apply aluInstr_carries | refine res_next_of (by assumption) ?_ | split
    | dsimp only | intro)

theorem execAndn_carries {z : State} (i : Issue) (a : RArgs) (s : State) (h : Carries z s) :
    ResCarries z (execAndn i a s) := by
  unfold Sys2Proof.Machine.execAndn
  with_reducible repeat' (first
    | assumption | apply res_next | apply aluInstr_carries | refine res_next_of (by assumption) ?_ | split
    | dsimp only | intro)

theorem execShl_carries {z : State} (i : Issue) (a : RArgs) (s : State) (h : Carries z s) :
    ResCarries z (execShl i a s) := by
  unfold Sys2Proof.Machine.execShl
  with_reducible repeat' (first
    | assumption | apply res_next | apply aluInstr_carries | refine res_next_of (by assumption) ?_ | split
    | dsimp only | intro)

theorem execAddw_carries {z : State} (i : Issue) (a : RArgs) (s : State) (h : Carries z s) :
    ResCarries z (execAddw i a s) := by
  unfold Sys2Proof.Machine.execAddw
  with_reducible repeat' (first
    | assumption | apply res_next | apply aluInstr_carries | refine res_next_of (by assumption) ?_ | split
    | dsimp only | intro)

theorem immInstr_carries {z : State} (key : Instr) (legal : Bool) (set : Bool) (f : Word64 → BitVec 12 → BitVec 4 → AluOut) (i : Issue) (a : IArgs) (s : State) (h : Carries z s) :
    ResCarries z (immInstr key legal set f i a s) := by
  unfold Sys2Proof.Machine.immInstr
  with_reducible repeat' (first
    | assumption | apply res_next | apply runInstr_carries | apply putAlu_carries
    | refine act_done_of (by assumption) ?_ | refine act_jump_of (by assumption) ?_
    | refine act_ret_of (by assumption) ?_ | refine act_exc_of (by assumption) ?_
    | refine act_excAfter_of (by assumption) ?_ | refine act_stall_of (by assumption) ?_
    | refine res_next_of (by assumption) ?_ | split | dsimp only | intro)

theorem execXori_carries {z : State} (i : Issue) (a : IArgs) (s : State) (h : Carries z s) :
    ResCarries z (execXori i a s) := by
  unfold Sys2Proof.Machine.execXori
  with_reducible repeat' (first
    | assumption | apply res_next | apply immInstr_carries | refine res_next_of (by assumption) ?_ | split
    | dsimp only | intro)

theorem execShlw_carries {z : State} (i : Issue) (a : RArgs) (s : State) (h : Carries z s) :
    ResCarries z (execShlw i a s) := by
  unfold Sys2Proof.Machine.execShlw
  with_reducible repeat' (first
    | assumption | apply res_next | apply aluInstr_carries | refine res_next_of (by assumption) ?_ | split
    | dsimp only | intro)

theorem execMinu_carries {z : State} (i : Issue) (a : RArgs) (s : State) (h : Carries z s) :
    ResCarries z (execMinu i a s) := by
  unfold Sys2Proof.Machine.execMinu
  with_reducible repeat' (first
    | assumption | apply res_next | apply aluInstr_carries | refine res_next_of (by assumption) ?_ | split
    | dsimp only | intro)

theorem execCmpi_carries {z : State} (i : Issue) (a : IArgs) (s : State) (h : Carries z s) :
    ResCarries z (execCmpi i a s) := by
  unfold Sys2Proof.Machine.execCmpi
  with_reducible repeat' (first
    | assumption | apply res_next | apply immInstr_carries | refine res_next_of (by assumption) ?_ | split
    | dsimp only | intro)

theorem execClz_carries {z : State} (i : Issue) (a : RArgs) (s : State) (h : Carries z s) :
    ResCarries z (execClz i a s) := by
  unfold Sys2Proof.Machine.execClz
  with_reducible repeat' (first
    | assumption | apply res_next | apply aluInstr_carries | refine res_next_of (by assumption) ?_ | split
    | dsimp only | intro)

theorem execAddc_carries {z : State} (i : Issue) (a : RArgs) (s : State) (h : Carries z s) :
    ResCarries z (execAddc i a s) := by
  unfold Sys2Proof.Machine.execAddc
  with_reducible repeat' (first
    | assumption | apply res_next | apply aluInstr_carries | refine res_next_of (by assumption) ?_ | split
    | dsimp only | intro)

theorem execRor_carries {z : State} (i : Issue) (a : RArgs) (s : State) (h : Carries z s) :
    ResCarries z (execRor i a s) := by
  unfold Sys2Proof.Machine.execRor
  with_reducible repeat' (first
    | assumption | apply res_next | apply aluInstr_carries | refine res_next_of (by assumption) ?_ | split
    | dsimp only | intro)

theorem execShi_carries {z : State} (i : Issue) (a : IArgs) (s : State) (h : Carries z s) :
    ResCarries z (execShi i a s) := by
  unfold Sys2Proof.Machine.execShi
  with_reducible repeat' (first
    | assumption | apply res_next | apply immInstr_carries | refine res_next_of (by assumption) ?_ | split
    | dsimp only | intro)

theorem execSraw_carries {z : State} (i : Issue) (a : RArgs) (s : State) (h : Carries z s) :
    ResCarries z (execSraw i a s) := by
  unfold Sys2Proof.Machine.execSraw
  with_reducible repeat' (first
    | assumption | apply res_next | apply aluInstr_carries | refine res_next_of (by assumption) ?_ | split
    | dsimp only | intro)

theorem execAddi_carries {z : State} (i : Issue) (a : IArgs) (s : State) (h : Carries z s) :
    ResCarries z (execAddi i a s) := by
  unfold Sys2Proof.Machine.execAddi
  with_reducible repeat' (first
    | assumption | apply res_next | apply immInstr_carries | refine res_next_of (by assumption) ?_ | split
    | dsimp only | intro)

theorem execMaxu_carries {z : State} (i : Issue) (a : RArgs) (s : State) (h : Carries z s) :
    ResCarries z (execMaxu i a s) := by
  unfold Sys2Proof.Machine.execMaxu
  with_reducible repeat' (first
    | assumption | apply res_next | apply aluInstr_carries | refine res_next_of (by assumption) ?_ | split
    | dsimp only | intro)

theorem execShrw_carries {z : State} (i : Issue) (a : RArgs) (s : State) (h : Carries z s) :
    ResCarries z (execShrw i a s) := by
  unfold Sys2Proof.Machine.execShrw
  with_reducible repeat' (first
    | assumption | apply res_next | apply aluInstr_carries | refine res_next_of (by assumption) ?_ | split
    | dsimp only | intro)

theorem execSextw_carries {z : State} (i : Issue) (a : RArgs) (s : State) (h : Carries z s) :
    ResCarries z (execSextw i a s) := by
  unfold Sys2Proof.Machine.execSextw
  with_reducible repeat' (first
    | assumption | apply res_next | apply aluInstr_carries | refine res_next_of (by assumption) ?_ | split
    | dsimp only | intro)

theorem execPopc_carries {z : State} (i : Issue) (a : RArgs) (s : State) (h : Carries z s) :
    ResCarries z (execPopc i a s) := by
  unfold Sys2Proof.Machine.execPopc
  with_reducible repeat' (first
    | assumption | apply res_next | apply aluInstr_carries | refine res_next_of (by assumption) ?_ | split
    | dsimp only | intro)

theorem execBswap_carries {z : State} (i : Issue) (a : RArgs) (s : State) (h : Carries z s) :
    ResCarries z (execBswap i a s) := by
  unfold Sys2Proof.Machine.execBswap
  with_reducible repeat' (first
    | assumption | apply res_next | apply aluInstr_carries | refine res_next_of (by assumption) ?_ | split
    | dsimp only | intro)

theorem execAndi_carries {z : State} (i : Issue) (a : IArgs) (s : State) (h : Carries z s) :
    ResCarries z (execAndi i a s) := by
  unfold Sys2Proof.Machine.execAndi
  with_reducible repeat' (first
    | assumption | apply res_next | apply immInstr_carries | refine res_next_of (by assumption) ?_ | split
    | dsimp only | intro)

theorem execMin_carries {z : State} (i : Issue) (a : RArgs) (s : State) (h : Carries z s) :
    ResCarries z (execMin i a s) := by
  unfold Sys2Proof.Machine.execMin
  with_reducible repeat' (first
    | assumption | apply res_next | apply aluInstr_carries | refine res_next_of (by assumption) ?_ | split
    | dsimp only | intro)

theorem execSub_carries {z : State} (i : Issue) (a : RArgs) (s : State) (h : Carries z s) :
    ResCarries z (execSub i a s) := by
  unfold Sys2Proof.Machine.execSub
  with_reducible repeat' (first
    | assumption | apply res_next | apply aluInstr_carries | refine res_next_of (by assumption) ?_ | split
    | dsimp only | intro)

theorem execOr_carries {z : State} (i : Issue) (a : RArgs) (s : State) (h : Carries z s) :
    ResCarries z (execOr i a s) := by
  unfold Sys2Proof.Machine.execOr
  with_reducible repeat' (first
    | assumption | apply res_next | apply aluInstr_carries | refine res_next_of (by assumption) ?_ | split
    | dsimp only | intro)

theorem execSexth_carries {z : State} (i : Issue) (a : RArgs) (s : State) (h : Carries z s) :
    ResCarries z (execSexth i a s) := by
  unfold Sys2Proof.Machine.execSexth
  with_reducible repeat' (first
    | assumption | apply res_next | apply aluInstr_carries | refine res_next_of (by assumption) ?_ | split
    | dsimp only | intro)

theorem execMax_carries {z : State} (i : Issue) (a : RArgs) (s : State) (h : Carries z s) :
    ResCarries z (execMax i a s) := by
  unfold Sys2Proof.Machine.execMax
  with_reducible repeat' (first
    | assumption | apply res_next | apply aluInstr_carries | refine res_next_of (by assumption) ?_ | split
    | dsimp only | intro)

theorem execShr_carries {z : State} (i : Issue) (a : RArgs) (s : State) (h : Carries z s) :
    ResCarries z (execShr i a s) := by
  unfold Sys2Proof.Machine.execShr
  with_reducible repeat' (first
    | assumption | apply res_next | apply aluInstr_carries | refine res_next_of (by assumption) ?_ | split
    | dsimp only | intro)

theorem execSra_carries {z : State} (i : Issue) (a : RArgs) (s : State) (h : Carries z s) :
    ResCarries z (execSra i a s) := by
  unfold Sys2Proof.Machine.execSra
  with_reducible repeat' (first
    | assumption | apply res_next | apply aluInstr_carries | refine res_next_of (by assumption) ?_ | split
    | dsimp only | intro)

theorem execLsi_carries {z : State} (i : Issue) (a : IArgs) (s : State) (h : Carries z s) :
    ResCarries z (execLsi i a s) := by
  unfold Sys2Proof.Machine.execLsi
  with_reducible repeat' (first
    | assumption | apply res_next | apply immInstr_carries | refine res_next_of (by assumption) ?_ | split
    | dsimp only | intro)

theorem execSubw_carries {z : State} (i : Issue) (a : RArgs) (s : State) (h : Carries z s) :
    ResCarries z (execSubw i a s) := by
  unfold Sys2Proof.Machine.execSubw
  with_reducible repeat' (first
    | assumption | apply res_next | apply aluInstr_carries | refine res_next_of (by assumption) ?_ | split
    | dsimp only | intro)

theorem execOri_carries {z : State} (i : Issue) (a : IArgs) (s : State) (h : Carries z s) :
    ResCarries z (execOri i a s) := by
  unfold Sys2Proof.Machine.execOri
  with_reducible repeat' (first
    | assumption | apply res_next | apply immInstr_carries | refine res_next_of (by assumption) ?_ | split
    | dsimp only | intro)

theorem execXor_carries {z : State} (i : Issue) (a : RArgs) (s : State) (h : Carries z s) :
    ResCarries z (execXor i a s) := by
  unfold Sys2Proof.Machine.execXor
  with_reducible repeat' (first
    | assumption | apply res_next | apply aluInstr_carries | refine res_next_of (by assumption) ?_ | split
    | dsimp only | intro)

theorem execAnd_carries {z : State} (i : Issue) (a : RArgs) (s : State) (h : Carries z s) :
    ResCarries z (execAnd i a s) := by
  unfold Sys2Proof.Machine.execAnd
  with_reducible repeat' (first
    | assumption | apply res_next | apply aluInstr_carries | refine res_next_of (by assumption) ?_ | split
    | dsimp only | intro)

theorem execSextb_carries {z : State} (i : Issue) (a : RArgs) (s : State) (h : Carries z s) :
    ResCarries z (execSextb i a s) := by
  unfold Sys2Proof.Machine.execSextb
  with_reducible repeat' (first
    | assumption | apply res_next | apply aluInstr_carries | refine res_next_of (by assumption) ?_ | split
    | dsimp only | intro)

theorem execAdd_carries {z : State} (i : Issue) (a : RArgs) (s : State) (h : Carries z s) :
    ResCarries z (execAdd i a s) := by
  unfold Sys2Proof.Machine.execAdd
  with_reducible repeat' (first
    | assumption | apply res_next | apply aluInstr_carries | refine res_next_of (by assumption) ?_ | split
    | dsimp only | intro)

end Sys2Proof.Laws
end

