-- ==== Sys2Proof/Laws/CarryLongOps.lean ====
section
/-!
SUPPORT. What every operation of Machine/LongOps.lean carries along (Laws/Carries.lean).
-/

set_option linter.all false
set_option Elab.async false

namespace Sys2Proof.Laws

open Sys2Proof.Machine

theorem issueLong_carries {z : State} (k : CoreId) (sec : LongSection) (o : LongOp) (s : State) (h : Carries z s) :
    ActCarries z (issueLong k sec o s) := by
  unfold Sys2Proof.Machine.issueLong
  with_reducible repeat' (first
    | assumption | apply ite_carries | apply ite_act | apply act_done | apply act_jump | apply act_ret
    | apply act_exc | apply act_excAfter | apply act_stall | apply setCore_carries | apply pmCount_carries
    | apply mapCore_carries | split | dsimp only | intro)

theorem fpLongInstr_carries {z : State} (key : Instr) (fn : Nat) (unary : Bool) (double : Bool) (f : FpFormat → Fp → Fp → FpOut) (i : Issue) (a : RArgs) (s : State) (h : Carries z s) :
    ResCarries z (fpLongInstr key fn unary double f i a s) := by
  unfold Sys2Proof.Machine.fpLongInstr
  with_reducible repeat' (first
    | assumption | apply res_next | apply runInstr_carries | apply issueLong_carries
    | refine act_done_of (by assumption) ?_ | refine act_jump_of (by assumption) ?_
    | refine act_ret_of (by assumption) ?_ | refine act_exc_of (by assumption) ?_
    | refine act_excAfter_of (by assumption) ?_ | refine act_stall_of (by assumption) ?_
    | refine res_next_of (by assumption) ?_ | split | dsimp only | intro)

theorem execFsqrtD_carries {z : State} (i : Issue) (a : RArgs) (s : State) (h : Carries z s) :
    ResCarries z (execFsqrtD i a s) := by
  unfold Sys2Proof.Machine.execFsqrtD
  with_reducible repeat' (first
    | assumption | apply res_next | apply fpLongInstr_carries | refine res_next_of (by assumption) ?_ | split
    | dsimp only | intro)

theorem divInstr_carries {z : State} (key : Instr) (fn : Nat) (f : Word64 → Word64 → Word64) (i : Issue) (a : RArgs) (s : State) (h : Carries z s) :
    ResCarries z (divInstr key fn f i a s) := by
  unfold Sys2Proof.Machine.divInstr
  with_reducible repeat' (first
    | assumption | apply res_next | apply runInstr_carries | apply issueLong_carries
    | refine act_done_of (by assumption) ?_ | refine act_jump_of (by assumption) ?_
    | refine act_ret_of (by assumption) ?_ | refine act_exc_of (by assumption) ?_
    | refine act_excAfter_of (by assumption) ?_ | refine act_stall_of (by assumption) ?_
    | refine res_next_of (by assumption) ?_ | split | dsimp only | intro)

theorem execDivu_carries {z : State} (i : Issue) (a : RArgs) (s : State) (h : Carries z s) :
    ResCarries z (execDivu i a s) := by
  unfold Sys2Proof.Machine.execDivu
  with_reducible repeat' (first
    | assumption | apply res_next | apply divInstr_carries | refine res_next_of (by assumption) ?_ | split
    | dsimp only | intro)

theorem execFdivD_carries {z : State} (i : Issue) (a : RArgs) (s : State) (h : Carries z s) :
    ResCarries z (execFdivD i a s) := by
  unfold Sys2Proof.Machine.execFdivD
  with_reducible repeat' (first
    | assumption | apply res_next | apply fpLongInstr_carries | refine res_next_of (by assumption) ?_ | split
    | dsimp only | intro)

theorem execRemu_carries {z : State} (i : Issue) (a : RArgs) (s : State) (h : Carries z s) :
    ResCarries z (execRemu i a s) := by
  unfold Sys2Proof.Machine.execRemu
  with_reducible repeat' (first
    | assumption | apply res_next | apply divInstr_carries | refine res_next_of (by assumption) ?_ | split
    | dsimp only | intro)

theorem execFsqrtS_carries {z : State} (i : Issue) (a : RArgs) (s : State) (h : Carries z s) :
    ResCarries z (execFsqrtS i a s) := by
  unfold Sys2Proof.Machine.execFsqrtS
  with_reducible repeat' (first
    | assumption | apply res_next | apply fpLongInstr_carries | refine res_next_of (by assumption) ?_ | split
    | dsimp only | intro)

theorem execLongOpComplete_carries {z : State} (k : CoreId) (sec : LongSection) (s : State) (h : Carries z s) :
    ResCarries z (execLongOpComplete k sec s) := by
  unfold Sys2Proof.Machine.execLongOpComplete
  with_reducible repeat' (first
    | assumption | apply res_next | apply takeLongIfReady_carries | apply mapCore_carries | split | dsimp only
    | intro)

theorem execFdivS_carries {z : State} (i : Issue) (a : RArgs) (s : State) (h : Carries z s) :
    ResCarries z (execFdivS i a s) := by
  unfold Sys2Proof.Machine.execFdivS
  with_reducible repeat' (first
    | assumption | apply res_next | apply fpLongInstr_carries | refine res_next_of (by assumption) ?_ | split
    | dsimp only | intro)

theorem execDiv_carries {z : State} (i : Issue) (a : RArgs) (s : State) (h : Carries z s) :
    ResCarries z (execDiv i a s) := by
  unfold Sys2Proof.Machine.execDiv
  with_reducible repeat' (first
    | assumption | apply res_next | apply divInstr_carries | refine res_next_of (by assumption) ?_ | split
    | dsimp only | intro)

theorem execRem_carries {z : State} (i : Issue) (a : RArgs) (s : State) (h : Carries z s) :
    ResCarries z (execRem i a s) := by
  unfold Sys2Proof.Machine.execRem
  with_reducible repeat' (first
    | assumption | apply res_next | apply divInstr_carries | refine res_next_of (by assumption) ?_ | split
    | dsimp only | intro)

end Sys2Proof.Laws
end

