-- ==== Sys2Proof/Laws/CarryMicro.lean ====
section
/-!
SUPPORT. What every operation of Machine/Micro.lean carries along (Laws/Carries.lean).
-/

set_option linter.all false
set_option Elab.async false

namespace Sys2Proof.Laws

open Sys2Proof.Machine

theorem execMcsWordWrite_carries {z : State} (by_ : Seat) (value : Word32) (s : State) (h : Carries z s) :
    ResCarries z (execMcsWordWrite by_ value s) := by
  unfold Sys2Proof.Machine.execMcsWordWrite
  with_reducible repeat' (first
    | assumption | apply ite_carries | apply ite_res | apply res_next | apply answer_carries
    | apply mcsCommit_carries | split | dsimp only | intro)

theorem microStores_carries {z : State} (k : CoreId) (x1 : List (List Part × Nat)) (x2 : State) (h_x2 : Carries z x2) :
    Carries z (microStores k x1 x2).1 := by
  induction x1 generalizing k x2 with
  | nil =>
    unfold Sys2Proof.Machine.microStores
    with_reducible repeat' (first
      | assumption | apply ite_carries | apply ite_fst | apply issueStores_carries
      | refine Carries.fst (by assumption) ?_ | split | dsimp only | intro)
  | cons hd tl ih =>
    unfold Sys2Proof.Machine.microStores
    with_reducible repeat' (first
      | assumption | apply ih | apply ite_carries | apply ite_fst | apply issueStores_carries
      | refine Carries.fst (by assumption) ?_ | split | dsimp only | intro)

theorem microCommit_carries {z : State} (k : CoreId) (rd : Fin 32) (r : MicroRun) (s0 : State) (s : State) (h_s0 : Carries z s0) (h : Carries z s) :
    ActCarries z (microCommit k rd r s0 s) := by
  unfold Sys2Proof.Machine.microCommit
  with_reducible repeat' (first
    | assumption | apply ite_carries | apply ite_act | apply act_done | apply act_jump | apply act_ret
    | apply act_exc | apply act_excAfter | apply act_stall | apply mapCore_carries | apply microStores_carries
    | refine Carries.fst (by assumption) ?_ | split | dsimp only | intro)

theorem microPrep_carries {z : State} (k : CoreId) (a : XKind) (va : Nat) (size : Nat) (s : State) (h : Carries z s) :
    Carries z (microPrep k a va size s).2 := by
  unfold Sys2Proof.Machine.microPrep
  with_reducible repeat' (first
    | assumption | apply ite_carries | apply ite_snd | apply prepPart_carries | apply prepare_carries
    | refine Carries.snd (by assumption) ?_ | split | dsimp only | intro)

theorem microMem_carries {z : State} (k : CoreId) (mem : Nat) (size : Nat) (dst : Nat) (x : Option Word64) (y : Option Word64) (r : MicroRun) (s : State) (h : Carries z s) :
    Carries z (microMem k mem size dst x y r s).2 := by
  unfold Sys2Proof.Machine.microMem
  with_reducible repeat' (first
    | assumption | apply ite_carries | apply ite_snd | apply microPrep_carries | apply draw_carries
    | apply readParts_carries | refine Carries.snd (by assumption) ?_ | split | dsimp only | intro)

theorem microStep_carries {z : State} (k : CoreId) (o : MicroOps) (w : BitVec 128) (r : MicroRun) (s : State) (h : Carries z s) :
    Carries z (microStep k o w r s).2 := by
  unfold Sys2Proof.Machine.microStep
  with_reducible repeat' (first
    | assumption | apply ite_carries | apply ite_snd | apply microMem_carries
    | refine Carries.snd (by assumption) ?_ | split | dsimp only | intro)

theorem microLoop_carries {z : State} (k : CoreId) (o : MicroOps) (mp : Option (BitVec 14)) (x1 : Nat) (x2 : MicroRun) (x3 : State) (h_x3 : Carries z x3) :
    Carries z (microLoop k o mp x1 x2 x3).2 := by
  induction x1 generalizing k o mp x2 x3 with
  | zero =>
    unfold Sys2Proof.Machine.microLoop
    with_reducible repeat' (first
      | assumption | apply ite_carries | apply ite_snd | apply microParity_carries | apply microStep_carries
      | refine Carries.snd (by assumption) ?_ | refine act_done_of (by assumption) ?_
      | refine act_jump_of (by assumption) ?_ | refine act_ret_of (by assumption) ?_
      | refine act_exc_of (by assumption) ?_ | refine act_excAfter_of (by assumption) ?_
      | refine act_stall_of (by assumption) ?_ | split | dsimp only | intro)
  | succ n ih =>
    unfold Sys2Proof.Machine.microLoop
    with_reducible repeat' (first
      | assumption | apply ih | apply ite_carries | apply ite_snd | apply microParity_carries
      | apply microStep_carries | refine Carries.snd (by assumption) ?_ | refine act_done_of (by assumption) ?_
      | refine act_jump_of (by assumption) ?_ | refine act_ret_of (by assumption) ?_
      | refine act_exc_of (by assumption) ?_ | refine act_excAfter_of (by assumption) ?_
      | refine act_stall_of (by assumption) ?_ | split | dsimp only | intro)

theorem execMicroTrap_carries {z : State} (k : CoreId) (s : State) (h : Carries z s) :
    ResCarries z (execMicroTrap k s) := by
  unfold Sys2Proof.Machine.execMicroTrap
  with_reducible repeat' (first
    | assumption | apply ite_carries | apply ite_res | apply res_next | apply takeHeld_carries
    | apply mapCore_carries | split | dsimp only | intro)

theorem startRun_carries {z : State} (c : Core) (entry : Nat) (limit : Nat) (s : State) (h : Carries z s) :
    Carries z (startRun c entry limit s).2 := by
  exact h.advance _ (by omega)

theorem microAbandon_carries {z : State} (k : CoreId) (s : State) (h : Carries z s) :
    ActCarries z (microAbandon k s) := by
  unfold Sys2Proof.Machine.microAbandon
  with_reducible repeat' (first
    | assumption | apply act_done | apply act_jump | apply act_ret | apply act_exc | apply act_excAfter
    | apply act_stall | apply mapCore_carries | split | dsimp only | intro)

theorem execCustomerRoutineTimeout_carries {z : State} (k : CoreId) (s : State) (h : Carries z s) :
    ResCarries z (execCustomerRoutineTimeout k s) := by
  unfold Sys2Proof.Machine.execCustomerRoutineTimeout
  with_reducible repeat' (first
    | assumption | apply ite_carries | apply ite_res | apply res_next | apply finishAct_carries
    | apply microAbandon_carries | refine act_done_of (by assumption) ?_ | refine act_jump_of (by assumption) ?_
    | refine act_ret_of (by assumption) ?_ | refine act_exc_of (by assumption) ?_
    | refine act_excAfter_of (by assumption) ?_ | refine act_stall_of (by assumption) ?_ | split | dsimp only
    | intro)

theorem execCrc_carries {z : State} (i : XIssue) (a : RArgs) (mp : Option (BitVec 14)) (s : State) (h : Carries z s) :
    ResCarries z (execCrc i a mp s) := by
  unfold Sys2Proof.Machine.execCrc
  with_reducible repeat' (first
    | assumption | apply res_next | apply act_done | apply runInstr_carries | apply microBody_carries
    | apply mapCore_carries | refine act_done_of (by assumption) ?_ | refine act_jump_of (by assumption) ?_
    | refine act_ret_of (by assumption) ?_ | refine act_exc_of (by assumption) ?_
    | refine act_excAfter_of (by assumption) ?_ | refine act_stall_of (by assumption) ?_
    | refine res_next_of (by assumption) ?_ | split | dsimp only | intro)

theorem execReplicaRewrite_carries {z : State} (cl : ClusterId) (word : BitVec 14) (s : State) (h : Carries z s) :
    ResCarries z (execReplicaRewrite cl word s) := by
  unfold Sys2Proof.Machine.execReplicaRewrite
  with_reducible repeat' (first
    | assumption | apply res_next | (apply Carries.mk_same; first | assumption | split) | split | dsimp only | intro)

theorem runRoutine_carries {z : State} (k : CoreId) (code : Nat) (a : RArgs) (mp : Option (BitVec 14)) (r : MicroRun) (s : State) (h : Carries z s) :
    ActCarries z (runRoutine k code a mp r s) := by
  unfold Sys2Proof.Machine.runRoutine
  with_reducible repeat' (first
    | assumption | apply ite_carries | apply ite_act | apply act_done | apply act_jump | apply act_ret
    | apply act_exc | apply act_excAfter | apply act_stall | apply microLoop_carries | apply mapCore_carries
    | apply microCommit_carries | apply microAbandon_carries | refine Carries.snd (by assumption) ?_
    | refine act_done_of (by assumption) ?_ | refine act_jump_of (by assumption) ?_
    | refine act_ret_of (by assumption) ?_ | refine act_exc_of (by assumption) ?_
    | refine act_excAfter_of (by assumption) ?_ | refine act_stall_of (by assumption) ?_ | split | dsimp only
    | intro)

theorem execCustomerInstruction_carries {z : State} (i : XIssue) (op : Fin 8) (a : RArgs) (mp : Option (BitVec 14)) (s : State) (h : Carries z s) :
    ResCarries z (execCustomerInstruction i op a mp s) := by
  unfold Sys2Proof.Machine.execCustomerInstruction
  with_reducible repeat' (first
    | assumption | apply ite_carries | apply ite_res | apply res_next | apply finishAct_carries
    | apply runRoutine_carries | apply runInstr_carries | apply mapCore_carries | apply startRun_carries
    | refine Carries.snd (by assumption) ?_ | refine act_done_of (by assumption) ?_
    | refine act_jump_of (by assumption) ?_ | refine act_ret_of (by assumption) ?_
    | refine act_exc_of (by assumption) ?_ | refine act_excAfter_of (by assumption) ?_
    | refine act_stall_of (by assumption) ?_ | refine res_next_of (by assumption) ?_ | split | dsimp only | intro)

end Sys2Proof.Laws
end

