-- ==== Sys2Proof/Laws/CarryRemote.lean ====
section
/-!
SUPPORT. What every operation of Machine/Remote.lean carries along (Laws/Carries.lean).
-/

set_option linter.all false
set_option Elab.async false

namespace Sys2Proof.Laws

open Sys2Proof.Machine

theorem sendAnswer_carries {z : State} (c : Cell) (st : Nat) (v : Nat) (s : State) (h : Carries z s) :
    Carries z (sendAnswer c st v s) := by
  unfold Sys2Proof.Machine.sendAnswer
  with_reducible repeat' (first
    | assumption | apply ite_carries | apply sendCell_carries | split | dsimp only | intro)

theorem answerFirst_carries {z : State} (c : Cell) (rest : List (Nat × Cell)) (s : State) (r : Option (Nat × Nat) × State) (h : Carries z s) (h_r : Carries z r.2) :
    Carries z (answerFirst c rest s r) := by
  unfold Sys2Proof.Machine.answerFirst
  with_reducible repeat' (first
    | assumption | apply sendAnswer_carries | apply clearSent_carries
    | (apply Carries.mk_same; first | assumption | apply sendAnswer_carries | apply clearSent_carries | split)
    | split | dsimp only | intro)

theorem checkedWrite_carries {z : State} (seat : Nat) (pa : Nat) (n : Nat) (v : Nat) (s : State) (h : Carries z s) :
    Carries z (checkedWrite seat pa n v s).2 := by
  unfold Sys2Proof.Machine.checkedWrite
  with_reducible repeat' (first
    | assumption | apply ite_carries | apply ite_snd | apply dmaWrite_carries | apply busWrite_carries
    | refine Carries.snd (by assumption) ?_ | split | dsimp only | intro)

theorem checkedRead_carries {z : State} (seat : Nat) (pa : Nat) (n : Nat) (s : State) (h : Carries z s) :
    Carries z (checkedRead seat pa n s).2 := by
  unfold Sys2Proof.Machine.checkedRead
  with_reducible repeat' (first
    | assumption | apply ite_carries | apply ite_snd | apply dmaRead_carries | apply busRead_carries
    | refine Carries.snd (by assumption) ?_ | split | dsimp only | intro)

theorem exportAccess_carries {z : State} (x : Nat) (ofs : Nat) (n : Nat) (write : Bool) (v : Nat) (s : State) (h : Carries z s) :
    Carries z (exportAccess x ofs n write v s).2 := by
  unfold Sys2Proof.Machine.exportAccess
  with_reducible repeat' (first
    | assumption | apply ite_carries | apply ite_snd | apply checkedWrite_carries | apply checkedRead_carries
    | refine Carries.snd (by assumption) ?_ | split | dsimp only | intro)

theorem serveBy_carries {z : State} (c : Cell) (x : Option Nat) (s : State) (h : Carries z s) :
    Carries z (serveBy c x s).2 := by
  unfold Sys2Proof.Machine.serveBy
  with_reducible repeat' (first
    | assumption | apply exportAccess_carries | refine Carries.snd (by assumption) ?_ | split | dsimp only | intro)

theorem serveRequest_carries {z : State} (c : Cell) (s : State) (h : Carries z s) :
    Carries z (serveRequest c s).2 := by
  unfold Sys2Proof.Machine.serveRequest
  with_reducible repeat' (first
    | extract_lets | assumption | apply serveBy_carries | refine Carries.snd (by assumption) ?_ | split | intro)

theorem execRemoteRequest_carries {z : State} (s : State) (h : Carries z s) :
    ResCarries z (execRemoteRequest s) := by
  unfold Sys2Proof.Machine.execRemoteRequest
  with_reducible repeat' (first
    | extract_lets | assumption | apply res_next | apply answerFirst_carries | apply serveRequest_carries
    | refine Carries.snd (by assumption) ?_ | split | intro)

end Sys2Proof.Laws
end

