-- ==== Sys2Proof/Laws/CarrySystem.lean ====
section
/-!
SUPPORT. What every operation of Machine/System.lean carries along (Laws/Carries.lean).
-/

set_option linter.all false
set_option Elab.async false

namespace Sys2Proof.Laws

open Sys2Proof.Machine

theorem execMfc_carries {z : State} (i : XIssue) (a : IArgs) (s : State) (h : Carries z s) :
    ResCarries z (execMfc i a s) := by
  unfold Sys2Proof.Machine.execMfc
  with_reducible repeat' (first
    | assumption | apply res_next | apply act_done | apply runInstr_carries | apply mapCore_carries
    | refine res_next_of (by assumption) ?_ | split | dsimp only | intro)

theorem writePstate_carries {z : State} (k : CoreId) (v : Word64) (s : State) (h : Carries z s) :
    ActCarries z (writePstate k v s) := by
  unfold Sys2Proof.Machine.writePstate
  with_reducible repeat' (first
    | assumption | apply ite_carries | apply ite_act | apply act_done | apply act_jump | apply act_ret
    | apply act_exc | apply act_excAfter | apply act_stall | apply mapCore_carries | split | dsimp only | intro)

theorem execMtc_carries {z : State} (i : XIssue) (a : IArgs) (s : State) (h : Carries z s) :
    ResCarries z (execMtc i a s) := by
  unfold Sys2Proof.Machine.execMtc
  with_reducible repeat' (first
    | assumption | apply ite_carries | apply ite_res | apply res_next | apply act_done | apply runInstr_carries
    | apply writePstate_carries | apply mapCore_carries | refine act_done_of (by assumption) ?_
    | refine act_jump_of (by assumption) ?_ | refine act_ret_of (by assumption) ?_
    | refine act_exc_of (by assumption) ?_ | refine act_excAfter_of (by assumption) ?_
    | refine act_stall_of (by assumption) ?_ | refine res_next_of (by assumption) ?_ | split | dsimp only | intro)

theorem spillTo_carries {z : State} (k : CoreId) (n : Nat) (x1 : Nat) (x2 : State) (h_x2 : Carries z x2) :
    Carries z (spillTo k n x1 x2).2 := by
  induction x1 generalizing k n x2 with
  | zero =>
    unfold Sys2Proof.Machine.spillTo
    with_reducible repeat' (first
      | assumption | apply ite_carries | apply ite_snd | apply spillOne_carries
      | refine Carries.snd (by assumption) ?_ | split | dsimp only | intro)
  | succ n ih =>
    unfold Sys2Proof.Machine.spillTo
    with_reducible repeat' (first
      | assumption | apply ih | apply ite_carries | apply ite_snd | apply spillOne_carries
      | refine Carries.snd (by assumption) ?_ | split | dsimp only | intro)

theorem flushWindows_carries {z : State} (k : CoreId) (n : Nat) (then_ : State → Act) (s : State) (h_then_ : ∀ t, Carries z t → ActCarries z (then_ t)) (h : Carries z s) :
    ActCarries z (flushWindows k n then_ s) := by
  unfold Sys2Proof.Machine.flushWindows
  with_reducible repeat' (first
    | assumption | apply ite_carries | apply ite_act | apply act_done | apply act_jump | apply act_ret
    | apply act_exc | apply act_excAfter | apply act_stall | apply h_then_ | apply spillTo_carries
    | apply stepEnds_carries | apply windowFault_carries | apply mapCore_carries | apply drainWhere_carries
    | refine Carries.snd (by assumption) ?_ | refine act_done_of (by assumption) ?_
    | refine act_jump_of (by assumption) ?_ | refine act_ret_of (by assumption) ?_
    | refine act_exc_of (by assumption) ?_ | refine act_excAfter_of (by assumption) ?_
    | refine act_stall_of (by assumption) ?_ | split | dsimp only | intro)

theorem switchIn_carries {z : State} (k : CoreId) (seat : Nat) (s : State) (h : Carries z s) :
    ActCarries z (switchIn k seat s) := by
  unfold Sys2Proof.Machine.switchIn
  with_reducible repeat' (first
    | assumption | apply act_done | apply act_jump | apply act_ret | apply act_exc | apply act_excAfter
    | apply act_stall | apply drawSeed_carries | apply traceSeat_carries | apply mapCore_carries
    | refine Carries.snd (by assumption) ?_
    | (apply Carries.mk_same; first | assumption | apply drawSeed_carries | apply traceSeat_carries | apply mapCore_carries | refine Carries.snd (by assumption) ?_ | split)
    | split | dsimp only | intro)

theorem switchLoad_carries {z : State} (k : CoreId) (out : Nat) (seat : Nat) (s : State) (h : Carries z s) :
    ActCarries z (switchLoad k out seat s) := by
  unfold switchLoad
  exact ite_act (fun _ => switchIn_carries _ _ _ h) (fun _ => act_stall (reportFault_carries _ _ _ _ _ (mapCore_carries _ _ _ h)))

theorem writeDoublewords_carries {z : State} (a : Nat) (x1 : List Word64) (x2 : State) (h_x2 : Carries z x2) :
    Carries z (writeDoublewords a x1 x2) := by
  induction x1 generalizing a x2 with
  | nil =>
    unfold Sys2Proof.Machine.writeDoublewords
    with_reducible repeat' (first
      | assumption | apply writeMem_carries | split | dsimp only | intro)
  | cons hd tl ih =>
    unfold Sys2Proof.Machine.writeDoublewords
    with_reducible repeat' (first
      | assumption | apply ih | apply writeMem_carries | split | dsimp only | intro)

theorem switchOver_carries {z : State} (k : CoreId) (seat : Nat) (s : State) (h : Carries z s) :
    ActCarries z (switchOver k seat s) := by
  have h' := mapCore_carries _ k Core.cleared
    (writeDoublewords_carries (recordAddr (s.core k).seatid k) (s.core k).context _ h)
  exact ite_act (fun _ => act_stall h) (fun _ => switchLoad_carries _ _ _ _ h')

theorem switchSeat_carries {z : State} (k : CoreId) (s : State) (h : Carries z s) :
    ActCarries z (switchSeat k s) := by
  unfold Sys2Proof.Machine.switchSeat
  with_reducible repeat' (first
    | assumption | apply ite_carries | apply ite_act | apply act_done | apply act_jump | apply act_ret
    | apply act_exc | apply act_excAfter | apply act_stall | apply mapCore_carries | apply stepEnds_carries
    | apply takeLong_carries | apply flushWindows_carries | apply switchOver_carries
    | refine act_done_of (by assumption) ?_ | refine act_jump_of (by assumption) ?_
    | refine act_ret_of (by assumption) ?_ | refine act_exc_of (by assumption) ?_
    | refine act_excAfter_of (by assumption) ?_ | refine act_stall_of (by assumption) ?_ | split | dsimp only
    | intro)

theorem chainTo_carries {z : State} (k : CoreId) (h_ : HeldEvent) (s : State) (h : Carries z s) :
    Carries z (chainTo k h_ s) := by
  unfold Sys2Proof.Machine.chainTo
  with_reducible repeat' (first
    | assumption | apply consumeHeld_carries | apply pmCount_carries | apply mapCore_carries
    | apply fetchVector_carries | apply traceExc_carries | split | dsimp only | intro)

theorem execSwseat_carries {z : State} (i : XIssue) (a : RArgs) (mp : Option (BitVec 14)) (s : State) (h : Carries z s) :
    ResCarries z (execSwseat i a mp s) := by
  unfold Sys2Proof.Machine.execSwseat
  with_reducible repeat' (first
    | assumption | apply res_next | apply runInstr_carries | apply microBody_carries | apply switchSeat_carries
    | refine act_done_of (by assumption) ?_ | refine act_jump_of (by assumption) ?_
    | refine act_ret_of (by assumption) ?_ | refine act_exc_of (by assumption) ?_
    | refine act_excAfter_of (by assumption) ?_ | refine act_stall_of (by assumption) ?_
    | refine res_next_of (by assumption) ?_ | split | dsimp only | intro)

theorem execWait_carries {z : State} (i : XIssue) (a : RArgs) (s : State) (h : Carries z s) :
    ResCarries z (execWait i a s) := by
  unfold Sys2Proof.Machine.execWait
  with_reducible repeat' (first
    | assumption | apply ite_carries | apply ite_res | apply res_next | apply act_done | apply act_stall
    | apply runInstr_carries | apply put_carries | apply coreSleep_carries | apply mapCore_carries
    | apply stepEnds_carries | apply takeLong_carries | apply pmCount_carries
    | refine res_next_of (by assumption) ?_ | split | dsimp only | intro)

theorem execFlushw_carries {z : State} (i : XIssue) (a : RArgs) (mp : Option (BitVec 14)) (s : State) (h : Carries z s) :
    ResCarries z (execFlushw i a mp s) := by
  unfold Sys2Proof.Machine.execFlushw
  with_reducible repeat' (first
    | assumption | apply res_next | apply act_done | apply runInstr_carries | apply microBody_carries
    | apply flushWindows_carries | refine act_done_of (by assumption) ?_ | refine act_jump_of (by assumption) ?_
    | refine act_ret_of (by assumption) ?_ | refine act_exc_of (by assumption) ?_
    | refine act_excAfter_of (by assumption) ?_ | refine act_stall_of (by assumption) ?_
    | refine res_next_of (by assumption) ?_ | split | dsimp only | intro)

theorem execIsync_carries {z : State} (i : XIssue) (a : RArgs) (s : State) (h : Carries z s) :
    ResCarries z (execIsync i a s) := by
  unfold Sys2Proof.Machine.execIsync
  with_reducible repeat' (first
    | assumption | apply res_next | apply act_done | apply runInstr_carries | refine res_next_of (by assumption) ?_
    | split | dsimp only | intro)

theorem execTrap_carries {z : State} (i : XIssue) (a : IArgs) (s : State) (h : Carries z s) :
    ResCarries z (execTrap i a s) := by
  unfold Sys2Proof.Machine.execTrap
  with_reducible repeat' (first
    | assumption | apply res_next | apply act_excAfter | apply runInstr_carries
    | refine res_next_of (by assumption) ?_ | split | dsimp only | intro)

theorem execLbar_carries {z : State} (i : XIssue) (a : RArgs) (s : State) (h : Carries z s) :
    ResCarries z (execLbar i a s) := by
  unfold Sys2Proof.Machine.execLbar
  with_reducible repeat' (first
    | assumption | apply ite_carries | apply ite_res | apply res_next | apply act_done | apply act_stall
    | apply runInstr_carries | apply mapCore_carries | apply stepEnds_carries | apply takeLong_carries
    | refine res_next_of (by assumption) ?_ | split | dsimp only | intro)

theorem execReti_carries {z : State} (i : XIssue) (a : RArgs) (s : State) (h : Carries z s) :
    ResCarries z (execReti i a s) := by
  unfold Sys2Proof.Machine.execReti
  with_reducible repeat' (first
    | assumption | apply ite_carries | apply ite_res | apply res_next | apply act_ret | apply act_stall
    | apply runInstr_carries | apply mapCore_carries | apply stepEnds_carries | apply takeLong_carries
    | apply chainTo_carries | apply traceTime_carries | apply traceTarget_carries
    | refine res_next_of (by assumption) ?_ | split | dsimp only | intro)

theorem execBrk_carries {z : State} (i : XIssue) (a : IArgs) (s : State) (h : Carries z s) :
    ResCarries z (execBrk i a s) := by
  unfold Sys2Proof.Machine.execBrk
  with_reducible repeat' (first
    | assumption | apply ite_carries | apply ite_res | apply res_next | apply act_done | apply act_exc
    | apply runInstr_carries | apply mapCore_carries | refine res_next_of (by assumption) ?_ | split | dsimp only
    | intro)

theorem execFlushwA_carries {z : State} (i : XIssue) (a : RArgs) (mp : Option (BitVec 14)) (s : State) (h : Carries z s) :
    ResCarries z (execFlushwA i a mp s) := by
  unfold Sys2Proof.Machine.execFlushwA
  with_reducible repeat' (first
    | assumption | apply res_next | apply act_done | apply runInstr_carries | apply microBody_carries
    | apply flushWindows_carries | apply mapCore_carries | refine act_done_of (by assumption) ?_
    | refine act_jump_of (by assumption) ?_ | refine act_ret_of (by assumption) ?_
    | refine act_exc_of (by assumption) ?_ | refine act_excAfter_of (by assumption) ?_
    | refine act_stall_of (by assumption) ?_ | refine res_next_of (by assumption) ?_ | split | dsimp only | intro)

theorem execBar_carries {z : State} (i : XIssue) (a : RArgs) (s : State) (h : Carries z s) :
    ResCarries z (execBar i a s) := by
  unfold Sys2Proof.Machine.execBar
  with_reducible repeat' (first
    | assumption | apply ite_carries | apply ite_res | apply res_next | apply act_done | apply act_stall
    | apply runInstr_carries | refine res_next_of (by assumption) ?_ | split | dsimp only | intro)

end Sys2Proof.Laws
end

