-- ==== Sys2Proof/Laws/CarryDbg.lean ====
section
/-!
SUPPORT. What every operation of Machine/Dbg.lean carries along (Laws/Carries.lean).
-/

set_option linter.all false
set_option Elab.async false

namespace Sys2Proof.Laws

open Sys2Proof.Machine

theorem resumeWrite_carries {z : State} (step : Bool) (k : CoreId) (s : State) (h : Carries z s) :
    Carries z (resumeWrite step k s) := by
  unfold Sys2Proof.Machine.resumeWrite
  with_reducible repeat' (first
    | assumption | apply ite_carries | apply put_carries | apply resumeCore_carries | split | dsimp only | intro)

theorem damctlWrite_carries {z : State} (v : Nat) (s : State) (h : Carries z s) :
    Carries z (damctlWrite v s) := by
  unfold Sys2Proof.Machine.damctlWrite
  with_reducible repeat' (first
    | assumption | apply ite_carries | apply writeFields_carries | apply put_carries | split | dsimp only | intro)

theorem crossWrite_carries {z : State} (s : State) (t : State) (h : Carries z s) (h_t : Carries z t) :
    Carries z (crossWrite s t) := by
  unfold Sys2Proof.Machine.crossWrite
  with_reducible repeat' (first
    | assumption | apply ite_carries | apply put_carries | split | dsimp only | intro)

theorem requestHalt_carries {z : State} (k : CoreId) (s : State) (h : Carries z s) :
    Carries z (requestHalt k s) := by
  unfold Sys2Proof.Machine.requestHalt
  with_reducible repeat' (first
    | assumption | apply ite_carries | apply mapCore_carries | split | dsimp only | intro)

theorem cctlWrite_carries {z : State} (k : CoreId) (v : Nat) (s : State) (h : Carries z s) :
    Carries z (cctlWrite k v s) := by
  unfold Sys2Proof.Machine.cctlWrite
  with_reducible repeat' (first
    | assumption | apply ite_carries | apply crossWrite_carries | apply writeFields_carries
    | apply requestHalt_carries | apply resumeWrite_carries | split | dsimp only | intro)

theorem crWrite_carries {z : State} (k : CoreId) (space : Nat) (num : Nat) (v : Word64) (s : State) (h : Carries z s) :
    Carries z (crWrite k space num v s) := by
  unfold Sys2Proof.Machine.crWrite
  with_reducible repeat' (first
    | assumption | apply ite_carries | apply act_done | apply mapCore_carries | apply writePstate_carries
    | refine act_done_of (by assumption) ?_ | refine act_jump_of (by assumption) ?_
    | refine act_ret_of (by assumption) ?_ | refine act_exc_of (by assumption) ?_
    | refine act_excAfter_of (by assumption) ?_ | refine act_stall_of (by assumption) ?_ | split | dsimp only
    | intro)

theorem crselWrite_carries {z : State} (k : CoreId) (v : Nat) (s : State) (h : Carries z s) :
    Carries z (crselWrite k v s) := by
  unfold Sys2Proof.Machine.crselWrite
  with_reducible repeat' (first
    | assumption | apply ite_carries | apply put_carries | apply crWrite_carries | split | dsimp only | intro)

theorem cmpctlWrite_carries {z : State} (n : Nat) (j : Nat) (v : Nat) (s : State) (h : Carries z s) :
    Carries z (cmpctlWrite n j v s) := by
  unfold Sys2Proof.Machine.cmpctlWrite
  with_reducible repeat' (first
    | assumption | apply ite_carries | apply crossWrite_carries | apply writeFields_carries | split | dsimp only
    | intro)

theorem dbgWrite_carries {z : State} (a : Nat) (v : Nat) (s : State) (h : Carries z s) :
    Carries z (dbgWrite a v s) := by
  unfold Sys2Proof.Machine.dbgWrite
  with_reducible repeat' (first
    | assumption | apply ite_carries | apply writeFields_carries | apply thawWatchdogs_carries
    | apply endGrant_carries | apply damctlWrite_carries | apply cctlWrite_carries | apply crselWrite_carries
    | apply cmpctlWrite_carries | apply crossWrite_carries | split | dsimp only | intro)

theorem dbgRow_carries {z : State} (by_ : Seat) (a : Nat) (v : Nat) (s : State) (h : Carries z s) :
    ResCarries z (dbgRow by_ a v s) := by
  unfold Sys2Proof.Machine.dbgRow
  with_reducible repeat' (first
    | assumption | apply ite_carries | apply ite_res | apply res_next | apply answer_carries
    | apply dbgWrite_carries | split | dsimp only | intro)

theorem execDebugHalt_carries {z : State} (k : CoreId) (s : State) (h : Carries z s) :
    ResCarries z (execDebugHalt k s) := by
  unfold Sys2Proof.Machine.execDebugHalt
  with_reducible repeat' (first
    | assumption | apply ite_carries | apply ite_res | apply res_next | apply mapCore_carries
    | apply enterHalt_carries | split | dsimp only | intro)

theorem execDamGo_carries {z : State} (by_ : Seat) (value : Word32) (s : State) (h : Carries z s) :
    ResCarries z (execDamGo by_ value s) := by
  unfold Sys2Proof.Machine.execDamGo
  with_reducible repeat' (first
    | assumption | apply res_next | apply dbgRow_carries | refine res_next_of (by assumption) ?_ | split
    | dsimp only | intro)

theorem execDbgacc_carries {z : State} (write : Bool) (offset : BitVec 16) (data : Word32) (s : State) (h : Carries z s) :
    ResCarries z (execDbgacc write offset data s) := by
  unfold Sys2Proof.Machine.execDbgacc
  with_reducible repeat' (first
    | assumption | apply ite_carries | apply ite_res | apply res_next | apply answer_carries
    | apply dbgWrite_carries | apply wordRead_carries | refine Carries.snd (by assumption) ?_
    | (apply Carries.mk_same; first | assumption | apply answer_carries | apply dbgWrite_carries | apply wordRead_carries | refine Carries.snd (by assumption) ?_ | split)
    | split | dsimp only | intro)

theorem damRead_carries {z : State} (seat : Nat) (pa : Nat) (n : Nat) (s : State) (h : Carries z s) :
    Carries z (damRead seat pa n s).2 := by
  unfold Sys2Proof.Machine.damRead
  with_reducible repeat' (first
    | assumption | apply ite_carries | apply ite_snd | apply draw_carries | apply put_carries
    | apply busRead_carries | apply remoteSend_carries | refine Carries.snd (by assumption) ?_ | split | dsimp only
    | intro)

theorem seat0Write_carries {z : State} (pa : Nat) (n : Nat) (v : Nat) (s : State) (h : Carries z s) :
    Carries z (seat0Write pa n v s).2 := by
  unfold Sys2Proof.Machine.seat0Write
  with_reducible repeat' (first
    | assumption | apply ite_carries | apply ite_snd | apply dbgWrite_carries | apply busWrite_carries
    | refine Carries.snd (by assumption) ?_ | split | dsimp only | intro)

theorem damWrite_carries {z : State} (seat : Nat) (pa : Nat) (n : Nat) (v : Nat) (s : State) (h : Carries z s) :
    Carries z (damWrite seat pa n v s).2 := by
  unfold Sys2Proof.Machine.damWrite
  with_reducible repeat' (first
    | assumption | apply ite_carries | apply ite_snd | apply seat0Write_carries | apply remoteSend_carries
    | apply busWrite_carries | refine Carries.snd (by assumption) ?_ | split | dsimp only | intro)

theorem execDamComplete_carries {z : State} (s : State) (h : Carries z s) :
    ResCarries z (execDamComplete s) := by
  unfold Sys2Proof.Machine.execDamComplete
  with_reducible repeat' (first
    | assumption | apply ite_carries | apply ite_res | apply res_next | apply damWrite_carries
    | apply damRead_carries | apply put_carries | refine Carries.snd (by assumption) ?_ | split | dsimp only | intro)

theorem execTrst_carries {z : State} (s : State) (h : Carries z s) :
    ResCarries z (execTrst s) := by
  unfold Sys2Proof.Machine.execTrst
  with_reducible repeat' (first
    | assumption | apply res_next | (apply Carries.mk_same; first | assumption | split) | split | dsimp only | intro)

theorem execDbgTrigin_carries {z : State} (s : State) (h : Carries z s) :
    ResCarries z (execDbgTrigin s) := by
  unfold Sys2Proof.Machine.execDbgTrigin
  with_reducible repeat' (first
    | assumption | apply ite_carries | apply ite_res | apply res_next
    | (apply Carries.mk_same; first | assumption | split) | split | dsimp only | intro)

theorem execDbgHaltreq_carries {z : State} (by_ : Seat) (k : CoreId) (s : State) (h : Carries z s) :
    ResCarries z (execDbgHaltreq by_ k s) := by
  unfold Sys2Proof.Machine.execDbgHaltreq
  with_reducible repeat' (first
    | assumption | apply res_next | apply dbgRow_carries | refine res_next_of (by assumption) ?_ | split
    | dsimp only | intro)

theorem resetDebug_carries {z : State} (s : State) (h : Carries z s) :
    Carries z (resetDebug s) := by
  unfold Sys2Proof.Machine.resetDebug
  with_reducible repeat' (first
    | assumption | apply ite_carries | apply endGrant_carries | apply resumeCore_carries | apply mapCores_carries
    | apply clearRegs_carries | apply foldl_carries | apply foldl_snd_carries | apply foldl_snd2_carries
    | refine Carries.snd (by assumption) ?_ | refine Carries.snd2 (by assumption) ?_
    | (apply Carries.mk_same; first | assumption | apply endGrant_carries | apply resumeCore_carries | apply mapCores_carries | apply clearRegs_carries | apply foldl_carries | apply foldl_snd_carries | apply foldl_snd2_carries | refine Carries.snd (by assumption) ?_ | refine Carries.snd2 (by assumption) ?_ | split)
    | split | dsimp only | intro)

theorem execVddDbgFall_carries {z : State} (s : State) (h : Carries z s) :
    ResCarries z (execVddDbgFall s) := by
  unfold Sys2Proof.Machine.execVddDbgFall
  with_reducible repeat' (first
    | assumption | apply ite_carries | apply ite_res | apply res_next | apply resetDebug_carries
    | (apply Carries.mk_same; first | assumption | apply resetDebug_carries | split) | split | dsimp only | intro)

theorem execDbgStep_carries {z : State} (by_ : Seat) (k : CoreId) (s : State) (h : Carries z s) :
    ResCarries z (execDbgStep by_ k s) := by
  unfold Sys2Proof.Machine.execDbgStep
  with_reducible repeat' (first
    | assumption | apply res_next | apply dbgRow_carries | refine res_next_of (by assumption) ?_ | split
    | dsimp only | intro)

theorem execCrossTrigger_carries {z : State} (s : State) (h : Carries z s) :
    ResCarries z (execCrossTrigger s) := by
  unfold Sys2Proof.Machine.execCrossTrigger
  with_reducible repeat' (first
    | assumption | apply ite_carries | apply ite_res | apply res_next | apply requestHalt_carries
    | apply each_carries | apply stopLanes_carries | apply foldl_carries | apply foldl_snd_carries
    | apply foldl_snd2_carries | refine Carries.snd (by assumption) ?_ | refine Carries.snd2 (by assumption) ?_
    | (apply Carries.mk_same; first | assumption | apply requestHalt_carries | apply each_carries | apply stopLanes_carries | apply foldl_carries | apply foldl_snd_carries | apply foldl_snd2_carries | refine Carries.snd (by assumption) ?_ | refine Carries.snd2 (by assumption) ?_ | split)
    | split | dsimp only | intro)

theorem execDbgResume_carries {z : State} (by_ : Seat) (k : CoreId) (s : State) (h : Carries z s) :
    ResCarries z (execDbgResume by_ k s) := by
  unfold Sys2Proof.Machine.execDbgResume
  with_reducible repeat' (first
    | assumption | apply res_next | apply dbgRow_carries | refine res_next_of (by assumption) ?_ | split
    | dsimp only | intro)

theorem execExtest_carries {z : State} (value : BitVec 959) (s : State) (h : Carries z s) :
    ResCarries z (execExtest value s) := by
  unfold Sys2Proof.Machine.execExtest
  with_reducible repeat' (first
    | assumption | apply ite_carries | apply ite_res | apply res_next
    | (apply Carries.mk_same; first | assumption | split) | split | dsimp only | intro)

theorem execCrselAccess_carries {z : State} (by_ : Seat) (k : CoreId) (value : Word32) (s : State) (h : Carries z s) :
    ResCarries z (execCrselAccess by_ k value s) := by
  unfold Sys2Proof.Machine.execCrselAccess
  with_reducible repeat' (first
    | assumption | apply res_next | apply dbgRow_carries | refine res_next_of (by assumption) ?_ | split
    | dsimp only | intro)

theorem execVddDbgRise_carries {z : State} (s : State) (h : Carries z s) :
    ResCarries z (execVddDbgRise s) := by
  unfold Sys2Proof.Machine.execVddDbgRise
  with_reducible repeat' (first
    | assumption | apply ite_carries | apply ite_res | apply res_next | apply resetDebug_carries
    | (apply Carries.mk_same; first | assumption | apply resetDebug_carries | split) | split | dsimp only | intro)

end Sys2Proof.Laws
end

