-- ==== Sys2Proof/Laws/CarryAccess.lean ====
section
/-!
SUPPORT. What every operation of Machine/Access.lean carries along (Laws/Carries.lean).
-/

set_option linter.all false
set_option Elab.async false

namespace Sys2Proof.Laws

open Sys2Proof.Machine

theorem execTraceStimWrite_carries {z : State} (by_ : Seat) (seat : Seat) (port : Fin 16) (value : Word32) (s : State) (h : Carries z s) :
    ResCarries z (execTraceStimWrite by_ seat port value s) := by
  unfold Sys2Proof.Machine.execTraceStimWrite
  with_reducible repeat' (first
    | assumption | apply ite_carries | apply ite_res | apply res_next | apply id_carries | apply pageWrite_carries
    | apply stimWrite_carries | refine res_next_of (by assumption) ?_ | split | dsimp only | intro)

theorem busRow_carries {z : State} (s : State) (r : BusAns × State) (h : Carries z s) (h_r : Carries z r.2) :
    ResCarries z (busRow s r) := by
  unfold Sys2Proof.Machine.busRow
  with_reducible repeat' (first
    | assumption | apply res_next | apply answer_carries | split | dsimp only | intro)

theorem seatWrite_carries {z : State} (seat : Nat) (pa : Nat) (n : Nat) (v : Nat) (s : State) (h : Carries z s) :
    Carries z (seatWrite seat pa n v s).2 := by
  unfold Sys2Proof.Machine.seatWrite
  with_reducible repeat' (first
    | assumption | apply ite_carries | apply ite_snd | apply seat0Write_carries | apply busWrite_carries
    | refine Carries.snd (by assumption) ?_ | split | dsimp only | intro)

theorem execFenceWriteReject_carries {z : State} (by_ : Seat) (addr : BitVec 48) (value : Word64) (s : State) (h : Carries z s) :
    ResCarries z (execFenceWriteReject by_ addr value s) := by
  unfold Sys2Proof.Machine.execFenceWriteReject
  with_reducible repeat' (first
    | assumption | apply ite_carries | apply ite_res | apply res_next | apply answer_carries | apply busRow_carries
    | apply seatWrite_carries | refine Carries.snd (by assumption) ?_ | refine res_next_of (by assumption) ?_
    | split | dsimp only | intro)

theorem regionAdvance_carries {z : State} (r : Nat) (s : State) (h : Carries z s) :
    Carries z (regionAdvance r s) := by
  unfold Sys2Proof.Machine.regionAdvance
  with_reducible repeat' (first
    | assumption | apply ite_carries | apply put_carries
    | (apply Carries.mk_same; first | assumption | apply put_carries | split) | split | dsimp only | intro)

theorem unitWritten_carries {z : State} (r : Nat) (s : State) (x : DmaAns × State) (h : Carries z s) (h_x : Carries z x.2) :
    Carries z (unitWritten r s x) := by
  unfold Sys2Proof.Machine.unitWritten
  with_reducible repeat' (first
    | assumption | apply regionAdvance_carries | apply put_carries
    | (apply Carries.mk_same; first | assumption | apply regionAdvance_carries | apply put_carries | split) | split
    | dsimp only | intro)

theorem setTraceFifo_carries {z : State} (s : State) (src : TraceSource) (f : TraceFifo) (h : Carries z s) :
    Carries z (State.setTraceFifo s src f) := by
  unfold Sys2Proof.Machine.State.setTraceFifo
  with_reducible repeat' (first
    | assumption | (apply Carries.mk_same; first | assumption | split) | split | dsimp only | intro)

theorem execRegisterWrite_carries {z : State} (by_ : Seat) (addr : BitVec 48) (wide : Bool) (value : Word64) (s : State) (h : Carries z s) :
    ResCarries z (execRegisterWrite by_ addr wide value s) := by
  unfold Sys2Proof.Machine.execRegisterWrite
  with_reducible repeat' (first
    | assumption | apply ite_carries | apply ite_res | apply res_next | apply busRow_carries
    | apply seatWrite_carries | apply answer_carries | refine Carries.snd (by assumption) ?_
    | refine res_next_of (by assumption) ?_ | split | dsimp only | intro)

theorem sendUnit_carries {z : State} (seat : Nat) (bytes : List Byte) (s : State) (t : State) (h : Carries z s) (h_t : Carries z t) :
    Carries z (sendUnit seat bytes s t) := by
  unfold Sys2Proof.Machine.sendUnit
  with_reducible repeat' (first
    | assumption | apply ite_carries | apply unitWritten_carries | apply dmaWrite_carries | apply foldl_carries
    | apply foldl_snd_carries | apply foldl_snd2_carries | refine Carries.snd (by assumption) ?_
    | (apply Carries.mk_same; first | assumption | apply unitWritten_carries | apply dmaWrite_carries | apply foldl_carries | apply foldl_snd_carries | apply foldl_snd2_carries | refine Carries.snd (by assumption) ?_ | split)
    | split | dsimp only | intro)

theorem execTraceUnitWrite_carries {z : State} (src : TraceSource) (s : State) (h : Carries z s) :
    ResCarries z (execTraceUnitWrite src s) := by
  unfold Sys2Proof.Machine.execTraceUnitWrite
  with_reducible repeat' (first
    | assumption | apply res_next | apply sendUnit_carries | apply setTraceFifo_carries | split | dsimp only | intro)

theorem execS2inv_carries {z : State} (by_ : Seat) (value : Word32) (s : State) (h : Carries z s) :
    ResCarries z (execS2inv by_ value s) := by
  unfold Sys2Proof.Machine.execS2inv
  with_reducible repeat' (first
    | assumption | apply ite_carries | apply ite_res | apply res_next | apply answer_carries | apply busRow_carries
    | apply wordWrite_carries | refine Carries.snd (by assumption) ?_ | refine res_next_of (by assumption) ?_
    | split | dsimp only | intro)

end Sys2Proof.Laws
end

