-- ==== Sys2Proof/Laws/CarryBranch.lean ====
section
/-!
SUPPORT. What every operation of Machine/Branch.lean carries along (Laws/Carries.lean).
-/

set_option linter.all false
set_option Elab.async false

namespace Sys2Proof.Laws

open Sys2Proof.Machine

theorem resolveIndirect_carries {z : State} (k : CoreId) (viaRas : Bool) (t : Word64) (s : State) (h : Carries z s) :
    Carries z (resolveIndirect k viaRas t s) := by
  unfold Sys2Proof.Machine.resolveIndirect
  with_reducible repeat' (first
    | assumption | apply ite_carries | apply mapCore_carries | apply pmCount_carries | split | dsimp only | intro)

theorem pushReturn_carries {z : State} (k : CoreId) (a : Word64) (s : State) (h : Carries z s) :
    Carries z (pushReturn k a s) := by
  unfold Sys2Proof.Machine.pushReturn
  with_reducible repeat' (first
    | assumption | apply ite_carries | apply mapCore_carries | split | dsimp only | intro)

theorem execJmpl_carries {z : State} (i : Issue) (a : IArgs) (s : State) (h : Carries z s) :
    ResCarries z (execJmpl i a s) := by
  unfold Sys2Proof.Machine.execJmpl
  with_reducible repeat' (first
    | assumption | apply ite_carries | apply ite_res | apply res_next | apply act_jump | apply act_exc
    | apply runInstr_carries | apply resolveIndirect_carries | apply traceTarget_carries | apply pushReturn_carries
    | apply mapCore_carries | refine res_next_of (by assumption) ?_ | split | dsimp only | intro)

theorem execAsyncBusErrorEntry_carries {z : State} (k : CoreId) (s : State) (h : Carries z s) :
    ResCarries z (execAsyncBusErrorEntry k s) := by
  unfold Sys2Proof.Machine.execAsyncBusErrorEntry
  with_reducible repeat' (first
    | assumption | apply res_next | apply takeHeld_carries | split | dsimp only | intro)

theorem execRep_carries {z : State} (i : XIssue) (a : IArgs) (s : State) (h : Carries z s) :
    ResCarries z (execRep i a s) := by
  unfold Sys2Proof.Machine.execRep
  with_reducible repeat' (first
    | assumption | apply ite_carries | apply ite_res | apply res_next | apply act_jump | apply runInstr_carries
    | apply mapCore_carries | refine res_next_of (by assumption) ?_ | split | dsimp only | intro)

theorem execWindowSpill_carries {z : State} (k : CoreId) (s : State) (h : Carries z s) :
    ResCarries z (execWindowSpill k s) := by
  unfold Sys2Proof.Machine.execWindowSpill
  with_reducible repeat' (first
    | assumption | apply ite_carries | apply ite_res | apply res_next | apply spillOne_carries
    | apply windowFault_carries | apply mapCore_carries | refine Carries.snd (by assumption) ?_ | split | dsimp only
    | intro)

theorem callTo_carries {z : State} (k : CoreId) (t : Word64) (indirect : Bool) (s : State) (h : Carries z s) :
    ActCarries z (callTo k t indirect s) := by
  unfold Sys2Proof.Machine.callTo
  with_reducible repeat' (first
    | assumption | apply ite_carries | apply ite_act | apply act_done | apply act_jump | apply act_ret
    | apply act_exc | apply act_excAfter | apply act_stall | apply pushReturn_carries | apply traceTarget_carries
    | apply resolveIndirect_carries | apply mapCore_carries | split | dsimp only | intro)

theorem resolveHint_carries {z : State} (k : CoreId) (cond : Fin 15) (h_ : Bool) (taken : Bool) (s : State) (h : Carries z s) :
    Carries z (resolveHint k cond h_ taken s) := by
  unfold Sys2Proof.Machine.resolveHint
  with_reducible repeat' (first
    | assumption | apply ite_carries | apply pmCount_carries | split | dsimp only | intro)

theorem execCall_carries {z : State} (i : Issue) (a : BArgs) (s : State) (h : Carries z s) :
    ResCarries z (execCall i a s) := by
  unfold Sys2Proof.Machine.execCall
  with_reducible repeat' (first
    | assumption | apply res_next | apply runInstr_carries | apply callTo_carries | apply resolveHint_carries
    | refine act_done_of (by assumption) ?_ | refine act_jump_of (by assumption) ?_
    | refine act_ret_of (by assumption) ?_ | refine act_exc_of (by assumption) ?_
    | refine act_excAfter_of (by assumption) ?_ | refine act_stall_of (by assumption) ?_
    | refine res_next_of (by assumption) ?_ | split | dsimp only | intro)

theorem execInterruptEntry_carries {z : State} (k : CoreId) (s : State) (h : Carries z s) :
    ResCarries z (execInterruptEntry k s) := by
  unfold Sys2Proof.Machine.execInterruptEntry
  with_reducible repeat' (first
    | assumption | apply res_next | apply takeHeld_carries | split | dsimp only | intro)

theorem execCallr_carries {z : State} (i : Issue) (a : IArgs) (s : State) (h : Carries z s) :
    ResCarries z (execCallr i a s) := by
  unfold Sys2Proof.Machine.execCallr
  with_reducible repeat' (first
    | assumption | apply res_next | apply runInstr_carries | apply callTo_carries
    | refine act_done_of (by assumption) ?_ | refine act_jump_of (by assumption) ?_
    | refine act_ret_of (by assumption) ?_ | refine act_exc_of (by assumption) ?_
    | refine act_excAfter_of (by assumption) ?_ | refine act_stall_of (by assumption) ?_
    | refine res_next_of (by assumption) ?_ | split | dsimp only | intro)

theorem execB_carries {z : State} (i : Issue) (a : BArgs) (s : State) (h : Carries z s) :
    ResCarries z (execB i a s) := by
  unfold Sys2Proof.Machine.execB
  with_reducible repeat' (first
    | assumption | apply res_next | apply act_jump | apply runInstr_carries | apply resolveHint_carries
    | refine res_next_of (by assumption) ?_ | split | dsimp only | intro)

theorem execWindowFill_carries {z : State} (k : CoreId) (s : State) (h : Carries z s) :
    ResCarries z (execWindowFill k s) := by
  unfold Sys2Proof.Machine.execWindowFill
  with_reducible repeat' (first
    | assumption | apply ite_carries | apply ite_res | apply res_next | apply fillOne_carries
    | apply mapCore_carries | apply stepEnds_carries | apply windowFault_carries
    | refine Carries.snd (by assumption) ?_ | split | dsimp only | intro)

theorem execRetw_carries {z : State} (i : Issue) (a : RArgs) (s : State) (h : Carries z s) :
    ResCarries z (execRetw i a s) := by
  unfold Sys2Proof.Machine.execRetw
  with_reducible repeat' (first
    | assumption | apply ite_carries | apply ite_res | apply res_next | apply act_jump | apply act_exc
    | apply act_stall | apply runInstr_carries | apply mapCore_carries | apply traceTarget_carries
    | apply resolveIndirect_carries | refine res_next_of (by assumption) ?_ | split | dsimp only | intro)

theorem execSeatSwitchEntry_carries {z : State} (k : CoreId) (s : State) (h : Carries z s) :
    ResCarries z (execSeatSwitchEntry k s) := by
  unfold Sys2Proof.Machine.execSeatSwitchEntry
  with_reducible repeat' (first
    | assumption | apply res_next | apply takeHeld_carries | split | dsimp only | intro)

end Sys2Proof.Laws
end

