-- ==== Sys2Proof/Laws/CarryCmo.lean ====
section
/-!
SUPPORT. What every operation of Machine/Cmo.lean carries along (Laws/Carries.lean).
-/

set_option linter.all false
set_option Elab.async false

namespace Sys2Proof.Laws

open Sys2Proof.Machine

theorem voidFills_carries {z : State} (k : CoreId) (seat : Nat) (line : Nat) (s : State) (h : Carries z s) :
    Carries z (voidFills k seat line s) := by
  unfold Sys2Proof.Machine.voidFills
  with_reducible repeat' (first
    | assumption | apply ite_carries | apply mapCores_carries | split | dsimp only | intro)

theorem cmoCopy_carries {z : State} (op : CmoOp) (guard : Bool) (seat : Nat) (line : Nat) (cl : Nat) (s : State) (h : Carries z s) :
    Carries z (cmoCopy op guard seat line cl s) := by
  unfold Sys2Proof.Machine.cmoCopy
  with_reducible repeat' (first
    | assumption | apply ite_carries | apply put_carries | apply l2Clean_carries | apply l2Remove_carries | split
    | dsimp only | intro)

theorem cmoLine_carries {z : State} (k : CoreId) (op : CmoOp) (guard : Bool) (va : Nat) (s0 : State) (h_s0 : Carries z s0) :
    Carries z (cmoLine k op guard va s0).2 := by
  unfold Sys2Proof.Machine.cmoLine
  with_reducible repeat' (first
    | assumption | apply ite_carries | apply ite_snd | apply put_carries | apply translate_carries
    | apply xlExc_carries | apply drainLine_carries | apply l2Fill_carries | apply voidFills_carries
    | apply each_carries | apply cmoCopy_carries | refine Carries.snd (by assumption) ?_ | split | dsimp only
    | intro)

theorem cmoRange_carries {z : State} (key : Instr) (fn : Nat) (op : CmoOp) (i : XIssue) (a : RArgs) (s : State) (h : Carries z s) :
    ResCarries z (cmoRange key fn op i a s) := by
  unfold Sys2Proof.Machine.cmoRange
  with_reducible repeat' (first
    | assumption | apply ite_carries | apply ite_res | apply res_next | apply act_done | apply act_exc
    | apply act_stall | apply runInstr_carries | apply cmoLine_carries | apply mapCore_carries
    | refine Carries.snd (by assumption) ?_ | refine res_next_of (by assumption) ?_ | split | dsimp only | intro)

theorem execCmoInvR_carries {z : State} (i : XIssue) (a : RArgs) (s : State) (h : Carries z s) :
    ResCarries z (execCmoInvR i a s) := by
  unfold Sys2Proof.Machine.execCmoInvR
  with_reducible repeat' (first
    | assumption | apply res_next | apply cmoRange_carries | refine res_next_of (by assumption) ?_ | split
    | dsimp only | intro)

theorem cmoOne_carries {z : State} (key : Instr) (fn : Nat) (op : CmoOp) (i : XIssue) (a : RArgs) (s : State) (h : Carries z s) :
    ResCarries z (cmoOne key fn op i a s) := by
  unfold Sys2Proof.Machine.cmoOne
  with_reducible repeat' (first
    | assumption | apply res_next | apply act_done | apply act_exc | apply act_stall | apply runInstr_carries
    | apply cmoLine_carries | refine Carries.snd (by assumption) ?_ | refine res_next_of (by assumption) ?_ | split
    | dsimp only | intro)

theorem execCmoInv_carries {z : State} (i : XIssue) (a : RArgs) (s : State) (h : Carries z s) :
    ResCarries z (execCmoInv i a s) := by
  unfold Sys2Proof.Machine.execCmoInv
  with_reducible repeat' (first
    | assumption | apply res_next | apply cmoOne_carries | refine res_next_of (by assumption) ?_ | split
    | dsimp only | intro)

theorem execCmoCiv_carries {z : State} (i : XIssue) (a : RArgs) (s : State) (h : Carries z s) :
    ResCarries z (execCmoCiv i a s) := by
  unfold Sys2Proof.Machine.execCmoCiv
  with_reducible repeat' (first
    | assumption | apply res_next | apply cmoOne_carries | refine res_next_of (by assumption) ?_ | split
    | dsimp only | intro)

theorem execInvL1_carries {z : State} (i : XIssue) (a : RArgs) (s : State) (h : Carries z s) :
    ResCarries z (execInvL1 i a s) := by
  unfold Sys2Proof.Machine.execInvL1
  with_reducible repeat' (first
    | assumption | apply ite_carries | apply ite_res | apply res_next | apply act_done | apply runInstr_carries
    | apply mapCore_carries | refine res_next_of (by assumption) ?_ | split | dsimp only | intro)

theorem execCmoClnR_carries {z : State} (i : XIssue) (a : RArgs) (s : State) (h : Carries z s) :
    ResCarries z (execCmoClnR i a s) := by
  unfold Sys2Proof.Machine.execCmoClnR
  with_reducible repeat' (first
    | assumption | apply res_next | apply cmoRange_carries | refine res_next_of (by assumption) ?_ | split
    | dsimp only | intro)

theorem execCmoCln_carries {z : State} (i : XIssue) (a : RArgs) (s : State) (h : Carries z s) :
    ResCarries z (execCmoCln i a s) := by
  unfold Sys2Proof.Machine.execCmoCln
  with_reducible repeat' (first
    | assumption | apply res_next | apply cmoOne_carries | refine res_next_of (by assumption) ?_ | split
    | dsimp only | intro)

theorem execCmoCivR_carries {z : State} (i : XIssue) (a : RArgs) (s : State) (h : Carries z s) :
    ResCarries z (execCmoCivR i a s) := by
  unfold Sys2Proof.Machine.execCmoCivR
  with_reducible repeat' (first
    | assumption | apply res_next | apply cmoRange_carries | refine res_next_of (by assumption) ?_ | split
    | dsimp only | intro)

theorem execCmoFillR_carries {z : State} (i : XIssue) (a : RArgs) (s : State) (h : Carries z s) :
    ResCarries z (execCmoFillR i a s) := by
  unfold Sys2Proof.Machine.execCmoFillR
  with_reducible repeat' (first
    | assumption | apply res_next | apply cmoRange_carries | refine res_next_of (by assumption) ?_ | split
    | dsimp only | intro)

theorem execCivSeat_carries {z : State} (i : XIssue) (a : RArgs) (s : State) (h : Carries z s) :
    ResCarries z (execCivSeat i a s) := by
  unfold Sys2Proof.Machine.execCivSeat
  with_reducible repeat' (first
    | assumption | apply res_next | apply act_done | apply runInstr_carries | apply drainWhere_carries
    | apply cmoCopy_carries | apply foldl_carries | apply foldl_snd_carries | apply foldl_snd2_carries
    | refine Carries.snd (by assumption) ?_ | refine Carries.snd2 (by assumption) ?_
    | refine res_next_of (by assumption) ?_ | split | dsimp only | intro)

theorem execCmoFill_carries {z : State} (i : XIssue) (a : RArgs) (s : State) (h : Carries z s) :
    ResCarries z (execCmoFill i a s) := by
  unfold Sys2Proof.Machine.execCmoFill
  with_reducible repeat' (first
    | assumption | apply res_next | apply cmoOne_carries | refine res_next_of (by assumption) ?_ | split
    | dsimp only | intro)

end Sys2Proof.Laws
end

