-- ==== Sys2Proof/Laws/CarryCoreEvents.lean ====
section
/-!
SUPPORT. What every operation of Machine/CoreEvents.lean carries along (Laws/Carries.lean).
-/

set_option linter.all false
set_option Elab.async false

namespace Sys2Proof.Laws

open Sys2Proof.Machine

theorem execFioSwitch_carries {z : State} (by_ : Seat) (value : Word32) (s : State) (h : Carries z s) :
    ResCarries z (execFioSwitch by_ value s) := by
  unfold Sys2Proof.Machine.execFioSwitch
  with_reducible repeat' (first
    | assumption | apply ite_carries | apply ite_res | apply res_next | apply answer_carries
    | apply fioWrite_carries | split | dsimp only | intro)

theorem execCoreWakeC1_carries {z : State} (k : CoreId) (s : State) (h : Carries z s) :
    ResCarries z (execCoreWakeC1 k s) := by
  unfold Sys2Proof.Machine.execCoreWakeC1
  with_reducible repeat' (first
    | assumption | apply ite_carries | apply ite_res | apply res_next | apply takeLongIfReady_carries
    | apply setCState_carries | split | dsimp only | intro)

theorem execPfctlTargetWrite_carries {z : State} (by_ : Seat) (value : Word32) (s : State) (h : Carries z s) :
    ResCarries z (execPfctlTargetWrite by_ value s) := by
  unfold Sys2Proof.Machine.execPfctlTargetWrite
  with_reducible repeat' (first
    | assumption | apply ite_carries | apply ite_res | apply res_next | apply answer_carries
    | apply pfctlWrite_carries | split | dsimp only | intro)

theorem execCoreWakeC3_carries {z : State} (k : CoreId) (s : State) (h : Carries z s) :
    ResCarries z (execCoreWakeC3 k s) := by
  unfold Sys2Proof.Machine.execCoreWakeC3
  with_reducible repeat' (first
    | assumption | apply ite_carries | apply ite_res | apply res_next | apply put_carries | apply coreStart_carries
    | split | dsimp only | intro)

theorem execClusterPowerUp_carries {z : State} (c : ClusterId) (s : State) (h : Carries z s) :
    ResCarries z (execClusterPowerUp c s) := by
  unfold Sys2Proof.Machine.execClusterPowerUp
  with_reducible repeat' (first
    | assumption | apply ite_carries | apply ite_res | apply res_next | apply clusterOnFio_carries | split
    | dsimp only | intro)

theorem execDmAccessOverrun_carries {z : State} (k : CoreId) (excess : BitVec 20) (s : State) (h : Carries z s) :
    ResCarries z (execDmAccessOverrun k excess s) := by
  unfold Sys2Proof.Machine.execDmAccessOverrun
  with_reducible repeat' (first
    | assumption | apply ite_carries | apply ite_res | apply res_next | apply put_carries
    | apply reportFault_carries | apply pmCount_carries | split | dsimp only | intro)

theorem execCoreWakeC2_carries {z : State} (k : CoreId) (s : State) (h : Carries z s) :
    ResCarries z (execCoreWakeC2 k s) := by
  unfold Sys2Proof.Machine.execCoreWakeC2
  with_reducible repeat' (first
    | assumption | apply ite_carries | apply ite_res | apply res_next | apply drawSeed_carries | apply put_carries
    | apply mapCore_carries | apply setCState_carries | refine Carries.snd (by assumption) ?_ | split | dsimp only
    | intro)

theorem execCctlWake_carries {z : State} (by_ : Seat) (k : CoreId) (s : State) (h : Carries z s) :
    ResCarries z (execCctlWake by_ k s) := by
  unfold Sys2Proof.Machine.execCctlWake
  with_reducible repeat' (first
    | assumption | apply ite_carries | apply ite_res | apply res_next | apply answer_carries
    | apply seatViolation_carries | apply wakeCore_carries | split | dsimp only | intro)

theorem execPerfCounterOverflow_carries {z : State} (k : CoreId) (ctr : Fin 6) (s : State) (h : Carries z s) :
    ResCarries z (execPerfCounterOverflow k ctr s) := by
  unfold Sys2Proof.Machine.execPerfCounterOverflow
  with_reducible repeat' (first
    | assumption | apply ite_carries | apply ite_res | apply res_next | apply putBit_carries | apply put_carries
    | apply raiseSrc_carries | split | dsimp only | intro)

theorem pairMismatch_carries {z : State} (n : Nat) (kind : Nat) (s : State) (h : Carries z s) :
    Carries z (pairMismatch n kind s) := by
  unfold Sys2Proof.Machine.pairMismatch
  with_reducible repeat' (first
    | assumption | apply reportFault_carries | apply pairStops_carries | split | dsimp only | intro)

theorem execLevelChangeDone_carries {z : State} (s : State) (h : Carries z s) :
    ResCarries z (execLevelChangeDone s) := by
  unfold Sys2Proof.Machine.execLevelChangeDone
  with_reducible repeat' (first
    | assumption | apply ite_carries | apply ite_res | apply res_next | apply put_carries
    | apply levelChange_carries
    | (apply Carries.mk_same; first | assumption | apply put_carries | apply levelChange_carries | split) | split
    | dsimp only | intro)

theorem execLockstepMismatch_carries {z : State} (pair : Fin 16) (kind : BitVec 4) (s : State) (h : Carries z s) :
    ResCarries z (execLockstepMismatch pair kind s) := by
  unfold Sys2Proof.Machine.execLockstepMismatch
  with_reducible repeat' (first
    | assumption | apply ite_carries | apply ite_res | apply res_next | apply pairMismatch_carries | split
    | dsimp only | intro)

theorem execTokenGrant_carries {z : State} (s : State) (h : Carries z s) :
    ResCarries z (execTokenGrant s) := by
  unfold Sys2Proof.Machine.execTokenGrant
  with_reducible repeat' (first
    | assumption | apply res_next | apply put_carries | apply grantRequest_carries | apply foldl_carries
    | apply foldl_snd_carries | apply foldl_snd2_carries | refine Carries.snd (by assumption) ?_
    | refine Carries.snd2 (by assumption) ?_ | split | dsimp only | intro)

end Sys2Proof.Laws
end

