-- ==== Sys2Proof/Laws/CarryFpOps.lean ====
section
/-!
SUPPORT. What every operation of Machine/FpOps.lean carries along (Laws/Carries.lean).
-/

set_option linter.all false
set_option Elab.async false

namespace Sys2Proof.Laws

open Sys2Proof.Machine

theorem fpRetire_carries {z : State} (k : CoreId) (flags : Nat) (s : State) (h : Carries z s) :
    ActCarries z (fpRetire k flags s) := by
  unfold Sys2Proof.Machine.fpRetire
  with_reducible repeat' (first
    | assumption | apply ite_carries | apply ite_act | apply act_done | apply act_jump | apply act_ret
    | apply act_exc | apply act_excAfter | apply act_stall | apply mapCore_carries | split | dsimp only | intro)

theorem fpInstr_carries {z : State} (key : Instr) (op : Nat) (unary : Bool) (f : FpFormat → Nat → Nat → FpOut) (i : Issue) (a : RArgs) (s : State) (h : Carries z s) :
    ResCarries z (fpInstr key op unary f i a s) := by
  unfold Sys2Proof.Machine.fpInstr
  with_reducible repeat' (first
    | assumption | apply res_next | apply runInstr_carries | apply fpRetire_carries | apply mapCore_carries
    | refine act_done_of (by assumption) ?_ | refine act_jump_of (by assumption) ?_
    | refine act_ret_of (by assumption) ?_ | refine act_exc_of (by assumption) ?_
    | refine act_excAfter_of (by assumption) ?_ | refine act_stall_of (by assumption) ?_
    | refine res_next_of (by assumption) ?_ | split | dsimp only | intro)

theorem execFmul_carries {z : State} (i : Issue) (a : RArgs) (s : State) (h : Carries z s) :
    ResCarries z (execFmul i a s) := by
  unfold Sys2Proof.Machine.execFmul
  with_reducible repeat' (first
    | assumption | apply res_next | apply fpInstr_carries | refine res_next_of (by assumption) ?_ | split
    | dsimp only | intro)

theorem execFcvtX_carries {z : State} (i : Issue) (a : RArgs) (s : State) (h : Carries z s) :
    ResCarries z (execFcvtX i a s) := by
  unfold Sys2Proof.Machine.execFcvtX
  with_reducible repeat' (first
    | assumption | apply ite_carries | apply ite_res | apply res_next | apply fpInstr_carries
    | refine res_next_of (by assumption) ?_ | split | dsimp only | intro)

theorem execFcvtF_carries {z : State} (i : Issue) (a : RArgs) (s : State) (h : Carries z s) :
    ResCarries z (execFcvtF i a s) := by
  unfold Sys2Proof.Machine.execFcvtF
  with_reducible repeat' (first
    | assumption | apply res_next | apply fpInstr_carries | refine res_next_of (by assumption) ?_ | split
    | dsimp only | intro)

theorem execFmin_carries {z : State} (i : Issue) (a : RArgs) (s : State) (h : Carries z s) :
    ResCarries z (execFmin i a s) := by
  unfold Sys2Proof.Machine.execFmin
  with_reducible repeat' (first
    | assumption | apply res_next | apply fpInstr_carries | refine res_next_of (by assumption) ?_ | split
    | dsimp only | intro)

theorem execFcvtL_carries {z : State} (i : Issue) (a : RArgs) (s : State) (h : Carries z s) :
    ResCarries z (execFcvtL i a s) := by
  unfold Sys2Proof.Machine.execFcvtL
  with_reducible repeat' (first
    | assumption | apply res_next | apply fpInstr_carries | refine res_next_of (by assumption) ?_ | split
    | dsimp only | intro)

theorem execFabs_carries {z : State} (i : Issue) (a : RArgs) (s : State) (h : Carries z s) :
    ResCarries z (execFabs i a s) := by
  unfold Sys2Proof.Machine.execFabs
  with_reducible repeat' (first
    | assumption | apply res_next | apply fpInstr_carries | refine res_next_of (by assumption) ?_ | split
    | dsimp only | intro)

theorem execFneg_carries {z : State} (i : Issue) (a : RArgs) (s : State) (h : Carries z s) :
    ResCarries z (execFneg i a s) := by
  unfold Sys2Proof.Machine.execFneg
  with_reducible repeat' (first
    | assumption | apply res_next | apply fpInstr_carries | refine res_next_of (by assumption) ?_ | split
    | dsimp only | intro)

theorem execFsub_carries {z : State} (i : Issue) (a : RArgs) (s : State) (h : Carries z s) :
    ResCarries z (execFsub i a s) := by
  unfold Sys2Proof.Machine.execFsub
  with_reducible repeat' (first
    | assumption | apply res_next | apply fpInstr_carries | refine res_next_of (by assumption) ?_ | split
    | dsimp only | intro)

theorem execFcmp_carries {z : State} (i : Issue) (a : RArgs) (s : State) (h : Carries z s) :
    ResCarries z (execFcmp i a s) := by
  unfold Sys2Proof.Machine.execFcmp
  with_reducible repeat' (first
    | assumption | apply res_next | apply runInstr_carries | apply fpRetire_carries | apply mapCore_carries
    | refine act_done_of (by assumption) ?_ | refine act_jump_of (by assumption) ?_
    | refine act_ret_of (by assumption) ?_ | refine act_exc_of (by assumption) ?_
    | refine act_excAfter_of (by assumption) ?_ | refine act_stall_of (by assumption) ?_
    | refine res_next_of (by assumption) ?_ | split | dsimp only | intro)

theorem execFadd_carries {z : State} (i : Issue) (a : RArgs) (s : State) (h : Carries z s) :
    ResCarries z (execFadd i a s) := by
  unfold Sys2Proof.Machine.execFadd
  with_reducible repeat' (first
    | assumption | apply res_next | apply fpInstr_carries | refine res_next_of (by assumption) ?_ | split
    | dsimp only | intro)

theorem execFmax_carries {z : State} (i : Issue) (a : RArgs) (s : State) (h : Carries z s) :
    ResCarries z (execFmax i a s) := by
  unfold Sys2Proof.Machine.execFmax
  with_reducible repeat' (first
    | assumption | apply res_next | apply fpInstr_carries | refine res_next_of (by assumption) ?_ | split
    | dsimp only | intro)

end Sys2Proof.Laws
end

