-- ==== Sys2Proof/Laws/CarryIdle.lean ====
section
/-!
SUPPORT. What every operation of Machine/Idle.lean carries along (Laws/Carries.lean).
-/

set_option linter.all false
set_option Elab.async false

namespace Sys2Proof.Laws

open Sys2Proof.Machine

theorem grantEdge_carries {z : State} (seat : Nat) (s : State) (h : Carries z s) :
    Carries z (grantEdge seat s) := by
  unfold Sys2Proof.Machine.grantEdge
  with_reducible repeat' (first
    | assumption | apply ite_carries | apply put_carries
    | (apply Carries.mk_same; first | assumption | apply put_carries | split) | split | dsimp only | intro)

theorem watchdogEdge_carries {z : State} (s : State) (h : Carries z s) :
    Carries z (watchdogEdge s) := by
  unfold Sys2Proof.Machine.watchdogEdge
  with_reducible repeat' (first
    | assumption | apply ite_carries | apply watchdogTick_carries
    | (apply Carries.mk_same; first | assumption | apply watchdogTick_carries | split) | split | dsimp only | intro)

theorem idleTick_carries {z : State} (s : State) (h : Carries z s) :
    ResCarries z (idleTick s) := by
  unfold Sys2Proof.Machine.idleTick
  with_reducible repeat' (first
    | assumption | apply ite_carries | apply ite_res | apply res_next | apply watchdogEdge_carries
    | apply each_carries | apply grantEdge_carries | apply perClkEdge_carries
    | (apply Carries.mk_same; first | assumption | apply watchdogEdge_carries | apply each_carries | apply grantEdge_carries | apply perClkEdge_carries | split)
    | split | dsimp only | intro)

end Sys2Proof.Laws
end

