-- ==== Sys2Proof/Laws/CarryMul.lean ====
section
/-!
SUPPORT. What every operation of Machine/Mul.lean carries along (Laws/Carries.lean).
-/

set_option linter.all false
set_option Elab.async false

namespace Sys2Proof.Laws

open Sys2Proof.Machine

theorem mulInstr_carries {z : State} (key : Instr) (legal : Bool) (i : Issue) (a : RArgs) (f : Core → Core) (s : State) (h : Carries z s) :
    ResCarries z (mulInstr key legal i a f s) := by
  unfold Sys2Proof.Machine.mulInstr
  with_reducible repeat' (first
    | assumption | apply res_next | apply act_done | apply runInstr_carries | apply mapCore_carries
    | refine res_next_of (by assumption) ?_ | split | dsimp only | intro)

theorem execMacu16_carries {z : State} (i : Issue) (a : RArgs) (s : State) (h : Carries z s) :
    ResCarries z (execMacu16 i a s) := by
  unfold Sys2Proof.Machine.execMacu16
  with_reducible repeat' (first
    | assumption | apply res_next | apply mulInstr_carries | refine res_next_of (by assumption) ?_ | split
    | dsimp only | intro)

theorem execMtmdA_carries {z : State} (i : Issue) (a : RArgs) (s : State) (h : Carries z s) :
    ResCarries z (execMtmdA i a s) := by
  unfold Sys2Proof.Machine.execMtmdA
  with_reducible repeat' (first
    | assumption | apply res_next | apply mulInstr_carries | refine res_next_of (by assumption) ?_ | split
    | dsimp only | intro)

theorem execMfmdH_carries {z : State} (i : Issue) (a : RArgs) (n : Fin 5) (s : State) (h : Carries z s) :
    ResCarries z (execMfmdH i a n s) := by
  unfold Sys2Proof.Machine.execMfmdH
  with_reducible repeat' (first
    | assumption | apply res_next | apply mulInstr_carries | refine res_next_of (by assumption) ?_ | split
    | dsimp only | intro)

theorem execMtmdH_carries {z : State} (i : Issue) (a : RArgs) (s : State) (h : Carries z s) :
    ResCarries z (execMtmdH i a s) := by
  unfold Sys2Proof.Machine.execMtmdH
  with_reducible repeat' (first
    | assumption | apply res_next | apply mulInstr_carries | refine res_next_of (by assumption) ?_ | split
    | dsimp only | intro)

theorem execMac16_carries {z : State} (i : Issue) (a : RArgs) (s : State) (h : Carries z s) :
    ResCarries z (execMac16 i a s) := by
  unfold Sys2Proof.Machine.execMac16
  with_reducible repeat' (first
    | assumption | apply res_next | apply mulInstr_carries | refine res_next_of (by assumption) ?_ | split
    | dsimp only | intro)

theorem execMul_carries {z : State} (i : Issue) (a : RArgs) (s : State) (h : Carries z s) :
    ResCarries z (execMul i a s) := by
  unfold Sys2Proof.Machine.execMul
  with_reducible repeat' (first
    | assumption | apply res_next | apply mulInstr_carries | refine res_next_of (by assumption) ?_ | split
    | dsimp only | intro)

theorem execMtmdL_carries {z : State} (i : Issue) (a : RArgs) (s : State) (h : Carries z s) :
    ResCarries z (execMtmdL i a s) := by
  unfold Sys2Proof.Machine.execMtmdL
  with_reducible repeat' (first
    | assumption | apply res_next | apply mulInstr_carries | refine res_next_of (by assumption) ?_ | split
    | dsimp only | intro)

theorem execMulu_carries {z : State} (i : Issue) (a : RArgs) (s : State) (h : Carries z s) :
    ResCarries z (execMulu i a s) := by
  unfold Sys2Proof.Machine.execMulu
  with_reducible repeat' (first
    | assumption | apply res_next | apply mulInstr_carries | refine res_next_of (by assumption) ?_ | split
    | dsimp only | intro)

theorem execMfmdL_carries {z : State} (i : Issue) (a : RArgs) (n : Fin 5) (s : State) (h : Carries z s) :
    ResCarries z (execMfmdL i a n s) := by
  unfold Sys2Proof.Machine.execMfmdL
  with_reducible repeat' (first
    | assumption | apply res_next | apply mulInstr_carries | refine res_next_of (by assumption) ?_ | split
    | dsimp only | intro)

theorem execMfmdA_carries {z : State} (i : Issue) (a : RArgs) (n : Fin 5) (s : State) (h : Carries z s) :
    ResCarries z (execMfmdA i a n s) := by
  unfold Sys2Proof.Machine.execMfmdA
  with_reducible repeat' (first
    | assumption | apply res_next | apply mulInstr_carries | refine res_next_of (by assumption) ?_ | split
    | dsimp only | intro)

end Sys2Proof.Laws
end

