-- ==== Sys2Proof/Laws/CarryTlbop.lean ====
section
/-!
SUPPORT. What every operation of Machine/Tlbop.lean carries along (Laws/Carries.lean).
-/

set_option linter.all false
set_option Elab.async false

namespace Sys2Proof.Laws

open Sys2Proof.Machine

theorem dmNotFixed_carries {z : State} (k : CoreId) (s : State) (h : Carries z s) :
    Carries z (dmNotFixed k s) := by
  unfold Sys2Proof.Machine.dmNotFixed
  with_reducible repeat' (first
    | assumption | apply ite_carries | apply put_carries | split | dsimp only | intro)

theorem pinResult_carries {z : State} (k : CoreId) (fetch : Bool) (va : Nat) (rd : Fin 32) (s : State) (h : Carries z s) :
    ActCarries z (pinResult k fetch va rd s) := by
  unfold Sys2Proof.Machine.pinResult
  with_reducible repeat' (first
    | assumption | apply ite_carries | apply ite_act | apply act_done | apply act_jump | apply act_ret
    | apply act_exc | apply act_excAfter | apply act_stall | apply mapCore_carries | split | dsimp only | intro)

theorem pinInstr_carries {z : State} (key : Instr) (fn : Nat) (fetch : Bool) (i : XIssue) (a : RArgs) (s : State) (h : Carries z s) :
    ResCarries z (pinInstr key fn fetch i a s) := by
  unfold Sys2Proof.Machine.pinInstr
  with_reducible repeat' (first
    | assumption | apply ite_carries | apply ite_res | apply res_next | apply act_done | apply act_exc
    | apply act_stall | apply runInstr_carries | apply dmNotFixed_carries | apply mapCore_carries
    | apply pinResult_carries | apply walk_carries | apply xlExc_carries | refine Carries.snd (by assumption) ?_
    | refine act_done_of (by assumption) ?_ | refine act_jump_of (by assumption) ?_
    | refine act_ret_of (by assumption) ?_ | refine act_exc_of (by assumption) ?_
    | refine act_excAfter_of (by assumption) ?_ | refine act_stall_of (by assumption) ?_
    | refine res_next_of (by assumption) ?_ | split | dsimp only | intro)

theorem execPinD_carries {z : State} (i : XIssue) (a : RArgs) (s : State) (h : Carries z s) :
    ResCarries z (execPinD i a s) := by
  unfold Sys2Proof.Machine.execPinD
  with_reducible repeat' (first
    | assumption | apply res_next | apply pinInstr_carries | refine res_next_of (by assumption) ?_ | split
    | dsimp only | intro)

theorem invalidate_carries {z : State} (k : CoreId) (kind : InvKind) (v : Word64) (on : CoreId → Bool) (s : State) (h : Carries z s) :
    ActCarries z (invalidate k kind v on s) := by
  unfold Sys2Proof.Machine.invalidate
  with_reducible repeat' (first
    | assumption | apply ite_carries | apply ite_act | apply act_done | apply act_jump | apply act_ret
    | apply act_exc | apply act_excAfter | apply act_stall | apply mapCores_carries | split | dsimp only | intro)

theorem invLocal_carries {z : State} (key : Instr) (fn : Nat) (kind : InvKind) (i : XIssue) (a : RArgs) (s : State) (h : Carries z s) :
    ResCarries z (invLocal key fn kind i a s) := by
  unfold Sys2Proof.Machine.invLocal
  with_reducible repeat' (first
    | assumption | apply res_next | apply runInstr_carries | apply invalidate_carries
    | refine act_done_of (by assumption) ?_ | refine act_jump_of (by assumption) ?_
    | refine act_ret_of (by assumption) ?_ | refine act_exc_of (by assumption) ?_
    | refine act_excAfter_of (by assumption) ?_ | refine act_stall_of (by assumption) ?_
    | refine res_next_of (by assumption) ?_ | split | dsimp only | intro)

theorem execTlbInvAsid_carries {z : State} (i : XIssue) (a : RArgs) (s : State) (h : Carries z s) :
    ResCarries z (execTlbInvAsid i a s) := by
  unfold Sys2Proof.Machine.execTlbInvAsid
  with_reducible repeat' (first
    | assumption | apply res_next | apply invLocal_carries | refine res_next_of (by assumption) ?_ | split
    | dsimp only | intro)

theorem execUnpin_carries {z : State} (i : XIssue) (a : RArgs) (s : State) (h : Carries z s) :
    ResCarries z (execUnpin i a s) := by
  unfold Sys2Proof.Machine.execUnpin
  with_reducible repeat' (first
    | assumption | apply ite_carries | apply ite_res | apply res_next | apply act_done | apply runInstr_carries
    | apply mapCore_carries | refine res_next_of (by assumption) ?_ | split | dsimp only | intro)

theorem execTrd_carries {z : State} (i : XIssue) (a : RArgs) (s : State) (h : Carries z s) :
    ResCarries z (execTrd i a s) := by
  unfold Sys2Proof.Machine.execTrd
  with_reducible repeat' (first
    | assumption | apply res_next | apply act_done | apply runInstr_carries | apply mapCore_carries
    | refine res_next_of (by assumption) ?_ | split | dsimp only | intro)

theorem execProbe_carries {z : State} (i : XIssue) (a : RArgs) (s : State) (h : Carries z s) :
    ResCarries z (execProbe i a s) := by
  unfold Sys2Proof.Machine.execProbe
  with_reducible repeat' (first
    | assumption | apply ite_carries | apply ite_res | apply res_next | apply act_done | apply act_exc
    | apply act_stall | apply runInstr_carries | apply dmNotFixed_carries | apply translate_carries
    | apply mapCore_carries | refine Carries.snd (by assumption) ?_ | refine res_next_of (by assumption) ?_ | split
    | dsimp only | intro)

theorem execTlbInvVa_carries {z : State} (i : XIssue) (a : RArgs) (s : State) (h : Carries z s) :
    ResCarries z (execTlbInvVa i a s) := by
  unfold Sys2Proof.Machine.execTlbInvVa
  with_reducible repeat' (first
    | assumption | apply res_next | apply invLocal_carries | refine res_next_of (by assumption) ?_ | split
    | dsimp only | intro)

theorem execTwr_carries {z : State} (i : XIssue) (a : RArgs) (s : State) (h : Carries z s) :
    ResCarries z (execTwr i a s) := by
  unfold Sys2Proof.Machine.execTwr
  with_reducible repeat' (first
    | assumption | apply res_next | apply act_done | apply runInstr_carries | apply mapCore_carries
    | refine res_next_of (by assumption) ?_ | split | dsimp only | intro)

theorem execTlbInvVaa_carries {z : State} (i : XIssue) (a : RArgs) (s : State) (h : Carries z s) :
    ResCarries z (execTlbInvVaa i a s) := by
  unfold Sys2Proof.Machine.execTlbInvVaa
  with_reducible repeat' (first
    | assumption | apply res_next | apply invLocal_carries | refine res_next_of (by assumption) ?_ | split
    | dsimp only | intro)

theorem execPinI_carries {z : State} (i : XIssue) (a : RArgs) (s : State) (h : Carries z s) :
    ResCarries z (execPinI i a s) := by
  unfold Sys2Proof.Machine.execPinI
  with_reducible repeat' (first
    | assumption | apply res_next | apply pinInstr_carries | refine res_next_of (by assumption) ?_ | split
    | dsimp only | intro)

theorem execTlbInvBroadcast_carries {z : State} (i : XIssue) (a : RArgs) (s : State) (h : Carries z s) :
    ResCarries z (execTlbInvBroadcast i a s) := by
  unfold Sys2Proof.Machine.execTlbInvBroadcast
  with_reducible repeat' (first
    | assumption | apply res_next | apply runInstr_carries | apply invalidate_carries | apply dmNotFixed_carries
    | refine act_done_of (by assumption) ?_ | refine act_jump_of (by assumption) ?_
    | refine act_ret_of (by assumption) ?_ | refine act_exc_of (by assumption) ?_
    | refine act_excAfter_of (by assumption) ?_ | refine act_stall_of (by assumption) ?_
    | refine res_next_of (by assumption) ?_ | split | dsimp only | intro)

theorem execTlbInvAll_carries {z : State} (i : XIssue) (a : RArgs) (s : State) (h : Carries z s) :
    ResCarries z (execTlbInvAll i a s) := by
  unfold Sys2Proof.Machine.execTlbInvAll
  with_reducible repeat' (first
    | assumption | apply res_next | apply invLocal_carries | refine res_next_of (by assumption) ?_ | split
    | dsimp only | intro)

end Sys2Proof.Laws
end

