-- ==== Sys2Proof/Laws/Lanes.lean ====
section
/-!
SUPPORT. What a control lane does with an instruction that comes to its effect (`State.LaneExecutes`), and its saturating
arithmetic.
-/

set_option Elab.async false

namespace Sys2Proof.Laws

open Sys2Proof.Machine

/-- An instruction that comes to its effect ends as its effect says; an illegal form is a lane fault. -/
theorem laneIssue_executes (i : LIssue) (lg : Bool) (f : State → LaneAct) (s u : State) (h : s.LaneExecutes i u) :
    laneIssue i lg f s = if lg then (match f u with
      | .next t => .next (laneOn i.lane.val t)
      | .goto t c v => .next ((laneGoto i.lane.val t c v).mapLane i.lane.val (fun l => { l with stepping := false }))
      | .stay t => .next (t.mapLane i.lane.val (fun l => { l with stepping := false }))
      | .fault code t => .next (laneFault i.lane.val code t)) else .next (laneFault i.lane.val 0x01 u) := by
  obtain ⟨h1, h2, h3, h4⟩ := h
  subst h4
  unfold laneIssue
  cases lg
  · simp [h1, h2, h3]
  · simp only [h1, h2, h3, Bool.not_true, Bool.false_or, Bool.false_eq_true, if_true, if_false]
    rfl

/-- A limited value, and whether it was limited. -/
theorem satInt_eq (w : Nat) (e : Int) : satInt w e = (clamp w e, beyond w e) := by
  unfold satInt clamp beyond
  have h : (0 : Int) < 2 ^ (w - 1) := by positivity
  generalize (2 : Int) ^ (w - 1) = q at *
  simp only
  split
  · simp; omega
  · split
    · simp; omega
    · simp; omega

/-- A local instruction that comes to its effect. -/
theorem laneLocal_executes (i : LIssue) (lg : Bool) (f : Lane → Lane × Bool) (s u : State) (h : s.LaneExecutes i u) :
    laneLocal i lg f s = if lg then
      .next (laneOn i.lane.val ((u.mapLane i.lane.val (fun l => (f l).1)).sticky i.lane.val (f (u.lane i.lane.val)).2))
      else .next (laneFault i.lane.val 0x01 u) := by
  unfold laneLocal
  rw [laneIssue_executes _ _ _ _ _ h]
  rfl

/-- An ALU operation that comes to its effect. -/
theorem laneAlu_executes (i : LIssue) (d a b : Fin 32) (f : Half → Half → Half × Bool × Bool) (s u : State)
    (h : s.LaneExecutes i u) : laneAlu i d a b f s =
      (let o := f ((u.lane i.lane.val).reg a) ((u.lane i.lane.val).reg b)
       .next (laneOn i.lane.val ((u.mapLane i.lane.val (fun l => l.result d o.1 o.2.1)).sticky i.lane.val o.2.2))) := by
  unfold laneAlu
  rw [laneLocal_executes _ _ _ _ _ h]
  rfl

/-- A register without an instruction behind it changes only by its lane: another lane keeps its own. -/
theorem lane_mapLane (s : State) (n m : Nat) (f : Lane → Lane) (hn : n < 64) :
    (s.mapLane n f).lane m = if m = n then f (s.lane n) else s.lane m := by
  unfold State.mapLane State.lane
  by_cases h : m = n
  · subst h; simp [getElem!_def, hn, Vector.set!]
  · simp [getElem!_def, h, Vector.set!, Ne.symm h]

/-- Every lane instruction is one issue of its lane. -/
theorem laneIssue_runs (c : Instr) (i : LIssue) (s : State) (h : c.laneIssue? = some i) :
    ∃ lg f, exec c s = laneIssue i lg f s := by
  cases c <;> simp only [Instr.laneIssue?, reduceCtorEq, Option.some.injEq] at h <;> subst h <;>
    simp only [exec, laneLocal, laneAlu, execLaneNop, execLaneAdd, execLaneSub, execLaneAdds, execLaneSubs,
      execLaneAnd, execLaneOr, execLaneXor, execLaneShl, execLaneShr, execLaneSra, execLaneMin, execLaneMax,
      execLaneAbs, execLaneNeg, execLaneMov, execLaneCmp, execLaneClrs, execLaneAddi, execLaneLdi,
      execLaneAndi, execLaneCmpi, execLaneShi, execLaneLd, execLaneSt, execPsetBase, execPsetLength,
      execPsetAdvance, execDmac, execAcld, execAcopClr, execAcopMov, execAcopAdd, execAcopSub, execAcopNeg,
      execRnd, execAcx, execAcclp, execMacp, execSdird, execSdist, execHrpw, execHrpc, execXrd, execXwr,
      execMbrd, execMbwr, execFld, execFst, execLaneB, execLaneCall, execLaneRet, execLoop, execWaite,
      execSig, execLaneHalt] <;>
    exact ⟨_, _, rfl⟩

end Sys2Proof.Laws
end

