-- ==== Sys2Proof/Laws/Runs.lean ====
section
/-!
SUPPORT. What the runner does with an instruction that comes to its effect (`State.Executes`), and with one whose
condition fails.
-/

set_option Elab.async false

namespace Sys2Proof.Laws

open Sys2Proof.Machine

/-- An instruction that is fetched behind no prefix ends as its checks say. -/
theorem runInstr_fetched (d : Issued) (body : State → Act) (s t : State) (h : s.Fetches d.core t) :
    runInstr d body s = .next (finishAct d.core t (checked d t body)) := by
  simp [runInstr, h.issues, h.noPrefix, h.fetched]

/-- An instruction that comes to its effect ends as its effect says. -/
theorem runInstr_executes (d : Issued) (body : State → Act) (s u : State)
    (h : s.Executes d.core d.cond d.level d.regs u) (hl : d.legal = true) (hp : d.par = false) :
    ∃ t, s.Fetches d.core t ∧ runInstr d body s = .next (finishAct d.core t (body (d.atom true u))) := by
  obtain ⟨t, hf, hv, hc, hm, ha, hw⟩ := h.fetched
  refine ⟨t, hf, ?_⟩
  rw [runInstr_fetched d body s t hf]
  have hh : d.holds t = true := by
    unfold Issued.holds
    split
    · rfl
    · exact hc _ ‹_›
  have hw' : ((t.core d.core).res == 0 && d.regs.any (t.core d.core).windowed) = false := by
    rcases hw with h1 | h1
    · simp [h1]
    · simp [h1]
  simp [checked, hl, Nat.not_lt.2 hv, hh, hm, hp, ha, hw']

/-- The same for an instruction that is no branch and whose effect retires it. -/
theorem runInstr_done (d : Issued) (body : State → Act) (s u v : State)
    (h : s.Executes d.core d.cond d.level d.regs u) (hl : d.legal = true) (hp : d.par = false) (hb : d.branch = false)
    (hd : body u = .done v) : runInstr d body s = .next (retire d.core v) := by
  obtain ⟨t, -, e⟩ := runInstr_executes d body s u h hl hp
  rw [e]
  simp [Issued.atom, hb, hd, finishAct]

/-- An ALU instruction that comes to its effect. -/
theorem aluInstr_executes (key : Instr) (op : Nat) (i : Issue) (a : RArgs) (s u : State) (o : AluOut)
    (h : s.Executes i.core (some i.cond) 0 [a.rd, a.rs1, a.rs2] u) (hp : i.par = false)
    (ho : a.fn.toNat % 64 = op) (hu : aluUnary op = true → a.rs2 = 0)
    (hv : aluOp op ((u.core i.core).reg a.rs1) ((u.core i.core).reg a.rs2) (u.core i.core).flags = some o) :
    aluInstr key op i a s =
      .next (retire i.core (u.mapCore i.core (fun c => (c.setReg a.rd o.val).flagsIf (a.fn.getLsbD 6) o.nzcv))) := by
  refine runInstr_done _ _ s u _ h ?_ hp rfl ?_
  · simp [ho]
    cases hq : aluUnary op
    · simp
    · simp [hu hq]
  · simp [hv, putAlu, Core.flagsIf]

/-- An immediate instruction that comes to its effect. -/
theorem immInstr_executes (key : Instr) (legal sets : Bool) (f : Word64 → BitVec 12 → BitVec 4 → AluOut) (i : Issue)
    (a : IArgs) (s u : State) (h : s.Executes i.core (some i.cond) 0 [a.rd, a.rs1] u) (hp : i.par = false)
    (hl : legal = true) :
    immInstr key legal sets f i a s = .next (retire i.core (u.mapCore i.core (fun c =>
      (c.setReg a.rd (f ((u.core i.core).reg a.rs1) a.imm (u.core i.core).flags).val).flagsIf sets
        (f ((u.core i.core).reg a.rs1) a.imm (u.core i.core).flags).nzcv))) :=
  runInstr_done _ _ s u _ h hl hp rfl rfl

/-- A sum with its flags, by the width of the carry `n`. -/
theorem addFlags_eq {w : Nat} (x y : BitVec w) (c : Bool) (r : BitVec w) (n : Nat) (hn : n = if c then 1 else 0)
    (hr : r = x + y + BitVec.ofNat w n) : addFlags x y c =
    (r, mkFlags r.msb (r == 0) (decide (2 ^ w ≤ x.toNat + y.toNat + n)) (decide (r.toInt ≠ x.toInt + y.toInt + n))) := by
  have e : BitVec.ofNat w (x.toNat + y.toNat + n) = r := by
    subst hr; apply BitVec.eq_of_toNat_eq; simp [BitVec.toNat_add]
  unfold addFlags
  subst hn
  cases c <;> simp_all

/-- A difference with its flags, by the borrow `n`. -/
theorem subFlags_eq {w : Nat} (x y : BitVec w) (c : Bool) (r : BitVec w) (n : Nat) (hn : n = if c then 0 else 1)
    (hr : r = x - y - BitVec.ofNat w n) : subFlags x y c =
    (r, mkFlags r.msb (r == 0) (decide (y.toNat + n ≤ x.toNat)) (decide (r.toInt ≠ x.toInt - y.toInt - n))) := by
  unfold subFlags
  subst hn hr
  cases c <;> simp

/-- Every core instruction is one run of the runner, on its core and with its condition. -/
theorem issue_runs (c : Instr) (i : Issue) (h : c.issue? = some i) :
    ∃ d body, d.core = i.core ∧ d.cond = some i.cond ∧ ∀ s, exec c s = runInstr d body s := by
  unfold Instr.issue? at h
  split at h
  all_goals first
    | (simp only [Option.some.injEq] at h; subst h; exact ⟨_, _, rfl, rfl, fun s => rfl⟩)
    | (exact absurd h (by simp))

/-- An instruction whose effect waits. -/
theorem runInstr_stall (d : Issued) (body : State → Act) (s u v : State)
    (h : s.Executes d.core d.cond d.level d.regs u) (hl : d.legal = true) (hp : d.par = false) (hb : d.branch = false)
    (hd : body u = .stall v) : runInstr d body s = .next v := by
  obtain ⟨t, -, e⟩ := runInstr_executes d body s u h hl hp
  rw [e]
  simp [Issued.atom, hb, hd, finishAct]

/-- An instruction whose effect raises an exception. -/
theorem runInstr_exc (d : Issued) (body : State → Act) (s u v : State) (x : Exc)
    (h : s.Executes d.core d.cond d.level d.regs u) (hl : d.legal = true) (hp : d.par = false) (hb : d.branch = false)
    (hd : body u = .exc x v) : ∃ t, s.Fetches d.core t ∧
      runInstr d body s = .next (raiseExc d.core (t.core d.core).oldest x t v) := by
  obtain ⟨t, ht, e⟩ := runInstr_executes d body s u h hl hp
  refine ⟨t, ht, ?_⟩
  rw [e]
  simp [Issued.atom, hb, hd, finishAct]

/-- An instruction that transfers control. -/
theorem runInstr_jump (d : Issued) (body : State → Act) (s u v : State) (t : Word64)
    (h : s.Executes d.core d.cond d.level d.regs u) (hl : d.legal = true) (hp : d.par = false)
    (hd : body (d.atom true u) = .jump t v) : runInstr d body s = .next (retireTo d.core t v) := by
  obtain ⟨_, -, e⟩ := runInstr_executes d body s u h hl hp
  rw [e, hd]
  rfl

end Sys2Proof.Laws
end

