-- ==== Sys2Proof/Laws/Wci.lean ====
section
/-!
SUPPORT. What a WCI command does that its session takes (`State.Takes`).
-/

set_option Elab.async false

namespace Sys2Proof.Laws

open Sys2Proof.Machine

/-- With room in its ring, a message in sequence is answered. -/
theorem answerWci_room {p : Peer} {m : Incoming} {status : Nat} {payload : List Byte} {t : State}
    (h : t.Room p m payload) : answerWci (sessionOf p) m true status payload t = some (answered p m status payload t) := by
  have : (sessionOf p).seat?.any (fun n => !(takeHead (sessionOf p) m t).rspRoom n payload.length) = false := by
    cases hs : (sessionOf p).seat? with
    | none => rfl
    | some n => simp [h n hs]
  simp [answerWci, this, answered]

/-- Without it, the message stays where it is. -/
theorem answerWci_full {p : Peer} {m : Incoming} {keep : Bool} {status : Nat} {payload : List Byte} {t : State} {n : Nat}
    (hn : (sessionOf p).seat? = some n) (h : (takeHead (sessionOf p) m t).rspRoom n payload.length = false) :
    answerWci (sessionOf p) m keep status payload t = none := by
  simp [answerWci, hn, h]

/-- A command whose sender is entitled to it is performed. -/
theorem performWci_entitled {p : Peer} {op : Nat} {m : Incoming} {e : Session} {s : State} (h : s.Entitled p op e)
    (ho : m.opcode = op) (f : Session → Incoming → State → Reply) (after : Incoming → State → State) :
    performWci (sessionOf p) m e f after s = match f e m s with
      | .wait => none
      | .now st pl t => (answerWci (sessionOf p) m true st pl t).map (fun u => if st = stOk then after m u else u)
      | .job pl t => some (deferred p m pl t) := by
  obtain ⟨h1, h2, h3, h4, h5⟩ := h
  have hcls : op / 256 ≠ 15 := by
    intro hq
    simp [opcodeKnown, hq] at h1
    obtain ⟨a, b⟩ := h1
    omega
  have e3 : (s.svp == .stage0 && op / 256 != 0 && op / 256 != 7) = false := by
    cases hv : (s.svp == SvpRun.stage0)
    · rfl
    · rcases h5 (by simpa using hv) with q | q <;> simp [q]
  have e4 : (op / 256 = 15) = False := by simp [hcls]
  have e5 : ∀ n, sessionOf p = .ethm n → (!e.auth && op != 2) = false := by
    intro n hx
    rcases h2 ⟨n, hx⟩ with q | q <;> simp [q]
  unfold performWci
  simp only [ho, e3, e4, h1, h3, Bool.not_true, Bool.or_false, or_false, Bool.false_eq_true, if_false]
  cases p <;> cases hb : classFeature (op / 256) <;> cases hf : f e m s
  all_goals
    simp only [sessionOf, Bool.false_and, Bool.true_and, Bool.false_eq_true, if_false, deferred, ho, Bool.not_eq_true']
  all_goals
    try rw [e5 _ rfl]
    try rw [h4 _ hb]
    simp only [Bool.not_true, Bool.false_or, decide_false, Bool.false_eq_true, if_false]
  all_goals first
    | rfl
    | (rename_i st pl t
       cases answerWci _ m true st pl t <;> rfl)

/-- A command in sequence is performed. -/
theorem runWci_inSequence {p : Peer} {op : Nat} {m : Incoming} {e : Session} {s : State} (h : s.InSequence p op m e)
    (f : Session → Incoming → State → Reply) (after : Incoming → State → State) :
    runWci p op f after s = .next ((performWci (sessionOf p) m e f after s).getD s) := by
  obtain ⟨⟨ha, hi, hh⟩, hg, hc, ho, hs, he, hm, hn, hk⟩ := h
  have hidle : s.creJobs.any (fun j => j.reply.any (fun r => r.dest == sessionOf p)) = false := by
    simp only [List.any_eq_false]
    intro j hj
    cases hr : j.reply with
    | none => simp
    | some r => simp [hi j hj r hr]
  have hnext : (m.seq == e.nextCmd) = true := by simp [hn]
  simp only [runWci, ha, hidle, hh, Bool.not_true, Bool.or_false, Bool.false_eq_true, if_false]
  simp [serveHead, hg, hc, ho, hs, he, hm, hk, hnext]

/-- A command that its session takes comes to its effect. -/
theorem runWci_takes {p : Peer} {op : Nat} {m : Incoming} {e : Session} {s : State} (h : s.Takes p op m e)
    (f : Session → Incoming → State → Reply) (after : Incoming → State → State) :
    runWci p op f after s = .next ((match f e m s with
      | .wait => none
      | .now st pl t => (answerWci (sessionOf p) m true st pl t).map (fun u => if st = stOk then after m u else u)
      | .job pl t => some (deferred p m pl t)).getD s) := by
  rw [runWci_inSequence h.inSequence, performWci_entitled h.entitled h.inSequence.opcode]

/-- The same for a status, a payload and a state, with room for the response. -/
theorem runWci_answers {p : Peer} {op : Nat} {m : Incoming} {e : Session} {s t : State} {st : Nat} {pl : List Byte}
    (h : s.Takes p op m e) (f : Session → Incoming → State → Reply) (after : Incoming → State → State)
    (hf : f e m s = .now st pl t) (hr : t.Room p m pl) :
    runWci p op f after s = .next (if st = stOk then after m (answered p m st pl t) else answered p m st pl t) := by
  simp [runWci_takes h, hf, answerWci_room hr]

/-- A plain command that its session takes. -/
theorem plainWci_answers {p : Peer} {op : Nat} {m : Incoming} {e : Session} {s t : State} {st : Nat} {pl : List Byte}
    (h : s.Takes p op m e) (f : Session → Incoming → State → Nat × List Byte × State)
    (hf : f e m s = (st, pl, t)) (hr : t.Room p m pl) : plainWci p op f s = .next (answered p m st pl t) := by
  simp only [plainWci]
  rw [runWci_answers h _ _ (by simp only [hf]; rfl) hr]
  simp

/-- A command for a customer seat that its session takes. -/
theorem seatWci_answers {p : Peer} {op : Nat} {m : Incoming} {e : Session} {s t : State} {st : Nat} {pl : List Byte}
    (h : s.Takes p op m e) (f : Nat → State → Nat × List Byte × State) (after : Nat → State → State) (hm : m.seat ≠ 0)
    (hf : f m.seat s = (st, pl, t)) (hr : t.Room p m pl) : seatWci p op f after s =
      .next (if st = stOk then after m.seat (answered p m st pl t) else answered p m st pl t) := by
  simp only [seatWci]
  rw [runWci_answers h _ _ (by simp only [hm, if_false, hf]; rfl) hr]

/-- Every command of Table WCI-3 but HELLO is one run of the session of its peer. -/
theorem wci_runs (c : Instr) (p : Peer) (op : Nat) (h : c.wci? = some (p, op)) :
    ∃ f after, ∀ s, exec c s = runWci p op f after s := by
  unfold Instr.wci? at h
  split at h
  all_goals first
    | (simp only [Option.some.injEq, Prod.mk.injEq] at h; obtain ⟨rfl, rfl⟩ := h; exact ⟨_, _, fun s => rfl⟩)
    | (exact absurd h (by simp))

end Sys2Proof.Laws
end

