-- ==== Sys2Proof/WellFormed.lean ====
section
/-!
DEFINITION. Commands that the outside can send. The operand types bound most operands; what they do not bound is
checked here: byte fields of a fixed length, frames and cells no longer than their format holds, and register addresses
that are aligned (R10). A meaning answers for an ill-formed command too; statements about formats assume a well-formed
one.
-/

namespace Sys2Proof

/-- An Ed448 public key has 57 bytes, a signature 114 (RFC 8032); an X448 value has 56 (RFC 7748). -/
def keyWf (key : List Byte) : Bool := key.length == 57
def sigWf (sig : List Byte) : Bool := sig.length == 114

def Signed.wf (g : Signed) : Bool := keyWf g.key && sigWf g.sig
def AuthReply.wf (r : AuthReply) : Bool := keyWf r.key && sigWf r.sig && r.value.length == 56
def DbgRequest.wf (r : DbgRequest) : Bool := keyWf r.key && sigWf r.sig

/-- The payload field of a UCL cell holds 64 bytes (Table UCL-1). -/
def Cell.wf (c : Cell) : Bool := decide (c.payload.length ≤ 64)

/-- A lane names one of 24 HRP pairs and 48 SDI channels: larger numbers are legal encodings that Table LANE-7 answers
with an error, so they are well-formed. A frame on the ETH switch has at most 9,216 bytes (R520), and a legacy bus
delivers at least one byte. The link speeds are those of R519 and R520. A register access is aligned (R10). -/
def Instr.wf : Instr → Bool
  | .auth _ (some r) => r.wf
  | .keyadd _ k g => keyWf k && g.wf
  | .keyrevoke _ _ g => g.wf
  | .lcycleTransition _ _ o m => (o.all Signed.wf) && (m.all Signed.wf)
  | .debugGrant _ r => r.wf
  | .dbgauth r => r.wf
  | .cryptoVerify _ k _ _ signature => keyWf k && sigWf signature
  | .linkAuth _ k _ _ _ => keyWf k
  | .cellReceive _ c _ => c.wf
  | .frameReceive data _ => decide (data.length ≤ 9216)
  | .legacyBusReceive _ data => !data.isEmpty
  | .ethLinkChange port speed =>
    speed == 0 || (if port = 4 then speed == 100 || speed == 1000 else speed == 10000)
  | .fenceWriteReject _ addr _ => addr.toNat % 8 == 0
  | .registerWrite _ addr wide _ => addr.toNat % (if wide then 8 else 4) == 0
  | _ => true

end Sys2Proof
end

