-- ==== Sys2Proof/Tests/Slice0.lean ====
section
/-!
SUPPORT. Tests. First, ill-formed commands that the check refuses. Then, for each statement of Obligations.lean, concrete states and
operands that meet the hypotheses of its clauses (`witness_…`, at boundary values where a clause has a range); and a few
single steps whose result is worked out by hand from the spec (`test_…`).
-/

set_option Elab.async false
set_option maxRecDepth 100000

namespace Sys2Proof.Tests

open Sys2Proof Sys2Proof.Machine

/-! ### Well-formedness -/

def key57 : List Byte := List.replicate 57 0
def sig114 : List Byte := List.replicate 114 0
def sgn : Signed := ⟨1, key57, sig114⟩
def reply : AuthReply := ⟨1, key57, List.replicate 56 0, sig114⟩
def request : DbgRequest := ⟨1, key57, 0, 2, 1, 1, sig114⟩
def cell0 : Cell := ⟨1, true, true, false, false, 5, 0, 1, 0, 0, 0, 0, []⟩

/-- RFC 8032, RFC 7748: one byte too few or too many in a key, a value or a signature. -/
theorem test_wf_keys : (Instr.auth (.ethm 0) (some reply)).wf = true ∧
    (Instr.auth (.ethm 0) (some { reply with key := 0 :: key57 })).wf = false ∧
    (Instr.auth (.ethm 0) (some { reply with sig := 0 :: sig114 })).wf = false ∧
    (Instr.auth (.ethm 0) (some { reply with value := [] })).wf = false ∧
    (Instr.keyadd (.ucl 1) [] sgn).wf = false ∧ (Instr.keyadd (.ucl 1) key57 { sgn with sig := [] }).wf = false ∧
    (Instr.keyrevoke (.ucl 1) 1 { sgn with key := [] }).wf = false ∧
    (Instr.lcycleTransition (.ucl 1) 2 (some { sgn with sig := [] }) none).wf = false ∧
    (Instr.lcycleTransition (.ucl 1) 2 none (some { sgn with key := [] })).wf = false ∧
    (Instr.debugGrant (.ucl 1) { request with key := [] }).wf = false ∧ (Instr.dbgauth { request with sig := [] }).wf = false ∧
    (Instr.cryptoVerify (.ucl 1) [] [] [] sig114).wf = false ∧ (Instr.cryptoVerify (.ucl 1) key57 [] [] []).wf = false ∧
    (Instr.linkAuth 0 [] true none false).wf = false := by decide

/-- Tables UCL-1 and NET-2, R10, R519, R520: what is too long, empty, misaligned, or no speed of its port. -/
theorem test_wf_formats : (Instr.cellReceive 0 { cell0 with payload := List.replicate 64 0 } true).wf = true ∧
    (Instr.cellReceive 0 { cell0 with payload := List.replicate 65 0 } true).wf = false ∧
    (Instr.frameReceive (List.replicate 9217 0) []).wf = false ∧ (Instr.frameReceive (List.replicate 9216 0) []).wf = true ∧
    (Instr.legacyBusReceive 0 []).wf = false ∧ (Instr.ethLinkChange 0 1000).wf = false ∧ (Instr.ethLinkChange 4 10000).wf = false ∧
    (Instr.fenceWriteReject 0 0x10000004 0).wf = false ∧ (Instr.registerWrite 0 0x20000002 false 0).wf = false ∧
    (Instr.registerWrite 0 0x20000004 true 0).wf = false ∧ (Instr.registerWrite 0 0x20000004 false 0).wf = true := by decide

/-! ### States -/

/-- The device on, with its memory ready and core 0 running seat 0 at Monitor level. -/
def on : State :=
  (((({ State.reset with device := .on, svp := .welfen } : State).put PWC_CCTL_STATE 0 0).put DSTORE_INITSTAT_BUSY 0).mapCore 0
    (fun c => { c with run := .running, pc := 0x10001000 }))

/-- `on`, with core 0 changed. -/
def core0 (f : Core → Core) : State := on.mapCore 0 f

/-- The state that the effect of core k's next instruction starts from. -/
def startOf (k : CoreId) (s : State) : State :=
  let t := (fetchAt k (s.core k).pc.toNat s).2
  (comparators k 0 (t.core k).pc.toNat (t.core k).pc.toNat t).2

/-- Whether the next instruction of core k is fetched, behind no prefix. -/
def fetches (k : CoreId) (s : State) : Bool :=
  s.mayIssue k && (s.core k).rep.isNone && (match (fetchAt k (s.core k).pc.toNat s).1 with | .ok => true | _ => false)

theorem fetches_of {k : CoreId} {s : State} (h : fetches k s = true) :
    s.Fetches k (fetchAt k (s.core k).pc.toNat s).2 := by
  simp only [fetches, Bool.and_eq_true] at h
  obtain ⟨⟨h1, h2⟩, h3⟩ := h
  refine ⟨h1, by simpa using h2, ?_⟩
  generalize fetchAt k (s.core k).pc.toNat s = r at h3 ⊢
  obtain ⟨a, t⟩ := r
  cases a <;> first | rfl | simp at h3

/-- Whether an instruction of core k comes to its own effect. -/
def comes (k : CoreId) (cond : Option (Fin 15)) (level : Nat) (regs : List (Fin 32)) (s : State) : Bool :=
  let t := (fetchAt k (s.core k).pc.toNat s).2
  fetches k s && decide (level ≤ (t.core k).pl) && (match cond with | some c => condHolds c (t.core k).flags | none => true) &&
    (match (comparators k 0 (t.core k).pc.toNat (t.core k).pc.toNat t).1 with | .none => true | _ => false) &&
    !(t.core k).awaited regs && ((t.core k).res != 0 || !regs.any (t.core k).windowed)

theorem executes_of {k : CoreId} {cond : Option (Fin 15)} {level : Nat} {regs : List (Fin 32)} {s : State}
    (h : comes k cond level regs s = true) : s.Executes k cond level regs (startOf k s) := by
  simp only [comes, Bool.and_eq_true, decide_eq_true_eq] at h
  obtain ⟨⟨⟨⟨⟨hf, hl⟩, hc⟩, hm⟩, ha⟩, hw⟩ := h
  refine ⟨_, fetches_of hf, hl, ?_, ?_, by simpa using ha, ?_⟩
  · intro c e; subst e; exact hc
  · simp only [startOf]
    generalize comparators k 0 _ _ _ = r at hm ⊢
    obtain ⟨a, t⟩ := r
    cases a <;> first | rfl | simp at hm
  · simp only [Bool.or_eq_true, bne_iff_ne] at hw
    exact hw.imp id (by simp)

/-- Whether a step answers a next state with `p`. -/
def nextIs (r : Host.Outcome State Fault Refusal) (p : State → Bool) : Bool :=
  match r with
  | .next t => p t
  | _ => false

/-- Issue of a core instruction at core 0 under condition `c`, and of one under no condition. -/
def at0 (c : Fin 15 := 0) : Issue := ⟨0, c, false⟩
def xt0 : XIssue := ⟨0, false⟩

/-- What a load finds, where its checks pass and its data are at hand. -/
def loadOf (k : CoreId) (atom : Bool) (va : Word64) (size : Nat) (up : Upset) (s : State) : Option (List Part × Nat × State) :=
  match (if atom then prepareAtom else prepare) k .read va.toNat size s with
  | (.ok ps, a) =>
    match dataCompare k 1 ps a with
    | (none, false, b) =>
      if up ≠ .tlb ∧ devLoadReady k ps b = true then
        match readParts k up false ps b with
        | (.data d, t) => some (ps, d, t)
        | _ => none
      else none
    | _ => none
  | _ => none

theorem loads_of {k : CoreId} {atom : Bool} {va : Word64} {size : Nat} {up : Upset} {s : State} (p : List Part → Nat → Bool)
    (h : (loadOf k atom va size up s).any (fun r => p r.1 r.2.1) = true) :
    ∃ ps d t, s.Loads k atom va size up ps d t ∧ p ps d = true := by
  unfold loadOf at h
  split at h
  · rename_i ps a e1
    split at h
    · rename_i b e2
      split at h
      · rename_i hc
        split at h
        · rename_i d t e3
          exact ⟨ps, d, t, ⟨hc.1, a, b, e1, e2, hc.2, e3⟩, h⟩
        · simp at h
      · simp at h
    · simp at h
  · simp at h

/-- What the checks of a store leave, where they pass. -/
def storeOf (k : CoreId) (atom : Bool) (va : Word64) (size : Nat) (s : State) : Option (List Part × State) :=
  match (if atom then prepareAtom else prepare) k .write va.toNat size s with
  | (.ok ps, a) =>
    match dataCompare k 2 ps a with
    | (none, false, t) => some (ps, t)
    | _ => none
  | _ => none

theorem stores_of {k : CoreId} {atom : Bool} {va : Word64} {size : Nat} {s : State} (p : List Part → State → Bool)
    (h : (storeOf k atom va size s).any (fun r => p r.1 r.2) = true) : ∃ ps t, s.Stores k atom va size ps t ∧ p ps t = true := by
  unfold storeOf at h
  split at h
  · rename_i ps a e1
    split at h
    · rename_i t e2
      exact ⟨ps, t, ⟨a, e1, e2⟩, h⟩
    · simp at h
  · simp at h

/-- A translation of one 4 KiB page onto itself, for seat 3, with every right. -/
def page (va : Nat) : TlbEntry where
  seat := 3
  asid := 0
  glob := true
  va := va
  bits := 12
  pa := va
  type := .normal
  ph := 0
  g := true
  kx := true
  ux := true
  w := true
  u := true
  s2r := true
  s2w := true
  s2x := true
  lvl := 0
  lvl2 := 0
  pinned := false

/-- Core 0 runs seat 3 at Kernel level with translation, its pages in the TLBs; the seat owns way 0 of the cluster's L2, which holds the
line of the code and one line of data. -/
def cust : State :=
  let s := (on.put CACHE_WOWN_OWNER 3 0 0).mapCore 0 (fun c => { c with
    seatid := 3, pstate := 0x40, ptctl := 1, itlb := [page 0x10001000], dtlb := [page 0x10002000, page 0x10003000]
    l1i := [⟨l1Set 0x10001000, 0, 0x400040⟩] })
  { s with l2 := s.l2.set 0 { s.l2[0] with lines := [⟨0, 3, 0x400040, 0, 0, false, 1⟩, ⟨0, 3, 0x400080, 0x1122334455667788, 0, false, 2⟩] } }

/-- At one place an instruction that names any registers comes to its effect, where no long operation runs and a window is resident. -/
theorem executes_any {k : CoreId} {cond : Option (Fin 15)} {s : State} (n level : Nat) (hn : n ≤ level) (regs : List (Fin 32))
    (h : comes k cond level [] s = true) (hi : ((fetchAt k (s.core k).pc.toNat s).2.core k).longInt = none)
    (hf : ((fetchAt k (s.core k).pc.toNat s).2.core k).longFp = none)
    (hr : ((fetchAt k (s.core k).pc.toNat s).2.core k).res ≠ 0) : s.Executes k cond n regs (startOf k s) := by
  obtain ⟨t, h1, h2, h3, h4, -, -⟩ := executes_of h
  obtain rfl : t = (fetchAt k (s.core k).pc.toNat s).2 := by rw [h1.fetched]
  exact ⟨_, h1, hn.trans h2, h3, h4, by simp [Core.awaited, hi, hf], .inl hr⟩

theorem on_at (n : Nat) (hn : n ≤ 3) (regs : List (Fin 32)) : on.Executes 0 (some 0) n regs (startOf 0 on) :=
  executes_any n 3 hn regs (by decide) (by decide) (by decide) (by decide)
theorem on_xt (n : Nat) (hn : n ≤ 3) (regs : List (Fin 32)) : on.Executes 0 none n regs (startOf 0 on) :=
  executes_any n 3 hn regs (by decide) (by decide) (by decide) (by decide)
theorem cust_at (n : Nat) (hn : n ≤ 1) (regs : List (Fin 32)) : cust.Executes 0 (some 0) n regs (startOf 0 cust) :=
  executes_any n 1 hn regs (by decide) (by decide) (by decide) (by decide)
theorem cust_xt (n : Nat) (hn : n ≤ 1) (regs : List (Fin 32)) : cust.Executes 0 none n regs (startOf 0 cust) :=
  executes_any n 1 hn regs (by decide) (by decide) (by decide) (by decide)

/-- Core 0 in deterministic mode, with its code in DSTORE. -/
def dmOn : State := core0 (fun c => { c with pstate := c.pstate ||| 0x800 })
theorem dm_at (n : Nat) (hn : n ≤ 3) (regs : List (Fin 32)) : dmOn.Executes 0 (some 0) n regs (startOf 0 dmOn) :=
  executes_any n 3 hn regs (by decide) (by decide) (by decide) (by decide)

/-! ### Witnesses and steps: the cores -/

/-- R93: all ones plus one is 0 with Z and C, and no V; the largest positive number plus one sets N and V. -/
theorem test_add_wraps : nextIs (exec (.add (at0 0) ⟨3, 1, 2, 0x40⟩) (core0 (fun c => (c.setReg 1 0xFFFFFFFFFFFFFFFF).setReg 2 1)))
      (fun t => (t.core 0).reg 3 == 0 && (t.core 0).flags == 0b0110 && (t.core 0).pc == 0x10001004) = true ∧
    nextIs (exec (.add (at0 0) ⟨3, 1, 2, 0x40⟩) (core0 (fun c => (c.setReg 1 0x7FFFFFFFFFFFFFFF).setReg 2 1)))
      (fun t => (t.core 0).flags == 0b1001) = true := ⟨by decide, by decide⟩

/-- R93: after a subtraction C = 1 means no borrow; SUBC takes the borrow that C = 0 is. -/
theorem test_sub_borrow : nextIs (exec (.sub (at0 0) ⟨3, 1, 2, 0x41⟩) (core0 (fun c => (c.setReg 1 3).setReg 2 5)))
      (fun t => (t.core 0).reg 3 == 0xFFFFFFFFFFFFFFFE && (t.core 0).flags == 0b1000) = true ∧
    nextIs (exec (.subc (at0 0) ⟨3, 1, 2, 0x03⟩) (core0 (fun c => (c.setReg 1 5).setReg 2 3)))
      (fun t => (t.core 0).reg 3 == 1) = true := ⟨by decide, by decide⟩

theorem witness_AdditionAndSubtraction :
    (∀ op ∈ [(0x00 : BitVec 7), 0x01, 0x02, 0x03, 0x18, 0x19], op.toNat < 64) ∧ (at0 0).par = false ∧
    on.Executes 0 (some 0) 0 [3, 1, 2] (startOf 0 on) ∧ on.Executes 0 (some 0) 0 [0, 1] (startOf 0 on) :=
  ⟨by decide, rfl, on_at 0 (by decide) _, on_at 0 (by decide) _⟩

/-- CLZ of 0, 1 and 2^63; the smaller and the larger of two numbers; the reversal of bytes. -/
theorem witness_LogicAndSelection : on.Executes 0 (some 0) 0 [3, 1, 0] (startOf 0 on) ∧
    (∀ x ∈ [((0 : Word64), 64), (1, 63), (0x8000000000000000, 0)],
      x.2 ≤ 64 ∧ x.1.toNat < 2 ^ (64 - x.2) ∧ (x.2 < 64 → 2 ^ (63 - x.2) ≤ x.1.toNat)) ∧
    (0xFFFFFFFFFFFFFFFF : Word64).toInt = min (0xFFFFFFFFFFFFFFFF : Word64).toInt (1 : Word64).toInt ∧
    (0xFFFFFFFFFFFFFFFF : Word64).toNat = max (0xFFFFFFFFFFFFFFFF : Word64).toNat (1 : Word64).toNat ∧
    (∀ b : Nat, b < 8 → (0x0807060504030201 : Word64).extractLsb' (8 * b) 8 = (0x0102030405060708 : Word64).extractLsb' (8 * (7 - b)) 8) :=
  ⟨on_at 0 (by decide) _, by decide, by decide, by decide, by decide⟩

theorem test_clz_bswap : nextIs (exec (.clz (at0 0) ⟨3, 1, 0, 0x10⟩) on) (fun t => (t.core 0).reg 3 == 64) = true ∧
    nextIs (exec (.bswap (at0 0) ⟨3, 1, 0, 0x15⟩) (core0 (fun c => c.setReg 1 0x0102030405060708)))
      (fun t => (t.core 0).reg 3 == 0x0807060504030201) = true := ⟨by decide, by decide⟩

/-- Kinds and amounts of SHI that are legal: 0 and 63, and 0 and 31 in the 32-bit form. -/
theorem witness_ShiftsAndRotations : on.Executes 0 (some 0) 0 [3, 1, 2] (startOf 0 on) ∧ on.Executes 0 (some 0) 0 [3, 1] (startOf 0 on) ∧
    (∀ imm ∈ [(0 : BitVec 12), 0x03F, 0x400, 0x800, 0xC3F], imm.toNat / 64 % 8 = 0 ∧ imm.getLsbD 9 = false) ∧
    (∀ imm ∈ [(0x200 : BitVec 12), 0x61F, 0xA00, 0xE1F], imm.toNat / 64 % 8 = 0 ∧ imm.getLsbD 9 = true ∧ imm.getLsbD 5 = false) :=
  ⟨on_at 0 (by decide) _, on_at 0 (by decide) _, by decide, by decide⟩

/-- R93: a shift by 0 keeps C, and the last bit shifted out goes to C. -/
theorem test_shift_carry : nextIs (exec (.shr (at0 0) ⟨3, 1, 2, 0x49⟩) (core0 (fun c => (c.setReg 1 3).setFlags 0b0010)))
      (fun t => (t.core 0).reg 3 == 3 && (t.core 0).flags == 0b0010) = true ∧
    nextIs (exec (.shl (at0 0) ⟨3, 1, 2, 0x48⟩) (core0 (fun c => (c.setReg 1 0x8000000000000000).setReg 2 1)))
      (fun t => (t.core 0).reg 3 == 0 && (t.core 0).flags == 0b0110) = true := ⟨by decide, by decide⟩

/-- No write in flight, and four. -/
theorem witness_MultiplyGroup : on.Executes 0 (some 0) 0 [0, 1, 2] (startOf 0 on) ∧ on.Executes 0 (some 0) 0 [3, 0, 0] (startOf 0 on) ∧
    Core.initial.mdFlight.length ≤ 4 ∧ (List.replicate 4 (⟨none, none, some 1⟩ : MdWrite)).length ≤ 4 :=
  ⟨on_at 0 (by decide) _, on_at 0 (by decide) _, by decide, by decide⟩

/-- R95: an MFMD behind which the write has not landed returns the old value, and otherwise the new one. -/
theorem test_mfmd : nextIs (exec (.mfmdL (at0 0) ⟨3, 0, 0, 0x11⟩ 1) (core0 (fun c => { c with mdl := 7, mdFlight := [⟨some 0, some 9, none⟩] })))
      (fun t => (t.core 0).reg 3 == 7) = true ∧
    nextIs (exec (.mfmdL (at0 0) ⟨3, 0, 0, 0x11⟩ 0) (core0 (fun c => { c with mdl := 7, mdFlight := [⟨some 0, some 9, none⟩] })))
      (fun t => (t.core 0).reg 3 == 9) = true := ⟨by decide, by decide⟩

/-- A long operation of core 0 whose result is 7. -/
def op7 : LongOp := ⟨.g 3, 7, true, 0, false, 0x10001000, 0⟩
/-- Both sections are occupied. -/
def busy : State := core0 (fun c => { c.setReg 2 1 with longInt := some op7, longFp := some op7 })

/-- A free section and a divisor of 0; an occupied section; deterministic mode; a completion, with and without an exception due. -/
theorem witness_LongOperations : on.Executes 0 (some 0) 0 [3, 1, 2] (startOf 0 on) ∧
    (let c := (startOf 0 on).core 0; c.dm = false ∧ c.longInt = none ∧ c.longFp = none ∧ c.reg 2 = 0) ∧
    busy.Executes 0 (some 0) 0 [4, 1, 2] (startOf 0 busy) ∧ (let c := (startOf 0 busy).core 0; c.longInt ≠ none ∧ c.longFp ≠ none) ∧
    dmOn.Executes 0 (some 0) 0 [3, 1, 2] (startOf 0 dmOn) ∧ ((startOf 0 dmOn).core 0).dm = true ∧
    (let c := busy.core 0; op7.divZero = false ∧ op7.flags % 32 &&& slice (c.fstat ||| BitVec.ofNat 64 (op7.flags % 32)).toNat 8 5 = 0 ∧
      c.longExcs = [] ∧ c.longInt = some op7 ∧ c.longFp = some op7) :=
  ⟨on_at 0 (by decide) _, by decide, executes_of (by decide), by decide, dm_at 0 (by decide) _, by decide, by decide⟩

/-- R98: the most negative number by -1 wraps; a completed operation writes rd. -/
theorem test_div_corner : nextIs (exec (.div (at0 0) ⟨3, 1, 2, 0⟩) (core0 (fun c => (c.setReg 1 0x8000000000000000).setReg 2 0xFFFFFFFFFFFFFFFF)))
      (fun t => ((t.core 0).longInt.map (·.result)) == some 0x8000000000000000) = true ∧
    nextIs (exec (.longOpComplete 0 .int) busy) (fun t => (t.core 0).reg 3 == 7 && (t.core 0).longInt == none) = true := ⟨by decide, by decide⟩

/-- No trap of FSTAT enabled, and invalid enabled. -/
theorem witness_FloatingPoint : on.Executes 0 (some 0) 0 [3, 1, 2] (startOf 0 on) ∧ on.Executes 0 (some 0) 0 [1, 2] (startOf 0 on) ∧
    31 % 32 &&& slice ((startOf 0 on).core 0).fstat.toNat 8 5 = 0 ∧
    (let s := core0 (fun c => { c with fstat := 0x1000 }); 16 % 32 &&& slice ((s.core 0).fstat ||| 16).toNat 8 5 ≠ 0) :=
  ⟨on_at 0 (by decide) _, on_at 0 (by decide) _, by decide, by decide⟩

/-- R99: 1.5 + 2.25 is 3.75 exactly; the maximum of a quiet NaN and a number is the number. -/
theorem test_fadd_fmax : nextIs (exec (.fadd (at0 0) ⟨3, 1, 2, 0x40⟩) (core0 (fun c => (c.setReg 1 0x3FF8000000000000).setReg 2 0x4002000000000000)))
      (fun t => (t.core 0).reg 3 == 0x400E000000000000 && (t.core 0).fstat == 0) = true ∧
    nextIs (exec (.fmax (at0 0) ⟨3, 1, 2, 0x44⟩) (core0 (fun c => (c.setReg 1 0x7FF8000000000000).setReg 2 0x4002000000000000)))
      (fun t => (t.core 0).reg 3 == 0x4002000000000000 && (t.core 0).fstat == 0) = true := ⟨by decide, by decide⟩

theorem witness_FloatingPointSpecialValues : (1 : Nat) ≠ 0 ∧ fpDecode binary64 0x7FF8000000000000 = .nan false ∧
    fpDecode binary64 0x7FF0000000000000 = .inf false ∧ fpDecode binary32 0x80000000 = .fin true 0 (-149) := by decide

/-- A load of 8 bytes in a cached line and one of 1 byte; one that leaves the cluster; a response. -/
theorem witness_Loads : cust.Executes 0 (some 0) 0 [3, 1] (startOf 0 cust) ∧ cust.Executes 0 (some 0) 0 [3, 1, 2] (startOf 0 cust) ∧
    (∃ ps d t, (startOf 0 cust).Loads 0 false 0x10002000 8 .none ps d t ∧ decide (d < 2 ^ 64) = true) ∧
    (∃ ps d t, (startOf 0 cust).Loads 0 false 0x10002000 1 .none ps d t ∧ decide (d < 2 ^ 8) = true) ∧
    (match prepare 0 .read 0x10002040 8 (startOf 0 cust) with
      | (.ok ps, a) => (match dataCompare 0 1 ps a with
        | (none, false, b) => devLoadReady 0 ps b && (match readParts 0 .none false ps b with | (.miss, _) => true | _ => false)
        | _ => false)
      | _ => false) = true ∧
    (match readParts 0 .none true [⟨0x10002000, 0x10002000, 8, .normal, true⟩] on with | (.data _, _) => true | _ => false) = true :=
  ⟨cust_at 0 (by decide) _, cust_at 0 (by decide) _, loads_of (fun _ d => decide (d < 2 ^ 64)) (by decide),
    loads_of (fun _ d => decide (d < 2 ^ 8)) (by decide), by decide, by decide⟩

/-- R6, R7, R150: little-endian; LDB extends the sign of the lowest byte, and LDST with post-increment advances rs1 by 4. -/
theorem test_load_bytes : nextIs (exec (.ldb (at0 0) ⟨3, 1, 0⟩ .none) (cust.mapCore 0 (fun c => c.setReg 1 0x10002000)))
      (fun t => (t.core 0).reg 3 == 0xFFFFFFFFFFFFFF88) = true ∧
    nextIs (exec (.ldst (at0 0) ⟨3, 1, 0, 0x58⟩ .none) (cust.mapCore 0 (fun c => c.setReg 1 0x10002004)))
      (fun t => (t.core 0).reg 3 == 0x11223344 && (t.core 0).reg 1 == 0x10002008) = true := ⟨by decide, by decide⟩

/-- A store within a line and one across two lines, in and out of deterministic mode. -/
theorem witness_StoresAndCopies : cust.Executes 0 (some 0) 0 [3, 1] (startOf 0 cust) ∧
    (∃ ps t, (startOf 0 cust).Stores 0 false 0x10002000 8 ps t ∧ (!(t.core 0).dm) = true) ∧
    (∃ ps t, (startOf 0 cust).Stores 0 false 0x1000203D 8 ps t ∧ (ps.length == 2) = true) ∧
    (∃ ps t, (startOf 0 dmOn).Stores 0 false 0x10002000 8 ps t ∧ ((t.core 0).dm && (issueStores 0 ps 5 t).2) = true) ∧
    (∃ ps d t, (startOf 0 cust).Loads 0 false 0x10002000 8 .none ps d t ∧ true = true) :=
  ⟨cust_at 0 (by decide) _, stores_of (fun _ t => !(t.core 0).dm) (by decide), stores_of (fun ps _ => ps.length == 2) (by decide),
    stores_of (fun ps t => (t.core 0).dm && (issueStores 0 ps 5 t).2) (by decide), loads_of (fun _ _ => true) (by decide)⟩

/-- R151, R282: a store across a line boundary leaves two entries, the lower bytes first. -/
theorem test_store_splits : nextIs (exec (.std (at0 0) ⟨3, 1, 0⟩) (cust.mapCore 0 (fun c => (c.setReg 1 0x1000203C).setReg 3 0x1122334455667788)))
    (fun t => (t.core 0).stores.map (fun e => (e.pa, e.size, e.data)) == [(0x1000203C, 4, 0x55667788), (0x10002040, 4, 0x11223344)]) = true := by
  decide

/-- A core that holds the reservation on the line, and one that does not. -/
theorem witness_ExclusivesAndAtomics : cust.Executes 0 (some 0) 0 [3, 1, 2] (startOf 0 cust) ∧
    (∃ ps d t, (startOf 0 cust).Loads 0 true 0x10002000 8 .none ps d t ∧ (ps.length == 1) = true) ∧
    (match prepareAtom 0 .write 0x10002000 4 (startOf 0 cust) with | (.ok [p], b) => !(b.core 0).reserves p.pa 4 | _ => false) = true ∧
    (let s := (startOf 0 cust).mapCore 0 (fun c => { c with reservation := some ⟨0x10002000, 8, true⟩ });
      ∃ ps t, s.Stores 0 true 0x10002000 8 ps t ∧ (ps.length == 1 && (t.core 0).reserves 0x10002000 8 && ps.all (fun p => (storeNow 0 p 5 t).2)) = true) :=
  ⟨cust_at 0 (by decide) _, loads_of (fun ps _ => ps.length == 1) (by decide), by decide,
    stores_of (fun ps t => ps.length == 1 && (t.core 0).reserves 0x10002000 8 && ps.all (fun p => (storeNow 0 p 5 t).2)) (by decide)⟩

/-- R115, R116: STX without a reservation answers 1 and stores nothing; ADDA answers the old value. -/
theorem test_stx_adda : nextIs (exec (.stx (at0 0) ⟨3, 1, 2, 0x1C⟩) (cust.mapCore 0 (fun c => (c.setReg 1 0x10002000).setReg 2 9)))
      (fun t => (t.core 0).reg 3 == 1 && (t.core 0).stores == [] && (t.l2Find 0 3 0x400080).any (fun l => l.data == 0x1122334455667788)) = true ∧
    nextIs (exec (.adda (at0 0) ⟨3, 1, 2, 0x3C⟩ .none none) (cust.mapCore 0 (fun c => (c.setReg 1 0x10002000).setReg 2 1)))
      (fun t => (t.core 0).reg 3 == 0x1122334455667788 && (t.l2Find 0 3 0x400080).any (fun l => l.data == 0x1122334455667789)) = true :=
  ⟨by decide, by decide⟩

/-- An unconditional call with a window free, an aligned and a misaligned indirect target, a return with two windows. -/
theorem witness_BranchesAndCalls : on.Executes 0 (some 0) 0 [10] (startOf 0 on) ∧ on.Executes 0 (some 0) 0 [] (startOf 0 on) ∧
    (let c := (startOf 0 on).core 0; c.twOn = false ∧ c.pc.toNat % 4 = 0 ∧ c.res < 11 ∧ c.cwp < 12 ∧ c.awaited [27] = false) ∧
    (let c := (core0 (fun c => (c.setReg 1 0x10001002).setReg 2 0x10001FFC)).core 0; (c.reg 1).toNat % 4 ≠ 0 ∧ (c.reg 2).toNat % 4 = 0) ∧
    (let s := core0 (fun c => { c with res := 2 }); s.Executes 0 (some 0) 0 [10] (startOf 0 s) ∧ 1 < ((startOf 0 s).core 0).res) :=
  ⟨on_at 0 (by decide) _, on_at 0 (by decide) _, by decide, by decide, executes_of (by decide), by decide⟩

/-- R108, R110: CALL by -1 instruction keeps the old G10 in the next window's L11; JMPL links to the next instruction. -/
theorem test_call_jmpl : nextIs (exec (.call (at0 0) ⟨false, 0x1FFFFF⟩) (core0 (fun c => c.setReg 10 5)))
      (fun t => (t.core 0).pc == 0x10000FFC && (t.core 0).reg 10 == 0x10001004 && (t.core 0).cwp == 1 && (t.core 0).res == 2 && (t.core 0).reg 27 == 5) = true ∧
    nextIs (exec (.jmpl (at0 0) ⟨3, 1, 8⟩) (core0 (fun c => c.setReg 1 0x10002000)))
      (fun t => (t.core 0).pc == 0x10002008 && (t.core 0).reg 3 == 0x10001004) = true := ⟨by decide, by decide⟩

/-- A count of 64 and of 65535, a count of 0, and a resumed repeat; two iterations left, and the last. -/
theorem witness_Repeats : on.Executes 0 none 0 [] (startOf 0 on) ∧ on.Executes 0 none 0 [1] (startOf 0 on) ∧
    ((0 : Nat) % 8 = 0 ∧ 0 / 8 % 2 = 0 ∧ (64 : BitVec 12).toNat ≤ 64) ∧ (24 / 8 % 2 = 1 ∧ 16 ≤ 24) ∧ (8 / 8 % 2 = 1 ∧ 8 % 8 = 0) ∧
    (let c := (startOf 0 on).core 0; ¬ (c.afterReti = true ∧ c.rpcnt.getLsbD 63 = true)) ∧
    (let s := core0 (fun c => { c with afterReti := true, rpcnt := 0x8000000000000001 });
      s.Executes 0 none 0 [] (startOf 0 s) ∧ (let c := (startOf 0 s).core 0; c.afterReti = true ∧ c.rpcnt.getLsbD 63 = true ∧ c.rpcnt.toNat % 65536 ≠ 0)) ∧
    (let r : RepState := ⟨2, false, false, 0, none⟩; 1 < r.left ∧ { r with left := 1 }.left ≤ 1) :=
  ⟨on_xt 0 (by decide) _, on_xt 0 (by decide) _, by decide, by decide, by decide, by decide, ⟨executes_of (by decide), by decide⟩, by decide⟩

/-- R103, R106: REP of 0 skips the next instruction; a repeated instruction stays at its address until its last iteration. -/
theorem test_rep : nextIs (exec (.rep xt0 ⟨0, 0, 0⟩) on) (fun t => (t.core 0).pc == 0x10001008 && (t.core 0).rep == none) = true ∧
    nextIs (exec (.add (at0 0) ⟨3, 3, 2, 0⟩) (core0 (fun c => { c.setReg 2 1 with rep := some ⟨2, false, false, 0x10000FFC, none⟩ })))
      (fun t => (t.core 0).pc == 0x10001000 && (t.core 0).reg 3 == 1 && (t.core 0).rep.map (·.left) == some 1) = true := ⟨by decide, by decide⟩

/-- Monitor level, and Kernel level for the narrower TVEC; no change of deterministic mode is asked for. -/
theorem witness_ControlRegisters : on.Executes 0 none 1 [1] (startOf 0 on) ∧ on.Executes 0 none 0 [3] (startOf 0 on) ∧
    ((startOf 0 on).core 0).pl = 3 ∧ cust.Executes 0 none 1 [1] (startOf 0 cust) ∧ ((startOf 0 cust).core 0).pl ≠ 3 ∧
    (startOf 0 on).dmWanted 0 0 = ((startOf 0 on).core 0).dm :=
  ⟨on_xt 1 (by decide) _, on_xt 0 (by decide) _, by decide, cust_xt 1 (by decide) _, by decide, by decide⟩

/-- R85, Table ISA-2: WSPILL drops its low seven bits; a write of RES above the resident windows is limited. -/
theorem test_mtc : nextIs (exec (.mtc xt0 ⟨0, 1, 9⟩) (core0 (fun c => c.setReg 1 0xFFFFFFFFFFFFFFFF))) (fun t => (t.core 0).wspill == 0x0000FFFFFFFFFF80) = true ∧
    nextIs (exec (.mtc xt0 ⟨0, 1, 8⟩) (core0 (fun c => c.setReg 1 0x500))) (fun t => (t.core 0).res == 1) = true := ⟨by decide, by decide⟩

/-- A store performed at cluster scope and not beyond it, an unperformed one, none; each depth of WAIT, in a rotation group and in none. -/
theorem witness_BarriersFlushesAndWaits : on.Executes 0 none 0 [] (startOf 0 on) ∧ on.Executes 0 none 1 [] (startOf 0 on) ∧
    (let c := (startOf 0 on).core 0; c.dm = false ∧ c.stores = [] ∧ c.settle.longExcs = [] ∧ c.settle.landAll.longExcs = [] ∧
      c.flushBlocked 1 = false ∧ c.flushBlocked 0 = false) ∧
    (let e : StoreEntry := ⟨0x20000000, 4, 0, .devicePosted, 0, true, false⟩; e.sent = true ∧ e.type = .devicePosted ∧ e.type ≠ .deviceStrict) ∧
    (match spillTo 0 1 12 (startOf 0 on) with | (.ok, v) => (v.core 0).stores == [] | _ => false) = true ∧
    (let s := dmOn.mapCore 0 (fun c => { c with wspill := 0x10008000 });
      (match spillTo 0 0 12 (startOf 0 s) with | (.ok, v) => (v.core 0).stores == [] && (v.core 0).res == 0 | _ => false) = true) ∧
    ((startOf 0 on).get PWC_CCTL_DEPTH 0 ≤ 1 ∨ (startOf 0 on).get PWC_CCTL_DEPTH 0 = 3) ∧ on.inRotation 0 = false ∧
    (let s := (on.put PWC_CCTL_DEPTH 2 0).putBit DEAL_ROTCORE_CORES 0 true 0; s.get PWC_CCTL_DEPTH 0 = 2 ∧ s.inRotation 0 = true) :=
  ⟨on_xt 0 (by decide) _, on_xt 1 (by decide) _, by decide, by decide, by decide, by decide, by decide, by decide, by decide⟩

/-- R290, R565: a full barrier waits for a store that is not performed; WAIT at depth 1 enters C1 and retires. -/
theorem test_bar_wait : nextIs (exec (.bar xt0 ⟨0, 0, 0, 0x0C⟩) (core0 (fun c => { c with stores := [⟨0x20000000, 4, 0, .devicePosted, 0, false, false⟩] })))
      (fun t => (t.core 0).pc == 0x10001000) = true ∧
    nextIs (exec (.wait xt0 ⟨0, 0, 0, 0⟩) on) (fun t => t.cState 0 == 1 && (t.core 0).pc == 0x10001004) = true := ⟨by decide, by decide⟩

/-- The record of seat 5 on core 0 stands ready in the save area. -/
def switchTo5 : State := (on.writeMem (recordAddr 5 0) 1 1).mapCore 0 (fun c => { c with switchEv := some ⟨5, 0⟩, res := 0 })

/-- BRK with and without the right to halt; a return to a resident window, one that waits for a fill, one with an event held; a switch
without an event, into a context that was saved, and into none. -/
theorem witness_TrapsAndReturns : on.Executes 0 none 0 [] (startOf 0 on) ∧ on.Executes 0 none 1 [] (startOf 0 on) ∧ on.Executes 0 none 3 [] (startOf 0 on) ∧
    (startOf 0 on).flag DBG_CCTL_BRKHALT 0 = false ∧
    (let s := on.put DBG_CCTL_BRKHALT 1 0; s.vddDbg = true ∧ s.flag DBG_CCTL_BRKHALT 0 = true ∧ s.debugCovers (s.core 0).seatid = true) ∧
    (let s := startOf 0 on; s.heldEvent 0 (s.core 0).ppl (s.core 0).pie = none ∧ (s.core 0).twOn = false ∧ (s.core 0).res ≤ 1 ∧ (s.core 0).switchEv = none) ∧
    (let s := core0 (fun c => { c with busErr := some 0x10000000, pstate := c.pstate ||| 0x20, res := 2 });
      (s.heldEvent 0 (s.core 0).ppl (s.core 0).pie).isSome = true ∧ (s.core 0).settle.longExcs = [] ∧ 1 < (s.core 0).res) ∧
    (let c := switchTo5.core 0; switchTo5.Executes 0 none 3 [] (startOf 0 switchTo5) ∧ c.switchEv = some ⟨5, 0⟩ ∧ c.stores = [] ∧
      c.settle.landAll.longExcs = [] ∧ c.settle.landAll.res = 0 ∧ (BitVec.ofNat 64 (switchTo5.readMem (recordAddr 5 0) 8)).getLsbD 0 = true ∧
      (BitVec.ofNat 64 (on.readMem (recordAddr 5 0) 8)).getLsbD 0 = false) :=
  ⟨on_xt 0 (by decide) _, on_xt 1 (by decide) _, on_xt 3 (by decide) _, by decide, by decide, by decide, by decide,
    executes_of (by decide), by decide⟩

/-- R118, R178, R186: TRAP saves the next instruction and enters 0x0F in the Monitor table; RETI goes back to EPC at level PPL. -/
theorem test_trap_reti : nextIs (exec (.trap xt0 ⟨0, 0, 0x123⟩) (core0 (fun c => { c with tvec := 0x0000100000000000 })))
      (fun t => (t.core 0).epc == 0x10001004 && (t.core 0).ecause == 0x12300000F && (t.core 0).pl == 3 && (t.core 0).ppl == 3) = true ∧
    nextIs (exec (.reti xt0 ⟨0, 0, 0, 0⟩) (core0 (fun c => { c with epc := 0x10003000, pstate := 0xC0, res := 2, cwp := 1 })))
      (fun t => (t.core 0).pc == 0x10003000 && (t.core 0).pl == 0 && (t.core 0).cwp == 0 && (t.core 0).res == 1) = true := ⟨by decide, by decide⟩

/-- A core with one window resident, at Monitor and at Kernel level; one with eleven, for an exception into the trap window. -/
theorem witness_TakingAnException : ((on.core 0).twOn = false ∧ ¬ (0x0F = 0x15 ∧ (on.core 0).pl = 3) ∧ (on.core 0).res < 11) ∧
    (on.core 0).pl < 4 ∧ (0xFF : Nat) < 256 ∧ (cust.core 0).pl = 1 ∧ 0x13 ∈ [0x13, 0x14, 0x30] := by decide

/-- A line of Normal memory in an L2 way of the seat and one that is not there, with no store of it buffered. -/
theorem witness_CacheMaintenance : cust.Executes 0 none 0 [1] (startOf 0 cust) ∧ cust.Executes 0 none 1 [1, 2] (startOf 0 cust) ∧
    (∀ va ∈ [0x10002000, 0x10002FFF],
      (match translate 0 .read va (startOf 0 cust) with
      | (.ok e, t) => let b := drainLine 0 (e.phys va / 64) t
        !e.type.isDev && e.type == .normal && (b.core 0).stores.all (fun x => x.pa / 64 != e.phys va / 64) &&
          (va == 0x10002000 || (b.l2Find 0 3 (e.phys va / 64)).isNone && (match b.memGate 3 (e.phys va) with | .ok => true | _ => false))
      | _ => false) = true) ∧
    (match translate 0 .write 0x10002000 (startOf 0 cust) with | (.ok e, _) => !e.type.isDev | _ => false) = true ∧
    (let c := (startOf 0 cust).core 0; c.dm = false ∧ c.stores = []) :=
  ⟨cust_xt 0 (by decide) _, cust_xt 1 (by decide) _, by decide, by decide, by decide⟩

/-- R261, R265: CLN.R does the line at rs1 and goes to the next one, with the bytes passed taken from rs2. -/
theorem test_cln_range : nextIs (exec (.cmoClnR xt0 ⟨0, 1, 2, 4⟩) (cust.mapCore 0 (fun c => (c.setReg 1 0x10002008).setReg 2 100)))
    (fun t => (t.core 0).reg 1 == 0x10002040 && (t.core 0).reg 2 == 44 && (t.core 0).pc == 0x10001000) = true := by decide

/-- A page that a TLB holds, pinned, unpinned, and beside eight pinned ones. -/
theorem witness_TlbMaintenance : cust.Executes 0 none 1 [3, 1] (startOf 0 cust) ∧ cust.Executes 0 none 1 [] (startOf 0 cust) ∧
    (startOf 0 cust).accessesDone 0 3 = true ∧ (∀ j, (startOf 0 cust).accessesDone j 3 = true) ∧
    (let c := (startOf 0 cust).core 0; c.dm = false ∧ c.ptctl.getLsbD 0 = true ∧
      c.dtlb.find? (fun e => e.serves c 0x10002FFF) = some (page 0x10002000) ∧ (c.dtlb.filter (·.pinned)).length < 8) ∧
    (let l := (List.range 8).map (fun n => { page (0x10004000 + n * 0x1000) with pinned := true });
      8 ≤ (l.filter (·.pinned)).length ∧ (l.head?.map (·.pinned)) = some true) ∧
    (match translate 0 .read 0x10002000 (startOf 0 cust) with | (.wait, _) => false | _ => true) = true :=
  ⟨cust_xt 1 (by decide) _, cust_xt 1 (by decide) _, by decide, by decide, by decide, by decide, by decide⟩

/-- R236: INV.VA removes the page of the address and no other one. -/
theorem test_tlb_inv_va : nextIs (exec (.tlbInvVa xt0 ⟨0, 1, 0, 2⟩) (cust.mapCore 0 (fun c => c.setReg 1 0x10002FFF)))
    (fun t => (t.core 0).dtlb.map (·.va) == [0x10003000]) = true := by decide

/-- Seat 0 has one customer instruction, code 0x80, of 32 micro-cycles; word 0 of its region ends the routine. -/
def custom : State := ((on.put MCS_CXENT_VALID 1 0x80).put MCS_CXENT_CYC 32 0x80)
/-- A routine of core 0 after `n` micro-cycles. -/
def run (n : Nat) : MicroRun := ⟨0x3800, 0, Vector.replicate 16 0, 0, some 5, some 4, 0, 0, 0, [], n, 32⟩
def inRun (n : Nat) : State := custom.mapCore 0 (fun c => { c with micro := some (run n) })

/-- CRC of 1 and of 8 bytes; a code that the seat may use; a routine at its last micro-cycle, past it, at a micro-trap point with an event held;
the first and the last word of the customer region, with the lock open and set. -/
theorem witness_Microcode : on.Executes 0 none 0 [3, 1, 2] (startOf 0 on) ∧ (0x1F : BitVec 7).toNat < 32 ∧ 0x1E % 4 ≠ 3 ∧
    ((custom.core 0).micro = none ∧ custom.flag MCS_CXENT_VALID 0x80 = true ∧ custom.get MCS_CXENT_CYC 0x80 ≠ 0 ∧
      custom.get MCS_CXENT_SEAT 0x80 = (custom.core 0).seatid ∧ (custom.core 0).bank = none) ∧
    custom.Executes 0 none 0 [3, 1, 2] (startOf 0 custom) ∧
    ((inRun 31).coreRuns 0 = true ∧ (run 31).cyc < (run 31).limit ∧ (run 32).limit ≤ (run 32).cyc) ∧
    (let s := (inRun 16).mapCore 0 (fun c => { c with busErr := some 0, pstate := c.pstate ||| 0x10 });
      16 % 16 = 0 ∧ 0 < (run 16).cyc ∧ (s.core 0).twOn = false ∧ (s.core 0).haltReq = false ∧ s.heldEvent 0 (s.core 0).pl (s.core 0).ie ≠ none) ∧
    (on.flag MCS_LOCK_LOCK = false ∧ 0x3800 ≤ (0x3800 : Word32).toNat % 2 ^ 14 ∧ 0x3800 ≤ (0x3FFF : Word32).toNat % 2 ^ 14) ∧
    (on.put MCS_LOCK_LOCK 1).flag MCS_LOCK_LOCK = true :=
  ⟨on_xt 0 (by decide) _, by decide, by decide, by decide, executes_of (by decide), by decide, by decide, by decide, by decide⟩

/-- R121: CRC-32 of the byte 0x00 from all ones is 0xD202EF8D before its final inversion is applied, that is 0x2DFD1072 here. -/
theorem test_crc : nextIs (exec (.crc xt0 ⟨3, 1, 2, 0x00⟩ none) (core0 (fun c => c.setReg 1 0xFFFFFFFF)))
    (fun t => (t.core 0).reg 3 == 0x2DFD1072) = true := by decide

/-- Core 0 at User level with interrupts enabled, and its Kernel vectors in DSTORE. -/
def user : State := core0 (fun c => { c with pstate := 0x10, tvec := 0x1000 })
def busFault : State := user.mapCore 0 (fun c => { c with busErr := some 0x10000040 })
def switchDue : State := user.mapCore 0 (fun c => { c with switchEv := some ⟨5, 0⟩, busErr := some 0 })
/-- Source 300 at priority 15 for core 0. -/
def interrupted : State := user.setReg ICU_SRC (2 ^ 31 + 2 ^ 24 + 15 * 2 ^ 16) 300
/-- Two stores to one line, the earlier one sent. -/
def storing : State := user.mapCore 0 (fun c => { c with
  stores := [⟨0x20000000, 4, 1, .deviceStrict, 0, true, false⟩, ⟨0x10002000, 8, 2, .nonCacheable, 0, false, false⟩] })

/-- Each held event where it is first; eleven windows; a fill that is waited for; entries of the store buffer. -/
theorem witness_CoreEntriesAndEngines :
    (interrupted.coreRuns 0 = true ∧ (interrupted.core 0).atBoundary = true ∧ (interrupted.core 0).settle.longExcs = [] ∧
      interrupted.seenInterrupt 0 = some 15 ∧ interrupted.heldEvent 0 0 true = some (.interrupt 15)) ∧
    (busFault.heldEvent 0 0 true = some (.busError 0x10000040) ∧ switchDue.heldEvent 0 0 true = some (.seatSwitch 5)) ∧
    (let s := core0 (fun c => { c with res := 11, wspill := 0x10008000 });
      (s.core 0).windowAwaited (s.core 0).oldestWindow = false ∧
      (match enginePrep 0 .write 0x10007F80 s with | (.ok, ps, b) => (issueStores 0 ps ((s.core 0).record (s.core 0).oldestWindow) b).2 | _ => false) = true) ∧
    (let s := core0 (fun c => { c with fillWait := true, wspill := 0x10008000 });
      (match enginePrep 0 .read 0x10008000 s with
      | (.ok, ps, b) => (match readParts 0 .none true ps b with | (.data _, _) => true | _ => false)
      | _ => false) = true) ∧
    ((storing.core 0).stores[1]? = some ⟨0x10002000, 8, 2, .nonCacheable, 0, false, false⟩ ∧
      (((storing.core 0).stores.take 1).any (fun b => storeBlocks storing b ⟨0x10002000, 8, 2, .nonCacheable, 0, false, false⟩)) = false ∧
      (performStore 0 ⟨0x10002000, 8, 2, .nonCacheable, 0, false, false⟩ (storing.mapCore 0 (fun c => { c with stores := c.stores.eraseIdx 1 }))).2 = true) :=
  ⟨by decide, by decide, by decide, by decide, by decide⟩

/-- R180, Table TRAP-2: an interrupt of priority 15 is cause 0x2F, at Kernel level, and returns to the instruction that it interrupts. -/
theorem test_interrupt : nextIs (exec (.interruptEntry 0) interrupted) (fun t => slice (t.core 0).ecause.toNat 0 8 == 0x2F &&
      (t.core 0).epc == 0x10001000 && (t.core 0).pl == 1 && !(t.core 0).ie && (t.core 0).ppl == 0) = true := by decide

def paired : State := on.putBit SEAT_PAIRMODE_LOCKED 0 true
/-- Core 0 in state C`n` with tokens, its cluster on. -/
def asleep (n : Nat) : State :=
  let s := (on.setCState 0 n).putBit PWC_DSTAT_ON 4 true
  { s with tokens := [⟨.core 0, 0, 0, 90⟩] }

/-- A locked pair; deterministic mode; a counter; C1, C2 and C3; a cluster that is off with tokens; a level change; a request. -/
theorem witness_CoreAndClusterEvents :
    (paired.pairLocked 0 = true ∧ (paired.core 0).run = .running ∧ paired.cState 0 = 0 ∧ (7 : BitVec 4).toNat ≤ 7 ∧ 1 ≤ (1 : BitVec 4).toNat) ∧
    (dmOn.coreRuns 0 = true ∧ (dmOn.core 0).dm = true) ∧
    (let s := (on.putBit IBC_PMCTL_EN 5 true 0).put IBC_PMEVT_EVENT 0x0C 0 5;
      s.bitOf IBC_PMCTL_EN 5 0 = true ∧ s.get IBC_PMEVT_EVENT 0 5 = 0x0C ∧ (s.core 0).seatid = s.coreOwner 0 ∧ s.flag IBC_PMCTL_FRZ 0 = false) ∧
    ((asleep 1).cState 0 = 1 ∧ (asleep 2).cState 0 = 2 ∧ (asleep 3).cState 0 = 3 ∧ (asleep 2).wakeReady 0 = true ∧ (asleep 3).trailing 0 = false) ∧
    on.coreOwner 0 ≠ (5 : Seat).val ∧ (let s := { on with tokens := [⟨.cluster 7, 0, 0, 60⟩] }; s.clusterOn 7 = false ∧ s.holdsTokens (.cluster 7) = true) ∧
    (on.flag PWC_STAT_PFBUSY = false ∧ (on.put PWC_STAT_PFBUSY 1).flag PWC_STAT_PFBUSY = true) ∧
    (let s := { on with tokenQueue := [⟨[.core 3], 0, 90, false⟩] }; s.tokenQueue.find? (fun q => s.grantable q) = some ⟨[.core 3], 0, 90, false⟩) :=
  ⟨by decide, by decide, by decide, by decide, by decide, by decide, by decide, by decide⟩

/-- R575: 90 tokens of the pool go to a core, and its request leaves the queue. -/
theorem test_token_grant : nextIs (exec .tokenGrant { on with tokenQueue := [⟨[.core 3], 0, 90, false⟩] })
    (fun t => t.tokenQueue == [] && t.tokens == [⟨.core 3, 0, 0, 90⟩]) = true := by decide

def claimed : State := on.put TBS_CCCTL_MODE 1 31

/-- A seat configuration that passes, one whose first pair fails, and one whose source 1 fails as code 6; capture on each kind of edge; compare
modes 2 and 3 with the time reached. -/
theorem witness_SeatLockAndTimeBase : on.seatLocked = false ∧ (on.put SEAT_LOCK_LOCK 1).seatLocked = true ∧ on.seatCheck = none ∧
    ((paired.put SEAT_CORE_OWNER 4 0).seatCheck = some (1, 0)) ∧
    (claimed.device = .on ∧ claimed.get TBS_CCCTL_MODE 31 = 1 ∧ (claimed.put TBS_CCCTL_EDGE 1 31).get TBS_CCCTL_EDGE 31 = 1 ∧
      (claimed.put TBS_CCCTL_EDGE 2 31).get TBS_CCCTL_EDGE 31 = 2) ∧
    (let s := on.put TBS_CCCTL_MODE 2 0; s.get TBS_CCCTL_MODE 0 = 2 ∧ s.unitTime 0 ≤ s.time80 ∧ s.tbsActed.getLsbD 0 = false) :=
  ⟨by decide, by decide, by decide +kernel, by decide +kernel, by decide, by decide⟩

/-- Table DEV-7: an interrupt source of a customer seat that targets another seat's core is code 6, and VADDR names it. -/
theorem witness_seatCheck_source : ((on.put SEAT_SRC_OWNER 4 40).seatCheck = some (6, 40)) := by decide +kernel

/-- R45: a capture records the time of the next edge less 10 ns: 5 ns + 15 ns - 10 ns. -/
theorem test_capture : nextIs (exec (.tbsCapture 31 true) ((claimed.setTime (15 * 2 ^ 16)).put TBS_RATE_INC (5 * 2 ^ 16)))
    (fun t => t.get TBS_CCTIME_NS 31 == 10 && t.get TBS_CCFRAC_FRAC 31 == 0) = true := by decide

/-- A table whose second slot is reserved for management. -/
def dealt : State := on.setReg DEAL_SLOT 0x300 0 1
/-- The last slot of the round, before a slot that switches group 0 to seat 5. -/
def lastSlot : State := ((on.put DEAL_NOW_SLOT 63).setReg DEAL_SLOT 0x20105 0 0).putBit DEAL_ROTCORE_CORES 0 true 0

/-- A slot within the round and the last one, with and without a switch; a table that passes and one that fails; a switch at its limit. -/
theorem witness_SlotsAndTheDealLock : on.device = .on ∧ slotSwitches on.curSlot = false ∧ on.dealLen = 64 ∧ on.get DEAL_NOW_SLOT + 1 < 64 ∧
    on.flag DEAL_ERR_UE = false ∧ (lastSlot.dealLen ≤ lastSlot.get DEAL_NOW_SLOT + 1 ∧ slotSwitches (lastSlot.slotEntry 0) = true) ∧
    (on.dealLocked = false ∧ on.flag DEAL_STAT_BUSY = false) ∧ dealt.dealCheck = none ∧ on.dealCheck = some (3, 0) ∧
    (let s := core0 (fun c => { c with switchEv := some ⟨5, 64⟩ }); max 8 (s.get DEAL_SWLIM_LIMIT) ≤ 64) :=
  ⟨by decide, by decide, by decide, by decide, by decide, by decide, by decide, by decide +kernel, by decide +kernel, by decide⟩

/-- R66, R67: the slot that switches raises the event of its owner on the cores of its group, and slot 0 follows the last one. -/
theorem test_slot_switch : nextIs (exec (.slotStart .none) lastSlot)
    (fun t => t.get DEAL_NOW_SLOT == 0 && (t.core 0).switchEv == some ⟨5, 0⟩ && (t.core 1).switchEv == none && t.get DEAL_ROUND_COUNT == 1) = true := by
  decide +kernel

def flit (vn : Fin 4) (head : Bool) (err : Upset) : Flit := ⟨vn, false, 3, 7, head, 0x20, false, false, err⟩

theorem witness_FabricFlitsAndTargets : (on.fabPort 0 0).queue = [] ∧ (flit 0 true .none).err = .none ∧ (flit 0 true .double).head = true ∧
    (firstFlit 0 0 0 [flit 0 true .none, flit 2 true .none]).isSome = true ∧ (flit 0 false .single).err ≠ .none ∧ (flit 0 false .double).e2e = false ∧
    targetListed 0 = true ∧ targetListed 0xF4 = true ∧ on.flag FAB_TGT_ISO 0xF4 = false ∧ on.targetDown 0xF4 = false := by decide

/-- R324: a target that does not answer is dead, and seat 0's write restores it. -/
theorem test_dead_target : nextIs (exec (.deadTargetTimeout 0xF0) on) (fun t => t.targetDown 0xF0 && t.get FAB_STAT_FIRST == 0xF0) = true ∧
    nextIs (exec (.tgtRestore 0 0xF0) (on.put FAB_TGT_DEAD 1 0xF0)) (fun t => !t.targetDown 0xF0) = true := ⟨by decide, by decide⟩

/-- Channel 0 trained: one DIMM of one rank, 256 MiB. -/
def dram : State := (((on.put DMC_STAT_READY 1 0).put DMC_GEOM_CAP 1 0).put DMC_GEOM_NDIMM 1 0).put DMC_GEOM_RANKS 1 0
def req (write guar : Bool) (level : Nat) : DmcReq := ⟨0, 3, 0x010000000000, write, guar, 0, level⟩
def queued (l : List DmcReq) : State := dram.mapDmc 0 (fun d => { d with queue := l })

/-- The first and the last line of the channel; seven and eight requests of a port; each level of the ladder; 85, 86, 95 and 96 degrees; training;
bank sets that overlap and that do not; the last line of the scrub but one. -/
theorem witness_DramControllers : (∀ a ∈ [0x010000000000, 0x01000FFFFFC0], isDram a = true ∧ dram.chanOf a = 0 ∧ a - 0x010000000000 < dram.dramCapacity) ∧
    dram.chanReady 0 = true ∧ ((queued (List.replicate 7 (req false false 0))).dmc[0].queue.filter (fun r => !r.guar && r.port == 0 && r.write == false)).length < 8 ∧
    (req true false 2).level < 3 ∧ 48 ≤ (List.replicate 48 (req true false 0)).length ∧ 2 ≤ (req true false 2).level ∧
    (∀ r ∈ [req true false 0], r.write = true) ∧ dram.hasRefreshRun 0 = false ∧ (dram.dmc[0]).postponed < 4 ∧
    (dram.get DMC_GEOM_NDIMM 0 < 2 ∧ 85 < (86 : BitVec 8).toInt ∧ 95 < (96 : BitVec 8).toInt ∧ (95 : BitVec 8).toInt ≤ 95 ∧ (0xFF : BitVec 8).toInt ≤ 85) ∧
    (on.chanReady 0 = false ∧ on.flag DMC_STAT_TRERR 0 = false) ∧
    (let s := dram.put DMC_BSET_UNITS 0x3 0 4; s.dealFixed = false ∧ s.get DMC_BSET_UNITS 0 4 &&& 0x2 ≠ 0 ∧ s.get DMC_BSET_UNITS 0 4 &&& 0xFC = 0) ∧
    (let s := (dram.put DMC_SCRUB_EN 1 0); openOn 0 s.curSlot = true ∧ 0x3FFFFE + 1 < s.get DMC_GEOM_CAP 0 * 0x400000) :=
  ⟨by decide, by decide, by decide, by decide, by decide, by decide, by decide, by decide +kernel, by decide, by decide, by decide, by decide, by decide⟩

/-- R338: a best-effort request that has waited for the third threshold counts at U3. -/
theorem test_urgency : nextIs (exec (.urgencyEscalation 0 0) (queued [req false false 2]))
    (fun t => t.get DMC_STAT_U3CNT 0 == 1 && (t.dmc[0]).queue.map (·.level) == [3]) = true := by decide

/-- A bank that is being zeroed, an open slot, the last line of a bank but one, eight cache banks and seven. -/
theorem witness_DstoreBanks : (on.putBit DSTORE_INITSTAT_BUSY 31 true).bitOf DSTORE_INITSTAT_BUSY 31 = true ∧
    (let s := on.put DSTORE_SCRUB_EN 1; s.flag DSTORE_SCRUB_EN = true ∧ s.bitOf DSTORE_INITSTAT_BUSY 31 = false ∧ slotKind s.curSlot ≠ 1 ∧
      s.get DSTORE_BCFG_MODE 31 ≠ 1 ∧ 65534 < 65535) ∧
    (let s := on.each (List.range 8) (fun b t => t.put DSTORE_BCFG_MODE 1 b);
      8 ≤ ((List.range 32).filter (fun n => n != 31 && s.get DSTORE_BCFG_MODE n == 1)).length ∧
      ((List.range 32).filter (fun n => n != 0 && s.get DSTORE_BCFG_MODE n == 1)).length < 8) :=
  ⟨by decide, by decide, by decide⟩

/-! ### Witnesses and steps: lanes, converters, interrupts, faults -/

/-- Seat 3 may read and write all of the first GiB: a table of two levels. -/
def seated : State :=
  (((on.put MMU_S2ROOT_ROOT 0x10010 3).put MMU_S2ROOT_EN 1 3).writeMem 0x10010000 8 0x10011002).writeMem 0x10011000 8 45

/-- Lane n runs, for seat 3. -/
def laned (n : Nat) (s : State) : State := (s.put SEAT_LANE_OWNER 3 n).put LN_STAT_STATE lsRunning n
def lane0 : State := laned 0 on
def inLane (f : Lane → Lane) : State := lane0.mapLane 0 f
def li (n : LaneId := 0) : LIssue := ⟨n, false, .none, false⟩
/-- Lanes 0 and 5 run in one lane cycle. -/
def lanes05 : State := laned 5 lane0

/-- A lane instruction whose program word is sound, and one that a correction mends. -/
theorem lane_executes (n : LaneId) (s : State) (h : s.laneMay n.val = true) : s.LaneExecutes (li n) (laneCycle (li n) s) ∧
    s.LaneExecutes { li n with pm := .single } ((laneCycle { li n with pm := .single } s).countUp LN_ERR_CEPM n.val) :=
  ⟨⟨h, by simp [li], rfl, rfl⟩, ⟨h, by simp, rfl, rfl⟩⟩

theorem witness_LaneArithmetic : lane0.LaneExecutes (li 0) (laneCycle (li 0) lane0) ∧ (laned 63 on).LaneExecutes (li 63) (laneCycle (li 63) (laned 63 on)) :=
  ⟨(lane_executes 0 lane0 (by decide)).1, (lane_executes 63 (laned 63 on) (by decide)).1⟩

/-- R355: 32767 + 1 wraps and sets O; ADDS limits it and sets S; the absolute value of -32768 is limited. -/
theorem test_lane_adds : nextIs (exec (.laneAdd (li 0) 3 1 2) (inLane (fun l => (l.setReg 1 0x7FFF).setReg 2 1)))
      (fun t => (t.lane 0).reg 3 == 0x8000 && (t.lane 0).o && (t.lane 0).n && !t.flag LN_STAT_S 0) = true ∧
    nextIs (exec (.laneAdds (li 0) 3 1 2) (inLane (fun l => (l.setReg 1 0x7FFF).setReg 2 1)))
      (fun t => (t.lane 0).reg 3 == 0x7FFF && t.flag LN_STAT_S 0) = true ∧
    nextIs (exec (.laneAbs (li 0) 3 1) (inLane (fun l => l.setReg 1 0x8000)))
      (fun t => (t.lane 0).reg 3 == 0x7FFF && t.flag LN_STAT_S 0 && t.get LN_PC_PC 0 == 1) = true := ⟨by decide, by decide, by decide⟩

/-- A window of fabric that is open, with its last block and the one behind it; one that is busy; a misaligned pointer; a transfer of the seat. -/
theorem witness_LaneMemoryAndTransfers :
    (let s := (lane0.put LN_FWBASE_EN 1 0 3).put LN_FWSIZE_NBLK 9 0 3;
      s.flag LN_FWSTAT_BUSY 0 3 = false ∧ s.flag LN_FWBASE_EN 0 3 = true ∧ (9 : BitVec 16).toNat ≤ s.get LN_FWSIZE_NBLK 0 3 ∧
        ¬ (10 : BitVec 16).toNat ≤ s.get LN_FWSIZE_NBLK 0 3 ∧ (s.lane 0).p[0] % 32 = 0 ∧
        ((s.mapLane 0 (fun l => { l with p := l.p.set 0 31 })).lane 0).p[0] % 32 ≠ 0 ∧ (s.put LN_FWSTAT_BUSY 1 0 3).flag LN_FWSTAT_BUSY 0 3 = true) ∧
    (let l := { Lane.initial with p := Lane.initial.p.set 1 4095, base := Lane.initial.base.set 1 4000, len := Lane.initial.len.set 1 96 };
      l.base[1] ≤ l.p[1] ∧ l.p[1] < l.base[1] + l.len[1] ∧ l.base[1] + l.len[1] ≤ 4096 ∧ cellsWf (fun _ => (0 : Half)) l.dm = true) ∧
    (let s := (laned 0 seated).mapLane 0 (fun l => { l with xfer := l.xfer.set 3 (some ⟨false, 0x10002000, 0, 0, 3⟩) });
      (s.lane 0).xfer[3] = some ⟨false, 0x10002000, 0, 0, 3⟩ ∧ s.targetDown 0x60 = false ∧ s.targetDown 0x58 = false ∧
        (match checkSeat 3 0x10002000 .read s with | .ok _ => true | _ => false) = true ∧ s.memGate 3 0x10002000 = .ok ∧ isDevice 0x10002000 = false ∧
        s.poisoned 0x10002000 64 = false) :=
  ⟨by decide, by decide, by decide⟩

/-- R356: a post-incremented load at the end of a circular range goes back to its base. -/
theorem test_lane_circular : nextIs (exec (.laneLd (li 0) 3 1 true 0 .none) (inLane (fun l => { l.setWord 4095 7 with
      p := l.p.set 1 4095, base := l.base.set 1 4000, len := l.len.set 1 96 })))
    (fun t => (t.lane 0).reg 3 == 7 && (t.lane 0).p[1] == 4000) = true := by decide

/-- Even and odd pointers; a register pair of two registers and of one. -/
theorem witness_LaneAccumulators : lane0.LaneExecutes (li 0) (laneCycle (li 0) lane0) ∧ (3 : Fin 32) ≠ 4 ∧
    (let l := inLane (fun l => { l with p := l.p.set 1 2, len := l.len.set 1 6 }); let p := (l.lane 0).p; p[1] % 2 = 0 ∧ (l.lane 0).base[1] % 2 = 0 ∧ (l.lane 0).len[1] % 2 = 0) ∧
    (let l := inLane (fun l => { l with p := l.p.set 1 3 }); (l.lane 0).p[1] % 2 ≠ 0) :=
  ⟨(lane_executes 0 lane0 (by decide)).1, by decide, by decide, by decide⟩

/-- R357: RND rounds half up: 3 / 2 becomes 2; an accumulator at its largest value stays there and sets S. -/
theorem test_rnd_sat : nextIs (exec (.rnd (li 0) 3 0 1) (inLane (fun l => { l with ac := l.ac.set 0 3 }))) (fun t => (t.lane 0).reg 3 == 2) = true ∧
    nextIs (exec (.acopAdd (li 0) 0 1) (inLane (fun l => { l with ac := (l.ac.set 0 0x7FFFFFFFFF).set 1 1 })))
      (fun t => (t.lane 0).ac[0] == 0x7FFFFFFFFF && t.flag LN_STAT_S 0) = true := ⟨by decide, by decide⟩

/-- The last channel and pair that exist and the first number that names none; an owner and a stranger; lanes that meet. -/
theorem witness_LaneConverterPort : 48 ≤ (48 : Fin 64).val ∧ (47 : Fin 64).val < 48 ∧ lane0.sdiOwner 47 ≠ lane0.laneOwner 0 ∧
    (lane0.put SEAT_SDI_OWNER 3 47).sdiOwner 47 = (lane0.put SEAT_SDI_OWNER 3 47).laneOwner 0 ∧
    24 ≤ (24 : Fin 32).val ∧ (23 : Fin 32).val < 24 ∧ (3 : Fin 8).val < 4 ∧ 4 ≤ (4 : Fin 8).val ∧ lane0.hrpOwner 23 ≠ lane0.laneOwner 0 ∧
    (lane0.put SEAT_HRP_OWNER 3 23).hrpOwner 23 = (lane0.put SEAT_HRP_OWNER 3 23).laneOwner 0 ∧
    (laneCycle (li 0) lane0).laneDeeds = [] ∧ (let s := { lanes05 with laneRan := [5], laneDeeds := [.xw 5 0 63 9] };
      s.laneMay 0 = true ∧ (laneCycle ⟨0, false, .none, true⟩ s).laneDeeds = [.xw 5 0 63 9]) := by decide

/-- R364: an XRD in the lane cycle of an XWR returns the old value, and of two XWR the higher lane's value stands. -/
theorem test_exchange : nextIs (exec (.xrd ⟨0, false, .none, true⟩ 3 63) ({ lanes05 with laneRan := [5], laneDeeds := [.xw 5 0 63 9] } : State))
      (fun t => (t.lane 0).reg 3 == 9) = true ∧
    nextIs (exec (.xwr ⟨0, false, .none, true⟩ 3 63) (State.put { lanes05 with laneRan := [5], laneDeeds := [.xw 5 0 63 9] } LG_XW_VALUE 8 0 63))
      (fun t => t.get LG_XW_VALUE 0 63 == 8 && t.flag LG_STAT_XCOLL 0) = true := ⟨by decide, by decide⟩

/-- Each state of the return stack and the latch; counts 0 and 31, and a register that names none; an active loop. -/
theorem witness_LaneControlFlow : (lane0.lane 0).ret = [] ∧ ((inLane (fun l => { l with ret := [1, 2, 3] })).lane 0).ret.length < 4 ∧
    4 ≤ ((inLane (fun l => { l with ret := [1, 2, 3, 4] })).lane 0).ret.length ∧ laneCond 0 0 lane0 = true ∧ laneCond 0 1 lane0 = false ∧
    (lane0.get LN_PC_PC 0 < (1 : BitVec 12).toNat ∧ (31 : BitVec 12).toNat < 32 ∧ ¬ (32 : BitVec 12).toNat < 32) ∧ (lane0.lane 0).loop = none ∧
    (lane0.lane 0).latched = false ∧ ((inLane (fun l => { l with latched := true })).lane 0).latched = true := by decide

/-- R358, R359: a fifth CALL faults with code 4; the last instruction of a body is followed by its first. -/
theorem test_lane_flow : nextIs (exec (.laneCall (li 0) 9) (inLane (fun l => { l with ret := [1, 2, 3, 4] })))
      (fun t => t.get LN_STAT_FCODE 0 == 4 && t.laneState 0 == lsFault) = true ∧
    nextIs (exec (.laneNop (li 0)) (inLane (fun l => { l with loop := some ⟨0, 0, 2⟩ })))
      (fun t => t.get LN_PC_PC 0 == 0 && (t.lane 0).loop == some ⟨0, 0, 1⟩) = true := ⟨by decide, by decide⟩

theorem witness_LaneFaults : (Instr.laneNop (li 0)).laneIssue? = some (li 0) ∧ on.laneMay 0 = false ∧ lane0.laneMay 0 = true ∧
    (on.put LG_CTL_GFSTOP 0 0).flag LG_CTL_GFSTOP 0 = false ∧ (on.put LG_CTL_GFSTOP 1 3).flag LG_CTL_GFSTOP 3 = true ∧
    (let s := (laned 62 on).putBit LG_LPAIR_LOCKED 7 true 3; s.lanePairLocked 31 = true ∧ s.laneState (2 * 31) = lsRunning) := by decide

/-- R378: with GFSTOP a lane fault stops the other running lanes of the group with code 0x0C. -/
theorem test_group_stop : nextIs (exec (.laneRet (li 0)) (lanes05.put LG_CTL_GFSTOP 1 0))
    (fun t => t.get LN_STAT_FCODE 0 == 4 && t.get LN_STAT_FCODE 5 == 0x0C && t.laneState 5 == lsFault) = true := by decide

/-- Each lane state; a load that runs for the group; a request that is granted; a CRC pass; a lane that is zeroed. -/
theorem witness_LaneSupervision : on.laneTrails 0 = false ∧ (5 : Seat).val ≠ lane0.laneOwner 0 ∧ on.laneState 0 = lsHalted ∧ lane0.laneState 0 = lsRunning ∧
    (on.put LN_STAT_STATE lsFault 0).laneState 0 = lsFault ∧ (on.groups[0]!).load = none ∧ (on.lane 0).zeroing = false ∧
    (0x2000 : Word32).toNat % 8192 = 0 ∧ (0x1FFF : Word32).toNat % 8192 ≠ 0 ∧
    (let s := ((on.put SEAT_LANE_OWNER 3 0).put PWC_TGSHARE_SHARE 10 3).put DEAL_LOCK_LOCK 1;
      s.laneOwner 0 ≠ 0 ∧ ((s.lanePair 0).map (fun m => tokenCost (.lane m))).sum + s.shareHeld 3 ≤ s.share 3) ∧
    (let s := { on.put LN_STAT_STATE lsStarting 0 with tokenQueue := [⟨[.lane 0], 0, 6, false⟩] };
      s.laneState 0 = lsStarting ∧ (s.tokenQueue.find? (fun q => q.who.contains (.lane 0))).any (fun q => s.grantable q) = true) ∧
    (on.put LN_CRCLEN_BUSY 1 63).flag LN_CRCLEN_BUSY 63 = true := by decide

/-- R376: a program word is written only while its lane is stopped. -/
theorem test_pm_write : nextIs (exec (.lnProgramWrite 3 0 4095 7) lane0) (fun t => t.flag LN_STAT_PMWERR 0 && (t.lane 0).pm == []) = true ∧
    nextIs (exec (.lnProgramWrite 3 0 4095 7) (on.put SEAT_LANE_OWNER 3 0)) (fun t => !t.flag LN_STAT_PMWERR 0 && (t.lane 0).pm == [(4095, 7)]) = true :=
  ⟨by decide, by decide⟩

/-- A group of seat 3, its sources; a lane that waits, one that is latched; the divider at its count; a load of one word and one that fails. -/
def grouped : State := (List.range 16).foldl (fun s n => s.put SEAT_LANE_OWNER 3 n) on
theorem witness_LaneGroups : grouped.groupOwner 0 = 3 ∧ (5 : Seat).val ≠ grouped.groupOwner 0 ∧ (grouped.groups[0]!).load = none ∧
    ((0 : Word32).toNat / 2 ^ 30 = 0) ∧ (0xC01F0000 : Word32).toNat / 2 ^ 16 % 64 = 31 ∧ grouped.flag LG_STAT_LDBUSY 0 = false ∧
    lane0.laneTrails 0 = false ∧ lane0.laneState 0 = lsRunning ∧ lane0.flag LN_STAT_WAIT 0 = false ∧ (lane0.lane 0).latched = false ∧
    (lane0.put LN_STAT_WAIT 1 0).flag LN_STAT_WAIT 0 = true ∧ (on.groups[3]!).div < (on.put LG_SYNC_DIV 1 3).get LG_SYNC_DIV 3 ∧
    (copyWords ⟨[0], 1, 0x10002000, 0⟩ none 256 0 on).1 = some true ∧ (copyWords ⟨[0], 1, 0x10002000, 0⟩ (some 0) 256 0 on).1 = some false := by decide

/-- R371: an event at a lane that waits lets it go on; one at a lane that has not taken the last one is counted. -/
theorem test_kick : nextIs (exec (.lgKick 0 0) (lane0.put LN_STAT_WAIT 1 0)) (fun t => !t.flag LN_STAT_WAIT 0 && t.get LN_PC_PC 0 == 1) = true ∧
    nextIs (exec (.lgKick 0 0) (inLane (fun l => { l with latched := true }))) (fun t => t.get LN_ERR_EVOVR 0 == 1) = true := ⟨by decide, by decide⟩

/-- Channel 47 runs on generator 0: K = 1 sinc stage of the shortest window. -/
def sdi : State := (((on.put SDI_CTL_EN 1 47).put SDI_CTL_ORD 1 47).put SDI_CTL_DEC 7 47).put SDI_MCLK_EN 1 0
def ones (n : Nat) : List Bool := List.replicate n true

/-- A window of the right length; a fast filter beyond its threshold; each kind of bitstream error; the largest shift. -/
theorem witness_SigmaDeltaChannels : sdi.sdiRuns 47 = true ∧ (ones 8).length = sdi.sdiK 47 * sdi.sdiR 47 ∧ (47 : Nat) ≤ 47 ∧
    (let s := ((((sdi.put SDI_FT_FEN 1 47).put SDI_FT_WIN 3 47).put SDI_FT_FORD 0 47).put SDI_FT_N 1 47).put SDI_FTHR_THI 3 47;
      s.flag SDI_FT_FEN 47 = true ∧ s.ftW 47 + s.ftN 47 ≤ (ones 4).length + 1 ∧
      (∀ v ∈ (cascade (s.ftW 47) (s.ftK 47) ((ones 4).map (fun b => if b then 1 else -1))).take (s.ftN 47),
        (BitVec.ofNat 16 (s.get SDI_FTHR_THI 47)).toInt < v ∨ v < (BitVec.ofNat 16 (s.get SDI_FTHR_TLO 47)).toInt)) ∧
    (sdi.flag SDI_STAT_TRIP 47 = false ∧ (sdi.put SDI_STAT_TRIP 1 47).flag SDI_STAT_TRIP 47 = true) ∧
    ((sdi.put SDI_BSCHK_STUCK 1 47).get SDI_BSCHK_STUCK 47 ≠ 0 ∧ (sdi.put SDI_MCLK_EN 0 0).flag SDI_MCLK_EN 0 = false ∧ sdi.flag SDI_STAT_BSERR 47 = false) ∧
    (3 : Seat).val ≠ on.sdiOwner 47 ∧ (0 : Seat).val = on.sdiOwner 47 := by decide

/-- R385: eight ones through one window of eight sum to 8; GAIN 0x4000 with SHIFT 14 leaves 8, and SEQ advances. -/
theorem test_sdi_result : nextIs (exec (.sdiResult 47 (ones 8)) ((sdi.put SDI_SCALE_GAIN 0x4000 47).put SDI_SCALE_SHIFT 14 47))
    (fun t => t.get SDI_RES_VALUE 47 == 8 && t.get SDI_RES_SEQ 47 == 1 && (t.lane 63).unread.getLsbD 47) = true := by decide +kernel

/-- Pair 23 runs with PERIOD at its least. -/
def hrp : State := (on.put HRP_STAT_RUNNING 1 23).put HRP_CTL_RUN 1 23

/-- HOLD and not; the last boundary before the commit watchdog and the one that reaches it; a start; a tripped pair that a channel holds. -/
theorem witness_PwmPairs : (959 : Nat) < 960 ∧ (959 : Nat) < 960 ∧ hrp.flag HRP_CTL_HOLD 23 = false ∧ (hrp.put HRP_CTL_HOLD 1 23).flag HRP_CTL_HOLD 23 = true ∧
    hrp.flag HRP_STAT_RUNNING 23 = true ∧ hrp.get HRP_CTL_CWD 23 = 0 ∧
    (let s := (hrp.put HRP_CTL_CWD 2 23).mapPair 23 (fun h => { h with since := 1 }); let t := shadowTransfer 23 (landCommits 23 0 s);
      (t.pair 23).updated = false ∧ t.get HRP_CTL_CWD 23 ≠ 0 ∧ t.get HRP_CTL_CWD 23 ≤ (t.pair 23).since + 1) ∧
    (let s := hrp.put HRP_CTL_CWD 3 23; let t := shadowTransfer 23 (landCommits 23 0 s);
      (t.pair 23).updated = false ∧ (t.pair 23).since + 1 < t.get HRP_CTL_CWD 23) ∧
    (let s := on.put HRP_CTL_RUN 1 23; s.flag HRP_CTL_RUN 23 = true ∧ s.flag HRP_STAT_RUNNING 23 = false ∧ s.get HRP_CTL_STSRC 23 = 0) ∧
    (let s := (sdi.put SDI_STAT_TRIP 1 47).putBit SDI_TRIPMASK_PAIRS 23 true 47; s.flag SDI_STAT_TRIP 47 = true ∧ s.bitOf SDI_TRIPMASK_PAIRS 23 47 = true) ∧
    (let s := (on.put HRP_CTL_RBEN 1 23).put HRP_STAT_SAFE 0 23; s.flag HRP_CTL_RBEN 23 = true ∧ s.flag HRP_STAT_SAFE 23 = false) ∧
    (3 : Seat).val ≠ on.hrpOwner 23 := by decide

/-- R394, R395: at a boundary a PERIOD below 960 is limited to it, a DUTY above it to it, and CLAMP shows that. -/
theorem test_hrp_limit : nextIs (exec (.hrpBoundary 23 0) ((hrp.put HRP_SHD_VALUE 5000 23 0).put HRP_SHD_PERIOD_VALUE 959 23))
    (fun t => t.get HRP_ACT_PERIOD_VALUE 23 == 960 && t.get HRP_ACT_VALUE 23 0 == 960 && t.flag HRP_STAT_CLAMP 23) = true := by decide

/-- A source signalled to the Welfen target and to none; one in service; a seat's source, and a target that its seat may name. -/
def icu : State := on.setReg ICU_SRC (2 ^ 31 + 2 ^ 24 + 15 * 2 ^ 16 + 32) 511
theorem witness_InterruptController : on.Canonical ∧ icu.signalled 32 = some 511 ∧ on.signalled 32 = none ∧ on.trailing 32 = false ∧
    (let s := { on with inSvc := [⟨511, 32, 15⟩] }; s.inSvc.find? (fun e => e.src == 511 && e.tgt == 32) = some ⟨511, 32, 15⟩) ∧
    (let s := (on.put SEAT_SRC_OWNER 3 448).put SEAT_CORE_OWNER 3 31; s.srcOwner 448 = (3 : Seat).val ∧ s.srcOwner 447 ≠ (3 : Seat).val ∧
      s.coreOwner 31 = (3 : Seat).val ∧ s.coreOwner 30 ≠ (3 : Seat).val ∧ s.seatChecking = false) ∧
    (let s := interrupted.mapCore 0 (fun c => { c with run := .stopped }); s.wouldSignal 300 0 = true ∧ s.unreachable 0 = true ∧ s.flag ICU_SRC_STR 300 = false) := by
  refine ⟨⟨by decide, by decide, by decide, by decide, by decide⟩, by decide, by decide, by decide, by decide, by decide, by decide⟩

/-- R413 to R415: a claim answers the source with its priority and puts it in service, and its completion ends that. -/
theorem test_claim : nextIs (exec (.icuClaim 32) icu)
      (fun t => t.resp == .ok (15 * 2 ^ 16 + 511) && !t.flag ICU_SRC_PEND 511 && t.flag ICU_SRC_ACT 511 && t.signalled 32 == none) = true ∧
    nextIs (exec (.icuComplete 32 511) (State.putBit { icu with inSvc := [⟨511, 32, 15⟩] } ICU_TSTAT_INSVC 15 true 32))
      (fun t => t.inSvc == [] && t.get ICU_TSTAT_INSVC 32 == 0) = true := ⟨by decide, by decide⟩

/-- Each range of codes at its ends; each reaction; a log with one place left and a full one. -/
theorem witness_FaultDecisions : (∀ c ∈ [0x20, 0x29], 0x20 ≤ c ∧ c ≤ 0x29) ∧ ¬ (0x1F = 0x09 ∨ 0x20 ≤ 0x1F ∧ 0x1F ≤ 0x29) ∧ faultClass 0x01 = some 0 ∧
    (let f : FaultLine := ⟨0x20, 0, 0, 0, false, false⟩; on.reactionOf f = 3 ∧ f.test = false ∧ f.code ≠ 0x22 ∧ f.code ≠ 0x23) ∧
    on.flag SFI_STAT_DSAFE = false ∧ on.reactionOf ⟨0x01, 3, 0, 0, false, false⟩ ≠ 0 ∧ on.seatSafe 3 = false ∧ on.reactionOf ⟨0x18, 0, 0, 0, false, false⟩ = 0 ∧
    (let s : State := { on with faults := [⟨0x01, 3, 0, 0, false, false⟩] }; s.faults.take 1 ≠ []) ∧ (cust.core 0).seatid ∈ customerSeats ∧
    (∀ n ∈ customerSeats, on.seatSafe n = false) ∧ 16 ≤ (on.put SFI_FLOGIDX_NEXT 16).get SFI_FLOGIDX_NEXT ∧ (on.put SFI_FLOGIDX_NEXT 15).get SFI_FLOGIDX_NEXT < 16 := by
  decide

/-- R424, R430: a lockstep fault of seat 3 stops its cores, and its entry of the fault log holds code, seat and unit. -/
theorem test_decision : nextIs (exec (.fcuDecision 1 true) { cust with faults := [⟨0x01, 3, 7, 0, false, false⟩] })
    (fun t => t.seatSafe 3 && (t.core 0).run != .running && t.get SFI_FLOG_CODE 0 == 1 && t.get SFI_FLOG_SEAT 0 == 3 && t.get SFI_FLOG_UNIT 0 == 7) = true := by
  decide +kernel

/-- A kick on the key and one off it, at and beyond the window of a seat's watchdog; a watchdog that does not count; each temperature limit; the two
codes of lockstep pairs. -/
theorem witness_MonitorsAndWatchdogs :
    (let s := ((on.put SFI_CWDCFG_EN 1 31).put SFI_SWDCFG_EN 1 15).put SFI_SWDWIN_OPEN 1024 15;
      s.cwdCounts 31 = true ∧ s.swdCounts 15 = true ∧ (s.put SFI_SWDCNT_COUNT 1024 15).get SFI_SWDCNT_COUNT 15 ≤ s.get SFI_SWDWIN_OPEN 15 ∧
        ¬ (s.put SFI_SWDCNT_COUNT 1025 15).get SFI_SWDCNT_COUNT 15 ≤ s.get SFI_SWDWIN_OPEN 15) ∧
    on.cwdCounts 31 = false ∧ on.swdCounts 15 = false ∧ (3 : Seat).val ≠ on.coreOwner 31 ∧ on.flag BOOT_STAT_RECOV = false ∧ on.lifeCycle = lcMaker ∧
    (0x80000001 : Word32).getLsbD 31 = true ∧ on.seatLocked = false ∧ faultListed 1 = true ∧ faultListed 0 = false ∧ paired.pairLocked 0 = true ∧
    (∃ t : BitVec 8, (on.twarn : Int) < t.toInt) ∧ (∃ t : BitVec 8, t.toInt + 5 ≤ (on.twarn : Int)) := by
  refine ⟨by decide, by decide, by decide, by decide, by decide, by decide, by decide, by decide, by decide, by decide, by decide, ⟨127, by decide⟩, ⟨0x80, by decide⟩⟩

/-- R438, R442: a kick with the key reloads, and one without it is fault 0x14 of the core's owner. -/
theorem test_kicks : nextIs (exec (.watchdogKick 0 (.core 31) 0xC5) ((on.put SFI_CWDCFG_EN 1 31).put SFI_CWDCFG_RELOAD 5000 31))
      (fun t => t.get SFI_CWDCNT_COUNT 31 == 5000 && t.faults == []) = true ∧
    nextIs (exec (.watchdogKick 0 (.core 31) 0xC4) ((on.put SFI_CWDCFG_EN 1 31).put SEAT_CORE_OWNER 3 31))
      (fun t => t.faults.map (fun f => (f.code, f.seat, f.unit)) == [(0x14, 3, 31)]) = true := ⟨by decide, by decide⟩

/-! ### Witnesses and steps: start-up, fuses, resets, power -/

/-- The service processor runs stage 0. -/
def stage0 : State := { on with svp := .stage0 }
/-- A component of `type` whose two blocks have the hashes of its hash list, after `n` blocks. -/
def comp (type n : Nat) (hashes : Option (List Byte)) : BootComp :=
  ⟨type, 3, 0x100000, 0, 8192, 0x200000, 0x10002000, Config.shake256 64 (on.flashBytes 0 0x200000 64), hashes, n, none⟩
/-- Hash list of a component whose flash is erased: the hash of each padded block with its number. -/
def goodHashes : List Byte := Config.shake256 32 (le64 0 ++ padBlock (on.flashBytes 0 0x100000 4096))
def imaged (svp : SvpRun) (ms : Nat) (l : List BootComp) : State := { on.put BOOT_STAT_MS ms with svp := svp, image := some ⟨false, 0, false, 1, 1, 1, l⟩ }

/-- Stage 0 with the hash fuse not written, and with it damaged; the boot memory open and locked; both slots erased; recovery entered; each
life-cycle state that erases. -/
theorem witness_StartUpAndImageChoice :
    (let s : State := { on with svp := .held }; s.flag SFI_STAT_DSAFE = false ∧ s.get BOOT_STAT_REASON ≠ 0x32 ∧ 0x40 ∉ s.fuseWritten) ∧
    (let s : State := { on with svp := .held, fuseWritten := [0x40], fuseDamaged := [0x40] }; 0x40 ∈ s.fuseWritten ∧ s.fieldGood 0x40 = false) ∧
    on.flag BNV_STAT_S0LOCK = false ∧ (on.put BNV_STAT_S0LOCK 1).flag BNV_STAT_S0LOCK = true ∧
    (stage0.svp = .stage0 ∧ stage0.get BOOT_STAT_MS = 0 ∧ stage0.image = none ∧ stage0.flag BOOT_SLOT_CHECKED 0 = false ∧ stage0.mustErase = false ∧
      stage0.lifeCycle ≠ lcEnd) ∧
    (let t := slotRecord 1 true (slotRecord 0 true stage0); t.flag BOOT_SLOT_CAND 0 = false ∧ t.flag BOOT_SLOT_CAND 1 = false) ∧
    (let t := stage0.put LCC_STATE_STATE lcReturn; t.mustErase = true ∧ t.fuseUnsafe = false) ∧ (stage0.put LCC_STATE_STATE lcEnd).mustErase = true ∧
    (stage0.put BOOT_STAT_MS 0xF).get BOOT_STAT_MS = 0xF := by decide

/-- R460: of two slots that cannot be read neither is a candidate, and BOOT.STAT shows the REASON of slot A. -/
theorem test_no_candidate : nextIs (exec (.slotSelect (Vector.replicate 2 true)) stage0)
    (fun t => t.get BOOT_STAT_REASON == 1 && t.get BOOT_STAT_MS == 0 && t.flag BOOT_SLOT_CHECKED 1) = true := by decide

/-- A hash list that is good; blocks that are good and bad; a manifest slot; each class of failure. -/
theorem witness_ImageLoading : (imaged .stage0 1 [comp 1 0 none]).loadable 0 = true ∧ (imaged .stage0 1 [comp 1 0 none]).comp 0 = some (comp 1 0 none) ∧
    Config.shake256 64 ((imaged .stage0 1 [comp 1 0 none]).flashBytes 0 (comp 1 0 none).hlOff (32 * (comp 1 0 none).nb)) = (comp 1 0 none).hlHash ∧
    (let s := imaged .stage0 1 [comp 1 1 (some goodHashes)]; s.loadable 0 = true ∧ (comp 1 1 (some goodHashes)).blocks < (comp 1 1 (some goodHashes)).nb ∧
      (comp 1 1 (some goodHashes)).blocks + 1 = (comp 1 1 (some goodHashes)).nb ∧ (comp 1 1 (some goodHashes)).hashes ≠ none) ∧
    (let s := imaged .welfen 3 []; s.lifeCycle ≠ lcProvision ∧ s.lifeCycle ≠ lcEnd ∧ s.get BOOT_STAT_MS = 3 ∧ s.get BOOT_STAT_MS ∈ [1, 2, 3]) ∧
    (let s := imaged .welfen 2 [{ comp 3 0 none with failed := some 0x11 }]; s.failureFound 0x11 0 = true) ∧ (imaged .welfen 2 []).failureFound 0x31 0 = true := by
  refine ⟨rfl, rfl, rfl, ⟨rfl, by decide, by decide, nofun⟩, by decide, ?_, by decide⟩
  rfl

/-- A programming operation that is busy, not permitted, on a field that is not blank, unsafe, and allowed; one that ends with and without a stuck fuse. -/
theorem witness_FusesAndCrypto : on.flag LCC_PSTAT_BUSY = false ∧ on.fusePermitted 1 0x40 = true ∧ on.fusePermitted 1 0x42 = false ∧ on.fuseBlank 0x40 = true ∧
    ({ on with fuseWritten := [0x40] } : State).fuseBlank 0x40 = false ∧ on.fuseUnsafe = false ∧ (on.put SFI_MON_TWARN 1).fuseUnsafe = true ∧
    (∀ i ∈ [0, 8191], i < 8192) ∧ (let s : State := { on with creJobs := [⟨false, none⟩] }; (∀ x ∈ s.creJobs, x.load = false) ∧ s.creJobs.head? = some ⟨false, none⟩) := by
  decide

/-- R477, R481: three of five group fuses are not asked for: a group is set from 17 of its 32 fuses on. -/
theorem test_group_majority : nextIs (exec (.lccOpDone []) { on with fuseOp := some ⟨2 * 256 + 1, List.range 17⟩ }) (fun t => t.fuseSet 0) = true ∧
    nextIs (exec (.lccOpDone [0]) { on with fuseOp := some ⟨2 * 256 + 1, List.range 17⟩ }) (fun t => !t.fuseSet 0 && t.get LCC_PSTAT_ERR == 5) = true :=
  ⟨by decide, by decide⟩

/-- Words 128 and 1023 of their owners; a word one write before it is worn, and a worn one. -/
theorem witness_PersistentWords : on.prsOwner 127 = 0 ∧ (on.put PRS_GOWN_OWNER 3 15).prsOwner 1023 = (3 : Seat).val ∧ on.prsOwner 1023 ≠ (3 : Seat).val ∧
    on.flag PRS_WEAR_WORN 1023 = false ∧ (on.put PRS_WEAR_WORN 1 1023).flag PRS_WEAR_WORN 1023 = true ∧ on.prs 1023 = (0 : Word32).toNat ∧ on.prs 1023 ≠ (1 : Word32).toNat ∧
    (let s := on.put PRS_WEAR_COUNT 99999999 1023; 100000000 ≤ (State.put (s.writeMem (0x05000000 + 4 * 1023) 4 1) PRS_WEAR_COUNT (s.get PRS_WEAR_COUNT 1023 + 1) 1023).get PRS_WEAR_COUNT 1023) ∧
    Memory.wf on.mem = true := by decide

/-- R492, R494: a write counts; the same value again does not. -/
theorem test_prs : nextIs (exec (.prsWrite 0 7 5) on) (fun t => t.prs 7 == 5 && t.get PRS_WEAR_COUNT 7 == 1) = true ∧
    nextIs (exec (.prsWrite 0 7 0) on) (fun t => t.get PRS_WEAR_COUNT 7 == 0 && t.resp == .ok 0) = true := ⟨by decide, by decide⟩

theorem on_canonical : on.Canonical := ⟨by decide, by decide, by decide, by decide, by decide⟩

theorem witness_SuppliesAndDeviceReset : PWC_RSTCAUSE_AONPOR.reg = PWC_RSTCAUSE ∧ on.Canonical ∧ on.fuseOp = none ∧ State.reset.device = .reset ∧
    State.reset.rails = 0xFFF ∧ State.reset.pwrEn = true ∧ ({ on with rails := 0 } : State).rails.getLsbD 3 = false ∧ on.rails.getLsbD 3 = true ∧
    (0xD0 ≤ (0xD0 : BitVec 8).toNat ∧ (0xF4 : BitVec 8).toNat ≤ 0xF4 ∧ (targetFrames 0xD0).isSome = true) := by
  refine ⟨rfl, on_canonical, rfl, rfl, rfl, rfl, by decide, by decide, by decide⟩

/-- R449, R578: the release of power-on reset starts the clock, and the locked PLL the device with DSTORE being zeroed. -/
theorem test_start : nextIs (exec (.powerOnResetRelease 0 []) State.reset) (fun t => t.device == .starting && t.flag CRG_STAT_REFOK) = true ∧
    nextIs (exec .pllLock { State.reset with device := .starting }) (fun t => t.device == .on && t.get DSTORE_INITSTAT_BUSY == 0xFFFFFFFF) = true :=
  ⟨by decide, by decide⟩

/-- Seats 1 and 15, running and drained, with and without a restart asked for; a core that the seat owns and one that it does not. -/
theorem witness_SeatReset : on.seatResetting 15 = false ∧ (on.putBit PWC_STAT_SRBUSY 14 true).seatResetting 15 = true ∧
    (let s : State := { on.putBit PWC_STAT_SRBUSY 2 true with srDrained := [3] }; s.seatResetReady 3 = true ∧ 3 ∈ s.srDrained) ∧
    (cust.core 0).seatid = 3 ∧ cust.coreOwner 1 ≠ 3 ∧ (cust.core 1).seatid ≠ 3 ∧ ({ on with restarts := [3] } : State).restarts.contains 3 = true ∧
    (on.put BOOT_STAT_MS 4).get BOOT_STAT_MS = 4 := by decide

/-- R580: a seat reset brings a core that runs the seat to reset, and quenches the seat. -/
theorem test_seat_reset : nextIs (exec (.seatReset 0 3) cust) (fun t => t.core 0 == Core.initial && t.quenched 3 && t.seatResetting 3) = true := by decide +kernel

/-- Every core in C2 and no lane or pair running. -/
def still : State := on.each (List.range 32) (fun n t => t.setCState n 2)
theorem witness_PowerStatesAndTokens :
    (let a := writeFields 0 PWC_SBCTL 0 0 0x800000FF 0xFFFFFFFF still; a.device = .on ∧ a.quiet = true) ∧ (writeFields 0 PWC_SBCTL 0 0 0x800000FF 0xFFFFFFFF on).quiet = false := by
  decide +kernel
/-- Each device state; a pending source that may wake; a share that covers a request exactly, the pool that does, and none; a slot that its seat owns. -/
theorem witness_tokens : ({ on with device := .standby } : State).svp ≠ .held ∧
    (let s := (on.put ICU_SRC_PEND 1 511).putBit PWC_WAKEEN_EN 31 true 15; s.wakePending = true) ∧ on.wakePending = false ∧
    (let s := (on.put PWC_TGSHARE_SHARE 90 3).put DEAL_LOCK_LOCK 1; ([TokenHolder.core 0].map tokenCost).sum + s.shareHeld 3 ≤ s.share 3) ∧
    ([TokenHolder.core 0].map tokenCost).sum ≤ on.poolSize ∧ (on.put PWC_TGBUDGET_TOTAL 89).poolSize < ([TokenHolder.core 0].map tokenCost).sum ∧
    (let s := on.setReg DEAL_SLOT 0x103 0 0; slotKind s.curSlot = 1 ∧ slotOwner s.curSlot = 3) ∧ slotKind on.curSlot = 0 ∧
    ((interrupted.setCState 0 2).cState 0 = 2 ∧ ((interrupted.setCState 0 2).signalPrio 0).isSome = true) ∧
    (on.put LN_STAT_STATE lsStarting 63).laneState 63 = lsStarting ∧ on.waitsTokens (.lane 63) = false ∧ on.holdsTokens (.lane 63) = false ∧
    (let s : State := { on with tokens := [⟨.core 31, 0, 0, 90⟩] }; s.clusterOn 7 = false ∧ s.holdsTokens (.core (4 * 7 + 3)) = true) := by decide +kernel

/-! ### Witnesses and steps: Welfen, networks, links, debug, registers, the machine -/

/-- A command or a response as its sender lays it out (Table WCI-1). -/
def message (cls op seat seq : Nat) (pl : List Byte) : List Byte := bytesOf (wciHeader 1 cls 0 op seat seq pl.length) 16 ++ pl
/-- A session in force with every feature, authenticated by the maker. -/
def member (id : SessionId) : Session := { Session.fresh id 0 with hello := true, features := 0x7F, auth := true, maker := true }
/-- Command `op` has come over ETHM, and over the chain from the manager. -/
def overEthm (op seat : Nat) (pl : List Byte := []) : State := { on with sessions := [member (.ethm 0)], wciIn := [(.ethm 0, message 1 op seat 1 pl)] }
def overUcl (op seat : Nat) : State := { on with sessions := [member (.ucl 0)], wciIn := [(.ucl 0, message 1 op seat 1 [])] }
/-- Command `op` of seat 3 lies in its mailbox. -/
def posted (op : Nat) (pl : List Byte := []) (s : State := on) : State :=
  { (s.writeBytes (mbxBase 3) (message 1 op 3 1 pl)).put MBX_REQPI_INDEX (msgSlots pl.length) 3 with sessions := [member (.mailbox 3)] }

/-- Whether command `op` of p is taken, with `q` of its message. -/
def takesNow (p : Peer) (op : Nat) (q : Incoming → Bool) (s : State) : Bool :=
  match s.headOf (sessionOf p), s.session (sessionOf p) with
  | some m, some e => s.answersWci && s.creJobs.isEmpty && m.good (sessionOf p) && m.cls == 1 && m.opcode == op && e.hello &&
      m.major == e.major && m.seq == e.nextCmd && e.kept.isEmpty && opcodeKnown op && (e.auth || op == 2) && s.mayIssueClass e (op / 256) &&
      e.features == 0x7F && s.svp == .welfen && q m &&
      (match (sessionOf p).seat? with | some n => (takeHead (sessionOf p) m s).rspRoom n 4096 | none => true)
  | _, _ => false

theorem takes_of {p : Peer} {op : Nat} {q : Incoming → Bool} {s : State} (h : takesNow p op q s = true) :
    ∃ m e, s.Takes p op m e ∧ s.Room p m (List.replicate 4096 0) ∧ q m = true := by
  unfold takesNow at h
  split at h
  · rename_i m e hm he
    simp only [Bool.and_eq_true, beq_iff_eq, Bool.or_eq_true, List.isEmpty_iff] at h
    obtain ⟨⟨⟨⟨⟨⟨⟨⟨⟨⟨⟨⟨⟨⟨⟨h1, h2⟩, h3⟩, h4⟩, h5⟩, h6⟩, h7⟩, h8⟩, h9⟩, h10⟩, h11⟩, h12⟩, h13⟩, h14⟩, h15⟩, h16⟩ := h
    refine ⟨m, e, ⟨⟨⟨h1, by simp [h2], hm⟩, h3, h4, h5, he, h6, h7, h8, by simp [h9]⟩, h10, fun _ => h11, h12, ?_, ?_⟩, ?_, h15⟩
    · intro b hb
      rw [h13]
      simp only [classFeature] at hb
      split at hb
      · rename_i hc
        obtain rfl := Option.some.inj hb
        obtain ⟨h5, h9⟩ := hc
        obtain h | h | h | h | h : op / 256 = 5 ∨ op / 256 = 6 ∨ op / 256 = 7 ∨ op / 256 = 8 ∨ op / 256 = 9 := by omega
        all_goals rw [h]; rfl
      · simp at hb
    · intro hs; rw [hs] at h14; simp at h14
    · intro n hn
      rw [hn] at h16
      simpa using h16
  · simp at h

/-- Mailbox writes at the ends: equal indices, 512 slots, one more, and back. -/
theorem witness_MailboxesAndSessions :
    (let held := fun a b : Nat => (a + 65536 - b) % 65536; held 0 0 = 0 ∧ held 512 0 ≤ 512 ∧ 512 < held 513 0 ∧ held 0 65535 ≤ 512 ∧ held 1 2 = 65535) ∧
    (Instr.ping (.ethm 0)).wci? = some (.ethm 0, 4) ∧ on.headOf (.ethm 0) = none ∧
    (∃ m, ({ on with wciIn := [(.ethm 0, message 1 4 16 1 [])] } : State).Meets (.ethm 0) m ∧ m.good (.ethm 0) = false ∧ m.cls = 1) ∧
    (∃ m, ({ on with wciIn := [(.ethm 0, message 1 4 15 1 [])] } : State).Meets (.ethm 0) m ∧ m.good (.ethm 0) = true ∧ m.opcode = 4) ∧
    (∃ m, ({ on with wciIn := [(.ethm 0, message 2 4 16 1 [])] } : State).Meets (.ethm 0) m ∧ m.good (.ethm 0) = false ∧ m.cls = 2) ∧
    (∃ m e, (overEthm 4 0).Takes (.ethm 0) 4 m e ∧ (overEthm 4 0).Room (.ethm 0) m (List.replicate 4096 0) ∧ (m.seat == 0) = true) ∧
    (∃ m e, (posted 4).Takes (.mailbox 3) 4 m e ∧ (posted 4).Room (.mailbox 3) m (List.replicate 4096 0) ∧ (m.seat == 3) = true) ∧
    (let s : State := { on with wciIn := [(.ethm 0, bytesOf (wciHeader 0 1 0 1 0 1 2) 16 ++ [0, 1])] };
      (match s.headOf (.ethm 0) with
      | some m => m.good (.ethm 0) && m.opcode == 1 && m.cls == 1 && m.major == 0 && m.minor == 0 && decide (bytesAt m.payload 0 1 ≤ 1) && decide (1 ≤ bytesAt m.payload 1 1) &&
          (helloCommand (.ethm 0) m s).isSome
      | none => false) = true) ∧
    ({ on with sessions := [{ member (.ucl 7) with unacked := [⟨0x0F01, 3, 9, 4, []⟩] }] } : State).session (.ucl 7) ≠ none ∧
    (member (.ethm 0)).auth = true ∧ (member (.ethm 0)).rxCount < (1 : Word64).toNat ∧ (0 : Word64).toNat ≤ (member (.ethm 0)).rxCount := by
  refine ⟨by decide, rfl, rfl, ⟨_, ⟨rfl, nofun, rfl⟩, by decide, by decide⟩, ⟨_, ⟨rfl, nofun, rfl⟩, by decide, by decide⟩,
    ⟨_, ⟨rfl, nofun, rfl⟩, by decide, by decide⟩, takes_of (by decide +kernel), takes_of (by decide +kernel), by decide +kernel, nofun, rfl, by decide, by decide⟩

/-- What holds of a message with no session, of one out of its sequence and of one that its sender may not send. -/
theorem witness_sessions : ({ on with wciIn := [(.ethm 0, message 1 4 0 1 [])] } : State).session (.ethm 0) = none ∧
    (let s := overEthm 4 0; ∃ m e, s.headOf (.ethm 0) = some m ∧ s.session (.ethm 0) = some e ∧ m.seq = e.nextCmd ∧ m.seq ≠ e.nextCmd + 1) ∧
    on.mayIssueClass (member (.ethm 0)) 3 = false ∧ on.mayIssueClass (member (.mailbox 3)) 3 = true ∧ on.mayIssueClass (member (.mailbox 3)) 9 = false ∧
    classFeature 9 = some 4 ∧ classFeature 10 = none ∧ ((Session.fresh (.ethm 0) 0).features.testBit 4 = false) ∧
    stage0.svp = .stage0 ∧ (stage0.put BOOT_STAT_MS 0xF).answersWci = true := by
  refine ⟨rfl, ⟨_, _, rfl, rfl, by decide, by decide⟩, ?_⟩
  decide

/-- R499: a producer index that passes 512 slots is refused and shown; one that moves raises source 259 of seat 3. -/
theorem test_mailbox_index : nextIs (exec (.mbxReqpiWrite 3 3 513) on) (fun t => t.flag MBX_STAT_REQERR 3 && t.get MBX_REQPI_INDEX 3 == 0) = true ∧
    nextIs (exec (.mbxReqpiWrite 3 3 512) on) (fun t => t.flag ICU_SRC_PEND 259 && t.get MBX_REQPI_INDEX 3 == 512) = true := ⟨by decide, by decide⟩

/-- Table WCI-3: PING is answered OK with the sender's own sequence number. -/
theorem test_ping : nextIs (exec (.ping (.ethm 0)) (overEthm 4 0)) (fun t => t.wciOut == [⟨.ethm 0, 2, 0, 4, 0, 1, []⟩] && t.wciIn == []) = true := by
  decide +kernel

/-- A manifest of seat 3 that lists comparator 31, trace region 7, balls 0, 80 and 199 and a buffer to seat 4. -/
def listed : SeatManifest := ⟨3, 1, 0, 4, 0, [(0x000D, [2, 0, 31, 0, 3, 0, 7, 0, 1, 0, 0, 0, 1, 0, 80, 0, 1, 0, 199, 0]), (0x000E, [1, 4, 9, 0, 2, 0, 0, 0])]⟩
/-- Command `op` of seat 3, which has that manifest and lane 63. -/
def claiming (op : Nat) (pl : List Byte := []) : State := posted op pl { on.put SEAT_LANE_OWNER 3 63 with manifests := [listed] }

/-- Each command is taken, over ETHM and from a mailbox; resources at the end of each range and beyond it, listed and not, held and free. -/
theorem witness_SeatAndResourceCommands :
    (∀ op ∈ [0x0004, 0x0101, 0x0102, 0x0103, 0x0201, 0x0202, 0x0203, 0x0204, 0x0902, 0x0401, 0x0402, 0x0403, 0x0003, 0x0002],
      takesNow (.ethm 0) op (fun m => m.seat == 0) (overEthm op 0) = true ∧ takesNow (.ethm 0) op (fun m => m.seat == 15) (overEthm op 15) = true) ∧
    (∀ op ∈ [0x0301, 0x0302, 0x0303, 0x0304, 0x0305, 0x0403], takesNow (.mailbox 3) op (fun m => m.seat == 3) (claiming op) = true) ∧
    (∀ x ∈ ([([2, 0, 31, 0], 2, 31), ([2, 0, 32, 0], 2, 32), ([3, 0, 7, 0], 3, 7), ([3, 0, 8, 0], 3, 8), ([1, 3, 0, 0], 1, 0), ([1, 6, 199, 0], 1, 199), ([1, 3, 200, 0], 1, 200), ([0, 0, 0, 0], 0, 0), ([4, 0, 0, 0], 4, 0)] :
      List (List Byte × Nat × Nat)), takesNow (.mailbox 3) 0x0301 (fun m => bytesAt m.payload 0 1 == x.2.1 && bytesAt m.payload 2 2 == x.2.2) (claiming 0x0301 x.1) = true) ∧
    (let s := claiming 0x0301; s.entitled 3 2 31 = true ∧ s.entitled 3 2 30 = false ∧ s.entitled 3 3 7 = true ∧ s.entitled 3 1 199 = true ∧ s.entitled 3 1 1 = false ∧
      ballOffers 0 fnGpio = true ∧ ballOffers 199 fnGpio = false ∧ s.flag PMX_OWN_HELD 0 = false ∧ s.ballFree 3 0 fnGpio = true ∧
      (s.put PMX_OWN_HELD 1 0).ballFree 4 0 fnGpio = false ∧ s.get TBS_CCCTL_OWNER 31 = 0 ∧ (s.put TBS_CCCTL_OWNER 4 31).get TBS_CCCTL_OWNER 31 ≠ 0 ∧
      xbufMatch s.manifests 3 4 9 2 = false ∧ s.seatLocked = false ∧ (s.put SEAT_LOCK_LOCK 1).seatLocked = true ∧ s.laneOwner 63 = 3 ∧ s.laneOwner 62 ≠ 3 ∧
      s.groupTaken 3 3 = false ∧ s.syncAllowed 3 0 63 = true ∧ s.syncAllowed 3 1 47 = false ∧ s.syncAllowed 3 1 48 = false ∧ (s.manifest 3).any SeatManifest.system = true) ∧
    (let s := (on.setReg PMX_OWN 0x80000033 0).put TBS_CCCTL_OWNER 3 31; (on.each [0] (fun _ t => takeBall 3 0 fnGpio 0 t)).flag PMX_OWN_HELD 0 = true ∧ s.get TBS_CCCTL_OWNER 31 = 3 ∧ s.unitBall 31 = none) ∧
    (0x58 + 3 < 0xD0 ∧ (3 : Nat) ∉ on.targetOwners 0xD0 ∧ (0 : Nat) ∈ on.targetOwners 0xF4) ∧
    (on.flag SFI_MON_TWARN = false ∧ on.get PWC_PFCTL_TARGET ≠ 2 ∧ (on.put PWC_PFCTL_TARGET 2).flag PWC_STAT_PFBUSY = false) := by
  decide +kernel

/-- Table WCI-6: seat 3 claims the comparator unit that its manifest lists, and is refused another. -/
theorem test_wci_claim : nextIs (exec (.claim (.mailbox 3) 0) (claiming 0x0301 [2, 0, 31, 0])) (fun t => t.get TBS_CCCTL_OWNER 31 == 3 && t.byte (rspRing 3 + 3) == 0) = true ∧
    nextIs (exec (.claim (.mailbox 3) 0) (claiming 0x0301 [2, 0, 30, 0])) (fun t => t.get TBS_CCCTL_OWNER 30 == 0 && t.byte (rspRing 3 + 3) != 0) = true :=
  ⟨by decide +kernel, by decide +kernel⟩

/-- R480, R586: a session that holds a nonce, and a request of one minute that passes in MAKER. -/
def nonced : Session := { member (.ethm 0) with lcNonce := some [1, 2] }
def asked : DbgRequest := ⟨1, key57, BitVec.ofNat 64 (bytesAt on.serial 0 8), 0x8002, 3, 1, sig114⟩

/-- Each command is taken; channels that are open and not, messages in order and not, a slot under update, recovery, keys and requests. What
needs a signature or a hash that passes is not shown: the functions are free. -/
theorem witness_ServiceCommands :
    (∀ op ∈ [0x0501, 0x0502, 0x0503, 0x0504, 0x0A01, 0x0A02, 0x0A03, 0x0A04], takesNow (.mailbox 3) op (fun m => m.seat == 3) (posted op) = true) ∧
    (∀ op ∈ [0x0601, 0x0602, 0x0603, 0x0701, 0x0702, 0x0703, 0x0801, 0x0802, 0x0803, 0x0804, 0x0901, 0x0902, 0x0A01, 0x0B01, 0x0B02],
      takesNow (.ethm 0) op (fun m => m.seat == 3) (overEthm op 3) = true) ∧
    (∀ op ∈ [0x0C00, 0x0CFF], takesNow (.ucl 0) op (fun m => m.seat == 3) (overUcl op 3) = true) ∧
    (let c : SafeChannel := ⟨3, 7, 1, 4, false, 100, 0, 0, 0, [], 0⟩
      let s : State := { on with safeChannels := [c] }
      let x : SafeMsg := ⟨1, 4, 0, 3, 7, 2, 0, List.replicate 1024 0⟩
      s.safeChannel 3 7 = some c ∧ s.safeChannel 3 8 = none ∧ on.flag CRE_STAT_TRNGF = false ∧ c.tx + 1 < 2 ^ 32 ∧ c.dev ≠ on.selfAddr ∧
      (x.srcDev.toNat = c.dev ∧ x.srcSeat.val = c.peer ∧ x.dstDev.toNat = 0 ∧ x.dstSeat.val = c.owner ∧ x.id.toNat = c.id) ∧ x.data.length ≤ 1024 ∧
      (100 : Nat) - x.time.toNat ≤ c.maxAge ∧ ¬ (101 : Nat) - x.time.toNat ≤ c.maxAge ∧ c.rx < x.seq.toNat ∧ c.rx + 1 < x.seq.toNat ∧ c.rx + 1 < 2 ∧
      (c.take 0 100 x true).inbox = [(true, x.data)] ∧ (c.take 0 101 x true).discarded = 1) ∧
    (let im : BootImage := ⟨true, 0, false, 1, 1, 1, [comp 3 0 (some []), { comp 3 2 (some []) with length := 8192 }]⟩
      let s : State := { on with image := some im, update := some 1 };
      s.image = some im ∧ im.recovery = true ∧ s.update = some 1 ∧ on.update = none ∧ on.image = none ∧ (comp 3 0 (some [])).nb = 2 ∧ (comp 3 0 (some [])).length = 8192) ∧
    (transitionRow lcMaker lcProvision = some (false, true) ∧ transitionRow lcMaker lcField = none ∧ transitionRow lcField lcReturn = some (true, true) ∧
      nonced.lcNonce.isSome = true ∧ (member (.ethm 0)).lcNonce = none ∧ { nonced with maker := false }.maker = false ∧ on.lifeCycle = lcMaker ∧
      (on.put LCC_STATE_STATE lcField).lifeCycle = lcField ∧ (∀ t, (some sgn).any (fun x => on.ownerSigned { x with slot := 0 } t) = false)) ∧
    (on.requestPasses asked = true ∧ on.requestPasses { asked with minutes := 0 } = false ∧ on.requestPasses { asked with minutes := 1440 } = true ∧
      on.requestPasses { asked with minutes := 1441 } = false ∧ on.vddDbg = true) ∧
    on.identitySeed.isNone = true ∧ ({ on with fuseWritten := [0x51] } : State).identitySeed.isSome = true := by
  refine ⟨by decide +kernel, by decide +kernel, by decide +kernel, by decide +kernel, ?_, ?_, by decide +kernel, by decide, by decide⟩
  · refine ⟨rfl, rfl, rfl, rfl, rfl, ?_, rfl⟩; decide
  · refine ⟨by decide, by decide, by decide, rfl, rfl, rfl, by decide, by decide, ?_⟩
    intro t; rfl

/-- R473: BEGIN, BLOCK and COMMIT name one slot under update. -/
theorem test_update : nextIs (exec (.updateCommit (.ethm 0)) { overEthm 0x0603 0 with update := some 1 }) (fun t => t.update == none) = true ∧
    nextIs (exec (.updateCommit (.ethm 0)) (overEthm 0x0603 0)) (fun t => t.update == none && (match t.wciOut with | [m] => m.status != 0 | _ => false)) = true :=
  ⟨by decide +kernel, by decide +kernel⟩

/-- Host queue of seat 3 at 0x10020000 with one descriptor of class `tc` for `len` bytes at 0x10030000, for both directions. -/
def queueing (tc len : Nat) : State :=
  (((((((seated.put ETHSW_HQSTAT_HOLD 0 3).put ETHSW_HQCFG_EN 1 3).put ETHSW_HQCFG_TCMASK 0x7F 3).put ETHSW_HQTXBASE_ADDR 0x8010 3).put ETHSW_HQRXBASE_ADDR 0x8010 3).put ETHSW_HQTXPI_INDEX 1 3).writeMem
    0x10020000 8 0x10030000).writeMem 0x10020008 8 (len + tc * 2 ^ 14 + 2 ^ 17)

/-- Ring indices at the ends; descriptors that are good, of class 7, of a class not granted, with a buffer outside the seat's table, with a
closed gate; a ring that is full; the longest frame; each speed; a controller of the system and of a seat. -/
theorem witness_TrainNetworksAndLegacyBuses :
    (let held := fun a b : Nat => (a + 65536 - b) % 65536; held 0 0 ≤ held 256 0 ∧ held 256 0 ≤ 256 ∧ 256 < held 257 0 ∧ held 0 65535 < held 5 65535) ∧
    (let s := queueing 6 4; s.hqTakes 3 = true ∧ s.flag ETHSW_HQSTAT_HOLD 3 = false ∧
      (match readDesc 3 0x10020000 s with
      | (some d, t) => d.good && d.tc == 6 && d.tsreq && d.len == 4 && (t.get ETHSW_HQCFG_TCMASK 3).testBit 6 && !(t.get ETHSW_HQCFG_TCMASK 3).testBit 7 &&
          (match readBuffer 3 d.addr d.len t with | (some l, u) => l.length == 4 && u.gates[3]!.getLsbD 6 | _ => false) &&
          (match writeBuffer 3 d.addr [1, 2, 3, 4] t with | (true, _) => true | _ => false)
      | _ => false) = true ∧ (readDesc 3 0x40000000 s).1 = none ∧ (readBuffer 3 0x40000000 1 s).1 = none ∧ (writeBuffer 3 0x40000000 [1] s).1 = false) ∧
    (queueing 7 4).hqTakes 3 = true ∧ on.hqTakes 3 = false ∧ (hqDesc (2 ^ 48) 0 0).good = false ∧ (hqDesc (2 ^ 48 - 1) (2 ^ 18 - 1) 0).good = true ∧ (hqDesc 0 0 1).good = false ∧
    (let s : State := { queueing 0 4 with gates := (queueing 0 4).gates.set 3 0x80 }; s.gates[3]!.getLsbD 0 = false) ∧
    (let s := (queueing 0 4).put ETHSW_HQRXPI_INDEX 256 3; (s.get ETHSW_HQRXPI_INDEX 3 + 65536 - s.get ETHSW_HQRXCI_INDEX 3) % 65536 = 256) ∧
    (List.replicate 9216 (0 : Byte)).length ≤ 9216 ∧ 9216 < (List.replicate 9217 (0 : Byte)).length ∧
    ((4 : Fin 5) = 4 ∧ (3 : Fin 5) ≠ 4) ∧ on.ctlOwner 0 = 0 ∧ on.seatSafe 0 = false ∧ (on.putBit SFI_SEATSAFE_SAFE 2 true).seatSafe 3 = true := by
  decide +kernel

/-- R526: the frame leaves, the descriptor is completed with STS 0x80000000, and TXEV is set; a short buffer completes with ERR. -/
theorem test_host_queue : nextIs (exec (.hqTxComplete 3 true 0) (queueing 6 4)) (fun t => t.readMem 0x1002000C 4 == 0x80000000 &&
      t.get ETHSW_HQTXCI_INDEX 3 == 1 && t.flag ETHSW_HQSTAT_TXEV 3 && t.ethSent == some ⟨0, 3, 6, [0, 0, 0, 0]⟩) = true ∧
    nextIs (exec (.frameReceive [7, 8, 9] [3]) (queueing 6 2)) (fun t => t.readMem 0x1002000C 4 == 0xC0000003 && t.byte 0x10030000 == 0) = true :=
  ⟨by decide +kernel, by decide +kernel⟩

/-- Device 5 of the main chain with ports 0 and 1 up and authenticated, its members in force. -/
def linked : State := ((((((on.put UCL_ADDR_VALID 1).put UCL_ADDR_DEV 5).put UCL_PSTAT_UP 1 0).put UCL_PSTAT_AUTH 1 0).put UCL_PSTAT_UP 1 1).put UCL_PSTAT_AUTH 1 1).put BOOT_STAT_MS 2
/-- A cell of its type with its sequence number, for device `dst`. -/
def cellOf (type : Fin 16) (dst : BitVec 12) (seq : BitVec 16) : Cell := { cell0 with type := type, dst := dst, src := 1, sseat := 3, txseq := seq }

/-- Links that are up and down; each order of a sequence number; a cell to pass on, one with no way; members that sign and do not; addresses
that agree and do not; requests, STOPs, time and ports. -/
theorem witness_ChainLinks : on.flag UCL_PSTAT_UP 0 = false ∧ linked.flag UCL_PSTAT_UP 0 = true ∧
    ((cellOf 8 5 1).type.val < 9 ∧ (cellOf 8 5 1).nak = false ∧ 9 ≤ (cellOf 9 5 1).type.val ∧ (cellOf 8 5 0).txseq = 0 ∧
      (cellOf 8 5 1).txseq.toNat = (linked.ucl.ports[(0 : Fin 4)]).rxNext ∧ (cellOf 8 5 2).txseq.toNat ≠ (linked.ucl.ports[(0 : Fin 4)]).rxNext ∧ (linked.ucl.ports[(0 : Fin 4)]).resync = false ∧
      ((linked.mapUport 0 (fun p => { p with resync := true })).ucl.ports[(0 : Fin 4)]).resync = true) ∧
    (linked.flag UCL_PSTAT_AUTH 0 = true ∧ (linked.ucl.ports[0]!).linkOnly = false ∧ linked.ownAddr = some 5 ∧ linked.membersInForce = true ∧
      linked.outPort 5 6 = some 1 ∧ linked.outPort 5 1 = some 0 ∧ (linked.put UCL_PSTAT_UP 0 1).outPort 5 6 = none) ∧
    ((4095 : Nat) < 4096 ∧ (5 : Nat) / 64 = 63 / 64 ∧ (63 : Nat) / 64 ≠ 64 / 64 ∧ (64 : Nat) / 64 ≠ 0) ∧
    (let s := (linked.put UCL_PSTAT_AUTH 0 0).put UCL_CFG_EN 1; s.flag UCL_PSTAT_UP 0 = true ∧ s.flag UCL_PSTAT_AUTH 0 = false ∧ s.flag CRE_STAT_TRNGF = false ∧ s.flag UCL_CFG_MGR = false ∧
      ({ s with ucl := { s.ucl with mgrKey := some [1] } } : State).ucl.mgrKey = some [1] ∧ [1] ≠ key57 ∧ ({ s with members := [key57] } : State).members = [key57]) := by
  decide +kernel

/-- The rest of it. -/
theorem witness_links : ((5 : Nat) = (5 : BitVec 12).toNat ∧ (5 : Nat) ≠ (6 : BitVec 12).toNat ∧ (linked.put UCL_ADDR_VALID 0).ownAddr = none ∧ (linked.put UCL_PSTAT_AUTH 1 3).flag UCL_PSTAT_AUTH 3 = true) ∧
    (let c := cellOf 1 5 0; let s : State := { linked with ucl := { linked.ucl with requests := [(0, c)] } };
      s.ucl.requests = [(0, c)] ∧ (serveRequest c s).1.isSome = true ∧ linked.ucl.requests = [] ∧ linked.outPort 5 c.src.toNat = some 0) ∧
    (linked.remote 9).dead = false ∧ (linked.setRemote { linked.remote 9 with dead := true }).remote 9 = { linked.remote 9 with dead := true } ∧
    ((0x80000000 : Word32).toNat / 2 ^ 31 = 1 ∧ (0x7FFFFFFF : Word32).toNat / 2 ^ 31 ≠ 1 ∧ (linked.put UCL_CFG_MGR 1).flag UCL_CFG_MGR = true) ∧
    (({ linked.ucl with stopLast := some (2, 6) }).stopLast = some (2, 6) ∧ 6 < (7 : Fin 8).val ∧ ¬ 6 < (0 : Fin 8).val ∧ linked.seatSafe 3 = false ∧ (linked.put UCL_STOPLOG_VALID 1).flag UCL_STOPLOG_VALID = true) ∧
    (linked.outPort 5 0 = some 0 ∧ 100 ≤ (100 : BitVec 32).toInt.natAbs ∧ (BitVec.ofInt 32 (-1000)).toInt.natAbs ≤ 1000 ∧ (linked.put BOOT_STAT_MS 4).get BOOT_STAT_MS = 4) ∧
    (let s := ((on.put UCL_CFG_EN 1).put UCL_PCFG_MODE 2 3); s.flag UCL_PSTAT_UP 3 = false ∧ (s.get UCL_PCFG_MODE 3 = 1 ∨ s.get UCL_PCFG_MODE 3 = 2) ∧ s.flag UCL_CFG_EN = true) := by
  decide +kernel

/-- R532, R534, R556: a cell with a wrong CRC is counted and NAKed; a broadcast STOP of seat 3 makes it safe and is passed on. -/
theorem test_cells : nextIs (exec (.cellReceive 0 (cellOf 8 5 1) false) linked) (fun t => t.get UCL_PERR_CRC 0 == 1 && (match t.ucl.sent with | [(0, c)] => c.nak | _ => false)) = true ∧
    nextIs (exec (.stopCell 0 0 true 0 3 0 0) linked) (fun t => t.seatSafe 3 && t.flag UCL_STOPLOG_VALID && (match t.ucl.sent with | [(1, _)] => true | _ => false)) = true :=
  ⟨by decide +kernel, by decide +kernel⟩

/-- The device in FIELD, its seat 3 granted halts and memory. -/
def fielded : State := (((on.put LCC_STATE_STATE lcField).put DBG_GRANT_VALID 1 3).put DBG_GRANT_HALT 1 3).put DBG_GRANT_MEM 1 3
/-- Core 0 halted. -/
def halted : State := enterHalt 0 on

/-- Requests that pass and fail; grants; cores of covered seats that run, are halted, are in a locked pair; each kind of CRSEL access. -/
theorem witness_DebugRightsAndHalts :
    (on.vddDbg = true ∧ on.lifeCycle ≠ lcProvision ∧ on.lifeCycle ≠ lcEnd ∧ on.requestPasses asked = true ∧ on.requestPasses { asked with minutes := 0 } = false ∧
      ({ on with nonceHeld := true } : State).nonceHeld = true ∧ ({ on with vddDbg := false } : State).vddDbg = false) ∧
    (fielded.flag DBG_GRANT_VALID 3 = true ∧ fielded.flag DBG_GRANT_VALID 15 = false) ∧ on.regAbsent DBG_CCTL 0 = false ∧ on.regAbsent DBG_CRSEL 31 = false ∧
    (on.mayHalt (on.debugSeat 0) = true ∧ (on.core 0).run ≠ .halted ∧ (on.core 0).run ≠ .stopped ∧ (halted.core 0).run = .halted ∧ fielded.mayHalt 3 = true ∧ fielded.mayHalt 4 = false) ∧
    (let s := ((halted.put LCC_STATE_STATE lcField).putBit SEAT_PAIRMODE_LOCKED 0 true).put SEAT_CORE_OWNER 3 0;
      s.lifeCycle = lcField ∧ s.pairLocked ((0 : CoreId).val / 2) = true ∧ (s.core 0).run = .halted) ∧
    (let s := core0 (fun c => { c with haltReq := true }); (s.core 0).haltReq = true ∧ s.coreRuns 0 = true ∧ (s.core 0).micro = none ∧ (s.core 0).atBoundary = true) ∧
    (let s := core0 (fun c => { c with haltReq := true, load := some ⟨.mcpy (.g 1) (.g 2) 4, [⟨0x20000000, 0x20000000, 4, .deviceStrict, true⟩], 0, false, false⟩ });
      (s.core 0).atBoundary = false) ∧
    (crselNamed 0 31 true = true ∧ crselNamed 0 32 true = false ∧ (halted.core 0).run = .halted ∧ halted.mayHalt (halted.debugSeat 0) = true ∧
      (0x80000000 : Word32).toNat.testBit 31 = true ∧ (0xC0000000 : Word32).toNat.testBit 30 = true ∧ (0x40000000 : Word32).toNat.testBit 31 = false) ∧
    (on.lifeCycle = lcMaker ∧ (fielded.lifeCycle ≠ lcMaker) ∧ fielded.granted ≠ 0 ∧ (on.put LCC_STATE_STATE lcField).granted = 0 ∧
      (match wordRead 0 0x20160000 .none false on with | (.ok _, _) => true | _ => false) = true) := by
  decide +kernel

/-- R586, R589: a request that fails grants nothing and takes the nonce away; a halt is taken at the boundary and ends the reservation. -/
theorem test_debug : nextIs (exec (.dbgauth { asked with minutes := 0 }) on) (fun t => !t.flag DBG_GRANT_VALID 1 && t.flag DBG_STAT_AUTHF && t.nonceHeld) = true ∧
    nextIs (exec (.debugHalt 0) (core0 (fun c => { c with haltReq := true, reservation := some ⟨0x10002000, 8, false⟩ })))
      (fun t => (t.core 0).run == .halted && (t.core 0).reservation == none && t.flag DBG_CCTL_HALTED 0) = true := ⟨by decide +kernel, by decide +kernel⟩

/-- An access of seat 3 that the DAM runs, for its 8 bytes at 0x10002000; a STIM packet of seat 3; region 7 of seat 3 with one unit left. -/
def damming (wr : Nat) : State :=
  (((((State.writeMem { seated with vddDbg := true } 0x10002000 8 0x1122334455667788).put DBG_DAMCTL_SEAT 3).put DBG_DAMCTL_SIZE 3).put DBG_DAMCTL_WR wr).put DBG_DAMADDR_ADDR 0x10002000).put DBG_DAMCTL_BUSY 1
def stims : State :=
  let s := ((((((seated.put TRC_RCTL_WRAP 0 7).put TRC_SCTL_STIM 1 3).put TRC_SCTL_REGION 7 3).put TRC_RCTL_OWNER 3 7).put TRC_RCTL_EN 1 7).put TRC_RWP_ADDR (0x10002000 / 64) 7).put TRC_RLIM_ADDR (0x10002000 / 64) 7
  { s with trcStim := s.trcStim.set 3 ⟨[(3, [0x80, 1, 0, 0, 0, 0, 0, 0, 0])], 0, [], 0, 0⟩ }

/-- Accesses that are allowed and not, aligned and not; a channel with no members, one with core 0; a FIFO with room for one packet and
with none; the port and a region, which stops and wraps. -/
theorem witness_DebugMemoryAndTrace : on.regAbsent DBG_DAMCTL 0 = false ∧ (damming 0).flag DBG_DAMCTL_BUSY = true ∧ on.flag DBG_DAMCTL_BUSY = false ∧
    (let t := writeFields 0 DBG_DAMCTL 0 0 0x80000300 0xFFFFFFFF on; t.damAllowed (t.get DBG_DAMCTL_SEAT) (t.flag DBG_DAMCTL_WR) = true ∧ t.get DBG_DAMADDR_ADDR % 2 ^ t.get DBG_DAMCTL_SIZE = 0) ∧
    (fielded.damAllowed 3 true = true ∧ fielded.damAllowed 4 false = false ∧ fielded.damAllowed 0 false = false) ∧
    (∀ wr ∈ [0, 1], let s := damming wr; s.vddDbg = true ∧ s.damAllowed 3 (wr == 1) = true ∧ (match checkSeat 3 0x10002000 .write s with | .ok _ => true | _ => false) = true ∧
      (match checkSeat 3 0x40000000 .read s with | .fault _ _ => true | _ => false) = true ∧
      (match damRead 3 0x10002000 8 s, damWrite 3 0x10002000 8 5 s with | (.ok v, _), (.ok _, _) => v == 0x1122334455667788 | _, _ => false) = true ∧
      (match damRead 3 0x10002000 8 (s.poisonWord 0x10002004) with | (.poison, _) => true | _ => false) = true) ∧
    ((on.put DBG_CTL_PEEK 1).flag DBG_CTL_PEEK = true ∧ isRemote 0x800000000000 = true ∧ isRemote 0x10002000 = false ∧ isLegacyFrame 0x10002000 = false) ∧
    (let s : State := { on with channels := [15] }; s.channels = [15] ∧ (∀ k < 32, s.bitOf DBG_CCTL_TRIGIN 15 k = false) ∧ (∀ g < 4, s.bitOf DBG_LGXT_CHAN 15 g = false)) ∧
    (let s := (on.put DBG_CTL_EXTOUTEN 1).put DBG_CTL_EXTOUT 15; s.flag DBG_CTL_EXTOUTEN = true ∧ s.get DBG_CTL_EXTOUT = 15) ∧
    (let s : State := { on.putBit DBG_CCTL_TRIGIN 0 true 0 with channels := [0] };
      s.bitOf DBG_CCTL_TRIGIN 0 0 = true ∧ s.mayHalt (s.debugSeat 0) = true ∧ (s.core 0).run = .running ∧ s.flag DBG_CTL_EXTOUTEN = false) ∧
    (stims.flag TRC_SCTL_STIM 3 = true ∧ (stims.traceFifo (.stim 3)).packets ≠ [] ∧ stims.regionTakes 3 7 = true ∧ on.regionTakes 3 7 = false ∧
      stims.flag TRC_SCTL_PORT 3 = false ∧ stims.get TRC_RWP_ADDR 7 = stims.get TRC_RLIM_ADDR 7 ∧ stims.flag TRC_RCTL_WRAP 7 = false ∧ (stims.put TRC_RCTL_WRAP 1 7).flag TRC_RCTL_WRAP 7 = true) ∧
    (let s := ((stims.put TRC_SCTL_PORT 1 3).put TRC_PCTL_OWNER 3).put TRC_PCTL_EN 1; s.flag TRC_SCTL_PORT 3 = true ∧ s.get TRC_PCTL_OWNER = 3 ∧ s.flag TRC_PCTL_EN = true) := by
  decide +kernel

theorem witness_trace_room : let f : TraceFifo := ⟨[(3, List.replicate 2040 0)], 0, [], 0, 0⟩; let size := fun l : List (Nat × List Byte) => (l.map (fun q => q.2.length)).sum
    f.lost = 0 ∧ size (f.packets ++ [(3, List.replicate 8 0)]) ≤ 2048 ∧ 2048 < size (f.packets ++ [(3, List.replicate 9 0)]) := by decide +kernel

/-- R596, R600: the DAM reads as seat 3; a unit of 64 bytes begins with the source and ends in padding, and the region stops at its limit. -/
theorem test_dam_and_trace : nextIs (exec .damComplete (damming 0)) (fun t => t.get DBG_DAMDATA_DATA == 0x1122334455667788 && !t.flag DBG_DAMCTL_BUSY && !t.flag DBG_DAMCTL_ERR) = true ∧
    nextIs (exec (.traceUnitWrite (.stim 3)) stims) (fun t => t.byte 0x10002001 == 0x80 && t.byte 0x1000203F == 0xFF && t.trcStopped.getLsbD 7) = true :=
  ⟨by decide +kernel, by decide +kernel⟩

/-- Each access code that the map uses; a lock that closes a field; a register of 64 bits; addresses of no frame, of a frame that is down, misaligned; the fence. -/
theorem witness_RegisterWrites :
    (∀ a ∈ [Access.rw, .rwl, .ro, .wo, .w1c, .w1s], regTable.any (fun r => r.fields.any (fun f => f.acc == a && decide (f.lo + f.w ≤ 64))) = true) ∧
    regTable.any (fun r => r.wide) = true ∧
    (let a := 0x20001000; let r := (regAt a).getD ICU_SRC; let x := 5; let m := 2 ^ 32 - 1;
      (frameTarget a).any (fun t => !on.targetDown t) = true ∧ isDevice a = true ∧ isRemote a = false ∧ a % 4 = 0 ∧ inDbg a = false ∧
      (laneMemAt a).isNone = true ∧ homeOf a = a ∧ regAt a = some r ∧ r.place a = (r.i0, r.j0, 0) ∧ r ≠ ICU_SRC ∧ r ≠ ICU_SWTRIG ∧ r ≠ ICU_COMPLETE ∧
      on.regAbsent r r.i0 = false ∧ (globalWrite 0 r r.i0 r.j0 x m on).isNone = true ∧ (laneRegWrite 0 r r.i0 r.j0 x m on).isNone = true ∧
      (systemRegWrite 0 r r.i0 r.j0 x m on).isNone = true ∧ (linkRegWrite 0 r r.i0 r.j0 x m on).isNone = true) ∧
    (isDevice 0x10000000 = false ∧ isDevice 0x20000000 = true ∧ isRemote 0x20000000 = false ∧ inDbg 0x20000000 = false) ∧
    (on.seatLocked = false ∧ (on.put SEAT_LOCK_LOCK 1).seatLocked = true ∧ (0x8000000F : Word32).toNat.testBit 31 = true ∧ (0x8000000F : Word32).toNat % 16 = 15) ∧
    (let s := ((on.put SEAT_LOCK_LOCK 1).put MMU_FBASE_PAGE 0x10010).put MMU_FLIM_PAGE 0x10010; s.fenced 0x10010000 8 = true ∧ s.fenced 0x10010FF8 8 = true ∧ s.fenced 0x10011000 8 = false ∧
      s.fenced 0x1000FFF8 8 = false ∧ isDevice 0x10010000 = false ∧ s.quenched 0 = false ∧ s.memGate 0 0x10011000 = .ok ∧ s.flag MMU_STAT_FVIOL = false) ∧
    (match checkSeat 4 0x23010010 .write seated with | .fault _ _ => true | _ => false) = true := by
  decide +kernel

/-- R26: an RWL register takes a write while its lock is open and none once it is closed. -/
theorem test_rwl : nextIs (exec (.registerWrite 0 0x20001000 false 3) on) (fun t => t.get SEAT_CORE_OWNER 0 == 3 && t.resp == .ok 0) = true ∧
    nextIs (exec (.registerWrite 0 0x20001000 false 3) (on.put SEAT_LOCK_LOCK 1)) (fun t => t.get SEAT_CORE_OWNER 0 == 0) = true ∧
    nextIs (exec (.registerWrite 3 0x20001000 false 3) on) (fun t => t.get SEAT_CORE_OWNER 0 == 0 && t.resp == .error) = true :=
  ⟨by decide +kernel, by decide +kernel, by decide +kernel⟩

/-- A queue with a command; none, in reset, while the PLL locks, and on, without a grant. -/
theorem witness_StepRunsTheFrontCommand : ({ on with pending := [.standbyTick, .offExit] } : State).pending = [.standbyTick, .offExit] ∧
    State.reset.pending = [] ∧ State.reset.device = .reset ∧ State.reset.refPhase + 1 < 200 ∧ ({ on with refPhase := 199 } : State).refPhase + 1 = 200 ∧
    (let s : State := { State.reset with device := .starting }; ∀ n ∈ customerSeats, s.flag DBG_GRANT_VALID n = false) ∧
    (on.pending = [] ∧ on.device = .on ∧ ∀ n ∈ customerSeats, on.flag DBG_GRANT_VALID n = false) := by decide +kernel

/-- R43: a tick of PER_CLK edges while the device is on. -/
theorem test_idle : nextIs (step on) (fun t => t.refPhase == 1) = true ∧ nextIs (step State.reset) (fun t => t == State.reset) = true :=
  ⟨by decide +kernel, by decide +kernel⟩

/-- A canonical state with a fuse blown, from which a step leads on. -/
theorem witness_StepKeepsCanonicalForm : ({ on with pending := [.prsWrite 0 7 5] } : State).Canonical ∧
    nextIs (step { on with pending := [.prsWrite 0 7 5] }) (fun t => decide (t.mem = [(0x0500001C, 5)])) = true :=
  ⟨⟨by decide, by decide, by decide, by decide, by decide⟩, by decide +kernel⟩

theorem witness_BlownFusesStayBlown : let s : State := { on with fuses := BitVec.ofNat 8192 (2 ^ 32 - 1), pending := [.standbyTick] };
    s.fuse 0 = true ∧ s.fuse 31 = true ∧ s.fuseSet 0 = true ∧ s.groupState = 1 ∧ nextIs (step s) (fun t => t.fuse 0) = true := by decide +kernel

/-- Memory that holds and lacks a byte; stores of no, one and eight bytes; a poisoned word of each size. -/
theorem witness_MemoryReadsBack : Memory.wf on.mem = true ∧ (on.writeMem 0x10000000 8 0x1122334455667788).readMem 0x10000000 8 = 0x1122334455667788 ∧
    (on.writeMem 0x10000000 8 0x1122334455667788).byte 0x10000000 = 0x88 ∧ (on.writeMem 0x10000000 0 5).mem = [] ∧ (0 : Nat) < 1 ∧
    ((on.poisonWord 0x10000004).writeMem 0x10000000 8 0).poison = [] ∧ ((on.poisonWord 0x10000004).writeMem 0x10000000 7 0).poison ≠ [] := by
  decide +kernel

/-- A core that may not issue; a fetch that waits and one that fails; a function code that is not ADD's; a condition that fails. -/
theorem witness_CoreInstructionChecks : (on.setCState 0 1).mayIssue 0 = false ∧ on.mayIssue 0 = true ∧ (on.core 0).rep.isNone = true ∧
    (match (fetchAt 0 (on.core 0).pc.toNat (on.putBit DSTORE_INITSTAT_BUSY 0 true)).1 with | .wait => true | _ => false) = true ∧
    (match (fetchAt 0 0x1000000000000 on).1 with | .exc _ => true | _ => false) = true ∧
    fetches 0 on = true ∧ condHolds 1 (on.core 0).flags = false ∧ (0x40 : BitVec 11).toNat % 64 = 0 ∧ (0x01 : BitVec 11).toNat % 64 ≠ 0x00 := by
  decide +kernel

end Sys2Proof.Tests
end

section
/-!
PROOFS. The step as a whole: every command and the passing of time keep what `Keeps` names (fuses, the counter of free
values, the canonical form). `exec_carries` gathers the lemmas of Laws/Carry*.lean, `step_keeps` is what a statement about
every step uses.
-/

namespace Sys2Proof.Proofs

open Sys2Proof.Machine Sys2Proof.Laws

/-- One arm per command, as in `exec`; each arm's own lemma stands under Laws/Carry*.lean. -/
theorem exec_carries {z s : State} (c : Instr) (h : Carries z s) : ResCarries z (exec c s) :=
  match c with
  | .add .. => execAdd_carries _ _ _ h
  | .sub .. => execSub_carries _ _ _ h
  | .addc .. => execAddc_carries _ _ _ h
  | .subc .. => execSubc_carries _ _ _ h
  | .and .. => execAnd_carries _ _ _ h
  | .or .. => execOr_carries _ _ _ h
  | .xor .. => execXor_carries _ _ _ h
  | .andn .. => execAndn_carries _ _ _ h
  | .shl .. => execShl_carries _ _ _ h
  | .shr .. => execShr_carries _ _ _ h
  | .sra .. => execSra_carries _ _ _ h
  | .ror .. => execRor_carries _ _ _ h
  | .min .. => execMin_carries _ _ _ h
  | .max .. => execMax_carries _ _ _ h
  | .minu .. => execMinu_carries _ _ _ h
  | .maxu .. => execMaxu_carries _ _ _ h
  | .clz .. => execClz_carries _ _ _ h
  | .popc .. => execPopc_carries _ _ _ h
  | .sextb .. => execSextb_carries _ _ _ h
  | .sexth .. => execSexth_carries _ _ _ h
  | .sextw .. => execSextw_carries _ _ _ h
  | .bswap .. => execBswap_carries _ _ _ h
  | .addw .. => execAddw_carries _ _ _ h
  | .subw .. => execSubw_carries _ _ _ h
  | .shlw .. => execShlw_carries _ _ _ h
  | .shrw .. => execShrw_carries _ _ _ h
  | .sraw .. => execSraw_carries _ _ _ h
  | .addi .. => execAddi_carries _ _ _ h
  | .andi .. => execAndi_carries _ _ _ h
  | .ori .. => execOri_carries _ _ _ h
  | .xori .. => execXori_carries _ _ _ h
  | .shi .. => execShi_carries _ _ _ h
  | .cmpi .. => execCmpi_carries _ _ _ h
  | .lsi .. => execLsi_carries _ _ _ h
  | .mul .. => execMul_carries _ _ _ h
  | .mulu .. => execMulu_carries _ _ _ h
  | .mac16 .. => execMac16_carries _ _ _ h
  | .macu16 .. => execMacu16_carries _ _ _ h
  | .mfmdH .. => execMfmdH_carries _ _ _ _ h
  | .mfmdL .. => execMfmdL_carries _ _ _ _ h
  | .mfmdA .. => execMfmdA_carries _ _ _ _ h
  | .mtmdH .. => execMtmdH_carries _ _ _ h
  | .mtmdL .. => execMtmdL_carries _ _ _ h
  | .mtmdA .. => execMtmdA_carries _ _ _ h
  | .div .. => execDiv_carries _ _ _ h
  | .divu .. => execDivu_carries _ _ _ h
  | .rem .. => execRem_carries _ _ _ h
  | .remu .. => execRemu_carries _ _ _ h
  | .fdivS .. => execFdivS_carries _ _ _ h
  | .fsqrtS .. => execFsqrtS_carries _ _ _ h
  | .fdivD .. => execFdivD_carries _ _ _ h
  | .fsqrtD .. => execFsqrtD_carries _ _ _ h
  | .longOpComplete .. => execLongOpComplete_carries _ _ _ h
  | .fadd .. => execFadd_carries _ _ _ h
  | .fsub .. => execFsub_carries _ _ _ h
  | .fmul .. => execFmul_carries _ _ _ h
  | .fmin .. => execFmin_carries _ _ _ h
  | .fmax .. => execFmax_carries _ _ _ h
  | .fabs .. => execFabs_carries _ _ _ h
  | .fneg .. => execFneg_carries _ _ _ h
  | .fcmp .. => execFcmp_carries _ _ _ h
  | .fcvtL .. => execFcvtL_carries _ _ _ h
  | .fcvtF .. => execFcvtF_carries _ _ _ h
  | .fcvtX .. => execFcvtX_carries _ _ _ h
  | .ldb .. => execLdb_carries _ _ _ _ h
  | .ldbu .. => execLdbu_carries _ _ _ _ h
  | .ldh .. => execLdh_carries _ _ _ _ h
  | .ldhu .. => execLdhu_carries _ _ _ _ h
  | .ldw .. => execLdw_carries _ _ _ _ h
  | .ldwu .. => execLdwu_carries _ _ _ _ h
  | .ldd .. => execLdd_carries _ _ _ _ h
  | .stb .. => execStb_carries _ _ _ h
  | .sth .. => execSth_carries _ _ _ h
  | .stw .. => execStw_carries _ _ _ h
  | .std .. => execStd_carries _ _ _ h
  | .ldst .. => execLdst_carries _ _ _ _ h
  | .ldx .. => execLdx_carries _ _ _ _ h
  | .stx .. => execStx_carries _ _ _ h
  | .swap .. => execSwap_carries _ _ _ _ _ h
  | .adda .. => execAdda_carries _ _ _ _ _ h
  | .mcpy .. => execMcpy_carries _ _ _ _ h
  | .b .. => execB_carries _ _ _ h
  | .call .. => execCall_carries _ _ _ h
  | .jmpl .. => execJmpl_carries _ _ _ h
  | .callr .. => execCallr_carries _ _ _ h
  | .retw .. => execRetw_carries _ _ _ h
  | .rep .. => execRep_carries _ _ _ h
  | .mfc .. => execMfc_carries _ _ _ h
  | .mtc .. => execMtc_carries _ _ _ h
  | .bar .. => execBar_carries _ _ _ h
  | .lbar .. => execLbar_carries _ _ _ h
  | .isync .. => execIsync_carries _ _ _ h
  | .flushw .. => execFlushw_carries _ _ _ _ h
  | .flushwA .. => execFlushwA_carries _ _ _ _ h
  | .swseat .. => execSwseat_carries _ _ _ _ h
  | .reti .. => execReti_carries _ _ _ h
  | .trap .. => execTrap_carries _ _ _ h
  | .brk .. => execBrk_carries _ _ _ h
  | .wait .. => execWait_carries _ _ _ h
  | .cmoCln .. => execCmoCln_carries _ _ _ h
  | .cmoCiv .. => execCmoCiv_carries _ _ _ h
  | .cmoInv .. => execCmoInv_carries _ _ _ h
  | .cmoFill .. => execCmoFill_carries _ _ _ h
  | .cmoClnR .. => execCmoClnR_carries _ _ _ h
  | .cmoCivR .. => execCmoCivR_carries _ _ _ h
  | .cmoInvR .. => execCmoInvR_carries _ _ _ h
  | .cmoFillR .. => execCmoFillR_carries _ _ _ h
  | .civSeat .. => execCivSeat_carries _ _ _ h
  | .invL1 .. => execInvL1_carries _ _ _ h
  | .tlbInvAll .. => execTlbInvAll_carries _ _ _ h
  | .tlbInvAsid .. => execTlbInvAsid_carries _ _ _ h
  | .tlbInvVa .. => execTlbInvVa_carries _ _ _ h
  | .tlbInvVaa .. => execTlbInvVaa_carries _ _ _ h
  | .tlbInvBroadcast .. => execTlbInvBroadcast_carries _ _ _ h
  | .pinD .. => execPinD_carries _ _ _ h
  | .pinI .. => execPinI_carries _ _ _ h
  | .unpin .. => execUnpin_carries _ _ _ h
  | .probe .. => execProbe_carries _ _ _ h
  | .twr .. => execTwr_carries _ _ _ h
  | .trd .. => execTrd_carries _ _ _ h
  | .crc .. => execCrc_carries _ _ _ _ h
  | .customerInstruction .. => execCustomerInstruction_carries _ _ _ _ _ h
  | .customerRoutineTimeout .. => execCustomerRoutineTimeout_carries _ _ h
  | .microTrap .. => execMicroTrap_carries _ _ h
  | .replicaRewrite .. => execReplicaRewrite_carries _ _ _ h
  | .mcsWordWrite .. => execMcsWordWrite_carries _ _ _ h
  | .interruptEntry .. => execInterruptEntry_carries _ _ h
  | .asyncBusErrorEntry .. => execAsyncBusErrorEntry_carries _ _ h
  | .seatSwitchEntry .. => execSeatSwitchEntry_carries _ _ h
  | .windowSpill .. => execWindowSpill_carries _ _ h
  | .windowFill .. => execWindowFill_carries _ _ h
  | .storeBufferDrain .. => execStoreBufferDrain_carries _ _ _ _ h
  | .loadResponse .. => execLoadResponse_carries _ _ _ _ h
  | .storeErrorResponse .. => execStoreErrorResponse_carries _ _ _ h
  | .lockstepMismatch .. => execLockstepMismatch_carries _ _ _ h
  | .dmAccessOverrun .. => execDmAccessOverrun_carries _ _ _ h
  | .perfCounterOverflow .. => execPerfCounterOverflow_carries _ _ _ h
  | .seatLockWrite .. => execSeatLockWrite_carries _ _ h
  | .seatLockCheckDone => execSeatLockCheckDone_carries _ h
  | .tbsCapture .. => execTbsCapture_carries _ _ _ h
  | .tbsCompareMatch .. => execTbsCompareMatch_carries _ _ h
  | .slotStart .. => execSlotStart_carries _ _ h
  | .dealLockWrite .. => execDealLockWrite_carries _ _ h
  | .dealLockActivate .. => execDealLockActivate_carries _ _ h
  | .switchOverrun .. => execSwitchOverrun_carries _ _ h
  | .flitHop .. => execFlitHop_carries _ _ _ _ _ h
  | .fabQuenchWrite .. => execFabQuenchWrite_carries _ _ _ h
  | .deadTargetTimeout .. => execDeadTargetTimeout_carries _ _ h
  | .tgtRestore .. => execTgtRestore_carries _ _ _ h
  | .tgtIsolate .. => execTgtIsolate_carries _ _ _ h
  | .lateResponse .. => execLateResponse_carries _ _ h
  | .dmcRequest .. => execDmcRequest_carries _ _ _ _ _ _ _ _ h
  | .urgencyEscalation .. => execUrgencyEscalation_carries _ _ _ h
  | .dmcSelfRefresh .. => execDmcSelfRefresh_carries _ _ _ h
  | .rowIdleClose .. => execRowIdleClose_carries _ _ _ h
  | .writeQueueDrain .. => execWriteQueueDrain_carries _ _ _ h
  | .dmcTempRead .. => execDmcTempRead_carries _ _ _ _ h
  | .dmcScrubRead .. => execDmcScrubRead_carries _ _ _ h
  | .crcAlertReplay .. => execCrcAlertReplay_carries _ _ _ h
  | .dramTrainingDone .. => execDramTrainingDone_carries _ _ _ h
  | .bsetWrite .. => execBsetWrite_carries _ _ _ _ _ h
  | .dstoreZeroDone .. => execDstoreZeroDone_carries _ _ h
  | .dstoreScrubRead .. => execDstoreScrubRead_carries _ _ _ h
  | .dstoreBcfgWrite .. => execDstoreBcfgWrite_carries _ _ _ _ h
  | .laneNop .. => execLaneNop_carries _ _ h
  | .laneAdd .. => execLaneAdd_carries _ _ _ _ _ h
  | .laneSub .. => execLaneSub_carries _ _ _ _ _ h
  | .laneAdds .. => execLaneAdds_carries _ _ _ _ _ h
  | .laneSubs .. => execLaneSubs_carries _ _ _ _ _ h
  | .laneAnd .. => execLaneAnd_carries _ _ _ _ _ h
  | .laneOr .. => execLaneOr_carries _ _ _ _ _ h
  | .laneXor .. => execLaneXor_carries _ _ _ _ _ h
  | .laneShl .. => execLaneShl_carries _ _ _ _ _ h
  | .laneShr .. => execLaneShr_carries _ _ _ _ _ h
  | .laneSra .. => execLaneSra_carries _ _ _ _ _ h
  | .laneMin .. => execLaneMin_carries _ _ _ _ _ h
  | .laneMax .. => execLaneMax_carries _ _ _ _ _ h
  | .laneAbs .. => execLaneAbs_carries _ _ _ _ h
  | .laneNeg .. => execLaneNeg_carries _ _ _ _ h
  | .laneMov .. => execLaneMov_carries _ _ _ _ h
  | .laneCmp .. => execLaneCmp_carries _ _ _ _ h
  | .laneClrs .. => execLaneClrs_carries _ _ h
  | .laneAddi .. => execLaneAddi_carries _ _ _ _ _ h
  | .laneLdi .. => execLaneLdi_carries _ _ _ _ h
  | .laneAndi .. => execLaneAndi_carries _ _ _ _ _ h
  | .laneCmpi .. => execLaneCmpi_carries _ _ _ _ h
  | .laneShi .. => execLaneShi_carries _ _ _ _ _ _ h
  | .laneLd .. => execLaneLd_carries _ _ _ _ _ _ _ h
  | .laneSt .. => execLaneSt_carries _ _ _ _ _ _ h
  | .psetBase .. => execPsetBase_carries _ _ _ _ h
  | .psetLength .. => execPsetLength_carries _ _ _ _ h
  | .psetAdvance .. => execPsetAdvance_carries _ _ _ _ h
  | .dmac .. => execDmac_carries _ _ _ _ _ _ _ _ h
  | .acld .. => execAcld_carries _ _ _ _ _ h
  | .acopClr .. => execAcopClr_carries _ _ _ h
  | .acopMov .. => execAcopMov_carries _ _ _ _ h
  | .acopAdd .. => execAcopAdd_carries _ _ _ _ h
  | .acopSub .. => execAcopSub_carries _ _ _ _ h
  | .acopNeg .. => execAcopNeg_carries _ _ _ _ h
  | .rnd .. => execRnd_carries _ _ _ _ _ h
  | .acx .. => execAcx_carries _ _ _ _ _ _ h
  | .acclp .. => execAcclp_carries _ _ _ _ h
  | .macp .. => execMacp_carries _ _ _ _ _ _ h
  | .sdird .. => execSdird_carries _ _ _ _ h
  | .sdist .. => execSdist_carries _ _ _ _ h
  | .hrpw .. => execHrpw_carries _ _ _ _ _ _ h
  | .hrpc .. => execHrpc_carries _ _ _ h
  | .xrd .. => execXrd_carries _ _ _ _ h
  | .xwr .. => execXwr_carries _ _ _ _ h
  | .mbrd .. => execMbrd_carries _ _ _ _ h
  | .mbwr .. => execMbwr_carries _ _ _ _ h
  | .fld .. => execFld_carries _ _ _ _ _ h
  | .fst .. => execFst_carries _ _ _ _ _ _ h
  | .laneTransferComplete .. => execLaneTransferComplete_carries _ _ _ _ _ h
  | .laneB .. => execLaneB_carries _ _ _ _ h
  | .laneCall .. => execLaneCall_carries _ _ _ h
  | .laneRet .. => execLaneRet_carries _ _ h
  | .loop .. => execLoop_carries _ _ _ _ _ h
  | .waite .. => execWaite_carries _ _ h
  | .sig .. => execSig_carries _ _ _ h
  | .laneHalt .. => execLaneHalt_carries _ _ h
  | .lanePairMismatch .. => execLanePairMismatch_carries _ _ h
  | .lgKick .. => execLgKick_carries _ _ _ h
  | .lgStart .. => execLgStart_carries _ _ _ _ h
  | .lgStop .. => execLgStop_carries _ _ _ _ h
  | .lgSyncWrite .. => execLgSyncWrite_carries _ _ _ _ h
  | .lgLoad .. => execLgLoad_carries _ _ _ _ h
  | .lgLoadDone .. => execLgLoadDone_carries _ _ _ h
  | .lnRun .. => execLnRun_carries _ _ _ h
  | .lnHaltRequest .. => execLnHaltRequest_carries _ _ _ h
  | .lnStep .. => execLnStep_carries _ _ _ h
  | .lnClrf .. => execLnClrf_carries _ _ _ h
  | .lnEntryWrite .. => execLnEntryWrite_carries _ _ _ _ h
  | .lnProgramWrite .. => execLnProgramWrite_carries _ _ _ _ _ h
  | .lnCrclenWrite .. => execLnCrclenWrite_carries _ _ _ _ h
  | .lnCrcDone .. => execLnCrcDone_carries _ _ _ h
  | .laneStartGrant .. => execLaneStartGrant_carries _ _ h
  | .mclkWrite .. => execMclkWrite_carries _ _ _ _ h
  | .sdiCtlWrite .. => execSdiCtlWrite_carries _ _ _ _ h
  | .sdiFtWrite .. => execSdiFtWrite_carries _ _ _ _ h
  | .sdiResult .. => execSdiResult_carries _ _ _ h
  | .sdiTrip .. => execSdiTrip_carries _ _ _ h
  | .sdiBitstreamError .. => execSdiBitstreamError_carries _ _ _ h
  | .sdiTripClear .. => execSdiTripClear_carries _ _ _ _ h
  | .hrpBoundary .. => execHrpBoundary_carries _ _ _ h
  | .hrpStart .. => execHrpStart_carries _ _ h
  | .hrpShadowWrite .. => execHrpShadowWrite_carries _ _ _ _ _ _ _ h
  | .hrpCwdExpiry .. => execHrpCwdExpiry_carries _ _ _ h
  | .hrpReadbackMismatch .. => execHrpReadbackMismatch_carries _ _ _ h
  | .hrpTrippedClear .. => execHrpTrippedClear_carries _ _ _ _ h
  | .icuEdge .. => execIcuEdge_carries _ _ h
  | .icuClaim .. => execIcuClaim_carries _ _ h
  | .icuComplete .. => execIcuComplete_carries _ _ _ h
  | .icuSrcWrite .. => execIcuSrcWrite_carries _ _ _ _ h
  | .icuSwtrig .. => execIcuSwtrig_carries _ _ _ h
  | .icuStrandedTimeout .. => execIcuStrandedTimeout_carries _ _ h
  | .fcuDecision .. => execFcuDecision_carries _ _ _ h
  | .gateSelfTest .. => execGateSelfTest_carries _ _ _ h
  | .clockMonitorWindow .. => execClockMonitorWindow_carries _ _ _ h
  | .missingReferenceEdge => execMissingReferenceEdge_carries _ h
  | .voltageMonitorFault .. => execVoltageMonitorFault_carries _ _ h
  | .temperatureSample .. => execTemperatureSample_carries _ _ h
  | .watchdogExpiry .. => execWatchdogExpiry_carries _ _ h
  | .watchdogKick .. => execWatchdogKick_carries _ _ _ _ h
  | .watchdogEnable .. => execWatchdogEnable_carries _ _ _ _ h
  | .svpWatchdogExpiry => execSvpWatchdogExpiry_carries _ h
  | .svpKick .. => execSvpKick_carries _ _ _ h
  | .sfiRelease .. => execSfiRelease_carries _ _ _ h
  | .sfiForce => execSfiForce_carries _ h
  | .faultInject .. => execFaultInject_carries _ _ _ h
  | .faultLogClear .. => execFaultLogClear_carries _ _ _ h
  | .powerOnResetRelease .. => execPowerOnResetRelease_carries _ _ _ h
  | .stage0Check => execStage0Check_carries _ h
  | .stage0WriteReject .. => execStage0WriteReject_carries _ _ _ _ h
  | .slotSelect .. => execSlotSelect_carries _ _ h
  | .hashListCheck .. => execHashListCheck_carries _ _ _ h
  | .loadBlockVerify .. => execLoadBlockVerify_carries _ _ _ _ h
  | .ms3Release .. => execMs3Release_carries _ _ h
  | .ms4Reached => execMs4Reached_carries _ h
  | .imageFailure .. => execImageFailure_carries _ _ _ h
  | .msxEnter => execMsxEnter_carries _ h
  | .noimageRepeat => execNoimageRepeat_carries _ h
  | .recoveryStart => execRecoveryStart_carries _ h
  | .erasure => execErasure_carries _ h
  | .fuseWrite .. => execFuseWrite_carries _ _ _ h
  | .fuseBlow .. => execFuseBlow_carries _ _ _ h
  | .counterRaise .. => execCounterRaise_carries _ _ _ h
  | .fieldDestroy .. => execFieldDestroy_carries _ _ _ h
  | .lccOpDone .. => execLccOpDone_carries _ _ h
  | .trngHealthFail => execTrngHealthFail_carries _ h
  | .trngRecover => execTrngRecover_carries _ h
  | .creJobDone => execCreJobDone_carries _ h
  | .prsWrite .. => execPrsWrite_carries _ _ _ _ h
  | .mbxReqpiWrite .. => execMbxReqpiWrite_carries _ _ _ _ h
  | .mbxRspciWrite .. => execMbxRspciWrite_carries _ _ _ _ h
  | .mbxRsppiWrite .. => execMbxRsppiWrite_carries _ _ _ _ h
  | .mbxReqciWrite .. => execMbxReqciWrite_carries _ _ _ _ h
  | .hello .. => execHello_carries _ _ h
  | .auth .. => execAuth_carries _ _ _ h
  | .bye .. => execBye_carries _ _ h
  | .ping .. => execPing_carries _ _ h
  | .devinfo .. => execDevinfo_carries _ _ h
  | .faultlog .. => execFaultlog_carries _ _ h
  | .seatinfo .. => execSeatinfo_carries _ _ h
  | .seatResetCommand .. => execSeatResetCommand_carries _ _ h
  | .seatSafeCommand .. => execSeatSafeCommand_carries _ _ h
  | .seatRestart .. => execSeatRestart_carries _ _ h
  | .seatStop .. => execSeatStop_carries _ _ h
  | .claim .. => execClaim_carries _ _ _ h
  | .release .. => execRelease_carries _ _ h
  | .xbuf .. => execXbuf_carries _ _ _ _ _ _ _ h
  | .lgwrite .. => execLgwrite_carries _ _ _ _ _ _ h
  | .restore .. => execRestore_carries _ _ _ h
  | .pfreq .. => execPfreq_carries _ _ _ h
  | .tokens .. => execTokens_carries _ _ h
  | .standbyCommand .. => execStandbyCommand_carries _ _ _ h
  | .safecommOpen .. => execSafecommOpen_carries _ _ _ _ _ _ _ h
  | .safecommSend .. => execSafecommSend_carries _ _ _ _ h
  | .safecommRecv .. => execSafecommRecv_carries _ _ _ _ h
  | .safecommClose .. => execSafecommClose_carries _ _ _ h
  | .updateBegin .. => execUpdateBegin_carries _ _ _ h
  | .updateBlock .. => execUpdateBlock_carries _ _ _ _ h
  | .updateCommit .. => execUpdateCommit_carries _ _ h
  | .recoveryBegin .. => execRecoveryBegin_carries _ _ _ _ _ h
  | .recoveryBlock .. => execRecoveryBlock_carries _ _ _ _ _ h
  | .recoveryEnd .. => execRecoveryEnd_carries _ _ h
  | .lcycleNonce .. => execLcycleNonce_carries _ _ h
  | .lcycleTransition .. => execLcycleTransition_carries _ _ _ _ _ h
  | .keyadd .. => execKeyadd_carries _ _ _ _ h
  | .keyrevoke .. => execKeyrevoke_carries _ _ _ _ h
  | .debugGrant .. => execDebugGrant_carries _ _ _ h
  | .debugRevoke .. => execDebugRevoke_carries _ _ h
  | .cryptoRandom .. => execCryptoRandom_carries _ _ _ h
  | .cryptoHash .. => execCryptoHash_carries _ _ _ _ h
  | .cryptoVerify .. => execCryptoVerify_carries _ _ _ _ _ _ h
  | .cryptoSign .. => execCryptoSign_carries _ _ _ _ h
  | .netcfgGet .. => execNetcfgGet_carries _ _ h
  | .netcfgSet .. => execNetcfgSet_carries _ _ _ h
  | .systemCommand .. => execSystemCommand_carries _ _ _ h
  | .noteRetransmit .. => execNoteRetransmit_carries _ _ _ h
  | .noteAck .. => execNoteAck_carries _ _ h
  | .ethmDatagram .. => execEthmDatagram_carries _ _ _ _ _ h
  | .hqTxpiWrite .. => execHqTxpiWrite_carries _ _ _ h
  | .hqRxciWrite .. => execHqRxciWrite_carries _ _ _ h
  | .hqTxComplete .. => execHqTxComplete_carries _ _ _ _ h
  | .frameReceive .. => execFrameReceive_carries _ _ _ h
  | .gateWindowOpen .. => execGateWindowOpen_carries _ _ _ h
  | .inauguration .. => execInauguration_carries _ _ h
  | .gpioReadbackMismatch .. => execGpioReadbackMismatch_carries _ _ h
  | .cellReceive .. => execCellReceive_carries _ _ _ _ h
  | .linkAuth .. => execLinkAuth_carries _ _ _ _ _ _ h
  | .assign .. => execAssign_carries _ _ _ h
  | .remoteRequest => execRemoteRequest_carries _ h
  | .remoteTimeout .. => execRemoteTimeout_carries _ _ h
  | .stoptxWrite .. => execStoptxWrite_carries _ _ _ h
  | .stopCell .. => execStopCell_carries _ _ _ _ _ _ _ _ h
  | .timeExchange .. => execTimeExchange_carries _ _ _ _ _ h
  | .portDown .. => execPortDown_carries _ _ h
  | .portUp .. => execPortUp_carries _ _ h
  | .pfctlTargetWrite .. => execPfctlTargetWrite_carries _ _ _ h
  | .levelChangeDone => execLevelChangeDone_carries _ h
  | .coreWakeC1 .. => execCoreWakeC1_carries _ _ h
  | .coreWakeC2 .. => execCoreWakeC2_carries _ _ h
  | .coreWakeC3 .. => execCoreWakeC3_carries _ _ h
  | .cctlWake .. => execCctlWake_carries _ _ _ h
  | .clusterPowerUp .. => execClusterPowerUp_carries _ _ h
  | .fioSwitch .. => execFioSwitch_carries _ _ _ h
  | .tokenRequest .. => execTokenRequest_carries _ _ h
  | .tokenGrant => execTokenGrant_carries _ h
  | .standbyEntry .. => execStandbyEntry_carries _ _ _ h
  | .offEntry .. => execOffEntry_carries _ _ _ h
  | .standbyTick => execStandbyTick_carries _ h
  | .standbyWake .. => execStandbyWake_carries _ _ h
  | .offExit => execOffExit_carries _ h
  | .porstInput => execPorstInput_carries _ h
  | .resetNInput .. => execResetNInput_carries _ _ _ h
  | .vddAonRise => execVddAonRise_carries _ h
  | .supplyPowerUp .. => execSupplyPowerUp_carries _ _ h
  | .railUndervoltageReset .. => execRailUndervoltageReset_carries _ _ h
  | .deviceReset .. => execDeviceReset_carries _ _ _ _ _ h
  | .seatReset .. => execSeatReset_carries _ _ _ h
  | .seatResetDrainDone .. => execSeatResetDrainDone_carries _ _ h
  | .seatResetComplete .. => execSeatResetComplete_carries _ _ h
  | .blockReset .. => execBlockReset_carries _ _ _ h
  | .pllLock => execPllLock_carries _ h
  | .dbgauth .. => execDbgauth_carries _ _ h
  | .dbgacc .. => execDbgacc_carries _ _ _ _ h
  | .grantExpiry .. => execGrantExpiry_carries _ _ h
  | .grantEndWrite .. => execGrantEndWrite_carries _ _ _ h
  | .dbgHaltreq .. => execDbgHaltreq_carries _ _ _ h
  | .debugHalt .. => execDebugHalt_carries _ _ h
  | .dbgResume .. => execDbgResume_carries _ _ _ h
  | .dbgStep .. => execDbgStep_carries _ _ _ h
  | .crselAccess .. => execCrselAccess_carries _ _ _ _ h
  | .damGo .. => execDamGo_carries _ _ _ h
  | .damComplete => execDamComplete_carries _ h
  | .crossTrigger => execCrossTrigger_carries _ h
  | .dbgTrigin => execDbgTrigin_carries _ h
  | .vddDbgRise => execVddDbgRise_carries _ h
  | .trst => execTrst_carries _ h
  | .traceStimWrite .. => execTraceStimWrite_carries _ _ _ _ _ h
  | .traceUnitWrite .. => execTraceUnitWrite_carries _ _ h
  | .s2inv .. => execS2inv_carries _ _ _ h
  | .fenceWriteReject .. => execFenceWriteReject_carries _ _ _ _ h
  | .registerWrite .. => execRegisterWrite_carries _ _ _ _ _ h
  | .vddDbgFall => execVddDbgFall_carries _ h
  | .nonceOffer => execNonceOffer_carries _ h
  | .laneMemoryZeroDone .. => execLaneMemoryZeroDone_carries _ _ h
  | .ethLinkChange .. => execEthLinkChange_carries _ _ _ h
  | .legacyBusReceive .. => execLegacyBusReceive_carries _ _ _ h
  | .extest .. => execExtest_carries _ _ h

theorem step_of_empty {s : State} (h : s.pending = []) : step s = idleTick s := by simp only [step, h]

theorem step_of_front {s : State} {c : Instr} {rest : List Instr} (h : s.pending = c :: rest) :
    step s = exec c { s with pending := rest } := by simp only [step, h]

/-- `Keeps` does not speak of the queue. -/
theorem keeps_of_queue {s t : State} {q : List Instr} (h : Keeps { s with pending := q } t) : Keeps s t :=
  ⟨h.fuses, h.fresh, fun hc => h.canonical ⟨hc.regs, hc.mem, hc.mcs, hc.flash, hc.poison⟩⟩

theorem step_keeps {s t : State} (h : step s = .next t) : Keeps s t := by
  cases hp : s.pending with
  | nil =>
    rw [step_of_empty hp] at h
    exact (res_next_of h (idleTick_carries s (Carries.refl s))).toKeeps
  | cons c rest =>
    rw [step_of_front hp] at h
    exact keeps_of_queue (res_next_of h (exec_carries c (Carries.refl _))).toKeeps

/-- Settles O57: the canonical form is among what `Keeps` names. -/
theorem stepKeepsCanonicalForm : Obligations.StepKeepsCanonicalForm :=
  fun _ _ hc h => (step_keeps h).canonical hc

end Sys2Proof.Proofs
end

section
/-!
PROOFS. Loads: how the loaded bytes are extended, an access whose checks pass, and the instructions that make it.
-/

namespace Sys2Proof.Proofs

open Sys2Proof.Machine Sys2Proof.Laws

/-! ### Extension -/

/-- The model extends by adding the high ones to the number; over the loaded bytes that is `signExtend`. -/
theorem extend_signed {n v : Nat} (hn : 0 < n) (hw : n ≤ 8) (hv : v < 2 ^ (8 * n)) :
    extend true n v = (BitVec.ofNat (8 * n) v).signExtend 64 := by
  have hle : 2 ^ (8 * n) ≤ 2 ^ 64 := Nat.pow_le_pow_right (by omega) (by omega)
  have hmsb : (BitVec.ofNat (8 * n) v).msb = v.testBit (8 * n - 1) := by
    rw [BitVec.msb_eq_getLsbD_last, BitVec.getLsbD_ofNat]
    simp [hn]
  apply BitVec.eq_of_toNat_eq
  rw [BitVec.toNat_signExtend, hmsb, BitVec.toNat_setWidth, BitVec.toNat_ofNat, Nat.mod_eq_of_lt hv]
  cases hb : v.testBit (8 * n - 1) with
  | false => simp [extend, hb]
  | true =>
    have hsum : 2 ^ 64 - 2 ^ (8 * n) + v < 2 ^ 64 := by omega
    simp only [extend, hb, Bool.and_self, if_true, BitVec.toNat_ofNat]
    omega

/-! ### Accesses -/

/-- The core once a load into a register has its data: `base` is the register that a post-increment form advances, with
its new value, and it is written first. -/
def loadedCore (rd : PReg) (signed : Bool) (size : Nat) (base : Option (PReg × Word64)) (d : Nat) (c : Core) : Core :=
  (match base with
    | some (b, w) => c.setP b w
    | none => c).setP rd (extend signed size d)

theorem loadParts_data {k : CoreId} {rd : PReg} {signed arrived : Bool} {size d : Nat} {base : Option (PReg × Word64)}
    {ps : List Part} {up : Upset} {s t : State} (h : readParts k up arrived ps s = (.data d, t)) :
    loadParts k (.reg rd signed size base) ps up arrived s = .done (t.mapCore k (loadedCore rd signed size base d)) := by
  simp only [loadParts, h]
  rfl

theorem loadAccess_data {k : CoreId} {rd : PReg} {signed : Bool} {size d : Nat} {base : Option (PReg × Word64)}
    {va : Word64} {ps : List Part} {up : Upset} {s t : State} (h : s.Loads k false va size up ps d t) :
    loadAccess k (.reg rd signed size base) va size up s = .done (t.mapCore k (loadedCore rd signed size base d)) := by
  rw [loadAccess_loads k _ va size up s t ps d h]
  rfl

/-- A load whose request leaves the cluster: the core holds it until its response. -/
theorem loadAccess_miss {k : CoreId} {use : LoadUse} {va : Word64} {size : Nat} {ps : List Part} {s b c t : State}
    (hprep : prepare k .read va.toNat size s = (.ok ps, b)) (hcmp : dataCompare k 1 ps b = (none, false, c))
    (hdev : devLoadReady k ps c = true) (hread : readParts k .none false ps c = (.miss, t)) :
    loadAccess k use va size .none s =
      .stall (t.mapCore k (fun c => { c with load := some ⟨use, ps, c.seatid, false, false⟩ })) := by
  simp [loadAccess, hprep, loadChecked, hcmp, hdev, loadParts, hread]

/-! ### Instructions -/

theorem loadInstr_loads (key : Instr) (signed : Bool) (size : Nat) {i : Issue} {a : IArgs} {up : Upset} {s u t : State}
    {ps : List Part} {d : Nat} (hp : i.par = false) (he : s.Executes i.core (some i.cond) 0 [a.rd, a.rs1] u)
    (h : u.Loads i.core false ((u.core i.core).reg a.rs1 + a.imm.signExtend 64) size up ps d t) :
    loadInstr key signed size i a up s = .next (retire i.core
      (t.mapCore i.core (fun c => c.setP ((u.core i.core).regAt a.rd) (extend signed size d)))) :=
  runInstr_done _ _ s u _ he rfl hp rfl (loadAccess_data h)

/-! #### LDST, by the fields of fn (Table ISA-10) -/

theorem ldst_scale (a : RArgs) : slice a.fn.toNat 0 2 = a.fn.toNat % 4 := by simp [slice]

theorem ldst_size (a : RArgs) : Machine.sizeOf (slice a.fn.toNat 2 2) = 2 ^ (a.fn.toNat / 4 % 4) := rfl

theorem ldst_extend (a : RArgs) (n d : Nat) : extend (!a.fn.getLsbD 4) n d =
    if a.fn.getLsbD 4 then BitVec.ofNat 64 d else extend true n d := by
  cases a.fn.getLsbD 4 <;> rfl

theorem ldstLegal_load {a : RArgs} (hload : a.fn.getLsbD 5 = false)
    (hsize : ¬ (a.fn.getLsbD 4 = true ∧ 2 ^ (a.fn.toNat / 4 % 4) = 8))
    (hpost : a.fn.getLsbD 6 = true → a.rs2 = 0 ∧ a.fn.toNat % 4 = 0 ∧ a.rd ≠ a.rs1) : ldstLegal a = true := by
  have hcode : (a.fn.getLsbD 4 && slice a.fn.toNat 2 2 == 3) = false := by
    cases h4 : a.fn.getLsbD 4 with
    | false => rfl
    | true =>
      have hne : slice a.fn.toNat 2 2 ≠ 3 := fun hc => hsize ⟨h4, by rw [← ldst_size, hc]; rfl⟩
      simpa using hne
  unfold ldstLegal
  cases h6 : a.fn.getLsbD 6 with
  | false => simp only [hload, Bool.false_or, hcode]; rfl
  | true =>
    obtain ⟨hrs2, hscale, hne⟩ := hpost h6
    simp only [hload, Bool.false_or, hcode, ldst_scale, hrs2, hscale, beq_false_of_ne hne]
    rfl

theorem execLdst_indexed {i : Issue} {a : RArgs} {up : Upset} {s u t : State} {ps : List Part} {d : Nat}
    (hp : i.par = false) (he : s.Executes i.core (some i.cond) 0 [a.rd, a.rs1, a.rs2] u) (hl : ldstLegal a = true)
    (hload : a.fn.getLsbD 5 = false) (h6 : a.fn.getLsbD 6 = false)
    (h : u.Loads i.core false ((u.core i.core).reg a.rs1 + ((u.core i.core).reg a.rs2 <<< (a.fn.toNat % 4)))
      (2 ^ (a.fn.toNat / 4 % 4)) up ps d t) :
    execLdst i a up s = .next (retire i.core (t.mapCore i.core (fun c =>
      c.setP ((u.core i.core).regAt a.rd) (extend (!a.fn.getLsbD 4) (2 ^ (a.fn.toNat / 4 % 4)) d)))) := by
  refine runInstr_done _ _ s u _ he hl hp rfl ?_
  simp only [hload, h6, ldst_scale, ldst_size, Bool.false_eq_true, if_false]
  exact loadAccess_data h

theorem execLdst_post {i : Issue} {a : RArgs} {up : Upset} {s u t : State} {ps : List Part} {d : Nat}
    (hp : i.par = false) (he : s.Executes i.core (some i.cond) 0 [a.rd, a.rs1, a.rs2] u) (hl : ldstLegal a = true)
    (hload : a.fn.getLsbD 5 = false) (h6 : a.fn.getLsbD 6 = true)
    (h : u.Loads i.core false ((u.core i.core).reg a.rs1) (2 ^ (a.fn.toNat / 4 % 4)) up ps d t) :
    execLdst i a up s = .next (retire i.core (t.mapCore i.core (fun c =>
      (c.setP ((u.core i.core).regAt a.rs1)
        ((u.core i.core).reg a.rs1 + BitVec.ofNat 64 (2 ^ (a.fn.toNat / 4 % 4)))).setP
        ((u.core i.core).regAt a.rd) (extend (!a.fn.getLsbD 4) (2 ^ (a.fn.toNat / 4 % 4)) d)))) := by
  refine runInstr_done _ _ s u _ he hl hp rfl ?_
  simp only [hload, h6, ldst_size, Bool.false_eq_true, if_false, if_true]
  exact loadAccess_data h

/-- The response to an outstanding load of memory that brings its data. -/
theorem execLoadResponse_data {k : CoreId} {s t : State} {l : OutLoad} {p : Part} {rd : PReg} {signed : Bool} {n d : Nat}
    (hload : (s.core k).load = some l) (huse : l.use = .reg rd signed n none) (hparts : l.parts = [p])
    (hdev : p.type.isDev = false) (herr : l.err = false) (hvoid : l.voided = false)
    (hread : readParts k .none true [p] (s.mapCore k (fun c => { c with load := none })) = (.data d, t)) :
    execLoadResponse k .ok .none s =
      .next (stopIfDue k (retire k (t.mapCore k (fun c => c.setP rd (extend signed n d))))) := by
  simp only [execLoadResponse, hload, hparts, huse, hdev, herr, hvoid]
  simp [loadParts_data hread, finishAct]
  rfl

/-- Settles O8: the immediate forms, LDST, a load that leaves the cluster, and the response to one. -/
theorem loads : Obligations.Loads := by
  refine ⟨?_, ?_, ?_, ?_⟩
  · intro i a up s u t ps d hp he k va
    refine ⟨fun hd h => ?_, fun _ h => ?_, fun hd h => ?_, fun _ h => ?_, fun hd h => ?_, fun _ h => ?_, fun hd h => ?_⟩
    · exact extend_signed (n := 1) (by decide) (by decide) hd ▸ loadInstr_loads _ true 1 hp he h
    · exact loadInstr_loads _ false 1 hp he h
    · exact extend_signed (n := 2) (by decide) (by decide) hd ▸ loadInstr_loads _ true 2 hp he h
    · exact loadInstr_loads _ false 2 hp he h
    · exact extend_signed (n := 4) (by decide) (by decide) hd ▸ loadInstr_loads _ true 4 hp he h
    · exact loadInstr_loads _ false 4 hp he h
    · have hx : extend true 8 d = BitVec.ofNat 64 d :=
        (extend_signed (by decide) (by decide) hd).trans (BitVec.signExtend_eq _)
      exact hx ▸ loadInstr_loads _ true 8 hp he h
  · intro i a up s u t ps d hp he k base size v hload hsize
    have hv : extend (!a.fn.getLsbD 4) size d = v := ldst_extend a size d
    refine ⟨fun h6 h => ?_, fun h6 hrs2 hscale hne h => ?_⟩
    · have hl := ldstLegal_load hload hsize (fun h1 => absurd h1 (by rw [h6]; decide))
      exact hv ▸ execLdst_indexed hp he hl hload h6 h
    · have hl := ldstLegal_load hload hsize (fun _ => ⟨hrs2, hscale, hne⟩)
      exact hv ▸ execLdst_post hp he hl hload h6 h
  · intro i a s u b c t ps hp he k use hprep hcmp hdev hread
    exact runInstr_stall _ _ s u _ he rfl hp rfl (loadAccess_miss hprep hcmp hdev hread)
  · intro k s t l p rd sg n d hload huse hparts hdev herr hvoid hread
    exact execLoadResponse_data hload huse hparts hdev herr hvoid hread

end Sys2Proof.Proofs
end

section
/-!
PROOFS. Memory: bytes and numbers after a store and after zeroing, and the units of poison.
-/

namespace Sys2Proof.Proofs

open Sys2Proof.Machine Sys2Proof.Laws

/-! ### Bytes -/

theorem cellGet_storeCells_outside (n : Nat) : ∀ (m : List Host.Cell) (a v b : Nat), b < a ∨ a + n ≤ b →
    cellGet memDefault b (storeCells m a v n) = cellGet memDefault b m := by
  induction n with
  | zero => exact fun _ _ _ _ _ => rfl
  | succ n ih =>
    intro m a v b hb
    rw [storeCells, ih _ _ _ _ (by omega), cellGet_cellSet_other _ (by omega)]

theorem cellGet_storeCells_inside (n : Nat) : ∀ (m : List Host.Cell) (a v i : Nat), Memory.wf m = true → i < n →
    cellGet memDefault (a + i) (storeCells m a v n) = BitVec.ofNat 8 (v / 256 ^ i) := by
  induction n with
  | zero => exact fun _ _ _ _ _ hi => absurd hi (Nat.not_lt_zero _)
  | succ n ih =>
    intro m a v i hm hi
    rw [storeCells]
    cases i with
    | zero =>
      rw [cellGet_storeCells_outside _ _ _ _ _ (by omega), Nat.add_zero, cellGet_cellSet_same _ _ hm, Nat.pow_zero,
        Nat.div_one]
    | succ i =>
      rw [show a + (i + 1) = a + 1 + i by omega, ih _ _ _ _ (cellSet_wf _ _ hm) (by omega), Nat.div_div_eq_div_mul,
        Nat.pow_succ']

theorem byte_writeMem_outside {s : State} {a n v b : Nat} (hb : b < a ∨ a + n ≤ b) :
    (s.writeMem a n v).byte b = s.byte b := cellGet_storeCells_outside n _ _ _ _ hb

theorem byte_writeMem_inside {s : State} {a n i : Nat} (v : Nat) (hs : Memory.wf s.mem = true) (hi : i < n) :
    (s.writeMem a n v).byte (a + i) = BitVec.ofNat 8 (v / 256 ^ i) := cellGet_storeCells_inside n _ _ _ _ hs hi

theorem byte_zeroMem (s : State) (a n b : Nat) :
    (s.zeroMem a n).byte b = if a ≤ b ∧ b < a + n then 0 else s.byte b := by
  simp [State.byte, State.zeroMem, cellGet_cellClear, memDefault]

/-! ### Numbers -/

theorem readMem_congr {s t : State} (n : Nat) : ∀ a : Nat, (∀ b, a ≤ b → b < a + n → t.byte b = s.byte b) →
    t.readMem a n = s.readMem a n := by
  induction n with
  | zero => exact fun _ _ => rfl
  | succ n ih =>
    intro a h
    rw [State.readMem, State.readMem, h a (by omega) (by omega),
      ih (a + 1) (fun b h1 h2 => h b (by omega) (by omega))]

theorem readMem_lt (s : State) (n : Nat) : ∀ a : Nat, s.readMem a n < 256 ^ n := by
  induction n with
  | zero => exact fun _ => Nat.one_pos
  | succ n ih =>
    intro a
    have hbyte := (s.byte a).isLt
    have hrest := ih (a + 1)
    rw [State.readMem, Nat.pow_succ']
    omega

/-- Bytes that spell `v` little-endian are read as `v`. -/
theorem readMem_of_bytes {t : State} (n : Nat) : ∀ a v : Nat, (∀ i < n, t.byte (a + i) = BitVec.ofNat 8 (v / 256 ^ i)) →
    t.readMem a n = v % 256 ^ n := by
  induction n with
  | zero => exact fun _ v _ => (Nat.mod_one v).symm
  | succ n ih =>
    intro a v h
    have hfirst : (t.byte a).toNat = v % 256 := by simpa using congrArg BitVec.toNat (h 0 (by omega))
    have hrest : t.readMem (a + 1) n = v / 256 % 256 ^ n := by
      refine ih (a + 1) (v / 256) (fun i hi => ?_)
      rw [Nat.div_div_eq_div_mul, ← Nat.pow_succ', ← h (i + 1) (by omega), show a + 1 + i = a + (i + 1) by omega]
    rw [State.readMem, hfirst, hrest, Nat.pow_succ', Nat.mod_mul]

theorem readMem_writeMem {s : State} (a n v : Nat) (hs : Memory.wf s.mem = true) :
    (s.writeMem a n v).readMem a n = v % 256 ^ n :=
  readMem_of_bytes n a v (fun _ hi => byte_writeMem_inside v hs hi)

theorem readMem_writeMem_outside {s : State} {a n b m : Nat} (v : Nat) (h : b + m ≤ a ∨ a + n ≤ b) :
    (s.writeMem a n v).readMem b m = s.readMem b m :=
  readMem_congr m b (fun _ _ _ => byte_writeMem_outside (by omega))

/-! ### Poison -/

theorem mem_poison_writeMem {s : State} {a n v p : Nat} :
    p ∈ (s.writeMem a n v).poison ↔ p ∈ s.poison ∧ ¬ (a ≤ p ∧ p + poisonSize p ≤ a + n) := by
  simp [State.writeMem, or_iff_not_imp_left]

theorem mem_poison_poisonWord {s : State} {a p : Nat} :
    p ∈ (s.poisonWord a).poison ↔ p ∈ s.poison ∨ p = poisonBase a := by
  rcases Nat.lt_trichotomy p (poisonBase a) with h | h | h
  · simp [State.poisonWord, h, h.ne, h.not_gt]
  · simp [State.poisonWord, h]
  · simp [State.poisonWord, h, h.ne', h.not_gt]

/-- A byte lies in its unit: DRAM starts at a multiple of the larger size, so the unit's base is kept at the same size. -/
theorem poisonBase_spans (a : Nat) : poisonBase a ≤ a ∧ a < poisonBase a + poisonSize (poisonBase a) := by
  unfold poisonBase poisonSize
  split
  · rw [if_pos (by omega)]; omega
  · rw [if_neg (by omega)]; omega

theorem poisoned_poisonWord (s : State) (a : Nat) {n : Nat} (hn : 0 < n) : (s.poisonWord a).poisoned a n = true := by
  obtain ⟨hlo, hhi⟩ := poisonBase_spans a
  have hmem : poisonBase a ∈ (s.poisonWord a).poison := mem_poison_poisonWord.2 (.inr rfl)
  exact List.any_eq_true.2 ⟨_, hmem, by simp only [Bool.and_eq_true, decide_eq_true_eq]; omega⟩

/-- Settles O59: bytes by induction on the store's length, numbers from their bytes, poison from its list. -/
theorem memoryReadsBack : Obligations.MemoryReadsBack := by
  refine ⟨fun s a n v hs => ⟨readMem_writeMem a n v hs, fun i hi => byte_writeMem_inside v hs hi,
    fun b hb => byte_writeMem_outside hb, storeCells_wf n _ a v hs, rfl⟩, fun s a n => ⟨fun b h1 h2 => ?_, fun b hb => ?_⟩,
    fun s a n b m => ⟨readMem_lt s m b, fun h v => readMem_writeMem_outside v h⟩, fun _ _ _ _ _ => mem_poison_writeMem,
    fun _ _ _ => mem_poison_poisonWord, fun s a _ hn => poisoned_poisonWord s a hn⟩
  · rw [byte_zeroMem, if_pos ⟨h1, h2⟩]
  · rw [byte_zeroMem, if_neg (by omega)]

end Sys2Proof.Proofs
end

section
/-!
PROOFS. The state after reset, and the register map's own reset values in it.
-/

namespace Sys2Proof.Proofs

open Sys2Proof.Machine

theorem core_reset (k : CoreId) : State.reset.core k = Core.initial := by simp [State.core, State.reset]

theorem lane_reset (n : LaneId) : State.reset.lane n.val = Lane.initial := by simp [State.lane, State.reset]

theorem canonical_reset : State.reset.Canonical where
  regs := rfl
  mem := rfl
  mcs := rfl
  flash i := by simp [State.reset, cellsWf]
  poison := .nil

/-- Nothing is listed after reset, so a register's words come from the first row of the map that covers their addresses.
Over the whole map that row is the register's own: no earlier one overlaps it. -/
theorem reg_reset : ∀ r ∈ regTable, State.reset.reg r r.i0 r.j0 = r.resetValue := by decide +kernel

theorem get_reset {f : Fld} (h : f.reg ∈ regTable) :
    State.reset.get f f.reg.i0 f.reg.j0 = slice f.reg.resetValue f.lo f.w := by rw [State.get, reg_reset _ h]

theorem lifeCycle_reset : State.reset.lifeCycle = 0 :=
  get_reset (f := LCC_STATE_STATE) (by simp [regTable, regTable4, LCC_STATE_STATE])

theorem seatLocked_reset : State.reset.seatLocked = false :=
  congrArg (· == 1) (get_reset (f := SEAT_LOCK_LOCK) (by simp [regTable, regTable0, SEAT_LOCK_LOCK]))

theorem dealLocked_reset : State.reset.dealLocked = false :=
  congrArg (· == 1) (get_reset (f := DEAL_LOCK_LOCK) (by simp [regTable, regTable0, DEAL_LOCK_LOCK]))

/-- Settles O56: the fields by computation, the registers by the check of the map. -/
theorem resetState : Obligations.ResetState := by
  refine ⟨rfl, canonical_reset, rfl, rfl, rfl, rfl, rfl, rfl, fun k => ?_, lane_reset, reg_reset, fun _ => rfl,
    fun _ => rfl, lifeCycle_reset, seatLocked_reset, dealLocked_reset⟩
  rw [core_reset]
  exact ⟨rfl, rfl, rfl, rfl, rfl⟩

end Sys2Proof.Proofs
end

section
/-!
PROOFS. A step: the command at the front of the queue, or, with nothing waiting, one PER_CLK edge.
-/

namespace Sys2Proof.Proofs

open Sys2Proof.Machine Sys2Proof.Laws

theorem step_command {c : Instr} {rest : List Instr} {s : State} (h : s.pending = c :: rest) :
    step s = exec c { s with pending := rest } := by simp only [step, h]

theorem step_idle {s : State} (h : s.pending = []) : step s = idleTick s := by simp only [step, h]

theorem each_eq_self {f : Nat → State → State} {s : State} : ∀ {l : List Nat}, (∀ n ∈ l, f n s = s) → s.each l f = s
  | [], _ => rfl
  | n :: l, h => by
    obtain ⟨hn, hl⟩ := List.forall_mem_cons.1 h
    rw [State.each, List.foldl_cons, hn]
    exact each_eq_self hl

/-- Without a debug grant no grant's minutes count. -/
theorem each_grantEdge {s : State} (h : ∀ n ∈ customerSeats, s.flag DBG_GRANT_VALID n = false) :
    s.each customerSeats grantEdge = s := each_eq_self (fun n hn => by simp [grantEdge, h n hn])

theorem watchdogEdge_between {s : State} (h : s.refPhase + 1 < 200) :
    watchdogEdge s = { s with refPhase := s.refPhase + 1 } := if_pos h

theorem idleTick_stopped {s : State} (h : s.refRuns = false) : idleTick s = .next s := by simp [idleTick, h]

/-- Between two ticks of the watchdogs, and without a debug grant, the reference clock moves its own phase alone. -/
theorem idleTick_between {s : State} (hr : s.refRuns = true)
    (hg : ∀ n ∈ customerSeats, s.flag DBG_GRANT_VALID n = false) (hp : s.refPhase + 1 < 200) :
    idleTick s = if s.device == .starting then .next { s with refPhase := s.refPhase + 1 }
      else .next (perClkEdge { s with refPhase := s.refPhase + 1, trigOut := s.trigOut - 1 }) := by
  simp only [idleTick, hr, each_grantEdge hg, watchdogEdge_between hp, Bool.not_true, Bool.false_eq_true, if_false]

/-- Settles O55: by the state of the queue, and with nothing waiting by the state of the device. -/
theorem stepRunsTheFrontCommand : Obligations.StepRunsTheFrontCommand := by
  refine ⟨fun _ _ _ => step_command, fun _ => step_idle, fun s hq hd => ?stopped, fun s hq hd hg hp => ?starting,
    fun s hq hd hg hp => ?running, fun _ _ => rfl, fun _ _ _ => rfl⟩
  case stopped =>
    have hr : s.refRuns = false := by rcases hd with hd | hd <;> simp [State.refRuns, hd]
    rw [step_idle hq, idleTick_stopped hr]
  case starting =>
    have hr : s.refRuns = true := by simp [State.refRuns, hd]
    rw [step_idle hq, idleTick_between hr hg hp, if_pos (by simp [hd])]
  case running =>
    have hr : s.refRuns = true := by rcases hd with hd | hd <;> simp [State.refRuns, hd]
    have hlocked : ¬ (s.device == .starting) = true := by rcases hd with hd | hd <;> simp [hd]
    rw [step_idle hq, idleTick_between hr hg hp, if_neg hlocked]

end Sys2Proof.Proofs
end

section
/-!
PROOFS. CLAIM, RELEASE and the other resource commands of WCI: what each answers and does, by the branches of the model.
-/

namespace Sys2Proof.Proofs

open Sys2Proof.Machine Sys2Proof.Laws

/-- The resource that a claim or a release names is of no kind, or lies beyond the last of its kind. -/
def outOfRange (kind index : Nat) : Prop :=
  kind = 0 ∨ 3 < kind ∨ kind = 1 ∧ 200 ≤ index ∨ kind = 2 ∧ 32 ≤ index ∨ kind = 3 ∧ 8 ≤ index

section Claims
variable {s : State} {seat kind f index unit : Nat}

/-! ### Claims -/

theorem claim_outOfRange (h : outOfRange kind index) : claim seat kind f index unit s = (stRange, s) := by
  unfold outOfRange at h
  match kind with
  | 0 => rfl
  | 1 => simp [claim, claimPin, show 200 ≤ index by omega]
  | 2 => simp [claim, show 32 ≤ index by omega]
  | 3 => simp [claim, show 8 ≤ index by omega]
  | _ + 4 => rfl

theorem claim_unit (hk : kind = 2) (hi : index < 32) : claim seat kind f index unit s =
    if s.entitled seat 2 index = false then (stNotent, s)
    else if s.get TBS_CCCTL_OWNER index ≠ 0 then (stBusy, s)
    else (stOk, s.put TBS_CCCTL_OWNER seat index) := by
  simp [claim, hk, Nat.not_le.2 hi]

theorem claim_region (hk : kind = 3) (hi : index < 8) : claim seat kind f index unit s =
    if s.entitled seat 3 index = false then (stNotent, s)
    else if s.get TRC_RCTL_OWNER index ≠ 0 then (stBusy, s)
    else (stOk, s.put TRC_RCTL_OWNER seat index) := by
  simp [claim, hk, Nat.not_le.2 hi]

theorem claim_pin_notOffered (hk : kind = 1) (hf : ballOffers index f = false) :
    claim seat kind f index unit s = (stRange, s) := by
  simp [claim, claimPin, hk, hf]

/-- A function other than TBS and the trace port takes one ball and nothing beside it. -/
theorem claim_pin (hk : kind = 1) (hi : index < 200) (hf : ballOffers index f = true) (ht : f ≠ fnTrace) (hb : f ≠ fnTbs) :
    claim seat kind f index unit s =
      if s.entitled seat 1 index = false then (stNotent, s)
      else if s.ballFree seat index f = false then (stBusy, s)
      else (stOk, grantBall seat f unit index s) := by
  simp [claim, claimPin, State.each, hk, hf, ht, hb, Nat.not_le.2 hi]

theorem grantBall_unheld {p : Nat} (h : s.flag PMX_OWN_HELD p = false) :
    grantBall seat f unit p s = takeBall seat p f unit s := by simp [grantBall, h]

theorem ballFree_unheld {p : Nat} (h : s.flag PMX_OWN_HELD p = false) : s.ballFree seat p f = true := by
  simp [State.ballFree, h]

/-- Another seat's ball is not free, nor is one that a function of the same or a higher rank holds. -/
theorem ballFree_held {p : Nat} (h : s.flag PMX_OWN_HELD p = true)
    (hw : s.get PMX_OWN_OWNER p ≠ seat ∨ fnRank f ≤ fnRank (s.get PMX_OWN_FUNC p)) : s.ballFree seat p f = false := by
  rcases hw with hw | hw <;> simp [State.ballFree, h, hw]

/-! ### Releases -/

theorem release_outOfRange (h : outOfRange kind index) : releaseClaim seat kind index s = (stRange, s) := by
  unfold outOfRange at h
  match kind with
  | 0 => rfl
  | 1 => simp [releaseClaim, show 200 ≤ index by omega]
  | 2 => simp [releaseClaim, show 32 ≤ index by omega]
  | 3 => simp [releaseClaim, show 8 ≤ index by omega]
  | _ + 4 => rfl

theorem release_unit (hk : kind = 2) (hi : index < 32) (ho : s.get TBS_CCCTL_OWNER index = seat)
    (hb : s.unitBall index = none) : releaseClaim seat kind index s = (stOk, s.put TBS_CCCTL_OWNER 0 index) := by
  simp [releaseClaim, hk, Nat.not_le.2 hi, ho, hb]

theorem release_region (hk : kind = 3) (hi : index < 8) (ho : s.get TRC_RCTL_OWNER index = seat) :
    releaseClaim seat kind index s = (stOk, s.put TRC_RCTL_OWNER 0 index) := by
  simp [releaseClaim, hk, Nat.not_le.2 hi, ho]

/-- A ball of a plain function goes back to its state at reset. -/
theorem dropBall_plain {p : Nat} (hr : fnRank (s.get PMX_OWN_FUNC p) < 3) (ht : s.get PMX_OWN_FUNC p ≠ fnTrace) :
    dropBall p s = s.resetInst PMX_OWN p := by
  have hb : s.get PMX_OWN_FUNC p ≠ fnTbs := fun h => absurd hr (by rw [h]; decide)
  simp [dropBall, ht, hb]

theorem release_pin (hk : kind = 1) (hi : index < 200) (hh : s.flag PMX_OWN_HELD index = true)
    (ho : s.get PMX_OWN_OWNER index = seat) (hr : fnRank (s.get PMX_OWN_FUNC index) < 3)
    (ht : s.get PMX_OWN_FUNC index ≠ fnTrace) : releaseClaim seat kind index s = (stOk, s.resetInst PMX_OWN index) := by
  have h4 : fnRank (s.get PMX_OWN_FUNC index) ≠ 4 := by omega
  simp [releaseClaim, hk, Nat.not_le.2 hi, hh, ho, h4, dropBall_plain hr ht]

end Claims

/-! ### Crossing buffers, targets and performance levels -/

theorem xbufCommand_locked {s : State} (writer reader tag pages bank : Nat) (h : s.seatLocked = true) :
    xbufCommand writer reader tag pages bank s = (stLocked, s) := by simp [xbufCommand, h]

theorem xbufCommand_unmatched {s : State} {writer reader tag pages : Nat} (bank : Nat) (h : s.seatLocked = false)
    (hm : xbufMatch s.manifests writer reader tag pages = false) :
    xbufCommand writer reader tag pages bank s = (stNotent, s) := by simp [xbufCommand, h, hm]

theorem restoreCommand_foreign {s : State} {seat t : Nat} (h : seat ∉ s.targetOwners t) :
    restoreCommand seat t s = (stNotent, s) := by simp [restoreCommand, h]

theorem restoreCommand_owned {s : State} {seat t : Nat} (h : seat ∈ s.targetOwners t) (hlo : 0xD0 ≤ t) (hhi : t ≤ 0xF4) :
    restoreCommand seat t s = (stOk, tgtWrite t 0x80000000 (blockReset t (tgtWrite t 0x40000000 s))) := by
  simp [restoreCommand, h, Nat.not_lt.2 hlo, Nat.not_lt.2 hhi]

/-- The level that a seat asks for stands behind those that the others have asked for. -/
def asksLevel (s : State) (seat level : Nat) : State :=
  { s with pfAsked := s.pfAsked.filter (·.1 != seat) ++ [(seat, level)] }

/-- The highest level that a seat has asked for. -/
def bestLevel (s : State) : Nat := s.pfAsked.foldl (fun b e => min b e.2) 3

theorem pfCommand_outOfRange {s : State} (seat : Nat) {level : Nat} (h : 3 < level) :
    pfCommand seat level s = (stRange, s) := if_pos h

theorem pfCommand_unchanged {s : State} {seat level : Nat} (hl : level ≤ 3) (h : s.flag SFI_MON_TWARN = true ∨
    s.get PWC_PFCTL_TARGET = bestLevel (asksLevel s seat level)) :
    pfCommand seat level s = (stOk, asksLevel s seat level) := by
  rw [pfCommand, if_neg (Nat.not_lt.2 hl)]
  exact if_pos (by rw [Bool.or_eq_true, beq_iff_eq]; exact h)

theorem pfCommand_changes {s : State} {seat level best : Nat} (hl : level ≤ 3)
    (hbest : bestLevel (asksLevel s seat level) = best) (hw : s.flag SFI_MON_TWARN = false)
    (hne : s.get PWC_PFCTL_TARGET ≠ best)
    (hidle : ((asksLevel s seat level).put PWC_PFCTL_TARGET best).flag PWC_STAT_PFBUSY = false) :
    pfCommand seat level s = (stOk, levelChange best ((asksLevel s seat level).put PWC_PFCTL_TARGET best)) := by
  subst hbest
  have hsame : ¬ (s.flag SFI_MON_TWARN || s.get PWC_PFCTL_TARGET == bestLevel (asksLevel s seat level)) = true := by
    simp [hw, hne]
  rw [pfCommand, if_neg (Nat.not_lt.2 hl)]
  refine (if_neg hsame).trans (congrArg (Prod.mk stOk) (if_neg ?_))
  rw [Bool.not_eq_true]
  exact hidle

/-! ### Lane groups -/

/-- `seat` owns the lanes of group `g` that `mask` names. -/
def ownsLanes (s : State) (seat g mask : Nat) : Prop := ∀ i < 16, mask.testBit i = true → s.laneOwner (16 * g + i) = seat

theorem all_maskLanes_iff {s : State} {seat g mask : Nat} :
    (maskLanes g mask).all (fun n => s.laneOwner n == seat) = true ↔ ownsLanes s seat g mask := by
  simp [maskLanes, ownsLanes, Nat.add_comm, imp_iff_not_or]

section Lanes
variable {s : State} {seat g value src : Nat}

theorem lgCommand_foreign (reg : LgReg) (h : ∀ i < 16, s.laneOwner (16 * g + i) ≠ seat) :
    lgCommand seat reg g value src s = (stNotent, s) := by
  have hany : (List.range 16).any (fun i => s.laneOwner (16 * g + i) == seat) = false := by simpa using h
  simp only [lgCommand, hany, Bool.not_false, if_true]

variable (h : ∃ i < 16, s.laneOwner (16 * g + i) = seat)
include h

theorem ownsSome : (List.range 16).any (fun i => s.laneOwner (16 * g + i) == seat) = true := by simpa using h

theorem lgCommand_stop_foreign (hm : ¬ ownsLanes s seat g (slice value 0 16)) :
    lgCommand seat .stop g value src s = (stNotent, s) := by
  simp only [lgCommand, ownsSome h, all_maskLanes_iff, hm, Bool.not_true, Bool.false_eq_true, if_false]

theorem lgCommand_stop (hm : ownsLanes s seat g (slice value 0 16)) :
    lgCommand seat .stop g value src s = (stOk, stopLanes g (slice value 0 16) s) := by
  simp only [lgCommand, ownsSome h, all_maskLanes_iff, hm, Bool.not_true, Bool.false_eq_true, if_false, if_true]

theorem lgCommand_ctl (hm : ownsLanes s seat g (slice value 0 16)) (ht : s.groupTaken seat g = false) :
    lgCommand seat .ctl g value src s = (stOk, lgCtlWrite 0 g value s) := by
  simp only [lgCommand, ownsSome h, all_maskLanes_iff.2 hm, ht, Bool.not_true, Bool.false_eq_true, if_false]

theorem lgCommand_load (hm : ownsLanes s seat g (slice value 16 16)) (ht : s.groupTaken seat g = false) :
    lgCommand seat .load g value src s = (stOk, loadWrite g seat value (s.put LG_LOADSRC_ADDR (src / 64) g)) := by
  simp only [lgCommand, ownsSome h, all_maskLanes_iff.2 hm, ht, Bool.not_true, Bool.false_eq_true, if_false]

theorem lgCommand_sync_refused (ha : s.syncAllowed seat (slice value 30 2) (slice value 16 6) = false) :
    lgCommand seat .sync g value src s = (stNotent, s) := by
  simp only [lgCommand, ownsSome h, ha, Bool.not_true, Bool.not_false, Bool.false_eq_true, if_false, if_true]

theorem lgCommand_sync (ha : s.syncAllowed seat (slice value 30 2) (slice value 16 6) = true)
    (ht : s.groupTaken seat g = false) : lgCommand seat .sync g value src s = (stOk, syncWrite g seat value s) := by
  simp only [lgCommand, ownsSome h, ha, ht, Bool.not_true, Bool.false_eq_true, if_false]

end Lanes

/-! #### Fields of a written word -/

theorem slice_low (v n : Nat) : slice v 0 n = v % 2 ^ n := by simp [slice]

/-- The top field of a word needs no upper bound of its own. -/
theorem slice_top {v lo w : Nat} (h : v < 2 ^ (lo + w)) : slice v lo w = v / 2 ^ lo :=
  Nat.mod_eq_of_lt (Nat.div_lt_of_lt_mul (Nat.pow_add .. ▸ h))

end Sys2Proof.Proofs
end

section
/-!
PROOFS. The session, seat, resource and power commands of WCI, each from the message that its session takes.
-/

namespace Sys2Proof.Proofs

open Sys2Proof.Machine Sys2Proof.Laws

section Commands
variable {p : Peer} {m : Incoming} {e : Session} {s t : State} {st : Nat} {pl : List Byte}

/-! ### Sessions -/

theorem exists_of_sessionOf_ethm {n : Nat} (h : sessionOf p = .ethm n) : ∃ k : Fin 4, p = .ethm k ∧ k.val = n := by
  cases p with
  | ethm k => exact ⟨k, rfl, SessionId.ethm.inj h⟩
  | mailbox | ucl => nomatch h

theorem seat?_isSome_iff : (sessionOf p).seat?.isSome = true ↔ ∃ n, sessionOf p = .mailbox n := by
  cases p <;> simp [sessionOf, SessionId.seat?]

theorem execAuth_begins {k : Fin 4} (h : s.Takes (.ethm k) 0x0002 m e) (ha : authBegin (.ethm k.val) s = (st, pl, t))
    (hr : t.Room (.ethm k) m pl) : exec (.auth (.ethm k) none) s = .next (answered (.ethm k) m st pl t) :=
  (runWci_answers (st := st) h _ _ (by simp only [sessionOf, ha]) hr).trans (by simp)

/-- The session counts as authenticated behind the response. -/
theorem execAuth_ends {k : Fin 4} {r : AuthReply} (h : s.Takes (.ethm k) 0x0002 m e)
    (ha : authEnd (.ethm k.val) e r s = (st, pl, t)) (hr : t.Room (.ethm k) m pl) :
    exec (.auth (.ethm k) (some r)) s = .next (if st = stOk then (answered (.ethm k) m st pl t).mapSession (.ethm k.val)
      (fun e => { e with auth := true, txCount := 0, rxCount := 0 }) else answered (.ethm k) m st pl t) :=
  runWci_answers (st := st) h _ _ (by simp only [sessionOf, ha]) hr

theorem execBye_ends (h : s.Takes p 0x0003 m e) (hr : s.Room p m []) :
    exec (.bye p) s = .next (endSession (sessionOf p) (answered p m stOk [] s)) :=
  (runWci_answers (st := stOk) h (fun _ _ s => .now stOk [] s) _ rfl hr).trans (by rw [if_pos rfl])

theorem devInfo_eq (s : State) : s.devInfo =
    s.serial ++ [BitVec.ofNat 8 s.lifeCycle] ++ bytesOf (s.reg BOOT_STAT) 4 ++ s.identitySeed.elim [] Config.ed448Public := by
  unfold State.devInfo
  cases s.identitySeed <;> rfl

/-! ### Seats -/

/-- Seat 0 is no customer seat. -/
theorem seatWci_seatZero {op : Nat} (h : s.Takes p op m e) (f : Nat → State → Nat × List Byte × State)
    (after : Nat → State → State) (hm : m.seat = 0) (hr : s.Room p m []) :
    seatWci p op f after s = .next (answered p m stRange [] s) :=
  (runWci_answers (st := stRange) h _ _ (if_pos hm) hr).trans (by rw [if_neg (by decide)])

/-- The commands that seat 0 does not take. -/
theorem seatCommand_runs {x : Nat × Instr} (hx : x ∈ [(0x0201, Instr.seatResetCommand p), (0x0202, .seatSafeCommand p),
    (0x0203, .seatRestart p), (0x0204, .seatStop p), (0x0902, .debugRevoke p)]) :
    ∃ f after, ∀ s, exec x.2 s = seatWci p x.1 f after s := by
  simp only [List.mem_cons, List.not_mem_nil, or_false] at hx
  rcases hx with rfl | rfl | rfl | rfl | rfl
  · exact ⟨fun _ s => (stOk, [], s), seatResetStart, fun _ => rfl⟩
  · exact ⟨fun _ s => (stOk, [], s), safeCommand, fun _ => rfl⟩
  · exact ⟨fun _ s => (stOk, [], s), restartCommand, fun _ => rfl⟩
  · exact ⟨fun _ s => (stOk, [], s), stopCommand, fun _ => rfl⟩
  · exact ⟨fun n s => (stOk, [], endGrant n s), fun _ t => t, fun _ => rfl⟩

/-- A command that acts behind its response. -/
theorem seatWci_acts {op : Nat} (h : s.Takes p op m e) (after : Nat → State → State) (hm : m.seat ≠ 0) (hr : s.Room p m []) :
    seatWci p op (fun _ s => (stOk, [], s)) after s = .next (after m.seat (answered p m stOk [] s)) :=
  (seatWci_answers h _ after hm rfl hr).trans (by rw [if_pos rfl])

/-! ### Resources and power -/

theorem execClaim_answers {u : Fin 32} (h : s.Takes p 0x0301 m e)
    (hc : claim m.seat (bytesAt m.payload 0 1) (bytesAt m.payload 1 1) (bytesAt m.payload 2 2) u.val s = (st, t))
    (hr : t.Room p m []) : exec (.claim p u) s = .next (answered p m st [] t) :=
  plainWci_answers h _ (by simp only [hc]) hr

theorem execRelease_answers (h : s.Takes p 0x0302 m e)
    (hc : releaseClaim m.seat (bytesAt m.payload 0 1) (bytesAt m.payload 2 2) s = (st, t))
    (hr : t.Room p m []) : exec (.release p) s = .next (answered p m st [] t) :=
  plainWci_answers h _ (by simp only [hc]) hr

theorem execXbuf_answers {w : Bool} {o : Seat} {tag : BitVec 16} {pages : Word32} {b : Fin 32} (h : s.Takes p 0x0303 m e)
    (hc : xbufCommand (if w then m.seat else o.val) (if w then o.val else m.seat) tag.toNat pages.toNat b.val s = (st, t))
    (hr : t.Room p m []) : exec (.xbuf p w o tag pages b) s = .next (answered p m st [] t) :=
  plainWci_answers h _ (by cases w <;> exact congrArg (fun a => (a.1, [], a.2)) hc) hr

theorem execLgwrite_answers {r : LgReg} {g : GroupId} {v : Word32} {src : BitVec 48} (h : s.Takes p 0x0304 m e)
    (hc : lgCommand m.seat r g.val v.toNat src.toNat s = (st, t)) (hr : t.Room p m []) :
    exec (.lgwrite p r g v src) s = .next (answered p m st [] t) :=
  plainWci_answers h _ (by simp only [hc]) hr

theorem execRestore_answers {target : BitVec 8} (h : s.Takes p 0x0305 m e)
    (hc : restoreCommand m.seat target.toNat s = (st, t)) (hr : t.Room p m []) :
    exec (.restore p target) s = .next (answered p m st [] t) :=
  plainWci_answers h _ (by simp only [hc]) hr

theorem execPfreq_answers {level : BitVec 8} (h : s.Takes p 0x0401 m e)
    (hc : pfCommand m.seat level.toNat s = (st, t)) (hr : t.Room p m []) :
    exec (.pfreq p level) s = .next (answered p m st [] t) :=
  plainWci_answers h _ (by simp only [hc]) hr

/-- STANDBY comes from a seat whose manifest does not let it. -/
def standbyDenied (p : Peer) (m : Incoming) (s : State) : Prop :=
  ∃ n, sessionOf p = .mailbox n ∧ (s.manifest m.seat).any SeatManifest.system = false

theorem standbyDenied_iff : ((sessionOf p).seat?.isSome && !(s.manifest m.seat).any SeatManifest.system) = true ↔
    standbyDenied p m s := by
  rw [Bool.and_eq_true, seat?_isSome_iff, Bool.not_eq_true', ← exists_and_right, standbyDenied]

theorem execStandby_denied {tick : BitVec 8} (h : s.Takes p 0x0403 m e) (hd : standbyDenied p m s) (hr : s.Room p m []) :
    exec (.standbyCommand p tick) s = .next (answered p m stNotent [] s) :=
  (runWci_answers h _ _ (if_pos (standbyDenied_iff.2 hd)) hr).trans (by rw [if_neg (by decide)])

theorem execStandby_quiet {tick : BitVec 8} (h : s.Takes p 0x0403 m e) (hd : ¬ standbyDenied p m s) (hq : s.quiet = true)
    (hr : s.Room p m []) : exec (.standbyCommand p tick) s = .next (sbctlWrite
      ((if bytesAt m.payload 0 1 = 1 then 0xC0000000 else 0x80000000) + tick.toNat) (answered p m stOk [] s)) :=
  (runWci_answers h _ _ ((if_neg (mt standbyDenied_iff.1 hd)).trans (if_neg (by simp [hq]))) hr).trans (by rw [if_pos rfl])

end Commands

/-- Settles O48: each command's answer is the model's for its message, and each resource rule is its own lemma. -/
theorem seatAndResourceCommands : Obligations.SeatAndResourceCommands := by
  intro p m e s
  refine ⟨?auth, execBye_ends, fun h => plainWci_answers h _ rfl, fun h hr => ?devinfo, fun h => plainWci_answers h _ rfl,
    fun h => plainWci_answers h _ rfl, ?seatZero, fun hm hr => ?seats, fun h u => ?claim, fun _ _ _ => ballFree_held,
    fun h => ?release, fun h w o tag pages b => ?xbuf, fun h r g v src => ?lgwrite, fun h tgt => ?restore,
    fun h l => ?pfreq, fun h => plainWci_answers h _ rfl, fun h tick => ?standby⟩
  case auth =>
    rintro h n hn
    obtain ⟨k, rfl, rfl⟩ := exists_of_sessionOf_ethm hn
    exact ⟨fun hr => execAuth_begins h rfl hr, fun r hr => execAuth_ends h rfl hr⟩
  case devinfo => exact plainWci_answers h _ (by rw [devInfo_eq]) hr
  case seatZero =>
    intro x hx h hm hr
    obtain ⟨f, after, hrun⟩ := seatCommand_runs hx
    rw [hrun, seatWci_seatZero h f after hm hr]
  case seats =>
    exact ⟨fun h => seatWci_acts h _ hm hr, fun h => seatWci_acts h _ hm hr, fun h => seatWci_acts h _ hm hr,
      fun h => seatWci_acts h _ hm hr⟩
  case claim =>
    refine ⟨fun hk => execClaim_answers h (claim_outOfRange hk), fun hk hi => ⟨fun he => ?_, fun he => ⟨fun ho => ?_, fun ho => ?_⟩⟩,
      fun hk hi => ⟨fun he => ?_, fun he => ⟨fun ho => ?_, fun ho => ?_⟩⟩,
      fun hk hi => ⟨fun hf => execClaim_answers h (claim_pin_notOffered hk hf),
        fun hf ht hb => ⟨fun he => ?_, fun he => ⟨fun hfree => ?_, fun hh => ?_⟩⟩⟩⟩
    · exact execClaim_answers h (by simp [claim_unit hk hi, he])
    · exact execClaim_answers h (by simp [claim_unit hk hi, he, ho])
    · exact execClaim_answers h (by simp [claim_unit hk hi, he, ho])
    · exact execClaim_answers h (by simp [claim_region hk hi, he])
    · exact execClaim_answers h (by simp [claim_region hk hi, he, ho])
    · exact execClaim_answers h (by simp [claim_region hk hi, he, ho])
    · exact execClaim_answers h (by simp [claim_pin hk hi hf ht hb, he])
    · exact execClaim_answers h (by simp [claim_pin hk hi hf ht hb, he, hfree])
    · exact execClaim_answers h (by simp [claim_pin hk hi hf ht hb, he, ballFree_unheld hh, grantBall_unheld hh])
  case release =>
    exact ⟨fun hk => execRelease_answers h (release_outOfRange hk),
      fun hk hi ho hb => execRelease_answers h (release_unit hk hi ho hb),
      fun hk hi ho => execRelease_answers h (release_region hk hi ho),
      fun hk hi hh ho hr ht => execRelease_answers h (release_pin hk hi hh ho hr ht)⟩
  case xbuf =>
    exact ⟨fun hl => execXbuf_answers h (xbufCommand_locked _ _ _ _ _ hl),
      fun hl hm => execXbuf_answers h (xbufCommand_unmatched _ hl hm)⟩
  case lgwrite =>
    have hlow : slice v.toNat 0 16 = v.toNat % 65536 := slice_low _ _
    have hhigh : slice v.toNat 16 16 = v.toNat / 65536 := slice_top v.isLt
    have hnum : slice v.toNat 16 6 = v.toNat / 65536 % 64 := rfl
    have hsrc : slice v.toNat 30 2 = v.toNat / 2 ^ 30 := slice_top v.isLt
    refine ⟨fun hf => execLgwrite_answers h (lgCommand_foreign r hf), fun ho => ?_⟩
    rw [← hnum, ← hlow, ← hhigh, ← hsrc]
    refine ⟨?_, ?_, ?_, ?_, ?_, ?_⟩ <;> rintro rfl
    · exact fun hm => execLgwrite_answers h (lgCommand_stop_foreign ho hm)
    · exact fun hm => execLgwrite_answers h (lgCommand_stop ho hm)
    · exact fun hm ht => execLgwrite_answers h (lgCommand_ctl ho hm ht)
    · exact fun hm ht => execLgwrite_answers h (lgCommand_load ho hm ht)
    · exact fun ha => execLgwrite_answers h (lgCommand_sync_refused ho ha)
    · exact fun ha ht => execLgwrite_answers h (lgCommand_sync ho ha ht)
  case restore =>
    exact ⟨fun hf => execRestore_answers h (restoreCommand_foreign hf),
      fun ho hlo hhi => execRestore_answers h (restoreCommand_owned ho hlo hhi)⟩
  case pfreq =>
    exact ⟨fun hl => execPfreq_answers h (pfCommand_outOfRange _ hl), fun hl =>
      ⟨fun hs => execPfreq_answers h (pfCommand_unchanged hl hs),
        fun hw hne hb => execPfreq_answers h (pfCommand_changes hl rfl hw hne hb)⟩⟩
  case standby => exact ⟨execStandby_denied h, execStandby_quiet h⟩

end Sys2Proof.Proofs
end

section
/-!
PROOFS. The Deal: how a slot begins, the round boundary, the check of the lock, and a switch that is overdue.
-/

namespace Sys2Proof.Proofs

open Sys2Proof.Machine Sys2Proof.Laws

/-! ### The beginning of a slot -/

/-- The state in which the entry of the slot that begins is read: behind the last slot of a round comes slot 0 of the next
one (R58), and the slots of the events that wait are counted (R69). -/
def slotBegun (s : State) : State :=
  countSwitchSlots (if s.dealLen ≤ s.get DEAL_NOW_SLOT + 1 then (roundBoundary s).put DEAL_NOW_SLOT 0
    else s.put DEAL_NOW_SLOT (s.get DEAL_NOW_SLOT + 1))

/-- The number of the slot that begins. -/
def slotBegunNumber (s : State) : Nat :=
  if s.dealLen ≤ s.get DEAL_NOW_SLOT + 1 then 0 else s.get DEAL_NOW_SLOT + 1

theorem slotBegun_eq (s : State) : slotBegun s = countSwitchSlots
    ((if s.dealLen ≤ s.get DEAL_NOW_SLOT + 1 then roundBoundary s else s).put DEAL_NOW_SLOT (slotBegunNumber s)) := by
  unfold slotBegun slotBegunNumber
  split <;> rfl

/-- An entry without an error raises its event, if it switches, on every core of its rotation group. -/
theorem nextSlot_none (s : State) : nextSlot .none s =
    if slotSwitches (slotBegun s).curSlot then (List.finRange 32).foldl (fun t k =>
      if t.bitOf DEAL_ROTCORE_CORES k.val (slotSwg (slotBegun s).curSlot)
        then switchEvent k (slotOwner (slotBegun s).curSlot) t else t) (slotBegun s)
    else slotBegun s := by
  simp [nextSlot, slotBegun_eq, slotBegunNumber]

/-- An entry that cannot be corrected: the first one is recorded, and the fault takes the place of its event (log 74). -/
theorem nextSlot_double {s : State} (h : (slotBegun s).flag DEAL_ERR_UE = false) : nextSlot .double s =
    reportFault 0x20 0 0 0 (raiseSrc srcDeal (((slotBegun s).put DEAL_ERR_UE 1).put DEAL_ERR_UEIDX (slotBegunNumber s))) := by
  simp only [slotBegun_eq, slotBegunNumber] at h
  simp [nextSlot, slotBegun_eq, slotBegunNumber, h]

theorem execSlotStart_on {s : State} (u : Upset) (h : s.device = .on) :
    exec (.slotStart u) s = .next (dramSlot (nextSlot u s)) := if_pos (by simp [h])

/-- A passed lock comes into force with the slot that begins at its round boundary. -/
theorem execDealLockActivate_due {s : State} (u : Upset) (hon : s.device = .on) (hp : s.dealPassed = true)
    (hl : s.dealLen ≤ s.get DEAL_NOW_SLOT + 1) : exec (.dealLockActivate u) s = .next (dramSlot (nextSlot u s)) :=
  if_pos (by simp [hon, hp, hl])

/-! ### The lock and its check -/

theorem pageWrite_seatZero (f : State → State) (s : State) : pageWrite 0 0 f s = .next ((f s).answer (.ok 0)) :=
  if_pos rfl

theorem pageWrite_customer {by_ : Seat} (h : by_ ≠ 0) (f : State → State) (s : State) :
    pageWrite by_.val 0 f s = .next (s.answer .error) :=
  if_neg (by simp [framePasses_other by_ 0 h (mt Fin.val_eq_zero_iff.1 h)])

theorem dealLockWrite_passes {s : State} (hf : s.dealFixed = false) (hc : s.dealCheck = none) : dealLockWrite s =
    { ((s.put DEAL_STAT_BUSY 1).put DEAL_STAT_CHKERR 0).put DEAL_STAT_CHKIDX 0 with dealPassed := true } := by
  simp [dealLockWrite, hf, hc]

theorem dealLockWrite_fails {s : State} {code i : Nat} (hf : s.dealFixed = false) (hc : s.dealCheck = some (code, i)) :
    dealLockWrite s = (s.put DEAL_STAT_CHKERR code).put DEAL_STAT_CHKIDX i := by
  simp [dealLockWrite, hf, hc]

/-- The check passes where no code of Table DEAL-3 finds a failure. -/
theorem dealCheck_eq_none_iff {s : State} :
    s.dealCheck = none ↔ ∀ code ∈ [1, 2, 3, 4, 5, 6, 7], s.dealCheckCode code = none := by
  simp only [State.dealCheck, List.findSome?_eq_none_iff, Option.map_eq_none_iff]

/-- Code 1 passes: an owner, or a switch, stands only in an entry of a seat's kind. -/
theorem kind_of_dealCheckCode_one {s : State} (h : s.dealCheckCode 1 = none) {i : Nat}
    (hi : i < s.tableLen (s.get DEAL_CFG_NEXT)) : let e := s.tableEntry (s.get DEAL_CFG_NEXT) i
    (slotOwner e ≠ 0 → slotKind e = 1) ∧ (slotSw e = true → slotKind e = 1) := by
  have he := List.find?_eq_none.1 h i (List.mem_range.2 hi)
  simp only [Bool.or_eq_true, Bool.and_eq_true, bne_iff_ne, not_or, not_and, not_not] at he
  obtain ⟨⟨howner, -⟩, hsw⟩ := he
  exact ⟨howner, hsw⟩

/-- The shares that the check adds up for the last seat are those of all customer seats. -/
theorem sum_shares_upTo_last (share : Nat → Nat) :
    ((List.range (15 + 1)).map (fun t => if t = 0 then 0 else share t)).sum = (customerSeats.map share).sum := by
  have hne : ∀ t ∈ customerSeats, (if t = 0 then 0 else share t) = share t :=
    fun t ht => if_neg (by rintro rfl; exact absurd ht (by decide))
  rw [show List.range (15 + 1) = 0 :: customerSeats from rfl, List.map_cons, List.sum_cons, List.map_congr_left hne,
    if_pos rfl, Nat.zero_add]

/-- Code 7 passes: a seat with a share owns a slot, and the shares of all seats fit in the reserve. -/
theorem shares_of_dealCheckCode_seven {s : State} (h : s.dealCheckCode 7 = none) :
    (∀ seat ∈ customerSeats, s.get PWC_TGSHARE_SHARE seat ≠ 0 → ∃ i, i < s.tableLen (s.get DEAL_CFG_NEXT) ∧
      slotKind (s.tableEntry (s.get DEAL_CFG_NEXT) i) = 1 ∧ slotOwner (s.tableEntry (s.get DEAL_CFG_NEXT) i) = seat) ∧
    (customerSeats.map (fun seat => s.get PWC_TGSHARE_SHARE seat)).sum ≤
      min (s.get PWC_TGBUDGET_RSV) (s.get PWC_TGBUDGET_TOTAL) := by
  have hseat := List.find?_eq_none.1 h
  simp only [Bool.or_eq_true, Bool.and_eq_true, not_or, not_and, bne_iff_ne, decide_eq_true_eq, Nat.not_lt,
    Bool.not_eq_true', Bool.not_eq_false, List.any_eq_true, List.mem_range, beq_iff_eq] at hseat
  refine ⟨fun seat hm => (hseat seat hm).1, ?_⟩
  rw [← sum_shares_upTo_last]
  exact (hseat 15 (by decide)).2

/-! ### A switch that is overdue -/

theorem execSwitchOverrun_due {k : CoreId} {s : State} {e : SwitchEvent} (he : (s.core k).switchEv = some e)
    (hl : max 8 (s.get DEAL_SWLIM_LIMIT) ≤ e.slots) : exec (.switchOverrun k) s =
    .next (reportFault 0x04 (s.core k).seatid k.val 0 ((recordSwitch DEAL_SWSTAT_OVR k.val e.seat s).mapCore k (fun c =>
      { c with run := .stopped, switchEv := none, load := none, fillWait := false }))) := by
  show execSwitchOverrun k s = _
  simp only [execSwitchOverrun, he, if_pos hl]

/-- Settles O23: the beginning of a slot by what its entry says, the lock by its check, and each clause by its own lemma. -/
theorem slotsAndTheDealLock : Obligations.SlotsAndTheDealLock := by
  refine ⟨fun s => ?slot, fun by_ s => ⟨fun h => pageWrite_customer h _ s, fun hl hb => ?lock⟩, fun s hc => ?check,
    fun k s e => execSwitchOverrun_due⟩
  case slot =>
    intro n act bound locked t cur hon
    have ht : t = slotBegun s := rfl
    rw [execSlotStart_on _ hon, execSlotStart_on _ hon, nextSlot_none, ht]
    refine ⟨fun hq => by rw [if_neg (by simp [hq])], fun hw => by rw [if_pos hw], fun hu => by rw [nextSlot_double hu]; rfl,
      fun hp hl hq => ?_⟩
    rw [execDealLockActivate_due _ hon hp hl, nextSlot_none, if_neg (by simp [hq])]
  case lock =>
    have hf : s.dealFixed = false := by simp [State.dealFixed, hl, hb]
    refine ⟨fun hc => ?_, fun code i hc => ?_⟩
    · rw [← dealLockWrite_passes hf hc]
      exact pageWrite_seatZero dealLockWrite s
    · rw [← dealLockWrite_fails hf hc]
      exact pageWrite_seatZero dealLockWrite s
  case check =>
    have hcode := dealCheck_eq_none_iff.1 hc
    obtain ⟨howns, hsum⟩ := shares_of_dealCheckCode_seven (hcode 7 (by decide))
    exact ⟨fun i => kind_of_dealCheckCode_one (hcode 1 (by decide)), howns, hsum⟩

end Sys2Proof.Proofs
end

section
/-!
PROOFS. A core in the state: updates after one another, and what a write of a general register, the counters and the trace
leave of it.
-/

namespace Sys2Proof.Proofs

open Sys2Proof.Machine Sys2Proof.Laws

/-! ### Updates of one core -/

theorem setCore_setCore (s : State) (k : CoreId) (c d : Core) : (s.setCore k c).setCore k d = s.setCore k d := by
  simp [State.setCore]

theorem mapCore_mapCore (s : State) (k : CoreId) (f g : Core → Core) :
    (s.mapCore k f).mapCore k g = s.mapCore k (fun c => g (f c)) := by
  simp [State.mapCore, setCore_setCore]

/-! ### General registers -/

/-- A write of a general register changes the register files alone. -/
theorem setP_files (c : Core) (p : PReg) (v : Word64) :
    ∃ g win tw, c.setP p v = { c with g := g, win := win, tw := tw } := by
  cases p with
  | g n =>
    by_cases hn : n = 0
    · exact ⟨c.g, c.win, c.tw, by simp [Core.setP, hn]⟩
    · exact ⟨c.g.set! n v, c.win, c.tw, by simp [Core.setP, hn]⟩
  | win w n => exact ⟨_, _, _, rfl⟩
  | tw n => exact ⟨_, _, _, rfl⟩

theorem setP_fstat (c : Core) (p : PReg) (v : Word64) : (c.setP p v).fstat = c.fstat := by
  obtain ⟨_, _, _, h⟩ := setP_files c p v
  rw [h]

theorem setP_longExcs (c : Core) (p : PReg) (v : Word64) : (c.setP p v).longExcs = c.longExcs := by
  obtain ⟨_, _, _, h⟩ := setP_files c p v
  rw [h]

theorem setP_pstate (c : Core) (p : PReg) (v : Word64) : (c.setP p v).pstate = c.pstate := by
  obtain ⟨_, _, _, h⟩ := setP_files c p v
  rw [h]

theorem getElem!_vector_set! {α : Type} [Inhabited α] {n : Nat} (xs : Vector α n) (i j : Nat) (x : α) :
    (xs.set! i x)[j]! = if i = j ∧ i < n then x else xs[j]! := by
  simp only [getElem!_def, Vector.getElem?_set!]
  by_cases hij : i = j
  · by_cases hi : i < n <;> simp [hij, hij ▸ hi]
  · simp [hij]

/-- A write leaves every other register alone. -/
theorem getP_setP_other (c : Core) {p q : PReg} (v : Word64) (h : p ≠ q) : (c.setP p v).getP q = c.getP q := by
  cases p with
  | g n =>
    by_cases hn : n = 0
    · simp [Core.setP, hn]
    · cases q with
      | g m =>
        have hnm : n ≠ m := fun e => h (e ▸ rfl)
        simp [Core.setP, Core.getP, hn, getElem!_vector_set!, hnm]
      | win => simp [Core.setP, Core.getP, hn]
      | tw => simp [Core.setP, Core.getP, hn]
  | win w n =>
    cases q with
    | win x m =>
      simp only [Core.setP, Core.getP, getElem!_vector_set!]
      split
      next hwx =>
        have hnm : n ≠ m := fun e => h (by rw [hwx.1, e])
        rw [getElem!_vector_set!, if_neg (fun e => hnm e.1), hwx.1]
      next => rfl
    | g | tw => rfl
  | tw n =>
    cases q with
    | tw m =>
      have hnm : n ≠ m := fun e => h (e ▸ rfl)
      simp [Core.setP, Core.getP, getElem!_vector_set!, hnm]
    | g | win => rfl

theorem getP_setP_win (c : Core) {w n : Nat} (v : Word64) (hw : w < 12) (hn : n < 16) :
    (c.setP (.win w n) v).getP (.win w n) = v := by
  simp only [Core.setP, Core.getP, getElem!_vector_set!, hw, hn, and_self, if_true]

theorem getP_setP_g (c : Core) {n : Nat} (v : Word64) (hn : n < 12) (h0 : n ≠ 0) :
    (c.setP (.g n) v).getP (.g n) = v := by
  simp only [Core.setP, Core.getP, getElem!_vector_set!, h0, hn, and_self, if_true, if_false]

/-! #### Where a register lives -/

theorem regAt_global (c : Core) {r : Fin 32} (h : r.val < 12) : c.regAt r = .g r.val := if_pos h

theorem regAt_current (c : Core) {r : Fin 32} (h : 12 ≤ r.val) (h28 : r.val < 28) (htw : c.twOn = false) :
    c.regAt r = .win c.cwp (r.val - 12) := by
  simp [Core.regAt, Nat.not_lt.2 h, htw, h28]

theorem regAt_next (c : Core) {r : Fin 32} (h : 28 ≤ r.val) (htw : c.twOn = false) :
    c.regAt r = .win ((c.cwp + 1) % 12) (r.val - 28) := by
  simp [Core.regAt, show ¬ r.val < 12 by omega, htw, Nat.not_lt.2 h]

/-! ### Counters and trace -/

theorem each_cores {f : Nat → State → State} (hf : ∀ n t, (f n t).cores = t.cores) (s : State) :
    ∀ l : List Nat, (s.each l f).cores = s.cores
  | [] => rfl
  | n :: l => (each_cores hf (f n s) l).trans (hf n s)

theorem ite_cores {p : Prop} [Decidable p] {a b s : State} (ha : a.cores = s.cores) (hb : b.cores = s.cores) :
    (if p then a else b).cores = s.cores := by
  split
  · exact ha
  · exact hb

theorem putBit_cores (s : State) (f : Fld) (b : Nat) (v : Bool) (i j : Nat) : (s.putBit f b v i j).cores = s.cores :=
  put_cores ..

theorem pmCount_cores (k : CoreId) (ev : Nat) (s : State) : (pmCount k ev s).cores = s.cores := by
  refine each_cores (fun n t => ?_) s _
  have hwrap : ((t.put IBC_PMCNT_COUNT 0 k.val n).putBit IBC_PMOVF_OVF n true k.val).cores = t.cores :=
    (putBit_cores ..).trans (put_cores ..)
  exact ite_cores (ite_cores (put_cores ..) (ite_cores ((raiseSrc_cores ..).trans hwrap) hwrap)) rfl

theorem pmCount_core (k l : CoreId) (ev : Nat) (s : State) : (pmCount k ev s).core l = s.core l :=
  core_congr _ l _ (pmCount_cores k ev s)

theorem traceSync_cores (k : CoreId) (s : State) : (traceSync k s).cores = s.cores := by
  unfold traceSync
  split <;> rfl

theorem traceAtom_cores (k : CoreId) (taken : Bool) (s : State) : (traceAtom k taken s).cores = s.cores := by
  unfold traceAtom
  split
  · exact traceSync_cores k s
  · rfl

theorem traceEmit_cores (k : CoreId) (p : List Byte) (s : State) : (traceEmit k p s).cores = s.cores := by
  unfold traceEmit
  split
  · exact traceSync_cores k s
  · rfl

theorem traceSeat_core (k l : CoreId) (seat : Nat) (s : State) : (traceSeat k seat s).core l = s.core l :=
  core_congr _ l _ ((traceEmit_cores ..).trans (traceEmit_cores ..))

end Sys2Proof.Proofs
end

section
/-!
PROOFS. The ALU group and the immediate instructions: what the model's result functions compute in the terms of Table
ISA-7, and the instructions that write them.
-/

namespace Sys2Proof.Proofs

open Sys2Proof.Machine Sys2Proof.Laws

/-! ### Sums and differences -/

theorem addFlags_noCarry {w : Nat} (x y : BitVec w) : addFlags x y false =
    (x + y, mkFlags (x + y).msb (x + y == 0) (decide (2 ^ w ≤ x.toNat + y.toNat))
      (decide ((x + y).toInt ≠ x.toInt + y.toInt))) := by
  simpa using addFlags_eq x y false (x + y) 0 rfl (by simp)

theorem subFlags_noBorrow {w : Nat} (x y : BitVec w) : subFlags x y true =
    (x - y, mkFlags (x - y).msb (x - y == 0) (decide (y.toNat ≤ x.toNat))
      (decide ((x - y).toInt ≠ x.toInt - y.toInt))) := by
  simpa using subFlags_eq x y true (x - y) 0 rfl (by simp)

section Operation
variable {key : Instr} {op : Nat} {i : Issue} {a : RArgs} {s u : State} {g : BitVec 4}

/-- An operation with a 64-bit result `v` and the flags `g`. -/
theorem aluInstr_out64 {p : Word64 × BitVec 4} {v : Word64} (hp : i.par = false)
    (he : s.Executes i.core (some i.cond) 0 [a.rd, a.rs1, a.rs2] u) (hop : a.fn.toNat % 64 = op)
    (hu : aluUnary op = true → a.rs2 = 0)
    (hv : aluOp op ((u.core i.core).reg a.rs1) ((u.core i.core).reg a.rs2) (u.core i.core).flags = some (out64 p))
    (hpair : p = (v, g)) :
    aluInstr key op i a s = .next (retire i.core (u.mapCore i.core (fun c =>
      (c.setReg a.rd v).flagsIf (a.fn.getLsbD 6) g))) := by
  subst hpair
  exact aluInstr_executes key op i a s u (out64 (v, g)) he hp hop hu hv

/-- An operation with a 32-bit result `v`, which is sign-extended, and the flags `g`. -/
theorem aluInstr_out32 {p : BitVec 32 × BitVec 4} {v : BitVec 32} (hp : i.par = false)
    (he : s.Executes i.core (some i.cond) 0 [a.rd, a.rs1, a.rs2] u) (hop : a.fn.toNat % 64 = op)
    (hu : aluUnary op = true → a.rs2 = 0)
    (hv : aluOp op ((u.core i.core).reg a.rs1) ((u.core i.core).reg a.rs2) (u.core i.core).flags = some (out32 p))
    (hpair : p = (v, g)) :
    aluInstr key op i a s = .next (retire i.core (u.mapCore i.core (fun c =>
      (c.setReg a.rd (v.signExtend 64)).flagsIf (a.fn.getLsbD 6) g))) := by
  subst hpair
  exact aluInstr_executes key op i a s u (out32 (v, g)) he hp hop hu hv

end Operation

/-- The borrow of a subtraction is 1 less the carry that comes in. -/
theorem borrow_eq (b : Bool) : 1 - (if b then 1 else 0) = if b then 0 else 1 := by cases b <;> rfl

/-- Settles O1: each operation by the sum or the difference with its flags. -/
theorem additionAndSubtraction : Obligations.AdditionAndSubtraction := by
  refine ⟨fun i a s u hp he => ?register, fun i a s u hp he => ?immediate⟩
  case register =>
    intro k x y xw yw c op leaves
    refine ⟨fun h => ?_, fun h => ?_, fun h r hr => ?_, fun h r hr => ?_, fun h => ?_, fun h => ?_⟩
    · exact aluInstr_out64 hp he h nofun rfl (addFlags_noCarry x y)
    · exact aluInstr_out64 hp he h nofun rfl (subFlags_noBorrow x y)
    · exact aluInstr_out64 hp he h nofun rfl (addFlags_eq x y _ r c rfl hr)
    · exact aluInstr_out64 hp he h nofun rfl (subFlags_eq x y _ r (1 - c) (borrow_eq _) hr)
    · exact aluInstr_out32 hp he h nofun rfl (addFlags_noCarry xw yw)
    · exact aluInstr_out32 hp he h nofun rfl (subFlags_noBorrow xw yw)
  case immediate =>
    intro k x n
    refine ⟨immInstr_executes (.addi i.clean a) true false (fun x n f => ⟨x + simm n, f⟩) i a s u he hp rfl,
      fun hrd => ?_⟩
    have hset (c : Core) (v : Word64) : c.setReg a.rd v = c := by rw [hrd]; rfl
    have hrun := immInstr_executes (.cmpi i.clean a) (a.rd == 0) true
      (fun x n _ => out64 (subFlags x (simm n) true)) i a s u he hp (by simp [hrd])
    refine hrun.trans ?_
    simp only [hset, subFlags_noBorrow]
    rfl

/-! ### Selection, counts and bytes -/

theorem eq_ite_slt_of_min {x y v : Word64} (h : v.toInt = min x.toInt y.toInt) : v = if x.slt y then x else y := by
  apply BitVec.eq_of_toInt_eq
  rw [h, apply_ite BitVec.toInt]
  simp only [BitVec.slt_iff_toInt_lt]
  split <;> omega

theorem eq_ite_slt_of_max {x y v : Word64} (h : v.toInt = max x.toInt y.toInt) : v = if x.slt y then y else x := by
  apply BitVec.eq_of_toInt_eq
  rw [h, apply_ite BitVec.toInt]
  simp only [BitVec.slt_iff_toInt_lt]
  split <;> omega

theorem eq_ite_ult_of_min {x y v : Word64} (h : v.toNat = min x.toNat y.toNat) : v = if x.ult y then x else y := by
  apply BitVec.eq_of_toNat_eq
  rw [h, apply_ite BitVec.toNat]
  simp only [BitVec.ult_iff_lt, BitVec.lt_def]
  split <;> omega

theorem eq_ite_ult_of_max {x y v : Word64} (h : v.toNat = max x.toNat y.toNat) : v = if x.ult y then y else x := by
  apply BitVec.eq_of_toNat_eq
  rw [h, apply_ite BitVec.toNat]
  simp only [BitVec.ult_iff_lt, BitVec.lt_def]
  split <;> omega

/-- A number whose highest set bit is bit N - n - 1 has n leading zeros among N bits. -/
theorem leadingZeros_eq {v : Nat} : ∀ {N n : Nat}, n ≤ N → v < 2 ^ (N - n) → (n < N → 2 ^ (N - 1 - n) ≤ v) →
    leadingZeros v N = n
  | 0, n, hn, _, _ => (Nat.le_zero.1 hn).symm
  | N + 1, 0, _, hlt, hge => by
    have htop : v.testBit N = true := Nat.testBit_of_two_pow_le_and_two_pow_add_one_gt (hge (by omega)) hlt
    simp [leadingZeros, htop]
  | N + 1, n + 1, hn, hlt, hge => by
    rw [Nat.add_sub_add_right] at hlt
    have htop : v.testBit N = false :=
      Nat.testBit_lt_two_pow (hlt.trans_le (Nat.pow_le_pow_right (by omega) (by omega)))
    have hrest : leadingZeros v N = n := leadingZeros_eq (by omega) hlt
      (fun h => by rw [show N - 1 - n = N + 1 - 1 - (n + 1) by omega]; exact hge (by omega))
    simp [leadingZeros, htop, hrest, Nat.add_comm]

theorem setBits_eq (v : Nat) : ∀ n : Nat, setBits v n = (List.range n).countP v.testBit
  | 0 => rfl
  | n + 1 => by simp [setBits, setBits_eq v n, List.range_succ, List.countP_append, List.countP_cons, Nat.add_comm]

/-- The number of `n` bytes whose bytes are those of `x` in reverse order. -/
theorem eq_swapBytes : ∀ {n v x : Nat}, v < 256 ^ n → (∀ i < n, v / 256 ^ i % 256 = x / 256 ^ (n - 1 - i) % 256) →
    v = swapBytes x n
  | 0, v, _, hv, _ => by simpa [swapBytes] using hv
  | n + 1, v, x, hv, hbyte => by
    have htop : v / 256 ^ n = x % 256 := by
      have hlt : v / 256 ^ n < 256 := Nat.div_lt_of_lt_mul (by rwa [← Nat.pow_succ])
      simpa [Nat.mod_eq_of_lt hlt] using hbyte n (by omega)
    have hlow : v % 256 ^ n = swapBytes (x / 256) n := by
      refine eq_swapBytes (Nat.mod_lt _ (by positivity)) (fun i hi => ?_)
      have hsplit : 256 ^ n = 256 ^ i * 256 ^ (n - i) := by rw [← Nat.pow_add]; congr 1; omega
      rw [hsplit, Nat.mod_mul_right_div_self, Nat.mod_mod_of_dvd _ (dvd_pow_self 256 (by omega)), hbyte i (by omega),
        Nat.div_div_eq_div_mul, ← Nat.pow_succ', show n + 1 - 1 - i = (n - 1 - i).succ by omega]
    calc v = v / 256 ^ n * 256 ^ n + v % 256 ^ n := (Nat.div_add_mod' v _).symm
      _ = swapBytes x (n + 1) := by rw [htop, hlow]; rfl

theorem toNat_byte (x : Word64) (b : Nat) : (x.extractLsb' (8 * b) 8).toNat = x.toNat / 256 ^ b % 256 := by
  rw [BitVec.extractLsb'_toNat, Nat.shiftRight_eq_div_pow, Nat.pow_mul]

theorem eq_byteSwap {x v : Word64} (h : ∀ b : Nat, b < 8 → v.extractLsb' (8 * b) 8 = x.extractLsb' (8 * (7 - b)) 8) :
    v = BitVec.ofNat 64 (swapBytes x.toNat 8) := by
  have hv : v.toNat = swapBytes x.toNat 8 := by
    refine eq_swapBytes v.isLt (fun i hi => ?_)
    simpa only [toNat_byte] using congrArg BitVec.toNat (h i hi)
  rw [← hv, BitVec.ofNat_toNat, BitVec.setWidth_eq]

/-- An operation that sets N and Z of its result and leaves C and V. -/
theorem aluInstr_logic {key : Instr} {op : Nat} {i : Issue} {a : RArgs} {s u : State} {v w : Word64}
    (hp : i.par = false) (he : s.Executes i.core (some i.cond) 0 [a.rd, a.rs1, a.rs2] u)
    (hop : a.fn.toNat % 64 = op) (hu : aluUnary op = true → a.rs2 = 0)
    (hv : aluOp op ((u.core i.core).reg a.rs1) ((u.core i.core).reg a.rs2) (u.core i.core).flags =
      some ⟨w, nzFlags w (u.core i.core).flags⟩) (hw : v = w) :
    aluInstr key op i a s = .next (retire i.core (u.mapCore i.core (fun c => (c.setReg a.rd v).flagsIf (a.fn.getLsbD 6)
      (mkFlags v.msb (v == 0) ((u.core i.core).flags.getLsbD 1) ((u.core i.core).flags.getLsbD 0))))) := by
  subst hw
  exact aluInstr_executes key op i a s u ⟨v, nzFlags v (u.core i.core).flags⟩ he hp hop hu hv

/-- Settles O2: each operation by its result in the terms of the table. -/
theorem logicAndSelection : Obligations.LogicAndSelection := by
  refine ⟨fun i a s u hp he => ?register, fun i a s u hp he => ?immediate⟩
  case register =>
    intro k x y f op leaves
    refine ⟨fun h => ?_, fun h => ?_, fun h => ?_, fun h => ?_, fun h v hv => ?_, fun h v hv => ?_, fun h v hv => ?_,
      fun h v hv => ?_, fun h h2 n hn hlt hge => ?clz, fun h h2 => ?popc, fun h h2 => ?_, fun h h2 => ?_, fun h h2 => ?_,
      fun h h2 v hv => ?_⟩
    case clz =>
      have hz : leadingZeros x.toNat 64 = n := leadingZeros_eq hn hlt hge
      exact aluInstr_logic hp he h (fun _ => h2) rfl (congrArg _ hz.symm)
    case popc =>
      exact aluInstr_logic hp he h (fun _ => h2) rfl (congrArg _ (setBits_eq x.toNat 64).symm)
    · exact aluInstr_logic hp he h nofun rfl rfl
    · exact aluInstr_logic hp he h nofun rfl rfl
    · exact aluInstr_logic hp he h nofun rfl rfl
    · exact aluInstr_logic hp he h nofun rfl rfl
    · exact aluInstr_logic hp he h nofun rfl (eq_ite_slt_of_min hv)
    · exact aluInstr_logic hp he h nofun rfl (eq_ite_slt_of_max hv)
    · exact aluInstr_logic hp he h nofun rfl (eq_ite_ult_of_min hv)
    · exact aluInstr_logic hp he h nofun rfl (eq_ite_ult_of_max hv)
    · exact aluInstr_logic hp he h (fun _ => h2) rfl rfl
    · exact aluInstr_logic hp he h (fun _ => h2) rfl rfl
    · exact aluInstr_logic hp he h (fun _ => h2) rfl rfl
    · exact aluInstr_logic hp he h (fun _ => h2) rfl (eq_byteSwap hv)
  case immediate =>
    intro k x n leaves
    exact ⟨immInstr_executes (.andi i.clean a) true false (fun x n f => ⟨x &&& zimm n, f⟩) i a s u he hp rfl,
      immInstr_executes (.ori i.clean a) true false (fun x n f => ⟨x ||| zimm n, f⟩) i a s u he hp rfl,
      immInstr_executes (.xori i.clean a) true false (fun x n f => ⟨x ^^^ zimm n, f⟩) i a s u he hp rfl,
      immInstr_executes (.lsi i.clean a) true false (fun x n f => ⟨x <<< 12 ||| zimm n, f⟩) i a s u he hp rfl⟩

/-! ### Shifts -/

/-- The flags of a 32-bit result are those of its sign extension. -/
theorem shiftFlags_signExtend (r : BitVec 32) (n : Nat) (out : Bool) (f : BitVec 4) :
    shiftFlags r n out f = shiftFlags (r.signExtend 64) n out f := by
  have hmsb : (r.signExtend 64).msb = r.msb := by simp [BitVec.msb_signExtend]
  have hzero : (r.signExtend 64 == 0) = (r == 0) := by
    rw [Bool.eq_iff_iff, beq_iff_eq, beq_iff_eq]
    refine ⟨fun h => BitVec.eq_of_toInt_eq ?_, fun h => by subst h; rfl⟩
    rw [← BitVec.toInt_signExtend_of_le (v := 64) (by decide : 32 ≤ 64), h]
    rfl
  simp only [shiftFlags, hmsb, hzero]

theorem aluInstr_shift32 {key : Instr} {op : Nat} {i : Issue} {a : RArgs} {s u : State} {r : BitVec 32} {n : Nat}
    {out : Bool} (hp : i.par = false) (he : s.Executes i.core (some i.cond) 0 [a.rd, a.rs1, a.rs2] u)
    (hop : a.fn.toNat % 64 = op) (hu : aluUnary op = true → a.rs2 = 0)
    (hv : aluOp op ((u.core i.core).reg a.rs1) ((u.core i.core).reg a.rs2) (u.core i.core).flags =
      some (out32 (r, shiftFlags r n out (u.core i.core).flags))) :
    aluInstr key op i a s = .next (retire i.core (u.mapCore i.core (fun c =>
      (c.setReg a.rd (r.signExtend 64)).flagsIf (a.fn.getLsbD 6)
        (shiftFlags (r.signExtend 64) n out (u.core i.core).flags)))) :=
  aluInstr_out32 hp he hop hu hv (by rw [shiftFlags_signExtend])

section Shi
variable {x : Word64} {imm : BitVec 12} {f : BitVec 4}

/-- The zero fields of SHI (R94): imm[8:6], and imm[5] in the 32-bit form. -/
theorem shiLegal_of (hzero : imm.toNat / 64 % 8 = 0) (h : imm.getLsbD 9 = true → imm.getLsbD 5 = false) :
    shiLegal imm = true := by
  have hslice : (slice imm.toNat 6 3 == 0) = true := beq_iff_eq.2 hzero
  rw [shiLegal, hslice]
  cases h9 : imm.getLsbD 9 with
  | false => rfl
  | true => rw [h h9]; rfl

/-- The 64-bit shift by `n` that `kind` selects (Table ISA-5), with its flags. -/
def shiftWide (x : Word64) (f : BitVec 4) (n : Nat) : Nat → AluOut
  | 0 => ⟨x <<< n, shiftFlags (x <<< n) n (x.getLsbD (64 - n)) f⟩
  | 1 => ⟨x >>> n, shiftFlags (x >>> n) n (x.getLsbD (n - 1)) f⟩
  | 2 => ⟨x.sshiftRight n, shiftFlags (x.sshiftRight n) n (x.getLsbD (n - 1)) f⟩
  | _ => ⟨x.rotateRight n, shiftFlags (x.rotateRight n) n (x.getLsbD (n - 1)) f⟩

/-- The 32-bit shift by `n` that `kind` selects, with the flags of its sign extension. -/
def shiftNarrow (x : BitVec 32) (f : BitVec 4) (n : Nat) : Nat → AluOut
  | 0 => ⟨(x <<< n).signExtend 64, shiftFlags ((x <<< n).signExtend 64) n (x.getLsbD (32 - n)) f⟩
  | 1 => ⟨(x >>> n).signExtend 64, shiftFlags ((x >>> n).signExtend 64) n (x.getLsbD (n - 1)) f⟩
  | 2 => ⟨(x.sshiftRight n).signExtend 64, shiftFlags ((x.sshiftRight n).signExtend 64) n (x.getLsbD (n - 1)) f⟩
  | _ => ⟨(x.rotateRight n).signExtend 64, shiftFlags ((x.rotateRight n).signExtend 64) n (x.getLsbD (n - 1)) f⟩

/-- SHI with imm[9] = 0 computes the 64-bit shift that imm[11:10] selects. -/
theorem shiOut_wide (h : imm.getLsbD 9 = false) :
    shiOut x imm f = shiftWide x f (imm.toNat % 64) (imm.toNat / 1024) := by
  have hk : imm.toNat / 1024 < 4 := by have := imm.isLt; omega
  have hn : (BitVec.ofNat 64 (imm.toNat % 64)).toNat % 64 = imm.toNat % 64 := by rw [BitVec.toNat_ofNat]; omega
  simp only [shiOut, h, Bool.false_eq_true, if_false]
  generalize imm.toNat / 1024 = kind at hk
  match kind, hk with
  | 0, _ | 1, _ | 2, _ | 3, _ => simp only [aluOp, hn, Option.getD_some]; rfl

/-- SHI with imm[9] = 1 computes the 32-bit shift. -/
theorem shiOut_narrow (h : imm.getLsbD 9 = true) (h5 : imm.getLsbD 5 = false) :
    shiOut x imm f = shiftNarrow (x.truncate 32) f (imm.toNat % 64) (imm.toNat / 1024) := by
  have hk : imm.toNat / 1024 < 4 := by have := imm.isLt; omega
  have h32 : imm.toNat % 32 = imm.toNat % 64 := by
    have hbit : imm.toNat.testBit 5 = false := h5
    rw [Nat.testBit_eq_decide_div_mod_eq, decide_eq_false_iff_not] at hbit
    omega
  have hn : (BitVec.ofNat 64 (imm.toNat % 32)).toNat % 32 = imm.toNat % 64 := by rw [BitVec.toNat_ofNat]; omega
  simp only [shiOut, h, if_true]
  generalize imm.toNat / 1024 = kind at hk
  match kind, hk with
  | 0, _ | 1, _ | 2, _ =>
    simp only [aluOp, hn, Nat.reduceAdd, Nat.reduceEqDiff, if_false, Option.getD_some, shlOut, shrOut, sraOut,
      shiftFlags_signExtend]
    rfl
  | 3, _ =>
    simp only [h32, if_true, rorOut, shiftFlags_signExtend]
    rfl

end Shi

/-- Settles O3: the register forms by the ALU operation, SHI by the shift that it selects. -/
theorem shiftsAndRotations : Obligations.ShiftsAndRotations := by
  refine ⟨fun i a s u hp he => ?register, fun i a s u hp he => ?immediate⟩
  case register =>
    intro k x n m xw f op leaves
    refine ⟨fun h => ?_, fun h => ?_, fun h => ?_, fun h => ?_, fun h => ?_, fun h => ?_, fun h => ?_⟩
    · exact aluInstr_out64 hp he h nofun rfl rfl
    · exact aluInstr_out64 hp he h nofun rfl rfl
    · exact aluInstr_out64 hp he h nofun rfl rfl
    · exact aluInstr_out64 hp he h nofun rfl rfl
    · exact aluInstr_shift32 hp he h nofun rfl
    · exact aluInstr_shift32 hp he h nofun rfl
    · exact aluInstr_shift32 hp he h nofun rfl
  case immediate =>
    intro k x xw kind n f leaves hzero
    have hrun {o : AluOut} (hl : shiLegal a.imm = true) (ho : shiOut x a.imm f = o) : exec (.shi i a) s =
        .next (retire k (u.mapCore k (fun c => (c.setReg a.rd o.val).setFlags o.nzcv))) :=
      ho ▸ immInstr_executes (.shi i.clean a) (shiLegal a.imm) true shiOut i a s u he hp hl
    refine ⟨fun h9 => ?wide, fun h9 h5 => ?narrow⟩
    case wide =>
      have hl := shiLegal_of hzero (fun h => absurd h (by rw [h9]; decide))
      refine (hrun (o := shiftWide x f n kind) hl (shiOut_wide h9)).trans ?_
      clear_value kind
      match kind with
      | 0 | 1 | 2 | _ + 3 => rfl
    case narrow =>
      have hl := shiLegal_of hzero (fun _ => h5)
      refine (hrun (o := shiftNarrow xw f n kind) hl (shiOut_narrow h9 h5)).trans ?_
      clear_value kind
      match kind with
      | 0 | 1 | 2 | _ + 3 => rfl

end Sys2Proof.Proofs
end

section
/-!
PROOFS. The MUL group: products and sums as integers, and the writes to the MD registers that are in flight.
-/

namespace Sys2Proof.Proofs

open Sys2Proof.Machine Sys2Proof.Laws

/-! ### Products -/

theorem mulProduct_signed (x y : Word64) : mulProduct true x y = BitVec.ofInt 128 (x.toInt * y.toInt) :=
  (BitVec.ofInt_mul _ _).symm

theorem mulProduct_unsigned (x y : Word64) : mulProduct false x y = BitVec.ofNat 128 (x.toNat * y.toNat) := by
  rw [BitVec.ofNat_mul, BitVec.ofNat_toNat, BitVec.ofNat_toNat]
  rfl

theorem macSum_signed (x y : Word64) : macSum true x y =
    BitVec.ofInt 64 (([0, 1, 2, 3].map (fun j => (halfOf x j).toInt * (halfOf y j).toInt)).sum) := by
  simp only [macSum, if_true, BitVec.signExtend, List.map_cons, List.map_nil, List.sum_cons, List.sum_nil, add_zero,
    BitVec.ofInt_add, BitVec.ofInt_mul, BitVec.add_assoc]

theorem macSum_unsigned (x y : Word64) : macSum false x y =
    BitVec.ofNat 64 (([0, 1, 2, 3].map (fun j => (halfOf x j).toNat * (halfOf y j).toNat)).sum) := by
  simp only [macSum, Bool.false_eq_true, if_false, List.map_cons, List.map_nil, List.sum_cons, List.sum_nil, add_zero,
    BitVec.ofNat_add, BitVec.ofNat_mul, BitVec.ofNat_toNat, BitVec.add_assoc]

/-! ### Writes in flight -/

/-- Landing does not look at the writes in flight. -/
theorem foldl_landOne_flight (m : List MdWrite) : ∀ (l : List MdWrite) (c : Core),
    l.foldl Core.landOne { c with mdFlight := m } = { l.foldl Core.landOne c with mdFlight := m }
  | [], _ => rfl
  | w :: l, c => foldl_landOne_flight m l (c.landOne w)

theorem issueMd_full {c : Core} {w x y z v : MdWrite} (h : c.mdFlight = [x, y, z, v]) :
    c.issueMd w = { c.landOne x with mdFlight := [y, z, v, w] } := by
  simp only [Core.issueMd, h]

theorem issueMd_room {c : Core} (w : MdWrite) (h : c.mdFlight.length < 4) :
    c.issueMd w = { c with mdFlight := c.mdFlight ++ [w] } := by
  unfold Core.issueMd
  split
  next hl => simp [hl] at h
  next => rfl

theorem length_eq_four {α : Type} {l : List α} (h : l.length = 4) : ∃ x y z v, l = [x, y, z, v] := by
  match l, h with
  | [x, y, z, v], _ => exact ⟨x, y, z, v, rfl⟩

theorem issueMd_length (c : Core) (w : MdWrite) (h : c.mdFlight.length ≤ 4) : (c.issueMd w).mdFlight.length ≤ 4 := by
  rcases Nat.lt_or_eq_of_le h with hlt | heq
  · rw [issueMd_room w hlt, List.length_append]
    exact hlt
  · obtain ⟨x, y, z, v, hl⟩ := length_eq_four heq
    rw [issueMd_full hl]
    exact Nat.le_refl 4

/-- A write that is issued lands behind those before it. -/
theorem issueMd_landAll (c : Core) (w : MdWrite) (h : c.mdFlight.length ≤ 4) :
    (c.issueMd w).landAll = { c.landAll.landOne w with mdFlight := [] } := by
  rcases Nat.lt_or_eq_of_le h with hlt | heq
  · rw [issueMd_room w hlt]
    simp only [Core.landAll, foldl_landOne_flight, List.foldl_append, List.foldl_cons, List.foldl_nil]
    rfl
  · obtain ⟨x, y, z, v, hl⟩ := length_eq_four heq
    rw [issueMd_full hl, Core.landAll, Core.landAll, hl]
    rfl

theorem mdSeen_all (c : Core) : c.mdSeen c.mdFlight.length = c := by
  rw [Core.mdSeen, Nat.sub_self]
  rfl

theorem mdSeen_zero (c : Core) : { c.mdSeen 0 with mdFlight := [] } = c.landAll := by
  rw [Core.mdSeen, Nat.sub_zero, List.take_length]
  rfl

/-! ### Instructions -/

theorem mulInstr_executes {key : Instr} {legal : Bool} {i : Issue} {a : RArgs} {f : Core → Core} {s u : State}
    (hp : i.par = false) (he : s.Executes i.core (some i.cond) 0 [a.rd, a.rs1, a.rs2] u) (hl : legal = true) :
    mulInstr key legal i a f s = .next (retire i.core (u.mapCore i.core f)) :=
  runInstr_done _ _ s u _ he hl hp rfl rfl

/-- An instruction that issues `w`. -/
theorem mulInstr_issues {key : Instr} {legal : Bool} {i : Issue} {a : RArgs} {f : Core → Core} {s u : State}
    {w : MdWrite} (hp : i.par = false) (he : s.Executes i.core (some i.cond) 0 [a.rd, a.rs1, a.rs2] u)
    (hl : legal = true) (hw : f (u.core i.core) = (u.core i.core).issueMd w) :
    mulInstr key legal i a f s = .next (retire i.core (u.mapCore i.core (fun c => c.issueMd w))) := by
  rw [mulInstr_executes hp he hl, State.mapCore, hw]
  rfl

theorem product_signed (c : Core) (a : RArgs) {p : BitVec 128}
    (h : p = BitVec.ofInt 128 ((c.reg a.rs1).toInt * (c.reg a.rs2).toInt)) :
    c.product true a = c.issueMd ⟨some (p.extractLsb' 64 64), some (p.extractLsb' 0 64), none⟩ := by
  rw [h, ← mulProduct_signed, Core.product]

theorem product_unsigned (c : Core) (a : RArgs) {p : BitVec 128}
    (h : p = BitVec.ofNat 128 ((c.reg a.rs1).toNat * (c.reg a.rs2).toNat)) :
    c.product false a = c.issueMd ⟨some (p.extractLsb' 64 64), some (p.extractLsb' 0 64), none⟩ := by
  rw [h, ← mulProduct_unsigned, Core.product]

theorem accumulate_signed (c : Core) (a : RArgs) : c.accumulate true a = c.issueMd ⟨none, none, some (c.landAll.mda +
    BitVec.ofInt 64 (([0, 1, 2, 3].map (fun j =>
      (halfOf (c.reg a.rs1) j).toInt * (halfOf (c.reg a.rs2) j).toInt)).sum))⟩ := by
  rw [← macSum_signed, Core.accumulate, Core.mdaLatest]

theorem accumulate_unsigned (c : Core) (a : RArgs) : c.accumulate false a = c.issueMd ⟨none, none, some (c.landAll.mda +
    BitVec.ofNat 64 (([0, 1, 2, 3].map (fun j =>
      (halfOf (c.reg a.rs1) j).toNat * (halfOf (c.reg a.rs2) j).toNat)).sum))⟩ := by
  rw [← macSum_unsigned, Core.accumulate, Core.mdaLatest]

/-- Settles O4: the instructions by what they issue or move, the writes in flight by how many there are. -/
theorem multiplyGroup : Obligations.MultiplyGroup := by
  refine ⟨fun i a s u hp he => ?instructions, fun c w h => ⟨issueMd_length c w h, issueMd_landAll c w h, mdSeen_all c,
    mdSeen_zero c⟩⟩
  intro k x y part issues moves
  refine ⟨fun hfn hrd p h => ?_, fun hfn hrd p h => ?_, fun hfn hrd => ?_, fun hfn hrd => ?_, fun h1 h2 n => ?mfmd,
    fun hrd h2 => ?mtmd⟩
  case mfmd =>
    exact ⟨fun hfn => mulInstr_executes hp he (by simp [hfn, h1, h2]),
      fun hfn => mulInstr_executes hp he (by simp [hfn, h1, h2]),
      fun hfn => mulInstr_executes hp he (by simp [hfn, h1, h2])⟩
  case mtmd =>
    exact ⟨fun hfn => mulInstr_executes hp he (by simp [hfn, hrd, h2]),
      fun hfn => mulInstr_executes hp he (by simp [hfn, hrd, h2]),
      fun hfn => mulInstr_executes hp he (by simp [hfn, hrd, h2])⟩
  · exact mulInstr_issues hp he (by simp [hfn, hrd]) (product_signed (u.core k) a h)
  · exact mulInstr_issues hp he (by simp [hfn, hrd]) (product_unsigned (u.core k) a h)
  · exact mulInstr_issues hp he (by simp [hfn, hrd]) (accumulate_signed (u.core k) a)
  · exact mulInstr_issues hp he (by simp [hfn, hrd]) (accumulate_unsigned (u.core k) a)

end Sys2Proof.Proofs
end

section
/-!
PROOFS. Long operations: quotients and remainders as integers, how an operation enters its section, and how it
completes.
-/

namespace Sys2Proof.Proofs

open Sys2Proof.Machine Sys2Proof.Laws

/-! ### Quotients and remainders -/

theorem divResult_signed (x y : Word64) : divResult true x y = BitVec.ofInt 64 (x.toInt.tdiv y.toInt) :=
  BitVec.eq_of_toInt_eq ((BitVec.toInt_sdiv x y).trans (BitVec.toInt_ofInt ..).symm)

theorem divResult_unsigned (x y : Word64) : divResult false x y = BitVec.ofNat 64 (x.toNat / y.toNat) := BitVec.udiv_def

theorem remResult_signed (x y : Word64) : remResult true x y = BitVec.ofInt 64 (x.toInt.tmod y.toInt) := by
  rw [← BitVec.toInt_srem, BitVec.ofInt_toInt]
  rfl

theorem remResult_unsigned (x y : Word64) : remResult false x y = BitVec.ofNat 64 (x.toNat % y.toNat) := BitVec.umod_def

/-! ### Issue -/

section Issue
variable {k : CoreId} {sec : LongSection} {o : LongOp} {s : State}

theorem issueLong_starts (hdm : (s.core k).dm = false) (hfree : (s.core k).busy sec = false) :
    issueLong k sec o s = .done (s.mapCore k (fun c => c.start sec o)) := by
  simp [issueLong, hdm, hfree]

theorem issueLong_waits (hdm : (s.core k).dm = false) (hbusy : (s.core k).busy sec = true) :
    issueLong k sec o s = .stall (pmCount k 0x0C s) := by
  simp [issueLong, hdm, hbusy]

/-- In deterministic mode an operation that raises no exception completes at once. -/
theorem issueLong_ends (hdm : (s.core k).dm = true) (hw : o.writes = true) (hz : o.divZero = false)
    (hf : o.flags % 32 &&& slice ((s.core k).fstat ||| BitVec.ofNat 64 (o.flags % 32)).toNat 8 5 = 0) :
    issueLong k sec o s = .done (s.mapCore k (fun c =>
      { c.setP o.dest o.result with fstat := c.fstat ||| BitVec.ofNat 64 (o.flags % 32) })) := by
  simp only [issueLong, hdm, hw, hz, setP_fstat, hf, if_true, Bool.false_eq_true, if_false, ne_eq, not_true_eq_false]
  rfl

/-- One that raises no flags either writes its result alone. -/
theorem issueLong_endsPlain (hdm : (s.core k).dm = true) (hw : o.writes = true) (hz : o.divZero = false)
    (hf : o.flags = 0) : issueLong k sec o s = .done (s.mapCore k (fun c => c.setP o.dest o.result)) := by
  have hsame (c : Core) : { c.setP o.dest o.result with fstat := c.fstat ||| BitVec.ofNat 64 (o.flags % 32) } =
      c.setP o.dest o.result := by
    have hor : c.fstat ||| BitVec.ofNat 64 (o.flags % 32) = (c.setP o.dest o.result).fstat := by
      rw [hf, setP_fstat]
      exact BitVec.or_zero
    rw [hor]
  rw [issueLong_ends hdm hw hz (by rw [hf]; exact Nat.zero_and _)]
  simp only [hsame]

end Issue

/-- What a division answers: by the mode, by its section and by its divisor. -/
theorem divInstr_executes {key : Instr} {fn : Nat} {f : Word64 → Word64 → Word64} {i : Issue} {a : RArgs} {s u : State}
    (hp : i.par = false) (he : s.Executes i.core (some i.cond) 0 [a.rd, a.rs1, a.rs2] u) (hfn : a.fn.toNat = fn) :
    let k := i.core
    let c := u.core k
    let x := c.reg a.rs1
    let y := c.reg a.rs2
    let starts (v : Word64) (zero : Bool) : Result := .next (retire k (u.mapCore k (fun c =>
      { c with longInt := some ⟨c.regAt a.rd, v, !zero, 0, zero, c.pc, c.order⟩, order := c.order + 1 })))
    (c.dm = false → c.longInt = none → y = 0 → ∃ r, divInstr key fn f i a s = starts r true) ∧
    (c.dm = false → c.longInt = none → y ≠ 0 → divInstr key fn f i a s = starts (f x y) false) ∧
    (c.dm = false → c.longInt ≠ none → divInstr key fn f i a s = .next (pmCount k 0x0C u)) ∧
    (c.dm = true → y ≠ 0 →
      divInstr key fn f i a s = .next (retire k (u.mapCore k (fun c => c.setReg a.rd (f x y))))) := by
  intro k c x y starts
  have hl : (a.fn.toNat == fn) = true := beq_iff_eq.2 hfn
  have hstart {zero : Bool} (hzero : (y == 0) = zero) (hdm : c.dm = false) (hfree : c.longInt = none) :
      divInstr key fn f i a s = starts (f x y) zero := by
    subst hzero
    exact runInstr_done _ _ s u _ he hl hp rfl
      (issueLong_starts (k := k) (sec := .int) hdm (Option.isSome_eq_false_iff.2 (Option.isNone_iff_eq_none.2 hfree)))
  refine ⟨fun hdm hfree hy => ⟨_, hstart (beq_iff_eq.2 hy) hdm hfree⟩,
    fun hdm hfree hy => hstart (beq_false_of_ne hy) hdm hfree, fun hdm hbusy => ?_, fun hdm hy => ?_⟩
  · exact runInstr_stall _ _ s u _ he hl hp rfl
      (issueLong_waits (k := k) (sec := .int) hdm (Option.isSome_iff_ne_none.2 hbusy))
  · have hzero : (y == 0) = false := beq_false_of_ne hy
    exact runInstr_done _ _ s u _ he hl hp rfl
      (issueLong_endsPlain (k := k) (sec := .int) hdm (congrArg (!·) hzero) hzero rfl)

/-- What a floating-point long operation answers. -/
theorem fpLongInstr_executes {key : Instr} {fn : Nat} {unary double : Bool} {f : FpFormat → Fp → Fp → FpOut} {i : Issue}
    {a : RArgs} {s u : State} (hp : i.par = false)
    (he : s.Executes i.core (some i.cond) 0 [a.rd, a.rs1, a.rs2] u) (hfn : a.fn.toNat = fn)
    (hu : unary = true → a.rs2 = 0) :
    let k := i.core
    let c := u.core k
    let fm := fpFormat double
    let o := f fm (fpDecode fm (c.reg a.rs1).toNat) (fpDecode fm (c.reg a.rs2).toNat)
    let e := fpLongInstr key fn unary double f i a s
    (c.dm = false → c.longFp = none → e = .next (retire k (u.mapCore k (fun c =>
      { c with
        longFp := some ⟨c.regAt a.rd, BitVec.ofNat 64 o.bits, true, o.flags, false, c.pc, c.order⟩
        order := c.order + 1 })))) ∧
    (c.dm = false → c.longFp ≠ none → e = .next (pmCount k 0x0C u)) ∧
    (c.dm = true → o.flags % 32 &&& slice (c.fstat ||| BitVec.ofNat 64 (o.flags % 32)).toNat 8 5 = 0 →
      e = .next (retire k (u.mapCore k (fun c =>
        { c.setReg a.rd (BitVec.ofNat 64 o.bits) with fstat := c.fstat ||| BitVec.ofNat 64 (o.flags % 32) })))) := by
  intro k c fm o e
  have hl : (a.fn.toNat == fn && (!unary || a.rs2 == 0)) = true := by
    cases unary with
    | false => simpa using hfn
    | true => simpa using ⟨hfn, hu rfl⟩
  refine ⟨fun hdm hfree => ?_, fun hdm hbusy => ?_, fun hdm hflags => ?_⟩
  · exact runInstr_done _ _ s u _ he hl hp rfl
      (issueLong_starts hdm (Option.isSome_eq_false_iff.2 (Option.isNone_iff_eq_none.2 hfree)))
  · exact runInstr_stall _ _ s u _ he hl hp rfl (issueLong_waits hdm (Option.isSome_iff_ne_none.2 hbusy))
  · exact runInstr_done _ _ s u _ he hl hp rfl (issueLong_ends hdm rfl rfl hflags)

/-! ### Completion -/

/-- An operation that raises no exception writes its result and its flags. -/
theorem finish_plain {c : Core} {o : LongOp} (hz : o.divZero = false)
    (hf : o.flags % 32 &&& slice (c.fstat ||| BitVec.ofNat 64 (o.flags % 32)).toNat 8 5 = 0) :
    c.finish o = { (if o.writes then c.setP o.dest o.result else c) with
      fstat := c.fstat ||| BitVec.ofNat 64 (o.flags % 32) } := by
  have hfstat : (if o.writes then c.setP o.dest o.result else c).fstat = c.fstat := by
    rw [apply_ite Core.fstat, setP_fstat, ite_self]
  simp only [Core.finish, hz, hfstat, hf, Bool.false_eq_true, if_false, ne_eq, not_true_eq_false]

/-- A division by zero writes no result and leaves its exception to be taken. -/
theorem finish_divZero {c : Core} {o : LongOp} (hz : o.divZero = true) (hw : o.writes = false) :
    c.finish o = { c with
      fstat := c.fstat ||| BitVec.ofNat 64 (o.flags % 32), longExcs := c.longExcs ++ [⟨0x0D, 0, o.pc, o.order⟩] } := by
  simp [Core.finish, hz, hw]

theorem takeLongIfReady_none {k : CoreId} {s : State} (h : (s.core k).longExcs = []) : takeLongIfReady k s = s := by
  simp [takeLongIfReady, h]

/-- Exceptions wait for the other section. -/
theorem takeLongIfReady_busy {k : CoreId} {s : State} {p : LongOp} (h : (s.core k).longFp = some p) :
    takeLongIfReady k s = s := by
  simp [takeLongIfReady, h]

theorem execLongOpComplete_int {k : CoreId} {s : State} {o : LongOp} (h : (s.core k).longInt = some o) :
    exec (.longOpComplete k .int) s =
      .next (takeLongIfReady k (s.mapCore k (fun c => { c.finish o with longInt := none }))) := by
  show Host.Outcome.next (takeLongIfReady k (s.setCore k (s.core k).finishInt)) = _
  rw [Core.finishInt, h]
  rfl

theorem execLongOpComplete_fp {k : CoreId} {s : State} {o : LongOp} (h : (s.core k).longFp = some o) :
    exec (.longOpComplete k .fp) s =
      .next (takeLongIfReady k (s.mapCore k (fun c => { c.finish o with longFp := none }))) := by
  show Host.Outcome.next (takeLongIfReady k (s.setCore k (s.core k).finishFp)) = _
  rw [Core.finishFp, h]
  rfl

/-- What an operation that raises no exception leaves of the exceptions already detected. -/
theorem ite_setP_longExcs (c : Core) (o : LongOp) :
    (if o.writes then c.setP o.dest o.result else c).longExcs = c.longExcs := by
  rw [apply_ite Core.longExcs, setP_longExcs, ite_self]

/-- Settles O5: the instructions by how an operation is issued, completion by how it finishes. -/
theorem longOperations : Obligations.LongOperations := by
  refine ⟨fun i a s u hp he => ?integer, fun i a s u hp he => ?floating, fun k s o => ?plain,
    fun k s o p hint hfp hz hw => ?divZero⟩
  case integer =>
    intro k c x y starts ends waits runs
    exact ⟨fun h => divResult_signed x y ▸ divInstr_executes hp he (congrArg BitVec.toNat h),
      fun h => divResult_unsigned x y ▸ divInstr_executes hp he (congrArg BitVec.toNat h),
      fun h => remResult_signed x y ▸ divInstr_executes hp he (congrArg BitVec.toNat h),
      fun h => remResult_unsigned x y ▸ divInstr_executes hp he (congrArg BitVec.toNat h)⟩
  case floating =>
    intro k c x y runs
    exact ⟨fun h => fpLongInstr_executes hp he (congrArg BitVec.toNat h) nofun,
      fun h => fpLongInstr_executes hp he (congrArg BitVec.toNat h) nofun,
      fun h h2 => fpLongInstr_executes (f := fun f x _ => fpSqrt f x) hp he (congrArg BitVec.toNat h) (fun _ => h2),
      fun h h2 => fpLongInstr_executes (f := fun f x _ => fpSqrt f x) hp he (congrArg BitVec.toNat h) (fun _ => h2)⟩
  case plain =>
    intro finished hz hf hexc
    have hfinish : (s.core k).finish o = finished (s.core k) := finish_plain hz hf
    have hnone : (finished (s.core k)).longExcs = [] := (ite_setP_longExcs _ o).trans hexc
    refine ⟨fun h => ?_, fun h => ?_⟩
    · rw [execLongOpComplete_int h, takeLongIfReady_none (by rw [core_mapCore, hfinish]; exact hnone), State.mapCore,
        hfinish]
      rfl
    · rw [execLongOpComplete_fp h, takeLongIfReady_none (by rw [core_mapCore, hfinish]; exact hnone), State.mapCore,
        hfinish]
      rfl
  case divZero =>
    have hfinish := finish_divZero (c := s.core k) hz hw
    rw [execLongOpComplete_int hint, takeLongIfReady_busy (p := p) (by rw [core_mapCore, hfinish]; exact hfp), State.mapCore,
      hfinish]
    rfl

end Sys2Proof.Proofs
end

section
/-!
PROOFS. Floating point: how an instruction of the group ends, and the special values of its operations.
-/

namespace Sys2Proof.Proofs

open Sys2Proof.Machine Sys2Proof.Laws

/-! ### Instructions -/

/-- Instruction `e` of core k adds `flags` to FSTAT.FLG of `w`; it retires, or, where one of them is enabled, takes cause
0x0E (R87). -/
def FpEnds (s : State) (k : CoreId) (e : Result) (flags : Nat) (w : State) : Prop :=
  let v := w.mapCore k (fun c => { c with fstat := c.fstat ||| BitVec.ofNat 64 (flags % 32) })
  (flags % 32 &&& slice (v.core k).fstat.toNat 8 5 = 0 → e = .next (retire k v)) ∧
  (flags % 32 &&& slice (v.core k).fstat.toNat 8 5 ≠ 0 → ∃ t, s.Fetches k t ∧
    e = .next (raiseExc k (t.core k).oldest ⟨0x0E, flags % 32, none, false, false⟩ t v))

theorem runInstr_fpRetire {d : Issued} {k : CoreId} {body : State → Act} {s u w : State} {flags : Nat}
    (hk : d.core = k) (he : s.Executes k d.cond d.level d.regs u) (hl : d.legal = true) (hp : d.par = false)
    (hb : d.branch = false) (hd : body u = fpRetire k flags w) : FpEnds s k (runInstr d body s) flags w := by
  subst hk
  exact ⟨fun hf => runInstr_done d body s u _ he hl hp hb (hd.trans (if_neg (not_not.2 hf))),
    fun hf => runInstr_exc d body s u _ _ he hl hp hb (hd.trans (if_pos hf))⟩

theorem fpInstr_executes {key : Instr} {op : Nat} {unary : Bool} {f : FpFormat → Nat → Nat → FpOut} {i : Issue}
    {a : RArgs} {s u : State} {o : FpOut} (hp : i.par = false)
    (he : s.Executes i.core (some i.cond) 0 [a.rd, a.rs1, a.rs2] u) (hop : a.fn.toNat % 64 = op)
    (hu : unary = true → a.rs2 = 0)
    (ho : f (fpFormat (a.fn.getLsbD 6)) ((u.core i.core).reg a.rs1).toNat ((u.core i.core).reg a.rs2).toNat = o) :
    FpEnds s i.core (fpInstr key op unary f i a s) o.flags
      (u.mapCore i.core (fun c => c.setReg a.rd (BitVec.ofNat 64 o.bits))) := by
  subst ho
  refine runInstr_fpRetire rfl he ?_ hp rfl rfl
  cases unary with
  | false => simpa using hop
  | true => simpa using ⟨hop, hu rfl⟩

theorem fpFromInt_toNat (f : FpFormat) (x : Word64) : fpFromInt f (BitVec.ofNat 64 x.toNat) = fpFromInt f x := by
  rw [BitVec.ofNat_toNat, BitVec.setWidth_eq]

/-- FCVT.X reads the format that fn[6] does not select. -/
theorem otherFormat (double : Bool) : (if fpFormat double = binary64 then binary32 else binary64) =
    if double then binary32 else binary64 := by cases double <;> rfl

/-- Settles O6: each instruction by its operation on the operands. -/
theorem floatingPoint : Obligations.FloatingPoint := by
  intro i a s u hp k c x y fm other p q op ends leaves
  refine ⟨fun he => ⟨fun h => ?_, fun h => ?_, fun h => ?_, fun h => ?_, fun h => ?_, fun h h2 => ?_, fun h h2 => ?_,
    fun h h2 => ?_, fun h h2 => ?_, fun h h2 => ?_⟩, fun he h hrd => ?compare⟩
  case compare => exact runInstr_fpRetire rfl he (by simpa using ⟨h, hrd⟩) hp rfl rfl
  · exact fpInstr_executes hp he h nofun rfl
  · exact fpInstr_executes hp he h nofun rfl
  · exact fpInstr_executes hp he h nofun rfl
  · exact fpInstr_executes hp he h nofun rfl
  · exact fpInstr_executes hp he h nofun rfl
  · exact fpInstr_executes (o := fpAbs fm p) hp he h (fun _ => h2) rfl
  · exact fpInstr_executes (o := fpNegate fm p) hp he h (fun _ => h2) rfl
  · exact fpInstr_executes (key := .fcvtL i.clean a) (o := ⟨(fpToInt p).1.toNat, (fpToInt p).2⟩)
      (f := fun f x _ => ⟨(fpToInt (fpDecode f x)).1.toNat, (fpToInt (fpDecode f x)).2⟩) hp he h (fun _ => h2) rfl
  · exact fpInstr_executes (key := .fcvtF i.clean a) (f := fun f x _ => fpFromInt f (BitVec.ofNat 64 x))
      hp he h (fun _ => h2) (fpFromInt_toNat fm (c.reg a.rs1))
  · exact fpInstr_executes (key := .fcvtX i.clean a)
      (f := fun f x _ => fpConvert f (fpDecode (if f = binary64 then binary32 else binary64) x))
      hp he h (fun _ => h2) (congrArg (fun f => fpConvert fm (fpDecode f x)) (otherFormat (a.fn.getLsbD 6)))

/-! ### Special values -/

section Special
variable (f : FpFormat) (s t : Bool) (m n : Nat) (e g : Int)

theorem fpAdd_inf_opposite : fpAdd f (.inf s) (.inf (!s)) = ⟨fpNan f, 16⟩ := by cases s <;> rfl
theorem fpAdd_inf_same : fpAdd f (.inf s) (.inf s) = ⟨fpInf f s, 0⟩ := if_pos rfl
theorem fpMul_inf_fin (hn : n ≠ 0) : fpMul f (.inf s) (.fin t n e) = ⟨fpInf f (s ^^ t), 0⟩ := by
  simp [fpMul, hn, Fp.sign]
theorem fpDiv_by_zero (hm : m ≠ 0) : fpDiv f (.fin s m e) (.fin t 0 g) = ⟨fpInf f (s ^^ t), 8⟩ := by
  simp [fpDiv, hm, Fp.sign]
theorem fpDiv_by_inf : fpDiv f (.fin s m e) (.inf t) = ⟨fpZero f (s ^^ t), 0⟩ := by simp [fpDiv, Fp.sign]
theorem fpSqrt_negative (hm : m ≠ 0) : fpSqrt f (.fin true m e) = ⟨fpNan f, 16⟩ := by simp [fpSqrt, hm, fpNanOut]
theorem fpCompare_self : fpCompare (.fin s m e) (.fin s m e) = (0b0110, 0) := by
  simp [fpCompare, Fp.isNan, fpOrd]

end Special

/-- Settles O7: the operations' branches for NaNs, infinities and zeros. -/
theorem floatingPointSpecialValues : Obligations.FloatingPointSpecialValues := fun f s t m n e g _ =>
  ⟨rfl, rfl, rfl, rfl, rfl, fpAdd_inf_opposite f s, fpAdd_inf_same f s, rfl, rfl, fpMul_inf_fin f s t n e, rfl, rfl,
    fpDiv_by_zero f s t m e g, fpDiv_by_inf f s t m e, fpSqrt_negative f m e, rfl, rfl, rfl, rfl, fpCompare_self s m e,
    rfl, rfl⟩

end Sys2Proof.Proofs
end

section
/-!
PROOFS. Stores, copies, exclusives and atomics: what an access whose checks pass answers, and the instructions that make
it.
-/

namespace Sys2Proof.Proofs

open Sys2Proof.Machine Sys2Proof.Laws

/-! ### Accesses -/

section Access
variable {k : CoreId} {va : Word64} {size v : Nat} {u t w : State} {ps : List Part}

/-- Outside deterministic mode the store is buffered. -/
theorem storeAccess_buffered (h : u.Stores k false va size ps t) (hdm : (t.core k).dm = false) :
    storeAccess k va size v u = .ok (t.mapCore k (fun c => c.buffered (storeEntries c.seatid ps v))) := by
  rw [storeAccess_stores k va size v u t ps h, issueStores_buffered k ps v t hdm]
  rfl

/-- A store whose pieces all issue. -/
theorem storeAccess_issued (h : u.Stores k false va size ps t) (hw : issueStores k ps v t = (w, true)) :
    storeAccess k va size v u = .ok w := by
  rw [storeAccess_stores k va size v u t ps h, hw]
  rfl

/-- An access that is prepared and not stopped by a comparator uses its data. -/
theorem loadChecked_data {use : LoadUse} {up : Upset} {s a b : State} {d : Nat}
    (hcmp : dataCompare k 1 ps a = (none, false, b)) (hdev : devLoadReady k ps b = true)
    (hread : readParts k up false ps b = (.data d, t)) : loadChecked k use up (.ok ps) s a = useLoaded k use ps d t := by
  simp [loadChecked, hcmp, hdev, loadParts, hread]

end Access

/-! ### Immediate and indexed forms -/

section Forms
variable {i : Issue} {s u t : State} {ps : List Part}

theorem storeInstr_stored {key : Instr} {size : Nat} {a : IArgs} {w : State} (hp : i.par = false)
    (he : s.Executes i.core (some i.cond) 0 [a.rd, a.rs1] u)
    (h : storeAccess i.core ((u.core i.core).reg a.rs1 + simm a.imm) size ((u.core i.core).reg a.rd).toNat u = .ok w) :
    storeInstr key size i a s = .next (retire i.core w) := by
  refine runInstr_done _ _ s u w he rfl hp rfl ?_
  simp only [h]

/-- A store by an immediate form, in normal and in deterministic mode. -/
theorem storeInstr_stores {key : Instr} {size : Nat} {a : IArgs} (hp : i.par = false)
    (he : s.Executes i.core (some i.cond) 0 [a.rd, a.rs1] u)
    (h : u.Stores i.core false ((u.core i.core).reg a.rs1 + a.imm.signExtend 64) size ps t) :
    let v := ((u.core i.core).reg a.rd).toNat
    ((t.core i.core).dm = false → storeInstr key size i a s =
      .next (retire i.core (t.mapCore i.core (fun c => c.buffered (storeEntries c.seatid ps v))))) ∧
    (∀ w, (t.core i.core).dm = true → issueStores i.core ps v t = (w, true) →
      storeInstr key size i a s = .next (retire i.core w)) :=
  ⟨fun hdm => storeInstr_stored hp he (storeAccess_buffered h hdm),
    fun _ _ hw => storeInstr_stored hp he (storeAccess_issued h hw)⟩

variable {a : RArgs} {up : Upset}

theorem ldstLegal_store (hst : a.fn.getLsbD 5 = true) (huz : a.fn.getLsbD 4 = false)
    (hpost : a.fn.getLsbD 6 = true → a.rs2 = 0 ∧ a.fn.toNat % 4 = 0) : ldstLegal a = true := by
  unfold ldstLegal
  simp only [hst, huz]
  cases h6 : a.fn.getLsbD 6 with
  | false => rfl
  | true =>
    obtain ⟨hrs2, hscale⟩ := hpost h6
    simp [ldst_scale, hrs2, hscale]

theorem execLdst_storeIndexed (hp : i.par = false) (he : s.Executes i.core (some i.cond) 0 [a.rd, a.rs1, a.rs2] u)
    (hst : a.fn.getLsbD 5 = true) (huz : a.fn.getLsbD 4 = false) (h6 : a.fn.getLsbD 6 = false)
    (h : u.Stores i.core false ((u.core i.core).reg a.rs1 + ((u.core i.core).reg a.rs2 <<< (a.fn.toNat % 4)))
      (2 ^ (a.fn.toNat / 4 % 4)) ps t) (hdm : (t.core i.core).dm = false) :
    execLdst i a up s = .next (retire i.core (t.mapCore i.core (fun c =>
      c.buffered (storeEntries c.seatid ps ((u.core i.core).reg a.rd).toNat)))) := by
  refine runInstr_done _ _ s u _ he (ldstLegal_store hst huz (fun h1 => absurd h1 (by rw [h6]; decide))) hp rfl ?_
  simp only [hst, h6, ldst_scale, ldst_size, if_true, Bool.false_eq_true, if_false, storeAccess_buffered h hdm]

theorem execLdst_storePost (hp : i.par = false) (he : s.Executes i.core (some i.cond) 0 [a.rd, a.rs1, a.rs2] u)
    (hst : a.fn.getLsbD 5 = true) (huz : a.fn.getLsbD 4 = false) (h6 : a.fn.getLsbD 6 = true) (hrs2 : a.rs2 = 0)
    (hscale : a.fn.toNat % 4 = 0)
    (h : u.Stores i.core false ((u.core i.core).reg a.rs1) (2 ^ (a.fn.toNat / 4 % 4)) ps t)
    (hdm : (t.core i.core).dm = false) :
    execLdst i a up s = .next (retire i.core (t.mapCore i.core (fun c =>
      (c.buffered (storeEntries c.seatid ps ((u.core i.core).reg a.rd).toNat)).setReg a.rs1
        ((u.core i.core).reg a.rs1 + BitVec.ofNat 64 (2 ^ (a.fn.toNat / 4 % 4)))))) := by
  refine runInstr_done _ _ s u _ he (ldstLegal_store hst huz (fun _ => ⟨hrs2, hscale⟩)) hp rfl ?_
  simp only [hst, h6, ldst_size, if_true, storeAccess_buffered h hdm, mapCore_mapCore]

theorem mcpy_size (h : a.fn.toNat < 4) : Machine.sizeOf (slice a.fn.toNat 0 2) = 2 ^ a.fn.toNat := by
  rw [ldst_scale, Nat.mod_eq_of_lt h]
  rfl

theorem execMcpy_copies {w : State} {qs : List Part} {d : Nat} (hp : i.par = false)
    (he : s.Executes i.core (some i.cond) 0 [a.rd, a.rs1] u) (hrs2 : a.rs2 = 0) (hfn : a.fn.toNat < 4)
    (hne : a.rd ≠ a.rs1) (hload : u.Loads i.core false ((u.core i.core).reg a.rs1) (2 ^ a.fn.toNat) up ps d t)
    (hstore : t.Stores i.core false ((t.core i.core).getP ((u.core i.core).regAt a.rd)) (2 ^ a.fn.toNat) qs w)
    (hdm : (w.core i.core).dm = false) :
    execMcpy i a up s = .next (retire i.core (w.mapCore i.core (fun c =>
      let step : Word64 := BitVec.ofNat 64 (2 ^ a.fn.toNat)
      let dst := (u.core i.core).regAt a.rd
      let src := (u.core i.core).regAt a.rs1
      let c := c.buffered (storeEntries c.seatid qs d)
      (c.setP dst (c.getP dst + step)).setP src (c.getP src + step)))) := by
  have hl : (a.rs2 == 0 && decide (a.fn.toNat < 4) && a.rd != a.rs1) = true := by simp [hrs2, hfn, hne]
  refine runInstr_done _ _ s u _ he hl hp rfl ?_
  simp only [mcpy_size hfn, loadAccess_loads _ _ _ _ _ _ _ _ _ hload, useLoaded, storeAccess_buffered hstore hdm,
    mapCore_mapCore]

end Forms

/-- Settles O9: each form by its access, and two pieces by the bytes of each. -/
theorem storesAndCopies : Obligations.StoresAndCopies := by
  refine ⟨fun i a s u t ps hp he => ?immediate, fun i a up s u t ps hp he => ?indexed,
    fun i a up s u t w ps qs d hp he => ?copy, fun _ _ _ _ _ => rfl⟩
  case immediate =>
    exact ⟨fun h => storeInstr_stores hp he h, fun h => storeInstr_stores hp he h, fun h => storeInstr_stores hp he h,
      fun h => storeInstr_stores hp he h⟩
  case indexed =>
    intro k base size v hst huz hdm
    exact ⟨fun h6 h => execLdst_storeIndexed hp he hst huz h6 h hdm,
      fun h6 hrs2 hscale h => execLdst_storePost hp he hst huz h6 hrs2 hscale h hdm⟩
  case copy =>
    intro k size step dst src hrs2 hfn hne hload hstore hdm
    exact execMcpy_copies hp he hrs2 hfn hne hload hstore hdm

/-! ### Exclusives and atomics -/

section Atomics
variable {i : Issue} {a : RArgs} {up : Upset} {s u b t w : State} {p : Part} {d : Nat}

theorem atomLegal_of {n : Nat} (h : a.fn.toNat = 16 * n + 8 ∨ a.fn.toNat = 16 * n + 12) : atomLegal n a = true := by
  simpa only [atomLegal, Bool.or_eq_true, beq_iff_eq, Nat.mul_comm n] using h

theorem execLdx_loads (hp : i.par = false) (he : s.Executes i.core (some i.cond) 0 [a.rd, a.rs1] u)
    (hcode : atomLegal 0 a = true) (hrs2 : a.rs2 = 0)
    (h : u.Loads i.core true ((u.core i.core).reg a.rs1) (atomSize a) up [p] d t) :
    execLdx i a up s = .next (retire i.core (t.mapCore i.core (fun c =>
      { c.setP ((u.core i.core).regAt a.rd) (BitVec.ofNat 64 d) with
        reservation := some ⟨p.pa, atomSize a, !c.dm && c.l1d.any (fun e => e.line == p.pa / 64)⟩ }))) := by
  obtain ⟨hup, x, y, hprep, hcmp, hdev, hread⟩ := h
  have hl : (atomLegal 0 a && a.rs2 == 0) = true := by simp [hcode, hrs2]
  have hprep : prepareAtom i.core .read ((u.core i.core).reg a.rs1).toNat (atomSize a) u = (.ok [p], x) := hprep
  refine runInstr_done _ _ s u _ he hl hp rfl ?_
  simp only [if_neg hup, hprep, loadChecked_data hcmp hdev hread]
  rfl

/-- An STX whose reservation is gone stores nothing. -/
theorem execStx_unreserved (hp : i.par = false) (he : s.Executes i.core (some i.cond) 0 [a.rd, a.rs1, a.rs2] u)
    (hcode : atomLegal 1 a = true)
    (hprep : prepareAtom i.core .write ((u.core i.core).reg a.rs1).toNat (atomSize a) u = (.ok [p], b))
    (hres : (b.core i.core).reserves p.pa (atomSize a) = false) :
    execStx i a s = .next (retire i.core (b.mapCore i.core (fun c => { c.setReg a.rd 1 with reservation := none }))) := by
  refine runInstr_done _ _ s u _ he hcode hp rfl ?_
  simp only [hprep, hres, Bool.not_false, if_true]

theorem execStx_reserved (hp : i.par = false) (he : s.Executes i.core (some i.cond) 0 [a.rd, a.rs1, a.rs2] u)
    (hcode : atomLegal 1 a = true)
    (hprep : prepareAtom i.core .write ((u.core i.core).reg a.rs1).toNat (atomSize a) u = (.ok [p], b))
    (hres : (b.core i.core).reserves p.pa (atomSize a) = true) (hcmp : dataCompare i.core 2 [p] b = (none, false, t))
    (hstore : storeNow i.core p ((u.core i.core).reg a.rs2).toNat t = (w, true)) :
    execStx i a s = .next (retire i.core (w.mapCore i.core (fun c => { c.setReg a.rd 0 with reservation := none }))) := by
  refine runInstr_done _ _ s u _ he hcode hp rfl ?_
  simp only [hprep, hres, hcmp, hstore, Bool.not_true, Bool.false_eq_true, if_false, if_true]

/-- SWAP and ADDA once the load's and the store's checks pass: `v` is what they store. -/
theorem swapInstr_swaps {key : Instr} {op v : Nat} {add : Bool} {q : Part} {r m : State} (hp : i.par = false)
    (he : s.Executes i.core (some i.cond) 0 [a.rd, a.rs1, a.rs2] u) (hcode : atomLegal op a = true)
    (hread : prepareAtom i.core .read ((u.core i.core).reg a.rs1).toNat (atomSize a) u = (.ok [q], r)) (hup : up ≠ .tlb)
    (hwrite : r.Stores i.core true ((u.core i.core).reg a.rs1) (atomSize a) [p] m)
    (hcmp : dataCompare i.core 1 [p] m = (none, false, b)) (hdev : devLoadReady i.core [p] b = true)
    (hdata : readParts i.core up false [p] b = (.data d, t))
    (hv : (if add then d + ((u.core i.core).reg a.rs2).toNat else ((u.core i.core).reg a.rs2).toNat) = v)
    (hstore : storeNow i.core p v t = (w, true)) :
    swapInstr key op add i a up none s = .next (retire i.core (w.mapCore i.core (fun c =>
      c.setP ((u.core i.core).regAt a.rd) (BitVec.ofNat 64 d)))) := by
  obtain ⟨x, hprep, hcmp2⟩ := hwrite
  have hprep : prepareAtom i.core .write ((u.core i.core).reg a.rs1).toNat (atomSize a) r = (.ok [p], x) := hprep
  refine runInstr_done _ _ s u _ he hcode hp rfl ?_
  simp only [microBody, if_neg hup, hread, hprep, hcmp2, Bool.false_eq_true, if_false, loadChecked_data hcmp hdev hdata,
    useLoaded, hv, hstore, if_true]
  rfl

end Atomics

/-- Settles O10: each instruction by its checks and its access. -/
theorem exclusivesAndAtomics : Obligations.ExclusivesAndAtomics := by
  intro i a up s u b t w p q d hp k rd va y size code he
  refine ⟨fun he' hcode hrs2 h => execLdx_loads hp he' (atomLegal_of hcode) hrs2 h,
    fun hcode hprep hres => execStx_unreserved hp he (atomLegal_of hcode) hprep hres,
    fun hcode h hprep hres hstore => ?reserved, fun r m hread hup hwrite hcmp hdev hdata => ⟨fun hcode hstore => ?_,
      fun hcode hstore => ?_⟩⟩
  case reserved =>
    obtain ⟨x, hprep', hcmp⟩ := h
    obtain rfl : x = b := congrArg Prod.snd (hprep'.symm.trans hprep)
    exact execStx_reserved hp he (atomLegal_of hcode) hprep hres hcmp hstore
  · exact swapInstr_swaps (add := false) hp he (atomLegal_of hcode) hread hup hwrite hcmp hdev hdata rfl hstore
  · exact swapInstr_swaps (add := true) hp he (atomLegal_of hcode) hread hup hwrite hcmp hdev hdata rfl hstore

end Sys2Proof.Proofs
end

section
/-!
PROOFS. Branches, calls and returns: the outcome that the trace records, the transfer of control, and the windows.
-/

namespace Sys2Proof.Proofs

open Sys2Proof.Machine Sys2Proof.Laws

/-! ### Before the transfer -/

/-- The state that a taken branch's effect starts from: the trace has its outcome, unless it is unconditional. -/
def branchTaken (i : Issue) (u : State) : State := if i.cond = 0 then u else traceAtom i.core true u

theorem atom_branch (i : Issue) (key : Instr) (legal : Bool) (regs : List (Fin 32)) (u : State) :
    Issued.atom ⟨i.core, key, some i.cond, i.par, legal, 0, regs, false, true⟩ true u = branchTaken i u := by
  by_cases h : i.cond = 0 <;> simp [Issued.atom, branchTaken, h]

theorem branchTaken_core (i : Issue) (k : CoreId) (u : State) : (branchTaken i u).core k = u.core k := by
  unfold branchTaken
  split
  · rfl
  · exact core_congr _ k _ (traceAtom_cores ..)

theorem resolveHint_core (k l : CoreId) (cond : Fin 15) (h taken : Bool) (s : State) :
    (resolveHint k cond h taken s).core l = s.core l := by
  unfold resolveHint
  split
  · rfl
  · exact pmCount_core ..

/-- A conditional instruction that transfers control. -/
theorem runInstr_branch {i : Issue} {key : Instr} {legal : Bool} {regs : List (Fin 32)} {body : State → Act}
    {s u v : State} {t : Word64} (hp : i.par = false) (he : s.Executes i.core (some i.cond) 0 regs u)
    (hl : legal = true) (hd : body (branchTaken i u) = .jump t v) :
    runInstr ⟨i.core, key, some i.cond, i.par, legal, 0, regs, false, true⟩ body s = .next (retireTo i.core t v) :=
  runInstr_jump _ body s u v t he hl hp (by rw [atom_branch]; exact hd)

/-- A conditional instruction whose target raises an exception. -/
theorem runInstr_branchExc {i : Issue} {key : Instr} {legal : Bool} {regs : List (Fin 32)} {body : State → Act}
    {s u v : State} {x : Exc} (hp : i.par = false) (he : s.Executes i.core (some i.cond) 0 regs u)
    (hl : legal = true) (hd : body (branchTaken i u) = .exc x v) : ∃ r, s.Fetches i.core r ∧
    runInstr ⟨i.core, key, some i.cond, i.par, legal, 0, regs, false, true⟩ body s =
      .next (raiseExc i.core (r.core i.core).oldest x r v) := by
  obtain ⟨r, hr, hrun⟩ := runInstr_executes
    ⟨i.core, key, some i.cond, i.par, legal, 0, regs, false, true⟩ body s u he hl hp
  refine ⟨r, hr, hrun.trans ?_⟩
  rw [atom_branch, hd]
  rfl

/-! ### Calls -/

section Calls
variable {k : CoreId} {t : Word64} {s : State}

theorem callTo_direct (htw : (s.core k).twOn = false) (ht : t.toNat % 4 = 0) (hres : (s.core k).res < 11) :
    callTo k t false s = .jump t ((pushReturn k ((s.core k).pc + 4) s).mapCore k Core.called) := by
  simp only [callTo, htw, ht, Nat.not_le.2 hres, Bool.false_eq_true, if_false, ne_eq, not_true_eq_false]

theorem callTo_indirect (htw : (s.core k).twOn = false) (ht : t.toNat % 4 = 0) (hres : (s.core k).res < 11) :
    callTo k t true s = .jump t ((pushReturn k ((s.core k).pc + 4)
      (traceTarget k 0x3 t (resolveIndirect k false t s))).mapCore k Core.called) := by
  simp only [callTo, htw, ht, Nat.not_le.2 hres, Bool.false_eq_true, if_false, ne_eq, not_true_eq_false, if_true]

/-- A displacement keeps the alignment of the address it is added to. -/
theorem aligned_add_dispOf {pc : Word64} (d : BitVec 21) (h : pc.toNat % 4 = 0) : (pc + dispOf d).toNat % 4 = 0 := by
  have hdisp : (dispOf d).toNat % 4 = 0 := by
    rw [dispOf, BitVec.toNat_shiftLeft, Nat.shiftLeft_eq]
    omega
  rw [BitVec.toNat_add]
  omega

end Calls

/-! ### Instructions -/

section Instructions
variable {i : Issue} {s u : State}

/-- An unconditional branch has no hint (R109). -/
theorem hintLegal {h : Bool} (hl : ¬ (i.cond = 0 ∧ h = true)) : (!(i.cond == 0 && h)) = true := by
  rw [Bool.not_eq_true', ← Bool.not_eq_true, Bool.and_eq_true, beq_iff_eq]
  exact hl

theorem execB_taken {a : BArgs} (hp : i.par = false) (he : s.Executes i.core (some i.cond) 0 [] u)
    (hl : ¬ (i.cond = 0 ∧ a.h = true)) : execB i a s = .next (retireTo i.core
      ((u.core i.core).pc + dispOf a.disp) (resolveHint i.core i.cond a.h true (branchTaken i u))) := by
  refine runInstr_branch hp he (hintLegal hl) ?_
  rw [branchTaken_core]

theorem execCall_taken {a : BArgs} (hp : i.par = false) (he : s.Executes i.core (some i.cond) 0 [10] u)
    (hl : ¬ (i.cond = 0 ∧ a.h = true)) (htw : (u.core i.core).twOn = false) (hpc : (u.core i.core).pc.toNat % 4 = 0)
    (hres : (u.core i.core).res < 11) : execCall i a s = .next (retireTo i.core ((u.core i.core).pc + dispOf a.disp)
      ((pushReturn i.core ((u.core i.core).pc + 4)
        (resolveHint i.core i.cond a.h true (branchTaken i u))).mapCore i.core Core.called)) := by
  have hcore : (resolveHint i.core i.cond a.h true (branchTaken i u)).core i.core = u.core i.core := by
    rw [resolveHint_core, branchTaken_core]
  refine runInstr_branch hp he (hintLegal hl) ?_
  rw [callTo_direct (by rw [hcore]; exact htw) ?_ (by rw [hcore]; exact hres), hcore, branchTaken_core]
  rw [branchTaken_core]
  exact aligned_add_dispOf a.disp hpc

theorem execJmpl_taken {a : IArgs} (hp : i.par = false) (he : s.Executes i.core (some i.cond) 0 [a.rd, a.rs1] u)
    (ht : ((u.core i.core).reg a.rs1 + simm a.imm).toNat % 4 = 0) :
    let t := (u.core i.core).reg a.rs1 + simm a.imm
    execJmpl i a s = .next (retireTo i.core t ((traceTarget i.core 0x3 t
      (let w := resolveIndirect i.core (a.rs1 == 10 && a.rd == 0) t (branchTaken i u)
       if a.rd = 10 then pushReturn i.core ((u.core i.core).pc + 4) w else w)).mapCore i.core
      (fun c => c.setReg a.rd (c.pc + 4)))) := by
  refine runInstr_branch hp he rfl ?_
  simp only [branchTaken_core, ht, ne_eq, not_true_eq_false, if_false]

theorem execJmpl_misaligned {a : IArgs} (hp : i.par = false) (he : s.Executes i.core (some i.cond) 0 [a.rd, a.rs1] u)
    (ht : ((u.core i.core).reg a.rs1 + simm a.imm).toNat % 4 ≠ 0) : ∃ r, s.Fetches i.core r ∧
    execJmpl i a s = .next (raiseExc i.core (r.core i.core).oldest
      ⟨0x04, 0, some ((u.core i.core).reg a.rs1 + simm a.imm), false, false⟩ r (branchTaken i u)) := by
  refine runInstr_branchExc hp he rfl ?_
  simp only [branchTaken_core, ht, ne_eq, not_false_eq_true, if_true, excAt, BitVec.ofNat_toNat, BitVec.setWidth_eq]

theorem execCallr_taken {a : IArgs} (hp : i.par = false) (he : s.Executes i.core (some i.cond) 0 [a.rs1, 10] u)
    (hrd : a.rd = 0) (ht : ((u.core i.core).reg a.rs1 + simm a.imm).toNat % 4 = 0)
    (htw : (u.core i.core).twOn = false) (hres : (u.core i.core).res < 11) :
    let t := (u.core i.core).reg a.rs1 + simm a.imm
    execCallr i a s = .next (retireTo i.core t ((pushReturn i.core ((u.core i.core).pc + 4)
      (traceTarget i.core 0x3 t (resolveIndirect i.core false t (branchTaken i u)))).mapCore i.core Core.called)) := by
  refine runInstr_branch hp he (beq_iff_eq.2 hrd) ?_
  rw [branchTaken_core, callTo_indirect (by rw [branchTaken_core]; exact htw) ht (by rw [branchTaken_core]; exact hres),
    branchTaken_core]

theorem execRetw_taken {a : RArgs} (hp : i.par = false) (he : s.Executes i.core (some i.cond) 0 [10] u)
    (hl : (a.rd == 0 && a.rs1 == 0 && a.rs2 == 0 && a.fn == 0) = true)
    (ht : ((u.core i.core).reg 10).toNat % 4 = 0) (ha : (u.core i.core).awaited [27] = false)
    (hres : 1 < (u.core i.core).res) :
    let t := (u.core i.core).reg 10
    execRetw i a s = .next (retireTo i.core t
      ((traceTarget i.core 0x3 t (resolveIndirect i.core true t (branchTaken i u))).mapCore i.core Core.returned)) := by
  refine runInstr_branch hp he hl ?_
  simp only [branchTaken_core, ht, ha, Nat.not_le.2 hres, ne_eq, not_true_eq_false, if_false, Bool.false_eq_true]

end Instructions

/-! ### Windows -/

section Windows
variable (c : Core)

theorem called_twOn : c.called.twOn = c.twOn := by
  have hps : c.called.pstate = c.pstate := (setP_pstate ..).trans (setP_pstate ..)
  rw [Core.twOn, hps, Core.twOn]

theorem returned_twOn : c.returned.twOn = c.twOn := by
  have hps : c.returned.pstate = c.pstate := setP_pstate ..
  rw [Core.twOn, hps, Core.twOn]

theorem called_getP (p : PReg) : c.called.getP p =
    ((c.setP (.win ((c.cwp + 1) % 12) 15) (c.getP (.g 10))).setP (.g 10) (c.pc + 4)).getP p := by cases p <;> rfl

theorem returned_getP (p : PReg) : c.returned.getP p = (c.setP (.g 10) (c.reg 27)).getP p := by cases p <;> rfl

/-- A call leaves every register but G10 and the new window's L11 alone. -/
theorem called_getP_other {p : PReg} (hg : p ≠ .g 10) (hw : p ≠ .win ((c.cwp + 1) % 12) 15) :
    c.called.getP p = c.getP p := by
  rw [called_getP, getP_setP_other _ _ hg.symm, getP_setP_other _ _ hw.symm]

theorem called_getP_g10 : c.called.getP (.g 10) = c.pc + 4 := by
  rw [called_getP, getP_setP_g _ _ (by decide) (by decide)]

theorem called_getP_l11 : c.called.getP (.win ((c.cwp + 1) % 12) 15) = c.getP (.g 10) := by
  rw [called_getP, getP_setP_other _ _ (by nofun), getP_setP_win _ _ (Nat.mod_lt _ (by decide)) (by decide)]

variable {c}

/-- A0 to A3 after a call are B0 to B3 before it. -/
theorem called_args (htw : c.twOn = false) (r : Fin 4) :
    c.called.reg (12 + r.castLE (by decide)) = c.reg (28 + r.castLE (by decide)) := by
  have h12 : ((12 : Fin 32) + r.castLE (by decide)).val = 12 + r.val := by rw [Fin.val_add]; simp; omega
  have h28 : ((28 : Fin 32) + r.castLE (by decide)).val = 28 + r.val := by rw [Fin.val_add]; simp; omega
  rw [Core.reg, Core.reg, regAt_current _ (by omega) (by omega) ((called_twOn c).trans htw), regAt_next _ (by omega) htw,
    show c.called.cwp = (c.cwp + 1) % 12 from rfl, h12, h28, Nat.add_sub_cancel_left, Nat.add_sub_cancel_left]
  exact called_getP_other c nofun (fun h => by injection h; omega)

/-- B0 to B3 after a return are A0 to A3 before it. -/
theorem returned_args (htw : c.twOn = false) (hcwp : c.cwp < 12) (r : Fin 4) :
    c.returned.reg (28 + r.castLE (by decide)) = c.reg (12 + r.castLE (by decide)) := by
  have h12 : ((12 : Fin 32) + r.castLE (by decide)).val = 12 + r.val := by rw [Fin.val_add]; simp; omega
  have h28 : ((28 : Fin 32) + r.castLE (by decide)).val = 28 + r.val := by rw [Fin.val_add]; simp; omega
  have hback : (c.returned.cwp + 1) % 12 = c.cwp := by
    rw [show c.returned.cwp = (c.cwp + 11) % 12 from rfl]
    omega
  rw [Core.reg, Core.reg, regAt_current _ (by omega) (by omega) htw, regAt_next _ (by omega) ((returned_twOn c).trans htw),
    hback, h12, h28, Nat.add_sub_cancel_left, Nat.add_sub_cancel_left, returned_getP]
  exact getP_setP_other c _ nofun

end Windows

/-- Settles O11: each instruction by its target, and the windows by the registers that a call and a return write. -/
theorem branchesAndCalls : Obligations.BranchesAndCalls := by
  refine ⟨fun i a s u hp => ?direct, fun i a s u hp => ?indirect, fun i a s u hp he => ?ret, fun c htw hcwp => ?windows⟩
  case direct =>
    intro k v c t hl
    exact ⟨fun he => execB_taken hp he hl, fun he htw hpc hres => execCall_taken hp he hl htw hpc hres⟩
  case indirect =>
    intro k v c t
    exact ⟨fun he ht => execJmpl_taken hp he ht, fun he ht => execJmpl_misaligned hp he ht,
      fun he hrd ht htw hres => execCallr_taken hp he hrd ht htw hres⟩
  case ret =>
    intro k v c t hrd h1 h2 hfn ht ha hres
    exact execRetw_taken hp he (by simp [hrd, h1, h2, hfn]) ht ha hres
  case windows =>
    have hl11 : c.called.regAt 27 = .win ((c.cwp + 1) % 12) 15 :=
      regAt_current _ (by decide) (by decide) ((called_twOn c).trans htw)
    refine ⟨rfl, rfl, called_getP_g10 c, ?_, fun r hne hr => ?_, called_args htw, ?_, rfl, rfl, returned_args htw hcwp⟩
    · rw [Core.reg, hl11]
      exact called_getP_l11 c
    · rw [Core.reg, Core.reg, regAt_global _ hr, regAt_global _ hr]
      exact called_getP_other c (fun h => hne (Fin.ext (PReg.g.inj h))) nofun
    · exact (returned_getP c (.g 10)).trans (getP_setP_g c _ (by decide) (by decide))

end Sys2Proof.Proofs
end

section
/-!
PROOFS. MFC and MTC, TWR and TRD: the instruction that reads or writes a register, and what each control register takes.
-/

namespace Sys2Proof.Proofs

open Sys2Proof.Machine Sys2Proof.Laws

/-! ### Instructions -/

section Instructions
variable {i : XIssue} {s u : State} {n : Nat}

theorem execMfc_reads {a : IArgs} (hp : i.par = false) (hreg : (ctrlLevels n).isSome = true) (hn : a.imm.toNat = n)
    (h1 : a.rs1 = 0) (he : s.Executes i.core none (readLevel n) [a.rd] u) :
    execMfc i a s = .next (retire i.core (u.mapCore i.core (fun c => c.setReg a.rd (u.readCtrl i.core n)))) := by
  subst hn
  exact runInstr_done _ _ s u _ he (by simp [hreg, h1]) hp rfl rfl

/-- A write of any control register but PSTATE. -/
theorem execMtc_writes {a : IArgs} (hp : i.par = false) (hreg : (ctrlLevels n).isSome = true) (h0 : n ≠ 0)
    (hn : a.imm.toNat = n) (hrd : a.rd = 0) (he : s.Executes i.core none (writeLevel n) [a.rs1] u) :
    execMtc i a s = .next (retire i.core (u.setCore i.core
      ((u.core i.core).writeCtrl n ((u.core i.core).reg a.rs1)))) := by
  subst hn
  exact runInstr_done _ _ s u _ he (by simp [hreg, hrd]) hp rfl (if_neg h0)

/-- A write of PSTATE that leaves the mode. -/
theorem execMtc_writesPstate {a : IArgs} (hp : i.par = false)
    (hdm : u.dmWanted i.core ((u.core i.core).reg a.rs1) = (u.core i.core).dm) (hn : a.imm.toNat = 0) (hrd : a.rd = 0)
    (he : s.Executes i.core none 1 [a.rs1] u) :
    execMtc i a s = .next (retire i.core (u.setCore i.core
      ((u.core i.core).writeCtrl 0 ((u.core i.core).reg a.rs1)))) := by
  have hlevel : writeLevel a.imm.toNat = 1 := by rw [hn]; rfl
  refine runInstr_done ⟨i.core, _, none, i.par, (ctrlLevels a.imm.toNat).isSome && a.rd == 0, writeLevel a.imm.toNat,
    [a.rs1], false, false⟩ _ s u _ (hlevel ▸ he) (by simp [hn, hrd, ctrlLevels]) hp rfl ?_
  simp only [hn, if_true, writePstate, hdm, beq_self_eq_true]
  rfl

theorem execTwr_writes {a : RArgs} (hp : i.par = false) (hn : n < 3) (he : s.Executes i.core none 1 [a.rs1] u)
    (hrd : a.rd = 0) (h2 : a.rs2 = 0) (hfn : a.fn.toNat = 0x40 + n) : execTwr i a s =
    .next (retire i.core (u.setCore i.core ((u.core i.core).writeXlat n ((u.core i.core).reg a.rs1)))) := by
  obtain rfl : n = a.fn.toNat - 0x40 := by omega
  exact runInstr_done _ _ s u _ he (by simp [hn, hrd, h2]; omega) hp rfl rfl

theorem execTrd_reads {a : RArgs} (hp : i.par = false) (hn : n < 3) (he : s.Executes i.core none 1 [a.rd] u)
    (h1 : a.rs1 = 0) (h2 : a.rs2 = 0) (hfn : a.fn.toNat = 0x60 + n) : execTrd i a s =
    .next (retire i.core (u.setCore i.core ((u.core i.core).setReg a.rd ((u.core i.core).readXlat n)))) := by
  obtain rfl : n = a.fn.toNat - 0x60 := by omega
  exact runInstr_done _ _ s u _ he (by simp [hn, h1, h2]; omega) hp rfl rfl

end Instructions

/-! ### Registers -/

/-- FLAGS shows NZCV in their places of PSTATE (R88). -/
theorem flags_inPlace (c : Core) : BitVec.ofNat 64 (c.flags.toNat * 2 ^ 28) = c.pstate &&& 0xF0000000 := by
  have hmask : ∀ b : Fin 64, (0xF0000000 : Word64).getLsbD b.val = (decide (28 ≤ b.val) && decide (b.val < 32)) := by
    decide
  apply BitVec.eq_of_getLsbD_eq
  intro b hb
  rw [BitVec.getLsbD_and, hmask ⟨b, hb⟩, BitVec.getLsbD_ofNat, Nat.testBit_mul_two_pow, BitVec.testBit_toNat,
    Core.flags, BitVec.getLsbD_extractLsb']
  by_cases h28 : 28 ≤ b
  · have hsub : 28 + (b - 28) = b := by omega
    by_cases h32 : b < 32
    · simp [hb, h28, h32, hsub, show b - 28 < 4 by omega]
    · simp [hb, h28, h32, show ¬ b - 28 < 4 by omega]
  · simp [h28]

theorem readCtrl_coreNumber (s : State) (k : CoreId) : s.readCtrl k 0xC =
    if s.pairLocked (k.val / 2) then BitVec.ofNat 64 (256 + k.val / 2 * 2) else BitVec.ofNat 64 k.val :=
  apply_ite (BitVec.ofNat 64) _ _ _

section Writes
variable (c : Core) (x : Word64)

/-- A PPL of 2, and of 3 below Monitor, is left. -/
theorem writeCtrl_pstate : c.writeCtrl 0x0 x =
    let m : Word64 := if slice x.toNat 8 2 = 2 ∨ c.pl = 1 ∧ slice x.toNat 8 2 = 3 then 0xF0000030 else 0xF0000330
    { c with pstate := (c.pstate &&& ~~~m) ||| (x &&& m) } := by
  have hmask : pstateMask &&& ~~~(0x300 : Word64) = 0xF0000030 := by decide
  simp only [Core.writeCtrl, Bool.or_eq_true, Bool.and_eq_true, beq_iff_eq, hmask]
  rfl

theorem writeCtrl_tvec_monitor (h : c.pl = 3) : c.writeCtrl 0x5 x = { c with tvec := x } := by
  simp only [Core.writeCtrl, h, if_true]

theorem writeCtrl_tvec_kernel (h : c.pl ≠ 3) : c.writeCtrl 0x5 x =
    { c with tvec := (c.tvec &&& 0xFFFFFFFF00000000) ||| (x &&& 0xFFFFFFFF) } := by
  simp only [Core.writeCtrl, h, if_false]

theorem writeCtrl_res : c.writeCtrl 0x8 x = { c with res := min c.res (slice x.toNat 8 4) } := by
  simp only [Core.writeCtrl]
  split
  next h => rw [Nat.min_eq_right h.le]
  next h => rw [Nat.min_eq_left (Nat.not_lt.1 h)]

end Writes

/-- Settles O13: each register by its case of the read and of the write. -/
theorem controlRegisters : Obligations.ControlRegisters := by
  refine ⟨fun i a s u hp => ?mfc, fun i a s u hp => ?mtc, fun i a s u hp => ?xlat⟩
  case mfc =>
    intro k c reads
    have hread {n : Nat} {v : Word64} (hreg : (ctrlLevels n).isSome = true) (hlevel : readLevel n = if n ≤ 6 then 1 else 0)
        (hv : u.readCtrl k n = v) : reads n v :=
      fun hn h1 he => hv ▸ execMfc_reads hp hreg hn h1 (hlevel ▸ he)
    exact ⟨hread rfl rfl rfl, hread rfl rfl rfl, hread rfl rfl rfl, hread rfl rfl rfl, hread rfl rfl rfl, hread rfl rfl rfl,
      hread rfl rfl rfl, hread rfl rfl rfl, hread rfl rfl rfl, hread rfl rfl rfl, hread rfl rfl (flags_inPlace c),
      hread rfl rfl rfl, hread rfl rfl (readCtrl_coreNumber u k)⟩
  case mtc =>
    intro k c x writes m
    have hwrite {n : Nat} {d : Core} (hreg : (ctrlLevels n).isSome = true) (h0 : n ≠ 0) (hd : c.writeCtrl n x = d) :
        writes n (writeLevel n) d := fun hn hrd he => hd ▸ execMtc_writes hp hreg h0 hn hrd he
    exact ⟨fun hdm hn hrd he => writeCtrl_pstate c x ▸ execMtc_writesPstate hp hdm hn hrd he,
      hwrite rfl (by decide) rfl, hwrite rfl (by decide) rfl, hwrite rfl (by decide) rfl, hwrite rfl (by decide) rfl,
      fun h => hwrite rfl (by decide) (writeCtrl_tvec_monitor c x h),
      fun h => hwrite rfl (by decide) (writeCtrl_tvec_kernel c x h), hwrite rfl (by decide) rfl,
      hwrite rfl (by decide) rfl, hwrite rfl (by decide) (writeCtrl_res c x), hwrite rfl (by decide) rfl,
      hwrite rfl (by decide) rfl, hwrite rfl (by decide) rfl, hwrite rfl (by decide) rfl⟩
  case xlat =>
    intro k c x
    refine ⟨fun he hrd h2 => ?_, fun he h1 h2 => ?_⟩
    · exact ⟨execTwr_writes (n := 0) hp (by decide) he hrd h2, execTwr_writes (n := 1) hp (by decide) he hrd h2,
        execTwr_writes (n := 2) hp (by decide) he hrd h2⟩
    · exact ⟨execTrd_reads (n := 0) hp (by decide) he h1 h2, execTrd_reads (n := 1) hp (by decide) he h1 h2,
        execTrd_reads (n := 2) hp (by decide) he h1 h2⟩

end Sys2Proof.Proofs
end

section
/-!
PROOFS. PSTATE by its bits: what a field that is replaced reads as, and that the other fields stay; and what completing
the outstanding work of a core leaves alone.
-/

namespace Sys2Proof.Proofs

open Sys2Proof.Machine Sys2Proof.Laws

/-! ### Fields of a number -/

/-- A number with `w` bits at `lo` replaced, as the bits above, the new ones and the bits below. -/
theorem withSlice_eq (v lo w x : Nat) :
    withSlice v lo w x = 2 ^ lo * (2 ^ w * (v / 2 ^ lo / 2 ^ w) + x % 2 ^ w) + v % 2 ^ lo := by
  have hlow := Nat.div_add_mod v (2 ^ lo)
  have hmid := Nat.div_add_mod (v / 2 ^ lo) (2 ^ w)
  have hv : v = 2 ^ lo * (2 ^ w * (v / 2 ^ lo / 2 ^ w)) + v % 2 ^ lo + slice v lo w * 2 ^ lo := by
    rw [slice, Nat.mul_comm _ (2 ^ lo), Nat.add_right_comm, ← Nat.mul_add, hmid, hlow]
  have hsub : v - slice v lo w * 2 ^ lo = 2 ^ lo * (2 ^ w * (v / 2 ^ lo / 2 ^ w)) + v % 2 ^ lo := by omega
  rw [withSlice, hsub, Nat.mul_add, Nat.mul_comm (x % 2 ^ w)]
  omega

theorem testBit_withSlice (v lo w x b : Nat) : (withSlice v lo w x).testBit b =
    if lo ≤ b ∧ b < lo + w then x.testBit (b - lo) else v.testBit b := by
  rw [withSlice_eq, Nat.testBit_two_pow_mul_add _ (Nat.mod_lt _ (by positivity))]
  by_cases hlo : b < lo
  · rw [if_pos hlo, if_neg (by omega), Nat.testBit_mod_two_pow, decide_eq_true hlo, Bool.true_and]
  · rw [if_neg hlo, Nat.testBit_two_pow_mul_add _ (Nat.mod_lt _ (by positivity))]
    by_cases hw : b - lo < w
    · rw [if_pos hw, if_pos (by omega), Nat.testBit_mod_two_pow, decide_eq_true hw, Bool.true_and]
    · rw [if_neg hw, if_neg (by omega), Nat.testBit_div_two_pow, Nat.testBit_div_two_pow]
      congr 1
      omega

theorem testBit_slice (v lo w b : Nat) : (slice v lo w).testBit b = (decide (b < w) && v.testBit (lo + b)) := by
  rw [slice, Nat.testBit_mod_two_pow, Nat.testBit_div_two_pow, Nat.add_comm]

/-! ### PSTATE -/

section Pstate
variable (c : Core)

theorem getLsbD_setPs (lo w v : Nat) {b : Nat} (hb : b < 64) : (c.setPs lo w v).pstate.getLsbD b =
    if lo ≤ b ∧ b < lo + w then v.testBit (b - lo) else c.pstate.getLsbD b := by
  show (BitVec.ofNat 64 (withSlice c.pstate.toNat lo w v)).getLsbD b = _
  rw [BitVec.getLsbD_ofNat, decide_eq_true hb, Bool.true_and, testBit_withSlice, BitVec.testBit_toNat]

/-- A field that is replaced. -/
theorem slice_setPs (lo w v : Nat) (h : lo + w ≤ 64) : slice (c.setPs lo w v).pstate.toNat lo w = v % 2 ^ w := by
  apply Nat.eq_of_testBit_eq
  intro b
  rw [testBit_slice, Nat.testBit_mod_two_pow, BitVec.testBit_toNat]
  by_cases hb : b < w
  · rw [getLsbD_setPs _ _ _ _ (by omega), if_pos (by omega), Nat.add_sub_cancel_left]
  · rw [decide_eq_false hb, Bool.false_and, Bool.false_and]

/-- A field beside one that is replaced. -/
theorem slice_setPs_other (lo w v : Nat) {m n : Nat} (hn : m + n ≤ 64) (h : m + n ≤ lo ∨ lo + w ≤ m) :
    slice (c.setPs lo w v).pstate.toNat m n = slice c.pstate.toNat m n := by
  apply Nat.eq_of_testBit_eq
  intro b
  rw [testBit_slice, testBit_slice, BitVec.testBit_toNat, BitVec.testBit_toNat]
  by_cases hb : b < n
  · rw [getLsbD_setPs _ _ _ _ (by omega), if_neg (by omega)]
  · rw [decide_eq_false hb, Bool.false_and, Bool.false_and]

theorem ppl_lt : c.ppl < 4 := Nat.mod_lt _ (by decide)

/-- Level and interrupt enable as a return sets them: PL from PPL and IE from PIE. -/
def returnLevel (c : Core) : Core := (c.setPs 6 2 c.ppl).setPs 4 1 (bit c.pie)

theorem returnLevel_pl : (returnLevel c).pl = c.ppl := by
  rw [Core.pl, returnLevel, slice_setPs_other _ _ _ _ (by decide) (by decide), slice_setPs _ _ _ _ (by decide)]
  exact Nat.mod_eq_of_lt (ppl_lt c)

theorem returnLevel_ie : (returnLevel c).ie = c.pie := by
  rw [Core.ie, returnLevel, getLsbD_setPs _ _ _ _ (by decide), if_pos (by decide)]
  cases c.pie <;> rfl

theorem returnLevel_twOn : (returnLevel c).twOn = c.twOn := by
  rw [Core.twOn, returnLevel, getLsbD_setPs _ _ _ _ (by decide), if_neg (by decide), getLsbD_setPs _ _ _ _ (by decide),
    if_neg (by decide), Core.twOn]

/-- Out of the trap window (TW = 0). -/
theorem setTw_twOn : (c.setPs 10 1 0).twOn = false := by
  rw [Core.twOn, getLsbD_setPs _ _ _ _ (by decide), if_pos (by decide)]
  rfl

theorem setTw_pl : (c.setPs 10 1 0).pl = c.pl := slice_setPs_other c 10 1 0 (by decide) (by decide)

theorem setTw_ppl : (c.setPs 10 1 0).ppl = c.ppl := slice_setPs_other c 10 1 0 (by decide) (by decide)

theorem setTw_ie : (c.setPs 10 1 0).ie = c.ie := by
  rw [Core.ie, getLsbD_setPs _ _ _ _ (by decide), if_neg (by decide), Core.ie]

theorem setTw_pie : (c.setPs 10 1 0).pie = c.pie := by
  rw [Core.pie, getLsbD_setPs _ _ _ _ (by decide), if_neg (by decide), Core.pie]

end Pstate

/-! ### Outstanding work -/

section Work
variable (c : Core)

/-- Completing an operation writes its register, the flags and the exceptions. -/
theorem finish_fields (o : LongOp) : ∃ g win tw f l,
    c.finish o = { c with g := g, win := win, tw := tw, fstat := f, longExcs := l } := by
  obtain ⟨g, win, tw, hset⟩ : ∃ g win tw, (if o.writes then c.setP o.dest o.result else c) =
      { c with g := g, win := win, tw := tw } := by
    split
    · exact setP_files c o.dest o.result
    · exact ⟨_, _, _, rfl⟩
  unfold Core.finish
  rw [hset]
  dsimp only
  split
  · exact ⟨_, _, _, _, _, rfl⟩
  · split <;> exact ⟨_, _, _, _, _, rfl⟩

theorem finishInt_fields : ∃ g win tw f l o,
    c.finishInt = { c with g := g, win := win, tw := tw, fstat := f, longExcs := l, longInt := o } := by
  unfold Core.finishInt
  split
  next o _ =>
    obtain ⟨g, win, tw, f, l, h⟩ := finish_fields c o
    exact ⟨g, win, tw, f, l, none, by rw [h]⟩
  next => exact ⟨_, _, _, _, _, _, rfl⟩

theorem finishFp_fields : ∃ g win tw f l o,
    c.finishFp = { c with g := g, win := win, tw := tw, fstat := f, longExcs := l, longFp := o } := by
  unfold Core.finishFp
  split
  next o _ =>
    obtain ⟨g, win, tw, f, l, h⟩ := finish_fields c o
    exact ⟨g, win, tw, f, l, none, by rw [h]⟩
  next => exact ⟨_, _, _, _, _, _, rfl⟩

/-- Completing both sections writes the registers, the flags, the exceptions and the sections. -/
theorem settle_fields : ∃ g win tw f l o p, c.settle =
    { c with g := g, win := win, tw := tw, fstat := f, longExcs := l, longInt := o, longFp := p } := by
  have hboth : ∀ d : Core, (d = c.finishInt.finishFp ∨ d = c.finishFp.finishInt) → ∃ g win tw f l o p, d =
      { c with g := g, win := win, tw := tw, fstat := f, longExcs := l, longInt := o, longFp := p } := by
    rintro d (rfl | rfl)
    · obtain ⟨_, _, _, _, _, o, h1⟩ := finishInt_fields c
      obtain ⟨g, win, tw, f, l, p, h2⟩ := finishFp_fields c.finishInt
      exact ⟨g, win, tw, f, l, o, p, by rw [h2, h1]⟩
    · obtain ⟨_, _, _, _, _, p, h1⟩ := finishFp_fields c
      obtain ⟨g, win, tw, f, l, o, h2⟩ := finishInt_fields c.finishFp
      exact ⟨g, win, tw, f, l, o, p, by rw [h2, h1]⟩
  refine hboth c.settle ?_
  unfold Core.settle
  split
  · split
    · exact .inl rfl
    · exact .inr rfl
  · exact .inl rfl

theorem foldl_landOne_fields : ∀ (l : List MdWrite) (c : Core), ∃ h m a,
    l.foldl Core.landOne c = { c with mdh := h, mdl := m, mda := a }
  | [], _ => ⟨_, _, _, rfl⟩
  | w :: l, c => by
    obtain ⟨h, m, a, e⟩ := foldl_landOne_fields l (c.landOne w)
    exact ⟨h, m, a, e⟩

/-- Once its outstanding work has ended, a core has its stores, its seat and its resident windows. -/
theorem settled_landed : c.settle.landAll.stores = c.stores ∧ c.settle.landAll.seatid = c.seatid := by
  obtain ⟨_, _, _, hland⟩ := foldl_landOne_fields c.settle.mdFlight c.settle
  obtain ⟨_, _, _, _, _, _, _, hsettle⟩ := settle_fields c
  rw [Core.landAll, hland, hsettle]
  exact ⟨rfl, rfl⟩

end Work

end Sys2Proof.Proofs
end

section
/-!
PROOFS. Barriers, the flushes of windows, and WAIT.
-/

namespace Sys2Proof.Proofs

open Sys2Proof.Machine Sys2Proof.Laws

theorem noFields_of {a : RArgs} (hrd : a.rd = 0) (h1 : a.rs1 = 0) (h2 : a.rs2 = 0) (hfn : a.fn = 0) :
    noFields a = true := by simp [noFields, hrd, h1, h2, hfn]

/-! ### Stores -/

theorem storesSent_iff {c : Core} :
    c.storesSent = true ↔ ∀ e ∈ c.stores, e.sent = true ∧ e.type ≠ .deviceStrict := by
  simp [Core.storesSent, List.all_eq_true]

theorem storesDone_iff {c : Core} :
    c.storesDone = true ↔ ∀ e ∈ c.stores, e.type = .devicePosted ∧ e.sent = true := by
  simp [Core.storesDone, StoreEntry.posted, List.all_eq_true]

theorem storesDone_of_empty {c : Core} (h : c.stores = []) : c.storesDone = true := by simp [Core.storesDone, h]

/-! ### BAR -/

section Bar
variable {i : XIssue} {a : RArgs} {s u : State}

/-- The stores that a barrier waits for (R291 to R294): none for a barrier of loads alone. -/
def barFree (ty sc : Nat) (c : Core) : Bool :=
  if ty = 1 then true else if sc = 0 then c.storesSent else c.storesDone

theorem barFree_done {ty sc : Nat} {c : Core} (h : ty = 1 ∨ ∀ e ∈ c.stores, e.sent = true ∧
    (if sc = 0 then e.type ≠ .deviceStrict else e.type = .devicePosted)) : barFree ty sc c = true := by
  unfold barFree
  by_cases hty : ty = 1
  · rw [if_pos hty]
  · have hall := h.resolve_left hty
    rw [if_neg hty]
    by_cases hsc : sc = 0
    · rw [if_pos hsc, storesSent_iff]
      exact fun e he => ⟨(hall e he).1, by simpa [hsc] using (hall e he).2⟩
    · rw [if_neg hsc, storesDone_iff]
      exact fun e he => ⟨by simpa [hsc] using (hall e he).2, (hall e he).1⟩

theorem barFree_waits {ty sc : Nat} {c : Core} (hty : ty ≠ 1) (h : ∃ e ∈ c.stores, e.sent = false) :
    barFree ty sc c = false := by
  obtain ⟨e, he, hsent⟩ := h
  rw [barFree, if_neg hty, ← Bool.not_eq_true]
  split
  · exact fun hall => by simp [(storesSent_iff.1 hall e he).1] at hsent
  · exact fun hall => by simp [(storesDone_iff.1 hall e he).2] at hsent

theorem bar_fields {ty sc : Nat} (hfn : a.fn.toNat = 4 * ty + sc) (hty : ty ≤ 3) (hsc : sc ≤ 2) :
    barType a = ty ∧ barScope a = sc ∧ slice a.fn.toNat 4 3 = 0 := by
  simp only [barType, barScope, slice, hfn]
  omega

theorem execBar_executes {ty sc : Nat} (hp : i.par = false) (he : s.Executes i.core none 0 [] u)
    (hrd : a.rd = 0) (h1 : a.rs1 = 0) (h2 : a.rs2 = 0) (hfn : a.fn.toNat = 4 * ty + sc) (hty0 : 1 ≤ ty) (hty : ty ≤ 3)
    (hsc : sc ≤ 2) :
    execBar i a s = if barFree ty sc (u.core i.core) then .next (retire i.core u) else .next u := by
  obtain ⟨htype, hscope, hzero⟩ := bar_fields hfn hty hsc
  have hl : barLegal a = true := by
    have ht : ty ≠ 0 := by omega
    have hs : sc ≠ 3 := by omega
    simp [barLegal, hrd, h1, h2, hzero, htype, hscope, ht, hs]
  have hrun (b : Bool) (hb : barFree ty sc (u.core i.core) = b) :
      (let c := u.core i.core
       let free := if barType a = 1 then true else if barScope a = 0 then c.storesSent else c.storesDone
       if free then Act.done u else .stall u) = if b then .done u else .stall u := by
    rw [htype, hscope, ← hb]
    rfl
  cases hb : barFree ty sc (u.core i.core) with
  | true => exact runInstr_done _ _ s u _ he hl hp rfl (hrun _ hb)
  | false => exact runInstr_stall _ _ s u _ he hl hp rfl (hrun _ hb)

end Bar

/-! ### Flushes -/

theorem drainWhere_empty {k : CoreId} {p : StoreEntry → Bool} {s : State} (h : (s.core k).stores = []) (n : Nat) :
    drainWhere k p n s = s := by
  cases n with
  | zero => rfl
  | succ n => simp [drainWhere, h]

/-- A flush whose spills all succeed, with the store buffer empty. -/
theorem flushWindows_spilled {k : CoreId} {n : Nat} {after : State → Act} {s t : State}
    (hb : (s.core k).flushBlocked n = false) (hs : spillTo k n 12 s = (.ok, t)) (ht : (t.core k).stores = []) :
    flushWindows k n after s = after t := by
  simp [flushWindows, hb, hs, drainWhere_empty ht, ht]

section Flush
variable {i : XIssue} {a : RArgs} {s u v : State}

theorem execFlushw_spilled (hp : i.par = false) (he : s.Executes i.core none 0 [] u) (hrd : a.rd = 0) (h1 : a.rs1 = 0)
    (h2 : a.rs2 = 0) (hfn : a.fn = 0) (hb : (u.core i.core).flushBlocked 1 = false)
    (hs : spillTo i.core 1 12 u = (.ok, v)) (hv : (v.core i.core).stores = []) :
    execFlushw i a none s = .next (retire i.core v) :=
  runInstr_done _ _ s u _ he (noFields_of hrd h1 h2 hfn) hp rfl (flushWindows_spilled hb hs hv)

theorem execFlushwA_spilled (hp : i.par = false) (he : s.Executes i.core none 0 [] u) (hrd : a.rd = 0) (h1 : a.rs1 = 0)
    (h2 : a.rs2 = 0) (hfn : a.fn = 1) (hb : (u.core i.core).flushBlocked 0 = false)
    (hs : spillTo i.core 0 12 u = (.ok, v)) (hv : (v.core i.core).stores = []) :
    execFlushwA i a none s = .next (retire i.core (v.mapCore i.core Core.clearB)) :=
  runInstr_done _ _ s u _ he (by simp [hrd, h1, h2, hfn]) hp rfl
    (flushWindows_spilled (after := fun t => .done (t.mapCore i.core Core.clearB)) hb hs hv)

end Flush

/-! ### LBAR and WAIT -/

section Wait
variable {i : XIssue} {a : RArgs} {s u : State}

theorem execLbar_settled (hp : i.par = false) (he : s.Executes i.core none 0 [] u) (hl : noFields a = true)
    (hexc : (u.core i.core).settle.longExcs = []) :
    execLbar i a s = .next (retire i.core (u.mapCore i.core Core.settle)) := by
  refine runInstr_done _ _ s u _ he hl hp rfl ?_
  simp only [core_mapCore, hexc, List.length_nil, ne_eq, not_true_eq_false, if_false]

theorem execWait_c1 (hp : i.par = false) (he : s.Executes i.core none 1 [] u) (hl : noFields a = true)
    (hdm : (u.core i.core).dm = false) (hd : u.get PWC_CCTL_DEPTH i.core.val ≤ 1) :
    execWait i a s = .next (retire i.core (u.setCState i.core.val 1)) := by
  refine runInstr_done _ _ s u _ he hl hp rfl ?_
  simp only [hdm, Bool.false_eq_true, if_false, hd, if_true]
  rfl

/-- C2 and C3 come once the core's outstanding work has ended. -/
theorem execWait_c2 (hp : i.par = false) (he : s.Executes i.core none 1 [] u) (hl : noFields a = true)
    (hdm : (u.core i.core).dm = false) (hstores : (u.core i.core).stores = [])
    (hexc : (u.core i.core).settle.landAll.longExcs = []) (hd : u.get PWC_CCTL_DEPTH i.core.val = 2) :
    execWait i a s = .next (retire i.core (coreSleep i.core 2 (u.mapCore i.core (fun c => c.settle.landAll)))) := by
  refine runInstr_done _ _ s u _ he hl hp rfl ?_
  simp [hdm, hd, storesDone_of_empty hstores, hexc]

theorem execWait_c3 (hp : i.par = false) (he : s.Executes i.core none 1 [] u) (hl : noFields a = true)
    (hdm : (u.core i.core).dm = false) (hstores : (u.core i.core).stores = [])
    (hexc : (u.core i.core).settle.landAll.longExcs = []) (hd : u.get PWC_CCTL_DEPTH i.core.val = 3) :
    execWait i a s =
      .next (coreSleep i.core 3 (pmCount i.core 0x01 (u.mapCore i.core (fun c => c.settle.landAll)))) := by
  refine runInstr_stall _ _ s u _ he hl hp rfl ?_
  simp [hdm, hd, storesDone_of_empty hstores, hexc]

end Wait

theorem coreSleep_demoted {k : CoreId} {s : State} (h : s.inRotation k.val = true) :
    coreSleep k 2 s = (s.setCState k.val 1).put PWC_CCTL_DEMOTE 1 k.val := by
  simp [coreSleep, h]

theorem coreSleep_c2 {k : CoreId} {s : State} (h : s.inRotation k.val = false) : coreSleep k 2 s =
    releaseTokens (fun w => (s.pairOf k.val).any (fun m => w == .core m))
      (writeSaveArea k.val ((s.setCState k.val 2).mapCore k Core.enterC2)) := by
  simp [coreSleep, h]

/-- Settles O14: each instruction by what it waits for. -/
theorem barriersFlushesAndWaits : Obligations.BarriersFlushesAndWaits := by
  intro i a s u hp k c hrd h1 h2
  refine ⟨fun he => ⟨fun ty sc hfn hty0 hty hsc => ?bar, fun hfn => ?isync, fun hfn hexc => ?lbar,
    fun v hb hfn hs hv => execFlushw_spilled hp he hrd h1 h2 hfn hb hs hv,
    fun v hb hfn hs hv => execFlushwA_spilled hp he hrd h1 h2 hfn hb hs hv⟩, fun he hfn hdm => ?wait⟩
  case bar =>
    have hbar := execBar_executes hp he hrd h1 h2 hfn hty0 hty hsc
    exact ⟨fun h => hbar.trans (if_pos (barFree_done h)),
      fun hne h => hbar.trans (if_neg (by rw [barFree_waits hne h]; decide))⟩
  case isync => exact runInstr_done _ _ s u _ he (noFields_of hrd h1 h2 hfn) hp rfl rfl
  case lbar => exact execLbar_settled hp he (noFields_of hrd h1 h2 hfn) hexc
  case wait =>
    have hl := noFields_of hrd h1 h2 hfn
    refine ⟨fun hd => execWait_c1 hp he hl hdm hd,
      fun hstores hexc => ⟨fun hd hrot => ?_, fun hd hrot => ?_, fun hd => ?_⟩⟩
    · exact coreSleep_demoted hrot ▸ execWait_c2 hp he hl hdm hstores hexc hd
    · exact coreSleep_c2 hrot ▸ execWait_c2 hp he hl hdm hstores hexc hd
    · exact execWait_c3 hp he hl hdm hstores hexc hd

end Sys2Proof.Proofs
end

section
/-!
PROOFS. TRAP, BRK, RETI and SWSEAT: the exceptions that the first two enter, the return, and the change of the seat's
context.
-/

namespace Sys2Proof.Proofs

open Sys2Proof.Machine Sys2Proof.Laws

/-! ### TRAP and BRK -/

/-- An instruction that enters its exception behind itself. -/
theorem runInstr_excAfter {d : Issued} {body : State → Act} {s u v : State} {x : Exc}
    (he : s.Executes d.core d.cond d.level d.regs u) (hl : d.legal = true) (hp : d.par = false) (hb : d.branch = false)
    (hd : body u = .excAfter x v) :
    ∃ t, s.Fetches d.core t ∧ runInstr d body s = .next (raiseExc d.core ((t.core d.core).pc + 4) x t v) := by
  obtain ⟨t, ht, e⟩ := runInstr_executes d body s u he hl hp
  refine ⟨t, ht, e.trans ?_⟩
  simp [Issued.atom, hb, hd, finishAct]

/-- An instruction that returns. -/
theorem runInstr_ret {d : Issued} {body : State → Act} {s u v : State} {pc : Word64}
    (he : s.Executes d.core d.cond d.level d.regs u) (hl : d.legal = true) (hp : d.par = false) (hb : d.branch = false)
    (hd : body u = .ret pc v) : runInstr d body s = .next (retireRet d.core pc v) := by
  obtain ⟨_, -, e⟩ := runInstr_executes d body s u he hl hp
  rw [e]
  simp [Issued.atom, hb, hd, finishAct]

section Calls
variable {i : XIssue} {a : IArgs} {s u : State}

theorem execTrap_enters (hp : i.par = false) (he : s.Executes i.core none 0 [] u) (hrd : a.rd = 0) (h1 : a.rs1 = 0) :
    ∃ t, s.Fetches i.core t ∧ execTrap i a s =
      .next (raiseExc i.core ((t.core i.core).pc + 4) ⟨0x0F, a.imm.toNat, none, false, false⟩ t u) :=
  runInstr_excAfter (d := ⟨i.core, .trap i.clean a, none, i.par, a.rd == 0 && a.rs1 == 0, 0, [], false, false⟩) he
    (by simp [hrd, h1]) hp rfl rfl

/-- BRK halts where debug covers the seat (R593). -/
def brkHalts (k : CoreId) (u : State) : Prop :=
  u.vddDbg = true ∧ u.flag DBG_CCTL_BRKHALT k.val = true ∧ u.debugCovers (u.core k).seatid = true

theorem brkHalts_iff (k : CoreId) (u : State) : brkHalts k u ↔
    (u.vddDbg && u.flag DBG_CCTL_BRKHALT k.val && u.debugCovers (u.core k).seatid) = true := by
  simp only [brkHalts, Bool.and_eq_true, and_assoc]

theorem execBrk_enters (hp : i.par = false) (he : s.Executes i.core none 0 [] u) (hrd : a.rd = 0) (h1 : a.rs1 = 0)
    (himm : a.imm = 0) (h : ¬ brkHalts i.core u) : ∃ t, s.Fetches i.core t ∧
    execBrk i a s = .next (raiseExc i.core (t.core i.core).oldest ⟨0x10, 0, none, false, false⟩ t u) :=
  runInstr_exc ⟨i.core, .brk i.clean a, none, i.par, a.rd == 0 && a.rs1 == 0 && a.imm == 0, 0, [], false, false⟩ _ s u u _
    he (by simp [hrd, h1, himm]) hp rfl (if_neg (mt (brkHalts_iff _ _).2 h))

theorem execBrk_halts (hp : i.par = false) (he : s.Executes i.core none 0 [] u) (hrd : a.rd = 0) (h1 : a.rs1 = 0)
    (himm : a.imm = 0) (h : brkHalts i.core u) :
    execBrk i a s = .next (retire i.core (u.mapCore i.core (fun c => { c with haltReq := true }))) :=
  runInstr_done _ _ s u _ he (by simp [hrd, h1, himm]) hp rfl (if_pos ((brkHalts_iff _ _).1 h))

end Calls

/-! ### RETI -/

section Return
variable {i : XIssue} {a : RArgs} {s u : State}

theorem execReti_returns (hp : i.par = false) (he : s.Executes i.core none 1 [] u) (hl : noFields a = true)
    (hnone : u.heldEvent i.core (u.core i.core).ppl (u.core i.core).pie = none)
    (hw : (u.core i.core).twOn = true ∨ 1 < (u.core i.core).res) : execReti i a s =
    .next (retireRet i.core (u.core i.core).epc
      (traceTime i.core (traceTarget i.core 0x5 (u.core i.core).epc (u.mapCore i.core Core.returnFrom)))) := by
  have hthere : (!(u.core i.core).twOn && decide ((u.core i.core).res ≤ 1)) = false := by
    rcases hw with h | h
    · simp [h]
    · simp [Nat.not_le.2 h]
  refine runInstr_ret (d := ⟨i.core, .reti i.clean a, none, i.par, noFields a, 1, [], false, false⟩) he hl hp rfl ?_
  simp only [hnone, hthere, Bool.false_eq_true, if_false]

theorem execReti_waits (hp : i.par = false) (he : s.Executes i.core none 1 [] u) (hl : noFields a = true)
    (hnone : u.heldEvent i.core (u.core i.core).ppl (u.core i.core).pie = none)
    (htw : (u.core i.core).twOn = false) (hres : (u.core i.core).res ≤ 1) :
    execReti i a s = .next (u.mapCore i.core (fun c => { c with fillWait := true })) := by
  refine runInstr_stall _ _ s u _ he hl hp rfl ?_
  simp only [hnone, htw, hres, Bool.not_false, decide_true, Bool.and_self, if_true]

theorem execReti_chains {h : HeldEvent} (hp : i.par = false) (he : s.Executes i.core none 1 [] u)
    (hl : noFields a = true) (hheld : u.heldEvent i.core (u.core i.core).ppl (u.core i.core).pie = some h)
    (hexc : (u.core i.core).settle.longExcs = []) :
    execReti i a s = .next (stepEnds i.core (chainTo i.core h (u.mapCore i.core Core.settle))) := by
  refine runInstr_stall _ _ s u _ he hl hp rfl ?_
  simp only [hheld, core_mapCore, hexc, List.length_nil, ne_eq, not_true_eq_false, if_false]

end Return

section ReturnFrom
variable (c : Core)

theorem returnFrom_eq : c.returnFrom = { returnLevel c.exitWindow with reservation := none } := rfl

theorem exitWindow_tw (h : c.twOn = true) : c.exitWindow = { c.setPs 10 1 0 with switching := false } := by
  rw [Core.exitWindow, if_pos h]

theorem exitWindow_ring (h : c.twOn = false) :
    c.exitWindow = { c with cwp := (c.cwp + 11) % 12, res := c.res - 1 } := by
  rw [Core.exitWindow, if_neg (by rw [h]; decide)]

/-- The exit of the window keeps what the return reads of PSTATE. -/
theorem exitWindow_pstate : c.exitWindow.ppl = c.ppl ∧ c.exitWindow.pie = c.pie ∧ c.exitWindow.twOn = false := by
  cases h : c.twOn with
  | true =>
    rw [exitWindow_tw c h]
    exact ⟨setTw_ppl c, setTw_pie c, setTw_twOn c⟩
  | false =>
    rw [exitWindow_ring c h]
    exact ⟨rfl, rfl, h⟩

end ReturnFrom

/-! ### SWSEAT -/

/-- The core that the doublewords `w` of a record give it, with the seed `v` of its sequence (R122, steps 5 to 7). -/
def switchedCore (seat : Nat) (v : BitVec 16) (w : Nat → Word64) (c : Core) : Core :=
  let c := { c with seatid := seat, lfsr := v }.loadContext w
  { (returnLevel c).setPs 10 1 0 with switchEv := none, switching := false }

/-- A switch into a seat returns with the core that its record gives. -/
theorem switchIn_ret (k : CoreId) (seat : Nat) (s : State) : ∃ pc t v, switchIn k seat s = .ret pc t ∧
    t.core k = switchedCore seat v (fun n => BitVec.ofNat 64 (s.readMem (recordAddr seat k + 8 * n) 8)) (s.core k) ∧
    pc = (t.core k).epc := by
  refine ⟨_, _, s.drawSeed.1, rfl, ?_, ?_⟩
  · rw [traceSeat_core, core_mapCore, traceSeat_core]
    rfl
  · rw [traceSeat_core]

section Record
variable (seat : Nat) (v : BitVec 16) (w : Nat → Word64) (c : Core)

/-- What a record's PSTATE gives: its own bits but the reserved ones, PL from PPL, IE from PIE and TW = 0. -/
theorem switchedCore_pstate : (switchedCore seat v w c).pl = slice (w 15).toNat 8 2 ∧
    (switchedCore seat v w c).ie = (w 15).getLsbD 5 ∧ (switchedCore seat v w c).twOn = false := by
  let d : Core := { c with seatid := seat, lfsr := v }.loadContext w
  have hps : d.pstate = w 15 &&& 0xF0000FF0 := rfl
  have hppl : d.ppl = slice (w 15).toNat 8 2 := by
    rw [Core.ppl, hps]
    apply Nat.eq_of_testBit_eq
    intro b
    have hmask : ∀ b : Fin 2, (0xF0000FF0 : Word64).getLsbD (8 + b.val) = true := by decide
    rw [testBit_slice, testBit_slice, BitVec.testBit_toNat, BitVec.testBit_toNat, BitVec.getLsbD_and]
    by_cases hb : b < 2
    · rw [hmask ⟨b, hb⟩, Bool.and_true]
    · rw [decide_eq_false hb, Bool.false_and, Bool.false_and]
  have hpie : d.pie = (w 15).getLsbD 5 := by
    rw [Core.pie, hps, BitVec.getLsbD_and]
    exact Bool.and_true _
  refine ⟨?_, ?_, setTw_twOn (returnLevel d)⟩
  · exact (setTw_pl (returnLevel d)).trans ((returnLevel_pl d).trans hppl)
  · exact (setTw_ie (returnLevel d)).trans ((returnLevel_ie d).trans hpie)

theorem switchedCore_global (n : Fin 12) (hn : n ≠ 0) : (switchedCore seat v w c).g[n] = w n.val := by
  show (Vector.ofFn (fun i : Fin 12 => if i.val = 0 then 0 else w i.val))[n] = w n.val
  simp [hn]

end Record

section Switch
variable {k : CoreId} {s : State} {ev : SwitchEvent}

theorem recordValid_iff (s : State) (seat : Nat) (k : CoreId) :
    s.recordValid seat k = (BitVec.ofNat 64 (s.readMem (recordAddr seat k + 8 * 0) 8)).getLsbD 0 := by
  rw [BitVec.getLsbD_ofNat, Nat.testBit_zero]
  simp [State.recordValid, beq_eq_decide]

/-- A switch with the outstanding work ended and no window resident. -/
theorem switchSeat_event (hev : (s.core k).switchEv = some ev) (hstores : (s.core k).stores = [])
    (hexc : (s.core k).settle.landAll.longExcs = []) (hres : (s.core k).settle.landAll.res = 0) :
    let v := s.mapCore k (fun c => c.settle.landAll)
    switchSeat k s = switchLoad k (s.core k).seatid ev.seat
      ((writeDoublewords (recordAddr (s.core k).seatid k) (v.core k).context v).mapCore k Core.cleared) := by
  intro v
  obtain ⟨hst, hseat⟩ := settled_landed (s.core k)
  have hv : v.core k = (s.core k).settle.landAll := core_mapCore ..
  have hvst : (v.core k).stores = [] := by rw [hv, hst, hstores]
  have hblocked : (v.core k).flushBlocked 0 = false := by rw [hv, Core.flushBlocked, hres]; rfl
  have hspill : spillTo k 0 12 v = (.ok, v) := by
    rw [spillTo, if_pos (by rw [hv, hres])]
  have hflush : flushWindows k 0 (switchOver k ev.seat) v = switchOver k ev.seat v :=
    flushWindows_spilled hblocked hspill hvst
  have hrun : switchSeat k s = flushWindows k 0 (switchOver k ev.seat) v := by
    simp only [switchSeat, hev, storesDone_of_empty hstores, core_mapCore, hexc, Bool.not_true, Bool.false_eq_true, if_false,
      List.length_nil, ne_eq, not_true_eq_false]
    rfl
  rw [hrun, hflush, switchOver, storesDone_of_empty hvst]
  simp only [hv, hseat, Bool.not_true, Bool.false_eq_true, if_false]

end Switch

section Swseat
variable {i : XIssue} {a : RArgs} {s u : State}

theorem execSwseat_exc {x : Exc} {v : State} (hp : i.par = false) (he : s.Executes i.core none 3 [] u)
    (hl : noFields a = true) (hx : switchSeat i.core u = .exc x v) : ∃ t, s.Fetches i.core t ∧
    execSwseat i a none s = .next (raiseExc i.core (t.core i.core).oldest x t v) :=
  runInstr_exc ⟨i.core, .swseat i.clean a none, none, i.par, noFields a, 3, [], false, false⟩ _ s u v x he hl hp rfl hx

theorem execSwseat_ret {pc : Word64} {v : State} (hp : i.par = false) (he : s.Executes i.core none 3 [] u)
    (hl : noFields a = true) (hx : switchSeat i.core u = .ret pc v) :
    execSwseat i a none s = .next (retireRet i.core pc v) :=
  runInstr_ret (d := ⟨i.core, .swseat i.clean a none, none, i.par, noFields a, 3, [], false, false⟩) he hl hp rfl hx

theorem execSwseat_stall {v : State} (hp : i.par = false) (he : s.Executes i.core none 3 [] u)
    (hl : noFields a = true) (hx : switchSeat i.core u = .stall v) : execSwseat i a none s = .next v :=
  runInstr_stall ⟨i.core, .swseat i.clean a none, none, i.par, noFields a, 3, [], false, false⟩ _ s u v he hl hp rfl hx

theorem switchSeat_none {k : CoreId} (h : (u.core k).switchEv = none) : switchSeat k u = .exc (excPlain 0x03) u := by
  simp only [switchSeat, h]

theorem switchLoad_valid {k : CoreId} {out seat : Nat} (h : u.recordValid seat k = true) :
    switchLoad k out seat u = switchIn k seat u := if_pos h

theorem switchLoad_invalid {k : CoreId} {out seat : Nat} (h : u.recordValid seat k = false) :
    switchLoad k out seat u =
      .stall (reportFault 0x05 out k.val 0 (u.mapCore k (fun c => { c with run := .stopped }))) :=
  if_neg (by rw [h]; decide)

end Swseat

section ReturnFields
variable (c : Core)

theorem returnFrom_fields : c.returnFrom.pl = c.ppl ∧ c.returnFrom.ie = c.pie ∧ c.returnFrom.twOn = false := by
  obtain ⟨hppl, hpie, htw⟩ := exitWindow_pstate c
  rw [returnFrom_eq]
  exact ⟨(returnLevel_pl c.exitWindow).trans hppl, (returnLevel_ie c.exitWindow).trans hpie,
    (returnLevel_twOn c.exitWindow).trans htw⟩

theorem returnFrom_window : c.returnFrom.cwp = c.exitWindow.cwp ∧ c.returnFrom.res = c.exitWindow.res := ⟨rfl, rfl⟩

end ReturnFields

/-- Settles O15: each instruction executes its body; the core after a switch is the one that the record gives. -/
theorem trapsAndReturns : Obligations.TrapsAndReturns := by
  unfold Obligations.TrapsAndReturns
  refine ⟨fun i a s u hp => ?_, fun i a s u hp => ?_, fun c => ?_⟩
  · intro k enters he hrd h1
    refine ⟨execTrap_enters hp he hrd h1, fun himm => ⟨fun hn => ?_, fun h => ?_⟩⟩
    · exact execBrk_enters hp he hrd h1 himm hn
    · exact execBrk_halts hp he hrd h1 himm h
  · intro k c hrd h1 h2 hfn
    have hl := noFields_of hrd h1 h2 hfn
    refine ⟨fun he => ⟨execReti_returns hp he hl, execReti_waits hp he hl, fun h => execReti_chains hp he hl⟩,
      fun he => ⟨fun hev => execSwseat_exc hp he hl (switchSeat_none hev), ?_⟩⟩
    intro ev w hev hstores hexc hres v z hw
    have hswitch : switchSeat k u = switchLoad k c.seatid ev.seat z := switchSeat_event hev hstores hexc hres
    have hvalid : z.recordValid ev.seat k = (w 0).getLsbD 0 := by rw [hw]; exact recordValid_iff z ev.seat k
    refine ⟨fun h0 => ?_, fun h0 => ?_⟩
    · obtain ⟨pc, t, seed, hin, hcore, hpc⟩ := switchIn_ret k ev.seat z
      rw [← hw] at hcore
      have hret := hswitch.trans ((switchLoad_valid (hvalid.trans h0)).trans hin)
      obtain ⟨hpl, hie, htw⟩ := switchedCore_pstate ev.seat seed w (z.core k)
      refine ⟨pc, t, hin, execSwseat_ret hp he hl hret, ?_⟩
      rw [hpc, hcore]
      exact ⟨rfl, rfl, rfl, htw, hpl, hie, rfl, rfl, rfl, switchedCore_global ev.seat seed w (z.core k)⟩
    · exact execSwseat_stall hp he hl (hswitch.trans (switchLoad_invalid (hvalid.trans h0)))
  · obtain ⟨hpl, hie, htw⟩ := returnFrom_fields c
    obtain ⟨hcwp, hres⟩ := returnFrom_window c
    refine ⟨hpl, hie, rfl, htw, fun h => ?_, fun h => ?_⟩
    · rw [hcwp, hres, exitWindow_tw c h]
      exact ⟨rfl, rfl⟩
    · rw [hcwp, hres, exitWindow_ring c h]
      exact ⟨rfl, rfl⟩

end Sys2Proof.Proofs
end

section
/-!
PROOFS. The events of one core: the entry for a held event, the spill engine, the store buffer and error responses.
-/

namespace Sys2Proof.Proofs

open Sys2Proof.Machine Sys2Proof.Laws

/-! ### Held events -/

/-- A held event that `want` accepts, at a boundary with no exception of a long operation due, is taken. -/
theorem takeHeld_taken {k : CoreId} {want : HeldEvent → Bool} {s : State} {e : HeldEvent} (hr : s.coreRuns k = true)
    (hb : (s.core k).atBoundary = true) (htw : (s.core k).twOn = false) (hh : (s.core k).haltReq = false)
    (hx : (s.core k).settle.longExcs = []) (he : s.heldEvent k (s.core k).pl (s.core k).ie = some e)
    (hw : want e = true) : takeHeld k want s =
    takeEntry k ((s.mapCore k Core.settle).core k).oldest (heldExc e) (consumeHeld k e (s.mapCore k Core.settle)) := by
  simp only [takeHeld, hr, hb, htw, hh, he, hw, core_mapCore, hx, Bool.not_true, Bool.or_self, Bool.false_eq_true, if_false,
    if_true, List.length_nil, ne_eq, not_true_eq_false]

section Held
variable {k : CoreId} {s : State} (hs : (s.core k).switching = false) (hp : (s.core k).stepping = false)
include hs hp

theorem heldEvent_switch {ev : SwitchEvent} (hev : (s.core k).switchEv = some ev)
    (hl : (s.core k).pl = 0 ∨ ((s.core k).pl = 1 ∧ (s.core k).ie = true)) :
    s.heldEvent k (s.core k).pl (s.core k).ie = some (.seatSwitch ev.seat) := by
  simp only [State.heldEvent, hs, hp, hev, Bool.false_and, Bool.or_self, Bool.false_eq_true, if_false, hl, if_true]

theorem heldEvent_busError {pa : Nat} (hev : (s.core k).switchEv = none) (hb : (s.core k).busErr = some pa)
    (hl : (s.core k).pl = 0 ∨ (s.core k).ie = true) :
    s.heldEvent k (s.core k).pl (s.core k).ie = some (.busError pa) := by
  simp only [State.heldEvent, hs, hp, hev, hb, Bool.false_and, Bool.or_self, Bool.false_eq_true, if_false, hl, if_true]

theorem heldEvent_interrupt {p : Nat} (hev : (s.core k).switchEv = none) (hb : (s.core k).busErr = none)
    (hie : (s.core k).ie = true) (hl : (s.core k).pl ≠ 3) (hseen : s.seenInterrupt k = some p) :
    s.heldEvent k (s.core k).pl (s.core k).ie = some (.interrupt p) := by
  have hpl : ((s.core k).pl != 3) = true := bne_iff_ne.2 hl
  simp only [State.heldEvent, hs, hp, hev, hb, hie, hpl, hseen, Bool.false_and, Bool.or_self, Bool.false_eq_true, if_false,
    Bool.not_false, Bool.and_self, if_true, Option.map_some]

end Held

/-! ### The spill engine -/

section Engine
variable {k : CoreId} {s b t : State} {ps : List Part}

theorem spillOne_ok (hprep : enginePrep k .write (((s.core k).wspill.toNat + 2 ^ 48 - 128) % 2 ^ 48) s = (.ok, ps, b))
    (hst : issueStores k ps ((s.core k).record (s.core k).oldestWindow) b = (t, true)) :
    spillOne k s = (.ok, pmCount k 0x0A (t.mapCore k (fun d => { d with
      wspill := BitVec.ofNat 64 (((s.core k).wspill.toNat + 2 ^ 48 - 128) % 2 ^ 48), res := d.res - 1 }))) := by
  have hva : 2 ^ 48 - 128 + (s.core k).wspill.toNat = (s.core k).wspill.toNat + 2 ^ 48 - 128 := by omega
  rw [spillOne, hva, hprep]
  simp only [spillStore, hst, if_true]

theorem fillOne_ok {v : Nat} (hprep : enginePrep k .read (s.core k).wspill.toNat s = (.ok, ps, b))
    (hrd : readParts k .none true ps b = (.data v, t)) :
    fillOne k s = (.ok, pmCount k 0x0B (t.mapCore k (fun d => { d with
      win := d.win.set! d.fillWindow (windowOf v)
      wspill := BitVec.ofNat 64 (((s.core k).wspill.toNat + 128) % 2 ^ 48), res := d.res + 1 }))) := by
  rw [fillOne, hprep]
  simp only [fillLoad, hrd, fillWith]

theorem execWindowSpill_ok (hr : s.coreRuns k = true) (htw : (s.core k).twOn = false) (hres : (s.core k).res = 11)
    (hw : (s.core k).windowAwaited (s.core k).oldestWindow = false) (h : spillOne k s = (.ok, t)) :
    execWindowSpill k s = .next t := by
  simp only [execWindowSpill, hr, htw, hres, hw, h, Bool.not_true, Nat.lt_irrefl, decide_false, Bool.or_self,
    Bool.false_eq_true, if_false]

theorem execWindowFill_ok (hr : s.coreRuns k = true) (hf : (s.core k).fillWait = true) (h : fillOne k s = (.ok, t)) :
    execWindowFill k s = .next (t.mapCore k (fun d => { d with fillWait := false })) := by
  simp only [execWindowFill, hr, hf, h, Bool.not_true, Bool.or_self, Bool.false_eq_true, if_false]

end Engine

/-! ### The store buffer and error responses -/

section Buffer
variable {k : CoreId} {n : Nat} {s : State} {e : StoreEntry}

theorem execStoreBufferDrain_performed {t : State} (he : (s.core k).stores[n]? = some e)
    (hb : ((s.core k).stores.take n).any (fun b => storeBlocks s b e) = false)
    (h : performStore k e (s.mapCore k (fun c => { c with stores := c.stores.eraseIdx n })) = (t, true)) :
    execStoreBufferDrain k n true s = .next t := by
  simp only [execStoreBufferDrain, he, hb, h, Bool.false_eq_true, if_false, if_true]

theorem execStoreBufferDrain_sent (he : (s.core k).stores[n]? = some e)
    (hb : ((s.core k).stores.take n).any (fun b => storeBlocks s b e) = false) (h : e.sent = false) :
    execStoreBufferDrain k n false s =
      .next (requestStore e (s.mapCore k (fun c => { c with stores := c.stores.set n { e with sent := true } }))) := by
  simp only [execStoreBufferDrain, he, hb, h, Bool.false_eq_true, if_false]

/-- An error response to a store that is not posted becomes the core's bus error, where none is pending (R304). -/
theorem execStoreErrorResponse_busErr (he : (s.core k).stores[n]? = some e) (h : e.sent = true)
    (hty : e.type ≠ .devicePosted) (hb : (s.core k).busErr = none) : execStoreErrorResponse k n s =
    .next (s.mapCore k (fun c => { c with stores := c.stores.eraseIdx n, busErr := some e.pa })) := by
  have hfree : s.mapCore k (fun c => { c with stores := c.stores.eraseIdx n, busErr := some e.pa }) =
      s.setCore k { s.core k with stores := (s.core k).stores.eraseIdx n, busErr := some e.pa } := rfl
  rw [hfree]
  simp only [execStoreErrorResponse, he, h, if_true, storeError, hty, if_false, mapCore_mapCore]
  simp only [State.mapCore, hb, Option.isNone_none, if_true]

theorem execLoadResponse_error {l : OutLoad} {p : Part} (hl : (s.core k).load = some l) (hp : l.parts = [p]) :
    let t := s.mapCore k (fun c => { c with load := none })
    execLoadResponse k .error .none s = .next (stopIfDue k (raiseExc k (t.core k).oldest (excAt 0x0C p.pa) t t)) := by
  simp only [execLoadResponse, hl, hp, decide_true, Bool.true_or, if_true, finishAct]

end Buffer

/-- Settles O20, one lemma per event. -/
theorem coreEntriesAndEngines : Obligations.CoreEntriesAndEngines := by
  unfold Obligations.CoreEntriesAndEngines
  refine ⟨fun k s hr hb htw hh hx => ?_, fun k s => ?_, fun k s b t ps => ?_, fun k s b t ps v => ?_,
    fun k n s e he => ?_, fun k s t l p hl hp ht => ?_⟩
  · intro t held epc
    exact ⟨fun p h => congrArg Host.Outcome.next (takeHeld_taken (e := .interrupt p) hr hb htw hh hx h rfl),
      fun pa h => congrArg Host.Outcome.next (takeHeld_taken (e := .busError pa) hr hb htw hh hx h rfl),
      fun seat h => congrArg Host.Outcome.next (takeHeld_taken (e := .seatSwitch seat) hr hb htw hh hx h rfl)⟩
  · intro c hs hp
    exact ⟨fun ev => heldEvent_switch hs hp, fun pa => heldEvent_busError hs hp, fun p => heldEvent_interrupt hs hp⟩
  · intro c va hr htw hres hw hprep hst
    exact execWindowSpill_ok hr htw hres hw (spillOne_ok hprep hst)
  · intro c va hr hf hprep hrd
    exact execWindowFill_ok hr hf (fillOne_ok hprep hrd)
  · exact ⟨fun hb => ⟨fun t => execStoreBufferDrain_performed he hb, execStoreBufferDrain_sent he hb⟩,
      execStoreErrorResponse_busErr he⟩
  · subst ht
    exact execLoadResponse_error hl hp

end Sys2Proof.Proofs
end

section
/-!
PROOFS. What stands before the effect of a core instruction: its issue, its fetch, its function code and its condition.
-/

namespace Sys2Proof.Proofs

open Sys2Proof.Machine Sys2Proof.Laws

section Runner
variable {d : Issued} {body : State → Act} {s t : State}

theorem runInstr_notIssued (h : s.mayIssue d.core = false) : runInstr d body s = .next s := by
  simp only [runInstr, h, Bool.not_false, if_true]

theorem runInstr_fetchWaits (h : s.mayIssue d.core = true) (hr : (s.core d.core).rep = none)
    (hf : fetchAt d.core (s.core d.core).pc.toNat s = (.wait, t)) : runInstr d body s = .next s := by
  simp only [runInstr, h, hr, hf, Bool.not_true, Bool.false_eq_true, if_false]

theorem runInstr_fetchExc {e : Exc} (h : s.mayIssue d.core = true) (hr : (s.core d.core).rep = none)
    (hf : fetchAt d.core (s.core d.core).pc.toNat s = (.exc e, t)) :
    runInstr d body s = .next (raiseExc d.core (t.core d.core).oldest e t t) := by
  simp only [runInstr, h, hr, hf, Bool.not_true, Bool.false_eq_true, if_false, finishAct]

theorem runInstr_illegal (hf : s.Fetches d.core t) (hl : d.legal = false) :
    runInstr d body s = .next (raiseExc d.core (t.core d.core).oldest (excPlain 0x01) t t) := by
  rw [runInstr_fetched d body s t hf]
  simp only [checked, hl, Bool.not_false, if_true, finishAct]

/-- An instruction of User level whose condition fails has no effect but the trace of a branch (R91, R92). -/
theorem runInstr_conditionFails (hf : s.Fetches d.core t) (hl : d.legal = true) (h0 : d.level = 0)
    (hh : d.holds t = false) : runInstr d body s = .next (retire d.core (d.atom false t)) := by
  rw [runInstr_fetched d body s t hf]
  simp only [checked, hl, h0, hh, Nat.not_lt_zero, Bool.not_true, Bool.not_false, Bool.false_eq_true, if_false, if_true,
    finishAct]

theorem holds_cond {c : Fin 15} (h : d.cond = some c) : d.holds t = condHolds c (t.core d.core).flags := by
  simp only [Issued.holds, h]

theorem atom_cases (d : Issued) (taken : Bool) (s : State) :
    d.atom taken s = s ∨ d.atom taken s = traceAtom d.core taken s := by
  unfold Issued.atom
  split
  · exact .inr rfl
  · exact .inl rfl

end Runner

/-- A core instruction with a condition is one run of the runner at User level. -/
theorem issue_runsAtUser (c : Instr) (i : Issue) (h : c.issue? = some i) :
    ∃ d body, d.core = i.core ∧ d.cond = some i.cond ∧ d.level = 0 ∧ ∀ s, exec c s = runInstr d body s := by
  unfold Instr.issue? at h
  split at h
  all_goals cases h
  all_goals exact ⟨_, _, rfl, rfl, rfl, fun s => rfl⟩

/-- An ALU instruction whose function code is not its own is illegal, whatever its condition. -/
theorem aluInstr_otherCode {key : Instr} {op : Nat} {i : Issue} {a : RArgs} {s t : State} (hf : s.Fetches i.core t)
    (h : a.fn.toNat % 64 ≠ op) :
    aluInstr key op i a s = .next (raiseExc i.core (t.core i.core).oldest (excPlain 0x01) t t) :=
  runInstr_illegal hf (by simp [h])

/-- Settles O60: each check of the runner, for the run that the instruction is. -/
theorem coreInstructionChecks : Obligations.CoreInstructionChecks := by
  unfold Obligations.CoreInstructionChecks
  refine ⟨fun c i s hi => ?_, fun c i s t hi hf hc => ?_, fun i a s t hf => ?_, fun i a s t hf hc hfn => ?_⟩
  · obtain ⟨d, body, hk, -, he⟩ := issue_runs c i hi
    rw [← hk, he]
    exact ⟨runInstr_notIssued, fun h hr => ⟨fun t => runInstr_fetchWaits h hr, fun e t => runInstr_fetchExc h hr⟩⟩
  · obtain ⟨d, body, hk, hcond, h0, he⟩ := issue_runsAtUser c i hi
    rw [← hk] at hf hc ⊢
    rw [he]
    cases hl : d.legal with
    | false => exact .inr (.inr (runInstr_illegal hf hl))
    | true =>
      rw [runInstr_conditionFails hf hl h0 ((holds_cond hcond).trans hc)]
      rcases atom_cases d false t with hatom | hatom
      · exact .inl (by rw [hatom])
      · exact .inr (.inl (by rw [hatom]))
  · simp only [List.forall_mem_cons]
    exact ⟨aluInstr_otherCode hf, aluInstr_otherCode hf, aluInstr_otherCode hf, aluInstr_otherCode hf,
      aluInstr_otherCode hf, aluInstr_otherCode hf, aluInstr_otherCode hf, aluInstr_otherCode hf, aluInstr_otherCode hf,
      aluInstr_otherCode hf, aluInstr_otherCode hf, aluInstr_otherCode hf, List.forall_mem_nil _⟩
  · exact runInstr_conditionFails
      (d := ⟨i.core, .add i.clean a, some i.cond, i.par, a.fn.toNat % 64 == 0 && (!aluUnary 0 || a.rs2 == 0), 0,
        [a.rd, a.rs1, a.rs2], true, false⟩) hf (by rw [hfn]; rfl) rfl hc

end Sys2Proof.Proofs
end

section
/-!
PROOFS. Taking an exception: the vector of the cause, the word of ECAUSE, and the level and the window that an entry leaves.
-/

namespace Sys2Proof.Proofs

open Sys2Proof.Machine Sys2Proof.Laws

/-! ### The cause -/

theorem intoTw_iff (code : Nat) : intoTw code = true ↔ code ∈ [0x13, 0x14, 0x30] := by
  simp [intoTw, or_assoc]

theorem toMonitor_iff (pl code : Nat) : toMonitor pl code = true ↔ pl = 3 ∨ code ∈ [0x03, 0x15, 0x30] := by
  simp [toMonitor, or_assoc]

/-- TVEC holds the base of the Monitor table in its upper half and that of the Kernel table in its lower one. -/
theorem vector_eq (c : Core) (code : Nat) : c.vector code =
    (if toMonitor c.pl code then c.tvec.toNat / 2 ^ 32 else c.tvec.toNat % 2 ^ 32) * 0x10000 + vectorOffset code := by
  rw [Core.vector, slice_low, slice_top (lo := 32) (w := 32) c.tvec.isLt]

section Ecause
variable (e : Exc) (tw : Bool)

theorem bit_le_one (b : Bool) : bit b ≤ 1 := by cases b <;> decide

theorem ecauseWord_toNat (hc : e.code < 256) : (ecauseWord e tw).toNat =
    e.info % 2 ^ 16 * 2 ^ 24 + bit e.st * 2 ^ 18 + bit e.imp * 2 ^ 17 + bit tw * 2 ^ 16 + e.code := by
  have hst := bit_le_one e.st
  have himp := bit_le_one e.imp
  have htw := bit_le_one tw
  rw [ecauseWord, BitVec.toNat_ofNat]
  omega

/-- A bit of a word by division. -/
theorem getLsbD_eq_bit (w : Word64) (n : Nat) (b : Bool) (h : w.toNat / 2 ^ n % 2 = bit b) : w.getLsbD n = b := by
  rw [← BitVec.testBit_toNat, Nat.testBit_eq_decide_div_mod_eq, h]
  cases b <;> rfl

/-- The fields of ECAUSE (R178). -/
theorem ecauseWord_fields (hc : e.code < 256) :
    slice (ecauseWord e tw).toNat 0 8 = e.code ∧ slice (ecauseWord e tw).toNat 24 16 = e.info % 2 ^ 16 ∧
    (ecauseWord e tw).getLsbD 18 = e.st ∧ (ecauseWord e tw).getLsbD 17 = e.imp ∧ (ecauseWord e tw).getLsbD 16 = tw := by
  have hst := bit_le_one e.st
  have himp := bit_le_one e.imp
  have htw := bit_le_one tw
  have hw := ecauseWord_toNat e tw hc
  refine ⟨?_, ?_, getLsbD_eq_bit _ _ _ ?_, getLsbD_eq_bit _ _ _ ?_, getLsbD_eq_bit _ _ _ ?_⟩
  · rw [slice, hw]; omega
  · rw [slice, hw]; omega
  · rw [hw]; omega
  · rw [hw]; omega
  · rw [hw]; omega

end Ecause

/-! ### Level and window -/

theorem testBit_bit (b : Bool) : (bit b).testBit 0 = b := by cases b <;> rfl

section Entered
variable (c : Core)

/-- The levels, the enables and TW are read from PSTATE alone. -/
theorem level_congr {c d : Core} (h : c.pstate = d.pstate) :
    c.ppl = d.ppl ∧ c.pie = d.pie ∧ c.ie = d.ie ∧ c.pl = d.pl ∧ c.twOn = d.twOn := by
  simp only [Core.ppl, Core.pie, Core.ie, Core.pl, Core.twOn, h, and_self]

theorem pl_lt : c.pl < 4 := Nat.mod_lt _ (by decide)

/-- PSTATE with the level and the interrupt enable saved, interrupts off, and the level of the handler of a cause. -/
def entryLevel (c : Core) (code : Nat) : Core :=
  (((c.setPs 8 2 c.pl).setPs 5 1 (bit c.ie)).setPs 4 1 0).setPs 6 2 (if toMonitor c.pl code then 3 else 1)

/-- The window of a handler: the trap window or the next one of the ring. -/
def entryWindow (tw : Bool) (c : Core) : Core :=
  if tw then c.setPs 10 1 1 else { c with cwp := (c.cwp + 1) % 12, res := c.res + 1 }

theorem entered_eq (epc : Word64) (e : Exc) :
    c.entered epc e = { entryWindow (intoTw e.code) (entryLevel c e.code) with
      epc := epc &&& epcMask, ecause := ecauseWord e (intoTw e.code), eaddr := e.eaddr.getD c.eaddr
      rpcnt := c.repCount, rep := none, reservation := none, afterReti := false, load := none, fillWait := false
      micro := none, cmpSkip := none, pc := BitVec.ofNat 64 (c.vector e.code) } := rfl

theorem entryLevel_ppl (code : Nat) : (entryLevel c code).ppl = c.pl := by
  rw [Core.ppl, entryLevel, slice_setPs_other _ _ _ _ (by decide) (by decide), slice_setPs_other _ _ _ _ (by decide) (by decide),
    slice_setPs_other _ _ _ _ (by decide) (by decide), slice_setPs _ _ _ _ (by decide)]
  exact Nat.mod_eq_of_lt (pl_lt c)

theorem entryLevel_pl (code : Nat) : (entryLevel c code).pl = if toMonitor c.pl code then 3 else 1 := by
  rw [Core.pl, entryLevel, slice_setPs _ _ _ _ (by decide)]
  split <;> rfl

/-- The bits of PSTATE beside the fields of the two levels. -/
theorem entryLevel_bit (code : Nat) {b : Nat} (hb : b < 64) (h : b < 6 ∨ 10 ≤ b) : (entryLevel c code).pstate.getLsbD b =
    if b = 4 then false else if b = 5 then c.ie else c.pstate.getLsbD b := by
  rw [entryLevel, getLsbD_setPs _ _ _ _ hb, if_neg (by omega), getLsbD_setPs _ _ _ _ hb, getLsbD_setPs _ _ _ _ hb,
    getLsbD_setPs _ _ _ _ hb, if_neg (c := 8 ≤ b ∧ b < 8 + 2) (by omega)]
  by_cases h4 : b = 4
  · rw [if_pos (by omega), if_pos h4, Nat.zero_testBit]
  · rw [if_neg (by omega), if_neg h4]
    by_cases h5 : b = 5
    · subst h5
      exact testBit_bit c.ie
    · rw [if_neg (by omega), if_neg h5]

theorem entryLevel_enables (code : Nat) :
    (entryLevel c code).pie = c.ie ∧ (entryLevel c code).ie = false ∧ (entryLevel c code).twOn = c.twOn :=
  ⟨entryLevel_bit c code (b := 5) (by decide) (by decide), entryLevel_bit c code (b := 4) (by decide) (by decide),
    entryLevel_bit c code (b := 10) (by decide) (by decide)⟩

/-- The choice of the window keeps the levels and the enables. -/
theorem entryWindow_level (tw : Bool) : (entryWindow tw c).ppl = c.ppl ∧ (entryWindow tw c).pie = c.pie ∧
    (entryWindow tw c).ie = c.ie ∧ (entryWindow tw c).pl = c.pl := by
  cases tw with
  | false => exact ⟨rfl, rfl, rfl, rfl⟩
  | true =>
    exact ⟨slice_setPs_other c 10 1 1 (by decide) (by decide), (getLsbD_setPs c 10 1 1 (by decide)).trans (if_neg (by decide)),
      (getLsbD_setPs c 10 1 1 (by decide)).trans (if_neg (by decide)), slice_setPs_other c 10 1 1 (by decide) (by decide)⟩

theorem setPs_ring (lo w v : Nat) : (c.setPs lo w v).cwp = c.cwp ∧ (c.setPs lo w v).res = c.res := ⟨rfl, rfl⟩

theorem entryWindow_trap : entryWindow true c = c.setPs 10 1 1 := if_pos rfl

theorem entryWindow_tw : (entryWindow true c).twOn = true ∧ (entryWindow true c).cwp = c.cwp ∧
    (entryWindow true c).res = c.res := by
  rw [entryWindow_trap, Core.twOn, getLsbD_setPs _ _ _ _ (by decide), if_pos (by decide)]
  exact ⟨rfl, setPs_ring c 10 1 1⟩

/-- The choice of the window changes PSTATE and the place in the ring and no other register. -/
theorem entryWindow_fields (tw : Bool) : ∃ ps cwp res,
    entryWindow tw c = { c with pstate := ps, cwp := cwp, res := res } := by
  cases tw with
  | false => exact ⟨_, _, _, rfl⟩
  | true => exact ⟨_, _, _, rfl⟩

section Registers
variable (epc : Word64) (e : Exc)

theorem entered_pstate :
    (c.entered epc e).pstate = (entryWindow (intoTw e.code) (entryLevel c e.code)).pstate := rfl

theorem entered_level : (c.entered epc e).ppl = c.pl ∧ (c.entered epc e).pie = c.ie ∧ (c.entered epc e).ie = false ∧
    (c.entered epc e).pl = if toMonitor c.pl e.code then 3 else 1 := by
  obtain ⟨hppl, hpie, hie, hpl⟩ := entryWindow_level (entryLevel c e.code) (intoTw e.code)
  obtain ⟨hpie', hie', -⟩ := entryLevel_enables c e.code
  obtain ⟨eppl, epie, eie, epl, -⟩ := level_congr (entered_pstate c epc e)
  rw [eppl, epie, eie, epl, hppl, hpie, hie, hpl]
  exact ⟨entryLevel_ppl c e.code, hpie', hie', entryLevel_pl c e.code⟩

/-- An entry into the trap window leaves the ring where it is. -/
theorem entered_trapWindow (h : intoTw e.code = true) :
    (c.entered epc e).twOn = true ∧ (c.entered epc e).cwp = c.cwp ∧ (c.entered epc e).res = c.res := by
  obtain ⟨-, -, -, -, etw⟩ := level_congr (entered_pstate c epc e)
  rw [etw, entered_eq, h]
  exact entryWindow_tw (entryLevel c e.code)

theorem entered_nextWindow (h : intoTw e.code = false) : (c.entered epc e).twOn = c.twOn ∧
    (c.entered epc e).cwp = (c.cwp + 1) % 12 ∧ (c.entered epc e).res = c.res + 1 := by
  obtain ⟨-, -, htw⟩ := entryLevel_enables c e.code
  obtain ⟨-, -, -, -, etw⟩ := level_congr (entered_pstate c epc e)
  rw [etw, entered_eq, h]
  exact ⟨htw, rfl, rfl⟩

/-- An entry writes no general register, nor SEATID, FSTAT and WSPILL. -/
theorem entered_keeps : (c.entered epc e).g = c.g ∧ (c.entered epc e).win = c.win ∧ (c.entered epc e).tw = c.tw ∧
    (c.entered epc e).seatid = c.seatid ∧ (c.entered epc e).fstat = c.fstat ∧ (c.entered epc e).wspill = c.wspill := by
  obtain ⟨_, _, _, hw⟩ := entryWindow_fields (entryLevel c e.code) (intoTw e.code)
  rw [entered_eq, hw]
  exact ⟨rfl, rfl, rfl, rfl, rfl, rfl⟩

end Registers

/-- The writes of MD in flight do not move the vector. -/
theorem landAll_vector (code : Nat) : c.landAll.vector code = c.vector code := by
  obtain ⟨_, _, _, hland⟩ := foldl_landOne_fields c.mdFlight c
  rw [Core.landAll, hland]
  rfl

end Entered

/-! ### The entry -/

section Entry
variable {k : CoreId} {epc : Word64} {e : Exc} {s : State}

theorem commitEntry_eq (k : CoreId) (epc : Word64) (e : Exc) (s : State) : commitEntry k epc e s =
    fetchVector k (traceExc k e.code ((s.core k).vector e.code % 2 ^ 64) (s.mapCore k (fun c => c.landAll.entered epc e))) := by
  have hpc : ((s.mapCore k (fun c => c.landAll.entered epc e)).core k).pc.toNat = (s.core k).vector e.code % 2 ^ 64 := by
    rw [core_mapCore, entered_eq, landAll_vector]
    exact BitVec.toNat_ofNat ..
  rw [← hpc]
  rfl

/-- With its window there and no double fault, an entry needs no spill (R184). -/
theorem takeEntry_commits (htw : (s.core k).twOn = false) (hmc : ¬ (e.code = 0x15 ∧ (s.core k).pl = 3))
    (hw : intoTw e.code = true ∨ (s.core k).res < 11) : takeEntry k epc e s = commitEntry k epc e s := by
  have hdouble : ((s.core k).twOn || (e.code == 0x15 && (s.core k).pl == 3)) ≠ true := by simpa [htw] using hmc
  have hwindow : (intoTw e.code || decide ((s.core k).res < 11)) = true := by simpa using hw
  simp only [takeEntry, hdouble, hwindow, if_true]
  rfl

end Entry

/-- Settles O16: the entry commits, and its registers are read off the level, the window and the words of the cause. -/
theorem takingAnException : Obligations.TakingAnException := by
  unfold Obligations.TakingAnException
  refine ⟨fun k epc e s => ?_, fun epc e c _ hcode => ?_⟩
  · intro c htw hmc hw
    exact (takeEntry_commits htw hmc (hw.imp_left (intoTw_iff e.code).2)).trans (commitEntry_eq k epc e s)
  · intro d monitor tw table
    obtain ⟨hecode, hinfo, hst, himp, hinto⟩ := ecauseWord_fields e (intoTw e.code) hcode
    obtain ⟨hppl, hpie, hie, hpl⟩ := entered_level c epc e
    have hmonitor : toMonitor c.pl e.code = true ↔ monitor := toMonitor_iff c.pl e.code
    have htw : intoTw e.code = true ↔ tw := intoTw_iff e.code
    have htable : c.vector e.code = table * 0x10000 + vectorOffset e.code := by
      simp only [vector_eq, hmonitor, table]
    refine ⟨congrArg (BitVec.ofNat 64) htable, rfl, hecode, hinfo, hst, himp, ?_, rfl, hppl, hpie, hie, ?_, rfl, rfl, rfl, fun h => ?_,
      fun h => ?_, entered_keeps c epc e⟩
    · exact (iff_of_eq (congrArg (· = true) hinto)).trans htw
    · simp only [d, hpl, hmonitor]
    · exact entered_trapWindow c epc e (htw.2 h)
    · exact entered_nextWindow c epc e (Bool.eq_false_iff.2 (mt htw.1 h))

end Sys2Proof.Proofs
end

section
/-!
PROOFS. TLB maintenance: what an invalidation leaves in the TLBs of a core, pins, and PROBE.
-/

namespace Sys2Proof.Proofs

open Sys2Proof.Machine Sys2Proof.Laws

/-! ### Cores -/

theorem mapCores_single (s : State) (k : CoreId) (f : Core → Core) : s.mapCores (· == k) f = s.mapCore k f := by
  have hcores : Vector.ofFn (fun j => if j == k then f s.cores[j] else s.cores[j]) = s.cores.set k (f s.cores[k]) := by
    ext j hj
    by_cases hjk : (⟨j, hj⟩ : CoreId) = k
    · subst hjk
      simp
    · have hval : k.val ≠ j := fun h => hjk (Fin.ext h.symm)
      simp [hjk, Vector.getElem_set_ne _ _ hval]
  simp only [State.mapCores, State.mapCore, State.setCore, State.core, hcores]

theorem mapCore_congr {s : State} {k : CoreId} {f g : Core → Core} (h : f (s.core k) = g (s.core k)) :
    s.mapCore k f = s.mapCore k g := congrArg (s.setCore k) h

theorem dmNotFixed_normal {k : CoreId} {s : State} (h : (s.core k).dm = false) : dmNotFixed k s = s := by
  simp [dmNotFixed, h]

section Instructions
variable {i : XIssue} {a : RArgs} {s u : State}

/-! ### Invalidations -/

/-- What an invalidation of kind `kind` by core k with operand `v` does to a core whose TLBs it reaches. -/
def invalidated (k : CoreId) (kind : InvKind) (v : Word64) (s : State) : Core → Core :=
  Core.dropTlb (kind.hits (s.core k).seatid (slice (s.core k).ptroot.toNat 48 12) v)
    (if kind = .all then some (s.core k).seatid else none)

/-- R238: an invalidation ends once the cores it reaches have completed the seat's accesses. -/
theorem invalidate_done {k : CoreId} {kind : InvKind} {v : Word64} {on : CoreId → Bool}
    (h : ∀ j, on j = true → s.accessesDone j (s.core k).seatid = true) :
    invalidate k kind v on s = .done (s.mapCores on (invalidated k kind v s)) := by
  have hall : (List.finRange 32).all (fun j => !on j || s.accessesDone j (s.core k).seatid) = true := by
    refine List.all_eq_true.2 fun j _ => ?_
    cases hj : on j with
    | false => rfl
    | true => exact h j hj
  exact if_pos hall

theorem invLocal_executes {key : Instr} {fn : Nat} {kind : InvKind} (hp : i.par = false)
    (he : s.Executes i.core none 1 [a.rs1] u) (hrd : a.rd = 0) (h2 : a.rs2 = 0)
    (hdone : u.accessesDone i.core (u.core i.core).seatid = true) (hfn : a.fn.toNat = fn)
    (h1 : kind = .all → a.rs1 = 0) : invLocal key fn kind i a s = .next (retire i.core
      (u.mapCore i.core (invalidated i.core kind ((u.core i.core).reg a.rs1) u))) := by
  have hreach : ∀ j, (j == i.core) = true → u.accessesDone j (u.core i.core).seatid = true :=
    fun j hj => (beq_iff_eq.1 hj).symm ▸ hdone
  rw [← mapCores_single]
  exact runInstr_done _ _ s u _ he (by simpa [hfn, hrd, h2, ← imp_iff_not_or] using h1) hp rfl (invalidate_done hreach)

theorem execTlbInvBroadcast_executes {fn : Nat} {kind : InvKind} (hp : i.par = false)
    (he : s.Executes i.core none 1 [a.rs1] u) (hrd : a.rd = 0) (h2 : a.rs2 = 0)
    (hdone : ∀ j, u.accessesDone j (u.core i.core).seatid = true) (hdm : (u.core i.core).dm = false)
    (hfn : a.fn.toNat = fn) (hrange : 0x08 ≤ fn ∧ fn ≤ 0x0B) (hkind : broadcastKind fn = kind)
    (h1 : fn = 0x08 → a.rs1 = 0) : execTlbInvBroadcast i a s = .next (retire i.core (u.mapCores (fun _ => true)
      (invalidated i.core kind ((u.core i.core).reg a.rs1) u))) := by
  subst hfn hkind
  refine runInstr_done _ _ s u _ he (by simpa [hrange, hrd, h2, ← imp_iff_not_or] using h1) hp rfl ?_
  simp only [dmNotFixed_normal hdm]
  exact invalidate_done fun j _ => hdone j

/-! ### Pins -/

theorem pinFree_iff {c : Core} {fetch : Bool} :
    c.pinFree fetch = true ↔ ((c.l1Tlb fetch).filter (·.pinned)).length < 8 := decide_eq_true_iff

/-- A PIN of an address that an entry `e` of the first-level TLB serves: R237 by whether `e` is pinned and a pin is free. -/
theorem pinInstr_held {key : Instr} {fn : Nat} {fetch : Bool} {e : TlbEntry} (hp : i.par = false)
    (he : s.Executes i.core none 1 [a.rd, a.rs1] u) (h2 : a.rs2 = 0) (hdm : (u.core i.core).dm = false)
    (hva : ((u.core i.core).reg a.rs1).toNat < 2 ^ 48) (hon : (u.core i.core).ptctl.getLsbD 0 = true)
    (hfn : a.fn.toNat = fn) (hfind : ((u.core i.core).l1Tlb fetch).find?
      (fun e => e.serves (u.core i.core) ((u.core i.core).reg a.rs1).toNat) = some e) :
    pinInstr key fn fetch i a s = .next (retire i.core (
      if e.pinned then u.mapCore i.core (fun c => c.setReg a.rd 0)
      else if (u.core i.core).pinFree fetch then
        u.mapCore i.core (fun c => (c.pin fetch ((u.core i.core).reg a.rs1).toNat).setReg a.rd 0)
      else u.mapCore i.core (fun c => c.setReg a.rd 1))) := by
  refine runInstr_done _ _ s u _ he (by simp [hfn, h2]) hp rfl ?_
  simp only [dmNotFixed_normal hdm, if_neg (Nat.not_le.2 hva), hon, if_true, hfind, pinResult]
  split
  · rfl
  · split <;> rfl

/-! ### PROBE -/

theorem execProbe_answers {r : XlAns} {t : State} (hp : i.par = false) (he : s.Executes i.core none 1 [a.rd, a.rs1] u)
    (h2 : a.rs2 = 0) (hdm : (u.core i.core).dm = false) (hva : ((u.core i.core).reg a.rs1).toNat < 2 ^ 48)
    (hfn : a.fn.toNat = 0x20) (ht : translate i.core .read ((u.core i.core).reg a.rs1).toNat u = (r, t)) (hr : r ≠ .wait) :
    execProbe i a s = .next (retire i.core (t.mapCore i.core (fun d => d.setReg a.rd
      (probeWord ((u.core i.core).pl == 0) (u.core i.core).kxu ((u.core i.core).reg a.rs1).toNat r)))) := by
  refine runInstr_done _ _ s u _ he (by simp [hfn, h2]) hp rfl ?_
  simp only [dmNotFixed_normal hdm, if_neg (Nat.not_le.2 hva), ht]

end Instructions

/-- Settles O18: each operation by the core or the cores whose TLBs it changes. -/
theorem tlbMaintenance : Obligations.TlbMaintenance := by
  unfold Obligations.TlbMaintenance
  refine ⟨fun i a s u hp => ?invalidations, fun i a s u e hp => ?pins, fun user kxu va e code info fpa => ⟨rfl, rfl⟩⟩
  case invalidations =>
    intro k c v cur covers without noWalks asid here hrd h2 he
    have hall : (fun d => noWalks (without (fun _ => true) d)) = invalidated k .all v u := rfl
    have hasid : without asid = invalidated k .asid v u := rfl
    have hhere : without here = invalidated k .va v u := rfl
    have hcovers : without covers = invalidated k .vaa v u := rfl
    refine ⟨fun hdone => ?issuing, fun hdone hdm => ?every⟩
    case issuing =>
      have hlocal {key : Instr} {fn : Nat} {kind : InvKind} (hfn : a.fn.toNat = fn) (h1 : kind = .all → a.rs1 = 0) :=
        invLocal_executes (key := key) hp he hrd h2 hdone hfn h1
      exact ⟨fun hfn h1 => hall ▸ hlocal (congrArg BitVec.toNat hfn) (fun _ => h1),
        fun hfn => hasid ▸ hlocal (congrArg BitVec.toNat hfn) nofun,
        fun hfn => hhere ▸ hlocal (congrArg BitVec.toNat hfn) nofun,
        fun hfn => hcovers ▸ hlocal (congrArg BitVec.toNat hfn) nofun⟩
    case every =>
      have hbroadcast {fn : Nat} {kind : InvKind} (hfn : a.fn.toNat = fn) :=
        execTlbInvBroadcast_executes (kind := kind) hp he hrd h2 hdone hdm hfn
      exact ⟨fun hfn h1 => hall ▸ hbroadcast (congrArg BitVec.toNat hfn) (by decide) rfl (fun _ => h1),
        fun hfn => hasid ▸ hbroadcast (congrArg BitVec.toNat hfn) (by decide) rfl nofun,
        fun hfn => hhere ▸ hbroadcast (congrArg BitVec.toNat hfn) (by decide) rfl nofun,
        fun hfn => hcovers ▸ hbroadcast (congrArg BitVec.toNat hfn) (by decide) rfl nofun⟩
  case pins =>
    intro k c va pins h2 hdm hva
    have hpins {key : Instr} {fn : Nat} (fetch : Bool) (he : s.Executes k none 1 [a.rd, a.rs1] u)
        (hon : c.ptctl.getLsbD 0 = true) (hfn : a.fn.toNat = fn) : pins (pinInstr key fn fetch i a s) fetch := by
      intro hfind
      rw [pinInstr_held hp he h2 hdm hva hon hfn hfind]
      refine ⟨fun hpin => ?_, fun hpin hfull => ?_, fun hpin hfree => ?_⟩
      · rw [if_pos hpin]
      · rw [if_neg (Bool.eq_false_iff.1 hpin), if_neg (mt pinFree_iff.1 (Nat.not_lt.2 hfull))]
      · rw [if_neg (Bool.eq_false_iff.1 hpin), if_pos (pinFree_iff.2 hfree)]
        exact congrArg (fun t => Host.Outcome.next (retire k t)) (mapCore_congr rfl)
    refine ⟨fun he => ⟨fun hon hfn => hpins false he hon (congrArg BitVec.toNat hfn),
      fun hon hfn => hpins true he hon (congrArg BitVec.toNat hfn), fun r t hfn ht hr =>
        execProbe_answers hp he h2 hdm hva (congrArg BitVec.toNat hfn) ht hr⟩, fun he hfn hrd h1 => ?_⟩
    exact runInstr_done _ _ s u _ he (by simp [hfn, hrd, h1, h2]) hp rfl rfl

end Sys2Proof.Proofs
end

section
/-!
PROOFS. Cache maintenance: what an operation does to one line, a range, a seat's ways, and the first-level caches.
-/

namespace Sys2Proof.Proofs

open Sys2Proof.Machine Sys2Proof.Laws

/-! ### One line -/

section Line
variable {k : CoreId} {va : Nat} {s t : State} {e : TlbEntry}

/-- What a line operation but FILL leaves of the line: each cluster's copy for the seat, treated in turn (R262, R266). -/
def lineTreated (k : CoreId) (op : CmoOp) (guard : Bool) (seat line : Nat) (s : State) : State :=
  (if op = .cln then s else voidFills k seat line s).each clusterIds (cmoCopy op guard seat line)

theorem stores_any_line {stores : List StoreEntry} {line : Nat} (h : stores.all (fun x => x.pa / 64 != line) = true) :
    ¬ stores.any (fun x => x.pa / 64 == line) = true := by
  simpa using h

/-- A line operation outside deterministic mode on a translated line that is no device's, its buffered stores drained:
the operation itself is all that is left to do. -/
theorem cmoLine_treats {op : CmoOp} (guard : Bool) (hop : op ≠ .fill) (hva : va < 2 ^ 48) (hdm : (s.core k).dm = false)
    (ht : translate k op.access va s = (.ok e, t)) (hdev : e.type.isDev = false)
    (hdrained : ((drainLine k (e.phys va / 64) t).core k).stores.all (fun x => x.pa / 64 != e.phys va / 64) = true) :
    cmoLine k op guard va s =
      (.ok, lineTreated k op guard (t.core k).seatid (e.phys va / 64) (drainLine k (e.phys va / 64) t)) := by
  simp only [cmoLine, if_neg (Nat.not_le.2 hva), hdm, hdev, ht, Bool.false_eq_true, if_false,
    if_neg (stores_any_line hdrained)]
  cases op with
  | fill => exact absurd rfl hop
  | cln | civ | inv => rfl

/-- R262: FILL of a line of Normal memory that the cluster does not hold and whose home answers. -/
theorem cmoLine_fills (guard : Bool) (hva : va < 2 ^ 48) (hdm : (s.core k).dm = false)
    (ht : translate k .read va s = (.ok e, t)) (hdev : e.type.isDev = false)
    (hdrained : ((drainLine k (e.phys va / 64) t).core k).stores.all (fun x => x.pa / 64 != e.phys va / 64) = true)
    (hnormal : e.type = .normal)
    (hmiss : (drainLine k (e.phys va / 64) t).l2Find (clusterOf k.val) (t.core k).seatid (e.phys va / 64) = none)
    (hgate : (drainLine k (e.phys va / 64) t).memGate (t.core k).seatid (e.phys va) = .ok) :
    cmoLine k .fill guard va s = (.ok, (l2Fill (clusterOf k.val) (t.core k).seatid (e.phys va / 64) (va / 4096 % 4)
      (drainLine k (e.phys va / 64) t)).2) := by
  have hnotHeld : ¬ ((e.type != .normal || ((drainLine k (e.phys va / 64) t).l2Find (clusterOf k.val)
      (t.core k).seatid (e.phys va / 64)).isSome) = true) := by simp [hnormal, hmiss]
  simp only [cmoLine, if_neg (Nat.not_le.2 hva), hdm, hdev, CmoOp.access, ht, Bool.false_eq_true, if_false,
    if_neg (stores_any_line hdrained), if_neg hnotHeld, hgate]

end Line

/-! ### Instructions -/

section Instructions
variable {key : Instr} {fn : Nat} {op : CmoOp} {i : XIssue} {a : RArgs} {s u v : State}

theorem cmoOne_executes (hp : i.par = false) (he : s.Executes i.core none op.level [a.rs1] u) (hrd : a.rd = 0)
    (h2 : a.rs2 = 0) (hfn : a.fn.toNat = fn)
    (hline : cmoLine i.core op false ((u.core i.core).reg a.rs1).toNat u = (.ok, v)) :
    cmoOne key fn op i a s = .next (retire i.core v) :=
  runInstr_done _ _ s u v he (by simp [hfn, hrd, h2]) hp rfl (by simp only [hline])

/-- The state behind one line of a range: retired where no bytes are left, or else still the oldest (R263). -/
def rangeAfter (k : CoreId) (a : RArgs) (s : State) : State :=
  let w := s.mapCore k (·.rangeStep a)
  if (w.core k).reg a.rs2 = 0 then retire k w else w

theorem cmoRange_executes (hp : i.par = false) (he : s.Executes i.core none op.level [a.rs1, a.rs2] u) (hrd : a.rd = 0)
    (hfn : a.fn.toNat = fn) (hleft : (u.core i.core).reg a.rs2 ≠ 0)
    (hline : cmoLine i.core op (op != .fill) ((u.core i.core).reg a.rs1).toNat u = (.ok, v)) :
    cmoRange key fn op i a s = .next (rangeAfter i.core a v) := by
  obtain ⟨t, -, hrun⟩ := runInstr_executes
    ⟨i.core, key, none, i.par, a.fn.toNat == fn && a.rd == 0, op.level, [a.rs1, a.rs2], false, false⟩ _ s u he
    (by simp [hfn, hrd]) hp
  refine hrun.trans (congrArg Host.Outcome.next ?_)
  simp only [Issued.atom, Bool.false_and, Bool.false_eq_true, if_false, if_neg hleft, hline, rangeAfter]
  split <;> rfl

/-- CIV.SEAT with no store buffered: the operation on each line in the seat's ways of the core's cluster. -/
theorem execCivSeat_executes (hp : i.par = false) (he : s.Executes i.core none 1 [] u) (hrd : a.rd = 0) (h1 : a.rs1 = 0)
    (h2 : a.rs2 = 0) (hfn : a.fn.toNat = 0x10) (hstores : (u.core i.core).stores = []) :
    execCivSeat i a s = .next (retire i.core
      ((((u.l2[clusterOf i.core.val]!).lines.filter (fun e =>
        (u.ownedWays (clusterOf i.core.val) (u.core i.core).seatid).contains e.way)).map (fun e => (e.seat, e.line))).foldl
          (fun t e => cmoCopy .civ true e.1 e.2 (clusterOf i.core.val) t) u)) :=
  runInstr_done _ _ s u _ he (by simp [hfn, hrd, h1, h2]) hp rfl (by simp only [drainWhere_empty hstores])

end Instructions

/-- Settles O17: a line operation by what it does to the line, a range by its line and its step, the others by what they
issue. -/
theorem cacheMaintenance : Obligations.CacheMaintenance := by
  unfold Obligations.CacheMaintenance
  refine ⟨fun i a s u t b e hp => ?lines, fun i a s u hp => ?whole⟩
  case lines =>
    intro k c va line cl hrd hva hdm hdev hb hdrained seat copies one range
    subst hb
    have htreats {op : CmoOp} (guard : Bool) (hop : op ≠ .fill) (ht : translate k op.access va u = (.ok e, t)) :=
      cmoLine_treats guard hop hva hdm ht hdev hdrained
    have hone {key : Instr} {fn : Nat} (op : CmoOp) (hop : op ≠ .fill) (hfn : a.fn.toNat = fn) :
        one (cmoOne key fn op i a s) op.level op.access (lineTreated k op false seat line (drainLine k line t)) :=
      fun he h2 ht => cmoOne_executes hp he hrd h2 hfn (htreats false hop ht)
    have hrange {key : Instr} {fn : Nat} (op : CmoOp) (hop : op ≠ .fill) (hfn : a.fn.toNat = fn) :
        range (cmoRange key fn op i a s) op.level op.access (lineTreated k op true seat line (drainLine k line t)) :=
      fun he ht hleft => cmoRange_executes hp he hrd hfn hleft (bne_iff_ne.2 hop ▸ htreats true hop ht)
    refine ⟨fun hfn => hone .cln nofun (congrArg BitVec.toNat hfn), fun hfn => hone .civ nofun (congrArg BitVec.toNat hfn),
      fun hfn => hone .inv nofun (congrArg BitVec.toNat hfn), fun hfn => hrange .cln nofun (congrArg BitVec.toNat hfn),
      fun hfn => hrange .civ nofun (congrArg BitVec.toNat hfn), fun hfn => hrange .inv nofun (congrArg BitVec.toNat hfn),
      fun hnormal hmiss hgate => ?_⟩
    have hfills (ht : translate k .read va u = (.ok e, t)) :=
      cmoLine_fills false hva hdm ht hdev hdrained hnormal hmiss hgate
    exact ⟨fun hfn he h2 ht => cmoOne_executes hp he hrd h2 (congrArg BitVec.toNat hfn) (hfills ht),
      fun hfn he ht hleft => cmoRange_executes hp he hrd (congrArg BitVec.toNat hfn) hleft (hfills ht)⟩
  case whole =>
    intro k c cl hrd h1 h2 he
    exact ⟨fun hfn hstores => execCivSeat_executes hp he hrd h1 h2 (congrArg BitVec.toNat hfn) hstores,
      fun hfn => runInstr_done _ _ s u _ he (by simp [hfn, hrd, h1, h2]) hp rfl rfl⟩

end Sys2Proof.Proofs
end

section
/-!
PROOFS. DSTORE: the end of zeroing, the scrub, and writes of a bank's mode.
-/

namespace Sys2Proof.Proofs

open Sys2Proof.Machine Sys2Proof.Laws

/-- A scrub read of a bank that is no memory-side cache, before its last line. -/
theorem execDstoreScrubRead_next {b : Fin 32} {u : Upset} {s : State} (hon : s.device = .on)
    (hscrub : s.flag DSTORE_SCRUB_EN = true) (hready : s.bitOf DSTORE_INITSTAT_BUSY b.val = false)
    (hslot : slotKind s.curSlot ≠ 1) (hmode : s.get DSTORE_BCFG_MODE b.val ≠ 1) (hline : s.dstoreScrub[b] < 65535) :
    execDstoreScrubRead b u s =
      let t := memUpset (bankBase b.val + s.dstoreScrub[b] * 64) true u s
      .next { t with dstoreScrub := t.dstoreScrub.set! b.val (s.dstoreScrub[b] + 1) } := by
  have hget : s.dstoreScrub[b.val]! = s.dstoreScrub[b] := getElem!_pos s.dstoreScrub b.val b.isLt
  have hnext : (s.dstoreScrub[b] + 1) % 65536 = s.dstoreScrub[b] + 1 := Nat.mod_eq_of_lt (by omega)
  have hruns : ¬ (s.device != .on || !s.flag DSTORE_SCRUB_EN || s.bitOf DSTORE_INITSTAT_BUSY b.val ||
      !s.openForBank) = true := by
    simp [hon, hscrub, hready, State.openForBank, hslot]
  have hlast (p : Bool) : ¬ (decide (s.dstoreScrub[b] = 65535) && p) = true :=
    fun h => hline.ne (of_decide_eq_true (Bool.and_eq_true_iff.1 h).1)
  simp only [execDstoreScrubRead, if_neg hruns, hget, hnext, if_neg hmode, if_neg (hlast _)]

/-- R274: what a write of BCFG does, by the mode that it names and the banks that are caches already. -/
theorem bcfgWrite_eq (b v : Nat) (s : State) : bcfgWrite b v s =
    if v % 4 = 1 ∧ 8 ≤ ((List.range 32).filter (fun n => n != b && s.get DSTORE_BCFG_MODE n == 1)).length then s
    else
      let t := writeFields 0 DSTORE_BCFG b 0 v 0xFFFFFFFF s
      if t.get DSTORE_BCFG_MODE b = s.get DSTORE_BCFG_MODE b then t
      else { t with msc := t.msc.filter (fun x => x.bank != b) } := by
  simp only [bcfgWrite, slice_low, Nat.reducePow]

theorem execBsetWrite_customer {by_ : Seat} (h : by_ ≠ 0) (c : Fin 4) (seat : Seat) (v : Word32) (s : State) :
    execBsetWrite by_ c seat v s = .next (s.answer .error) := pageWrite_customer h _ s

/-- Settles O26: zeroing by the byte that memory reads back, the scrub by its next line, the modes by the write of BCFG. -/
theorem dstoreBanks : Obligations.DstoreBanks := by
  unfold Obligations.DstoreBanks
  refine ⟨fun b s hbusy => if_pos hbusy, byte_zeroMem, fun b u s => execDstoreScrubRead_next, fun b v s => ?modes,
    fun by_ b c seat v s hby => ⟨pageWrite_customer hby _ s, execBsetWrite_customer hby c seat v s⟩⟩
  case modes =>
    intro cached t
    have hwrite : exec (.dstoreBcfgWrite 0 b v) s = .next ((bcfgWrite b.val v.toNat s).answer (.ok 0)) :=
      pageWrite_seatZero _ s
    rw [bcfgWrite_eq] at hwrite
    exact ⟨fun hcache hfull => hwrite.trans (by rw [if_pos ⟨hcache, hfull⟩]),
      fun htaken => hwrite.trans (by rw [if_neg htaken])⟩

end Sys2Proof.Proofs
end

section
/-!
PROOFS. The DRAM controllers: the queue and its ladder, the write queue and the rows, refresh and temperature, training, the
bank sets, and the patrol scrub.
-/

namespace Sys2Proof.Proofs

open Sys2Proof.Machine Sys2Proof.Laws

theorem dmc_getElem! (s : State) (c : Fin 4) : s.dmc[c.val]! = s.dmc[c] := getElem!_pos s.dmc c.val c.isLt

/-! ### The queue -/

section Queue
variable {c : Fin 4} {s : State}

/-- R334: GDOWN shows a guaranteed request of a customer seat that is served as best effort. -/
def gdownNoted (c : Nat) (guar served : Bool) (seat : Seat) (s : State) : State :=
  if guar = true ∧ served = false ∧ seat ≠ 0 then s.put DMC_STAT_GDOWN 1 c else s

@[simp] theorem gdownNoted_dmc (n : Nat) (guar served : Bool) (seat : Seat) (s : State) :
    (gdownNoted n guar served seat s).dmc = s.dmc := by
  simp [gdownNoted, apply_ite State.dmc]

/-- R337, R340: the port has a credit for a request, and a write has a place in the write queue. -/
def hasCredit (d : Dmc) (port : Nat) (write : Bool) : Prop :=
  (d.queue.filter (fun r => !r.guar && r.port == port && r.write == write)).length < 8 ∧
    (write = true → (d.queue.filter (fun r => r.write && !r.guar)).length < 64)

/-- R337: a request that reaches the channel enters its queue, guaranteed or with a credit. -/
theorem execDmcRequest_enters {port : Fin 16} {seat : Seat} {pa : BitVec 48} {write guar served : Bool} {hint : Fin 4}
    {a : Nat} (ha : pa.toNat / 64 * 64 = a) (hon : s.device = .on) (hready : s.chanReady c.val = true)
    (hdram : isDram a = true) (hchan : s.chanOf a = c.val)
    (hserved : (guar && s.bitOf DMC_BSET_UNITS (s.unitOf a) c.val seat.val && s.hasWindow seat.val c.val) = served)
    (hroom : served = true ∨ hasCredit s.dmc[c] port.val write) (hcap : a - 0x010000000000 < s.dramCapacity) :
    execDmcRequest c port seat pa write guar hint s = .next ((gdownNoted c.val guar served seat s).mapDmc c.val
      (fun d => { d with queue := d.queue ++ [⟨port.val, seat.val, a, write, served, hint.val, 0⟩] })) := by
  have hreaches : ¬ (s.device != .on || !s.chanReady c.val || !isDram a || s.chanOf a != c.val ||
      decide (s.dramCapacity ≤ a - 0x010000000000)) = true := by
    simp [hon, hready, hdram, hchan, hcap]
  have hnoted : (if (guar && !served && decide (seat.val ≠ 0)) = true then s.put DMC_STAT_GDOWN 1 c.val else s) =
      gdownNoted c.val guar served seat s := by
    simp [gdownNoted, and_assoc]
  simp only [execDmcRequest, ha, if_neg hreaches, hserved, hnoted, gdownNoted_dmc, dmc_getElem!]
  refine if_neg ?_
  rcases hroom with rfl | ⟨hport, hplace⟩
  · simp
  · cases write with
    | false => simpa using fun _ => hport
    | true => simpa using fun _ : served = false => And.intro hport fun _ : served = false => hplace rfl

/-- R338: a best-effort request crosses a threshold of Table DMC-3. -/
theorem execUrgencyEscalation_climbs {i : Nat} {r : DmcReq} (hr : (s.dmc[c]).queue[i]? = some r) (hguar : r.guar = false)
    (hlevel : r.level < 3) : execUrgencyEscalation c i s =
    let t := s.mapDmc c.val (fun d => { d with queue := d.queue.set i { r with level := r.level + 1 } })
    .next (if r.level = 2 then t.countUp DMC_STAT_U3CNT c.val else t) := by
  have hclimbs : ¬ (r.guar || decide (3 ≤ r.level)) = true := by simp [hguar, hlevel]
  simp only [execUrgencyEscalation, dmc_getElem!, hr, if_neg hclimbs]

/-- R340: the write queue drains when it is full to the mark, when a write is urgent, or when no read waits. -/
theorem execWriteQueueDrain_drains {u : Upset} {w : DmcReq} {ws : List DmcReq}
    (hws : (s.dmc[c]).queue.filter (fun r => r.write && !r.guar) = w :: ws)
    (hdue : 48 ≤ (w :: ws).length ∨ (∃ r ∈ w :: ws, 2 ≤ r.level) ∨ ∀ r ∈ (s.dmc[c]).queue, r.write = true) :
    execWriteQueueDrain c u s =
      .next ((w :: ws).foldl (fun t r => serveReq c.val r t) (memUpset w.pa false u s)) := by
  simp only [execWriteQueueDrain, dmc_getElem!, hws]
  refine if_pos ?_
  simpa [or_assoc] using hdue

theorem execRowIdleClose_closes {bank : Nat}
    (hmiss : ∀ r ∈ (s.dmc[c]).queue, rowHit s.dmc[c] r = true → (Config.dramBankRow r.pa).1 ≠ bank) :
    execRowIdleClose c bank s =
      .next (s.mapDmc c.val (fun d => { d with rows := d.rows.filter (fun x => x.1 != bank) })) := by
  simp only [execRowIdleClose, dmc_getElem!]
  exact if_neg (by simpa using hmiss)

theorem execCrcAlertReplay_replays {u : Upset} {r : DmcReq} (hr : (s.dmc[c]).queue.find? (·.write) = some r) :
    execCrcAlertReplay c u s = .next (memUpset r.pa false u (s.countUp DMC_ERR_CE c.val)) := by
  simp only [execCrcAlertReplay, dmc_getElem!, hr]

end Queue

/-! ### Refresh and temperature -/

section Thermal
variable {c : Fin 4} {s : State}

/-- R342: what a channel does for which the table holds no run. -/
theorem execDmcSelfRefresh_eq {postpone : Bool} (hon : s.device = .on) (hready : s.chanReady c.val = true)
    (hrun : s.hasRefreshRun c.val = false) : execDmcSelfRefresh c postpone s =
    if (postpone && decide ((s.dmc[c]).postponed < 4) && (s.dmc[c]).queue.length != 0) = true then
      .next (s.mapDmc c.val (fun d => { d with postponed := d.postponed + 1 }))
    else .next (s.mapDmc c.val (fun d => { d with postponed := 0, rows := [] })) := by
  have hself : ¬ (s.device != .on || !s.chanReady c.val || s.hasRefreshRun c.val) = true := by simp [hon, hready, hrun]
  simp only [execDmcSelfRefresh, dmc_getElem!, if_neg hself]

/-- The state in which TEMP shows what the sensors say. -/
def tempShown (c : Nat) (t0 t1 : BitVec 8) (s : State) : State :=
  ((s.put DMC_TEMP_VALID 1 c).put DMC_TEMP_DIMM0 t0.toNat c).put DMC_TEMP_DIMM1 t1.toNat c

/-- The temperature of the hotter DIMM, or of the only one. -/
def hottestDimm (c : Nat) (t0 t1 : BitVec 8) (s : State) : Int :=
  if 2 ≤ s.get DMC_GEOM_NDIMM c then max t0.toInt t1.toInt else t0.toInt

theorem ite_decide_hottestDimm (n : Nat) (t0 t1 : BitVec 8) (s : State) :
    (if decide (2 ≤ s.get DMC_GEOM_NDIMM n) = true then max t0.toInt t1.toInt else t0.toInt) = hottestDimm n t0 t1 s := by
  simp only [hottestDimm, decide_eq_true_eq]

/-- Above 85 degrees the count of cool readings starts anew and HOT shows. -/
def hotNoted (c : Nat) (s : State) : State := (s.mapDmc c (fun d => { d with cool := 0 })).put DMC_STAT_HOT 1 c

/-- A reading of at most 85 degrees counts, up to the 100 that clear HOT. -/
def coolCounted (c : Nat) (s : State) : State := s.mapDmc c (fun d => { d with cool := min 100 (d.cool + 1) })

/-- R343: what a reading of the sensors does, by the hottest DIMM. -/
theorem execDmcTempRead_eq {t0 t1 : BitVec 8} (hready : s.chanReady c.val = true) : execDmcTempRead c t0 t1 s =
    let t := tempShown c.val t0 t1 s
    let hottest := hottestDimm c.val t0 t1 t
    let u := coolCounted c.val t
    let v := hotNoted c.val t
    if hottest ≤ 85 then
      .next (if (u.dmc[c]).cool = 100 then (u.put DMC_STAT_HOT 0 c.val).put DMC_STAT_OVHT 0 c.val else u)
    else .next (if (decide (95 < hottest) ||
        (v.hasRefreshRun c.val && decide (195 < v.get DEAL_RFI_MAXGAP) && !v.refreshFits c.val)) = true then
      setOverheat c.val v else v) := by
  have hserves : ¬ (!s.chanReady c.val) = true := by simp [hready]
  rw [execDmcTempRead, if_neg hserves]
  simp only [ite_decide_hottestDimm, dmc_getElem!]
  rfl

variable {t0 t1 : BitVec 8} (hready : s.chanReady c.val = true)
include hready

theorem execDmcTempRead_cool (hcool : hottestDimm c.val t0 t1 (tempShown c.val t0 t1 s) ≤ 85) :
    execDmcTempRead c t0 t1 s =
    let u := coolCounted c.val (tempShown c.val t0 t1 s)
    .next (if (u.dmc[c]).cool = 100 then (u.put DMC_STAT_HOT 0 c.val).put DMC_STAT_OVHT 0 c.val else u) :=
  (execDmcTempRead_eq hready).trans (if_pos hcool)

theorem execDmcTempRead_overheated (hover : 95 < hottestDimm c.val t0 t1 (tempShown c.val t0 t1 s)) :
    execDmcTempRead c t0 t1 s = .next (setOverheat c.val (hotNoted c.val (tempShown c.val t0 t1 s))) := by
  have hwarm : ¬ hottestDimm c.val t0 t1 (tempShown c.val t0 t1 s) ≤ 85 := by omega
  simp only [execDmcTempRead_eq hready, if_neg hwarm, hover, decide_true, Bool.true_or, if_true]

theorem execDmcTempRead_hot (hwarm : 85 < hottestDimm c.val t0 t1 (tempShown c.val t0 t1 s))
    (hbelow : hottestDimm c.val t0 t1 (tempShown c.val t0 t1 s) ≤ 95)
    (hrun : (hotNoted c.val (tempShown c.val t0 t1 s)).hasRefreshRun c.val = false) :
    execDmcTempRead c t0 t1 s = .next (hotNoted c.val (tempShown c.val t0 t1 s)) := by
  simp only [execDmcTempRead_eq hready, if_neg (not_le.2 hwarm), decide_eq_false (not_lt.2 hbelow), hrun, Bool.false_and,
    Bool.or_false, Bool.false_eq_true, if_false]

end Thermal

/-! ### Training, the bank sets and the scrub -/

section Channel
variable {c : Fin 4} {s : State}

/-- The training results, which come from outside (log 5), in their registers. -/
def trainingDrawn (c : Nat) (s : State) : State := s.each (List.range 1024) (fun i t =>
  let (x, t) := t.draw
  t.setReg DMC_TRNDATA (x.toNat % 2 ^ 32) c i)

/-- GEOM as the word of the training names it. -/
def geometrySet (c v : Nat) (s : State) : State :=
  ((((s.put DMC_GEOM_CAP (slice v 16 11) c).put DMC_GEOM_X8 (slice v 7 1) c).put DMC_GEOM_DENS (slice v 4 3) c).put
    DMC_GEOM_RANKS (slice v 2 2) c).put DMC_GEOM_NDIMM (slice v 0 2) c

/-- R345: a channel that trains ends ready or with an error. -/
theorem execDramTrainingDone_eq {geom : Option Word32} (hon : s.device = .on) (hready : s.chanReady c.val = false)
    (herr : s.flag DMC_STAT_TRERR c.val = false) : execDramTrainingDone c geom s = .next (geom.elim
      (s.put DMC_STAT_TRERR 1 c.val)
      fun w => (geometrySet c.val w.toNat (trainingDrawn c.val s)).put DMC_STAT_READY 1 c.val) := by
  have htrains : ¬ (s.device != .on || s.chanReady c.val || s.flag DMC_STAT_TRERR c.val) = true := by
    simp [hon, hready, herr]
  cases geom <;> exact if_neg htrains

/-- R332: a write of a bank set while the Deal is open, by whether another seat holds one of the units that it names. -/
theorem bsetWrite_eq {seat v : Nat} (hopen : s.dealFixed = false) {x : Nat} (hx : v % 2 ^ (8 * s.numRanks c.val) = x) :
    bsetWrite c.val seat v s =
      if ∃ n ∈ customerSeats, n ≠ seat ∧ s.get DMC_BSET_UNITS c.val n &&& x ≠ 0 then s.put DMC_STAT_BSCONF 1 c.val
      else s.put DMC_BSET_UNITS x c.val seat := by
  simp [bsetWrite, hopen, hx]

theorem execBsetWrite_seatZero {seat : Seat} {v : Word32} (hseat : seat ≠ 0) :
    execBsetWrite 0 c seat v s = .next ((bsetWrite c.val seat.val v.toNat s).answer (.ok 0)) := by
  simp only [execBsetWrite, Fin.val_zero, pageWrite_seatZero, if_neg hseat]

/-- R349: a scrub read before the channel's last line. -/
theorem execDmcScrubRead_next {u : Upset} (hon : s.device = .on) (hready : s.chanReady c.val = true)
    (hscrub : s.flag DMC_SCRUB_EN c.val = true) (hslot : openOn c.val s.curSlot = true)
    (hline : (s.dmc[c]).scrub + 1 < s.get DMC_GEOM_CAP c.val * 0x400000) : execDmcScrubRead c u s =
    .next ((memUpset (s.globalAddr c.val ((s.dmc[c]).scrub * 64)) true u s).mapDmc c.val
      (fun d => { d with scrub := (s.dmc[c]).scrub + 1 })) := by
  have hruns : ¬ (s.device != .on || !s.chanReady c.val || !s.flag DMC_SCRUB_EN c.val || !openOn c.val s.curSlot) = true := by
    simp [hon, hready, hscrub, hslot]
  simp only [execDmcScrubRead, if_neg hruns, dmc_getElem!, if_pos hline]

end Channel

/-- Settles O25: each command by its own lemma, and a reading of the sensors by the band of the hottest DIMM. -/
theorem dramControllers : Obligations.DramControllers := by
  unfold Obligations.DramControllers
  refine ⟨fun c port seat pa write guar hint s hon hready hdram hchan hcap hroom =>
      execDmcRequest_enters rfl hon hready hdram hchan rfl hroom hcap,
    fun c i s r => execUrgencyEscalation_climbs, fun c u s w ws => execWriteQueueDrain_drains,
    fun c bank s => execRowIdleClose_closes, fun c u s r => execCrcAlertReplay_replays,
    fun c s hon hready hrun => ?refresh, fun c t0 t1 s hready => ?temperature,
    fun c w s hon hready herr => ?training, fun c seat v s hseat hopen => ?bankSets,
    fun c u s => execDmcScrubRead_next⟩
  case refresh =>
    exact ⟨execDmcSelfRefresh_eq hon hready hrun,
      fun hfew hwaits => (execDmcSelfRefresh_eq hon hready hrun).trans (if_pos (by simpa using And.intro hfew hwaits))⟩
  case temperature =>
    exact ⟨fun hwarm => ⟨execDmcTempRead_overheated hready, execDmcTempRead_hot hready hwarm⟩, execDmcTempRead_cool hready⟩
  case training =>
    have hends (geom) : exec (.dramTrainingDone c geom) s = _ := execDramTrainingDone_eq hon hready herr
    exact ⟨hends none, trainingDrawn c.val s, hends (some w)⟩
  case bankSets =>
    intro x clash
    have hwrite : exec (.bsetWrite 0 c seat v) s = .next ((bsetWrite c.val seat.val v.toNat s).answer (.ok 0)) :=
      execBsetWrite_seatZero hseat
    rw [bsetWrite_eq hopen rfl] at hwrite
    exact ⟨fun h => hwrite.trans (by rw [if_pos h]), fun h => hwrite.trans (by rw [if_neg h])⟩

end Sys2Proof.Proofs
end

section
/-!
PROOFS. The instructions of a control lane: one rule per way in which an issue ends, and the arithmetic of Tables LANE-2 and
LANE-3.
-/

namespace Sys2Proof.Proofs

open Sys2Proof.Machine Sys2Proof.Laws

/-! ### How an issue ends -/

section Issue
variable {i : LIssue} {lg : Bool} {s u t : State} (h : s.LaneExecutes i u)
include h

theorem laneIssue_illegal {f : State → LaneAct} (hl : lg = false) :
    laneIssue i lg f s = .next (laneFault i.lane.val 0x01 u) := by
  rw [laneIssue_executes _ _ _ _ _ h, if_neg (by simp [hl])]

theorem laneIssue_next {f : State → LaneAct} (hl : lg = true) (hf : f u = .next t) :
    laneIssue i lg f s = .next (laneOn i.lane.val t) := by
  rw [laneIssue_executes _ _ _ _ _ h, if_pos hl, hf]

theorem laneIssue_goto {f : State → LaneAct} {target : Nat} {cancels : Bool} (hl : lg = true)
    (hf : f u = .goto target cancels t) : laneIssue i lg f s =
      .next ((laneGoto i.lane.val target cancels t).mapLane i.lane.val (fun l => { l with stepping := false })) := by
  rw [laneIssue_executes _ _ _ _ _ h, if_pos hl, hf]

theorem laneIssue_stay {f : State → LaneAct} (hl : lg = true) (hf : f u = .stay t) :
    laneIssue i lg f s = .next (t.mapLane i.lane.val (fun l => { l with stepping := false })) := by
  rw [laneIssue_executes _ _ _ _ _ h, if_pos hl, hf]

theorem laneIssue_fault {f : State → LaneAct} {code : Nat} (hl : lg = true) (hf : f u = .fault code t) :
    laneIssue i lg f s = .next (laneFault i.lane.val code t) := by
  rw [laneIssue_executes _ _ _ _ _ h, if_pos hl, hf]

theorem laneLocal_illegal {f : Lane → Lane × Bool} (hl : lg = false) :
    laneLocal i lg f s = .next (laneFault i.lane.val 0x01 u) := laneIssue_illegal h hl

theorem laneLocal_next {f : Lane → Lane × Bool} {l : Lane} {sat : Bool} (hl : lg = true)
    (hf : f (u.lane i.lane.val) = (l, sat)) : laneLocal i lg f s =
      .next (laneOn i.lane.val ((u.mapLane i.lane.val (fun _ => l)).sticky i.lane.val sat)) := by
  rw [laneLocal_executes _ _ _ _ _ h, if_pos hl, hf, State.mapLane, hf]
  rfl

theorem laneAlu_next {d a b : Fin 32} {f : Half → Half → Half × Bool × Bool} {r : Half} {v sat : Bool}
    (hf : f ((u.lane i.lane.val).reg a) ((u.lane i.lane.val).reg b) = (r, v, sat)) : laneAlu i d a b f s =
      .next (laneOn i.lane.val ((u.mapLane i.lane.val (fun l => l.result d r v)).sticky i.lane.val sat)) := by
  rw [laneAlu_executes _ _ _ _ _ _ _ h, hf]

end Issue

/-! ### Results -/

theorem overflow16_eq (e : Int) : overflow16 e = beyond 16 e := by rw [overflow16, satInt_eq]

theorem wrap16_add (x y : Half) : wrap16 (x.toInt + y.toInt) = (x + y, beyond 16 (x.toInt + y.toInt), false) := by
  rw [wrap16, overflow16_eq, BitVec.ofInt_add, BitVec.ofInt_toInt, BitVec.ofInt_toInt]

theorem wrap16_sub (x y : Half) : wrap16 (x.toInt - y.toInt) = (x - y, beyond 16 (x.toInt - y.toInt), false) := by
  rw [wrap16, overflow16_eq, Int.sub_eq_add_neg, BitVec.ofInt_add, BitVec.ofInt_neg, BitVec.ofInt_toInt,
    BitVec.ofInt_toInt, ← BitVec.sub_eq_add_neg]

theorem clip16_eq (e : Int) : clip16 e = (BitVec.ofInt 16 (clamp 16 e), beyond 16 e, beyond 16 e) := by
  rw [clip16, satInt_eq]

theorem ite_slt_eq_ite_le (x y : Half) : (if x.slt y then x else y) = if x.toInt ≤ y.toInt then x else y := by
  apply BitVec.eq_of_toInt_eq
  simp only [apply_ite BitVec.toInt, BitVec.slt_iff_toInt_lt]
  split <;> split <;> omega

theorem ite_slt_eq_ite_le_max (x y : Half) : (if x.slt y then y else x) = if x.toInt ≤ y.toInt then y else x := by
  apply BitVec.eq_of_toInt_eq
  simp only [apply_ite BitVec.toInt, BitVec.slt_iff_toInt_lt]
  split <;> split <;> omega

/-- Only the lowest number has a negation that does not fit. -/
theorem beyond_neg (x : Half) : beyond 16 (-x.toInt) = decide (x.toInt = -32768) := by
  have hlow := BitVec.le_toInt x
  have hhigh := BitVec.toInt_lt (x := x)
  simp only [beyond, decide_eq_decide]
  omega

theorem beyond_abs (x : Half) : beyond 16 (max x.toInt (-x.toInt)) = decide (x.toInt = -32768) := by
  have hlow := BitVec.le_toInt x
  have hhigh := BitVec.toInt_lt (x := x)
  simp only [beyond, decide_eq_decide]
  omega

theorem clipNoV_neg (x : Half) :
    clipNoV (-x.toInt) = (BitVec.ofInt 16 (clamp 16 (-x.toInt)), false, decide (x.toInt = -32768)) := by
  rw [clipNoV, satInt_eq, beyond_neg]

theorem clipNoV_abs (x : Half) : clipNoV (if x.toInt < 0 then -x.toInt else x.toInt) =
    (BitVec.ofInt 16 (clamp 16 (max x.toInt (-x.toInt))), false, decide (x.toInt = -32768)) := by
  have habs : (if x.toInt < 0 then -x.toInt else x.toInt) = max x.toInt (-x.toInt) := by split <;> omega
  rw [habs, clipNoV, satInt_eq, beyond_abs]

/-- Settles O27: each instruction by how its issue ends, and its result in the terms of the tables. -/
theorem laneArithmetic : Obligations.LaneArithmetic := by
  intro i d a b imm s u h n x y done flags fit
  exact ⟨(laneIssue_next h rfl rfl : execLaneNop i s = _),
    (laneAlu_next h (wrap16_add x y) : execLaneAdd i d a b s = _),
    (laneAlu_next h (wrap16_sub x y) : execLaneSub i d a b s = _),
    (laneAlu_next h (clip16_eq _) : execLaneAdds i d a b s = _),
    (laneAlu_next h (clip16_eq _) : execLaneSubs i d a b s = _),
    (laneAlu_next h rfl : execLaneAnd i d a b s = _),
    (laneAlu_next h rfl : execLaneOr i d a b s = _),
    (laneAlu_next h rfl : execLaneXor i d a b s = _),
    (laneAlu_next h rfl : execLaneShl i d a b s = _),
    (laneAlu_next h rfl : execLaneShr i d a b s = _),
    (laneAlu_next h rfl : execLaneSra i d a b s = _),
    (laneAlu_next h (congrArg plain16 (ite_slt_eq_ite_le x y)) : execLaneMin i d a b s = _),
    (laneAlu_next h (congrArg plain16 (ite_slt_eq_ite_le_max x y)) : execLaneMax i d a b s = _),
    (laneAlu_next h (clipNoV_abs x) : execLaneAbs i d a s = _),
    (laneAlu_next h (clipNoV_neg x) : execLaneNeg i d a s = _),
    (laneAlu_next h rfl : execLaneMov i d a s = _),
    (laneLocal_next h rfl (congrArg (fun v => ((u.lane n).flags (x - y) v, false)) (overflow16_eq _)) :
      execLaneCmp i a b s = _),
    (laneIssue_next h rfl rfl : execLaneClrs i s = _),
    (laneLocal_next h rfl (congrArg (fun v => ((u.lane n).result d (x + imm) v, false)) (overflow16_eq _)) :
      execLaneAddi i d a imm s = _),
    (laneLocal_next h rfl rfl : execLaneLdi i d imm s = _),
    (laneLocal_next h rfl rfl : execLaneAndi i d a imm s = _),
    (laneLocal_next h rfl (congrArg (fun v => ((u.lane n).flags (x - imm) v, false)) (overflow16_eq _)) :
      execLaneCmpi i a imm s = _),
    fun amt => ⟨(laneLocal_next h rfl rfl : execLaneShi i d a 0 amt s = _),
      (laneLocal_next h rfl rfl : execLaneShi i d a 1 amt s = _),
      (laneLocal_next h rfl rfl : execLaneShi i d a 2 amt s = _),
      (laneLocal_illegal h rfl : execLaneShi i d a 3 amt s = _)⟩⟩

end Sys2Proof.Proofs
end

section
/-!
PROOFS. The accumulators of a control lane (R355, R357): limited values, rounding and shifts as divisions, the clamp, and the
product of two words of data memory.
-/

namespace Sys2Proof.Proofs

open Sys2Proof.Machine Sys2Proof.Laws

/-! ### Values -/

theorem accPut_eq (l : Lane) (c : Fin 4) (z : Int) :
    l.accPut c z = ({ l with ac := l.ac.set c (BitVec.ofInt 40 (clamp 40 z)) }, beyond 40 z) := by
  rw [Lane.accPut, satInt_eq]

/-- RND adds half of the last place that it keeps, and drops the places below. -/
theorem rounded_eq (e : Int) (sh : Fin 32) : (if sh.val = 0 then e else (e + 2 ^ (sh.val - 1)).shiftRight sh.val) =
    (e + (if sh = 0 then 0 else 2 ^ (sh.val - 1))) / 2 ^ sh.val := by
  by_cases hsh : sh = 0
  · simp [hsh]
  · have hval : sh.val ≠ 0 := mt Fin.val_eq_zero_iff.1 hsh
    rw [if_neg hval, if_neg hsh]
    exact Int.shiftRight_eq_div_pow ..

theorem clamp_of_within {w : Nat} {z : Int} (h : beyond w z = false) : clamp w z = z := by
  simp only [beyond, decide_eq_false_iff_not] at h
  rw [clamp]
  omega

/-- A value between an accumulator's own and 0 fits the accumulator. -/
theorem within_of_clamped (x : Acc) {lim : Int} (hlim : 0 ≤ lim) : beyond 40 (min (max x.toInt (-lim)) lim) = false := by
  have hlow := BitVec.le_toInt x
  have hhigh := BitVec.toInt_lt (x := x)
  simp only [beyond, decide_eq_false_iff_not]
  omega

/-- ACCLP, whose result always fits: S where the value changes. -/
theorem accPut_clamped (l : Lane) (c : Fin 4) {lim : Int} (hlim : 0 ≤ lim) :
    l.accPut c (min (max (l.accI c) (-lim)) lim) =
      ({ l with ac := l.ac.set c (BitVec.ofInt 40 (min (max (l.accI c) (-lim)) lim)) }, false) := by
  have hfits := within_of_clamped l.ac[c] hlim
  rw [accPut_eq, Lane.accI, clamp_of_within hfits, hfits]

/-- R357: MACP takes an even pointer, whose circular range is even too. -/
theorem macpOk_iff (l : Lane) (k : Fin 4) : l.macpOk k = true ↔
    l.p[k] % 2 = 0 ∧ (l.len[k] ≠ 0 → l.base[k] % 2 = 0 ∧ l.len[k] % 2 = 0) := by
  simp only [Lane.macpOk, Bool.and_eq_true, Bool.or_eq_true, beq_iff_eq, or_iff_not_imp_left, ne_eq]

/-! ### Instructions -/

section Accumulate
variable {i : LIssue} {s u : State} (h : s.LaneExecutes i u)
include h

theorem execAcclp_executes (c : Fin 4) (a : Fin 32) : execAcclp i c a s =
    let l := u.lane i.lane.val
    let lim : Int := |l.regI a| * 2 ^ 15
    let z := min (max (l.accI c) (-lim)) lim
    .next (laneOn i.lane.val ((u.mapLane i.lane.val (fun _ => { l with ac := l.ac.set c (BitVec.ofInt 40 z) })).sticky
      i.lane.val (decide (z ≠ l.accI c)))) := by
  refine laneLocal_next h rfl ?_
  have hlim : (0 : Int) ≤ |(u.lane i.lane.val).regI a| * 2 ^ 15 := by positivity
  simp only [Int.natCast_natAbs, accPut_clamped _ _ hlim, Bool.false_or, ne_eq, decide_not]
  rfl

variable {c p q : Fin 4} {up : Upset}

theorem execMacp_odd (hodd : ¬ ((u.lane i.lane.val).macpOk p = true ∧ (u.lane i.lane.val).macpOk q = true)) :
    execMacp i c p q up s = .next (laneFault i.lane.val 0x07 u) := by
  rw [execMacp]
  refine laneIssue_fault h rfl (if_pos ?_)
  simpa [imp_iff_not_or] using hodd

variable (hp : (u.lane i.lane.val).macpOk p = true) (hq : (u.lane i.lane.val).macpOk q = true)
include hp hq

theorem execMacp_even_double : execMacp i c p q .double s = .next (laneFault i.lane.val 0x03 u) := by
  rw [execMacp]
  refine laneIssue_fault h rfl ((if_neg ?_).trans (if_pos rfl))
  simp [hp, hq]

theorem execMacp_even : execMacp i c p q .none s =
    let l := u.lane i.lane.val
    let z := l.accI c + l.wordI l.p[p] * l.wordI l.p[q] + l.wordI (l.p[p] + 1) * l.wordI (l.p[q] + 1)
    let l' := ({ l with ac := l.ac.set c (BitVec.ofInt 40 (clamp 40 z)) }).advance p 2
    .next (laneOn i.lane.val ((u.mapLane i.lane.val (fun _ => if p = q then l' else l'.advance q 2)).sticky i.lane.val
      (beyond 40 z))) := by
  rw [execMacp]
  refine laneIssue_next h rfl ((if_neg ?_).trans ?_)
  · simp [hp, hq]
  · simp only [laneDm, reduceCtorEq, if_false, accPut_eq]
    rfl

end Accumulate

/-- Settles O29: each accumulator takes a limited value; RND, ACX, ACCLP and MACP by their own values. -/
theorem laneAccumulators : Obligations.LaneAccumulators := by
  intro i c e p q a b x y sh s u h n l acc on put ab xy
  refine ⟨(laneLocal_next h rfl (accPut_eq ..) : execDmac i 0 c a b x y s = _),
    (laneLocal_next h rfl (accPut_eq ..) : execDmac i 1 c a b x y s = _),
    (laneLocal_next h rfl (accPut_eq ..) : execDmac i 2 c a b x y s = _),
    (laneLocal_next h rfl (accPut_eq ..) : execDmac i 3 c a b x y s = _),
    (laneLocal_next h rfl (accPut_eq ..) : execAcld i c a sh s = _),
    (laneLocal_next h rfl (accPut_eq ..) : execAcopClr i c s = _),
    (laneLocal_next h rfl (accPut_eq ..) : execAcopMov i c e s = _),
    (laneLocal_next h rfl (accPut_eq ..) : execAcopAdd i c e s = _),
    (laneLocal_next h rfl (accPut_eq ..) : execAcopSub i c e s = _),
    (laneLocal_next h rfl (accPut_eq ..) : execAcopNeg i c e s = _), ?round, ?extract, execAcclp_executes h c a, ?product⟩
  case round =>
    intro z
    have hround : (if sh.val = 0 then l.accI c else (l.accI c + 2 ^ (sh.val - 1)).shiftRight sh.val) = z := rounded_eq ..
    refine (laneLocal_next h rfl ?_ : execRnd i a c sh s = _)
    simp only [satInt_eq]
    rw [hround]
  case extract =>
    intro z w
    refine ⟨fun hab => ?_, fun hab => (laneLocal_illegal h (by simp [hab]) : execAcx i a c b sh s = _)⟩
    refine (laneLocal_next h (by simp [hab]) ?_ : execAcx i a c b sh s = _)
    have hshift : (l.accI c).shiftRight sh.val = z := Int.shiftRight_eq_div_pow ..
    simp only [satInt_eq]
    rw [hshift]
  case product =>
    intro even z l'
    have heven : ∀ k, l.macpOk k = true ↔ even k := macpOk_iff l
    refine ⟨fun hp hq => ⟨execMacp_even h ((heven p).2 hp) ((heven q).2 hq),
      execMacp_even_double h ((heven p).2 hp) ((heven q).2 hq)⟩, fun hodd up => execMacp_odd h ?_⟩
    rwa [heven, heven]

end Sys2Proof.Proofs
end

section
/-!
PROOFS. Data memory, pointers and block transfers of a control lane (R356, R357, R366 to R369).
-/

namespace Sys2Proof.Proofs

open Sys2Proof.Machine Sys2Proof.Laws

/-! ### Pointers -/

section Pointer
variable (l : Lane) (p : Fin 4) (d : Int)

theorem advance_other {q : Fin 4} (hq : q ≠ p) : (l.advance p d).p[q] = l.p[q] := by
  have hval : p.val ≠ q.val := fun e => hq (Fin.ext e.symm)
  simp [Lane.advance, hval]

/-- A pointer of a circular range comes back at the end that it passes. -/
def circled (base len : Nat) (r : Int) : Int :=
  if (base : Int) + len ≤ r then r - len else if r < base then r + len else r

theorem advance_same : (l.advance p d).p[p] =
    ((if l.len[p] = 0 then (l.p[p] : Int) + d else circled l.base[p] l.len[p] (l.p[p] + d)) % 4096).toNat := by
  exact Vector.getElem_set_self ..

theorem advance_linear (hlen : l.len[p] = 0) : ((l.advance p d).p[p] : Int) = (l.p[p] + d) % 4096 := by
  rw [advance_same, if_pos hlen]
  exact Int.toNat_of_nonneg (Int.emod_nonneg _ (by decide))

/-- An advance by no more than the range's length needs one turn at most. -/
theorem circled_mem {base len r : Nat} {d : Int} (hlo : base ≤ r) (hhi : r < base + len) (hd : -(len : Int) ≤ d)
    (hd' : d ≤ len) : (base : Int) ≤ circled base len (r + d) ∧ circled base len (r + d) < base + len ∧
      ∃ k : Int, circled base len (r + d) = r + d + k * len := by
  rw [circled]
  split
  · exact ⟨by omega, by omega, -1, by ring⟩
  · split
    · exact ⟨by omega, by omega, 1, by ring⟩
    · exact ⟨by omega, by omega, 0, by ring⟩

theorem advance_circular (hlo : l.base[p] ≤ l.p[p]) (hhi : l.p[p] < l.base[p] + l.len[p])
    (hfits : l.base[p] + l.len[p] ≤ 4096) (hd : -(l.len[p] : Int) ≤ d) (hd' : d ≤ l.len[p]) :
    ((l.advance p d).p[p] : Int) = circled l.base[p] l.len[p] (l.p[p] + d) := by
  obtain ⟨hge, hlt, -⟩ := circled_mem hlo hhi hd hd'
  rw [advance_same, if_neg (by omega), Int.emod_eq_of_lt (by omega) (by omega)]
  exact Int.toNat_of_nonneg (by omega)

end Pointer

/-! ### Words of data memory -/

theorem word_mod (l : Lane) (a : Nat) : l.word (a % 4096) = l.word a := by simp [Lane.word]

theorem setWord_mod (l : Lane) (a : Nat) (x : Half) : l.setWord (a % 4096) x = l.setWord a x := by simp [Lane.setWord]

theorem word_setWord {l : Lane} (a b : Nat) (x : Half) (hl : cellsWf (fun _ => (0 : Half)) l.dm = true) :
    (l.setWord a x).word b = if a % 4096 = b % 4096 then x else l.word b := by
  split
  case isTrue hab => rw [Lane.word, Lane.setWord, ← hab]; exact cellGet_cellSet_same _ _ hl
  case isFalse hab => exact cellGet_cellSet_other _ hab

/-! ### Loads and stores -/

/-- A corrected error of data memory is counted (R379). -/
def dmCounted (n : Nat) (up : Upset) (s : State) : State := if up = .single then s.countUp LN_ERR_CEDM n else s

theorem laneDm_reads {n : Nat} {up : Upset} (hup : up ≠ .double) (s : State) (f : State → LaneAct) :
    laneDm n up s f = f (dmCounted n up s) := if_neg hup

theorem laneDm_double (n : Nat) (s : State) (f : State → LaneAct) : laneDm n .double s f = .fault 0x03 s := if_pos rfl

section Issue
variable {i : LIssue} {s u : State} (h : s.LaneExecutes i u)
include h

theorem execLaneLd_offset {d : Fin 32} {p : Fin 4} {off : BitVec 12} {up : Upset} (hup : up ≠ .double) :
    execLaneLd i d p false off up s = .next (laneOn i.lane.val ((dmCounted i.lane.val up u).mapLane i.lane.val
      (fun l => l.setReg d (l.word (l.p[p] + off.toNat))))) := by
  rw [execLaneLd]
  refine laneIssue_next h rfl ((laneDm_reads hup ..).trans ?_)
  simp only [Lane.at_, Bool.false_eq_true, if_false, word_mod]

theorem execLaneLd_increment {d : Fin 32} {p : Fin 4} {up : Upset} (hup : up ≠ .double) :
    execLaneLd i d p true 0 up s = .next (laneOn i.lane.val ((dmCounted i.lane.val up u).mapLane i.lane.val
      (fun l => (l.setReg d (l.word l.p[p])).advance p 1))) := by
  rw [execLaneLd]
  exact laneIssue_next h rfl (laneDm_reads hup ..)

theorem execLaneSt_offset {a : Fin 32} {p : Fin 4} {off : BitVec 12} : execLaneSt i a p false off s =
    .next (laneOn i.lane.val (u.mapLane i.lane.val (fun l => l.setWord (l.p[p] + off.toNat) (l.reg a)))) := by
  refine laneLocal_next (l := (u.lane i.lane.val).setWord _ _) (sat := false) h rfl ?_
  simp only [Lane.at_, Bool.false_eq_true, if_false, setWord_mod]

end Issue

/-! ### Starting a transfer -/

/-- Window w's transfer of block `blk` runs, for the block of data memory at `a`; `data`: what an FST stores. -/
def transferStarted (n : Nat) (w : Fin 4) (blk : BitVec 16) (store : Bool) (a data : Nat) (s : State) : State :=
  let x : Transfer := ⟨store, s.get LN_FWBASE_BASE n w.val * 64 + blk.toNat * 64, a, data, s.laneOwner n⟩
  (s.put LN_FWSTAT_BUSY 1 n w.val).mapLane n (fun l => { l with xfer := l.xfer.set w (some x) })

section Window
variable {n : Nat} {w p : Fin 4} {blk : BitVec 16} {store : Bool} {up : Upset} {s : State}

theorem startTransfer_closed
    (hclosed : ¬ (s.flag LN_FWSTAT_BUSY n w.val = false ∧ s.flag LN_FWBASE_EN n w.val = true)) :
    startTransfer n w p blk store up s = .fault 0x06 s :=
  if_pos (by simpa [imp_iff_not_or] using hclosed)

variable (hopen : s.flag LN_FWSTAT_BUSY n w.val = false ∧ s.flag LN_FWBASE_EN n w.val = true)
include hopen

theorem window_not_closed : ¬ (s.flag LN_FWSTAT_BUSY n w.val || !s.flag LN_FWBASE_EN n w.val) = true := by simp [hopen]

theorem startTransfer_misaligned (halign : (s.lane n).p[p] % 32 ≠ 0) :
    startTransfer n w p blk store up s = .fault 0x07 s :=
  (if_neg (window_not_closed hopen)).trans (if_pos halign)

variable (halign : (s.lane n).p[p] % 32 = 0)
include halign

theorem startTransfer_outside (hout : ¬ blk.toNat ≤ s.get LN_FWSIZE_NBLK n w.val) :
    startTransfer n w p blk store up s = .fault 0x0A s :=
  (if_neg (window_not_closed hopen)).trans ((if_neg (not_not.2 halign)).trans (if_pos (not_le.1 hout)))

theorem startTransfer_starts (hinside : blk.toNat ≤ s.get LN_FWSIZE_NBLK n w.val) :
    startTransfer n w p blk store up s = laneDm n up s (fun t => .next (transferStarted n w blk store (s.lane n).p[p]
      (if store then (s.lane n).block (s.lane n).p[p] else 0) t)) :=
  (if_neg (window_not_closed hopen)).trans ((if_neg (not_not.2 halign)).trans (if_neg (not_lt.2 hinside)))

end Window

/-! ### Its end -/

section Complete
variable {n : LaneId} {w : Fin 4} {r : Answer} {up : Upset} {s : State} {x : Transfer}

/-- A transfer whose request reaches its target: the lane's router is up, and the seat table and the gate let it pass. -/
structure TransferServed (n : LaneId) (w : Fin 4) (x : Transfer) (s : State) : Prop where
  runs : (s.lane n.val).xfer[w] = some x
  lane : s.targetDown (0x60 + n.val) = false
  group : s.targetDown (0x58 + n.val / 16) = false
  seat : ∃ l, checkSeat x.seat x.pa (if x.store then .write else .read) s = .ok l
  gate : s.memGate x.seat x.pa = .ok

theorem transfer_not_refused (hr : r ≠ .error) (hmem : isDevice x.pa = false) :
    ¬ (decide (r = .error) || isDevice x.pa) = true := by
  simp [hr, hmem]

variable (h : TransferServed n w x s)
include h

theorem execLaneTransferComplete_served : execLaneTransferComplete n w r up s =
    if (decide (r = .error) || isDevice x.pa) = true then .next (transferEnds n.val w true false s)
    else if (x.store && s.fenced x.pa 64) = true then .next (transferEnds n.val w true false (fenceViolation x.seat s))
    else if x.store = true then
      .next (transferEnds n.val w false false ((breakReservations none (x.pa / 64) s).writeMem x.pa 64 x.data))
    else
      let t := memUpset x.pa false up s
      if t.poisoned x.pa 64 = true then .next (transferEnds n.val w true true t)
      else .next (transferEnds n.val w false false (t.mapLane n.val (fun l => l.setBlock x.at_ (t.readMem x.pa 64)))) := by
  obtain ⟨hruns, hlane, hgroup, ⟨leaf, hseat⟩, hgate⟩ := h
  have hup : ¬ (s.targetDown (0x60 + n.val) || s.targetDown (0x58 + groupOf n.val)) = true := by
    simp [groupOf, hlane, hgroup]
  simp only [execLaneTransferComplete, hruns, if_neg hup, hseat, hgate]

theorem execLaneTransferComplete_refused (hr : r = .error ∨ isDevice x.pa = true) :
    execLaneTransferComplete n w r up s = .next (transferEnds n.val w true false s) :=
  (execLaneTransferComplete_served h).trans (if_pos (by simpa using hr))

variable (hr : r ≠ .error) (hmem : isDevice x.pa = false)
include hr hmem

theorem execLaneTransferComplete_stores (hstore : x.store = true) (hfence : s.fenced x.pa 64 = false) :
    execLaneTransferComplete n w r up s =
      .next (transferEnds n.val w false false ((breakReservations none (x.pa / 64) s).writeMem x.pa 64 x.data)) := by
  rw [execLaneTransferComplete_served h, if_neg (transfer_not_refused hr hmem), if_neg (by simp [hfence]), if_pos hstore]

theorem execLaneTransferComplete_reads (hload : x.store = false) : execLaneTransferComplete n w r up s =
    let t := memUpset x.pa false up s
    if t.poisoned x.pa 64 = true then .next (transferEnds n.val w true true t)
    else .next (transferEnds n.val w false false (t.mapLane n.val (fun l => l.setBlock x.at_ (t.readMem x.pa 64)))) := by
  rw [execLaneTransferComplete_served h, if_neg (transfer_not_refused hr hmem), if_neg (by simp [hload]),
    if_neg (by simp [hload])]

end Complete

/-- Settles O28: the pointer by its turn around its range, each instruction by its rule, the transfer by its start and its
end. -/
theorem laneMemoryAndTransfers : Obligations.LaneMemoryAndTransfers := by
  unfold Obligations.LaneMemoryAndTransfers
  refine ⟨fun l p d => ⟨fun q => advance_other l p d, advance_linear l p d, ?circular⟩,
    fun l a b x => word_setWord a b x, fun i d p w off imm blk up s u h => ?instructions,
    fun n w r up s x hruns hlane hgroup hseat hgate => ?ends⟩
  case circular =>
    intro hlo hhi hfits hd hd' r
    have hr : (r : Int) = circled l.base[p] l.len[p] (l.p[p] + d) := advance_circular l p d hlo hhi hfits hd hd'
    obtain ⟨hge, hlt, k, hk⟩ := circled_mem hlo hhi hd hd'
    exact ⟨by omega, by omega, k, hr.trans hk⟩
  case instructions =>
    intro n v at_ far on open_ inside start
    refine ⟨fun hup => ⟨execLaneLd_offset h hup, execLaneLd_increment h hup⟩, execLaneSt_offset h,
      (laneLocal_next h rfl rfl : execLaneSt i d p true 0 s = _), (laneLocal_next h rfl rfl : execPsetBase i p imm s = _),
      (laneLocal_next h rfl rfl : execPsetLength i p imm s = _), (laneLocal_next h rfl rfl : execPsetAdvance i p imm s = _),
      fun hopen halign hinside => ⟨?load, fun hup => ?store, ?double⟩, fun c hc => ?faults⟩
    case load =>
      exact (laneIssue_next h rfl (startTransfer_starts hopen halign hinside) : execFld i w p blk s = _)
    case store =>
      exact (laneIssue_next h rfl ((startTransfer_starts hopen halign hinside).trans (laneDm_reads hup ..)) :
        execFst i w p blk up s = _)
    case double =>
      exact (laneIssue_fault h rfl ((startTransfer_starts hopen halign hinside).trans (laneDm_double ..)) :
        execFst i w p blk .double s = _)
    case faults =>
      have hfault {code : Nat} (hf : ∀ store up, startTransfer n w p blk store up u = .fault code u) :
          exec c s = .next (laneFault n code u) := by
        rcases hc with rfl | rfl
        · exact (laneIssue_fault h rfl (hf ..) : execFld i w p blk s = _)
        · exact (laneIssue_fault h rfl (hf ..) : execFst i w p blk up s = _)
      exact ⟨fun hclosed => hfault fun _ _ => startTransfer_closed hclosed,
        fun hopen halign => hfault fun _ _ => startTransfer_misaligned hopen halign,
        fun hopen halign hout => hfault fun _ _ => startTransfer_outside hopen halign hout⟩
  case ends =>
    intro t
    have hserved : TransferServed n w x s := ⟨hruns, hlane, hgroup, hseat, hgate⟩
    refine ⟨execLaneTransferComplete_refused hserved, fun hr hmem => ⟨execLaneTransferComplete_stores hserved hr hmem,
      fun hload hclean => ?_, fun hload hpoison => ?_⟩⟩
    · exact (execLaneTransferComplete_reads hserved hr hmem hload).trans (if_neg (by simp [hclean, t]))
    · exact (execLaneTransferComplete_reads hserved hr hmem hload).trans (if_pos hpoison)

end Sys2Proof.Proofs
end

section
/-!
PROOFS. The control flow of a lane (R358, R359, R371, R375, R376): loops, branches, calls, waits and halts.
-/

namespace Sys2Proof.Proofs

open Sys2Proof.Machine Sys2Proof.Laws

/-! ### Updates of one lane -/

theorem mapLane_congr {s : State} {n : Nat} {f g : Lane → Lane} (h : f (s.lane n) = g (s.lane n)) :
    s.mapLane n f = s.mapLane n g := by rw [State.mapLane, State.mapLane, h]

theorem mapLane_mapLane {s : State} {n : Nat} (hn : n < 64) (f g : Lane → Lane) :
    (s.mapLane n f).mapLane n g = s.mapLane n (fun l => g (f l)) := by
  rw [State.mapLane, lane_mapLane _ _ _ _ hn, if_pos rfl, State.mapLane, State.mapLane]
  simp [Vector.set!]

theorem lane_put (s : State) (f : Fld) (v i j n : Nat) : (s.put f v i j).lane n = s.lane n := by
  rw [State.lane, put_lanes, State.lane]

/-! ### Where a lane goes on -/

section Sequence
variable {l : Lane} {pc : Nat} {lp : LaneLoop} (h : l.loop = some lp)
include h

theorem laneSucc_within (hpc : pc ≠ lp.last) : laneSucc l pc = ((pc + 1) % 4096, l.loop) := by
  simp only [laneSucc, h, if_neg hpc]

theorem laneSucc_last (hpc : pc = lp.last) : laneSucc l pc =
    if 1 < lp.left then (lp.first, some ⟨lp.first, lp.last, lp.left - 1⟩) else ((pc + 1) % 4096, none) := by
  simp only [laneSucc, h, if_pos hpc]

end Sequence

theorem laneSucc_plain {l : Lane} (h : l.loop = none) (pc : Nat) : laneSucc l pc = ((pc + 1) % 4096, none) := by
  simp only [laneSucc, h]

/-- Lane n at `t` with its loop, return stack and latch, and no STEP left to do. -/
def laneAt (n t : Nat) (lp : Option LaneLoop) (ret : List Nat) (latched : Bool) (s : State) : State :=
  (s.put LN_PC_PC t n).mapLane n (fun l => { l with loop := lp, ret := ret, latched := latched, stepping := false })

theorem mapLane_put_eq_laneAt {s : State} {n t : Nat} {f : Lane → Lane} {lp : Option LaneLoop} {ret : List Nat}
    {latched : Bool}
    (hf : f (s.lane n) = { s.lane n with loop := lp, ret := ret, latched := latched, stepping := false }) :
    (s.put LN_PC_PC t n).mapLane n f = laneAt n t lp ret latched s :=
  mapLane_congr (by rw [lane_put, hf])

/-- The loop that stays active behind the instruction at LN.PC, unless a taken B to `t` leaves its body. -/
def loopKept (n t : Nat) (cancels : Bool) (s : State) : Option LaneLoop :=
  (laneSucc (s.lane n) (s.get LN_PC_PC n)).2.filter
    (fun lp => !cancels || (decide (lp.first ≤ t) && decide (t ≤ lp.last)))

theorem loopKept_false (n t : Nat) (s : State) :
    loopKept n t false s = (laneSucc (s.lane n) (s.get LN_PC_PC n)).2 := by
  rw [loopKept]
  cases (laneSucc (s.lane n) (s.get LN_PC_PC n)).2 <;> rfl

theorem laneGoto_eq (n t : Nat) (cancels : Bool) (s : State) :
    laneGoto n t cancels s = (s.put LN_PC_PC t n).mapLane n (fun l => { l with loop := loopKept n t cancels s }) := by
  rw [laneGoto, loopKept]
  cases (laneSucc (s.lane n) (s.get LN_PC_PC n)).2 with
  | none => rfl
  | some lp =>
    cases cancels with
    | false => rfl
    | true => cases hstays : decide (lp.first ≤ t) && decide (t ≤ lp.last) <;> simp [Option.filter, hstays]

/-! ### Branches, calls and loops -/

/-- How many times LOOP runs its body: the field, or the five low bits of the register that it names (log 36). -/
def loopCount (m : Bool) (cnt : BitVec 12) (l : Lane) : Nat :=
  if m then (l.reg (Fin.ofNat 32 cnt.toNat)).toNat % 32 else cnt.toNat

/-- A form of LOOP that is not reserved: its body lies behind it, and its count names a register or is one. -/
def loopLegal (m : Bool) (last cnt : BitVec 12) (pc : Nat) : Prop := pc < last.toNat ∧ (m = true → cnt.toNat < 32)

theorem loopLegal_iff {m : Bool} {last cnt : BitVec 12} {pc : Nat} :
    (decide (pc < last.toNat) && (!m || decide (cnt.toNat < 32))) = true ↔ loopLegal m last cnt pc := by
  simp [loopLegal, imp_iff_not_or]

section Control
variable {i : LIssue} {s u : State} (h : s.LaneExecutes i u)
include h

theorem execLaneB_taken {cond : Fin 16} {tgt : BitVec 12} (hc : laneCond i.lane.val cond u = true) :
    execLaneB i cond tgt s = .next (laneAt i.lane.val tgt.toNat (loopKept i.lane.val tgt.toNat true u)
      (u.lane i.lane.val).ret (u.lane i.lane.val).latched u) := by
  refine (laneIssue_goto h rfl (if_pos hc)).trans (congrArg _ ?_)
  rw [laneGoto_eq, mapLane_mapLane i.lane.isLt]
  exact mapLane_put_eq_laneAt rfl

/-- CALL and RET leave an instruction of their own for the target, with another return stack. -/
theorem laneIssue_jumps {f : State → LaneAct} {t : Nat} {ret : List Nat}
    (hf : f u = .stay ((laneGoto i.lane.val t false u).mapLane i.lane.val (fun l => { l with ret := ret }))) :
    laneIssue i true f s = .next (laneAt i.lane.val t
      (laneSucc (u.lane i.lane.val) (u.get LN_PC_PC i.lane.val)).2 ret (u.lane i.lane.val).latched u) := by
  refine (laneIssue_stay h rfl hf).trans (congrArg _ ?_)
  rw [laneGoto_eq, loopKept_false, mapLane_mapLane i.lane.isLt, mapLane_mapLane i.lane.isLt]
  exact mapLane_put_eq_laneAt rfl

theorem execLaneCall_pushes {tgt : BitVec 12} (hroom : (u.lane i.lane.val).ret.length < 4) : execLaneCall i tgt s =
    let next := laneSucc (u.lane i.lane.val) (u.get LN_PC_PC i.lane.val)
    .next (laneAt i.lane.val tgt.toNat next.2 (next.1 :: (u.lane i.lane.val).ret) (u.lane i.lane.val).latched u) := by
  rw [execLaneCall]
  refine laneIssue_jumps h ((if_neg (by omega)).trans (congrArg _ (mapLane_congr ?_)))
  rw [laneGoto_eq, lane_mapLane _ _ _ _ i.lane.isLt, if_pos rfl, lane_put]

theorem execLaneCall_full {tgt : BitVec 12} (hfull : 4 ≤ (u.lane i.lane.val).ret.length) :
    execLaneCall i tgt s = .next (laneFault i.lane.val 0x04 u) := by
  rw [execLaneCall]
  exact laneIssue_fault h rfl (if_pos hfull)

theorem execLaneRet_pops {t : Nat} {rest : List Nat} (hret : (u.lane i.lane.val).ret = t :: rest) : execLaneRet i s =
    .next (laneAt i.lane.val t (laneSucc (u.lane i.lane.val) (u.get LN_PC_PC i.lane.val)).2 rest
      (u.lane i.lane.val).latched u) := by
  rw [execLaneRet]
  exact laneIssue_jumps h (by rw [hret])

theorem execLaneRet_empty (hret : (u.lane i.lane.val).ret = []) :
    execLaneRet i s = .next (laneFault i.lane.val 0x04 u) := by
  rw [execLaneRet]
  exact laneIssue_fault h rfl (by rw [hret])

section Loop
variable {m : Bool} {last cnt : BitVec 12}

theorem execLoop_illegal (hl : ¬ loopLegal m last cnt (s.get LN_PC_PC i.lane.val)) :
    execLoop i m last cnt s = .next (laneFault i.lane.val 0x01 u) := by
  rw [execLoop]
  exact laneIssue_illegal h (Bool.eq_false_iff.2 (mt loopLegal_iff.1 hl))

variable (hl : loopLegal m last cnt (s.get LN_PC_PC i.lane.val))
include hl

theorem execLoop_nested (hloop : (u.lane i.lane.val).loop ≠ none) :
    execLoop i m last cnt s = .next (laneFault i.lane.val 0x05 u) := by
  rw [execLoop]
  exact laneIssue_fault h (loopLegal_iff.2 hl) (if_pos (Option.isSome_iff_ne_none.2 hloop))

variable (hloop : (u.lane i.lane.val).loop = none)
include hloop

theorem execLoop_starts (hc : loopCount m cnt (u.lane i.lane.val) ≠ 0) : execLoop i m last cnt s =
    let pc := s.get LN_PC_PC i.lane.val
    .next (laneAt i.lane.val (pc + 1) (some ⟨pc + 1, last.toNat, loopCount m cnt (u.lane i.lane.val)⟩)
      (u.lane i.lane.val).ret (u.lane i.lane.val).latched u) := by
  rw [execLoop]
  refine (laneIssue_stay h (loopLegal_iff.2 hl) ((if_neg (by simp [hloop])).trans (if_neg hc))).trans (congrArg _ ?_)
  rw [mapLane_mapLane i.lane.isLt]
  exact mapLane_put_eq_laneAt rfl

theorem execLoop_skips (hc : loopCount m cnt (u.lane i.lane.val) = 0) : execLoop i m last cnt s =
    .next (laneAt i.lane.val ((last.toNat + 1) % 4096) none (u.lane i.lane.val).ret (u.lane i.lane.val).latched u) := by
  rw [execLoop]
  refine (laneIssue_goto h (loopLegal_iff.2 hl) ((if_neg (by simp [hloop])).trans (if_pos hc))).trans (congrArg _ ?_)
  rw [laneGoto_eq, loopKept_false, laneSucc_plain hloop, mapLane_mapLane i.lane.isLt]
  exact mapLane_put_eq_laneAt rfl

end Loop

/-! ### Waits -/

theorem execWaite_latched (hev : (u.lane i.lane.val).latched = true) :
    execWaite i s = .next (laneOn i.lane.val (u.mapLane i.lane.val (fun l => { l with latched := false }))) := by
  rw [execWaite]
  exact laneIssue_next h rfl (if_pos hev)

theorem execWaite_waits (hev : (u.lane i.lane.val).latched = false) : execWaite i s =
    .next ((if u.laneState i.lane.val = lsHalted then u else u.put LN_STAT_WAIT 1 i.lane.val).mapLane i.lane.val
      (fun l => { l with stepping := false })) := by
  rw [execWaite]
  refine laneIssue_stay h rfl ((if_neg (by simp [hev])).trans ?_)
  simp only [beq_iff_eq, apply_ite LaneAct.stay]

/-! ### Signals and halts -/

theorem execSig_signals {code : BitVec 16} : execSig i code s = .next (laneOn i.lane.val (laneSource i.lane.val
    ((u.put LN_SIGCODE_CODE code.toNat i.lane.val).put LN_STAT_SIGP 1 i.lane.val))) := by
  rw [execSig]
  exact laneIssue_next h rfl rfl

theorem execLaneHalt_halts : execLaneHalt i s = .next ((laneSource i.lane.val
    ((laneLeaves i.lane.val lsHalted (laneNext i.lane.val u)).put LN_STAT_DONE 1 i.lane.val)).mapLane i.lane.val
      (fun l => { l with stepping := false })) := by
  rw [execLaneHalt]
  exact laneIssue_stay h rfl rfl

end Control

/-- Settles O31: the sequential successor by the loop's state, and each instruction by where its lane goes. -/
theorem laneControlFlow : Obligations.LaneControlFlow := by
  unfold Obligations.LaneControlFlow
  refine ⟨fun l pc first last left hl => ⟨laneSucc_within hl, laneSucc_last hl⟩, fun l pc hl => laneSucc_plain hl pc,
    fun i cond tgt last cnt code s u h => ?_⟩
  intro n l pc next at_
  exact ⟨fun hc => (laneIssue_next h rfl (if_neg (by simp [n, hc])) : execLaneB i cond tgt s = _),
    execLaneB_taken h, execLaneCall_pushes h, execLaneCall_full h, fun t rest => execLaneRet_pops h, execLaneRet_empty h,
    fun m => ⟨execLoop_illegal h, execLoop_nested h, fun hl hloop => execLoop_starts h hl hloop,
      fun hl hloop => execLoop_skips h hl hloop⟩,
    execWaite_latched h, execWaite_waits h, execSig_signals h, execLaneHalt_halts h⟩

end Sys2Proof.Proofs
end

section
/-!
PROOFS. What stops a lane (R354, R375, R378, R379): the checks of an issue that come before any effect, and GFSTOP.
-/

namespace Sys2Proof.Proofs

open Sys2Proof.Machine Sys2Proof.Laws

/-! ### The checks of an issue -/

section Issue
variable {i : LIssue} {lg : Bool} {f : State → LaneAct} {s : State}

theorem laneIssue_idle (hidle : s.laneMay i.lane.val = false) : laneIssue i lg f s = .next s :=
  if_pos (by simp [hidle])

variable (hmay : s.laneMay i.lane.val = true)
include hmay

theorem laneIssue_uncorrectable (hpm : i.pm = .double) :
    laneIssue i lg f s = .next (laneFault i.lane.val 0x02 (laneCycle i s)) := by
  simp [laneIssue, hmay, hpm]

theorem laneIssue_junk (hpm : i.pm ≠ .double) (hjunk : i.junk = true) : laneIssue i lg f s =
    .next (laneFault i.lane.val 0x01 (if i.pm = .single then (laneCycle i s).countUp LN_ERR_CEPM i.lane.val
      else laneCycle i s)) := by
  simp [laneIssue, hmay, hpm, hjunk]

end Issue

/-! ### GFSTOP -/

theorem groupFaultStop_off {n : Nat} {s : State} (hoff : s.flag LG_CTL_GFSTOP (n / 16) = false) :
    groupFaultStop n s = s := if_neg (by simp [groupOf, hoff])

theorem groupFaultStop_on {n : Nat} {s : State} (hon : s.flag LG_CTL_GFSTOP (n / 16) = true) : groupFaultStop n s =
    s.each ((List.range 16).map (· + 16 * (n / 16))) (fun m t =>
      if m ∉ s.lanePair n ∧ t.laneState m = lsRunning then laneStops m 0x0C t else t) := by
  rw [groupFaultStop, groupOf, if_pos hon]
  simp

theorem execLanePairMismatch_stops {k : Fin 32} {s : State} (hlocked : s.lanePairLocked k.val = true)
    (hruns : s.laneState (2 * k.val) = lsRunning) : execLanePairMismatch k s =
    .next (reportFault 0x02 (s.laneOwner (2 * k.val)) k.val 0 (lanePairStops k.val s)) :=
  if_pos (by simp [hlocked, hruns])

/-- Settles O32: every lane instruction is one issue, whose checks come first. -/
theorem laneFaults : Obligations.LaneFaults := by
  unfold Obligations.LaneFaults
  refine ⟨fun c i s hc => ?checks, fun _ _ _ => rfl, fun n s => ⟨groupFaultStop_off, groupFaultStop_on⟩,
    fun k s => execLanePairMismatch_stops⟩
  case checks =>
    obtain ⟨lg, f, hrun⟩ := laneIssue_runs c i s hc
    rw [hrun]
    refine ⟨laneIssue_idle, fun hmay => ⟨laneIssue_uncorrectable hmay, fun hpm hjunk => ?_, fun hpm hjunk => ?_⟩⟩
    · rw [laneIssue_junk hmay (by simp [hpm]) hjunk, if_neg (by simp [hpm])]
    · rw [laneIssue_junk hmay (by simp [hpm]) hjunk, if_pos hpm]

end Sys2Proof.Proofs
end

section
/-!
PROOFS. Supervision of a lane by its owner (R375 to R377, R379 to R382): writes to the LN frame, the start request and its
grant, and the end of a CRC pass.
-/

namespace Sys2Proof.Proofs

open Sys2Proof.Machine Sys2Proof.Laws

/-! ### The LN frame -/

section Frame
variable {by_ : Seat} {n : LaneId} {s : State}

theorem lnWrite_foreign (hby : by_ ≠ 0) (howner : by_.val ≠ s.laneOwner n.val) (f : State → State) :
    lnWrite by_.val n.val f s = .next (s.answer .error) :=
  if_neg (by simp [framePasses_other by_ _ hby howner])

variable (htrail : s.laneTrails n.val = false) (hby : by_ = 0 ∨ by_.val = s.laneOwner n.val)
include htrail hby

theorem lnWrite_own (f : State → State) : lnWrite by_.val n.val f s = .next ((f s).answer (.ok 0)) := by
  rw [lnWrite, if_pos (framePasses_own by_ _ hby), if_neg (by simp [htrail])]

/-- A write of the owner's, by what it does. -/
theorem lnWrite_does {f : State → State} {t : State} (hf : f s = t) :
    lnWrite by_.val n.val f s = .next (t.answer (.ok 0)) := by rw [lnWrite_own htrail hby, hf]

end Frame

section Effects
variable {n : Nat} {s : State}

theorem laneStopped_iff : s.laneStopped n = true ↔ s.laneState n = lsHalted ∨ s.laneState n = lsFault := by
  simp [State.laneStopped]

theorem requestStart_unloaded {g : Nat} (ls : List Nat) (hload : (s.groups[g]!).load = none) :
    requestStart g ls s = startLanes ls s := by simp only [requestStart, hload]

/-- R381: while a load names its lane, a start waits for the load's end. -/
theorem requestStart_loading {g : Nat} {l : GroupLoad} (hload : (s.groups[g]!).load = some l) (hn : n ∈ l.lanes) :
    requestStart g [n] s = let grp := s.groups[g]!
      { s with groups := s.groups.set! g { grp with held := grp.held ++ [[n]] } } := by
  simp [requestStart, hload, hn, startLanes]

theorem laneHalt_eq :
    laneHalt n s = if s.laneState n = lsRunning ∨ s.laneState n = lsStarting then laneLeaves n lsHalted s else s := by
  simp [laneHalt]

theorem stepLane_eq :
    stepLane n s = if s.laneState n = lsHalted then s.mapLane n (fun l => { l with stepping := true }) else s := by
  simp [stepLane]

theorem clearLaneFault_eq : clearLaneFault n s = if s.laneState n = lsFault then
    loadEntry n (((s.put LN_STAT_STATE lsHalted n).put LN_STAT_FCODE 0 n).put LN_STAT_FPC 0 n) else s := by
  simp [clearLaneFault]

theorem entryWrite_eq (v : Nat) : entryWrite n v s =
    let e := s.put LN_ENTRY_ADDR (v % 4096) n
    if e.laneStopped n = true then loadEntry n e else e := by
  rw [entryWrite, slice_low]
  rfl

theorem programWrite_stopped {a : BitVec 12} {v : Word32} (h : s.laneState n = lsHalted ∨ s.laneState n = lsFault) :
    programWrite n a.toNat v.toNat s = s.setPmWord n a.toNat v := by
  rw [programWrite, if_pos (laneStopped_iff.2 h), Nat.mod_eq_of_lt a.isLt, BitVec.ofNat_toNat, BitVec.setWidth_eq]

theorem programWrite_running {a v : Nat} (h : ¬ (s.laneState n = lsHalted ∨ s.laneState n = lsFault)) :
    programWrite n a v s = s.put LN_STAT_PMWERR 1 n := if_neg (mt laneStopped_iff.1 h)

theorem crclenWrite_eq (v : Nat) : crclenWrite n v s =
    let k := s.put LN_CRCLEN_N (v % 8192) n
    if v % 8192 = 0 then k else k.put LN_CRCLEN_BUSY 1 n := by
  rw [crclenWrite, slice_low]
  rfl

/-! ### Starts -/

theorem requestTokens_share {who : List TokenHolder} {seat : Nat} (hseat : seat ≠ 0)
    (hfits : (who.map tokenCost).sum + s.shareHeld seat ≤ s.share seat) : requestTokens who seat s =
    (true, { s with tokenQueue := s.tokenQueue ++ [⟨who, seat, (who.map tokenCost).sum, true⟩] }) :=
  if_pos (by simp [hseat, hfits])

/-- R377: a HALTED lane whose seat's share has room asks Toll Gate, and starts. -/
theorem startLanes_share (hstate : s.laneState n = lsHalted) (htrail : s.laneTrails n = false)
    (hseat : s.laneOwner n ≠ 0) (hfits : ((s.lanePair n).map (fun m => tokenCost (.lane m))).sum +
      s.shareHeld (s.laneOwner n) ≤ s.share (s.laneOwner n)) : startLanes [n] s =
    State.put { s with tokenQueue := s.tokenQueue ++ [⟨(s.lanePair n).map .lane, s.laneOwner n,
      ((s.lanePair n).map (fun m => tokenCost (.lane m))).sum, true⟩] } LN_STAT_STATE lsStarting n := by
  have hasks : [n].filter (fun n => s.laneState n == lsHalted && !s.laneTrails n) = [n] := by simp [hstate, htrail]
  have hcost : (((s.lanePair n).map TokenHolder.lane).map tokenCost) = (s.lanePair n).map (fun m => tokenCost (.lane m)) :=
    List.map_map
  have hgranted := requestTokens_share (s := s) (who := (s.lanePair n).map .lane) hseat (by rwa [hcost])
  rw [hcost] at hgranted
  simp only [startLanes, hasks, List.flatMap_singleton, hgranted, if_true]
  rfl

theorem execLaneStartGrant_granted {n : LaneId} {q : TokenWait} (hstate : s.laneState n.val = lsStarting)
    (hq : s.tokenQueue.find? (fun q => q.who.contains (.lane n.val)) = some q) (hgrant : s.grantable q = true) :
    execLaneStartGrant n s = let t := grantRequest q s
    .next (t.each (((List.range 16).map (· + 16 * (n.val / 16))).filter (fun k =>
      t.laneState k == lsStarting && t.holdsTokens (.lane k))) (fun m u => u.put LN_STAT_STATE lsRunning m)) := by
  have hstarts : ¬ (s.laneState n.val != lsStarting) = true := by simp [hstate]
  simp only [execLaneStartGrant, if_neg hstarts, hq, if_pos hgrant]
  rfl

/-! ### CRC passes -/

theorem satAdd_eq_min (v d m : Nat) : satAdd v d m = min m (v + d) := by
  rw [satAdd]
  split <;> omega

theorem execLnCrcDone_done {n : LaneId} {corrected : BitVec 8} (hbusy : s.flag LN_CRCLEN_BUSY n.val = true) :
    execLnCrcDone n corrected s =
    .next (crcPass n.val (s.put LN_ERR_CEPM (min 255 (s.get LN_ERR_CEPM n.val + corrected.toNat)) n.val)) := by
  rw [execLnCrcDone, if_pos hbusy, satAdd_eq_min]

end Effects

/-- Settles O33: each write to the LN frame by what it does for the lane's owner, and the commands that end it. -/
theorem laneSupervision : Obligations.LaneSupervision := by
  unfold Obligations.LaneSupervision
  refine ⟨fun by_ n a v s htrail hby => ?owner, fun by_ n v s hby howner => ?foreign,
    fun n s => fun hstate htrail => startLanes_share hstate htrail, fun n s q => execLaneStartGrant_granted,
    fun n corrected s => execLnCrcDone_done, fun n s => rfl⟩
  case owner =>
    intro st ok fresh stopped e k
    have hwrite {f : State → State} {t : State} (hf : f s = t) : lnWrite by_.val n.val f s = ok t :=
      lnWrite_does htrail hby hf
    refine ⟨fun hload => ?_, fun l hload hn => ?_, ?_, ?_, ?_, ?_, fun hzero => ⟨fun hstop => ?_, fun hrun => ?_⟩,
      fun hv => ?_, fun hv => ?_⟩
    · exact hwrite (f := requestStart (groupOf n.val) [n.val]) (requestStart_unloaded [n.val] hload)
    · exact hwrite (f := requestStart (groupOf n.val) [n.val]) (requestStart_loading hload hn)
    · exact hwrite (f := laneHalt n.val) laneHalt_eq
    · exact hwrite (f := stepLane n.val) stepLane_eq
    · exact hwrite (f := clearLaneFault n.val) clearLaneFault_eq
    · exact hwrite (f := entryWrite n.val v.toNat) (entryWrite_eq v.toNat)
    · exact (if_neg (by simp [hzero])).trans (hwrite (f := programWrite n.val a.toNat v.toNat) (programWrite_stopped hstop))
    · exact (if_neg (by simp [hzero])).trans (hwrite (f := programWrite n.val a.toNat v.toNat) (programWrite_running hrun))
    · exact hwrite (f := crclenWrite n.val v.toNat) ((crclenWrite_eq v.toNat).trans (if_neg hv))
    · exact hwrite (f := crclenWrite n.val v.toNat) ((crclenWrite_eq v.toNat).trans (if_pos hv))
  case foreign =>
    intro c hc
    have hforeign := lnWrite_foreign (s := s) (n := n) hby howner
    simp only [List.mem_cons, List.not_mem_nil, or_false] at hc
    rcases hc with rfl | rfl | rfl | rfl | rfl | rfl
    all_goals exact hforeign _

end Sys2Proof.Proofs
end

section
/-!
PROOFS. The converter port of a lane, its exchange words and its mailboxes (R360 to R365), and what the deeds of another
lane in the same lane cycle change about them.
-/

namespace Sys2Proof.Proofs

open Sys2Proof.Machine Sys2Proof.Laws

/-- A one-bit field as its flag says. -/
theorem bit_flag {f : Fld} (hf : f.w = 1) (s : State) (i j : Nat) : bit (s.flag f i j) = s.get f i j := by
  have hlt : s.get f i j < 2 := by
    rw [State.get, slice, hf]
    exact Nat.mod_lt _ (by decide)
  rw [bit, State.flag]
  split
  case isTrue hone => exact (beq_iff_eq.1 hone).symm
  case isFalse hzero =>
    rw [beq_iff_eq] at hzero
    omega

theorem pair_mapPair {s : State} {p : Nat} (hp : p < 24) (f : HrpPair → HrpPair) :
    (s.mapPair p f).pair p = f (s.pair p) := by
  rw [State.pair, State.mapPair, getElem!_vector_set!, if_pos ⟨rfl, hp⟩]

/-- In a list in ascending order, what a search finds is the least member that passes. -/
theorem find?_eq_some_of_least {P : Nat → Bool} {p : Nat} (hP : P p = true) :
    ∀ {l : List Nat}, l.Pairwise (· < ·) → p ∈ l → (∀ q ∈ l, q < p → P q = false) → l.find? P = some p
  | a :: l, hl, hp, hleast => by
    obtain ⟨ha, hl⟩ := List.pairwise_cons.1 hl
    rcases List.mem_cons.1 hp with rfl | hp
    · exact List.find?_cons_of_pos hP
    · have hskip : ¬ P a = true := by simp [hleast a List.mem_cons_self (ha p hp)]
      rw [List.find?_cons_of_neg hskip]
      exact find?_eq_some_of_least hP hl hp fun q hq => hleast q (List.mem_cons_of_mem a hq)

/-! ### Channels -/

theorem sdiWord_eq (n ch : Nat) (t : State) : sdiWord n ch t = BitVec.ofNat 16 (bit ((t.lane n).unread.getLsbD ch) +
    2 * t.get SDI_STAT_TRIP ch + 4 * bit (t.sdiSat.getLsbD ch) + 8 * t.get SDI_STAT_BSERR ch) := by
  rw [sdiWord, bit_flag rfl, bit_flag rfl]

/-- How an instruction that names channel ch ends (R360, R363): there is no such channel, it is another seat's, or it is
the lane owner's, and the lane goes on from `t`. -/
structure EndsByChannel (i : LIssue) (ch : Fin 64) (u t : State) (r : Result) : Prop where
  none : 48 ≤ ch.val → r = .next (laneFault i.lane.val 0x01 u)
  foreign : ch.val < 48 → u.sdiOwner ch.val ≠ u.laneOwner i.lane.val → r =
    .next (laneFault i.lane.val 0x08 (seatViolation (u.laneOwner i.lane.val) false (SDI_CTL.addr ch.val 0) u))
  own : ch.val < 48 → u.sdiOwner ch.val = u.laneOwner i.lane.val → r = .next (laneOn i.lane.val t)

section Issue
variable {i : LIssue} {s u : State} (h : s.LaneExecutes i u)
include h

theorem laneIssue_refused {lg w : Bool} {page : Nat} {f : State → LaneAct} (hl : lg = true)
    (hf : f u = portRefused i.lane.val w page u) : laneIssue i lg f s =
      .next (laneFault i.lane.val 0x08 (seatViolation (u.laneOwner i.lane.val) w page u)) := laneIssue_fault h hl hf

theorem laneIssue_channel {ch : Fin 64} {f : State → LaneAct} {t : State} (hf : f u =
    if !u.laneHasSdi i.lane.val ch.val then portRefused i.lane.val false (SDI_CTL.addr ch.val 0) u else .next t) :
    EndsByChannel i ch u t (laneIssue i (ch.val < 48) f s) where
  none hch := laneIssue_illegal h (decide_eq_false (not_lt.2 hch))
  foreign hch howner :=
    laneIssue_refused h (decide_eq_true hch) (hf.trans (if_pos (by simp [State.laneHasSdi, howner])))
  own hch howner := laneIssue_next h (decide_eq_true hch) (hf.trans (if_neg (by simp [State.laneHasSdi, howner])))

theorem execSdird_executes (d : Fin 32) (ch : Fin 64) :
    EndsByChannel i ch u (u.mapLane i.lane.val (fun l =>
      let v := BitVec.ofNat 16 (u.get SDI_RES_VALUE ch.val)
      { l.setReg d v with unread := l.unread &&& ~~~(1#48 <<< ch.val) })) (execSdird i d ch s) := by
  rw [execSdird]
  exact laneIssue_channel h rfl

theorem execSdist_executes (d : Fin 32) (ch : Fin 64) :
    EndsByChannel i ch u (u.mapLane i.lane.val (fun l => l.setReg d (BitVec.ofNat 16
      (bit ((u.lane i.lane.val).unread.getLsbD ch.val) + 2 * u.get SDI_STAT_TRIP ch.val +
        4 * bit (u.sdiSat.getLsbD ch.val) + 8 * u.get SDI_STAT_BSERR ch.val)))) (execSdist i d ch s) := by
  rw [execSdist, ← sdiWord_eq]
  exact laneIssue_channel h rfl

/-! ### Mailboxes -/

theorem execMbrd_reads {d : Fin 32} {x : Fin 4} : execMbrd i d x s = .next (laneOn i.lane.val (u.mapLane i.lane.val
    (fun l => l.setReg d (BitVec.ofNat 16 (u.get LN_MBIN_VALUE i.lane.val x.val))))) := by
  rw [execMbrd]
  exact laneIssue_next h rfl rfl

theorem execMbwr_writes {a : Fin 32} {x : Fin 4} : execMbwr i a x s =
    .next (laneOn i.lane.val (u.put LN_MBOUT_VALUE ((u.lane i.lane.val).reg a).toNat i.lane.val x.val)) := by
  rw [execMbwr]
  exact laneIssue_next h rfl rfl

/-! ### Staging -/

section Pair
variable {pr : Fin 32} {fld : Fin 8} {a b : Fin 32}

theorem execHrpw_none (hnone : 24 ≤ pr.val ∨ 4 ≤ fld.val) :
    execHrpw i pr fld a b s = .next (laneFault i.lane.val 0x01 u) := by
  rw [execHrpw]
  refine laneIssue_illegal h ?_
  simp only [Bool.and_eq_false_iff, decide_eq_false_iff_not, not_lt, hnone]

/-- What HRPW stages: the two registers as one value, for lane n. -/
def hrpStaged (n : Nat) (a b : Fin 32) (s : State) : Nat × Nat :=
  (((s.lane n).reg a).toNat * 2 ^ 16 + ((s.lane n).reg b).toNat, n)

/-- The value and the lane of a staged field. -/
def stagedField (pr fld : Nat) (s : State) : Option (Nat × Nat) :=
  ((s.pair pr).stage.find? (fun e => e.fld == fld)).map (fun e => (e.value, e.lane))

variable (hpr : pr.val < 24) (hfld : fld.val < 4)
include hpr hfld

theorem execHrpw_foreign (howner : u.hrpOwner pr.val ≠ u.laneOwner i.lane.val) : execHrpw i pr fld a b s =
    .next (laneFault i.lane.val 0x08 (seatViolation (u.laneOwner i.lane.val) true (HRP_CTL.addr pr.val 0) u)) := by
  rw [execHrpw]
  exact laneIssue_refused h (by simp [hpr, hfld]) (if_pos (by simp [State.laneHasHrp, howner]))

variable (howner : u.hrpOwner pr.val = u.laneOwner i.lane.val)
include howner

theorem execHrpw_alone (hdeeds : u.laneDeeds = []) : execHrpw i pr fld a b s = .next (laneOn i.lane.val
    { stagePut pr.val fld.val (hrpStaged i.lane.val a b u) u with
      laneDeeds := [.stage i.lane.val pr.val fld.val (stagedField pr.val fld.val u)] }) := by
  rw [execHrpw]
  refine laneIssue_next h (by simp [hpr, hfld]) ((if_neg (by simp [State.laneHasHrp, howner])).trans ?_)
  simp only [hdeeds, List.findSome?_nil, List.nil_append]
  rfl

/-- R362: of two lanes that stage one field in one lane cycle, the higher one's value stands. -/
theorem execHrpw_meets {m : Nat} {o : Option (Nat × Nat)} (hm : m ≠ i.lane.val)
    (hdeeds : u.laneDeeds = [.stage m pr.val fld.val o]) :
    let n := i.lane.val
    let t := u.put LG_STAT_HCOLL 1 (max m n / 16)
    (n < m → execHrpw i pr fld a b s = .next (laneOn n t)) ∧ (m < n → execHrpw i pr fld a b s = .next (laneOn n
      { stagePut pr.val fld.val (hrpStaged n a b u) t with
        laneDeeds := t.laneDeeds ++ [.stage n pr.val fld.val (stagedField pr.val fld.val u)] })) := by
  intro n t
  have hrun (v : State) (hv : v = if n < m then t else { stagePut pr.val fld.val (hrpStaged n a b u) t with
      laneDeeds := t.laneDeeds ++ [.stage n pr.val fld.val (stagedField pr.val fld.val u)] }) :
      execHrpw i pr fld a b s = .next (laneOn n v) := by
    rw [execHrpw]
    refine laneIssue_next h (by simp [hpr, hfld]) ((if_neg (by simp [State.laneHasHrp, howner])).trans ?_)
    simp only [hdeeds, List.findSome?_cons, hm, ne_eq, not_false_eq_true, and_self, if_true, hcoll, put_laneDeeds,
      List.any_cons, List.any_nil, beq_self_eq_true, Bool.true_and, Bool.or_false, decide_eq_true_eq]
    exact congrArg LaneAct.next hv.symm
  exact ⟨fun hlt => hrun _ (if_pos hlt).symm, fun hlt => hrun _ (if_neg (by omega)).symm⟩

end Pair

/-! ### Committing -/

section Pairs
variable {mask : BitVec 24}

/-- The pairs that HRPC names, in ascending order. -/
def maskPairs (mask : BitVec 24) : List Nat := (List.range 24).filter (fun p => mask.getLsbD p)

theorem execHrpc_own (howner : ∀ p ∈ maskPairs mask, u.hrpOwner p = u.laneOwner i.lane.val) :
    execHrpc i mask s = .next (laneOn i.lane.val (u.each (maskPairs mask) (commitPair i.lane.val))) := by
  rw [execHrpc]
  refine laneIssue_next h rfl ?_
  have hnone : (maskPairs mask).find? (fun p => !u.laneHasHrp i.lane.val p) = none := by
    simpa [State.laneHasHrp] using howner
  rw [maskPairs] at hnone
  rw [hnone]
  rfl

theorem execHrpc_foreign {p : Nat} (hp : p ∈ maskPairs mask) (howner : u.hrpOwner p ≠ u.laneOwner i.lane.val)
    (hbefore : ∀ q ∈ maskPairs mask, q < p → u.hrpOwner q = u.laneOwner i.lane.val) : execHrpc i mask s =
    .next (laneFault i.lane.val 0x08 (seatViolation (u.laneOwner i.lane.val) true (HRP_CTL.addr p 0) u)) := by
  rw [execHrpc]
  refine laneIssue_refused h rfl ?_
  have hfirst : (maskPairs mask).find? (fun p => !u.laneHasHrp i.lane.val p) = some p :=
    find?_eq_some_of_least (by simpa [State.laneHasHrp] using howner) (List.pairwise_lt_range.filter _) hp
      (by simpa [State.laneHasHrp] using hbefore)
  rw [maskPairs] at hfirst
  rw [hfirst]

end Pairs

/-! ### Exchange words -/

section Exchange
variable {d a : Fin 32} {x : Fin 64}

theorem execXrd_alone (hdeeds : u.laneDeeds = []) : execXrd i d x s = .next (laneOn i.lane.val (u.mapLane i.lane.val
    (fun l => l.setReg d (BitVec.ofNat 16 (u.get LG_XW_VALUE (i.lane.val / 16) x.val))))) := by
  rw [execXrd]
  refine laneIssue_next h rfl ?_
  simp only [hdeeds, List.findSome?_nil]
  rfl

theorem execXwr_alone (hdeeds : u.laneDeeds = []) : execXwr i a x s =
    let g := i.lane.val / 16
    let t : State := { u with laneDeeds := [.xw i.lane.val g x.val (u.get LG_XW_VALUE g x.val)] }
    .next (laneOn i.lane.val (t.put LG_XW_VALUE ((u.lane i.lane.val).reg a).toNat g x.val)) := by
  rw [execXwr]
  refine laneIssue_next h rfl ?_
  simp only [hdeeds, List.filterMap_nil, List.length_nil, if_true, List.any_nil, Bool.false_eq_true, if_false,
    List.nil_append]
  rfl

variable {m o : Nat} (hdeeds : u.laneDeeds = [.xw m (i.lane.val / 16) x.val o])
include hdeeds

/-- R364: an XRD in the lane cycle of an XWR returns the old value. -/
theorem execXrd_meets : execXrd i d x s =
    .next (laneOn i.lane.val (u.mapLane i.lane.val (fun l => l.setReg d (BitVec.ofNat 16 o)))) := by
  rw [execXrd]
  refine laneIssue_next h rfl ?_
  simp only [hdeeds, groupOf, List.findSome?_cons, and_self, if_true]

/-- R364: of two XWR in one lane cycle the higher lane's value stands, and the collision is shown. -/
theorem execXwr_meets :
    let n := i.lane.val
    let g := n / 16
    let t := u.put LG_STAT_XCOLL 1 g
    let t := { t with laneDeeds := t.laneDeeds ++ [.xw n g x.val (t.get LG_XW_VALUE g x.val)] }
    (n < m → execXwr i a x s = .next (laneOn n t)) ∧
    (m < n → execXwr i a x s = .next (laneOn n (t.put LG_XW_VALUE ((t.lane n).reg a).toNat g x.val))) := by
  intro n g t₀ t
  have hrun (v : State) (hv : v = if n < m then t else t.put LG_XW_VALUE ((t.lane n).reg a).toNat g x.val) :
      execXwr i a x s = .next (laneOn n v) := by
    rw [execXwr]
    refine laneIssue_next h rfl ?_
    simp only [hdeeds, groupOf, List.filterMap_cons, List.filterMap_nil, and_self, if_true, List.length_cons,
      List.length_nil, Nat.zero_add, Nat.one_ne_zero, if_false, List.any_cons, List.any_nil, Bool.or_false,
      decide_eq_true_eq]
    exact congrArg LaneAct.next hv.symm
  exact ⟨fun hlt => hrun _ (if_pos hlt).symm, fun hlt => hrun _ (if_neg (by omega)).symm⟩

end Exchange
end Issue

/-! ### The staged fields that a commit takes -/

section Commit
variable {n m p : Nat} {u : State}

/-- R362: two lanes that commit one pair in one lane cycle commit it once. -/
theorem commitPair_again (hdeeds : u.laneDeeds = [.commit m p]) :
    commitPair n p u = u.put LG_STAT_HCOLL 1 (max m n / 16) := by
  simp only [commitPair, hdeeds, List.findSome?_cons, if_true]
  rfl

/-- The value of a field as it is staged. -/
def stagedValue (p f : Nat) (s : State) : Option (Nat × Nat) :=
  ((s.pair p).stage.find? (fun e => e.fld == f)).map (fun e => (f, e.value))

theorem stagedBefore_alone (hdeeds : u.laneDeeds = []) (f : Nat) :
    (u.stagedBefore n p f).map (fun v => (f, v.1)) = stagedValue p f u := by
  simp only [State.stagedBefore, hdeeds, List.findSome?_nil, Option.map_map]
  rfl

/-- A field that another lane stages in the same lane cycle, where none was staged, is not committed yet. -/
theorem stagedBefore_meets {f : Nat} (hm : m ≠ n) (hdeeds : u.laneDeeds = [.stage m p f none]) (k : Nat) :
    (u.stagedBefore n p k).map (fun v => (k, v.1)) = if k = f then none else stagedValue p k u := by
  by_cases hk : k = f
  · simp [State.stagedBefore, hdeeds, hm, hk]
  · simp only [State.stagedBefore, hdeeds, List.findSome?_cons, Ne.symm hk, and_false, if_false, List.findSome?_nil,
      Option.map_map, if_neg hk]
    rfl

theorem commitPair_alone (hdeeds : u.laneDeeds = []) :
    let c := [0, 1, 2, 3].filterMap (fun f => stagedValue p f u)
    let t := u.mapPair p (fun h => { h with stage := [], flight := if c = [] then h.flight else h.flight ++ [c] })
    commitPair n p u = { t with laneDeeds := [.commit n p] } := by
  intro c t
  have hstage (l : List Staged) : l.filter (fun e => ([] : List Nat).contains e.fld) = [] :=
    List.filter_eq_nil_iff.2 fun _ _ => by simp
  simp only [commitPair, hdeeds, List.findSome?_nil, List.filterMap_nil, stagedBefore_alone hdeeds,
    List.length_eq_zero_iff, hstage, State.mapPair]
  rfl

theorem commitPair_meets {f : Nat} (hp : p < 24) (hm : m ≠ n) (hdeeds : u.laneDeeds = [.stage m p f none]) :
    let c := [0, 1, 2, 3].filterMap (fun k => if k = f then none else stagedValue p k u)
    ((commitPair n p u).pair p).stage = (u.pair p).stage.filter (fun e => e.fld == f) ∧
    ((commitPair n p u).pair p).flight = (u.pair p).flight ++ if c = [] then [] else [c] := by
  intro c
  have hfresh (l : List Staged) : l.filter (fun e => [f].contains e.fld) = l.filter (fun e => e.fld == f) :=
    List.filter_congr fun _ _ => by rw [List.contains_cons, List.contains_nil, Bool.or_false]
  have hc : [0, 1, 2, 3].filterMap (fun k => (u.stagedBefore n p k).map (fun v => (k, v.1))) = c := by
    simp only [stagedBefore_meets hm hdeeds]
    rfl
  simp only [commitPair, hc]
  simp only [hdeeds, List.findSome?_cons, List.findSome?_nil, List.filterMap_cons, List.filterMap_nil, hm, ne_eq,
    not_false_eq_true, and_self, if_true, List.length_eq_zero_iff, hfresh]
  have hpair := pair_mapPair (s := u) hp (fun h =>
    { h with stage := h.stage.filter (fun e => e.fld == f), flight := if c = [] then h.flight else h.flight ++ [c] })
  refine ⟨congrArg HrpPair.stage hpair, (congrArg HrpPair.flight hpair).trans ?_⟩
  by_cases hnone : c = [] <;> simp [hnone]

end Commit

/-- Settles O30: each instruction by whose channel, pair or word it names, and by what the lane cycle already holds. -/
theorem laneConverterPort : Obligations.LaneConverterPort := by
  unfold Obligations.LaneConverterPort
  refine ⟨fun i d a b s u h => ?instructions, fun n p u hp => ?commits⟩
  case instructions =>
    intro n g on set bad
    refine ⟨fun ch => ?channels, fun pr fld => ⟨?noPair, fun hpr hfld => ?stages⟩, fun mask => ?pairs, fun x => ?words,
      fun x => ?mailboxes⟩
    case channels =>
      have hread := execSdird_executes h d ch
      have hstatus := execSdist_executes h d ch
      exact ⟨fun hch => ⟨hread.none hch, hstatus.none hch⟩,
        fun hch howner => ⟨hread.foreign hch howner, hstatus.foreign hch howner⟩,
        fun hch howner => ⟨hread.own hch howner, hstatus.own hch howner⟩⟩
    case noPair => exact execHrpw_none h
    case stages =>
      intro v old
      exact ⟨execHrpw_foreign h hpr hfld, fun howner => ⟨execHrpw_alone h hpr hfld howner,
        fun m o => execHrpw_meets h hpr hfld howner⟩⟩
    case pairs =>
      intro ps
      exact ⟨execHrpc_own h, fun p => execHrpc_foreign h⟩
    case words =>
      intro w put
      exact ⟨fun hdeeds => ⟨execXrd_alone h hdeeds, execXwr_alone h hdeeds⟩,
        fun m o _ hdeeds => ⟨execXrd_meets h hdeeds, execXwr_meets h hdeeds⟩⟩
    case mailboxes =>
      exact ⟨execMbrd_reads h, execMbwr_writes h⟩
  case commits =>
    intro staged c
    exact ⟨commitPair_alone, fun m => commitPair_again, fun m f hm _ => commitPair_meets hp hm⟩

end Sys2Proof.Proofs
end

section
/-!
PROOFS. The sigma-delta channels (R385 to R392): the filters by their windows, a result by its rounding and its limits, trips
and bitstream errors, and the writes to a channel's page.
-/

namespace Sys2Proof.Proofs

open Sys2Proof.Machine Sys2Proof.Laws

/-! ### Filters -/

/-- The sums from each sample to the oldest, from which `movingSums` takes its differences. -/
def sumsToOldest (l : List Int) : List Int := l.foldr (fun x acc => (x + acc.headD 0) :: acc) []

theorem movingSums_eq (w : Nat) (l : List Int) : movingSums w l =
    (sumsToOldest l).zipWith (· - ·) ((sumsToOldest l).drop w ++ List.replicate w 0) := rfl

theorem headD_sumsToOldest (l : List Int) : (sumsToOldest l).headD 0 = l.sum := by
  induction l with
  | nil => rfl
  | cons x l ih => exact (congrArg (x + ·) ih).trans List.sum_cons.symm

theorem sumsToOldest_cons (x : Int) (l : List Int) : sumsToOldest (x :: l) = (x :: l).sum :: sumsToOldest l := by
  rw [List.sum_cons, ← headD_sumsToOldest l]
  rfl

theorem length_sumsToOldest (l : List Int) : (sumsToOldest l).length = l.length := by
  induction l with
  | nil => rfl
  | cons x l ih => rw [sumsToOldest_cons, List.length_cons, List.length_cons, ih]

theorem sumsToOldest_getElem? : ∀ {l : List Int} {i : Nat}, i < l.length → (sumsToOldest l)[i]? = some (l.drop i).sum
  | x :: l, 0, _ => by rw [sumsToOldest_cons, List.getElem?_cons_zero, List.drop_zero]
  | x :: l, i + 1, h => by
    rw [sumsToOldest_cons, List.getElem?_cons_succ, List.drop_succ_cons]
    exact sumsToOldest_getElem? (Nat.lt_of_succ_lt_succ h)

/-- What lies more than `w` samples back; before the oldest there is nothing. -/
theorem sumsBefore_getElem? (w : Nat) {l : List Int} {i : Nat} (h : i < l.length) :
    ((sumsToOldest l).drop w ++ List.replicate w 0)[i]? = some ((l.drop i).drop w).sum := by
  have hlen := length_sumsToOldest l
  rw [List.drop_drop]
  by_cases hw : w + i < l.length
  · rw [List.getElem?_append_left (by rw [List.length_drop]; omega), List.getElem?_drop, sumsToOldest_getElem? hw,
      Nat.add_comm]
  · rw [List.getElem?_append_right (by rw [List.length_drop]; omega), List.getElem?_replicate,
      if_pos (by rw [List.length_drop]; omega), List.drop_eq_nil_of_le (by omega), List.sum_nil]

theorem movingSums_getElem? (w : Nat) (l : List Int) (i : Nat) :
    (movingSums w l)[i]? = if i < l.length then some ((l.drop i).take w).sum else none := by
  rw [movingSums_eq, List.getElem?_zipWith]
  by_cases h : i < l.length
  · have hsplit := List.sum_take_add_sum_drop (l.drop i) w
    rw [if_pos h, sumsToOldest_getElem? h, sumsBefore_getElem? w h]
    exact congrArg some (by omega)
  · rw [if_neg h, List.getElem?_eq_none (by rw [length_sumsToOldest]; omega)]

/-! ### Results -/

theorem sdiScaled_eq (d : Int) (gain : Nat) {shift : Nat} (h : shift ≤ 47) :
    sdiScaled d gain shift = (d * gain + (if shift = 0 then 0 else 2 ^ (shift - 1))) / 2 ^ shift := by
  rw [sdiScaled, Nat.min_eq_right h]
  by_cases hzero : shift = 0
  · simp [hzero]
  · rw [if_neg hzero, if_neg hzero]
    exact Int.shiftRight_eq_div_pow ..

theorem outOfRange16_eq (x : Int) : (decide (32767 < x) || decide (x < -32768)) = beyond 16 x := by
  rw [beyond, ← Bool.decide_or]
  exact decide_eq_decide.2 (by omega)

theorem limit16_eq (x : Int) :
    (if decide (32767 < x) = true then 32767 else if x < -32768 then -32768 else x) = clamp 16 x := by
  simp only [clamp, decide_eq_true_eq]
  split
  · omega
  · split <;> omega

/-! ### Trips and bitstream errors -/

section Channel
variable {ch : Fin 48} {s : State}

theorem execSdiResult_window {bits : List Bool} (hruns : s.sdiRuns ch.val = true)
    (hlen : bits.length = s.sdiK ch.val * s.sdiR ch.val) : execSdiResult ch bits s = .next (deliverResult ch.val
      ((cascade (s.sdiR ch.val) (s.sdiK ch.val) (sampleValues bits)).headD 0) (fastValue ch.val bits s)) :=
  if_pos (by simp [hruns, hlen])

theorem beyond_iff {c : Nat} {v : Int} : s.beyond c v = true ↔
    (BitVec.ofNat 16 (s.get SDI_FTHR_THI c)).toInt < v ∨ v < (BitVec.ofNat 16 (s.get SDI_FTHR_TLO c)).toInt := by
  simp [State.beyond]

theorem execSdiTrip_trips {bits : List Bool} (hruns : s.sdiRuns ch.val = true) (hfen : s.flag SDI_FT_FEN ch.val = true)
    (hlen : s.ftW ch.val + s.ftN ch.val ≤ bits.length + 1)
    (hall : ∀ v ∈ (cascade (s.ftW ch.val) (s.ftK ch.val) (sampleValues bits)).take (s.ftN ch.val),
      s.beyond ch.val v = true) : execSdiTrip ch bits s = .next (tripChannel ch.val (s.put SDI_FTVAL_VALUE
      (BitVec.ofInt 16 ((cascade (s.ftW ch.val) (s.ftK ch.val) (sampleValues bits)).headD 0)).toNat ch.val)) := by
  have hfull : s.ftW ch.val + s.ftN ch.val - 1 ≤ bits.length := by omega
  exact if_pos (by simp only [hruns, hfen, hfull, List.all_eq_true.2 hall, decide_true, Bool.and_self])

/-- The kinds of bitstream error, and what each needs of its channel (R392). -/
theorem bsPossible_of {kind : Fin 4} (hon : s.device = .on) (hen : s.flag SDI_CTL_EN ch.val = true)
    (h : kind = 1 ∧ s.sdiRuns ch.val = true ∧ s.get SDI_BSCHK_STUCK ch.val ≠ 0 ∨ kind = 2 ∧ s.sdiRuns ch.val = true ∨
      kind = 3 ∧ s.flag SDI_MCLK_EN (s.get SDI_CTL_GEN ch.val) = false) : s.bsPossible ch.val kind.val = true := by
  obtain ⟨rfl, hruns, hstuck⟩ | ⟨rfl, hruns⟩ | ⟨rfl, hstopped⟩ := h
  · simp [State.bsPossible, hon, hen, hruns, hstuck]
  · simp [State.bsPossible, hon, hen, hruns]
  · simp [State.bsPossible, hon, hen, hstopped]

/-- The generator's clock is marked bad by an error of kind 2. -/
def clockNoted (c : Nat) (kind : Fin 4) (s : State) : State :=
  if kind = 2 then s.putBit SDI_GSTAT_CLKERR (s.get SDI_CTL_GEN c) true else s

/-- A bitstream error is latched with its kind, raises the channel's source, and is reported. -/
def bsLatched (c kind : Nat) (s : State) : State :=
  let s := (s.put SDI_STAT_BSERR 1 c).put SDI_STAT_BSKIND kind c
  let s := if s.flag SDI_CTL_EIEN c then raiseSrc (srcSdi c) s else s
  reportFault 0x12 (s.sdiOwner c) c kind s

theorem execSdiBitstreamError_eq {kind : Fin 4} (h : s.bsPossible ch.val kind.val = true) :
    execSdiBitstreamError ch kind s = let t := clockNoted ch.val kind s
    let u := bsLatched ch.val kind.val t
    if t.flag SDI_STAT_BSERR ch.val = true then .next t
    else .next (if u.flag SDI_FT_BSTRIP ch.val then tripChannel ch.val u else u) := by
  have hkind : kind.val = 2 ↔ kind = 2 := Fin.val_eq_val (a := kind) (b := 2)
  rw [execSdiBitstreamError, if_pos h]
  simp only [hkind]
  rfl

end Channel

/-! ### Writes -/

section Writes
variable {by_ : Seat} {owner : Nat}

theorem pageWrite_own (h : by_ = 0 ∨ by_.val = owner) (f : State → State) (s : State) :
    pageWrite by_.val owner f s = .next ((f s).answer (.ok 0)) := if_pos (framePasses_own by_ owner h)

/-- A write of the owner's, by what it does. -/
theorem pageWrite_does {f : State → State} {s t : State} (h : by_ = 0 ∨ by_.val = owner) (hf : f s = t) :
    pageWrite by_.val owner f s = .next (t.answer (.ok 0)) := by rw [pageWrite_own h, hf]

theorem pageWrite_foreign (h : by_ ≠ 0) (howner : by_.val ≠ owner) (f : State → State) (s : State) :
    pageWrite by_.val owner f s = .next (s.answer .error) := if_neg (by simp [framePasses_other by_ owner h howner])

end Writes

/-- Settles O35: the filters by their windows, a result by its rounding and its limits, trips and errors by what allows them,
and the writes by whose page it is. -/
theorem sigmaDeltaChannels : Obligations.SigmaDeltaChannels := by
  unfold Obligations.SigmaDeltaChannels
  refine ⟨movingSums_getElem?, fun w l => ⟨rfl, fun k => rfl⟩, fun d gain shift => sdiScaled_eq d gain,
    fun ch bits s => execSdiResult_window, fun ch d s => ?result, fun ch bits s => ?trip, fun c s => ?tripped,
    fun ch kind s => ?error, fun by_ g ch v s => ?writes⟩
  case result =>
    intro x one landed marked shown
    simp only [deliverResult, outOfRange16_eq, limit16_eq]
    rfl
  case trip =>
    intro c vals hruns hfen hlen hall
    exact execSdiTrip_trips hruns hfen hlen fun v hv => beyond_iff.2 (hall v hv)
  case tripped =>
    exact ⟨fun htrip => if_pos htrip, fun htrip => if_neg (Bool.eq_false_iff.1 htrip)⟩
  case error =>
    intro c t latched raised u hon hen hkind
    have hexec := execSdiBitstreamError_eq (bsPossible_of hon hen hkind)
    exact ⟨fun hset => hexec.trans (if_pos hset), fun hclear => hexec.trans (if_neg (Bool.eq_false_iff.1 hclear))⟩
  case writes =>
    intro ok w f e
    refine ⟨?_, fun hown => ⟨pageWrite_own hown _ s, ?_, pageWrite_own hown _ s⟩, fun hby => pageWrite_customer hby _ s,
      fun hby howner => ⟨pageWrite_foreign hby howner _ s, pageWrite_foreign hby howner _ s,
        pageWrite_foreign hby howner _ s⟩⟩
    · rintro rfl
      exact pageWrite_seatZero _ s
    · exact pageWrite_own hown _ s

end Sys2Proof.Proofs
end

section
/-!
PROOFS. The PWM pairs (R393 to R401, R403): the limits of the shadow transfer, the commanded signal, boundaries by what the
commit watchdog counts, starts, writes to a pair's page, and the readback.
-/

namespace Sys2Proof.Proofs

open Sys2Proof.Machine Sys2Proof.Laws

/-! ### The shadow's limits and the commanded signal -/

section Fields
variable {duty phase dead period t : Nat}

theorem limitFields_values : (limitFields duty phase dead period).1 =
    let per := max 960 (min 268435455 period)
    (min duty per, (if phase < per then phase else 0), min dead 16320, per) := by
  rw [Nat.min_comm dead]
  rfl

/-- A limit sets CLAMP where PERIOD, PHASE or DEAD is not the value written; a limited DUTY does not (Table CIO-3). -/
theorem limitFields_clamps : (limitFields duty phase dead period).2 = true ↔ period < 960 ∨ 268435455 < period ∨
    max 960 (min 268435455 period) ≤ phase ∧ phase ≠ 0 ∨ 16320 < dead := by
  have hphase {per : Nat} : (if phase < per then phase else 0) ≠ phase ↔ per ≤ phase ∧ phase ≠ 0 := by
    split <;> omega
  simp only [limitFields, Bool.or_eq_true, bne_iff_ne, hphase]
  omega

/-- R394: the signal is high for DUTY counts from PHASE on, around the period. -/
theorem hrpCommand_iff (hphase : phase < period) :
    hrpCommand duty phase period t = true ↔ ((t : Int) - phase) % period < duty := by
  have hwrap : (((t + period - phase) % period : Nat) : Int) = ((t : Int) - phase) % period := by
    rw [Int.natCast_emod, Int.ofNat_sub (by omega), Int.natCast_add, add_sub_right_comm, Int.add_emod_right]
  rw [hrpCommand, Nat.mod_eq_of_lt hphase, decide_eq_true_iff, ← hwrap, Int.ofNat_lt]

end Fields

/-! ### Boundaries and starts -/

section Boundary
variable {p : Nat} {s : State}

theorem shadowTransfer_copies (hhold : s.flag HRP_CTL_HOLD p = false) : shadowTransfer p s =
    let l := limitFields (s.get HRP_SHD_VALUE p 0) (s.get HRP_SHD_VALUE p 1) (s.get HRP_SHD_VALUE p 2)
      (s.get HRP_SHD_PERIOD_VALUE p)
    let t := (((s.put HRP_ACT_VALUE l.1.1 p 0).put HRP_ACT_VALUE l.1.2.1 p 1).put HRP_ACT_VALUE l.1.2.2.1 p 2).put
      HRP_ACT_PERIOD_VALUE l.1.2.2.2 p
    if l.2 then t.put HRP_STAT_CLAMP 1 p else t :=
  if_neg (Bool.eq_false_iff.1 hhold)

theorem countBoundary_restarts (h : (s.pair p).updated = true ∨ s.get HRP_CTL_CWD p = 0) : countBoundary p s =
    s.mapPair p (fun h => { h with updated := false, since := 0 }) :=
  if_pos (by simpa using h)

-- A pair that nothing updated since its last boundary, with the commit watchdog on (R401).
variable (hidle : (s.pair p).updated = false) (hcwd : s.get HRP_CTL_CWD p ≠ 0)
include hidle hcwd

theorem countBoundary_counts (hlt : (s.pair p).since + 1 < s.get HRP_CTL_CWD p) :
    countBoundary p s = s.mapPair p (fun h => { h with since := h.since + 1 }) :=
  (if_neg (by simp [hidle, hcwd])).trans (if_neg (by omega))

theorem countBoundary_expires (hle : s.get HRP_CTL_CWD p ≤ (s.pair p).since + 1) : countBoundary p s =
    driveSafe p ((s.put HRP_STAT_CWDEXP 1 p).mapPair p (fun h => { h with since := 0 })) :=
  (if_neg (by simp [hidle, hcwd])).trans (if_pos hle)

end Boundary

section Pair
variable {pr : Fin 24} {k : Fin 4} {s : State} (hon : s.device = .on)
include hon

/-- What a running pair does at a boundary behind the count of the commit watchdog. -/
theorem execHrpBoundary_running {u : State} (hrun : s.flag HRP_STAT_RUNNING pr.val = true)
    (hcount : countBoundary pr.val (shadowTransfer pr.val (landCommits pr.val k.val s)) = u) : execHrpBoundary pr k s =
    let v := sourceEvent 2 pr.val u
    .next (startSlaves 24 [pr.val] (if v.flag HRP_CTL_RUN pr.val then leaveSafe pr.val v
      else driveSafe pr.val (v.put HRP_STAT_RUNNING 0 pr.val))) := by
  rw [execHrpBoundary, if_pos (by simp [hon, hrun]), pairBoundary, hcount]

theorem execHrpCwdExpiry_due (hrun : s.flag HRP_STAT_RUNNING pr.val = true) (hcwd : s.get HRP_CTL_CWD pr.val ≠ 0)
    (hidle : ((landCommits pr.val k.val s).pair pr.val).updated = false)
    (hdue : s.get HRP_CTL_CWD pr.val ≤ ((landCommits pr.val k.val s).pair pr.val).since + 1) :
    execHrpCwdExpiry pr k s = execHrpBoundary pr k s := by
  rw [execHrpCwdExpiry, execHrpBoundary, if_pos (by simp [hon, hrun, hcwd, hidle, hdue]), if_pos (by simp [hon, hrun])]

theorem execHrpStart_due (hctl : s.flag HRP_CTL_RUN pr.val = true) (hrun : s.flag HRP_STAT_RUNNING pr.val = false)
    (hsrc : s.get HRP_CTL_STSRC pr.val = 0) : execHrpStart pr s = .next (startWithSlaves pr.val s) :=
  if_pos (by simp [hon, hctl, hrun, hsrc])

/-- R403: an output that is not commanded to high impedance is compared, and its mismatch is latched once and reported. -/
theorem execHrpReadbackMismatch_compared {low : Bool} (hrb : s.flag HRP_CTL_RBEN pr.val = true)
    (hdriven : s.flag HRP_STAT_SAFE pr.val = false ∨ s.get (if low then HRP_CTL_SAFEL else HRP_CTL_SAFEH) pr.val ≠ 2) :
    let p := pr.val
    let t := if s.flag HRP_STAT_RBERR p then s else (s.put HRP_STAT_RBERR 1 p).put HRP_STAT_RBOUT (bit low) p
    let t := if t.flag HRP_CTL_IEN p then raiseSrc (srcHrp p) t else t
    execHrpReadbackMismatch pr low s = .next (reportFault 0x13 (t.hrpOwner p) p (bit low) t) := by
  have hlevel : (if low then s.get HRP_CTL_SAFEL pr.val else s.get HRP_CTL_SAFEH pr.val) =
      s.get (if low then HRP_CTL_SAFEL else HRP_CTL_SAFEH) pr.val := (apply_ite (s.get · pr.val) ..).symm
  have hcompared : (s.flag HRP_STAT_SAFE pr.val &&
      s.get (if low then HRP_CTL_SAFEL else HRP_CTL_SAFEH) pr.val == 2) = false := by
    obtain hoff | hlevel := hdriven
    · rw [hoff, Bool.false_and]
    · rw [beq_eq_false_iff_ne.2 hlevel, Bool.and_false]
  rw [execHrpReadbackMismatch, hlevel]
  exact if_pos (by simp [hon, hrb, hcompared])

end Pair

/-! ### Writes -/

theorem sub_and_two_pow (v b : Nat) : v - (v &&& 2 ^ b) = withSlice v b 1 0 := by
  rw [Nat.and_two_pow, Nat.toNat_testBit, withSlice, slice, pow_one, Nat.zero_mod, Nat.zero_mul, Nat.add_zero]

/-- A word without one of its bits, as a difference and as a mask. -/
theorem sub_and_bit (v : Word32) (b : Nat) : v.toNat - (v.toNat &&& 2 ^ b) = (v &&& ~~~(1#32 <<< b)).toNat := by
  apply Nat.eq_of_testBit_eq
  intro i
  rw [sub_and_two_pow, testBit_withSlice, Nat.zero_testBit, BitVec.testBit_toNat, BitVec.testBit_toNat,
    BitVec.getLsbD_and, BitVec.getLsbD_not, BitVec.getLsbD_shiftLeft, BitVec.getLsbD_one]
  by_cases hi : i = b
  · subst hi
    simp
  · rw [if_neg (by omega)]
    by_cases hword : i < 32
    · have hside : i < b ∨ i - b ≠ 0 := by omega
      simp [hword, hside]
    · rw [BitVec.getLsbD_of_ge _ _ (by omega), Bool.false_and]

/-- R400: a tripped channel that names the pair holds its TRIPPED bit. -/
def TripHeld (p : Nat) (s : State) : Prop :=
  ∃ ch < 48, s.flag SDI_STAT_TRIP ch = true ∧ s.bitOf SDI_TRIPMASK_PAIRS p ch = true

section Writes
variable {p : Nat} {s : State}

theorem any_trips_iff : (List.range 48).any (fun ch => s.flag SDI_STAT_TRIP ch && s.bitOf SDI_TRIPMASK_PAIRS p ch) = true ↔
    TripHeld p s := by
  simp [TripHeld]

theorem hrpStatWrite_held (by_ : Nat) (v : Word32) (hheld : TripHeld p s) : hrpStatWrite by_ p v.toNat s =
    writeFields by_ HRP_STAT p 0 (v &&& ~~~(1#32 <<< 29)).toNat 0xFFFFFFFF s := by
  rw [hrpStatWrite, if_pos (any_trips_iff.2 hheld), sub_and_bit]

theorem hrpStatWrite_free (by_ v : Nat) (hfree : ¬ TripHeld p s) :
    hrpStatWrite by_ p v s = writeFields by_ HRP_STAT p 0 v 0xFFFFFFFF s := by
  rw [hrpStatWrite, if_neg (mt any_trips_iff.1 hfree)]

end Writes

/-- Settles O36: the transfer by its limits, a boundary by what the commit watchdog counts there, a start and a mismatch by
what allows them, and the writes by whose page it is. -/
theorem pwmPairs : Obligations.PwmPairs := by
  unfold Obligations.PwmPairs
  refine ⟨fun duty phase dead period => ⟨limitFields_values, limitFields_clamps⟩,
    fun duty phase period t hphase _ => hrpCommand_iff hphase, fun p s => ⟨fun hhold => if_pos hhold, shadowTransfer_copies⟩,
    fun pr k s => ?boundary, fun pr k s => execHrpCwdExpiry_due, fun pr s => execHrpStart_due,
    fun by_ pr f k v same s => ?writes, fun pr low s => fun hon => execHrpReadbackMismatch_compared hon⟩
  case boundary =>
    intro p hon hrun t n reset go
    exact ⟨fun h => execHrpBoundary_running hon hrun (countBoundary_restarts h),
      fun hidle hcwd hlt => execHrpBoundary_running hon hrun (countBoundary_counts hidle hcwd hlt),
      fun hidle hcwd hle => execHrpBoundary_running hon hrun (countBoundary_expires hidle hcwd hle)⟩
  case writes =>
    intro p t held w
    exact ⟨fun hown => ⟨pageWrite_own hown _ s,
        fun hheld => pageWrite_does (f := hrpStatWrite by_.val p v.toNat) hown (hrpStatWrite_held by_.val v hheld),
        fun hfree => pageWrite_does (f := hrpStatWrite by_.val p v.toNat) hown (hrpStatWrite_free by_.val v.toNat hfree)⟩,
      fun hby howner => ⟨pageWrite_foreign hby howner _ s, pageWrite_foreign hby howner _ s⟩⟩

end Sys2Proof.Proofs
end

section
/-!
PROOFS. The interrupt controller (R406, R407, R409, R411 to R416, R419, R420): the candidates of a target, the source that it
is signalled, claims and completions, writes of a source, software triggers, and stranded sources.
-/

namespace Sys2Proof.Proofs

open Sys2Proof.Machine Sys2Proof.Laws

/-! ### Candidates -/

section Running
variable {m q t p : Nat} {s : State}

theorem testBit_of_topBit_none (h : topBit m = none) (hq : q < 16) : m.testBit q = false := by
  have hnil : (List.range 16).filter (fun p => m.testBit p) = [] := List.getLast?_eq_none_iff.1 h
  simpa using List.filter_eq_nil_iff.1 hnil q (List.mem_range.2 hq)

theorem topBit_greatest (h : topBit m = some p) : (p < 16 ∧ m.testBit p = true) ∧
    ∀ q < 16, m.testBit q = true → q ≤ p := by
  obtain ⟨below, hlast⟩ := List.getLast?_eq_some_iff.1 h
  have hmem {q : Nat} : q ∈ below ++ [p] ↔ q < 16 ∧ m.testBit q = true := by
    rw [← hlast, List.mem_filter, List.mem_range]
  have hsorted : (below ++ [p]).Pairwise (· < ·) := hlast ▸ List.pairwise_lt_range.filter _
  refine ⟨hmem.1 (by simp), fun q hq hbit => ?_⟩
  rcases List.mem_append.1 (hmem.2 ⟨hq, hbit⟩) with hbelow | hp
  · exact ((List.pairwise_append.1 hsorted).2.2 q hbelow p (by simp)).le
  · exact (List.mem_singleton.1 hp).le

theorem bitOf_eq_testBit (s : State) (f : Fld) (b i j : Nat) : s.bitOf f b i j = (s.get f i j).testBit b := by
  rw [State.bitOf, Nat.testBit_eq_decide_div_mod_eq, beq_eq_decide]

/-- R409: the running priority is the highest in service. -/
theorem aboveRunning_iff :
    s.aboveRunning t p = true ↔ ∀ q < 16, s.bitOf ICU_TSTAT_INSVC q t = true → q < p := by
  simp only [bitOf_eq_testBit]
  rw [State.aboveRunning]
  cases htop : topBit (s.get ICU_TSTAT_INSVC t) with
  | none => simp +contextual [testBit_of_topBit_none htop]
  | some r =>
    obtain ⟨⟨hr, hbit⟩, hgreatest⟩ := topBit_greatest htop
    rw [decide_eq_true_iff]
    exact ⟨fun hlt q hq hset => (hgreatest q hq hset).trans_lt hlt, fun h => h r hr hbit⟩

end Running

theorem candidate_iff {n t : Nat} {s : State} : s.candidate n t = true ↔ (s.flag ICU_SRC_PEND n = true ∧
    s.flag ICU_SRC_EN n = true ∧ s.get ICU_SRC_TGT n = t ∧ s.get ICU_TCTL_THR t ≤ s.get ICU_SRC_PRIO n ∧
    (∀ q < 16, s.bitOf ICU_TSTAT_INSVC q t = true → q < s.get ICU_SRC_PRIO n) ∧
    (∀ e ∈ s.inSvc, ¬ (e.src = n ∧ e.tgt = t)) ∧ (t = 32 ∨ s.srcOwner n = s.seatOf t)) := by
  simp only [State.candidate, State.wouldSignal, State.servedAt, Bool.and_eq_true, Bool.or_eq_true, Bool.not_eq_true',
    List.any_eq_false, beq_iff_eq, decide_eq_true_iff, aboveRunning_iff, and_assoc]

/-! ### The signalled source -/

section Listed
variable {α : Type} {dflt : Nat → α}

/-- A key that no entry has reads as what an unlisted key reads as. -/
theorem cellGet_of_unlisted {a : Nat} {l : List (Nat × α)} (h : ∀ c ∈ l, c.1 ≠ a) : cellGet dflt a l = dflt a := by
  induction l with
  | nil => rfl
  | cons c rest ih =>
    rw [cellGet, if_neg (h c List.mem_cons_self), ih fun d hd => h d (List.mem_cons_of_mem c hd)]

theorem keys_ascend [DecidableEq α] {l : List (Nat × α)} (h : cellsWf dflt l = true) :
    l.Pairwise (fun c d => c.1 < d.1) := by
  induction l with
  | nil => exact .nil
  | cons c rest ih =>
    obtain ⟨_, habove, hrest⟩ := (cellsWf_cons dflt c.1 c.2 rest).1 h
    exact .cons habove (ih hrest)

end Listed

/-- The words of a register lie between its base and the last of its upper words. -/
theorem range_of_covers {r : RegDef} {a : Nat} (h : r.covers a = true) :
    r.base ≤ a ∧ a ≤ r.addr (r.n1 - 1) (r.n2 - 1) + 4 := by
  simp only [RegDef.covers, RegDef.place, Bool.and_eq_true, Bool.or_eq_true, beq_iff_eq] at h
  obtain ⟨⟨⟨⟨⟨hbase, _⟩, houter⟩, _⟩, hinner⟩, hword⟩ := h
  have hi : (a - r.base) / r.s1 * r.s1 ≤ (r.n1 - 1) * r.s1 :=
    Nat.mul_le_mul_right _ (Nat.le_sub_one_of_lt (of_decide_eq_true houter))
  have hj : (a - r.base) % r.s1 / r.s2 * r.s2 ≤ (r.n2 - 1) * r.s2 :=
    Nat.mul_le_mul_right _ (Nat.le_sub_one_of_lt (of_decide_eq_true hinner))
  have houterDiv := Nat.div_add_mod' (a - r.base) r.s1
  have hinnerDiv := Nat.div_add_mod' ((a - r.base) % r.s1) r.s2
  refine ⟨of_decide_eq_true hbase, ?_⟩
  rw [RegDef.addr]
  omega

/-- No other register reaches into the array of the sources. -/
theorem apart_from_src : ∀ r ∈ regTable, r = ICU_SRC ∨ ICU_SRC.base + 2048 ≤ r.base ∨
    r.addr (r.n1 - 1) (r.n2 - 1) + 4 < ICU_SRC.base := by decide +kernel

/-- After reset no bit of a source's register is 1. -/
theorem resetWord_src {n : Nat} (hn : n < 512) : resetWord (ICU_SRC.addr n 0) = 0 := by
  have haddr : ICU_SRC.addr n 0 = ICU_SRC.base + n * 4 := rfl
  rw [resetWord]
  cases hfind : regTable.find? (fun r => r.covers (ICU_SRC.addr n 0)) with
  | none => rfl
  | some r =>
    have hcovers := List.find?_some hfind
    have hrange := range_of_covers hcovers
    obtain rfl : r = ICU_SRC := (apart_from_src r (List.mem_of_find?_eq_some hfind)).resolve_right (by omega)
    exact congrArg (BitVec.ofNat 32) (Nat.zero_div _)

section Signalled
variable {s : State} {n t : Nat}

theorem listed_of_pending (hn : n < 512) (hpend : s.flag ICU_SRC_PEND n = true) : n ∈ s.listedSources := by
  have haddr : ICU_SRC.addr n 0 = ICU_SRC.base + n * 4 := rfl
  have hcell : ∃ c ∈ s.regs, c.1 = ICU_SRC.addr n 0 := by
    by_contra hnone
    push Not at hnone
    have hword : s.word (ICU_SRC.addr n 0) = 0 := by
      rw [State.word, cellGet_of_unlisted hnone, resetWord_src hn]
      rfl
    have hclear : s.get ICU_SRC_PEND n = 0 := by
      rw [State.get, show s.reg ICU_SRC_PEND.reg n 0 = 0 from hword]
      rfl
    simp [State.flag, hclear] at hpend
  obtain ⟨c, hc, hkey⟩ := hcell
  refine List.mem_map.2 ⟨c, List.mem_filter.2 ⟨hc, ?_⟩, ?_⟩
  · rw [hkey, haddr, Bool.and_eq_true, decide_eq_true_iff, decide_eq_true_iff]
    omega
  · rw [hkey, haddr]
    omega

theorem listedSources_ascend (h : s.Canonical) : s.listedSources.Pairwise (· ≤ ·) :=
  List.Pairwise.map _ (fun _ _ hlt => Nat.div_le_div_right (Nat.sub_le_sub_right hlt.le _)) ((keys_ascend h.regs).filter _)

/-- Of the best source so far and the next one, the one of higher priority, and the former among equals. -/
def higherSource (prio : Nat → Nat) : Option Nat → Nat → Option Nat
  | none, n => some n
  | some b, n => if prio b < prio n then some n else some b

theorem signalled_eq (s : State) (t : Nat) : s.signalled t =
    (s.listedSources.filter (fun n => s.candidate n t)).foldl (higherSource (fun n => s.get ICU_SRC_PRIO n)) none := by
  rw [State.signalled]
  congr 1
  funext best n
  cases best <;> rfl

/-- R411, R412: `n` stands first among the sources `l`, by its priority and then by its number. -/
def StandsFirst (prio : Nat → Nat) (l : List Nat) (n : Nat) : Prop :=
  n ∈ l ∧ ∀ m ∈ l, prio m < prio n ∨ prio m = prio n ∧ n ≤ m

/-- The sources looked at so far, and the one chosen: the first of them, and none only of none. -/
def Chosen (prio : Nat → Nat) (l : List Nat) (best : Option Nat) : Prop :=
  (∀ n, best = some n → StandsFirst prio l n) ∧ (best = none → l = [])

theorem chosen_higherSource {prio : Nat → Nat} {l : List Nat} {best : Option Nat} (h : Chosen prio l best)
    (hn : ∀ m ∈ l, m ≤ n) : Chosen prio (l ++ [n]) (higherSource prio best n) := by
  obtain ⟨hfirst, hnone⟩ := h
  cases best with
  | none =>
    obtain rfl := hnone rfl
    simp [Chosen, StandsFirst, higherSource]
  | some b =>
    obtain ⟨hb, hleads⟩ := hfirst b rfl
    rw [higherSource]
    split
    case isTrue hlt =>
      refine ⟨fun k hk => ?_, nofun⟩
      cases hk
      refine ⟨by simp, fun m hm => ?_⟩
      rcases List.mem_append.1 hm with hm | hm
      · have := hleads m hm
        omega
      · simp [List.mem_singleton.1 hm]
    case isFalse hle =>
      refine ⟨fun k hk => ?_, nofun⟩
      cases hk
      refine ⟨by simp [hb], fun m hm => ?_⟩
      rcases List.mem_append.1 hm with hm | hm
      · exact hleads m hm
      · have := hn b hb
        rw [List.mem_singleton.1 hm]
        omega

theorem chosen_foldl (prio : Nat → Nat) {l : List Nat} (hl : l.Pairwise (· ≤ ·)) :
    Chosen prio l (l.foldl (higherSource prio) none) := by
  induction l using List.reverseRecOn with
  | nil => exact ⟨nofun, fun _ => rfl⟩
  | append_singleton l n ih =>
    obtain ⟨hl, _, hle⟩ := List.pairwise_append.1 hl
    rw [List.foldl_concat]
    exact chosen_higherSource (ih hl) fun m hm => hle m hm n (by simp)

theorem signalled_chosen (h : s.Canonical) (t : Nat) : Chosen (fun n => s.get ICU_SRC_PRIO n)
    (s.listedSources.filter (fun n => s.candidate n t)) (s.signalled t) :=
  signalled_eq s t ▸ chosen_foldl _ ((listedSources_ascend h).filter _)

theorem listed_of_candidate (hn : n < 512) (hcand : s.candidate n t = true) :
    n ∈ s.listedSources.filter (fun n => s.candidate n t) :=
  List.mem_filter.2 ⟨listed_of_pending hn (candidate_iff.1 hcand).1, hcand⟩

theorem signalled_some (h : s.Canonical) (hsig : s.signalled t = some n) : s.candidate n t = true ∧
    ∀ m < 512, s.candidate m t = true → s.get ICU_SRC_PRIO m < s.get ICU_SRC_PRIO n ∨
      s.get ICU_SRC_PRIO m = s.get ICU_SRC_PRIO n ∧ n ≤ m := by
  obtain ⟨hmem, hfirst⟩ := (signalled_chosen h t).1 n hsig
  exact ⟨(List.mem_filter.1 hmem).2, fun m hm hcand => hfirst m (listed_of_candidate hm hcand)⟩

theorem signalled_none (h : s.Canonical) (hsig : s.signalled t = none) (hn : n < 512) : s.candidate n t = false := by
  have hnil := (signalled_chosen h t).2 hsig
  by_contra hcand
  simpa [hnil] using listed_of_candidate hn (Bool.of_not_eq_false hcand)

end Signalled

/-! ### Claims and completions -/

section Claims
variable {t : Fin 33} {s : State} (htrail : s.trailing t.val = false)
include htrail

theorem execIcuClaim_leads : exec (.icuClaim t) s =
    .next ((claimAt t.val s).2.answer (.ok (BitVec.ofNat 64 (claimAt t.val s).1))) := if_neg (by simp [htrail])

theorem execIcuClaim_none (hsig : s.signalled t.val = none) : exec (.icuClaim t) s = .next (s.answer (.ok 0x3FF)) := by
  rw [execIcuClaim_leads htrail, claimAt, hsig]
  rfl

theorem execIcuClaim_some {n : Nat} (hsig : s.signalled t.val = some n) :
    let p := s.get ICU_SRC_PRIO n
    let u := ((s.put ICU_SRC_PEND 0 n).put ICU_SRC_ACT 1 n).putBit ICU_TSTAT_INSVC p true t.val
    exec (.icuClaim t) s =
      .next (State.answer { u with inSvc := u.inSvc ++ [⟨n, t.val, p⟩] } (.ok (BitVec.ofNat 64 (p * 2 ^ 16 + n)))) := by
  rw [execIcuClaim_leads htrail, claimAt, hsig]

theorem execIcuComplete_leads (id : BitVec 10) :
    exec (.icuComplete t id) s = .next ((completeAt t.val id.toNat s).answer (.ok 0)) :=
  congrArg (fun u : State => Host.Outcome.next (u.answer (.ok 0))) (if_neg (by simp [htrail]))

end Claims

section Completions
variable {t n : Nat} {s : State} {e : InSvc}

theorem completeAt_ends (hn : n ≠ 0x3FF) (he : s.inSvc.find? (fun e => e.src == n && e.tgt == t) = some e) :
    let u := State.putBit { s with inSvc := s.inSvc.filter (fun x => !(x.src == n && x.tgt == t)) } ICU_TSTAT_INSVC
      e.prio false t
    completeAt t n s = if u.inSvc.any (fun x => x.src == n) then u else u.put ICU_SRC_ACT 0 n := by
  rw [completeAt, if_neg hn, he]

theorem completeAt_unclaimed (hn : n ≠ 0x3FF) (h : ∀ e ∈ s.inSvc, ¬ (e.src = n ∧ e.tgt = t)) :
    completeAt t n s = s.put ICU_TSTAT_CERR 1 t := by
  have hnone : s.inSvc.find? (fun e => e.src == n && e.tgt == t) = none := by simpa using h
  rw [completeAt, if_neg hn, hnone]

end Completions

/-! ### Writes of a source -/

/-- The answer of a register write: OKAY, or an error where it is a violation. -/
def registerAnswer (r : Bool × State) : Result := .next (r.2.answer (if r.1 then .ok 0 else .error))

theorem execIcuSrcWrite_eq (by_ : Seat) (src : Fin 512) (v : Word32) (s : State) :
    exec (.icuSrcWrite by_ src v) s = registerAnswer (srcWrite by_.val src.val v.toNat s) := rfl

theorem execIcuSwtrig_eq (by_ : Seat) (v : Word32) (s : State) :
    exec (.icuSwtrig by_ v) s = registerAnswer (swtrig by_.val v.toNat s) := rfl

theorem slice_bit (v : Word32) (b : Nat) : slice v.toNat b 1 = bit (v.getLsbD b) := by
  rw [slice, pow_one, ← Nat.toNat_testBit, BitVec.testBit_toNat]
  cases v.getLsbD b <;> rfl

/-- PEND and STR cleared where the word says so, and its EN and PRIO. -/
def srcFields (n : Nat) (v : Word32) (s : State) : State :=
  let t := if v.getLsbD 31 then s.put ICU_SRC_PEND 0 n else s
  let t := if v.getLsbD 29 then t.put ICU_SRC_STR 0 n else t
  (t.put ICU_SRC_EN (bit (v.getLsbD 24)) n).put ICU_SRC_PRIO (v.toNat / 2 ^ 16 % 16) n

/-- TGT as a write leaves it: the leading core of the one named, the service processor, or what it was. -/
def srcTargeted (n tgt : Nat) (s : State) : State :=
  if tgt ≤ 31 then s.put ICU_SRC_TGT (s.leadOf tgt) n else if tgt = 32 then s.put ICU_SRC_TGT 32 n else s

section Targets
variable {n tgt : Nat} {s : State}

theorem srcTargeted_core (h : tgt < 32) : srcTargeted n tgt s = s.put ICU_SRC_TGT (s.leadOf tgt) n :=
  if_pos (Nat.le_of_lt_succ h)

theorem srcTargeted_svp (h : tgt = 32) : srcTargeted n tgt s = s.put ICU_SRC_TGT 32 n := by
  rw [srcTargeted, if_neg (by omega), if_pos h]

theorem srcTargeted_none (h : 32 < tgt) : srcTargeted n tgt s = s := by
  rw [srcTargeted, if_neg (by omega), if_neg (by omega)]

end Targets

section SourceWrites
variable {by_ : Seat} {src : Fin 512} {v : Word32} {s : State}

/-- R414: the seat may name the target. -/
def MayNameTarget (by_ : Seat) (tgt : Nat) (s : State) : Prop :=
  by_ = 0 ∨ tgt < 32 ∧ (s.coreOwner tgt = by_.val ∨ s.sharesCore by_.val tgt = true)

theorem targetRefused_iff {tgt : Nat} :
    (by_.val ≠ 0 && !s.targetAllowed by_.val tgt) = true ↔ ¬ MayNameTarget by_ tgt s := by
  rw [MayNameTarget, State.targetAllowed, ← Fin.val_eq_zero_iff]
  simp [imp_iff_not_or]

theorem sourceRefused_iff {n : Nat} :
    (by_.val ≠ 0 && s.srcOwner n != by_.val) = true ↔ ¬ (by_ = 0 ∨ s.srcOwner n = by_.val) := by
  rw [← Fin.val_eq_zero_iff]
  simp

theorem srcWrite_refused {n : Nat}
    (h : ¬ (by_ = 0 ∨ s.srcOwner n = by_.val) ∨ ¬ MayNameTarget by_ (v.toNat % 64) s) :
    srcWrite by_.val n v.toNat s = (false, seatViolation by_.val true (ICU_SRC.addr n 0) s) := by
  by_cases hown : by_ = 0 ∨ s.srcOwner n = by_.val
  · have hnamed := h.resolve_left (not_not.2 hown)
    rw [srcWrite, if_neg (sourceRefused_iff.not_left.2 hown)]
    exact if_pos (targetRefused_iff.2 hnamed)
  · exact if_pos (sourceRefused_iff.2 hown)

theorem srcWrite_allowed {n : Nat} (hown : by_ = 0 ∨ s.srcOwner n = by_.val) (hnamed : MayNameTarget by_ (v.toNat % 64) s)
    (hcheck : (srcFields n v s).seatChecking = false) : srcWrite by_.val n v.toNat s =
      (true, noteWithdrawn s (srcTargeted n (v.toNat % 64) (srcFields n v s))) := by
  rw [srcWrite, if_neg (sourceRefused_iff.not_left.2 hown)]
  refine (if_neg (targetRefused_iff.not_left.2 hnamed)).trans ?_
  rw [slice_bit]
  exact congrArg (fun u => (true, noteWithdrawn s u)) (if_neg (Bool.eq_false_iff.1 hcheck))

theorem execIcuSrcWrite_refused
    (h : ¬ (by_ = 0 ∨ s.srcOwner src.val = by_.val) ∨ ¬ MayNameTarget by_ (v.toNat % 64) s) :
    exec (.icuSrcWrite by_ src v) s =
      .next ((seatViolation by_.val true (ICU_SRC.addr src.val 0) s).answer .error) := by
  rw [execIcuSrcWrite_eq, srcWrite_refused h]
  rfl

/-- A write that the seat may make, by what it leaves in TGT. -/
theorem execIcuSrcWrite_does {u : State} (hown : by_ = 0 ∨ s.srcOwner src.val = by_.val)
    (hnamed : MayNameTarget by_ (v.toNat % 64) s) (hcheck : (srcFields src.val v s).seatChecking = false)
    (hu : srcTargeted src.val (v.toNat % 64) (srcFields src.val v s) = u) :
    exec (.icuSrcWrite by_ src v) s = .next ((noteWithdrawn s u).answer (.ok 0)) := by
  rw [execIcuSrcWrite_eq, srcWrite_allowed hown hnamed hcheck, hu]
  rfl

end SourceWrites

/-! ### Edges and software triggers -/

theorem raiseSrc_eq (n : Nat) (s : State) : raiseSrc n s =
    if srcConnected n = true ∧ s.seatResetting (s.srcOwner n) = false then s.put ICU_SRC_PEND 1 n else s := by
  rw [raiseSrc]
  exact if_congr (by rw [Bool.and_eq_true, Bool.not_eq_true', State.srcOwner]) rfl rfl

section Triggers
variable {by_ : Seat} {v : Word32} {s : State}

theorem execIcuSwtrig_wired (h : v.toNat % 512 < 448) : exec (.icuSwtrig by_ v) s = .next (s.answer (.ok 0)) := by
  rw [execIcuSwtrig_eq, swtrig, if_pos h]
  rfl

theorem execIcuSwtrig_own (h : 448 ≤ v.toNat % 512) (hown : by_ = 0 ∨ s.srcOwner (v.toNat % 512) = by_.val) :
    exec (.icuSwtrig by_ v) s = .next ((raiseSrc (v.toNat % 512) s).answer (.ok 0)) := by
  rw [execIcuSwtrig_eq, swtrig, if_neg (Nat.not_lt.2 h), if_neg (sourceRefused_iff.not_left.2 hown)]
  rfl

theorem execIcuSwtrig_foreign (h : 448 ≤ v.toNat % 512) (hby : by_ ≠ 0) (howner : s.srcOwner (v.toNat % 512) ≠ by_.val) :
    exec (.icuSwtrig by_ v) s = .next ((seatViolation by_.val true ICU_SWTRIG.base s).answer .error) := by
  rw [execIcuSwtrig_eq, swtrig, if_neg (Nat.not_lt.2 h), if_pos (sourceRefused_iff.2 (not_or.2 ⟨hby, howner⟩))]
  rfl

end Triggers

/-! ### Stranded sources -/

theorem execIcuStrandedTimeout_strands {src : Fin 512} {s : State}
    (hcand : s.wouldSignal src.val (s.get ICU_SRC_TGT src.val) = true)
    (hlost : s.unreachable (s.get ICU_SRC_TGT src.val) = true) (hstr : s.flag ICU_SRC_STR src.val = false) :
    let t := noteSeat 0x0F03 (s.srcOwner src.val) (srcBytes src.val) (s.put ICU_SRC_STR 1 src.val)
    exec (.icuStrandedTimeout src) s = .next (if t.flag ICU_STAT_STREV then t
      else raiseSrc 218 ((t.put ICU_STAT_FIRST src.val).put ICU_STAT_STREV 1)) :=
  if_pos (by simp [hcand, hlost, hstr])

/-- Settles O37: the signalled source by the order in which sources are looked at, a claim and its completion by what is in
service, and the writes by whose source and whose target it is. -/
theorem interruptController : Obligations.InterruptController := by
  unfold Obligations.InterruptController
  refine ⟨fun n s => congrArg Host.Outcome.next (raiseSrc_eq n.val s),
    fun t s hcanon => ⟨fun n => signalled_some hcanon, fun hsig m => signalled_none hcanon hsig⟩,
    fun n t s => candidate_iff, fun t id s htrail => ?service, fun by_ src v s => ?write,
    fun by_ v s => ⟨execIcuSwtrig_wired, execIcuSwtrig_own, execIcuSwtrig_foreign⟩, fun src s => ?stranded⟩
  case service =>
    have hcomplete {u : State} (hu : completeAt t.val id.toNat s = u) :
        exec (.icuComplete t id) s = .next (u.answer (.ok 0)) := hu ▸ execIcuComplete_leads htrail id
    refine ⟨execIcuClaim_none htrail, fun n hsig => execIcuClaim_some htrail hsig, fun hid => hcomplete (if_pos hid),
      fun hid hnone => hcomplete (completeAt_unclaimed hid hnone), fun e hid he => ⟨fun hserved => ?_, fun hfree => ?_⟩⟩
    · exact hcomplete ((completeAt_ends hid he).trans (if_pos (by simpa using hserved)))
    · exact hcomplete ((completeAt_ends hid he).trans (if_neg (by simpa using hfree)))
  case write =>
    refine ⟨fun hby howner => execIcuSrcWrite_refused (.inl (not_or.2 ⟨hby, howner⟩)),
      fun _ hnamed => execIcuSrcWrite_refused (.inr hnamed), fun hown hnamed hcheck => ⟨fun hcore => ?_, fun hsvp => ?_,
        fun hnone => ?_⟩⟩
    · exact execIcuSrcWrite_does hown hnamed hcheck (srcTargeted_core hcore)
    · exact execIcuSrcWrite_does hown hnamed hcheck (srcTargeted_svp hsvp)
    · exact execIcuSrcWrite_does hown hnamed hcheck (srcTargeted_none hnone)
  case stranded =>
    intro n tgt hcand hlost hstr t
    have hstrands := execIcuStrandedTimeout_strands hcand hlost hstr
    exact ⟨fun hset => hstrands.trans (congrArg _ (if_pos hset)),
      fun hclear => hstrands.trans (congrArg _ (if_neg (Bool.eq_false_iff.1 hclear)))⟩

end Sys2Proof.Proofs
end

section
/-!
PROOFS. Fuses over a step (R477, R481, R484, R486): every count of blown fuses grows with them, and with it what the counts give.
-/

namespace Sys2Proof.Proofs

open Sys2Proof.Machine Sys2Proof.Laws

/-- Each group that is blown gives its state at least. -/
theorem lt_groupState {s : State} {f : Nat} (hf : f ≤ 4) (hset : s.fuseSet f = true) : f < s.groupState := by
  unfold State.groupState
  interval_cases f <;> simp only [hset, if_true] <;> grind

/-- What the groups give is the state of one that is blown, or the first state. -/
theorem groupState_cases (s : State) : s.groupState = 0 ∨ ∃ f ≤ 4, s.fuseSet f = true ∧ s.groupState = f + 1 := by
  rw [State.groupState]
  grind

section Blown
variable {s t : State} (h : ∀ i, s.fuse i = true → t.fuse i = true)
include h

theorem fuses_filter_length_le (l : List Nat) : (l.filter s.fuse).length ≤ (l.filter t.fuse).length :=
  (List.monotone_filter_right l h).length_le

theorem rollback_le_of_fuses (c : Nat) : s.rollback c ≤ t.rollback c := fuses_filter_length_le h _

theorem fuseSet_of_fuses (f : Nat) (hset : s.fuseSet f = true) : t.fuseSet f = true :=
  decide_eq_true ((of_decide_eq_true hset).trans (fuses_filter_length_le h _))

theorem groupState_le_of_fuses : s.groupState ≤ t.groupState := by
  rcases groupState_cases s with hzero | ⟨f, hf, hset, hstate⟩
  · exact hzero.trans_le (Nat.zero_le _)
  · exact hstate.trans_le (lt_groupState hf (fuseSet_of_fuses h f hset))

end Blown

/-- Settles O58: a step keeps every blown fuse, and the groups, the counters and the revocations count blown fuses. -/
theorem blownFusesStayBlown : Obligations.BlownFusesStayBlown := by
  unfold Obligations.BlownFusesStayBlown
  intro s t hstep
  have hfuse : ∀ i, s.fuse i = true → t.fuse i = true := (step_keeps hstep).fuses
  exact ⟨hfuse, rollback_le_of_fuses hfuse, fun f _ => fuseSet_of_fuses hfuse f, groupState_le_of_fuses hfuse,
    fun k _ => fuseSet_of_fuses hfuse (0x08 + k)⟩

end Sys2Proof.Proofs
end

section
/-!
PROOFS. Register words and cores that an update leaves alone, as the statements about the safety island and later ones read them.
-/

namespace Sys2Proof.Proofs

open Sys2Proof.Machine Sys2Proof.Laws

/-! ### Registers apart -/

/-- The addresses of the words of copy (i, j) of a register. -/
abbrev regWords (r : RegDef) (i j : Nat) : List Nat := if r.wide then [r.addr i j, r.addr i j + 4] else [r.addr i j]

/-- No word of copy (i, j) of `r` is a word of copy (k, l) of `q`. -/
abbrev Apart (r : RegDef) (i j : Nat) (q : RegDef) (k l : Nat) : Prop := ∀ a ∈ regWords q k l, a ∉ regWords r i j

theorem word_setReg_apart {r : RegDef} {i j a : Nat} (h : a ∉ regWords r i j) (s : State) (v : Nat) :
    (s.setReg r v i j).word a = s.word a := by
  refine word_setReg_other _ _ _ _ _ _ (fun hlow => h ?_) (fun hwide hhigh => h ?_)
  · cases hw : r.wide <;> simp [regWords, hw, hlow]
  · simp [regWords, hwide, hhigh]

/-- A register is read from its own words. -/
theorem reg_of_words {s t : State} {r : RegDef} {i j : Nat} (h : ∀ a ∈ regWords r i j, t.word a = s.word a) :
    t.reg r i j = s.reg r i j := by
  rw [State.reg, State.reg]
  cases hw : r.wide
  · exact h _ (by simp [regWords, hw])
  · simp only [if_true, h (r.addr i j) (by simp [regWords, hw]), h (r.addr i j + 4) (by simp [regWords, hw])]

theorem reg_setReg_apart {r q : RegDef} {i j k l : Nat} (h : Apart r i j q k l) (s : State) (v : Nat) :
    (s.setReg r v i j).reg q k l = s.reg q k l :=
  reg_of_words fun a ha => word_setReg_apart (h a ha) s v

section Puts
variable {f g : Fld} {i j k l : Nat} (h : Apart f.reg i j g.reg k l) (s : State) (v : Nat)
include h

theorem get_put_apart : (s.put f v i j).get g k l = s.get g k l := by
  rw [State.get, State.put, reg_setReg_apart h, State.get]

theorem flag_put_apart : (s.put f v i j).flag g k l = s.flag g k l := by
  rw [State.flag, get_put_apart h, State.flag]

theorem bitOf_put_apart (b : Nat) : (s.put f v i j).bitOf g b k l = s.bitOf g b k l := by
  rw [State.bitOf, get_put_apart h, State.bitOf]

end Puts

end Sys2Proof.Proofs
end

section
/-!
PROOFS. Decisions of the fault collection unit (R422 to R431): the reaction to a fault, the order of a batch, what one fault does,
and the cores in a safe state.
-/

namespace Sys2Proof.Proofs

open Sys2Proof.Machine Sys2Proof.Laws

/-! ### Cores in a safe state -/

theorem writeBytes_cores : ∀ (l : List Byte) (a : Nat) (s : State), (s.writeBytes a l).cores = s.cores
  | [], _, _ => rfl
  | _ :: l, _, _ => (writeBytes_cores l _ _).trans (writeMem_cores ..)

theorem ringPut_cores (major : Nat) (m : WciMsg) (seat : Nat) (s : State) : (ringPut major m seat s).cores = s.cores := by
  unfold ringPut announce
  simp only [raiseSrc_cores, put_cores, writeBytes_cores, writeMem_cores]
  exact ite_cores rfl rfl

theorem sendMsg_cores (m : WciMsg) (s : State) : (sendMsg m s).cores = s.cores := by
  unfold sendMsg
  extract_lets major
  split
  · exact ringPut_cores ..
  · rfl
  · exact ite_cores rfl rfl

theorem respond_cores (m : WciMsg) (s : State) : (respond m s).cores = s.cores := sendMsg_cores ..

theorem foldl_cores {α : Type} {f : State → α → State} (hf : ∀ t x, (f t x).cores = t.cores) :
    ∀ (l : List α) (s : State), (l.foldl f s).cores = s.cores
  | [], _ => rfl
  | x :: l, s => (foldl_cores hf l (f s x)).trans (hf s x)

theorem abortCommands_cores (seat : Nat) (s : State) : (abortCommands seat s).cores = s.cores := by
  refine (put_cores ..).trans (foldl_cores (fun t j => ?_) _ _)
  split
  · exact ite_cores (respond_cores ..) rfl
  · rfl

theorem driveSafe_cores (p : Nat) (s : State) : (driveSafe p s).cores = s.cores :=
  ite_cores rfl (ite_cores ((raiseSrc_cores ..).trans (put_cores ..)) (put_cores ..))

theorem laneStops_cores (n code : Nat) (s : State) : (laneStops n code s).cores = s.cores := by
  unfold laneStops laneSource laneLeaves
  refine ite_cores ?_ ?_
  all_goals simp [releaseTokens, dropStaged]

theorem dropFrames_cores (seat : Nat) (s : State) : (dropFrames seat s).cores = s.cores :=
  (put_cores ..).trans (put_cores ..)

theorem core_mapCores (s : State) (p : CoreId → Bool) (f : Core → Core) (k : CoreId) :
    (s.mapCores p f).core k = if p k then f (s.core k) else s.core k := by
  simp [State.mapCores, State.core]

/-- The core with its execution stopped. -/
def safeStopped (c : Core) : Core := { c with run := .stopped, load := none, fillWait := false }

theorem enterSeatSafe_core (seat : Nat) (s : State) (k : CoreId) : (enterSeatSafe seat s).core k =
    if (s.core k).seatid = seat ∧ (s.core k).run = .running then safeStopped (s.core k) else s.core k := by
  unfold enterSeatSafe
  extract_lets marked safed stopped laned
  have hsafed : safed.cores = s.cores :=
    (each_cores driveSafe_cores _ _).trans ((put_cores ..).trans (putBit_cores ..))
  have hlaned : laned.cores = stopped.cores := each_cores (fun n t => ite_cores (laneStops_cores ..) rfl) _ _
  rw [core_congr stopped k _ ((abortCommands_cores ..).trans ((dropFrames_cores ..).trans ((putBit_cores ..).trans hlaned))),
    core_mapCores, core_congr s k safed hsafed]
  simp only [Bool.and_eq_true, beq_iff_eq]
  rfl

theorem enterSeatSafe_stops {seat : Nat} {s : State} {k : CoreId} (h : (s.core k).seatid = seat) :
    ((enterSeatSafe seat s).core k).run ≠ .running := by
  rw [enterSeatSafe_core]
  split
  case isTrue => exact nofun
  case isFalse hnot => exact fun hrun => hnot ⟨h, hrun⟩

theorem enterSeatSafe_other {seat : Nat} {s : State} {k : CoreId} (h : (s.core k).seatid ≠ seat) :
    (enterSeatSafe seat s).core k = s.core k := by
  rw [enterSeatSafe_core, if_neg fun hboth => h hboth.1]

theorem enterSeatSafe_seatid (seat : Nat) (s : State) (k : CoreId) :
    ((enterSeatSafe seat s).core k).seatid = (s.core k).seatid := by
  rw [enterSeatSafe_core]
  split <;> rfl

theorem enterSeatSafe_stays {seat : Nat} {s : State} {k : CoreId} (h : (s.core k).run ≠ .running) :
    (enterSeatSafe seat s).core k = s.core k := by
  rw [enterSeatSafe_core, if_neg fun hboth => h hboth.2]

theorem each_enterSeatSafe_stays {k : CoreId} : ∀ (l : List Nat) {s : State}, (s.core k).run ≠ .running →
    ((s.each l enterSeatSafe).core k).run ≠ .running
  | [], _, h => h
  | _ :: l, _, h => each_enterSeatSafe_stays l (by rwa [enterSeatSafe_stays h])

/-- A core of any seat that enters its safe state does not run afterwards. -/
theorem each_enterSeatSafe_stops {k : CoreId} {l : List Nat} {s : State} (h : (s.core k).seatid ∈ l) :
    ((s.each l enterSeatSafe).core k).run ≠ .running := by
  induction l generalizing s with
  | nil => exact absurd h List.not_mem_nil
  | cons seat l ih =>
    by_cases hseat : (s.core k).seatid = seat
    · exact each_enterSeatSafe_stays l (enterSeatSafe_stops hseat)
    · refine ih ?_
      rw [enterSeatSafe_seatid]
      exact (List.mem_cons.1 h).resolve_left hseat

theorem enterDeviceSafe_stops {code : Nat} {s : State} {k : CoreId} (hsafe : ∀ seat ∈ customerSeats, s.seatSafe seat = false)
    (hseat : (s.core k).seatid ∈ customerSeats) : ((enterDeviceSafe code s).core k).run ≠ .running := by
  unfold enterDeviceSafe
  extract_lets t u
  have hfilter : customerSeats.filter (fun seat => !t.seatSafe seat) = customerSeats := by
    refine List.filter_eq_self.2 fun seat hmem => ?_
    have hkept : t.seatSafe seat = s.seatSafe seat := by
      simp only [t, State.seatSafe]
      rw [bitOf_put_apart (by decide), bitOf_put_apart (by decide)]
    rw [hkept, hsafe seat hmem]
    rfl
  rw [core_congr u k _ (each_cores driveSafe_cores _ _)]
  simp only [u, hfilter]
  refine each_enterSeatSafe_stops ?_
  rwa [core_congr s k t ((put_cores ..).trans (put_cores ..))]

/-! ### Reactions -/

/-- R424, R427: the codes whose reaction is the device safe state. -/
def CallsForDevice (code : Nat) : Prop := code = 0x09 ∨ 0x20 ≤ code ∧ code ≤ 0x29

theorem deviceCode_iff {code : Nat} : deviceCode code = true ↔ CallsForDevice code := by
  simp [deviceCode, CallsForDevice]

section Reaction
variable {f : FaultLine} {s : State} (htest : f.test = false)
include htest

theorem reactionOf_device (hcode : CallsForDevice f.code) : s.reactionOf f = 3 := by
  simp [State.reactionOf, htest, deviceCode_iff.2 hcode, reactDevice]

section Policy
variable (hcode : ¬ CallsForDevice f.code)
include hcode

theorem reactionOf_seatZero (hseat : f.seat = 0) : s.reactionOf f = 0 := by
  simp [State.reactionOf, htest, mt deviceCode_iff.1 hcode, hseat, reactLog]

theorem reactionOf_byClass (hseat : f.seat ≠ 0) : s.reactionOf f = if f.code = 0x18 then 1 else
    match faultClass f.code with
    | none => 0
    | some c => if c ≤ 2 && decide (slice (s.reg SFI_POL f.seat) (2 * c) 2 = 0) then 1
        else slice (s.reg SFI_POL f.seat) (2 * c) 2 := by
  rw [State.reactionOf, htest, if_neg (by simp), if_neg (mt deviceCode_iff.1 hcode), if_neg hseat]
  rfl

theorem reactionOf_welfen (hseat : f.seat ≠ 0) (h18 : f.code = 0x18) : s.reactionOf f = 1 := by
  rw [reactionOf_byClass htest hcode hseat, if_pos h18]

theorem reactionOf_policy {c : Nat} (hseat : f.seat ≠ 0) (hclass : faultClass f.code = some c) :
    f.code ≠ 0x18 ∧ s.reactionOf f = if c ≤ 2 ∧ s.reg SFI_POL f.seat / 2 ^ (2 * c) % 4 = 0 then 1
      else s.reg SFI_POL f.seat / 2 ^ (2 * c) % 4 := by
  have h18 : f.code ≠ 0x18 := fun h => by simp [h, faultClass] at hclass
  refine ⟨h18, ?_⟩
  rw [reactionOf_byClass htest hcode hseat, if_neg h18, hclass]
  simp only [Bool.and_eq_true, decide_eq_true_eq]
  rfl

end Policy
end Reaction

/-! ### A batch in ascending code order -/

theorem faultInsert_perm (f : FaultLine) : ∀ l : List FaultLine, (faultInsert f l).Perm (f :: l)
  | [] => .refl _
  | g :: l => by
    rw [faultInsert]
    split
    · exact .refl _
    · exact ((faultInsert_perm f l).cons g).trans (.swap f g l)

theorem faultInsert_ascends (f : FaultLine) : ∀ {l : List FaultLine}, l.Pairwise (fun f g => f.code ≤ g.code) →
    (faultInsert f l).Pairwise (fun f g => f.code ≤ g.code)
  | [], _ => List.pairwise_singleton _ _
  | g :: l, h => by
    obtain ⟨hg, hl⟩ := List.pairwise_cons.1 h
    rw [faultInsert]
    split
    case isTrue hlt =>
      exact .cons (List.forall_mem_cons.2 ⟨hlt.le, fun x hx => hlt.le.trans (hg x hx)⟩) h
    case isFalse hle =>
      refine .cons (fun x hx => ?_) (faultInsert_ascends f hl)
      rcases List.mem_cons.1 ((faultInsert_perm f l).mem_iff.1 hx) with rfl | hx
      · exact Nat.not_lt.1 hle
      · exact hg x hx

theorem foldl_faultInsert_perm : ∀ l m : List FaultLine, (l.foldl (fun l f => faultInsert f l) m).Perm (l ++ m)
  | [], _ => .refl _
  | f :: l, m => (foldl_faultInsert_perm l _).trans (((faultInsert_perm f m).append_left l).trans List.perm_middle)

theorem foldl_faultInsert_ascends : ∀ (l : List FaultLine) {m : List FaultLine}, m.Pairwise (fun f g => f.code ≤ g.code) →
    (l.foldl (fun l f => faultInsert f l) m).Pairwise (fun f g => f.code ≤ g.code)
  | [], _, h => h
  | f :: l, _, h => foldl_faultInsert_ascends l (faultInsert_ascends f h)

/-! ### One fault -/

section Single
variable {f : FaultLine} {s : State}

/-- The reaction of seat `seat` to the one fault `f`: none in a safe state, none of a seat that is not the fault's. -/
theorem strongest_single (seat : Nat) : ((([f].filter (fun f => f.seat == seat)).map s.reactionOf).foldl max reactLog) =
    if f.seat = seat then s.reactionOf f else 0 := by
  by_cases h : f.seat = seat <;> simp [h, reactLog]

/-- The seats that enter their safe state for one fault: its own, if any. -/
theorem filter_single {p : Nat → Bool} {n : Nat} (hp : ∀ m, p m = true ↔ m = n) (hn : n ∈ customerSeats) :
    customerSeats.filter p = [n] := by
  rw [List.filter_congr (q := fun m => decide (m = n)) fun m _ => by rw [Bool.eq_iff_iff, hp, decide_eq_true_iff]]
  clear hp
  revert n
  decide

variable (htest : f.test = false)
include htest

theorem decideFaults_device (hreact : s.reactionOf f = 3) :
    decideFaults [f] s = raiseSrc 220 (
      let t := accountFault f 3 (if s.flag SFI_STAT_DSAFE then s else enterDeviceSafe f.code s)
      if f.code = 0x22 ∨ f.code = 0x23 then { t.put SFI_STAT_SVPSTOP 1 with svp := .held } else t) := by
  simp [decideFaults, faultInsert, hreact, reactDevice, htest, srcSfi]

variable (hstop : f.code ≠ 0x22) (hstop' : f.code ≠ 0x23)
include hstop hstop'

theorem decideFaults_seat {r : Nat} (hreact : s.reactionOf f = r) (hr : r = 1 ∨ r = 2) (hseat : f.seat ∈ customerSeats)
    (hdevice : s.flag SFI_STAT_DSAFE = false) (hsafe : s.seatSafe f.seat = false) :
    decideFaults [f] s = raiseSrc 220 (accountFault f r (enterSeatSafe f.seat s)) := by
  have hr3 : (r == 3) = false := by rcases hr with rfl | rfl <;> rfl
  have hr0 : 1 ≤ r := by omega
  have hseats := filter_single (n := f.seat) (p := fun seat => decide (reactSafe ≤ if (s.flag SFI_STAT_DSAFE || s.seatSafe seat) = true
      then reactLog else if f.seat = seat then s.reactionOf f else 0)) fun m => by
    by_cases hm : m = f.seat
    · simp [hm, hdevice, hsafe, hreact, reactSafe, hr0]
    · simp [hm, Ne.symm hm, reactSafe, reactLog]
  replace hseats := hseats hseat
  simp only [decideFaults, List.foldl_cons, List.foldl_nil, faultInsert, strongest_single, hseats]
  simp [hreact, reactDevice, hr3, htest, hstop, hstop', hdevice, hsafe, State.each, srcSfi]

theorem decideFaults_log (hreact : s.reactionOf f < 3)
    (h : s.reactionOf f = 0 ∨ s.flag SFI_STAT_DSAFE = true ∨ s.seatSafe f.seat = true) :
    decideFaults [f] s = raiseSrc 220 (accountFault f 0 s) := by
  have hr3 : (s.reactionOf f == 3) = false := by simp [hreact.ne]
  have hnone (seat : Nat) : (if (s.flag SFI_STAT_DSAFE || s.seatSafe seat) = true
      then reactLog else if f.seat = seat then s.reactionOf f else 0) = 0 := by
    by_cases hseat : f.seat = seat
    · rcases h with h | h | h
      · simp [h, reactLog]
      · simp [h, reactLog]
      · simp [← hseat, h, reactLog]
    · simp [hseat, reactLog]
  simp only [decideFaults, List.foldl_cons, List.foldl_nil, faultInsert, strongest_single, hnone]
  simp [reactDevice, hr3, htest, hstop, hstop', reactSafe, State.each, srcSfi]

end Single

theorem execFcuDecision_some {n : Nat} {agree : Bool} {s : State} (h : s.faults.take n ≠ []) :
    exec (.fcuDecision n agree) s = .next (decideFaults
      (if agree then s.faults.take n else s.faults.take n ++ [⟨0x28, 0, 0, 0, false, false⟩])
      { s with faults := s.faults.drop n }) :=
  if_neg (mt List.length_eq_zero_iff.1 h)

/-- Settles O38: the reaction by the branches of the policy, one fault by its reaction, and the cores that a safe state stops. -/
theorem faultDecisions : Obligations.FaultDecisions := by
  unfold Obligations.FaultDecisions
  refine ⟨fun f s htest => ⟨reactionOf_device htest, fun hcode => ⟨reactionOf_seatZero htest hcode,
      reactionOf_welfen htest hcode, fun hseat c => reactionOf_policy htest hcode hseat⟩⟩,
    fun l => ⟨?order, foldl_faultInsert_ascends l .nil⟩,
    fun n s h => ⟨execFcuDecision_some h, execFcuDecision_some h⟩,
    fun f s htest h22 h23 => ?one, fun f s htest hcode hdevice => ?stops,
    fun seat s k _ _ => ⟨enterSeatSafe_stops, enterSeatSafe_other⟩,
    fun code s k _ hsafe hseat => enterDeviceSafe_stops hsafe hseat,
    fun f r s => ⟨fun h => if_pos h, fun h => if_neg (Nat.not_le.2 h)⟩⟩
  case order => simpa using foldl_faultInsert_perm l []
  case one =>
    refine ⟨fun hr hdevice => ?_, fun hr hdevice => ?_, fun hr hlo hhi hdevice hsafe => ?_, decideFaults_log htest h22 h23⟩
    · rw [decideFaults_device htest hr]
      simp [hdevice, h22, h23]
    · rw [decideFaults_device htest hr]
      simp [hdevice, h22, h23]
    · refine decideFaults_seat htest h22 h23 rfl hr ?_ hdevice hsafe
      interval_cases f.seat <;> decide
  case stops =>
    have hreact : s.reactionOf f = 3 := reactionOf_device htest (.inr (by omega))
    rw [decideFaults_device htest hreact]
    simp [hdevice, hcode]

end Sys2Proof.Proofs
end

section
/-!
PROOFS. Monitors, watchdogs, writes of the control registers of the safety island, and fault injection (R433 to R444, R470).
-/

namespace Sys2Proof.Proofs

open Sys2Proof.Machine Sys2Proof.Laws

/-! ### Monitors -/

theorem execClockMonitorWindow_eq (counts lock : Bool) (s : State) :
    let bad := if counts = true ∨ s.flag PWC_STAT_PFBUSY = true then 0 else s.clockBad + 1
    let t := { s with clockBad := bad }
    exec (.clockMonitorWindow counts lock) s = .next (if 2 ≤ bad ∨ lock = false then clockFault t else t) := by
  show execClockMonitorWindow counts lock s = _
  simp only [execClockMonitorWindow, Bool.or_eq_true, Bool.not_eq_true', decide_eq_true_eq]

/-- R437: TWARN by the highest reading, set above its threshold and cleared 5 degrees below it. -/
def warned (v : Int) (t : State) : State :=
  if (t.twarn : Int) < v ∧ t.flag SFI_MON_TWARN = false then
    noteManager 0x0F13 0 [] (reportFault 0x30 0 0 0 (t.put SFI_MON_TWARN 1))
  else if t.flag SFI_MON_TWARN = true ∧ v + 5 ≤ (t.twarn : Int) then noteManager 0x0F13 0 [] (t.put SFI_MON_TWARN 0) else t

theorem warned_eq (v : Int) (t : State) : warned v t =
    if (t.twarn : Int) < v && !t.flag SFI_MON_TWARN then
      noteManager 0x0F13 0 [] (reportFault 0x30 0 0 0 (t.put SFI_MON_TWARN 1))
    else if t.flag SFI_MON_TWARN && v + 5 ≤ (t.twarn : Int) then noteManager 0x0F13 0 [] (t.put SFI_MON_TWARN 0) else t := by
  simp only [warned, Bool.and_eq_true, Bool.not_eq_true', decide_eq_true_eq]

/-- R437: a reading above TCRIT counts, and the second one in a row reports fault 0x26. -/
def criticalCounted (v : Int) (u : State) : State :=
  let hot := decide ((u.tcrit : Int) < v)
  let w := u.put SFI_MON_TCRIT (bit hot)
  let t := { w with critSamples := if hot then w.critSamples + 1 else 0 }
  if t.critSamples = 2 then reportFault 0x26 0 0 0 t else t

theorem execTemperatureSample_eq (v : BitVec 8) (s : State) :
    exec (.temperatureSample v) s = .next (criticalCounted v.toInt (warned v.toInt (s.put SFI_MON_TEMP v.toNat))) := by
  rw [warned_eq]
  rfl

theorem criticalCounted_eq (v : Int) (u : State) :
    let hot := (u.tcrit : Int) < v
    let w := u.put SFI_MON_TCRIT (if hot then 1 else 0)
    let n := if hot then w.critSamples + 1 else 0
    criticalCounted v u = if n = 2 then reportFault 0x26 0 0 0 { w with critSamples := n } else { w with critSamples := n } := by
  by_cases hot : (u.tcrit : Int) < v <;> simp [criticalCounted, hot, bit]

/-! ### Watchdogs -/

theorem toNat_eq_kickKey {key : BitVec 8} : key.toNat = 0xC5 ↔ key = 0xC5 := by
  rw [← BitVec.toNat_inj]
  rfl

section Watchdogs
variable {by_ : Seat} {n : CoreId} {seat : Seat} {key : BitVec 8} {v : Word32} {s : State}

section Own
variable (hown : by_ = 0 ∨ by_.val = s.coreOwner n.val)
include hown

theorem execWatchdogKick_core : exec (.watchdogKick by_ (.core n) key) s =
    .next ((cwdKick n.val key.toNat s).answer (.ok 0)) := if_pos (framePasses_own by_ _ hown)

theorem execWatchdogEnable_core : exec (.watchdogEnable by_ (.core n) v) s =
    .next ((cwdConfig by_.val n.val v.toNat s).answer (.ok 0)) := if_pos (framePasses_own by_ _ hown)

end Own

theorem seatFrame_passes (hown : by_ = 0 ∨ by_ = seat) : framePasses by_.val seat.val = true :=
  framePasses_own by_ _ (hown.imp_right (congrArg Fin.val))

section OwnSeat
variable (hseat : seat ≠ 0) (hown : by_ = 0 ∨ by_ = seat)
include hseat hown

theorem execWatchdogKick_seat : exec (.watchdogKick by_ (.seat seat) key) s =
    .next ((swdKick seat.val key.toNat s).answer (.ok 0)) :=
  (if_neg hseat).trans (if_pos (seatFrame_passes hown))

theorem execWatchdogEnable_seat : exec (.watchdogEnable by_ (.seat seat) v) s =
    .next ((swdConfig by_.val seat.val v.toNat s).answer (.ok 0)) :=
  (if_neg hseat).trans (if_pos (seatFrame_passes hown))

end OwnSeat

theorem execWatchdogKick_foreign (hby : by_ ≠ 0) (howner : by_.val ≠ s.coreOwner n.val) :
    exec (.watchdogKick by_ (.core n) key) s =
      .next ((seatViolation by_.val true (0x20080104 + by_.val * 0x1000 + n.val * 0x10) s).answer .error) := by
  have haddr : cwdAddr by_.val n.val 4 = 0x20080104 + by_.val * 0x1000 + n.val * 0x10 := by rw [cwdAddr]; omega
  refine (if_neg (by simp [framePasses_other by_ _ hby howner])).trans ?_
  rw [wdogRefused, haddr]

end Watchdogs

section Kicks
variable {n key : Nat} {s : State}

theorem cwdKick_reloads (h : s.cwdCounts n = true) :
    cwdKick n 0xC5 s = s.put SFI_CWDCNT_COUNT (max 1024 (s.get SFI_CWDCFG_RELOAD n)) n := by
  simp [cwdKick, h, State.cwdReload]

theorem cwdKick_wrongKey (h : s.cwdCounts n = true) (hkey : key ≠ 0xC5) : cwdKick n key s = cwdFault n s := by
  simp [cwdKick, h, hkey]

theorem cwdKick_stopped (h : s.cwdCounts n = false) : cwdKick n key s = s := by simp [cwdKick, h]

theorem swdKick_reloads (h : s.swdCounts n = true) (hopen : s.get SFI_SWDCNT_COUNT n ≤ s.get SFI_SWDWIN_OPEN n) :
    swdKick n 0xC5 s = s.put SFI_SWDCNT_COUNT (max 1024 (s.get SFI_SWDCFG_RELOAD n)) n := by
  simp [swdKick, h, hopen, State.swdReload]

theorem swdKick_wrong (h : s.swdCounts n = true)
    (hwrong : key ≠ 0xC5 ∨ ¬ s.get SFI_SWDCNT_COUNT n ≤ s.get SFI_SWDWIN_OPEN n) : swdKick n key s = swdFault n s := by
  have hno : ¬ (key = 0xC5 ∧ s.get SFI_SWDCNT_COUNT n ≤ s.get SFI_SWDWIN_OPEN n) := not_and_or.2 hwrong
  simp [swdKick, h, hno]

theorem swdKick_stopped (h : s.swdCounts n = false) : swdKick n key s = s := by simp [swdKick, h]

theorem cwdConfig_eq (by_ v : Nat) : let cw := writeFields by_ SFI_CWDCFG n 0 v 0xFFFFFFFF s
    cwdConfig by_ n v s = if cw.flag SFI_CWDCFG_EN n = true ∧ s.flag SFI_CWDCFG_EN n = false
      then cw.put SFI_CWDCNT_COUNT (cw.cwdReload n) n else cw := by
  simp only [cwdConfig, Bool.and_eq_true, Bool.not_eq_true']

theorem swdConfig_eq (by_ v : Nat) : let sw := writeFields by_ SFI_SWDCFG n 0 v 0xFFFFFFFF s
    swdConfig by_ n v s = if sw.flag SFI_SWDCFG_EN n = true ∧ s.flag SFI_SWDCFG_EN n = false
      then sw.put SFI_SWDCNT_COUNT (sw.swdReload n) n else sw := by
  simp only [swdConfig, Bool.and_eq_true, Bool.not_eq_true']

end Kicks

theorem execWatchdogExpiry_core {n : CoreId} {s : State} (h : s.cwdCounts n.val = true) :
    exec (.watchdogExpiry (.core n)) s = .next (cwdFault n.val (s.put SFI_CWDCNT_COUNT 0 n.val)) := if_pos h

theorem execWatchdogExpiry_seat {seat : Seat} {s : State} (hseat : seat ≠ 0) (h : s.swdCounts seat.val = true) :
    exec (.watchdogExpiry (.seat seat)) s = .next (swdFault seat.val (s.put SFI_SWDCNT_COUNT 0 seat.val)) :=
  if_pos (by simp [hseat, h])

theorem svpKick_wrongKey {key : Nat} (h : key ≠ 0xC5) (s : State) : svpKick key s = reportFault 0x23 0 0 0 s := if_neg h

/-! ### Control registers -/

/-- R470: RELEASE takes no write in recovery, in PROVISION and in END. -/
def ReleaseBarred (s : State) : Prop := s.flag BOOT_STAT_RECOV = true ∨ s.lifeCycle = lcProvision ∨ s.lifeCycle = lcEnd

theorem releaseBarred_iff {s : State} :
    (s.flag BOOT_STAT_RECOV || s.lifeCycle == lcProvision || s.lifeCycle == lcEnd) = true ↔ ReleaseBarred s := by
  simp [ReleaseBarred, or_assoc]

theorem sfiCtlWrite_barred {s : State} (h : ReleaseBarred s) (v : Word32) :
    sfiCtlWrite v.toNat s = writeFields 0 SFI_CTL 0 0 (v &&& ~~~(1#32 <<< 31)).toNat 0xFFFFFFFF s := by
  rw [sfiCtlWrite, if_pos (releaseBarred_iff.2 h), sub_and_bit]

theorem sfiCtlWrite_free {s : State} (h : ¬ ReleaseBarred s) (v : Nat) :
    sfiCtlWrite v s = writeFields 0 SFI_CTL 0 0 v 0xFFFFFFFF s := by
  rw [sfiCtlWrite, if_neg (mt releaseBarred_iff.1 h)]

theorem bit_eq_zero {b : Bool} : bit b = 0 ↔ b = false := by cases b <;> simp [bit]

theorem clearLog_eq (v : Word32) (s : State) : clearLog v.toNat s =
    if v.getLsbD 31 then
      (((List.range 16).foldl (fun t n => (t.resetInst SFI_FLOG n).resetInst SFI_FLOGT n) s).put SFI_FLOGIDX_NEXT 0).put
        SFI_STAT_LOST 0
    else s := by
  rw [clearLog, slice_bit]
  cases v.getLsbD 31 <;> rfl

theorem controlWrite_customer {by_ : Seat} (h : by_ ≠ 0) (key : BitVec 8) (v : Word32) (s : State) {c : Instr}
    (hc : c ∈ [Instr.svpKick by_ key, .sfiRelease by_ v, .faultInject by_ v, .faultLogClear by_ v]) :
    exec c s = .next (s.answer .error) := by
  simp only [List.mem_cons, List.not_mem_nil, or_false] at hc
  rcases hc with rfl | rfl | rfl | rfl
  all_goals exact pageWrite_customer h _ s

/-! ### Injection -/

/-- R443: the write injects a fault. -/
def Injects (v : Word32) (s : State) : Prop :=
  v.getLsbD 31 = true ∧ (s.seatLocked = false ∨ s.openLife = true) ∧ faultListed (v.toNat % 256) = true

theorem notInjects_iff {v : Word32} {s : State} :
    (slice v.toNat 31 1 = 0 || (s.seatLocked && !s.openLife) || !faultListed (slice v.toNat 0 8)) = true ↔ ¬ Injects v s := by
  rw [slice_bit]
  simp only [Injects, slice, pow_zero, Nat.div_one, Bool.or_eq_true, decide_eq_true_eq, bit_eq_zero, Bool.and_eq_true,
    Bool.not_eq_true', not_and_or, not_or, Bool.not_eq_true, Bool.not_eq_false, or_assoc]
  rfl

/-- A line of a comparing pair is raised only where the pair is locked, and stops it unless it is a test. -/
def injectAt (code unit : Nat) (test : Bool) (s : State) : State :=
  if code = 0x01 then
    if unit < 16 ∧ s.pairLocked unit = true then
      let w := s.draw.2
      let kind := 1 + s.draw.1.toNat % 7
      let t := if test then w else pairStops unit kind w
      { t with faults := t.faults ++ [⟨code, w.injectOwner code unit, unit, kind, true, test⟩] }
    else s
  else if code = 0x02 then
    if unit < 32 ∧ s.lanePairLocked unit = true then
      let t := if test then s else lanePairStops unit s
      { t with faults := t.faults ++ [⟨code, s.laneOwner (2 * unit), unit, 0, true, test⟩] }
    else s
  else { s with faults := s.faults ++ [⟨code, s.injectOwner code unit, unit, 0, true, test⟩] }

theorem execFaultInject_not {v : Word32} {s : State} (h : ¬ Injects v s) :
    exec (.faultInject 0 v) s = .next (s.answer (.ok 0)) :=
  (pageWrite_seatZero _ s).trans (congrArg (fun t : State => Host.Outcome.next (t.answer (.ok 0)))
    (if_pos (notInjects_iff.2 h)))

theorem injectOwner_lanePair (unit : Nat) (s : State) : s.injectOwner 0x02 unit = s.laneOwner (2 * unit) := by
  simp [State.injectOwner]

theorem injectFault_eq {v : Word32} {s : State} (h : Injects v s) :
    injectFault v.toNat s = injectAt (v.toNat % 256) (v.toNat / 2 ^ 16 % 256) (v.getLsbD 30) s := by
  have htest : (slice v.toNat 30 1 == 1) = v.getLsbD 30 := by rw [slice_bit]; cases v.getLsbD 30 <;> rfl
  have hcode : slice v.toNat 0 8 = v.toNat % 256 := by simp [slice]
  have hunit : slice v.toNat 16 8 = v.toNat / 2 ^ 16 % 256 := rfl
  rw [injectFault, if_neg (not_not.2 h ∘ notInjects_iff.1), htest, hcode, hunit, injectAt]
  generalize v.toNat / 2 ^ 16 % 256 = unit
  split
  case isTrue => simp only [Bool.and_eq_true, decide_eq_true_eq]
  case isFalse =>
    split
    case isTrue h2 =>
      rw [h2, injectOwner_lanePair]
      simp only [Bool.and_eq_true, decide_eq_true_eq]
    case isFalse => rfl

theorem execFaultInject_at {v : Word32} {s t : State} (h : Injects v s)
    (ht : injectAt (v.toNat % 256) (v.toNat / 2 ^ 16 % 256) (v.getLsbD 30) s = t) :
    exec (.faultInject 0 v) s = .next (t.answer (.ok 0)) :=
  (pageWrite_seatZero _ s).trans (congrArg (fun t : State => Host.Outcome.next (t.answer (.ok 0)))
    ((injectFault_eq h).trans ht))

section Injected
variable {code unit : Nat} {test : Bool} {s : State}

theorem injectAt_line (h1 : code ≠ 1) (h2 : code ≠ 2) : injectAt code unit test s =
    { s with faults := s.faults ++ [⟨code, s.injectOwner code unit, unit, 0, true, test⟩] } :=
  (if_neg h1).trans (if_neg h2)

theorem injectAt_lanePair (h2 : code = 2) (h : unit < 32 ∧ s.lanePairLocked unit = true) :
    let t := if test then s else lanePairStops unit s
    injectAt code unit test s = { t with faults := t.faults ++ [⟨2, s.laneOwner (2 * unit), unit, 0, true, test⟩] } := by
  subst h2
  exact if_pos h

theorem injectAt_noLanePair (h2 : code = 2) (h : ¬ (unit < 32 ∧ s.lanePairLocked unit = true)) :
    injectAt code unit test s = s := h2 ▸ if_neg h

theorem injectAt_pair (h1 : code = 1) (h : unit < 16 ∧ s.pairLocked unit = true) :
    let w := s.draw.2
    let kind := 1 + s.draw.1.toNat % 7
    let t := if test then w else pairStops unit kind w
    injectAt code unit test s = { t with faults := t.faults ++ [⟨1, w.injectOwner 1 unit, unit, kind, true, test⟩] } := by
  subst h1
  exact if_pos h

theorem injectAt_noPair (h1 : code = 1) (h : ¬ (unit < 16 ∧ s.pairLocked unit = true)) :
    injectAt code unit test s = s := h1 ▸ if_neg h

end Injected

/-- Settles O39: each monitor by its own equation, a watchdog by its frame and by whether it counts, and an injection by its code. -/
theorem monitorsAndWatchdogs : Obligations.MonitorsAndWatchdogs := by
  unfold Obligations.MonitorsAndWatchdogs
  refine ⟨fun a b s => rfl, fun counts lock rail s => ⟨execClockMonitorWindow_eq counts lock s, rfl, rfl, rfl⟩,
    fun v s => ?temperature, fun by_ n seat key v s hseat => ⟨fun hown => ?core, fun hown => ?seat, execWatchdogExpiry_core,
      execWatchdogExpiry_seat hseat, execWatchdogKick_foreign⟩,
    fun n s => ⟨rfl, rfl⟩, fun key v s => ⟨rfl, rfl, fun hkey => ?svp, fun hfree => ?free, fun hbarred => ?barred, ?clear⟩,
    fun by_ key v s hby c hc => controlWrite_customer hby key v s hc, fun v s => ⟨fun hnot => ?silent, fun hwrite hopen hlisted => ?inject⟩⟩
  case temperature =>
    rw [execTemperatureSample_eq, criticalCounted_eq]
    rfl
  case core =>
    refine ⟨fun hcounts => ⟨?_, fun hkey => ?_⟩, fun hstopped => ?_, ?_⟩
    · rw [execWatchdogKick_core hown]
      exact congrArg (fun t : State => Host.Outcome.next (t.answer (.ok 0))) (cwdKick_reloads hcounts)
    · rw [execWatchdogKick_core hown, cwdKick_wrongKey hcounts (mt toNat_eq_kickKey.1 hkey)]
    · rw [execWatchdogKick_core hown, cwdKick_stopped hstopped]
    · rw [execWatchdogEnable_core hown, cwdConfig_eq]
  case seat =>
    refine ⟨fun hcounts => ⟨fun hkey hinside => ?_, fun hwrong => ?_⟩, fun hstopped => ?_, ?_⟩
    · rw [execWatchdogKick_seat hseat hown, toNat_eq_kickKey.2 hkey, swdKick_reloads hcounts hinside]
    · rw [execWatchdogKick_seat hseat hown, swdKick_wrong hcounts (hwrong.imp_left (mt toNat_eq_kickKey.1))]
    · rw [execWatchdogKick_seat hseat hown, swdKick_stopped hstopped]
    · rw [execWatchdogEnable_seat hseat hown, swdConfig_eq]
  case svp => exact (pageWrite_seatZero _ s).trans (by rw [svpKick_wrongKey (mt toNat_eq_kickKey.1 hkey)])
  case free => exact (pageWrite_seatZero _ s).trans (by rw [sfiCtlWrite_free hfree])
  case barred => exact (pageWrite_seatZero _ s).trans (by rw [sfiCtlWrite_barred hbarred])
  case clear => exact (pageWrite_seatZero _ s).trans (by rw [clearLog_eq])
  case silent =>
    refine execFaultInject_not ?_
    rintro ⟨hbit, hopen, hlisted⟩
    rcases hnot with h | ⟨hlocked, hclosed⟩ | h
    · exact Bool.false_ne_true (h.symm.trans hbit)
    · simp [hlocked, hclosed] at hopen
    · simp [h] at hlisted
  case inject =>
    have hinj : Injects v s := ⟨hwrite, hopen, hlisted⟩
    exact ⟨fun h1 h2 => execFaultInject_at hinj (injectAt_line h1 h2),
      fun h2 => ⟨fun hunit hpair => execFaultInject_at hinj (injectAt_lanePair h2 ⟨hunit, hpair⟩),
        fun hno => execFaultInject_at hinj (injectAt_noLanePair h2 hno)⟩,
      fun h1 hno => execFaultInject_at hinj (injectAt_noPair h1 hno),
      fun h1 hunit hpair => ⟨1 + s.draw.1.toNat % 7, by omega, by omega,
        execFaultInject_at hinj (injectAt_pair h1 ⟨hunit, hpair⟩)⟩⟩

end Sys2Proof.Proofs
end

section
/-!
PROOFS. Start-up and the choice of an image (R448 to R463, R472 to R474, R480): the check of stage 0, its region, the candidates,
recovery, and the erasures.
-/

namespace Sys2Proof.Proofs

open Sys2Proof.Machine Sys2Proof.Laws

/-! ### The check of stage 0 -/

section Stage0
variable {s : State}

/-- R450: the hash of the stage-0 region is the one that the fuses hold. -/
def stage0Good (s : State) : Bool := s.fieldGood 0x40 && Config.shake256 32 s.stage0Bytes == s.fuseBytes 0x40

/-- BNV may check stage 0: the service processor is held and nothing has failed. -/
structure ChecksStage0 (s : State) : Prop where
  device : s.device = .on
  svp : s.svp = .held
  safe : s.flag SFI_STAT_DSAFE = false
  reason : s.get BOOT_STAT_REASON ≠ 0x32

variable (h : ChecksStage0 s)
include h

theorem execStage0Check_eq : exec .stage0Check s =
    let written := s.fuseWritten.contains 0x40
    let t := (s.put BNV_STAT_S0CHK (bit written)).put BNV_STAT_S0OK (bit (written && stage0Good s))
    if written && !stage0Good s then .next (t.put BOOT_STAT_REASON 0x32)
    else .next { milestone 0 0 t with svp := .stage0, svpCount := max 1024 (t.get SFI_SVPWD_RELOAD) } := by
  obtain ⟨hdevice, hsvp, hsafe, hreason⟩ := h
  exact if_neg (by simp [hdevice, hsvp, hsafe, hreason])

theorem execStage0Check_fails (hwritten : 0x40 ∈ s.fuseWritten) (hbad : stage0Good s = false) : exec .stage0Check s =
    .next (((s.put BNV_STAT_S0CHK 1).put BNV_STAT_S0OK 0).put BOOT_STAT_REASON 0x32) := by
  rw [execStage0Check_eq h, List.contains_iff_mem.2 hwritten, hbad]
  rfl

theorem execStage0Check_releases {ok : Bool}
    (hok : (0x40 ∈ s.fuseWritten ∧ stage0Good s = true ∧ ok = true) ∨ (0x40 ∉ s.fuseWritten ∧ ok = false)) :
    let t := (s.put BNV_STAT_S0CHK (bit ok)).put BNV_STAT_S0OK (bit ok)
    exec .stage0Check s = .next { milestone 0 0 t with svp := .stage0, svpCount := max 1024 (t.get SFI_SVPWD_RELOAD) } := by
  rw [execStage0Check_eq h]
  rcases hok with ⟨hwritten, hgood, rfl⟩ | ⟨hblank, rfl⟩
  · rw [List.contains_iff_mem.2 hwritten, hgood]
    rfl
  · rw [Bool.eq_false_iff.2 (mt List.contains_iff_mem.1 hblank)]
    rfl

end Stage0

section Region
variable {by_ : Seat} {a : BitVec 19} {v : Byte} {s : State}

theorem execStage0WriteReject_customer (h : by_ ≠ 0) : exec (.stage0WriteReject by_ a v) s = .next (s.answer .error) :=
  if_pos h

theorem execStage0WriteReject_locked (h : s.flag BNV_STAT_S0LOCK = true) :
    exec (.stage0WriteReject 0 a v) s = .next ((s.countUp BNV_STAT_WREJ).answer .error) := by
  show execStage0WriteReject 0 a v s = _
  simp only [execStage0WriteReject, bnvWrite, h, and_true, if_pos a.isLt]
  rfl

theorem execStage0WriteReject_open (h : s.flag BNV_STAT_S0LOCK = false) :
    exec (.stage0WriteReject 0 a v) s = .next ((s.writeMem (0x04000000 + a.toNat) 1 v.toNat).answer (.ok 0)) := by
  show execStage0WriteReject 0 a v s = _
  simp only [execStage0WriteReject, bnvWrite, h, Bool.false_eq_true, and_false, if_false]
  rfl

end Region

/-! ### The choice -/

section Choice
variable {e : Vector Bool 2} {s : State}

/-- Stage 0 is about to choose an image: no slot has been checked and nothing has to be erased. -/
structure Chooses (s : State) : Prop where
  svp : s.svp = .stage0
  start : s.get BOOT_STAT_MS = 0
  image : s.image = none
  unchecked : s.flag BOOT_SLOT_CHECKED 0 = false
  kept : s.mustErase = false

/-- R461: of the slots that are candidates, with their SEQ, the one that is started. -/
def chooseSlot (a b : Bool) (qa qb : Nat) (t : State) : Result :=
  if a && b then
    if qa = qb then .next (startSlot 0 (t.put BOOT_STAT_TIE 1)) else .next (startSlot (if qa < qb then 1 else 0) t)
  else if a then .next (startSlot 0 t)
  else if b then .next (startSlot 1 t)
  else .next (t.put BOOT_STAT_REASON (t.get BOOT_SLOT_REASON 0))

theorem execSlotSelect_end (h : Chooses s) (hend : s.lifeCycle = lcEnd) :
    exec (.slotSelect e) s = .next (stopAtEnd s) := by
  obtain ⟨hsvp, hstart, himage, hunchecked, hkept⟩ := h
  exact (if_neg (by simp [hsvp, hstart, himage, hunchecked, hkept])).trans (if_pos hend)

theorem execSlotSelect_chooses (h : Chooses s) (hend : s.lifeCycle ≠ lcEnd) :
    let t := slotRecord 1 e[1] (slotRecord 0 e[0] s)
    exec (.slotSelect e) s = chooseSlot (t.flag BOOT_SLOT_CAND 0) (t.flag BOOT_SLOT_CAND 1) (t.get BOOT_SEQ_SEQ 0)
      (t.get BOOT_SEQ_SEQ 1) t := by
  obtain ⟨hsvp, hstart, himage, hunchecked, hkept⟩ := h
  exact (if_neg (by simp [hsvp, hstart, himage, hunchecked, hkept])).trans (if_neg hend)

end Choice

section Candidates
variable {a b : Bool} {qa qb : Nat} {t : State}

theorem chooseSlot_first (ha : a = true) (hb : b = false ∨ qb < qa) : chooseSlot a b qa qb t = .next (startSlot 0 t) := by
  rcases hb with hb | hlt
  · simp [chooseSlot, ha, hb]
  · cases b
    · simp [chooseSlot, ha]
    · simp [chooseSlot, ha, hlt.ne', hlt.asymm]

theorem chooseSlot_second (hb : b = true) (ha : a = false ∨ qa < qb) : chooseSlot a b qa qb t = .next (startSlot 1 t) := by
  rcases ha with ha | hlt
  · simp [chooseSlot, ha, hb]
  · cases a
    · simp [chooseSlot, hb]
    · simp [chooseSlot, hb, hlt.ne, hlt]

theorem chooseSlot_tie (ha : a = true) (hb : b = true) (hq : qa = qb) :
    chooseSlot a b qa qb t = .next (startSlot 0 (t.put BOOT_STAT_TIE 1)) := by simp [chooseSlot, ha, hb, hq]

theorem chooseSlot_none (ha : a = false) (hb : b = false) :
    chooseSlot a b qa qb t = .next (t.put BOOT_STAT_REASON (t.get BOOT_SLOT_REASON 0)) := by simp [chooseSlot, ha, hb]

end Candidates

/-! ### A slot that is no candidate -/

section Slot
variable {slot : Nat} {err : Bool} {s : State}

theorem slotReason_unreadable : s.slotReason slot true = some 0x01 := rfl

theorem slotReason_manifest {r : Nat} (h : manifestCheck false (s.slotManifest slot) s = some r) :
    s.slotReason slot false = some r := by
  simp only [State.slotReason, h, Bool.false_eq_true, if_false]

theorem slotReason_none (h : s.slotReason slot err = none) : err = false ∧
    manifestCheck false (s.slotManifest slot) s = none ∧
    (s.bootRecord slot (bytesAt (s.slotManifest slot) 0x10 4)).1 ≠ 3 ∧
    (s.bootRecord slot (bytesAt (s.slotManifest slot) 0x10 4)).2 < 3 := by
  cases err
  case true => simp [slotReason_unreadable] at h
  case false =>
    cases hcheck : manifestCheck false (s.slotManifest slot) s with
    | some r => simp [slotReason_manifest hcheck] at h
    | none =>
      simp only [State.slotReason, hcheck, Bool.false_eq_true, if_false] at h
      split_ifs at h with hwelfen hrecord
      simpa [hcheck] using hrecord

/-- What an image manifest that passes its checks holds (R454, R458). -/
theorem manifestCheck_none {m : List Byte} (h : manifestCheck false m s = none) :
    bytesAt m 0 4 = 0x4D495A55 ∧ bytesAt m 4 2 = 1 ∧ signerAllowed s.lifeCycle (bytesAt m 0x15 1) = true ∧
      (s.countersChecked = true → s.rollback 2 ≤ bytesAt m 0x14 1) := by
  simp only [manifestCheck, Bool.false_eq_true, if_false] at h
  cases hsigned : s.signedCheck (bytesAt m 0x15 1) ((m.drop 0x20).take 57) ctxUZIM (m.take (manifestLen m - 114))
      (m.drop (manifestLen m - 114)) with
  | some r =>
    rw [hsigned] at h
    split_ifs at h
  | none =>
    rw [hsigned] at h
    split_ifs at h with hmagic hversion hform hcounter hsigner
    simp only [Bool.and_eq_true, decide_eq_true_eq, not_and, Nat.not_lt] at hcounter
    exact ⟨not_not.1 hmagic, not_not.1 hversion, by simpa using hsigner, hcounter⟩

end Slot

/-! ### Recovery and erasure -/

section Recovery
variable {s : State}

theorem execMsxEnter_enters (hsvp : s.svp = .stage0) (hms : s.get BOOT_STAT_MS = 0) (himage : s.image = none)
    (ha : s.flag BOOT_SLOT_CHECKED 0 = true) (hb : s.flag BOOT_SLOT_CHECKED 1 = true) :
    exec .msxEnter s = .next (enterMsx s) := if_pos (by simp [hsvp, hms, himage, ha, hb])

theorem execNoimageRepeat_sends (hsvp : s.svp = .stage0) (hms : s.get BOOT_STAT_MS = 0xF) :
    exec .noimageRepeat s = .next (noteManager 0x0F11 0 s.noImage s) :=
  congrArg Host.Outcome.next (if_pos (by simp [hsvp, hms]))

theorem execRecoveryStart_starts {im : BootImage} (himage : s.image = some im) (hrec : im.recovery = true)
    (hsvp : s.svp = .stage0) (hms : s.get BOOT_STAT_MS = 0xF) (hdone : ∀ c ∈ im.comps, c.done = true) :
    exec .recoveryStart s = .next (welfenRuns
      ((if im.commit = true ∧ s.countersChecked = true then fuseTry 3 0x33 im.secver s else s).put BOOT_STAT_RECOV 1)) := by
  have hall : im.comps.all BootComp.done = true := List.all_eq_true.2 hdone
  show execRecoveryStart s = _
  simp only [execRecoveryStart, himage, hrec, hsvp, hms, hall, Bool.and_eq_true]
  rfl

/-- Stage 0 performs the erasure that the life-cycle state asks for. -/
structure Erases (s : State) : Prop where
  svp : s.svp = .stage0
  start : s.get BOOT_STAT_MS = 0
  unchecked : s.flag BOOT_SLOT_CHECKED 0 = false
  due : s.mustErase = true
  safe : s.fuseUnsafe = false

/-- R480: revoke the key slots `revoke`, destroy the fields `destroy`, and erase the persistent words from `from_`, boot NVM and
the flash devices. -/
def wiped (revoke destroy : List Nat) (from_ : Nat) (s : State) : State :=
  let t := destroy.foldl (fun t f => fuseTry 4 f 0 t) (revoke.foldl (fun t k => fuseTry 2 (8 + k) 0 t) s)
  let t := (prsErase from_ t).zeroMem 0x04080000 0xF80000
  { (t.flashErase 0).flashErase 1 with faultStore := [], faultLost := 0 }

theorem execErasure_eq (h : Erases s) : exec .erasure s = .next (if s.lifeCycle == lcEnd then
      stopAtEnd (fuseTry 2 6 0 (wiped (List.range 9) [0x51, 0x50, 0x41, 0x42, 0x43, 0x44, 0x45, 0x46, 0x47, 0x48, 0x49] 0 s))
    else fuseTry 2 5 0 (wiped [1, 2, 3, 4, 5, 6, 7, 8] [0x51] 4 s)) := by
  obtain ⟨hsvp, hstart, hunchecked, hdue, hsafe⟩ := h
  refine (if_neg (by simp [hsvp, hstart, hunchecked, hdue, hsafe])).trans ?_
  simp only [wiped, State.each]
  cases s.lifeCycle == lcEnd
  · simp only [Bool.false_eq_true, if_false]
  · simp only [if_true]

end Recovery

/-- Settles O40: the check of stage 0 by what the fuses hold, the choice by the two candidates, and the rest by what allows it. -/
theorem startUpAndImageChoice : Obligations.StartUpAndImageChoice := by
  unfold Obligations.StartUpAndImageChoice
  refine ⟨fun s hdevice hsvp hsafe hreason => ?check,
    fun by_ a v s => ⟨execStage0WriteReject_customer, execStage0WriteReject_locked, execStage0WriteReject_open⟩,
    fun e s hsvp hstart himage hunchecked hkept => ?choice, fun slot err s => ?slot,
    fun s => ⟨execMsxEnter_enters, execNoimageRepeat_sends, fun im => execRecoveryStart_starts,
      fun hsvp hstart hunchecked hdue hsafe => ?erase⟩⟩
  case check =>
    have h : ChecksStage0 s := ⟨hdevice, hsvp, hsafe, hreason⟩
    exact ⟨execStage0Check_fails h, fun ok => execStage0Check_releases h⟩
  case choice =>
    have h : Chooses s := ⟨hsvp, hstart, himage, hunchecked, hkept⟩
    refine ⟨execSlotSelect_end h, fun hend => ?_⟩
    rw [execSlotSelect_chooses h hend]
    exact ⟨chooseSlot_first, chooseSlot_second, chooseSlot_tie, chooseSlot_none⟩
  case slot =>
    refine ⟨fun herr => by rw [herr, slotReason_unreadable], fun r hr herr => by rw [herr, slotReason_manifest hr],
      fun hnone => ?_⟩
    obtain ⟨herr, hcheck, hstate, hatt⟩ := slotReason_none hnone
    obtain ⟨hmagic, hversion, hsigner, hcounter⟩ := manifestCheck_none hcheck
    exact ⟨herr, hcheck, hmagic, hversion, hsigner, hcounter, hstate, hatt⟩
  case erase =>
    have h : Erases s := ⟨hsvp, hstart, hunchecked, hdue, hsafe⟩
    exact ⟨fun hreturn => by rw [execErasure_eq h, hreturn]; rfl, fun hend => by rw [execErasure_eq h, hend]; rfl⟩

end Sys2Proof.Proofs
end

section
/-!
PROOFS. Loading an image (R463 to R471): a hash list, a block, the milestones MS3 and MS4, and what a failure does.
-/

namespace Sys2Proof.Proofs

open Sys2Proof.Machine Sys2Proof.Laws

/-! ### A component of the image -/

section Component
variable {s : State} {im : BootImage} {c : BootComp} {i : Nat}

theorem comp_mapComp (h : s.comp i = some c) (f : BootComp → BootComp) : (s.mapComp i f).comp i = some (f c) := by
  unfold State.comp at h
  cases himage : s.image with
  | none => simp [himage] at h
  | some im =>
    rw [himage] at h
    simp [State.comp, State.mapComp, himage, h]

theorem windowOf_of_type (h : s.comp i = some c) (htype : c.type ≠ 4) : s.windowOf i = none := by
  simp [State.windowOf, h, htype]

end Component

theorem writeBytes_image : ∀ (l : List Byte) (a : Nat) (s : State), (s.writeBytes a l).image = s.image
  | [], _, _ => rfl
  | _ :: l, _, _ => (writeBytes_image l _ _).trans (writeMem_image ..)

/-! ### Hash lists and blocks -/

section HashList
variable {i : Fin 32} {err : Bool} {s : State} {im : BootImage} {c : BootComp}

/-- The load engine may read the hash list of component i. -/
structure ReadsHashes (i : Fin 32) (s : State) (im : BootImage) (c : BootComp) : Prop where
  image : s.image = some im
  comp : s.comp i.val = some c
  normal : im.recovery = false
  none : c.hashes = none
  loadable : s.loadable i.val = true

/-- The hash list of a component as it stands in the slot (R463). -/
def hashList (s : State) (im : BootImage) (c : BootComp) : List Byte := s.flashBytes im.slot c.hlOff (32 * c.nb)

variable (h : ReadsHashes i s im c)
include h

theorem execHashListCheck_eq : exec (.hashListCheck i err) s =
    if err || Config.shake256 64 (hashList s im c) != c.hlHash then .next (compFails i.val 0x11 s)
    else if c.type = 4 && !s.rangeOwned c.seat c.dest c.nb then .next (compFails i.val 0x17 s)
    else .next (loadBusy (s.mapComp i.val (fun d => { d with hashes := some (hashList s im c) }))) := by
  obtain ⟨himage, hcomp, hnormal, hnone, hload⟩ := h
  show execHashListCheck i err s = _
  simp only [execHashListCheck, hashList, himage, hcomp, hnormal, hnone, hload, Option.isSome_none, Bool.not_true,
    Bool.or_self, Bool.false_eq_true, if_false]
  rfl

theorem execHashListCheck_fails (hbad : err = true ∨ Config.shake256 64 (hashList s im c) ≠ c.hlHash) :
    exec (.hashListCheck i err) s = .next (compFails i.val 0x11 s) := by
  rw [execHashListCheck_eq h, if_pos (by simpa using hbad)]

theorem execHashListCheck_foreign (herr : err = false) (hgood : Config.shake256 64 (hashList s im c) = c.hlHash)
    (htype : c.type = 4) (hrange : s.rangeOwned c.seat c.dest c.nb = false) :
    exec (.hashListCheck i err) s = .next (compFails i.val 0x17 s) := by
  rw [execHashListCheck_eq h, if_neg (by simp [herr, hgood]), if_pos (by simp [htype, hrange])]

theorem execHashListCheck_passes (herr : err = false) (hgood : Config.shake256 64 (hashList s im c) = c.hlHash)
    (hrange : c.type ≠ 4 ∨ s.rangeOwned c.seat c.dest c.nb = true) : exec (.hashListCheck i err) s =
      .next (loadBusy (s.mapComp i.val (fun d => { d with hashes := some (hashList s im c) }))) := by
  rw [execHashListCheck_eq h, if_neg (by simp [herr, hgood]),
    if_neg (by simpa [or_iff_not_imp_left] using hrange)]

end HashList

section Block
variable {i x : Fin 32} {err : Bool} {s : State} {im : BootImage} {c : BootComp}

/-- The load engine may load the next block of component i. -/
structure LoadsBlock (i : Fin 32) (s : State) (im : BootImage) (c : BootComp) : Prop where
  image : s.image = some im
  comp : s.comp i.val = some c
  normal : im.recovery = false
  hashes : c.hashes ≠ none
  more : c.blocks < c.nb
  loadable : s.loadable i.val = true
  gate : c.type ≠ 4 ∨ s.memGate 0 (c.dest + c.blocks * 4096) = .ok

/-- The next block of a component as it stands in the slot. -/
def nextBlock (s : State) (im : BootImage) (c : BootComp) : List Byte :=
  padBlock (s.flashBytes im.slot (c.start + c.blocks * 4096) (min 4096 (c.length - c.blocks * 4096)))

/-- The state behind a block that has passed: counted, and in memory where it is a seat image's. -/
def blockPassed (i : Nat) (s : State) (im : BootImage) (c : BootComp) : State :=
  let t := s.mapComp i (fun d => { d with blocks := c.blocks + 1 })
  if c.type = 4 then t.writeBytes (c.dest + c.blocks * 4096) (nextBlock s im c) else t

/-- The window of a seat image shows the block. -/
def windowAdvanced (i n : Nat) (s : State) : State :=
  match s.windowOf i with
  | some w => s.put BOOT_LWVBLK_VBLK n w
  | none => s

variable (h : LoadsBlock i s im c)
include h

theorem execLoadBlockVerify_eq : exec (.loadBlockVerify i err x) s =
    if err || !blockGood c c.blocks (nextBlock s im c) then
      .next (loadBusy (compFails i.val (if c.type = 3 then 0x14 else 0x12) s))
    else
      let u := loadBusy (windowAdvanced i.val (c.blocks + 1) (blockPassed i.val s im c))
      if c.blocks + 1 < c.nb then .next u
      else if c.type = 1 then .next (reachMs2 u)
      else if c.type = 3 && u.manifestComps.all (fun p => p.2.done) then .next (manifestsLoaded im.slot x.val u)
      else .next u := by
  obtain ⟨himage, hcomp, hnormal, hhashes, hmore, hload, hgate⟩ := h
  show execLoadBlockVerify i err x s = _
  simp only [execLoadBlockVerify, himage, hcomp]
  refine if_neg ?_
  rcases hgate with htype | hgate
  · simp [hnormal, hhashes, hmore, hload, htype]
  · simp [hnormal, hhashes, hmore, hload, hgate]

theorem execLoadBlockVerify_fails (hbad : err = true ∨ blockGood c c.blocks (nextBlock s im c) = false) :
    exec (.loadBlockVerify i err x) s = .next (loadBusy (compFails i.val (if c.type = 3 then 0x14 else 0x12) s)) := by
  rw [execLoadBlockVerify_eq h, if_pos (by simpa using hbad)]

theorem blockPassed_comp : (blockPassed i.val s im c).comp i.val = some { c with blocks := c.blocks + 1 } := by
  have hcomp := comp_mapComp h.comp (fun d => { d with blocks := c.blocks + 1 })
  unfold blockPassed
  dsimp only
  split
  · rw [State.comp, writeBytes_image]
    exact hcomp
  · exact hcomp

/-- Only the window of a seat image advances. -/
theorem windowAdvanced_of_type (htype : c.type ≠ 4) (n : Nat) :
    windowAdvanced i.val n (blockPassed i.val s im c) = blockPassed i.val s im c := by
  rw [windowAdvanced, windowOf_of_type (blockPassed_comp h) htype]

section Good
variable (herr : err = false) (hgood : blockGood c c.blocks (nextBlock s im c) = true)
include herr hgood

theorem execLoadBlockVerify_window {w : Nat} (hw : (blockPassed i.val s im c).windowOf i.val = some w)
    (hmore : c.blocks + 1 < c.nb) : exec (.loadBlockVerify i err x) s =
      .next (loadBusy ((blockPassed i.val s im c).put BOOT_LWVBLK_VBLK (c.blocks + 1) w)) := by
  rw [execLoadBlockVerify_eq h, if_neg (by simp [herr, hgood])]
  simp only [windowAdvanced, hw, if_pos hmore]

theorem execLoadBlockVerify_more (htype : c.type ≠ 4) (hmore : c.blocks + 1 < c.nb) :
    exec (.loadBlockVerify i err x) s = .next (loadBusy (blockPassed i.val s im c)) := by
  rw [execLoadBlockVerify_eq h, if_neg (by simp [herr, hgood])]
  simp only [windowAdvanced_of_type h htype, if_pos hmore]

theorem execLoadBlockVerify_welfen (htype : c.type = 1) (hlast : c.blocks + 1 = c.nb) :
    exec (.loadBlockVerify i err x) s = .next (reachMs2 (loadBusy (blockPassed i.val s im c))) := by
  rw [execLoadBlockVerify_eq h, if_neg (by simp [herr, hgood])]
  simp only [windowAdvanced_of_type h (htype.trans_ne (by decide)), if_neg hlast.not_lt, if_pos htype]

theorem execLoadBlockVerify_manifests (htype : c.type = 3) (hlast : c.blocks + 1 = c.nb)
    (hdone : ∀ p ∈ (loadBusy (blockPassed i.val s im c)).manifestComps, p.2.done = true) :
    exec (.loadBlockVerify i err x) s =
      .next (manifestsLoaded im.slot x.val (loadBusy (blockPassed i.val s im c))) := by
  have hall : (loadBusy (blockPassed i.val s im c)).manifestComps.all (fun p => p.2.done) = true := List.all_eq_true.2 hdone
  rw [execLoadBlockVerify_eq h, if_neg (by simp [herr, hgood])]
  simp only [windowAdvanced_of_type h (htype.trans_ne (by decide)), if_neg hlast.not_lt,
    htype, hall, decide_true, Bool.and_self, if_true]
  exact if_neg (by decide)

end Good
end Block

/-! ### MS3 and MS4 -/

theorem execMs3Release_ready {patch : BitVec 8} {s : State} (h : s.ms3Ready = true) :
    let t := s.put MCS_STAT_PATCHVER patch.toNat
    exec (.ms3Release patch) s = .next (noteManager 0x0F10 0 [3] (releaseCores (fun _ => true) (milestone 3 3
      { t with image := t.image.map (fun im => { im with patchVer := patch.toNat }) }))) := if_neg (by simp [h])

/-- The image of this start is loaded whole, in a life-cycle state that runs customer images. -/
structure ReachesMs4 (s : State) (im : BootImage) : Prop where
  image : s.image = some im
  normal : im.recovery = false
  svp : s.svp = .welfen
  ms3 : s.get BOOT_STAT_MS = 3
  notProvision : s.lifeCycle ≠ lcProvision
  notEnd : s.lifeCycle ≠ lcEnd
  done : ∀ c ∈ im.comps, c.done = true

/-- R469: the boot record says that the image has run. -/
def bootRecorded (im : BootImage) (s : State) : State :=
  prsPut (2 * im.slot + 1) (2 ^ 31 + s.prs (2 * im.slot + 1) / 2 ^ 8 % 256 * 0x100) s

/-- The rollback counters that the image is ahead of. -/
def aheadCounters (im : BootImage) (s : State) : List (Nat × Nat) :=
  [(0, im.welfenVer), (1, im.patchVer), (2, im.secver)].filter (fun p => decide (s.rollback p.1 < p.2))

/-- R486: an image that commits raises them. -/
def countersRaised (im : BootImage) (s : State) : State :=
  if im.commit = true ∧ s.countersChecked = true ∧ aheadCounters im s ≠ [] then
    (aheadCounters im s).foldl (fun t p => fuseTry 3 (0x30 + p.1) p.2 t) (s.put BOOT_STAT_RBADV 1) else s

/-- The load windows are closed and the host queues released. -/
def queuesReleased (s : State) : State :=
  customerSeats.foldl (fun t n => t.put ETHSW_HQSTAT_HOLD 0 n) ((List.range 16).foldl (fun t w => t.put BOOT_LWBASE_EN 0 w) s)

/-- The gate is released at MS4, and the manager told. -/
def ms4Released (t : State) : State :=
  noteManager 0x0F10 0 [4] (milestone 4 4 (sfiCtlWrite (t.reg SFI_CTL % 2 ^ 31 + 2 ^ 31) t))

theorem countersRaised_eq (im : BootImage) (s : State) : countersRaised im s =
    if im.commit && s.countersChecked && (aheadCounters im s).length != 0 then
      (aheadCounters im s).foldl (fun t p => fuseTry 3 (0x30 + p.1) p.2 t) (s.put BOOT_STAT_RBADV 1) else s := by
  simp only [countersRaised, Bool.and_eq_true, bne_iff_ne, ne_eq, List.length_eq_zero_iff, and_assoc]

theorem execMs4Reached_reaches {s : State} {im : BootImage} (h : ReachesMs4 s im) :
    exec .ms4Reached s = .next (ms4Released (queuesReleased (countersRaised im (bootRecorded im s)))) := by
  obtain ⟨himage, hnormal, hsvp, hms, hprov, hend, hdone⟩ := h
  have hall : im.comps.all BootComp.done = true := List.all_eq_true.2 hdone
  show execMs4Reached s = _
  rw [countersRaised_eq]
  simp only [execMs4Reached, himage]
  exact if_neg (by simp [hnormal, hsvp, hms, hprov, hend, hall])

/-! ### Failures -/

/-- A failure that is recorded where none stands yet. -/
theorem recordFailure_eq (slot r i seat : Nat) (s : State) :
    let t := ((s.put BOOT_STAT_REASON r).put BOOT_STAT_COMP i).put BOOT_STAT_SEAT seat
    let u := if s.get BOOT_STAT_REASON = 0 then t else s
    let st := s.prs (2 * slot + 1)
    recordFailure slot r i seat s = if st / 2 ^ 8 % 256 = 0 then prsPut (2 * slot + 1) (withSlice st 8 8 r) u else u := by
  intro t u st
  have hprs : u.prs (2 * slot + 1) = st := by
    refine readMem_congr _ _ fun b _ _ => ?_
    simp only [u]
    split <;> rfl
  show (if slice (u.prs (2 * slot + 1)) 8 8 = 0 then prsPut (2 * slot + 1) (withSlice (u.prs (2 * slot + 1)) 8 8 r) u else u) = _
  rw [hprs]
  rfl

section Failure
variable {r : BitVec 8} {i : Fin 32} {s : State} {im : BootImage}

/-- A failure after the choice of the image has come about. -/
structure Fails (r : Nat) (i : Nat) (s : State) (im : BootImage) : Prop where
  image : s.image = some im
  normal : im.recovery = false
  loading : s.get BOOT_STAT_MS ∈ [1, 2, 3]
  found : s.failureFound r i = true

variable (h : Fails r.toNat i.val s im)
include h

theorem execImageFailure_eq : let p := s.failurePlace r.toNat i.val
    let t := recordFailure im.slot r.toNat p.1 p.2 s
    exec (.imageFailure r i) s = if reasonIsImage r.toNat then
        .next (softReset (noteManager 0x0F10 0 [r] (prsPut (2 * im.slot + 1)
          (withSlice (t.prs (2 * im.slot + 1)) 30 2 3) (customerSeats.foldl (fun t n => seatResetStart n t) t))))
      else if reasonIsHold r.toNat then .next (t.put BOOT_STAT_MS 8) else .next t := by
  obtain ⟨himage, hnormal, hloading, hfound⟩ := h
  show execImageFailure r i s = _
  simp only [execImageFailure, himage]
  refine if_neg ?_
  simp only [List.mem_cons, List.not_mem_nil, or_false] at hloading
  rcases hloading with hms | hms | hms
  all_goals simp [hnormal, hms, hfound]

theorem execImageFailure_image (hlo : 0x11 ≤ r.toNat) (hhi : r.toNat ≤ 0x17) : let p := s.failurePlace r.toNat i.val
    let t := recordFailure im.slot r.toNat p.1 p.2 s
    exec (.imageFailure r i) s = .next (softReset (noteManager 0x0F10 0 [r] (prsPut (2 * im.slot + 1)
      (withSlice (t.prs (2 * im.slot + 1)) 30 2 3) (customerSeats.foldl (fun t n => seatResetStart n t) t)))) := by
  have himage : reasonIsImage r.toNat = true := by interval_cases r.toNat <;> rfl
  rw [execImageFailure_eq h, if_pos himage]

theorem execImageFailure_hold (hr : r = 0x30 ∨ r = 0x31) : let p := s.failurePlace r.toNat i.val
    exec (.imageFailure r i) s = .next ((recordFailure im.slot r.toNat p.1 p.2 s).put BOOT_STAT_MS 8) := by
  have hnot : ¬ reasonIsImage r.toNat = true := by rcases hr with rfl | rfl <;> decide
  have hhold : reasonIsHold r.toNat = true := by rcases hr with rfl | rfl <;> rfl
  rw [execImageFailure_eq h, if_neg hnot, if_pos hhold]

theorem execImageFailure_goesOn (hr : r = 0x20) : let p := s.failurePlace r.toNat i.val
    exec (.imageFailure r i) s = .next (recordFailure im.slot r.toNat p.1 p.2 s) := by
  have hnot : ¬ reasonIsImage r.toNat = true := by subst hr; decide
  have hnotHold : ¬ reasonIsHold r.toNat = true := by subst hr; decide
  rw [execImageFailure_eq h, if_neg hnot, if_neg hnotHold]

end Failure

/-- Settles O41: a list and a block by their checks, the milestones by what they do in turn, and a failure by its class. -/
theorem imageLoading : Obligations.ImageLoading := by
  unfold Obligations.ImageLoading
  refine ⟨fun i err s im c himage hcomp hnormal hnone hload => ?list,
    fun i x err s im c himage hcomp hnormal hhashes hmore hload hgate => ?block, fun patch s => execMs3Release_ready,
    fun s im himage hnormal hsvp hms hprov hend hdone => execMs4Reached_reaches ⟨himage, hnormal, hsvp, hms, hprov, hend, hdone⟩,
    fun r i s im himage hnormal hms hfound => ?failure, recordFailure_eq⟩
  case list =>
    have h : ReadsHashes i s im c := ⟨himage, hcomp, hnormal, hnone, hload⟩
    exact ⟨execHashListCheck_fails h,
      fun herr hgood => ⟨execHashListCheck_foreign h herr hgood, execHashListCheck_passes h herr hgood⟩⟩
  case block =>
    have h : LoadsBlock i s im c := ⟨himage, hcomp, hnormal, hhashes, hmore, hload, hgate⟩
    exact ⟨execLoadBlockVerify_fails h, fun herr hgood => ⟨fun w => execLoadBlockVerify_window h herr hgood,
      execLoadBlockVerify_welfen h herr hgood,
      fun htype => execLoadBlockVerify_more h herr hgood (htype.trans_ne (by decide)),
      execLoadBlockVerify_manifests h herr hgood⟩⟩
  case failure =>
    have h : Fails r.toNat i.val s im := ⟨himage, hnormal, hms, hfound⟩
    exact ⟨execImageFailure_image h, execImageFailure_hold h, execImageFailure_goesOn h⟩

end Sys2Proof.Proofs
end

section
/-!
PROOFS. What a field of a register reads as after a write of it, and of another field of its register.
-/

namespace Sys2Proof.Proofs

open Sys2Proof.Machine Sys2Proof.Laws

section Fields
variable {s : State} {f g : Fld} {i j : Nat} (hs : cellsWf resetWord s.regs = true) (hwide : f.reg.wide = false) (v : Nat)

theorem not_mem_regWords {r : RegDef} {a : Nat} (hr : r.wide = false) (h : a ≠ r.addr i j) : a ∉ regWords r i j := by
  simpa [regWords, hr] using h

theorem word_put_apart {a : Nat} (h : a ∉ regWords f.reg i j) (s : State) : (s.put f v i j).word a = s.word a :=
  word_setReg_apart h s _

include hs hwide

theorem reg_put : (s.put f v i j).reg f.reg i j = withSlice (s.reg f.reg i j) f.lo f.w v % 2 ^ 32 := by
  have hword (t : State) : t.reg f.reg i j = t.word (f.reg.addr i j) := by simp [State.reg, hwide]
  rw [hword, State.put, State.setReg, hwide]
  exact Laws.word_setWord s _ _ hs

theorem get_put_same (hf : f.lo + f.w ≤ 32) : (s.put f v i j).get f i j = v % 2 ^ f.w := by
  rw [State.get, reg_put hs hwide]
  apply Nat.eq_of_testBit_eq
  intro b
  rw [testBit_slice, Nat.testBit_mod_two_pow, testBit_withSlice, Nat.testBit_mod_two_pow]
  by_cases hb : b < f.w
  · simp [hb, show f.lo + b < 32 by omega, show f.lo + b < f.lo + f.w by omega]
  · simp [hb]

theorem get_put_field (hreg : g.reg = f.reg) (hg : g.lo + g.w ≤ 32) (hsep : g.lo + g.w ≤ f.lo ∨ f.lo + f.w ≤ g.lo) :
    (s.put f v i j).get g i j = s.get g i j := by
  rw [State.get, State.get, hreg, reg_put hs hwide]
  apply Nat.eq_of_testBit_eq
  intro b
  rw [testBit_slice, testBit_slice, Nat.testBit_mod_two_pow, testBit_withSlice]
  by_cases hb : b < g.w
  · simp [hb, show g.lo + b < 32 by omega, show ¬ (f.lo ≤ g.lo + b ∧ g.lo + b < f.lo + f.w) by omega]
  · simp [hb]

end Fields

end Sys2Proof.Proofs
end

section
/-!
PROOFS. Supplies and resets (R449, R558, R578 to R582, R605, R613): what a power-on reset and a device reset keep, and the commands
that make them.
-/

namespace Sys2Proof.Proofs

open Sys2Proof.Machine Sys2Proof.Laws

/-! ### What a reset keeps -/

section Reset
variable (keep : Nat → Bool) (s : State)

theorem resetState_word (a : Nat) :
    (Machine.resetState keep s).word a = if keep a then s.word a else (resetWord a).toNat := by
  have hregs : (Machine.resetState keep s).regs = cellClear (fun a => !keep a) s.regs := by
    simp only [Machine.resetState, cellClear, Bool.not_not]
  rw [State.word, hregs, cellGet_cellClear]
  cases keep a <;> rfl

theorem resetState_byte (a : Nat) : (Machine.resetState keep s).byte a = if isBnv a || isPrs a then s.byte a else 0 := by
  have hmem : (Machine.resetState keep s).mem = cellClear (fun a => !(isBnv a || isPrs a)) s.mem := by
    simp only [Machine.resetState, cellClear, Bool.not_not]
  rw [State.byte, hmem, cellGet_cellClear]
  cases isBnv a || isPrs a <;> rfl

theorem resetState_core (k : CoreId) : (Machine.resetState keep s).core k = Core.initial := core_reset k

theorem resetState_fuses : (Machine.resetState keep s).fuses = s.fuses := rfl
theorem resetState_svp : (Machine.resetState keep s).svp = .held := rfl

theorem prsStatKept_fuses : (prsStatKept s).fuses = s.fuses := by rw [prsStatKept, put_fuses, put_fuses]
theorem prsStatKept_svp : (prsStatKept s).svp = s.svp := by rw [prsStatKept, put_svp, put_svp]

end Reset

section PowerOn
variable {f : Fld} (hf : f.reg = PWC_RSTCAUSE)
include hf

/-- The registers that a power-on reset writes are among those that it keeps. -/
theorem powerOnReset_word {a : Nat} (h : a ∉ [PRS_STAT.addr 0 0, PWC_RSTCAUSE.addr 0 0]) (s : State) :
    (powerOnReset f s).word a = if porKeeps a then s.word a else (resetWord a).toNat := by
  simp only [List.mem_cons, List.not_mem_nil, or_false, not_or] at h
  obtain ⟨hprs, hcause⟩ := h
  rw [powerOnReset, prsStatKept, word_put_apart _ (hf ▸ not_mem_regWords rfl hcause),
    word_put_apart _ (not_mem_regWords rfl hprs), word_put_apart _ (not_mem_regWords rfl hprs), resetState_word]

theorem powerOnReset_cleared {a : Nat} (h : porKeeps a = false) (s : State) :
    (powerOnReset f s).word a = (resetWord a).toNat := by
  rw [powerOnReset_word hf, h]
  · rfl
  · intro hmem
    simp only [List.mem_cons, List.not_mem_nil, or_false] at hmem
    rcases hmem with rfl | rfl <;> exact absurd h (by decide)

theorem powerOnReset_debug {a : Nat} (hdbg : inDbgFrame a = true) (h : porKeeps a = true) (s : State) :
    (powerOnReset f s).word a = s.word a := by
  rw [powerOnReset_word hf, h]
  · rfl
  · intro hmem
    simp only [List.mem_cons, List.not_mem_nil, or_false] at hmem
    rcases hmem with rfl | rfl <;> exact absurd hdbg (by decide)

end PowerOn

theorem powerOnReset_byte (f : Fld) (s : State) (a : Nat) :
    (powerOnReset f s).byte a = if isBnv a || isPrs a then s.byte a else 0 := by
  have hmem : (powerOnReset f s).mem = (Machine.resetState porKeeps s).mem := by simp only [powerOnReset, prsStatKept, put_mem]
  rw [State.byte, hmem]
  exact resetState_byte porKeeps s a

theorem powerOnReset_core (f : Fld) (s : State) (k : CoreId) : (powerOnReset f s).core k = Core.initial := by
  rw [powerOnReset, prsStatKept, core_congr _ k _ (put_cores ..), core_congr _ k _ (put_cores ..),
    core_congr _ k _ (put_cores ..), resetState_core]

/-! ### A device reset -/

section FuseLoad
variable (s : State)

theorem fuseLoad_fuses (d : List Nat) : (fuseLoad d s).fuses = s.fuses := by
  unfold fuseLoad
  dsimp only
  split <;> simp only [put_fuses]

theorem fuseLoad_cores (d : List Nat) : (fuseLoad d s).cores = s.cores := by
  unfold fuseLoad
  dsimp only
  split <;> simp only [put_cores]

theorem fuseLoad_svp (d : List Nat) : (fuseLoad d s).svp = s.svp := by
  unfold fuseLoad
  dsimp only
  split <;> simp only [put_svp]

/-- A fuse load writes LCC.STATE, LCC.STAT and BNV.STAT only. -/
theorem fuseLoad_word {a : Nat} (h : a ∉ [LCC_STATE.addr 0 0, LCC_STAT.addr 0 0, BNV_STAT.addr 0 0]) (d : List Nat) :
    (fuseLoad d s).word a = s.word a := by
  simp only [List.mem_cons, List.not_mem_nil, or_false, not_or] at h
  obtain ⟨hstate, hstat, hbnv⟩ := h
  have hstateWords : a ∉ regWords LCC_STATE_STATE.reg 0 0 := not_mem_regWords rfl hstate
  have hstatWords (f : Fld) (hf : f.reg = LCC_STAT) : a ∉ regWords f.reg 0 0 := hf ▸ not_mem_regWords rfl hstat
  have hbnvWords : a ∉ regWords BNV_STAT_S0LOCK.reg 0 0 := not_mem_regWords rfl hbnv
  unfold fuseLoad
  extract_lets bad loaded spoil filled shown
  have hfilled : filled.word a = s.word a := by
    simp only [filled]
    rw [word_put_apart _ (hstatWords _ rfl), word_put_apart _ (hstatWords _ rfl), word_put_apart _ (hstatWords _ rfl),
      word_put_apart _ hstateWords]
    rfl
  have hshown : shown.word a = filled.word a := by
    simp only [shown]
    cases bad <;> exact (word_put_apart _ (hstatWords _ rfl) _).trans (word_put_apart _ (hstatWords _ rfl) _)
  rw [word_put_apart _ hbnvWords, hshown, hfilled]

theorem groupState_congr {s t : State} (h : t.fuses = s.fuses) : t.groupState = s.groupState := by
  have hfuse : t.fuse = s.fuse := funext fun i => by simp only [State.fuse, h]
  have hset (f : Nat) : t.fuseSet f = s.fuseSet f := by rw [State.fuseSet, State.blownIn, hfuse, State.fuseSet, State.blownIn]
  simp only [State.groupState, hset]

theorem groupState_lt (s : State) : s.groupState < 8 := by
  rcases groupState_cases s with hzero | ⟨f, hf, _, hstate⟩ <;> omega

/-- Without damaged fields, LCC.STATE shows the state that the groups give. -/
theorem fuseLoad_state (hs : cellsWf resetWord s.regs = true) :
    (fuseLoad [] s).get LCC_STATE_STATE = s.groupState := by
  have hapart (f : Fld) (hf : f.reg = LCC_STAT) : Apart f.reg 0 0 LCC_STATE_STATE.reg 0 0 := by rw [hf]; decide
  unfold fuseLoad
  extract_lets bad loaded spoil filled shown
  have hshown : shown = (filled.put LCC_STAT_FDMG 0).put LCC_STAT_DMGFLD 0 := rfl
  rw [get_put_apart (by decide), hshown, get_put_apart (hapart _ rfl), get_put_apart (hapart _ rfl)]
  simp only [filled]
  rw [get_put_apart (hapart _ rfl), get_put_apart (hapart _ rfl), get_put_apart (hapart _ rfl),
    get_put_same (s := loaded) hs rfl _ (by decide), groupState_congr (s := s) rfl]
  exact Nat.mod_eq_of_lt (groupState_lt s)

end FuseLoad

theorem deviceKeeps_open {a : Nat} (h : deviceKeeps false a = true) (b : Bool) : deviceKeeps b a = true := by
  simp only [deviceKeeps, Bool.false_and, Bool.or_false] at h
  simp [deviceKeeps, h]

theorem foldl_keeps {α β : Type} (g : State → β) {f : State → α → State} {l : List α} (hf : ∀ x ∈ l, ∀ t, g (f t x) = g t)
    (s : State) : g (l.foldl f s) = g s := by
  induction l generalizing s with
  | nil => rfl
  | cons x l ih => exact (ih (fun y hy => hf y (List.mem_cons_of_mem x hy)) (f s x)).trans (hf x (List.mem_cons_self ..) s)

/-- `t` with the time of `s`: the fraction of TBS_NOW and the phase of the grants. -/
def resumeTime (s t : State) : State := { t with tbsFrac := s.tbsFrac, grantPhase := s.grantPhase }

/-- What a device reset keeps. -/
def keptState (s : State) : State :=
  resumeTime s (prsStatKept
    (Machine.resetState (deviceKeeps (s.lifeCycle == lcMaker || s.lifeCycle == lcDevelopment)) s))

/-- The device safe state and every seat's end. -/
def safeEnded (s : State) : State := customerSeats.foldl (fun u seat => u.put SFI_SSTAT_SAFE 0 seat) (s.put SFI_STAT_DSAFE 0)

theorem deviceReset_eq (f : Fld) (cut : Nat) (d : List Nat) {s : State} (h : s.fuseOp = none) :
    deviceReset f cut d s = deviceOn (fuseLoad d ((safeEnded (keptState s)).put f 1)) := by
  have hcut : fuseOpCut cut s = s := by simp only [fuseOpCut, h]
  rw [deviceReset, hcut, safeEnded, keptState, resumeTime]

section ResumeTime
variable (s t : State)

theorem resumeTime_fuses : (resumeTime s t).fuses = t.fuses := rfl
theorem resumeTime_svp : (resumeTime s t).svp = t.svp := rfl
theorem resumeTime_core (k : CoreId) : (resumeTime s t).core k = t.core k := rfl
theorem resumeTime_word (a : Nat) : (resumeTime s t).word a = t.word a := rfl
theorem resumeTime_carries {z : State} (h : Carries z t) : Carries z (resumeTime s t) := by
  apply Carries.mk_same
  exact h

end ResumeTime

section Kept
variable (s : State)

theorem keptState_fuses : (keptState s).fuses = s.fuses := by
  rw [keptState, resumeTime_fuses, prsStatKept_fuses, resetState_fuses]

theorem keptState_core (k : CoreId) : (keptState s).core k = Core.initial := by
  rw [keptState, resumeTime_core, prsStatKept, core_congr _ k _ (put_cores ..), core_congr _ k _ (put_cores ..),
    resetState_core]

theorem keptState_svp : (keptState s).svp = .held := by
  rw [keptState, resumeTime_svp, prsStatKept_svp, resetState_svp]

theorem keptState_canonical (h : s.Canonical) : (keptState s).Canonical :=
  (resumeTime_carries s _ (prsStatKept_carries _ (resetState_carries _ s (Carries.refl s)))).canonical h

theorem keptState_word {a : Nat} (hk : deviceKeeps false a = true) (h : a ≠ PRS_STAT.addr 0 0) :
    (keptState s).word a = s.word a := by
  have hprs : a ∉ regWords PRS_STAT 0 0 := not_mem_regWords rfl h
  rw [keptState, resumeTime_word, prsStatKept, word_put_apart _ hprs, word_put_apart _ hprs, resetState_word,
    if_pos (deviceKeeps_open hk _)]

theorem mem_customerSeats {seat : Nat} : seat ∈ customerSeats ↔ 0 < seat ∧ seat < 16 := by
  simp only [customerSeats, List.mem_cons, List.not_mem_nil, or_false]
  omega

theorem safeEnded_keeps {β : Type} (g : State → β)
    (hg : ∀ (f : Fld) v i (t : State), f.reg = SFI_STAT ∨ f.reg = SFI_SSTAT → g (t.put f v i) = g t) : g (safeEnded s) = g s :=
  (foldl_keeps g (fun seat _ t => hg _ _ seat t (.inr rfl)) _).trans (hg _ _ 0 s (.inl rfl))

theorem safeEnded_word {a : Nat} (h : a ≠ SFI_STAT.addr 0 0) (hseat : ∀ i, 0 < i → i < 16 → a ≠ SFI_SSTAT.addr i 0) :
    (safeEnded s).word a = s.word a := by
  have hput : ∀ i ∈ customerSeats, ∀ t : State, (t.put SFI_SSTAT_SAFE 0 i).word a = t.word a := fun i hi t =>
    word_put_apart _ (not_mem_regWords rfl (hseat i (mem_customerSeats.mp hi).1 (mem_customerSeats.mp hi).2)) t
  rw [safeEnded, foldl_keeps (·.word a) hput, word_put_apart _ (not_mem_regWords rfl h)]

theorem safeEnded_canonical (h : s.Canonical) : (safeEnded s).Canonical := by
  refine (foldl_carries _ (fun t i ht => ?_) _ _ ?_).canonical h
  · exact put_carries _ _ _ _ _ ht
  · exact put_carries _ _ _ _ _ (Carries.refl s)

theorem safeEnded_safe (h : cellsWf resetWord s.regs = true) : (safeEnded s).get SFI_STAT_DSAFE = 0 := by
  have hseat : ∀ i ∈ customerSeats, ∀ t : State, (t.put SFI_SSTAT_SAFE 0 i).get SFI_STAT_DSAFE = t.get SFI_STAT_DSAFE :=
    fun i hi t => get_put_apart (by revert i; decide) t 0
  rw [safeEnded, foldl_keeps (·.get SFI_STAT_DSAFE) hseat, get_put_same h rfl _ (by decide)]
  rfl

end Kept

theorem deviceOn_fuses (s : State) : (deviceOn s).fuses = s.fuses := put_fuses ..
theorem deviceOn_core (s : State) (k : CoreId) : (deviceOn s).core k = s.core k := core_congr _ k _ (put_cores ..)
theorem deviceOn_svp (s : State) : (deviceOn s).svp = s.svp := put_svp ..
theorem deviceOn_get (s : State) (g : Fld) (i j : Nat) :
    (deviceOn s).get g i j = (s.put DSTORE_INITSTAT_BUSY 0xFFFFFFFF).get g i j := rfl
theorem deviceOn_word (s : State) (a : Nat) : (deviceOn s).word a = (s.put DSTORE_INITSTAT_BUSY 0xFFFFFFFF).word a := rfl

section Device
variable {f : Fld} (hf : f.reg = PWC_RSTCAUSE) {s : State} (cut : Nat) (hop : s.fuseOp = none)

include hop in
theorem deviceReset_fuses : (deviceReset f cut [] s).fuses = s.fuses := by
  have hsafe : (safeEnded (keptState s)).fuses = (keptState s).fuses := safeEnded_keeps _ _ fun f v i t _ => put_fuses ..
  rw [deviceReset_eq f cut [] hop, deviceOn_fuses, fuseLoad_fuses, put_fuses, hsafe, keptState_fuses]

include hop in
theorem deviceReset_core (k : CoreId) : (deviceReset f cut [] s).core k = Core.initial := by
  have hsafe : (safeEnded (keptState s)).cores = (keptState s).cores := safeEnded_keeps _ _ fun f v i t _ => put_cores ..
  rw [deviceReset_eq f cut [] hop, deviceOn_core, core_congr _ k _ (fuseLoad_cores ..), core_congr _ k _ (put_cores ..),
    core_congr _ k _ hsafe, keptState_core]

include hop in
theorem deviceReset_svp : (deviceReset f cut [] s).svp = .held := by
  have hsafe : (safeEnded (keptState s)).svp = (keptState s).svp := safeEnded_keeps _ _ fun f v i t _ => put_svp ..
  rw [deviceReset_eq f cut [] hop, deviceOn_svp, fuseLoad_svp, put_svp, hsafe, keptState_svp]

include hf hop

/-- The registers that a device reset writes, those of the seats' safe states apart. -/
def deviceWrites : List Nat :=
  [PRS_STAT, PWC_RSTCAUSE, SFI_STAT, LCC_STATE, LCC_STAT, BNV_STAT, DSTORE_INITSTAT].map (·.addr 0 0)

theorem deviceReset_word {a : Nat} (hk : deviceKeeps false a = true) (h : a ∉ deviceWrites)
    (hseat : ∀ i, 0 < i → i < 16 → a ≠ SFI_SSTAT.addr i 0) : (deviceReset f cut [] s).word a = s.word a := by
  simp only [deviceWrites, List.map, List.mem_cons, List.not_mem_nil, or_false, not_or] at h
  obtain ⟨hprs, hcause, hsfi, hstate, hstat, hbnv, hinit⟩ := h
  rw [deviceReset_eq f cut [] hop, deviceOn_word, word_put_apart _ (not_mem_regWords rfl hinit),
    fuseLoad_word _ (by simp [hstate, hstat, hbnv]), word_put_apart _ (hf ▸ not_mem_regWords rfl hcause),
    safeEnded_word _ hsfi hseat, keptState_word s hk hprs]

include hf hop in
theorem deviceReset_time : (deviceReset f cut [] s).reg TBS_NOW = s.reg TBS_NOW :=
  reg_of_words fun a ha => by
    have hkeeps : ∀ a ∈ regWords TBS_NOW 0 0, deviceKeeps false a = true ∧ a ∉ deviceWrites ∧ 0x200B0000 ≤ a := by decide
    obtain ⟨hk, hw, hlow⟩ := hkeeps a ha
    exact deviceReset_word hf cut hop hk hw (by simp only [SFI_SSTAT, RegDef.addr]; omega)

include hf hop in
theorem deviceReset_log {n : Nat} (hn : n < 16) : (deviceReset f cut [] s).reg SFI_FLOG n = s.reg SFI_FLOG n :=
  reg_of_words fun a ha => by
    have hkeeps : ∀ n < 16, ∀ a ∈ regWords SFI_FLOG n 0,
        deviceKeeps false a = true ∧ a ∉ deviceWrites ∧ 0x20080400 ≤ a ∧ a < 0x20081000 := by decide
    obtain ⟨hk, hw, hlow, hhigh⟩ := hkeeps n hn a ha
    exact deviceReset_word hf cut hop hk hw (by simp only [SFI_SSTAT, RegDef.addr]; omega)

section Canonical
variable (hs : s.Canonical)
omit hf
include hop hs

theorem deviceReset_initialises : (deviceReset f cut [] s).get DSTORE_INITSTAT_BUSY = 0xFFFFFFFF := by
  have hwf := fuseLoad_carries [] _ (put_carries _ f 1 0 0 (Carries.refl (safeEnded (keptState s))))
  rw [deviceReset_eq f cut [] hop, deviceOn_get,
    get_put_same (hwf.canonical (safeEnded_canonical _ (keptState_canonical s hs))).regs rfl _ (by decide)]
  rfl

theorem deviceReset_state : (deviceReset f cut [] s).get LCC_STATE_STATE = s.groupState := by
  have hcanonical : (safeEnded (keptState s)).Canonical := safeEnded_canonical _ (keptState_canonical s hs)
  have hwf := (put_carries _ f 1 0 0 (Carries.refl (safeEnded (keptState s)))).canonical hcanonical
  have hsafe : (safeEnded (keptState s)).fuses = (keptState s).fuses := safeEnded_keeps _ _ fun f v i t _ => put_fuses ..
  rw [deviceReset_eq f cut [] hop, deviceOn_get, get_put_apart (by decide), fuseLoad_state _ hwf.regs]
  exact groupState_congr ((put_fuses ..).trans (hsafe.trans (keptState_fuses s)))

include hf in
theorem deviceReset_safe : (deviceReset f cut [] s).flag SFI_STAT_DSAFE = false := by
  have hcause : Apart f.reg 0 0 SFI_STAT 0 0 := by rw [hf]; decide
  have hload (t : State) : (fuseLoad [] t).get SFI_STAT_DSAFE = t.get SFI_STAT_DSAFE := by
    have hreg : (fuseLoad [] t).reg SFI_STAT = t.reg SFI_STAT := reg_of_words fun a ha =>
      fuseLoad_word t (by revert a; decide) []
    rw [State.get, State.get]
    exact congrArg (slice · _ _) hreg
  rw [State.flag, deviceReset_eq f cut [] hop, deviceOn_get, get_put_apart (by decide), hload, get_put_apart hcause,
    safeEnded_safe _ (keptState_canonical s hs).regs]
  rfl

end Canonical
end Device

/-! ### PWC.RST -/

theorem clearRegs_word (p : Nat → Bool) (s : State) (a : Nat) :
    (s.clearRegs p).word a = if p a then (resetWord a).toNat else s.word a := by
  rw [State.clearRegs, State.word, cellGet_cellClear, State.word]
  cases p a <;> rfl

theorem ite_keeps {β : Type} (g : State → β) {p : Prop} [Decidable p] {s t u : State} (ht : g t = g s) (hu : g u = g s) :
    g (if p then t else u) = g s := by
  split
  · exact ht
  · exact hu

theorem blockHidden_word (t : Nat) (s : State) (a : Nat) : (blockHidden t s).word a = s.word a := by
  have hregs : (blockHidden t s).regs = s.regs := by
    unfold blockHidden
    iterate 9 refine ite_keeps State.regs rfl ?_
    rfl
  rw [State.word, hregs, State.word]

theorem blockReset_word {t base n : Nat} (hlow : 0xD0 ≤ t) (hhigh : t ≤ 0xF4) (h : targetFrames t = some (base, n)) (s : State)
    (a : Nat) : (blockReset t s).word a = if base ≤ a ∧ a < base + n then (resetWord a).toNat else s.word a := by
  have hin : ¬ (t < 0xD0 || 0xF4 < t) = true := by simp; omega
  rw [blockReset, if_neg hin, h, blockHidden_word, clearRegs_word]
  simp only [Bool.and_eq_true, decide_eq_true_eq]

/-- The fields of a value written to PWC.RST that starts with the operation `op`. -/
theorem slice_rst {op v : Nat} (hop : op < 16) (hv : v < 0x10000) : slice (op * 0x10000000 + v) 28 4 = op ∧
    slice (op * 0x10000000 + v) 0 8 = v % 0x100 ∧ slice (op * 0x10000000 + v) 8 8 = v / 0x100 := by
  simp only [slice]
  omega

theorem rstWrite_device (key : BitVec 8) (cut : Nat) (d : List Nat) (s : State) :
    rstWrite (0x30000000 + key.toNat * 0x100) cut d s = if key = 0x5A then deviceReset PWC_RSTCAUSE_SWRST cut d s else s := by
  obtain ⟨hop, -, hkey⟩ := slice_rst (op := 3) (v := key.toNat * 0x100) (by decide) (by omega)
  have h : key.toNat * 0x100 / 0x100 = 0x5A ↔ key = 0x5A := by simp [← BitVec.toNat_inj]
  simp only [rstWrite, hop, hkey, h]

theorem rstWrite_block (t : BitVec 8) (s : State) : rstWrite (0x20000000 + t.toNat) 0 [] s = blockReset t.toNat s := by
  obtain ⟨hop, hblock, -⟩ := slice_rst (op := 2) (v := t.toNat) (by decide) (by omega)
  simp only [rstWrite, hop, hblock, Nat.mod_eq_of_lt t.isLt]

theorem powerOnReset_fuses (f : Fld) (s : State) : (powerOnReset f s).fuses = s.fuses := by
  rw [powerOnReset, put_fuses, prsStatKept_fuses, resetState_fuses]

theorem powerOnReset_svp (f : Fld) (s : State) : (powerOnReset f s).svp = .held := by
  rw [powerOnReset, put_svp, prsStatKept_svp, resetState_svp]

theorem powerOnReset_device (f : Fld) (s : State) : (powerOnReset f s).device = .reset := by
  rw [powerOnReset, put_device, prsStatKept, put_device, put_device]
  rfl

theorem powerOnReset_flash (f : Fld) (s : State) : (powerOnReset f s).flash = s.flash := by
  rw [powerOnReset, put_flash, prsStatKept, put_flash, put_flash]
  rfl

theorem powerOnReset_pending (f : Fld) (s : State) : (powerOnReset f s).pending = s.pending := by
  rw [powerOnReset, put_pending, prsStatKept, put_pending, put_pending]
  rfl

section Commands
variable (s : State)

theorem supplyPowerUp_stays {rail : Fin 12} (h : rail ≠ 3 ∨ s.rails.getLsbD 3 = true) : exec (.supplyPowerUp rail) s =
    .next { s with rails := s.rails ||| (1#12 <<< rail.val),
                   pwrEn := stage1Up (s.rails ||| (1#12 <<< rail.val)) && (s.device != .off) } := by
  have haon : ¬ (rail.val = 3 && !s.rails.getLsbD 3) = true := by
    rcases h with h | h
    · rw [decide_eq_false (show rail.val ≠ 3 from mt (Fin.ext (b := 3)) h), Bool.false_and]
      exact Bool.false_ne_true
    · rw [h, Bool.not_true, Bool.and_false]
      exact Bool.false_ne_true
  simp only [exec, execSupplyPowerUp, if_neg haon]

theorem supplyPowerUp_aon (h : s.rails.getLsbD 3 = false) : exec (.supplyPowerUp 3) s =
    .next { aonRise s with rails := (aonRise s).rails ||| (1#12 <<< 3),
                           pwrEn := stage1Up ((aonRise s).rails ||| (1#12 <<< 3)) && ((aonRise s).device != .off) } := by
  have haon : ((3 : Fin 12).val = 3 && !s.rails.getLsbD 3) = true := by rw [h]; rfl
  simp only [exec, execSupplyPowerUp, if_pos haon]
  rfl

theorem resetNInput_on (cut : Nat) (dmg : List (BitVec 8)) (h : s.device = .on ∨ s.device = .standby) :
    exec (.resetNInput cut dmg) s = .next (deviceReset PWC_RSTCAUSE_RESETN cut (dmg.map (·.toNat)) s) := by
  have hon : (s.device == .on || s.device == .standby) = true := by rcases h with h | h <;> rw [h] <;> rfl
  simp only [exec, execResetNInput, if_pos hon]

theorem powerOnResetRelease_ready (cut : Nat) (dmg : List (BitVec 8)) (hd : s.device = .reset) (hr : s.rails = 0xFFF)
    (he : s.pwrEn = true) : exec (.powerOnResetRelease cut dmg) s =
      .next { (fuseLoad (dmg.map (·.toNat)) (fuseOpCut cut s)).put CRG_STAT_REFOK 1 with device := .starting } := by
  have hready : (s.device == .reset && s.rails == 0xFFF && s.pwrEn) = true := by rw [hd, hr, he]; rfl
  simp only [exec, execPowerOnResetRelease, if_pos hready]

theorem pllLock_starting (h : s.device = .starting) : exec .pllLock s = .next (deviceOn (s.put CRG_STAT_LOCK 1)) := by
  have hstart : (s.device == .starting) = true := by rw [h]; rfl
  simp only [exec, execPllLock, if_pos hstart]

variable (key : BitVec 8) (cut : Nat) (dmg : List (BitVec 8))

theorem deviceReset_seatZero : exec (.deviceReset 0 key cut dmg) s =
    .next ((if key = 0x5A then deviceReset PWC_RSTCAUSE_SWRST cut (dmg.map (·.toNat)) s else s).answer (.ok 0)) := by
  rw [← rstWrite_device]
  exact pageWrite_seatZero _ s

theorem deviceReset_customer {by_ : Seat} (h : by_ ≠ 0) :
    exec (.deviceReset by_ key cut dmg) s = .next (s.answer .error) := pageWrite_customer h _ s

theorem blockReset_seatZero (t : BitVec 8) : exec (.blockReset 0 t) s = .next ((blockReset t.toNat s).answer (.ok 0)) := by
  rw [← rstWrite_block]
  exact pageWrite_seatZero _ s

end Commands

/-- Settles O44: what each reset keeps comes from the registers that it keeps and the few that it then writes. -/
theorem suppliesAndDeviceReset : Obligations.SuppliesAndDeviceReset := by
  unfold Obligations.SuppliesAndDeviceReset
  refine ⟨fun f s hf hs => ?powerOn, fun f cut s hf hs hop => ?device, fun rail cut dmg s => ?supplies, fun t s => ?block⟩
  case powerOn =>
    refine ⟨powerOnReset_fuses f s, powerOnReset_flash f s, fun a ha => ?_, fun a hbnv hprs => ?_, powerOnReset_core f s,
      powerOnReset_device f s, powerOnReset_svp f s, powerOnReset_pending f s, fun a ha => powerOnReset_cleared hf ha s,
      fun a hd hk => powerOnReset_debug hf hd hk s⟩
    · rw [powerOnReset_byte, if_pos (by simpa using ha)]
    · rw [powerOnReset_byte, if_neg (by simp [hbnv, hprs])]
  case device =>
    have hon : (deviceReset f cut [] s).device = .on := by rw [deviceReset_eq f cut [] hop]; rfl
    exact ⟨deviceReset_fuses cut hop, hon, deviceReset_svp cut hop, deviceReset_core cut hop, deviceReset_time hf cut hop,
      fun n hn => deviceReset_log hf cut hop hn, deviceReset_safe hf cut hop hs, deviceReset_initialises cut hop hs,
      deviceReset_state cut hop hs⟩
  case supplies =>
    refine ⟨rfl, supplyPowerUp_stays s, supplyPowerUp_aon s, rfl, rfl, resetNInput_on s cut dmg,
      powerOnResetRelease_ready s cut dmg, pllLock_starting s, fun key => ⟨fun h => ?_, fun h => ?_,
      fun by_ => deviceReset_customer s key cut dmg⟩⟩
    · rw [deviceReset_seatZero, if_pos h]
    · rw [deviceReset_seatZero, if_neg h]
  case block =>
    refine ⟨blockReset_seatZero s t, fun base n hlow hhigh h a => ⟨fun ha hb => ?_, fun ha => ?_⟩⟩
    · rw [blockReset_word hlow hhigh h, if_pos ⟨ha, hb⟩]
    · rw [blockReset_word hlow hhigh h, if_neg (by omega)]

end Sys2Proof.Proofs
end

section
/-!
PROOFS. Persistent words (R492 to R494): who may write one, how it wears, and what a write leaves.
-/

namespace Sys2Proof.Proofs

open Sys2Proof.Machine Sys2Proof.Laws

/-! ### Messages leave the memory below the mailboxes alone -/

section Below
variable {b : Nat} (hb : b < 0x06000000)

theorem byte_of_mem {s t : State} (h : t.mem = s.mem) (b : Nat) : t.byte b = s.byte b := by rw [State.byte, h, State.byte]

include hb

theorem writeMem_byte_below {a : Nat} (ha : 0x06000000 ≤ a) (n v : Nat) (s : State) : (s.writeMem a n v).byte b = s.byte b :=
  byte_writeMem_outside (.inl (by omega))

theorem writeBytes_byte_below : ∀ (l : List Byte) {a : Nat} (_ : 0x06000000 ≤ a) (s : State),
    (s.writeBytes a l).byte b = s.byte b
  | [], _, _, _ => rfl
  | _ :: l, _, ha, _ => (writeBytes_byte_below l (by omega) _).trans (writeMem_byte_below hb ha ..)

theorem ringPut_byte_below (major : Nat) (m : WciMsg) (seat : Nat) (s : State) : (ringPut major m seat s).byte b = s.byte b := by
  have hring : 0x06000000 ≤ rspRing seat := by simp only [rspRing, mbxBase]; omega
  unfold ringPut announce
  extract_lets pi len slot pad padded at_
  rw [byte_of_mem (raiseSrc_mem ..), byte_of_mem (put_mem ..), writeBytes_byte_below hb _ (by omega),
    writeMem_byte_below hb (by omega)]
  exact ite_keeps (·.byte b) rfl (writeMem_byte_below hb (by omega) ..)

theorem sendMsg_byte_below (m : WciMsg) (s : State) : (sendMsg m s).byte b = s.byte b := by
  unfold sendMsg
  extract_lets major
  split
  · exact ringPut_byte_below hb ..
  · rfl
  · exact ite_keeps (·.byte b) rfl rfl

theorem noteIn_byte_below (cat rate op seat : Nat) (l : List Byte) (id : SessionId) (s : State) :
    (noteIn cat rate op seat l id s).byte b = s.byte b := by
  unfold noteIn
  split
  · rfl
  · extract_lets safe bucket merge body room m
    split
    · rfl
    · split
      · rfl
      · exact sendMsg_byte_below hb _ _

theorem noteManager_byte_below (op seat : Nat) (l : List Byte) (s : State) : (noteManager op seat l s).byte b = s.byte b :=
  foldl_keeps (·.byte b) (fun _ _ _ => noteIn_byte_below hb ..) s

theorem noteWorn_byte_below (n : Nat) (s : State) : (noteWorn n s).byte b = s.byte b :=
  ite_keeps (·.byte b) (noteManager_byte_below hb ..) (noteIn_byte_below hb ..)

end Below

/-! ### A write of a word -/

section Store
variable (n v : Nat) (s : State)

/-- The word with its value, and its wear counted. -/
def wordWritten : State := (s.writeMem (prsBase + 4 * n) 4 (prsLegal n v)).put PRS_WEAR_COUNT (s.get PRS_WEAR_COUNT n + 1) n

/-- The word marked as worn. -/
def wordWorn : State :=
  ((wordWritten n v s).put PRS_WEAR_WORN 1 n).put PRS_STAT_NWORN ((wordWritten n v s).get PRS_STAT_NWORN + 1)

/-- The first word that wears out is noted. -/
def wornNoted : State := noteWorn n (raiseSrc srcPrs (((wordWorn n v s).put PRS_STAT_WORNEV 1).put PRS_STAT_FIRST n))

theorem prsStore_eq : prsStore n v s =
    if s.flag PRS_WEAR_WORN n then (false, s)
    else if s.prs n = prsLegal n v % 2 ^ 32 then (true, s)
    else if (wordWritten n v s).get PRS_WEAR_COUNT n < 100000000 then (true, wordWritten n v s)
    else if (wordWorn n v s).flag PRS_STAT_WORNEV then (true, wordWorn n v s) else (true, wornNoted n v s) := rfl

theorem wordWritten_mem : (wordWritten n v s).mem = (s.writeMem (prsBase + 4 * n) 4 (prsLegal n v)).mem := put_mem ..

theorem wordWorn_mem : (wordWorn n v s).mem = (s.writeMem (prsBase + 4 * n) 4 (prsLegal n v)).mem :=
  (put_mem ..).trans ((put_mem ..).trans (wordWritten_mem n v s))

theorem wornNoted_byte {b : Nat} (hb : b < 0x06000000) :
    (wornNoted n v s).byte b = (s.writeMem (prsBase + 4 * n) 4 (prsLegal n v)).byte b := by
  rw [wornNoted, noteWorn_byte_below hb, byte_of_mem (raiseSrc_mem ..), byte_of_mem (put_mem ..), byte_of_mem (put_mem ..),
    byte_of_mem (wordWorn_mem n v s)]

variable {n v s}

theorem prsStore_worn (h : s.flag PRS_WEAR_WORN n = true) : prsStore n v s = (false, s) := by rw [prsStore_eq, if_pos h]

section Takes
variable (hworn : s.flag PRS_WEAR_WORN n = false)
include hworn

theorem prsStore_same (h : s.prs n = prsLegal n v % 2 ^ 32) : prsStore n v s = (true, s) := by
  rw [prsStore_eq, hworn, if_neg Bool.false_ne_true, if_pos h]

variable (hnew : s.prs n ≠ prsLegal n v % 2 ^ 32)
include hnew

theorem prsStore_counts (h : (wordWritten n v s).get PRS_WEAR_COUNT n < 100000000) :
    prsStore n v s = (true, wordWritten n v s) := by
  rw [prsStore_eq, hworn, if_neg Bool.false_ne_true, if_neg hnew, if_pos h]

variable (hmany : 100000000 ≤ (wordWritten n v s).get PRS_WEAR_COUNT n)
include hmany

theorem prsStore_wears (h : (wordWorn n v s).flag PRS_STAT_WORNEV = true) : prsStore n v s = (true, wordWorn n v s) := by
  rw [prsStore_eq, hworn, if_neg Bool.false_ne_true, if_neg hnew, if_neg (Nat.not_lt.mpr hmany), if_pos h]

theorem prsStore_notes (h : (wordWorn n v s).flag PRS_STAT_WORNEV = false) : prsStore n v s = (true, wornNoted n v s) := by
  rw [prsStore_eq, hworn, if_neg Bool.false_ne_true, if_neg hnew, if_neg (Nat.not_lt.mpr hmany), if_neg (by simp [h])]

end Takes

/-- A word that is not worn takes the write: below the mailboxes, memory is as after it. -/
theorem prsPut_byte (hworn : s.flag PRS_WEAR_WORN n = false) (hnew : s.prs n ≠ prsLegal n v % 2 ^ 32) {b : Nat}
    (hb : b < 0x06000000) : (prsPut n v s).byte b = (s.writeMem (prsBase + 4 * n) 4 (prsLegal n v)).byte b := by
  rcases Nat.lt_or_ge ((wordWritten n v s).get PRS_WEAR_COUNT n) 100000000 with hfew | hmany
  · rw [prsPut, prsStore_counts hworn hnew hfew, byte_of_mem (wordWritten_mem n v s)]
  · cases hnoted : (wordWorn n v s).flag PRS_STAT_WORNEV
    · rw [prsPut, prsStore_notes hworn hnew hmany hnoted, wornNoted_byte n v s hb]
    · rw [prsPut, prsStore_wears hworn hnew hmany hnoted, byte_of_mem (wordWorn_mem n v s)]

theorem prs_prsPut {m : Nat} (hm : m < 1024) (hs : Memory.wf s.mem = true)
    (hworn : s.flag PRS_WEAR_WORN n = false) : (prsPut n v s).prs m = if m = n then prsLegal n v % 2 ^ 32 else s.prs m := by
  by_cases hsame : s.prs n = prsLegal n v % 2 ^ 32
  · rw [prsPut, prsStore_same hworn hsame]
    split
    · next h => rw [h, hsame]
    · rfl
  · have hread : (prsPut n v s).prs m = (s.writeMem (prsBase + 4 * n) 4 (prsLegal n v)).prs m := by
      refine readMem_congr 4 _ fun b _ hb => prsPut_byte hworn hsame ?_
      simp only [prsBase] at hb
      omega
    rw [hread, State.prs]
    split
    · next h =>
      rw [h]
      exact readMem_writeMem _ 4 _ hs
    · next h => exact readMem_writeMem_outside _ (by omega)

end Store

theorem prsLegal_le (n v : Nat) : prsLegal n v ≤ v := by
  unfold prsLegal
  split
  · exact Nat.and_le_left
  · exact Nat.le_refl v

theorem prsLegal_mod (n v : Nat) : prsLegal n v % 2 ^ 32 = if n = 1 ∨ n = 3 then v &&& 0xCF00FF00 else v % 2 ^ 32 := by
  unfold prsLegal
  split
  · exact Nat.mod_eq_of_lt (Nat.lt_of_le_of_lt Nat.and_le_right (by decide))
  · rfl

/-! ### A write by a seat -/

section Write
variable {by_ : Seat} {w : Fin 1024} {s : State} (v : Word32)

theorem prsWrite_foreign (h : by_ ≠ 0) (ho : s.prsOwner w.val ≠ by_.val) : exec (.prsWrite by_ w v) s =
    .next ((seatViolation by_.val true (prsBase + 4 * w.val) s).answer .error) := by
  have hby : ((by_.val ≠ 0) && s.prsOwner w.val != by_.val) = true := by simp [Fin.val_eq_zero_iff, h, ho]
  simp only [exec, execPrsWrite, prsWriteBy, if_pos hby]
  rfl

theorem prsWrite_own (h : by_ = 0 ∨ s.prsOwner w.val = by_.val) {ok : Bool} {t : State}
    (ht : prsStore w.val v.toNat s = (ok, t)) : exec (.prsWrite by_ w v) s = .next (t.answer (if ok then .ok 0 else .error)) := by
  have hby : ¬ ((by_.val ≠ 0) && s.prsOwner w.val != by_.val) = true := by
    rcases h with rfl | h
    · simp
    · simp [h]
  simp only [exec, execPrsWrite, prsWriteBy, if_neg hby, ht]

end Write

/-- Settles O43: a write ends in one of the outcomes of `prsStore`, and notes are written to the mailboxes only. -/
theorem persistentWords : Obligations.PersistentWords := by
  unfold Obligations.PersistentWords
  refine ⟨fun by_ w v s => ⟨prsWrite_foreign v, fun h => ?write⟩, fun n m v s _ hm hs hworn => ?reads, fun s n h => if_pos h⟩
  case write =>
    have hv : prsLegal w.val v.toNat % 2 ^ 32 = prsLegal w.val v.toNat :=
      Nat.mod_eq_of_lt (Nat.lt_of_le_of_lt (prsLegal_le ..) v.isLt)
    refine ⟨fun hworn => prsWrite_own v h (prsStore_worn hworn), fun hworn => ⟨fun hsame => ?_, fun hnew => ?_⟩⟩
    · exact prsWrite_own v h (prsStore_same hworn (hsame.trans hv.symm))
    · have hnew' : s.prs w.val ≠ prsLegal w.val v.toNat % 2 ^ 32 := fun hold => hnew (hold.trans hv)
      exact ⟨fun hfew => prsWrite_own v h (prsStore_counts hworn hnew' hfew), fun hmany =>
        ⟨fun hnoted => prsWrite_own v h (prsStore_wears hworn hnew' hmany hnoted),
          fun hfirst => prsWrite_own v h (prsStore_notes hworn hnew' hmany hfirst)⟩⟩
  case reads => rw [prs_prsPut hm hs hworn, prsLegal_mod]

end Sys2Proof.Proofs
end

section
/-!
PROOFS. Fuses, the life-cycle state and the crypto engine (R477, R481 to R491, Tables LCK-1 to LCK-4).
-/

namespace Sys2Proof.Proofs

open Sys2Proof.Machine Sys2Proof.Laws

/-! ### Blown fuses -/

theorem foldl_blow (l : List Nat) (v : BitVec 8192) (i : Nat) (hi : i < 8192) :
    (l.foldl (fun v k => v ||| BitVec.ofNat 8192 (2 ^ k)) v).getLsbD i = (v.getLsbD i || decide (i ∈ l)) := by
  induction l generalizing v with
  | nil => simp
  | cons k l ih =>
    rw [List.foldl_cons, ih, BitVec.getLsbD_or, BitVec.getLsbD_ofNat, Nat.testBit_two_pow, Bool.or_assoc]
    simp [hi, eq_comm]

theorem fuse_blow (s : State) (l : List Nat) {i : Nat} (hi : i < 8192) : (s.blow l).fuse i = (s.fuse i || decide (i ∈ l)) :=
  foldl_blow l s.fuses i hi

theorem fuseBlown_fuses (op f : Nat) (l : List Nat) (s : State) : (fuseBlown op f l s).fuses = (s.blow l).fuses := by
  unfold fuseBlown
  extract_lets blown written destroyed locked
  have hwritten : written.fuses = blown.fuses := ite_keeps State.fuses rfl rfl
  have hdestroyed : destroyed.fuses = written.fuses := ite_keeps State.fuses rfl rfl
  have hlocked : locked.fuses = destroyed.fuses := ite_keeps State.fuses (put_fuses ..) rfl
  exact (ite_keeps State.fuses (put_fuses ..) rfl).trans (hlocked.trans (hdestroyed.trans hwritten))

theorem fuse_fuseBlown (op f : Nat) (l : List Nat) (s : State) {i : Nat} (hi : i < 8192) :
    (fuseBlown op f l s).fuse i = (s.fuse i || decide (i ∈ l)) := by
  rw [State.fuse, fuseBlown_fuses]
  exact fuse_blow s l hi

/-- Fuses counted by their places in a field. -/
theorem filter_fuses_length (s : State) (base n : Nat) :
    (((List.range n).map (base + ·)).filter s.fuse).length = ((List.range n).filter (fun i => s.fuse (base + i))).length := by
  rw [List.filter_map, List.length_map]
  rfl

theorem fuseSet_group (s : State) {f : Nat} (hf : f ≤ 4) :
    s.fuseSet f = true ↔ 17 ≤ ((List.range 32).filter (fun i => s.fuse (32 * f + i))).length := by
  have hfield : fuseField f = (32 * f, 32) := if_pos hf
  have hneed : fuseNeed f = 17 := if_pos (decide_eq_true hf)
  rw [State.fuseSet, decide_eq_true_iff, hneed, State.blownIn, fusesOf, hfield, filter_fuses_length]

theorem rollback_eq (s : State) {c : Nat} (hc : c ≤ 3) :
    s.rollback c = ((List.range 255).filter (fun i => s.fuse (0x200 + 256 * c + i))).length := by
  have hfield : fuseField (0x30 + c) = (0x200 + 256 * c, 256) := by interval_cases c <;> rfl
  rw [State.rollback, fusesOf, hfield, ← List.map_take, List.take_range, filter_fuses_length]
  rfl

/-! ### Programming -/

/-- The command that `by_` gives for an operation of LCC.PCMD. -/
noncomputable def fuseCommand (by_ : Seat) (op : Nat) (f : BitVec 8) : Instr :=
  if op = 1 then .fuseWrite by_ f else if op = 2 then .fuseBlow by_ f else if op = 3 then .counterRaise by_ f
  else .fieldDestroy by_ f

theorem exec_fuseCommand {op : Nat} (hlow : 1 ≤ op) (hhigh : op ≤ 4) (by_ : Seat) (f : BitVec 8) (s : State) :
    exec (fuseCommand by_ op f) s = .next (pcmdBy by_ op f.toNat s) := by
  interval_cases op <;> rfl

theorem exec_fuseCommand_seatZero {op : Nat} (hlow : 1 ≤ op) (hhigh : op ≤ 4) {f : BitVec 8} {s t : State}
    (ht : pcmdWrite op f.toNat s = t) : exec (fuseCommand 0 op f) s = .next (t.answer (.ok 0)) := by
  rw [exec_fuseCommand hlow hhigh, pcmdBy, if_neg (by simp), ht]

section Write
variable {op f : Nat} {s : State}

theorem pcmdWrite_busy (h : s.flag LCC_PSTAT_BUSY = true) : pcmdWrite op f s = s.put LCC_PSTAT_ERR 1 := if_pos h

variable (hfree : s.flag LCC_PSTAT_BUSY = false)
include hfree

theorem pcmdWrite_forbidden (h : s.fusePermitted op f = false) : pcmdWrite op f s = s.put LCC_PSTAT_ERR 2 := by
  rw [pcmdWrite, if_neg (by simp [hfree]), if_pos (by simp [h])]

variable (hpermitted : s.fusePermitted op f = true)
include hpermitted

theorem pcmdWrite_taken (hop : op = 1) (h : s.fuseBlank f = false) : pcmdWrite op f s = s.put LCC_PSTAT_ERR 3 := by
  rw [pcmdWrite, if_neg (by simp [hfree]), if_neg (by simp [hpermitted]), if_pos (by simp [hop, h])]

variable (hblank : op ≠ 1 ∨ s.fuseBlank f = true)
include hblank

theorem pcmdWrite_barred (h : s.fuseUnsafe = true) : pcmdWrite op f s = s.put LCC_PSTAT_ERR 4 := by
  have hfit : ¬ (op = 1 && !s.fuseBlank f) = true := by rcases hblank with h | h <;> simp [h]
  rw [pcmdWrite, if_neg (by simp [hfree]), if_neg (by simp [hpermitted]), if_neg hfit, if_pos h]

theorem pcmdWrite_starts (h : s.fuseUnsafe = false) : pcmdWrite op f s =
    { s.put LCC_PSTAT_BUSY 1 with fuseOp := some ⟨op * 256 + f, s.fuseBits op f s.pdata⟩ } := by
  have hfit : ¬ (op = 1 && !s.fuseBlank f) = true := by rcases hblank with h | h <;> simp [h]
  rw [pcmdWrite, if_neg (by simp [hfree]), if_neg (by simp [hpermitted]), if_neg hfit, if_neg (by simp [h])]

end Write

/-! ### Crypto jobs -/

theorem nextJob_of {s : State} {j : CreJob}
    (h : s.creJobs.find? (·.load) = some j ∨ (∀ x ∈ s.creJobs, x.load = false) ∧ s.creJobs.head? = some j) :
    s.nextJob = some j := by
  rcases h with hload | ⟨hnone, hfirst⟩
  · rw [State.nextJob, hload]
  · have hfind : s.creJobs.find? (·.load) = none := List.find?_eq_none.mpr fun x hx => by simp [hnone x hx]
    rw [State.nextJob, hfind]
    exact hfirst

section Job
variable {s : State} {j : CreJob} (hj : s.nextJob = some j)
include hj

theorem creJobDone_plain (h : j.reply = none) : exec .creJobDone s = .next { s with creJobs := s.creJobs.erase j } := by
  simp only [exec, execCreJobDone, hj, h]

variable {m : WciMsg} (hm : j.reply = some m)
include hm

theorem creJobDone_lost (h : s.session m.dest = none) : exec .creJobDone s = .next { s with creJobs := s.creJobs.erase j } := by
  simp only [exec, execCreJobDone, hj, hm]
  exact if_pos (Option.isNone_iff_eq_none.mpr h)

theorem creJobDone_answers {e : Session} (he : s.session m.dest = some e)
    (hroom : ∀ n, m.dest.seat? = some n → s.rspRoom n m.payload.length = true) :
    exec .creJobDone s = .next (respond m { s with creJobs := s.creJobs.erase j }) := by
  have hfits : ¬ (m.dest.seat?.any fun n => !s.rspRoom n m.payload.length) = true := by
    cases hseat : m.dest.seat? with
    | none => simp
    | some n => simp [hroom n hseat]
  simp only [exec, execCreJobDone, hj, hm]
  exact (if_neg (by rw [State.session] at he ⊢; simp [he])).trans (if_neg hfits)

end Job

/-- Settles O42: a write of LCC.PCMD ends at the first refusal that applies, and fuses are counted by their fields. -/
theorem fusesAndCrypto : Obligations.FusesAndCrypto := by
  unfold Obligations.FusesAndCrypto
  refine ⟨fun op f s => ?write, fun by_ f s hby c hc => ?customer, fun stuck s o ho => ?done, fun op f l s _ i hi =>
    fuse_fuseBlown op f l s hi, fun _ => rfl, fun s f hf => fuseSet_group s hf, fun s c hc => rollback_eq s hc, fun s => ?barred,
    fun s => ⟨rfl, rfl⟩, fun s j hj => ?job⟩
  case write =>
    intro command ok err hlow hhigh
    refine ⟨fun h => exec_fuseCommand_seatZero hlow hhigh (pcmdWrite_busy h), fun hfree =>
      ⟨fun h => exec_fuseCommand_seatZero hlow hhigh (pcmdWrite_forbidden hfree h), fun hp =>
      ⟨fun hop h => exec_fuseCommand_seatZero hlow hhigh (pcmdWrite_taken hfree hp hop h), fun hb =>
      ⟨fun h => exec_fuseCommand_seatZero hlow hhigh (pcmdWrite_barred hfree hp hb h), fun h =>
        exec_fuseCommand_seatZero hlow hhigh (pcmdWrite_starts hfree hp hb h)⟩⟩⟩⟩
  case customer =>
    have hrefused (op : Nat) : pcmdBy by_ op f.toNat s = s.answer .error := if_pos hby
    simp only [List.mem_cons, List.not_mem_nil, or_false] at hc
    rcases hc with rfl | rfl | rfl | rfl <;> exact congrArg Host.Outcome.next (hrefused _)
  case done =>
    simp only [exec, execLccOpDone, fuseOpDone, ho]
  case barred =>
    simp only [State.fuseUnsafe, Bool.or_eq_true, or_assoc]
  case job =>
    have hnext := nextJob_of hj
    exact ⟨creJobDone_plain hnext, fun m hm h => creJobDone_lost hnext hm h, fun m e hm he hroom =>
      creJobDone_answers hnext hm he hroom⟩

end Sys2Proof.Proofs
end

section
/-!
PROOFS. STANDBY (R570, R571) in a state whose register store is not in canonical form.
-/

namespace Sys2Proof.Proofs

open Sys2Proof.Machine Sys2Proof.Laws

/-- A register store out of order: the word of PWC.DSTAT, with cluster 0 powered, stands behind a higher key. Power-off of the
cluster writes the reset value, which `cellSet` stores by taking out the word that it finds in order, so that this one stays. -/
def staleDstat : State := { State.reset with regs := [(2 ^ 40, 0), (PWC_DSTAT.addr 0 0, 0x7FFFF01F)] }

theorem enterStandby_staleDstat : (enterStandby staleDstat).clusterOn 0 = true := by decide +kernel

/-- Refutes O46: its clause on STANDBY asks of every `State` that no cluster stays on, also of one that is not `Canonical`, and
there `staleDstat` keeps cluster 0 on. -/
theorem not_powerStatesAndTokens : ¬ Obligations.PowerStatesAndTokens := by
  unfold Obligations.PowerStatesAndTokens
  rintro ⟨-, hentry, -⟩
  obtain ⟨-, -, -, hoff⟩ := hentry staleDstat
  exact Bool.false_ne_true ((hoff 0 (by decide)).symm.trans enterStandby_staleDstat)

end Sys2Proof.Proofs
end

section
/-!
PROOFS. Mailboxes, and the checks that every message meets (R499 to R504, R506 to R510).
-/

namespace Sys2Proof.Proofs

open Sys2Proof.Machine Sys2Proof.Laws

/-! ### Indices of the mailboxes -/

theorem get_lt (s : State) (f : Fld) (i j : Nat) : s.get f i j < 2 ^ f.w := Nat.mod_lt _ (Nat.two_pow_pos _)

/-- A consumer index that moves to `x` passes neither its old place nor the producer index: seen from the producer, no more is held
than before. -/
theorem consumerOk_iff {pi old x : Nat} (hpi : pi < 65536) (hold : old < 65536) (hx : x < 65536) :
    consumerOk pi old x = true ↔ (pi + 65536 - x) % 65536 ≤ (pi + 65536 - old) % 65536 := by
  have hbool : consumerOk pi old x = true ↔ (x + 65536 - old) % 65536 ≤ (pi + 65536 - old) % 65536 := decide_eq_true_iff
  rw [hbool]
  omega

theorem producerOk_iff {old ci x : Nat} :
    producerOk old ci x = true ↔ ringCount old ci ≤ ringCount x ci ∧ ringCount x ci ≤ 512 := by
  simp only [producerOk, Bool.and_eq_true, decide_eq_true_eq]

section Index
variable {n x : Nat} {s : State}

theorem reqpiWrite_moves (h : x ≠ s.get MBX_REQPI_INDEX n)
    (hok : producerOk (s.get MBX_REQPI_INDEX n) (s.get MBX_REQCI_INDEX n) x = true) :
    reqpiWrite n x s = raiseSrc (srcMbxReq n) (s.put MBX_REQPI_INDEX x n) := by
  rw [reqpiWrite, if_neg h, if_pos hok]

theorem reqpiWrite_refused (h : x ≠ s.get MBX_REQPI_INDEX n)
    (hbad : ¬ producerOk (s.get MBX_REQPI_INDEX n) (s.get MBX_REQCI_INDEX n) x = true) :
    reqpiWrite n x s = s.put MBX_STAT_REQERR 1 n := by
  rw [reqpiWrite, if_neg h, if_neg hbad]

theorem rsppiWrite_moves (h : x ≠ s.get MBX_RSPPI_INDEX n)
    (hok : producerOk (s.get MBX_RSPPI_INDEX n) (s.get MBX_RSPCI_INDEX n) x = true) :
    rsppiWrite n x s = announce n x s := by
  rw [rsppiWrite, if_neg h, if_pos hok]

theorem rsppiWrite_refused (h : x ≠ s.get MBX_RSPPI_INDEX n)
    (hbad : ¬ producerOk (s.get MBX_RSPPI_INDEX n) (s.get MBX_RSPCI_INDEX n) x = true) :
    rsppiWrite n x s = s.put MBX_STAT_SVPERR 1 n := by
  rw [rsppiWrite, if_neg h, if_neg hbad]

end Index

section MbxWrite
variable {by_ seat : Seat} {f : State → State} {s t : State}

/-- The side that an index belongs to writes it. -/
theorem mbxWrite_does {side : Bool} (h : by_ = if side then seat else 0) (hf : f s = t) :
    mbxWrite by_ seat side f s = .next (t.answer (.ok 0)) := by
  have hpage : by_ = 0 ∨ by_.val = seat.val := by cases side <;> simp [h]
  rw [mbxWrite, if_pos h]
  exact pageWrite_does hpage hf

theorem mbxWrite_seat (hf : f s = t) : mbxWrite seat seat true f s = .next (t.answer (.ok 0)) := mbxWrite_does rfl hf

theorem mbxWrite_seatZero (hf : f s = t) : mbxWrite 0 seat false f s = .next (t.answer (.ok 0)) := mbxWrite_does rfl hf

/-- The other side's write is ignored. -/
theorem mbxWrite_ignored {side : Bool} (h : by_ ≠ if side then seat else 0) (hpage : by_ = 0 ∨ by_ = seat) :
    mbxWrite by_ seat side f s = .next (s.answer (.ok 0)) := by
  rw [mbxWrite, if_neg h]
  exact pageWrite_does (hpage.imp_right (congrArg Fin.val)) rfl

theorem mbxWrite_foreign (side : Bool) (h : by_ ≠ 0) (hseat : by_ ≠ seat) :
    mbxWrite by_ seat side f s = .next (s.answer .error) :=
  pageWrite_foreign h (Fin.val_ne_of_ne hseat) _ s

end MbxWrite

/-! ### What a message at the head of its session meets -/

theorem opcodeKnown_system (op : BitVec 8) : opcodeKnown (0x0C00 + op.toNat) = true := by
  have hclass : (0x0C00 + op.toNat) / 256 = 12 := by omega
  have hlow : (0x0C00 + op.toNat) % 256 ≤ 255 := by omega
  simp [opcodeKnown, hclass, hlow]

theorem wci_known {c : Instr} {p : Peer} {op : Nat} (h : c.wci? = some (p, op)) : opcodeKnown op = true := by
  unfold Instr.wci? at h
  split at h
  case h_41 code => cases h; exact opcodeKnown_system code
  all_goals cases h
  all_goals rfl

section Head
variable {p : Peer} {m : Incoming} {op : Nat} {s : State} (f : Session → Incoming → State → Reply) (after : Incoming → State → State)

theorem runWci_waits (h : s.answersWci = false ∨ s.headOf (sessionOf p) = none) : runWci p op f after s = .next s := by
  unfold runWci
  extract_lets id
  split
  · rfl
  · next hready =>
    rcases h with h | h
    · simp [h] at hready
    · simp only [id, h]

/-- A message that can be taken is served. -/
theorem runWci_serves (h : s.Meets p m) :
    runWci p op f after s = .next ((serveHead (sessionOf p) m op f after s).getD s) := by
  obtain ⟨hanswers, hidle, hhead⟩ := h
  have hjobs : s.creJobs.any (fun j => j.reply.any (fun r => r.dest == sessionOf p)) = false := by
    simp only [List.any_eq_false, Option.any_eq_true, not_exists, not_and]
    intro j hj r hr
    simp [hidle j hj r hr]
  simp [runWci, hanswers, hjobs, hhead]

/-- With room for it, the response leaves; it is not kept. -/
theorem answerWci_plain {st : Nat} {pl : List Byte} (h : s.Room p m pl) : answerWci (sessionOf p) m false st pl s =
    some (sendMsg ⟨sessionOf p, 2, st, m.opcode, m.seat, m.seq, pl⟩ (takeHead (sessionOf p) m s)) := by
  have hroom : ¬ (sessionOf p).seat?.any (fun n => !(takeHead (sessionOf p) m s).rspRoom n pl.length) = true := by
    simp only [Option.any_eq_true, not_exists, not_and]
    intro n hn
    simp [h n hn]
  exact (if_neg hroom).trans (if_neg Bool.false_ne_true)

theorem serveHead_badResponse (hbad : m.good (sessionOf p) = false) (h : m.cls = 2) :
    serveHead (sessionOf p) m op f after s = some (takeHead (sessionOf p) m s) := by
  simp [serveHead, hbad, h]

theorem serveHead_malformed (hbad : m.good (sessionOf p) = false) (hcls : m.cls ≠ 2)
    (h : s.session (sessionOf p) = none ∨ m.cls ≠ 1) :
    serveHead (sessionOf p) m op f after s = answerWci (sessionOf p) m false stBadmsg [] s := by
  have hnext : ((s.session (sessionOf p)).any (fun e => e.hello && m.seq == e.nextCmd) && m.cls == 1) = false := by
    rcases h with h | h <;> simp [h]
  simp [serveHead, hbad, hcls, hnext]

/-- The response ring has the room that it has before a request is taken. -/
theorem rspRoom_takeHead (k : Seat) (len : Nat) : (takeHead (.mailbox k.val) m s).rspRoom k.val len = s.rspRoom k.val len := by
  have happart : ∀ k : Seat, Apart MBX_REQCI_INDEX.reg k.val 0 MBX_RSPPI_INDEX.reg k.val 0 ∧
      Apart MBX_REQCI_INDEX.reg k.val 0 MBX_RSPCI_INDEX.reg k.val 0 := by decide
  have hpi (v : Nat) := get_put_apart (happart k).1 s v
  have hci (v : Nat) := get_put_apart (happart k).2 s v
  simp only [State.rspRoom, takeHead, hpi, hci]

section Command
variable (hgood : m.good (sessionOf p) = true) (hcls : m.cls = 1) (hop : m.opcode = op)
include hgood hcls hop

theorem serveHead_sessionless (h : s.session (sessionOf p) = none ∨ ∃ e, s.session (sessionOf p) = some e ∧ e.hello = false) :
    serveHead (sessionOf p) m op f after s = answerWci (sessionOf p) m false stNosession [] s := by
  rcases h with h | ⟨e, h, he⟩
  · simp [serveHead, hgood, hcls, hop, h]
  · simp [serveHead, hgood, hcls, hop, h, he]

variable {e : Session} (he : s.session (sessionOf p) = some e) (hello : e.hello = true) (hmajor : m.major = e.major)
include he hello hmajor

theorem serveHead_outOfSequence (hkept : e.kept.find? (·.seq == m.seq) = none) (hseq : m.seq ≠ e.nextCmd) :
    serveHead (sessionOf p) m op f after s = answerWci (sessionOf p) m false stBadmsg [] s := by
  simp [serveHead, hgood, hcls, hop, he, hello, hmajor, hkept, hseq]

theorem serveHead_again {r : WciMsg} (hkept : e.kept.find? (·.seq == m.seq) = some r) (hroom : s.Room p m r.payload) :
    serveHead (sessionOf p) m op f after s = some (sendMsg r (takeHead (sessionOf p) m s)) := by
  have hfits : (sessionOf p).seat?.any (fun n => !s.rspRoom n r.payload.length) = false := by
    cases p with
    | mailbox k =>
      have hk := hroom k.val rfl
      rw [sessionOf, rspRoom_takeHead] at hk
      simp [sessionOf, SessionId.seat?, hk]
    | ucl | ethm => rfl
  simp [serveHead, hgood, hcls, hop, he, hello, hmajor, hkept, hfits]

end Command
end Head

/-! ### Who may send a command -/

section Refused
variable {p : Peer} {m : Incoming} {e : Session} {op : Nat} {s : State} (f : Session → Incoming → State → Reply)
  (after : Incoming → State → State)

theorem class_lt_fifteen (h : opcodeKnown op = true) : op / 256 ≠ 15 := fun hclass => by
  simp [opcodeKnown, hclass] at h
  omega

/-- The message comes over ETHM and its session is not authenticated. -/
def unproven (p : Peer) (e : Session) : Prop := (∃ n, sessionOf p = .ethm n) ∧ e.auth = false

theorem performWci_unproven (h : unproven p e) (hop : m.opcode ≠ 2) :
    performWci (sessionOf p) m e f after s = answerWci (sessionOf p) m true stDenied [] s := by
  obtain ⟨⟨n, hn⟩, hauth⟩ := h
  simp [performWci, hn, hauth, hop]

/-- The session lacks the feature of the command, or stage 0 answers and does not know its class. -/
def unsupported (s : State) (e : Session) (op : Nat) : Bool :=
  (classFeature (op / 256)).any (fun b => !e.features.testBit b) || (s.svp == .stage0 && op / 256 != 0 && op / 256 != 7)

theorem unsupported_iff : unsupported s e op = true ↔
    (∃ b, classFeature (op / 256) = some b ∧ e.features.testBit b = false) ∨ s.svp = .stage0 ∧ op / 256 ≠ 0 ∧ op / 256 ≠ 7 := by
  simp [unsupported, Option.any_eq_true, and_assoc]

variable (hknown : opcodeKnown m.opcode = true) (hproven : (∃ n, sessionOf p = .ethm n) → e.auth = true)
include hknown hproven

/-- Once its sender is known, a command meets its authority before its feature. -/
theorem performWci_proven : ∃ done, performWci (sessionOf p) m e f after s =
    if (!s.mayIssueClass e (m.opcode / 256)) = true then answerWci (sessionOf p) m true stDenied [] s
    else if unsupported s e m.opcode = true then answerWci (sessionOf p) m true stUnsup [] s else done := by
  have hclass := class_lt_fifteen hknown
  unfold performWci
  extract_lets cls lacks ethm
  have hlacks : lacks = (classFeature (m.opcode / 256)).any (fun b => !e.features.testBit b) := by
    simp only [lacks]
    cases classFeature cls <;> rfl
  have hsure : (ethm && !e.auth) = false := by
    cases p with
    | ethm n => simp [hproven ⟨n.val, rfl⟩]
    | mailbox | ucl => rfl
  have hfirst : ¬ (ethm && !e.auth && m.opcode != 2 || decide (cls = 15)) = true := by simp [hsure, cls, hclass]
  rw [if_neg hfirst, if_neg (by simp [hknown]), hlacks]
  exact ⟨_, rfl⟩

theorem performWci_denied (h : s.mayIssueClass e (m.opcode / 256) = false) :
    performWci (sessionOf p) m e f after s = answerWci (sessionOf p) m true stDenied [] s := by
  obtain ⟨done, hdone⟩ := performWci_proven f after hknown hproven (s := s)
  rw [hdone, if_pos (by simp [h])]

theorem performWci_unsupported (hissue : s.mayIssueClass e (m.opcode / 256) = true) (h : unsupported s e m.opcode = true) :
    performWci (sessionOf p) m e f after s = answerWci (sessionOf p) m true stUnsup [] s := by
  obtain ⟨done, hdone⟩ := performWci_proven f after hknown hproven (s := s)
  rw [hdone, if_neg (by simp [hissue]), if_pos h]

end Refused

/-! ### HELLO, notifications and datagrams -/

section Messages
variable {p : Peer} {m : Incoming} {s : State}

section Taken
variable (hanswers : s.answersWci = true) (hhead : s.headOf (sessionOf p) = some m) (hgood : m.good (sessionOf p) = true)
include hanswers hhead hgood

theorem hello_done (hop : m.opcode = 1) (hcls : m.cls = 1) {t : State} (ht : helloCommand (sessionOf p) m s = some t) :
    exec (.hello p) s = .next t := by
  simp [exec, execHello, hanswers, hhead, hgood, hop, hcls, ht]

theorem noteAck_acknowledges (hcls : m.cls = 2) (hop : m.opcode ≠ 1) (hok : m.status = stOk) : exec (.noteAck p) s =
    .next ((takeHead (sessionOf p) m s).mapSession (sessionOf p) (fun e =>
      { e with unacked := e.unacked.filter (fun n => !(n.seq == m.seq && n.opcode == m.opcode)) })) := by
  simp [exec, execNoteAck, hanswers, hhead, hgood, hcls, hop, hok]

theorem noteAck_drops (hcls : m.cls = 2) (hop : m.opcode ≠ 1) (hok : m.status ≠ stOk) :
    exec (.noteAck p) s = .next (takeHead (sessionOf p) m s) := by
  simp [exec, execNoteAck, hanswers, hhead, hgood, hcls, hop, hok]

end Taken

/-- Over ETHM a HELLO whose versions share major 1 opens a session with the features of both sides. -/
theorem helloCommand_opens {n : Nat} (hmajor : m.major = 0) (hminor : m.minor = 0) (htrng : s.flag CRE_STAT_TRNGF = false)
    (hlow : bytesAt m.payload 0 1 ≤ 1) (hhigh : 1 ≤ bytesAt m.payload 1 1) (hop : m.opcode = 1) :
    let both := bytesAt m.payload 4 8 &&& s.ownFeatures
    let t := endSession (.ethm n) s
    let e := { Session.fresh (.ethm n) (s.get TBS_NOW_NS) with hello := true, features := both }
    helloCommand (.ethm n) m s = some (sendMsg ⟨.ethm n, 2, stOk, 1, m.seat, m.seq, helloBody both⟩
      (takeHead (.ethm n) m { t with sessions := t.sessions ++ [e] })) := by
  intro both t e
  have hversion : ¬ (m.major ≠ 0 || m.minor ≠ 0) = true := by simp [hmajor, hminor]
  have hrange : ¬ (1 < bytesAt m.payload 0 1 || bytesAt m.payload 1 1 < 1) = true := by simp; omega
  rw [← hop]
  unfold helloCommand
  refine (if_neg hversion).trans ((if_neg ?_).trans (if_neg hrange))
  simp [htrng]

section Notes
variable {q : Word32} {e : Session} (he : s.session (sessionOf p) = some e) {n : NoteSent}
  (hn : e.unacked.find? (·.seq == q.toNat) = some n)
include he hn

theorem noteRetransmit_again (hseat : (sessionOf p).seat? = none) (hfew : n.again < 5) : exec (.noteRetransmit p q) s =
    .next (sendMsg ⟨sessionOf p, 3, 0, n.opcode, n.seat, n.seq, n.payload⟩ (s.mapSession (sessionOf p) (fun e => { e with
      unacked := e.unacked.map (fun x => if x.seq == n.seq then { x with again := x.again + 1 } else x) }))) := by
  simp [exec, execNoteRetransmit, he, hn, hseat, Nat.not_le.mpr hfew]

theorem noteRetransmit_ends (hmany : 5 ≤ n.again) : exec (.noteRetransmit p q) s = .next s := by
  simp [exec, execNoteRetransmit, he, hn, hmany]

end Notes

section Datagrams
variable {n : Fin 4} (ctr : Word64) {tag : Bool} (msg : List Byte) (hanswers : s.answersWci = true)
include hanswers

/-- Before AUTH a datagram is taken in clear. -/
theorem ethmDatagram_clear (h : s.session (.ethm n.val) = none ∨ ∃ e, s.session (.ethm n.val) = some e ∧ e.auth = false) :
    exec (.ethmDatagram n ctr tag msg) s = .next { s with wciIn := s.wciIn ++ [(.ethm n.val, msg)] } := by
  rcases h with h | ⟨e, h, hauth⟩
  · simp [exec, execEthmDatagram, hanswers, h]
  · simp [exec, execEthmDatagram, hanswers, h, hauth]

variable {e : Session} (he : s.session (.ethm n.val) = some e) (hauth : e.auth = true)
include he hauth

theorem ethmDatagram_counted (htag : tag = true) (hnew : e.rxCount < ctr.toNat) :
    let t := s.mapSession (.ethm n.val) (fun e => { e with rxCount := ctr.toNat })
    exec (.ethmDatagram n ctr tag msg) s = .next { t with wciIn := t.wciIn ++ [(.ethm n.val, msg)] } := by
  simp [exec, execEthmDatagram, hanswers, he, hauth, htag, hnew]

theorem ethmDatagram_dropped (h : tag = false ∨ ctr.toNat ≤ e.rxCount) : exec (.ethmDatagram n ctr tag msg) s = .next s := by
  have hbad : ¬ (tag && decide (e.rxCount < ctr.toNat)) = true := by
    rcases h with h | h
    · simp [h]
    · simp [Nat.not_lt.mpr h]
  simp [exec, execEthmDatagram, hanswers, he, hauth, hbad]

end Datagrams
end Messages

/-- A command in sequence that is refused is answered with what refuses it. -/
theorem runWci_refuses {p : Peer} {m : Incoming} {e : Session} {op st : Nat} {s : State} (h : s.InSequence p op m e)
    (hroom : s.Room p m []) (f : Session → Incoming → State → Reply) (after : Incoming → State → State)
    (hst : performWci (sessionOf p) m e f after s = answerWci (sessionOf p) m true st [] s) :
    runWci p op f after s = .next (answered p m st [] s) := by
  rw [runWci_inSequence h, hst, answerWci_room hroom, Option.getD_some]

/-- Settles O47: an index write is one of its four writes, and a message at the head of its session meets its checks in order. -/
theorem mailboxesAndSessions : Obligations.MailboxesAndSessions := by
  unfold Obligations.MailboxesAndSessions
  refine ⟨fun seat v s => ?indices, fun c p op s hc => ?commands,
    fun p m s t hanswers hhead hgood hop hcls => hello_done hanswers hhead hgood hop hcls,
    fun n m s hanswers hhead hgood hop hcls hmajor hminor htrng hlow hhigh => ?hello, fun p q s e he => ?retransmit,
    fun p m s hanswers hhead hgood hcls hop => ?ack, fun n ctr tag msg s hanswers => ?datagram⟩
  case indices =>
    have hx : v.toNat % 65536 < 65536 := Nat.mod_lt _ (by decide)
    have hrsp := consumerOk_iff (get_lt s MBX_RSPPI_INDEX seat 0) (get_lt s MBX_RSPCI_INDEX seat 0) hx
    have hreq := consumerOk_iff (get_lt s MBX_REQPI_INDEX seat 0) (get_lt s MBX_REQCI_INDEX seat 0) hx
    refine ⟨fun h => mbxWrite_seat (if_pos h), fun h => ⟨fun hold hfit => ?_, fun hbad => ?_⟩,
      fun h => mbxWrite_seat (if_pos (hrsp.mpr h)), fun h => mbxWrite_seat (if_neg (mt hrsp.mp (Nat.not_le.mpr h))),
      fun h => ⟨fun hold hfit => ?_, fun hbad => ?_⟩,
      fun h => mbxWrite_seatZero (if_pos (hreq.mpr h)), fun h => mbxWrite_seatZero (if_neg (mt hreq.mp (Nat.not_le.mpr h))),
      fun h => ⟨mbxWrite_ignored h.symm (.inl rfl), mbxWrite_ignored h (.inr rfl)⟩, fun by_ hby hseat c hc => ?_⟩
    · exact mbxWrite_seat (reqpiWrite_moves h (producerOk_iff.mpr ⟨hold, hfit⟩))
    · exact mbxWrite_seat (reqpiWrite_refused h fun hok => by
        obtain ⟨hold, hfit⟩ := producerOk_iff.mp hok
        exact hbad.elim (Nat.not_lt.mpr hold) (Nat.not_lt.mpr hfit))
    · exact mbxWrite_seatZero (rsppiWrite_moves h (producerOk_iff.mpr ⟨hold, hfit⟩))
    · exact mbxWrite_seatZero (rsppiWrite_refused h fun hok => by
        obtain ⟨hold, hfit⟩ := producerOk_iff.mp hok
        exact hbad.elim (Nat.not_lt.mpr hold) (Nat.not_lt.mpr hfit))
    · simp only [List.mem_cons, List.not_mem_nil, or_false] at hc
      rcases hc with rfl | rfl | rfl | rfl <;> exact mbxWrite_foreign _ hby hseat
  case commands =>
    obtain ⟨f, after, hrun⟩ := wci_runs c p op hc
    have hknown := wci_known hc
    rw [hrun]
    refine ⟨runWci_waits f after, fun m hm hroom => ⟨fun hbad hcls => ?_, fun hbad hcls h => ?_, fun hgood hcls hop h => ?_,
      fun e hgood hcls hop he hello hmajor => ⟨fun r hr hfits => ?_, fun hnew hseq => ?_⟩, fun e hin => ?_⟩⟩
    · rw [runWci_serves f after hm, serveHead_badResponse f after hbad hcls, Option.getD_some]
    · rw [runWci_serves f after hm, serveHead_malformed f after hbad hcls h, answerWci_plain hroom, Option.getD_some]
    · rw [runWci_serves f after hm, serveHead_sessionless f after hgood hcls hop h, answerWci_plain hroom, Option.getD_some]
    · rw [runWci_serves f after hm, serveHead_again f after hgood hcls hop he hello hmajor hr hfits, Option.getD_some]
    · rw [runWci_serves f after hm, serveHead_outOfSequence f after hgood hcls hop he hello hmajor hnew hseq,
        answerWci_plain hroom, Option.getD_some]
    · have hop := hin.opcode
      refine ⟨fun hethm hauth h2 => runWci_refuses hin hroom f after ?_, fun hproven hissue => runWci_refuses hin hroom f after ?_,
        fun hproven hissue h => runWci_refuses hin hroom f after ?_⟩
      · exact performWci_unproven f after ⟨hethm, hauth⟩ (hop ▸ h2)
      · exact performWci_denied f after (hop ▸ hknown) hproven (hop ▸ hissue)
      · exact performWci_unsupported f after (hop ▸ hknown) hproven (hop ▸ hissue) (unsupported_iff.mpr (hop ▸ h))
  case hello => exact hello_done (p := .ethm n) hanswers hhead hgood hop hcls (helloCommand_opens hmajor hminor htrng hlow hhigh hop)
  case retransmit => exact ⟨fun n => noteRetransmit_again he, fun n => noteRetransmit_ends he⟩
  case ack => exact ⟨noteAck_acknowledges hanswers hhead hgood hcls hop, noteAck_drops hanswers hhead hgood hcls hop⟩
  case datagram =>
    refine ⟨fun h => ethmDatagram_clear ctr msg hanswers (.inl h), fun e he =>
      ⟨fun hauth => ethmDatagram_clear ctr msg hanswers (.inr ⟨e, he, hauth⟩),
        fun hauth => ethmDatagram_counted ctr msg hanswers he hauth,
        fun hauth => ethmDatagram_dropped ctr msg hanswers he hauth⟩⟩

end Sys2Proof.Proofs
end

section
/-!
PROOFS. What the service commands of WCI do: safe channels, recovery, the life cycle and debug grants (R473, R478, R480, R485, R515,
R586).
-/

namespace Sys2Proof.Proofs

open Sys2Proof.Machine Sys2Proof.Laws

/-! ### Safe channels (R515) -/

section SafeChannels
variable {owner id : Nat} {s : State} {c : SafeChannel}

theorem safeOpen_seatZero {peer : Nat} (dev : Nat) (opened : Bool) (age : Nat) (h : peer = 0) :
    safeOpen owner id dev peer opened age s = (stRange, s) := if_pos h

theorem safeOpen_busy {peer : Nat} (dev : Nat) (opened : Bool) (age : Nat) (h : peer ≠ 0) (hc : (s.safeChannel owner id).isSome) :
    safeOpen owner id dev peer opened age s = (stBusy, s) := (if_neg h).trans (if_pos hc)

theorem safeOpen_opens {peer : Nat} {opened : Bool} (dev age : Nat) (h : peer ≠ 0) (hc : s.safeChannel owner id = none)
    (htrng : opened = false ∨ s.flag CRE_STAT_TRNGF = false) : safeOpen owner id dev peer opened age s =
      (stOk, { s with safeChannels := s.safeChannels ++ [⟨owner, id, dev, peer, opened, age, 0, 0, s.get TBS_NOW_NS, [], 0⟩] }) := by
  have hkeys : ¬ (opened && s.flag CRE_STAT_TRNGF) = true := by rcases htrng with h | h <;> simp [h]
  exact (if_neg h).trans ((if_neg (by simp [hc])).trans (if_neg hkeys))

theorem safeSend_closed (data : List Byte) (h : s.safeChannel owner id = none) : safeSend owner id data s = (stOpen 5, s) := by
  simp only [safeSend, h]

theorem safeSend_long {data : List Byte} (h : s.safeChannel owner id = some c) (hlong : 1024 < data.length) :
    safeSend owner id data s = (stRange, s) := by
  simp only [safeSend, h, if_pos hlong]

/-- A message for another device leaves. -/
theorem safeSend_leaves {data : List Byte} (h : s.safeChannel owner id = some c) (hfit : data.length ≤ 1024) (htx : c.tx + 1 < 2 ^ 32)
    (hdev : c.dev ≠ s.selfAddr) : safeSend owner id data s = (stOk, { s.mapSafe owner id (fun c => { c with tx := c.tx + 1 }) with
      safeOut := s.safeOut ++ [⟨BitVec.ofNat 12 s.selfAddr, Fin.ofNat 16 owner, BitVec.ofNat 12 c.dev, Fin.ofNat 16 c.peer,
        BitVec.ofNat 16 id, BitVec.ofNat 32 (c.tx + 1), BitVec.ofNat 64 (s.get TBS_NOW_NS), data⟩] }) := by
  simp only [safeSend, h, if_neg (Nat.not_lt.mpr hfit), if_neg (Nat.not_le.mpr htx), if_pos hdev]
  rfl

/-- A message that a channel accepts: its code is right, it names both ends and the channel, it is no longer than allowed, in time
and behind the last. -/
def accepts (own now : Nat) (x : SafeMsg) (ok : Bool) (c : SafeChannel) : Prop :=
  ok = true ∧ (x.srcDev.toNat = c.dev ∧ x.srcSeat.val = c.peer ∧ x.dstDev.toNat = own ∧ x.dstSeat.val = c.owner ∧ x.id.toNat = c.id) ∧
    x.data.length ≤ 1024 ∧ now - x.time.toNat ≤ c.maxAge ∧ c.rx < x.seq.toNat

section Take
variable (own now : Nat) (x : SafeMsg) (ok : Bool) (c : SafeChannel)

theorem accepts_iff : (ok && (x.srcDev.toNat == c.dev && x.srcSeat.val == c.peer && x.dstDev.toNat == own && x.dstSeat.val == c.owner &&
    x.id.toNat == c.id) && decide (x.data.length ≤ 1024) && decide (now - x.time.toNat ≤ c.maxAge) && decide (c.rx < x.seq.toNat)) = true ↔
    accepts own now x ok c := by
  simp only [accepts, Bool.and_eq_true, beq_iff_eq, decide_eq_true_eq, and_assoc]

theorem take_accepted (h : accepts own now x ok c) : c.take own now x ok =
    { c with rx := x.seq.toNat, time := now, inbox := c.inbox ++ [(decide (c.rx + 1 < x.seq.toNat), x.data)] } :=
  if_pos ((accepts_iff own now x ok c).mpr h)

theorem take_discarded (h : ¬ accepts own now x ok c) : c.take own now x ok = { c with discarded := c.discarded + 1 } :=
  if_neg (mt (accepts_iff own now x ok c).mp h)

end Take

theorem safeRecv_closed (arrived : List (SafeMsg × Bool)) (h : s.safeChannel owner id = none) :
    safeRecv owner id arrived s = (stOpen 5, [], s) := by
  simp only [safeRecv, h]

/-- A channel with the messages that have arrived on it. -/
def withArrived (s : State) (c : SafeChannel) (arrived : List (SafeMsg × Bool)) : SafeChannel :=
  arrived.foldl (fun c x => c.take s.selfAddr (s.get TBS_NOW_NS) x.1 x.2) c

theorem safeRecv_delivers {arrived : List (SafeMsg × Bool)} {a : SafeChannel} {gap : Bool} {data : List Byte} {rest : List (Bool × List Byte)}
    (h : s.safeChannel owner id = some c) (ha : withArrived s c arrived = a) (hin : a.inbox = (gap, data) :: rest) :
    safeRecv owner id arrived s =
      (stOk, BitVec.ofNat 8 (bit gap + bit (decide (a.maxAge < s.get TBS_NOW_NS - a.time)) * 2 + 4) :: bytesOf a.discarded 4 ++ data,
        s.mapSafe owner id (fun _ => { a with inbox := rest })) := by
  subst ha
  rw [withArrived] at hin
  simp only [safeRecv, h, withArrived, hin]
  rfl

end SafeChannels

/-! ### Recovery (R473) -/

section Recovery
variable {i n : Nat} {data : List Byte} {s : State} {im : BootImage} {c : BootComp} (him : s.image = some im) (hc : s.comp i = some c)
  (hrecovery : im.recovery = true)
include him hc hrecovery

theorem recoveryBlock_outOfRange (h : n ≠ c.blocks ∨ c.nb ≤ n) : recoveryBlock i n data s = .now stRange [] s := by
  have hbad : (n ≠ c.blocks || c.nb ≤ n) = true := by simpa using h
  simp only [recoveryBlock, him, hc, hrecovery, Bool.not_true, Bool.false_eq_true, if_false, if_pos hbad]

variable (hnext : n = c.blocks) (hmore : n < c.nb) (hlength : data.length = min 4096 (c.length - n * 4096)) (htype : c.type ≠ 4)
include hnext hmore hlength htype

/-- The next block of a component that is no seat image is checked against its entry of the list. -/
theorem recoveryBlock_checks : recoveryBlock i n data s = if blockGood c n (padBlock data) = true then
    .now stOk [] (s.mapComp i (fun c => { c with blocks := n + 1 })) else .now stSigfail [] (recoveryFails s) := by
  have horder : ¬ (n ≠ c.blocks || c.nb ≤ n) = true := by simp [hnext]; omega
  have hready : ¬ (c.type = 4 && s.memGate 0 (c.dest + n * 4096) != .ok) = true := by simp [htype]
  simp only [recoveryBlock, him, hc, hrecovery, Bool.not_true, Bool.false_eq_true, if_false, if_neg horder, hlength, ne_eq,
    not_true_eq_false, if_neg hready, if_neg htype]

end Recovery

/-! ### The life cycle (R478, R480, R485) -/

/-- The signatures that a transition needs are there. -/
def rowSigned (s : State) (row : Bool × Bool) (ow mk : Option Signed) (n : List Byte) : Prop :=
  (row.1 = true → ow.any (fun x => s.ownerSigned x n) = true) ∧ (row.2 = true → mk.any (fun x => s.makerSigned x n) = true)

theorem not_rowSigned_iff {s : State} {row : Bool × Bool} {ow mk : Option Signed} {n : List Byte} :
    ((row.1 && !ow.any (fun g => s.ownerSigned g n)) || (row.2 && !mk.any (fun g => s.makerSigned g n))) = true ↔
    ¬ rowSigned s row ow mk n := by
  simp only [rowSigned, Bool.or_eq_true, Bool.and_eq_true, Bool.not_eq_true', not_and_or, Classical.not_imp, Bool.not_eq_true]

section LifeCycle
variable {e : Session} {target : Nat} {ow mk : Option Signed} {s : State}

theorem transitionCommand_none (h : transitionRow s.lifeCycle target = none) :
    transitionCommand e target ow mk s = (stDenied, s) := by
  simp only [transitionCommand, h]

section Row
variable {row : Bool × Bool} (hrow : transitionRow s.lifeCycle target = some row)
include hrow

theorem transitionCommand_nonceless (h : e.lcNonce = none) : transitionCommand e target ow mk s = (stSigfail, s) := by
  simp only [transitionCommand, hrow, h]

variable {n : List Byte} (hn : e.lcNonce = some n)
include hn

theorem transitionCommand_noMaker (hneed : row.2 = true) (h : e.maker = false) :
    transitionCommand e target ow mk s = (stDenied, s) := by
  simp [transitionCommand, hrow, hn, hneed, h]

variable (hmaker : row.2 = true → e.maker = true)
include hmaker

theorem transitionCommand_unsigned (h : ¬ rowSigned s row ow mk n) :
    transitionCommand e target ow mk s = (stSigfail, spendNonce e s) := by
  have hfirst : ¬ (row.2 && !e.maker) = true := by simpa using hmaker
  simp only [transitionCommand, hrow, hn, if_neg hfirst, if_pos (not_rowSigned_iff.mpr h)]

theorem transitionCommand_blows (h : rowSigned s row ow mk n) {t : State} (ht : blowTransition target s = some t) :
    transitionCommand e target ow mk s = (stOk, spendNonce e t) := by
  have hfirst : ¬ (row.2 && !e.maker) = true := by simpa using hmaker
  simp only [transitionCommand, hrow, hn, if_neg hfirst, if_neg (mt not_rowSigned_iff.mp (not_not.mpr h)), ht]

end Row

/-! #### Owner keys -/

section KeyAdd
variable {key : List Byte} {g : Signed}

/-- The life-cycle states in which a key may be added. -/
def mayAddKey (s : State) : Prop := s.lifeCycle = lcProvision ∨ s.lifeCycle = lcDevelopment ∨ s.lifeCycle = lcField

theorem mayAddKey_iff : (s.lifeCycle == lcProvision || s.lifeCycle == lcDevelopment || s.lifeCycle == lcField) = true ↔ mayAddKey s := by
  simp only [mayAddKey, Bool.or_eq_true, beq_iff_eq, or_assoc]

/-- The command is signed: in PROVISION by the key itself, afterwards by an owner's. -/
def keyAddSigned (s : State) (e : Session) (key : List Byte) (g : Signed) : Prop :=
  let body := Config.keyCommandBody 0x0803 (e.lcNonce.getD []) key
  if s.lifeCycle = lcProvision then g.key = key ∧ Config.ed448Verify key Config.lcycleContext body g.sig = true
  else s.ownerSigned g body = true

theorem keyAddSigned_iff : (if s.lifeCycle = lcProvision then
    g.key == key && Config.ed448Verify key Config.lcycleContext (Config.keyCommandBody 0x0803 (e.lcNonce.getD []) key) g.sig
    else s.ownerSigned g (Config.keyCommandBody 0x0803 (e.lcNonce.getD []) key)) = true ↔ keyAddSigned s e key g := by
  unfold keyAddSigned
  split
  · rw [Bool.and_eq_true, beq_iff_eq]
  · rfl

theorem keyAdd_denied (h : ¬ mayAddKey s) : keyAdd e key g s = (stDenied, s) :=
  if_pos (by rw [Bool.not_eq_true', ← Bool.not_eq_true, mayAddKey_iff]; exact h)

variable (hmay : mayAddKey s)
include hmay

theorem mayAddKey_not : ¬ (!(s.lifeCycle == lcProvision || s.lifeCycle == lcDevelopment || s.lifeCycle == lcField)) = true := by
  rw [mayAddKey_iff.mpr hmay]
  exact Bool.false_ne_true

theorem keyAdd_nonceless (h : e.lcNonce = none) : keyAdd e key g s = (stSigfail, s) :=
  (if_neg (mayAddKey_not hmay)).trans (if_pos (by simp [h]))

variable (hnonce : e.lcNonce.isSome)
include hnonce

theorem keyAdd_unsigned (h : ¬ keyAddSigned s e key g) : keyAdd e key g s = (stSigfail, spendNonce e s) := by
  refine (if_neg (mayAddKey_not hmay)).trans ((if_neg ?_).trans (if_pos ?_))
  · simp [Option.isSome_iff_ne_none.mp hnonce]
  · rw [Bool.not_eq_true', ← Bool.not_eq_true]
    exact mt keyAddSigned_iff.mp h

theorem keyAdd_adds {k : Nat} {t u : State} (h : keyAddSigned s e key g)
    (hk : [1, 2, 3, 4, 5, 6, 7, 8].find? (fun k => !s.slotProvisioned k && !s.slotSpoiled k) = some k)
    (ht : fuseNow 1 (0x41 + k) (bytesAt (Config.shake256 32 key) 0 32) s = some t) (hu : fuseNow 2 (0x18 + k) 0 t = some u) :
    keyAdd e key g s = (stOk, spendNonce e u) := by
  refine (if_neg (mayAddKey_not hmay)).trans ((if_neg ?_).trans ((if_neg ?_).trans ?_))
  · simp [Option.isSome_iff_ne_none.mp hnonce]
  · rw [Bool.not_eq_true', ← Bool.not_eq_true, not_not]
    exact keyAddSigned_iff.mpr h
  · simp only [hk, ht, hu]

end KeyAdd

section KeyRevoke
variable {k : Nat} {g : Signed}

/-- An owner signs the revocation of slot `k`. -/
def revokeSigned (s : State) (e : Session) (k : Nat) (g : Signed) : Prop :=
  s.ownerSigned g (Config.keyCommandBody 0x0804 (e.lcNonce.getD []) [BitVec.ofNat 8 k]) = true

/-- Another owner slot stays in force. -/
def othersInForce (s : State) (k : Nat) : Prop :=
  ∃ j, 1 ≤ j ∧ j ≤ 8 ∧ j ≠ k ∧ s.slotProvisioned j = true ∧ s.slotRevoked j = false

theorem othersInForce_iff : [1, 2, 3, 4, 5, 6, 7, 8].any (fun j => j != k && s.slotProvisioned j && !s.slotRevoked j) = true ↔
    othersInForce s k := by
  have hmem (j : Nat) : j ∈ [1, 2, 3, 4, 5, 6, 7, 8] ↔ 1 ≤ j ∧ j ≤ 8 := by
    simp only [List.mem_cons, List.not_mem_nil, or_false]
    omega
  simp only [List.any_eq_true, hmem, othersInForce, Bool.and_eq_true, bne_iff_ne, Bool.not_eq_true', and_assoc]

theorem keyRevoke_maker (hk : k = 0) (h : s.lifeCycle ≠ lcMaker) : keyRevoke e k g s = (stDenied, s) :=
  if_pos (by simp [hk, h])

variable (hk : k ≠ 0)
include hk

theorem keyRevoke_nonceless (h : e.lcNonce = none) : keyRevoke e k g s = (stSigfail, s) :=
  (if_neg (by simp [hk])).trans (if_pos (by simp [h]))

variable (hnonce : e.lcNonce.isSome)
include hnonce

/-- With a nonce and a signature of its own for the slot, the first two refusals do not apply. -/
theorem keyRevoke_passes : ¬ (k = 0 && s.lifeCycle != lcMaker) = true ∧ ¬ e.lcNonce.isNone = true := by
  simp [hk, Option.isSome_iff_ne_none.mp hnonce]

theorem keyRevoke_unsigned (h : ¬ revokeSigned s e k g) : keyRevoke e k g s = (stSigfail, spendNonce e s) := by
  obtain ⟨hslot, hnone⟩ := keyRevoke_passes (s := s) hk hnonce
  rw [keyRevoke, if_neg hslot, if_neg hnone, if_neg hk, Bool.eq_false_iff.mpr h]
  rfl

variable (hsigned : revokeSigned s e k g)
include hsigned

theorem keyRevoke_last (h : ¬ othersInForce s k) : keyRevoke e k g s = (stLastkey, spendNonce e s) := by
  obtain ⟨hslot, hnone⟩ := keyRevoke_passes (s := s) hk hnonce
  rw [keyRevoke, if_neg hslot, if_neg hnone, if_neg hk, hsigned, Bool.not_true, if_neg Bool.false_ne_true,
    Bool.eq_false_iff.mpr (mt othersInForce_iff.mp h)]
  exact if_pos (by simp [hk])

theorem keyRevoke_revokes (h : othersInForce s k) {t : State} (ht : fuseNow 2 (0x08 + k) 0 s = some t) :
    keyRevoke e k g s = (stOk, spendNonce e t) := by
  obtain ⟨hslot, hnone⟩ := keyRevoke_passes (s := s) hk hnonce
  rw [keyRevoke, if_neg hslot, if_neg hnone, if_neg hk, hsigned, Bool.not_true, if_neg Bool.false_ne_true, othersInForce_iff.mpr h, ht]
  exact if_neg (by simp)

end KeyRevoke

end LifeCycle

/-! ### Debug grants (R586) -/

theorem signedRequest_fst (r : DbgRequest) (s : State) : (signedRequest r s).1 = s.requestPasses r := by
  unfold signedRequest
  split
  · next h => exact h.symm
  · next h => exact (Bool.eq_false_iff.mpr h).symm

end Sys2Proof.Proofs
end

section
/-!
PROOFS. The service commands of WCI, each from the message that its session takes.
-/

namespace Sys2Proof.Proofs

open Sys2Proof.Machine Sys2Proof.Laws

section Commands
variable {p : Peer} {m : Incoming} {e : Session} {s t : State} {st : Nat} {pl : List Byte}

/-! ### What each command answers -/

theorem safecommOpen_answers {id : BitVec 16} {dev : BitVec 12} {o : Seat} {opened : Bool} {age : Word64} (h : s.Takes p 0x0501 m e)
    (hc : safeOpen m.seat id.toNat dev.toNat o.val opened age.toNat s = (st, t)) (hr : t.Room p m []) :
    exec (.safecommOpen p id dev o opened age) s = .next (answered p m st [] t) :=
  plainWci_answers h _ (by simp only [hc]) hr

theorem safecommSend_answers {id : BitVec 16} {data : List Byte} (h : s.Takes p 0x0502 m e)
    (hc : safeSend m.seat id.toNat data s = (st, t)) (hr : t.Room p m []) :
    exec (.safecommSend p id data) s = .next (answered p m st [] t) :=
  plainWci_answers h _ (by simp only [hc]) hr

theorem safecommRecv_answers {id : BitVec 16} {arrived : List (SafeMsg × Bool)} (h : s.Takes p 0x0503 m e)
    (hc : safeRecv m.seat id.toNat arrived s = (st, pl, t)) (hr : t.Room p m pl) :
    exec (.safecommRecv p id arrived) s = .next (answered p m st pl t) :=
  plainWci_answers h _ hc hr

theorem recoveryBegin_answers {b head : List Byte} {l : List (List Byte)} (h : s.Takes p 0x0701 m e)
    (hc : recoveryBegin b head l s = (st, pl, t)) (hr : t.Room p m pl) :
    exec (.recoveryBegin p b head l) s = .next (answered p m st pl t) :=
  plainWci_answers h _ hc hr

theorem recoveryBlock_answers {i : Fin 32} {n : BitVec 20} {data : List Byte} (h : s.Takes p 0x0702 m e)
    (hc : recoveryBlock i.val n.toNat data s = .now st pl t) (hr : t.Room p m pl) :
    exec (.recoveryBlock p i n data) s = .next (answered p m st pl t) :=
  (runWci_answers (st := st) h _ _ hc hr).trans (by rw [ite_self])

/-- A transition that was made ends in a device reset behind its response. -/
theorem lcycleTransition_answers {g : Fin 6} {ow mk : Option Signed} (h : s.Takes p 0x0802 m e)
    (hc : transitionCommand e g.val ow mk s = (st, t)) (hr : t.Room p m []) : exec (.lcycleTransition p g ow mk) s =
      .next (if st = stOk then softReset (answered p m st [] t) else answered p m st [] t) :=
  runWci_answers (st := st) h _ _ (by simp only [hc]) hr

theorem lcycleTransition_refuses {g : Fin 6} {ow mk : Option Signed} (h : s.Takes p 0x0802 m e)
    (hc : transitionCommand e g.val ow mk s = (st, t)) (hst : st ≠ stOk) (hr : t.Room p m []) :
    exec (.lcycleTransition p g ow mk) s = .next (answered p m st [] t) := by
  rw [lcycleTransition_answers h hc hr, if_neg hst]

theorem keyadd_answers {key : List Byte} {g : Signed} (h : s.Takes p 0x0803 m e) (hc : keyAdd e key g s = (st, t))
    (hr : t.Room p m []) : exec (.keyadd p key g) s = .next (answered p m st [] t) :=
  plainWci_answers h _ (by simp only [hc]) hr

theorem keyrevoke_answers {k : Fin 9} {g : Signed} (h : s.Takes p 0x0804 m e) (hc : keyRevoke e k.val g s = (st, t))
    (hr : t.Room p m []) : exec (.keyrevoke p k g) s = .next (answered p m st [] t) :=
  plainWci_answers h _ (by simp only [hc]) hr

/-- A command that starts a crypto job is answered when the job ends. -/
theorem runWci_defers {op : Nat} (h : s.Takes p op m e) (f : Session → Incoming → State → Reply) (after : Incoming → State → State)
    (hf : f e m s = .job pl t) : runWci p op f after s = .next (deferred p m pl t) := by
  rw [runWci_takes h, hf, Option.getD_some]

/-- A command whose effect ends at once with nothing behind the response. -/
theorem runWci_answersPlain {op : Nat} (h : s.Takes p op m e) (f : Session → Incoming → State → Reply)
    (hf : f e m s = .now st pl t) (hr : t.Room p m pl) : runWci p op f (fun _ t => t) s = .next (answered p m st pl t) :=
  (runWci_answers (st := st) h f _ hf hr).trans (by rw [ite_self])

theorem netcfgSet_answers (h : s.Takes p 0x0B02 m e) (w : Vector Word32 4)
    (hr : (prsPut 11 w[3].toNat (prsPut 10 w[2].toNat (prsPut 9 w[1].toNat (prsPut 8 w[0].toNat s)))).Room p m []) :
    exec (.netcfgSet p w) s = .next (answered p m stOk []
      (prsPut 11 w[3].toNat (prsPut 10 w[2].toNat (prsPut 9 w[1].toNat (prsPut 8 w[0].toNat s))))) :=
  plainWci_answers h _ rfl hr

theorem debugGrant_denied {r : DbgRequest} (h : s.Takes p 0x0901 m e) (hlc : s.lifeCycle = lcProvision ∨ s.lifeCycle = lcEnd)
    (hr : s.Room p m []) : exec (.debugGrant p r) s = .next (answered p m stDenied [] s) :=
  plainWci_answers h _ (if_pos (by simpa using hlc)) hr

theorem debugGrant_checks {r : DbgRequest} (h : s.Takes p 0x0901 m e) (hprovision : s.lifeCycle ≠ lcProvision)
    (hend : s.lifeCycle ≠ lcEnd) (hdbg : s.vddDbg = true) (hst : (if s.requestPasses r then stOk else stSigfail) = st)
    (hr : (signedRequest r s).2.Room p m []) : exec (.debugGrant p r) s = .next (answered p m st [] (signedRequest r s).2) := by
  have hlc : ¬ (s.lifeCycle == lcProvision || s.lifeCycle == lcEnd) = true := by simp [hprovision, hend]
  refine plainWci_answers h _ ((if_neg hlc).trans ((if_neg (by simp [hdbg])).trans ?_)) hr
  rw [← hst, ← signedRequest_fst]

theorem debugRevoke_answers (h : s.Takes p 0x0902 m e) (hm : m.seat ≠ 0) (hr : (endGrant m.seat s).Room p m []) :
    exec (.debugRevoke p) s = .next (answered p m stOk [] (endGrant m.seat s)) :=
  (seatWci_answers (st := stOk) h (fun n s => (stOk, [], endGrant n s)) (fun _ t => t) hm rfl hr).trans (by rw [ite_self])

end Commands

/-- Settles O49: each command's answer is the model's for its message, and what it does is a lemma about its operation. -/
theorem serviceCommands : Obligations.ServiceCommands := by
  intro p m e s
  refine ⟨fun h id dev o opened age => ?safeOpen, fun h id data => ?safeSend, fun own now x ok c => ?safeTake,
    fun h id arr => ?safeRecv, fun h id => ?safeClose, fun h slot => plainWci_answers h _ rfl, fun h o data => ?updateBlock,
    fun h => ?updateCommit, fun h b head l => recoveryBegin_answers h rfl, fun h i n data im c him hc hrecovery => ?recoveryBlock,
    fun h => ?recoveryEnd, fun h => ?nonce, fun h g ow mk => ?transition, fun h key g => ?keyAdd, fun h k g => ?keyRevoke,
    fun h r => ?debugGrant, fun h hm => debugRevoke_answers h hm, fun h n => ?random, fun h n d => ?hash,
    fun h key ctx msg sig => ?verify, fun h ctx msg => ?sign, fun h => ?netcfgGet, fun h w => netcfgSet_answers h w,
    fun op h => ?system⟩
  case safeOpen =>
    have hpeer (ho : o ≠ 0) : o.val ≠ 0 := mt Fin.val_eq_zero_iff.mp ho
    exact ⟨fun ho => safecommOpen_answers h (safeOpen_seatZero _ _ _ (Fin.val_eq_zero_iff.mpr ho)),
      fun ho hc => safecommOpen_answers h (safeOpen_busy _ _ _ (hpeer ho) hc),
      fun ho hc htrng => safecommOpen_answers h (safeOpen_opens _ _ (hpeer ho) hc htrng)⟩
  case safeSend =>
    refine ⟨fun hc => safecommSend_answers h (safeSend_closed data hc), fun c hc =>
      ⟨fun hlong => safecommSend_answers h (safeSend_long hc hlong), fun hfit htx hdev => safecommSend_answers h ?_⟩⟩
    rw [safeSend_leaves hc hfit htx hdev, BitVec.ofNat_toNat, BitVec.setWidth_eq]
  case safeTake => exact ⟨take_accepted own now x ok c, take_discarded own now x ok c⟩
  case safeRecv =>
    exact ⟨fun hc => safecommRecv_answers h (safeRecv_closed arr hc), fun c gap data rest hc hin =>
      safecommRecv_answers h (safeRecv_delivers hc rfl hin)⟩
  case safeClose =>
    exact ⟨fun hc => plainWci_answers h _ (if_pos (by simp [hc])), fun hc =>
      plainWci_answers h _ (if_neg (by simp [Option.isSome_iff_ne_none.mp hc]))⟩
  case updateBlock =>
    exact ⟨fun hu => plainWci_answers h _ (by simp only [hu]), fun slot hu => plainWci_answers h _ (by simp only [hu])⟩
  case updateCommit =>
    exact ⟨fun hu => plainWci_answers h _ (if_neg (by simp [hu])), fun hu => plainWci_answers h _ (if_pos hu)⟩
  case recoveryBlock =>
    refine ⟨fun hbad => recoveryBlock_answers h (recoveryBlock_outOfRange him hc hrecovery hbad),
      fun hnext hmore hlength htype => ⟨fun hgood => ?_, fun hbad => ?_⟩⟩
    · exact recoveryBlock_answers h ((recoveryBlock_checks him hc hrecovery hnext hmore hlength htype).trans (if_pos hgood))
    · exact recoveryBlock_answers h
        ((recoveryBlock_checks him hc hrecovery hnext hmore hlength htype).trans (if_neg (by simp [hbad])))
  case recoveryEnd =>
    exact ⟨fun im him hrecovery hall => plainWci_answers h _ (by simp [him, hrecovery, hall]),
      fun him => plainWci_answers h _ (by simp only [him])⟩
  case nonce =>
    exact ⟨fun htrng => plainWci_answers h _ (if_pos htrng), fun htrng => plainWci_answers h _ (if_neg (by simp [htrng]))⟩
  case transition =>
    refine ⟨fun hrow => lcycleTransition_refuses h (transitionCommand_none hrow) (by decide), fun row hrow =>
      ⟨fun hn => lcycleTransition_refuses h (transitionCommand_nonceless hrow hn) (by decide), fun hneed hmk hn => ?_,
      fun n hn hmk => ⟨fun hbad => lcycleTransition_refuses h (transitionCommand_unsigned hrow hn hmk hbad) (by decide),
        fun t hgood ht hr => ?_⟩⟩⟩
    · obtain ⟨n, hn⟩ := Option.isSome_iff_exists.mp hn
      exact lcycleTransition_refuses h (transitionCommand_noMaker hrow hn hneed hmk) (by decide)
    · rw [lcycleTransition_answers h (transitionCommand_blows hrow hn hmk hgood ht) hr, if_pos rfl]
  case keyAdd =>
    exact ⟨fun hmay => keyadd_answers h (keyAdd_denied hmay), fun hmay hn => keyadd_answers h (keyAdd_nonceless hmay hn),
      fun hmay hn hbad => keyadd_answers h (keyAdd_unsigned hmay hn hbad),
      fun k t u hmay hn hgood hk ht hu => keyadd_answers h (keyAdd_adds hmay hn hgood hk ht hu)⟩
  case keyRevoke =>
    refine ⟨fun hk hlc => keyrevoke_answers h (keyRevoke_maker (congrArg Fin.val hk) hlc), fun hk => ?_⟩
    have hslot : k.val ≠ 0 := mt Fin.val_eq_zero_iff.mp hk
    exact ⟨fun hn => keyrevoke_answers h (keyRevoke_nonceless hslot hn), fun hn =>
      ⟨fun hbad => keyrevoke_answers h (keyRevoke_unsigned hslot hn hbad),
        fun hgood hlast => keyrevoke_answers h (keyRevoke_last hslot hn hgood hlast),
        fun t hgood hmore ht => keyrevoke_answers h (keyRevoke_revokes hslot hn hgood hmore ht)⟩⟩
  case debugGrant =>
    exact ⟨debugGrant_denied h, fun hprovision hend hdbg => ⟨fun hpass => debugGrant_checks h hprovision hend hdbg (if_pos hpass),
      fun hfail => debugGrant_checks h hprovision hend hdbg (if_neg (by simp [hfail]))⟩⟩
  case random =>
    exact ⟨fun hn => plainWci_answers h _ (if_pos hn), fun hn => plainWci_answers h _ (if_neg (Nat.not_lt.mpr hn))⟩
  case hash =>
    exact ⟨fun hn => runWci_answersPlain h _ (if_pos hn), fun hn => runWci_defers h _ _ (if_neg (Nat.not_lt.mpr hn))⟩
  case verify =>
    exact ⟨fun hn => runWci_answersPlain h _ (if_pos hn), fun hn => runWci_defers h _ _ (if_neg (Nat.not_lt.mpr hn))⟩
  case sign =>
    refine ⟨fun hn => runWci_answersPlain h _ (if_pos hn), fun hn => ⟨fun k hk => runWci_defers h _ _ ?_, fun hk =>
      runWci_answersPlain h _ ?_⟩⟩
    · simp only [if_neg (Nat.not_lt.mpr hn), hk]
    · simp only [if_neg (Nat.not_lt.mpr hn), hk]
  case netcfgGet => exact plainWci_answers h _ (by simp)
  case system =>
    exact ⟨fun hop => plainWci_answers h _ (by rw [if_pos hop]), fun hop => plainWci_answers h _ (by rw [if_neg hop])⟩

end Sys2Proof.Proofs
end

section
/-!
PROOFS. Train networks and legacy buses (R519 to R522, R525 to R530): the host queues, frames in both directions, links, legacy
controllers and GPIO.
-/

namespace Sys2Proof.Proofs

open Sys2Proof.Machine Sys2Proof.Laws

/-! ### What a memory read as a seat leaves alone -/

/-- The registers and the gates. -/
def regsGates (s : State) : List (Nat × Word32) × Vector (BitVec 8) 4 := (s.regs, s.gates)

theorem writeBack_regsGates (e : L2Line) (s : State) : regsGates (writeBack e s) = regsGates s := by
  have hpoison (i : Nat) (t : State) : regsGates (t.poisonWord (e.line * 64 + 8 * i)) = regsGates t := rfl
  unfold writeBack State.each
  extract_lets written
  have hwritten : regsGates written = regsGates s := by simp only [regsGates, written, writeMem_regs, writeMem_gates]
  exact ite_keeps regsGates rfl ((foldl_keeps regsGates (fun i _ t => hpoison i t) written).trans hwritten)

theorem l2Clean_regsGates (cl seat line : Nat) (s : State) : regsGates (l2Clean cl seat line s) = regsGates s := by
  unfold l2Clean
  split
  · rfl
  · exact ite_keeps regsGates (writeBack_regsGates _ s) rfl

theorem recallLine_regsGates (line : Nat) (s : State) : regsGates (recallLine line s) = regsGates s :=
  foldl_keeps regsGates (fun _ _ _ => l2Clean_regsGates ..) s

theorem mscRead_regsGates (seat line : Nat) (s : State) : regsGates (mscRead seat line s) = regsGates s := by
  unfold mscRead
  extract_lets bs b set here
  refine ite_keeps regsGates rfl (ite_keeps regsGates rfl ?_)
  split <;> rfl

theorem cohRead_regsGates (seat pa n : Nat) (s : State) : regsGates (cohRead seat pa n s).2 = regsGates s := by
  have hfirst := (mscRead_regsGates seat (pa / 64) _).trans (recallLine_regsGates (pa / 64) s)
  exact (ite_keeps regsGates rfl (recallLine_regsGates ..)).trans hfirst

theorem dmaRead_regsGates (seat pa n : Nat) (s : State) : regsGates (dmaRead seat pa n s).2 = regsGates s := by
  unfold dmaRead
  split
  · rfl
  · rfl
  · exact ite_keeps regsGates rfl (cohRead_regsGates ..)

theorem readBuffer_regsGates (seat : Nat) : ∀ (len a : Nat) (s : State), regsGates (readBuffer seat a len s).2 = regsGates s
  | 0, _, _ => rfl
  | len + 1, a, s => by
    have hone := dmaRead_regsGates seat a 1 s
    unfold readBuffer
    generalize dmaRead seat a 1 s = r at hone ⊢
    obtain ⟨ans, t⟩ := r
    cases ans with
    | ok v => exact (readBuffer_regsGates seat len (a + 1) t).trans hone
    | poison | error | wait => exact hone

theorem get_of_regsGates {s t : State} (h : regsGates t = regsGates s) (f : Fld) (i j : Nat) : t.get f i j = s.get f i j :=
  get_congr s f i j t (congrArg Prod.fst h)

theorem gates_of_regsGates {s t : State} (h : regsGates t = regsGates s) : t.gates = s.gates := congrArg Prod.snd h

/-- Reading a buffer leaves the gates and the time as they were. -/
theorem readBuffer_keeps {n len a : Nat} {data : List Byte} {t u : State} (hb : readBuffer n a len t = (some data, u)) :
    u.gates = t.gates ∧ u.get TBS_NOW_NS = t.get TBS_NOW_NS := by
  have hkeeps : regsGates u = regsGates t := by
    have hread := readBuffer_regsGates n len a t
    rwa [hb] at hread
  exact ⟨gates_of_regsGates hkeeps, get_of_regsGates hkeeps TBS_NOW_NS 0 0⟩

/-! ### Transmit descriptors (R526, R527) -/

theorem hqTxpi_eq (n v : Nat) (s : State) : hqTxpi n v s =
    if ringCount (s.get ETHSW_HQTXPI_INDEX n) (s.get ETHSW_HQTXCI_INDEX n) ≤ ringCount (v % 65536) (s.get ETHSW_HQTXCI_INDEX n) ∧
      ringCount (v % 65536) (s.get ETHSW_HQTXCI_INDEX n) ≤ 256 then s.put ETHSW_HQTXPI_INDEX (v % 65536) n
    else s.put ETHSW_HQSTAT_IDXERR 1 n := rfl

theorem hqTxpiWrite_customer {by_ : Seat} (h : by_ ≠ 0) (v : Word32) {s t : State} (ht : hqTxpi by_.val v.toNat s = t) :
    exec (.hqTxpiWrite by_ v) s = .next (t.answer (.ok 0)) := by
  change execHqTxpiWrite by_ v s = _
  rw [execHqTxpiWrite, if_neg h, ht]

theorem hqTxpiWrite_seatZero (v : Word32) (s : State) : exec (.hqTxpiWrite 0 v) s = .next (s.answer .error) := by
  change execHqTxpiWrite 0 v s = _
  rw [execHqTxpiWrite, if_pos rfl]

theorem hqRxciWrite_seatZero (v : Word32) (s : State) : exec (.hqRxciWrite 0 v) s = .next (s.answer .error) := by
  change execHqRxciWrite 0 v s = _
  rw [execHqRxciWrite, if_pos rfl]

theorem hqRxciWrite_customer {by_ : Seat} (h : by_ ≠ 0) (v : Word32) (s : State) : exec (.hqRxciWrite by_ v) s =
    .next ((s.put ETHSW_HQRXCI_INDEX (v.toNat % 65536) by_.val).answer (.ok 0)) := by
  change execHqRxciWrite by_ v s = _
  rw [execHqRxciWrite, if_neg h]

section Transmit
variable {seat : Seat} {granted : Bool} {port : Fin 6} {s t : State}

/-- The place of the next transmit descriptor of a seat. -/
def txAddr (s : State) (n : Nat) : Nat := hqAddr (s.get ETHSW_HQTXBASE_ADDR n * 0x2000) (s.get ETHSW_HQTXCI_INDEX n)

theorem hqTx_waits (h : s.hqTakes seat.val = false ∨ s.flag ETHSW_HQSTAT_HOLD seat.val = true ∨
    ringCount (s.get ETHSW_HQTXPI_INDEX seat.val) (s.get ETHSW_HQTXCI_INDEX seat.val) = 0) :
    exec (.hqTxComplete seat granted port) s = .next s := by
  have hwaits : (!s.hqTakes seat.val || s.flag ETHSW_HQSTAT_HOLD seat.val ||
      ringCount (s.get ETHSW_HQTXPI_INDEX seat.val) (s.get ETHSW_HQTXCI_INDEX seat.val) == 0) = true := by
    rcases h with h | h | h <;> simp [h]
  change execHqTxComplete seat granted port s = _
  unfold execHqTxComplete
  extract_lets n ci a
  rw [if_pos hwaits]

variable (htakes : s.hqTakes seat.val = true) (hhold : s.flag ETHSW_HQSTAT_HOLD seat.val = false)
  (hsome : ringCount (s.get ETHSW_HQTXPI_INDEX seat.val) (s.get ETHSW_HQTXCI_INDEX seat.val) ≠ 0)
include htakes hhold hsome

theorem hqTx_ready : ¬ (!s.hqTakes seat.val || s.flag ETHSW_HQSTAT_HOLD seat.val ||
    ringCount (s.get ETHSW_HQTXPI_INDEX seat.val) (s.get ETHSW_HQTXCI_INDEX seat.val) == 0) = true := by
  simp [htakes, hhold, hsome]

/-- What becomes of a descriptor once it has been read. -/
def txRead (n ci a port : Nat) (granted : Bool) (s : State) (r : Option HqDesc × State) : State :=
  match r.1 with
  | none => txRefused n ci a r.2
  | some d =>
    if !granted || !d.good || d.tc == 7 || !(r.2.get ETHSW_HQCFG_TCMASK n).testBit d.tc then txRefused n ci a r.2
    else (txFrame n ci a port d r.2).getD s

theorem hqTx_reads {r : Option HqDesc × State} (hr : readDesc seat.val (txAddr s seat.val) s = r)
    (ht : txRead seat.val (s.get ETHSW_HQTXCI_INDEX seat.val) (txAddr s seat.val) port.val granted s r = t) :
    exec (.hqTxComplete seat granted port) s = .next t := by
  change execHqTxComplete seat granted port s = _
  unfold execHqTxComplete
  extract_lets n ci a
  rw [if_neg (hqTx_ready htakes hhold hsome), show readDesc n a s = r from hr]
  subst ht
  obtain ⟨d, u⟩ := r
  cases d with
  | none => rfl
  | some d => simp only [txRead]; split <;> rfl

end Transmit

section Read
variable {n ci a port : Nat} {granted : Bool} {s t : State}

/-- A descriptor that may leave: the switch grants it, its reserved bits are 0, and its class is one of the seat's. -/
def mayLeave (t : State) (n : Nat) (granted : Bool) (d : HqDesc) : Prop :=
  granted = true ∧ d.good = true ∧ d.tc ≠ 7 ∧ (t.get ETHSW_HQCFG_TCMASK n).testBit d.tc = true

theorem not_mayLeave_iff {d : HqDesc} :
    (!granted || !d.good || d.tc == 7 || !(t.get ETHSW_HQCFG_TCMASK n).testBit d.tc) = true ↔ ¬ mayLeave t n granted d := by
  simp only [mayLeave, Bool.or_eq_true, Bool.not_eq_true', beq_iff_eq, not_and_or, Bool.not_eq_true, ne_eq, not_not, or_assoc]

variable {d : HqDesc}

theorem txRead_refused (h : ¬ mayLeave t n granted d) : txRead n ci a port granted s (some d, t) = txRefused n ci a t :=
  if_pos (not_mayLeave_iff.mpr h)

section Leaves
variable (h : mayLeave t n granted d)
include h

theorem txRead_frame : txRead n ci a port granted s (some d, t) = (txFrame n ci a port d t).getD s :=
  if_neg (mt not_mayLeave_iff.mp (not_not.mpr h))

theorem txRead_unread {u : State} (hb : readBuffer n d.addr d.len t = (none, u)) :
    txRead n ci a port granted s (some d, t) = txRefused n ci a u := by
  simp only [txRead_frame h, txFrame, hb, Option.getD_some]

variable {data : List Byte} {u : State} (hb : readBuffer n d.addr d.len t = (some data, u))
include hb

theorem txRead_sends (hopen : port < 4 → u.gates[port]!.getLsbD d.tc = true) : txRead n ci a port granted s (some d, t) =
    txSent n ci a port d.tc (if d.tsreq then some (u.get TBS_NOW_NS) else none) data u := by
  obtain ⟨hgates, htime⟩ := readBuffer_keeps hb
  have hgate : ¬ (port < 4 && !(t.gates[port]!).getLsbD d.tc) = true := by
    rw [hgates] at hopen
    simpa using hopen
  simp only [txRead_frame h, txFrame, hb, if_neg hgate, Option.getD_some, htime]

theorem txRead_waits (hclosed : ¬ (port < 4 → u.gates[port]!.getLsbD d.tc = true)) :
    txRead n ci a port granted s (some d, t) = s := by
  obtain ⟨hgates, -⟩ := readBuffer_keeps hb
  have hgate : (port < 4 && !(t.gates[port]!).getLsbD d.tc) = true := by
    rw [hgates] at hclosed
    simpa using hclosed
  simp only [txRead_frame h, txFrame, hb, if_pos hgate, Option.getD_none]

end Leaves
end Read

/-! ### Received frames -/

/-- The place of the next receive descriptor of a seat. -/
def rxAddr (s : State) (n : Nat) : Nat := hqAddr (s.get ETHSW_HQRXBASE_ADDR n * 0x2000) (s.get ETHSW_HQRXPI_INDEX n)

/-- A receive descriptor completes, and its index moves on with RXEV and the seat's source. -/
def rxDone (n pi a now sts : Nat) (s : State) : State :=
  let u := completeDesc n a sts (some now) s
  raiseSrc (srcHostQueue n) ((u.put ETHSW_HQRXPI_INDEX ((pi + 1) % 65536) n).put ETHSW_HQSTAT_RXEV 1 n)

/-- A receive descriptor is refused: ERR and POL, and POLDROP. -/
def rxRefused (n pi a now : Nat) (s : State) : State := rxDone n pi a now 0xE0000000 (s.put ETHSW_HQSTAT_POLDROP 1 n)

/-- What becomes of a frame once its buffer has been written. -/
def rxWritten (n pi a now len : Nat) (r : Bool × State) : State :=
  if r.1 then rxDone n pi a now (0x80000000 + len % 2 ^ 14) r.2 else rxRefused n pi a now r.2

/-- What becomes of a frame once its descriptor has been read. -/
def rxRead (n pi a : Nat) (data : List Byte) (r : Option HqDesc × State) : State :=
  match r.1 with
  | none => rxRefused n pi a (r.2.get TBS_NOW_NS) r.2
  | some d =>
    if !d.good then rxRefused n pi a (r.2.get TBS_NOW_NS) r.2
    else if d.len < data.length then rxDone n pi a (r.2.get TBS_NOW_NS) (0xC0000000 + data.length % 2 ^ 14) r.2
    else rxWritten n pi a (r.2.get TBS_NOW_NS) data.length (writeBuffer n d.addr data r.2)

section Deliver
variable {n : Nat} {s : State} (data : List Byte)

theorem deliverFrame_dropped (h : s.hqTakes n = false ∨ ringCount (s.get ETHSW_HQRXPI_INDEX n) (s.get ETHSW_HQRXCI_INDEX n) = 256) :
    deliverFrame data n s = s.countUp ETHSW_HQSTAT_DROPS n := by
  have hfull : (!s.hqTakes n || ringCount (s.get ETHSW_HQRXPI_INDEX n) (s.get ETHSW_HQRXCI_INDEX n) == 256) = true := by
    rcases h with h | h <;> simp [h]
  unfold deliverFrame
  extract_lets pi
  rw [if_pos hfull]

theorem deliverFrame_reads (htakes : s.hqTakes n = true)
    (hfree : ringCount (s.get ETHSW_HQRXPI_INDEX n) (s.get ETHSW_HQRXCI_INDEX n) ≠ 256) :
    deliverFrame data n s = rxRead n (s.get ETHSW_HQRXPI_INDEX n) (rxAddr s n) data (readDesc n (rxAddr s n) s) := by
  have hfits : ¬ (!s.hqTakes n || ringCount (s.get ETHSW_HQRXPI_INDEX n) (s.get ETHSW_HQRXCI_INDEX n) == 256) = true := by
    simp [htakes, hfree]
  unfold deliverFrame
  extract_lets pi a
  rw [if_neg hfits, show rxAddr s n = a from rfl]
  generalize readDesc n a s = r
  obtain ⟨d, t⟩ := r
  cases d with
  | none => rfl
  | some d =>
    simp only [rxRead, rxWritten]
    generalize writeBuffer n d.addr data t = w
    rfl

end Deliver

section Frame
variable {data : List Byte} {seat : Seat} {s : State}

theorem frameReceive_ignored (h : s.device ≠ .on ∨ 9216 < data.length) : exec (.frameReceive data [seat]) s = .next s := by
  have hnone : (s.device != .on || 9216 < data.length) = true := by simpa using h
  change execFrameReceive data [seat] s = _
  rw [execFrameReceive, if_pos hnone]

theorem frameReceive_one (hon : s.device = .on) (hfit : data.length ≤ 9216) (hseat : seat ≠ 0) {t : State}
    (ht : deliverFrame data seat.val s = t) : exec (.frameReceive data [seat]) s = .next t := by
  have htaken : ¬ (s.device != .on || 9216 < data.length) = true := by simp [hon, hfit]
  have hone : 1 ≤ seat.val := Nat.one_le_iff_ne_zero.mpr (mt Fin.val_eq_zero_iff.mp hseat)
  have hlist : (([seat].map (·.val)).filter (1 ≤ ·)) = [seat.val] := by simp [hone]
  change execFrameReceive data [seat] s = _
  rw [execFrameReceive, if_neg htaken, hlist]
  exact congrArg Host.Outcome.next ht

end Frame

theorem rxRead_long {n pi a : Nat} {data : List Byte} {d : HqDesc} {t : State} (hgood : d.good = true) (hlong : d.len < data.length) :
    rxRead n pi a data (some d, t) = rxDone n pi a (t.get TBS_NOW_NS) (0xC0000000 + data.length % 2 ^ 14) t :=
  (if_neg (by simp [hgood])).trans (if_pos hlong)

theorem rxRead_writes {n pi a : Nat} {data : List Byte} {d : HqDesc} {t : State} (hgood : d.good = true) (hfit : data.length ≤ d.len) :
    rxRead n pi a data (some d, t) = rxWritten n pi a (t.get TBS_NOW_NS) data.length (writeBuffer n d.addr data t) :=
  (if_neg (by simp [hgood])).trans (if_neg (Nat.not_lt.mpr hfit))

theorem rxRead_written {n pi a : Nat} {data : List Byte} {d : HqDesc} {t u : State} (hgood : d.good = true) (hfit : data.length ≤ d.len)
    (hw : writeBuffer n d.addr data t = (true, u)) :
    rxRead n pi a data (some d, t) = rxDone n pi a (t.get TBS_NOW_NS) (0x80000000 + data.length % 2 ^ 14) u := by
  rw [rxRead_writes hgood hfit, hw]
  exact if_pos rfl

theorem rxRead_refused {n pi a : Nat} {data : List Byte} {d : HqDesc} {t u : State} (hgood : d.good = true) (hfit : data.length ≤ d.len)
    (hw : writeBuffer n d.addr data t = (false, u)) : rxRead n pi a data (some d, t) = rxRefused n pi a (t.get TBS_NOW_NS) u := by
  rw [rxRead_writes hgood hfit, hw]
  exact if_neg Bool.false_ne_true

theorem rxRead_bad {n pi a : Nat} {data : List Byte} {d : HqDesc} {t : State} (hbad : d.good = false) :
    rxRead n pi a data (some d, t) = rxRefused n pi a (t.get TBS_NOW_NS) t :=
  if_pos (by simp [hbad])

/-! ### Links, legacy controllers and descriptors -/

/-- A place within its bounds is written. -/
theorem set!_fin {α : Type} {n : Nat} (v : Vector α n) (i : Fin n) (x : α) : v.set! i.val x = v.set i x := by
  refine Vector.ext fun j hj => ?_
  rw [Vector.set!_eq_setIfInBounds, Vector.getElem_setIfInBounds, Vector.getElem_set]

theorem hqTakes_iff (s : State) (n : Nat) : s.hqTakes n = true ↔ s.device = .on ∧ 1 ≤ n ∧ s.flag ETHSW_HQCFG_EN n = true ∧
    s.seatSafe n = false ∧ s.quenched n = false ∧ s.seatResetting n = false := by
  simp only [State.hqTakes, Bool.and_eq_true, beq_iff_eq, decide_eq_true_eq, Bool.not_eq_true', and_assoc]

theorem hqDesc_good_iff (w0 w1 w3 : Nat) : (hqDesc w0 w1 w3).good = true ↔ w0 < 2 ^ 48 ∧ w1 / 2 ^ 18 % 2 ^ 14 = 0 ∧ w3 = 0 := by
  simp only [hqDesc, slice, Bool.and_eq_true, beq_iff_eq, decide_eq_true_eq, and_assoc]

section Links
variable {p : Fin 5} {speed : Nat} {s : State}

/-- A speed that a port of ETH can have, or none. -/
def portSpeed (p : Fin 5) (speed : Nat) : Prop := speed = 0 ∨ (p = 4 ∧ (speed = 100 ∨ speed = 1000)) ∨ (p ≠ 4 ∧ speed = 10000)

theorem portSpeed_iff : (speed == 0 || (if p = 4 then speed == 100 || speed == 1000 else speed == 10000)) = true ↔ portSpeed p speed := by
  by_cases hp : p = 4 <;> simp [portSpeed, hp]

theorem ethLinkChange_follows (h : portSpeed p speed) :
    exec (.ethLinkChange p speed) s = .next { s with ethLink := s.ethLink.set p speed } := by
  change execEthLinkChange p speed s = _
  unfold execEthLinkChange
  extract_lets legal
  rw [if_pos (portSpeed_iff.mpr h), set!_fin]

theorem ethLinkChange_ignored (h : ¬ portSpeed p speed) : exec (.ethLinkChange p speed) s = .next s := by
  change execEthLinkChange p speed s = _
  unfold execEthLinkChange
  extract_lets legal
  rw [if_neg (mt portSpeed_iff.mp h)]

end Links

theorem gateWindowOpen_opens (port : Fin 4) (classes : BitVec 8) (s : State) :
    exec (.gateWindowOpen port classes) s = .next { s with gates := s.gates.set port (classes ||| 0x80) } := by
  change execGateWindowOpen port classes s = _
  rw [execGateWindowOpen, set!_fin]

section Legacy
variable {c : Fin 20} (data : List Byte) {s : State}

theorem legacyBusReceive_ignored (h : s.device ≠ .on ∨ s.seatSafe (s.ctlOwner c.val) = true) :
    exec (.legacyBusReceive c data) s = .next s := by
  have hnone : (s.device != .on || s.seatSafe (s.ctlOwner c.val)) = true := by simpa using h
  change execLegacyBusReceive c data s = _
  unfold execLegacyBusReceive
  extract_lets o
  rw [if_pos hnone]

theorem legacyBusReceive_listens (hon : s.device = .on) (hsafe : s.seatSafe (s.ctlOwner c.val) = false) :
    exec (.legacyBusReceive c data) s = .next (raiseSrc (srcLegacy c.val) { s with
      legacy := s.legacy.set c ⟨s.legacy[c].rx ++ [data], s.ctlOwner c.val == 0 || s.get BOOT_STAT_MS == 4⟩ }) := by
  have htaken : ¬ (s.device != .on || s.seatSafe (s.ctlOwner c.val)) = true := by simp [hon, hsafe]
  have hold : s.legacy[c.val]! = s.legacy[c] := getElem!_pos s.legacy c.val c.isLt
  have hanswers : (!s.startHeld) = (s.get BOOT_STAT_MS == 4) := by simp [State.startHeld, bne]
  change execLegacyBusReceive c data s = _
  unfold execLegacyBusReceive
  extract_lets o l
  rw [if_neg htaken, set!_fin, show l = s.legacy[c] from hold, hanswers]

end Legacy

/-- Settles O50: a descriptor that is taken meets its refusals in order, and the switch reads it as its seat. -/
theorem trainNetworksAndLegacyBuses : Obligations.TrainNetworksAndLegacyBuses := by
  unfold Obligations.TrainNetworksAndLegacyBuses
  refine ⟨fun by_ v s => ?indices, fun seat granted port s => ?transmit, fun n s => hqTakes_iff s n, hqDesc_good_iff,
    fun data seat s => ?receive, gateWindowOpen_opens, fun _ _ => rfl, fun p speed s => ⟨ethLinkChange_follows, ethLinkChange_ignored⟩,
    fun c data s => ⟨legacyBusReceive_ignored data, legacyBusReceive_listens data⟩, fun _ _ => rfl⟩
  case indices =>
    refine ⟨fun h => h ▸ ⟨hqTxpiWrite_seatZero v s, hqRxciWrite_seatZero v s⟩, fun h => ⟨fun hold hfit => ?_, fun hbad => ?_,
      hqRxciWrite_customer h v s⟩⟩
    · exact hqTxpiWrite_customer h v ((hqTxpi_eq ..).trans (if_pos ⟨hold, hfit⟩))
    · exact hqTxpiWrite_customer h v ((hqTxpi_eq ..).trans (if_neg fun hok =>
        hbad.elim (Nat.not_lt.mpr hok.1) (Nat.not_lt.mpr hok.2)))
  case transmit =>
    refine ⟨hqTx_waits, fun htakes hhold hsome => ⟨fun t ht => ?_, fun d t ht => ⟨fun hbad => ?_, fun hgood =>
      ⟨fun u hu => ?_, fun data u hu => ⟨fun hopen => ?_, fun hclosed => ?_⟩⟩⟩⟩⟩
    · exact hqTx_reads htakes hhold hsome ht rfl
    · exact hqTx_reads htakes hhold hsome ht (txRead_refused hbad)
    · exact hqTx_reads htakes hhold hsome ht (txRead_unread hgood hu)
    · exact hqTx_reads htakes hhold hsome ht (txRead_sends hgood hu hopen)
    · exact hqTx_reads htakes hhold hsome ht (txRead_waits hgood hu hclosed)
  case receive =>
    refine ⟨frameReceive_ignored, fun hon hfit hseat =>
      ⟨fun h => frameReceive_one hon hfit hseat (deliverFrame_dropped data h), fun htakes hfree d t ht => ?_⟩⟩
    have hread : deliverFrame data seat.val s = rxRead seat.val (s.get ETHSW_HQRXPI_INDEX seat.val) (rxAddr s seat.val) data (some d, t) :=
      (deliverFrame_reads data htakes hfree).trans (congrArg (rxRead _ _ _ data) ht)
    refine ⟨fun hgood hlong => ?_, fun hgood hfit' u => ⟨fun hw => ?_, fun hw => ?_⟩, fun hbad => ?_⟩
    · exact frameReceive_one hon hfit hseat (hread.trans (rxRead_long hgood hlong))
    · exact frameReceive_one hon hfit hseat (hread.trans (rxRead_written hgood hfit' hw))
    · exact frameReceive_one hon hfit hseat (hread.trans (rxRead_refused hgood hfit' hw))
    · exact frameReceive_one hon hfit hseat (hread.trans (rxRead_bad hbad))

end Sys2Proof.Proofs
end

section
/-!
PROOFS. Chain links (R531 to R538, R541 to R556): cells, routes, authentication and addresses, remote requests, STOP, system time and
the state of a port.
-/

namespace Sys2Proof.Proofs

open Sys2Proof.Machine Sys2Proof.Laws

/-! ### Cells that arrive (R535 to R538) -/

section ClearSent
variable (s : State)

theorem clearSent_flag (f : Fld) (i j : Nat) : (clearSent s).flag f i j = s.flag f i j := flag_congr s f i j _ rfl
theorem clearSent_ports : (clearSent s).ucl.ports = s.ucl.ports := rfl
theorem clearSent_get (f : Fld) (i j : Nat) : (clearSent s).get f i j = s.get f i j := get_congr s f i j _ rfl

theorem ownAddr_of_regs {s t : State} (h : t.regs = s.regs) : t.ownAddr = s.ownAddr := by
  simp only [State.ownAddr, flag_congr s UCL_ADDR_VALID 0 0 t h, get_congr s UCL_ADDR_DEV 0 0 t h]

theorem clearSent_ownAddr : (clearSent s).ownAddr = s.ownAddr := ownAddr_of_regs rfl

theorem mapUport_port {n : Nat} (hn : n < 4) (f : UclPort → UclPort) : (s.mapUport n f).ucl.ports[n]! = f s.ucl.ports[n]! := by
  simp [State.mapUport, hn]

end ClearSent

/-- A port with the cells that `ack` covers forgotten. -/
def acked (n : Nat) (ack : Nat) (s : State) : State :=
  s.mapUport n (fun p => { p with
    replays := if seqAfter p.replayAck ack then 0 else p.replays
    sent := p.sent.filter (fun x => seqAfter ack x.txseq.toNat) })

/-- The port's answer to a good cell behind one that it has not received: one NAK. -/
def outOfOrder (n own : Nat) (s : State) : State :=
  if s.ucl.ports[n]!.resync then s else sendNak n own (s.mapUport n (fun p => { p with resync := true }))

section Receive
variable {port : Fin 4} {c : Cell} {s : State}

theorem cellReceive_down (h : s.flag UCL_PSTAT_UP port.val = false) (ok : Bool) : exec (.cellReceive port c ok) s = .next s := by
  change execCellReceive port c ok s = _
  unfold execCellReceive
  extract_lets n
  rw [if_pos (by simp [n, h])]

variable (hup : s.flag UCL_PSTAT_UP port.val = true)
include hup

theorem cellReceive_damaged : exec (.cellReceive port c false) s = .next (sendNak port.val (s.ownAddr.getD 0)
    (((clearSent s).countUp UCL_PERR_CRC port.val).mapUport port.val (fun p => { p with resync := true }))) := by
  change execCellReceive port c false s = _
  unfold execCellReceive
  extract_lets n t own bad
  rw [if_neg (by simp [n, hup]), if_pos (by rfl)]
  simp only [bad, own, t, clearSent_ownAddr, n]

theorem cellReceive_unknown (h : 9 ≤ c.type.val) :
    exec (.cellReceive port c true) s = .next ((clearSent s).countUp UCL_PERR_CRC port.val) := by
  change execCellReceive port c true s = _
  unfold execCellReceive
  extract_lets n t own bad
  rw [if_neg (by simp [n, hup]), if_neg (by simp), if_pos h]

/-- A good cell that acknowledges is taken by its place in the sequence. -/
theorem cellReceive_good (htype : c.type.val < 9) (hnak : c.nak = false) {u : State} {q : UclPort}
    (hu : acked port.val c.ack.toNat (clearSent s) = u) (hq : s.ucl.ports[port.val]! = q) : exec (.cellReceive port c true) s =
    .next (if c.txseq = 0 then acceptCell port.val c u
      else if c.txseq.toNat = q.rxNext then acceptCell port.val c (u.mapUport port.val
        (fun p => { p with rxNext := if q.rxNext = 65535 then 1 else q.rxNext + 1, resync := false }))
      else if q.resync then u
      else sendNak port.val (s.ownAddr.getD 0) (u.mapUport port.val (fun p => { p with resync := true }))) := by
  have hport : u.ucl.ports[port.val]!.rxNext = q.rxNext ∧ u.ucl.ports[port.val]!.resync = q.resync := by
    rw [← hu, acked, mapUport_port _ port.isLt, clearSent_ports, hq]
    exact ⟨rfl, rfl⟩
  obtain ⟨hnext, hsync⟩ := hport
  change execCellReceive port c true s = _
  unfold execCellReceive
  extract_lets n t own bad v p next
  have hv : v = u := (if_neg (by simp [hnak])).trans hu
  rw [if_neg (by simp [n, hup]), if_neg (by simp), if_neg (Nat.not_le.mpr htype)]
  simp only [next, p, hv, n, hnext, hsync, own, t, clearSent_ownAddr]
  split_ifs <;> rfl

end Receive

/-! ### Forwarding (R531, R532, R553) -/

section Forward
variable {n own : Nat} {c : Cell} {s : State}

/-- A cell of a request, a response or a message that is not for this device goes on. -/
theorem acceptCell_forwards (hauth : s.flag UCL_PSTAT_AUTH n = true) (hopen : s.ucl.ports[n]!.linkOnly = false)
    (hown : s.ownAddr = some own) (hdst : c.dst.toNat ≠ own) (hlow : 1 ≤ c.type.val) (hhigh : c.type.val ≤ 5)
    (hmembers : c.type.val = 5 → s.membersInForce = true) : acceptCell n c s = forwardCell n own c s := by
  have hmgt : ¬ (c.type.val = cellMgt && !s.membersInForce) = true := by
    intro h
    simp only [Bool.and_eq_true, Bool.not_eq_true'] at h
    exact Bool.false_ne_true (h.2.symm.trans (hmembers (of_decide_eq_true h.1)))
  unfold acceptCell
  extract_lets t
  rw [if_neg (by simp only [t, cellIdle]; omega), if_neg (by simp only [t, cellLink]; omega), if_neg hmgt,
    if_neg (by simp [hauth, hopen]), if_neg (by simp only [t, cellStop]; omega)]
  simp only [hown, if_pos hdst]

theorem forwardCell_sends {m : Nat} (h : s.outPort own c.dst.toNat = some m) : forwardCell n own c s = sendCell m c s := by
  simp only [forwardCell, h]

theorem forwardCell_refuses (hlow : 1 ≤ c.type.val) (h : s.outPort own c.dst.toNat = none) (htype : c.type.val ≤ 3) :
    forwardCell n own c s = respondCell n c own 1 [] s := by
  simp [forwardCell, h, hlow, htype]

theorem forwardCell_drops (h : s.outPort own c.dst.toNat = none) (htype : 4 ≤ c.type.val) : forwardCell n own c s = s := by
  have hno : ¬ c.type.val ≤ 3 := by omega
  simp [forwardCell, h, hno]

end Forward

section Routes
variable {own dest : Nat}

theorem routePort_chain (h : own / 64 = dest / 64) : routePort own dest = if own < dest then 1 else 0 := by
  have hpos : posOf own < posOf dest ↔ own < dest := by
    simp only [posOf]
    omega
  simp only [routePort, chainOf, if_pos h.symm, hpos]

theorem routePort_branch (h : own / 64 ≠ dest / 64) (hown : own / 64 ≠ 0) : routePort own dest = 0 := by
  simp [routePort, chainOf, h.symm, hown]

theorem routePort_trunk (h : own / 64 ≠ dest / 64) (hown : own / 64 = 0) :
    routePort own dest = if own < dest / 64 then 1 else if dest / 64 = own then 2 else 0 := by
  have hpos : posOf own = own := by
    simp only [posOf]
    omega
  simp only [routePort, chainOf, if_neg (Ne.symm h), if_pos hown, hpos]

end Routes

/-! ### Authentication and addresses (R541, R542, R555) -/

section LinkAuth
variable {port : Fin 4} {key : List Byte} {ok : Bool} {peer : Option (BitVec 12)} {m : Bool} {s : State}

theorem linkAuth_idle (h : s.flag UCL_PSTAT_UP port.val = false ∨ s.flag UCL_PSTAT_AUTH port.val = true ∨ s.membersInForce = false ∨
    s.flag CRE_STAT_TRNGF = true) : exec (.linkAuth port key ok peer m) s = .next s := by
  have hidle : (!s.flag UCL_PSTAT_UP port.val || s.flag UCL_PSTAT_AUTH port.val || !s.membersInForce ||
      s.flag CRE_STAT_TRNGF) = true := by rcases h with h | h | h | h <;> simp [h]
  change execLinkAuth port key ok peer m s = _
  unfold execLinkAuth
  extract_lets n
  rw [if_pos hidle]

/-- The peer claims the manager role, and another key has claimed it before. -/
def managerClash (s : State) (m : Bool) (key : List Byte) : Prop :=
  m = true ∧ s.flag UCL_CFG_MGR = false ∧ ∃ k, s.ucl.mgrKey = some k ∧ k ≠ key

theorem managerClash_iff : (m && !s.flag UCL_CFG_MGR && s.ucl.mgrKey.any (· != key)) = true ↔ managerClash s m key := by
  simp only [managerClash, Bool.and_eq_true, Bool.not_eq_true', Option.any_eq_true, bne_iff_ne, and_assoc]

/-- A peer that claims no manager role leaves the manager's key as it was. -/
theorem mapUport_mgrKey (t : State) (n : Nat) (f : UclPort → UclPort) (key : List Byte) :
    ({ t.mapUport n f with
      ucl := { (t.mapUport n f).ucl with mgrKey := if false && t.ucl.mgrKey.isNone then some key else t.ucl.mgrKey } } : State) =
      t.mapUport n f := rfl

/-- A member of the list signs. -/
def memberSigns (s : State) (ok : Bool) (key : List Byte) : Prop := ok = true ∧ Config.shake256 32 key ∈ s.members

variable (hup : s.flag UCL_PSTAT_UP port.val = true) (hauth : s.flag UCL_PSTAT_AUTH port.val = false)
  (hmembers : s.membersInForce = true) (htrng : s.flag CRE_STAT_TRNGF = false)
include hup hauth hmembers htrng

theorem linkAuth_ready : ¬ (!s.flag UCL_PSTAT_UP port.val || s.flag UCL_PSTAT_AUTH port.val || !s.membersInForce ||
    s.flag CRE_STAT_TRNGF) = true := by simp [hup, hauth, hmembers, htrng]

theorem linkAuth_clash (h : managerClash s m key) : exec (.linkAuth port key ok peer m) s =
    .next (((clearSent s).put UCL_STAT_MGRCONF 1).mapUport port.val (fun p => { p with linkOnly := true })) := by
  obtain ⟨hm, hmgr, k, hk, hne⟩ := h
  have hkey : (clearSent s).ucl.mgrKey = some k := hk
  change execLinkAuth port key ok peer m s = _
  unfold execLinkAuth
  extract_lets n t conflict
  have hconflict : conflict = true := by simp [conflict, t, clearSent_flag, hm, hmgr, hkey, hne]
  rw [if_neg (linkAuth_ready hup hauth hmembers htrng), if_pos hconflict]

variable (hclash : ¬ managerClash s m key)
include hclash

theorem linkAuth_stranger (h : ¬ memberSigns s ok key) : exec (.linkAuth port key ok peer m) s =
    .next (((clearSent s).put UCL_STAT_AUTHF 1).mapUport port.val (fun p => { p with linkOnly := true })) := by
  have hsigned : ¬ (ok && s.members.contains (Config.shake256 32 key)) = true := by simpa [memberSigns] using h
  change execLinkAuth port key ok peer m s = _
  unfold execLinkAuth
  extract_lets n t conflict
  have hconflict : ¬ conflict = true := by
    have hkey : t.ucl.mgrKey.any (· != key) = s.ucl.mgrKey.any (· != key) := rfl
    refine mt (fun hc => managerClash_iff.mp ?_) hclash
    rw [← hkey, ← hc]
    simp only [conflict, t, clearSent_flag]
    cases (clearSent s).ucl.mgrKey <;> rfl
  rw [if_neg (linkAuth_ready hup hauth hmembers htrng), if_neg hconflict]
  exact if_neg hsigned

theorem linkAuth_member (h : memberSigns s ok key) (hm : m = false) : exec (.linkAuth port key ok peer m) s =
    .next (assignOver port.val ((((clearSent s).put UCL_PSTAT_AUTH 1 port.val).put UCL_PSTAT_PEER
      ((peer.map BitVec.toNat).getD 0) port.val).mapUport port.val (fun p => { p with linkOnly := false }))) := by
  subst hm
  have hsigned : (ok && s.members.contains (Config.shake256 32 key)) = true := by simpa [memberSigns] using h
  change execLinkAuth port key ok peer false s = _
  unfold execLinkAuth
  extract_lets n t conflict u opened ports v
  have hpeer : u = (t.put UCL_PSTAT_AUTH 1 n).put UCL_PSTAT_PEER ((peer.map BitVec.toNat).getD 0) n := by
    simp only [u]
    cases peer <;> rfl
  have hkey : v = opened := mapUport_mgrKey u n _ key
  rw [if_neg (linkAuth_ready hup hauth hmembers htrng), if_neg (by simp [conflict]), hkey]
  simp only [opened, hpeer]
  exact if_pos hsigned

end LinkAuth

section Assign
variable {d : BitVec 12} {s : State} {own : Nat} (hmgr : s.flag UCL_CFG_MGR = false)
include hmgr

section First
variable (hauth : s.flag UCL_PSTAT_AUTH 0 = true)
include hauth

theorem assign_same (hown : s.ownAddr = some own) (h : own = d.toNat) : exec (.assign 0 d) s = .next s := by
  change execAssign 0 d s = _
  simp [execAssign, hauth, hmgr, hown, h]

theorem assign_other (hown : s.ownAddr = some own) (h : own ≠ d.toNat) : exec (.assign 0 d) s =
    .next ((s.put UCL_STAT_TOPOERR 1).mapUport 0 (fun p => { p with linkOnly := true })) := by
  change execAssign 0 d s = _
  simp [execAssign, hauth, hmgr, hown, h]

/-- A worker without an address takes the first one assigned, opens its session, and assigns over its other ports. -/
theorem assign_takes (hown : s.ownAddr = none) {t : State} (ht : openManagerSession (((((clearSent s).put UCL_ADDR_VALID 1).put
    UCL_ADDR_DEV d.toNat).put UCL_TSTAT_HOPS (min 255 (hopsOf d.toNat))).put UCL_STAT_ENUMDONE 1) = t) : exec (.assign 0 d) s =
      .next (t.each [1, 2] (fun m u => if u.flag UCL_PSTAT_AUTH m then assignOver m u else u)) := by
  change execAssign 0 d s = _
  unfold execAssign
  extract_lets n num u v
  rw [if_neg (by simp [n, hauth, hmgr]), if_neg (by simp [n]), if_neg (by simp [n])]
  simp only [hown, ← ht]
  rfl

end First

/-- Over UCL3 an address must lie in the own chain, one of the two at its head. -/
theorem assign_ring (hown : s.ownAddr = some own) (hauth : s.flag UCL_PSTAT_AUTH 3 = true)
    (h : ¬ (own / 64 = d.toNat / 64 ∧ (own % 64 = 0 ∨ d.toNat % 64 = 0))) :
    exec (.assign 3 d) s = .next (s.put UCL_STAT_TOPOERR 1) := by
  have hends : ¬ (chainOf own = chainOf d.toNat && (posOf own == 0 || posOf d.toNat == 0)) = true := by
    intro hboth
    simp only [Bool.and_eq_true, Bool.or_eq_true, beq_iff_eq] at hboth
    exact h ⟨of_decide_eq_true hboth.1, hboth.2⟩
  change execAssign 3 d s = _
  unfold execAssign
  extract_lets n num
  rw [if_neg (by simp [n, hauth, hmgr]), if_pos (by simp [n])]
  simp only [hown]
  exact if_neg hends

end Assign

/-! ### Remote requests (R544 to R546) -/

section Remote
variable {s : State}

theorem remoteRequest_idle (h : s.ucl.requests = []) : exec .remoteRequest s = .next s := by
  change execRemoteRequest s = _
  simp only [execRemoteRequest, h]

section Serves
variable {n st v : Nat} {c : Cell} {rest : List (Nat × Cell)} {t : State} (hq : s.ucl.requests = (n, c) :: rest)
  (hserve : serveRequest c s = (some (st, v), t))
include hq hserve

theorem remoteRequest_serves : exec .remoteRequest s =
    .next (sendAnswer c st v (clearSent { t with ucl := { t.ucl with requests := rest } })) := by
  change execRemoteRequest s = _
  unfold execRemoteRequest
  rw [hq]
  exact congrArg (fun r => Host.Outcome.next (answerFirst c rest s r)) hserve

end Serves

theorem sendAnswer_posted {c : Cell} {st : Nat} (v : Nat) (h : c.type.val = cellPw ∧ st = 0) : sendAnswer c st v s = s := by
  rw [sendAnswer, if_pos h]

theorem sendAnswer_sends {c : Cell} {st : Nat} (v : Nat) {own p : Nat} (h : ¬ (c.type.val = cellPw ∧ st = 0))
    (hown : s.ownAddr = some own) (hp : s.outPort own c.src.toNat = some p) : sendAnswer c st v s =
      sendCell p { mkCell cellRsp own c.src.toNat with
        dseat := c.sseat, tag := c.tag, payload := bytesOf st 8 ++ bytesOf v 8 } s := by
  rw [sendAnswer, if_neg h]
  simp only [hown, hp]

theorem exportAccess_refused {x n ofs : Nat} (w : Bool) (v : Nat) (h : n ∉ [1, 2, 4, 8] ∨ ofs % n ≠ 0 ∨
    s.seatSafe (s.get UCL_EXPCFG_SEAT x) = true ∨ s.seatResetting (s.get UCL_EXPCFG_SEAT x) = true) :
    exportAccess x ofs n w v s = (.error, s) := by
  have hfits : (!(n == 1 || n == 2 || n == 4 || n == 8) || ofs % n != 0) = true ∨
      (s.seatSafe (s.get UCL_EXPCFG_SEAT x) || s.seatResetting (s.get UCL_EXPCFG_SEAT x)) = true := by
    simp only [List.mem_cons, List.not_mem_nil, or_false] at h
    simpa [or_assoc, and_assoc] using h
  unfold exportAccess
  extract_lets seat pa
  split
  · rfl
  · next hn => rw [if_pos (hfits.resolve_left hn)]

theorem remoteTimeout_dead {d : BitVec 12} (h : (s.remote d.toNat).dead = true) : exec (.remoteTimeout d) s = .next s := by
  change execRemoteTimeout d s = _
  simp only [execRemoteTimeout, if_pos h]

theorem remoteTimeout_dies {d : BitVec 12} (h : (s.remote d.toNat).dead = false) : exec (.remoteTimeout d) s =
    .next ((remoteErrors (fun pa => remoteDev pa == d.toNat) none s).setRemote { s.remote d.toNat with dead := true }) := by
  change execRemoteTimeout d s = _
  simp only [execRemoteTimeout, h, Bool.false_eq_true, if_false]

end Remote

/-! ### STOP (R547 to R550) -/

section Stop
variable {s : State}

/-- The eight copies of the next STOPID that the manager sends. -/
def stopCopies (bc : Bool) (dest seat : Nat) (s : State) : State :=
  (clearSent s).each (List.range 8) (fun k t => (t.stopPorts none bc dest).foldl
    (fun t n => sendCell n (stopCellOf bc seat dest s.ucl.stopNext k) t) t)

theorem slice_stoptx (v : Word32) : slice v.toNat 31 1 = v.toNat / 2 ^ 31 ∧ slice v.toNat 0 12 = v.toNat % 4096 := by
  simp only [slice]
  omega

theorem stoptxWrite_sends {v : Word32} (hgo : v.toNat / 2 ^ 31 = 1) (hmgr : s.flag UCL_CFG_MGR = true) {t : State}
    (ht : stopCopies (v.toNat / 2 ^ 30 % 2 == 1) (v.toNat % 4096) (v.toNat / 2 ^ 16 % 16) s = t) :
    stoptxWrite v.toNat s = { t with ucl := { t.ucl with stopNext := (s.ucl.stopNext + 1) % 4 } } := by
  obtain ⟨htop, hdest⟩ := slice_stoptx v
  have hsend : ¬ (slice v.toNat 31 1 = 0 || !s.flag UCL_CFG_MGR) = true := by simp [htop.trans hgo, hmgr]
  subst ht
  rw [stoptxWrite, if_neg hsend, hdest]
  rfl

theorem stoptxWrite_idle {v : Word32} (h : ¬ v.toNat / 2 ^ 31 = 1 ∨ s.flag UCL_CFG_MGR = false) : stoptxWrite v.toNat s = s := by
  have hidle : (slice v.toNat 31 1 = 0 || !s.flag UCL_CFG_MGR) = true := by
    rcases h with h | h
    · have hzero : slice v.toNat 31 1 = 0 := by
        rw [(slice_stoptx v).1]
        omega
      simp [hzero]
    · simp [h]
  rw [stoptxWrite, if_pos hidle]

section Arrives
variable {n dest seat id copy : Nat} {src : Nat} {bc : Bool}

/-- A copy that comes from no manager, or over a port that is not authenticated, is dropped. -/
theorem stopArrives_dropped (h : s.flag UCL_PSTAT_AUTH n = false ∨ src ≠ 0) : stopArrives n src bc dest seat id copy s = s := by
  have hdrop : (!s.flag UCL_PSTAT_AUTH n || src != 0) = true := by rcases h with h | h <;> simp [h]
  rw [stopArrives, if_pos hdrop]

/-- A copy as it is forwarded. -/
def stopForwarded (n dest seat id copy : Nat) (bc : Bool) (s : State) : State :=
  (s.stopPorts (some n) bc dest).foldl (fun t m => sendCell m (stopCellOf bc seat dest id copy) t) s

theorem stop_isHere {t : State} (hhere : bc = true ∨ t.ownAddr = some dest) : ¬ (!bc && t.ownAddr != some dest) = true := by
  rcases hhere with h | h <;> simp [h]

variable (hauth : s.flag UCL_PSTAT_AUTH n = true) (hsrc : src = 0) {t : State} (ht : stopForwarded n dest seat id copy bc s = t)
include hauth hsrc ht

/-- Behind its forwarding, a copy for this device is told from the one before. -/
theorem stopArrives_forwarded : ∃ seen : Bool, (seen = true ↔ ∃ k, t.ucl.stopLast = some (id, k) ∧ k < copy) ∧
    stopArrives n src bc dest seat id copy s = if !bc && t.ownAddr != some dest then t
      else if seen then { t with ucl := { t.ucl with stopLast := some (id, copy) } }
      else actOnStop bc seat { t with ucl := { t.ucl with stopLast := some (id, copy) } } := by
  have htaken : ¬ (!s.flag UCL_PSTAT_AUTH n || src != 0) = true := by simp [hauth, hsrc]
  rw [stopArrives, if_neg htaken]
  extract_lets u seen
  have hu : u = t := ht
  refine ⟨seen, ?_, ?_⟩
  · simp only [seen, hu]
    cases t.ucl.stopLast with
    | none => simp
    | some last => simp [Prod.ext_iff]
  · clear_value u
    subst hu
    rfl

theorem stopArrives_passes (hbc : bc = false) (hown : t.ownAddr ≠ some dest) : stopArrives n src bc dest seat id copy s = t := by
  obtain ⟨seen, -, hstop⟩ := stopArrives_forwarded hauth hsrc ht (seat := seat) (id := id) (copy := copy)
  rw [hstop, if_pos (by simp [hbc, hown])]

variable (hhere : bc = true ∨ t.ownAddr = some dest)
include hhere

theorem stopArrives_again (hseen : ∃ k, t.ucl.stopLast = some (id, k) ∧ k < copy) : stopArrives n src bc dest seat id copy s =
    { t with ucl := { t.ucl with stopLast := some (id, copy) } } := by
  obtain ⟨seen, hiff, hstop⟩ := stopArrives_forwarded hauth hsrc ht
  rw [hstop, if_neg (stop_isHere hhere), if_pos (hiff.mpr hseen)]

theorem stopArrives_first (hnew : ¬ ∃ k, t.ucl.stopLast = some (id, k) ∧ k < copy) : stopArrives n src bc dest seat id copy s =
    actOnStop bc seat { t with ucl := { t.ucl with stopLast := some (id, copy) } } := by
  obtain ⟨seen, hiff, hstop⟩ := stopArrives_forwarded hauth hsrc ht
  rw [hstop, if_neg (stop_isHere hhere), if_neg (mt hiff.mp hnew)]

end Arrives

theorem stopCell_arrives {port : Fin 4} {src dest : BitVec 12} {bc : Bool} {seat : Seat} {id : Fin 4} {copy : Fin 8} {t : State}
    (h : stopArrives port.val src.toNat bc dest.toNat seat.val id.val copy.val (clearSent s) = t) :
    exec (.stopCell port src bc dest seat id copy) s = .next t := by
  change execStopCell port src bc dest seat id copy s = _
  rw [execStopCell, h]

theorem actOnStop_logged {bc : Bool} {seat : Nat} (hseat : seat ≠ 0) (hlog : s.flag UCL_STOPLOG_VALID = true) {t : State}
    (ht : remoteErrors (fun _ => true) (some seat)
      ((raiseSrc srcUclCommon (s.countUp UCL_STOPLOG_COUNT)).putBit FAB_QUENCH_SEAT (seat - 1) true) = t) :
    actOnStop bc seat s = if t.seatSafe seat then t else enterSeatSafe seat t := by
  subst ht
  unfold actOnStop
  extract_lets u counted quenched
  have hu : u = s := if_pos hlog
  rw [if_neg hseat]
  simp only [quenched, counted, hu]

end Stop

/-! ### System time and ports (R551 to R555) -/

section TimeExchange
variable {port : Fin 4} {o : BitVec 32} {r : Word32} {s : State}

theorem timeExchange_idle (h : s.ownAddr = none ∨ s.flag UCL_CFG_MGR = true ∨ s.flag UCL_PSTAT_AUTH port.val = false) :
    exec (.timeExchange port o r none) s = .next s := by
  change execTimeExchange port o r none s = _
  cases hown : s.ownAddr with
  | none => simp only [execTimeExchange, hown]
  | some own =>
    have hidle : (s.flag UCL_CFG_MGR || s.outPort own 0 != some port.val || !s.flag UCL_PSTAT_AUTH port.val) = true := by
      rcases h with h | h | h
      · exact absurd (hown.symm.trans h) (by simp)
      · simp [h]
      · simp [h]
    simp only [execTimeExchange, hown, if_pos hidle]

/-- The device's answer to an offset `o` and a chosen rate `inc` behind its port to the manager, with its offset shown. -/
def exchanged (o : Int) (inc : Nat) (s : State) : State :=
  let u := if s.get BOOT_STAT_MS = 3 || s.get BOOT_STAT_MS = 4 then s.put TBS_RATE_INC inc
    else if s.ucl.stepped then s
    else { s.put TBS_NOW_NS (Int.toNat (((s.get TBS_NOW_NS : Int) - o) % 2 ^ 64)) with ucl := { s.ucl with stepped := true } }
  let near := if o.natAbs < 100 then u.ucl.near + 1 else 0
  let far := if 1000 < o.natAbs then u.ucl.far + 1 else 0
  let u := { u with ucl := { u.ucl with near := min 8 near, far := min 8 far } }
  if 8 ≤ near then u.put UCL_TSTAT_LOCK 1 else if 8 ≤ far then u.put UCL_TSTAT_LOCK 0 else u

theorem timeExchange_takes {own : Nat} (hown : s.ownAddr = some own) (hmgr : s.flag UCL_CFG_MGR = false)
    (hauth : s.flag UCL_PSTAT_AUTH port.val = true) (hroute : s.outPort own 0 = some port.val) : exec (.timeExchange port o r none) s =
      .next (exchanged o.toInt (clampRate r.toNat) ((s.put UCL_TOFS_OFS o.toNat).put UCL_TSTAT_HOLD 0)) := by
  have htaken : ¬ (s.flag UCL_CFG_MGR || s.outPort own 0 != some port.val || !s.flag UCL_PSTAT_AUTH port.val) = true := by
    simp [hmgr, hroute, hauth]
  change execTimeExchange port o r none s = _
  unfold execTimeExchange
  dsimp only
  rw [hown]
  exact if_neg htaken

/-- Once the device runs, an offset from 100 ns to 1 µs sets the rate, and neither locks nor unlocks. -/
theorem exchanged_servo {t : State} {x : Int} (inc : Nat) (hms : t.get BOOT_STAT_MS = 4) (hlow : 100 ≤ x.natAbs)
    (hhigh : x.natAbs ≤ 1000) : exchanged x inc t =
      { t.put TBS_RATE_INC inc with ucl := { (t.put TBS_RATE_INC inc).ucl with near := 0, far := 0 } } := by
  have hrun : (t.get BOOT_STAT_MS = 3 || t.get BOOT_STAT_MS = 4) = true := by simp [hms]
  unfold exchanged
  extract_lets stepped clock u near far ended v
  have hu : u = t.put TBS_RATE_INC inc := if_pos hrun
  have hnear : near = 0 := if_neg (Nat.not_lt.mpr hlow)
  have hfar : far = 0 := if_neg (Nat.not_lt.mpr hhigh)
  rw [if_neg (by omega), if_neg (by omega)]
  change ({ u with ucl := { u.ucl with near := min 8 near, far := min 8 far } } : State) = _
  rw [hnear, hfar, hu]
  rfl

end TimeExchange

section Ports
variable {port : Fin 4} {s : State}

theorem portDown_idle (h : s.flag UCL_PSTAT_UP port.val = false) : exec (.portDown port) s = .next (clearSent s) := by
  have hdown : (!(clearSent s).flag UCL_PSTAT_UP port.val) = true := by simp [clearSent_flag, h]
  change execPortDown port s = _
  rw [execPortDown, portDown, if_pos hdown]

/-- A device without an address has no route that a port's loss could change. -/
theorem portDown_unaddressed (hup : s.flag UCL_PSTAT_UP port.val = true) (hown : s.ownAddr = none) : exec (.portDown port) s =
    .next (reportPort port.val false (raiseSrc (srcUcl port.val) (((((remoteErrors (fun _ => false) none (clearSent s)).put
      UCL_PSTAT_UP 0 port.val).put UCL_PSTAT_AUTH 0 port.val).put UCL_PSTAT_LOCK 0 port.val).put UCL_STAT_LINKEV 1))) := by
  have hdown : ¬ (!(clearSent s).flag UCL_PSTAT_UP port.val) = true := by simp [clearSent_flag, hup]
  have hnone : (clearSent s).ownAddr = none := (clearSent_ownAddr s).trans hown
  change execPortDown port s = _
  rw [execPortDown, portDown, if_neg hdown]
  simp only [hnone, Bool.false_and, Bool.false_eq_true, if_false]

theorem portUp_idle (h : s.flag UCL_PSTAT_UP port.val = true ∨ (s.get UCL_PCFG_MODE port.val ≠ 1 ∧ s.get UCL_PCFG_MODE port.val ≠ 2) ∨
    s.flag UCL_CFG_EN = false) : exec (.portUp port) s = .next s := by
  have hidle : (s.flag UCL_PSTAT_UP port.val || !(s.get UCL_PCFG_MODE port.val == 1 || s.get UCL_PCFG_MODE port.val == 2) ||
      !s.flag UCL_CFG_EN) = true := by rcases h with h | h | h <;> simp [h]
  change execPortUp port s = _
  unfold execPortUp
  extract_lets n m
  rw [if_pos hidle]

theorem portUp_trains (hdown : s.flag UCL_PSTAT_UP port.val = false)
    (hmode : s.get UCL_PCFG_MODE port.val = 1 ∨ s.get UCL_PCFG_MODE port.val = 2) (hen : s.flag UCL_CFG_EN = true) :
    exec (.portUp port) s = .next (reportPort port.val true (raiseSrc (srcUcl port.val)
      (((((clearSent s).mapUport port.val (fun _ => ⟨1, 1, false, 0, 0, [], false⟩)).put UCL_PSTAT_UP 1 port.val).put
        UCL_PSTAT_LOCK 1 port.val).put UCL_STAT_LINKEV 1))) := by
  have htrains : ¬ (s.flag UCL_PSTAT_UP port.val || !(s.get UCL_PCFG_MODE port.val == 1 || s.get UCL_PCFG_MODE port.val == 2) ||
      !s.flag UCL_CFG_EN) = true := by rcases hmode with h | h <;> simp [hdown, hen, h]
  change execPortUp port s = _
  unfold execPortUp
  extract_lets n m
  rw [if_neg htrains]

end Ports

/-- Settles O51: each command meets its refusals in order, and a cell, a copy or an exchange that is taken has one effect. -/
theorem chainLinks : Obligations.ChainLinks := by
  unfold Obligations.ChainLinks
  refine ⟨fun port c s => ⟨cellReceive_down, fun hup => ?receive⟩, fun n own c s hauth hopen hown hdst hlow hhigh hmembers => ?forward,
    fun own dest _ _ _ => ⟨routePort_chain, routePort_branch, routePort_trunk⟩, fun port key ok peer m s => ?linkAuth,
    fun d s hmgr => ⟨fun hauth => ?assign, fun own hown hauth h => assign_ring hmgr hown hauth h⟩, fun s => ?requests,
    fun x n w v ofs s h => exportAccess_refused w v h, fun d s => ⟨remoteTimeout_dead, remoteTimeout_dies⟩, fun v s => ?stoptx,
    fun port src dest bc seat id copy s => ?stopCell, fun bc seat s hseat hlog => actOnStop_logged hseat hlog rfl,
    fun port o r s => ⟨timeExchange_idle, fun own hown hmgr hauth hroute hms hlow hhigh =>
      (timeExchange_takes hown hmgr hauth hroute).trans (congrArg _ (exchanged_servo _ hms hlow hhigh))⟩,
    fun port s => ⟨portDown_idle, portDown_unaddressed, portUp_idle, portUp_trains⟩⟩
  case receive =>
    refine ⟨cellReceive_damaged hup, cellReceive_unknown hup, fun htype hnak => ?_⟩
    have hport : s.ucl.ports[port.val]! = s.ucl.ports[port] := getElem!_pos s.ucl.ports port.val port.isLt
    have hgood := cellReceive_good hup htype hnak rfl hport
    refine ⟨fun hseq => hgood.trans ?_, fun hseq hnext => hgood.trans ?_, fun hseq hnext => ⟨fun hsync => hgood.trans ?_,
      fun hsync => hgood.trans ?_⟩⟩
    · rw [if_pos hseq]
      rfl
    · rw [if_neg hseq, if_pos hnext]
      rfl
    · rw [if_neg hseq, if_neg hnext, if_pos hsync]
      rfl
    · rw [if_neg hseq, if_neg hnext, if_neg (Bool.eq_false_iff.mp hsync)]
      rfl
  case forward =>
    rw [acceptCell_forwards hauth hopen hown hdst hlow hhigh hmembers]
    exact ⟨fun m => forwardCell_sends, fun h => ⟨forwardCell_refuses hlow h, forwardCell_drops h⟩⟩
  case linkAuth =>
    exact ⟨linkAuth_idle, fun hup hauth hmembers htrng => ⟨linkAuth_clash hup hauth hmembers htrng,
      linkAuth_stranger hup hauth hmembers htrng, linkAuth_member hup hauth hmembers htrng⟩⟩
  case assign =>
    exact ⟨fun own hown => ⟨assign_same hmgr hauth hown, assign_other hmgr hauth hown⟩, fun hown => assign_takes hmgr hauth hown rfl⟩
  case requests =>
    refine ⟨remoteRequest_idle, fun n c rest st v t hq hserve => ⟨fun h => ?_, fun own q h hown hp => ?_⟩⟩
    · rw [remoteRequest_serves hq hserve, sendAnswer_posted v h]
    · rw [remoteRequest_serves hq hserve, sendAnswer_sends v h hown hp]
  case stoptx =>
    refine ⟨fun hgo hmgr => ?_, fun h => ?_, fun by_ hby => pageWrite_customer hby _ s⟩
    · exact (pageWrite_seatZero _ s).trans (by rw [stoptxWrite_sends hgo hmgr rfl]; rfl)
    · exact (pageWrite_seatZero _ s).trans (by rw [stoptxWrite_idle h])
  case stopCell =>
    have hclear (f : Fld) (i : Nat) : (clearSent s).flag f i 0 = s.flag f i 0 := clearSent_flag s f i 0
    have hzero : src.toNat = 0 ↔ src = 0 := BitVec.toNat_eq (y := 0).symm
    refine ⟨fun h => ?_, fun hauth hsrc => ?_⟩
    · exact stopCell_arrives (stopArrives_dropped (h.imp (hclear _ _).trans (mt hzero.mp)))
    · have hport := (hclear UCL_PSTAT_AUTH port.val).trans hauth
      have hmgr := hzero.mpr hsrc
      exact ⟨fun hbc hown => stopCell_arrives (stopArrives_passes hport hmgr rfl hbc hown),
        fun hhere => ⟨fun hseen => stopCell_arrives (stopArrives_again hport hmgr rfl hhere hseen),
          fun hnew => stopCell_arrives (stopArrives_first hport hmgr rfl hhere hnew)⟩⟩

end Sys2Proof.Proofs
end

section
/-!
PROOFS. Debug rights, halts and the registers of a halted core (R583 to R594): signed requests, grants that end, the DBG registers
that act, the retirement boundary of a halt, the TAP and the supply of the debug domain.
-/

namespace Sys2Proof.Proofs

open Sys2Proof.Machine Sys2Proof.Laws

/-! ### Signed requests (R586, Table DBG-2) -/

section Requests
variable {r : DbgRequest} {s : State}

/-- The debug domain is supplied, in a life-cycle state that allows debug. -/
def DebugOpen (s : State) : Prop := s.vddDbg = true ∧ s.lifeCycle ≠ lcProvision ∧ s.lifeCycle ≠ lcEnd

theorem debugShut_iff : (!s.vddDbg || s.lifeCycle == lcProvision || s.lifeCycle == lcEnd) = true ↔ ¬ DebugOpen s := by
  simp only [DebugOpen, Bool.or_eq_true, Bool.not_eq_true', beq_iff_eq, not_and_or, Bool.not_eq_true, not_not, or_assoc]

theorem dbgauth_shut (h : ¬ DebugOpen s) : exec (.dbgauth r) s = .next s := by
  change execDbgauth r s = _
  unfold execDbgauth
  extract_lets lc
  rw [if_pos (debugShut_iff.mpr h)]

theorem dbgauth_open (h : DebugOpen s) : exec (.dbgauth r) s = .next (signedRequest r s).2 := by
  change execDbgauth r s = _
  unfold execDbgauth
  extract_lets lc
  rw [if_neg (mt debugShut_iff.mp (not_not.mpr h))]

/-- The grants that a request asks for, written. -/
def requestGrants (r : DbgRequest) (s : State) : State :=
  s.each (customerSeats.filter (fun n => r.mask.getLsbD n)) (fun n t =>
    let t := ((t.put DBG_GRANT_VALID 1 n).put DBG_GRANT_HALT (bit (r.rights.getLsbD 0)) n).put DBG_GRANT_MEM (bit (r.rights.getLsbD 1)) n
    { t.put DBG_GRANT_MIN r.minutes.toNat n with grantPhase := t.grantPhase.set! n 0 })

theorem signedRequest_passes (h : s.requestPasses r = true) : (signedRequest r s).2 = newDebugNonce (requestGrants r s) := by
  rw [signedRequest, if_pos h]
  rfl

theorem signedRequest_fails (h : s.requestPasses r = false) : (signedRequest r s).2 =
    { (s.put DBG_STAT_AUTHF 1).each (List.range 8) (fun k t => t.setReg DBG_NONCE 0 k) with nonceHeld := true } := by
  rw [signedRequest, if_neg (Bool.eq_false_iff.mp h)]

theorem requestPasses_fields (h : s.requestPasses r = true) : s.nonceHeld = false ∧ bytesOf r.serial.toNat 8 = s.serial ∧
    1 ≤ r.minutes.toNat ∧ r.minutes.toNat ≤ 1440 ∧ s.requestScope r = true := by
  simp only [State.requestPasses, Bool.and_eq_true, Bool.not_eq_true', beq_iff_eq, decide_eq_true_eq] at h
  obtain ⟨⟨⟨hheld, ⟨hserial, hlow⟩, hhigh⟩, -⟩, hscope⟩ := h
  exact ⟨hheld, hserial, hlow, hhigh, hscope⟩

theorem requestScope_development (hlc : s.lifeCycle = lcDevelopment) (h : s.requestScope r = true) : r.mask.getLsbD 0 = false := by
  unfold State.requestScope at h
  extract_lets lc slot at h
  rw [if_neg (by simp [lc, hlc, lcDevelopment, lcMaker]), if_pos hlc] at h
  simp only [Bool.and_eq_true, Bool.not_eq_true'] at h
  exact h.2

/-- In FIELD each seat of the mask is signed with the key of its own manifest, and seat 0 is in no mask. -/
theorem requestScope_field (hlc : s.lifeCycle = lcField) (h : s.requestScope r = true) : r.mask.getLsbD 0 = false ∧
    ∀ n ∈ customerSeats, r.mask.getLsbD n = true → ∃ m, s.manifest n = some m ∧ m.key = r.slot.val := by
  unfold State.requestScope at h
  extract_lets lc slot at h
  rw [if_neg (by simp [lc, hlc, lcField, lcMaker]), if_neg (by simp [lc, hlc, lcField, lcDevelopment]), if_pos hlc] at h
  simp only [Bool.and_eq_true, Bool.not_eq_true', List.all_eq_true, Bool.or_eq_true] at h
  refine ⟨h.1, fun n hn hmask => ?_⟩
  have hkey := (h.2 n hn).resolve_left (by simp [hmask])
  cases hm : s.manifest n with
  | none => simp [hm] at hkey
  | some m => exact ⟨m, rfl, by simpa [hm] using hkey⟩

end Requests

theorem nonceOffer_offers (s : State) : exec .nonceOffer s =
    .next (if s.vddDbg = true ∧ s.nonceHeld = true then newDebugNonce { s with nonceHeld := false } else s) := by
  change execNonceOffer s = _
  simp only [execNonceOffer, Bool.and_eq_true]

/-! ### Grants that end (R588) -/

section Grants
variable {seat by_ : Seat} {s : State}

theorem grantEndWrite_customer (h : by_ ≠ 0) : exec (.grantEndWrite by_ seat) s = .next (s.answer .error) := by
  change execGrantEndWrite by_ seat s = _
  rw [execGrantEndWrite, if_pos h]

theorem grantEndWrite_ends (hseat : seat ≠ 0) (hdbg : s.vddDbg = true) :
    exec (.grantEndWrite 0 seat) s = .next ((endGrant seat.val s).answer (.ok 0)) := by
  change execGrantEndWrite 0 seat s = _
  rw [execGrantEndWrite, if_neg (not_not.mpr rfl), if_pos (by simp [hdbg, hseat])]

theorem grantEndWrite_idle (h : seat = 0 ∨ s.vddDbg = false) : exec (.grantEndWrite 0 seat) s = .next (s.answer (.ok 0)) := by
  change execGrantEndWrite 0 seat s = _
  rw [execGrantEndWrite, if_neg (not_not.mpr rfl), if_neg (by rcases h with h | h <;> simp [h])]

theorem endGrant_none {n : Nat} (h : s.flag DBG_GRANT_VALID n = false) : endGrant n s = s := by
  rw [endGrant, if_pos (by simp [h])]

theorem mayHalt_iff (n : Nat) (s : State) : s.mayHalt n = true ↔ s.lifeCycle = lcMaker ∨
    (1 ≤ n ∧ n ≤ 15 ∧ s.flag DBG_GRANT_VALID n = true ∧ s.flag DBG_GRANT_HALT n = true) := by
  simp only [State.mayHalt, Bool.or_eq_true, Bool.and_eq_true, beq_iff_eq, decide_eq_true_eq, and_assoc]

end Grants

/-! ### Halts and resumes (R589 to R592) -/

section Halts
variable {k : CoreId} {s : State}

theorem requestHalt_requests (h : s.mayHalt (s.debugSeat k) = true ∧ (s.core k).run ≠ .halted ∧ (s.core k).run ≠ .stopped) :
    requestHalt k s = s.mapCore k (fun c => { c with haltReq := true }) := by
  obtain ⟨hmine, hhalted, hstopped⟩ := h
  rw [requestHalt, if_pos (by simp [hmine, hhalted, hstopped])]

theorem requestHalt_refused (h : ¬ s.mayHalt (s.debugSeat k) = true ∨ (s.core k).run = .halted ∨ (s.core k).run = .stopped) :
    requestHalt k s = s := by
  rw [requestHalt, if_neg (by rcases h with h | h | h <;> simp [h])]

theorem resumeWrite_refused (b : Bool) (h : (s.core k).run ≠ .halted ∨ ¬ s.mayHalt (s.debugSeat k) = true) :
    resumeWrite b k s = s := by
  rw [resumeWrite, if_pos (by rcases h with h | h <;> simp [h])]

theorem resumeWrite_halted (b : Bool) (hrun : (s.core k).run = .halted) (hmine : s.mayHalt (s.debugSeat k) = true) :
    resumeWrite b k s = if s.lifeCycle = lcField ∧ s.pairLocked (k.val / 2) = true then s.put DBG_CCTL_RESREF 1 k.val
      else resumeCore b k s := by
  rw [resumeWrite, if_neg (by simp [hrun, hmine])]
  simp only [State.haltFinal, Bool.and_eq_true, beq_iff_eq]

theorem thawWatchdogs_cores (s0 s : State) : (thawWatchdogs s0 s).cores = s.cores :=
  (each_cores (fun _ _ => put_cores ..) _ _).trans (each_cores (fun _ _ => put_cores ..) _ _)

/-- A core as it goes on from its halt. -/
def resumed (b : Bool) (c : Core) : Core :=
  { c with
    run := .running, stepping := b
    cmpSkip := match c.cmpLast with
      | some (j, a) => if a = c.pc then some j else none
      | none => none }

theorem resumeCore_core (b : Bool) (k : CoreId) (s : State) : (resumeCore b k s).core k = resumed b (s.core k) := by
  have hcores : (resumeCore b k s).cores = (s.mapCore k (resumed b)).cores := (thawWatchdogs_cores ..).trans (put_cores ..)
  exact (core_congr _ k _ hcores).trans (core_mapCore ..)

/-- A core as it halts. -/
def haltedAt (c : Core) : Core :=
  { c.settle.landAll with reservation := none, run := .halted, stepping := false, haltReq := false }

theorem enterHalt_core (k : CoreId) (s : State) : (enterHalt k s).core k = haltedAt (s.core k) := by
  have hcores : (enterHalt k s).cores = (s.mapCore k haltedAt).cores := by
    unfold enterHalt
    extract_lets halted shown raised
    have hshown : shown.cores = halted.cores := put_cores ..
    have hraised : raised.cores = shown.cores := ite_cores rfl rfl
    exact (ite_cores (reportFault_cores ..) rfl).trans (hraised.trans hshown)
  exact (core_congr _ k _ hcores).trans (core_mapCore ..)

/-- A core whose load has been dropped. -/
def loadDropped (c : Core) : Core := { c with load := none, fillWait := false }

theorem loadDropped_boundary {c : Core} (h : c.atBoundary = true) : (loadDropped c).atBoundary = true := by
  simp only [Core.atBoundary, Bool.and_eq_true] at h
  simpa [Core.atBoundary, loadDropped] using ⟨h.1.2, Option.isNone_iff_eq_none.mp h.2⟩

/-- Outside a routine a core is at its boundary, and drops its load there, or stays as it is. -/
theorem dropLoad_outsideMicro {c : Core} (h : c.micro = none) :
    (let d := match c.micro with
      | some r => if r.atPoint then c.saveMicro else c
      | none => c
    if d.atBoundary then { d with load := none, fillWait := false } else d) = if c.atBoundary then loadDropped c else c := by
  rw [h]
  rfl

theorem debugHalt_idle (h : s.vddDbg = false ∨ (s.core k).haltReq = false ∨ s.coreRuns k = false) :
    exec (.debugHalt k) s = .next s := by
  change execDebugHalt k s = _
  unfold execDebugHalt
  extract_lets t
  rw [if_neg (by rcases h with h | h | h <;> simp [h])]

section Asked
variable (hdbg : s.vddDbg = true) (hreq : (s.core k).haltReq = true) (hruns : s.coreRuns k = true)
  (hmicro : (s.core k).micro = none)
include hdbg hreq hruns hmicro

/-- Outside a routine, the halt waits for the core's boundary. -/
theorem debugHalt_decides : exec (.debugHalt k) s = .next (if (s.core k).atBoundary then
    enterHalt k (s.mapCore k loadDropped) else s) := by
  change execDebugHalt k s = _
  unfold execDebugHalt
  extract_lets t
  have ht : t = s.mapCore k (fun c => if (s.core k).atBoundary then loadDropped c else c) :=
    mapCore_congr (dropLoad_outsideMicro hmicro)
  clear_value t
  subst ht
  rw [core_mapCore]
  cases hb : (s.core k).atBoundary with
  | false => simp [hb]
  | true => simp [hdbg, hreq, hruns, loadDropped_boundary hb]

theorem debugHalt_waits (h : (s.core k).atBoundary = false) : exec (.debugHalt k) s = .next s := by
  rw [debugHalt_decides hdbg hreq hruns hmicro, if_neg (Bool.eq_false_iff.mp h)]

theorem debugHalt_halts (h : (s.core k).atBoundary = true) :
    exec (.debugHalt k) s = .next (enterHalt k (s.mapCore k loadDropped)) := by
  rw [debugHalt_decides hdbg hreq hruns hmicro, if_pos h]

end Asked

end Halts

/-! ### Registers that act when they are written -/

section Rows
variable {k : CoreId} {s : State}

theorem dbgRow_customer {by_ : Seat} (h : by_ ≠ 0) (a v : Nat) (s : State) : dbgRow by_ a v s = .next (s.answer .error) := by
  rw [dbgRow, if_pos h]

theorem dbgRow_seatZero (a v : Nat) (s : State) : dbgRow 0 a v s = .next ((dbgWrite a v s).answer (.ok 0)) := by
  rw [dbgRow, if_neg (not_not.mpr rfl)]

theorem regAt_cctl : ∀ k : CoreId, regAt (DBG_CCTL.addr k.val 0) = some DBG_CCTL ∧
    DBG_CCTL.place (DBG_CCTL.addr k.val 0) = (k.val, 0, 0) := by decide +kernel

theorem regAt_crsel : ∀ k : CoreId, regAt (DBG_CRSEL.addr k.val 0) = some DBG_CRSEL ∧
    DBG_CRSEL.place (DBG_CRSEL.addr k.val 0) = (k.val, 0, 0) := by decide +kernel

theorem cctl_apart : DBG_CCTL ≠ DBG_CTL ∧ DBG_CCTL ≠ DBG_GRANT ∧ DBG_CCTL ≠ DBG_DAMCTL := by decide

theorem crsel_apart : DBG_CRSEL ≠ DBG_CTL ∧ DBG_CRSEL ≠ DBG_GRANT ∧ DBG_CRSEL ≠ DBG_DAMCTL ∧ DBG_CRSEL ≠ DBG_CCTL := by decide

theorem dbgWrite_cctl (h : s.regAbsent DBG_CCTL k.val = false) (v : Nat) :
    dbgWrite (DBG_CCTL.addr k.val 0) v s = cctlWrite k v s := by
  obtain ⟨hreg, hplace⟩ := regAt_cctl k
  obtain ⟨hctl, hgrant, hdam⟩ := cctl_apart
  unfold dbgWrite
  simp only [hreg, hplace]
  rw [if_neg (Bool.eq_false_iff.mp h), if_neg hctl, if_neg hgrant, if_neg hdam, if_pos trivial, dif_pos k.isLt]

theorem dbgWrite_crsel (h : s.regAbsent DBG_CRSEL k.val = false) (v : Nat) :
    dbgWrite (DBG_CRSEL.addr k.val 0) v s = crselWrite k v s := by
  obtain ⟨hreg, hplace⟩ := regAt_crsel k
  obtain ⟨hctl, hgrant, hdam, hcctl⟩ := crsel_apart
  unfold dbgWrite
  simp only [hreg, hplace]
  rw [if_neg (Bool.eq_false_iff.mp h), if_neg hctl, if_neg hgrant, if_neg hdam, if_neg hcctl, if_pos trivial, dif_pos k.isLt]

/-! #### CCTL -/

/-- The settings of CCTL lie below its requests. -/
theorem cctlWith_settings (s : State) (k : CoreId) : ∃ x < 2 ^ 28, ∀ b, s.cctlWith k b = x + 2 ^ b := by
  refine ⟨_, ?_, fun b => rfl⟩
  have hreg : s.reg DBG_CCTL k.val % 2 ^ 28 < 2 ^ 28 := Nat.mod_lt _ (by decide)
  simp only [withSlice]
  omega

/-- The value names one request of CCTL. -/
theorem testBit_cctlWith (s : State) (k : CoreId) {b c : Nat} (hb : 28 ≤ b) (hc : 28 ≤ c) :
    (s.cctlWith k b).testBit c = decide (b = c) := by
  obtain ⟨x, hx, hwith⟩ := cctlWith_settings s k
  have hhigh : s.cctlWith k b / 2 ^ 28 = 2 ^ (b - 28) := by
    rw [hwith, ← pow_mul_pow_sub 2 hb, Nat.add_mul_div_left _ _ (by decide), Nat.div_eq_of_lt hx, Nat.zero_add]
  have hbit : (s.cctlWith k b / 2 ^ 28).testBit (c - 28) = (s.cctlWith k b).testBit c := by
    rw [Nat.testBit_div_two_pow, Nat.sub_add_cancel hc]
  rw [← hbit, hhigh, Nat.testBit_two_pow]
  exact decide_eq_decide.mpr (by omega)

/-- CCTL's settings with a request, written. -/
def cctlWritten (k : CoreId) (b : Nat) (s : State) : State :=
  crossWrite s (writeFields 0 DBG_CCTL k.val 0 (s.cctlWith k b) 0xFFFFFFFF s)

/-- The requests of a write of CCTL, behind its settings. -/
def cctlActs (halt resume step : Bool) (k : CoreId) (t : State) : State :=
  let t := if halt then requestHalt k t else t
  let t := if resume then resumeWrite false k t else t
  if step then resumeWrite true k t else t

theorem cctlWrite_acts (v : Nat) : cctlWrite k v s = cctlActs (v.testBit 30) (v.testBit 29) (v.testBit 28) k
    (crossWrite s (writeFields 0 DBG_CCTL k.val 0 v 0xFFFFFFFF s)) := rfl

theorem debugRow_acts (h : s.regAbsent DBG_CCTL k.val = false) {b : Nat} (hb : 28 ≤ b) :
    dbgRow 0 (DBG_CCTL.addr k.val 0) (s.cctlWith k b) s = .next ((cctlActs (decide (b = 30)) (decide (b = 29)) (decide (b = 28)) k
      (cctlWritten k b s)).answer (.ok 0)) := by
  rw [dbgRow_seatZero, dbgWrite_cctl h, cctlWrite_acts, testBit_cctlWith s k hb (by decide), testBit_cctlWith s k hb (by decide),
    testBit_cctlWith s k hb (by decide), cctlWritten]

theorem cctlActs_halt (k : CoreId) (t : State) : cctlActs true false false k t = requestHalt k t := by simp [cctlActs]
theorem cctlActs_resume (k : CoreId) (t : State) : cctlActs false true false k t = resumeWrite false k t := by simp [cctlActs]
theorem cctlActs_step (k : CoreId) (t : State) : cctlActs false false true k t = resumeWrite true k t := by simp [cctlActs]

theorem dbgHaltreq_requests (h : s.regAbsent DBG_CCTL k.val = false) :
    exec (.dbgHaltreq 0 k) s = .next ((requestHalt k (cctlWritten k 30 s)).answer (.ok 0)) := by
  rw [← cctlActs_halt]
  exact debugRow_acts h (by decide)

theorem dbgResume_resumes (h : s.regAbsent DBG_CCTL k.val = false) :
    exec (.dbgResume 0 k) s = .next ((resumeWrite false k (cctlWritten k 29 s)).answer (.ok 0)) := by
  rw [← cctlActs_resume]
  exact debugRow_acts h (by decide)

theorem dbgStep_steps (h : s.regAbsent DBG_CCTL k.val = false) :
    exec (.dbgStep 0 k) s = .next ((resumeWrite true k (cctlWritten k 28 s)).answer (.ok 0)) := by
  rw [← cctlActs_step]
  exact debugRow_acts h (by decide)

theorem debugRows_customer {by_ : Seat} (v : Word32) (h : by_ ≠ 0) :
    ∀ c ∈ [Instr.dbgHaltreq by_ k, .dbgResume by_ k, .dbgStep by_ k, .crselAccess by_ k v], exec c s = .next (s.answer .error) := by
  simp only [List.forall_mem_cons]
  exact ⟨dbgRow_customer h .., dbgRow_customer h .., dbgRow_customer h .., dbgRow_customer h .., fun _ hc => nomatch hc⟩

/-! #### CRSEL -/

/-- The register that CRSEL names may be accessed. -/
def crselMay (k : CoreId) (space num : Nat) (wr : Bool) (s : State) : Bool :=
  (s.core k).run == .halted && s.mayHalt (s.debugSeat k) && crselNamed space num wr

theorem crselMay_iff {space num : Nat} {wr : Bool} : crselMay k space num wr s = true ↔
    (s.core k).run = .halted ∧ s.mayHalt (s.debugSeat k) = true ∧ crselNamed space num wr = true := by
  simp only [crselMay, Bool.and_eq_true, beq_iff_eq, and_assoc]

theorem crselRefused_eq (space num : Nat) (wr : Bool) : ((s.core k).run != .halted || !s.mayHalt (s.debugSeat k) ||
    !crselNamed space num wr) = !crselMay k space num wr s := by
  simp only [crselMay, Bool.not_and]
  rfl

theorem crselRefused_of_not {space num : Nat} {wr : Bool} (h : ¬ ((s.core k).run = .halted ∧ s.mayHalt (s.debugSeat k) = true ∧
    crselNamed space num wr = true)) : (!crselMay k space num wr s) = true := by
  rw [Bool.not_eq_true', Bool.eq_false_iff]
  exact mt crselMay_iff.mp h

theorem crselTaken_of_may {space num : Nat} {wr : Bool} (h : (s.core k).run = .halted ∧ s.mayHalt (s.debugSeat k) = true ∧
    crselNamed space num wr = true) : ¬ (!crselMay k space num wr s) = true := by
  rw [crselMay_iff.mpr h]
  exact Bool.false_ne_true

theorem slice_crsel (v : Nat) : slice v 12 2 = v / 2 ^ 12 % 4 ∧ slice v 0 12 = v % 2 ^ 12 := by
  simp only [slice]
  omega

theorem crselWrite_acts {v space num : Nat} {t : State} (hspace : v / 2 ^ 12 % 4 = space) (hnum : v % 2 ^ 12 = num)
    (ht : (s.put DBG_CRSEL_SPACE space k.val).put DBG_CRSEL_NUM num k.val = t) : crselWrite k v s = if !v.testBit 31 then t
      else if !crselMay k space num (v.testBit 30) t then t.put DBG_CRSEL_ERR 1 k.val
      else if v.testBit 30 then crWrite k space num (BitVec.ofNat 64 ((t.put DBG_CRSEL_ERR 0 k.val).get DBG_CRDATA_DATA k.val))
        (t.put DBG_CRSEL_ERR 0 k.val)
      else (t.put DBG_CRSEL_ERR 0 k.val).put DBG_CRDATA_DATA (crRead k space num (t.put DBG_CRSEL_ERR 0 k.val)).toNat k.val := by
  obtain ⟨hslice, hslicenum⟩ := slice_crsel v
  unfold crselWrite
  extract_lets n sp nm wr u cleared
  have hsp : sp = space := hslice.trans hspace
  have hnm : nm = num := hslicenum.trans hnum
  have hu : u = t := by
    rw [← ht, ← hsp, ← hnm]
  clear_value sp nm u
  subst hsp hnm hu
  rw [crselRefused_eq]

theorem crselAccess_writes (h : s.regAbsent DBG_CRSEL k.val = false) (v : Word32) :
    exec (.crselAccess 0 k v) s = .next ((crselWrite k v.toNat s).answer (.ok 0)) := by
  refine (dbgRow_seatZero ..).trans ?_
  rw [dbgWrite_crsel h]

end Rows

/-! ### The debug domain and the TAP (R583 to R585) -/

section Domain
variable {s : State}

/-- A word is read from the register store alone. -/
theorem word_of_regs {t : State} (h : t.regs = s.regs) (a : Nat) : t.word a = s.word a := by
  rw [State.word, h, State.word]

theorem resetDebug_word (s : State) {a : Nat} (ha : inDbg a = true) : (resetDebug s).word a = (resetWord a).toNat := by
  unfold resetDebug
  extract_lets ended resumed asked cleared
  have hcleared : cleared.word a = (resetWord a).toNat := (clearRegs_word ..).trans (if_pos ha)
  clear_value cleared
  exact (word_of_regs rfl a).trans hcleared

section Access
variable {ofs : BitVec 16} {d : Word32}

/-- The TAP may access the word. -/
def tapMay (ofs : BitVec 16) (s : State) : Prop := (s.lifeCycle = lcMaker ∨ s.granted ≠ 0) ∧ ofs.toNat % 4 = 0

theorem dbgacc_shut (w : Bool) (h : ¬ DebugOpen s) : exec (.dbgacc w ofs d) s = .next s := by
  change execDbgacc w ofs d s = _
  rw [execDbgacc, if_pos (debugShut_iff.mpr h)]

variable (hopen : DebugOpen s)
include hopen

theorem tapRefused_iff : (!s.tapAccess || decide (ofs.toNat % 4 ≠ 0)) = true ↔ ¬ tapMay ofs s := by
  obtain ⟨-, hprovision, hend⟩ := hopen
  have haccess : s.tapAccess = true ↔ s.lifeCycle = lcMaker ∨ s.granted ≠ 0 := by
    simp [State.tapAccess, hprovision, hend]
  rw [tapMay, ← haccess, not_and_or, Bool.or_eq_true, Bool.not_eq_true', decide_eq_true_eq, Bool.not_eq_true]

theorem dbgacc_refused (w : Bool) (h : ¬ tapMay ofs s) :
    exec (.dbgacc w ofs d) s = .next { s.answer .error with tapRefused := true } := by
  change execDbgacc w ofs d s = _
  rw [execDbgacc, if_neg (mt debugShut_iff.mp (not_not.mpr hopen)), if_pos ((tapRefused_iff hopen).mpr h)]

variable (hmay : tapMay ofs s)
include hmay

theorem dbgacc_writes : exec (.dbgacc true ofs d) s =
    .next { (dbgWrite (0x20160000 + ofs.toNat) d.toNat s).answer (.ok 0) with tapRefused := false } := by
  change execDbgacc true ofs d s = _
  rw [execDbgacc, if_neg (mt debugShut_iff.mp (not_not.mpr hopen)),
    if_neg (mt (tapRefused_iff hopen).mp (not_not.mpr hmay))]
  rfl

theorem dbgacc_reads {v : Nat} {t : State} (h : wordRead 0 (0x20160000 + ofs.toNat) .none false s = (.ok v, t)) :
    exec (.dbgacc false ofs d) s =
      .next { t.answer (.ok (BitVec.ofNat 64 v)) with tapData := BitVec.ofNat 32 v, tapRefused := false } := by
  change execDbgacc false ofs d s = _
  rw [execDbgacc, if_neg (mt debugShut_iff.mp (not_not.mpr hopen)),
    if_neg (mt (tapRefused_iff hopen).mp (not_not.mpr hmay))]
  simp only [h]
  rfl

end Access

theorem extest_drives {v : BitVec 959} (hdbg : s.vddDbg = true) (hlc : s.lifeCycle = lcMaker) :
    exec (.extest v) s = .next { s with boundary := some v } := by
  change execExtest v s = _
  rw [execExtest, if_pos (by simp [hdbg, hlc])]

theorem extest_idle {v : BitVec 959} (h : s.vddDbg = false ∨ s.lifeCycle ≠ lcMaker) : exec (.extest v) s = .next s := by
  change execExtest v s = _
  rw [execExtest, if_neg (by rcases h with h | h <;> simp [h])]

end Domain

/-- Settles O52: each right is a condition of the branch that it opens, and a core that halts or goes on is given by its own equation. -/
theorem debugRightsAndHalts : Obligations.DebugRightsAndHalts := by
  unfold Obligations.DebugRightsAndHalts
  refine ⟨fun r s => ?requests, fun seat by_ s => ⟨rfl, grantEndWrite_customer, grantEndWrite_ends, grantEndWrite_idle, endGrant_none⟩,
    fun k s h => ⟨dbgHaltreq_requests h, dbgResume_resumes h, dbgStep_steps h⟩, fun k s => ?halts, mayHalt_iff, fun k s => ?boundary,
    fun k v s h => ?crsel, fun k by_ v s h => debugRows_customer v h, fun s => ⟨rfl, rfl, rfl, fun a => resetDebug_word s⟩,
    fun w ofs d s => ?access, fun v s => ⟨extest_drives, extest_idle⟩⟩
  case requests =>
    refine ⟨dbgauth_shut, fun ho hp => ?_, fun ho hp => ?_, fun hp => ?_, nonceOffer_offers s⟩
    · rw [dbgauth_open ho, signedRequest_passes hp]
      rfl
    · rw [dbgauth_open ho, signedRequest_fails hp]
    · obtain ⟨hheld, hserial, hlow, hhigh, hscope⟩ := requestPasses_fields hp
      exact ⟨hheld, hserial, hlow, hhigh,
        fun hlc => hlc.elim (fun h => requestScope_development h hscope) (fun h => (requestScope_field h hscope).1),
        fun hlc => (requestScope_field hlc hscope).2⟩
  case halts =>
    refine ⟨requestHalt_requests, requestHalt_refused, fun b => ⟨resumeWrite_refused b, fun hrun hmine => ⟨fun hf => ?_, fun hf => ?_⟩⟩,
      fun b => ?_⟩
    · rw [resumeWrite_halted b hrun hmine, if_pos hf]
    · rw [resumeWrite_halted b hrun hmine, if_neg hf]
    · rw [resumeCore_core]
      exact ⟨rfl, rfl, rfl⟩
  case boundary =>
    refine ⟨debugHalt_idle, fun hdbg hreq hruns hmicro => ⟨debugHalt_waits hdbg hreq hruns hmicro, debugHalt_halts hdbg hreq hruns hmicro⟩,
      ?_⟩
    rw [enterHalt_core]
    exact ⟨rfl, rfl⟩
  case crsel =>
    have hwrites := (crselAccess_writes h v).trans (congrArg (fun t => Host.Outcome.next (State.answer t (.ok 0)))
      (crselWrite_acts rfl rfl rfl))
    refine ⟨fun hgo => hwrites.trans ?_, fun hgo hmay => hwrites.trans ?_, fun hgo hmay => ⟨fun hwr => hwrites.trans ?_,
      fun hwr => hwrites.trans ?_⟩⟩
    · rw [if_pos (by simp [hgo])]
    · rw [if_neg (by simp [hgo]), if_pos (crselRefused_of_not hmay)]
    · rw [if_neg (by simp [hgo]), if_neg (crselTaken_of_may hmay), if_pos hwr]
    · rw [if_neg (by simp [hgo]), if_neg (crselTaken_of_may hmay), if_neg (by simp [hwr])]
  case access =>
    exact ⟨dbgacc_shut w, fun ho => dbgacc_refused ho w, dbgacc_writes, fun v t ho hm => dbgacc_reads ho hm⟩

end Sys2Proof.Proofs
end

section
/-!
PROOFS. Debug memory accesses, cross-triggers and trace (R595 to R602): an access that starts and ends, channels that reach cores,
stimulus packets, units and regions.
-/

namespace Sys2Proof.Proofs

open Sys2Proof.Machine Sys2Proof.Laws

/-! ### A debug memory access starts (R596) -/

section Start
variable {s : State} {v : Nat}

theorem regAt_damctl : regAt DBG_DAMCTL.base = some DBG_DAMCTL ∧ DBG_DAMCTL.place DBG_DAMCTL.base = (0, 0, 0) := by decide +kernel

theorem damctl_apart : DBG_DAMCTL ≠ DBG_CTL ∧ DBG_DAMCTL ≠ DBG_GRANT := by decide

theorem dbgWrite_damctl (h : s.regAbsent DBG_DAMCTL 0 = false) (v : Nat) : dbgWrite DBG_DAMCTL.base v s = damctlWrite v s := by
  obtain ⟨hreg, hplace⟩ := regAt_damctl
  obtain ⟨hctl, hgrant⟩ := damctl_apart
  unfold dbgWrite
  simp only [hreg, hplace]
  rw [if_neg (Bool.eq_false_iff.mp h), if_neg hctl, if_neg hgrant, if_pos trivial]

theorem damGo_writes (h : s.regAbsent DBG_DAMCTL 0 = false) (v : Word32) {t : State} (ht : damctlWrite v.toNat s = t) :
    exec (.damGo 0 v) s = .next (t.answer (.ok 0)) := by
  refine (dbgRow_seatZero ..).trans ?_
  rw [dbgWrite_damctl h, ht]

theorem damctlWrite_busy (h : s.flag DBG_DAMCTL_BUSY = true) : damctlWrite v s = s := by
  rw [damctlWrite, if_pos h]

/-- The rights and the alignment of the access that DAMCTL and DAMADDR name. -/
def damStarts (t : State) : Bool :=
  t.damAllowed (t.get DBG_DAMCTL_SEAT) (t.flag DBG_DAMCTL_WR) && t.get DBG_DAMADDR_ADDR % 2 ^ t.get DBG_DAMCTL_SIZE == 0

theorem damStarts_iff (t : State) : damStarts t = true ↔
    t.damAllowed (t.get DBG_DAMCTL_SEAT) (t.flag DBG_DAMCTL_WR) = true ∧ t.get DBG_DAMADDR_ADDR % 2 ^ t.get DBG_DAMCTL_SIZE = 0 := by
  simp only [damStarts, Bool.and_eq_true, beq_iff_eq]

section Free
variable (hbusy : s.flag DBG_DAMCTL_BUSY = false) {t : State} (ht : writeFields 0 DBG_DAMCTL 0 0 v 0xFFFFFFFF s = t)
include hbusy ht

theorem damctlWrite_free : damctlWrite v s = if !v.testBit 31 then t
    else (t.put DBG_DAMCTL_ERR (bit (!damStarts t))).put DBG_DAMCTL_BUSY (bit (damStarts t)) := by
  rw [damctlWrite, if_neg (Bool.eq_false_iff.mp hbusy), ht]
  rfl

theorem damctlWrite_settings (hgo : v.testBit 31 = false) : damctlWrite v s = t := by
  rw [damctlWrite_free hbusy ht, hgo, Bool.not_false, if_pos rfl]

theorem damctlWrite_starts (hgo : v.testBit 31 = true) (hok : damStarts t = true) :
    damctlWrite v s = (t.put DBG_DAMCTL_ERR 0).put DBG_DAMCTL_BUSY 1 := by
  rw [damctlWrite_free hbusy ht, hgo, hok]
  rfl

theorem damctlWrite_refuses (hgo : v.testBit 31 = true) (hok : damStarts t = false) :
    damctlWrite v s = (t.put DBG_DAMCTL_ERR 1).put DBG_DAMCTL_BUSY 0 := by
  rw [damctlWrite_free hbusy ht, hgo, hok]
  rfl

end Free

theorem damAllowed_iff (n : Nat) (w : Bool) (s : State) : s.damAllowed n w = true ↔ s.lifeCycle = lcMaker ∨ s.lifeCycle = lcReturn ∨
    (s.lifeCycle = lcDevelopment ∧ n = 0 ∧ w = false) ∨ (1 ≤ n ∧ s.flag DBG_GRANT_VALID n = true ∧ s.flag DBG_GRANT_MEM n = true) := by
  simp only [State.damAllowed, Bool.or_eq_true, Bool.and_eq_true, beq_iff_eq, Bool.not_eq_true', decide_eq_true_eq, and_assoc, or_assoc]

end Start

/-! ### A debug memory access ends (R596, R597) -/

section Complete
variable {s : State}

theorem damComplete_idle (h : s.flag DBG_DAMCTL_BUSY = false ∨ s.vddDbg = false) : exec .damComplete s = .next s := by
  change execDamComplete s = _
  rw [execDamComplete, if_pos (by rcases h with h | h <;> simp [h])]

/-- The access that stands in the registers ends with `e` in ERR. -/
def damEnds (e : Nat) (t : State) : State := (t.put DBG_DAMCTL_BUSY 0).put DBG_DAMCTL_ERR e

/-- The answer to the access, as it ends. -/
def damAnswered (wr : Bool) (s : State) (x : BusAns × State) : Result :=
  match x with
  | (r, t) => match r with
    | .wait => .next s
    | .ok v => .next (if wr then damEnds 0 t else (damEnds 0 t).put DBG_DAMDATA_DATA v)
    | _ => .next (damEnds 1 t)

/-- The access that the DAM makes, past its rights and the seat table. -/
def damAccess (s : State) (seat : Nat) (wr : Bool) : BusAns × State :=
  if !s.damAllowed seat wr then (BusAns.error, s)
  else match checkSeat seat (s.get DBG_DAMADDR_ADDR) (if wr then .write else .read) s with
    | .wait => (BusAns.wait, s)
    | .fault _ _ => (BusAns.error, s)
    | .ok _ => if wr then damWrite seat (s.get DBG_DAMADDR_ADDR) (2 ^ s.get DBG_DAMCTL_SIZE)
        (s.get DBG_DAMDATA_DATA % 2 ^ (8 * 2 ^ s.get DBG_DAMCTL_SIZE)) s
      else damRead seat (s.get DBG_DAMADDR_ADDR) (2 ^ s.get DBG_DAMCTL_SIZE) s

section Runs
variable (hbusy : s.flag DBG_DAMCTL_BUSY = true) (hdbg : s.vddDbg = true)
include hbusy hdbg

theorem damComplete_ends : exec .damComplete s =
    damAnswered (s.flag DBG_DAMCTL_WR) s (damAccess s (s.get DBG_DAMCTL_SEAT) (s.flag DBG_DAMCTL_WR)) := by
  change execDamComplete s = _
  unfold execDamComplete
  rw [if_neg (by simp [hbusy, hdbg])]
  rfl

/-- How the access ends, by what it answers. -/
theorem damComplete_answers {x : BusAns × State} (hx : damAccess s (s.get DBG_DAMCTL_SEAT) (s.flag DBG_DAMCTL_WR) = x) :
    exec .damComplete s = damAnswered (s.flag DBG_DAMCTL_WR) s x := by
  rw [damComplete_ends hbusy hdbg, hx]

end Runs

section Answers
variable {seat : Nat} {wr : Bool} {t : State} {v : Nat}

theorem damAnswered_fails {a : BusAns} (h : a = .error ∨ a = .poison) : damAnswered wr s (a, t) = .next (damEnds 1 t) := by
  rcases h with rfl | rfl <;> rfl

theorem damAnswered_reads (h : wr = false) : damAnswered wr s (.ok v, t) = .next ((damEnds 0 t).put DBG_DAMDATA_DATA v) :=
  congrArg Host.Outcome.next (if_neg (Bool.eq_false_iff.mp h))

theorem damAnswered_writes (h : wr = true) : damAnswered wr s (.ok v, t) = .next (damEnds 0 t) :=
  congrArg Host.Outcome.next (if_pos h)

theorem damAccess_forbidden (h : s.damAllowed seat wr = false) : damAccess s seat wr = (.error, s) := by
  rw [damAccess, if_pos (by simp [h])]

variable (hallowed : s.damAllowed seat wr = true)
include hallowed

theorem damAccess_faults {l : Nat} {r : Nat} (h : checkSeat seat (s.get DBG_DAMADDR_ADDR) (if wr then .write else .read) s = .fault l r) :
    damAccess s seat wr = (.error, s) := by
  rw [damAccess, if_neg (by simp [hallowed]), h]

variable {l : S2Leaf} (h : checkSeat seat (s.get DBG_DAMADDR_ADDR) (if wr then .write else .read) s = .ok l)
include h

theorem damAccess_reads (hwr : wr = false) :
    damAccess s seat wr = damRead seat (s.get DBG_DAMADDR_ADDR) (2 ^ s.get DBG_DAMCTL_SIZE) s := by
  rw [damAccess, if_neg (by simp [hallowed]), h]
  exact if_neg (by simp [hwr])

theorem damAccess_writes (hwr : wr = true) : damAccess s seat wr = damWrite seat (s.get DBG_DAMADDR_ADDR) (2 ^ s.get DBG_DAMCTL_SIZE)
    (s.get DBG_DAMDATA_DATA % 2 ^ (8 * 2 ^ s.get DBG_DAMCTL_SIZE)) s := by
  rw [damAccess, if_neg (by simp [hallowed]), h]
  exact if_pos hwr

end Answers

section Peek
variable {seat pa n : Nat} (hpeek : s.flag DBG_CTL_PEEK = true)
include hpeek

theorem damRead_remote (h : isRemote pa = true) : damRead seat pa n s = (.ok 0, s.put DBG_STAT_NOPEEK 1) := by
  unfold damRead
  extract_lets peek
  simp [peek, hpeek, h]

theorem damRead_peeks (hlocal : isRemote pa = false) (hframe : isLegacyFrame pa = false) :
    damRead seat pa n s = busRead seat pa n .none true s := by
  unfold damRead
  extract_lets peek
  simp [peek, hpeek, hlocal, hframe]

end Peek

end Complete

/-! ### Cross-triggers (R598) -/

section Triggers
variable {s : State} {c : Nat} {rest : List Nat}

theorem bitOf_of_regs {t : State} (h : t.regs = s.regs) (f : Fld) (b i : Nat) : t.bitOf f b i = s.bitOf f b i := by
  rw [State.bitOf, get_congr s f i 0 t h, State.bitOf]

theorem mayHalt_of_regs {t : State} (h : t.regs = s.regs) (n : Nat) : t.mayHalt n = s.mayHalt n := by
  simp only [State.mayHalt, State.lifeCycle, get_congr s _ _ _ t h, flag_congr s _ _ _ t h]

/-- A core's seat depends on the registers, its run state and its seat register. -/
theorem debugSeat_of {t : State} {k : CoreId} (h : t.regs = s.regs) (hrun : (t.core k).run = (s.core k).run)
    (hseat : (t.core k).seatid = (s.core k).seatid) : t.debugSeat k = s.debugSeat k := by
  have hstate : t.cState k.val = s.cState k.val := get_congr s _ _ _ t h
  have howner : t.coreOwner k.val = s.coreOwner k.val := get_congr s _ _ _ t h
  rw [State.debugSeat, hstate, howner, hrun, hseat, State.debugSeat]

/-- Channel `c` reaches core `k`. -/
def triggerHalt (c : Nat) (t : State) (k : CoreId) : State := if t.bitOf DBG_CCTL_TRIGIN c k.val then requestHalt k t else t

/-- Channel `c` reaches every core. -/
def triggerHalts (c : Nat) (s : State) : State := (List.finRange 32).foldl (triggerHalt c) s

theorem triggerHalts_none (h : ∀ k < 32, s.bitOf DBG_CCTL_TRIGIN c k = false) : triggerHalts c s = s :=
  List.foldl_fixed' (fun k => if_neg (Bool.eq_false_iff.mp (h k.val k.isLt))) _

theorem triggerHalt_regs (c : Nat) (k : CoreId) (t : State) : (triggerHalt c t k).regs = t.regs := by
  unfold triggerHalt requestHalt
  split_ifs <;> rfl

theorem triggerHalts_regs (c : Nat) (s : State) : (triggerHalts c s).regs = s.regs :=
  foldl_keeps (fun t => t.regs) (fun k _ t => triggerHalt_regs c k t) s

/-- A core that a channel reaches, or another, is unchanged but for its halt request. -/
theorem triggerHalt_core (c : Nat) (j k : CoreId) (t : State) : ((triggerHalt c t j).core k) = t.core k ∨
    ((triggerHalt c t j).core k) = { t.core k with haltReq := true } := by
  unfold triggerHalt requestHalt
  by_cases hjk : k = j
  · subst hjk
    split_ifs
    · exact .inr (core_mapCore ..)
    · exact .inl rfl
    · exact .inl rfl
  · refine .inl ?_
    split_ifs
    · exact core_mapCore_other _ _ _ _ hjk
    · rfl
    · rfl

/-- Channel `c` halts core `k`. -/
def Triggered (c : Nat) (k : CoreId) (t : State) : Prop :=
  t.bitOf DBG_CCTL_TRIGIN c k.val = true ∧ t.mayHalt (t.debugSeat k) = true ∧ (t.core k).run = .running

theorem triggered_kept {k : CoreId} {t : State} (j : CoreId) (h : Triggered c k t) : Triggered c k (triggerHalt c t j) := by
  obtain ⟨hbit, hmay, hrun⟩ := h
  have hregs := triggerHalt_regs c j t
  have hcore : ((triggerHalt c t j).core k).run = (t.core k).run ∧ ((triggerHalt c t j).core k).seatid = (t.core k).seatid := by
    rcases triggerHalt_core c j k t with h | h <;> rw [h] <;> exact ⟨rfl, rfl⟩
  refine ⟨?_, ?_, hcore.1.trans hrun⟩
  · rwa [bitOf_of_regs hregs]
  · rwa [mayHalt_of_regs hregs, debugSeat_of hregs hcore.1 hcore.2]

theorem haltReq_kept {k : CoreId} {t : State} (j : CoreId) (h : (t.core k).haltReq = true) :
    ((triggerHalt c t j).core k).haltReq = true := by
  rcases triggerHalt_core c j k t with hcore | hcore <;> rw [hcore]
  exact h

theorem triggerHalt_asks {k : CoreId} {t : State} (h : Triggered c k t) : ((triggerHalt c t k).core k).haltReq = true := by
  obtain ⟨hbit, hmay, hrun⟩ := h
  rw [triggerHalt, if_pos hbit, requestHalt_requests ⟨hmay, by simp [hrun], by simp [hrun]⟩, core_mapCore]

theorem haltReq_foldl {k : CoreId} : ∀ (l : List CoreId) {t : State}, (t.core k).haltReq = true →
    ((l.foldl (triggerHalt c) t).core k).haltReq = true
  | [], _, h => h
  | j :: l, _, h => haltReq_foldl l (haltReq_kept j h)

theorem foldl_triggered {k : CoreId} {l : List CoreId} (hk : k ∈ l) {t : State} (h : Triggered c k t) :
    ((l.foldl (triggerHalt c) t).core k).haltReq = true := by
  induction l generalizing t with
  | nil => exact absurd hk List.not_mem_nil
  | cons j l ih =>
    rcases List.mem_cons.mp hk with rfl | hl
    · exact haltReq_foldl l (triggerHalt_asks h)
    · exact ih hl (triggered_kept j h)

theorem triggerHalts_asks {k : CoreId} (h : Triggered c k s) : ((triggerHalts c s).core k).haltReq = true :=
  foldl_triggered (List.mem_finRange k) h

theorem crossTrigger_idle (h : s.channels = []) : exec .crossTrigger s = .next s := by
  change execCrossTrigger s = _
  simp only [execCrossTrigger, h]

/-- Channel `c` reaches its cores, its lanes and the ball. -/
def channelActs (c : Nat) (s : State) : State :=
  let t := triggerHalts c s
  let u := t.each [0, 1, 2, 3] (fun g t => if t.bitOf DBG_LGXT_CHAN c g then
    stopLanes g (((List.range 16).filter (fun i => t.bitOf DBG_LGXT_LANES i g && t.mayHalt (t.laneOwner (16 * g + i)))).map
      (2 ^ ·)).sum t
    else t)
  if u.flag DBG_CTL_EXTOUTEN && u.get DBG_CTL_EXTOUT == c then { u with trigOut := 4 } else u

theorem crossTrigger_acts (h : s.channels = c :: rest) : exec .crossTrigger s = .next (channelActs c { s with channels := rest }) := by
  change execCrossTrigger s = _
  unfold execCrossTrigger
  rw [h]
  rfl

/-- A channel that reaches no lane pulses the ball where it is the ball's channel. -/
theorem channelActs_noLanes {t : State} (ht : triggerHalts c s = t) (hlanes : ∀ g < 4, t.bitOf DBG_LGXT_CHAN c g = false) :
    channelActs c s = if t.flag DBG_CTL_EXTOUTEN && t.get DBG_CTL_EXTOUT == c then { t with trigOut := 4 } else t := by
  unfold channelActs
  extract_lets u v
  have hu : u = t := ht
  have hv : v = u := each_eq_self fun g hg => by
    have hfree : u.bitOf DBG_LGXT_CHAN c g = false := by
      rw [hu]
      exact hlanes g (by simp at hg; omega)
    exact if_neg (Bool.eq_false_iff.mp hfree)
  clear_value v
  subst hv
  rw [hu]

theorem crossTrigger_reaches (h : s.channels = c :: rest) {t : State} (ht : triggerHalts c { s with channels := rest } = t)
    (hlanes : ∀ g < 4, t.bitOf DBG_LGXT_CHAN c g = false) : exec .crossTrigger s =
      .next (if s.flag DBG_CTL_EXTOUTEN = true ∧ s.get DBG_CTL_EXTOUT = c then { t with trigOut := 4 } else t) := by
  have hregs : t.regs = s.regs := ht ▸ triggerHalts_regs c _
  rw [crossTrigger_acts h, channelActs_noLanes ht hlanes, flag_congr s _ _ _ t hregs, get_congr s _ _ _ t hregs]
  simp only [Bool.and_eq_true, beq_iff_eq]

theorem dbgTrigin_raises (s : State) : exec .dbgTrigin s = .next (if s.vddDbg = true ∧ s.flag DBG_CTL_EXTINEN = true then
    { s with channels := s.channels ++ [s.get DBG_CTL_EXTIN] } else s) := by
  change execDbgTrigin s = _
  simp only [execDbgTrigin, Bool.and_eq_true]

end Triggers

/-! ### Trace (R600 to R602) -/

section Trace
variable {s : State}

theorem push_fits {f : TraceFifo} {seat : Nat} {p : List Byte} (hlost : f.lost = 0)
    (h : ((f.packets ++ [(seat, p)]).map (fun q => q.2.length)).sum ≤ 2048) :
    f.push seat p = { f with packets := f.packets ++ [(seat, p)], lost := 0, count := f.count + 1 } := by
  unfold TraceFifo.push
  simp only [if_pos hlost, List.nil_append]
  exact if_pos h

theorem push_loses {f : TraceFifo} {seat : Nat} {p : List Byte} (hlost : f.lost = 0)
    (h : 2048 < ((f.packets ++ [(seat, p)]).map (fun q => q.2.length)).sum) : f.push seat p = { f with lost := 1 } := by
  unfold TraceFifo.push
  simp only [if_pos hlost, List.nil_append]
  rw [if_neg (Nat.not_le.mpr h), hlost]

section Stim
variable {seat : Seat} {port : Fin 16} {v : Word32}

/-- The packet of a stimulus write. -/
def stimPacket (port v : Nat) (s : State) : List Byte := BitVec.ofNat 8 (0x80 + port) :: bytesOf v 4 ++ bytesOf (s.get TBS_NOW_NS) 4

theorem stimWrite_emits (h : s.flag TRC_SCTL_STIM seat.val = true) : stimWrite seat.val port.val v.toNat s =
    { s with trcStim := s.trcStim.set seat (s.trcStim[seat].push seat.val (stimPacket port.val v.toNat s)) } := by
  have hfifo : s.trcStim[seat.val]! = s.trcStim[seat] := getElem!_pos s.trcStim seat.val seat.isLt
  rw [stimWrite, if_pos h, hfifo]
  extract_lets p
  rw [set!_fin]
  rfl

theorem traceStimWrite_emits (hseat : seat.val ≠ 0) (h : s.flag TRC_SCTL_STIM seat.val = true) :
    exec (.traceStimWrite seat seat port v) s = .next (State.answer { s with
      trcStim := s.trcStim.set seat (s.trcStim[seat].push seat.val (stimPacket port.val v.toNat s)) } (.ok 0)) := by
  have hne : seat ≠ 0 := fun h => hseat (congrArg Fin.val h)
  refine pageWrite_does (.inr rfl) ?_
  rw [if_neg hne, stimWrite_emits h]

theorem traceStimWrite_idle (h : seat.val = 0 ∨ s.flag TRC_SCTL_STIM seat.val = false) :
    exec (.traceStimWrite seat seat port v) s = .next (s.answer (.ok 0)) := by
  refine pageWrite_does (.inr rfl) ?_
  rcases h with h | h
  · rw [if_pos (Fin.ext h), id]
  · split_ifs
    · rfl
    · rw [stimWrite, if_neg (Bool.eq_false_iff.mp h)]

theorem traceStimWrite_foreign {by_ : Seat} (h : by_ ≠ 0) (hne : by_ ≠ seat) :
    exec (.traceStimWrite by_ seat port v) s = .next (s.answer .error) :=
  pageWrite_foreign h (fun he => hne (Fin.ext he)) _ s

end Stim

section Units
variable {src : TraceSource} {seat : Nat} {x : List Byte} {rest : List (Nat × List Byte)} {bytes : List Byte} {t : State}

theorem traceUnitWrite_idle (h : (s.traceFifo src).packets = []) : exec (.traceUnitWrite src) s = .next s := by
  change execTraceUnitWrite src s = _
  simp only [execTraceUnitWrite, h]

theorem traceUnitWrite_sends (h : (s.traceFifo src).packets = (seat, x) :: rest) {u : List Byte × List (Nat × List Byte)}
    (hu : unitPackets seat 63 (s.traceFifo src).packets = u) : exec (.traceUnitWrite src) s =
      .next (sendUnit seat (sourceByte src :: u.1 ++ List.replicate (63 - u.1.length) 0xFF) s
        (s.setTraceFifo src { s.traceFifo src with packets := u.2 })) := by
  rw [h] at hu
  change execTraceUnitWrite src s = _
  unfold execTraceUnitWrite
  simp only [h, hu]

theorem sendUnit_port (hseat : seat ≠ 0) (hport : s.flag TRC_SCTL_PORT seat = true) (h : s.get TRC_PCTL_OWNER = seat ∧
    s.flag TRC_PCTL_EN = true) : sendUnit seat bytes s t = { t with traceSent := bytes } := by
  obtain ⟨howner, hen⟩ := h
  unfold sendUnit
  extract_lets r
  rw [if_pos (by simp [hseat, hport]), if_pos (by simp [howner, hen])]

theorem sendUnit_noPort (hseat : seat ≠ 0) (hport : s.flag TRC_SCTL_PORT seat = true) (h : ¬ (s.get TRC_PCTL_OWNER = seat ∧
    s.flag TRC_PCTL_EN = true)) : sendUnit seat bytes s t = t := by
  unfold sendUnit
  extract_lets r
  rw [if_pos (by simp [hseat, hport]), if_neg (by simpa using h)]

section Region
variable (hseat : seat = 0 ∨ s.flag TRC_SCTL_PORT seat = false)
include hseat

theorem sendUnit_region : sendUnit seat bytes s t = if s.regionTakes seat (s.get TRC_SCTL_REGION seat) = false then t
    else unitWritten (s.get TRC_SCTL_REGION seat) s (dmaWrite seat (s.get TRC_RWP_ADDR (s.get TRC_SCTL_REGION seat) * 64) 64
      (bytes.foldr (fun b v => b.toNat + 256 * v) 0) t) := by
  unfold sendUnit
  extract_lets r
  rw [if_neg (by rcases hseat with h | h <;> simp [h])]
  simp only [Bool.not_eq_true', r]

end Region

theorem regionAdvance_next {r : Nat} (h : s.get TRC_RWP_ADDR r ≠ s.get TRC_RLIM_ADDR r) :
    regionAdvance r s = s.put TRC_RWP_ADDR (s.get TRC_RWP_ADDR r + 1) r := if_neg h

theorem regionAdvance_limit {r : Nat} (h : s.get TRC_RWP_ADDR r = s.get TRC_RLIM_ADDR r) : regionAdvance r s =
    if s.flag TRC_RCTL_WRAP r then (s.put TRC_RWP_ADDR (s.get TRC_RBASE_ADDR r) r).put TRC_RCTL_WRAPPED 1 r
    else { s with trcStopped := s.trcStopped ||| 1#8 <<< r } := if_pos h

end Units

end Trace

/-- Settles O53: each access, channel, packet and unit goes the one way that its rights and settings open. -/
theorem debugMemoryAndTrace : Obligations.DebugMemoryAndTrace := by
  unfold Obligations.DebugMemoryAndTrace
  refine ⟨fun v s h => ?damGo, damAllowed_iff, fun s => ?damComplete, fun seat pa n s hp => ⟨damRead_remote hp, damRead_peeks hp⟩,
    fun s => ?crossTrigger, fun seat port v s => ⟨traceStimWrite_emits, traceStimWrite_idle, fun by_ => traceStimWrite_foreign⟩,
    fun f seat p hlost => ⟨push_fits hlost, push_loses hlost⟩, fun src s => ⟨traceUnitWrite_idle, fun seat x rest h => ?unit⟩,
    fun r v s u => ⟨rfl, regionAdvance_next, fun hlim => ⟨fun hwrap => ?_, fun hwrap => ?_⟩⟩⟩
  case damGo =>
    have hwrites (t : State) (ht : damctlWrite v.toNat s = t) := damGo_writes h v ht
    refine ⟨fun hbusy => hwrites _ (damctlWrite_busy hbusy), fun hbusy => ⟨fun hgo => hwrites _ (damctlWrite_settings hbusy rfl hgo),
      fun hgo hok => hwrites _ (damctlWrite_starts hbusy rfl hgo ((damStarts_iff _).mpr hok)),
      fun hgo hok => hwrites _ (damctlWrite_refuses hbusy rfl hgo (Bool.eq_false_iff.mpr (mt (damStarts_iff _).mp hok)))⟩,
      fun by_ hby => dbgRow_customer hby ..⟩
  case damComplete =>
    refine ⟨damComplete_idle, fun hbusy hdbg => ⟨fun hno => ?_, fun hyes => ⟨fun l r hf => ?_, fun l hok => ⟨fun v t hwr hx => ?_,
      fun v t hwr hx => ?_, fun a t ha hwr hx => ?_⟩⟩⟩⟩
    · rw [damComplete_answers hbusy hdbg (damAccess_forbidden hno), damAnswered_fails (.inl rfl), damEnds]
    · rw [damComplete_answers hbusy hdbg (damAccess_faults hyes hf), damAnswered_fails (.inl rfl), damEnds]
    · rw [damComplete_answers hbusy hdbg ((damAccess_reads hyes hok hwr).trans hx), damAnswered_reads hwr, damEnds]
    · rw [damComplete_answers hbusy hdbg ((damAccess_writes hyes hok hwr).trans hx), damAnswered_writes hwr, damEnds]
    · rw [damComplete_answers hbusy hdbg ((damAccess_reads hyes hok hwr).trans hx), damAnswered_fails ha, damEnds]
  case crossTrigger =>
    refine ⟨crossTrigger_idle, fun c rest hc hcores hlanes => ?_, fun c rest hc hlanes hout => ⟨?_, fun k hbit hmay hrun => ?_⟩,
      dbgTrigin_raises s⟩
    · have hacts := crossTrigger_reaches hc (triggerHalts_none (s := { s with channels := rest }) hcores) hlanes
      refine ⟨fun hball => hacts.trans ?_, fun hball => hacts.trans ?_⟩
      · rw [if_pos hball]
      · rw [if_neg hball]
    · exact (crossTrigger_reaches hc rfl hlanes).trans (by rw [if_neg (by simp [hout])]; rfl)
    · exact triggerHalts_asks (s := { s with channels := rest }) ⟨hbit, hmay, hrun⟩
  case unit =>
    have hsends := traceUnitWrite_sends h rfl
    refine ⟨fun hseat hport => ⟨fun howned => hsends.trans ?_, fun hfree => hsends.trans ?_⟩,
      fun hseat => ⟨fun hno => hsends.trans ?_, fun htakes => hsends.trans ?_⟩⟩
    · rw [sendUnit_port hseat hport howned]
    · rw [sendUnit_noPort hseat hport hfree]
    · rw [sendUnit_region hseat, if_pos hno]
    · rw [sendUnit_region hseat, if_neg (by simp [htakes])]
  · rw [regionAdvance_limit hlim, if_pos hwrap]
  · rw [regionAdvance_limit hlim, if_neg (Bool.eq_false_iff.mp hwrap)]

end Sys2Proof.Proofs
end
